-- ==== Sys2Proof/Word.lean ====
section
/-! DEFINITION. The word types of the device and their plainest arithmetic: bytes (R8), 72-bit wick words (R257), unit IDs (R15). -/

namespace Sys2Proof

/-- A byte of a byte string (R8). -/
abbrev Byte := BitVec 8

/-- A byte string, first byte first (R8). -/
abbrev Bytes := List (BitVec 8)

/-- A 72-bit wick word (R257). -/
abbrev Word72 := BitVec 72

/-- A unit ID: class in bits [15:10], index in bits [9:0] (R15). -/
abbrev UnitId := BitVec 16

end Sys2Proof
end

