-- ==== Sys2Proof/Syntax.lean ====
section
/-! DEFINITION. The commands of the device, one constructor for each row of the operation table, and the types of their operands. -/

namespace Sys2Proof

/-- The four ways a dictionary operation reaches its server (R527, R541, R548): HOP without a session, HOP inside a session, the mailbox of a slice, and the firmware itself. -/
inductive Path where
  | hopPlain
  | hopSession (session : BitVec 32)
  | mailbox (slice : Fin 512)
  | firmware
  deriving DecidableEq, Repr

/-- A ring entry: eight little-endian words w0 to w7 (R75, R76). -/
structure RingEntry where
  w0 : BitVec 64
  w1 : BitVec 64
  w2 : BitVec 64
  w3 : BitVec 64
  w4 : BitVec 64
  w5 : BitVec 64
  w6 : BitVec 64
  w7 : BitVec 64
  deriving DecidableEq, Repr

/-- What the device reads from host memory for one job: the bytes behind key references KEY_A to KEY_D of kinds 2h and 3h (R67, R69), those behind the recipients' PUBLIC_KEY references (R66), and the input at IN_ADDR (R76). -/
structure HostData where
  keyA : Bytes
  keyB : Bytes
  keyC : Bytes
  keyD : Bytes
  recipients : List Bytes
  input : Bytes
  deriving DecidableEq, Repr

/-- The four function resets of R408. -/
inductive FunctionResetKind where
  | flr
  | hotReset
  | linkDown
  | d3cold
  deriving DecidableEq, Repr

/-- What host software unmasks or enables (R406): one MSI-X vector with the address and data of its table entry, the function, or MSI-X itself. -/
inductive MsixUnmask where
  | vector (v : Fin 2048) (address : BitVec 64) (data : BitVec 32)
  | function
  | enable
  deriving DecidableEq, Repr

/-- What a digester has just finished (R240): a record on a stream, or the input of a job. -/
inductive DigestItem where
  | record (stream : Fin 1024) (received : Bool) (bytes : Bytes)
  | input (job : Nat)
  deriving DecidableEq, Repr

/-- What the SECDED check of a control-store word or of operand-memory words found (R195, R216, R220). -/
inductive EccOutcome where
  | clean
  | single
  | double
  deriving DecidableEq, Repr

/-- What the SECDED codes of the control-store word a taper executes and of the operand words it reads show (R195, R220). -/
structure WordEcc where
  word : EccOutcome
  operands : EccOutcome
  deriving DecidableEq, Repr

/-- The task of a lantern build that ends, and whether its record checked (R163). -/
structure TaskCheck where
  task : Nat
  passed : Bool
  deriving DecidableEq, Repr

/-- The ember whose block ends, and the 512 samples of the block (R485). -/
structure EmberBlock where
  ember : Fin 4
  samples : BitVec 512
  deriving DecidableEq, Repr

/-- What a hub-generated access carries to its channel: the unit it is made for, its area class and its first address (R42, R367). -/
structure HubAccess where
  unit : UnitId
  area : Nat
  address : Nat
  deriving DecidableEq, Repr

/-- A request that arrives at a channel arbiter: its requester (a slice, or none for the device), the crossbar port, the lines it carries, the hub cycle of its arrival (R338, R356, R357), and, of a hub-generated access, what the area check needs (R367). -/
structure ChannelRequest where
  requester : Option (Fin 512)
  port : Nat
  lines : Nat
  arrival : Nat
  access : Option HubAccess
  deriving DecidableEq, Repr

/-- A frame received on a media port, as the checks of R424 and R425 see it (R422). -/
structure VspFrame where
  source : BitVec 48
  vlan : Option (BitVec 12)
  stacked : Bool
  etherType : BitVec 16
  payload : Nat
  minimum : Bool
  version : BitVec 8
  kind : BitVec 8
  stream : BitVec 16
  epoch : BitVec 32
  seq : BitVec 32
  length : BitVec 16
  flags : BitVec 16
  body : Bytes
  deriving DecidableEq, Repr

/-- A received PAUSE frame (one quantum count), or a PFC frame (a quantum count for each enabled priority) (R416). -/
inductive PauseFrame where
  | pause (quanta : BitVec 16)
  | pfc (quanta : List (Fin 8 × BitVec 16))
  deriving DecidableEq, Repr

/-- A frame received on the shelf bus, as R543 and R544 check it. -/
structure HopFrame where
  source : BitVec 48
  destination : BitVec 48
  tagged : Bool
  etherType : BitVec 16
  payload : Nat
  minimum : Bool
  version : BitVec 8
  op : BitVec 8
  flags : BitVec 8
  result : BitVec 8
  session : BitVec 32
  seq : BitVec 32
  index : BitVec 16
  sub : BitVec 8
  rsv15 : BitVec 8
  offset : BitVec 32
  length : BitVec 16
  rsv22 : BitVec 16
  data : Bytes
  tag : Bytes
  deriving DecidableEq, Repr

/-- A HOP requester: its session, or its source address outside a session (R546). -/
inductive Requester where
  | session (number : BitVec 32)
  | address (mac : BitVec 48)
  deriving DecidableEq, Repr

/-- The servers of the dictionary (R528); none in CELL (R36). -/
inductive Server where
  | pilot
  | rom
  | firmware
  deriving DecidableEq, Repr

/-- The writes that change tenancy (R571). -/
inductive TenancyChange where
  | retenant (value : BitVec 8)
  | link (value : BitVec 8)
  | pasid (value : BitVec 32)
  deriving DecidableEq, Repr

/-- The locked regions of R513. -/
inductive DebugRegion where
  | ursRow
  | vault
  | wkr
  | wickSecrets
  | taperMemory
  | sealerKeys
  | keyPath
  | drbg
  | ckStorage
  | mramRecords
  deriving DecidableEq, Repr

/-- Where in a transition an alarm of the tamper block falls (R510): before the keys are destroyed, before the counter, before the fuses of the code copies, or in the critical phase. -/
inductive TransitionPoint where
  | beforeKeys
  | beforeCounter
  | beforeFuses
  | critical
  deriving DecidableEq, Repr

/-- What may happen in a life-cycle transition (R509, R510): a supply is out of its operating range at step 4, a fuse bit still fails after three retries, or a tamper source (by its number less one, with the detail of its record) alarms. -/
inductive TransitionEvent where
  | supplyOut
  | bitFails (copy : Fin 3) (bit : Fin 16)
  | alarm (point : TransitionPoint) (source : Fin 10) (detail : BitVec 32)
  deriving DecidableEq, Repr

/-- One constructor for each row of the operation table; the row's mnemonic is in LAWS.json. -/
inductive Instr where
  /-- R396. A RING doorbell with TAIL starts or continues the scan of a queue's ring from its scan point. -/
  | ring (link : Fin 8) (slice : Fin 512) (queue : Fin 1024) (wellSized : Bool) (value : BitVec 32)
  /-- R398. An INVALIDATE doorbell pauses the queue, discards cached entries, resets the scan point to the fetch point and acknowledges. -/
  | invalidate (link : Fin 8) (slice : Fin 512) (queue : Fin 1024) (wellSized : Bool) (token : BitVec 8) (tail : BitVec 20)
  /-- R399. An ABORT doorbell ends unfetched and uncommitted jobs of a compact queue ABORTED and acknowledges; on a jumbo queue it is refused. -/
  | abort (link : Fin 8) (slice : Fin 512) (queue : Fin 1024) (wellSized : Bool) (token : BitVec 8) (tail : BitVec 20)
  /-- R395. A run of ring entries returns; entries with O set enter the prefetch cache and the scan stops at the first entry with O clear. -/
  | ringReadComplete (slot : Fin 2048) (entries : List RingEntry)
  /-- R396. After 1 µs the device re-reads the entry at which a short doorbell stopped, once. -/
  | shortDoorbellReread (slot : Fin 2048)
  /-- R404. The dispatcher fetches one entry from a ready queue with credit in its round. -/
  | fetch (data : HostData)
  /-- R259. The dispatcher gives an attempt to idle units once they, the session context and the inputs are available. -/
  | attemptStart (job : Nat) (units : List UnitId)
  /-- R72. A session context missing from the cache has been loaded and the job that waited on it starts. -/
  | contextLoadComplete (session : Fin 4096)
  /-- R84. A job commits: its output, then w6 and w0, are written and the head advances when the done prefix allows. -/
  | publication (job : Nat)
  /-- R388. A write of QueueSlot Enable 01h, when the conditions hold, zeroes the status block and sets the queue ACTIVE. -/
  | queueEnable (path : Path) (slot : Fin 2048)
  /-- R390. A write of Enable 00h with no fetched job and no pending command empties the cache and disables the queue. -/
  | queueDisable (path : Path) (slot : Fin 2048)
  /-- R408. FLR, hot reset, link-down or D3cold stops writes to the link, drains its slices' queues and resets the function. -/
  | functionReset (link : Fin 8) (kind : FunctionResetKind)
  /-- R408. The last job of a DRAINING queue ends and the queue becomes DISABLED. -/
  | queueDrained (slot : Fin 2048)
  /-- R410. The function enters D3hot: no requests or fetches, and publications and other host writes are held. -/
  | d3hotEntry (link : Fin 8)
  /-- R410. The function returns from D3hot to D0; held writes issue in order and scanning resumes. -/
  | d0Return (link : Fin 8)
  /-- R381. Host software clears PASID Enable; the function stops DMA, discards doorbells and holds writes. -/
  | pasidEnableClear (link : Fin 8)
  /-- R381. Host software sets PASID Enable; held writes issue in order and doorbells are accepted. -/
  | pasidEnableSet (link : Fin 8)
  /-- R374. A host link finishes training and comes up at the negotiated speed and width. -/
  | hostLinkUp (link : Fin 8) (speed : BitVec 8) (width : BitVec 8)
  /-- R119. Generates a KEM key pair and outputs the public key with a blob or stores the seed in a vault slot. -/
  | kemKeygen (job : Nat) (check : Bool)
  /-- R119. Encapsulates to the session's public key and outputs ciphertext and shared secret. -/
  | kemEncaps (job : Nat) (check : Bool)
  /-- R119. Decapsulates a ciphertext with the session's private key, with implicit rejection. -/
  | kemDecaps (job : Nat) (check : Bool)
  /-- R183. Loads a Classic McEliece public key into the key cache and returns a kind 4h reference. -/
  | mceCacheLoad (job : Nat)
  /-- R184. Drops a McEliece key cache entry, freeing its extent when the last earlier job finishes. -/
  | mceCacheDrop (job : Nat)
  /-- R119. Generates a signature key pair and outputs the public key with a blob or stores the seed in a slot. -/
  | sigKeygen (job : Nat) (check : Bool)
  /-- R137. Signs a message with the session's key and verifies the signature on another wick before staging it. -/
  | sigSign (job : Nat) (check : Bool)
  /-- R119. Verifies a signature over a message and completes OK or VERIFY_FAIL. -/
  | sigVerify (job : Nat) (check : Bool)
  /-- R163. Builds the lantern cache entry of an SLH-DSA key as verified per-tree tasks. -/
  | lanternBuild (job : Nat) (check : TaskCheck)
  /-- R168. Drops a lantern cache entry, freeing its extent when the last job holding it completes. -/
  | lanternDrop (job : Nat)
  /-- R243. Hashes an input in one job on a software context of a digester. -/
  | digest (job : Nat)
  /-- R246. Opens a software digest context, attached or unattached, and returns a handle. -/
  | digOpen (job : Nat)
  /-- R243. Absorbs an input into an unattached digest context. -/
  | digUpdate (job : Nat)
  /-- R249. Finishes a digest context's computation at the next boundary and returns or stores the result. -/
  | digFinish (job : Nat)
  /-- R248. Returns a digest context's result register. -/
  | digRead (job : Nat)
  /-- R250. Closes a digest context after every earlier job on it has run. -/
  | digClose (job : Nat)
  /-- R236. Encrypts and authenticates host data through a sealer. -/
  | aeadEncrypt (job : Nat)
  /-- R236. Authenticates and decrypts host data through a sealer, writing plaintext only after the tag checks. -/
  | aeadDecrypt (job : Nat)
  /-- R233. Wraps data with AES-256-KWP in a sealer. -/
  | kwpWrap (job : Nat)
  /-- R233. Unwraps AES-256-KWP data in a sealer. -/
  | kwpUnwrap (job : Nat)
  /-- R196. Generates a classical key pair on a taper. -/
  | clKeygen (job : Nat) (check : Bool)
  /-- R205. Produces a classical signature prepared by a wick, computed twice on a taper and verified by a wick. -/
  | clSign (job : Nat) (check : Bool)
  /-- R196. Verifies a classical signature on a taper. -/
  | clVerify (job : Nat) (check : Bool)
  /-- R196. Computes an X25519, X448 or ECDH shared secret on a taper. -/
  | clAgree (job : Nat) (check : Bool)
  /-- R64. Reads a session parameter block, checks it and opens the session with a new generation. -/
  | sessionOpen (job : Nat)
  /-- R70. Moves a session to CLOSING and frees it when every earlier-fetched job of it completes. -/
  | sessionClose (job : Nat)
  /-- R473. Checks and unwraps a key blob into a granted, empty vault slot. -/
  | keyImport (job : Nat)
  /-- R473. Wraps an exportable slot key into a blob and outputs it. -/
  | keyExport (job : Nat)
  /-- R468. Erases a vault slot once earlier jobs release their copies of the key. -/
  | keyErase (job : Nat)
  /-- R468. The last earlier copy of the key is released and the erase empties the slot and its record. -/
  | keyEraseCommit (slot : Fin 512)
  /-- R459. Checks an owner envelope, installs the OSK and AS and increments the counter. -/
  | oskInstall (job : Nat)
  /-- R475. Returns identity, state, timestamp and measurement with a MAC under the AS over a challenge. -/
  | attest (job : Nat)
  /-- R47. Seals a payload into a container of HEAD, SEG, SALT and TAIL records on a media stream. -/
  | objectWrite (job : Nat) (check : Bool)
  /-- R48. Reads a container from a stream, checks it and delivers the plaintext to a host buffer. -/
  | objectRestore (job : Nat) (check : Bool)
  /-- R444. Sends FILEMARKs after the last record on an egress stream. -/
  | streamMark (job : Nat)
  /-- R444. Brings a stream's medium to a stop and, on restore, discards untaken held records. -/
  | streamStop (job : Nat)
  /-- R474. Returns random bytes from one generate request of the hub DRBG instance. -/
  | random (job : Nat)
  /-- R289. Stages and checks a signed owner program image and returns a handle. -/
  | ownProgLoad (job : Nat)
  /-- R290. Runs a loaded owner program on a wick of the slice. -/
  | ownProgRun (job : Nat)
  /-- R289. Drops a loaded owner program. -/
  | ownProgDrop (job : Nat)
  /-- R93. A payload segment reaches the ingest sealer and is sealed into a SEG record in the slice window. -/
  | segmentArrival (job : Nat) (bytes : Bytes)
  /-- R47. After the last segment passes the digester, a wick signs the manifest root and another verifies it. -/
  | manifestSign (job : Nat) (check : Bool)
  /-- R108. A restored record is checked, digested and, for SEG, decrypted to the host buffer. -/
  | restoreRecord (job : Nat)
  /-- R240. An item ends at a digester, which checkpoints its contexts and moves to another context. -/
  | digesterBoundary (digester : Fin 32) (item : DigestItem)
  /-- R270. Scalar addition modulo 2^72. -/
  | add (w : Fin 256) (rd rs1 rs2 : BitVec 5) (rsv : BitVec 9)
  /-- R270. Scalar subtraction modulo 2^72. -/
  | sub (w : Fin 256) (rd rs1 rs2 : BitVec 5) (rsv : BitVec 9)
  /-- R270. Scalar bitwise and. -/
  | and (w : Fin 256) (rd rs1 rs2 : BitVec 5) (rsv : BitVec 9)
  /-- R270. Scalar bitwise or. -/
  | ior (w : Fin 256) (rd rs1 rs2 : BitVec 5) (rsv : BitVec 9)
  /-- R270. Scalar bitwise exclusive or. -/
  | xor (w : Fin 256) (rd rs1 rs2 : BitVec 5) (rsv : BitVec 9)
  /-- R270. Scalar and with complement. -/
  | andc (w : Fin 256) (rd rs1 rs2 : BitVec 5) (rsv : BitVec 9)
  /-- R270. Scalar left shift by a register amount. -/
  | shl (w : Fin 256) (rd rs1 rs2 : BitVec 5) (rsv : BitVec 9)
  /-- R270. Scalar logical right shift by a register amount. -/
  | shr (w : Fin 256) (rd rs1 rs2 : BitVec 5) (rsv : BitVec 9)
  /-- R270. Scalar arithmetic right shift by a register amount. -/
  | shra (w : Fin 256) (rd rs1 rs2 : BitVec 5) (rsv : BitVec 9)
  /-- R270. Scalar rotate left by a register amount modulo 72. -/
  | rot (w : Fin 256) (rd rs1 rs2 : BitVec 5) (rsv : BitVec 9)
  /-- R270. Writes an all-ones mask when two registers are equal. -/
  | meq (w : Fin 256) (rd rs1 rs2 : BitVec 5) (rsv : BitVec 9)
  /-- R270. Writes an all-ones mask when rs1 is less than rs2, signed. -/
  | mlt (w : Fin 256) (rd rs1 rs2 : BitVec 5) (rsv : BitVec 9)
  /-- R270. Low 72 bits of the product. -/
  | mul (w : Fin 256) (rd rs1 rs2 : BitVec 5) (rsv : BitVec 9)
  /-- R270. High 72 bits of the unsigned product. -/
  | mulhi (w : Fin 256) (rd rs1 rs2 : BitVec 5) (rsv : BitVec 9)
  /-- R270. Extracts bits [63:0] zero-extended. -/
  | limb (w : Fin 256) (rd rs1 rs2 : BitVec 5) (rsv : BitVec 9)
  /-- R270. Extracts guard bits [71:64] zero-extended. -/
  | carry (w : Fin 256) (rd rs1 rs2 : BitVec 5) (rsv : BitVec 9)
  /-- R270. Counts leading zeros. -/
  | clz (w : Fin 256) (rd rs1 rs2 : BitVec 5) (rsv : BitVec 9)
  /-- R270. Counts one bits. -/
  | popc (w : Fin 256) (rd rs1 rs2 : BitVec 5) (rsv : BitVec 9)
  /-- R270. Selects bits of rs1 or rs2 by the mask in rd. -/
  | mux (w : Fin 256) (rd rs1 rs2 : BitVec 5) (rsv : BitVec 9)
  /-- R270. Writes an all-ones mask when rs1 is less than rs2, unsigned. -/
  | mlo (w : Fin 256) (rd rs1 rs2 : BitVec 5) (rsv : BitVec 9)
  /-- R271. Adds a sign-extended constant. -/
  | addk (w : Fin 256) (rd rs1 : BitVec 5) (imm : BitVec 20)
  /-- R271. Ands with a sign-extended constant. -/
  | andk (w : Fin 256) (rd rs1 : BitVec 5) (imm : BitVec 20)
  /-- R271. Ors with a sign-extended constant. -/
  | iork (w : Fin 256) (rd rs1 : BitVec 5) (imm : BitVec 20)
  /-- R271. Exclusive-ors with a sign-extended constant. -/
  | xork (w : Fin 256) (rd rs1 : BitVec 5) (imm : BitVec 20)
  /-- R271. Signed compare with a constant, writing a mask. -/
  | mltk (w : Fin 256) (rd rs1 : BitVec 5) (imm : BitVec 20)
  /-- R271. Unsigned compare with a constant, writing a mask. -/
  | mlok (w : Fin 256) (rd rs1 : BitVec 5) (imm : BitVec 20)
  /-- R271. Left shift by a constant amount. -/
  | shlk (w : Fin 256) (rd rs1 : BitVec 5) (rsv : BitVec 10) (amount : BitVec 7)
  /-- R271. Logical right shift by a constant amount. -/
  | shrk (w : Fin 256) (rd rs1 : BitVec 5) (rsv : BitVec 10) (amount : BitVec 7)
  /-- R271. Arithmetic right shift by a constant amount. -/
  | shrak (w : Fin 256) (rd rs1 : BitVec 5) (rsv : BitVec 10) (amount : BitVec 7)
  /-- R271. Rotate left by a constant amount. -/
  | rotk (w : Fin 256) (rd rs1 : BitVec 5) (rsv : BitVec 10) (amount : BitVec 7)
  /-- R272. Sets rd to a zero-extended 24-bit constant. -/
  | lk0 (w : Fin 256) (rd : BitVec 5) (rsv : BitVec 1) (imm : BitVec 24)
  /-- R272. Replaces rd[47:24] with a 24-bit constant. -/
  | lk1 (w : Fin 256) (rd : BitVec 5) (rsv : BitVec 1) (imm : BitVec 24)
  /-- R272. Replaces rd[71:48] with a 24-bit constant. -/
  | lk2 (w : Fin 256) (rd : BitVec 5) (rsv : BitVec 1) (imm : BitVec 24)
  /-- R274. Loads a data-memory word into a register. -/
  | ld (w : Fin 256) (rd rs1 : BitVec 5) (imm : BitVec 20)
  /-- R274. Stores a register into data memory. -/
  | st (w : Fin 256) (rs1 rs2 : BitVec 5) (imm : BitVec 20)
  /-- R273. Branches when a register is zero. -/
  | bz (w : Fin 256) (rs1 rs2 : BitVec 5) (off : BitVec 20)
  /-- R273. Branches when a register is not zero. -/
  | bnz (w : Fin 256) (rs1 rs2 : BitVec 5) (off : BitVec 20)
  /-- R273. Branches when bit 71 of a register is set. -/
  | bneg (w : Fin 256) (rs1 rs2 : BitVec 5) (off : BitVec 20)
  /-- R273. Branches when bit 71 of a register is clear. -/
  | bnneg (w : Fin 256) (rs1 rs2 : BitVec 5) (off : BitVec 20)
  /-- R273. Decrements a register and branches when the result is not zero. -/
  | dbnz (w : Fin 256) (rs1 rs2 : BitVec 5) (off : BitVec 20)
  /-- R273. Jumps to a register plus constant. -/
  | jmpr (w : Fin 256) (rd rs1 : BitVec 5) (imm : BitVec 20)
  /-- R273. Jumps by a relative offset. -/
  | jmp (w : Fin 256) (rd : BitVec 5) (off : BitVec 25)
  /-- R273. Saves the return address in g31 and jumps by a relative offset. -/
  | call (w : Fin 256) (rd : BitVec 5) (off : BitVec 25)
  /-- R275. Starts a checked reservoir read into data memory. -/
  | dmar (w : Fin 256) (rd rs1 rs2 : BitVec 5) (tag : BitVec 3) (rsv : BitVec 9)
  /-- R275. Starts a reservoir write from data memory, checked line by line. -/
  | dmaw (w : Fin 256) (rd rs1 rs2 : BitVec 5) (tag : BitVec 3) (rsv : BitVec 9)
  /-- R275. Stalls until a tagged transfer completes. -/
  | dwait (w : Fin 256) (rd rs1 rs2 : BitVec 5) (tag : BitVec 3) (rsv : BitVec 9)
  /-- R276. A DMA transfer completes and releases its interlocks and tag. -/
  | dmaComplete (w : Fin 256) (tag : BitVec 3)
  /-- R275. A DMAW line leaves the write buffer and is checked by the MPU under the current epoch. -/
  | dmawLineCheck (w : Fin 256)
  /-- R278. Initialises the sponge state for Keccak or SHA-2, plain or masked. -/
  | spinit (w : Fin 256) (rd rs1 rs2 : BitVec 5) (rsv : BitVec 9)
  /-- R278. Absorbs plain words into sponge lanes. -/
  | spabs (w : Fin 256) (rd rs1 rs2 : BitVec 5) (rsv : BitVec 9)
  /-- R278. Absorbs shared word pairs from secret granules into a masked state. -/
  | spabsM (w : Fin 256) (rd rs1 rs2 : BitVec 5) (rsv : BitVec 9)
  /-- R278. Absorbs a register into one lane. -/
  | spabr (w : Fin 256) (rd rs1 rs2 : BitVec 5) (rsv : BitVec 9)
  /-- R279. Runs Keccak-f[1600] or a SHA-2 compression. -/
  | spperm (w : Fin 256) (rd rs1 rs2 : BitVec 5) (rsv : BitVec 9)
  /-- R278. Squeezes lanes to plain words. -/
  | spsqz (w : Fin 256) (rd rs1 rs2 : BitVec 5) (rsv : BitVec 9)
  /-- R278. Squeezes lanes as shares into secret granules. -/
  | spsqzM (w : Fin 256) (rd rs1 rs2 : BitVec 5) (rsv : BitVec 9)
  /-- R278. Reads one lane into a register, unmasked. -/
  | spsqr (w : Fin 256) (rd rs1 rs2 : BitVec 5) (rsv : BitVec 9)
  /-- R278. XORs WKR lanes into a masked sponge state and sets TAINT. -/
  | spkey (w : Fin 256) (rd rs1 rs2 : BitVec 5) (rsv : BitVec 9)
  /-- R280. Sends a word on the gang ring to the next wick. -/
  | gsend (w : Fin 256) (rd rs1 rs2 : BitVec 5) (rsv : BitVec 9)
  /-- R280. Receives the oldest gang-ring word. -/
  | grecv (w : Fin 256) (rd rs1 rs2 : BitVec 5) (rsv : BitVec 9)
  /-- R280. Receives a gang-ring word and forwards it. -/
  | gfwd (w : Fin 256) (rd rs1 rs2 : BitVec 5) (rsv : BitVec 9)
  /-- R280. Sends values from data memory to the taper's key path. -/
  | kpsend (w : Fin 256) (rd rs1 rs2 : BitVec 5) (rsv : BitVec 9)
  /-- R280. Clears the WKR. -/
  | wkclr (w : Fin 256) (rd rs1 rs2 : BitVec 5) (rsv : BitVec 9)
  /-- R280. Marks a granule secret. -/
  | gmark (w : Fin 256) (rd rs1 rs2 : BitVec 5) (rsv : BitVec 9)
  /-- R280. Zeroes a granule and marks it plain. -/
  | gscrub (w : Fin 256) (rd rs1 rs2 : BitVec 5) (rsv : BitVec 9)
  /-- R281. Does nothing for one cycle. -/
  | nop (w : Fin 256) (rd rs1 : BitVec 5) (rsv : BitVec 8) (code : BitVec 8)
  /-- R281. Drains DMA, then ends the attempt with a status and result length. -/
  | done (w : Fin 256) (rd rs1 : BitVec 5) (rsv : BitVec 8) (code : BitVec 8)
  /-- R281. Ends the attempt with the program fault. -/
  | trap (w : Fin 256) (rd rs1 : BitVec 5) (rsv : BitVec 8) (code : BitVec 8)
  /-- R281. Stalls until every DMA transfer and DMAW line check is complete. -/
  | fence (w : Fin 256) (rd rs1 : BitVec 5) (rsv : BitVec 8) (code : BitVec 8)
  /-- R282. Reads a control register. -/
  | cr (w : Fin 256) (rd rs1 : BitVec 5) (creg : BitVec 6) (rsv : BitVec 14)
  /-- R282. Writes a control register. -/
  | cw (w : Fin 256) (rd rs1 : BitVec 5) (creg : BitVec 6) (rsv : BitVec 14)
  /-- R284. A napping wick's clocks restart at the hinted grant minus WAKE_LEAD or when its data arrives. -/
  | napWake (w : Fin 256)
  /-- R287. The load engine loads a vendor program into a wick before an attempt. -/
  | programLoad (w : Fin 256) (image : Bytes)
  /-- R306. SV element addition modulo 2^w. -/
  | svAdd (w : Fin 256) (vd vs1 vs2 : BitVec 5) (et : BitVec 3) (m : Bool) (aux : BitVec 5)
  /-- R306. SV element subtraction modulo 2^w. -/
  | svSub (w : Fin 256) (vd vs1 vs2 : BitVec 5) (et : BitVec 3) (m : Bool) (aux : BitVec 5)
  /-- R306. SV and, nonlinear when both sources are shared. -/
  | svAnd (w : Fin 256) (vd vs1 vs2 : BitVec 5) (et : BitVec 3) (m : Bool) (aux : BitVec 5)
  /-- R306. SV or, nonlinear when both sources are shared. -/
  | svOr (w : Fin 256) (vd vs1 vs2 : BitVec 5) (et : BitVec 3) (m : Bool) (aux : BitVec 5)
  /-- R306. SV exclusive or. -/
  | svXor (w : Fin 256) (vd vs1 vs2 : BitVec 5) (et : BitVec 3) (m : Bool) (aux : BitVec 5)
  /-- R306. SV and with complement. -/
  | svAndn (w : Fin 256) (vd vs1 vs2 : BitVec 5) (et : BitVec 3) (m : Bool) (aux : BitVec 5)
  /-- R306. SV complement. -/
  | svNot (w : Fin 256) (vd vs1 vs2 : BitVec 5) (et : BitVec 3) (m : Bool) (aux : BitVec 5)
  /-- R306. SV element left shift. -/
  | svSll (w : Fin 256) (vd vs1 vs2 : BitVec 5) (et : BitVec 3) (m : Bool) (aux : BitVec 5)
  /-- R306. SV element logical right shift. -/
  | svSrl (w : Fin 256) (vd vs1 vs2 : BitVec 5) (et : BitVec 3) (m : Bool) (aux : BitVec 5)
  /-- R306. SV element arithmetic right shift. -/
  | svSra (w : Fin 256) (vd vs1 vs2 : BitVec 5) (et : BitVec 3) (m : Bool) (aux : BitVec 5)
  /-- R306. SV rotation of elements within each half. -/
  | svRote (w : Fin 256) (vd vs1 vs2 : BitVec 5) (et : BitVec 3) (m : Bool) (aux : BitVec 5)
  /-- R306. SV unsigned minimum. -/
  | svMinu (w : Fin 256) (vd vs1 vs2 : BitVec 5) (et : BitVec 3) (m : Bool) (aux : BitVec 5)
  /-- R306. SV unsigned maximum. -/
  | svMaxu (w : Fin 256) (vd vs1 vs2 : BitVec 5) (et : BitVec 3) (m : Bool) (aux : BitVec 5)
  /-- R306. SV element equality mask. -/
  | svCmpeq (w : Fin 256) (vd vs1 vs2 : BitVec 5) (et : BitVec 3) (m : Bool) (aux : BitVec 5)
  /-- R306. SV element unsigned less-than mask. -/
  | svCmpltu (w : Fin 256) (vd vs1 vs2 : BitVec 5) (et : BitVec 3) (m : Bool) (aux : BitVec 5)
  /-- R306. SV low product, nonlinear when both sources are shared. -/
  | svMul (w : Fin 256) (vd vs1 vs2 : BitVec 5) (et : BitVec 3) (m : Bool) (aux : BitVec 5)
  /-- R306. SV high unsigned product. -/
  | svMulhu (w : Fin 256) (vd vs1 vs2 : BitVec 5) (et : BitVec 3) (m : Bool) (aux : BitVec 5)
  /-- R307. Modular element addition. -/
  | madd (w : Fin 256) (vd vs1 vs2 : BitVec 5) (et : BitVec 3) (m : Bool) (aux : BitVec 5)
  /-- R307. Modular element subtraction. -/
  | msub (w : Fin 256) (vd vs1 vs2 : BitVec 5) (et : BitVec 3) (m : Bool) (aux : BitVec 5)
  /-- R307. Modular element multiplication. -/
  | mmul (w : Fin 256) (vd vs1 vs2 : BitVec 5) (et : BitVec 3) (m : Bool) (aux : BitVec 5)
  /-- R307. Modular reduction. -/
  | mred (w : Fin 256) (vd vs1 vs2 : BitVec 5) (et : BitVec 3) (m : Bool) (aux : BitVec 5)
  /-- R307. Modular negation. -/
  | mneg (w : Fin 256) (vd vs1 vs2 : BitVec 5) (et : BitVec 3) (m : Bool) (aux : BitVec 5)
  /-- R308. Widening multiply of even elements. -/
  | wmule (w : Fin 256) (vd vs1 vs2 : BitVec 5) (et : BitVec 3) (m : Bool) (aux : BitVec 5)
  /-- R308. Widening multiply of odd elements. -/
  | wmulo (w : Fin 256) (vd vs1 vs2 : BitVec 5) (et : BitVec 3) (m : Bool) (aux : BitVec 5)
  /-- R308. Dot product of a half into one e72 lane. -/
  | dot (w : Fin 256) (vd vs1 vs2 : BitVec 5) (et : BitVec 3) (m : Bool) (aux : BitVec 5)
  /-- R309. Broadcasts a register value to every element. -/
  | vsplat (w : Fin 256) (vd vs1 vs2 : BitVec 5) (et : BitVec 3) (m : Bool) (aux : BitVec 5)
  /-- R309. Inserts a register into one half. -/
  | vins (w : Fin 256) (vd vs1 vs2 : BitVec 5) (et : BitVec 3) (m : Bool) (aux : BitVec 5)
  /-- R309. Extracts one half into a register. -/
  | vext (w : Fin 256) (vd vs1 vs2 : BitVec 5) (et : BitVec 3) (m : Bool) (aux : BitVec 5)
  /-- R309. Swaps the halves of a register. -/
  | vswaph (w : Fin 256) (vd vs1 vs2 : BitVec 5) (et : BitVec 3) (m : Bool) (aux : BitVec 5)
  /-- R309. Copies an SV register with its share tag. -/
  | vmov (w : Fin 256) (vd vs1 vs2 : BitVec 5) (et : BitVec 3) (m : Bool) (aux : BitVec 5)
  /-- R309. Zeroes an SV register and its tag. -/
  | vzero (w : Fin 256) (vd vs1 vs2 : BitVec 5) (et : BitVec 3) (m : Bool) (aux : BitVec 5)
  /-- R319. Loads an SV register, plain, shared or as a structure, from data memory. -/
  | vld (w : Fin 256) (vd rs1 : BitVec 5) (imm : BitVec 11) (nf : BitVec 2) (m : Bool) (et : BitVec 3) (rsv : BitVec 2)
  /-- R319. Stores an SV register, plain, shared or as a structure, to data memory. -/
  | vst (w : Fin 256) (vd rs1 : BitVec 5) (imm : BitVec 11) (nf : BitVec 2) (m : Bool) (et : BitVec 3) (rsv : BitVec 2)
  /-- R313. Splits a plain value into two shares with a fresh shroud word. -/
  | mask (w : Fin 256) (vd vs1 vs2 : BitVec 5) (et : BitVec 3) (m : Bool) (aux : BitVec 5)
  /-- R313. Re-randomises the shares of a shared value. -/
  | refresh (w : Fin 256) (vd vs1 vs2 : BitVec 5) (et : BitVec 3) (m : Bool) (aux : BitVec 5)
  /-- R313. Combines the shares into a plain register. -/
  | unm (w : Fin 256) (vd vs1 vs2 : BitVec 5) (et : BitVec 3) (m : Bool) (aux : BitVec 5)
  /-- R313. Combines the shares into a g-register. -/
  | unmg (w : Fin 256) (vd vs1 vs2 : BitVec 5) (et : BitVec 3) (m : Bool) (aux : BitVec 5)
  /-- R313. Loads a WKR lane as a freshly masked shared value. -/
  | vkey (w : Fin 256) (vd vs1 vs2 : BitVec 5) (et : BitVec 3) (m : Bool) (aux : BitVec 5)
  /-- R314. Converts arithmetic shares modulo 2^w to Boolean shares. -/
  | a2b (w : Fin 256) (vd vs1 vs2 : BitVec 5) (et : BitVec 3) (m : Bool) (aux : BitVec 5)
  /-- R314. Converts Boolean shares to arithmetic shares modulo 2^w. -/
  | b2a (w : Fin 256) (vd vs1 vs2 : BitVec 5) (et : BitVec 3) (m : Bool) (aux : BitVec 5)
  /-- R314. Converts arithmetic shares modulo q to Boolean shares. -/
  | a2bq (w : Fin 256) (vd vs1 vs2 : BitVec 5) (et : BitVec 3) (m : Bool) (aux : BitVec 5)
  /-- R314. Converts Boolean shares to arithmetic shares modulo q. -/
  | b2aq (w : Fin 256) (vd vs1 vs2 : BitVec 5) (et : BitVec 3) (m : Bool) (aux : BitVec 5)
  /-- R317. After 65,536 words a shroud generator requests a new key and resumes when it arrives. -/
  | shroudRekey (w : Fin 256)
  /-- R326. FV lane addition. -/
  | fvAdd (w : Fin 256) (fd fs1 fs2 : BitVec 4) (ft : BitVec 2) (rsv : BitVec 10)
  /-- R326. FV lane subtraction. -/
  | fvSub (w : Fin 256) (fd fs1 fs2 : BitVec 4) (ft : BitVec 2) (rsv : BitVec 10)
  /-- R326. FV and. -/
  | fvAnd (w : Fin 256) (fd fs1 fs2 : BitVec 4) (ft : BitVec 2) (rsv : BitVec 10)
  /-- R326. FV or. -/
  | fvOr (w : Fin 256) (fd fs1 fs2 : BitVec 4) (ft : BitVec 2) (rsv : BitVec 10)
  /-- R326. FV exclusive or. -/
  | fvXor (w : Fin 256) (fd fs1 fs2 : BitVec 4) (ft : BitVec 2) (rsv : BitVec 10)
  /-- R326. FV and with complement. -/
  | fvAndn (w : Fin 256) (fd fs1 fs2 : BitVec 4) (ft : BitVec 2) (rsv : BitVec 10)
  /-- R326. FV low product. -/
  | fvMullo (w : Fin 256) (fd fs1 fs2 : BitVec 4) (ft : BitVec 2) (rsv : BitVec 10)
  /-- R326. FV high unsigned product. -/
  | fvMulhu (w : Fin 256) (fd fs1 fs2 : BitVec 4) (ft : BitVec 2) (rsv : BitVec 10)
  /-- R326. FV left shift by lane amounts. -/
  | fvSll (w : Fin 256) (fd fs1 fs2 : BitVec 4) (ft : BitVec 2) (rsv : BitVec 10)
  /-- R326. FV logical right shift by lane amounts. -/
  | fvSrl (w : Fin 256) (fd fs1 fs2 : BitVec 4) (ft : BitVec 2) (rsv : BitVec 10)
  /-- R326. FV arithmetic right shift by lane amounts. -/
  | fvSra (w : Fin 256) (fd fs1 fs2 : BitVec 4) (ft : BitVec 2) (rsv : BitVec 10)
  /-- R326. FV unsigned minimum. -/
  | fvMinu (w : Fin 256) (fd fs1 fs2 : BitVec 4) (ft : BitVec 2) (rsv : BitVec 10)
  /-- R326. FV unsigned maximum. -/
  | fvMaxu (w : Fin 256) (fd fs1 fs2 : BitVec 4) (ft : BitVec 2) (rsv : BitVec 10)
  /-- R326. FV equality mask. -/
  | fvCmpeq (w : Fin 256) (fd fs1 fs2 : BitVec 4) (ft : BitVec 2) (rsv : BitVec 10)
  /-- R326. FV unsigned greater-than mask. -/
  | fvCmpgtu (w : Fin 256) (fd fs1 fs2 : BitVec 4) (ft : BitVec 2) (rsv : BitVec 10)
  /-- R326. FV unsigned saturating add. -/
  | fvAddsu (w : Fin 256) (fd fs1 fs2 : BitVec 4) (ft : BitVec 2) (rsv : BitVec 10)
  /-- R326. FV byte table lookup. -/
  | fvTbl (w : Fin 256) (fd fs1 fs2 : BitVec 4) (ft : BitVec 2) (rsv : BitVec 10)
  /-- R326. FV left shift by an immediate. -/
  | fvSlli (w : Fin 256) (fd fs1 : BitVec 4) (ft : BitVec 2) (amount : BitVec 6) (rsv : BitVec 10)
  /-- R326. FV logical right shift by an immediate. -/
  | fvSrli (w : Fin 256) (fd fs1 : BitVec 4) (ft : BitVec 2) (amount : BitVec 6) (rsv : BitVec 10)
  /-- R326. FV arithmetic right shift by an immediate. -/
  | fvSrai (w : Fin 256) (fd fs1 : BitVec 4) (ft : BitVec 2) (amount : BitVec 6) (rsv : BitVec 10)
  /-- R326. FV rotate left by an immediate. -/
  | fvRoli (w : Fin 256) (fd fs1 : BitVec 4) (ft : BitVec 2) (amount : BitVec 6) (rsv : BitVec 10)
  /-- R326. Loads an FV register from two data words. -/
  | fld (w : Fin 256) (fd : BitVec 4) (rs1 : BitVec 5) (rsv : BitVec 1) (imm : BitVec 20)
  /-- R326. Stores an FV register to two data words. -/
  | fst (w : Fin 256) (fd : BitVec 4) (rs1 : BitVec 5) (rsv : BitVec 1) (imm : BitVec 20)
  /-- R326. Moves an FV lane to a g-register. -/
  | fmvgf (w : Fin 256) (g : BitVec 5) (f : BitVec 4) (ft : BitVec 2) (lane : BitVec 4) (rsv : BitVec 9)
  /-- R326. Moves a g-register into one FV lane. -/
  | fmvfg (w : Fin 256) (g : BitVec 5) (f : BitVec 4) (ft : BitVec 2) (lane : BitVec 4) (rsv : BitVec 9)
  /-- R326. Broadcasts a g-register to every FV lane. -/
  | fsplat (w : Fin 256) (g : BitVec 5) (f : BitVec 4) (ft : BitVec 2) (lane : BitVec 4) (rsv : BitVec 9)
  /-- R328. 400 ns after an FV instruction woke the island, it is on, the f registers are restored and the instruction issues. -/
  | fvWakeComplete (w : Fin 256)
  /-- R328. The FV idle counter reaches zero and the island saves its registers and powers off. -/
  | fvIdleExpiry (w : Fin 256)
  /-- R332. An FV wake is not complete 2 µs after it began and the island is faulted. -/
  | fvWakeTimeout (w : Fin 256)
  /-- R217. A taper executes one microword, driving each of its resources by its fields. -/
  | taperMicroword (taper : Fin 8) (word : BitVec 128) (ecc : WordEcc)
  /-- R218. A WAIT microword's condition becomes true and its datapath fields take effect. -/
  | taperWaitRelease (taper : Fin 8)
  /-- R218. A WAIT lasts WaitWatchdog cycles and raises the wait watchdog fault. -/
  | taperWaitWatchdog (taper : Fin 8)
  /-- R213. At the end of every attempt the taper zeroes its memory and registers, reads back and reports idle. -/
  | taperWipe (taper : Fin 8) (readbackZero : Bool)
  /-- R210. A taper completes StrikeClearJobs consecutive clean jobs and its strike clears. -/
  | strikeClear (taper : Fin 8)
  /-- R358. A channel arbiter grants one request by longest-waiter, floor and priority order and sends turn hints. -/
  | reservoirGrant (channel : Fin 64) (arrivals : List ChannelRequest)
  /-- R345. A channel returns a line after checking its tag, re-reading once on failure. -/
  | lineRead (line : Nat) (reader : UnitId) (first second : Bytes)
  /-- R344. The clear of a re-tenanted slice's window and extents ends and its new jobs may run. -/
  | tenancyClearComplete (slice : Fin 512)
  /-- R343. The rewrite of every usable line as clear ends after new seal key sets are drawn. -/
  | reservoirClearComplete
  /-- R370. A host window write is accepted, advances the rule epoch and completes once accesses under the old epoch end. -/
  | hostWindowWrite (path : Path) (slice : Fin 512) (window : Fin 64) (value : BitVec 64)
  /-- R435. A DATA frame of a restore or feed stream is accepted and its bytes taken. -/
  | vspDataReceived (port : Fin 256) (frame : VspFrame)
  /-- R427. A CREDIT acknowledges frames, sets the window and reports committed records. -/
  | vspCreditReceived (port : Fin 256) (frame : VspFrame)
  /-- R428. A RATE frame sets a stream's steps and buffer. -/
  | vspRateReceived (port : Fin 256) (frame : VspFrame)
  /-- R431. A peer STATUS reports its medium state, ending glides and stops. -/
  | vspStatusReceived (port : Fin 256) (frame : VspFrame)
  /-- R91. A feed's END_OBJECT mark ends the object's payload. -/
  | endObject (port : Fin 256) (frame : VspFrame)
  /-- R445. A bridge's END_OF_DATA mark ends reading; before a TAIL it ends the restore FORMAT. -/
  | endOfData (port : Fin 256) (frame : VspFrame)
  /-- R445. A bridge's EARLY_WARNING lets the current object finish and refuses later object writes. -/
  | earlyWarning (port : Fin 256) (frame : VspFrame)
  /-- R446. A bridge ERROR MEDIUM_WRITE faults the egress stream and ends the object RESOURCE. -/
  | mediumWrite (port : Fin 256) (frame : VspFrame)
  /-- R446. A bridge ERROR NO_MEDIUM faults the egress stream and ends the object RESOURCE. -/
  | noMedium (port : Fin 256) (frame : VspFrame)
  /-- R446. A bridge ERROR MEDIUM_READ faults the restore stream and ends the restore VERIFY_FAIL. -/
  | mediumRead (port : Fin 256) (frame : VspFrame)
  /-- R446. A bridge ERROR STARVED is counted in Starves. -/
  | starved (port : Fin 256) (frame : VspFrame)
  /-- R446. A bridge ERROR UNKNOWN_EPOCH makes the device draw a new EPOCH and restart sequence spaces. -/
  | unknownEpoch (port : Fin 256) (frame : VspFrame)
  /-- R439. A stream's pacing is evaluated on traffic and at least every millisecond, sending DIM, GLIDE or RESUME. -/
  | pacingEvaluation (stream : Fin 1024)
  /-- R433. An unacknowledged frame reaches RetransmitUs and every frame from the first unacknowledged is sent again. -/
  | retransmitTimeout (stream : Fin 1024)
  /-- R432. Each millisecond with unacknowledged frames, the device sends a CREDIT. -/
  | creditTimer (stream : Fin 1024)
  /-- R419. StatusIntervalMs elapses and the device sends STATUS on a stream not DISABLED. -/
  | statusTimer (stream : Fin 1024)
  /-- R447. A stream receives no frame for LinkTimeoutMs, becomes WAITING and raises fault 0F01h. -/
  | linkTimeout (stream : Fin 1024)
  /-- R419. A media port's link comes up and queued STATUS frames are sent. -/
  | mediaPortLinkUp (port : Fin 256)
  /-- R419. A write of MediaStream Enable 01h enables the stream with a new EPOCH. -/
  | streamEnable (path : Path) (stream : Fin 1024)
  /-- R453. A write of MediaStream Enable 00h disables a stream with no job using it. -/
  | streamDisable (path : Path) (stream : Fin 1024)
  /-- R546. A HOP READ returns value bytes from an offset, snapshotting at offset 0. -/
  | hopRead (frame : HopFrame)
  /-- R546. A HOP WRITE fragment is assembled and the value applied at the last fragment. -/
  | hopWrite (frame : HopFrame)
  /-- R534. A HOP INFO returns an entry's 40-byte description. -/
  | hopInfo (frame : HopFrame)
  /-- R549. Starts a HOP session, returning a nonce and an ephemeral ML-KEM key. -/
  | authBegin (frame : HopFrame)
  /-- R549. Checks the manager's key and signature, derives the session key and returns PROOF. -/
  | authFinish (frame : HopFrame)
  /-- R552. Ends a HOP session. -/
  | authEnd (frame : HopFrame)
  /-- R587. A HOP WAKE wakes the device from LOW or DARK when enabled. -/
  | hopWake (frame : HopFrame)
  /-- R547. Returns the unit's identity, states and server. -/
  | discover (frame : HopFrame)
  /-- R546. An assembly or snapshot idle for 1 s is discarded. -/
  | hopAssemblyIdle (requester : Requester)
  /-- R551. A pending HOP session expires 10 s after AUTH_BEGIN. -/
  | pendingSessionExpiry
  /-- R551. The 10 s refusal after 8 failed authentications ends. -/
  | authLockoutEnd
  /-- R552. A HOP session without a valid request for SessionIdleS ends. -/
  | sessionIdleExpiry (session : BitVec 32)
  /-- R529. A new dictionary server starts to serve and discards assemblies, snapshots and sessions. -/
  | serverHandover (server : Server)
  /-- R537. A mailbox READ command reads an entry into MB_DATA. -/
  | mbRead (link : Fin 8) (slice : Fin 512) (addr : BitVec 32)
  /-- R537. A mailbox WRITE command writes MB_DATA to an entry. -/
  | mbWrite (link : Fin 8) (slice : Fin 512) (addr : BitVec 32) (len : BitVec 32) (data : Bytes)
  /-- R537. A mailbox INFO command returns an entry's description. -/
  | mbInfo (link : Fin 8) (slice : Fin 512) (addr : BitVec 32)
  /-- R672. A write to a dictionary entry without behaviour of its own is judged and stored, durably when persistent. -/
  | dictEntryWrite (path : Path) (index : BitVec 16) (sub : BitVec 8) (value : Bytes)
  /-- R21. Writing 1 to a counter's overflow bit clears the count and the bit. -/
  | counterClear (path : Path) (index : BitVec 16) (sub : BitVec 8) (value : Bytes)
  /-- R561. A write of A5h to ResetRequest is answered and starts a device reset 1 ms later. -/
  | resetRequest (path : Path) (value : BitVec 8)
  /-- R509. A life-cycle request is checked, keys destroyed, the counter incremented, fuse copies blown and the device reset. -/
  | transitionRequest (path : Path) (request : Bytes) (event : Option TransitionEvent)
  /-- R514. In TEST, draws the URS and blows the key rows. -/
  | keyRowsProgram (path : Path) (value : BitVec 8) (powerKept : Bool)
  /-- R524. Programs 256 bytes into the non-running image slot and advances the offset. -/
  | flashWriteData (path : Path) (value : Bytes)
  /-- R571. A change of tenancy frees sessions, closes contexts, drops programs, erases slot keys and clears the slice. -/
  | retenant (path : Path) (slice : Fin 512) (change : TenancyChange)
  /-- R570. A write of OwnerSlice moves owner rights for later mailbox operations. -/
  | ownerSliceWrite (path : Path) (value : BitVec 16)
  /-- R595. A write of 00h clears TimestampRestarted. -/
  | timestampRestartedClear (path : Path) (value : BitVec 8)
  /-- R490. Runs known-answer tests of the conditioner and every DRBG instance. -/
  | katRequest (path : Path) (value : BitVec 8) (failing : BitVec 18)
  /-- R468. A write of VaultSlot Erase 01h erases the slot as KEY_ERASE does. -/
  | vaultSlotErase (path : Path) (slot : Fin 512) (value : BitVec 8)
  /-- R638. A write of RelightRequest runs a fenced unit's self-test at once. -/
  | relightRequest (path : Path) (unit : UnitId) (value : BitVec 8)
  /-- R617. Stimulates a tamper monitor for 10 µs with its response suppressed. -/
  | testRequest (path : Path) (value : BitVec 8)
  /-- R618. The latency after a stimulus ends without an alarm and the test fails. -/
  | testDeadline
  /-- R617. 1 ms after the stimulus ends, the source under test responds normally again. -/
  | testSuppressionEnd
  /-- R599. A SconcePower Level write starts a performance-level change of a sconce. -/
  | levelWrite (path : Path) (sconce : Fin 16) (level : BitVec 8)
  /-- R599. The ramp and relock end; the sconce takes jobs at the new level, or changes again to a stored level. -/
  | levelChangeComplete (sconce : Fin 16)
  /-- R601. A write of SconcePower Enable 00h stops new jobs on the sconce. -/
  | sconceDisable (path : Path) (sconce : Fin 16)
  /-- R601. A disabled sconce's last attempt ends; its wicks are scrubbed and its domains power off. -/
  | sconcePowerDown (sconce : Fin 16)
  /-- R601. A write of SconcePower Enable 01h powers the sconce up. -/
  | sconceEnable (path : Path) (sconce : Fin 16)
  /-- R601. The ramp, PLL lock and shroud keying end and the sconce takes jobs. -/
  | sconceReady (sconce : Fin 16)
  /-- R584. A Request of 02h, or the idle policy, enters LOW after its checks. -/
  | requestLow (path : Path)
  /-- R585. A Request of 03h, or the idle policy, enters DARK after its checks. -/
  | requestDark (path : Path)
  /-- R587. A Request of 01h wakes the device from LOW. -/
  | requestLit (path : Path)
  /-- R582. LowAfterIdleMs in LIT with no activity requests LOW. -/
  | lowIdleExpiry
  /-- R582. DarkAfterLowS in LOW requests DARK. -/
  | darkAfterLowExpiry
  /-- R588. An enabled WAKE pin asserted for two ticks wakes the device. -/
  | wakePin (pin : Fin 8) (high : Bool)
  /-- R587. In LOW, an entry entering a queue's prefetch cache wakes the device. -/
  | hostWake (slot : Fin 2048)
  /-- R587. The timestamp reaches WakeAtTime and wakes the device. -/
  | wakeAtTime
  /-- R663. VSTBY falls below 2.9 V; the pilot switches to VBAT and the device enters CELL. -/
  | vstbyLoss
  /-- R596. VSTBY above 3.0 V for 10 ms returns the pilot to DARK. -/
  | vstbyReturn
  /-- R26. The pilot powers up without prior VSTBY or VBAT, restarts the timestamp and sets TimestampRestarted. -/
  | pilotPowerUp
  /-- R661. The pilot asserts MAIN_EN and waits for every main rail to come into range. -/
  | mainEnAssert
  /-- R661. Every rail is in range; after 2 ms the pilot releases the main reset. -/
  | railsInRange
  /-- R661. A rail is not in range 100 ms after MAIN_EN; MAIN_EN is deasserted and retried 1 s later. -/
  | railStartTimeout
  /-- R663. A main rail out of range for 1 µs holds the main reset, a device reset. -/
  | railDrop (rail : Fin 8)
  /-- R658. RESET_N low for 10 µs causes a device reset in LIT, LOW or boot. -/
  | resetN
  /-- R612. RESET_N held low 1 s, or a main-rail power cycle, clears a latched HALT. -/
  | haltRelease (byRails : Bool)
  /-- R522. The device reads fuses, checks and measures an image, forms keys and starts the firmware. -/
  | boot (readOk0 readOk1 : Bool) (board0 board1 : Option Bytes)
  /-- R522. Training and the reservoir clear end and the device enters LIT with READY set. -/
  | litEntry
  /-- R511. Supplies fall out of range while fuse copies are programmed. -/
  | criticalPhasePowerLoss (path : Path) (request : Bytes) (blown : Nat)
  /-- R607. A mantle line opens, shorts or returns a wrong pattern and the response is applied. -/
  | mantleAlarm (line : Fin 64)
  /-- R607. A monitored supply leaves its window for 5 ns and the response is applied. -/
  | supplyGlitchAlarm (rail : BitVec 8)
  /-- R607. The reference or hub clock leaves its limits and the response is applied. -/
  | clockAlarm (hubClock : Bool)
  /-- R607. A die sensor reads outside TempLowC to TempHighC and the response is applied. -/
  | temperatureAlarm (sensor : Fin 17) (reading : BitVec 16)
  /-- R607. A photodiode exceeds its threshold for 1 µs and the response is applied. -/
  | lightAlarm (diode : Fin 8)
  /-- R610. Every 8 ticks the pilot samples each enabled loop. -/
  | loopSample (isOpen : BitVec 4)
  /-- R620. IntegrityBurstCount flit failures within the window raise source 0Ah. -/
  | integrityBurstAlarm
  /-- R609. A source's condition is absent for 32 ticks and the source re-arms. -/
  | alarmRearm (source : Fin 10)
  /-- R480. After SNUFF or start-up, DRBG instances are instantiated from new blocks on schedule. -/
  | drbgInstantiate (inst : Fin 17)
  /-- R484. A HEALTHY ember fails a health test and becomes FAILED. -/
  | emberHealthFailure (ember : Fin 4)
  /-- R484. EmberRetryMs after failing, an ember starts a start-up test. -/
  | emberRetry (ember : Fin 4)
  /-- R484. An ember's start-up test ends and it becomes HEALTHY or FAILED. -/
  | emberStartupTestEnd (ember : Fin 4) (passed : Bool)
  /-- R485. A 512-sample block completes, is conditioned and forms seeds for the pool or holding instances. -/
  | blockComplete (ember : EmberBlock)
  /-- R488. After 4,096 generate requests an instance reseeds from the pool or holds. -/
  | drbgReseed (inst : Fin 17)
  /-- R493. GutterTimeoutMs expires and jobs waiting for randomness end ENTROPY_UNAVAILABLE. -/
  | gutterTimeout
  /-- R629. A fault report reaches the collector, opens or joins an event and applies its action. -/
  | faultReport (code : BitVec 16) (detector accused slice : UnitId) (detail : BitVec 64)
  /-- R620. A flit whose integrity code fails is discarded and the fault reported. -/
  | flitIntegrityFailure (detector : UnitId)
  /-- R632. 4,096 hub cycles after an event opens, its window closes and its record is written. -/
  | eventWindowClose (accused : UnitId) (code : BitVec 16)
  /-- R634. The quiet timer reaches QuietS, the collector returns to NORMAL and relight starts. -/
  | quietExpiry
  /-- R636. A fenced unit's self-test ends and the unit relights or stays fenced. -/
  | selfTestComplete (unit : UnitId) (passed : Bool)
  /-- R645. The dump is written, copied to the host when configured, and the ROM serves. -/
  | dumpComplete
  /-- R641. FatalHoldS after the stop, the device resets. -/
  | fatalHoldExpiry
  /-- R642. The dump is not done 2.0 s after the stop and the watchdog resets the device. -/
  | lamplighterWatchdog
  /-- R449. A device reset stops every port and link and reboots. -/
  | deviceReset (cause : BitVec 8)
  /-- R285. A wick attempt's cycle count reaches its program's MAX_CYCLES and the cycle-budget fault is raised, replaying a vendor attempt or ending an owner job FORMAT. -/
  | cycleBudgetExceeded (w : Fin 256)
  /-- R513. A JTAG or vendor-test debug access to a locked region in TEST reads 5Ah, drops a write and counts in DebugErrors. -/
  | debugAccess (region : DebugRegion) (write : Bool)
  /-- R665. The 25 MHz system reference is lost while the hub is unpowered, which silences the shelf bus in DARK. -/
  | sysclk25Loss
  /-- R665. The 25 MHz system reference returns and is stable, and the shelf bus and pilot HOP service resume. -/
  | sysclk25Return
  /-- R454. The backup cell is lost; in CELL the pilot loses power, the CK and the timestamp, and afterwards a VSTBY loss leaves nothing to hold the CK. -/
  | vbatLoss
  /-- R416. An 802.3x PAUSE or 802.1Qbb PFC frame is received on an Ethernet port, is honoured by pausing transmission and counts in PauseReceived. -/
  | pauseFrame (port : Fin 256) (pause : PauseFrame)
  /-- R406. Host software unmasks an MSI-X vector or function, or enables MSI-X, and a pending vector's message is sent. -/
  | msixVectorUnmask (link : Fin 8) (what : MsixUnmask)
  /-- R24. Each tick of the 32.768 kHz pilot crystal advances the 64-bit timestamp by one. -/
  | slowClockTick
  /-- R671. Once per millisecond the firmware samples every die sensor and rail and updates ModuleSensors, including MaxDieTemp. -/
  | sensorSample (temps : List (BitVec 32)) (rails : List (BitVec 16)) (vbat : BitVec 16)
  deriving DecidableEq, Repr

end Sys2Proof
end

