-- ==== Sys2Proof/Decode.lean ====
section
/-! DEFINITION. Bits and commands. The operation table gives no row bits, so no word spells a command. Below it, the 36-bit instruction words of the wicks: their fields, a decoder and an encoder, both from R267, R268, R302, R303 and R325 (the wick fetches them from its program memory, R44). -/

namespace Sys2Proof

/-- The command a word spells by the table's bits: no row of the table gives any. -/
def decodeTableWord (_nbits _w : Nat) : Option Instr := none

/-! ### Fields of an instruction word (R267, R302, R325) -/

/-- OP. -/
def iwOp (x : BitVec 36) : BitVec 6 := x.extractLsb' 30 6

/-- RD, VD or G; RS1 of a store or a branch. -/
def iwA (x : BitVec 36) : BitVec 5 := x.extractLsb' 25 5

/-- RS1 or VS1; RS2 of a store or a branch. -/
def iwB (x : BitVec 36) : BitVec 5 := x.extractLsb' 20 5

/-- RS2 or VS2. -/
def iwC (x : BitVec 36) : BitVec 5 := x.extractLsb' 15 5

/-- FN. -/
def iwFn (x : BitVec 36) : BitVec 6 := x.extractLsb' 9 6

/-- The reserved bits of format R. -/
def iwLow9 (x : BitVec 36) : BitVec 9 := x.extractLsb' 0 9

/-- IMM20 or OFF20. -/
def iwImm20 (x : BitVec 36) : BitVec 20 := x.extractLsb' 0 20

/-- The reserved bit of format K. -/
def iwBit24 (x : BitVec 36) : BitVec 1 := x.extractLsb' 24 1

/-- IMM24. -/
def iwImm24 (x : BitVec 36) : BitVec 24 := x.extractLsb' 0 24

/-- OFF25. -/
def iwOff25 (x : BitVec 36) : BitVec 25 := x.extractLsb' 0 25

/-! ### Decoding -/

/-- The ALU group (R270). -/
def decodeAlu (w : Fin 256) (x : BitVec 36) : Option Instr :=
  match (iwFn x).toNat with
  | 0x00 => some (.add w (iwA x) (iwB x) (iwC x) (iwLow9 x))
  | 0x01 => some (.sub w (iwA x) (iwB x) (iwC x) (iwLow9 x))
  | 0x02 => some (.and w (iwA x) (iwB x) (iwC x) (iwLow9 x))
  | 0x03 => some (.ior w (iwA x) (iwB x) (iwC x) (iwLow9 x))
  | 0x04 => some (.xor w (iwA x) (iwB x) (iwC x) (iwLow9 x))
  | 0x05 => some (.andc w (iwA x) (iwB x) (iwC x) (iwLow9 x))
  | 0x06 => some (.shl w (iwA x) (iwB x) (iwC x) (iwLow9 x))
  | 0x07 => some (.shr w (iwA x) (iwB x) (iwC x) (iwLow9 x))
  | 0x08 => some (.shra w (iwA x) (iwB x) (iwC x) (iwLow9 x))
  | 0x09 => some (.rot w (iwA x) (iwB x) (iwC x) (iwLow9 x))
  | 0x0A => some (.meq w (iwA x) (iwB x) (iwC x) (iwLow9 x))
  | 0x0B => some (.mlt w (iwA x) (iwB x) (iwC x) (iwLow9 x))
  | 0x0C => some (.mul w (iwA x) (iwB x) (iwC x) (iwLow9 x))
  | 0x0D => some (.mulhi w (iwA x) (iwB x) (iwC x) (iwLow9 x))
  | 0x0E => some (.limb w (iwA x) (iwB x) (iwC x) (iwLow9 x))
  | 0x0F => some (.carry w (iwA x) (iwB x) (iwC x) (iwLow9 x))
  | 0x10 => some (.clz w (iwA x) (iwB x) (iwC x) (iwLow9 x))
  | 0x11 => some (.popc w (iwA x) (iwB x) (iwC x) (iwLow9 x))
  | 0x12 => some (.mux w (iwA x) (iwB x) (iwC x) (iwLow9 x))
  | 0x13 => some (.mlo w (iwA x) (iwB x) (iwC x) (iwLow9 x))
  | _ => none

/-- The shift-constant group (R271). -/
def decodeShift (w : Fin 256) (x : BitVec 36) : Option Instr :=
  match (x.extractLsb' 17 3).toNat with
  | 0x00 => some (.shlk w (iwA x) (iwB x) (x.extractLsb' 7 10) (x.extractLsb' 0 7))
  | 0x01 => some (.shrk w (iwA x) (iwB x) (x.extractLsb' 7 10) (x.extractLsb' 0 7))
  | 0x02 => some (.shrak w (iwA x) (iwB x) (x.extractLsb' 7 10) (x.extractLsb' 0 7))
  | 0x03 => some (.rotk w (iwA x) (iwB x) (x.extractLsb' 7 10) (x.extractLsb' 0 7))
  | _ => none

/-- The DMA group (R275). -/
def decodeDma (w : Fin 256) (x : BitVec 36) : Option Instr :=
  match (x.extractLsb' 12 3).toNat with
  | 0x00 => some (.dmar w (iwA x) (iwB x) (iwC x) (x.extractLsb' 9 3) (iwLow9 x))
  | 0x01 => some (.dmaw w (iwA x) (iwB x) (iwC x) (x.extractLsb' 9 3) (iwLow9 x))
  | 0x02 => some (.dwait w (iwA x) (iwB x) (iwC x) (x.extractLsb' 9 3) (iwLow9 x))
  | _ => none

/-- The sponge group (R278). -/
def decodeSponge (w : Fin 256) (x : BitVec 36) : Option Instr :=
  match (iwFn x).toNat with
  | 0x00 => some (.spinit w (iwA x) (iwB x) (iwC x) (iwLow9 x))
  | 0x01 => some (.spabs w (iwA x) (iwB x) (iwC x) (iwLow9 x))
  | 0x02 => some (.spabsM w (iwA x) (iwB x) (iwC x) (iwLow9 x))
  | 0x03 => some (.spabr w (iwA x) (iwB x) (iwC x) (iwLow9 x))
  | 0x04 => some (.spperm w (iwA x) (iwB x) (iwC x) (iwLow9 x))
  | 0x05 => some (.spsqz w (iwA x) (iwB x) (iwC x) (iwLow9 x))
  | 0x06 => some (.spsqzM w (iwA x) (iwB x) (iwC x) (iwLow9 x))
  | 0x07 => some (.spsqr w (iwA x) (iwB x) (iwC x) (iwLow9 x))
  | 0x08 => some (.spkey w (iwA x) (iwB x) (iwC x) (iwLow9 x))
  | _ => none

/-- The gang group (R280). -/
def decodeGang (w : Fin 256) (x : BitVec 36) : Option Instr :=
  match (iwFn x).toNat with
  | 0x00 => some (.gsend w (iwA x) (iwB x) (iwC x) (iwLow9 x))
  | 0x01 => some (.grecv w (iwA x) (iwB x) (iwC x) (iwLow9 x))
  | 0x02 => some (.gfwd w (iwA x) (iwB x) (iwC x) (iwLow9 x))
  | _ => none

/-- The key and granule group (R280). -/
def decodeKey (w : Fin 256) (x : BitVec 36) : Option Instr :=
  match (iwFn x).toNat with
  | 0x00 => some (.kpsend w (iwA x) (iwB x) (iwC x) (iwLow9 x))
  | 0x01 => some (.wkclr w (iwA x) (iwB x) (iwC x) (iwLow9 x))
  | 0x02 => some (.gmark w (iwA x) (iwB x) (iwC x) (iwLow9 x))
  | 0x03 => some (.gscrub w (iwA x) (iwB x) (iwC x) (iwLow9 x))
  | _ => none

/-- The SYS group (R281). -/
def decodeSys (w : Fin 256) (x : BitVec 36) : Option Instr :=
  match (x.extractLsb' 16 4).toNat with
  | 0x00 => some (.nop w (iwA x) (iwB x) (x.extractLsb' 8 8) (x.extractLsb' 0 8))
  | 0x01 => some (.done w (iwA x) (iwB x) (x.extractLsb' 8 8) (x.extractLsb' 0 8))
  | 0x02 => some (.trap w (iwA x) (iwB x) (x.extractLsb' 8 8) (x.extractLsb' 0 8))
  | 0x03 => some (.fence w (iwA x) (iwB x) (x.extractLsb' 8 8) (x.extractLsb' 0 8))
  | _ => none

/-- The SV group of OP 30h (R306). -/
def decodeSvInteger (w : Fin 256) (x : BitVec 36) : Option Instr :=
  match (iwFn x).toNat with
  | 0x00 => some (.svAdd w (iwA x) (iwB x) (iwC x) (x.extractLsb' 6 3) (x.getLsbD 5) (x.extractLsb' 0 5))
  | 0x01 => some (.svSub w (iwA x) (iwB x) (iwC x) (x.extractLsb' 6 3) (x.getLsbD 5) (x.extractLsb' 0 5))
  | 0x02 => some (.svAnd w (iwA x) (iwB x) (iwC x) (x.extractLsb' 6 3) (x.getLsbD 5) (x.extractLsb' 0 5))
  | 0x03 => some (.svOr w (iwA x) (iwB x) (iwC x) (x.extractLsb' 6 3) (x.getLsbD 5) (x.extractLsb' 0 5))
  | 0x04 => some (.svXor w (iwA x) (iwB x) (iwC x) (x.extractLsb' 6 3) (x.getLsbD 5) (x.extractLsb' 0 5))
  | 0x05 => some (.svAndn w (iwA x) (iwB x) (iwC x) (x.extractLsb' 6 3) (x.getLsbD 5) (x.extractLsb' 0 5))
  | 0x06 => some (.svNot w (iwA x) (iwB x) (iwC x) (x.extractLsb' 6 3) (x.getLsbD 5) (x.extractLsb' 0 5))
  | 0x07 => some (.svSll w (iwA x) (iwB x) (iwC x) (x.extractLsb' 6 3) (x.getLsbD 5) (x.extractLsb' 0 5))
  | 0x08 => some (.svSrl w (iwA x) (iwB x) (iwC x) (x.extractLsb' 6 3) (x.getLsbD 5) (x.extractLsb' 0 5))
  | 0x09 => some (.svSra w (iwA x) (iwB x) (iwC x) (x.extractLsb' 6 3) (x.getLsbD 5) (x.extractLsb' 0 5))
  | 0x0A => some (.svRote w (iwA x) (iwB x) (iwC x) (x.extractLsb' 6 3) (x.getLsbD 5) (x.extractLsb' 0 5))
  | 0x0B => some (.svMinu w (iwA x) (iwB x) (iwC x) (x.extractLsb' 6 3) (x.getLsbD 5) (x.extractLsb' 0 5))
  | 0x0C => some (.svMaxu w (iwA x) (iwB x) (iwC x) (x.extractLsb' 6 3) (x.getLsbD 5) (x.extractLsb' 0 5))
  | 0x0D => some (.svCmpeq w (iwA x) (iwB x) (iwC x) (x.extractLsb' 6 3) (x.getLsbD 5) (x.extractLsb' 0 5))
  | 0x0E => some (.svCmpltu w (iwA x) (iwB x) (iwC x) (x.extractLsb' 6 3) (x.getLsbD 5) (x.extractLsb' 0 5))
  | 0x0F => some (.svMul w (iwA x) (iwB x) (iwC x) (x.extractLsb' 6 3) (x.getLsbD 5) (x.extractLsb' 0 5))
  | 0x10 => some (.svMulhu w (iwA x) (iwB x) (iwC x) (x.extractLsb' 6 3) (x.getLsbD 5) (x.extractLsb' 0 5))
  | _ => none

/-- The SV group of OP 31h (R307). -/
def decodeSvModular (w : Fin 256) (x : BitVec 36) : Option Instr :=
  match (iwFn x).toNat with
  | 0x00 => some (.madd w (iwA x) (iwB x) (iwC x) (x.extractLsb' 6 3) (x.getLsbD 5) (x.extractLsb' 0 5))
  | 0x01 => some (.msub w (iwA x) (iwB x) (iwC x) (x.extractLsb' 6 3) (x.getLsbD 5) (x.extractLsb' 0 5))
  | 0x02 => some (.mmul w (iwA x) (iwB x) (iwC x) (x.extractLsb' 6 3) (x.getLsbD 5) (x.extractLsb' 0 5))
  | 0x03 => some (.mred w (iwA x) (iwB x) (iwC x) (x.extractLsb' 6 3) (x.getLsbD 5) (x.extractLsb' 0 5))
  | 0x04 => some (.mneg w (iwA x) (iwB x) (iwC x) (x.extractLsb' 6 3) (x.getLsbD 5) (x.extractLsb' 0 5))
  | _ => none

/-- The SV group of OP 32h (R308). -/
def decodeSvWidening (w : Fin 256) (x : BitVec 36) : Option Instr :=
  match (iwFn x).toNat with
  | 0x00 => some (.wmule w (iwA x) (iwB x) (iwC x) (x.extractLsb' 6 3) (x.getLsbD 5) (x.extractLsb' 0 5))
  | 0x01 => some (.wmulo w (iwA x) (iwB x) (iwC x) (x.extractLsb' 6 3) (x.getLsbD 5) (x.extractLsb' 0 5))
  | 0x02 => some (.dot w (iwA x) (iwB x) (iwC x) (x.extractLsb' 6 3) (x.getLsbD 5) (x.extractLsb' 0 5))
  | _ => none

/-- The SV group of OP 33h (R309). -/
def decodeSvMove (w : Fin 256) (x : BitVec 36) : Option Instr :=
  match (iwFn x).toNat with
  | 0x00 => some (.vsplat w (iwA x) (iwB x) (iwC x) (x.extractLsb' 6 3) (x.getLsbD 5) (x.extractLsb' 0 5))
  | 0x01 => some (.vins w (iwA x) (iwB x) (iwC x) (x.extractLsb' 6 3) (x.getLsbD 5) (x.extractLsb' 0 5))
  | 0x02 => some (.vext w (iwA x) (iwB x) (iwC x) (x.extractLsb' 6 3) (x.getLsbD 5) (x.extractLsb' 0 5))
  | 0x03 => some (.vswaph w (iwA x) (iwB x) (iwC x) (x.extractLsb' 6 3) (x.getLsbD 5) (x.extractLsb' 0 5))
  | 0x04 => some (.vmov w (iwA x) (iwB x) (iwC x) (x.extractLsb' 6 3) (x.getLsbD 5) (x.extractLsb' 0 5))
  | 0x05 => some (.vzero w (iwA x) (iwB x) (iwC x) (x.extractLsb' 6 3) (x.getLsbD 5) (x.extractLsb' 0 5))
  | _ => none

/-- The SV group of OP 35h (R313, R314). -/
def decodeSvMasking (w : Fin 256) (x : BitVec 36) : Option Instr :=
  match (iwFn x).toNat with
  | 0x00 => some (.mask w (iwA x) (iwB x) (iwC x) (x.extractLsb' 6 3) (x.getLsbD 5) (x.extractLsb' 0 5))
  | 0x01 => some (.refresh w (iwA x) (iwB x) (iwC x) (x.extractLsb' 6 3) (x.getLsbD 5) (x.extractLsb' 0 5))
  | 0x02 => some (.unm w (iwA x) (iwB x) (iwC x) (x.extractLsb' 6 3) (x.getLsbD 5) (x.extractLsb' 0 5))
  | 0x03 => some (.unmg w (iwA x) (iwB x) (iwC x) (x.extractLsb' 6 3) (x.getLsbD 5) (x.extractLsb' 0 5))
  | 0x04 => some (.a2b w (iwA x) (iwB x) (iwC x) (x.extractLsb' 6 3) (x.getLsbD 5) (x.extractLsb' 0 5))
  | 0x05 => some (.b2a w (iwA x) (iwB x) (iwC x) (x.extractLsb' 6 3) (x.getLsbD 5) (x.extractLsb' 0 5))
  | 0x06 => some (.a2bq w (iwA x) (iwB x) (iwC x) (x.extractLsb' 6 3) (x.getLsbD 5) (x.extractLsb' 0 5))
  | 0x07 => some (.b2aq w (iwA x) (iwB x) (iwC x) (x.extractLsb' 6 3) (x.getLsbD 5) (x.extractLsb' 0 5))
  | 0x08 => some (.vkey w (iwA x) (iwB x) (iwC x) (x.extractLsb' 6 3) (x.getLsbD 5) (x.extractLsb' 0 5))
  | _ => none

/-- SV loads and stores (R302, R319): S selects a store. -/
def decodeSvTransfer (w : Fin 256) (x : BitVec 36) : Option Instr :=
  let build := if x.getLsbD 8 then Instr.vst else Instr.vld
  some (build w (iwA x) (iwB x) (x.extractLsb' 9 11) (x.extractLsb' 6 2) (x.getLsbD 5) (x.extractLsb' 2 3) (x.extractLsb' 0 2))

/-- FV lane operations (R326). -/
def decodeFv (w : Fin 256) (x : BitVec 36) : Option Instr :=
  match (x.extractLsb' 10 6).toNat with
  | 0x00 => some (.fvAdd w (x.extractLsb' 26 4) (x.extractLsb' 22 4) (x.extractLsb' 18 4) (x.extractLsb' 16 2) (x.extractLsb' 0 10))
  | 0x01 => some (.fvSub w (x.extractLsb' 26 4) (x.extractLsb' 22 4) (x.extractLsb' 18 4) (x.extractLsb' 16 2) (x.extractLsb' 0 10))
  | 0x02 => some (.fvAnd w (x.extractLsb' 26 4) (x.extractLsb' 22 4) (x.extractLsb' 18 4) (x.extractLsb' 16 2) (x.extractLsb' 0 10))
  | 0x03 => some (.fvOr w (x.extractLsb' 26 4) (x.extractLsb' 22 4) (x.extractLsb' 18 4) (x.extractLsb' 16 2) (x.extractLsb' 0 10))
  | 0x04 => some (.fvXor w (x.extractLsb' 26 4) (x.extractLsb' 22 4) (x.extractLsb' 18 4) (x.extractLsb' 16 2) (x.extractLsb' 0 10))
  | 0x05 => some (.fvAndn w (x.extractLsb' 26 4) (x.extractLsb' 22 4) (x.extractLsb' 18 4) (x.extractLsb' 16 2) (x.extractLsb' 0 10))
  | 0x06 => some (.fvMullo w (x.extractLsb' 26 4) (x.extractLsb' 22 4) (x.extractLsb' 18 4) (x.extractLsb' 16 2) (x.extractLsb' 0 10))
  | 0x07 => some (.fvMulhu w (x.extractLsb' 26 4) (x.extractLsb' 22 4) (x.extractLsb' 18 4) (x.extractLsb' 16 2) (x.extractLsb' 0 10))
  | 0x08 => some (.fvSll w (x.extractLsb' 26 4) (x.extractLsb' 22 4) (x.extractLsb' 18 4) (x.extractLsb' 16 2) (x.extractLsb' 0 10))
  | 0x09 => some (.fvSrl w (x.extractLsb' 26 4) (x.extractLsb' 22 4) (x.extractLsb' 18 4) (x.extractLsb' 16 2) (x.extractLsb' 0 10))
  | 0x0A => some (.fvSra w (x.extractLsb' 26 4) (x.extractLsb' 22 4) (x.extractLsb' 18 4) (x.extractLsb' 16 2) (x.extractLsb' 0 10))
  | 0x0B => some (.fvMinu w (x.extractLsb' 26 4) (x.extractLsb' 22 4) (x.extractLsb' 18 4) (x.extractLsb' 16 2) (x.extractLsb' 0 10))
  | 0x0C => some (.fvMaxu w (x.extractLsb' 26 4) (x.extractLsb' 22 4) (x.extractLsb' 18 4) (x.extractLsb' 16 2) (x.extractLsb' 0 10))
  | 0x0D => some (.fvCmpeq w (x.extractLsb' 26 4) (x.extractLsb' 22 4) (x.extractLsb' 18 4) (x.extractLsb' 16 2) (x.extractLsb' 0 10))
  | 0x0E => some (.fvCmpgtu w (x.extractLsb' 26 4) (x.extractLsb' 22 4) (x.extractLsb' 18 4) (x.extractLsb' 16 2) (x.extractLsb' 0 10))
  | 0x0F => some (.fvAddsu w (x.extractLsb' 26 4) (x.extractLsb' 22 4) (x.extractLsb' 18 4) (x.extractLsb' 16 2) (x.extractLsb' 0 10))
  | 0x10 => some (.fvTbl w (x.extractLsb' 26 4) (x.extractLsb' 22 4) (x.extractLsb' 18 4) (x.extractLsb' 16 2) (x.extractLsb' 0 10))
  | _ => none

/-- FV shifts by an immediate (R326). -/
def decodeFvShift (w : Fin 256) (x : BitVec 36) : Option Instr :=
  match (x.extractLsb' 18 4).toNat with
  | 0x00 => some (.fvSlli w (x.extractLsb' 26 4) (x.extractLsb' 22 4) (x.extractLsb' 16 2) (x.extractLsb' 10 6) (x.extractLsb' 0 10))
  | 0x01 => some (.fvSrli w (x.extractLsb' 26 4) (x.extractLsb' 22 4) (x.extractLsb' 16 2) (x.extractLsb' 10 6) (x.extractLsb' 0 10))
  | 0x02 => some (.fvSrai w (x.extractLsb' 26 4) (x.extractLsb' 22 4) (x.extractLsb' 16 2) (x.extractLsb' 10 6) (x.extractLsb' 0 10))
  | 0x03 => some (.fvRoli w (x.extractLsb' 26 4) (x.extractLsb' 22 4) (x.extractLsb' 16 2) (x.extractLsb' 10 6) (x.extractLsb' 0 10))
  | _ => none

/-- FV moves (R326). -/
def decodeFvMove (w : Fin 256) (x : BitVec 36) : Option Instr :=
  match (x.extractLsb' 13 6).toNat with
  | 0x00 => some (.fmvgf w (iwA x) (x.extractLsb' 21 4) (x.extractLsb' 19 2) (x.extractLsb' 9 4) (iwLow9 x))
  | 0x01 => some (.fmvfg w (iwA x) (x.extractLsb' 21 4) (x.extractLsb' 19 2) (x.extractLsb' 9 4) (iwLow9 x))
  | 0x02 => some (.fsplat w (iwA x) (x.extractLsb' 21 4) (x.extractLsb' 19 2) (x.extractLsb' 9 4) (iwLow9 x))
  | _ => none

/-- The instruction a wick word stands for; none for the opcodes, functions and codes that are not assigned (R268, R303, R326). -/
def wickDecode (w : Fin 256) (x : BitVec 36) : Option Instr :=
  match (iwOp x).toNat with
  | 0x01 => decodeAlu w x
  | 0x02 => some (.addk w (iwA x) (iwB x) (iwImm20 x))
  | 0x03 => some (.andk w (iwA x) (iwB x) (iwImm20 x))
  | 0x04 => some (.iork w (iwA x) (iwB x) (iwImm20 x))
  | 0x05 => some (.xork w (iwA x) (iwB x) (iwImm20 x))
  | 0x06 => some (.mltk w (iwA x) (iwB x) (iwImm20 x))
  | 0x07 => some (.mlok w (iwA x) (iwB x) (iwImm20 x))
  | 0x08 => decodeShift w x
  | 0x09 => some (.lk0 w (iwA x) (iwBit24 x) (iwImm24 x))
  | 0x0A => some (.lk1 w (iwA x) (iwBit24 x) (iwImm24 x))
  | 0x0B => some (.lk2 w (iwA x) (iwBit24 x) (iwImm24 x))
  | 0x0C => some (.ld w (iwA x) (iwB x) (iwImm20 x))
  | 0x0D => some (.st w (iwA x) (iwB x) (iwImm20 x))
  | 0x10 => some (.bz w (iwA x) (iwB x) (iwImm20 x))
  | 0x11 => some (.bnz w (iwA x) (iwB x) (iwImm20 x))
  | 0x12 => some (.bneg w (iwA x) (iwB x) (iwImm20 x))
  | 0x13 => some (.bnneg w (iwA x) (iwB x) (iwImm20 x))
  | 0x14 => some (.dbnz w (iwA x) (iwB x) (iwImm20 x))
  | 0x15 => some (.jmpr w (iwA x) (iwB x) (iwImm20 x))
  | 0x16 => some (.jmp w (iwA x) (iwOff25 x))
  | 0x17 => some (.call w (iwA x) (iwOff25 x))
  | 0x18 => decodeDma w x
  | 0x1C => decodeSponge w x
  | 0x1D => decodeGang w x
  | 0x1E => decodeKey w x
  | 0x20 => some (.cr w (iwA x) (iwB x) (x.extractLsb' 14 6) (x.extractLsb' 0 14))
  | 0x21 => some (.cw w (iwA x) (iwB x) (x.extractLsb' 14 6) (x.extractLsb' 0 14))
  | 0x22 => decodeSys w x
  | 0x28 => decodeFv w x
  | 0x29 => decodeFvShift w x
  | 0x2A => some (.fld w (x.extractLsb' 26 4) (x.extractLsb' 21 5) (x.extractLsb' 20 1) (iwImm20 x))
  | 0x2B => some (.fst w (x.extractLsb' 26 4) (x.extractLsb' 21 5) (x.extractLsb' 20 1) (iwImm20 x))
  | 0x2C => decodeFvMove w x
  | 0x30 => decodeSvInteger w x
  | 0x31 => decodeSvModular w x
  | 0x32 => decodeSvWidening w x
  | 0x33 => decodeSvMove w x
  | 0x34 => decodeSvTransfer w x
  | 0x35 => decodeSvMasking w x
  | _ => none

/-! ### Encoding -/

/-- A word of format R (R267). -/
def encR (op : BitVec 6) (a b c : BitVec 5) (fn : BitVec 6) (rsv : BitVec 9) : BitVec 36 := op ++ a ++ b ++ c ++ fn ++ rsv

/-- A word of format I, S or B (R267). -/
def encI (op : BitVec 6) (a b : BitVec 5) (imm : BitVec 20) : BitVec 36 := op ++ a ++ b ++ imm

/-- A word of the shift-constant group (R271). -/
def encShift (code : BitVec 3) (a b : BitVec 5) (rsv : BitVec 10) (amount : BitVec 7) : BitVec 36 := 0x08#6 ++ a ++ b ++ code ++ rsv ++ amount

/-- A word of format K (R267). -/
def encK (op : BitVec 6) (a : BitVec 5) (rsv : BitVec 1) (imm : BitVec 24) : BitVec 36 := op ++ a ++ rsv ++ imm

/-- A word of format J (R267). -/
def encJ (op : BitVec 6) (a : BitVec 5) (off : BitVec 25) : BitVec 36 := op ++ a ++ off

/-- A word of format C (R267). -/
def encC (op : BitVec 6) (a b : BitVec 5) (creg : BitVec 6) (rsv : BitVec 14) : BitVec 36 := op ++ a ++ b ++ creg ++ rsv

/-- A word of the DMA group (R275). -/
def encDma (code : BitVec 3) (a b c : BitVec 5) (tag : BitVec 3) (rsv : BitVec 9) : BitVec 36 := 0x18#6 ++ a ++ b ++ c ++ code ++ tag ++ rsv

/-- A word of the SYS group (R281). -/
def encSys (fn : BitVec 4) (a b : BitVec 5) (rsv code : BitVec 8) : BitVec 36 := 0x22#6 ++ a ++ b ++ fn ++ rsv ++ code

/-- A word of format SV-R (R302). -/
def encSvR (op : BitVec 6) (fn : BitVec 6) (a b c : BitVec 5) (et : BitVec 3) (m : Bool) (aux : BitVec 5) : BitVec 36 :=
  op ++ a ++ b ++ c ++ fn ++ et ++ BitVec.ofBool m ++ aux

/-- A word of format SV-M (R302). -/
def encSvM (store : Bool) (a b : BitVec 5) (imm : BitVec 11) (nf : BitVec 2) (m : Bool) (et : BitVec 3) (rsv : BitVec 2) : BitVec 36 :=
  0x34#6 ++ a ++ b ++ imm ++ BitVec.ofBool store ++ nf ++ BitVec.ofBool m ++ et ++ rsv

/-- A word of format FR (R325). -/
def encFR (op : BitVec 6) (a b c : BitVec 4) (ft : BitVec 2) (fn : BitVec 6) (rsv : BitVec 10) : BitVec 36 := op ++ a ++ b ++ c ++ ft ++ fn ++ rsv

/-- A word of format FM (R325). -/
def encFM (op : BitVec 6) (a : BitVec 4) (b : BitVec 5) (rsv : BitVec 1) (imm : BitVec 20) : BitVec 36 := op ++ a ++ b ++ rsv ++ imm

/-- A word of format FX (R325). -/
def encFX (fn : BitVec 6) (g : BitVec 5) (f : BitVec 4) (ft : BitVec 2) (lane : BitVec 4) (rsv : BitVec 9) : BitVec 36 := 0x2C#6 ++ g ++ f ++ ft ++ fn ++ lane ++ rsv

/-- The word of a wick instruction, and the wick it is for; none for every other command. -/
def wickEncode (i : Instr) : Option (Fin 256 × BitVec 36) :=
  match i with
  | .add w a b c r => some (w, encR 0x01 a b c 0x00 r)
  | .sub w a b c r => some (w, encR 0x01 a b c 0x01 r)
  | .and w a b c r => some (w, encR 0x01 a b c 0x02 r)
  | .ior w a b c r => some (w, encR 0x01 a b c 0x03 r)
  | .xor w a b c r => some (w, encR 0x01 a b c 0x04 r)
  | .andc w a b c r => some (w, encR 0x01 a b c 0x05 r)
  | .shl w a b c r => some (w, encR 0x01 a b c 0x06 r)
  | .shr w a b c r => some (w, encR 0x01 a b c 0x07 r)
  | .shra w a b c r => some (w, encR 0x01 a b c 0x08 r)
  | .rot w a b c r => some (w, encR 0x01 a b c 0x09 r)
  | .meq w a b c r => some (w, encR 0x01 a b c 0x0A r)
  | .mlt w a b c r => some (w, encR 0x01 a b c 0x0B r)
  | .mul w a b c r => some (w, encR 0x01 a b c 0x0C r)
  | .mulhi w a b c r => some (w, encR 0x01 a b c 0x0D r)
  | .limb w a b c r => some (w, encR 0x01 a b c 0x0E r)
  | .carry w a b c r => some (w, encR 0x01 a b c 0x0F r)
  | .clz w a b c r => some (w, encR 0x01 a b c 0x10 r)
  | .popc w a b c r => some (w, encR 0x01 a b c 0x11 r)
  | .mux w a b c r => some (w, encR 0x01 a b c 0x12 r)
  | .mlo w a b c r => some (w, encR 0x01 a b c 0x13 r)
  | .addk w a b k => some (w, encI 0x02 a b k)
  | .andk w a b k => some (w, encI 0x03 a b k)
  | .iork w a b k => some (w, encI 0x04 a b k)
  | .xork w a b k => some (w, encI 0x05 a b k)
  | .mltk w a b k => some (w, encI 0x06 a b k)
  | .mlok w a b k => some (w, encI 0x07 a b k)
  | .ld w a b k => some (w, encI 0x0C a b k)
  | .jmpr w a b k => some (w, encI 0x15 a b k)
  | .shlk w a b r k => some (w, encShift 0 a b r k)
  | .shrk w a b r k => some (w, encShift 1 a b r k)
  | .shrak w a b r k => some (w, encShift 2 a b r k)
  | .rotk w a b r k => some (w, encShift 3 a b r k)
  | .lk0 w a r k => some (w, encK 0x09 a r k)
  | .lk1 w a r k => some (w, encK 0x0A a r k)
  | .lk2 w a r k => some (w, encK 0x0B a r k)
  | .bz w a b k => some (w, encI 0x10 a b k)
  | .bnz w a b k => some (w, encI 0x11 a b k)
  | .bneg w a b k => some (w, encI 0x12 a b k)
  | .bnneg w a b k => some (w, encI 0x13 a b k)
  | .dbnz w a b k => some (w, encI 0x14 a b k)
  | .st w a b k => some (w, encI 0x0D a b k)
  | .jmp w a k => some (w, encJ 0x16 a k)
  | .call w a k => some (w, encJ 0x17 a k)
  | .dmar w a b c t r => some (w, encDma 0 a b c t r)
  | .dmaw w a b c t r => some (w, encDma 1 a b c t r)
  | .dwait w a b c t r => some (w, encDma 2 a b c t r)
  | .spinit w a b c r => some (w, encR 0x1C a b c 0x00 r)
  | .spabs w a b c r => some (w, encR 0x1C a b c 0x01 r)
  | .spabsM w a b c r => some (w, encR 0x1C a b c 0x02 r)
  | .spabr w a b c r => some (w, encR 0x1C a b c 0x03 r)
  | .spperm w a b c r => some (w, encR 0x1C a b c 0x04 r)
  | .spsqz w a b c r => some (w, encR 0x1C a b c 0x05 r)
  | .spsqzM w a b c r => some (w, encR 0x1C a b c 0x06 r)
  | .spsqr w a b c r => some (w, encR 0x1C a b c 0x07 r)
  | .spkey w a b c r => some (w, encR 0x1C a b c 0x08 r)
  | .gsend w a b c r => some (w, encR 0x1D a b c 0x00 r)
  | .grecv w a b c r => some (w, encR 0x1D a b c 0x01 r)
  | .gfwd w a b c r => some (w, encR 0x1D a b c 0x02 r)
  | .kpsend w a b c r => some (w, encR 0x1E a b c 0x00 r)
  | .wkclr w a b c r => some (w, encR 0x1E a b c 0x01 r)
  | .gmark w a b c r => some (w, encR 0x1E a b c 0x02 r)
  | .gscrub w a b c r => some (w, encR 0x1E a b c 0x03 r)
  | .nop w a b r k => some (w, encSys 0 a b r k)
  | .done w a b r k => some (w, encSys 1 a b r k)
  | .trap w a b r k => some (w, encSys 2 a b r k)
  | .fence w a b r k => some (w, encSys 3 a b r k)
  | .cr w a b k r => some (w, encC 0x20 a b k r)
  | .cw w a b k r => some (w, encC 0x21 a b k r)
  | .fvAdd w a b c t r => some (w, encFR 0x28 a b c t 0x00 r)
  | .fvSub w a b c t r => some (w, encFR 0x28 a b c t 0x01 r)
  | .fvAnd w a b c t r => some (w, encFR 0x28 a b c t 0x02 r)
  | .fvOr w a b c t r => some (w, encFR 0x28 a b c t 0x03 r)
  | .fvXor w a b c t r => some (w, encFR 0x28 a b c t 0x04 r)
  | .fvAndn w a b c t r => some (w, encFR 0x28 a b c t 0x05 r)
  | .fvMullo w a b c t r => some (w, encFR 0x28 a b c t 0x06 r)
  | .fvMulhu w a b c t r => some (w, encFR 0x28 a b c t 0x07 r)
  | .fvSll w a b c t r => some (w, encFR 0x28 a b c t 0x08 r)
  | .fvSrl w a b c t r => some (w, encFR 0x28 a b c t 0x09 r)
  | .fvSra w a b c t r => some (w, encFR 0x28 a b c t 0x0A r)
  | .fvMinu w a b c t r => some (w, encFR 0x28 a b c t 0x0B r)
  | .fvMaxu w a b c t r => some (w, encFR 0x28 a b c t 0x0C r)
  | .fvCmpeq w a b c t r => some (w, encFR 0x28 a b c t 0x0D r)
  | .fvCmpgtu w a b c t r => some (w, encFR 0x28 a b c t 0x0E r)
  | .fvAddsu w a b c t r => some (w, encFR 0x28 a b c t 0x0F r)
  | .fvTbl w a b c t r => some (w, encFR 0x28 a b c t 0x10 r)
  | .fvSlli w a b t k r => some (w, encFR 0x29 a b 0 t k r)
  | .fvSrli w a b t k r => some (w, encFR 0x29 a b 1 t k r)
  | .fvSrai w a b t k r => some (w, encFR 0x29 a b 2 t k r)
  | .fvRoli w a b t k r => some (w, encFR 0x29 a b 3 t k r)
  | .fld w a b r k => some (w, encFM 0x2A a b r k)
  | .fst w a b r k => some (w, encFM 0x2B a b r k)
  | .fmvgf w g f t l r => some (w, encFX 0 g f t l r)
  | .fmvfg w g f t l r => some (w, encFX 1 g f t l r)
  | .fsplat w g f t l r => some (w, encFX 2 g f t l r)
  | .svAdd w a b c t m k => some (w, encSvR 0x30 0x00 a b c t m k)
  | .svSub w a b c t m k => some (w, encSvR 0x30 0x01 a b c t m k)
  | .svAnd w a b c t m k => some (w, encSvR 0x30 0x02 a b c t m k)
  | .svOr w a b c t m k => some (w, encSvR 0x30 0x03 a b c t m k)
  | .svXor w a b c t m k => some (w, encSvR 0x30 0x04 a b c t m k)
  | .svAndn w a b c t m k => some (w, encSvR 0x30 0x05 a b c t m k)
  | .svNot w a b c t m k => some (w, encSvR 0x30 0x06 a b c t m k)
  | .svSll w a b c t m k => some (w, encSvR 0x30 0x07 a b c t m k)
  | .svSrl w a b c t m k => some (w, encSvR 0x30 0x08 a b c t m k)
  | .svSra w a b c t m k => some (w, encSvR 0x30 0x09 a b c t m k)
  | .svRote w a b c t m k => some (w, encSvR 0x30 0x0A a b c t m k)
  | .svMinu w a b c t m k => some (w, encSvR 0x30 0x0B a b c t m k)
  | .svMaxu w a b c t m k => some (w, encSvR 0x30 0x0C a b c t m k)
  | .svCmpeq w a b c t m k => some (w, encSvR 0x30 0x0D a b c t m k)
  | .svCmpltu w a b c t m k => some (w, encSvR 0x30 0x0E a b c t m k)
  | .svMul w a b c t m k => some (w, encSvR 0x30 0x0F a b c t m k)
  | .svMulhu w a b c t m k => some (w, encSvR 0x30 0x10 a b c t m k)
  | .madd w a b c t m k => some (w, encSvR 0x31 0x00 a b c t m k)
  | .msub w a b c t m k => some (w, encSvR 0x31 0x01 a b c t m k)
  | .mmul w a b c t m k => some (w, encSvR 0x31 0x02 a b c t m k)
  | .mred w a b c t m k => some (w, encSvR 0x31 0x03 a b c t m k)
  | .mneg w a b c t m k => some (w, encSvR 0x31 0x04 a b c t m k)
  | .wmule w a b c t m k => some (w, encSvR 0x32 0x00 a b c t m k)
  | .wmulo w a b c t m k => some (w, encSvR 0x32 0x01 a b c t m k)
  | .dot w a b c t m k => some (w, encSvR 0x32 0x02 a b c t m k)
  | .vsplat w a b c t m k => some (w, encSvR 0x33 0x00 a b c t m k)
  | .vins w a b c t m k => some (w, encSvR 0x33 0x01 a b c t m k)
  | .vext w a b c t m k => some (w, encSvR 0x33 0x02 a b c t m k)
  | .vswaph w a b c t m k => some (w, encSvR 0x33 0x03 a b c t m k)
  | .vmov w a b c t m k => some (w, encSvR 0x33 0x04 a b c t m k)
  | .vzero w a b c t m k => some (w, encSvR 0x33 0x05 a b c t m k)
  | .mask w a b c t m k => some (w, encSvR 0x35 0x00 a b c t m k)
  | .refresh w a b c t m k => some (w, encSvR 0x35 0x01 a b c t m k)
  | .unm w a b c t m k => some (w, encSvR 0x35 0x02 a b c t m k)
  | .unmg w a b c t m k => some (w, encSvR 0x35 0x03 a b c t m k)
  | .a2b w a b c t m k => some (w, encSvR 0x35 0x04 a b c t m k)
  | .b2a w a b c t m k => some (w, encSvR 0x35 0x05 a b c t m k)
  | .a2bq w a b c t m k => some (w, encSvR 0x35 0x06 a b c t m k)
  | .b2aq w a b c t m k => some (w, encSvR 0x35 0x07 a b c t m k)
  | .vkey w a b c t m k => some (w, encSvR 0x35 0x08 a b c t m k)
  | .vld w a b k n m t r => some (w, encSvM false a b k n m t r)
  | .vst w a b k n m t r => some (w, encSvM true a b k n m t r)
  | _ => none

end Sys2Proof
end

