-- ==== Sys2Proof/Machine/State.lean ====
section
/-! DEFINITION. The state of the device as plain data: every register, queue, buffer, counter, mode and pin the spec gives it, and the queue of commands. Dictionary-visible registers live in one store, `State.dict`, at the default of their entry unless listed. -/

namespace Sys2Proof.Machine

/-- Sparse data by number: pairs with rising keys, none equal to what an unlisted key reads as. -/
abbrev Table (α : Type) := List (Nat × α)

/-- The reservoir variants (R1, R2). -/
inductive Variant where
  | a256
  | a128
  deriving DecidableEq, Repr

/-! ### What leaves the device -/

/-- What a write to host memory belongs to (R84, R401, R402, R231, R649). -/
inductive HostWriteKind where
  | output
  | w6
  | w0
  | status
  | plaintext
  | dump
  deriving DecidableEq, Repr

/-- A write to host memory on a link under a PASID (R381). -/
structure HostWrite where
  link : Nat
  pasid : BitVec 32
  kind : HostWriteKind
  slot : Nat
  job : Nat
  address : BitVec 64
  bytes : Bytes
  deriving DecidableEq, Repr

/-- A VSP frame the device sends on a stream (R422, R423): its addresses, in the order of their bytes as entries (R418), its VLAN tag, its EtherType, the fields of its header that the device chooses, and its body. -/
structure SentFrame where
  destination : Bytes
  source : Bytes
  vlan : Option (BitVec 16)
  etherType : BitVec 16
  stream : Nat
  kind : BitVec 8
  epoch : BitVec 32
  seq : BitVec 32
  flags : BitVec 16
  body : Bytes
  deriving DecidableEq, Repr

/-- A HOP response (R544): where it goes, its header fields, data and tag. -/
structure HopResponse where
  destination : BitVec 48
  op : BitVec 8
  flags : BitVec 8
  result : BitVec 8
  session : BitVec 32
  seq : BitVec 32
  index : BitVec 16
  sub : BitVec 8
  offset : BitVec 32
  data : Bytes
  tag : Bytes
  deriving DecidableEq, Repr

/-- What the device issues to the outside, oldest first. -/
inductive Emission where
  | ringRead (slot start count : Nat)
  | hostRead (job : Nat) (address : BitVec 64) (length : Nat)
  | hostWrite (w : HostWrite)
  | msix (link vector : Nat) (address : BitVec 64) (data : BitVec 32)
  | vsp (f : SentFrame)
  | hop (r : HopResponse)
  | dictResult (path : Path) (index : BitVec 16) (sub : BitVec 8) (result : BitVec 8)
  | turnHint (channel : Nat) (requester : Option (Fin 512)) (hint : Nat)
  | granted (channel : Nat) (requester : Option (Fin 512)) (port : Nat)
  | debugData (value : BitVec 8)
  | mainReset
  deriving DecidableEq, Repr

/-- An imprecise notice: class, unit, slice, epoch, time, and nothing else (R368). -/
structure Notice where
  cls : Nat
  unit : UnitId
  slice : UnitId
  epoch : BitVec 16
  time : BitVec 64
  deriving DecidableEq, Repr

/-! ### Sessions and jobs -/

/-- R59. -/
inductive SessState where
  | free
  | opened
  | closing
  deriving DecidableEq, Repr

/-- A session context (R59, R60, R62): its state and generation, the generation of its previous opening, its slice, its 256-byte parameter block (R63), whether an open of it is past step 6 of R80 (R71), the check values its keys got at first use (R113, R130, R154, R202), one per key role (KEY_A to KEY_C 0 to 2, recipient n 3 + n), the PK.root kept with that of an SLH-DSA key (R154), and the fetch number of its SESSION_CLOSE, or of the open in progress (R70, R71). -/
structure Session where
  state : SessState
  gen : BitVec 16
  lastGen : BitVec 16
  slice : Nat
  params : Bytes
  opening : Bool
  checks : List (Nat × Bytes)
  pkRoots : List (Nat × Bytes)
  closedAt : Nat
  deriving DecidableEq, Repr

/-- An entry of the session cache, in least-recently-used order (R72): the session and whether it changed since its load. -/
structure CacheEntry where
  session : Nat
  changed : Bool
  deriving DecidableEq, Repr

/-- Where a fetched job stands (R84, R259). -/
inductive JobPhase where
  | turn
  | waiting
  | loading
  | running
  | staged
  | closing
  deriving DecidableEq, Repr

/-- The progress of an object job, kept in its session context (R62, R89 to R108): the object key, the salts of its epochs in order, the timestamp of the draw, the segments complete, the records released and their bytes, the payload bytes taken or delivered, the chain value so far (R98), the manifest leaves (R104), the payload read from host memory, which queue contexts snoop (R247), whether the feed's mark came (R91), whether a replay's salt is still to be drawn (R94, R96), the HEAD fields a restore read, and whether its decapsulation is to be confirmed (R142). -/
structure ObjectState where
  key : Bytes
  salts : List (BitVec 64)
  created : BitVec 64
  segmentsDone : Nat
  released : Nat
  releasedBytes : Nat
  releasedPayload : Nat
  payload : Nat
  chain : Bytes
  leaves : List Bytes
  input : Bytes
  feedEnded : Bool
  headSent : Bool
  voided : Bool
  sealer : Nat
  segExp : Nat
  length : Nat
  segIndex : Nat
  epoch : Nat
  headSeen : Bool
  tailSeen : Bool
  saltDue : Bool
  confirming : Bool
  deriving DecidableEq, Repr

/-- A key in a vault slot with its attributes (R463). An MRAM record (R465) is such a key with the VSK it was wrapped under. -/
structure VaultKey where
  alg : BitVec 8
  uses : BitVec 16
  origin : BitVec 8
  exportable : Bool
  persist : Bool
  key : Bytes
  deriving DecidableEq, Repr

/-- A task of a lantern build that was started and has not ended well (R163): its number, how often it was replayed, the units that failed an attempt of it, and the wicks that serve it, none while it waits for its replay. -/
structure LanternTask where
  number : Nat
  retries : Nat
  failed : List UnitId
  units : List UnitId
  deriving DecidableEq, Repr

/-- What a key or blob made by a job takes from the slice's defaults (R463, R471, R500): USES, EXPORTABLE, and whether blobs are bound. -/
structure KeyRules where
  uses : BitVec 16
  exportable : Bool
  bindBlobs : Bool
  deriving DecidableEq, Repr

/-- A lantern build (R162, R163): the check value of its key, how many tasks it has started, and those of them in progress. -/
structure LanternBuild where
  check : Bytes
  started : Nat
  tasks : List LanternTask
  deriving DecidableEq, Repr

/-- A fetched and unpublished job (R50, R53, R80, R84): its number in fetch order, its queue slot and ring count, its slice, its words, what was read for it from host memory, its phase, its status and w6, its staged output, the key that enters a vault slot at its commit, values it drew, its retry count, the units that failed an attempt of it (R52), the units that serve it, those that served the attempt whose result it has staged (R51, R54), the randomness its attempt drew so far (R199), the check value of a key that names a lantern entry (R162, R168), the tasks of a lantern build, StrikeClearJobs and WaitWatchdog as they stood at its fetch (R224), wick cycles, taper cycles and shroud words charged, whether it waits for randomness (R493), whether its input has passed a digester (R247), the sconces and tapers its slice had under steady scheduling when it was fetched (R575), and its object progress. -/
structure Job where
  id : Nat
  slot : Nat
  count : Nat
  slice : Nat
  entry : RingEntry
  data : HostData
  phase : JobPhase
  status : BitVec 8
  w6 : BitVec 64
  output : Bytes
  keyOut : Option (Nat × VaultKey)
  drawn : List Nat
  retries : Nat
  failed : List UnitId
  units : List UnitId
  served : List UnitId
  kept : List Bytes
  check : Bytes
  build : Option LanternBuild
  taperRules : Nat × Nat
  keyRules : KeyRules
  cycles : Nat
  taperCycles : Nat
  shroud : Nat
  waitsEntropy : Bool
  snooped : List Nat
  steady : Option (Nat × Nat)
  object : Option ObjectState
  deriving DecidableEq, Repr

/-! ### Queues, functions, dispatch -/

/-- A scan's range from its doorbell: the scan count when the doorbell was taken and D (R396), and the entries re-read already. -/
structure ScanRange where
  start : Nat
  len : Nat
  reread : List Nat
  deriving DecidableEq, Repr

/-- A run of entries asked for and not returned (R395), with the rule epoch its read was checked under (R369); `dropped` runs are discarded when they return (R398, R399). -/
structure RingRun where
  start : Nat
  len : Nat
  epoch : Nat
  dropped : Bool
  deriving DecidableEq, Repr

/-- A queue beside its QueueSlot entries: counts since enable of entries scanned and fetched, the prefetch cache of R395 (count and entry), the runs in flight, the doorbell's range, whether scanning is stopped at an entry with O = 0, the entry whose re-read is due (R396), completed entries above the published prefix with their IRQ bits (R402), the credit of the round (R404), whether an entry with IRQ joined the prefix since the last head write (R406), the last acknowledgement (R386), the ABORT in progress with its token and the entries it may still find (R399), the doorbells that wait for it (R394), the fetches left in the dispatcher's present visit, and Burst and InFlightLimit as the present round takes them (R390, R404). -/
structure Queue where
  scanned : Nat
  fetched : Nat
  cache : List (Nat × RingEntry)
  runs : List RingRun
  range : ScanRange
  stopped : Bool
  rereadDue : Option Nat
  done : List (Nat × Bool)
  irqDue : Bool
  ackDue : Bool
  credit : Nat
  inRound : Bool
  ackCmd : BitVec 8
  ackToken : BitVec 8
  ackResult : BitVec 8
  ackFetch : BitVec 32
  aborting : Option (BitVec 8 × Nat)
  doorbells : List (BitVec 32)
  visit : Nat
  burst : Nat
  limit : Nat
  deriving DecidableEq, Repr

/-- The power state of a function (R375, R410). -/
inductive FnPower where
  | d0
  | d3hot
  | d3cold
  deriving DecidableEq, Repr

/-- An MSI-X table entry (R378, R406). -/
structure MsixEntry where
  address : BitVec 64
  data : BitVec 32
  masked : Bool
  deriving DecidableEq, Repr

/-- A host write that waits while its function issues none (R381, R410): the publication of a job, the status block of a slot, or plaintext of a restore. -/
inductive Held where
  | publication (job : Nat)
  | status (slot : Nat)
  | plaintext (w : HostWrite)
  deriving DecidableEq, Repr

/-- The function of a host link (R379, R381, R406, R408, R410). -/
structure HostFn where
  pasidEnable : Bool
  msixEnable : Bool
  functionMask : Bool
  power : FnPower
  ready : Bool
  held : List Held
  msix : Table MsixEntry
  pendingVectors : List Nat
  deriving DecidableEq, Repr

/-! ### Reservoir -/

/-- What an extent is for: those of areas 2 to 4 (R348), and in a slice window (area 1) the input and the output that a run of an owner program uses (R290). -/
inductive ExtentUse where
  | stream (s : Nat)
  | lantern (entry : Nat)
  | mceliece (entry : Nat)
  | owner (job : Nat) (out : Bool)
  deriving DecidableEq, Repr

/-- An extent a slice holds (R348, R290). -/
structure Extent where
  area : Nat
  base : Nat
  size : Nat
  slice : Nat
  use : ExtentUse
  deriving DecidableEq, Repr

/-- A channel arbiter (R354, R356 to R360): grants made, the last 16 grant cycles newest first, the waiting requests oldest first, and per requester (slice number, or 512 for the device) its last grant cycle, its floor credit in 1/76,800 byte and the cycle that credit was brought up to. -/
structure Arbiter where
  grants : Nat
  recent : List Nat
  waiting : List ChannelRequest
  lastGrant : Table Nat
  credit : Table Nat
  creditAt : Nat
  deriving DecidableEq, Repr

/-! ### Media streams -/

/-- A record of an egress stream that is ready, or one a restore stream holds (R435, R439, R442): its RSN, the job it belongs to, its TYPE, its bytes, its end in record bytes from the start of the EPOCH, how many of its bytes were sent, the SEQ of its LAST frame, whether that frame is acknowledged, and whether a restore job took it. -/
structure StreamRecord where
  rsn : BitVec 32
  job : Nat
  kind : Nat
  bytes : Bytes
  endPos : Nat
  offset : Nat
  lastSeq : BitVec 32
  acked : Bool
  taken : Bool
  deriving DecidableEq, Repr

/-- A record that has passed its octet and that a digester there has still to absorb (R238, R247): its place in stream order, whether it was received, its bytes, and the digesters that have absorbed it. -/
structure PassedRecord where
  number : Nat
  received : Bool
  bytes : Bytes
  seen : List Nat
  deriving DecidableEq, Repr

/-- A sequenced frame sent and not acknowledged, with the hub cycle it was sent in (R433). -/
structure UnackedFrame where
  frame : SentFrame
  at_ : Nat
  deriving DecidableEq, Repr

/-- A stream beside its MediaStream entries (R419 to R447): its previous EPOCH, whether a new one waits to be drawn (R493), the next SEQ it sends and expects, what its last CREDIT acknowledged, its unacknowledged frames and retransmissions without advance, the peer's WINDOW, CONSUMED and COMMITTED_RSN, the end of its last ready record and of its last acknowledged one, the RSN of that one, the advertised steps (rate, coast) and BUFFER, its records, the next RSN, the STOP_RSN in force, whether it fills after a start from rest or flushes (R439), the record or feed bytes arriving, a feed's object ordinal and offset, whether its object or drop waits for a stop (R444, R448), early warning (R445), the hub cycle it last heard its peer, whether that timer's expiry was reported (R447), whether a STATUS is queued and when one was last sent, the FILEMARKs sent and not acknowledged (job, SEQ) and those held (job, count), the chain value after the last record it began to send and that record's job (R98, R448), ERROR 0005h received (R446), the object job it carries, and for the digesters of its octet the records that passed, how many did, and the RSN of the last (R238, R247). -/
structure Stream where
  lastEpoch : BitVec 32
  epochDue : Bool
  txSeq : BitVec 32
  rxSeq : BitVec 32
  rxAcked : BitVec 32
  unacked : List UnackedFrame
  retries : Nat
  window : Nat
  consumed : Nat
  committed : Option (BitVec 32)
  readyEnd : Nat
  ackedEnd : Nat
  ackedRsn : BitVec 32
  steps : List (Nat × Nat)
  buffer : Nat
  records : List StreamRecord
  nextRsn : BitVec 32
  stopRsn : Option (BitVec 32)
  filling : Bool
  flush : Bool
  arriving : Option (BitVec 32 × Bytes)
  ordinal : BitVec 32
  feedOffset : Nat
  dropping : Bool
  stopping : Bool
  earlyWarning : Bool
  heardAt : Nat
  timedOut : Bool
  statusDue : Bool
  statusAt : Nat
  marksSent : List (Nat × BitVec 32)
  marksHeld : List (Nat × Nat)
  lastChain : Option (Nat × Bytes)
  starves : Nat
  currentJob : Option Nat
  passing : List PassedRecord
  passed : Nat
  passedRsn : Option (BitVec 32)
  deriving DecidableEq, Repr

/-! ### Wicks -/

/-- One DMA transfer of a wick (R275, R276): its direction, local range, reservoir address and format. -/
structure DmaTransfer where
  write : Bool
  local_ : Nat
  words : Nat
  address : Nat
  p72 : Bool
  deriving DecidableEq, Repr

/-- The sponge functions of SPINIT (R278). -/
inductive SpongeFn where
  | keccak
  | sha256
  | sha512
  | sha384
  deriving DecidableEq, Repr

/-- The sponge unit (R257, R278, R279): the two shares of 25 lanes (SHA-2 keeps its chaining value in the first lanes), the block buffer shares, RATE, MASKED, TAINT, and whether an SPPERM followed the last SPKEY. -/
structure Sponge where
  fn : SpongeFn
  masked : Bool
  rate : Nat
  taint : Bool
  permuted : Bool
  share0 : List (BitVec 64)
  share1 : List (BitVec 64)
  block0 : List (BitVec 64)
  block1 : List (BitVec 64)
  deriving DecidableEq, Repr

/-- The FV island of a wick (R324, R328, R331): off; waking, from a wake that began at a performance level of the sconce (6 while that changes), after so many cycles of a save; on; or saving its registers for so many more cycles. -/
inductive Island where
  | off
  | waking (level after : Nat)
  | on
  | saving (left : Nat)
  deriving DecidableEq, Repr

/-- The shroud generator (R316 to R318): whether it is keyed, the words in its FIFO, words produced under the key, words delivered in the attempt, the cycles of the attempt in which an instruction that has issued will draw one, the words an instruction that waits for a key has drawn already (R674), and a rekey under way. -/
structure Shroud where
  keyed : Bool
  fifo : Nat
  produced : Nat
  consumed : Nat
  due : List Nat
  got : Nat
  rekeying : Bool
  deriving DecidableEq, Repr

/-- Why a wick's instruction did not issue (R269). -/
inductive Stall where
  | none
  | dma (tag : Nat)
  | tag
  | fence
  | drain
  | gangIn
  | gangOut
  | shroud
  | keyPath
  | fvWake
  deriving DecidableEq, Repr

/-- The program resident in a wick (R286, R287): level, kind, identity, instruction count, entry, cycle budget. -/
structure Program where
  level1 : Bool
  owner : Bool
  id : Nat
  instrCount : Nat
  entry : Nat
  maxCycles : Nat
  secretMask : BitVec 128
  deriving DecidableEq, Repr

/-- The key whose expansion a wick keeps (R128, R129): session, its generation, the key reference, the masking order, and whether the private part is there or only the public one (R139). -/
structure Residency where
  session : Nat
  gen : BitVec 16
  keyRef : BitVec 64
  order2 : Bool
  full : Bool
  deriving DecidableEq, Repr

/-- What the last fault of a wick carried (R275, R281): the reservoir address and the wick's pc of a precise MPU fault, or the pc and the code of a TRAP. -/
structure WickReport where
  address : Nat
  pc : BitVec 14
  code : BitVec 8
  deriving DecidableEq, Repr

/-- A wick (R257, R265, R296, R316, R324). `cycles` is c3; `gReady`, `sReady` and `fReady` hold, per register, the cycle of the attempt from which its value may be used, and `svFree` and `spongeFree` the cycle from which the unit is free (R269, R270, R304). `doneWith` is the status of its DONE, until its attempt ends (R86, R281); `hints` is the latest hint of each channel (R283). -/
structure Wick where
  g : Table Word72
  pc : BitVec 14
  napCtl : BitVec 17
  mod : Word72
  fvIdle : Nat
  mpu : Table Word72
  mpuEpoch : BitVec 16
  gmask : BitVec 128
  pmem : Table Word72
  dmem : Table Word72
  wkr : BitVec 512
  wkrAlg : BitVec 8
  keyed : Bool
  sponge : Sponge
  dma : Table DmaTransfer
  writeBuffer : List (Nat × Nat × Bytes)
  gangIn : List Word72
  gangOut : Option Word72
  sregs : Table (BitVec 144)
  stags : BitVec 32
  fregs : Table (BitVec 128)
  island : Island
  idleCount : Nat
  shroud : Shroud
  svBeats : Nat
  svmBeats : Nat
  cycles : Nat
  gReady : Table Nat
  sReady : Table Nat
  fReady : Table Nat
  svFree : Nat
  spongeFree : Nat
  hint : BitVec 18
  hints : Table (BitVec 12)
  napping : Bool
  stall : Stall
  doneWith : Option (BitVec 8)
  report : Option WickReport
  program : Option Program
  job : Option Nat
  gang : Bool
  order2 : Bool
  taper : Option Nat
  resident : Option Residency
  lastSlice : Option Nat
  deriving DecidableEq, Repr

/-! ### Tapers, sealers, digesters -/

/-- The macro-operations of a taper (R207). -/
inductive MacroOp where
  | rsaCrtExp
  | rsaPubExp
  | rsaKeyCheck
  | ecSign
  | ecVerify
  | ecMul
  | edSign
  | edVerify
  | edMul
  | xMul
  deriving DecidableEq, Repr

/-- A macro-operation of an attempt (R207): which, the ALG it serves and its slot length L. -/
structure MacroRun where
  op : MacroOp
  alg : Nat
  slotLength : Nat
  deriving DecidableEq, Repr

/-- A taper (R192 to R194, R217 to R219). `runs` are the macro-operations its attempt still has to run after the present one (R207), `prepared` tells that its inputs have come (R205), and `strikeRule` is StrikeClearJobs of the last job it took (R224). -/
structure Taper where
  memory : Table Word72
  rowB : Table (BitVec 64)
  rowN : Table (BitVec 64)
  q : BitVec 64
  acc : BitVec 640
  carry : Bool
  zero : Bool
  borrow : Bool
  latch : Bool
  blind : BitVec 64
  nPrime : BitVec 64
  pointers : Table (BitVec 10)
  indices : Table (BitVec 7)
  counters : Table (BitVec 16)
  stack : List (BitVec 12)
  cmpEq : Bool
  run2 : Bool
  jobBits : BitVec 4
  firstUse : Bool
  keyPath : List Word72
  staging : List Word72
  entry : BitVec 12
  address : BitVec 12
  waiting : Option (BitVec 128)
  slotLength : Nat
  modulus : Nat
  runs : List MacroRun
  prepared : Bool
  strikeRule : Nat
  cleanJobs : Nat
  ended : Bool
  mustWipe : Bool
  job : Option Nat
  deriving DecidableEq, Repr

/-- The taper control store beyond its ROM (R216, R221): patch RAM and the patch map. -/
structure ControlStore where
  patch : Table (BitVec 128)
  map : List (BitVec 12 × BitVec 12)
  deriving DecidableEq, Repr

/-- An ingest sealer (R226, R228, R236): the octet it is bound to, and its key register: the key, the hash key derived from it, the job it was loaded for, that job's object with its salt, EPOCH and next segment, and the data buffer of KWP. -/
structure Sealer where
  octet : Nat
  key : Option Bytes
  hashKey : Bytes
  job : Option Nat
  object : Option (BitVec 64)
  salt : BitVec 64
  epoch : Nat
  nextSegment : Nat
  data : Bytes
  deriving DecidableEq, Repr

/-- What a software digest context is attached to (R244, R246). -/
inductive Attach where
  | none
  | queue (slot : Nat)
  | stream (s : Nat) (received : Bool)
  deriving DecidableEq, Repr

/-- A digest context (R239, R245, R248, R249): who holds it, its generation and the previous one, what it absorbed since EMPTY, its result register, the DIG_FINISH jobs that wait for a boundary, the last item it absorbed (the number of a record of its stream, or a job's number + 1), and its checkpoint, which is what it absorbed (R241). -/
structure DigestContext where
  gen : BitVec 16
  session : Nat
  slice : Nat
  alg : BitVec 8
  outLen : Nat
  secret : Bool
  attach : Attach
  absorbing : Bool
  absorbed : Bytes
  result : Option Bytes
  finishJobs : List Nat
  lastItem : Nat
  objectJob : Option Nat
  isOpen : Bool
  deriving DecidableEq, Repr

/-! ### Caches and programs -/

/-- A lantern cache entry (R162 to R168); its number is that of the job that built it. -/
structure LanternEntry where
  id : Nat
  slice : Nat
  alg : BitVec 8
  check : Bytes
  size : Nat
  validFrom : Option Nat
  pins : List Nat
  dropped : Bool
  deriving DecidableEq, Repr

/-- A McEliece key cache entry (R182 to R184). -/
structure MceEntry where
  gen : BitVec 16
  slice : Nat
  alg : BitVec 8
  key : Bytes
  size : Nat
  pins : List Nat
  dropped : Bool
  live : Bool
  deriving DecidableEq, Repr

/-- A loaded owner program (R289, R290). -/
structure OwnerProgram where
  gen : BitVec 16
  image : Bytes
  pins : List Nat
  dropped : Bool
  live : Bool
  deriving DecidableEq, Repr

/-! ### Vault and entropy -/

/-- An ember (R484). -/
inductive Ember where
  | healthy
  | failed
  | testing
  deriving DecidableEq, Repr

/-- A DRBG instance (R486, R488): whether instantiated, generate requests since its reseed, whether it holds, and the key and V of its CTR_DRBG. -/
structure Drbg where
  ready : Bool
  requests : Nat
  holding : Bool
  key : Bytes
  v : BitVec 128
  deriving DecidableEq, Repr

/-- The entropy block (R483 to R495): embers, outputs of blocks that wait to form a seed with the ember of each, seeds in the pool with the oldest first, instances, instances that hold in the order their reseeds fell due, GUTTER and its expired timeout, whether the block failed, and whether it is still starting. -/
structure Entropy where
  embers : Table Ember
  halfSeeds : List (Nat × Bytes)
  pool : List Bytes
  drbgs : Table Drbg
  holdOrder : List Nat
  gutter : Bool
  expired : Bool
  failed : Bool
  starting : Bool
  startupDone : Bool
  deriving DecidableEq, Repr

/-! ### Faults -/

/-- An open event of the fault collector (R629, R632). -/
structure FaultEvent where
  opened : Nat
  time : BitVec 64
  accused : UnitId
  detector : UnitId
  code : BitVec 16
  severity : Nat
  override : Bool
  replayed : Bool
  atLimit : Bool
  reports : Nat
  slice : UnitId
  seq : BitVec 32
  detail : BitVec 64
  deriving DecidableEq, Repr

/-- The fatal stop (R641): the event that caused it, and whether the dump is done and the ROM serves (step 6). -/
structure FatalStop where
  event : FaultEvent
  served : Bool
  before : BitVec 8
  deriving DecidableEq, Repr

/-! ### HOP and mailboxes -/

/-- What the server keeps for one requester (R546, R547). -/
structure RequesterState where
  who : Requester
  assembly : Option (BitVec 24 × Bytes)
  snapshot : Option (BitVec 24 × Bytes)
  lastSeq : Option (BitVec 32)
  lastResponse : Option HopResponse
  deriving DecidableEq, Repr

/-- An open HOP session (R549, R552). -/
structure HopSession where
  number : BitVec 32
  keySlot : BitVec 8
  address : BitVec 48
  key : Bytes
  lastSeq : BitVec 32
  deriving DecidableEq, Repr

/-- The pending HOP session between steps 2 and 4 of R549. -/
structure PendingSession where
  number : BitVec 32
  keySlot : BitVec 8
  address : BitVec 48
  nonceM : Bytes
  nonceD : Bytes
  ephemeral : Bytes
  encapKey : Bytes
  deriving DecidableEq, Repr

/-- An AUTH_BEGIN that waits for randomness (R551): its frame, what it has drawn, and the hub cycle its second ends in. -/
structure AuthWait where
  frame : HopFrame
  drawn : List Bytes
  due : Nat
  deriving DecidableEq, Repr

/-- The HOP server (R528, R546, R551). -/
structure Hop where
  server : Option Server
  requesters : List RequesterState
  sessions : List HopSession
  pending : Option PendingSession
  authWait : Option AuthWait
  failures : Nat
  lockedOut : Bool
  deriving DecidableEq, Repr

/-- The registers of a mailbox (R536). -/
structure Mailbox where
  addr : BitVec 32
  len : BitVec 32
  status : BitVec 32
  data : Bytes
  deriving DecidableEq, Repr

/-- The operation that completes later than its write is accepted, when an erase of a vault slot commits (R468) or the accesses checked under an earlier rule epoch have ended (R370, R539): none, a path's, a HOP request, or one of a mailbox. -/
inductive LateReply where
  | nobody
  | path (p : Path)
  | hop (who : Requester) (frame : HopFrame)
  | mailbox (link slc : Nat) (addr : BitVec 32)
  deriving DecidableEq, Repr

/-- A write of a host window that has not completed (R370): what it writes, the operation that completes with it, and whether it is accepted; one that is not waits for an earlier write of the same slice's set. -/
structure WindowWrite where
  slice : Nat
  window : Nat
  value : Nat
  reply : LateReply
  taken : Bool
  deriving DecidableEq, Repr

/-! ### Life cycle, power, tamper -/

/-- The fuses and the pilot's keys (R454, R502, R507, R514): the three copies of the code, the copies as read at boot, the owner key hash row, the URS, whether a power loss left its row partial (R514), the CK, and the vault's own keys. -/
structure Roots where
  c1 : BitVec 16
  c2 : BitVec 16
  c3 : BitVec 16
  copiesRead : BitVec 48
  ownerHash : Bytes
  urs : Option Bytes
  rowPartial : Bool
  ck : Option Bytes
  drk : Option Bytes
  mbk : Option Bytes
  osk : Option Bytes
  attestSecret : Option Bytes
  vaultSession : Option Bytes
  utkSeed : Option Bytes
  measurement : Bytes
  deriving DecidableEq, Repr

/-- The power states (R579) and the boot and halt conditions beside them (R616 POWER). -/
inductive PowerState where
  | lit
  | low
  | dark
  | cell
  | booting
  | halted
  deriving DecidableEq, Repr

/-- The supplies and the pilot's pins (R656, R660 to R665). -/
structure Supplies where
  vstby : Bool
  vbat : Bool
  rails : BitVec 8
  sysclk : Bool
  mainEn : Bool
  railRetry : Bool
  wakeLevels : BitVec 8
  refclk100 : BitVec 2
  refclk156 : BitVec 4
  deriving DecidableEq, Repr

/-- The retention block (R593, R594): its time and, per slot, Kind, SizeLog2, RingBase, StatusAddr, Weight, Burst and InFlightLimit where they are not at their defaults. -/
structure Retention where
  time : BitVec 64
  slots : Table Nat
  deriving DecidableEq, Repr

/-- A sconce beside its SconcePower entries (R599, R600, R601). -/
structure Sconce where
  target : Nat
  draining : Bool
  deriving DecidableEq, Repr

/-- The tamper logic beside its dictionary entries (R609, R610, R613, R617, R620): sources not armed, open samples of each loop, the condition of each source, the source under test and whether its stimulus' deadline has passed, the timestamps of recent integrity failures. -/
structure Tamper where
  snuffDue : Option Nat
  snuffHalt : Bool
  disarmed : BitVec 10
  openOnce : BitVec 4
  testSource : Option Nat
  testAlarmed : Bool
  testJudged : Bool
  failures : List (BitVec 64)
  deriving DecidableEq, Repr

/-- An entry to LOW or DARK before its commit point, and the hub cycle of that point (R584, R585). -/
structure PowerEntry where
  dark : Bool
  due : Nat
  deriving DecidableEq, Repr

/-! ### The whole device -/

/-- The device. `layout`, `windows`, `quotas`, `links` and `modes` hold the area boundaries, the slice windows, the extent quotas (stream, lantern, McEliece; in MiB), the octets of the enabled host links (first octet and count) and the octets' media modes as the last entry to LIT took them (R346, R347, R350, R411, R451). -/
structure State where
  variant : Variant
  timestamp : BitVec 64
  hubCycle : Nat
  freeIndex : Nat
  dict : Table Nat
  out : List Emission
  notices : List Notice
  sessions : Table Session
  cache : List CacheEntry
  jobs : List Job
  nextJob : Nat
  queues : Table Queue
  lastServed : Nat
  lastSteady : Nat
  fetchStopped : Bool
  fns : Table HostFn
  reservoir : List Host.Cell
  lineTags : Table Nat
  sealSets : Table Bytes
  extents : List Extent
  clearing : List Nat
  clearingAll : Bool
  layout : Nat × Nat × Nat
  windows : Table (Nat × Nat)
  quotas : Table (Nat × Nat × Nat)
  links : Table (Nat × Nat)
  modes : Table Nat
  arbiters : Table Arbiter
  streams : Table Stream
  pauses : Table Nat
  wicks : Table Wick
  tapers : Table Taper
  control : ControlStore
  sealers : Table Sealer
  digesterOctets : Table Nat
  digesterAt : Table (List Nat)
  contexts : Table DigestContext
  lanterns : List LanternEntry
  mces : Table MceEntry
  programs : Table OwnerProgram
  library : List Bytes
  vault : Table VaultKey
  mram : Table (Bytes × VaultKey)
  erasing : List (Nat × Nat × LateReply)
  windowWrites : List WindowWrite
  entropy : Entropy
  events : List FaultEvent
  eventLog : Table Bytes
  quietStart : BitVec 64
  selfOwn : List UnitId
  relightDue : List UnitId
  fatal : Option FatalStop
  dump : Bytes
  hop : Hop
  mailboxes : Table Mailbox
  mirrorBuilt : Bool
  resetPending : Option (BitVec 8)
  roots : Roots
  flash0 : List Host.Cell
  flash1 : List Host.Cell
  power : PowerState
  entering : Option PowerEntry
  activityAt : BitVec 64
  lowSince : BitVec 64
  retention : Option Retention
  supplies : Supplies
  sconces : Table Sconce
  tamper : Tamper
  pending : List Instr
  deriving DecidableEq, Repr

/-- Why the machine stops with a fault. The spec gives every command an effect, so no meaning raises one; the single reason is kept for the form of an outcome. -/
inductive Fault where
  /-- Raised by no meaning. Safe: it never stops a run. -/
  | unreachable
  deriving DecidableEq, Repr

/-- Why a command is refused. -/
inductive Refusal where
  /-- Raised by the dispatch for a command that has no meaning yet. Safe: the run stops. -/
  | notModelled (mnemonic : String)
  deriving DecidableEq, Repr

/-- The sponge unit cleared (R259). -/
def Sponge.cleared : Sponge :=
  { fn := .keccak, masked := false, rate := 0, taint := false, permuted := false, share0 := [], share1 := [], block0 := [], block1 := [] }

/-- The entropy block at power-up: every ember TESTING, nothing instantiated (R489, R498). -/
def Entropy.reset : Entropy :=
  { embers := [], halfSeeds := [], pool := [], drbgs := [], holdOrder := [], gutter := false, expired := false, failed := false, starting := true, startupDone := false }

/-- The device right after a device reset with its rails in range (R522 step 1): the pilot serves, every entry is at its default, nothing is fetched, every store is clear. It is a new unit at its first power-up, so TimestampRestarted (B010h:0Fh) is set (R26). -/
def State.reset : State :=
  { variant := .a256, timestamp := 0, hubCycle := 0, freeIndex := 0, dict := [(0xB0100F, 1)], out := [], notices := [],
    sessions := [], cache := [], jobs := [], nextJob := 0, queues := [], lastServed := 2047, lastSteady := 511,
    fetchStopped := false, fns := [], reservoir := [], lineTags := [], sealSets := [], extents := [], clearing := [], clearingAll := false,
    layout := (0x2DFB000000, 0x31FB000000, 0x35FB000000), windows := [], quotas := [], links := [], modes := [], arbiters := [], streams := [], pauses := [],
    wicks := [], tapers := [], control := { patch := [], map := [] }, sealers := [], digesterOctets := [], digesterAt := [], contexts := [],
    lanterns := [], mces := [], programs := [], library := [], vault := [], mram := [], erasing := [], windowWrites := [], entropy := Entropy.reset,
    events := [], eventLog := [], quietStart := 0, selfOwn := [], relightDue := [], fatal := none, dump := [],
    hop := { server := some .pilot, requesters := [], sessions := [], pending := none, authWait := none, failures := 0, lockedOut := false },
    mailboxes := [], mirrorBuilt := false, resetPending := none,
    roots := { c1 := 0, c2 := 0, c3 := 0, copiesRead := 0, ownerHash := List.replicate 32 0, urs := none, rowPartial := false, ck := none, drk := none,
               mbk := none, osk := none, attestSecret := none, vaultSession := none, utkSeed := none, measurement := [] },
    flash0 := [], flash1 := [], power := .booting, entering := none, activityAt := 0, lowSince := 0, retention := none,
    supplies := { vstby := true, vbat := true, rails := 0xFF, sysclk := true, mainEn := true, railRetry := false, wakeLevels := 0, refclk100 := 3, refclk156 := 0xF },
    sconces := [], tamper := { snuffDue := none, snuffHalt := false, disarmed := 0, openOnce := 0, testSource := none, testAlarmed := false, testJudged := false, failures := [] },
    pending := [] }

end Sys2Proof.Machine
end

