-- ==== Sys2Proof/Config.lean ====
section
/-! DEFINITION. What one implementation fixes (per-unit constants) and the free values: constants without a body, so that nothing can be proved of their value. -/

namespace Sys2Proof

/-- The n-th free value: one for each place where the spec leaves a value open; n is State.freeIndex. -/
opaque Config.free : Nat → Nat

/-- How drawn bytes become a number that must avoid some values, a generation, an EPOCH or a SESSION: the spec does not say (log 2). -/
opaque Config.drawn : Bytes → Nat

/-- The 128-bit unit ID (R525, R558). -/
opaque Config.unitId : BitVec 128

/-- The shelf-bus MAC address (R558). -/
opaque Config.shelfMac : BitVec 48

/-- The MAC address of a media port (R418, R452). -/
opaque Config.portMac : Nat → BitVec 48

/-- The vendor transition key hash (R505, R525). -/
opaque Config.transitionKeyHash : BitVec 256

/-- The firmware key hash (R517, R525). -/
opaque Config.firmwareKeyHash : BitVec 256

/-- BCD week of manufacture (R558). -/
opaque Config.manufactureWeek : BitVec 16

/-- Whether the part has the extended temperature grade (R1). -/
opaque Config.extendedGrade : Bool

/-- The part number of R1. -/
def Config.partNumber (v : Machine.Variant) : String :=
  match v, Config.extendedGrade with
  | .a256, false => "VT-9256-A256-S"
  | .a256, true => "VT-9256-A256-E"
  | .a128, false => "VT-9256-A128-S"
  | .a128, true => "VT-9256-A128-E"

/-- A byte string the spec leaves open as a function of what it depends on: byte `i` of string `op` for its arguments. 1 to 3 lengthen the draw of a Classic McEliece or HQC encapsulation; 4 to 12 are the places of a patch bundle's and the wick library's fields inside their sections (log 3). -/
opaque Config.oracle : Nat → List Bytes → Nat → BitVec 8

/-- The first n bytes of such a string. -/
def Config.bytes (op n : Nat) (args : List Bytes) : Bytes :=
  (List.range n).map (Config.oracle op args)

/-- The bytes of a taper patch bundle that its signature covers (R221, log 3). -/
opaque Config.signedPart : Bytes → Bytes

/-- The control-store address a macro-operation's microcode starts at (R207, log 20). -/
opaque Config.macroEntry : Machine.MacroOp → BitVec 12

/-- The bytes of the state of a digest context that a boundary writes, by algorithm (R241, log 61). -/
opaque Config.checkpointBytes : Nat → Nat

/-- The bytes one sealer can take ahead of a feed (R230, R434, log 35). -/
opaque Config.sealerRoom : Nat

/-- The library routine that runs a job, from its opcode and algorithm (R286, R287, log 58). -/
opaque Config.routine : Nat → Nat → Nat

/-- Whether the wick library of the firmware image with a measurement holds the second-order routines (R555). -/
opaque Config.order2Library : Bytes → Bool

end Sys2Proof
end

