-- ==== Sys2Proof/Machine/Table.lean ====
section
/-! DEFINITION. Sparse tables (a default for every unlisted key, one canonical form), byte strings as little-endian numbers (R8), bit fields, and serial arithmetic (R23). -/

namespace Sys2Proof.Machine

/-- The value under a key: the listed one, else the default. -/
def Table.get {α : Type} (d : Nat → α) : Table α → Nat → α
  | [], k => d k
  | (j, v) :: r, k => if j = k then v else Table.get d r k

/-- Put a pair before the first listed key that is larger. -/
def Table.insert {α : Type} : Table α → Nat → α → Table α
  | [], k, v => [(k, v)]
  | (j, w) :: r, k, v => if k < j then (k, v) :: (j, w) :: r else (j, w) :: Table.insert r k v

/-- Store a value under a key, keeping keys rising and defaults unlisted. -/
def Table.set {α : Type} [DecidableEq α] (d : Nat → α) (t : Table α) (k : Nat) (v : α) : Table α :=
  let rest := t.filter fun p => p.1 ≠ k
  if v = d k then rest else Table.insert rest k v

/-- Canonical form: keys rise strictly and no listed value equals the default of its key. -/
abbrev Table.wf {α : Type} (d : Nat → α) (t : Table α) : Prop :=
  t.Pairwise (fun a b => a.1 < b.1) ∧ ∀ p ∈ t, p.2 ≠ d p.1

/-- The value of a byte string read as a little-endian number (R8). -/
def leNat : Bytes → Nat
  | [] => 0
  | b :: r => b.toNat + 256 * leNat r

/-- The n low bytes of a number, least significant first (R8). -/
def leBytes : Nat → Nat → Bytes
  | 0, _ => []
  | n + 1, v => BitVec.ofNat 8 v :: leBytes n (v / 256)

/-- A string's characters as bytes, padded with 00h (R11 STRING). -/
def strBytes (n : Nat) (t : String) : Bytes :=
  let b := t.toList.map fun c => BitVec.ofNat 8 c.toNat
  (b ++ List.replicate (n - b.length) 0#8).take n

/-- The characters of an ASCII label as bytes. -/
def ascii (t : String) : Bytes := t.toList.map fun c => BitVec.ofNat 8 c.toNat

/-- The value of a byte string read as a big-endian number, as the FIPS 180 and GCM standards order it. -/
def beNat (b : Bytes) : Nat := leNat b.reverse

/-- The n low bytes of a number, most significant first. -/
def beBytes (n v : Nat) : Bytes := (leBytes n v).reverse

/-- Bits [hi:lo] of a number (R7). -/
def bitsOf (v hi lo : Nat) : Nat := v / 2 ^ lo % 2 ^ (hi + 1 - lo)

/-- Bit i of a number (R7). -/
def bitOf (v i : Nat) : Bool := v / 2 ^ i % 2 = 1

/-- A number with bit i set or cleared (R7). -/
def withBit (v i : Nat) (b : Bool) : Nat :=
  if bitOf v i then (if b then v else v - 2 ^ i) else (if b then v + 2 ^ i else v)

/-- A number with bits [hi:lo] replaced (R7). -/
def withBits (v hi lo x : Nat) : Nat :=
  v - bitsOf v hi lo * 2 ^ lo + (x % 2 ^ (hi + 1 - lo)) * 2 ^ lo

/-- Serial comparison over n bits: a is later than b (R23). -/
def serialLater (n a b : Nat) : Bool :=
  let d := (a + 2 ^ n - b % 2 ^ n) % 2 ^ n
  1 ≤ d && d ≤ 2 ^ (n - 1) - 1

/-- The distance from b forward to a, modulo 2^n (R23). -/
def serialDiff (n a b : Nat) : Nat := (a % 2 ^ n + 2 ^ n - b % 2 ^ n) % 2 ^ n

/-- Bytes [off, off + n) of a byte string; past the end, zeros. -/
def cut (b : Bytes) (off n : Nat) : Bytes :=
  let c := (b.drop off).take n
  c ++ List.replicate (n - c.length) 0#8

/-- The little-endian number in bytes [off, off + n) of a byte string (R8). -/
def field (b : Bytes) (off n : Nat) : Nat := leNat ((b.drop off).take n)

/-- Exclusive or of two byte strings of one length. -/
def xorBytes (a b : Bytes) : Bytes := a.zipWith (· ^^^ ·) b

/-- The numbers from a up to but not including a + n. -/
def span (a n : Nat) : List Nat := (List.range n).map (a + ·)

/-- Ceiling of a quotient. -/
def ceilDiv (a b : Nat) : Nat := (a + b - 1) / b

/-- The unit ID of a class and an index (R15). -/
def unitOf (cls idx : Nat) : UnitId := BitVec.ofNat 16 (cls * 1024 + idx)

/-- CLASS of a unit ID (R15). -/
def unitClass (u : UnitId) : Nat := u.toNat / 1024

/-- INDEX of a unit ID (R15). -/
def unitIndex (u : UnitId) : Nat := u.toNat % 1024

/-- How many units a class has (R16): 0 for a class that is not assigned (R19). -/
def classSize (c : Nat) : Nat :=
  if c = 1 || c = 2 then 256 else if c = 3 then 16 else if c = 4 then 8 else if c = 5 then 33
  else if c = 6 || c = 7 then 32 else if c = 8 then 64 else if 9 ≤ c && c ≤ 13 then 1
  else if c = 14 then 8 else if c = 15 then 1024 else if c = 16 then 512 else if c = 17 then 1024
  else if c = 18 then 1 else 0

/-- The ID names a unit: its class is assigned and its index is in range (R16, R18, R19). -/
def unitExists (u : UnitId) : Bool := unitIndex u < classSize (unitClass u)

end Sys2Proof.Machine
end

