-- ==== Sys2Proof/Machine/Hash.lean ====
section
/-! DEFINITION. The checksums and hashes the device computes with: CRC-32C (R97), CRC-16 (R619), Keccak-f[1600] with SHA-3, SHAKE and KMAC256, SHA-2 and HMAC. The spec names their standards and does not reproduce them (log 3, PRESUMED). -/

namespace Sys2Proof.Machine

/-! ### CRC -/

/-- One bit step of CRC-32C, reflected (polynomial 82F63B78h). -/
def crc32cBit (c : Nat) : Nat := if c % 2 = 1 then (c / 2) ^^^ 0x82F63B78 else c / 2

/-- CRC-32C over a byte string: Castagnoli, initial value and final XOR all ones (R97). -/
def crc32c (b : Bytes) : Nat :=
  let step := fun (c : Nat) (x : Byte) =>
    crc32cBit (crc32cBit (crc32cBit (crc32cBit (crc32cBit (crc32cBit (crc32cBit (crc32cBit (c ^^^ x.toNat))))))))
  (b.foldl step 0xFFFFFFFF) ^^^ 0xFFFFFFFF

/-- One bit step of the flit code's CRC-16 (polynomial 8BB7h, not reflected). -/
def crc16Bit (c : Nat) : Nat := if 32768 ≤ c then (c * 2 % 65536) ^^^ 0x8BB7 else c * 2

/-- The integrity code of a flit over its data, address and source (R619). -/
def crc16 (b : Bytes) : Nat :=
  b.foldl (fun c x => crc16Bit (crc16Bit (crc16Bit (crc16Bit (crc16Bit (crc16Bit (crc16Bit (crc16Bit (c ^^^ (x.toNat * 256)))))))))) 0

/-! ### Keccak -/

/-- Lane (x, y) of a Keccak state stands at 5 × y + x. -/
def laneAt (a : List (BitVec 64)) (i : Nat) : BitVec 64 := a.getD i 0

/-- Rotation offsets of rho, by lane number: the walk of FIPS 202 from lane (1, 0) meets every other lane once, and step t rotates by t (t + 1) / 2. -/
def keccakRho : List Nat :=
  let walk := (List.range 24).foldl (fun (p : (Nat × Nat) × List (Nat × Nat)) t =>
    ((p.1.2, (2 * p.1.1 + 3 * p.1.2) % 5), p.2 ++ [(5 * p.1.2 + p.1.1, (t + 1) * (t + 2) / 2 % 64)])) ((1, 0), [])
  (List.range 25).map fun i => ((walk.2.find? fun p => p.1 = i).map (·.2)).getD 0

/-- Bit t of the shift register x^8 + x^6 + x^5 + x^4 + 1 that fills the round constants of iota. -/
def iotaBits : Nat → Nat → List Nat
  | 0, _ => []
  | n + 1, r => r % 2 :: iotaBits n (if 128 ≤ r then (2 * r - 256) ^^^ 0x71 else 2 * r)

/-- The round constants of iota: bit 2^j − 1 of constant i is bit j + 7 i of the register. -/
def keccakRc : List (BitVec 64) :=
  let bits := iotaBits 168 1
  (List.range 24).map fun i => BitVec.ofNat 64 ((List.range 7).map fun j => bits.getD (j + 7 * i) 0 * 2 ^ (2 ^ j - 1)).sum

/-- One Keccak round. -/
def keccakRound (a : List (BitVec 64)) (rc : BitVec 64) : List (BitVec 64) :=
  let c := (List.range 5).map fun x => laneAt a x ^^^ laneAt a (x + 5) ^^^ laneAt a (x + 10) ^^^ laneAt a (x + 15) ^^^ laneAt a (x + 20)
  let d := (List.range 5).map fun x => laneAt c ((x + 4) % 5) ^^^ (laneAt c ((x + 1) % 5)).rotateLeft 1
  let t := (List.range 25).map fun i => (laneAt a i ^^^ laneAt d (i % 5)).rotateLeft (keccakRho.getD i 0)
  -- pi: B[y, 2x + 3y] := A[x, y]
  let b := (List.range 25).map fun i =>
    let u := i % 5
    let v := i / 5
    laneAt t (5 * u + (u + 3 * v) % 5)
  let e := (List.range 25).map fun i =>
    let y := i / 5 * 5
    laneAt b i ^^^ (~~~ laneAt b (y + (i + 1) % 5) &&& laneAt b (y + (i + 2) % 5))
  e.set 0 (laneAt e 0 ^^^ rc)

/-- Keccak-f[1600]. -/
def keccakF (a : List (BitVec 64)) : List (BitVec 64) := keccakRc.foldl keccakRound a

/-- The 64-bit lanes of a byte string, little-endian. -/
def lanesOf (b : Bytes) (n : Nat) : List (BitVec 64) :=
  (List.range n).map fun i => BitVec.ofNat 64 (field b (8 * i) 8)

/-- The bytes of lanes, little-endian. -/
def lanesBytes (a : List (BitVec 64)) : Bytes := a.flatMap fun w => leBytes 8 w.toNat

/-- Split into blocks of n bytes, the last possibly shorter; none of an empty string. -/
def blocksOf (n : Nat) : Nat → Bytes → List Bytes
  | 0, _ => []
  | fuel + 1, b => if b.isEmpty then [] else b.take n :: blocksOf n fuel (b.drop n)

/-- Absorb one rate-sized block. -/
def absorbBlock (rate : Nat) (a : List (BitVec 64)) (b : Bytes) : List (BitVec 64) :=
  keccakF (a.zipWith (· ^^^ ·) (lanesOf (cut b 0 rate) 25))

/-- Squeeze n bytes. -/
def squeezeBytes (rate : Nat) : Nat → List (BitVec 64) → Nat → Bytes
  | 0, _, _ => []
  | fuel + 1, a, n =>
    let out := (lanesBytes a).take rate
    if n ≤ rate then out.take n else out ++ squeezeBytes rate fuel (keccakF a) (n - rate)

/-- The sponge over a message with a domain byte: pad10*1 with the domain bits first. -/
def keccakSponge (rate : Nat) (domain : Byte) (msg : Bytes) (n : Nat) : Bytes :=
  let z := rate - msg.length % rate
  let pad : Bytes := if z = 1 then [domain ||| 0x80] else domain :: (List.replicate (z - 2) 0#8 ++ [0x80#8])
  let m := msg ++ pad
  let a := (blocksOf rate (m.length / rate + 1) m).foldl (absorbBlock rate) (List.replicate 25 0#64)
  squeezeBytes rate (n / rate + 1) a n

def sha3_256 (m : Bytes) : Bytes := keccakSponge 136 0x06 m 32
def sha3_384 (m : Bytes) : Bytes := keccakSponge 104 0x06 m 48
def sha3_512 (m : Bytes) : Bytes := keccakSponge 72 0x06 m 64
def shake128 (m : Bytes) (n : Nat) : Bytes := keccakSponge 168 0x1F m n
def shake256 (m : Bytes) (n : Nat) : Bytes := keccakSponge 136 0x1F m n

/-- The number of bytes of a number's shortest big-endian form, at least 1. -/
def byteLen : Nat → Nat → Nat
  | 0, _ => 1
  | fuel + 1, v => if v < 256 then 1 else 1 + byteLen fuel (v / 256)

/-- left_encode of SP 800-185. -/
def leftEncode (v : Nat) : Bytes := leBytes 1 (byteLen 9 v) ++ beBytes (byteLen 9 v) v
/-- right_encode of SP 800-185. -/
def rightEncode (v : Nat) : Bytes := beBytes (byteLen 9 v) v ++ leBytes 1 (byteLen 9 v)
/-- encode_string of SP 800-185. -/
def encodeString (b : Bytes) : Bytes := leftEncode (8 * b.length) ++ b
/-- bytepad of SP 800-185. -/
def bytePad (w : Nat) (b : Bytes) : Bytes :=
  let x := leftEncode w ++ b
  x ++ List.replicate ((w - x.length % w) % w) 0#8

/-- KMAC256 with a key, data, output length in bytes and customisation string (R101, R476, R549). -/
def kmac256 (key data : Bytes) (n : Nat) (custom : String) : Bytes :=
  keccakSponge 136 0x04
    (bytePad 136 (encodeString (ascii "KMAC") ++ encodeString (ascii custom)) ++
      bytePad 136 (encodeString key) ++ data ++ rightEncode (8 * n)) n

/-! ### SHA-2 -/

/-- The integer part of the k-th root of v, found bit by bit below bit b. -/
def rootFloor (k v : Nat) : Nat → Nat → Nat
  | 0, r => r
  | b + 1, r => rootFloor k v b (if (r + 2 ^ b) ^ k ≤ v then r + 2 ^ b else r)

/-- The first primes: the 80 below 410. -/
def smallPrimes : List Nat := (List.range 410).filter fun p => 2 ≤ p && (span 2 19).all fun d => p ≤ d || p % d ≠ 0

/-- The first w bits of the fractional part of the k-th root of a prime, from which FIPS 180 takes every constant. -/
def rootBits (w k p : Nat) : BitVec w := BitVec.ofNat w (rootFloor k (p * 2 ^ (k * w)) (w + 5) 0)

/-- What the 32-bit and the 64-bit family differ in: the rotations of the four functions (the last of a small one a shift), and the rounds. -/
structure Sha2 where
  width : Nat
  rounds : Nat
  big0 : Nat × Nat × Nat
  big1 : Nat × Nat × Nat
  small0 : Nat × Nat × Nat
  small1 : Nat × Nat × Nat
  deriving DecidableEq, Repr

def sha2Of256 : Sha2 := { width := 32, rounds := 64, big0 := (2, 13, 22), big1 := (6, 11, 25), small0 := (7, 18, 3), small1 := (17, 19, 10) }
def sha2Of512 : Sha2 := { width := 64, rounds := 80, big0 := (28, 34, 39), big1 := (14, 18, 41), small0 := (1, 8, 7), small1 := (19, 61, 6) }

/-- A large function: three rotations. -/
def turn3 {w : Nat} (r : Nat × Nat × Nat) (x : BitVec w) : BitVec w := x.rotateRight r.1 ^^^ x.rotateRight r.2.1 ^^^ x.rotateRight r.2.2
/-- A small function: two rotations and a shift. -/
def turn2 {w : Nat} (r : Nat × Nat × Nat) (x : BitVec w) : BitVec w := x.rotateRight r.1 ^^^ x.rotateRight r.2.1 ^^^ x.ushiftRight r.2.2

/-- The next word of the schedule, from the last sixteen, newest first. -/
def Sha2.nextWord (f : Sha2) (l : List (BitVec f.width)) : BitVec f.width :=
  turn2 f.small1 (l.getD 1 0) + l.getD 6 0 + turn2 f.small0 (l.getD 14 0) + l.getD 15 0

/-- The schedule of a block, newest word first, lengthened word by word. -/
def Sha2.schedule (f : Sha2) : Nat → List (BitVec f.width) → List (BitVec f.width)
  | 0, l => l
  | n + 1, l => f.schedule n (f.nextWord l :: l)

/-- One round: a word of the schedule with its constant enters the eight working words. -/
def Sha2.round (f : Sha2) (v : List (BitVec f.width)) (x : BitVec f.width) : List (BitVec f.width) :=
  match v with
  | [p, q, r, s, t, u, y, z] =>
    let in1 := z + x + turn3 f.big1 t + ((t &&& u) ||| (~~~ t &&& y))
    let maj := (p &&& (q ||| r)) ||| (q &&& r)
    [in1 + turn3 f.big0 p + maj, p, q, r, s + in1, t, u, y]
  | _ => v

/-- The round constants: cube roots of the first primes. -/
def Sha2.constants (f : Sha2) : List (BitVec f.width) := (smallPrimes.take f.rounds).map (rootBits f.width 3)

/-- Bytes of a block: sixteen words. -/
def Sha2.block (f : Sha2) : Nat := f.width * 2

/-- The compression of a block into a chaining value. -/
def Sha2.compress (f : Sha2) (h : List (BitVec f.width)) (block : Bytes) : List (BitVec f.width) :=
  let n := f.width / 8
  let words := (List.range 16).reverse.map fun i => BitVec.ofNat f.width (beNat (cut block (n * i) n))
  let w := (f.schedule (f.rounds - 16) words).reverse
  h.zipWith (· + ·) ((w.zipWith (· + ·) f.constants).foldl f.round h)

/-- Padding to whole blocks: a one bit, zeros, and the bit length in two words. -/
def Sha2.pad (f : Sha2) (m : Bytes) : Bytes :=
  let tail := f.width / 4
  let z := (f.block - (m.length + 1 + tail) % f.block) % f.block
  m ++ [0x80#8] ++ List.replicate z 0#8 ++ beBytes tail (8 * m.length)

/-- The digest of a message from an initial value. -/
def Sha2.digest (f : Sha2) (iv : List (BitVec f.width)) (m : Bytes) : Bytes :=
  let p := f.pad m
  ((blocksOf f.block (p.length / f.block + 1) p).foldl f.compress iv).flatMap fun x => beBytes (f.width / 8) x.toNat

/-- The initial values: square roots of the first eight primes, and of the next eight for SHA-384. -/
def sha256Iv : List (BitVec 32) := (smallPrimes.take 8).map (rootBits 32 2)
def sha512Iv : List (BitVec 64) := (smallPrimes.take 8).map (rootBits 64 2)
def sha384Iv : List (BitVec 64) := ((smallPrimes.drop 8).take 8).map (rootBits 64 2)

def sha256Compress (h : List (BitVec 32)) (block : Bytes) : List (BitVec 32) := sha2Of256.compress h block
def sha512Compress (h : List (BitVec 64)) (block : Bytes) : List (BitVec 64) := sha2Of512.compress h block

def sha256 (m : Bytes) : Bytes := sha2Of256.digest sha256Iv m
def sha512 (m : Bytes) : Bytes := sha2Of512.digest sha512Iv m
def sha384 (m : Bytes) : Bytes := (sha2Of512.digest sha384Iv m).take 48

/-- The digest of an algorithm ID of R78; SHAKE output is n bytes long. -/
def digestOf (alg : Nat) (m : Bytes) (n : Nat) : Bytes :=
  if alg = 0x70 then sha256 m else if alg = 0x71 then sha384 m else if alg = 0x72 then sha512 m
  else if alg = 0x73 then sha3_256 m else if alg = 0x74 then sha3_384 m else if alg = 0x75 then sha3_512 m
  else if alg = 0x76 then shake128 m n else shake256 m n

/-- The fixed output length of a digest algorithm; 0 for the SHAKEs. -/
def digestSize (alg : Nat) : Nat :=
  if alg = 0x70 || alg = 0x73 then 32 else if alg = 0x71 || alg = 0x74 then 48
  else if alg = 0x72 || alg = 0x75 then 64 else 0

/-- HMAC over a hash with blocks of b bytes (RFC 2104). -/
def hmacOf (hash : Bytes → Bytes) (b : Nat) (key m : Bytes) : Bytes :=
  let k := if b < key.length then hash key else key
  let k := cut k 0 b
  hash (k.map (· ^^^ 0x5C#8) ++ hash (k.map (· ^^^ 0x36#8) ++ m))

/-- MGF1 of a hash with h-byte digests (RFC 8017). -/
def mgf1 (hash : Bytes → Bytes) (h : Nat) (seed : Bytes) (n : Nat) : Bytes :=
  ((List.range (ceilDiv n h)).flatMap fun i => hash (seed ++ beBytes 4 i)).take n

end Sys2Proof.Machine
end

