-- ==== Sys2Proof/Machine/Cipher.lean ====
section
/-! DEFINITION. The symmetric ciphers the device computes with: AES-256, GCM and GHASH (SP 800-38D), KWP (SP 800-38F), GCM-SIV (RFC 8452), ChaCha20-Poly1305 (RFC 8439), and the XTS cipher and tag of a reservoir line (R340, R341). The spec names their standards and does not reproduce them (log 3, PRESUMED). -/

namespace Sys2Proof.Machine

/-! ### Binary fields -/

/-- Twice an element of GF(2^m) = GF(2)[x] / f. -/
def gfTwice (m f a : Nat) : Nat := if 2 ^ (m - 1) ≤ a then (2 * a) ^^^ f else 2 * a

/-- The product of two elements of GF(2^m), from the highest bit of the second down. -/
def gfMul (m f a b : Nat) : Nat :=
  (List.range m).foldl (fun p i => let d := gfTwice m f p; if bitOf b (m - 1 - i) then d ^^^ a else d) 0

/-- A power of an element, by n squarings over the bits of the exponent. -/
def gfPow (m f a : Nat) : Nat → Nat → Nat
  | 0, _ => 1
  | n + 1, e => let h := gfPow m f (gfMul m f a a) n (e / 2); if e % 2 = 1 then gfMul m f a h else h

/-- The inverse of an element, 0 for 0. -/
def gfInv (m f a : Nat) : Nat := gfPow m f a m (2 ^ m - 2)

/-! ### AES-256 -/

/-- The field of AES. -/
def aesPoly : Nat := 0x11B

/-- The substitution of one byte: the inverse in the field, then the affine map. -/
def aesSubOf (x : Nat) : Nat :=
  let v := BitVec.ofNat 8 (gfInv 8 aesPoly x)
  (v ^^^ v.rotateLeft 1 ^^^ v.rotateLeft 2 ^^^ v.rotateLeft 3 ^^^ v.rotateLeft 4 ^^^ 0x63).toNat

def aesSubs : List Nat := (List.range 256).map aesSubOf
/-- The inverse substitution: where a byte stands in the table. -/
def aesUnsubs : List Nat := (List.range 256).map fun y => aesSubs.findIdx (· = y)

def aesSub (b : Byte) : Byte := BitVec.ofNat 8 (aesSubs.getD b.toNat 0)
def aesUnsub (b : Byte) : Byte := BitVec.ofNat 8 (aesUnsubs.getD b.toNat 0)

/-- A byte times a constant of the column mix. -/
def aesTimes (c : Nat) (b : Byte) : Byte := BitVec.ofNat 8 (gfMul 8 aesPoly c b.toNat)

/-- The expanded key, lengthened word by word; word i of a key of eight. -/
def aesExpand : Nat → List Bytes → List Bytes
  | 0, w => w
  | n + 1, w =>
    let i := w.length
    let last := w.getLastD []
    let t := if i % 8 = 0 then ((last.drop 1 ++ last.take 1).map aesSub).set 0 (aesSub (last.getD 1 0) ^^^ BitVec.ofNat 8 (gfPow 8 aesPoly 2 8 (i / 8 - 1)))
      else if i % 8 = 4 then last.map aesSub else last
    aesExpand n (w ++ [xorBytes (w.getD (i - 8) []) t])

/-- The fifteen round keys of a 32-byte key. -/
def aesRoundKeys (key : Bytes) : List Bytes :=
  let w := aesExpand 52 ((List.range 8).map fun i => cut key (4 * i) 4)
  (List.range 15).map fun r => ((w.drop (4 * r)).take 4).flatten

/-- Byte (row, column) of a block, columns first. -/
def aesAt (s : Bytes) (r c : Nat) : Byte := s.getD (r % 4 + 4 * (c % 4)) 0

/-- Build a block from its bytes by row and column. -/
def aesBlock (f : Nat → Nat → Byte) : Bytes := (List.range 16).map fun i => f (i % 4) (i / 4)

/-- A column mix by its four coefficients. -/
def aesMix (k : List Nat) (s : Bytes) : Bytes :=
  aesBlock fun r c => (List.range 4).foldl (fun x i => x ^^^ aesTimes (k.getD i 0) (aesAt s (r + i) c)) 0

/-- Encrypt a block. -/
def aesEncrypt (keys : List Bytes) (block : Bytes) : Bytes :=
  let turn := fun (s : Bytes) => aesBlock fun r c => aesSub (aesAt s r (c + r))
  let s := (keys.drop 1).take 13 |>.foldl (fun s k => xorBytes (aesMix [2, 3, 1, 1] (turn s)) k) (xorBytes block (keys.headD []))
  xorBytes (turn s) (keys.getLastD [])

/-- Decrypt a block. -/
def aesDecrypt (keys : List Bytes) (block : Bytes) : Bytes :=
  let turn := fun (s : Bytes) => aesBlock fun r c => aesUnsub (aesAt s r (c + 4 - r))
  let s := (keys.drop 1).take 13 |>.foldr (fun k s => aesMix [14, 11, 13, 9] (xorBytes (turn s) k)) (xorBytes block (keys.getLastD []))
  xorBytes (turn s) (keys.headD [])

/-- AES-256 of one block under a key. -/
def aes256 (key block : Bytes) : Bytes := aesEncrypt (aesRoundKeys key) block

/-! ### GCM -/

/-- Zeros that fill a string to blocks of 16. -/
def pad16 (b : Bytes) : Bytes := b ++ List.replicate ((16 - b.length % 16) % 16) 0#8

/-- A block as an element of GHASH's field: the first bit of the string is the constant term. -/
def ghashOf (b : Bytes) : Nat := (BitVec.ofNat 128 (beNat b)).reverse.toNat
def ghashBytes (v : Nat) : Bytes := beBytes 16 (BitVec.ofNat 128 v).reverse.toNat

/-- The field of GHASH and POLYVAL. -/
def ghashPoly : Nat := 2 ^ 128 + 0x87

/-- GHASH of a string of whole blocks under H. -/
def ghash (h data : Bytes) : Bytes :=
  let k := ghashOf h
  ghashBytes ((blocksOf 16 (data.length / 16 + 1) data).foldl (fun y b => gfMul 128 ghashPoly (y ^^^ ghashOf b) k) 0)

/-- A key stream of n bytes: block i is a function of the counter i. -/
def streamBytes (block : Nat → Bytes) (size n : Nat) : Bytes := ((List.range (ceilDiv n size)).flatMap block).take n

/-- The key stream of AES-256-GCM with a 12-byte IV; block 0 masks the tag. -/
def gcmStream (key iv : Bytes) (first n : Nat) : Bytes :=
  let keys := aesRoundKeys key
  streamBytes (fun i => aesEncrypt keys (iv ++ beBytes 4 (first + i))) 16 n

/-- AES-256-GCM ciphertext under key and IV; the same map gives the plaintext back. -/
def gcmCipher (key iv _aad data : Bytes) : Bytes := xorBytes data (gcmStream key iv 2 data.length)
/-- AES-256-GCM tag of a ciphertext. -/
def gcmTag (key iv aad cipher : Bytes) : Bytes :=
  let h := aes256 key (List.replicate 16 0#8)
  xorBytes (ghash h (pad16 aad ++ pad16 cipher ++ beBytes 8 (8 * aad.length) ++ beBytes 8 (8 * cipher.length))) (gcmStream key iv 1 16)
/-- AES-256-GCM plaintext of a ciphertext. -/
def gcmPlain (key iv aad cipher : Bytes) : Bytes := gcmCipher key iv aad cipher

/-! ### GCM-SIV -/

/-- x^(−128) in POLYVAL's field, x^128 + x^127 + x^126 + x^121 + 1. -/
def polyvalPoly : Nat := 2 ^ 128 + 2 ^ 127 + 2 ^ 126 + 2 ^ 121 + 1
def polyvalShift : Nat := 2 ^ 127 + 2 ^ 124 + 2 ^ 121 + 2 ^ 114 + 1

/-- POLYVAL of a string of whole blocks under H, little-endian. -/
def polyval (h data : Bytes) : Bytes :=
  let k := gfMul 128 polyvalPoly (leNat h) polyvalShift
  leBytes 16 ((blocksOf 16 (data.length / 16 + 1) data).foldl (fun y b => gfMul 128 polyvalPoly (y ^^^ leNat b) k) 0)

/-- The authentication and the encryption key of a nonce. -/
def sivKeys (key nonce : Bytes) : Bytes × Bytes :=
  let keys := aesRoundKeys key
  let part := fun i => (aesEncrypt keys (leBytes 4 i ++ nonce)).take 8
  ((List.range 2).flatMap part, (span 2 4).flatMap part)

/-- The tag of a plaintext. -/
def sivTag (key nonce aad plain : Bytes) : Bytes :=
  let k := sivKeys key nonce
  let p := polyval k.1 (pad16 aad ++ pad16 plain ++ leBytes 8 (8 * aad.length) ++ leBytes 8 (8 * plain.length))
  let x := xorBytes p (cut nonce 0 16)
  aes256 k.2 (x.set 15 (x.getD 15 0 &&& 0x7F))

/-- The counter mode of a tag, its own inverse. -/
def sivCrypt (key nonce tag data : Bytes) : Bytes :=
  let keys := aesRoundKeys (sivKeys key nonce).2
  let block := tag.set 15 (tag.getD 15 0 ||| 0x80)
  let first := leNat (block.take 4)
  xorBytes data (streamBytes (fun i => aesEncrypt keys (leBytes 4 (first + i) ++ block.drop 4)) 16 data.length)

/-! ### ChaCha20-Poly1305 -/

/-- A quarter round on words a, b, c and d of the state. -/
def quarterRound (s : List (BitVec 32)) (a b c d : Nat) : List (BitVec 32) :=
  let half := fun (s : List (BitVec 32)) (i j k n : Nat) =>
    let x := s.getD i 0 + s.getD j 0
    (s.set i x).set k ((s.getD k 0 ^^^ x).rotateLeft n)
  half (half (half (half s a b d 16) c d b 12) a b d 8) c d b 7

/-- Two rounds: the columns, then the diagonals. -/
def doubleRound (s : List (BitVec 32)) : List (BitVec 32) :=
  let s := (List.range 4).foldl (fun s i => quarterRound s i (4 + i) (8 + i) (12 + i)) s
  (List.range 4).foldl (fun s i => quarterRound s i (4 + (i + 1) % 4) (8 + (i + 2) % 4) (12 + (i + 3) % 4)) s

/-- A block of the key stream. -/
def chachaBlock (key nonce : Bytes) (counter : Nat) : Bytes :=
  let input := ascii "expand 32-byte k" ++ key ++ leBytes 4 counter ++ nonce
  let s := (List.range 16).map fun i => BitVec.ofNat 32 (field input (4 * i) 4)
  let t := (List.range 10).foldl (fun t _ => doubleRound t) s
  (s.zipWith (· + ·) t).flatMap fun w => leBytes 4 w.toNat

def chachaCrypt (key nonce data : Bytes) : Bytes := xorBytes data (streamBytes (fun i => chachaBlock key nonce (i + 1)) 64 data.length)

/-- Poly1305 with a one-time key r ‖ s. -/
def poly1305 (key m : Bytes) : Bytes :=
  let p := 2 ^ 130 - 5
  let r := leNat (key.take 16) &&& 0x0ffffffc0ffffffc0ffffffc0fffffff
  let acc := (blocksOf 16 (m.length / 16 + 1) m).foldl (fun a b => (a + leNat b + 256 ^ b.length) * r % p) 0
  leBytes 16 (acc + leNat (key.drop 16))

def chachaTag (key nonce aad cipher : Bytes) : Bytes :=
  poly1305 ((chachaBlock key nonce 0).take 32) (pad16 aad ++ pad16 cipher ++ leBytes 8 aad.length ++ leBytes 8 cipher.length)

/-! ### The AEADs of R225 -/

/-- The tag of a plaintext. -/
def aeadTag (a : Nat) (key iv aad plain : Bytes) : Bytes :=
  if a = 0x60 then gcmTag key iv aad (gcmCipher key iv aad plain)
  else if a = 0x61 then sivTag key iv aad plain
  else chachaTag key iv aad (chachaCrypt key iv plain)

/-- The keyed exclusive or with the key stream of a tag, both ways. -/
def aeadCrypt (a : Nat) (key iv tag data : Bytes) : Bytes :=
  if a = 0x60 then gcmCipher key iv [] data else if a = 0x61 then sivCrypt key iv tag data else chachaCrypt key iv data

/-- Ciphertext and tag of a plaintext. -/
def aeadSeal (a : Nat) (key iv aad plain : Bytes) : Bytes :=
  let t := aeadTag a key iv aad plain
  aeadCrypt a key iv t plain ++ t

/-- The plaintext of a ciphertext with its tag, none where the tag fails. -/
def aeadOpen (a : Nat) (key iv aad cipher tag : Bytes) : Option Bytes :=
  let p := aeadCrypt a key iv tag cipher
  if aeadTag a key iv aad p = tag then some p else none

/-! ### KWP -/

/-- The 8-byte start of a wrapped string: a constant and the length. -/
def kwpHead (n : Nat) : Bytes := [0xA6#8, 0x59#8, 0x59#8, 0xA6#8] ++ beBytes 4 n

/-- Step t of the wrapping on a head and the semiblocks. -/
def kwpStep (keys : List Bytes) (p : Bytes × List Bytes) (t : Nat) : Bytes × List Bytes :=
  let b := aesEncrypt keys (p.1 ++ p.2.headD [])
  (xorBytes (b.take 8) (beBytes 8 t), p.2.drop 1 ++ [b.drop 8])

/-- Step t undone. -/
def kwpBack (keys : List Bytes) (p : Bytes × List Bytes) (t : Nat) : Bytes × List Bytes :=
  let b := aesDecrypt keys (xorBytes p.1 (beBytes 8 t) ++ p.2.getLastD [])
  (b.take 8, b.drop 8 :: p.2.dropLast)

/-- AES-256-KWP of a string under a key: 8 bytes longer than the padded input. -/
def kwpWrap (kek data : Bytes) : Bytes :=
  let keys := aesRoundKeys kek
  let n := ceilDiv data.length 8
  let padded := cut data 0 (8 * n)
  if n ≤ 1 then aesEncrypt keys (kwpHead data.length ++ padded)
  else
    let p := (span 1 (6 * n)).foldl (kwpStep keys) (kwpHead data.length, blocksOf 8 n padded)
    p.1 ++ p.2.flatten

/-- The head and the padded string that a wrapped string hides. -/
def kwpOpened (kek data : Bytes) : Bytes × Bytes :=
  let keys := aesRoundKeys kek
  let n := data.length / 8 - 1
  if n ≤ 1 then let b := aesDecrypt keys data; (b.take 8, b.drop 8)
  else
    let p := (span 1 (6 * n)).reverse.foldl (kwpBack keys) (data.take 8, blocksOf 8 n (data.drop 8))
    (p.1, p.2.flatten)

/-- The length a wrapped string says its key has. -/
def kwpLength (kek data : Bytes) : Nat := beNat ((kwpOpened kek data).1.drop 4)

/-- The KWP integrity check of a wrapped string: its head, a length in its last semiblock, and zeros after it. -/
def kwpAccepts (kek data : Bytes) : Bool :=
  let p := kwpOpened kek data
  let n := kwpLength kek data
  16 ≤ data.length && data.length % 8 = 0 && p.1 = kwpHead n && n ≤ p.2.length && p.2.length < n + 8 && (p.2.drop n).all (· = 0)

/-- The first n bytes of the unwrapped string. -/
def kwpUnwrap (kek data : Bytes) (n : Nat) : Bytes := cut (kwpOpened kek data).2 0 n

/-! ### Reservoir lines -/

/-- A seal key set: K1 and K2 of XTS and the tag key Kt (R339). -/
structure SealKeys where
  k1 : Bytes
  k2 : Bytes
  kt : Bytes
  deriving DecidableEq, Repr

/-- The 64 ciphertext bytes of a line: XTS-AES-256 with the line number as tweak (R340). -/
def sealLine (k : SealKeys) (line : Nat) (plain : Bytes) : Bytes :=
  let keys := aesRoundKeys k.k1
  let t := leNat (aes256 k.k2 (leBytes 16 line))
  (List.range 4).flatMap fun i =>
    let m := leBytes 16 ((List.range i).foldl (fun v _ => gfTwice 128 ghashPoly v) t)
    xorBytes (aesEncrypt keys (xorBytes (cut plain (16 * i) 16) m)) m

/-- The plaintext of 64 ciphertext bytes (R340). -/
def unsealLine (k : SealKeys) (line : Nat) (cipher : Bytes) : Bytes :=
  let keys := aesRoundKeys k.k1
  let t := leNat (aes256 k.k2 (leBytes 16 line))
  (List.range 4).flatMap fun i =>
    let m := leBytes 16 ((List.range i).foldl (fun v _ => gfTwice 128 ghashPoly v) t)
    xorBytes (aesDecrypt keys (xorBytes (cut cipher (16 * i) 16) m)) m

/-- The 64-bit tag of a line with its owner's number, FFFFh for no slice; a tag of zero is replaced by 1 (R341). -/
def lineTag (k : SealKeys) (line owner : Nat) (cipher : Bytes) : Nat :=
  let h := aes256 k.kt (List.replicate 16 0#8)
  let s := ghash h (leBytes 8 line ++ leBytes 2 owner ++ List.replicate 6 0#8 ++ cipher)
  let t := leNat ((aes256 k.kt s).take 8)
  if t = 0 then 1 else t

end Sys2Proof.Machine
end

