-- ==== Sys2Proof/Machine/Lattice.lean ====
section
/-! DEFINITION. ML-KEM (FIPS 203) and ML-DSA (FIPS 204) with the parameters of R109, the byte strings of R110, the seeds of R111, the masked values of R132 and R133, and the signing loop of R137 and R138. The spec names the standards and does not reproduce them (log 3, PRESUMED). -/

namespace Sys2Proof.Machine

/-! ### Masked values -/

/-- A value that stands only in shares (R132). No function of the model reads `hidden` but those below, and `unmask` is called only where R133 lists the value. -/
structure Masked (α : Type) where
  hidden : α
  deriving DecidableEq, Repr

/-- A computation on the shares of a value: its result stands in shares too. -/
def Masked.map {α β : Type} (x : Masked α) (f : α → β) : Masked β := { hidden := f x.hidden }
/-- A computation whose steps all stay in shares. -/
def Masked.bind {α β : Type} (x : Masked α) (f : α → Masked β) : Masked β := f x.hidden
/-- The shares are combined (R133). -/
def Masked.unmask {α : Type} (x : Masked α) : α := x.hidden

/-! ### Polynomials of degree below 256 -/

/-- Coefficients modulo q, the constant term first. -/
abbrev Poly := List Nat

def polyAdd (q : Nat) (f g : Poly) : Poly := f.zipWith (fun a b => (a + b) % q) g
def polySub (q : Nat) (f g : Poly) : Poly := f.zipWith (fun a b => (a + q - b) % q) g
def polyZero : Poly := List.replicate 256 0
/-- The value of a polynomial at a point. -/
def polyAt (q : Nat) (f : Poly) (x : Nat) : Nat := f.foldr (fun c v => (c + x * v) % q) 0
/-- The n low bits of a number in reverse order. -/
def bitRev : Nat → Nat → Nat
  | 0, _ => 0
  | n + 1, v => v % 2 * 2 ^ n + bitRev n (v / 2)
/-- A power modulo q by squaring; n bounds the bits of the exponent. -/
def powMod (q a : Nat) : Nat → Nat → Nat
  | 0, _ => 1 % q
  | n + 1, e => let h := powMod q (a * a % q) n (e / 2); if e % 2 = 1 then a * h % q else h
/-- Pack numbers of d bits, the first lowest (the bit order of both standards). -/
def packBits (d : Nat) (l : List Nat) : Bytes := leBytes (l.length * d / 8) (l.foldr (fun c v => c + 2 ^ d * v) 0)
/-- The first n numbers of d bits of a string. -/
def unpackBits (d n : Nat) (b : Bytes) : List Nat :=
  let v := leNat b
  (List.range n).map fun i => v / 2 ^ (d * i) % 2 ^ d
/-- The distance of a residue from zero. -/
def absMod (q a : Nat) : Nat := min a (q - a)

/-! ### ML-KEM -/

/-- The parameters of R109. -/
structure KemSet where
  k : Nat
  eta1 : Nat
  du : Nat
  dv : Nat
  deriving DecidableEq, Repr

def kemSet (a : Nat) : KemSet :=
  if a = 0x10 then { k := 2, eta1 := 3, du := 10, dv := 4 }
  else if a = 0x11 then { k := 3, eta1 := 2, du := 10, dv := 4 }
  else { k := 4, eta1 := 2, du := 11, dv := 5 }

def kemQ : Nat := 3329
/-- The powers of the 256th root of unity 17. -/
def kemRoots : Array Nat := ((List.range 256).map fun e => powMod kemQ 17 8 e).toArray
def kemRoot (e : Nat) : Nat := kemRoots.getD (e % 256) 0
/-- The exponent of the i-th root: X² less its power is the i-th modulus. -/
def kemTurn (i : Nat) : Nat := 2 * bitRev 7 i + 1
/-- The coefficients at even places, and at odd ones. -/
def evens : Poly → Poly
  | a :: _ :: r => a :: evens r
  | l => l
def odds : Poly → Poly
  | _ :: b :: r => b :: odds r
  | _ => []
/-- The transform: the remainders modulo the 128 quadratics, a pair each. -/
def kemNtt (f : Poly) : Poly :=
  (List.range 128).flatMap fun i => [polyAt kemQ (evens f) (kemRoot (kemTurn i)), polyAt kemQ (odds f) (kemRoot (kemTurn i))]
/-- The polynomial of its remainders; 3303 is the inverse of 128. -/
def kemBack (h : Poly) : Poly :=
  let at_ := fun (l : Poly) (j : Nat) => (l.zip (List.range 128)).foldl (fun v p => (v + p.1 * kemRoot (256 * 128 - kemTurn p.2 * j)) % kemQ) 0 * 3303 % kemQ
  (List.range 128).flatMap fun j => [at_ (evens h) j, at_ (odds h) j]
/-- The product of two transforms. -/
def kemMul (f g : Poly) : Poly :=
  let pairs := fun (l : Poly) => (evens l).zip (odds l)
  (((pairs f).zip (pairs g)).zip (List.range 128)).flatMap fun p =>
    let ((a, b), (c, d)) := p.1
    [(a * c + b * d % kemQ * kemRoot (kemTurn p.2)) % kemQ, (a * d + b * c) % kemQ]
/-- The inner product of two vectors of transforms. -/
def kemDot (f g : List Poly) : Poly := (f.zipWith kemMul g).foldl (polyAdd kemQ) polyZero
/-- The three-byte groups of a stream as two candidates each, of which those below q stay. -/
def kemCandidates : Bytes → List Nat
  | x :: y :: z :: r =>
    let v := field [x, y, z] 0 3
    (([v % 4096, v / 4096].filter (· < kemQ))) ++ kemCandidates r
  | _ => []
/-- A uniform transform from a seed and two indexes: the first 256 candidates of a stream of 280 groups, the bound that FIPS 203 allows. -/
def kemSample (rho : Bytes) (i j : Nat) : Poly := (kemCandidates (shake128 (rho ++ leBytes 1 j ++ leBytes 1 i) 840)).take 256
/-- The public matrix by rows. -/
def kemMatrix (k : Nat) (rho : Bytes) : List (List Poly) := (List.range k).map fun i => (List.range k).map fun j => kemSample rho i j
/-- The sum of d bits of a number from bit i on. -/
def bitSum (v i d : Nat) : Nat := ((List.range d).map fun n => v / 2 ^ (i + n) % 2).sum
/-- A noise polynomial: differences of two sums of η bits. -/
def kemNoise (eta : Nat) (seed : Bytes) (n : Nat) : Poly :=
  let v := leNat (shake256 (seed ++ leBytes 1 n) (64 * eta))
  (List.range 256).map fun i => (bitSum v (2 * i * eta) eta + kemQ - bitSum v (2 * i * eta + eta) eta) % kemQ
/-- Rounding to d bits, and back. -/
def kemShrink (d x : Nat) : Nat := (x * 2 ^ (d + 1) + kemQ) / (2 * kemQ) % 2 ^ d
def kemGrow (d y : Nat) : Nat := (y * kemQ * 2 + 2 ^ d) / 2 ^ (d + 1)

/-- What a seed d expands to: the encapsulation key ByteEncode12(t̂) ‖ ρ, and ŝ in shares (R110, R132). -/
def kemExpand (a : Nat) (d : Bytes) : Masked (Bytes × List Poly) :=
  let p := kemSet a
  let g := sha3_512 (d ++ leBytes 1 p.k)
  let rho := g.take 32
  let sigma := g.drop 32
  let s := (List.range p.k).map fun n => kemNtt (kemNoise p.eta1 sigma n)
  let e := (List.range p.k).map fun n => kemNtt (kemNoise p.eta1 sigma (p.k + n))
  let t := (kemMatrix p.k rho).zipWith (fun row n => polyAdd kemQ (kemDot row s) n) e
  { hidden := (t.flatMap (packBits 12) ++ rho, s) }

/-- The encapsulation key of a seed d ‖ z: the public key is unmasked (R133). -/
def kemPublic (a : Nat) (seed : Bytes) : Bytes := ((kemExpand a (seed.take 32)).map (·.1)).unmask

/-- t̂ and ρ of an encapsulation key. -/
def kemDecode (a : Nat) (ek : Bytes) : List Poly × Bytes :=
  let k := (kemSet a).k
  ((List.range k).map fun i => unpackBits 12 256 (cut ek (384 * i) 384), ek.drop (384 * k))

/-- The modulus check of FIPS 203: the key is the encoding of residues (R113). -/
def kemModulusOk (a : Nat) (ek : Bytes) : Bool := (kemDecode a ek).1.all fun f => f.all (· < kemQ)

/-- The ciphertext c1 ‖ c2 of a 32-byte message under coins r (R110). -/
def kemEncrypt (a : Nat) (ek m r : Bytes) : Bytes :=
  let p := kemSet a
  let (t, rho) := kemDecode a ek
  let y := (List.range p.k).map fun n => kemNtt (kemNoise p.eta1 r n)
  let noise := fun n => kemNoise 2 r (p.k + n)
  let column := fun j => (kemMatrix p.k rho).map fun row => row.getD j []
  let u := (List.range p.k).map fun j => polyAdd kemQ (kemBack (kemDot (column j) y)) (noise j)
  let message := (unpackBits 1 256 m).map (kemGrow 1)
  let v := polyAdd kemQ (polyAdd kemQ (kemBack (kemDot t y)) (noise p.k)) message
  u.flatMap (fun f => packBits p.du (f.map (kemShrink p.du))) ++ packBits p.dv (v.map (kemShrink p.dv))

/-- Encapsulation with a 32-byte m: ciphertext and shared secret. -/
def kemEncaps (a : Nat) (ek m : Bytes) : Bytes × Bytes :=
  let g := sha3_512 (m ++ sha3_256 ek)
  (kemEncrypt a ek m (g.drop 32), g.take 32)

/-- Decapsulation with a seed d ‖ z, with implicit rejection (R83): m′, K′, r′, the re-encryption and the comparison stay in shares, and only the selected K is unmasked (R132, R133). -/
def kemDecaps (a : Nat) (seed ct : Bytes) : Bytes :=
  let p := kemSet a
  let n := 32 * p.du * p.k
  let u := (List.range p.k).map fun i => (unpackBits p.du 256 (cut ct (32 * p.du * i) (32 * p.du))).map (kemGrow p.du)
  let v := (unpackBits p.dv 256 (ct.drop n)).map (kemGrow p.dv)
  let secret := kemExpand a (seed.take 32)
  let message := secret.map fun x => packBits 1 ((polySub kemQ v (kemBack (kemDot x.2 (u.map kemNtt)))).map (kemShrink 1))
  let pair := message.bind fun m => secret.map fun x => let g := sha3_512 (m ++ sha3_256 x.1); (g.take 32, g.drop 32)
  let again := message.bind fun m => pair.bind fun g => secret.map fun x => kemEncrypt a x.1 m g.2
  let equal := again.map fun c => decide (c = ct)
  let rejected : Masked Bytes := { hidden := shake256 (seed.drop 32 ++ ct) 32 }
  (equal.bind fun ok => pair.bind fun g => rejected.map fun k => if ok then g.1 else k).unmask

/-! ### ML-DSA -/

/-- The parameters of R109, with those FIPS 204 derives from them: log2 γ1, the divisor of q − 1 that gives γ2, and the bytes of c̃. -/
structure DsaSet where
  k : Nat
  l : Nat
  eta : Nat
  tau : Nat
  omega : Nat
  gamma1Bits : Nat
  parts : Nat
  tilde : Nat
  deriving DecidableEq, Repr

def dsaSet (a : Nat) : DsaSet :=
  if a = 0x20 then { k := 4, l := 4, eta := 2, tau := 39, omega := 80, gamma1Bits := 17, parts := 88, tilde := 32 }
  else if a = 0x21 then { k := 6, l := 5, eta := 4, tau := 49, omega := 55, gamma1Bits := 19, parts := 32, tilde := 48 }
  else { k := 8, l := 7, eta := 2, tau := 60, omega := 75, gamma1Bits := 19, parts := 32, tilde := 64 }

def dsaQ : Nat := 8380417
def DsaSet.gamma1 (p : DsaSet) : Nat := 2 ^ p.gamma1Bits
def DsaSet.gamma2 (p : DsaSet) : Nat := (dsaQ - 1) / p.parts
def DsaSet.beta (p : DsaSet) : Nat := p.tau * p.eta
/-- The powers of the 512th root of unity 1753. -/
def dsaRoots : Array Nat := ((List.range 512).map fun e => powMod dsaQ 1753 9 e).toArray
def dsaRoot (e : Nat) : Nat := dsaRoots.getD (e % 512) 0
def dsaTurn (i : Nat) : Nat := 2 * bitRev 8 i + 1
/-- The transform: the values at the 256 roots of X^256 + 1. -/
def dsaNtt (f : Poly) : Poly := (List.range 256).map fun i => polyAt dsaQ f (dsaRoot (dsaTurn i))
/-- The polynomial of its values; 8347681 is the inverse of 256. -/
def dsaBack (h : Poly) : Poly :=
  (List.range 256).map fun j => (h.zip (List.range 256)).foldl (fun v p => (v + p.1 * dsaRoot (512 * 256 - dsaTurn p.2 * j)) % dsaQ) 0 * 8347681 % dsaQ
def dsaMul (f g : Poly) : Poly := f.zipWith (fun a b => a * b % dsaQ) g
def dsaDot (f g : List Poly) : Poly := (f.zipWith dsaMul g).foldl (polyAdd dsaQ) polyZero
/-- The largest distance from zero of the coefficients of a vector. -/
def dsaNorm (v : List Poly) : Nat := v.foldl (fun m f => f.foldl (fun m c => max m (absMod dsaQ c)) m) 0

/-- The residues below q of a stream in three-byte groups, the top bit of each dropped. -/
def dsaCandidates : Bytes → List Nat
  | x :: y :: z :: r => let v := field [x, y, z] 0 3 % 2 ^ 23; if v < dsaQ then v :: dsaCandidates r else dsaCandidates r
  | _ => []
/-- The public matrix in the transform's form, from streams of 336 groups, above the bound that FIPS 204 allows. -/
def dsaMatrix (p : DsaSet) (rho : Bytes) : List (List Poly) :=
  (List.range p.k).map fun r => (List.range p.l).map fun c => (dsaCandidates (shake128 (rho ++ leBytes 1 c ++ leBytes 1 r) 1008)).take 256
/-- Small coefficients from half-bytes, the low half first. -/
def dsaSmall (eta : Nat) (b : Bytes) : Poly :=
  (b.flatMap fun x => [x.toNat % 16, x.toNat / 16]).filterMap fun h =>
    if eta = 2 then (if h < 15 then some ((2 + dsaQ - h % 5) % dsaQ) else none) else (if h < 9 then some ((4 + dsaQ - h) % dsaQ) else none)
def dsaSecret (eta : Nat) (rho : Bytes) (n : Nat) : Poly := (dsaSmall eta (shake256 (rho ++ leBytes 2 n) 544)).take 256
/-- The remainder of least distance modulo an even m, as a residue modulo q. -/
def dsaLow (m r : Nat) : Nat := if m / 2 < r % m then (r % m + dsaQ - m) % dsaQ else r % m
/-- The two parts of a residue: high and low (Decompose). -/
def dsaSplit (p : DsaSet) (r : Nat) : Nat × Nat :=
  let m := 2 * p.gamma2
  let low := dsaLow m r
  let rest := (r + dsaQ - low) % dsaQ
  if rest = dsaQ - 1 then (0, (low + dsaQ - 1) % dsaQ) else (rest / m, low)

/-- What a seed ξ expands to. -/
structure DsaKey where
  rho : Bytes
  key : Bytes
  s1 : List Poly
  s2 : List Poly
  t1 : List Poly
  t0 : List Poly
  deriving DecidableEq, Repr

/-- The expansion of ξ, in shares (R132). -/
def dsaExpand (a : Nat) (xi : Bytes) : Masked DsaKey :=
  let p := dsaSet a
  let h := shake256 (xi ++ leBytes 1 p.k ++ leBytes 1 p.l) 128
  let rho := h.take 32
  let prime := cut h 32 64
  let s1 := (List.range p.l).map (dsaSecret p.eta prime)
  let s2 := (span p.l p.k).map (dsaSecret p.eta prime)
  let t := ((dsaMatrix p rho).map fun row => dsaBack (dsaDot row (s1.map dsaNtt))).zipWith (polyAdd dsaQ) s2
  let t0 := t.map fun f => f.map (dsaLow 8192)
  let t1 := t.map fun f => f.map fun r => (r + dsaQ - dsaLow 8192 r) % dsaQ / 8192
  { hidden := { rho := rho, key := h.drop 96, s1 := s1, s2 := s2, t1 := t1, t0 := t0 } }

/-- The public key ρ ‖ t1 packed (R110). -/
def DsaKey.public (k : DsaKey) : Bytes := k.rho ++ k.t1.flatMap (packBits 10)
/-- The public key of a seed is unmasked (R133). -/
def dsaPublic (a : Nat) (xi : Bytes) : Bytes := ((dsaExpand a xi).map DsaKey.public).unmask

/-- The challenge polynomial of c̃: τ coefficients of ±1. -/
def dsaBallStep (h : Nat) (tau : Nat) (p : Poly × Bytes) (i : Nat) : Poly × Bytes :=
  let rest := p.2.dropWhile fun x => i < x.toNat
  let j := (rest.headD 0).toNat
  ((p.1.set i (p.1.getD j 0)).set j (if bitOf h (i + tau - 256) then dsaQ - 1 else 1), rest.drop 1)
def dsaBall (p : DsaSet) (tilde : Bytes) : Poly :=
  let b := shake256 tilde 544
  ((span (256 - p.tau) p.tau).foldl (dsaBallStep (leNat (b.take 8)) p.tau) (polyZero, b.drop 8)).1

/-- The high parts of a vector as the challenge hashes them. -/
def dsaHigh (p : DsaSet) (w : List Poly) : Bytes := w.flatMap fun f => packBits (if p.parts = 88 then 6 else 4) (f.map fun r => (dsaSplit p r).1)
/-- The masking vector of κ. -/
def dsaMask (p : DsaSet) (seed : Bytes) (kappa : Nat) : List Poly :=
  (List.range p.l).map fun r =>
    (unpackBits (p.gamma1Bits + 1) 256 (shake256 (seed ++ leBytes 2 (kappa + r)) (32 * (p.gamma1Bits + 1)))).map fun v => (p.gamma1 + dsaQ - v) % dsaQ
/-- The hint h encoded: places polynomial by polynomial, then the running counts. -/
def dsaHintBytes (p : DsaSet) (h : List (List Bool)) : Bytes :=
  let places := h.map fun f => (List.range 256).filter fun i => f.getD i false
  let all := places.flatten
  let counts := (List.range p.k).map fun i => ((places.take (i + 1)).map List.length).sum
  (all ++ List.replicate (p.omega - all.length) 0 ++ counts).map (BitVec.ofNat 8)

/-- A candidate of the loop: c̃, z, the hint, and whether it is accepted. -/
structure DsaCandidate where
  tilde : Bytes
  z : List Poly
  hint : List (List Bool)
  accepted : Bool
  deriving DecidableEq, Repr

/-- One iteration of the signing loop, in shares (R132, R137). -/
def dsaTry (p : DsaSet) (key : Masked DsaKey) (mu seed : Masked Bytes) (kappa : Nat) : Masked DsaCandidate :=
  key.bind fun k => mu.bind fun mu => seed.map fun seed =>
    let y := dsaMask p seed kappa
    let w := (dsaMatrix p k.rho).map fun row => dsaBack (dsaDot row (y.map dsaNtt))
    let tilde := shake256 (mu ++ dsaHigh p w) p.tilde
    let c := dsaNtt (dsaBall p tilde)
    let times := fun (v : List Poly) => v.map fun f => dsaBack (dsaMul c (dsaNtt f))
    let z := y.zipWith (polyAdd dsaQ) (times k.s1)
    let r := w.zipWith (polySub dsaQ) (times k.s2)
    let low := r.map fun f => f.map fun x => (dsaSplit p x).2
    let ct0 := times k.t0
    let hint := r.zipWith (fun f g => f.zipWith (fun a b => decide ((dsaSplit p a).1 ≠ (dsaSplit p ((a + b) % dsaQ)).1)) g) ct0
    let ones := (hint.map fun f => f.countP id).sum
    { tilde := tilde, z := z, hint := hint,
      accepted := dsaNorm z < p.gamma1 - p.beta && dsaNorm low < p.gamma2 - p.beta && dsaNorm ct0 < p.gamma2 && ones ≤ p.omega }

/-- The loop from κ on for at most n iterations: the iterations made, and the signature of the accepted one. Only the decision of each iteration is unmasked, and c̃, z and h of the accepted one (R133, R137, R138). -/
def dsaLoop (p : DsaSet) (key : Masked DsaKey) (mu seed : Masked Bytes) : Nat → Nat → Nat × Option Bytes
  | 0, _ => (0, none)
  | n + 1, kappa =>
    let c := dsaTry p key mu seed kappa
    if (c.map (·.accepted)).unmask then
      let s := c.unmask
      (1, some (s.tilde ++ s.z.flatMap (fun f => packBits (p.gamma1Bits + 1) (f.map fun x => (p.gamma1 + dsaQ - x) % dsaQ)) ++ dsaHintBytes p s.hint))
    else
      let r := dsaLoop p key mu seed n (kappa + p.l)
      (r.1 + 1, r.2)

/-- The most iterations of a signing attempt (R138). -/
def dsaLimit : Nat := 1000

/-- The iterations of a signing attempt over the formatted message M′ and its signature, none after 1,000 rejections (R137, R138). -/
def dsaSign (a : Nat) (xi msg rnd : Bytes) : Nat × Option Bytes :=
  let key := dsaExpand a xi
  let mu := key.map fun k => shake256 (shake256 k.public 64 ++ msg) 64
  let seed := key.bind fun k => mu.map fun mu => shake256 (k.key ++ rnd ++ mu) 64
  dsaLoop (dsaSet a) key mu seed dsaLimit 0

/-- The places of one polynomial's hint: strictly rising (FIPS 204 HintBitUnpack). -/
def rising : List Nat → Bool
  | a :: b :: r => a < b && rising (b :: r)
  | _ => true

/-- The hint of a signature by polynomials, none where it is not canonical (R126). -/
def dsaHintOf (p : DsaSet) (b : Bytes) : Option (List (List Nat)) :=
  let counts := 0 :: (b.drop p.omega).map (·.toNat)
  let places := (b.take p.omega).map (·.toNat)
  let parts := (List.range p.k).map fun i => (places.take (counts.getD (i + 1) 0)).drop (counts.getD i 0)
  let total := counts.getLastD 0
  if (List.range p.k).all (fun i => counts.getD i 0 ≤ counts.getD (i + 1) 0) && total ≤ p.omega && parts.all rising && (places.drop total).all (· = 0) then some parts else none

/-- The high part that a hint corrects (UseHint). -/
def dsaUse (p : DsaSet) (hinted : Bool) (r : Nat) : Nat :=
  let m := p.parts / 2
  let (high, low) := dsaSplit p r
  if !hinted then high else if 0 < low && low ≤ (dsaQ - 1) / 2 then (high + 1) % m else (high + m - 1) % m

/-- A signature verifies over the formatted message M′ (R126): length, hint, norm of z, and the challenge. -/
def dsaVerify (a : Nat) (pk msg sig : Bytes) : Bool :=
  let p := dsaSet a
  let rho := pk.take 32
  let t1 := (List.range p.k).map fun i => unpackBits 10 256 (cut pk (32 + 320 * i) 320)
  let zb := 32 * (p.gamma1Bits + 1)
  let tilde := sig.take p.tilde
  let z := (List.range p.l).map fun i => (unpackBits (p.gamma1Bits + 1) 256 (cut sig (p.tilde + zb * i) zb)).map fun v => (p.gamma1 + dsaQ - v) % dsaQ
  match dsaHintOf p (sig.drop (p.tilde + zb * p.l)) with
  | none => false
  | some hint =>
    let mu := shake256 (shake256 pk 64 ++ msg) 64
    let c := dsaNtt (dsaBall p tilde)
    let zh := z.map dsaNtt
    let w := (dsaMatrix p rho).zipWith (fun row t => dsaBack (polySub dsaQ (dsaDot row zh) (dsaMul c (dsaNtt (t.map (· * 8192 % dsaQ)))))) t1
    let high := w.zipWith (fun f h => ((f.zip (List.range 256)).map fun x => dsaUse p (h.contains x.2) x.1)) hint
    sig.length = p.tilde + zb * p.l + p.omega + p.k && dsaNorm z < p.gamma1 - p.beta &&
      tilde = shake256 (mu ++ high.flatMap (packBits (if p.parts = 88 then 6 else 4))) p.tilde

end Sys2Proof.Machine
end

