-- ==== Sys2Proof/Machine/Codes.lean ====
section
/-! DEFINITION. The code-based schemes: Classic McEliece with its gang elimination (R174 to R180) and HQC (R189, R190), in the versions that capability records 0003h and 0004h name. The spec names the specifications and does not reproduce them (log 3, PRESUMED). -/

namespace Sys2Proof.Machine

/-! ### Polynomials over a binary field -/

/-- A field GF(2^m) with its polynomial. -/
structure Field where
  m : Nat
  poly : Nat
  deriving DecidableEq, Repr

def Field.mul (f : Field) (a b : Nat) : Nat := gfMul f.m f.poly a b
def Field.inv (f : Field) (a : Nat) : Nat := gfInv f.m f.poly a
def Field.pow (f : Field) (a e : Nat) : Nat := gfPow f.m f.poly a 32 e
/-- The value of a polynomial, the constant term first, at a point. -/
def Field.at (f : Field) (p : List Nat) (x : Nat) : Nat := p.foldr (fun c v => c ^^^ f.mul x v) 0
/-- The sum of two polynomials. -/
def polyXor : List Nat → List Nat → List Nat
  | a :: r, b :: s => (a ^^^ b) :: polyXor r s
  | [], l => l
  | l, [] => l
/-- A polynomial times a constant. -/
def Field.scale (f : Field) (c : Nat) (p : List Nat) : List Nat := p.map (f.mul c)
/-- The coefficient of x^n in a product. -/
def Field.coefficient (f : Field) (p q : List Nat) (n : Nat) : Nat := (List.range (n + 1)).foldl (fun v i => v ^^^ f.mul (p.getD i 0) (q.getD (n - i) 0)) 0

/-- The state of Berlekamp and Massey's search: the shortest register so far, the one before its last change, that change's discrepancy, the length and the distance from the change. -/
structure Register where
  now : List Nat
  last : List Nat
  gap : Nat
  length : Nat
  away : Nat
  deriving DecidableEq, Repr

/-- One step on term n of a sequence. -/
def Field.register (f : Field) (s : List Nat) (r : Register) (n : Nat) : Register :=
  let d := f.coefficient r.now s n
  if d = 0 then { r with away := r.away + 1 }
  else
    let next := polyXor r.now (List.replicate r.away 0 ++ f.scale (f.mul d (f.inv r.gap)) r.last)
    if 2 * r.length ≤ n then { now := next, last := r.now, gap := d, length := n + 1 - r.length, away := 1 } else { r with now := next, away := r.away + 1 }

/-- The error locator of a syndrome sequence: its roots are the inverses of the places. -/
def Field.locator (f : Field) (s : List Nat) : List Nat :=
  ((List.range s.length).foldl (f.register s) { now := [1], last := [1], gap := 1, length := 0, away := 1 }).now

/-! ### Classic McEliece -/

/-- The parameters of R174, and F(y) as the powers below y^t with their coefficients. -/
structure MceSet where
  m : Nat
  n : Nat
  t : Nat
  tail : List (Nat × Nat)
  deriving DecidableEq, Repr

def mceSet (a : Nat) : MceSet :=
  if a = 0x40 then { m := 12, n := 3488, t := 64, tail := [(0, 2), (1, 1), (3, 1)] }
  else if a = 0x41 then { m := 13, n := 4608, t := 96, tail := [(0, 1), (6, 1), (9, 1), (10, 1)] }
  else if a = 0x42 then { m := 13, n := 6688, t := 128, tail := [(0, 1), (1, 1), (2, 1), (7, 1)] }
  else if a = 0x43 then { m := 13, n := 6960, t := 119, tail := [(0, 1), (8, 1)] }
  else { m := 13, n := 8192, t := 128, tail := [(0, 1), (1, 1), (2, 1), (7, 1)] }

def MceSet.fld (p : MceSet) : Field := { m := p.m, poly := if p.m = 12 then 2 ^ 12 + 2 ^ 3 + 1 else 2 ^ 13 + 2 ^ 4 + 2 ^ 3 + 2 + 1 }
/-- The rows mt. -/
def MceSet.rows (p : MceSet) : Nat := p.m * p.t

/-- The product of two elements of the extension of degree t. -/
def MceSet.mul (p : MceSet) (u v : List Nat) : List Nat :=
  let full := (List.range (2 * p.t - 1)).map (p.fld.coefficient u v)
  let fold := (List.range (p.t - 1)).foldl (fun (l : List Nat) i =>
    let k := 2 * p.t - 2 - i
    let top := l.getD k 0
    p.tail.foldl (fun l c => let j := k - p.t + c.1; l.set j (l.getD j 0 ^^^ p.fld.mul c.2 top)) l) full
  fold.take p.t

/-- Solve a linear system by elimination, column by column; each row ends with its right-hand side. None where a column has no pivot. -/
def Field.solve (f : Field) (rows : List (List Nat)) : Option (List (List Nat)) :=
  (List.range rows.length).foldlM (fun (l : List (List Nat)) c =>
    match (l.drop c).findIdx? fun r => r.getD c 0 ≠ 0 with
    | none => none
    | some i =>
      let low := l.getD c []
      let chosen := l.getD (c + i) []
      let pivot := f.scale (f.inv (chosen.getD c 0)) chosen
      let swapped := (l.set (c + i) low).set c pivot
      some ((swapped.zip (List.range swapped.length)).map fun r => if r.2 = c then r.1 else polyXor r.1 (f.scale (r.1.getD c 0) pivot))) rows

/-- The Goppa polynomial of 16 t bits: the minimal polynomial of the element they spell, none where its degree is below t (Irreducible). -/
def MceSet.goppa (p : MceSet) (b : Bytes) : Option (List Nat) :=
  let x := (List.range p.t).map fun j => field b (2 * j) 2 % 2 ^ p.m
  let powers := (List.range p.t).foldl (fun (l : List (List Nat)) _ => l ++ [p.mul (l.getLastD []) x]) [1 :: List.replicate (p.t - 1) 0]
  let system := (List.range p.t).map fun r => powers.map fun v => v.getD r 0
  (p.fld.solve system).map fun l => l.map (fun r => r.getD p.t 0) ++ [1]

/-- The field element of index i: its m bits in reverse (FieldOrdering). -/
def MceSet.element (p : MceSet) (i : Nat) : Nat := bitRev p.m i
/-- The order of the 2^m elements that as many 32-bit numbers give, none where two agree (FieldOrdering). -/
def MceSet.order (p : MceSet) (b : Bytes) : Option (List Nat) :=
  let keys := (List.range (2 ^ p.m)).map fun i => (field b (4 * i) 4) * 2 ^ p.m + i
  let sorted := keys.mergeSort
  if (sorted.zip (sorted.drop 1)).any fun q => q.1 / 2 ^ p.m = q.2 / 2 ^ p.m then none else some (sorted.map (· % 2 ^ p.m))

/-! #### The gang (R177 to R179) -/

/-- The matrix in the sconce: the rows each wick holds, by local index. A row is a number whose bit j stands in column j. -/
abbrev Gang := List (List Nat)

/-- Row r is held by the wick with local index r mod 16, as its row r ÷ 16 (R177). -/
def gangPlace (rows : List Nat) : Gang :=
  (List.range 16).map fun i => (List.range (ceilDiv (rows.length - i) 16)).map fun k => rows.getD (16 * k + i) 0
def gangRow (g : Gang) (r : Nat) : Nat := (g.getD (r % 16) []).getD (r / 16) 0
def gangSet (g : Gang) (r v : Nat) : Gang := g.set (r % 16) ((g.getD (r % 16) []).set (r / 16) v)
def gangRows (g : Gang) (n : Nat) : List Nat := (List.range n).map (gangRow g)
/-- The words of a row of n bits: bit j in word j ÷ 72 at bit j mod 72 (R177). -/
def rowWords (n v : Nat) : List Word72 := (List.range (ceilDiv n 72)).map fun k => BitVec.ofNat 72 (v / 2 ^ (72 * k))
/-- A row from its words. -/
def rowOf (l : List Word72) : Nat := l.foldr (fun w v => w.toNat + 2 ^ 72 * v) 0
/-- The data-memory words of the wick with a local index: its rows one after another (R177). -/
def gangWords (g : Gang) (n i : Nat) : List Word72 := (g.getD i []).flatMap (rowWords n)

/-- The lowest row r ≥ `from_` of a wick with bit c set, which it offers to the search token (R178). -/
def gangOffer (g : Gang) (from_ c i : Nat) : Option Nat :=
  ((List.range (g.getD i []).length).map (16 * · + i)).find? fun r => from_ ≤ r && bitOf (gangRow g r) c
/-- The search token's pass of the ring: it keeps the lowest row offered (R178). -/
def gangToken (g : Gang) (from_ c : Nat) : Option Nat :=
  (List.range 16).foldl (fun t i =>
    match t, gangOffer g from_ c i with
    | some r, some q => some (min r q)
    | t, none => t
    | none, o => o) none
/-- Phase 1: row c has bit c set, or receives the row the token found; none where the token returns empty (R178). -/
def gangPivot (g : Gang) (c : Nat) : Option Gang :=
  if bitOf (gangRow g c) c then some g else (gangToken g (c + 1) c).map fun r => gangSet g c (gangRow g c ^^^ gangRow g r)
/-- Phases 2 and 3: the row goes around the ring in words, and every wick adds it to each of its rows but row c itself that has bit c set (R178). -/
def gangEliminate (n : Nat) (g : Gang) (c : Nat) : Gang :=
  let row := rowOf (rowWords n (gangRow g c))
  (g.zip (List.range 16)).map fun w => (w.1.zip (List.range w.1.length)).map fun r =>
    if 16 * r.2 + w.2 ≠ c && bitOf r.1 c then r.1 ^^^ row else r.1

/-- Exchange two bits of a number. -/
def swapBits (v i j : Nat) : Nat := withBit (withBit v i (bitOf v j)) j (bitOf v i)
/-- Exchange two entries of a list. -/
def swapAt (l : List Nat) (i j : Nat) : List Nat := (l.set i (l.getD j 0)).set j (l.getD i 0)

/-- A gang at work: its matrix, the order of the columns' elements, and the columns that became the last 32 pivots. -/
structure GangWork where
  gang : Gang
  order : List Nat
  pivots : List Nat
  deriving DecidableEq, Repr

/-- The column swap of the semi-systematic form: the next column of the 64 in which a row from c on has its bit set (R179). -/
def gangSwap (rows : Nat) (w : GangWork) (c : Nat) : GangWork :=
  match (span (c + 1) (rows + 31 - c)).find? fun d => (gangToken w.gang c d).isSome with
  | some d => { gang := w.gang.map fun l => l.map fun v => swapBits v c d, order := swapAt w.order c d, pivots := w.pivots ++ [d] }
  | none => w

/-- The three phases of a column (R178, R179): where the token returns empty, an "f" set applies the column swap first. -/
def gangColumn (rows n : Nat) (f : Bool) (w : GangWork) (c : Nat) : Option GangWork :=
  let missing := f && rows - 32 ≤ c && (gangToken w.gang c c).isNone
  let w := if missing then gangSwap rows w c else { w with pivots := if rows - 32 ≤ c then w.pivots ++ [c] else w.pivots }
  (gangPivot w.gang c).map fun g => { w with gang := gangEliminate n g c }

/-- All columns; none where the attempt at systematic form fails (R178, R179). -/
def gangReduce (rows n : Nat) (f : Bool) (w : GangWork) : Option GangWork := (List.range rows).foldlM (gangColumn rows n f) w

/-- The rows of the parity-check matrix: bit b of α^i ÷ g(α) in row i m + b (MatGen). -/
def MceSet.matrix (p : MceSet) (g : List Nat) (order : List Nat) : List Nat :=
  let places := (order.take p.n).map p.element
  let scaled := places.map fun x => p.fld.inv (p.fld.at g x)
  let powers := (List.range (p.t - 1)).foldl (fun (l : List (List Nat)) _ => l ++ [(l.getLastD []).zipWith p.fld.mul places]) [scaled]
  powers.flatMap fun v => (List.range p.m).map fun b => v.foldr (fun x acc => x / 2 ^ b % 2 + 2 * acc) 0

/-! #### Control bits of the field ordering -/

/-- The smallest member of each element's cycle, by n doublings. -/
def cycleMin (n : Nat) (p : Array Nat) : Array Nat :=
  ((List.range n).foldl (fun (q : Array Nat × Array Nat) _ =>
    (((List.range p.size).map fun x => min (q.1.getD x 0) (q.1.getD (q.2.getD x 0) 0)).toArray, q.2.map fun y => q.2.getD y 0)) ((List.range p.size).toArray, p)).1
/-- The inverse of a permutation of n elements. -/
def inverseOf (p : Array Nat) : Array Nat := (List.range p.size).foldl (fun q x => q.set! (p.getD x 0) x) (Array.replicate p.size 0)
/-- A number with its lowest bit flipped where the bit of its pair is set. -/
def flipBy (f : Array Nat) (x : Nat) : Nat := x ^^^ f.getD (x / 2) 0
/-- Two lists taken in turn. -/
def riffle : List Nat → List Nat → List Nat
  | a :: r, b :: s => a :: b :: riffle r s
  | _, _ => []
/-- The control bits of a permutation of 2^m elements in a Beneš network: the first layer from the cycles of π(π⁻¹(x ⊕ 1) ⊕ 1), the middle by recursion, the last layer from what the first leaves. -/
def controlBits : Nat → Array Nat → List Nat
  | 0, _ => []
  | 1, pi => [pi.getD 0 0]
  | m + 2, pi =>
    let n := 2 ^ (m + 2)
    let back := inverseOf pi
    let cycles := cycleMin (m + 2) (((List.range n).map fun y => pi.getD (back.getD (y ^^^ 1) 0 ^^^ 1) 0).toArray)
    let f := ((List.range (n / 2)).map fun j => cycles.getD (2 * j) 0 % 2).toArray
    let mid := ((List.range n).map fun k => flipBy f (pi.getD k 0)).toArray
    let l := ((List.range (n / 2)).map fun k => mid.getD (2 * k) 0 % 2).toArray
    let inner := (List.range n).map fun y => mid.getD (flipBy l y) 0
    let half := fun e => ((List.range (n / 2)).map fun j => inner.getD (2 * j + e) 0 / 2).toArray
    f.toList ++ riffle (controlBits (m + 1) (half 0)) (controlBits (m + 1) (half 1)) ++ l.toList
/-- The permutation that control bits make. -/
def benes (m : Nat) (bits : List Nat) : List Nat :=
  let n := 2 ^ m
  let c := bits.toArray
  ((List.range (2 * m - 1)).foldl (fun (p : Array Nat) i =>
    let gap := 2 ^ min i (2 * m - 2 - i)
    (List.range (n / 2)).foldl (fun (p : Array Nat) j =>
      let x := j % gap + 2 * gap * (j / gap)
      if c.getD (i * (n / 2) + j) 0 = 1 then (p.set! x (p.getD (x + gap) 0)).set! (x + gap) (p.getD x 0) else p) p) (List.range n).toArray).toList

/-! #### Keys -/

/-- What an attempt at a key draws from a seed, and its next seed (SeededKeyGen). -/
def MceSet.expand (p : MceSet) (seed : Bytes) : Bytes := shake256 ([0x40#8] ++ seed) (p.n / 8 + 4 * 2 ^ p.m + 2 * p.t + 32)
def MceSet.nextSeed (p : MceSet) (seed : Bytes) : Bytes := (p.expand seed).drop (p.n / 8 + 4 * 2 ^ p.m + 2 * p.t)

/-- The rows of T, each in whole bytes. -/
def GangWork.key (w : GangWork) (p : MceSet) : Bytes := (gangRows w.gang p.rows).flatMap fun r => leBytes (ceilDiv (p.n - p.rows) 8) (r / 2 ^ p.rows)

/-- A key of one attempt: the private key δ ‖ c ‖ g ‖ α ‖ s and the public key T; none where the attempt fails. -/
def MceSet.attempt (p : MceSet) (f : Bool) (seed : Bytes) : Option (Bytes × Bytes) :=
  let e := p.expand seed
  let s := e.take (p.n / 8)
  match p.order (cut e (p.n / 8) (4 * 2 ^ p.m)), p.goppa (cut e (p.n / 8 + 4 * 2 ^ p.m) (2 * p.t)) with
  | some order, some g =>
    (gangReduce p.rows p.n f { gang := gangPlace (p.matrix g order), order := order, pivots := [] }).map fun w =>
      let c := leBytes 8 (w.pivots.map fun d => 2 ^ (d - (p.rows - 32))).sum
      let alpha := packBits 1 (controlBits p.m w.order.toArray)
      (seed ++ c ++ (g.take p.t).flatMap (leBytes 2) ++ alpha ++ s,
        w.key p)
  | _, _ => none

/-- The attempts of a gang job, each from the next seed where the one before it failed (R179); a plain attempt succeeds with a chance of 0.289 (R181), so the bound of 1,024 is never met. -/
def MceSet.search (p : MceSet) (f : Bool) : Nat → Bytes → Option (Bytes × Bytes)
  | 0, _ => none
  | n + 1, seed =>
    match p.attempt f seed with
    | some k => some k
    | none => p.search f n (p.nextSeed seed)

/-- The private key a seed generates (R175). -/
def mcePrivate (a : Nat) (f : Bool) (seed : Bytes) : Bytes := (((mceSet a).search f 1024 seed).map (·.1)).getD []

/-- g, the order of the columns and s of a private key. -/
def MceSet.parts (p : MceSet) (key : Bytes) : List Nat × List Nat × Bytes :=
  let size := (2 * p.m - 1) * 2 ^ (p.m - 4)
  let g := (List.range p.t).map fun i => field key (40 + 2 * i) 2
  (g ++ [1], benes p.m (unpackBits 1 (8 * size) (cut key (40 + 2 * p.t) size)), key.drop (40 + 2 * p.t + size))

/-- The public key T of a matrix in its final order of columns, which is systematic by construction. -/
def MceSet.public (p : MceSet) (g order : List Nat) : Bytes :=
  match gangReduce p.rows p.n false { gang := gangPlace (p.matrix g order), order := order, pivots := [] } with
  | some w => w.key p
  | none => []
/-- The matrix of a key as the gang holds it once every column is done, (I | T), and the bits of a row (R177, R178). -/
def mceGang (a : Nat) (key : Bytes) : Gang × Nat :=
  let p := mceSet a
  let (g, order, _) := p.parts key
  (((gangReduce p.rows p.n false { gang := gangPlace (p.matrix g order), order := order, pivots := [] }).map (·.gang)).getD [], p.n)
/-- The public key of a private key. -/
def mcePublic (a : Nat) (key : Bytes) : Bytes := let p := mceSet a; let (g, order, _) := p.parts key; p.public g order

/-- The parity of a number's bits. -/
def parityOf (v n : Nat) : Nat := bitSum v 0 n % 2

/-- The ciphertext of an error vector under T (Encode). -/
def MceSet.encode (p : MceSet) (pk : Bytes) (e : Nat) : Bytes :=
  let width := ceilDiv (p.n - p.rows) 8
  let right := e / 2 ^ p.rows
  packBits 1 ((List.range p.rows).map (fun r => (e / 2 ^ r + parityOf (leNat (cut pk (width * r) width) % 2 ^ (p.n - p.rows) &&& right) (p.n - p.rows)) % 2) ++ List.replicate ((8 - p.rows % 8) % 8) 0)

/-- Places below n in order, of 16-bit numbers; none where the first t repeat or are too few (FixedWeight). -/
def MceSet.places (p : MceSet) (b : Bytes) : Option (List Nat) :=
  let all := (unpackBits 16 (b.length / 2) b).map (· % 2 ^ p.m)
  let l := ((all.filter (· < p.n)).take p.t)
  if l.length = p.t && l.dedup.length = p.t then some l else none

/-- The first of a draw's successive strings that gives an error vector. How the 32 bytes drawn for an encapsulation (R136, R187) are lengthened to the strings FixedWeight takes is not stated, so the strings are a free function of them. -/
def MceSet.sample (p : MceSet) (a : Nat) (m : Bytes) : Nat → Nat → Nat
  | 0, _ => 0
  | f + 1, i =>
    match p.places (Config.bytes 1 (2 * p.t * (if p.n = 2 ^ p.m then 1 else 2)) [leBytes 1 a, m, leBytes 4 i]) with
    | some l => (l.map fun x => 2 ^ x).sum
    | none => p.sample a m f (i + 1)

/-- The session key of a plaintext: H(b, e, C). -/
def MceSet.secret (p : MceSet) (b : Byte) (e : Bytes) (c : Bytes) : Bytes := shake256 ([b] ++ cut e 0 (p.n / 8) ++ c) 32

/-- Encapsulation: ciphertext and secret. -/
def mceEncaps (a : Nat) (pk m : Bytes) : Bytes × Bytes :=
  let p := mceSet a
  let e := p.sample a m 4096 0
  let c := p.encode pk e
  (c, p.secret 1 (leBytes (p.n / 8) e) c)

/-- The error vector of a ciphertext, none where it does not decode (Decode). -/
def MceSet.decode (p : MceSet) (key c : Bytes) : Option Nat :=
  let (g, order, _) := p.parts key
  let places := (order.take p.n).map p.element
  let v := leNat c % 2 ^ p.rows
  let weights := (places.zip (List.range p.n)).map fun x => if bitOf v x.2 then (let y := p.fld.inv (p.fld.at g x.1); p.fld.mul y y) else 0
  let syndromes := (List.range (2 * p.t)).map fun i => (places.zip weights).foldl (fun s x => if x.2 = 0 then s else s ^^^ p.fld.mul x.2 (p.fld.pow x.1 i)) 0
  let locator := p.fld.locator syndromes
  let sigma := (List.range (p.t + 1)).map fun i => locator.getD (p.t - i) 0
  let e := ((places.zip (List.range p.n)).map fun x => if p.fld.at sigma x.1 = 0 then 2 ^ x.2 else 0).sum
  if bitSum e 0 p.n = p.t && p.encode (p.public g order) e = c then some e else none

/-- Decapsulation, with the specification's implicit rejection (R187). -/
def mceDecaps (a : Nat) (key c : Bytes) : Bytes :=
  let p := mceSet a
  match p.decode key c with
  | some e => p.secret 1 (leBytes (p.n / 8) e) c
  | none => p.secret 0 (p.parts key).2.2 c

/-! ### HQC -/

/-- The parameters of R189, with those the specification adds: the bytes of a message, the Reed–Solomon length and error bound, and the repetitions of a Reed–Muller word of 128 bits. -/
structure HqcSet where
  n : Nat
  w : Nat
  wr : Nat
  k : Nat
  n1 : Nat
  delta : Nat
  repeats : Nat
  deriving DecidableEq, Repr

def hqcSet (a : Nat) : HqcSet :=
  if a = 0x48 then { n := 17669, w := 66, wr := 75, k := 16, n1 := 46, delta := 15, repeats := 3 }
  else if a = 0x49 then { n := 35851, w := 100, wr := 114, k := 24, n1 := 56, delta := 16, repeats := 5 }
  else { n := 57637, w := 131, wr := 149, k := 32, n1 := 90, delta := 29, repeats := 5 }

/-- The field of the Reed–Solomon code. -/
def rsField : Field := { m := 8, poly := 0x11D }
/-- The bits of the code word of a message. -/
def HqcSet.bits (p : HqcSet) : Nat := 128 * p.repeats * p.n1

/-- The seeds of a held η: the secret-key seed, the public-key seed and σ (R190). -/
structure HqcKey where
  sk : Bytes
  pk : Bytes
  sigma : Bytes
  deriving DecidableEq, Repr

def hqcSeeds (a : Nat) (key : Bytes) : HqcKey :=
  let b := shake256 (ascii "PYRS-HQC" ++ leBytes 1 a ++ key) (80 + (hqcSet a).k)
  { sk := b.take 40, pk := cut b 40 40, sigma := b.drop 80 }

/-- The stream a seed expands to, its requests filled to 8 bytes. -/
def hqcStream (seed : Bytes) (n : Nat) : Bytes := shake256 (seed ++ [0x02#8]) n
/-- A vector of n bits: the first of a stream. -/
def HqcSet.dense (p : HqcSet) (seed : Bytes) : Nat := leNat (hqcStream seed (ceilDiv p.n 8)) % 2 ^ p.n
/-- A vector of weight w: place i is i plus a 32-bit number modulo n − i, or i itself where a later place has it. -/
def HqcSet.sparse (p : HqcSet) (w : Nat) (b : Bytes) : Nat :=
  let drawn := (List.range w).map fun i => i + field b (4 * i) 4 % (p.n - i)
  let fixed := ((List.range w).reverse.foldl (fun (l : List Nat) i => (if l.contains (drawn.getD i 0) then i else drawn.getD i 0) :: l) [])
  (fixed.map fun x => 2 ^ x).sum
/-- Vectors of weight w, one after another of a stream. -/
def HqcSet.sparses (p : HqcSet) (seed : Bytes) (w count : Nat) : List Nat :=
  let size := ceilDiv (4 * w) 8 * 8
  let b := hqcStream seed (size * count)
  (List.range count).map fun i => p.sparse w (cut b (size * i) (4 * w))
/-- The product modulo x^n − 1. -/
def HqcSet.mul (p : HqcSet) (u v : Nat) : Nat :=
  let full := (List.range p.n).foldl (fun x i => if bitOf v i then x ^^^ (u * 2 ^ i) else x) 0
  full % 2 ^ p.n ^^^ full / 2 ^ p.n

/-- x, y and h of a key. -/
def HqcSet.vectors (p : HqcSet) (k : HqcKey) : Nat × Nat × Nat :=
  let l := p.sparses k.sk p.w 2
  (l.getD 0 0, l.getD 1 0, p.dense k.pk)
/-- The public key: the public-key seed and s = x + y h. It depends on the two seeds alone (R190). -/
def hqcPublic (a : Nat) (key : Bytes) : Bytes :=
  let p := hqcSet a
  let k := hqcSeeds a key
  let (x, y, h) := p.vectors k
  k.pk ++ leBytes (ceilDiv p.n 8) (x ^^^ p.mul h y)

/-- The generator of the Reed–Solomon code: its roots are the first 2 δ powers of 2. -/
def HqcSet.generator (p : HqcSet) : List Nat :=
  (span 1 (2 * p.delta)).foldl (fun g i => polyXor (0 :: g) (rsField.scale (rsField.pow 2 i) g)) [1]
/-- The Reed–Solomon word of a message: the remainder, then the message. -/
def HqcSet.rsEncode (p : HqcSet) (m : Bytes) : List Nat :=
  let g := p.generator.take (2 * p.delta)
  let rest := m.reverse.foldl (fun (r : List Nat) b =>
    let t := b.toNat ^^^ r.getLastD 0
    polyXor (0 :: r.dropLast) (rsField.scale t g)) (List.replicate (2 * p.delta) 0)
  rest ++ m.map (·.toNat)
/-- Bit i of the first-order Reed–Muller word of a byte. -/
def rmBit (b i : Nat) : Nat := (b / 128 + parityOf (b % 128 &&& i) 7) % 2
/-- The code word of a message (C.Encode). -/
def HqcSet.encode (p : HqcSet) (m : Bytes) : Nat :=
  ((p.rsEncode m).zip (List.range p.n1)).foldr (fun b v =>
    v * 2 ^ (128 * p.repeats) + ((List.range (128 * p.repeats)).map fun i => rmBit b.1 (i % 128) * 2 ^ i).sum) 0
/-- The byte whose word agrees with the most of its received bits. -/
def HqcSet.rmDecode (p : HqcSet) (v : Nat) : Nat :=
  let counts := (List.range 128).map fun i => ((List.range p.repeats).map fun r => v / 2 ^ (128 * r + i) % 2).sum
  let score := fun b => ((counts.zip (List.range 128)).map fun c => if rmBit b c.2 = 1 then c.1 else p.repeats - c.1).sum
  ((List.range 256).foldl (fun (best : Nat × Nat) b => let s := score b; if best.2 < s then (b, s) else best) (0, 0)).1
/-- The message of a Reed–Solomon word with at most δ wrong bytes: the values of the errors at the roots of the locator. -/
def HqcSet.rsDecode (p : HqcSet) (l : List Nat) : Bytes :=
  let s := (span 1 (2 * p.delta)).map fun i => rsField.at l (rsField.pow 2 i)
  let locator := rsField.locator s
  let values := (List.range (2 * p.delta)).map (rsField.coefficient s locator)
  let slope := (locator.zip (List.range locator.length)).map fun c => if c.2 % 2 = 1 then c.1 else 0
  let fixed := (l.zip (List.range l.length)).map fun c =>
    let x := rsField.inv (rsField.pow 2 c.2)
    if rsField.at locator x = 0 then c.1 ^^^ rsField.mul (rsField.at values x) (rsField.inv (rsField.mul x (rsField.at slope x))) else c.1
  (fixed.drop (2 * p.delta)).map (BitVec.ofNat 8)
/-- The message of a received word (C.Decode). -/
def HqcSet.decode (p : HqcSet) (v : Nat) : Bytes := p.rsDecode ((List.range p.n1).map fun i => p.rmDecode (v / 2 ^ (128 * p.repeats * i)))

/-- The ciphertext u ‖ v of a message under θ (Encrypt). -/
def HqcSet.encrypt (p : HqcSet) (pk m theta : Bytes) : Bytes :=
  let l := p.sparses (theta.take 40) p.wr 3
  let (r1, r2, e) := (l.getD 0 0, l.getD 1 0, l.getD 2 0)
  let u := r1 ^^^ p.mul (p.dense (pk.take 40)) r2
  let v := p.encode m ^^^ (p.mul (leNat (pk.drop 40)) r2 ^^^ e) % 2 ^ p.bits
  leBytes (ceilDiv p.n 8) u ++ leBytes (p.bits / 8) v
/-- The hash that gives θ, and the one that gives the secret. -/
def hqcTheta (pk m salt : Bytes) : Bytes := shake256 (m ++ pk.take 32 ++ salt ++ [0x03#8]) 64
def hqcSecret (m c : Bytes) : Bytes := shake256 (m ++ c ++ [0x04#8]) 64

/-- Encapsulation: ciphertext u ‖ v ‖ salt and secret. How the 32 bytes drawn (R136, R187) give the message and the 16-byte salt is not stated: both are free functions of them. -/
def hqcEncaps (a : Nat) (pk draw : Bytes) : Bytes × Bytes :=
  let p := hqcSet a
  let m := Config.bytes 2 p.k [leBytes 1 a, draw]
  let salt := Config.bytes 3 16 [leBytes 1 a, draw]
  let c := p.encrypt pk m (hqcTheta pk m salt)
  (c ++ salt, hqcSecret m c)

/-- Decapsulation, with the specification's implicit rejection: σ stands in for the message (R187). -/
def hqcDecaps (a : Nat) (key ct : Bytes) : Bytes :=
  let p := hqcSet a
  let k := hqcSeeds a key
  let (x, y, h) := p.vectors k
  let pk := k.pk ++ leBytes (ceilDiv p.n 8) (x ^^^ p.mul h y)
  let size := ceilDiv p.n 8
  let c := ct.take (size + p.bits / 8)
  let m := p.decode ((leNat (cut c size (p.bits / 8)) ^^^ p.mul (leNat (c.take size) % 2 ^ p.n) y) % 2 ^ p.bits)
  hqcSecret (if p.encrypt pk m (hqcTheta pk m (ct.drop c.length)) = c then m else k.sigma) c

end Sys2Proof.Machine
end

