-- ==== Sys2Proof/Machine/Curves.lean ====
section
/-! DEFINITION. The classical schemes of R199 to R203: RSA (RFC 8017), ECDSA and ECDH on P-256, P-384 and P-521 (FIPS 186-5, RFC 6979, SP 800-56A), Ed25519 and Ed448 (RFC 8032), X25519 and X448 (RFC 7748). The spec names the standards and does not reproduce them (log 3, PRESUMED). -/

namespace Sys2Proof.Machine

/-- The inverse modulo a prime of at most b bits. -/
def invMod (p b a : Nat) : Nat := powMod p a b (p - 2)

/-! ### Weierstrass curves -/

/-- A curve y² = x³ − 3x + b modulo p with a base point of prime order n; `bits` counts the bits of p and `hash` is the ALG of its digest (R199). -/
structure Curve where
  bits : Nat
  p : Nat
  b : Nat
  n : Nat
  gx : Nat
  gy : Nat
  hash : Nat
  deriving DecidableEq, Repr

def curveP256 : Curve := {
  bits := 256, p := 2 ^ 256 - 2 ^ 224 + 2 ^ 192 + 2 ^ 96 - 1, hash := 0x70
  n := 0xffffffff00000000ffffffffffffffffbce6faada7179e84f3b9cac2fc632551
  b := 0x5ac635d8aa3a93e7b3ebbd55769886bc651d06b0cc53b0f63bce3c3e27d2604b
  gx := 0x6b17d1f2e12c4247f8bce6e563a440f277037d812deb33a0f4a13945d898c296
  gy := 0x4fe342e2fe1a7f9b8ee7eb4a7c0f9e162bce33576b315ececbb6406837bf51f5 }
def curveP384 : Curve := {
  bits := 384, p := 2 ^ 384 - 2 ^ 128 - 2 ^ 96 + 2 ^ 32 - 1, hash := 0x71
  n := 0xffffffffffffffffffffffffffffffffffffffffffffffffc7634d81f4372ddf581a0db248b0a77aecec196accc52973
  b := 0xb3312fa7e23ee7e4988e056be3f82d19181d9c6efe8141120314088f5013875ac656398d8a2ed19d2a85c8edd3ec2aef
  gx := 0xaa87ca22be8b05378eb1c71ef320ad746e1d3b628ba79b9859f741e082542a385502f25dbf55296c3a545e3872760ab7
  gy := 0x3617de4a96262c6f5d9e98bf9292dc29f8f41dbd289a147ce9da3113b5f0b8c00a60b1ce1d7e819d7a431d7c90ea0e5f }
def curveP521 : Curve := {
  bits := 521, p := 2 ^ 521 - 1, hash := 0x72
  n := 0x01fffffffffffffffffffffffffffffffffffffffffffffffffffffffffffffffffa51868783bf2f966b7fcc0148f709a5d03bb5c9b8899c47aebb6fb71e91386409
  b := 0x0051953eb9618e1c9a1f929a21a0b68540eea2da725b99b315f3b8b489918ef109e156193951ec7e937b1652c0bd3bb1bf073573df883d2c34f1ef451fd46b503f00
  gx := 0x00c6858e06b70404e9cd9e3ecb662395b4429c648139053fb521f828af606b4d3dbaa14b5e77efe75928fe1dc127a2ffa8de3348b3c1856a429bf97e7e31c2e5bd66
  gy := 0x011839296a789a3bc0045c8a5fb42c7d1bd998f54449579b446817afbd17273e662c97ee72995ef42640c550b9013fad0761353c7086a272c24088be94769fd16650 }

/-- The curve of an ALG of R200. -/
def curveOf (a : Nat) : Curve := if a = 0x51 || a = 0x58 then curveP256 else if a = 0x52 || a = 0x59 then curveP384 else curveP521

/-- Bytes of a coordinate. -/
def Curve.size (c : Curve) : Nat := ceilDiv c.bits 8
def Curve.inv (c : Curve) (a : Nat) : Nat := invMod c.p c.bits a

/-- A point; none is the point at infinity. -/
abbrev Point := Option (Nat × Nat)

/-- Coordinates below p that meet the curve's equation. -/
def Curve.holds (c : Curve) (x y : Nat) : Bool := x < c.p && y < c.p && y * y % c.p = (x * x * x + (c.p - 3) * x + c.b) % c.p

/-- The third point of the line of slope m through a point with abscissas x₁ and x₂, mirrored. -/
def Curve.third (c : Curve) (m x1 y1 x2 : Nat) : Point :=
  let x := (m * m + 2 * c.p - x1 - x2) % c.p
  some (x, (m * (x1 + c.p - x) + c.p - y1) % c.p)

/-- The sum of two points. -/
def Curve.add (c : Curve) : Point → Point → Point
  | none, q => q
  | some a, none => some a
  | some (x1, y1), some (x2, y2) =>
    if x1 ≠ x2 then c.third ((y2 + c.p - y1) * c.inv ((x2 + c.p - x1) % c.p) % c.p) x1 y1 x2
    else if y1 = y2 && y1 ≠ 0 then c.third ((3 * x1 * x1 + c.p - 3) * c.inv (2 * y1 % c.p) % c.p) x1 y1 x1
    else none

/-- k times a point, over the b low bits of k. -/
def Curve.mul (c : Curve) : Nat → Nat → Point → Point
  | 0, _, _ => none
  | b + 1, k, q =>
    let h := c.mul b (k / 2) (c.add q q)
    if k % 2 = 1 then c.add h q else h
def Curve.base (c : Curve) : Point := some (c.gx, c.gy)
def Curve.times (c : Curve) (k : Nat) (q : Point) : Point := c.mul c.bits k q

/-- 04h ‖ x ‖ y (R200). -/
def Curve.bytes (c : Curve) : Point → Bytes
  | some (x, y) => [0x04#8] ++ beBytes c.size x ++ beBytes c.size y
  | none => [0x00#8]
/-- A point from its bytes, none where they are not 04h ‖ x ‖ y of a point on the curve (R203). -/
def Curve.point (c : Curve) (b : Bytes) : Point :=
  let x := beNat (cut b 1 c.size)
  let y := beNat (b.drop (1 + c.size))
  if b.length = 1 + 2 * c.size && b.head? = some 0x04#8 && c.holds x y then some (x, y) else none

/-- ECDH: the x-coordinate of the product (R199). -/
def ecdh (a : Nat) (d peer : Bytes) : Bytes :=
  let c := curveOf a
  beBytes c.size (((c.times (beNat d) (c.point peer)).map (·.1)).getD 0)

/-- One step of HMAC_DRBG's update with a marker byte: (K, V). -/
def nonceStep (hmac : Bytes → Bytes → Bytes) (kv : Bytes × Bytes) (marker : Byte) (data : Bytes) : Bytes × Bytes :=
  let k := hmac kv.1 (kv.2 ++ [marker] ++ data)
  (k, hmac k kv.2)

/-- The successive values of V, joined until they hold n bytes. -/
def nonceBytes (hmac : Bytes → Bytes → Bytes) (k : Bytes) : Nat → Bytes → Bytes × Bytes
  | 0, v => ([], v)
  | n + 1, v =>
    let v := hmac k v
    let r := nonceBytes hmac k n v
    (v ++ r.1, r.2)

/-- ECDSA's r and s for a nonce; none where either is zero. -/
def Curve.signOnce (c : Curve) (d z k : Nat) : Option (Nat × Nat) :=
  let r := ((c.times k c.base).map (·.1)).getD 0 % c.n
  let s := powMod c.n k c.bits (c.n - 2) * (z + r * d) % c.n
  if r = 0 || s = 0 then none else some (r, s)

/-- The nonce loop of RFC 6979: the first candidate in 1 to n − 1 that gives a signature; 64 candidates, of which a random one fails with a chance below 2^(−8) on every curve. -/
def Curve.signLoop (c : Curve) (hmac : Bytes → Bytes → Bytes) (hlen d z : Nat) : Nat → Bytes × Bytes → Option (Nat × Nat)
  | 0, _ => none
  | f + 1, kv =>
    let t := nonceBytes hmac kv.1 (ceilDiv c.size hlen) kv.2
    let k := beNat (t.1.take c.size) / 2 ^ (8 * c.size - c.bits)
    let found := if 1 ≤ k && k < c.n then c.signOnce d z k else none
    match found with
    | some x => some x
    | none => c.signLoop hmac hlen d z f (nonceStep hmac (kv.1, t.2) 0x00 [])

/-- A number from the leftmost bits of a digest. -/
def Curve.digestNat (c : Curve) (digest : Bytes) : Nat := beNat digest / 2 ^ (8 * digest.length - c.bits)

/-- ECDSA r ‖ s of a digest; `extra` is the additional data of a hedged nonce, empty for a derived one (R199). -/
def ecdsaSign (a : Nat) (key digest extra : Bytes) : Bytes :=
  let c := curveOf a
  let hlen := digestSize c.hash
  let hmac := hmacOf (fun m => digestOf c.hash m 0) (if c.hash = 0x70 then 64 else 128)
  let z := c.digestNat digest
  let data := beBytes c.size (beNat key) ++ beBytes c.size (z % c.n) ++ extra
  let start := nonceStep hmac (nonceStep hmac (List.replicate hlen 0x00#8, List.replicate hlen 0x01#8) 0x00 data) 0x01 data
  match c.signLoop hmac hlen (beNat key) z 64 start with
  | some (r, s) => beBytes c.size r ++ beBytes c.size s
  | none => List.replicate (2 * c.size) 0#8

/-- ECDSA verification; r and s outside 1 to n − 1 fail (R203). -/
def ecdsaVerify (a : Nat) (pk digest sig : Bytes) : Bool :=
  let c := curveOf a
  let r := beNat (sig.take c.size)
  let s := beNat (sig.drop c.size)
  let w := powMod c.n s c.bits (c.n - 2)
  let x := c.add (c.times (c.digestNat digest * w % c.n) c.base) (c.times (r * w % c.n) (c.point pk))
  sig.length = 2 * c.size && 1 ≤ r && r < c.n && 1 ≤ s && s < c.n && (x.map fun q => decide (q.1 % c.n = r)).getD false

/-! ### Edwards curves -/

/-- A curve a x² + y² = 1 + d x² y² modulo p, with its base point of order l; `size` is the bytes of a point. -/
structure Edwards where
  size : Nat
  bits : Nat
  p : Nat
  a : Nat
  d : Nat
  l : Nat
  bx : Nat
  bY : Nat
  deriving DecidableEq, Repr

/-- Edwards25519: d = −121665 ÷ 121666. -/
def ed25519 : Edwards :=
  let p := 2 ^ 255 - 19
  { size := 32, bits := 255, p := p, a := p - 1, d := (p - 121665) * invMod p 255 121666 % p
    l := 2 ^ 252 + 27742317777372353535851937790883648493
    bx := 15112221349535400772501151409588531511454012693041857206046113283949847762202, bY := 4 * invMod p 255 5 % p }
/-- Edwards448: d = −39081. -/
def ed448 : Edwards :=
  let p := 2 ^ 448 - 2 ^ 224 - 1
  { size := 57, bits := 448, p := p, a := 1, d := p - 39081
    l := 2 ^ 446 - 13818066809895115352007386748515426880336692474882178609894547503885
    bx := 224580040295924300187604334099896036246789641632564134246125461686950415467406032909029192869357953282578032075146446173674602635247710
    bY := 298819210078481492676017930443930673437544040154080242095928241372331506189835876003536878655418784733982303233503462500531545062832660 }

def edwardsOf (a : Nat) : Edwards := if a = 0x54 then ed25519 else ed448

/-- The sum of two points, by the one formula that holds for all of them. -/
def Edwards.add (c : Edwards) (u v : Nat × Nat) : Nat × Nat :=
  let t := c.d * u.1 % c.p * v.1 % c.p * u.2 % c.p * v.2 % c.p
  let plus := (1 + t) % c.p
  let minus := (1 + c.p - t) % c.p
  let i := invMod c.p c.bits (plus * minus % c.p)
  ((u.1 * v.2 + v.1 * u.2) * minus % c.p * i % c.p, (u.2 * v.2 + (c.p - c.a) * u.1 % c.p * v.1) * plus % c.p * i % c.p)
/-- k times a point, over the b low bits of k. -/
def Edwards.mul (c : Edwards) : Nat → Nat → Nat × Nat → Nat × Nat
  | 0, _, _ => (0, 1)
  | b + 1, k, q =>
    let h := c.mul b (k / 2) (c.add q q)
    if k % 2 = 1 then c.add h q else h
def Edwards.times (c : Edwards) (k : Nat) (q : Nat × Nat) : Nat × Nat := c.mul c.bits k q
def Edwards.base (c : Edwards) : Nat × Nat := (c.bx, c.bY)

/-- A point's bytes: y, and the low bit of x at the top. -/
def Edwards.bytes (c : Edwards) (q : Nat × Nat) : Bytes := leBytes c.size (q.2 + q.1 % 2 * 2 ^ (8 * c.size - 1))
/-- A square root modulo p, for p ≡ 3 mod 4 or p ≡ 5 mod 8; the caller checks its square. -/
def Edwards.root (c : Edwards) (v : Nat) : Nat :=
  if c.p % 4 = 3 then powMod c.p v c.bits ((c.p + 1) / 4)
  else
    let r := powMod c.p v c.bits ((c.p + 3) / 8)
    if r * r % c.p = v then r else r * powMod c.p 2 c.bits ((c.p - 1) / 4) % c.p
/-- A point from its bytes, none where they do not decode (R203). -/
def Edwards.point (c : Edwards) (b : Bytes) : Option (Nat × Nat) :=
  let v := leNat b
  let y := v % 2 ^ (8 * c.size - 1)
  let sign := v / 2 ^ (8 * c.size - 1)
  let square := (y * y + c.p - 1) % c.p * invMod c.p c.bits ((c.d * y % c.p * y + c.p - c.a) % c.p) % c.p
  let r := c.root square
  if b.length ≠ c.size || c.p ≤ y || r * r % c.p ≠ square || (r = 0 && sign = 1) then none
  else some (if r % 2 = sign then r else c.p - r, y)

/-- The hash of an EdDSA scheme, with the context of Ed448. -/
def edHash (a : Nat) (ctx m : Bytes) : Bytes :=
  if a = 0x54 then sha512 m else shake256 (ascii "SigEd448" ++ [0x00#8] ++ leBytes 1 ctx.length ++ ctx ++ m) 114
/-- The scalar and the prefix that a seed gives. -/
def edSecret (a : Nat) (seed : Bytes) : Nat × Bytes :=
  let h := if a = 0x54 then sha512 seed else shake256 seed 114
  let v := leNat (h.take (h.length / 2))
  (if a = 0x54 then v % 2 ^ 254 / 8 * 8 + 2 ^ 254 else v % 2 ^ 447 / 4 * 4 + 2 ^ 447, h.drop (h.length / 2))
/-- The public key of a seed. -/
def edPublic (a : Nat) (seed : Bytes) : Bytes := let c := edwardsOf a; c.bytes (c.times (edSecret a seed).1 c.base)
/-- R ‖ S. -/
def edSign (a : Nat) (seed ctx m : Bytes) : Bytes :=
  let c := edwardsOf a
  let (x, start) := edSecret a seed
  let r := leNat (edHash a ctx (start ++ m)) % c.l
  let big := c.bytes (c.times r c.base)
  let k := leNat (edHash a ctx (big ++ edPublic a seed ++ m))
  big ++ leBytes c.size ((r + k * x) % c.l)
/-- The cofactorless equation S·B = R + k·A; S ≥ L fails (R199). -/
def edVerify (a : Nat) (pk ctx m sig : Bytes) : Bool :=
  let c := edwardsOf a
  let big := sig.take c.size
  let s := leNat (sig.drop c.size)
  let k := leNat (edHash a ctx (big ++ pk ++ m)) % c.l
  match c.point big, c.point pk with
  | some r, some q => sig.length = 2 * c.size && s < c.l && c.times s c.base = c.add r (c.times k q)
  | _, _ => false

/-! ### Montgomery curves -/

/-- A ladder of X25519 or X448: p, its bits and (A − 2) ÷ 4. -/
structure Ladder where
  size : Nat
  bits : Nat
  p : Nat
  a24 : Nat
  deriving DecidableEq, Repr

def ladderOf (a : Nat) : Ladder :=
  if a = 0x56 then { size := 32, bits := 255, p := 2 ^ 255 - 19, a24 := 121665 } else { size := 56, bits := 448, p := 2 ^ 448 - 2 ^ 224 - 1, a24 := 39081 }

/-- The differential addition of two points whose difference is x₁, and the doubling of the first. -/
def Ladder.step (c : Ladder) (x1 : Nat) (u v : Nat × Nat) : (Nat × Nat) × (Nat × Nat) :=
  let plus := fun (q : Nat × Nat) => (q.1 + q.2) % c.p
  let minus := fun (q : Nat × Nat) => (q.1 + c.p - q.2) % c.p
  let (s, d) := (plus u * plus u % c.p, minus u * minus u % c.p)
  let (f, g) := (plus u * minus v % c.p, minus u * plus v % c.p)
  let e := (s + c.p - d) % c.p
  let m := (f + c.p - g) % c.p
  ((s * d % c.p, e * ((s + c.a24 * e) % c.p) % c.p), (plus (f, g) * plus (f, g) % c.p, x1 * (m * m % c.p) % c.p))

/-- The pair (k′, k′ + 1) times the point for the b top bits k′ of k. -/
def Ladder.climb (c : Ladder) (x1 k : Nat) : Nat → (Nat × Nat) × (Nat × Nat)
  | 0 => ((1, 0), (x1, 1))
  | b + 1 =>
    let q := c.climb x1 k b
    if k / 2 ^ (c.bits - 1 - b) % 2 = 0 then c.step x1 q.1 q.2 else (c.step x1 q.2 q.1).swap

/-- The scalar of 32 or 56 bytes, clamped. -/
def xScalar (a : Nat) (key : Bytes) : Nat :=
  let v := leNat key
  if a = 0x56 then v % 2 ^ 254 / 8 * 8 + 2 ^ 254 else v % 2 ^ 447 / 4 * 4 + 2 ^ 447
/-- X25519 or X448 of a scalar and a u-coordinate. -/
def xMul (a : Nat) (key u : Bytes) : Bytes :=
  let c := ladderOf a
  let q := (c.climb (leNat u % 2 ^ c.bits % c.p) (xScalar a key) c.bits).1
  leBytes c.size (q.1 * invMod c.p c.bits q.2 % c.p)
/-- The u-coordinate of the base point. -/
def xBase (a : Nat) : Bytes := leBytes (ladderOf a).size (if a = 0x56 then 9 else 5)

/-! ### RSA -/

/-- The header of an RSA key (R201, R202): MOD_BITS and e in range. -/
def rsaHeaderOk (b : Bytes) : Bool :=
  let m := field b 0 2
  let e := field b 4 4
  m % 64 = 0 && 2048 ≤ m && m ≤ 8192 && e % 2 = 1 && 3 ≤ e
/-- A number has exactly m bits. -/
def exactBits (v m : Nat) : Bool := 2 ^ (m - 1) ≤ v && v < 2 ^ m
/-- The number at place i of the five of an RSA key body: p, q, dp, dq, qinv (R201). -/
def rsaPart (body : Bytes) (i : Nat) : Nat :=
  let n := field body 0 2 / 16
  beNat (cut body (8 + n * i) n)
/-- Sizes of an RSA key body (R202). -/
def rsaKeyOk (body : Bytes) : Bool :=
  let m := field body 0 2
  let p := rsaPart body 0
  let q := rsaPart body 1
  rsaHeaderOk body && exactBits p (m / 2) && exactBits q (m / 2) && exactBits (p * q) m
/-- The check at the first use of an RSA private key in a session (R202). -/
def rsaFirstOk (body : Bytes) : Bool :=
  let e := field body 4 4
  let p := rsaPart body 0
  let q := rsaPart body 1
  e * rsaPart body 2 % (p - 1) = 1 && e * rsaPart body 3 % (q - 1) = 1 && rsaPart body 4 * q % p = 1
/-- The public key of an RSA key body: its header and n = p × q (R201). -/
def rsaPublic (body : Bytes) : Bytes := cut body 0 8 ++ beBytes (field body 0 2 / 8) (rsaPart body 0 * rsaPart body 1)

/-- MGF1 with HASH. -/
def rsaMask (hash : Nat) (seed : Bytes) (n : Nat) : Bytes := mgf1 (fun m => digestOf hash m 0) (digestSize hash) seed n

/-- EMSA-PKCS1-v1_5 of a digest in n bytes: the DigestInfo of HASH (R199). -/
def rsaV15 (hash n : Nat) (digest : Bytes) : Bytes :=
  let d := digestSize hash
  let info := leBytes 1 0x30 ++ leBytes 1 (17 + d) ++ [0x30#8, 0x0D#8, 0x06#8, 0x09#8, 0x60#8, 0x86#8, 0x48#8, 0x01#8, 0x65#8, 0x03#8, 0x04#8, 0x02#8] ++
    leBytes 1 (hash - 0x6F) ++ [0x05#8, 0x00#8, 0x04#8] ++ leBytes 1 d ++ digest
  [0x00#8, 0x01#8] ++ List.replicate (n - 3 - info.length) 0xFF#8 ++ [0x00#8] ++ info

/-- The hash that PSS puts in the encoded message. -/
def pssHash (hash : Nat) (digest salt : Bytes) : Bytes := digestOf hash (List.replicate 8 0#8 ++ digest ++ salt) 0
/-- EMSA-PSS of a digest in n bytes, for a modulus of 8 n bits: trailer BCh (R199). -/
def rsaPss (hash n : Nat) (digest salt : Bytes) : Bytes :=
  let h := pssHash hash digest salt
  let db := List.replicate (n - digestSize hash - salt.length - 2) 0#8 ++ [0x01#8] ++ salt
  let masked := xorBytes db (rsaMask hash h db.length)
  masked.set 0 (masked.headD 0 &&& 0x7F) ++ h ++ [0xBC#8]
/-- The salt an encoded message hides, of the hash length. -/
def pssSalt (hash : Nat) (em : Bytes) : Bytes :=
  let d := digestSize hash
  let n := em.length - d - 1
  (xorBytes (em.take n) (rsaMask hash (cut em n d) n)).drop (n - d)

/-- The RSA signature of a digest by the key's two halves (R199, R201); the salt is empty for v1.5. -/
def rsaSign (hash : Nat) (pss : Bool) (body digest salt : Bytes) : Bytes :=
  let n := field body 0 2 / 8
  let p := rsaPart body 0
  let q := rsaPart body 1
  let m := beNat (if pss then rsaPss hash n digest salt else rsaV15 hash n digest)
  let m1 := powMod p (m % p) (4 * n) (rsaPart body 2)
  let m2 := powMod q (m % q) (4 * n) (rsaPart body 3)
  beBytes n (m2 + q * ((m1 + p - m2 % p) * rsaPart body 4 % p))

/-- RSA verification: only a salt of the hash length is accepted (R199). -/
def rsaVerify (hash : Nat) (pss : Bool) (pk digest sig : Bytes) : Bool :=
  let n := beNat (pk.drop 8)
  let size := field pk 0 2 / 8
  let em := beBytes size (powMod n (beNat sig) 32 (field pk 4 4))
  sig.length = size && beNat sig < n && em = (if pss then rsaPss hash size digest (pssSalt hash em) else rsaV15 hash size digest)

/-! ### The classical algorithms by ALG -/

/-- The public key of a private key (R200). -/
def classicalPublic (a : Nat) (key : Bytes) : Bytes :=
  if a = 0x50 then rsaPublic key
  else if a = 0x54 || a = 0x55 then edPublic a key
  else if a = 0x56 || a = 0x57 then xMul a key (xBase a)
  else let c := curveOf a; c.bytes (c.times (beNat key) c.base)

/-- The result of CL_AGREE and of a hybrid's classical half (R199, R200). -/
def classicalShared (a : Nat) (key peer : Bytes) : Bytes := if a = 0x56 || a = 0x57 then xMul a key peer else ecdh a key peer

/-- A classical public key that R202 and R203 do not refuse. -/
def classicalOk (a : Nat) (pk : Bytes) : Bool :=
  if a = 0x50 then rsaHeaderOk pk && exactBits (beNat (pk.drop 8)) (field pk 0 2)
  else if a = 0x54 || a = 0x55 then ((edwardsOf a).point pk).isSome
  else if a = 0x56 || a = 0x57 then true
  else ((curveOf a).point pk).isSome

/-- The hash of an ALG that takes a digest: HASH of RSA, else the curve's own (R198, R199). -/
def classicalHash (a w5 : Nat) : Nat := if a = 0x50 then bitsOf w5 15 8 else (curveOf a).hash

/-- The digest that RSA and ECDSA sign: M itself where PREHASHED (R198). -/
def classicalDigest (a w5 : Nat) (m : Bytes) : Bytes := if bitOf w5 1 then m else digestOf (classicalHash a w5) m 0

/-- A classical signature by the signing control w5, over ctx and M, with the salt or the additional data drawn for it (R198, R199). -/
def classicalSign (a w5 : Nat) (key ctx m rnd : Bytes) : Bytes :=
  if a = 0x50 then rsaSign (classicalHash a w5) (bitOf w5 0) key (classicalDigest a w5 m) rnd
  else if a ≤ 0x53 then ecdsaSign a key (classicalDigest a w5 m) rnd
  else edSign a key ctx m

/-- A classical verification (R199, R203). -/
def classicalVerify (a w5 : Nat) (pk ctx m sig : Bytes) : Bool :=
  if a = 0x50 then rsaVerify (classicalHash a w5) (bitOf w5 0) pk (classicalDigest a w5 m) sig
  else if a ≤ 0x53 then ecdsaVerify a pk (classicalDigest a w5 m) sig
  else edVerify a pk ctx m sig

end Sys2Proof.Machine
end

