-- ==== Sys2Proof/Machine/DictTable.lean ====
section
/-! DEFINITION. The object dictionary's tables as data: every object with its entries (type, access class, default, persistence; R11 to R14, R534), the overflow bit of each counter (R21), the fault codes with their severities (R626), and names for the keys of the entries. -/

namespace Sys2Proof.Machine

/-- Entry types (R11). -/
inductive EntryType where
  | u8 | u16 | u32 | u64 | i32 | bool | bits8 | bits16 | bits32 | bits64
  | octets (n : Nat)
  | string (n : Nat)
  deriving DecidableEq, Repr

/-- Access classes (R12). -/
inductive Access where
  | const | ro | rw | rwa | wo | woa
  deriving DecidableEq, Repr

/-- One line of a dictionary table: the subindexes it covers, its name, type, access class, whether it persists, and its default by variant, index within the object's range and subindex. -/
structure DictRow where
  lo : Nat
  hi : Nat
  name : String
  type : EntryType
  access : Access
  persist : Bool
  dflt : Variant → Nat → Nat → Nat

/-- A dictionary object: its first index, how many indexes repeat it, its lines, and (counter subindex, overflow subindex, bit) of each counter. -/
structure DictObject where
  base : Nat
  count : Nat
  rows : List DictRow
  ovf : List (Nat × Nat × Nat)

/-- A default that depends on nothing. -/
def fixed (n : Nat) : Variant → Nat → Nat → Nat := fun _ _ _ => n

/-- The fault codes of R626 with their default and lowest severity. -/
def faultTable : List (Nat × Nat × Nat) :=
  [(0x0101, 1, 0), (0x0102, 2, 2), (0x0103, 2, 2), (0x0104, 2, 2), (0x0105, 2, 2), (0x0106, 2, 2), (0x0107, 2, 2), (0x0108, 2, 2),
   (0x0109, 2, 2), (0x010A, 1, 0), (0x010B, 2, 2), (0x010C, 2, 2), (0x0201, 1, 0), (0x0202, 2, 2), (0x0203, 3, 2), (0x0204, 2, 2),
   (0x0301, 2, 2), (0x0302, 3, 3), (0x0401, 2, 1), (0x0402, 3, 1), (0x0403, 1, 0), (0x0404, 3, 2), (0x0405, 1, 0), (0x0406, 2, 2),
   (0x0407, 3, 2), (0x0408, 2, 2), (0x0409, 3, 3), (0x0501, 2, 2), (0x0502, 1, 0), (0x0503, 2, 2), (0x0601, 3, 2), (0x0602, 3, 2),
   (0x0701, 1, 0), (0x0702, 2, 2), (0x0801, 1, 0), (0x0802, 1, 0), (0x0803, 2, 2), (0x0804, 4, 4), (0x0805, 2, 2), (0x0901, 2, 2),
   (0x0902, 1, 0), (0x0903, 4, 4), (0x0A01, 1, 0), (0x0A02, 4, 4), (0x0B01, 1, 0), (0x0B02, 1, 0), (0x0B03, 1, 0), (0x0B04, 4, 1),
   (0x0B05, 4, 4), (0x0C01, 4, 4), (0x0D01, 1, 0), (0x0D02, 4, 4), (0x0E01, 1, 0), (0x0F01, 1, 0), (0x1201, 1, 0)]

/-- The default severity of a code (R626); a self-test failure is NOTE (R640); IGNORE where the table has no code. -/
def severityDefault (code : Nat) : Nat :=
  if code % 256 = 255 then 1 else
  match faultTable.find? (fun f => f.1 = code) with
  | some f => f.2.1
  | none => 0

/-- The lowest severity a code may be given (R626). -/
def severityLowest (code : Nat) : Nat :=
  match faultTable.find? (fun f => f.1 = code) with
  | some f => f.2.2
  | none => 0

/-- The highest fault number of a class below FFh (R652). -/
def highestFault (c : Nat) : Nat :=
  (faultTable.filter (fun f => f.1 / 256 = c)).foldl (fun m f => max m (f.1 % 256)) 0

/-- DictionaryRoot, 0000h (R557). -/
def dictDictionaryRoot : DictObject :=
  ⟨0x0000, 1,
   [⟨0x00, 0x00, "HighestSub", .u8, .const, false, fixed 2⟩,
    ⟨0x01, 0x01, "DictVersion", .u32, .const, false, fixed 0x10000⟩,
    ⟨0x02, 0x02, "CapabilityCount", .u8, .ro, false, fixed 0⟩],
   []⟩

/-- Capability1, 0001h (R555). -/
def dictCapability1 : DictObject :=
  ⟨0x0001, 1,
   [⟨0, 0, "HighestSub", .u8, .const, false, fixed 4⟩,
    ⟨1, 1, "CapId", .u16, .const, false, fixed 1⟩,
    ⟨2, 2, "Version", .u32, .const, false, fixed 1⟩,
    ⟨3, 3, "Next", .u16, .ro, false, fixed 2⟩,
    ⟨4, 4, "Algorithms", .octets 8, .const, false, fixed 0x8180222120121110⟩],
   []⟩

/-- Capability2, 0002h (R555). -/
def dictCapability2 : DictObject :=
  ⟨0x0002, 1,
   [⟨0, 0, "HighestSub", .u8, .const, false, fixed 4⟩,
    ⟨1, 1, "CapId", .u16, .const, false, fixed 2⟩,
    ⟨2, 2, "Version", .u32, .const, false, fixed 1⟩,
    ⟨3, 3, "Next", .u16, .ro, false, fixed 3⟩,
    ⟨4, 4, "Algorithms", .octets 14, .const, false, fixed 0x3D3C3B3A39383736353433323130⟩],
   []⟩

/-- Capability3, 0003h (R555). -/
def dictCapability3 : DictObject :=
  ⟨0x0003, 1,
   [⟨0, 0, "HighestSub", .u8, .const, false, fixed 6⟩,
    ⟨1, 1, "CapId", .u16, .const, false, fixed 3⟩,
    ⟨2, 2, "Version", .u32, .const, false, fixed 1⟩,
    ⟨3, 3, "Next", .u16, .ro, false, fixed 4⟩,
    ⟨4, 4, "Algorithms", .octets 5, .const, false, fixed 0x4443424140⟩,
    ⟨5, 5, "FVariants", .bool, .const, false, fixed 1⟩,
    ⟨6, 6, "SpecVersion", .string 32, .const, false, fun _ _ _ => leNat (strBytes 32 "Classic McEliece Round 4")⟩],
   []⟩

/-- Capability4, 0004h (R555). -/
def dictCapability4 : DictObject :=
  ⟨0x0004, 1,
   [⟨0, 0, "HighestSub", .u8, .const, false, fixed 5⟩,
    ⟨1, 1, "CapId", .u16, .const, false, fixed 4⟩,
    ⟨2, 2, "Version", .u32, .const, false, fixed 1⟩,
    ⟨3, 3, "Next", .u16, .ro, false, fixed 5⟩,
    ⟨4, 4, "Algorithms", .octets 3, .const, false, fixed 0x4A4948⟩,
    ⟨5, 5, "SpecVersion", .string 32, .const, false, fun _ _ _ => leNat (strBytes 32 "HQC Round 4")⟩],
   []⟩

/-- Capability5, 0005h (R555). -/
def dictCapability5 : DictObject :=
  ⟨0x0005, 1,
   [⟨0, 0, "HighestSub", .u8, .const, false, fixed 5⟩,
    ⟨1, 1, "CapId", .u16, .const, false, fixed 5⟩,
    ⟨2, 2, "Version", .u32, .const, false, fixed 1⟩,
    ⟨3, 3, "Next", .u16, .ro, false, fixed 6⟩,
    ⟨4, 4, "Algorithms", .octets 10, .const, false, fixed 0x59585756555453525150⟩,
    ⟨5, 5, "Tapers", .u8, .const, false, fixed 8⟩],
   []⟩

/-- Capability6, 0006h (R555). -/
def dictCapability6 : DictObject :=
  ⟨0x0006, 1,
   [⟨0, 0, "HighestSub", .u8, .const, false, fixed 4⟩,
    ⟨1, 1, "CapId", .u16, .const, false, fixed 6⟩,
    ⟨2, 2, "Version", .u32, .const, false, fixed 1⟩,
    ⟨3, 3, "Next", .u16, .ro, false, fixed 7⟩,
    ⟨4, 4, "Algorithms", .octets 12, .const, false, fixed 0x3B3A39383736353433323130⟩],
   []⟩

/-- Capability7, 0007h (R555). -/
def dictCapability7 : DictObject :=
  ⟨0x0007, 1,
   [⟨0, 0, "HighestSub", .u8, .const, false, fixed 4⟩,
    ⟨1, 1, "CapId", .u16, .const, false, fixed 7⟩,
    ⟨2, 2, "Version", .u32, .const, false, fixed 1⟩,
    ⟨3, 3, "Next", .u16, .ro, false, fixed 8⟩,
    ⟨4, 4, "Level", .u8, .const, false, fixed 1⟩],
   []⟩

/-- Capability8, 0008h (R555). -/
def dictCapability8 : DictObject :=
  ⟨0x0008, 1,
   [⟨0, 0, "HighestSub", .u8, .const, false, fixed 5⟩,
    ⟨1, 1, "CapId", .u16, .const, false, fixed 8⟩,
    ⟨2, 2, "Version", .u32, .const, false, fixed 1⟩,
    ⟨3, 3, "Next", .u16, .ro, false, fixed 9⟩,
    ⟨4, 4, "LaneMbps", .u32, .const, false, fixed 56250⟩,
    ⟨5, 5, "MaxLanes", .u16, .const, false, fixed 256⟩],
   []⟩

/-- Capability9, 0009h (R555). -/
def dictCapability9 : DictObject :=
  ⟨0x0009, 1,
   [⟨0, 0, "HighestSub", .u8, .const, false, fixed 5⟩,
    ⟨1, 1, "CapId", .u16, .const, false, fixed 9⟩,
    ⟨2, 2, "Version", .u32, .const, false, fixed 1⟩,
    ⟨3, 3, "Next", .u16, .ro, false, fixed 10⟩,
    ⟨4, 4, "Slices", .u16, .const, false, fixed 512⟩,
    ⟨5, 5, "QueueSlots", .u16, .const, false, fixed 2048⟩],
   []⟩

/-- Capability10, 000Ah (R555). -/
def dictCapability10 : DictObject :=
  ⟨0x000A, 1,
   [⟨0, 0, "HighestSub", .u8, .const, false, fixed 4⟩,
    ⟨1, 1, "CapId", .u16, .const, false, fixed 10⟩,
    ⟨2, 2, "Version", .u32, .const, false, fixed 1⟩,
    ⟨3, 3, "Next", .u16, .ro, false, fixed 11⟩,
    ⟨4, 4, "MaxEntries", .u32, .const, false, fixed 1048576⟩],
   []⟩

/-- Capability11, 000Bh (R555). -/
def dictCapability11 : DictObject :=
  ⟨0x000B, 1,
   [⟨0, 0, "HighestSub", .u8, .const, false, fixed 4⟩,
    ⟨1, 1, "CapId", .u16, .const, false, fixed 11⟩,
    ⟨2, 2, "Version", .u32, .const, false, fixed 1⟩,
    ⟨3, 3, "Next", .u16, .ro, false, fixed 0⟩,
    ⟨4, 4, "Order", .u8, .const, false, fixed 2⟩],
   []⟩

/-- DeviceIdentity, 0100h (R558). -/
def dictDeviceIdentity : DictObject :=
  ⟨0x0100, 1,
   [⟨0x00, 0x00, "HighestSub", .u8, .const, false, fixed 0xA⟩,
    ⟨0x01, 0x01, "VendorName", .string 32, .const, false, fun _ _ _ => leNat (strBytes 32 "Brynveak Semiconductor")⟩,
    ⟨0x02, 0x02, "ProductName", .string 32, .const, false, fun _ _ _ => leNat (strBytes 32 "Proyras VT-9256")⟩,
    ⟨0x03, 0x03, "PartNumber", .string 16, .const, false, fun v _ _ => leNat (strBytes 16 (Config.partNumber v))⟩,
    ⟨0x04, 0x04, "Variant", .u8, .const, false, fun v _ _ => match v with | .a256 => 1 | .a128 => 2⟩,
    ⟨0x05, 0x05, "Grade", .u8, .const, false, fun _ _ _ => if Config.extendedGrade then 2 else 1⟩,
    ⟨0x06, 0x06, "UnitId", .octets 16, .const, false, fun _ _ _ => Config.unitId.toNat⟩,
    ⟨0x07, 0x07, "DieStepping", .u16, .const, false, fixed 1⟩,
    ⟨0x08, 0x08, "ModuleStepping", .u16, .const, false, fixed 1⟩,
    ⟨0x09, 0x09, "ManufactureWeek", .u16, .const, false, fun _ _ _ => Config.manufactureWeek.toNat⟩,
    ⟨0x0A, 0x0A, "ShelfMac", .octets 6, .const, false, fun _ _ _ => Config.shelfMac.toNat⟩],
   []⟩

/-- DeviceCapacities, 0102h (R559). -/
def dictDeviceCapacities : DictObject :=
  ⟨0x0102, 1,
   [⟨0x00, 0x00, "HighestSub", .u8, .const, false, fixed 0xB⟩,
    ⟨0x01, 0x01, "Wicks", .u16, .const, false, fixed 0x100⟩,
    ⟨0x02, 0x02, "Tapers", .u8, .const, false, fixed 8⟩,
    ⟨0x03, 0x03, "Sessions", .u16, .const, false, fixed 0x1000⟩,
    ⟨0x04, 0x04, "QueueSlots", .u16, .const, false, fixed 0x800⟩,
    ⟨0x05, 0x05, "Slices", .u16, .const, false, fixed 0x200⟩,
    ⟨0x06, 0x06, "DigestContexts", .u16, .const, false, fixed 0x800⟩,
    ⟨0x07, 0x07, "Streams", .u16, .const, false, fixed 0x400⟩,
    ⟨0x08, 0x08, "VaultSlots", .u16, .const, false, fixed 0x200⟩,
    ⟨0x09, 0x09, "HostLinks", .u8, .const, false, fixed 8⟩,
    ⟨0x0A, 0x0A, "Ports", .u16, .const, false, fixed 0x100⟩,
    ⟨0x0B, 0x0B, "PowerDomains", .u16, .const, false, fixed 0x2BB⟩],
   []⟩

/-- DeviceControl, 1000h (R560). -/
def dictDeviceControl : DictObject :=
  ⟨0x1000, 1,
   [⟨0x00, 0x00, "HighestSub", .u8, .const, false, fixed 7⟩,
    ⟨0x01, 0x01, "DeviceState", .u8, .ro, false, fixed 0⟩,
    ⟨0x02, 0x02, "Timestamp", .u64, .ro, false, fixed 0⟩,
    ⟨0x03, 0x03, "ResetRequest", .u8, .woa, false, fixed 0⟩,
    ⟨0x04, 0x04, "ResetCount", .u32, .ro, true, fixed 0⟩,
    ⟨0x05, 0x05, "LastResetCause", .u8, .ro, true, fixed 0⟩,
    ⟨0x06, 0x06, "Server", .u8, .ro, false, fixed 0⟩,
    ⟨0x07, 0x07, "CounterOverflow", .bits8, .rw, true, fixed 0⟩],
   [(0x04, 0x07, 0)]⟩

/-- ShelfBus, 1010h (R562). -/
def dictShelfBus : DictObject :=
  ⟨0x1010, 1,
   [⟨0x00, 0x00, "HighestSub", .u8, .const, false, fixed 0x11⟩,
    ⟨0x01, 0x01, "HopEtherType", .u16, .rwa, true, fixed 0x88B5⟩,
    ⟨0x02, 0x02, "PlcaNodeId", .u8, .rwa, true, fixed 0xFF⟩,
    ⟨0x03, 0x03, "PlcaNodeCount", .u8, .rwa, true, fixed 8⟩,
    ⟨0x04, 0x04, "PlcaToTimer", .u8, .rwa, true, fixed 0x20⟩,
    ⟨0x05, 0x05, "PlcaBurstCount", .u8, .rwa, true, fixed 0⟩,
    ⟨0x06, 0x06, "PlcaBurstTimer", .u8, .rwa, true, fixed 0x80⟩,
    ⟨0x07, 0x07, "SessionIdleS", .u16, .rwa, true, fixed 0x12C⟩,
    ⟨0x08, 0x0B, "ShelfKeyHash", .octets 32, .rwa, true, fixed 0⟩,
    ⟨0x0C, 0x0C, "SessionsOpen", .u8, .ro, false, fixed 0⟩,
    ⟨0x0D, 0x0D, "FramesReceived", .u32, .ro, false, fixed 0⟩,
    ⟨0x0E, 0x0E, "FramesDropped", .u32, .ro, false, fixed 0⟩,
    ⟨0x0F, 0x0F, "TagFailures", .u32, .ro, false, fixed 0⟩,
    ⟨0x10, 0x10, "AuthFailures", .u32, .ro, false, fixed 0⟩,
    ⟨0x11, 0x11, "CounterOverflow", .bits8, .rw, false, fixed 0⟩],
   [(0x0D, 0x11, 0), (0x0E, 0x11, 1), (0x0F, 0x11, 2), (0x10, 0x11, 3)]⟩

/-- ModuleSensors, 1020h (R671). -/
def dictModuleSensors : DictObject :=
  ⟨0x1020, 1,
   [⟨0x00, 0x00, "HighestSub", .u8, .const, false, fixed 0x1F⟩,
    ⟨0x01, 0x11, "DieTemp", .i32, .ro, false, fixed 0⟩,
    ⟨0x12, 0x12, "MaxDieTemp", .i32, .ro, false, fixed 0⟩,
    ⟨0x13, 0x1B, "RailMv", .u16, .ro, false, fixed 0⟩,
    ⟨0x1C, 0x1C, "VbatMv", .u16, .ro, false, fixed 0⟩,
    ⟨0x1D, 0x1D, "RailStartFailures", .u32, .ro, true, fixed 0⟩,
    ⟨0x1E, 0x1E, "RailDropResets", .u32, .ro, true, fixed 0⟩,
    ⟨0x1F, 0x1F, "CounterOverflow", .bits8, .rw, true, fixed 0⟩],
   [(0x1D, 0x1F, 0), (0x1E, 0x1F, 1)]⟩

/-- LifeCycle, 1100h (R525). -/
def dictLifeCycle : DictObject :=
  ⟨0x1100, 1,
   [⟨0x00, 0x00, "HighestSub", .u8, .const, false, fixed 0xE⟩,
    ⟨0x01, 0x01, "State", .u16, .ro, false, fixed 0⟩,
    ⟨0x02, 0x02, "Copies", .octets 6, .ro, false, fixed 0⟩,
    ⟨0x03, 0x03, "Counter", .u64, .ro, true, fixed 0⟩,
    ⟨0x04, 0x04, "TransitionRequest", .octets 7347, .wo, false, fixed 0⟩,
    ⟨0x05, 0x05, "LastResult", .u8, .ro, true, fixed 0⟩,
    ⟨0x06, 0x06, "Transitions", .u32, .ro, true, fixed 0⟩,
    ⟨0x07, 0x07, "DebugErrors", .u32, .ro, false, fixed 0⟩,
    ⟨0x08, 0x08, "UnitId", .octets 16, .const, false, fun _ _ _ => Config.unitId.toNat⟩,
    ⟨0x09, 0x09, "TransitionKeyHash", .octets 32, .const, false, fun _ _ _ => Config.transitionKeyHash.toNat⟩,
    ⟨0x0A, 0x0A, "FirmwareKeyHash", .octets 32, .const, false, fun _ _ _ => Config.firmwareKeyHash.toNat⟩,
    ⟨0x0B, 0x0B, "OwnerKeyHash", .octets 32, .ro, false, fixed 0⟩,
    ⟨0x0C, 0x0C, "KeyRowsWritten", .bool, .ro, false, fixed 0⟩,
    ⟨0x0D, 0x0D, "KeyRowsProgram", .bool, .wo, false, fixed 0⟩,
    ⟨0x0E, 0x0E, "CounterOverflow", .bits8, .rw, true, fixed 0⟩],
   [(0x06, 0x0E, 0), (0x07, 0x0E, 1)]⟩

/-- BootControl, 1101h (R526). -/
def dictBootControl : DictObject :=
  ⟨0x1101, 1,
   [⟨0x00, 0x00, "HighestSub", .u8, .const, false, fixed 0xC⟩,
    ⟨0x01, 0x01, "PreferredSlot", .u8, .rwa, true, fixed 0⟩,
    ⟨0x02, 0x02, "RunningSlot", .u8, .ro, false, fixed 0xFF⟩,
    ⟨0x03, 0x03, "FirmwareVersion", .u32, .ro, false, fixed 0⟩,
    ⟨0x04, 0x04, "MinFirmwareVersion", .u32, .ro, true, fixed 0⟩,
    ⟨0x05, 0x05, "Measurement", .octets 64, .ro, false, fixed 0⟩,
    ⟨0x06, 0x06, "SlotResult0", .u8, .ro, false, fixed 0xFF⟩,
    ⟨0x07, 0x07, "SlotResult1", .u8, .ro, false, fixed 0xFF⟩,
    ⟨0x08, 0x08, "FlashWriteOffset", .u32, .rwa, false, fixed 0⟩,
    ⟨0x09, 0x09, "FlashWriteData", .octets 256, .woa, false, fixed 0⟩,
    ⟨0x0A, 0x0A, "Boots", .u32, .ro, true, fixed 0⟩,
    ⟨0x0B, 0x0B, "SlotFallbacks", .u32, .ro, true, fixed 0⟩,
    ⟨0x0C, 0x0C, "CounterOverflow", .bits8, .rw, true, fixed 0⟩],
   [(0x0A, 0x0C, 0), (0x0B, 0x0C, 1)]⟩

/-- HostLink, 2000h (R411). -/
def dictHostLink : DictObject :=
  ⟨0x2000, 8,
   [⟨0x00, 0x00, "HighestSub", .u8, .const, false, fixed 0xA⟩,
    ⟨0x01, 0x01, "Enable", .bool, .rwa, true, fun _ i _ => if i = 0 then 1 else 0⟩,
    ⟨0x02, 0x02, "FirstOctet", .u8, .rwa, true, fun _ i _ => 2 * i⟩,
    ⟨0x03, 0x03, "Width", .u8, .rwa, true, fixed 0x10⟩,
    ⟨0x04, 0x04, "LinkState", .u8, .ro, false, fixed 0⟩,
    ⟨0x05, 0x05, "Speed", .u8, .ro, false, fixed 0⟩,
    ⟨0x06, 0x06, "NegotiatedWidth", .u8, .ro, false, fixed 0⟩,
    ⟨0x07, 0x07, "FunctionResets", .u32, .ro, false, fixed 0⟩,
    ⟨0x08, 0x08, "DoorbellDrops", .u32, .ro, false, fixed 0⟩,
    ⟨0x09, 0x09, "LinkErrors", .u32, .ro, false, fixed 0⟩,
    ⟨0x0A, 0x0A, "CounterOverflow", .bits8, .rw, false, fixed 0⟩],
   [(0x07, 0x0A, 0), (0x08, 0x0A, 1), (0x09, 0x0A, 2)]⟩

/-- HostMailbox, 2010h (R542). -/
def dictHostMailbox : DictObject :=
  ⟨0x2010, 8,
   [⟨0x00, 0x00, "HighestSub", .u8, .const, false, fixed 3⟩,
    ⟨0x01, 0x01, "MailboxOps", .u32, .ro, false, fixed 0⟩,
    ⟨0x02, 0x02, "MailboxDrops", .u32, .ro, false, fixed 0⟩,
    ⟨0x03, 0x03, "CounterOverflow", .bits8, .rw, false, fixed 0⟩],
   [(0x01, 0x03, 0), (0x02, 0x03, 1)]⟩

/-- SliceControl, 2020h (R577). -/
def dictSliceControl : DictObject :=
  ⟨0x2020, 1,
   [⟨0x00, 0x00, "HighestSub", .u8, .const, false, fixed 4⟩,
    ⟨0x01, 0x01, "OwnerSlice", .u16, .rwa, true, fixed 0⟩,
    ⟨0x02, 0x02, "SteadySlices", .u16, .ro, false, fixed 0⟩,
    ⟨0x03, 0x03, "TenancyChanges", .u32, .ro, true, fixed 0⟩,
    ⟨0x04, 0x04, "CounterOverflow", .bits8, .rw, true, fixed 0⟩],
   [(0x03, 0x04, 0)]⟩

/-- SliceHost, 2200h (R412). -/
def dictSliceHost : DictObject :=
  ⟨0x2200, 512,
   [⟨0x00, 0x00, "HighestSub", .u8, .const, false, fixed 3⟩,
    ⟨0x01, 0x01, "Link", .u8, .rwa, true, fixed 0xFF⟩,
    ⟨0x02, 0x02, "Pasid", .u32, .rwa, true, fixed 0⟩,
    ⟨0x03, 0x03, "QueueSlots", .u16, .ro, false, fixed 0⟩],
   []⟩

/-- SliceConfig, 2400h (R578). -/
def dictSliceConfig : DictObject :=
  ⟨0x2400, 512,
   [⟨0x00, 0x00, "HighestSub", .u8, .const, false, fixed 0xA⟩,
    ⟨0x01, 0x01, "SessionBase", .u16, .rwa, true, fixed 0⟩,
    ⟨0x02, 0x02, "SessionCount", .u16, .rwa, true, fixed 0⟩,
    ⟨0x03, 0x03, "OpcodeFamilies", .bits16, .rwa, true, fixed 0x81FE⟩,
    ⟨0x04, 0x04, "Steady", .bool, .rwa, true, fixed 0⟩,
    ⟨0x05, 0x05, "SteadySconces", .bits16, .rwa, true, fixed 0⟩,
    ⟨0x06, 0x06, "SteadyTapers", .bits8, .rwa, true, fixed 0⟩,
    ⟨0x07, 0x07, "Retenant", .bool, .woa, false, fixed 0⟩,
    ⟨0x08, 0x08, "Tenancy", .u32, .ro, true, fixed 0⟩,
    ⟨0x09, 0x09, "CounterOverflow", .bits8, .rw, true, fixed 0⟩,
    ⟨0x0A, 0x0A, "DigestContextQuota", .u16, .rwa, true, fixed 0xFFFF⟩],
   [(0x08, 0x09, 0)]⟩

/-- QueueSlot, 2800h (R413). -/
def dictQueueSlot : DictObject :=
  ⟨0x2800, 2048,
   [⟨0x00, 0x00, "HighestSub", .u8, .const, false, fixed 0x13⟩,
    ⟨0x01, 0x01, "Slice", .u16, .rwa, true, fixed 0xFFFF⟩,
    ⟨0x02, 0x02, "LocalQueue", .u16, .rwa, true, fixed 0⟩,
    ⟨0x03, 0x03, "MsixVector", .u16, .rwa, true, fixed 0⟩,
    ⟨0x04, 0x04, "Kind", .u8, .rw, false, fixed 0⟩,
    ⟨0x05, 0x05, "SizeLog2", .u8, .rw, false, fixed 6⟩,
    ⟨0x06, 0x06, "RingBase", .u64, .rw, false, fixed 0⟩,
    ⟨0x07, 0x07, "StatusAddr", .u64, .rw, false, fixed 0⟩,
    ⟨0x08, 0x08, "Weight", .u8, .rw, false, fixed 0x10⟩,
    ⟨0x09, 0x09, "Burst", .u8, .rw, false, fixed 8⟩,
    ⟨0x0A, 0x0A, "InFlightLimit", .u16, .rw, false, fixed 0x100⟩,
    ⟨0x0B, 0x0B, "Enable", .bool, .rw, false, fixed 0⟩,
    ⟨0x0C, 0x0C, "State", .u8, .ro, false, fixed 0⟩,
    ⟨0x0D, 0x0D, "Published", .u32, .ro, false, fixed 0⟩,
    ⟨0x0E, 0x0E, "FetchPoint", .u32, .ro, false, fixed 0⟩,
    ⟨0x0F, 0x0F, "ErrorCause", .u8, .ro, false, fixed 0⟩,
    ⟨0x10, 0x10, "ShortDoorbells", .u32, .ro, false, fixed 0⟩,
    ⟨0x11, 0x11, "BadDoorbells", .u32, .ro, false, fixed 0⟩,
    ⟨0x12, 0x12, "Fetched", .u32, .ro, false, fixed 0⟩,
    ⟨0x13, 0x13, "CounterOverflow", .bits8, .rw, false, fixed 0⟩],
   [(0x10, 0x13, 0), (0x11, 0x13, 1), (0x12, 0x13, 2)]⟩

/-- SessionCache, 3000h (R74). -/
def dictSessionCache : DictObject :=
  ⟨0x3000, 1,
   [⟨0x00, 0x00, "HighestSub", .u8, .const, false, fixed 6⟩,
    ⟨0x01, 0x01, "CacheEntries", .u16, .const, false, fixed 0x200⟩,
    ⟨0x02, 0x02, "OpenSessions", .u16, .ro, false, fixed 0⟩,
    ⟨0x03, 0x03, "CacheHits", .u32, .ro, false, fixed 0⟩,
    ⟨0x04, 0x04, "CacheMisses", .u32, .ro, false, fixed 0⟩,
    ⟨0x05, 0x05, "PinnedWaits", .u32, .ro, false, fixed 0⟩,
    ⟨0x06, 0x06, "CounterOverflow", .bits8, .rw, false, fixed 0⟩],
   [(0x03, 0x06, 0), (0x04, 0x06, 1), (0x05, 0x06, 2)]⟩

/-- LanternCache, 3010h (R169). -/
def dictLanternCache : DictObject :=
  ⟨0x3010, 1,
   [⟨0x00, 0x00, "HighestSub", .u8, .const, false, fixed 8⟩,
    ⟨0x01, 0x01, "LanternEnable", .bool, .rwa, true, fixed 1⟩,
    ⟨0x02, 0x02, "Entries", .u16, .ro, false, fixed 0⟩,
    ⟨0x03, 0x03, "BytesInUse", .u64, .ro, false, fixed 0⟩,
    ⟨0x04, 0x04, "SignsServed", .u32, .ro, false, fixed 0⟩,
    ⟨0x05, 0x05, "SignsFull", .u32, .ro, false, fixed 0⟩,
    ⟨0x06, 0x06, "BuildsCompleted", .u32, .ro, false, fixed 0⟩,
    ⟨0x07, 0x07, "EntriesDropped", .u32, .ro, false, fixed 0⟩,
    ⟨0x08, 0x08, "CounterOverflow", .bits8, .rw, false, fixed 0⟩],
   [(0x04, 0x08, 0), (0x05, 0x08, 1), (0x06, 0x08, 2), (0x07, 0x08, 3)]⟩

/-- McElieceKeyCache, 3011h (R185). -/
def dictMcElieceKeyCache : DictObject :=
  ⟨0x3011, 1,
   [⟨0x00, 0x00, "HighestSub", .u8, .const, false, fixed 4⟩,
    ⟨0x01, 0x01, "Entries", .u16, .ro, false, fixed 0⟩,
    ⟨0x02, 0x02, "BytesInUse", .u64, .ro, false, fixed 0⟩,
    ⟨0x03, 0x03, "KeyReads", .u32, .ro, false, fixed 0⟩,
    ⟨0x04, 0x04, "CounterOverflow", .bits8, .rw, false, fixed 0⟩],
   [(0x03, 0x04, 0)]⟩

/-- WickStatus, 4000h (R294). -/
def dictWickStatus : DictObject :=
  ⟨0x4000, 256,
   [⟨0x00, 0x00, "HighestSub", .u8, .const, false, fixed 7⟩,
    ⟨0x01, 0x01, "State", .u8, .ro, false, fixed 0⟩,
    ⟨0x02, 0x02, "Attempts", .u32, .ro, false, fixed 0⟩,
    ⟨0x03, 0x03, "ProgramLoads", .u32, .ro, false, fixed 0⟩,
    ⟨0x04, 0x04, "Naps", .u32, .ro, false, fixed 0⟩,
    ⟨0x05, 0x05, "Corrected", .u32, .ro, false, fixed 0⟩,
    ⟨0x06, 0x06, "ResidentProgram", .u32, .ro, false, fixed 0⟩,
    ⟨0x07, 0x07, "CounterOverflow", .bits8, .rw, false, fixed 0⟩],
   [(0x02, 0x07, 0), (0x03, 0x07, 1), (0x04, 0x07, 2), (0x05, 0x07, 3)]⟩

/-- SconcePower, 4200h (R605). -/
def dictSconcePower : DictObject :=
  ⟨0x4200, 16,
   [⟨0x00, 0x00, "HighestSub", .u8, .const, false, fixed 6⟩,
    ⟨0x01, 0x01, "Enable", .bool, .rwa, true, fixed 1⟩,
    ⟨0x02, 0x02, "Level", .u8, .rwa, true, fixed 0⟩,
    ⟨0x03, 0x03, "CurrentLevel", .u8, .ro, false, fixed 0⟩,
    ⟨0x04, 0x04, "State", .u8, .ro, false, fixed 0⟩,
    ⟨0x05, 0x05, "LevelChanges", .u32, .ro, false, fixed 0⟩,
    ⟨0x06, 0x06, "CounterOverflow", .bits8, .rw, false, fixed 0⟩],
   [(0x05, 0x06, 0)]⟩

/-- WickPrograms, 4300h (R295). -/
def dictWickPrograms : DictObject :=
  ⟨0x4300, 1,
   [⟨0x00, 0x00, "HighestSub", .u8, .const, false, fixed 8⟩,
    ⟨0x01, 0x01, "LibraryVersion", .u32, .ro, false, fixed 0⟩,
    ⟨0x02, 0x02, "OwnerProgramKeyHash", .octets 32, .rwa, true, fixed 0⟩,
    ⟨0x03, 0x03, "OwnerProgramsLoaded", .u16, .ro, false, fixed 0⟩,
    ⟨0x04, 0x04, "NapEnable", .bool, .rwa, true, fixed 1⟩,
    ⟨0x05, 0x05, "NapMin", .u16, .rwa, true, fixed 0x40⟩,
    ⟨0x06, 0x06, "WakeLead", .u8, .rwa, true, fixed 8⟩,
    ⟨0x07, 0x07, "OwnerLoadsRefused", .u32, .ro, false, fixed 0⟩,
    ⟨0x08, 0x08, "CounterOverflow", .bits8, .rw, false, fixed 0⟩],
   [(0x07, 0x08, 0)]⟩

/-- WickVectors, 4301h (R333). -/
def dictWickVectors : DictObject :=
  ⟨0x4301, 1,
   [⟨0x00, 0x00, "HighestSub", .u8, .const, false, fixed 7⟩,
    ⟨0x01, 0x01, "FvIdleTimeout", .u32, .rwa, true, fixed 0x10000⟩,
    ⟨0x02, 0x02, "FvWakes", .u32, .ro, false, fixed 0⟩,
    ⟨0x03, 0x03, "FvPowerDowns", .u32, .ro, false, fixed 0⟩,
    ⟨0x04, 0x04, "ShroudReseeds", .u32, .ro, false, fixed 0⟩,
    ⟨0x05, 0x05, "ShroudWaits", .u32, .ro, false, fixed 0⟩,
    ⟨0x06, 0x06, "ShroudFaults", .u32, .ro, false, fixed 0⟩,
    ⟨0x07, 0x07, "CounterOverflow", .bits8, .rw, false, fixed 0⟩],
   [(0x02, 0x07, 0), (0x03, 0x07, 1), (0x04, 0x07, 2), (0x05, 0x07, 3), (0x06, 0x07, 4)]⟩

/-- TaperStatus, 5000h (R223). -/
def dictTaperStatus : DictObject :=
  ⟨0x5000, 8,
   [⟨0x00, 0x00, "HighestSub", .u8, .const, false, fixed 8⟩,
    ⟨0x01, 0x01, "State", .u8, .ro, false, fixed 0⟩,
    ⟨0x02, 0x02, "Jobs", .u32, .ro, false, fixed 0⟩,
    ⟨0x03, 0x03, "Mismatches", .u32, .ro, false, fixed 0⟩,
    ⟨0x04, 0x04, "Strike", .bool, .ro, false, fixed 0⟩,
    ⟨0x05, 0x05, "StoreCorrected", .u32, .ro, false, fixed 0⟩,
    ⟨0x06, 0x06, "OperandCorrected", .u32, .ro, false, fixed 0⟩,
    ⟨0x07, 0x07, "WaitTimeouts", .u32, .ro, false, fixed 0⟩,
    ⟨0x08, 0x08, "CounterOverflow", .bits8, .rw, false, fixed 0⟩],
   [(0x02, 0x08, 0), (0x03, 0x08, 1), (0x05, 0x08, 2), (0x06, 0x08, 3), (0x07, 0x08, 4)]⟩

/-- TaperBank, 5008h (R224). -/
def dictTaperBank : DictObject :=
  ⟨0x5008, 1,
   [⟨0x00, 0x00, "HighestSub", .u8, .const, false, fixed 7⟩,
    ⟨0x01, 0x01, "InService", .u8, .ro, false, fixed 8⟩,
    ⟨0x02, 0x02, "StrikeClearJobs", .u32, .rwa, true, fixed 0x10000⟩,
    ⟨0x03, 0x03, "WaitWatchdog", .u32, .rwa, true, fixed 0x10000⟩,
    ⟨0x04, 0x04, "PatchVersion", .u32, .ro, false, fixed 0⟩,
    ⟨0x05, 0x05, "MinPatchVersion", .u32, .ro, true, fixed 0⟩,
    ⟨0x06, 0x06, "PatchRefused", .u32, .ro, false, fixed 0⟩,
    ⟨0x07, 0x07, "CounterOverflow", .bits8, .rw, false, fixed 0⟩],
   [(0x06, 0x07, 0)]⟩

/-- DigesterStatus, 5100h (R254). -/
def dictDigesterStatus : DictObject :=
  ⟨0x5100, 33,
   [⟨0x00, 0x00, "HighestSub", .u8, .const, false, fixed 8⟩,
    ⟨0x01, 0x01, "State", .u8, .ro, false, fixed 0⟩,
    ⟨0x02, 0x02, "BoundOctet", .u8, .ro, false, fixed 0⟩,
    ⟨0x03, 0x03, "ContextsInUse", .u8, .ro, false, fixed 0⟩,
    ⟨0x04, 0x04, "BytesAbsorbed", .u64, .ro, false, fixed 0⟩,
    ⟨0x05, 0x05, "Switches", .u32, .ro, false, fixed 0⟩,
    ⟨0x06, 0x06, "Mismatches", .u32, .ro, false, fixed 0⟩,
    ⟨0x07, 0x07, "Corrected", .u32, .ro, false, fixed 0⟩,
    ⟨0x08, 0x08, "CounterOverflow", .bits8, .rw, false, fixed 0⟩],
   [(0x04, 0x08, 0), (0x05, 0x08, 1), (0x06, 0x08, 2), (0x07, 0x08, 3)]⟩

/-- SealerStatus, 5140h (R255). -/
def dictSealerStatus : DictObject :=
  ⟨0x5140, 32,
   [⟨0x00, 0x00, "HighestSub", .u8, .const, false, fixed 7⟩,
    ⟨0x01, 0x01, "State", .u8, .ro, false, fixed 0⟩,
    ⟨0x02, 0x02, "BoundOctet", .u8, .ro, false, fixed 0⟩,
    ⟨0x03, 0x03, "Segments", .u32, .ro, false, fixed 0⟩,
    ⟨0x04, 0x04, "KeyLoads", .u32, .ro, false, fixed 0⟩,
    ⟨0x05, 0x05, "TagFailures", .u32, .ro, false, fixed 0⟩,
    ⟨0x06, 0x06, "Mismatches", .u32, .ro, false, fixed 0⟩,
    ⟨0x07, 0x07, "CounterOverflow", .bits8, .rw, false, fixed 0⟩],
   [(0x03, 0x07, 0), (0x04, 0x07, 1), (0x05, 0x07, 2), (0x06, 0x07, 3)]⟩

/-- UnitBinding, 5160h (R256). -/
def dictUnitBinding : DictObject :=
  ⟨0x5160, 1,
   [⟨0x00, 0x00, "HighestSub", .u8, .const, false, fixed 0x44⟩,
    ⟨0x01, 0x20, "SealerMirror", .bool, .rwa, true, fixed 0⟩,
    ⟨0x21, 0x40, "DigesterMirror", .bool, .rwa, true, fixed 0⟩,
    ⟨0x41, 0x41, "SoftContextLimit", .u8, .rwa, true, fixed 0x10⟩,
    ⟨0x42, 0x42, "SoftContextsOpen", .u16, .ro, false, fixed 0⟩,
    ⟨0x43, 0x43, "ContextWaits", .u32, .ro, false, fixed 0⟩,
    ⟨0x44, 0x44, "CounterOverflow", .bits8, .rw, false, fixed 0⟩],
   [(0x43, 0x44, 0)]⟩

/-- ReservoirLayout, 6000h (R349). -/
def dictReservoirLayout : DictObject :=
  ⟨0x6000, 1,
   [⟨0x00, 0x00, "HighestSub", .u8, .const, false, fixed 0xA⟩,
    ⟨0x01, 0x01, "UsableBytes", .u64, .const, false, fun v _ _ => match v with | .a256 => 0x3800000000 | .a128 => 0x1C00000000⟩,
    ⟨0x02, 0x02, "StreamBase", .u64, .rwa, true, fun v _ _ => match v with | .a256 => 0x2DFB000000 | .a128 => 0x16FB000000⟩,
    ⟨0x03, 0x03, "LanternBase", .u64, .rwa, true, fun v _ _ => match v with | .a256 => 0x31FB000000 | .a128 => 0x18FB000000⟩,
    ⟨0x04, 0x04, "McElieceBase", .u64, .rwa, true, fun v _ _ => match v with | .a256 => 0x35FB000000 | .a128 => 0x1AFB000000⟩,
    ⟨0x05, 0x05, "SessionBase", .u64, .const, false, fun v _ _ => match v with | .a256 => 0x37FB000000 | .a128 => 0x1BFB000000⟩,
    ⟨0x06, 0x06, "DumpBase", .u64, .const, false, fun v _ _ => match v with | .a256 => 0x37FC000000 | .a128 => 0x1BFC000000⟩,
    ⟨0x07, 0x07, "LayoutStatus", .u8, .ro, false, fixed 0⟩,
    ⟨0x08, 0x08, "ClearRate", .u16, .rwa, true, fixed 0x28⟩,
    ⟨0x09, 0x09, "LayoutErrors", .u32, .ro, false, fixed 0⟩,
    ⟨0x0A, 0x0A, "CounterOverflow", .bits8, .rw, false, fixed 0⟩],
   [(0x09, 0x0A, 0)]⟩

/-- Arbitration, 6002h (R362). -/
def dictArbitration : DictObject :=
  ⟨0x6002, 1,
   [⟨0x00, 0x00, "HighestSub", .u8, .const, false, fixed 6⟩,
    ⟨0x01, 0x01, "LongestWaiterN", .u8, .rwa, true, fixed 8⟩,
    ⟨0x02, 0x02, "FloorCapacityMBps", .u32, .ro, false, fixed 0x5B8D8⟩,
    ⟨0x03, 0x03, "FloorsTotalMBps", .u32, .ro, false, fixed 0⟩,
    ⟨0x04, 0x04, "LongestWaiterWins", .u32, .ro, false, fixed 0⟩,
    ⟨0x05, 0x05, "FloorGrants", .u32, .ro, false, fixed 0⟩,
    ⟨0x06, 0x06, "CounterOverflow", .bits8, .rw, false, fixed 0⟩],
   [(0x04, 0x06, 0), (0x05, 0x06, 1)]⟩

/-- ChannelStatus, 6040h (R373). -/
def dictChannelStatus : DictObject :=
  ⟨0x6040, 64,
   [⟨0x00, 0x00, "HighestSub", .u8, .const, false, fixed 7⟩,
    ⟨0x01, 0x01, "State", .u8, .ro, false, fixed 0⟩,
    ⟨0x02, 0x02, "RawBytes", .u64, .const, false, fun v _ _ => match v with | .a256 => 0x100000000 | .a128 => 0x80000000⟩,
    ⟨0x03, 0x03, "Grants", .u32, .ro, false, fixed 0⟩,
    ⟨0x04, 0x04, "LinkCorrected", .u32, .ro, false, fixed 0⟩,
    ⟨0x05, 0x05, "TagRereads", .u32, .ro, false, fixed 0⟩,
    ⟨0x06, 0x06, "LinesLost", .u32, .ro, false, fixed 0⟩,
    ⟨0x07, 0x07, "CounterOverflow", .bits8, .rw, false, fixed 0⟩],
   [(0x03, 0x07, 0), (0x04, 0x07, 1), (0x05, 0x07, 2), (0x06, 0x07, 3)]⟩

/-- ReservoirSlice, 6100h (R350). -/
def dictReservoirSlice : DictObject :=
  ⟨0x6100, 512,
   [⟨0x00, 0x00, "HighestSub", .u8, .const, false, fixed 0xA⟩,
    ⟨0x01, 0x01, "WindowBase", .u64, .rwa, true, fixed 0⟩,
    ⟨0x02, 0x02, "WindowSize", .u64, .rwa, true, fixed 0⟩,
    ⟨0x03, 0x03, "StreamQuota", .u32, .rwa, true, fixed 0xFFFFFFFF⟩,
    ⟨0x04, 0x04, "LanternQuota", .u32, .rwa, true, fixed 0xFFFFFFFF⟩,
    ⟨0x05, 0x05, "McElieceQuota", .u32, .rwa, true, fixed 0xFFFFFFFF⟩,
    ⟨0x06, 0x06, "FloorMBps", .u32, .rwa, true, fixed 0⟩,
    ⟨0x07, 0x07, "Priority", .u8, .rwa, true, fixed 4⟩,
    ⟨0x08, 0x08, "BytesRead", .u64, .ro, false, fixed 0⟩,
    ⟨0x09, 0x09, "BytesWritten", .u64, .ro, false, fixed 0⟩,
    ⟨0x0A, 0x0A, "CounterOverflow", .bits8, .rw, false, fixed 0⟩],
   [(0x08, 0x0A, 0), (0x09, 0x0A, 1)]⟩

/-- HostWindows, 6400h (R371). -/
def dictHostWindows : DictObject :=
  ⟨0x6400, 512,
   [⟨0x00, 0x00, "HighestSub", .u8, .const, false, fixed 0x41⟩,
    ⟨0x01, 0x40, "Window", .u64, .rwa, true, fixed 0⟩,
    ⟨0x41, 0x41, "Epoch", .u16, .ro, false, fixed 0⟩],
   []⟩

/-- VspControl, 7000h (R450). -/
def dictVspControl : DictObject :=
  ⟨0x7000, 1,
   [⟨0x00, 0x00, "HighestSub", .u8, .const, false, fixed 7⟩,
    ⟨0x01, 0x01, "VspEtherType", .u16, .rwa, true, fixed 0x88B6⟩,
    ⟨0x02, 0x02, "StatusIntervalMs", .u16, .rwa, true, fixed 0xA⟩,
    ⟨0x03, 0x03, "LinkTimeoutMs", .u16, .rwa, true, fixed 0xC8⟩,
    ⟨0x04, 0x04, "RetransmitUs", .u16, .rwa, true, fixed 0xC8⟩,
    ⟨0x05, 0x05, "RetransmitLimit", .u8, .rwa, true, fixed 8⟩,
    ⟨0x06, 0x06, "MaxBody", .u16, .rwa, true, fixed 0x2000⟩,
    ⟨0x07, 0x07, "StreamsEnabled", .u16, .ro, false, fixed 0⟩],
   []⟩

/-- OctetMedia, 7010h (R451). -/
def dictOctetMedia : DictObject :=
  ⟨0x7010, 32,
   [⟨0x00, 0x00, "HighestSub", .u8, .const, false, fixed 5⟩,
    ⟨0x01, 0x01, "Mode", .u8, .rwa, true, fixed 0⟩,
    ⟨0x02, 0x02, "LaneSpeed", .u8, .rwa, true, fixed 3⟩,
    ⟨0x03, 0x03, "PortFec", .u8, .rwa, true, fixed 0⟩,
    ⟨0x04, 0x04, "AutoNeg", .bool, .rwa, true, fixed 1⟩,
    ⟨0x05, 0x05, "State", .u8, .ro, false, fixed 0⟩],
   []⟩

/-- MediaPort, 7100h (R452). -/
def dictMediaPort : DictObject :=
  ⟨0x7100, 256,
   [⟨0x00, 0x00, "HighestSub", .u8, .const, false, fixed 7⟩,
    ⟨0x01, 0x01, "MacAddress", .octets 6, .const, false, fun _ i _ => (Config.portMac i).toNat⟩,
    ⟨0x02, 0x02, "LinkUp", .bool, .ro, false, fixed 0⟩,
    ⟨0x03, 0x03, "RxFrames", .u32, .ro, false, fixed 0⟩,
    ⟨0x04, 0x04, "LengthDrops", .u32, .ro, false, fixed 0⟩,
    ⟨0x05, 0x05, "UnknownDrops", .u32, .ro, false, fixed 0⟩,
    ⟨0x06, 0x06, "PauseReceived", .u32, .ro, false, fixed 0⟩,
    ⟨0x07, 0x07, "CounterOverflow", .bits8, .rw, false, fixed 0⟩],
   [(0x03, 0x07, 0), (0x04, 0x07, 1), (0x05, 0x07, 2), (0x06, 0x07, 3)]⟩

/-- MediaStream, 7400h (R453). -/
def dictMediaStream : DictObject :=
  ⟨0x7400, 1024,
   [⟨0x00, 0x00, "HighestSub", .u8, .const, false, fixed 0x14⟩,
    ⟨0x01, 0x01, "Slice", .u16, .rwa, true, fixed 0xFFFF⟩,
    ⟨0x02, 0x02, "Port", .u8, .rwa, true, fixed 0⟩,
    ⟨0x03, 0x03, "Direction", .u8, .rwa, true, fixed 0⟩,
    ⟨0x04, 0x04, "PeerMac", .octets 6, .rwa, true, fixed 0⟩,
    ⟨0x05, 0x05, "VlanId", .u16, .rwa, true, fixed 0⟩,
    ⟨0x06, 0x06, "Pcp", .u8, .rwa, true, fixed 0⟩,
    ⟨0x07, 0x07, "MarginMs", .u16, .rwa, true, fixed 0x32⟩,
    ⟨0x08, 0x08, "RecordExp", .u8, .rwa, true, fixed 0x14⟩,
    ⟨0x09, 0x09, "Enable", .bool, .rwa, true, fixed 0⟩,
    ⟨0x0A, 0x0A, "State", .u8, .ro, false, fixed 0⟩,
    ⟨0x0B, 0x0B, "Step", .u8, .ro, false, fixed 0xFF⟩,
    ⟨0x0C, 0x0C, "Epoch", .u32, .ro, false, fixed 0⟩,
    ⟨0x0D, 0x0D, "Level", .u64, .ro, false, fixed 0⟩,
    ⟨0x0E, 0x0E, "Dims", .u32, .ro, false, fixed 0⟩,
    ⟨0x0F, 0x0F, "Glides", .u32, .ro, false, fixed 0⟩,
    ⟨0x10, 0x10, "Resumes", .u32, .ro, false, fixed 0⟩,
    ⟨0x11, 0x11, "Retransmits", .u32, .ro, false, fixed 0⟩,
    ⟨0x12, 0x12, "DuplicateDrops", .u32, .ro, false, fixed 0⟩,
    ⟨0x13, 0x13, "ProtocolErrors", .u32, .ro, false, fixed 0⟩,
    ⟨0x14, 0x14, "CounterOverflow", .bits8, .rw, false, fixed 0⟩],
   [(0x0E, 0x14, 0), (0x0F, 0x14, 1), (0x10, 0x14, 2), (0x11, 0x14, 3), (0x12, 0x14, 4), (0x13, 0x14, 5)]⟩

/-- KeyRoot, 8000h (R497). -/
def dictKeyRoot : DictObject :=
  ⟨0x8000, 1,
   [⟨0x00, 0x00, "HighestSub", .u8, .const, false, fixed 0xA⟩,
    ⟨0x01, 0x01, "CkPresent", .bool, .ro, false, fixed 0⟩,
    ⟨0x02, 0x02, "CkDrawn", .u32, .ro, true, fixed 0⟩,
    ⟨0x03, 0x03, "OskInstalled", .bool, .ro, false, fixed 0⟩,
    ⟨0x04, 0x04, "OskId", .octets 8, .ro, false, fixed 0⟩,
    ⟨0x05, 0x05, "AsInstalled", .bool, .ro, false, fixed 0⟩,
    ⟨0x06, 0x06, "UtkPublicKey", .octets 1568, .ro, false, fixed 0⟩,
    ⟨0x07, 0x07, "Snuffs", .u32, .ro, true, fixed 0⟩,
    ⟨0x08, 0x08, "LastSnuffTime", .u64, .ro, true, fixed 0⟩,
    ⟨0x09, 0x09, "PersistLost", .u32, .ro, true, fixed 0⟩,
    ⟨0x0A, 0x0A, "CounterOverflow", .bits8, .rw, true, fixed 0⟩],
   [(0x02, 0x0A, 0), (0x07, 0x0A, 1), (0x09, 0x0A, 2)]⟩

/-- EntropyStatus, 8010h (R498). -/
def dictEntropyStatus : DictObject :=
  ⟨0x8010, 1,
   [⟨0x00, 0x00, "HighestSub", .u8, .const, false, fixed 0xF⟩,
    ⟨0x01, 0x01, "State", .u8, .ro, false, fixed 0⟩,
    ⟨0x02, 0x05, "EmberState", .u8, .ro, false, fixed 2⟩,
    ⟨0x06, 0x06, "GutterTimeoutMs", .u32, .rwa, true, fixed 0x1388⟩,
    ⟨0x07, 0x07, "EmberRetryMs", .u16, .rwa, true, fixed 0x64⟩,
    ⟨0x08, 0x08, "KatRequest", .bool, .woa, false, fixed 0⟩,
    ⟨0x09, 0x09, "KatResult", .bits32, .ro, false, fixed 0⟩,
    ⟨0x0A, 0x0A, "HealthFailures", .u32, .ro, false, fixed 0⟩,
    ⟨0x0B, 0x0B, "GutterEntries", .u32, .ro, false, fixed 0⟩,
    ⟨0x0C, 0x0C, "EntropyUnavailable", .u32, .ro, false, fixed 0⟩,
    ⟨0x0D, 0x0D, "SeedWaits", .u32, .ro, false, fixed 0⟩,
    ⟨0x0E, 0x0E, "SeedsDiscarded", .u32, .ro, false, fixed 0⟩,
    ⟨0x0F, 0x0F, "CounterOverflow", .bits8, .rw, false, fixed 0⟩],
   [(0x0A, 0x0F, 0), (0x0B, 0x0F, 1), (0x0C, 0x0F, 2), (0x0D, 0x0F, 3), (0x0E, 0x0F, 4)]⟩

/-- VaultSlot, 8100h (R499). -/
def dictVaultSlot : DictObject :=
  ⟨0x8100, 512,
   [⟨0x00, 0x00, "HighestSub", .u8, .const, false, fixed 0xB⟩,
    ⟨0x01, 0x01, "Slice", .u16, .rwa, true, fixed 0xFFFF⟩,
    ⟨0x02, 0x02, "Grant", .bits8, .rwa, true, fixed 0⟩,
    ⟨0x03, 0x03, "State", .u8, .ro, false, fixed 0⟩,
    ⟨0x04, 0x04, "Alg", .u8, .ro, false, fixed 0⟩,
    ⟨0x05, 0x05, "KeyLen", .u8, .ro, false, fixed 0⟩,
    ⟨0x06, 0x06, "Uses", .bits16, .ro, false, fixed 0⟩,
    ⟨0x07, 0x07, "Origin", .u8, .ro, false, fixed 0⟩,
    ⟨0x08, 0x08, "Exportable", .bool, .ro, false, fixed 0⟩,
    ⟨0x09, 0x09, "Erase", .bool, .woa, false, fixed 0⟩,
    ⟨0x0A, 0x0A, "Loads", .u32, .ro, false, fixed 0⟩,
    ⟨0x0B, 0x0B, "CounterOverflow", .bits8, .rw, false, fixed 0⟩],
   [(0x0A, 0x0B, 0)]⟩

/-- SliceKeyDefaults, 8400h (R500). -/
def dictSliceKeyDefaults : DictObject :=
  ⟨0x8400, 512,
   [⟨0x00, 0x00, "HighestSub", .u8, .const, false, fixed 3⟩,
    ⟨0x01, 0x01, "Uses", .bits16, .rwa, true, fixed 0x1F⟩,
    ⟨0x02, 0x02, "Exportable", .bool, .rwa, true, fixed 1⟩,
    ⟨0x03, 0x03, "BindBlobs", .bool, .rwa, true, fixed 1⟩],
   []⟩

/-- TamperControl, 9000h (R621). -/
def dictTamperControl : DictObject :=
  ⟨0x9000, 1,
   [⟨0x00, 0x00, "HighestSub", .u8, .const, false, fixed 0xF⟩,
    ⟨0x01, 0x0A, "Response", .u8, .rwa, true, fun _ _ n => if n = 2 || n = 3 then 1 else if n = 4 || n = 10 then 0 else 2⟩,
    ⟨0x0B, 0x0B, "LoopEnable", .bits8, .rwa, true, fixed 0⟩,
    ⟨0x0C, 0x0C, "TempHighC", .i32, .rwa, true, fixed 0x78⟩,
    ⟨0x0D, 0x0D, "TempLowC", .i32, .rwa, true, fun _ _ _ => 4294967266⟩,
    ⟨0x0E, 0x0E, "IntegrityBurstCount", .u16, .rwa, true, fixed 0x10⟩,
    ⟨0x0F, 0x0F, "IntegrityBurstWindowMs", .u16, .rwa, true, fixed 0xA⟩],
   []⟩

/-- TamperStatus, 9010h (R622). -/
def dictTamperStatus : DictObject :=
  ⟨0x9010, 1,
   [⟨0x00, 0x00, "HighestSub", .u8, .const, false, fixed 0xA⟩,
    ⟨0x01, 0x01, "SourceState", .bits16, .ro, false, fixed 0⟩,
    ⟨0x02, 0x02, "Alarms", .u32, .ro, true, fixed 0⟩,
    ⟨0x03, 0x03, "Suppressed", .u32, .ro, true, fixed 0⟩,
    ⟨0x04, 0x04, "CkErasures", .u32, .ro, true, fixed 0⟩,
    ⟨0x05, 0x05, "LastAlarmSource", .u8, .ro, true, fixed 0⟩,
    ⟨0x06, 0x06, "LastAlarmTime", .u64, .ro, true, fixed 0⟩,
    ⟨0x07, 0x07, "ReprovisionNeeded", .bool, .ro, true, fixed 0⟩,
    ⟨0x08, 0x08, "HaltLatched", .bool, .ro, true, fixed 0⟩,
    ⟨0x09, 0x09, "IntegrityFailures", .u32, .ro, false, fixed 0⟩,
    ⟨0x0A, 0x0A, "CounterOverflow", .bits8, .rw, true, fixed 0⟩],
   [(0x02, 0x0A, 0), (0x03, 0x0A, 1), (0x04, 0x0A, 2), (0x09, 0x0A, 3)]⟩

/-- TamperLog, 9020h (R623). -/
def dictTamperLog : DictObject :=
  ⟨0x9020, 1,
   [⟨0x00, 0x00, "HighestSub", .u8, .const, false, fixed 0x11⟩,
    ⟨0x01, 0x01, "NextSeq", .u32, .ro, true, fixed 0⟩,
    ⟨0x02, 0x11, "Record", .octets 24, .ro, true, fixed 0⟩],
   []⟩

/-- TamperTest, 9030h (R624). -/
def dictTamperTest : DictObject :=
  ⟨0x9030, 1,
   [⟨0x00, 0x00, "HighestSub", .u8, .const, false, fixed 4⟩,
    ⟨0x01, 0x01, "TestRequest", .u8, .woa, false, fixed 0⟩,
    ⟨0x02, 0x02, "TestResult", .u8, .ro, false, fixed 0⟩,
    ⟨0x03, 0x03, "TestFailures", .u32, .ro, true, fixed 0⟩,
    ⟨0x04, 0x04, "CounterOverflow", .bits8, .rw, true, fixed 0⟩],
   [(0x03, 0x04, 0)]⟩

/-- FaultCollector, A000h (R650). -/
def dictFaultCollector : DictObject :=
  ⟨0xA000, 1,
   [⟨0x00, 0x00, "HighestSub", .u8, .const, false, fixed 0xF⟩,
    ⟨0x01, 0x01, "State", .u8, .ro, false, fixed 0⟩,
    ⟨0x02, 0x02, "QuietS", .u16, .rwa, true, fixed 0xA⟩,
    ⟨0x03, 0x03, "RelightLimit", .u8, .rwa, true, fixed 3⟩,
    ⟨0x04, 0x04, "Events", .u32, .ro, false, fixed 0⟩,
    ⟨0x05, 0x05, "ReportsMerged", .u32, .ro, false, fixed 0⟩,
    ⟨0x06, 0x06, "Replays", .u32, .ro, false, fixed 0⟩,
    ⟨0x07, 0x07, "Fences", .u32, .ro, false, fixed 0⟩,
    ⟨0x08, 0x08, "Relights", .u32, .ro, false, fixed 0⟩,
    ⟨0x09, 0x09, "Recoveries", .u32, .ro, false, fixed 0⟩,
    ⟨0x0A, 0x0A, "InternalCompletions", .u32, .ro, false, fixed 0⟩,
    ⟨0x0B, 0x0B, "FatalCount", .u32, .ro, true, fixed 0⟩,
    ⟨0x0C, 0x0C, "LastFatalCode", .u16, .ro, true, fixed 0⟩,
    ⟨0x0D, 0x0D, "LastFatalUnit", .u16, .ro, true, fixed 0⟩,
    ⟨0x0E, 0x0E, "LastFatalTime", .u64, .ro, true, fixed 0⟩,
    ⟨0x0F, 0x0F, "CounterOverflow", .bits8, .rw, true, fixed 0⟩],
   [(0x04, 0x0F, 0), (0x05, 0x0F, 1), (0x06, 0x0F, 2), (0x07, 0x0F, 3), (0x08, 0x0F, 4), (0x09, 0x0F, 5), (0x0A, 0x0F, 6), (0x0B, 0x0F, 7)]⟩

/-- FaultLog, A010h (R651). -/
def dictFaultLog : DictObject :=
  ⟨0xA010, 1,
   [⟨0x00, 0x00, "HighestSub", .u8, .const, false, fixed 5⟩,
    ⟨0x01, 0x01, "NextSeq", .u32, .ro, false, fixed 0⟩,
    ⟨0x02, 0x05, "LogBlock", .octets 8192, .ro, false, fixed 0⟩],
   []⟩

/-- DumpControl, A020h (R648). -/
def dictDumpControl : DictObject :=
  ⟨0xA020, 1,
   [⟨0x00, 0x00, "HighestSub", .u8, .const, false, fixed 9⟩,
    ⟨0x01, 0x01, "FatalHoldS", .u32, .rwa, true, fixed 0x3C⟩,
    ⟨0x02, 0x02, "DumpSlice", .u16, .rwa, true, fixed 0xFFFF⟩,
    ⟨0x03, 0x03, "DumpHostAddr", .u64, .rwa, true, fixed 0⟩,
    ⟨0x04, 0x04, "DumpHostSize", .u32, .rwa, true, fixed 0⟩,
    ⟨0x05, 0x05, "DumpVector", .u16, .rwa, true, fixed 0xFFFF⟩,
    ⟨0x06, 0x06, "DumpValid", .bool, .ro, false, fixed 0⟩,
    ⟨0x07, 0x07, "DumpLength", .u32, .ro, false, fixed 0⟩,
    ⟨0x08, 0x08, "DumpOffset", .u32, .rw, false, fixed 0⟩,
    ⟨0x09, 0x09, "DumpData", .octets 8192, .ro, false, fixed 0⟩],
   []⟩

/-- FaultSeverity, A101h (R652). -/
def dictFaultSeverity : DictObject :=
  ⟨0xA101, 18,
   [⟨0x00, 0x00, "HighestSub", .u8, .const, false, fun _ i _ => highestFault (i + 1)⟩,
    ⟨0x01, 0xFE, "Severity", .u8, .rwa, true, fun _ i n => severityDefault ((i + 1) * 256 + n)⟩],
   []⟩

/-- UnitHealth, A400h (R653). -/
def dictUnitHealthA400 : DictObject :=
  ⟨0xA400, 256,
   [⟨0x00, 0x00, "HighestSub", .u8, .const, false, fixed 7⟩,
    ⟨0x01, 0x01, "State", .u8, .ro, false, fixed 0⟩,
    ⟨0x02, 0x02, "FenceCount", .u32, .ro, false, fixed 0⟩,
    ⟨0x03, 0x03, "RelightCount", .u8, .ro, false, fixed 0⟩,
    ⟨0x04, 0x04, "LastFenceCode", .u16, .ro, false, fixed 0⟩,
    ⟨0x05, 0x05, "LastFenceTime", .u64, .ro, false, fixed 0⟩,
    ⟨0x06, 0x06, "RelightRequest", .bool, .woa, false, fixed 0⟩,
    ⟨0x07, 0x07, "CounterOverflow", .bits8, .rw, false, fixed 0⟩],
   [(0x02, 0x07, 0)]⟩

/-- UnitHealth, A500h (R653). -/
def dictUnitHealthA500 : DictObject :=
  ⟨0xA500, 256,
   [⟨0x00, 0x00, "HighestSub", .u8, .const, false, fixed 7⟩,
    ⟨0x01, 0x01, "State", .u8, .ro, false, fixed 0⟩,
    ⟨0x02, 0x02, "FenceCount", .u32, .ro, false, fixed 0⟩,
    ⟨0x03, 0x03, "RelightCount", .u8, .ro, false, fixed 0⟩,
    ⟨0x04, 0x04, "LastFenceCode", .u16, .ro, false, fixed 0⟩,
    ⟨0x05, 0x05, "LastFenceTime", .u64, .ro, false, fixed 0⟩,
    ⟨0x06, 0x06, "RelightRequest", .bool, .woa, false, fixed 0⟩,
    ⟨0x07, 0x07, "CounterOverflow", .bits8, .rw, false, fixed 0⟩],
   [(0x02, 0x07, 0)]⟩

/-- UnitHealth, A600h (R653). -/
def dictUnitHealthA600 : DictObject :=
  ⟨0xA600, 16,
   [⟨0x00, 0x00, "HighestSub", .u8, .const, false, fixed 7⟩,
    ⟨0x01, 0x01, "State", .u8, .ro, false, fixed 0⟩,
    ⟨0x02, 0x02, "FenceCount", .u32, .ro, false, fixed 0⟩,
    ⟨0x03, 0x03, "RelightCount", .u8, .ro, false, fixed 0⟩,
    ⟨0x04, 0x04, "LastFenceCode", .u16, .ro, false, fixed 0⟩,
    ⟨0x05, 0x05, "LastFenceTime", .u64, .ro, false, fixed 0⟩,
    ⟨0x06, 0x06, "RelightRequest", .bool, .woa, false, fixed 0⟩,
    ⟨0x07, 0x07, "CounterOverflow", .bits8, .rw, false, fixed 0⟩],
   [(0x02, 0x07, 0)]⟩

/-- UnitHealth, A610h (R653). -/
def dictUnitHealthA610 : DictObject :=
  ⟨0xA610, 8,
   [⟨0x00, 0x00, "HighestSub", .u8, .const, false, fixed 7⟩,
    ⟨0x01, 0x01, "State", .u8, .ro, false, fixed 0⟩,
    ⟨0x02, 0x02, "FenceCount", .u32, .ro, false, fixed 0⟩,
    ⟨0x03, 0x03, "RelightCount", .u8, .ro, false, fixed 0⟩,
    ⟨0x04, 0x04, "LastFenceCode", .u16, .ro, false, fixed 0⟩,
    ⟨0x05, 0x05, "LastFenceTime", .u64, .ro, false, fixed 0⟩,
    ⟨0x06, 0x06, "RelightRequest", .bool, .woa, false, fixed 0⟩,
    ⟨0x07, 0x07, "CounterOverflow", .bits8, .rw, false, fixed 0⟩],
   [(0x02, 0x07, 0)]⟩

/-- UnitHealth, A620h (R653). -/
def dictUnitHealthA620 : DictObject :=
  ⟨0xA620, 32,
   [⟨0x00, 0x00, "HighestSub", .u8, .const, false, fixed 7⟩,
    ⟨0x01, 0x01, "State", .u8, .ro, false, fixed 0⟩,
    ⟨0x02, 0x02, "FenceCount", .u32, .ro, false, fixed 0⟩,
    ⟨0x03, 0x03, "RelightCount", .u8, .ro, false, fixed 0⟩,
    ⟨0x04, 0x04, "LastFenceCode", .u16, .ro, false, fixed 0⟩,
    ⟨0x05, 0x05, "LastFenceTime", .u64, .ro, false, fixed 0⟩,
    ⟨0x06, 0x06, "RelightRequest", .bool, .woa, false, fixed 0⟩,
    ⟨0x07, 0x07, "CounterOverflow", .bits8, .rw, false, fixed 0⟩],
   [(0x02, 0x07, 0)]⟩

/-- UnitHealth, A640h (R653). -/
def dictUnitHealthA640 : DictObject :=
  ⟨0xA640, 32,
   [⟨0x00, 0x00, "HighestSub", .u8, .const, false, fixed 7⟩,
    ⟨0x01, 0x01, "State", .u8, .ro, false, fixed 0⟩,
    ⟨0x02, 0x02, "FenceCount", .u32, .ro, false, fixed 0⟩,
    ⟨0x03, 0x03, "RelightCount", .u8, .ro, false, fixed 0⟩,
    ⟨0x04, 0x04, "LastFenceCode", .u16, .ro, false, fixed 0⟩,
    ⟨0x05, 0x05, "LastFenceTime", .u64, .ro, false, fixed 0⟩,
    ⟨0x06, 0x06, "RelightRequest", .bool, .woa, false, fixed 0⟩,
    ⟨0x07, 0x07, "CounterOverflow", .bits8, .rw, false, fixed 0⟩],
   [(0x02, 0x07, 0)]⟩

/-- UnitHealth, A660h (R653). -/
def dictUnitHealthA660 : DictObject :=
  ⟨0xA660, 32,
   [⟨0x00, 0x00, "HighestSub", .u8, .const, false, fixed 7⟩,
    ⟨0x01, 0x01, "State", .u8, .ro, false, fixed 0⟩,
    ⟨0x02, 0x02, "FenceCount", .u32, .ro, false, fixed 0⟩,
    ⟨0x03, 0x03, "RelightCount", .u8, .ro, false, fixed 0⟩,
    ⟨0x04, 0x04, "LastFenceCode", .u16, .ro, false, fixed 0⟩,
    ⟨0x05, 0x05, "LastFenceTime", .u64, .ro, false, fixed 0⟩,
    ⟨0x06, 0x06, "RelightRequest", .bool, .woa, false, fixed 0⟩,
    ⟨0x07, 0x07, "CounterOverflow", .bits8, .rw, false, fixed 0⟩],
   [(0x02, 0x07, 0)]⟩

/-- PowerControl, B000h (R602). -/
def dictPowerControl : DictObject :=
  ⟨0xB000, 1,
   [⟨0x00, 0x00, "HighestSub", .u8, .const, false, fixed 7⟩,
    ⟨0x01, 0x01, "Request", .u8, .woa, false, fixed 0⟩,
    ⟨0x02, 0x02, "LowAfterIdleMs", .u32, .rwa, true, fixed 0⟩,
    ⟨0x03, 0x03, "DarkAfterLowS", .u32, .rwa, true, fixed 0⟩,
    ⟨0x04, 0x04, "HopWakeEnable", .bool, .rwa, true, fixed 1⟩,
    ⟨0x05, 0x05, "HostWakeEnable", .bool, .rwa, true, fixed 1⟩,
    ⟨0x06, 0x06, "LowEntries", .u32, .ro, false, fixed 0⟩,
    ⟨0x07, 0x07, "CounterOverflow", .bits8, .rw, false, fixed 0⟩],
   [(0x06, 0x07, 0)]⟩

/-- PilotPower, B010h (R603). -/
def dictPilotPower : DictObject :=
  ⟨0xB010, 1,
   [⟨0x00, 0x00, "HighestSub", .u8, .const, false, fixed 0x12⟩,
    ⟨0x01, 0x01, "LastWakeSource", .u8, .ro, true, fixed 6⟩,
    ⟨0x02, 0x02, "LastWakeUnit", .u16, .ro, true, fixed 0⟩,
    ⟨0x03, 0x03, "LastWakeSlice", .u16, .ro, true, fixed 0⟩,
    ⟨0x04, 0x04, "LastWakePin", .u8, .ro, true, fixed 0xFF⟩,
    ⟨0x05, 0x05, "LastWakeTime", .u64, .ro, true, fixed 0⟩,
    ⟨0x06, 0x06, "LowRefused", .u32, .ro, true, fixed 0⟩,
    ⟨0x07, 0x07, "LowAborted", .u32, .ro, true, fixed 0⟩,
    ⟨0x08, 0x08, "DarkRefused", .u32, .ro, true, fixed 0⟩,
    ⟨0x09, 0x09, "DarkAborted", .u32, .ro, true, fixed 0⟩,
    ⟨0x0A, 0x0A, "LastRefuser", .u16, .ro, true, fixed 0⟩,
    ⟨0x0B, 0x0B, "LastRefuserSlice", .u16, .ro, true, fixed 0⟩,
    ⟨0x0C, 0x0C, "LastRefuseTime", .u64, .ro, true, fixed 0⟩,
    ⟨0x0D, 0x0D, "DarkEntries", .u32, .ro, true, fixed 0⟩,
    ⟨0x0E, 0x0E, "RetentionLost", .u32, .ro, true, fixed 0⟩,
    ⟨0x0F, 0x0F, "TimestampRestarted", .bool, .rwa, true, fixed 0⟩,
    ⟨0x10, 0x10, "WakeAtTime", .u64, .rwa, true, fixed 0⟩,
    ⟨0x11, 0x11, "WakePinLevels", .bits8, .ro, false, fixed 0⟩,
    ⟨0x12, 0x12, "CounterOverflow", .bits8, .rw, true, fixed 0⟩],
   [(0x06, 0x12, 0), (0x07, 0x12, 1), (0x08, 0x12, 2), (0x09, 0x12, 3), (0x0D, 0x12, 4), (0x0E, 0x12, 5)]⟩

/-- WakePins, B020h (R604). -/
def dictWakePins : DictObject :=
  ⟨0xB020, 1,
   [⟨0x00, 0x00, "HighestSub", .u8, .const, false, fixed 8⟩,
    ⟨0x01, 0x08, "WakePinConfig", .bits8, .rwa, true, fixed 0⟩],
   []⟩

/-- PowerDomain, B100h (R606). -/
def dictPowerDomain : DictObject :=
  ⟨0xB100, 699,
   [⟨0x00, 0x00, "HighestSub", .u8, .const, false, fixed 3⟩,
    ⟨0x01, 0x01, "State", .u8, .ro, false, fixed 0⟩,
    ⟨0x02, 0x02, "PowerUps", .u32, .ro, false, fixed 0⟩,
    ⟨0x03, 0x03, "CounterOverflow", .bits8, .rw, false, fixed 0⟩],
   [(0x02, 0x03, 0)]⟩

/-- Every object of the dictionary, in ascending index order (R527). -/
def dictObjects : List DictObject :=
  [dictDictionaryRoot, dictCapability1, dictCapability2, dictCapability3, dictCapability4, dictCapability5, dictCapability6, dictCapability7, dictCapability8, dictCapability9, dictCapability10, dictCapability11, dictDeviceIdentity, dictDeviceCapacities, dictDeviceControl, dictShelfBus] ++
  [dictModuleSensors, dictLifeCycle, dictBootControl, dictHostLink, dictHostMailbox, dictSliceControl, dictSliceHost, dictSliceConfig, dictQueueSlot, dictSessionCache, dictLanternCache, dictMcElieceKeyCache, dictWickStatus, dictSconcePower, dictWickPrograms, dictWickVectors] ++
  [dictTaperStatus, dictTaperBank, dictDigesterStatus, dictSealerStatus, dictUnitBinding, dictReservoirLayout, dictArbitration, dictChannelStatus, dictReservoirSlice, dictHostWindows, dictVspControl, dictOctetMedia, dictMediaPort, dictMediaStream, dictKeyRoot, dictEntropyStatus] ++
  [dictVaultSlot, dictSliceKeyDefaults, dictTamperControl, dictTamperStatus, dictTamperLog, dictTamperTest, dictFaultCollector, dictFaultLog, dictDumpControl, dictFaultSeverity, dictUnitHealthA400, dictUnitHealthA500, dictUnitHealthA600, dictUnitHealthA610, dictUnitHealthA620, dictUnitHealthA640] ++
  [dictUnitHealthA660, dictPowerControl, dictPilotPower, dictWakePins, dictPowerDomain]

/-- The object an index belongs to and the index's place in it (R527). -/
def dictObject (index : Nat) : Option (DictObject × Nat) :=
  match dictObjects.find? (fun o => o.base ≤ index && index < o.base + o.count) with
  | some o => some (o, index - o.base)
  | none => none

/-- A subindex exists in an object: some line covers it, and in FaultSeverity it is at most the class's highest fault number (R652). -/
def dictRowOf (o : DictObject) (index sub : Nat) : Option DictRow :=
  if 0xA101 ≤ index && index ≤ 0xA112 && highestFault (index - 0xA100) < sub then none
  else o.rows.find? (fun r => r.lo ≤ sub && sub ≤ r.hi)

/-- The line of an entry. -/
def dictRow (index sub : Nat) : Option DictRow :=
  match dictObject index with
  | some (o, _) => dictRowOf o index sub
  | none => none

/-- The default of an entry, by its key index × 256 + subindex (R14). -/
def dictDefault (v : Variant) (key : Nat) : Nat :=
  match dictObject (key / 256) with
  | some (o, i) =>
    match dictRowOf o (key / 256) (key % 256) with
    | some r => r.dflt v i (key % 256)
    | none => 0
  | none => 0

/-- The size in bytes of a value (R11). -/
def EntryType.size : EntryType → Nat
  | .u8 | .bool | .bits8 => 1
  | .u16 | .bits16 => 2
  | .u32 | .i32 | .bits32 => 4
  | .u64 | .bits64 => 8
  | .octets n | .string n => n

/-- The TYPE code of INFO (R534). -/
def EntryType.code : EntryType → Nat
  | .u8 => 1 | .u16 => 2 | .u32 => 3 | .u64 => 4 | .i32 => 5 | .bool => 6
  | .bits8 => 7 | .bits16 => 8 | .bits32 => 9 | .bits64 => 10 | .octets _ => 11 | .string _ => 12

/-- The ACCESS code of INFO (R534). -/
def Access.code : Access → Nat
  | .const => 0 | .ro => 1 | .rw => 2 | .rwa => 3 | .wo => 4 | .woa => 5

/-- The INFO description of an entry (R534). -/
def dictInfo (r : DictRow) : Bytes :=
  leBytes 1 r.type.code ++ leBytes 1 r.access.code ++ leBytes 2 r.type.size ++
  leBytes 1 (if r.access = .const then 2 else if r.persist then 1 else 0) ++ leBytes 3 0 ++
  strBytes 32 (if r.name = "HighestSub" then "Highest sub" else r.name)

/-- Where the sticky overflow bit of a counter stands: its key and bit (R20, R21). -/
def overflowBit (key : Nat) : Option (Nat × Nat) :=
  match dictObject (key / 256) with
  | some (o, _) =>
    match o.ovf.find? (fun p => p.1 = key % 256) with
    | some (_, s, b) => some (key / 256 * 256 + s, b)
    | none => none
  | none => none

/-! ### Keys of the entries: index × 256 + subindex -/

/-- HostLink Enable, 2000h + i:01h (R411). -/
abbrev Key.hostLinkEnable (i : Nat) : Nat := (0x2000 + i) * 256 + 0x01

/-- HostLink FirstOctet, 2000h + i:02h (R411). -/
abbrev Key.hostLinkFirstOctet (i : Nat) : Nat := (0x2000 + i) * 256 + 0x02

/-- HostLink Width, 2000h + i:03h (R411). -/
abbrev Key.hostLinkWidth (i : Nat) : Nat := (0x2000 + i) * 256 + 0x03

/-- HostLink LinkState, 2000h + i:04h (R411). -/
abbrev Key.hostLinkLinkState (i : Nat) : Nat := (0x2000 + i) * 256 + 0x04

/-- HostLink Speed, 2000h + i:05h (R411). -/
abbrev Key.hostLinkSpeed (i : Nat) : Nat := (0x2000 + i) * 256 + 0x05

/-- HostLink NegotiatedWidth, 2000h + i:06h (R411). -/
abbrev Key.hostLinkNegotiatedWidth (i : Nat) : Nat := (0x2000 + i) * 256 + 0x06

/-- HostLink FunctionResets, 2000h + i:07h (R411). -/
abbrev Key.hostLinkFunctionResets (i : Nat) : Nat := (0x2000 + i) * 256 + 0x07

/-- HostLink DoorbellDrops, 2000h + i:08h (R411). -/
abbrev Key.hostLinkDoorbellDrops (i : Nat) : Nat := (0x2000 + i) * 256 + 0x08

/-- HostLink LinkErrors, 2000h + i:09h (R411). -/
abbrev Key.hostLinkLinkErrors (i : Nat) : Nat := (0x2000 + i) * 256 + 0x09

/-- HostLink CounterOverflow, 2000h + i:0Ah (R411). -/
abbrev Key.hostLinkCounterOverflow (i : Nat) : Nat := (0x2000 + i) * 256 + 0x0A

/-- SliceHost Link, 2200h + i:01h (R412). -/
abbrev Key.sliceHostLink (i : Nat) : Nat := (0x2200 + i) * 256 + 0x01

/-- SliceHost Pasid, 2200h + i:02h (R412). -/
abbrev Key.sliceHostPasid (i : Nat) : Nat := (0x2200 + i) * 256 + 0x02

/-- SliceHost QueueSlots, 2200h + i:03h (R412). -/
abbrev Key.sliceHostQueueSlots (i : Nat) : Nat := (0x2200 + i) * 256 + 0x03

/-- QueueSlot Slice, 2800h + i:01h (R413). -/
abbrev Key.queueSlotSlice (i : Nat) : Nat := (0x2800 + i) * 256 + 0x01

/-- QueueSlot LocalQueue, 2800h + i:02h (R413). -/
abbrev Key.queueSlotLocalQueue (i : Nat) : Nat := (0x2800 + i) * 256 + 0x02

/-- QueueSlot MsixVector, 2800h + i:03h (R413). -/
abbrev Key.queueSlotMsixVector (i : Nat) : Nat := (0x2800 + i) * 256 + 0x03

/-- QueueSlot Kind, 2800h + i:04h (R413). -/
abbrev Key.queueSlotKind (i : Nat) : Nat := (0x2800 + i) * 256 + 0x04

/-- QueueSlot SizeLog2, 2800h + i:05h (R413). -/
abbrev Key.queueSlotSizeLog2 (i : Nat) : Nat := (0x2800 + i) * 256 + 0x05

/-- QueueSlot RingBase, 2800h + i:06h (R413). -/
abbrev Key.queueSlotRingBase (i : Nat) : Nat := (0x2800 + i) * 256 + 0x06

/-- QueueSlot StatusAddr, 2800h + i:07h (R413). -/
abbrev Key.queueSlotStatusAddr (i : Nat) : Nat := (0x2800 + i) * 256 + 0x07

/-- QueueSlot Weight, 2800h + i:08h (R413). -/
abbrev Key.queueSlotWeight (i : Nat) : Nat := (0x2800 + i) * 256 + 0x08

/-- QueueSlot Burst, 2800h + i:09h (R413). -/
abbrev Key.queueSlotBurst (i : Nat) : Nat := (0x2800 + i) * 256 + 0x09

/-- QueueSlot InFlightLimit, 2800h + i:0Ah (R413). -/
abbrev Key.queueSlotInFlightLimit (i : Nat) : Nat := (0x2800 + i) * 256 + 0x0A

/-- QueueSlot Enable, 2800h + i:0Bh (R413). -/
abbrev Key.queueSlotEnable (i : Nat) : Nat := (0x2800 + i) * 256 + 0x0B

/-- QueueSlot State, 2800h + i:0Ch (R413). -/
abbrev Key.queueSlotState (i : Nat) : Nat := (0x2800 + i) * 256 + 0x0C

/-- QueueSlot Published, 2800h + i:0Dh (R413). -/
abbrev Key.queueSlotPublished (i : Nat) : Nat := (0x2800 + i) * 256 + 0x0D

/-- QueueSlot FetchPoint, 2800h + i:0Eh (R413). -/
abbrev Key.queueSlotFetchPoint (i : Nat) : Nat := (0x2800 + i) * 256 + 0x0E

/-- QueueSlot ErrorCause, 2800h + i:0Fh (R413). -/
abbrev Key.queueSlotErrorCause (i : Nat) : Nat := (0x2800 + i) * 256 + 0x0F

/-- QueueSlot ShortDoorbells, 2800h + i:10h (R413). -/
abbrev Key.queueSlotShortDoorbells (i : Nat) : Nat := (0x2800 + i) * 256 + 0x10

/-- QueueSlot BadDoorbells, 2800h + i:11h (R413). -/
abbrev Key.queueSlotBadDoorbells (i : Nat) : Nat := (0x2800 + i) * 256 + 0x11

/-- QueueSlot Fetched, 2800h + i:12h (R413). -/
abbrev Key.queueSlotFetched (i : Nat) : Nat := (0x2800 + i) * 256 + 0x12

/-- QueueSlot CounterOverflow, 2800h + i:13h (R413). -/
abbrev Key.queueSlotCounterOverflow (i : Nat) : Nat := (0x2800 + i) * 256 + 0x13

/-- SessionCache CacheEntries, 3000h:01h (R74). -/
abbrev Key.sessionCacheCacheEntries : Nat := 0x300001

/-- SessionCache OpenSessions, 3000h:02h (R74). -/
abbrev Key.sessionCacheOpenSessions : Nat := 0x300002

/-- SessionCache CacheHits, 3000h:03h (R74). -/
abbrev Key.sessionCacheCacheHits : Nat := 0x300003

/-- SessionCache CacheMisses, 3000h:04h (R74). -/
abbrev Key.sessionCacheCacheMisses : Nat := 0x300004

/-- SessionCache PinnedWaits, 3000h:05h (R74). -/
abbrev Key.sessionCachePinnedWaits : Nat := 0x300005

/-- SessionCache CounterOverflow, 3000h:06h (R74). -/
abbrev Key.sessionCacheCounterOverflow : Nat := 0x300006

/-- LanternCache LanternEnable, 3010h:01h (R169). -/
abbrev Key.lanternCacheLanternEnable : Nat := 0x301001

/-- LanternCache Entries, 3010h:02h (R169). -/
abbrev Key.lanternCacheEntries : Nat := 0x301002

/-- LanternCache BytesInUse, 3010h:03h (R169). -/
abbrev Key.lanternCacheBytesInUse : Nat := 0x301003

/-- LanternCache SignsServed, 3010h:04h (R169). -/
abbrev Key.lanternCacheSignsServed : Nat := 0x301004

/-- LanternCache SignsFull, 3010h:05h (R169). -/
abbrev Key.lanternCacheSignsFull : Nat := 0x301005

/-- LanternCache BuildsCompleted, 3010h:06h (R169). -/
abbrev Key.lanternCacheBuildsCompleted : Nat := 0x301006

/-- LanternCache EntriesDropped, 3010h:07h (R169). -/
abbrev Key.lanternCacheEntriesDropped : Nat := 0x301007

/-- LanternCache CounterOverflow, 3010h:08h (R169). -/
abbrev Key.lanternCacheCounterOverflow : Nat := 0x301008

/-- McElieceKeyCache Entries, 3011h:01h (R185). -/
abbrev Key.mcElieceKeyCacheEntries : Nat := 0x301101

/-- McElieceKeyCache BytesInUse, 3011h:02h (R185). -/
abbrev Key.mcElieceKeyCacheBytesInUse : Nat := 0x301102

/-- McElieceKeyCache KeyReads, 3011h:03h (R185). -/
abbrev Key.mcElieceKeyCacheKeyReads : Nat := 0x301103

/-- McElieceKeyCache CounterOverflow, 3011h:04h (R185). -/
abbrev Key.mcElieceKeyCacheCounterOverflow : Nat := 0x301104

/-- TaperStatus State, 5000h + i:01h (R223). -/
abbrev Key.taperStatusState (i : Nat) : Nat := (0x5000 + i) * 256 + 0x01

/-- TaperStatus Jobs, 5000h + i:02h (R223). -/
abbrev Key.taperStatusJobs (i : Nat) : Nat := (0x5000 + i) * 256 + 0x02

/-- TaperStatus Mismatches, 5000h + i:03h (R223). -/
abbrev Key.taperStatusMismatches (i : Nat) : Nat := (0x5000 + i) * 256 + 0x03

/-- TaperStatus Strike, 5000h + i:04h (R223). -/
abbrev Key.taperStatusStrike (i : Nat) : Nat := (0x5000 + i) * 256 + 0x04

/-- TaperStatus StoreCorrected, 5000h + i:05h (R223). -/
abbrev Key.taperStatusStoreCorrected (i : Nat) : Nat := (0x5000 + i) * 256 + 0x05

/-- TaperStatus OperandCorrected, 5000h + i:06h (R223). -/
abbrev Key.taperStatusOperandCorrected (i : Nat) : Nat := (0x5000 + i) * 256 + 0x06

/-- TaperStatus WaitTimeouts, 5000h + i:07h (R223). -/
abbrev Key.taperStatusWaitTimeouts (i : Nat) : Nat := (0x5000 + i) * 256 + 0x07

/-- TaperStatus CounterOverflow, 5000h + i:08h (R223). -/
abbrev Key.taperStatusCounterOverflow (i : Nat) : Nat := (0x5000 + i) * 256 + 0x08

/-- TaperBank InService, 5008h:01h (R224). -/
abbrev Key.taperBankInService : Nat := 0x500801

/-- TaperBank StrikeClearJobs, 5008h:02h (R224). -/
abbrev Key.taperBankStrikeClearJobs : Nat := 0x500802

/-- TaperBank WaitWatchdog, 5008h:03h (R224). -/
abbrev Key.taperBankWaitWatchdog : Nat := 0x500803

/-- TaperBank PatchVersion, 5008h:04h (R224). -/
abbrev Key.taperBankPatchVersion : Nat := 0x500804

/-- TaperBank MinPatchVersion, 5008h:05h (R224). -/
abbrev Key.taperBankMinPatchVersion : Nat := 0x500805

/-- TaperBank PatchRefused, 5008h:06h (R224). -/
abbrev Key.taperBankPatchRefused : Nat := 0x500806

/-- TaperBank CounterOverflow, 5008h:07h (R224). -/
abbrev Key.taperBankCounterOverflow : Nat := 0x500807

/-- DigesterStatus State, 5100h + i:01h (R254). -/
abbrev Key.digesterStatusState (i : Nat) : Nat := (0x5100 + i) * 256 + 0x01

/-- DigesterStatus BoundOctet, 5100h + i:02h (R254). -/
abbrev Key.digesterStatusBoundOctet (i : Nat) : Nat := (0x5100 + i) * 256 + 0x02

/-- DigesterStatus ContextsInUse, 5100h + i:03h (R254). -/
abbrev Key.digesterStatusContextsInUse (i : Nat) : Nat := (0x5100 + i) * 256 + 0x03

/-- DigesterStatus BytesAbsorbed, 5100h + i:04h (R254). -/
abbrev Key.digesterStatusBytesAbsorbed (i : Nat) : Nat := (0x5100 + i) * 256 + 0x04

/-- DigesterStatus Switches, 5100h + i:05h (R254). -/
abbrev Key.digesterStatusSwitches (i : Nat) : Nat := (0x5100 + i) * 256 + 0x05

/-- DigesterStatus Mismatches, 5100h + i:06h (R254). -/
abbrev Key.digesterStatusMismatches (i : Nat) : Nat := (0x5100 + i) * 256 + 0x06

/-- DigesterStatus Corrected, 5100h + i:07h (R254). -/
abbrev Key.digesterStatusCorrected (i : Nat) : Nat := (0x5100 + i) * 256 + 0x07

/-- DigesterStatus CounterOverflow, 5100h + i:08h (R254). -/
abbrev Key.digesterStatusCounterOverflow (i : Nat) : Nat := (0x5100 + i) * 256 + 0x08

/-- SealerStatus State, 5140h + i:01h (R255). -/
abbrev Key.sealerStatusState (i : Nat) : Nat := (0x5140 + i) * 256 + 0x01

/-- SealerStatus BoundOctet, 5140h + i:02h (R255). -/
abbrev Key.sealerStatusBoundOctet (i : Nat) : Nat := (0x5140 + i) * 256 + 0x02

/-- SealerStatus Segments, 5140h + i:03h (R255). -/
abbrev Key.sealerStatusSegments (i : Nat) : Nat := (0x5140 + i) * 256 + 0x03

/-- SealerStatus KeyLoads, 5140h + i:04h (R255). -/
abbrev Key.sealerStatusKeyLoads (i : Nat) : Nat := (0x5140 + i) * 256 + 0x04

/-- SealerStatus TagFailures, 5140h + i:05h (R255). -/
abbrev Key.sealerStatusTagFailures (i : Nat) : Nat := (0x5140 + i) * 256 + 0x05

/-- SealerStatus Mismatches, 5140h + i:06h (R255). -/
abbrev Key.sealerStatusMismatches (i : Nat) : Nat := (0x5140 + i) * 256 + 0x06

/-- SealerStatus CounterOverflow, 5140h + i:07h (R255). -/
abbrev Key.sealerStatusCounterOverflow (i : Nat) : Nat := (0x5140 + i) * 256 + 0x07

/-- UnitBinding SealerMirror, 5160h:01h–20h (R256). -/
abbrev Key.unitBindingSealerMirror (n : Nat) : Nat := 0x516001 + n

/-- UnitBinding DigesterMirror, 5160h:21h–40h (R256). -/
abbrev Key.unitBindingDigesterMirror (n : Nat) : Nat := 0x516021 + n

/-- UnitBinding SoftContextLimit, 5160h:41h (R256). -/
abbrev Key.unitBindingSoftContextLimit : Nat := 0x516041

/-- UnitBinding SoftContextsOpen, 5160h:42h (R256). -/
abbrev Key.unitBindingSoftContextsOpen : Nat := 0x516042

/-- UnitBinding ContextWaits, 5160h:43h (R256). -/
abbrev Key.unitBindingContextWaits : Nat := 0x516043

/-- UnitBinding CounterOverflow, 5160h:44h (R256). -/
abbrev Key.unitBindingCounterOverflow : Nat := 0x516044

/-- WickStatus State, 4000h + i:01h (R294). -/
abbrev Key.wickStatusState (i : Nat) : Nat := (0x4000 + i) * 256 + 0x01

/-- WickStatus Attempts, 4000h + i:02h (R294). -/
abbrev Key.wickStatusAttempts (i : Nat) : Nat := (0x4000 + i) * 256 + 0x02

/-- WickStatus ProgramLoads, 4000h + i:03h (R294). -/
abbrev Key.wickStatusProgramLoads (i : Nat) : Nat := (0x4000 + i) * 256 + 0x03

/-- WickStatus Naps, 4000h + i:04h (R294). -/
abbrev Key.wickStatusNaps (i : Nat) : Nat := (0x4000 + i) * 256 + 0x04

/-- WickStatus Corrected, 4000h + i:05h (R294). -/
abbrev Key.wickStatusCorrected (i : Nat) : Nat := (0x4000 + i) * 256 + 0x05

/-- WickStatus ResidentProgram, 4000h + i:06h (R294). -/
abbrev Key.wickStatusResidentProgram (i : Nat) : Nat := (0x4000 + i) * 256 + 0x06

/-- WickStatus CounterOverflow, 4000h + i:07h (R294). -/
abbrev Key.wickStatusCounterOverflow (i : Nat) : Nat := (0x4000 + i) * 256 + 0x07

/-- WickPrograms LibraryVersion, 4300h:01h (R295). -/
abbrev Key.wickProgramsLibraryVersion : Nat := 0x430001

/-- WickPrograms OwnerProgramKeyHash, 4300h:02h (R295). -/
abbrev Key.wickProgramsOwnerProgramKeyHash : Nat := 0x430002

/-- WickPrograms OwnerProgramsLoaded, 4300h:03h (R295). -/
abbrev Key.wickProgramsOwnerProgramsLoaded : Nat := 0x430003

/-- WickPrograms NapEnable, 4300h:04h (R295). -/
abbrev Key.wickProgramsNapEnable : Nat := 0x430004

/-- WickPrograms NapMin, 4300h:05h (R295). -/
abbrev Key.wickProgramsNapMin : Nat := 0x430005

/-- WickPrograms WakeLead, 4300h:06h (R295). -/
abbrev Key.wickProgramsWakeLead : Nat := 0x430006

/-- WickPrograms OwnerLoadsRefused, 4300h:07h (R295). -/
abbrev Key.wickProgramsOwnerLoadsRefused : Nat := 0x430007

/-- WickPrograms CounterOverflow, 4300h:08h (R295). -/
abbrev Key.wickProgramsCounterOverflow : Nat := 0x430008

/-- WickVectors FvIdleTimeout, 4301h:01h (R333). -/
abbrev Key.wickVectorsFvIdleTimeout : Nat := 0x430101

/-- WickVectors FvWakes, 4301h:02h (R333). -/
abbrev Key.wickVectorsFvWakes : Nat := 0x430102

/-- WickVectors FvPowerDowns, 4301h:03h (R333). -/
abbrev Key.wickVectorsFvPowerDowns : Nat := 0x430103

/-- WickVectors ShroudReseeds, 4301h:04h (R333). -/
abbrev Key.wickVectorsShroudReseeds : Nat := 0x430104

/-- WickVectors ShroudWaits, 4301h:05h (R333). -/
abbrev Key.wickVectorsShroudWaits : Nat := 0x430105

/-- WickVectors ShroudFaults, 4301h:06h (R333). -/
abbrev Key.wickVectorsShroudFaults : Nat := 0x430106

/-- WickVectors CounterOverflow, 4301h:07h (R333). -/
abbrev Key.wickVectorsCounterOverflow : Nat := 0x430107

/-- ReservoirLayout UsableBytes, 6000h:01h (R349). -/
abbrev Key.reservoirLayoutUsableBytes : Nat := 0x600001

/-- ReservoirLayout StreamBase, 6000h:02h (R349). -/
abbrev Key.reservoirLayoutStreamBase : Nat := 0x600002

/-- ReservoirLayout LanternBase, 6000h:03h (R349). -/
abbrev Key.reservoirLayoutLanternBase : Nat := 0x600003

/-- ReservoirLayout McElieceBase, 6000h:04h (R349). -/
abbrev Key.reservoirLayoutMcElieceBase : Nat := 0x600004

/-- ReservoirLayout SessionBase, 6000h:05h (R349). -/
abbrev Key.reservoirLayoutSessionBase : Nat := 0x600005

/-- ReservoirLayout DumpBase, 6000h:06h (R349). -/
abbrev Key.reservoirLayoutDumpBase : Nat := 0x600006

/-- ReservoirLayout LayoutStatus, 6000h:07h (R349). -/
abbrev Key.reservoirLayoutLayoutStatus : Nat := 0x600007

/-- ReservoirLayout ClearRate, 6000h:08h (R349). -/
abbrev Key.reservoirLayoutClearRate : Nat := 0x600008

/-- ReservoirLayout LayoutErrors, 6000h:09h (R349). -/
abbrev Key.reservoirLayoutLayoutErrors : Nat := 0x600009

/-- ReservoirLayout CounterOverflow, 6000h:0Ah (R349). -/
abbrev Key.reservoirLayoutCounterOverflow : Nat := 0x60000A

/-- ReservoirSlice WindowBase, 6100h + i:01h (R350). -/
abbrev Key.reservoirSliceWindowBase (i : Nat) : Nat := (0x6100 + i) * 256 + 0x01

/-- ReservoirSlice WindowSize, 6100h + i:02h (R350). -/
abbrev Key.reservoirSliceWindowSize (i : Nat) : Nat := (0x6100 + i) * 256 + 0x02

/-- ReservoirSlice StreamQuota, 6100h + i:03h (R350). -/
abbrev Key.reservoirSliceStreamQuota (i : Nat) : Nat := (0x6100 + i) * 256 + 0x03

/-- ReservoirSlice LanternQuota, 6100h + i:04h (R350). -/
abbrev Key.reservoirSliceLanternQuota (i : Nat) : Nat := (0x6100 + i) * 256 + 0x04

/-- ReservoirSlice McElieceQuota, 6100h + i:05h (R350). -/
abbrev Key.reservoirSliceMcElieceQuota (i : Nat) : Nat := (0x6100 + i) * 256 + 0x05

/-- ReservoirSlice FloorMBps, 6100h + i:06h (R350). -/
abbrev Key.reservoirSliceFloorMBps (i : Nat) : Nat := (0x6100 + i) * 256 + 0x06

/-- ReservoirSlice Priority, 6100h + i:07h (R350). -/
abbrev Key.reservoirSlicePriority (i : Nat) : Nat := (0x6100 + i) * 256 + 0x07

/-- ReservoirSlice BytesRead, 6100h + i:08h (R350). -/
abbrev Key.reservoirSliceBytesRead (i : Nat) : Nat := (0x6100 + i) * 256 + 0x08

/-- ReservoirSlice BytesWritten, 6100h + i:09h (R350). -/
abbrev Key.reservoirSliceBytesWritten (i : Nat) : Nat := (0x6100 + i) * 256 + 0x09

/-- ReservoirSlice CounterOverflow, 6100h + i:0Ah (R350). -/
abbrev Key.reservoirSliceCounterOverflow (i : Nat) : Nat := (0x6100 + i) * 256 + 0x0A

/-- Arbitration LongestWaiterN, 6002h:01h (R362). -/
abbrev Key.arbitrationLongestWaiterN : Nat := 0x600201

/-- Arbitration FloorCapacityMBps, 6002h:02h (R362). -/
abbrev Key.arbitrationFloorCapacityMBps : Nat := 0x600202

/-- Arbitration FloorsTotalMBps, 6002h:03h (R362). -/
abbrev Key.arbitrationFloorsTotalMBps : Nat := 0x600203

/-- Arbitration LongestWaiterWins, 6002h:04h (R362). -/
abbrev Key.arbitrationLongestWaiterWins : Nat := 0x600204

/-- Arbitration FloorGrants, 6002h:05h (R362). -/
abbrev Key.arbitrationFloorGrants : Nat := 0x600205

/-- Arbitration CounterOverflow, 6002h:06h (R362). -/
abbrev Key.arbitrationCounterOverflow : Nat := 0x600206

/-- HostWindows Window, 6400h + i:01h–40h (R371). -/
abbrev Key.hostWindowsWindow (i : Nat) (n : Nat) : Nat := (0x6400 + i) * 256 + 0x01 + n

/-- HostWindows Epoch, 6400h + i:41h (R371). -/
abbrev Key.hostWindowsEpoch (i : Nat) : Nat := (0x6400 + i) * 256 + 0x41

/-- ChannelStatus State, 6040h + i:01h (R373). -/
abbrev Key.channelStatusState (i : Nat) : Nat := (0x6040 + i) * 256 + 0x01

/-- ChannelStatus RawBytes, 6040h + i:02h (R373). -/
abbrev Key.channelStatusRawBytes (i : Nat) : Nat := (0x6040 + i) * 256 + 0x02

/-- ChannelStatus Grants, 6040h + i:03h (R373). -/
abbrev Key.channelStatusGrants (i : Nat) : Nat := (0x6040 + i) * 256 + 0x03

/-- ChannelStatus LinkCorrected, 6040h + i:04h (R373). -/
abbrev Key.channelStatusLinkCorrected (i : Nat) : Nat := (0x6040 + i) * 256 + 0x04

/-- ChannelStatus TagRereads, 6040h + i:05h (R373). -/
abbrev Key.channelStatusTagRereads (i : Nat) : Nat := (0x6040 + i) * 256 + 0x05

/-- ChannelStatus LinesLost, 6040h + i:06h (R373). -/
abbrev Key.channelStatusLinesLost (i : Nat) : Nat := (0x6040 + i) * 256 + 0x06

/-- ChannelStatus CounterOverflow, 6040h + i:07h (R373). -/
abbrev Key.channelStatusCounterOverflow (i : Nat) : Nat := (0x6040 + i) * 256 + 0x07

/-- VspControl VspEtherType, 7000h:01h (R450). -/
abbrev Key.vspControlVspEtherType : Nat := 0x700001

/-- VspControl StatusIntervalMs, 7000h:02h (R450). -/
abbrev Key.vspControlStatusIntervalMs : Nat := 0x700002

/-- VspControl LinkTimeoutMs, 7000h:03h (R450). -/
abbrev Key.vspControlLinkTimeoutMs : Nat := 0x700003

/-- VspControl RetransmitUs, 7000h:04h (R450). -/
abbrev Key.vspControlRetransmitUs : Nat := 0x700004

/-- VspControl RetransmitLimit, 7000h:05h (R450). -/
abbrev Key.vspControlRetransmitLimit : Nat := 0x700005

/-- VspControl MaxBody, 7000h:06h (R450). -/
abbrev Key.vspControlMaxBody : Nat := 0x700006

/-- VspControl StreamsEnabled, 7000h:07h (R450). -/
abbrev Key.vspControlStreamsEnabled : Nat := 0x700007

/-- OctetMedia Mode, 7010h + i:01h (R451). -/
abbrev Key.octetMediaMode (i : Nat) : Nat := (0x7010 + i) * 256 + 0x01

/-- OctetMedia LaneSpeed, 7010h + i:02h (R451). -/
abbrev Key.octetMediaLaneSpeed (i : Nat) : Nat := (0x7010 + i) * 256 + 0x02

/-- OctetMedia PortFec, 7010h + i:03h (R451). -/
abbrev Key.octetMediaPortFec (i : Nat) : Nat := (0x7010 + i) * 256 + 0x03

/-- OctetMedia AutoNeg, 7010h + i:04h (R451). -/
abbrev Key.octetMediaAutoNeg (i : Nat) : Nat := (0x7010 + i) * 256 + 0x04

/-- OctetMedia State, 7010h + i:05h (R451). -/
abbrev Key.octetMediaState (i : Nat) : Nat := (0x7010 + i) * 256 + 0x05

/-- MediaPort MacAddress, 7100h + i:01h (R452). -/
abbrev Key.mediaPortMacAddress (i : Nat) : Nat := (0x7100 + i) * 256 + 0x01

/-- MediaPort LinkUp, 7100h + i:02h (R452). -/
abbrev Key.mediaPortLinkUp (i : Nat) : Nat := (0x7100 + i) * 256 + 0x02

/-- MediaPort RxFrames, 7100h + i:03h (R452). -/
abbrev Key.mediaPortRxFrames (i : Nat) : Nat := (0x7100 + i) * 256 + 0x03

/-- MediaPort LengthDrops, 7100h + i:04h (R452). -/
abbrev Key.mediaPortLengthDrops (i : Nat) : Nat := (0x7100 + i) * 256 + 0x04

/-- MediaPort UnknownDrops, 7100h + i:05h (R452). -/
abbrev Key.mediaPortUnknownDrops (i : Nat) : Nat := (0x7100 + i) * 256 + 0x05

/-- MediaPort PauseReceived, 7100h + i:06h (R452). -/
abbrev Key.mediaPortPauseReceived (i : Nat) : Nat := (0x7100 + i) * 256 + 0x06

/-- MediaPort CounterOverflow, 7100h + i:07h (R452). -/
abbrev Key.mediaPortCounterOverflow (i : Nat) : Nat := (0x7100 + i) * 256 + 0x07

/-- MediaStream Slice, 7400h + i:01h (R453). -/
abbrev Key.mediaStreamSlice (i : Nat) : Nat := (0x7400 + i) * 256 + 0x01

/-- MediaStream Port, 7400h + i:02h (R453). -/
abbrev Key.mediaStreamPort (i : Nat) : Nat := (0x7400 + i) * 256 + 0x02

/-- MediaStream Direction, 7400h + i:03h (R453). -/
abbrev Key.mediaStreamDirection (i : Nat) : Nat := (0x7400 + i) * 256 + 0x03

/-- MediaStream PeerMac, 7400h + i:04h (R453). -/
abbrev Key.mediaStreamPeerMac (i : Nat) : Nat := (0x7400 + i) * 256 + 0x04

/-- MediaStream VlanId, 7400h + i:05h (R453). -/
abbrev Key.mediaStreamVlanId (i : Nat) : Nat := (0x7400 + i) * 256 + 0x05

/-- MediaStream Pcp, 7400h + i:06h (R453). -/
abbrev Key.mediaStreamPcp (i : Nat) : Nat := (0x7400 + i) * 256 + 0x06

/-- MediaStream MarginMs, 7400h + i:07h (R453). -/
abbrev Key.mediaStreamMarginMs (i : Nat) : Nat := (0x7400 + i) * 256 + 0x07

/-- MediaStream RecordExp, 7400h + i:08h (R453). -/
abbrev Key.mediaStreamRecordExp (i : Nat) : Nat := (0x7400 + i) * 256 + 0x08

/-- MediaStream Enable, 7400h + i:09h (R453). -/
abbrev Key.mediaStreamEnable (i : Nat) : Nat := (0x7400 + i) * 256 + 0x09

/-- MediaStream State, 7400h + i:0Ah (R453). -/
abbrev Key.mediaStreamState (i : Nat) : Nat := (0x7400 + i) * 256 + 0x0A

/-- MediaStream Step, 7400h + i:0Bh (R453). -/
abbrev Key.mediaStreamStep (i : Nat) : Nat := (0x7400 + i) * 256 + 0x0B

/-- MediaStream Epoch, 7400h + i:0Ch (R453). -/
abbrev Key.mediaStreamEpoch (i : Nat) : Nat := (0x7400 + i) * 256 + 0x0C

/-- MediaStream Level, 7400h + i:0Dh (R453). -/
abbrev Key.mediaStreamLevel (i : Nat) : Nat := (0x7400 + i) * 256 + 0x0D

/-- MediaStream Dims, 7400h + i:0Eh (R453). -/
abbrev Key.mediaStreamDims (i : Nat) : Nat := (0x7400 + i) * 256 + 0x0E

/-- MediaStream Glides, 7400h + i:0Fh (R453). -/
abbrev Key.mediaStreamGlides (i : Nat) : Nat := (0x7400 + i) * 256 + 0x0F

/-- MediaStream Resumes, 7400h + i:10h (R453). -/
abbrev Key.mediaStreamResumes (i : Nat) : Nat := (0x7400 + i) * 256 + 0x10

/-- MediaStream Retransmits, 7400h + i:11h (R453). -/
abbrev Key.mediaStreamRetransmits (i : Nat) : Nat := (0x7400 + i) * 256 + 0x11

/-- MediaStream DuplicateDrops, 7400h + i:12h (R453). -/
abbrev Key.mediaStreamDuplicateDrops (i : Nat) : Nat := (0x7400 + i) * 256 + 0x12

/-- MediaStream ProtocolErrors, 7400h + i:13h (R453). -/
abbrev Key.mediaStreamProtocolErrors (i : Nat) : Nat := (0x7400 + i) * 256 + 0x13

/-- MediaStream CounterOverflow, 7400h + i:14h (R453). -/
abbrev Key.mediaStreamCounterOverflow (i : Nat) : Nat := (0x7400 + i) * 256 + 0x14

/-- KeyRoot CkPresent, 8000h:01h (R497). -/
abbrev Key.keyRootCkPresent : Nat := 0x800001

/-- KeyRoot CkDrawn, 8000h:02h (R497). -/
abbrev Key.keyRootCkDrawn : Nat := 0x800002

/-- KeyRoot OskInstalled, 8000h:03h (R497). -/
abbrev Key.keyRootOskInstalled : Nat := 0x800003

/-- KeyRoot OskId, 8000h:04h (R497). -/
abbrev Key.keyRootOskId : Nat := 0x800004

/-- KeyRoot AsInstalled, 8000h:05h (R497). -/
abbrev Key.keyRootAsInstalled : Nat := 0x800005

/-- KeyRoot UtkPublicKey, 8000h:06h (R497). -/
abbrev Key.keyRootUtkPublicKey : Nat := 0x800006

/-- KeyRoot Snuffs, 8000h:07h (R497). -/
abbrev Key.keyRootSnuffs : Nat := 0x800007

/-- KeyRoot LastSnuffTime, 8000h:08h (R497). -/
abbrev Key.keyRootLastSnuffTime : Nat := 0x800008

/-- KeyRoot PersistLost, 8000h:09h (R497). -/
abbrev Key.keyRootPersistLost : Nat := 0x800009

/-- KeyRoot CounterOverflow, 8000h:0Ah (R497). -/
abbrev Key.keyRootCounterOverflow : Nat := 0x80000A

/-- EntropyStatus State, 8010h:01h (R498). -/
abbrev Key.entropyStatusState : Nat := 0x801001

/-- EntropyStatus EmberState, 8010h:02h–05h (R498). -/
abbrev Key.entropyStatusEmberState (n : Nat) : Nat := 0x801002 + n

/-- EntropyStatus GutterTimeoutMs, 8010h:06h (R498). -/
abbrev Key.entropyStatusGutterTimeoutMs : Nat := 0x801006

/-- EntropyStatus EmberRetryMs, 8010h:07h (R498). -/
abbrev Key.entropyStatusEmberRetryMs : Nat := 0x801007

/-- EntropyStatus KatRequest, 8010h:08h (R498). -/
abbrev Key.entropyStatusKatRequest : Nat := 0x801008

/-- EntropyStatus KatResult, 8010h:09h (R498). -/
abbrev Key.entropyStatusKatResult : Nat := 0x801009

/-- EntropyStatus HealthFailures, 8010h:0Ah (R498). -/
abbrev Key.entropyStatusHealthFailures : Nat := 0x80100A

/-- EntropyStatus GutterEntries, 8010h:0Bh (R498). -/
abbrev Key.entropyStatusGutterEntries : Nat := 0x80100B

/-- EntropyStatus EntropyUnavailable, 8010h:0Ch (R498). -/
abbrev Key.entropyStatusEntropyUnavailable : Nat := 0x80100C

/-- EntropyStatus SeedWaits, 8010h:0Dh (R498). -/
abbrev Key.entropyStatusSeedWaits : Nat := 0x80100D

/-- EntropyStatus SeedsDiscarded, 8010h:0Eh (R498). -/
abbrev Key.entropyStatusSeedsDiscarded : Nat := 0x80100E

/-- EntropyStatus CounterOverflow, 8010h:0Fh (R498). -/
abbrev Key.entropyStatusCounterOverflow : Nat := 0x80100F

/-- VaultSlot Slice, 8100h + i:01h (R499). -/
abbrev Key.vaultSlotSlice (i : Nat) : Nat := (0x8100 + i) * 256 + 0x01

/-- VaultSlot Grant, 8100h + i:02h (R499). -/
abbrev Key.vaultSlotGrant (i : Nat) : Nat := (0x8100 + i) * 256 + 0x02

/-- VaultSlot State, 8100h + i:03h (R499). -/
abbrev Key.vaultSlotState (i : Nat) : Nat := (0x8100 + i) * 256 + 0x03

/-- VaultSlot Alg, 8100h + i:04h (R499). -/
abbrev Key.vaultSlotAlg (i : Nat) : Nat := (0x8100 + i) * 256 + 0x04

/-- VaultSlot KeyLen, 8100h + i:05h (R499). -/
abbrev Key.vaultSlotKeyLen (i : Nat) : Nat := (0x8100 + i) * 256 + 0x05

/-- VaultSlot Uses, 8100h + i:06h (R499). -/
abbrev Key.vaultSlotUses (i : Nat) : Nat := (0x8100 + i) * 256 + 0x06

/-- VaultSlot Origin, 8100h + i:07h (R499). -/
abbrev Key.vaultSlotOrigin (i : Nat) : Nat := (0x8100 + i) * 256 + 0x07

/-- VaultSlot Exportable, 8100h + i:08h (R499). -/
abbrev Key.vaultSlotExportable (i : Nat) : Nat := (0x8100 + i) * 256 + 0x08

/-- VaultSlot Erase, 8100h + i:09h (R499). -/
abbrev Key.vaultSlotErase (i : Nat) : Nat := (0x8100 + i) * 256 + 0x09

/-- VaultSlot Loads, 8100h + i:0Ah (R499). -/
abbrev Key.vaultSlotLoads (i : Nat) : Nat := (0x8100 + i) * 256 + 0x0A

/-- VaultSlot CounterOverflow, 8100h + i:0Bh (R499). -/
abbrev Key.vaultSlotCounterOverflow (i : Nat) : Nat := (0x8100 + i) * 256 + 0x0B

/-- SliceKeyDefaults Uses, 8400h + i:01h (R500). -/
abbrev Key.sliceKeyDefaultsUses (i : Nat) : Nat := (0x8400 + i) * 256 + 0x01

/-- SliceKeyDefaults Exportable, 8400h + i:02h (R500). -/
abbrev Key.sliceKeyDefaultsExportable (i : Nat) : Nat := (0x8400 + i) * 256 + 0x02

/-- SliceKeyDefaults BindBlobs, 8400h + i:03h (R500). -/
abbrev Key.sliceKeyDefaultsBindBlobs (i : Nat) : Nat := (0x8400 + i) * 256 + 0x03

/-- LifeCycle State, 1100h:01h (R525). -/
abbrev Key.lifeCycleState : Nat := 0x110001

/-- LifeCycle Copies, 1100h:02h (R525). -/
abbrev Key.lifeCycleCopies : Nat := 0x110002

/-- LifeCycle Counter, 1100h:03h (R525). -/
abbrev Key.lifeCycleCounter : Nat := 0x110003

/-- LifeCycle TransitionRequest, 1100h:04h (R525). -/
abbrev Key.lifeCycleTransitionRequest : Nat := 0x110004

/-- LifeCycle LastResult, 1100h:05h (R525). -/
abbrev Key.lifeCycleLastResult : Nat := 0x110005

/-- LifeCycle Transitions, 1100h:06h (R525). -/
abbrev Key.lifeCycleTransitions : Nat := 0x110006

/-- LifeCycle DebugErrors, 1100h:07h (R525). -/
abbrev Key.lifeCycleDebugErrors : Nat := 0x110007

/-- LifeCycle UnitId, 1100h:08h (R525). -/
abbrev Key.lifeCycleUnitId : Nat := 0x110008

/-- LifeCycle TransitionKeyHash, 1100h:09h (R525). -/
abbrev Key.lifeCycleTransitionKeyHash : Nat := 0x110009

/-- LifeCycle FirmwareKeyHash, 1100h:0Ah (R525). -/
abbrev Key.lifeCycleFirmwareKeyHash : Nat := 0x11000A

/-- LifeCycle OwnerKeyHash, 1100h:0Bh (R525). -/
abbrev Key.lifeCycleOwnerKeyHash : Nat := 0x11000B

/-- LifeCycle KeyRowsWritten, 1100h:0Ch (R525). -/
abbrev Key.lifeCycleKeyRowsWritten : Nat := 0x11000C

/-- LifeCycle KeyRowsProgram, 1100h:0Dh (R525). -/
abbrev Key.lifeCycleKeyRowsProgram : Nat := 0x11000D

/-- LifeCycle CounterOverflow, 1100h:0Eh (R525). -/
abbrev Key.lifeCycleCounterOverflow : Nat := 0x11000E

/-- BootControl PreferredSlot, 1101h:01h (R526). -/
abbrev Key.bootControlPreferredSlot : Nat := 0x110101

/-- BootControl RunningSlot, 1101h:02h (R526). -/
abbrev Key.bootControlRunningSlot : Nat := 0x110102

/-- BootControl FirmwareVersion, 1101h:03h (R526). -/
abbrev Key.bootControlFirmwareVersion : Nat := 0x110103

/-- BootControl MinFirmwareVersion, 1101h:04h (R526). -/
abbrev Key.bootControlMinFirmwareVersion : Nat := 0x110104

/-- BootControl Measurement, 1101h:05h (R526). -/
abbrev Key.bootControlMeasurement : Nat := 0x110105

/-- BootControl SlotResult0, 1101h:06h (R526). -/
abbrev Key.bootControlSlotResult0 : Nat := 0x110106

/-- BootControl SlotResult1, 1101h:07h (R526). -/
abbrev Key.bootControlSlotResult1 : Nat := 0x110107

/-- BootControl FlashWriteOffset, 1101h:08h (R526). -/
abbrev Key.bootControlFlashWriteOffset : Nat := 0x110108

/-- BootControl FlashWriteData, 1101h:09h (R526). -/
abbrev Key.bootControlFlashWriteData : Nat := 0x110109

/-- BootControl Boots, 1101h:0Ah (R526). -/
abbrev Key.bootControlBoots : Nat := 0x11010A

/-- BootControl SlotFallbacks, 1101h:0Bh (R526). -/
abbrev Key.bootControlSlotFallbacks : Nat := 0x11010B

/-- BootControl CounterOverflow, 1101h:0Ch (R526). -/
abbrev Key.bootControlCounterOverflow : Nat := 0x11010C

/-- HostMailbox MailboxOps, 2010h + i:01h (R542). -/
abbrev Key.hostMailboxMailboxOps (i : Nat) : Nat := (0x2010 + i) * 256 + 0x01

/-- HostMailbox MailboxDrops, 2010h + i:02h (R542). -/
abbrev Key.hostMailboxMailboxDrops (i : Nat) : Nat := (0x2010 + i) * 256 + 0x02

/-- HostMailbox CounterOverflow, 2010h + i:03h (R542). -/
abbrev Key.hostMailboxCounterOverflow (i : Nat) : Nat := (0x2010 + i) * 256 + 0x03

/-- DictionaryRoot DictVersion, 0000h:01h (R557). -/
abbrev Key.dictionaryRootDictVersion : Nat := 0x000001

/-- DictionaryRoot CapabilityCount, 0000h:02h (R557). -/
abbrev Key.dictionaryRootCapabilityCount : Nat := 0x000002

/-- DeviceIdentity VendorName, 0100h:01h (R558). -/
abbrev Key.deviceIdentityVendorName : Nat := 0x010001

/-- DeviceIdentity ProductName, 0100h:02h (R558). -/
abbrev Key.deviceIdentityProductName : Nat := 0x010002

/-- DeviceIdentity PartNumber, 0100h:03h (R558). -/
abbrev Key.deviceIdentityPartNumber : Nat := 0x010003

/-- DeviceIdentity Variant, 0100h:04h (R558). -/
abbrev Key.deviceIdentityVariant : Nat := 0x010004

/-- DeviceIdentity Grade, 0100h:05h (R558). -/
abbrev Key.deviceIdentityGrade : Nat := 0x010005

/-- DeviceIdentity UnitId, 0100h:06h (R558). -/
abbrev Key.deviceIdentityUnitId : Nat := 0x010006

/-- DeviceIdentity DieStepping, 0100h:07h (R558). -/
abbrev Key.deviceIdentityDieStepping : Nat := 0x010007

/-- DeviceIdentity ModuleStepping, 0100h:08h (R558). -/
abbrev Key.deviceIdentityModuleStepping : Nat := 0x010008

/-- DeviceIdentity ManufactureWeek, 0100h:09h (R558). -/
abbrev Key.deviceIdentityManufactureWeek : Nat := 0x010009

/-- DeviceIdentity ShelfMac, 0100h:0Ah (R558). -/
abbrev Key.deviceIdentityShelfMac : Nat := 0x01000A

/-- DeviceCapacities Wicks, 0102h:01h (R559). -/
abbrev Key.deviceCapacitiesWicks : Nat := 0x010201

/-- DeviceCapacities Tapers, 0102h:02h (R559). -/
abbrev Key.deviceCapacitiesTapers : Nat := 0x010202

/-- DeviceCapacities Sessions, 0102h:03h (R559). -/
abbrev Key.deviceCapacitiesSessions : Nat := 0x010203

/-- DeviceCapacities QueueSlots, 0102h:04h (R559). -/
abbrev Key.deviceCapacitiesQueueSlots : Nat := 0x010204

/-- DeviceCapacities Slices, 0102h:05h (R559). -/
abbrev Key.deviceCapacitiesSlices : Nat := 0x010205

/-- DeviceCapacities DigestContexts, 0102h:06h (R559). -/
abbrev Key.deviceCapacitiesDigestContexts : Nat := 0x010206

/-- DeviceCapacities Streams, 0102h:07h (R559). -/
abbrev Key.deviceCapacitiesStreams : Nat := 0x010207

/-- DeviceCapacities VaultSlots, 0102h:08h (R559). -/
abbrev Key.deviceCapacitiesVaultSlots : Nat := 0x010208

/-- DeviceCapacities HostLinks, 0102h:09h (R559). -/
abbrev Key.deviceCapacitiesHostLinks : Nat := 0x010209

/-- DeviceCapacities Ports, 0102h:0Ah (R559). -/
abbrev Key.deviceCapacitiesPorts : Nat := 0x01020A

/-- DeviceCapacities PowerDomains, 0102h:0Bh (R559). -/
abbrev Key.deviceCapacitiesPowerDomains : Nat := 0x01020B

/-- DeviceControl DeviceState, 1000h:01h (R560). -/
abbrev Key.deviceControlDeviceState : Nat := 0x100001

/-- DeviceControl Timestamp, 1000h:02h (R560). -/
abbrev Key.deviceControlTimestamp : Nat := 0x100002

/-- DeviceControl ResetRequest, 1000h:03h (R560). -/
abbrev Key.deviceControlResetRequest : Nat := 0x100003

/-- DeviceControl ResetCount, 1000h:04h (R560). -/
abbrev Key.deviceControlResetCount : Nat := 0x100004

/-- DeviceControl LastResetCause, 1000h:05h (R560). -/
abbrev Key.deviceControlLastResetCause : Nat := 0x100005

/-- DeviceControl Server, 1000h:06h (R560). -/
abbrev Key.deviceControlServer : Nat := 0x100006

/-- DeviceControl CounterOverflow, 1000h:07h (R560). -/
abbrev Key.deviceControlCounterOverflow : Nat := 0x100007

/-- ShelfBus HopEtherType, 1010h:01h (R562). -/
abbrev Key.shelfBusHopEtherType : Nat := 0x101001

/-- ShelfBus PlcaNodeId, 1010h:02h (R562). -/
abbrev Key.shelfBusPlcaNodeId : Nat := 0x101002

/-- ShelfBus PlcaNodeCount, 1010h:03h (R562). -/
abbrev Key.shelfBusPlcaNodeCount : Nat := 0x101003

/-- ShelfBus PlcaToTimer, 1010h:04h (R562). -/
abbrev Key.shelfBusPlcaToTimer : Nat := 0x101004

/-- ShelfBus PlcaBurstCount, 1010h:05h (R562). -/
abbrev Key.shelfBusPlcaBurstCount : Nat := 0x101005

/-- ShelfBus PlcaBurstTimer, 1010h:06h (R562). -/
abbrev Key.shelfBusPlcaBurstTimer : Nat := 0x101006

/-- ShelfBus SessionIdleS, 1010h:07h (R562). -/
abbrev Key.shelfBusSessionIdleS : Nat := 0x101007

/-- ShelfBus ShelfKeyHash, 1010h:08h–0Bh (R562). -/
abbrev Key.shelfBusShelfKeyHash (n : Nat) : Nat := 0x101008 + n

/-- ShelfBus SessionsOpen, 1010h:0Ch (R562). -/
abbrev Key.shelfBusSessionsOpen : Nat := 0x10100C

/-- ShelfBus FramesReceived, 1010h:0Dh (R562). -/
abbrev Key.shelfBusFramesReceived : Nat := 0x10100D

/-- ShelfBus FramesDropped, 1010h:0Eh (R562). -/
abbrev Key.shelfBusFramesDropped : Nat := 0x10100E

/-- ShelfBus TagFailures, 1010h:0Fh (R562). -/
abbrev Key.shelfBusTagFailures : Nat := 0x10100F

/-- ShelfBus AuthFailures, 1010h:10h (R562). -/
abbrev Key.shelfBusAuthFailures : Nat := 0x101010

/-- ShelfBus CounterOverflow, 1010h:11h (R562). -/
abbrev Key.shelfBusCounterOverflow : Nat := 0x101011

/-- SliceControl OwnerSlice, 2020h:01h (R577). -/
abbrev Key.sliceControlOwnerSlice : Nat := 0x202001

/-- SliceControl SteadySlices, 2020h:02h (R577). -/
abbrev Key.sliceControlSteadySlices : Nat := 0x202002

/-- SliceControl TenancyChanges, 2020h:03h (R577). -/
abbrev Key.sliceControlTenancyChanges : Nat := 0x202003

/-- SliceControl CounterOverflow, 2020h:04h (R577). -/
abbrev Key.sliceControlCounterOverflow : Nat := 0x202004

/-- SliceConfig SessionBase, 2400h + i:01h (R578). -/
abbrev Key.sliceConfigSessionBase (i : Nat) : Nat := (0x2400 + i) * 256 + 0x01

/-- SliceConfig SessionCount, 2400h + i:02h (R578). -/
abbrev Key.sliceConfigSessionCount (i : Nat) : Nat := (0x2400 + i) * 256 + 0x02

/-- SliceConfig OpcodeFamilies, 2400h + i:03h (R578). -/
abbrev Key.sliceConfigOpcodeFamilies (i : Nat) : Nat := (0x2400 + i) * 256 + 0x03

/-- SliceConfig Steady, 2400h + i:04h (R578). -/
abbrev Key.sliceConfigSteady (i : Nat) : Nat := (0x2400 + i) * 256 + 0x04

/-- SliceConfig SteadySconces, 2400h + i:05h (R578). -/
abbrev Key.sliceConfigSteadySconces (i : Nat) : Nat := (0x2400 + i) * 256 + 0x05

/-- SliceConfig SteadyTapers, 2400h + i:06h (R578). -/
abbrev Key.sliceConfigSteadyTapers (i : Nat) : Nat := (0x2400 + i) * 256 + 0x06

/-- SliceConfig Retenant, 2400h + i:07h (R578). -/
abbrev Key.sliceConfigRetenant (i : Nat) : Nat := (0x2400 + i) * 256 + 0x07

/-- SliceConfig Tenancy, 2400h + i:08h (R578). -/
abbrev Key.sliceConfigTenancy (i : Nat) : Nat := (0x2400 + i) * 256 + 0x08

/-- SliceConfig CounterOverflow, 2400h + i:09h (R578). -/
abbrev Key.sliceConfigCounterOverflow (i : Nat) : Nat := (0x2400 + i) * 256 + 0x09

/-- SliceConfig DigestContextQuota, 2400h + i:0Ah (R578). -/
abbrev Key.sliceConfigDigestContextQuota (i : Nat) : Nat := (0x2400 + i) * 256 + 0x0A

/-- PowerControl Request, B000h:01h (R602). -/
abbrev Key.powerControlRequest : Nat := 0xB00001

/-- PowerControl LowAfterIdleMs, B000h:02h (R602). -/
abbrev Key.powerControlLowAfterIdleMs : Nat := 0xB00002

/-- PowerControl DarkAfterLowS, B000h:03h (R602). -/
abbrev Key.powerControlDarkAfterLowS : Nat := 0xB00003

/-- PowerControl HopWakeEnable, B000h:04h (R602). -/
abbrev Key.powerControlHopWakeEnable : Nat := 0xB00004

/-- PowerControl HostWakeEnable, B000h:05h (R602). -/
abbrev Key.powerControlHostWakeEnable : Nat := 0xB00005

/-- PowerControl LowEntries, B000h:06h (R602). -/
abbrev Key.powerControlLowEntries : Nat := 0xB00006

/-- PowerControl CounterOverflow, B000h:07h (R602). -/
abbrev Key.powerControlCounterOverflow : Nat := 0xB00007

/-- PilotPower LastWakeSource, B010h:01h (R603). -/
abbrev Key.pilotPowerLastWakeSource : Nat := 0xB01001

/-- PilotPower LastWakeUnit, B010h:02h (R603). -/
abbrev Key.pilotPowerLastWakeUnit : Nat := 0xB01002

/-- PilotPower LastWakeSlice, B010h:03h (R603). -/
abbrev Key.pilotPowerLastWakeSlice : Nat := 0xB01003

/-- PilotPower LastWakePin, B010h:04h (R603). -/
abbrev Key.pilotPowerLastWakePin : Nat := 0xB01004

/-- PilotPower LastWakeTime, B010h:05h (R603). -/
abbrev Key.pilotPowerLastWakeTime : Nat := 0xB01005

/-- PilotPower LowRefused, B010h:06h (R603). -/
abbrev Key.pilotPowerLowRefused : Nat := 0xB01006

/-- PilotPower LowAborted, B010h:07h (R603). -/
abbrev Key.pilotPowerLowAborted : Nat := 0xB01007

/-- PilotPower DarkRefused, B010h:08h (R603). -/
abbrev Key.pilotPowerDarkRefused : Nat := 0xB01008

/-- PilotPower DarkAborted, B010h:09h (R603). -/
abbrev Key.pilotPowerDarkAborted : Nat := 0xB01009

/-- PilotPower LastRefuser, B010h:0Ah (R603). -/
abbrev Key.pilotPowerLastRefuser : Nat := 0xB0100A

/-- PilotPower LastRefuserSlice, B010h:0Bh (R603). -/
abbrev Key.pilotPowerLastRefuserSlice : Nat := 0xB0100B

/-- PilotPower LastRefuseTime, B010h:0Ch (R603). -/
abbrev Key.pilotPowerLastRefuseTime : Nat := 0xB0100C

/-- PilotPower DarkEntries, B010h:0Dh (R603). -/
abbrev Key.pilotPowerDarkEntries : Nat := 0xB0100D

/-- PilotPower RetentionLost, B010h:0Eh (R603). -/
abbrev Key.pilotPowerRetentionLost : Nat := 0xB0100E

/-- PilotPower TimestampRestarted, B010h:0Fh (R603). -/
abbrev Key.pilotPowerTimestampRestarted : Nat := 0xB0100F

/-- PilotPower WakeAtTime, B010h:10h (R603). -/
abbrev Key.pilotPowerWakeAtTime : Nat := 0xB01010

/-- PilotPower WakePinLevels, B010h:11h (R603). -/
abbrev Key.pilotPowerWakePinLevels : Nat := 0xB01011

/-- PilotPower CounterOverflow, B010h:12h (R603). -/
abbrev Key.pilotPowerCounterOverflow : Nat := 0xB01012

/-- WakePins WakePinConfig, B020h:01h–08h (R604). -/
abbrev Key.wakePinsWakePinConfig (n : Nat) : Nat := 0xB02001 + n

/-- SconcePower Enable, 4200h + i:01h (R605). -/
abbrev Key.sconcePowerEnable (i : Nat) : Nat := (0x4200 + i) * 256 + 0x01

/-- SconcePower Level, 4200h + i:02h (R605). -/
abbrev Key.sconcePowerLevel (i : Nat) : Nat := (0x4200 + i) * 256 + 0x02

/-- SconcePower CurrentLevel, 4200h + i:03h (R605). -/
abbrev Key.sconcePowerCurrentLevel (i : Nat) : Nat := (0x4200 + i) * 256 + 0x03

/-- SconcePower State, 4200h + i:04h (R605). -/
abbrev Key.sconcePowerState (i : Nat) : Nat := (0x4200 + i) * 256 + 0x04

/-- SconcePower LevelChanges, 4200h + i:05h (R605). -/
abbrev Key.sconcePowerLevelChanges (i : Nat) : Nat := (0x4200 + i) * 256 + 0x05

/-- SconcePower CounterOverflow, 4200h + i:06h (R605). -/
abbrev Key.sconcePowerCounterOverflow (i : Nat) : Nat := (0x4200 + i) * 256 + 0x06

/-- PowerDomain State, B100h + i:01h (R606). -/
abbrev Key.powerDomainState (i : Nat) : Nat := (0xB100 + i) * 256 + 0x01

/-- PowerDomain PowerUps, B100h + i:02h (R606). -/
abbrev Key.powerDomainPowerUps (i : Nat) : Nat := (0xB100 + i) * 256 + 0x02

/-- PowerDomain CounterOverflow, B100h + i:03h (R606). -/
abbrev Key.powerDomainCounterOverflow (i : Nat) : Nat := (0xB100 + i) * 256 + 0x03

/-- TamperControl Response, 9000h:01h–0Ah (R621). -/
abbrev Key.tamperControlResponse (n : Nat) : Nat := 0x900001 + n

/-- TamperControl LoopEnable, 9000h:0Bh (R621). -/
abbrev Key.tamperControlLoopEnable : Nat := 0x90000B

/-- TamperControl TempHighC, 9000h:0Ch (R621). -/
abbrev Key.tamperControlTempHighC : Nat := 0x90000C

/-- TamperControl TempLowC, 9000h:0Dh (R621). -/
abbrev Key.tamperControlTempLowC : Nat := 0x90000D

/-- TamperControl IntegrityBurstCount, 9000h:0Eh (R621). -/
abbrev Key.tamperControlIntegrityBurstCount : Nat := 0x90000E

/-- TamperControl IntegrityBurstWindowMs, 9000h:0Fh (R621). -/
abbrev Key.tamperControlIntegrityBurstWindowMs : Nat := 0x90000F

/-- TamperStatus SourceState, 9010h:01h (R622). -/
abbrev Key.tamperStatusSourceState : Nat := 0x901001

/-- TamperStatus Alarms, 9010h:02h (R622). -/
abbrev Key.tamperStatusAlarms : Nat := 0x901002

/-- TamperStatus Suppressed, 9010h:03h (R622). -/
abbrev Key.tamperStatusSuppressed : Nat := 0x901003

/-- TamperStatus CkErasures, 9010h:04h (R622). -/
abbrev Key.tamperStatusCkErasures : Nat := 0x901004

/-- TamperStatus LastAlarmSource, 9010h:05h (R622). -/
abbrev Key.tamperStatusLastAlarmSource : Nat := 0x901005

/-- TamperStatus LastAlarmTime, 9010h:06h (R622). -/
abbrev Key.tamperStatusLastAlarmTime : Nat := 0x901006

/-- TamperStatus ReprovisionNeeded, 9010h:07h (R622). -/
abbrev Key.tamperStatusReprovisionNeeded : Nat := 0x901007

/-- TamperStatus HaltLatched, 9010h:08h (R622). -/
abbrev Key.tamperStatusHaltLatched : Nat := 0x901008

/-- TamperStatus IntegrityFailures, 9010h:09h (R622). -/
abbrev Key.tamperStatusIntegrityFailures : Nat := 0x901009

/-- TamperStatus CounterOverflow, 9010h:0Ah (R622). -/
abbrev Key.tamperStatusCounterOverflow : Nat := 0x90100A

/-- TamperLog NextSeq, 9020h:01h (R623). -/
abbrev Key.tamperLogNextSeq : Nat := 0x902001

/-- TamperLog Record, 9020h:02h–11h (R623). -/
abbrev Key.tamperLogRecord (n : Nat) : Nat := 0x902002 + n

/-- TamperTest TestRequest, 9030h:01h (R624). -/
abbrev Key.tamperTestTestRequest : Nat := 0x903001

/-- TamperTest TestResult, 9030h:02h (R624). -/
abbrev Key.tamperTestTestResult : Nat := 0x903002

/-- TamperTest TestFailures, 9030h:03h (R624). -/
abbrev Key.tamperTestTestFailures : Nat := 0x903003

/-- TamperTest CounterOverflow, 9030h:04h (R624). -/
abbrev Key.tamperTestCounterOverflow : Nat := 0x903004

/-- DumpControl FatalHoldS, A020h:01h (R648). -/
abbrev Key.dumpControlFatalHoldS : Nat := 0xA02001

/-- DumpControl DumpSlice, A020h:02h (R648). -/
abbrev Key.dumpControlDumpSlice : Nat := 0xA02002

/-- DumpControl DumpHostAddr, A020h:03h (R648). -/
abbrev Key.dumpControlDumpHostAddr : Nat := 0xA02003

/-- DumpControl DumpHostSize, A020h:04h (R648). -/
abbrev Key.dumpControlDumpHostSize : Nat := 0xA02004

/-- DumpControl DumpVector, A020h:05h (R648). -/
abbrev Key.dumpControlDumpVector : Nat := 0xA02005

/-- DumpControl DumpValid, A020h:06h (R648). -/
abbrev Key.dumpControlDumpValid : Nat := 0xA02006

/-- DumpControl DumpLength, A020h:07h (R648). -/
abbrev Key.dumpControlDumpLength : Nat := 0xA02007

/-- DumpControl DumpOffset, A020h:08h (R648). -/
abbrev Key.dumpControlDumpOffset : Nat := 0xA02008

/-- DumpControl DumpData, A020h:09h (R648). -/
abbrev Key.dumpControlDumpData : Nat := 0xA02009

/-- FaultCollector State, A000h:01h (R650). -/
abbrev Key.faultCollectorState : Nat := 0xA00001

/-- FaultCollector QuietS, A000h:02h (R650). -/
abbrev Key.faultCollectorQuietS : Nat := 0xA00002

/-- FaultCollector RelightLimit, A000h:03h (R650). -/
abbrev Key.faultCollectorRelightLimit : Nat := 0xA00003

/-- FaultCollector Events, A000h:04h (R650). -/
abbrev Key.faultCollectorEvents : Nat := 0xA00004

/-- FaultCollector ReportsMerged, A000h:05h (R650). -/
abbrev Key.faultCollectorReportsMerged : Nat := 0xA00005

/-- FaultCollector Replays, A000h:06h (R650). -/
abbrev Key.faultCollectorReplays : Nat := 0xA00006

/-- FaultCollector Fences, A000h:07h (R650). -/
abbrev Key.faultCollectorFences : Nat := 0xA00007

/-- FaultCollector Relights, A000h:08h (R650). -/
abbrev Key.faultCollectorRelights : Nat := 0xA00008

/-- FaultCollector Recoveries, A000h:09h (R650). -/
abbrev Key.faultCollectorRecoveries : Nat := 0xA00009

/-- FaultCollector InternalCompletions, A000h:0Ah (R650). -/
abbrev Key.faultCollectorInternalCompletions : Nat := 0xA0000A

/-- FaultCollector FatalCount, A000h:0Bh (R650). -/
abbrev Key.faultCollectorFatalCount : Nat := 0xA0000B

/-- FaultCollector LastFatalCode, A000h:0Ch (R650). -/
abbrev Key.faultCollectorLastFatalCode : Nat := 0xA0000C

/-- FaultCollector LastFatalUnit, A000h:0Dh (R650). -/
abbrev Key.faultCollectorLastFatalUnit : Nat := 0xA0000D

/-- FaultCollector LastFatalTime, A000h:0Eh (R650). -/
abbrev Key.faultCollectorLastFatalTime : Nat := 0xA0000E

/-- FaultCollector CounterOverflow, A000h:0Fh (R650). -/
abbrev Key.faultCollectorCounterOverflow : Nat := 0xA0000F

/-- FaultLog NextSeq, A010h:01h (R651). -/
abbrev Key.faultLogNextSeq : Nat := 0xA01001

/-- FaultLog LogBlock, A010h:02h–05h (R651). -/
abbrev Key.faultLogLogBlock (n : Nat) : Nat := 0xA01002 + n

/-- FaultSeverity Severity, A101h + i:01h–FEh (R652). -/
abbrev Key.faultSeveritySeverity (i : Nat) (n : Nat) : Nat := (0xA101 + i) * 256 + 0x01 + n

/-- ModuleSensors DieTemp, 1020h:01h–11h (R671). -/
abbrev Key.moduleSensorsDieTemp (n : Nat) : Nat := 0x102001 + n

/-- ModuleSensors MaxDieTemp, 1020h:12h (R671). -/
abbrev Key.moduleSensorsMaxDieTemp : Nat := 0x102012

/-- ModuleSensors RailMv, 1020h:13h–1Bh (R671). -/
abbrev Key.moduleSensorsRailMv (n : Nat) : Nat := 0x102013 + n

/-- ModuleSensors VbatMv, 1020h:1Ch (R671). -/
abbrev Key.moduleSensorsVbatMv : Nat := 0x10201C

/-- ModuleSensors RailStartFailures, 1020h:1Dh (R671). -/
abbrev Key.moduleSensorsRailStartFailures : Nat := 0x10201D

/-- ModuleSensors RailDropResets, 1020h:1Eh (R671). -/
abbrev Key.moduleSensorsRailDropResets : Nat := 0x10201E

/-- ModuleSensors CounterOverflow, 1020h:1Fh (R671). -/
abbrev Key.moduleSensorsCounterOverflow : Nat := 0x10201F

/-- The index of UnitHealth for a unit that can be fenced (R653). -/
def healthIndex (u : UnitId) : Option Nat :=
  let c := unitClass u
  let i := unitIndex u
  if c = 1 && i < 256 then some (0xA400 + i)
  else if c = 2 && i < 256 then some (0xA500 + i)
  else if c = 3 && i < 16 then some (0xA600 + i)
  else if c = 4 && i < 8 then some (0xA610 + i)
  else if c = 5 && i < 32 then some (0xA620 + i)
  else if c = 6 && i < 32 then some (0xA640 + i)
  else if c = 7 && i < 32 then some (0xA660 + i)
  else none

end Sys2Proof.Machine
end

