-- ==== Sys2Proof/Machine/Memory.lean ====
section
/-! DEFINITION. Byte memories as sparse lists of cells in one canonical form: the reservoir, whose unlisted lines read as zero (R342, R343), and the boot flash, whose unlisted bytes read FFh (log 17). -/

namespace Sys2Proof.Machine

/-- What an unlisted reservoir byte reads as: a clear line's zero (R342). -/
def clearByte : Byte := 0
/-- What an unlisted flash byte reads as: erased (log 17). -/
def erasedByte : Byte := 0xFF

/-- The byte at an address. -/
def Memory.byte (d : Byte) (m : List Host.Cell) (a : Nat) : Byte := Table.get (fun _ => d) m a

/-- Store one byte, keeping the canonical form. -/
def Memory.put (d : Byte) (m : List Host.Cell) (a : Nat) (b : Byte) : List Host.Cell := Table.set (fun _ => d) m a b

/-- n bytes from an address. -/
def Memory.read (d : Byte) (m : List Host.Cell) (a n : Nat) : Bytes := (span a n).map (Memory.byte d m)

/-- Store bytes from an address upward. -/
def Memory.write (d : Byte) : List Host.Cell → Nat → Bytes → List Host.Cell
  | m, _, [] => m
  | m, a, b :: r => Memory.write d (Memory.put d m a b) (a + 1) r

/-- Return a range to what unlisted bytes read as. -/
def Memory.clear (m : List Host.Cell) (a n : Nat) : List Host.Cell := m.filter fun c => c.1 < a || a + n ≤ c.1

/-- The canonical form: addresses rise and no listed byte equals what an unlisted one reads as. -/
abbrev Memory.wf (d : Byte) (m : List Host.Cell) : Prop := Table.wf (fun _ => d) m

end Sys2Proof.Machine
end

