-- ==== Sys2Proof/Machine/Ops.lean ====
section
/-! DEFINITION. The named operations over the state that every family shares: dictionary entries and counters, free values, units, records of sessions, queues, streams, wicks and jobs, and what is sent outside. -/

namespace Sys2Proof

open Machine

/-- Fields of w0 (R75). -/
def RingEntry.owned (e : RingEntry) : Bool := bitOf e.w0.toNat 63
def RingEntry.opcode (e : RingEntry) : Nat := bitsOf e.w0.toNat 47 32
def RingEntry.alg (e : RingEntry) : Nat := bitsOf e.w0.toNat 31 24
def RingEntry.session (e : RingEntry) : Nat := bitsOf e.w0.toNat 23 12
def RingEntry.order2 (e : RingEntry) : Bool := bitOf e.w0.toNat 3
def RingEntry.mceF (e : RingEntry) : Bool := bitOf e.w0.toNat 2
def RingEntry.hedged (e : RingEntry) : Bool := bitOf e.w0.toNat 1
def RingEntry.irq (e : RingEntry) : Bool := bitOf e.w0.toNat 0
/-- GEN of w7 (R76). -/
def RingEntry.gen (e : RingEntry) : Nat := bitsOf e.w7.toNat 63 48

end Sys2Proof

namespace Sys2Proof.Machine

/-- What a command answers. -/
abbrev Res := Host.Outcome State Fault Refusal

/-! ### Dictionary entries and counters -/

/-- The stored value of an entry, by its key (R14). -/
def State.entry (s : State) (key : Nat) : Nat := Table.get (dictDefault s.variant) s.dict key

/-- Store an entry's value (R14). -/
def State.setEntry (s : State) (key v : Nat) : State :=
  { s with dict := Table.set (dictDefault s.variant) s.dict key v }

/-- The type of an entry. -/
def entryType (key : Nat) : EntryType :=
  match dictRow (key / 256) (key % 256) with
  | some r => r.type
  | none => .u32

/-- The greatest count of a counter: all ones of its width, and 31 ones for the count that mirrors FN_DOORBELL_DROPS (R20, R379). -/
def counterMax (key : Nat) : Nat :=
  if key % 256 = 0x08 && 0x2000 ≤ key / 256 && key / 256 < 0x2008 then 2 ^ 31 - 1
  else 2 ^ (8 * (entryType key).size) - 1

/-- Set one bit of an entry. -/
def State.setEntryBit (s : State) (key bit : Nat) (b : Bool) : State :=
  s.setEntry key (withBit (s.entry key) bit b)

/-- Count n events: the counter saturates and sets its sticky overflow bit when it reaches its maximum (R20). -/
def State.bumpBy (s : State) (key n : Nat) : State :=
  if n = 0 then s else
  let v := s.entry key + n
  if v < counterMax key then s.setEntry key v
  else
    let s := s.setEntry key (counterMax key)
    match overflowBit key with
    | some (k, b) => s.setEntryBit k b true
    | none => s

/-- Count one event (R20). -/
def State.bump (s : State) (key : Nat) : State := s.bumpBy key 1

/-- Clear a counter with its overflow bit (R21). -/
def State.clearCounter (s : State) (key : Nat) : State :=
  let s := s.setEntry key 0
  match overflowBit key with
  | some (k, b) => s.setEntryBit k b false
  | none => s

/-- A BOOL entry. -/
def State.flag (s : State) (key : Nat) : Bool := s.entry key ≠ 0

/-! ### Free values -/

/-- A fresh free value, and the state after the draw. -/
def State.draw (s : State) : Nat × State :=
  (Config.free s.freeIndex, { s with freeIndex := s.freeIndex + 1 })

/-- n fresh bytes. -/
def State.drawBytes (s : State) (n : Nat) : Bytes × State :=
  (leBytes n s.draw.1, s.draw.2)

/-- A free value cast into 1 to 2^w - 1 without the value `prev`: never 0 and never the previous one (R60, R419). -/
def nonzeroOther (w prev f : Nat) : Nat :=
  if prev = 0 then 1 + f % (2 ^ w - 1)
  else
    let x := 1 + f % (2 ^ w - 2)
    if prev ≤ x then x + 1 else x

/-! ### What leaves the device -/

/-- Issue something to the outside. -/
def State.emit (s : State) (e : Emission) : State := { s with out := s.out ++ [e] }

/-- Raise an imprecise notice (R368). -/
def State.notice (s : State) (cls : Nat) (unit slice : UnitId) (epoch : Nat) : State :=
  { s with notices := s.notices ++ [{ cls := cls, unit := unit, slice := slice, epoch := BitVec.ofNat 16 epoch, time := s.timestamp }] }

/-! ### Units -/

/-- UnitHealth State of a unit: 0 in service, 1 fenced, 2 self-test (R653). -/
def State.health (s : State) (u : UnitId) : Nat :=
  match healthIndex u with
  | some i => s.entry (i * 256 + 1)
  | none => 0

/-- Set UnitHealth State. -/
def State.setHealth (s : State) (u : UnitId) (v : Nat) : State :=
  match healthIndex u with
  | some i => s.setEntry (i * 256 + 1) v
  | none => s

/-- The unit is neither fenced nor under self-test (R633). -/
def State.inService (s : State) (u : UnitId) : Bool := s.health u = 0

/-- Unit IDs by class (R16). -/
def uWick (w : Nat) : UnitId := unitOf 1 w
def uIsland (w : Nat) : UnitId := unitOf 2 w
def uSconce (c : Nat) : UnitId := unitOf 3 c
def uTaper (t : Nat) : UnitId := unitOf 4 t
def uDigester (d : Nat) : UnitId := unitOf 5 d
def uSealer (n : Nat) : UnitId := unitOf 6 n
def uOctet (o : Nat) : UnitId := unitOf 7 o
def uChannel (c : Nat) : UnitId := unitOf 8 c
def uHub : UnitId := unitOf 9 0
def uLamplighter : UnitId := unitOf 10 0
def uEntropy : UnitId := unitOf 11 0
def uVault : UnitId := unitOf 12 0
def uTamper : UnitId := unitOf 13 0
def uHost (l : Nat) : UnitId := unitOf 14 l
def uStream (s : Nat) : UnitId := unitOf 15 s
def uSlice (s : Nat) : UnitId := unitOf 16 s
def uQueue (q : Nat) : UnitId := unitOf 17 q
def uPilot : UnitId := unitOf 18 0

/-- The sconce of a wick (R16). -/
def sconceOf (w : Nat) : Nat := w / 16

/-! ### Records by number -/

/-- A session that was never opened (R59). -/
def Session.free : Session :=
  { state := .free, gen := 0, lastGen := 0, slice := 0, params := [], opening := false, checks := [], pkRoots := [], closedAt := 0 }

def State.session (s : State) (n : Nat) : Session := Table.get (fun _ => Session.free) s.sessions n
def State.setSession (s : State) (n : Nat) (x : Session) : State :=
  { s with sessions := Table.set (fun _ => Session.free) s.sessions n x }

/-- A queue slot's machinery at rest (R388). -/
def Queue.idle : Queue :=
  { scanned := 0, fetched := 0, cache := [], runs := [], range := { start := 0, len := 0, reread := [] }, stopped := true,
    rereadDue := none, done := [], irqDue := false, ackDue := false, credit := 0, inRound := false, ackCmd := 0, ackToken := 0, ackResult := 0,
    ackFetch := 0, aborting := none, doorbells := [], visit := 0, burst := 8, limit := 256 }

/-- Every run in flight is to be discarded when it returns (R398, R399). -/
def Queue.dropRuns (q : Queue) : Queue := { q with runs := q.runs.map fun r => { r with dropped := true } }

def State.queue (s : State) (g : Nat) : Queue := Table.get (fun _ => Queue.idle) s.queues g
def State.setQueue (s : State) (g : Nat) (q : Queue) : State :=
  { s with queues := Table.set (fun _ => Queue.idle) s.queues g q }

/-- An MSI-X table entry after a function reset (R408); its address and data are a choice of the model (log 8). -/
def MsixEntry.reset : MsixEntry := { address := 0, data := 0, masked := true }

/-- A host function after a function reset (R408). -/
def HostFn.reset : HostFn :=
  { pasidEnable := false, msixEnable := false, functionMask := false, power := .d0, ready := false, held := [], msix := [], pendingVectors := [] }

def State.fn (s : State) (l : Nat) : HostFn := Table.get (fun _ => HostFn.reset) s.fns l
def State.setFn (s : State) (l : Nat) (f : HostFn) : State :=
  { s with fns := Table.set (fun _ => HostFn.reset) s.fns l f }

/-- A stream that is disabled (R421). -/
def Stream.off : Stream :=
  { lastEpoch := 0, epochDue := false, txSeq := 0, rxSeq := 0, rxAcked := 0, unacked := [], retries := 0, window := 0, consumed := 0, committed := none,
    readyEnd := 0, ackedEnd := 0, ackedRsn := 0, steps := [], buffer := 0, records := [], nextRsn := 0, stopRsn := none,
    filling := false, flush := false, arriving := none, ordinal := 0, feedOffset := 0, dropping := false, stopping := false,
    earlyWarning := false, heardAt := 0, timedOut := false, statusDue := false, statusAt := 0, marksSent := [], marksHeld := [], lastChain := none, starves := 0,
    currentJob := none, passing := [], passed := 0, passedRsn := none }

def State.stream (s : State) (n : Nat) : Stream := Table.get (fun _ => Stream.off) s.streams n
def State.setStream (s : State) (n : Nat) (x : Stream) : State :=
  { s with streams := Table.set (fun _ => Stream.off) s.streams n x }

/-- The shroud generator without a key (R316). -/
def Shroud.off : Shroud := { keyed := false, fifo := 0, produced := 0, consumed := 0, due := [], got := 0, rekeying := false }

/-- A wick that has served nothing. -/
def Wick.fresh : Wick :=
  { g := [], pc := 0, napCtl := 0, mod := 0, fvIdle := 0, mpu := [], mpuEpoch := 0, gmask := 0, pmem := [], dmem := [], wkr := 0,
    wkrAlg := 0, keyed := false, sponge := Sponge.cleared, dma := [], writeBuffer := [], gangIn := [], gangOut := none, sregs := [],
    stags := 0, fregs := [], island := .off, idleCount := 0, shroud := Shroud.off, svBeats := 0, svmBeats := 0, cycles := 0,
    gReady := [], sReady := [], fReady := [], svFree := 0, spongeFree := 0, hint := 0, hints := [], napping := false, stall := .none, doneWith := none, report := none, program := none, job := none, gang := false, order2 := false, taper := none,
    resident := none, lastSlice := none }

def State.wick (s : State) (w : Nat) : Wick := Table.get (fun _ => Wick.fresh) s.wicks w
def State.setWick (s : State) (w : Nat) (x : Wick) : State :=
  { s with wicks := Table.set (fun _ => Wick.fresh) s.wicks w x }

/-- A taper after its wipe (R213). -/
def Taper.wiped : Taper :=
  { memory := [], rowB := [], rowN := [], q := 0, acc := 0, carry := false, zero := false, borrow := false, latch := false,
    blind := 0, nPrime := 0, pointers := [], indices := [], counters := [], stack := [],
    cmpEq := false, run2 := false, jobBits := 0, firstUse := false, keyPath := [], staging := [], entry := 0, address := 0,
    waiting := none, slotLength := 0, modulus := 0, runs := [], prepared := false, strikeRule := 0, cleanJobs := 0, ended := false, mustWipe := false, job := none }

def State.taper (s : State) (t : Nat) : Taper := Table.get (fun _ => Taper.wiped) s.tapers t
def State.setTaper (s : State) (t : Nat) (x : Taper) : State :=
  { s with tapers := Table.set (fun _ => Taper.wiped) s.tapers t x }

/-- A sealer with a cleared key register, bound to its home octet (R31, R226). -/
def Sealer.idle (n : Nat) : Sealer :=
  { octet := n, key := none, hashKey := [], job := none, object := none, salt := 0, epoch := 0, nextSegment := 0, data := [] }

def State.sealer (s : State) (n : Nat) : Sealer := Table.get Sealer.idle s.sealers n
def State.setSealer (s : State) (n : Nat) (x : Sealer) : State :=
  { s with sealers := Table.set Sealer.idle s.sealers n x }

/-- A digest context that is closed (R245). -/
def DigestContext.closed : DigestContext :=
  { gen := 0, session := 0, slice := 0, alg := 0, outLen := 0, secret := false, attach := .none, absorbing := false, absorbed := [],
    result := none, finishJobs := [], lastItem := 0, objectJob := none, isOpen := false }

/-- The octet a digester is bound to (R256). -/
def State.digesterOctet (s : State) (d : Nat) : Nat := Table.get id s.digesterOctets d

/-- Digest contexts are numbered digester × 64 + context. -/
def State.context (s : State) (k : Nat) : DigestContext := Table.get (fun _ => DigestContext.closed) s.contexts k
def State.setContext (s : State) (k : Nat) (x : DigestContext) : State :=
  { s with contexts := Table.set (fun _ => DigestContext.closed) s.contexts k x }

/-- A vault slot's key, none while it is empty (R463, R465). -/
def State.vaultKey (s : State) (n : Nat) : Option VaultKey :=
  (s.vault.find? (fun p => p.1 = n)).map (·.2)

/-- A table with one key listed or unlisted. -/
def putOption {α : Type} (t : Table α) (k : Nat) (v : Option α) : Table α :=
  let below := t.filter (fun p => p.1 < k)
  let above := t.filter (fun p => k < p.1)
  match v with
  | some x => below ++ (k, x) :: above
  | none => below ++ above

def State.setVaultKey (s : State) (n : Nat) (v : Option VaultKey) : State := { s with vault := putOption s.vault n v }

/-! ### Jobs -/

def State.findJob (s : State) (id : Nat) : Option Job := s.jobs.find? (fun j => j.id = id)

/-- Change one fetched job. -/
def State.modJob (s : State) (id : Nat) (f : Job → Job) : State :=
  { s with jobs := s.jobs.map fun j => if j.id = id then f j else j }

def State.dropJob (s : State) (id : Nat) : State := { s with jobs := s.jobs.filter (fun j => j.id ≠ id) }

/-- A field of the session parameter block a job runs under (R63). -/
def State.param (s : State) (session off n : Nat) : Nat := field (s.session session).params off n

def Session.kind (x : Session) : Nat := field x.params 0 1
def Session.ingest (x : Session) : Nat := field x.params 1 1
def Session.segExp (x : Session) : Nat := field x.params 2 1
def Session.manifestAlg (x : Session) : Nat := field x.params 3 1
def Session.signA (x : Session) : Nat := field x.params 4 1
def Session.signB (x : Session) : Nat := field x.params 5 1
def Session.signMode (x : Session) : Nat := field x.params 6 1
def Session.recipients (x : Session) : Nat := field x.params 7 1
def Session.mediaStream (x : Session) : Nat := field x.params 8 2
def Session.feedStream (x : Session) : Nat := field x.params 10 2
def Session.directAlg (x : Session) : Nat := field x.params 12 1
/-- KEY_A to KEY_D, by number 0 to 3. -/
def Session.keyRef (x : Session) (k : Nat) : Nat := field x.params (16 + 8 * k) 8
/-- Recipient entry n (R66). -/
def Session.recipient (x : Session) (n : Nat) : Bytes := cut x.params (64 + 48 * n) 48

/-- KIND and VALUE of a key reference (R67). -/
def refKind (r : Nat) : Nat := bitsOf r 63 60
def refValue (r : Nat) : Nat := bitsOf r 59 0

/-! ### Slices, host windows -/

/-- Link and PASID of a slice (R380). -/
def State.sliceLink (s : State) (n : Nat) : Nat := s.entry (Key.sliceHostLink n)
def State.slicePasid (s : State) (n : Nat) : BitVec 32 := BitVec.ofNat 32 (s.entry (Key.sliceHostPasid n))

/-- A host window (R364) holds a whole range and grants the direction. -/
def windowGrants (w addr len : Nat) (rd wr : Bool) : Bool :=
  let size := 2 ^ bitsOf w 11 6
  let base := bitsOf w 63 12 * 4096
  bitOf w 0 && (!rd || bitOf w 5) && (!wr || bitOf w 4) && base ≤ addr && addr + len ≤ base + size

/-- One host window of the slice contains the range whole with its direction granted (R363, R365); a range of length 0 needs none. -/
def State.hostAllows (s : State) (slc addr len : Nat) (rd wr : Bool) : Bool :=
  len = 0 || (List.range 64).any fun n => windowGrants (s.entry (Key.hostWindowsWindow slc n)) addr len rd wr

/-- The slice's window in the reservoir since the last entry to LIT: base and size (R347). -/
def State.windowOf (s : State) (slc : Nat) : Nat × Nat := Table.get (fun _ => (0, 0)) s.windows slc

/-- The rule epoch of a slice's host windows (R369). -/
def State.windowEpoch (s : State) (slc : Nat) : Nat := s.entry (Key.hostWindowsEpoch slc)

/-- The octets a host link uses, as the last entry to LIT took them (R374, R411). -/
def State.linkOctets (s : State) (l : Nat) : List Nat :=
  let p := Table.get (fun _ => (0, 0)) s.links l
  (List.range p.2).map (p.1 + ·)

/-- The media mode of an octet, as the last entry to LIT took it (R414, R451). -/
def State.octetMode (s : State) (o : Nat) : Nat := Table.get (fun _ => 0) s.modes o

/-- The owner slice (R570). -/
def State.ownerSlice (s : State) : Nat := s.entry Key.sliceControlOwnerSlice

/-- The device is LIT. -/
def State.isLit (s : State) : Bool := s.power = .lit

/-! ### The reservoir -/

/-- The owner of the line at an address: a slice, or 512 for no slice (R42, R43). -/
def State.lineOwner (s : State) (a : Nat) : Nat :=
  let sessions := s.entry Key.reservoirLayoutSessionBase
  if a < s.layout.1 then
    match s.windows.find? fun p => p.2.1 ≤ a && a < p.2.1 + p.2.2 with
    | some p => p.1
    | none => 512
  else if a < sessions then
    match s.extents.find? fun e => e.base ≤ a && a < e.base + e.size with
    | some e => e.slice
    | none => 512
  else if a < s.entry Key.reservoirLayoutDumpBase then
    let x := s.session ((a - sessions) / 4096)
    if x.state = .free then 512 else x.slice
  else 512

/-- The seal key set of an owner (R339). -/
def State.sealKeys (s : State) (owner : Nat) : SealKeys :=
  let b := Table.get (fun _ => []) s.sealSets owner
  { k1 := cut b 0 32, k2 := cut b 32 32, kt := cut b 64 32 }

/-- The owner's number in a tag (R341). -/
def ownerCode (owner : Nat) : Nat := if owner < 512 then owner else 0xFFFF

/-- The 64 ciphertext bytes of a line, and its tag. -/
def State.lineCells (s : State) (line : Nat) : Bytes := Memory.read clearByte s.reservoir (64 * line) 64
def State.storedTag (s : State) (line : Nat) : Nat := Table.get (fun _ => 0) s.lineTags line

/-- Ciphertext and tag of a clear line (R342). -/
def isClear (cipher : Bytes) (tag : Nat) : Bool := tag = 0 && cipher.all (· = 0)

/-- What a channel read of a line's cells passes its check with (R341, R342, R345). -/
def State.lineChecks (s : State) (line : Nat) (cipher : Bytes) (tag : Nat) : Bool :=
  let o := s.lineOwner (64 * line)
  isClear cipher tag || (tag ≠ 0 && tag = lineTag (s.sealKeys o) line (ownerCode o) cipher)

/-- The 64 bytes a read of a line delivers: zeros of a clear line, and of one whose tag fails, which becomes a clear line (R340, R342, R345). -/
def State.linePlain (s : State) (line : Nat) : Bytes :=
  let c := s.lineCells line
  let t := s.storedTag line
  if isClear c t || !s.lineChecks line c t then List.replicate 64 0#8
  else unsealLine (s.sealKeys (s.lineOwner (64 * line))) line c

/-- Write 64 bytes through the seal (R340, R341). -/
def State.writeLine (s : State) (line : Nat) (plain : Bytes) : State :=
  let o := s.lineOwner (64 * line)
  let c := sealLine (s.sealKeys o) line plain
  { s with reservoir := Memory.write clearByte s.reservoir (64 * line) c, lineTags := Table.set (fun _ => 0) s.lineTags line (lineTag (s.sealKeys o) line (ownerCode o) c) }

/-- The lines that n bytes from an address lie on (R338). -/
def linesOf (a n : Nat) : List Nat := if n = 0 then [] else span (a / 64) ((a + n - 1) / 64 - a / 64 + 1)

/-- n bytes of the reservoir (R338, R340). -/
def State.readReservoir (s : State) (a n : Nat) : Bytes := cut ((linesOf a n).flatMap s.linePlain) (a % 64) n

/-- A line's 64 bytes with those in place that bytes written from an address put on it. -/
def patchLine (line : Nat) (old : Bytes) (a : Nat) (b : Bytes) : Bytes :=
  let first := max a (64 * line)
  let last := min (a + b.length) (64 * line + 64)
  old.take (first - 64 * line) ++ cut b (first - a) (last - first) ++ old.drop (last - 64 * line)

/-- Write bytes to the reservoir, by whole lines (R338, R340). -/
def State.writeReservoir (s : State) (a : Nat) (b : Bytes) : State :=
  (linesOf a b.length).foldl (fun s l => s.writeLine l (patchLine l (s.linePlain l) a b)) s

/-- Rewrite whole lines as clear lines (R342 to R345). -/
def State.clearLines (s : State) (a n : Nat) : State :=
  { s with reservoir := Memory.clear s.reservoir a n, lineTags := s.lineTags.filter fun p => 64 * p.1 < a || a + n ≤ 64 * p.1 }

/-! ### Life cycle and device state -/

/-- The monotonic counter rises by 1 (R508). R23 does not let it wrap, and the counter never falls: at its last value it stays, which the spec does not say (log 60). -/
def State.countLife (s : State) : State := s.setEntry Key.lifeCycleCounter (min (s.entry Key.lifeCycleCounter + 1) (2 ^ 64 - 1))

/-- Life-cycle codes (R501). -/
def lcRaw : Nat := 0x0000
def lcTest : Nat := 0x0C3A
def lcProvision : Nat := 0xACBA
def lcField : Nat := 0xEEBB
def lcRetired : Nat := 0xFFBF
def lcScrap : Nat := 0xFFFF

/-- The bitwise majority of three copies (R502). -/
def majority (a b c : BitVec 16) : BitVec 16 := (a &&& b) ||| (a &&& c) ||| (b &&& c)

/-- The state a majority stands for: a code of R501, else SCRAP (R502). -/
def lifeCode (m : BitVec 16) : Nat :=
  if [lcRaw, lcTest, lcProvision, lcField, lcRetired].contains m.toNat then m.toNat else lcScrap

/-- The life-cycle state: that of the copies as read at the last boot (R502). -/
def State.lifeCycle (s : State) : Nat :=
  let r := s.roots.copiesRead
  lifeCode (majority (r.extractLsb' 0 16) (r.extractLsb' 16 16) (r.extractLsb' 32 16))

/-- HALT is latched in the pilot (R612). -/
def State.haltLatched (s : State) : Bool := s.flag Key.tamperStatusHaltLatched

/-- ALERT_N is low: the device is stopped after a FATAL event, or HALT is latched (R656). -/
def State.alertLow (s : State) : Bool := s.fatal.isSome || s.haltLatched

/-- DeviceState (R560). -/
def State.deviceState (s : State) : Nat :=
  match s.fatal with
  | some f => if f.served then 4 else f.before.toNat
  | none =>
    if s.haltLatched then 4
    else if s.lifeCycle = lcScrap then 7
    else match s.power with
    | .lit => 1
    | .low => 2
    | .dark => 3
    | .cell => 3
    | .halted => 4
    | .booting => if s.hop.server = some .rom then 5 else if s.lifeCycle = lcRetired && s.hop.server = some .firmware then 6 else 0

/-- The hub is powered with its rails in range and the main reset released (R579, R661). -/
def State.hubOn (s : State) : Bool :=
  (s.power = .lit || s.power = .low || s.power = .booting) && s.supplies.mainEn && s.supplies.rails = 0xFF

/-- One hub cycle passes where the hub clock runs (R35). -/
def State.passCycle (s : State) : State := if s.hubOn then { s with hubCycle := s.hubCycle + 1 } else s

end Sys2Proof.Machine
end

