-- ==== Sys2Proof/Machine/ArbiterOps.lean ====
section
/-! DEFINITION. The reservoir's channels and arbiters: the granule map (R336), floor credits (R354), the choice of a winner (R356 to R359), and turn hints (R360). -/

namespace Sys2Proof.Machine

/-- The channel of a reservoir address (R336). -/
def channelOf (a : Nat) : Nat :=
  let g := a / 256
  bitsOf g 5 0 ^^^ bitsOf g 11 6 ^^^ bitsOf g 17 12 ^^^ bitsOf g 23 18 ^^^ bitsOf g 29 24

/-- The local byte address of a reservoir address in its channel (R336). -/
def channelAddr (a : Nat) : Nat := a / 16384 * 256 + a % 256

/-- The address, in the same channel, of the tag of the line at a local address: 8 bytes for 64, above the usable addresses (R334, R336). -/
def tagAddr (v : Variant) (l : Nat) : Nat := (match v with | .a256 => 0xE0000000 | .a128 => 0x70000000) + 8 * (l / 64)

/-- An arbiter that has granted nothing. -/
def Arbiter.idle : Arbiter := { grants := 0, recent := [], waiting := [], lastGrant := [], credit := [], creditAt := 0 }

/-- Arbiters 0 to 63 are the channels', 64 to 113 those of the crossbar output ports (R356). -/
def State.arbiter (s : State) (c : Nat) : Arbiter := Table.get (fun _ => Arbiter.idle) s.arbiters c
def State.setArbiter (s : State) (c : Nat) (x : Arbiter) : State :=
  { s with arbiters := Table.set (fun _ => Arbiter.idle) s.arbiters c x }

/-- A requester as a number: a slice, or 512 for the device (R356). -/
def requesterNo (r : Option (Fin 512)) : Nat := match r with | some n => n.val | none => 512

/-- The order of ties: the device, then slices (R358). -/
def tieOrder (r : Nat) : Nat := if r = 512 then 0 else r + 1

/-- A requester's floor in MB/s: the device has 10 GB/s (R353). -/
def State.floorOf (s : State) (r : Nat) : Nat := if r = 512 then 10000 else s.entry (Key.reservoirSliceFloorMBps r)

/-- A requester's priority (R358). -/
def State.priorityOf (s : State) (r : Nat) : Nat := if r = 512 then 4 else s.entry (Key.reservoirSlicePriority r)

/-- One byte of floor credit: with it, a floor of F MB/s gains F per hub cycle (R354). -/
def creditByte : Nat := 76800

/-- A credit after n more cycles (R354). -/
def grown (credit rate n : Nat) : Nat := min (4096 * creditByte) (credit + rate * n)

/-- Every requester's credit is brought up to a cycle. -/
def State.growCredits (s : State) (x : Arbiter) (now : Nat) : Arbiter :=
  let n := now - x.creditAt
  if n = 0 then x else
  let credit := (List.range 513).foldl (fun (t : Table Nat) r =>
    let f := s.floorOf r
    if f = 0 then t else Table.set (fun _ => 0) t r (grown (Table.get (fun _ => 0) t r) f n)) x.credit
  { x with credit := credit, creditAt := now }

/-- The requesters with requests waiting, in the order of ties. -/
def Arbiter.requesters (x : Arbiter) : List Nat :=
  ((512 :: List.range 512).filter fun r => x.waiting.any fun q => requesterNo q.requester = r)

/-- The oldest waiting request of a requester. -/
def Arbiter.oldest (x : Arbiter) (r : Nat) : Option ChannelRequest := x.waiting.find? fun q => requesterNo q.requester = r

/-- The waiting age (R357). -/
def Arbiter.age (x : Arbiter) (r now : Nat) : Nat :=
  let arrived := match x.oldest r with | some q => q.arrival | none => now
  now - max (Table.get (fun _ => 0) x.lastGrant r) arrived

/-- A requester is below its floor (R354). -/
def Arbiter.belowFloor (x : Arbiter) (r : Nat) : Bool := 64 * creditByte ≤ Table.get (fun _ => 0) x.credit r

/-- The first of a list with the greatest measure. -/
def greatest (f : Nat → Nat × Nat) : List Nat → Option Nat
  | [] => none
  | r :: l => match greatest f l with
    | none => some r
    | some m => if (f r).1 < (f m).1 || ((f r).1 = (f m).1 && (f r).2 < (f m).2) then some m else some r

/-- How step 2 of R358 ranks a requester: a steady slice above every other (R573). -/
def State.lowRank (s : State) (r : Nat) : Nat := s.priorityOf r + if r < 512 && s.flag (Key.sliceConfigSteady r) then 256 else 0

/-- The winner by steps 2 and 3 of R358, and whether step 2 chose it. -/
def State.byPriority (s : State) (x : Arbiter) (now : Nat) : Option (Nat × Bool) :=
  let rs := x.requesters
  let low := rs.filter x.belowFloor
  if low.isEmpty then (greatest (fun r => (s.priorityOf r, x.age r now)) rs).map fun r => (r, false)
  else (greatest (fun r => (s.lowRank r, x.age r now)) low).map fun r => (r, true)

/-- The winner of grant number k and the step that chose it (R358). -/
def State.winner (s : State) (x : Arbiter) (now k : Nat) : Option (Nat × Nat) :=
  if k % s.entry Key.arbitrationLongestWaiterN = 0 then (greatest (fun r => (x.age r now, 0)) x.requesters).map fun r => (r, 1)
  else (s.byPriority x now).map fun p => (p.1, if p.2 then 2 else 3)

/-- Remove a requester's oldest request. -/
def dropOldest (r : Nat) : List ChannelRequest → List ChannelRequest
  | [] => []
  | q :: l => if requesterNo q.requester = r then l else q :: dropOldest r l

/-- The arbiter after a grant to a requester in a cycle (R354, R357, R360). -/
def Arbiter.grant (x : Arbiter) (r now : Nat) : Arbiter :=
  let lines := match x.oldest r with | some q => q.lines | none => 0
  { x with grants := x.grants + 1, recent := (now :: x.recent).take 16, waiting := dropOldest r x.waiting, lastGrant := Table.set (fun _ => 0) x.lastGrant r now, credit := Table.set (fun _ => 0) x.credit r (Table.get (fun _ => 0) x.credit r - 64 * creditByte * lines) }

/-- Gm: the mean of the cycles between the last 16 grants, rounded down (R360); none while there are fewer than two. -/
def Arbiter.meanGap (x : Arbiter) : Option Nat :=
  match x.recent, x.recent.getLast? with
  | a :: _ :: _, some z => some ((a - z) / (x.recent.length - 1))
  | _, _ => none

/-- The number of grants until each requester still waiting would win (R360): grants every Gm cycles, credit growing, no new arrivals. -/
def State.winsAfter (s : State) (gap : Nat) : Nat → Nat → Arbiter → Nat → List (Nat × Nat) → List (Nat × Nat)
  | 0, _, _, _, found => found
  | fuel + 1, k, x, now, found =>
    let t := now + gap
    let y := s.growCredits x t
    match s.winner y t (y.grants + 1) with
    | none => found
    | some (r, _) =>
      let found := if found.any (fun p => p.1 = r) then found else found ++ [(r, k + 1)]
      if x.requesters.all fun q => found.any fun p => p.1 = q then found
      else s.winsAfter gap fuel (k + 1) (y.grant r t) t found

/-! ### Crossbar ports -/

/-- The winner among the requests at a crossbar port by a cycle: grants whose number is a multiple of N go by waiting age, others by priority and then age (R361, steps 1 and 3 of R358). -/
def State.portWinner (s : State) (x : Arbiter) (now k : Nat) : Option Nat :=
  let rs := x.requesters
  if k % s.entry Key.arbitrationLongestWaiterN = 0 then greatest (fun r => (x.age r now, 0)) rs
  else greatest (fun r => (s.priorityOf r, x.age r now)) rs

/-- A port grants one request in each hub cycle before `now` in which it has one waiting (R361, log 13). -/
def State.portRun (s : State) (now : Nat) : Nat → Arbiter → Arbiter
  | 0, x => x
  | fuel + 1, x =>
    let t := match x.waiting, x.recent with
      | q :: _, last :: _ => max q.arrival (last + 1)
      | q :: _, [] => q.arrival
      | [], _ => now
    if now ≤ t then x else
    match s.portWinner { x with waiting := x.waiting.filter fun q => q.arrival ≤ t } t (x.grants + 1) with
    | none => x
    | some r => s.portRun now fuel (x.grant r t)

/-- A port brought up to a cycle. -/
def State.settlePort (s : State) (now port : Nat) : State :=
  let y := s.arbiter (64 + port)
  s.setArbiter (64 + port) (s.portRun now y.waiting.length y)

/-- Channels' credits and ports' grants are brought up to the present cycle, before a floor, a priority or N changes (R350, R359). -/
def State.settleArbiters (s : State) : State :=
  let s := (List.range 64).foldl (fun s c => s.setArbiter c (s.growCredits (s.arbiter c) s.hubCycle)) s
  (List.range 50).foldl (fun s p => s.settlePort (s.hubCycle + 1) p) s

end Sys2Proof.Machine
end

