-- ==== Sys2Proof/Machine/HashSig.lean ====
section
/-! DEFINITION. The hash-based signatures: SLH-DSA (FIPS 205) with the sets of R148, its records of the lantern cache (R157 to R159), and the verification of HSS/LMS and XMSS (R172, R173). The spec names the standards and does not reproduce them (log 3, PRESUMED). -/

namespace Sys2Proof.Machine

/-- n-byte pieces of a string. -/
def pieces (n k : Nat) (b : Bytes) : List Bytes := (List.range k).map fun i => cut b (n * i) n
/-- The i-th number of w bits of a string, the first highest. -/
def digitAt (w : Nat) (b : Bytes) (i : Nat) : Nat := beNat b / 2 ^ (8 * b.length - w * (i + 1)) % 2 ^ w
/-- The Winternitz digits of a digest of n bytes at w bits, and of their checksum in c digits. -/
def winternitz (w c : Nat) (m : Bytes) : List Nat :=
  let d := (List.range (8 * m.length / w)).map (digitAt w m)
  let sum := (d.map fun x => 2 ^ w - 1 - x).sum
  d ++ (List.range c).reverse.map fun i => sum / 2 ^ (w * i) % 2 ^ w

/-! ### SLH-DSA -/

/-- A set of R148, with whether its hashes are SHAKE. -/
structure SlhSet where
  n : Nat
  h : Nat
  d : Nat
  height : Nat
  a : Nat
  k : Nat
  m : Nat
  shake : Bool
  deriving DecidableEq, Repr

/-- The set of an algorithm ID (R148). -/
def slhSet (id : Nat) : SlhSet :=
  let shake := id % 2 = 1
  if id ≤ 0x31 then { n := 16, h := 63, d := 7, height := 9, a := 12, k := 14, m := 30, shake := shake }
  else if id ≤ 0x33 then { n := 16, h := 66, d := 22, height := 3, a := 6, k := 33, m := 34, shake := shake }
  else if id ≤ 0x35 then { n := 24, h := 63, d := 7, height := 9, a := 14, k := 17, m := 39, shake := shake }
  else if id ≤ 0x37 then { n := 24, h := 66, d := 22, height := 3, a := 8, k := 33, m := 42, shake := shake }
  else if id ≤ 0x39 then { n := 32, h := 64, d := 8, height := 8, a := 14, k := 22, m := 47, shake := shake }
  else { n := 32, h := 68, d := 17, height := 4, a := 9, k := 35, m := 49, shake := shake }

/-- The chains of a WOTS+ key: 2n digits and three of the checksum (R148). -/
def SlhSet.len (p : SlhSet) : Nat := 2 * p.n + 3

/-- An address: layer, tree, type and three words. -/
structure SlhAdrs where
  layer : Nat
  tree : Nat
  type : Nat := 0
  w1 : Nat := 0
  w2 : Nat := 0
  w3 : Nat := 0
  deriving DecidableEq, Repr

/-- The bytes of an address: whole for SHAKE, compressed for SHA-2. -/
def SlhAdrs.bytes (x : SlhAdrs) (shake : Bool) : Bytes :=
  (if shake then beBytes 4 x.layer ++ beBytes 12 x.tree ++ beBytes 4 x.type else beBytes 1 x.layer ++ beBytes 8 x.tree ++ beBytes 1 x.type) ++
    beBytes 4 x.w1 ++ beBytes 4 x.w2 ++ beBytes 4 x.w3

/-- PRF, F, H and T of FIPS 205 over an address and a message; `wide` marks H and T, which take SHA-512 above n = 16. -/
def SlhSet.hash (p : SlhSet) (seed : Bytes) (x : SlhAdrs) (wide : Bool) (m : Bytes) : Bytes :=
  if p.shake then shake256 (seed ++ x.bytes true ++ m) p.n
  else if wide && 16 < p.n then (sha512 (seed ++ List.replicate (128 - p.n) 0#8 ++ x.bytes false ++ m)).take p.n
  else (sha256 (seed ++ List.replicate (64 - p.n) 0#8 ++ x.bytes false ++ m)).take p.n
/-- The randomiser of a message. -/
def SlhSet.prfMsg (p : SlhSet) (skPrf rnd m : Bytes) : Bytes :=
  if p.shake then shake256 (skPrf ++ rnd ++ m) p.n
  else (if p.n = 16 then hmacOf sha256 64 skPrf (rnd ++ m) else hmacOf sha512 128 skPrf (rnd ++ m)).take p.n
/-- The digest of a message. -/
def SlhSet.hashMsg (p : SlhSet) (r seed root m : Bytes) : Bytes :=
  if p.shake then shake256 (r ++ seed ++ root ++ m) p.m
  else if p.n = 16 then mgf1 sha256 32 (r ++ seed ++ sha256 (r ++ seed ++ root ++ m)) p.m
  else mgf1 sha512 64 (r ++ seed ++ sha512 (r ++ seed ++ root ++ m)) p.m

/-- SK.seed, SK.prf, PK.seed and, once known, PK.root. -/
structure SlhKey where
  skSeed : Bytes
  skPrf : Bytes
  pkSeed : Bytes
  deriving DecidableEq, Repr

/-- A chain from step i over n steps. -/
def SlhSet.chain (p : SlhSet) (seed : Bytes) (x : SlhAdrs) (m : Bytes) (i n : Nat) : Bytes :=
  (span i n).foldl (fun m j => p.hash seed { x with type := 0, w3 := j } false m) m
/-- The secret start of chain i of a WOTS+ key. -/
def SlhSet.chainStart (p : SlhSet) (k : SlhKey) (x : SlhAdrs) (i : Nat) : Bytes := p.hash k.pkSeed { x with type := 5, w2 := i, w3 := 0 } false k.skSeed
/-- The WOTS+ public key of a leaf, whose number is the address's first word. -/
def SlhSet.leaf (p : SlhSet) (k : SlhKey) (x : SlhAdrs) : Bytes :=
  p.hash k.pkSeed { x with type := 1 } true ((List.range p.len).flatMap fun i => p.chain k.pkSeed { x with w2 := i } (p.chainStart k x i) 0 15)
/-- A WOTS+ signature on a value. -/
def SlhSet.wotsSign (p : SlhSet) (k : SlhKey) (x : SlhAdrs) (m : Bytes) : Bytes :=
  ((winternitz 4 3 m).zip (List.range p.len)).flatMap fun d => p.chain k.pkSeed { x with w2 := d.2 } (p.chainStart k x d.2) 0 d.1
/-- The WOTS+ public key that a signature gives. -/
def SlhSet.wotsFrom (p : SlhSet) (seed : Bytes) (x : SlhAdrs) (sig m : Bytes) : Bytes :=
  p.hash seed { x with type := 1 } true
    (((winternitz 4 3 m).zip (pieces p.n p.len sig)).zip (List.range p.len) |>.flatMap fun d => p.chain seed { x with w2 := d.2 } d.1.2 d.1.1 (15 - d.1.1))
/-- Node i at height z of a tree of a layer. -/
def SlhSet.node (p : SlhSet) (k : SlhKey) (layer tree : Nat) : Nat → Nat → Bytes
  | 0, i => p.leaf k { layer := layer, tree := tree, w1 := i }
  | z + 1, i => p.hash k.pkSeed { layer := layer, tree := tree, type := 2, w2 := z + 1, w3 := i } true (p.node k layer tree z (2 * i) ++ p.node k layer tree z (2 * i + 1))
/-- The root of a tree. -/
def SlhSet.root (p : SlhSet) (k : SlhKey) (layer tree : Nat) : Bytes := p.node k layer tree p.height 0
/-- The authentication path of a leaf. -/
def SlhSet.path (p : SlhSet) (k : SlhKey) (layer tree leaf : Nat) : Bytes := (List.range p.height).flatMap fun z => p.node k layer tree z (leaf / 2 ^ z ^^^ 1)
/-- The XMSS signature that a leaf of a tree makes on a value. -/
def SlhSet.xmss (p : SlhSet) (k : SlhKey) (layer tree leaf : Nat) (m : Bytes) : Bytes :=
  p.wotsSign k { layer := layer, tree := tree, w1 := leaf } m ++ p.path k layer tree leaf
/-- Climb from a node over the rest of a path: the pairs of siblings from height z on. -/
def climb (join : Nat → Nat → Bytes → Bytes) : List Bytes → Nat → Nat → Bytes → Bytes
  | [], _, _, v => v
  | s :: r, z, i, v => climb join r (z + 1) (i / 2) (join (z + 1) (i / 2) (if i % 2 = 0 then v ++ s else s ++ v))
/-- The root that an XMSS signature gives. -/
def SlhSet.xmssFrom (p : SlhSet) (seed : Bytes) (layer tree leaf : Nat) (sig m : Bytes) : Bytes :=
  climb (fun z i => p.hash seed { layer := layer, tree := tree, type := 2, w2 := z, w3 := i } true) (pieces p.n p.height (sig.drop (p.n * p.len))) 0 leaf
    (p.wotsFrom seed { layer := layer, tree := tree, w1 := leaf } (sig.take (p.n * p.len)) m)

/-- The secret value of a FORS leaf; `tree` and `leaf` name the WOTS+ key that signs the FORS key. -/
def SlhSet.forsSecret (p : SlhSet) (k : SlhKey) (tree leaf i : Nat) : Bytes := p.hash k.pkSeed { layer := 0, tree := tree, type := 6, w1 := leaf, w3 := i } false k.skSeed
/-- Node i at height z of the FORS trees. -/
def SlhSet.forsNode (p : SlhSet) (k : SlhKey) (tree leaf : Nat) : Nat → Nat → Bytes
  | 0, i => p.hash k.pkSeed { layer := 0, tree := tree, type := 3, w1 := leaf, w3 := i } false (p.forsSecret k tree leaf i)
  | z + 1, i => p.hash k.pkSeed { layer := 0, tree := tree, type := 3, w1 := leaf, w2 := z + 1, w3 := i } true (p.forsNode k tree leaf z (2 * i) ++ p.forsNode k tree leaf z (2 * i + 1))
/-- The FORS signature on the indexes of a digest. -/
def SlhSet.forsSign (p : SlhSet) (k : SlhKey) (tree leaf : Nat) (md : Bytes) : Bytes :=
  (List.range p.k).flatMap fun i =>
    let x := digitAt p.a md i
    p.forsSecret k tree leaf (i * 2 ^ p.a + x) ++ (List.range p.a).flatMap fun z => p.forsNode k tree leaf z (i * 2 ^ (p.a - z) + (x / 2 ^ z ^^^ 1))
/-- The FORS key that a signature gives. -/
def SlhSet.forsFrom (p : SlhSet) (seed : Bytes) (tree leaf : Nat) (sig md : Bytes) : Bytes :=
  let join := fun z i => p.hash seed { layer := 0, tree := tree, type := 3, w1 := leaf, w2 := z, w3 := i } true
  p.hash seed { layer := 0, tree := tree, type := 4, w1 := leaf } true
    ((List.range p.k).flatMap fun i =>
      let part := cut sig (p.n * (p.a + 1) * i) (p.n * (p.a + 1))
      let x := i * 2 ^ p.a + digitAt p.a md i
      climb join (pieces p.n p.a (part.drop p.n)) 0 x (p.hash seed { layer := 0, tree := tree, type := 3, w1 := leaf, w3 := x } false (part.take p.n)))

/-- The FORS digest, tree and leaf of a message digest. -/
def SlhSet.parts (p : SlhSet) (digest : Bytes) : Bytes × Nat × Nat :=
  let nmd := ceilDiv (p.k * p.a) 8
  let nt := ceilDiv (p.h - p.height) 8
  (digest.take nmd, beNat (cut digest nmd nt) % 2 ^ (p.h - p.height), beNat (cut digest (nmd + nt) (ceilDiv p.height 8)) % 2 ^ p.height)

/-- The seeds of a held λ: SHAKE256("PYRS-SLH" ‖ ALG ‖ λ, 3n) (R149). -/
def slhSeeds (id : Nat) (key : Bytes) : SlhKey :=
  let n := (slhSet id).n
  let b := shake256 (ascii "PYRS-SLH" ++ leBytes 1 id ++ key) (3 * n)
  { skSeed := b.take n, skPrf := cut b n n, pkSeed := b.drop (2 * n) }

/-- PK.root: the root of the single tree of layer d − 1 (R148, R149). -/
def slhRoot (id : Nat) (key : Bytes) : Bytes := (slhSet id).root (slhSeeds id key) ((slhSet id).d - 1) 0

/-- PK.seed ‖ PK.root of a key (R150). -/
def slhPublic (id : Nat) (key : Bytes) : Bytes := (slhSeeds id key).pkSeed ++ slhRoot id key

/-- The XMSS signatures of the layers from `layer` on: each signs the root of the tree below it. -/
def SlhSet.layers (p : SlhSet) (k : SlhKey) : Nat → Nat → Nat → Bytes → List Bytes
  | 0, _, _, _ => []
  | n + 1, layer, x, m =>
    let tree := x / 2 ^ p.height
    p.xmss k layer tree (x % 2 ^ p.height) m :: p.layers k n (layer + 1) tree (p.root k layer tree)

/-- A signature over the formatted message with PK.root as the session keeps it (R153, R154). `served` gives the XMSS signatures of the layers that the lantern cache serves (R158, R160). -/
def slhSignWith (id : Nat) (key root msg rnd : Bytes) (served : Nat → List Bytes) : Bytes :=
  let p := slhSet id
  let k := slhSeeds id key
  let r := p.prfMsg k.skPrf rnd msg
  let (md, tree, leaf) := p.parts (p.hashMsg r k.pkSeed root msg)
  let fors := p.forsSign k tree leaf md
  let upper := served tree
  r ++ fors ++ (p.layers k (p.d - upper.length) 0 (tree * 2 ^ p.height + leaf) (p.forsFrom k.pkSeed tree leaf fors md)).flatten ++ upper.flatten

/-- A signature without the cache. -/
def slhSignature (id : Nat) (key root msg rnd : Bytes) : Bytes := slhSignWith id key root msg rnd fun _ => []

/-- A signature verifies over the formatted message (R151). -/
def slhVerifies (id : Nat) (pk msg sig : Bytes) : Bool :=
  let p := slhSet id
  let seed := pk.take p.n
  let root := pk.drop p.n
  let fb := p.n * (p.a + 1) * p.k
  let xb := p.n * (p.len + p.height)
  let (md, tree, leaf) := p.parts (p.hashMsg (sig.take p.n) seed root msg)
  let start := p.forsFrom seed tree leaf (cut sig p.n fb) md
  let top := (List.range p.d).foldl (fun (v : Bytes × Nat) i =>
    let t := v.2 / 2 ^ p.height
    (p.xmssFrom seed i t (v.2 % 2 ^ p.height) (cut sig (p.n + fb + xb * i) xb) v.1, t)) (start, tree * 2 ^ p.height + leaf)
  sig.length = p.n + fb + xb * p.d && top.1 = root

/-! ### Lantern records -/

/-- The top layers whose trees have records: c of R158. -/
def lanternLayers (id : Nat) : Nat := if id ≤ 0x31 || id = 0x34 || id = 0x35 then 2 else if id ≤ 0x33 || id = 0x36 || id = 0x37 then 6 else if id ≤ 0x39 then 3 else 5

/-- B_j, the number of the first record of layer j: B_(d−1) = 0 and B_(j−1) = B_j + 2^(h′ (d − 1 − j)) (R159). -/
def lanternBase (id j : Nat) : Nat :=
  let p := slhSet id
  ((List.range (p.d - 1 - j)).map fun i => 2 ^ (p.height * i)).sum

/-- The record number of the tree with index t in layer j (R159). -/
def lanternNumber (id j t : Nat) : Nat := lanternBase id j + t

/-- The record bytes of a set: (len + h′ + 1) × n (R157). -/
def lanternRecord (id : Nat) : Nat := let p := slhSet id; (p.len + p.height + 1) * p.n

/-- The byte offset of a record in its extent (R159). -/
def lanternOffset (id j t : Nat) : Nat := lanternNumber id j t * lanternRecord id

/-- The lantern trees of a set: every tree in its top c layers (R157, R158). -/
def lanternTrees (id : Nat) : Nat := lanternBase id ((slhSet id).d - 1 - lanternLayers id)

/-- The trees of layer j. -/
def lanternWidth (id j : Nat) : Nat := let p := slhSet id; 2 ^ (p.height * (p.d - 1 - j))

/-- Task number n from a layer on: layers go upwards, and within one the trees by index (R163). -/
def lanternTaskFrom (id : Nat) : Nat → Nat → Nat → Nat × Nat
  | 0, j, n => (j, n)
  | f + 1, j, n => if n < lanternWidth id j then (j, n) else lanternTaskFrom id f (j + 1) (n - lanternWidth id j)

/-- The layer and the tree that a task of a build computes, one task per lantern tree (R163). -/
def lanternTask (id n : Nat) : Nat × Nat := lanternTaskFrom id (lanternLayers id) ((slhSet id).d - lanternLayers id) n

/-- The records that a task finishes, by layer and tree: those of the child trees, whose roots its tree's leaves sign, and the top tree's own (R157, R163). The lowest lantern layer finishes none: the trees below it have no record. -/
def lanternRecords (id j t : Nat) : List (Nat × Nat) :=
  let p := slhSet id
  (if p.d - lanternLayers id < j then (span (t * 2 ^ p.height) (2 ^ p.height)).map fun i => (j - 1, i) else []) ++ (if j = p.d - 1 then [(j, t)] else [])

/-- The tree in layer j on the path of a signature (R159). -/
def lanternIndex (id tree j : Nat) : Nat := tree / 2 ^ ((slhSet id).height * j)

/-- The record of tree t in layer j: its root, the WOTS+ signature its parent makes on that root and the authentication path of it; zeros for the top tree, whose root is PK.root (R157). -/
def lanternContent (id : Nat) (key : Bytes) (j t : Nat) : Bytes :=
  let p := slhSet id
  let k := slhSeeds id key
  let root := p.root k j t
  root ++ (if j = p.d - 1 then List.replicate ((p.len + p.height) * p.n) 0#8 else p.xmss k (j + 1) (t / 2 ^ p.height) (t % 2 ^ p.height) root)

/-- The layers that the cache serves, d − c + 1 to d − 1, and the records that hold them: of the trees one layer below on the path (R158, R159). -/
def lanternPath (id tree : Nat) : List Nat :=
  let p := slhSet id
  let c := lanternLayers id
  (span (p.d - c) (c - 1)).map fun j => lanternNumber id j (lanternIndex id tree j)

/-- The XMSS signature in a record: what follows the root (R157, R158). -/
def lanternSignature (id : Nat) (record : Bytes) : Bytes := record.drop (slhSet id).n

/-! ### LMS and HSS -/

/-- The hash of a parameter set: SHA-256 or SHAKE256, cut to n bytes. -/
def stateHash (shake : Bool) (n : Nat) (m : Bytes) : Bytes := if shake then shake256 m n else (sha256 m).take n

/-- The LMS types of R172: hash, n and height, by type code. -/
def lmsType (t : Nat) : Option (Bool × Nat × Nat) :=
  if 5 ≤ t && t ≤ 24 then some (15 ≤ t, (if (t - 5) / 5 % 2 = 0 then 32 else 24), 5 * ((t - 5) % 5 + 1)) else none
/-- The LM-OTS types of R172: hash, n and W, by type code. -/
def otsType (t : Nat) : Option (Bool × Nat × Nat) :=
  if 1 ≤ t && t ≤ 16 then some (9 ≤ t, (if (t - 1) / 4 % 2 = 0 then 32 else 24), 2 ^ ((t - 1) % 4)) else none

/-- A parsed LMS public key. -/
structure LmsKey where
  shake : Bool
  n : Nat
  h : Nat
  w : Nat
  types : Bytes
  id : Bytes
  root : Bytes
  deriving DecidableEq, Repr

/-- The bytes of an LMS public key whose types stand at its start, 0 for types of other sets. -/
def lmsKeySize (b : Bytes) : Nat := match lmsType (beNat (b.take 4)) with | some t => 24 + t.2.1 | none => 0

/-- Parse an LMS public key; its two types must use one hash (R172). -/
def lmsKey (b : Bytes) : Option LmsKey :=
  match lmsType (beNat (cut b 0 4)), otsType (beNat (cut b 4 4)) with
  | some t, some o =>
    if o.1 = t.1 && o.2.1 = t.2.1 && b.length = 24 + t.2.1 then
      some { shake := t.1, n := t.2.1, h := t.2.2, w := o.2.2, types := b.take 8, id := cut b 8 16, root := b.drop 24 }
    else none
  | _, _ => none

/-- The checksum digits of an LM-OTS set: v of RFC 8554. -/
def LmsKey.checks (k : LmsKey) : Nat := ceilDiv (((2 ^ k.w - 1) * (8 * k.n / k.w)).log2 + 1) k.w
/-- The chains of an LM-OTS set: p of RFC 8554. -/
def LmsKey.chains (k : LmsKey) : Nat := 8 * k.n / k.w + k.checks
/-- The bytes of an LM-OTS and of an LMS signature under a key. -/
def LmsKey.otsSize (k : LmsKey) : Nat := 4 + k.n * (k.chains + 1)
def LmsKey.sigSize (k : LmsKey) : Nat := 8 + k.otsSize + k.n * k.h

/-- An LMS signature verifies over a message (RFC 8554): the types repeat the key's, the leaf lies in the tree, and the path leads to the root. -/
def LmsKey.verify (k : LmsKey) (m sig : Bytes) : Bool :=
  let q := beNat (sig.take 4)
  let ots := cut sig 4 k.otsSize
  let rest := sig.drop (4 + k.otsSize)
  let hash := fun (mid b : Bytes) => stateHash k.shake k.n (k.id ++ mid ++ b)
  let digest := hash (beBytes 4 q ++ [0x81#8, 0x81#8]) (cut ots 4 k.n ++ m)
  let ends := ((winternitz k.w k.checks digest).zip (pieces k.n k.chains (ots.drop (4 + k.n)))).zip (List.range k.chains) |>.flatMap fun d =>
    (span d.1.1 (2 ^ k.w - 1 - d.1.1)).foldl (fun v j => hash (beBytes 4 q ++ beBytes 2 d.2 ++ beBytes 1 j) v) d.1.2
  let leaf := hash (beBytes 4 (2 ^ k.h + q) ++ [0x82#8, 0x82#8]) (hash (beBytes 4 q ++ [0x80#8, 0x80#8]) ends)
  let top := climb (fun _ i v => hash (beBytes 4 i ++ [0x83#8, 0x83#8]) v) (pieces k.n k.h (rest.drop 4)) 0 (2 ^ k.h + q) leaf
  sig.length = k.sigSize && ots.take 4 = k.types.drop 4 && rest.take 4 = k.types.take 4 && q < 2 ^ k.h && top = k.root

/-- An HSS signature from a level on: signed public keys, each verified by the one before it, then the signature on the message. -/
def hssWalk (m : Bytes) : Nat → LmsKey → Bytes → Bool
  | 0, k, sig => k.verify m sig
  | n + 1, k, sig =>
    let rest := sig.drop k.sigSize
    let size := lmsKeySize rest
    match lmsKey (rest.take size) with
    | some next => k.verify (rest.take size) (sig.take k.sigSize) && hssWalk m n next (rest.drop size)
    | none => false

/-- The levels and the top key of an HSS public key: 1 to 8 levels (R172). -/
def hssKey (pk : Bytes) : Option (Nat × LmsKey) :=
  let l := beNat (cut pk 0 4)
  if 1 ≤ l && l ≤ 8 then (lmsKey (pk.drop 4)).map fun k => (l, k) else none

/-- An HSS signature verifies; a malformed one does not (R173). -/
def hssVerify (pk m sig : Bytes) : Bool :=
  match hssKey pk with
  | some (l, k) => 4 ≤ sig.length && beNat (sig.take 4) = l - 1 && hssWalk m (l - 1) k (sig.drop 4)
  | none => false

/-! ### XMSS -/

/-- The single-tree sets of SP 800-208: hash, n and height, by OID (R172). -/
def xmssType (oid : Nat) : Option (Bool × Nat × Nat) :=
  let height := fun i => if i = 0 then 10 else if i = 1 then 16 else 20
  if 1 ≤ oid && oid ≤ 3 then some (false, 32, height (oid - 1))
  else if 0x0D ≤ oid && oid ≤ 0x0F then some (false, 24, height (oid - 0x0D))
  else if 0x10 ≤ oid && oid ≤ 0x12 then some (true, 32, height (oid - 0x10))
  else if 0x13 ≤ oid && oid ≤ 0x15 then some (true, 24, height (oid - 0x13))
  else none

/-- F, H, H_msg and PRF of SP 800-208, numbered 0 to 3: the number fills 32 bytes at n = 32 and 4 at n = 24. -/
def xmssHash (shake : Bool) (n use : Nat) (key m : Bytes) : Bytes := stateHash shake n (beBytes (if n = 32 then 32 else 4) use ++ key ++ m)
/-- An address of RFC 8391 with its last four words. -/
def xmssAdrs (type w1 w2 w3 mask : Nat) : Bytes := beBytes 12 0 ++ [type, w1, w2, w3, mask].flatMap (beBytes 4)
/-- The randomised hash of two nodes. -/
def xmssJoin (shake : Bool) (n : Nat) (seed : Bytes) (type w1 height index : Nat) (pair : Bytes) : Bytes :=
  let prf := fun mask => xmssHash shake n 3 seed (xmssAdrs type w1 height index mask)
  xmssHash shake n 1 (prf 0) (xorBytes pair (prf 1 ++ prf 2))
/-- The L-tree over the ends of the chains, level by level. -/
def xmssLevel (join : Nat → Bytes → Bytes) : Nat → List Bytes → List Bytes
  | i, a :: b :: r => join i (a ++ b) :: xmssLevel join (i + 1) r
  | _, l => l
def xmssLtree (join : Nat → Nat → Bytes → Bytes) : Nat → Nat → List Bytes → Bytes
  | 0, _, l => l.headD []
  | f + 1, z, l => if l.length ≤ 1 then l.headD [] else xmssLtree join f (z + 1) (xmssLevel (join z) 0 l)

/-- An XMSS signature verifies; a malformed one does not (RFC 8391, R173). -/
def xmssVerify (pk m sig : Bytes) : Bool :=
  match xmssType (beNat (cut pk 0 4)) with
  | none => false
  | some (shake, n, h) =>
    let len := 2 * n + 3
    let root := cut pk 4 n
    let seed := pk.drop (4 + n)
    let i := beNat (cut sig 0 4)
    let digest := xmssHash shake n 2 (cut sig 4 n ++ root ++ beBytes n i) m
    let ends := ((winternitz 4 3 digest).zip (pieces n len (sig.drop (4 + n)))).zip (List.range len) |>.map fun d =>
      (span d.1.1 (15 - d.1.1)).foldl (fun v j =>
        let prf := fun mask => xmssHash shake n 3 seed (xmssAdrs 0 i d.2 j mask)
        xmssHash shake n 0 (prf 0) (xorBytes v (prf 1))) d.1.2
    let leaf := xmssLtree (fun z => xmssJoin shake n seed 1 i z) len 0 ends
    let top := climb (fun z x => xmssJoin shake n seed 2 0 (z - 1) x) (pieces n h (sig.drop (4 + n * (len + 1)))) 0 i leaf
    sig.length = 4 + n * (1 + len + h) && i < 2 ^ h && top = root

/-- An XMSS public key parses: a set of R172 and its length. -/
def xmssKeyOk (pk : Bytes) : Bool :=
  match xmssType (beNat (cut pk 0 4)) with
  | some t => decide (pk.length = 4 + 2 * t.2.1)
  | none => false

end Sys2Proof.Machine
end

