-- ==== Sys2Proof/Machine/Drbg.lean ====
section
/-! DEFINITION. The 17 CTR_DRBG instances with AES-256 (R486): instantiation, reseeds, and generate requests (R487 to R489). -/

namespace Sys2Proof.Machine

/-- A DRBG instance that is not instantiated. -/
def Drbg.off : Drbg := { ready := false, requests := 0, holding := false, key := List.replicate 32 0#8, v := 0 }

def State.drbg (s : State) (i : Nat) : Drbg := Table.get (fun _ => Drbg.off) s.entropy.drbgs i
def State.setDrbg (s : State) (i : Nat) (d : Drbg) : State :=
  { s with entropy := { s.entropy with drbgs := Table.set (fun _ => Drbg.off) s.entropy.drbgs i d } }

/-- The first n bytes of the encrypted counter, which starts one after V. -/
def drbgStream (key : Bytes) (v : BitVec 128) (n : Nat) : Bytes :=
  let keys := aesRoundKeys key
  ((List.range (ceilDiv n 16)).flatMap fun i => aesEncrypt keys (beBytes 16 (v + BitVec.ofNat 128 (i + 1)).toNat)).take n

/-- The update of key and V with 48 bytes. -/
def Drbg.update (d : Drbg) (data : Bytes) : Drbg :=
  let t := xorBytes (drbgStream d.key d.v 48) data
  { d with key := t.take 32, v := BitVec.ofNat 128 (beNat (t.drop 32)) }

/-- An instance takes a seed (R488). -/
def Drbg.reseeded (d : Drbg) (seed : Bytes) : Drbg := { d.update seed with requests := 0, holding := false }

/-- The state after a generate request of n bytes without additional input. -/
def Drbg.used (d : Drbg) (n : Nat) : Drbg :=
  { { d with v := d.v + BitVec.ofNat 128 (ceilDiv n 16) }.update (List.replicate 48 0#8) with requests := d.requests + 1 }

/-- The personalisation string of an instance at a time (R486). -/
def drbgPerson (i time : Nat) : Bytes := leBytes 16 Config.unitId.toNat ++ leBytes 1 i ++ leBytes 7 0 ++ leBytes 8 time ++ leBytes 16 0

/-- An instance as its seed and personalisation string leave it; there is no derivation function (R486). -/
def Drbg.instantiated (i time : Nat) (seed : Bytes) : Drbg := { Drbg.off.update (xorBytes seed (drbgPerson i time)) with ready := true }

/-- A reseed that is due takes the oldest seed of the pool; with the pool empty the instance holds, and SeedWaits counts it (R488). -/
def State.reseed (s : State) (i : Nat) : State :=
  let d := s.drbg i
  if !d.ready || d.holding || d.requests < 4096 then s else
  match s.entropy.pool with
  | seed :: rest => { s.setDrbg i (d.reseeded seed) with entropy := { (s.setDrbg i (d.reseeded seed)).entropy with pool := rest } }
  | [] =>
    let s := s.setDrbg i { d with holding := true }
    { s with entropy := { s.entropy with holdOrder := s.entropy.holdOrder ++ [i] } }.bump Key.entropyStatusSeedWaits

/-- Instance i can serve a generate request. -/
def State.drbgServes (s : State) (i : Nat) : Bool :=
  let d := s.drbg i
  d.ready && !d.holding && d.requests < 4096

/-- One generate request of n bytes: a reseed that is due comes first; nothing when the instance is not instantiated or holds (R486 to R489). -/
def State.generate (s : State) (i n : Nat) : Option Bytes × State :=
  let s := s.reseed i
  let d := s.drbg i
  if s.drbgServes i then (some (drbgStream d.key d.v n), s.setDrbg i (d.used n)) else (none, s)

end Sys2Proof.Machine
end

