-- ==== Sys2Proof/Machine/StreamOps.lean ====
section
/-! DEFINITION. What a stream sends and when: VSP frames (R422, R423), record transmission under WINDOW (R434, R435), and pacing (R437 to R442). -/

namespace Sys2Proof.Machine

/-- Stream states of R421. -/
def stDisabled : Nat := 0
def stWaiting : Nat := 1
def stStopped : Nat := 2
def stMoving : Nat := 3
def stGliding : Nat := 4
def stFaulted : Nat := 5

def State.streamState (s : State) (n : Nat) : Nat := s.entry (Key.mediaStreamState n)
/-- A stream changes its state; a stream MOVING or GLIDING up to now counts as activity (R582). -/
def State.setStreamState (s : State) (n v : Nat) : State :=
  let s := if s.streamState n = stMoving || s.streamState n = stGliding then { s with activityAt := s.timestamp } else s
  s.setEntry (Key.mediaStreamState n) v
def State.streamDir (s : State) (n : Nat) : Nat := s.entry (Key.mediaStreamDirection n)
def State.streamStep (s : State) (n : Nat) : Nat := s.entry (Key.mediaStreamStep n)
def State.streamOctet (s : State) (n : Nat) : Nat := s.entry (Key.mediaStreamPort n) / 8

/-- The port of a stream has its link up (R452). -/
def State.portUp (s : State) (n : Nat) : Bool := s.flag (Key.mediaPortLinkUp (s.entry (Key.mediaStreamPort n)))

/-- A received PAUSE or PFC still holds the stream's priority on its port (R416). -/
def State.portPaused (s : State) (n : Nat) : Bool :=
  s.hubCycle < Table.get (fun _ => 0) s.pauses (s.entry (Key.mediaStreamPort n) * 8 + s.entry (Key.mediaStreamPcp n))

/-- A frame of a stream (R418, R422): to its PeerMac, from its port's address, tagged where it has a VLAN. -/
def State.frameOf (s : State) (n kind flags : Nat) (body : Bytes) : SentFrame :=
  let port := s.entry (Key.mediaStreamPort n)
  let vlan := s.entry (Key.mediaStreamVlanId n)
  { destination := leBytes 6 (s.entry (Key.mediaStreamPeerMac n)), source := leBytes 6 (s.entry (Key.mediaPortMacAddress port)), vlan := if vlan = 0 then none else some (BitVec.ofNat 16 (s.entry (Key.mediaStreamPcp n) * 8192 + vlan)), etherType := BitVec.ofNat 16 (s.entry Key.vspControlVspEtherType), stream := n, kind := BitVec.ofNat 8 kind, epoch := BitVec.ofNat 32 (s.entry (Key.mediaStreamEpoch n)), seq := (s.stream n).txSeq, flags := BitVec.ofNat 16 flags, body := body }

/-- The bytes of a frame before its FCS (R422); tag and EtherType as Ethernet orders them. -/
def SentFrame.bytes (f : SentFrame) : Bytes :=
  f.destination ++ f.source ++ (match f.vlan with | some t => beBytes 2 0x8100 ++ beBytes 2 t.toNat | none => []) ++ beBytes 2 f.etherType.toNat ++
    leBytes 1 1 ++ [f.kind] ++ leBytes 2 f.stream ++ leBytes 4 f.epoch.toNat ++ leBytes 4 f.seq.toNat ++ leBytes 2 f.body.length ++ leBytes 2 f.flags.toNat ++ f.body

/-- Issue a frame when the port's link is up. -/
def State.issueFrame (s : State) (f : SentFrame) : State := if s.portUp f.stream then s.emit (.vsp f) else s

/-- Send a sequenced frame: it takes the next SEQ and stays until it is acknowledged (R432, R433). -/
def State.sendSeq (s : State) (n kind flags : Nat) (body : Bytes) : State :=
  let x := s.stream n
  let f := s.frameOf n kind flags body
  (s.setStream n { x with txSeq := x.txSeq + 1, unacked := x.unacked ++ [{ frame := f, at_ := s.hubCycle }] }).issueFrame f

/-- Send a frame that is not sequenced: its SEQ is the sender's next (R422). -/
def State.sendPlain (s : State) (n kind : Nat) (body : Bytes) : State :=
  s.issueFrame (s.frameOf n kind 0 body)

/-- The size of a restore stream's extent, 0 when it has none (R442). -/
def State.streamExtent (s : State) (n : Nat) : Nat :=
  match s.extents.find? (fun e => e.use = .stream n) with
  | some e => e.size
  | none => 0

/-- RecordRoom (R437). -/
def State.recordRoom (s : State) (n : Nat) : Nat := 2 ^ s.entry (Key.mediaStreamRecordExp n) + 80

/-- The bytes a restore stream holds: whole records no job has taken (R442). -/
def Stream.heldBytes (x : Stream) : Nat := (x.records.map fun r => if r.taken then 0 else r.bytes.length).sum

/-- f of R442. -/
def State.restoreRoom (s : State) (n : Nat) : Nat :=
  s.streamExtent n - (s.stream n).heldBytes - s.recordRoom n

/-- v of R439: the end of the last acknowledged record less CONSUMED. -/
def Stream.level (x : Stream) : Nat := x.ackedEnd - x.consumed

/-- Level (R453): v on egress, f on restore. -/
def State.streamLevel (s : State) (n : Nat) : Nat :=
  if s.streamDir n = 0 then (s.stream n).level else if s.streamDir n = 1 then s.restoreRoom n else 0

/-- t(k) of R437, in bytes. -/
def State.threshold (s : State) (n k : Nat) : Nat :=
  let p := (s.stream n).steps.getD k (0, 0)
  p.1 * 1000 * (p.2 + s.entry (Key.mediaStreamMarginMs n))

/-- A step is allowed: no step up to it lacks BUFFER for t + RecordRoom (R436), and on restore 2 t + RecordRoom fits the extent (R442). -/
def State.stepAllowed (s : State) (n k : Nat) : Bool :=
  let x := s.stream n
  k < x.steps.length &&
  (List.range (k + 1)).all (fun i => s.threshold n i + s.recordRoom n ≤ x.buffer) &&
  (s.streamDir n ≠ 1 || 2 * s.threshold n k + s.recordRoom n ≤ s.streamExtent n)

/-- The highest allowed step below `top` that meets a condition. -/
def State.highestStep (s : State) (n top : Nat) (p : Nat → Bool) : Option Nat :=
  ((List.range top).filter fun k => s.stepAllowed n k && p k).getLast?

/-- The state code of STATUS (R431). -/
def statusCode (st : Nat) : Nat :=
  if st = stMoving then 1 else if st = stGliding then 2 else if st = stFaulted then 3 else 0

/-- Record bytes sent or received (R431). -/
def Stream.count (x : Stream) : Nat :=
  match x.records.find? (fun r => r.offset < r.bytes.length) with
  | some r => r.endPos - r.bytes.length + r.offset
  | none => x.readyEnd

/-- The next record to send: the first not begun, else the RSN after the last. -/
def Stream.nextRecord (x : Stream) : BitVec 32 :=
  match x.records.find? (fun r => r.offset = 0 && !r.taken) with
  | some r => r.rsn
  | none => x.nextRsn

/-- Send a STATUS (R419, R431). -/
def State.sendStatus (s : State) (n : Nat) : State :=
  let x := s.stream n
  let s := s.setStream n { x with statusDue := false, statusAt := s.hubCycle }
  s.sendPlain n 8 (leBytes 1 (statusCode (s.streamState n)) ++ leBytes 1 (s.streamStep n) ++ leBytes 2 0 ++
    leBytes 4 (x.nextRecord - 1).toNat ++ leBytes 8 x.count ++ leBytes 8 s.timestamp.toNat)

/-- What the sealers bound to a stream's octet can take ahead of a feed (R230, R434). -/
def State.sealerRoom (s : State) (n : Nat) : Nat :=
  ((List.range 32).filter fun k => (s.sealer k).octet = s.streamOctet n && s.inService (uSealer k)).length * Config.sealerRoom

/-- The WINDOW the device advertises: the free room of a restore stream's extent, at least f (R442); on a feed a free value within what its bound sealers can take (R434); 0 where it receives no DATA (R427). -/
def State.window (s : State) (n : Nat) : Nat × State :=
  if s.streamDir n = 1 then ((s.streamExtent n - (s.stream n).heldBytes) % 2 ^ 32, s)
  else if s.streamDir n = 2 then (s.draw.1 % (min (s.sealerRoom n) (2 ^ 32 - 1) + 1), s.draw.2)
  else (0, s)

/-- Send a CREDIT (R427). -/
def State.sendCredit (s : State) (n : Nat) : State :=
  let (w, s) := s.window n
  let x := s.stream n
  let s := s.setStream n { x with rxAcked := x.rxSeq }
  s.sendPlain n 2 (leBytes 4 x.rxSeq.toNat ++ leBytes 4 w ++ leBytes 8 (if s.streamDir n = 2 then x.consumed else 0) ++
    leBytes 4 0 ++ leBytes 4 0)

/-- Send an ERROR (R431). -/
def State.sendError (s : State) (n code : Nat) (rsn : BitVec 32) : State :=
  s.sendPlain n 9 (leBytes 2 code ++ leBytes 2 0 ++ leBytes 4 rsn.toNat)

/-- DIM to a lower step (R429). -/
def State.sendDim (s : State) (n j : Nat) : State :=
  let s := s.sendSeq n 4 0 (leBytes 1 j ++ leBytes 7 0)
  (s.setEntry (Key.mediaStreamStep n) j).bump (Key.mediaStreamDims n)

/-- GLIDE to a planned stop after STOP_RSN (R429). On egress the records after STOP_RSN count as ready again and are sent again after the next RESUME (R439). -/
def State.sendGlide (s : State) (n : Nat) (stop : BitVec 32) : State :=
  let s := s.sendSeq n 5 0 (leBytes 4 stop.toNat ++ leBytes 4 0)
  let x := s.stream n
  let again := fun (r : StreamRecord) => serialLater 32 r.rsn.toNat stop.toNat
  let recs := x.records.map fun r => if again r then { r with offset := 0, acked := false } else r
  let x := if s.streamDir n = 0 then
      { x with records := recs, stopRsn := some stop, filling := false, flush := false, ackedEnd := ((recs.filter (fun r => r.acked)).getLast?.map (fun r => r.endPos)).getD (min x.ackedEnd ((recs.head?.map (fun r => r.endPos - r.bytes.length)).getD x.ackedEnd)) }
    else { x with stopRsn := some stop, filling := false, flush := false }
  ((s.setStream n x).setStreamState n stGliding).bump (Key.mediaStreamGlides n)

/-- RESUME (R429): the medium runs at a step, from a record, up to STOP_RSN when one is named. -/
def State.sendResume (s : State) (n j : Nat) (fromRsn : BitVec 32) (stop : Option (BitVec 32)) (fromOffset : Nat) : State :=
  let s := s.sendSeq n 7 0 (leBytes 1 j ++ leBytes 3 0 ++ leBytes 4 fromRsn.toNat ++
    leBytes 4 (match stop with | some r => r.toNat | none => 0xFFFFFFFF) ++ leBytes 4 0 ++ leBytes 8 fromOffset)
  s.bump (Key.mediaStreamResumes n)

/-- Start or speed up the medium (R439, R442). -/
def State.startStep (s : State) (n j : Nat) (fromRsn : BitVec 32) (stop : Option (BitVec 32)) : State :=
  let fromRest := s.streamState n = stStopped
  let s := s.sendResume n j fromRsn stop 0
  let x := s.stream n
  let s := s.setStream n { x with stopRsn := stop, flush := stop.isSome, filling := (x.filling || fromRest) && stop.isNone }
  (s.setEntry (Key.mediaStreamStep n) j).setStreamState n stMoving

/-- DATA body bytes sent and not acknowledged (R434). -/
def Stream.outstanding (x : Stream) : Nat :=
  (x.unacked.map fun u => if u.frame.kind = 1 then u.frame.body.length else 0).sum

/-- The chain value after a record: SHA3-256 of its CHAIN field, its first 32 header bytes and its body (R98). -/
def chainAfter (r : Bytes) : Bytes := sha3_256 (cut r 32 32 ++ cut r 0 32 ++ r.drop 64)

/-- A record has passed its octet: the digesters there are to absorb it, once (R238, R247). One that passes again under its RSN is not absorbed again. -/
def Stream.pass (x : Stream) (rsn : BitVec 32) (received : Bool) (b : Bytes) : Stream :=
  if (match x.passedRsn with | some r => !serialLater 32 rsn.toNat r.toNat | none => false) then x
  else { x with passing := x.passing ++ [{ number := x.passed + 1, received := received, bytes := b, seen := [] }], passed := x.passed + 1, passedRsn := some rsn }

/-- A digester that is bound to an octet is in service there (R238). -/
def State.octetDigests (s : State) (o : Nat) : Bool := (List.range 32).any fun d => s.inService (uDigester d) && s.digesterOctet d = o

/-- Send the frames of one record that WINDOW allows, FIRST on the first and LAST on the last (R426, R434, R435). -/
def sendFrames (n : Nat) (rsn : BitVec 32) : Nat → State → State
  | 0, s => s
  | fuel + 1, s =>
    let x := s.stream n
    match x.records.find? (fun r => r.rsn = rsn) with
    | none => s
    | some r =>
      let left := r.bytes.length - r.offset
      let body := 16 + min left (s.entry Key.vspControlMaxBody - 16)
      if left = 0 || x.window < x.outstanding + body then s else
      let data := (r.bytes.drop r.offset).take (body - 16)
      let first := if r.offset = 0 then 1 else 0
      let last := if data.length = left then 2 else 0
      let upd := fun (q : StreamRecord) => if q.rsn = rsn then { q with offset := r.offset + data.length, lastSeq := x.txSeq } else q
      let x := { x with records := x.records.map upd, lastChain := if r.offset = 0 then some (r.job, chainAfter r.bytes) else x.lastChain }
      let x := if data.length = left then x.pass rsn false r.bytes else x
      sendFrames n rsn fuel ((s.setStream n x).sendSeq n 1 (first + last)
        (leBytes 4 rsn.toNat ++ leBytes 4 0 ++ leBytes 8 r.offset ++ data))

/-- Every ready record that comes before STOP_RSN is sent, in order (R435, R439); bytes wait while no digester of the octet can absorb them (R238). -/
def sendRecords (n : Nat) : List StreamRecord → State → State
  | [], s => s
  | r :: rest, s =>
    let stop := match (s.stream n).stopRsn with
      | some p => serialLater 32 r.rsn.toNat p.toNat
      | none => false
    if stop || s.portPaused n || !s.octetDigests (s.streamOctet n) then s else
    let s := sendFrames n r.rsn (r.bytes.length + 1) s
    match (s.stream n).records.find? (fun q => q.rsn = r.rsn) with
    | some q => if q.offset < q.bytes.length then s else sendRecords n rest s
    | none => sendRecords n rest s

/-- Send the FILEMARKs held, once every record before them is sent (R430, R444). -/
def State.sendMarks (s : State) (n : Nat) : State :=
  let x := s.stream n
  if x.records.any (fun r => r.offset < r.bytes.length) then s else
  x.marksHeld.foldl (fun s m =>
    let x := s.stream n
    let s := s.setStream n { x with marksHeld := x.marksHeld.drop 1, marksSent := x.marksSent ++ [(m.1, x.txSeq)] }
    s.sendSeq n 6 0 (leBytes 1 2 ++ leBytes 3 0 ++ leBytes 4 (x.nextRsn - 1).toNat ++ leBytes 8 m.2)) s

/-- What an egress stream may send now: records while it moves, glides up to its stop, or is FAULTED (R446); marks also at rest. -/
def State.pump (s : State) (n : Nat) : State :=
  let st := s.streamState n
  if s.streamDir n ≠ 0 || st = stDisabled || st = stWaiting then s else
  let s := if st = stStopped then s else sendRecords n (s.stream n).records s
  s.sendMarks n

/-- A fetched restore job uses the stream (R442). -/
def State.restoreWaits (s : State) (n : Nat) : Bool :=
  s.jobs.any fun j => j.entry.opcode = 0x0702 && (s.session j.entry.session).mediaStream = n

/-- The egress pacing of R439. While a start from rest still fills, and during a flush, the level is not judged (log 30). -/
def State.paceEgress (s : State) (n : Nat) : State :=
  let x := s.stream n
  let v := x.level
  let r := x.readyEnd - x.consumed
  let step := s.streamStep n
  let st := s.streamState n
  if st = stMoving then
    if x.flush || (x.filling && v < s.threshold n step && x.records.any (fun q => !q.acked)) then s else
    let s := s.setStream n { x with filling := false }
    if v < s.threshold n step then
      match s.highestStep n step (fun j => s.threshold n j ≤ v) with
      | some j => s.sendDim n j
      | none =>
        let p := x.steps.getD step (0, 0)
        let need := x.consumed + p.1 * 1000 * p.2
        let stop := match x.records.find? (fun q => q.acked && need ≤ q.endPos) with
          | some q => q.rsn
          | none => x.ackedRsn
        s.sendGlide n stop
    else
      match s.highestStep n x.steps.length (fun j => 2 * s.threshold n j ≤ r && s.threshold n j ≤ v) with
      | some j => if step < j then s.startStep n j x.nextRecord none else s
      | none => s
  else if st = stStopped then
    let unsent := x.records.filter fun q => q.offset < q.bytes.length
    match s.highestStep n x.steps.length (fun j => 2 * s.threshold n j ≤ r) with
    | some j => if unsent.isEmpty then s else s.startStep n j x.nextRecord none
    | none =>
      match unsent.getLast? with
      | some q =>
        if x.steps.isEmpty then s
        else if unsent.any (fun q => q.kind = 4 || q.kind = 5) || !x.marksHeld.isEmpty || x.stopping then
          s.startStep n 0 x.nextRecord (some q.rsn)
        else s
      | none => s
  else s

/-- The restore pacing of R442. Records held at a start from rest are delivered again from FROM_RSN (log 31). -/
def State.paceRestore (s : State) (n : Nat) : State :=
  let x := s.stream n
  let f := s.restoreRoom n
  let step := s.streamStep n
  let st := s.streamState n
  if st = stMoving then
    if f < s.threshold n step then
      match s.highestStep n step (fun j => s.threshold n j ≤ f) with
      | some j => s.sendDim n j
      | none => s.sendGlide n (x.nextRsn - 1)
    else
      match s.highestStep n x.steps.length (fun j => 2 * s.threshold n j ≤ f) with
      | some j => if step < j then s.startStep n j x.nextRsn none else s
      | none => s
  else if st = stStopped && s.restoreWaits n then
    match s.highestStep n x.steps.length (fun j => 2 * s.threshold n j ≤ f) with
    | some j =>
      let first := match x.records.find? (fun q => !q.taken) with
        | some q => q.rsn
        | none => x.nextRsn
      let s := s.setStream n { x with records := x.records.filter (fun q => q.taken), nextRsn := first, arriving := none, dropping := false }
      s.startStep n j first none
    | none => s
  else s

/-- Evaluate a stream's pacing and send what it may (R437). -/
def State.evaluate (s : State) (n : Nat) : State :=
  let s := if s.streamDir n = 0 then s.paceEgress n else if s.streamDir n = 1 then s.paceRestore n else s
  s.pump n

/-- A record becomes ready on an egress stream: it takes the next RSN (R435). -/
def State.appendRecord (s : State) (n job kind : Nat) (bytes : Bytes) : State :=
  let x := s.stream n
  let r : StreamRecord := { rsn := x.nextRsn, job := job, kind := kind, bytes := bytes, endPos := x.readyEnd + bytes.length, offset := 0, lastSeq := 0, acked := false, taken := false }
  (s.setStream n { x with records := x.records ++ [r], nextRsn := x.nextRsn + 1, readyEnd := x.readyEnd + bytes.length }).evaluate n

/-- A new EPOCH: drawn, never 0 and never the previous one; both sequence spaces and the counts start again, and one STATUS is queued (R419, R446). While the hub instance cannot serve, the EPOCH waits, and the stream has none (R493). -/
def State.newEpoch (s : State) (n : Nat) : State :=
  match s.generate 16 4 with
  | (none, s) => (s.setStream n { s.stream n with epochDue := true, statusDue := false }).setEntry (Key.mediaStreamEpoch n) 0
  | (some b, s) =>
  let x := s.stream n
  let e := nonzeroOther 32 x.lastEpoch.toNat (Config.drawn b)
  let s := s.setStream n { x with epochDue := false, lastEpoch := BitVec.ofNat 32 e, txSeq := 0, rxSeq := 0, rxAcked := 0, unacked := [], retries := 0, window := 0, consumed := 0, committed := none, heardAt := s.hubCycle, timedOut := false, statusDue := true, marksSent := [] }
  let s := s.setEntry (Key.mediaStreamEpoch n) e
  if s.portUp n then s.sendStatus n else s

/-- Every stream that is not DISABLED. -/
def State.liveStreams (s : State) : List Nat :=
  (s.dict.filterMap fun p => if p.1 % 256 = 0x0A && 0x7400 ≤ p.1 / 256 && p.1 / 256 < 0x7800 then some (p.1 / 256 - 0x7400) else none).filter fun n => s.streamState n ≠ stDisabled

end Sys2Proof.Machine
end

