-- ==== Sys2Proof/Machine/HostOps.lean ====
section
/-! DEFINITION. What the device does on a host link: writes to host memory with their window checks and holds (R366, R381, R407, R410), the status block (R386, R402), and MSI-X (R406). -/

namespace Sys2Proof.Machine

/-- Queue states of R387. -/
def qDisabled : Nat := 0
def qActive : Nat := 1
def qPaused : Nat := 2
def qError : Nat := 3
def qDraining : Nat := 4

def State.queueState (s : State) (g : Nat) : Nat := s.entry (Key.queueSlotState g)
def State.setQueueState (s : State) (g v : Nat) : State := s.setEntry (Key.queueSlotState g) v
/-- The slice of a slot; FFFFh while unassigned (R413). -/
def State.slotSlice (s : State) (g : Nat) : Nat := s.entry (Key.queueSlotSlice g)
/-- The slots whose queues are not DISABLED, ascending: those whose State entry stands in the store (R386). -/
def State.liveSlots (s : State) : List Nat :=
  (s.dict.filterMap fun p => if p.1 % 256 = 0x0C && 0x2800 ≤ p.1 / 256 && p.1 / 256 < 0x3000 then some (p.1 / 256 - 0x2800) else none).filter fun g => s.queueState g ≠ qDisabled
/-- The ring size S (R384). -/
def State.ringSize (s : State) (g : Nat) : Nat := 2 ^ s.entry (Key.queueSlotSizeLog2 g)
/-- The host address of ring entry i (R385). -/
def State.entryAddr (s : State) (g i : Nat) : Nat := s.entry (Key.queueSlotRingBase g) + 64 * i
/-- The link a slot's slice is on. -/
def State.slotLink (s : State) (g : Nat) : Nat := s.sliceLink (s.slotSlice g)

/-- The link is up (R411). -/
def State.linkUp (s : State) (l : Nat) : Bool :=
  s.entry (Key.hostLinkLinkState l) = 2 || s.entry (Key.hostLinkLinkState l) = 3

/-- The function issues requests: link up in D0 with PASID Enable set (R381, R410). -/
def State.fnIssues (s : State) (l : Nat) : Bool :=
  s.linkUp l && (s.fn l).pasidEnable && (s.fn l).power = .d0

/-- Count one imprecise notice of a host write of a slice (R368, R366, R407). -/
def State.hostNotice (s : State) (slc : Nat) : State :=
  s.notice 7 (uHost (s.sliceLink slc)) (uSlice slc) (s.windowEpoch slc)

/-! ### MSI-X -/

/-- The message of a vector may be sent (R406, R408). -/
def State.vectorOpen (s : State) (l v : Nat) : Bool :=
  let f := s.fn l
  s.linkUp l && f.power = .d0 && f.msixEnable && !f.functionMask && !(Table.get (fun _ => MsixEntry.reset) f.msix v).masked

/-- Send a pending vector's message if it is unmasked (R406). -/
def State.deliverVector (s : State) (l v : Nat) : State :=
  let f := s.fn l
  if f.pendingVectors.contains v && s.vectorOpen l v then
    let e := Table.get (fun _ => MsixEntry.reset) f.msix v
    (s.setFn l { f with pendingVectors := f.pendingVectors.filter (fun w => w ≠ v) }).emit (.msix l v e.address e.data)
  else s

/-- Send every pending vector that is unmasked. -/
def State.deliverVectors (s : State) (l : Nat) : State :=
  (s.fn l).pendingVectors.foldl (fun s v => s.deliverVector l v) s

/-- A vector becomes pending; events merge while it stays so (R406). -/
def State.signalVector (s : State) (l v : Nat) : State :=
  let f := s.fn l
  let p := if f.pendingVectors.contains v then f.pendingVectors else f.pendingVectors ++ [v]
  (s.setFn l { f with pendingVectors := p }).deliverVector l v

/-! ### Status blocks -/

/-- The status block of a queue (R386). -/
def State.statusBlock (s : State) (g : Nat) : Bytes :=
  let q := s.queue g
  leBytes 4 (s.entry (Key.queueSlotPublished g)) ++ [q.ackCmd, q.ackToken, q.ackResult, 0#8] ++ leBytes 4 q.ackFetch.toNat ++ leBytes 4 0

/-- A failed write-back: the write is dropped with a notice, and the queue becomes ERROR with cause 02h (R407). -/
def State.writeBackFailed (s : State) (g : Nat) : State :=
  let s := s.hostNotice (s.slotSlice g)
  (s.setQueueState g qError).setEntry (Key.queueSlotErrorCause g) 2

/-- Issue the status-block write of a queue; a vector waiting for a covered entry becomes pending with it (R402, R406). -/
def State.issueStatus (s : State) (g : Nat) : State :=
  let addr := s.entry (Key.queueSlotStatusAddr g)
  let slc := s.slotSlice g
  let l := s.sliceLink slc
  if !s.hostAllows slc addr 16 false true then s.writeBackFailed g
  else
    let w : HostWrite := { link := l, pasid := s.slicePasid slc, kind := .status, slot := g, job := 0, address := BitVec.ofNat 64 addr, bytes := s.statusBlock g }
    let s := s.emit (.hostWrite w)
    let q := s.queue g
    let s := s.setQueue g { q with irqDue := false, ackDue := false }
    if q.irqDue then s.signalVector l (s.entry (Key.queueSlotMsixVector g)) else s

/-- Write a queue's status block, or hold it while the function issues nothing; a held write takes the newer value (R381, R402, R410). -/
def State.writeStatus (s : State) (g : Nat) : State :=
  let l := s.slotLink g
  if s.queueState g = qError || s.queueState g = qDraining || s.queueState g = qDisabled then s
  else if s.fnIssues l then s.issueStatus g
  else if s.linkUp l then
    let f := s.fn l
    s.setFn l { f with held := f.held.filter (fun h => h ≠ .status g) ++ [.status g] }
  else s

/-- Acknowledge a command in the status block (R398, R399). -/
def State.acknowledge (s : State) (g : Nat) (cmd : Nat) (token : BitVec 8) (result : Nat) : State :=
  let q := s.queue g
  let s := s.setQueue g { q with ackDue := true, ackCmd := BitVec.ofNat 8 cmd, ackToken := token, ackResult := BitVec.ofNat 8 result, ackFetch := BitVec.ofNat 32 (s.entry (Key.queueSlotFetchPoint g)) }
  s.writeStatus g

/-- Advance the published count over the contiguous prefix of completed entries (R402); IRQ entries that join it are remembered (R406). -/
def advancePrefix (g : Nat) : Nat → State → State
  | 0, s => s
  | fuel + 1, s =>
    let q := s.queue g
    let p := s.entry (Key.queueSlotPublished g)
    match q.done.find? (fun d => d.1 % 2 ^ 32 = p) with
    | none => s
    | some d =>
      let s := s.setQueue g { q with done := q.done.filter (fun e => e.1 ≠ d.1), irqDue := q.irqDue || d.2 }
      advancePrefix g fuel (s.setEntry (Key.queueSlotPublished g) ((p + 1) % 2 ^ 32))

/-- An entry of a queue is complete: the prefix advances and the head is written when it does (R402). -/
def State.entryDone (s : State) (g count : Nat) (irq : Bool) : State :=
  let q := s.queue g
  let s := s.setQueue g { q with done := q.done ++ [(count, irq)] }
  let before := s.entry (Key.queueSlotPublished g)
  let s := advancePrefix g (q.done.length + 1) s
  if s.entry (Key.queueSlotPublished g) = before then s else s.writeStatus g

/-- Jobs of a slot fetched and not published. -/
def State.inFlight (s : State) (g : Nat) : Nat := (s.jobs.filter fun j => j.slot = g).length

/-- The slot of a slice's local queue (R383). -/
def State.slotFor (s : State) (slc q : Nat) : Option Nat :=
  (List.range 2048).find? fun g => s.slotSlice g = slc && s.entry (Key.queueSlotLocalQueue g) = q

/-- The queues of a slice: every slot assigned to it whose machinery or entries are not at rest, by its State entry (R387). -/
def State.sliceSlots (s : State) (slc : Nat) : List Nat := (List.range 2048).filter fun g => s.slotSlice g = slc

end Sys2Proof.Machine
end

