-- ==== Sys2Proof/Machine/JobOps.lean ====
section
/-! DEFINITION. The life of an attempt and of a job's end: clearing units (R213, R226, R260), container records (R97, R98, R107), salt epochs (R94), replay (R51 to R55), and ending a job with a status (R92). -/

namespace Sys2Proof.Machine

/-- Job statuses (R82). -/
def jsOk : Nat := 0x00
def jsAborted : Nat := 0x01
def jsLengthShort : Nat := 0x02
def jsLengthLong : Nat := 0x03
def jsKeyInvalid : Nat := 0x04
def jsFormat : Nat := 0x05
def jsVerifyFail : Nat := 0x06
def jsEntropy : Nat := 0x07
def jsAccess : Nat := 0x08
def jsSliceDenied : Nat := 0x09
def jsResource : Nat := 0x0A
def jsSessionStale : Nat := 0x0B
def jsInternal : Nat := 0x0C

/-! ### Clearing units -/

/-- A wick at the end of an attempt: WKR, sponge state, gang latches, SV registers with their tags and f registers with their shadow cleared (R260, R298, R324); the data memory of a gang's wick is scrubbed whole (R180). -/
def Wick.endAttempt (x : Wick) : Wick :=
  { x with wkr := 0, wkrAlg := 0, keyed := false, sponge := Sponge.cleared, gangIn := [], gangOut := none, sregs := [], stags := 0, fregs := [], dma := [], writeBuffer := [], dmem := if x.gang then [] else x.dmem, job := none, gang := false, taper := none, napping := false, stall := .none, doneWith := none, shroud := { x.shroud with due := [], got := 0 } }

/-- The words of a data memory outside the secret granules (R45). -/
def plainWords (mask : BitVec 128) (m : Table Word72) : Table Word72 :=
  m.filter fun p => !mask.getLsbD (p.1 / 128)

/-- Scrub every secret granule, which makes it plain (R280); the residency they held is discarded (R129, R260). -/
def Wick.scrub (x : Wick) : Wick :=
  { x with dmem := plainWords x.gmask x.dmem, gmask := 0, resident := none }

/-- Flush the shroud FIFO (R318). -/
def Wick.flushShroud (x : Wick) : Wick := { x with shroud := { x.shroud with fifo := 0 } }

/-- A fenced wick: cleared as at the end of an attempt, secret granules scrubbed, shroud FIFO flushed, its FV island off (R129, R318, R328, R633). -/
def Wick.fence (x : Wick) : Wick := { x.endAttempt.scrub.flushShroud with island := .off }

/-- A taper whose attempt ended must wipe itself before it serves again (R213). -/
def Taper.endAttempt (x : Taper) : Taper := { x with ended := true, mustWipe := true, waiting := none }

/-- A sealer with its key register cleared (R226). -/
def Sealer.cleared (x : Sealer) : Sealer := { x with key := none, hashKey := [], job := none, object := none, salt := 0, epoch := 0, nextSegment := 0, data := [] }

/-- The key registers that hold a job's key are cleared (R226). -/
def State.leaveSealers (s : State) (id : Nat) : State :=
  { s with sealers := s.sealers.map fun p => if p.2.job = some id then (p.1, p.2.cleared) else p }

/-- Release one unit from the attempt it served; the key register of a sealer is cleared by its job (R226, R236). -/
def State.releaseUnit (s : State) (u : UnitId) : State :=
  let i := unitIndex u
  if unitClass u = 1 then s.setWick i (s.wick i).endAttempt
  else if unitClass u = 4 then s.setTaper i (s.taper i).endAttempt
  else s

/-- Release all units of an attempt. -/
def State.releaseUnits (s : State) (us : List UnitId) : State := us.foldl State.releaseUnit s

/-! ### Container records -/

/-- A record of the sealed object container: header, CHAIN filled, HEADER_CRC over bytes 0 to 27 then 32 to 63, body (R97, R98). -/
def containerRecord (kind epoch : Nat) (objectId : BitVec 64) (segIndex : Nat) (chain body : Bytes) : Bytes :=
  let h := [0x50#8, 0x59#8, 0x52#8, 0x53#8] ++ leBytes 1 kind ++ leBytes 1 1 ++ leBytes 1 epoch ++ leBytes 1 0 ++
    leBytes 8 objectId.toNat ++ leBytes 4 body.length ++ leBytes 4 segIndex ++ leBytes 4 0
  h ++ leBytes 4 (crc32c (h ++ chain)) ++ chain ++ body

/-- No object in progress. -/
def ObjectState.start : ObjectState :=
  { key := [], salts := [], created := 0, segmentsDone := 0, released := 0, releasedBytes := 0, releasedPayload := 0, payload := 0, chain := List.replicate 32 0#8, leaves := [], input := [], feedEnded := false, headSent := false, voided := false, sealer := 0, segExp := 0, length := 0, segIndex := 0, epoch := 0, headSeen := false, tailSeen := false, saltDue := false, confirming := false }

/-- The object state of a job. -/
def Job.obj (j : Job) : ObjectState := j.object.getD ObjectState.start

/-- Change the object state of a job. -/
def State.modObject (s : State) (id : Nat) (f : ObjectState → ObjectState) : State :=
  s.modJob id fun j => { j with object := some (f j.obj) }

/-- The media stream of a job's session (R63). -/
def State.jobStream (s : State) (j : Job) : Nat := (s.session j.entry.session).mediaStream

/-- Release one container record of an object write to its egress stream, its CHAIN from the record before it (R47, R98). -/
def State.releaseRecord (s : State) (id kind epoch segIndex : Nat) (body : Bytes) : State :=
  match s.findJob id with
  | none => s
  | some j =>
    let o := j.obj
    let n := s.jobStream j
    let r := containerRecord kind epoch j.entry.w5 segIndex o.chain body
    let seg := kind = 2
    let s := s.modObject id fun o =>
      { o with chain := chainAfter r, releasedBytes := o.releasedBytes + r.length, released := if seg then o.released + 1 else o.released, releasedPayload := if seg then o.releasedPayload + (body.length - 16) else o.releasedPayload }
    s.appendRecord n id kind r

/-- The next value at or after f that a list does not hold. -/
def avoiding (w : Nat) (bad : List Nat) : Nat → Nat → Nat
  | 0, f => f % 2 ^ w
  | fuel + 1, f => if bad.contains (f % 2 ^ w) then avoiding w bad fuel (f + 1) else f % 2 ^ w

/-- The number of segments of an object (R89). -/
def segmentCount (length segExp : Nat) : Nat := ceilDiv length (2 ^ segExp)

/-- A replayed object write with a segment not yet sealed takes a new salt epoch, whose salt is still to be drawn; a feed is resumed from the first byte not in a complete SEG record (R94, R103, R443). -/
def State.saltNeeded (s : State) (id : Nat) : State :=
  match s.findJob id with
  | none => s
  | some j =>
    let o := j.obj
    let x := s.session j.entry.session
    if j.entry.opcode ≠ 0x0701 || o.salts.isEmpty || segmentCount j.entry.w2.toNat x.segExp ≤ o.segmentsDone then s else
    let s := s.modObject id fun o => { o with saltDue := true }
    if x.ingest = 1 then
      let n := x.feedStream
      let y := s.stream n
      let off := o.segmentsDone * 2 ^ x.segExp
      let ordinal := if o.feedEnded then y.ordinal - 1 else y.ordinal
      let s := s.setStream n { y with arriving := none, feedOffset := off, ordinal := ordinal }
      let s := s.modObject id fun o => { o with feedEnded := false }
      s.sendResume n 0 ordinal none off
    else s

/-- The new epoch begins with the salt drawn for it, which differs from every earlier one; its SALT record is released once the HEAD is (R94, R95). -/
def State.newSaltEpoch (s : State) (id drawn : Nat) : State :=
  match s.findJob id with
  | none => s
  | some j =>
    let o := j.obj
    let salt := BitVec.ofNat 64 (avoiding 64 (o.salts.map (·.toNat)) (o.salts.length + 1) drawn)
    let s := s.modObject id fun o => { o with salts := o.salts ++ [salt], epoch := o.salts.length, saltDue := false }
    if o.headSent then s.releaseRecord id 3 o.salts.length o.segmentsDone (leBytes 8 salt.toNat) else s

/-! ### Ending a job -/

/-- The job is done: its result waits for publication (R84). Its units are released; a fault against one of them before the commit still discards the result (R51, R54; log 50). A direct sealer job keeps its sealer, which has still to write its result, to its end (R226, R236). -/
def State.stageResult (s : State) (id status w6 : Nat) (output : Bytes) : State :=
  match s.findJob id with
  | none => s
  | some j =>
    let s := s.releaseUnits j.units
    let s := if j.entry.opcode / 256 = 4 then s else s.leaveSealers id
    s.modJob id fun j => { j with phase := .staged, status := BitVec.ofNat 8 status, w6 := BitVec.ofNat 64 w6, output := output, units := [], served := if j.units.isEmpty then j.served else j.units, build := j.build.map fun b => { b with tasks := [] }, waitsEntropy := false }

/-- The VOID record that closes an object write (R92, R107). -/
def State.releaseVoid (s : State) (id status : Nat) : State :=
  match s.findJob id with
  | none => s
  | some j =>
    let o := j.obj
    let s := s.modObject id fun o => { o with voided := true }
    s.releaseRecord id 5 o.epoch 0 (leBytes 8 o.releasedPayload ++ leBytes 4 o.released ++ leBytes 1 status ++ leBytes 3 0)

/-- w6 of a job that ends without OK (R82): plaintext delivered by a restore, container bytes released by an object write, else 0. -/
def Job.failW6 (j : Job) (status : Nat) : Nat :=
  if j.entry.opcode = 0x0701 then
    if status = jsAborted || status = jsLengthLong || status = jsEntropy || status = jsInternal then j.obj.releasedBytes else 0
  else if j.entry.opcode = 0x0702 then
    if status = jsFormat || status = jsVerifyFail then j.obj.payload else 0
  else 0

/-- End a job with a status other than OK. An object write that has passed the checks of R80 first releases one VOID, also where it has no other record yet, and completes when it is acknowledged (R92, R96; log 35); every other job waits for publication. -/
def State.failJob (s : State) (id status : Nat) : State :=
  match s.findJob id with
  | none => s
  | some j =>
    if j.phase = .staged then s
    else if j.entry.opcode = 0x0701 && j.phase ≠ .turn then
      if j.obj.voided then s else
      let s := (s.releaseUnits j.units).leaveSealers id
      let s := s.modJob id fun j => { j with phase := .closing, status := BitVec.ofNat 8 status, units := [], served := [], waitsEntropy := false }
      s.releaseVoid id status
    else s.stageResult id status (j.failW6 status) []

/-- No fault discards the result of a job any more. -/
def State.settleResult (s : State) (id : Nat) : State := s.modJob id fun j => { j with served := [] }

/-- A job ends INTERNAL by R53 or R56, and InternalCompletions counts it (R650). -/
def State.internalJob (s : State) (id : Nat) : State :=
  ((s.failJob id jsInternal).settleResult id).bump Key.faultCollectorInternalCompletions

/-- An attempt of the job runs. -/
def Job.running (j : Job) : Bool := j.phase = .running

/-- A record the digester must carry again is sent again from FIRST under the same RSN (R242, R441). -/
def State.resendRecord (s : State) (id : Nat) : State :=
  match s.findJob id with
  | none => s
  | some j =>
    let n := s.jobStream j
    let x := s.stream n
    s.setStream n { x with records := x.records.map fun r => if r.job = id && 0 < r.offset && r.offset < r.bytes.length then { r with offset := 0 } else r }

/-- A replayed restore starts at its first record again, from the records retained for it, and writes the buffer from its start (R50, R55). -/
def State.restartRestore (s : State) (id : Nat) : State :=
  match s.findJob id with
  | none => s
  | some j =>
    let n := s.jobStream j
    let x := s.stream n
    let s := s.setStream n { x with records := x.records.map fun r => if r.taken && r.job = id then { r with taken := false } else r }
    s.modJob id fun j => { j with object := none }

/-! ### R56 -/

def isHybrid (a : Nat) : Bool := a = 0x80 || a = 0x81

/-- The job needs a taper (R47, R196, R204). -/
def State.taperNeed (s : State) (j : Job) : Bool :=
  let op := j.entry.opcode
  let x := s.session j.entry.session
  (op / 256 = 1 && op ≤ 0x0103 && isHybrid j.entry.alg) || op / 256 = 5 ||
  (op = 0x0701 && (List.range x.recipients).any fun n => isHybrid (field (x.recipient n) 0 1)) ||
  (op = 0x0702 && isHybrid (field (x.recipient 0) 0 1))

/-- The unit classes a job needs (R29, R47, R192, R204, R228, R239): wick 1, taper 4, digester 5, sealer 6. -/
def State.jobKinds (s : State) (j : Job) : List Nat :=
  let op := j.entry.opcode
  let fam := op / 256
  (if s.taperNeed j then [4] else []) ++
  if fam = 1 then (if op = 0x0110 || op = 0x0111 then [] else [1])
  else if fam = 2 then (if op = 0x0211 then [] else [1])
  else if fam = 3 then (if op = 0x0301 || op = 0x0303 || op = 0x0304 then [5] else [])
  else if fam = 4 then [6]
  else if fam = 5 then (if op = 0x0504 then [] else [1])
  else if op = 0x0701 || op = 0x0702 then [1, 5, 6]
  else if op = 0x0611 || op = 0x0F02 then [1]
  else []

/-- How many units of a class the device has, of those a job may wait for: 32 stream digesters (R16, R28). -/
def kindSize (c : Nat) : Nat := if c = 5 then 32 else classSize c

/-- Every unit of a class is fenced and has reached its relight limit (R56). -/
def State.kindLost (s : State) (c : Nat) : Bool :=
  (List.range (kindSize c)).all fun i =>
    s.health (unitOf c i) = 1 &&
    (match healthIndex (unitOf c i) with
     | some k => s.entry Key.faultCollectorRelightLimit ≤ s.entry (k * 256 + 3)
     | none => false)

/-- A job that waits for units of a lost kind completes INTERNAL (R56). -/
def State.settleJob (s : State) (id : Nat) : State :=
  match s.findJob id with
  | none => s
  | some j => if j.phase = .waiting && (s.jobKinds j).any s.kindLost then s.internalJob id else s

/-- Every waiting job of a lost kind completes INTERNAL: at each event that may take the last unit of a kind out of service, and when a job comes to wait (R56). -/
def State.settleKinds (s : State) : State := (s.jobs.map (·.id)).foldl State.settleJob s

/-- Digest contexts let go of a job: a finish that waits is withdrawn, an object's or a DIGEST job's contexts close. -/
def State.releaseContexts (s : State) (id : Nat) : State :=
  let f := fun (p : Nat × DigestContext) =>
    if p.2.objectJob = some id then (p.1, { DigestContext.closed with gen := p.2.gen })
    else if p.2.finishJobs.contains id then (p.1, { p.2 with finishJobs := p.2.finishJobs.filter (· ≠ id) })
    else p
  { s with contexts := s.contexts.map f }

/-! ### Replay -/

/-- The attempt of a job can still end in replay (R51, R54): it runs, its result is staged and not committed, or its object waits for its TAIL. -/
def Job.replayable (j : Job) : Bool :=
  j.running || (j.phase = .staged && !j.served.isEmpty) || (j.phase = .closing && j.obj.tailSeen && !j.obj.voided)

/-- The units charged with a failed attempt join those that no replay of the job runs on (R52). -/
def chargeUnits (failed charged : List UnitId) : List UnitId := failed ++ charged.filter fun u => !failed.contains u

/-- An attempt ends in replay: everything it produced is discarded, the units charged are remembered, and the job starts again from its retained inputs; the fourth such end completes the job INTERNAL (R51 to R53, R55). An object write whose TAIL is made has nothing to compute again: the record its digester must carry is sent again (R94, R242, R441). -/
def State.replayJob (s : State) (id : Nat) (charged : List UnitId) : State :=
  match s.findJob id with
  | none => s
  | some j =>
    if !j.replayable then s else
    let s := ((s.releaseUnits j.units).leaveSealers id).bump Key.faultCollectorReplays
    let s := if j.entry.opcode = 0x0301 then s.releaseContexts id else s
    let tail := j.entry.opcode = 0x0701 && j.obj.tailSeen && !j.obj.voided
    let s := s.modJob id fun j => { j with failed := chargeUnits j.failed charged }
    let s := if tail then s else s.modJob id fun j => { j with phase := .waiting, status := 0, w6 := 0, units := [], served := [], kept := if j.entry.opcode = 0x0304 then j.kept else [], output := [], keyOut := none, drawn := [], cycles := 0, taperCycles := 0, shroud := 0, waitsEntropy := false }
    if 3 ≤ j.retries then (s.modJob id fun j => { j with phase := .waiting, served := [] }).internalJob id
    else
      let s := s.modJob id fun j => { j with retries := j.retries + 1 }
      if tail then s.resendRecord id
      else if j.entry.opcode = 0x0702 then (s.restartRestore id).settleJob id
      else ((if charged.any (fun u => unitClass u = 5) then s.resendRecord id else s).saltNeeded id).settleJob id

/-- Replace the tasks in progress of a build; the job's units are theirs, and it waits while none runs. -/
def State.setTasks (s : State) (id : Nat) (f : List LanternTask → List LanternTask) : State :=
  s.modJob id fun j =>
    match j.build with
    | none => j
    | some b =>
      let ts := f b.tasks
      let us := ts.flatMap (·.units)
      { j with build := some { b with tasks := ts }, units := us, phase := if us.isEmpty then .waiting else .running }

/-- A task of a lantern build ends in replay; the fourth such end of one task ends the build INTERNAL (R51, R53, R163). -/
def State.replayTask (s : State) (id : Nat) (t : LanternTask) (charged : List UnitId) : State :=
  match s.findJob id with
  | none => s
  | some j =>
    if !j.running then s else
    let s := (s.releaseUnits t.units).bump Key.faultCollectorReplays
    let again : LanternTask := { t with retries := t.retries + 1, failed := chargeUnits t.failed charged, units := [] }
    let s := s.setTasks id fun ts => ts.map fun x => if x.number = t.number then again else x
    if 3 ≤ t.retries then s.internalJob id else s.settleJob id

/-- The attempts of a job that a unit serves end in replay: those tasks of a lantern build, or the job's own attempt. -/
def State.replayUnder (s : State) (id : Nat) (u : UnitId) (charged : List UnitId) : State :=
  match s.findJob id with
  | none => s
  | some j =>
    match if j.running then j.build else none with
    | some b => (b.tasks.filter fun t => t.units.contains u).foldl (fun s t => s.replayTask id t charged) s
    | none => s.replayJob id charged

/-- The jobs whose attempt a unit serves, or served where its result is not committed, in fetch order (R51, R54). -/
def State.servedBy (s : State) (u : UnitId) : List Nat :=
  (s.jobs.filter fun j => j.replayable && (j.units.contains u || j.served.contains u)).map (·.id)

/-- End every attempt a unit serves, charged as given; each is replayed elsewhere (R51, R630). -/
def State.replayServed (s : State) (u : UnitId) (charged : List UnitId) : State :=
  (s.servedBy u).foldl (fun s id => s.replayUnder id u charged) s

/-- An attempt's own check failed: it ends in replay, charged to every wick and taper that served it (R51, R52). -/
def State.checkFailed (s : State) (id : Nat) : State :=
  match s.findJob id with
  | none => s
  | some j => s.replayJob id (j.units.filter fun u => unitClass u = 1 || unitClass u = 4)

end Sys2Proof.Machine
end

