-- ==== Sys2Proof/Machine/ReplyOps.lean ====
section
/-! DEFINITION. How an operation on the dictionary is answered: HOP responses and their tags (R544, R547, R550), and the end of a mailbox operation (R536, R537). -/

namespace Sys2Proof.Machine

/-- Result codes (R533). -/
def drOk : Nat := 0
def drNoEntry : Nat := 1
def drNoSub : Nat := 2
def drAccess : Nat := 3
def drAuth : Nat := 4
def drRights : Nat := 5
def drLength : Nat := 6
def drRange : Nat := 7
def drState : Nat := 8
def drBusy : Nat := 9
def drUnavailable : Nat := 0x0A
def drEntropy : Nat := 0x0B
def drInternal : Nat := 0x0C
def drOffset : Nat := 0x0D

/-- The result of a requester's operation leaves the device. -/
def State.answer (s : State) (path : Path) (index sub result : Nat) : State :=
  s.emit (.dictResult path (BitVec.ofNat 16 index) (BitVec.ofNat 8 sub) (BitVec.ofNat 8 result))

/-! ### Frames -/

/-- The header of a frame, bytes 0 to 23 (R544). -/
def hopHeader (op flags result : Nat) (session seq : BitVec 32) (index sub offset length : Nat) : Bytes :=
  leBytes 1 1 ++ leBytes 1 op ++ leBytes 1 flags ++ leBytes 1 result ++ leBytes 4 session.toNat ++ leBytes 4 seq.toNat ++
    leBytes 2 index ++ leBytes 1 sub ++ leBytes 1 0 ++ leBytes 4 offset ++ leBytes 2 length ++ leBytes 2 0

/-- TAG of a frame (R550). The addresses are in transmission order. -/
def hopTag (key : Bytes) (dst src : BitVec 48) (header data : Bytes) : Bytes :=
  kmac256 key (beBytes 6 dst.toNat ++ beBytes 6 src.toNat ++ header ++ data) 16 "PYRS-HOPTAG"

/-! ### Requesters -/

/-- What is kept for a requester (R546, R547). -/
def State.requester (s : State) (w : Requester) : RequesterState :=
  (s.hop.requesters.find? (fun r => r.who = w)).getD { who := w, assembly := none, snapshot := none, lastSeq := none, lastResponse := none }

def State.setRequester (s : State) (r : RequesterState) : State :=
  { s with hop := { s.hop with requesters := s.hop.requesters.filter (fun q => q.who ≠ r.who) ++ [r] } }

/-- The session of a number. -/
def State.hopSession (s : State) (n : BitVec 32) : Option HopSession := s.hop.sessions.find? (fun x => x.number = n)

/-- The sessions kept stand, and what is kept for the requesters of the others goes (R546, R552). -/
def Hop.keepSessions (h : Hop) (keep : HopSession → Bool) : Hop :=
  let left := h.sessions.filter keep
  let stays := fun (r : RequesterState) => match r.who with
    | .session n => left.any fun x => x.number = n
    | .address _ => true
  { h with sessions := left, requesters := h.requesters.filter stays }

/-! ### Responses -/

/-- What an operation answers: its result, whether bytes remain, its data, the session number of the header, and whether the response comes later, when the operation completes (R468). -/
structure HopReply where
  result : Nat
  more : Bool
  data : Bytes
  session : BitVec 32
  later : Bool := false
  deriving DecidableEq, Repr

/-- A reply without data. -/
def hopResult (f : HopFrame) (r : Nat) : HopReply := { result := r, more := false, data := [], session := f.session }

/-- The response frame, tagged with a key in a session (R544, R550). -/
def hopResponse (f : HopFrame) (key : Option Bytes) (r : HopReply) : HopResponse :=
  let flags := 1 + (if key.isSome then 2 else 0) + (if r.more then 4 else 0)
  let h := hopHeader f.op.toNat flags r.result r.session f.seq f.index.toNat f.sub.toNat f.offset.toNat r.data.length
  let tag := match key with
    | some k => hopTag k f.source Config.shelfMac h r.data
    | none => []
  { destination := f.source, op := f.op, flags := BitVec.ofNat 8 flags, result := BitVec.ofNat 8 r.result, session := r.session, seq := f.seq, index := f.index, sub := f.sub, offset := f.offset, data := r.data, tag := tag }

/-- Send a response and remember it for its requester (R547); one that comes later leaves the SEQ alone remembered. -/
def State.respond (s : State) (w : Requester) (f : HopFrame) (key : Option Bytes) (r : HopReply) : State :=
  let q := s.requester w
  if r.later then s.setRequester { q with lastSeq := some f.seq, lastResponse := none } else
  let resp := hopResponse f key r
  (s.setRequester { q with lastSeq := some f.seq, lastResponse := some resp }).emit (.hop resp)

/-- A response that comes later than its request: it is remembered while that request is its requester's last (R547). -/
def State.respondLate (s : State) (w : Requester) (f : HopFrame) (key : Option Bytes) (r : HopReply) : State :=
  let q := s.requester w
  let resp := hopResponse f key r
  (if q.lastSeq = some f.seq then s.setRequester { q with lastResponse := some resp } else s).emit (.hop resp)

/-! ### Mailboxes -/

/-- A mailbox whose registers and buffer read zero (R538). -/
def Mailbox.clear : Mailbox := { addr := 0, len := 0, status := 0, data := [] }

def State.mailbox (s : State) (slc : Nat) : Mailbox := Table.get (fun _ => Mailbox.clear) s.mailboxes slc
def State.setMailbox (s : State) (slc : Nat) (m : Mailbox) : State :=
  { s with mailboxes := Table.set (fun _ => Mailbox.clear) s.mailboxes slc m }

/-- MB_STATUS of an operation that has ended (R536). -/
def mbStatus (result length : Nat) : BitVec 32 := BitVec.ofNat 32 (result * 0x10000 + length)

/-- An operation of a mailbox ends: MB_DATA is filled for READ and INFO, then MB_STATUS is written with BUSY 0; MailboxOps counts (R537, R542). -/
def State.endMailbox (s : State) (link slc : Nat) (addr : BitVec 32) (result : Nat) (data : Option Bytes) : State :=
  let m := s.mailbox slc
  let d := match data with
    | some b => b ++ m.data.drop b.length
    | none => m.data
  let n := match data with
    | some b => b.length
    | none => 0
  (s.setMailbox slc { m with addr := addr &&& 0xFFFFFF#32, status := mbStatus result n, data := d }).bump (Key.hostMailboxMailboxOps link)

end Sys2Proof.Machine
end

