-- ==== Sys2Proof/Machine/LinkOps.lean ====
section
/-! DEFINITION. Resets of a host function with what they do to queues, jobs, streams and mailboxes (R408, R448, R538), writes of host windows that wait for reads in flight (R369, R370), the loss of a stream's link (R447), and sessions that close (R70, R400). -/

namespace Sys2Proof.Machine

/-- A session that becomes FREE keeps its generation for the next opening (R59, R60). -/
def Session.freed (x : Session) : Session := { Session.free with lastGen := if x.state = .free then x.lastGen else x.gen }

/-- A resident expansion of a session's keys is discarded when the session becomes FREE (R129). -/
def State.dropResidency (s : State) (session : Nat) : State :=
  { s with wicks := s.wicks.map fun p => match p.2.resident with | some r => if r.session = session then (p.1, p.2.scrub) else p | none => p }

/-- The software digest contexts of a session close when it becomes FREE (R250). -/
def State.closeContexts (s : State) (keep : DigestContext → Bool) : State :=
  { s with contexts := s.contexts.map fun p => if p.2.isOpen && !keep p.2 then (p.1, { DigestContext.closed with gen := p.2.gen }) else p }

/-- The session becomes FREE (R59): its cache entry, residency and software contexts go with it. -/
def State.freeSession (s : State) (n : Nat) : State :=
  let s := s.setSession n (s.session n).freed
  let s := { s with cache := s.cache.filter (fun e => e.session ≠ n) }
  (s.dropResidency n).closeContexts (fun c => c.session ≠ n)

/-- A job of a session that was fetched before its close and has not completed (R70). -/
def State.earlierJobs (s : State) (n closedAt : Nat) : Bool :=
  s.jobs.any fun j => j.entry.session = n && j.id < closedAt && j.entry.opcode ≠ 0x0602 && j.entry.opcode ≠ 0x0601

/-- A CLOSING session whose close was aborted becomes FREE when its last earlier job is gone (R70, R400). -/
def State.settleSession (s : State) (n : Nat) : State :=
  let x := s.session n
  if x.state = .closing && !(s.jobs.any fun j => j.entry.session = n && j.entry.opcode = 0x0602 && j.id = x.closedAt) && !s.earlierJobs n x.closedAt then s.freeSession n else s

/-- A cache entry or program that is not live, or was dropped, with no job left that uses it. -/
def MceEntry.idle (e : MceEntry) : Bool := (!e.live || e.dropped) && e.pins.isEmpty
def OwnerProgram.idle (p : OwnerProgram) : Bool := (!p.live || p.dropped) && p.pins.isEmpty

/-- What remains of an idle entry is its generation. -/
def MceEntry.settled (e : MceEntry) : MceEntry :=
  if e.idle then { e with slice := 0, alg := 0, key := [], size := 0, dropped := false, live := false } else e
def OwnerProgram.settled (p : OwnerProgram) : OwnerProgram :=
  if p.idle then { p with image := [], dropped := false, live := false } else p

/-- The pins of a job on cache entries and owner programs are released, and what a drop left is freed with the last of them; the extents of an owner run go with their job (R168, R184, R289, R290). -/
def State.unpin (s : State) (id : Nat) : State :=
  let lanterns := s.lanterns.map fun (e : LanternEntry) => { e with pins := e.pins.filter (· ≠ id) }
  let gone := lanterns.filter fun e => e.dropped && e.pins.isEmpty
  let mces := s.mces.map fun (p : Nat × MceEntry) => (p.1, { p.2 with pins := p.2.pins.filter (· ≠ id) }.settled)
  let programs := s.programs.map fun (p : Nat × OwnerProgram) => (p.1, { p.2 with pins := p.2.pins.filter (· ≠ id) }.settled)
  let keep := fun (e : Extent) => match e.use with
    | .stream _ => true
    | .lantern n => !gone.any fun g => g.id = n
    | .mceliece k => mces.any fun p => p.1 = k && !p.2.idle
    | .owner j _ => j ≠ id
  { s with lanterns := lanterns.filter (fun e => !(e.dropped && e.pins.isEmpty)), mces := mces, programs := programs, extents := s.extents.filter keep }

/-- An extent that a lantern build allocated and no cache entry took over is freed (R400). -/
def State.freeBuild (s : State) (id : Nat) : State :=
  if s.lanterns.any (fun e => e.id = id) then s
  else { s with extents := s.extents.filter (fun e => e.use ≠ ExtentUse.lantern id) }

/-- A fetched job ends without a completion of its own: its attempt is discarded with no fault and no retry, and what R400 names is undone. -/
def State.abandonJob (s : State) (id : Nat) : State :=
  match s.findJob id with
  | none => s
  | some j =>
    let s := (s.releaseUnits j.units).leaveSealers id
    let s := ((s.releaseContexts id).unpin id).freeBuild id
    let s := s.dropJob id
    let x := s.session j.entry.session
    let s := if j.entry.opcode = 0x0601 && x.opening && x.closedAt = id then s.setSession j.entry.session { x with opening := false, closedAt := 0 } else s
    s.settleSession j.entry.session

/-- The stream becomes WAITING: no valid traffic from its peer (R447). A FAULTED stream stays so (R446). -/
def State.streamWaits (s : State) (n : Nat) : State :=
  let st := s.streamState n
  if st = stDisabled || st = stFaulted then s else s.setStreamState n stWaiting

/-- What a function reset does to an egress stream that an object write of the affected slices uses (R448): records not begun are dropped, and a VOID with REASON 01h follows as the next record. -/
def State.resetEgress (s : State) (j : Job) (n : Nat) : State :=
  let x := s.stream n
  let mine := x.records.filter fun r => r.job = j.id
  let kept := x.records.filter fun r => r.job ≠ j.id || 0 < r.offset || r.acked
  let dropped := mine.filter fun r => !(0 < r.offset || r.acked)
  let chain := match x.lastChain with
    | some p => if p.1 = j.id then p.2 else List.replicate 32 0#8
    | none => List.replicate 32 0#8
  let x := { x with records := kept, nextRsn := x.nextRsn - BitVec.ofNat 32 dropped.length, readyEnd := x.readyEnd - (dropped.map fun r => r.bytes.length).sum, currentJob := none, marksHeld := x.marksHeld.filter fun m => m.1 ≠ j.id }
  let s := s.setStream n x
  if (mine.filter fun r => 0 < r.offset || r.acked).any fun r => r.kind = 5 then s else
  let o := j.obj
  let gone := dropped.filter fun r => r.kind = 2
  let payload := o.releasedPayload - (gone.map fun r => r.bytes.length - 80).sum
  let body := leBytes 8 payload ++ leBytes 4 (o.released - gone.length) ++ leBytes 1 jsAborted ++ leBytes 3 0
  let rsn := (s.stream n).nextRsn
  let s := s.appendRecord n j.id 5 (containerRecord 5 o.epoch j.entry.w5 0 chain body)
  let s := s.setStream n { s.stream n with stopping := true }
  if s.streamState n = stMoving then (s.sendGlide n rsn).pump n else s.evaluate n

/-- What a function reset does to a restore stream in use: held records are discarded, and a moving medium glides (R448). -/
def State.resetRestore (s : State) (n : Nat) : State :=
  let x := s.stream n
  let s := s.setStream n { x with records := [], arriving := none, dropping := true, currentJob := none, stopping := true }
  if s.streamState n = stMoving then s.sendGlide n (x.nextRsn - 1) else s

/-- A feed whose object ended before its mark: the rest of that object is discarded (R91). -/
def State.leaveFeed (s : State) (j : Job) (n : Nat) : State :=
  let y := s.stream n
  if y.currentJob ≠ some j.id then s
  else s.setStream n { y with currentJob := none, arriving := none, dropping := y.dropping || (j.object.isSome && !j.obj.feedEnded) }

/-- End one job of an affected slice ABORTED, without publication (R408, R448). -/
def State.resetJob (s : State) (j : Job) : State :=
  let x := s.session j.entry.session
  let s :=
    if j.entry.opcode = 0x0701 then
      let s := if j.phase ≠ .turn && j.phase ≠ .staged then s.resetEgress j x.mediaStream else s
      if x.ingest = 1 && j.object.isSome then (s.leaveFeed j x.feedStream).sendError x.feedStream 7 (s.stream x.feedStream).ordinal else s
    else if j.entry.opcode = 0x0702 then (if j.phase ≠ .turn && (j.phase ≠ .staged || j.object.isSome) then s.resetRestore x.mediaStream else s)
    else if j.entry.opcode = 0x0703 then
      let y := s.stream x.mediaStream
      s.setStream x.mediaStream { y with marksHeld := y.marksHeld.filter (fun m => m.1 ≠ j.id), marksSent := y.marksSent.filter (fun m => m.1 ≠ j.id) }
    else s
  s.abandonJob j.id

/-- The slices a link serves. -/
def State.linkSlices (s : State) (l : Nat) : List Nat := (List.range 512).filter fun n => s.sliceLink n = l

/-! ### Window writes -/

/-- An operation that completes late is answered (R370, R468, R539): a response goes out while its requester's session stands and the firmware still serves (R529). -/
def State.answerLate (s : State) (index sub : Nat) (r : LateReply) : State :=
  match r with
  | .nobody => s
  | .path p => s.answer p index sub drOk
  | .hop w f =>
    if s.hop.server ≠ some .firmware then s else
    match w with
    | .address _ => s.respondLate w f none (hopResult f drOk)
    | .session n =>
      match s.hopSession n with
      | some x => s.respondLate w f (some x.key) (hopResult f drOk)
      | none => s
  | .mailbox link slc addr => s.endMailbox link slc addr drOk none

/-- A host window write advances the rule epoch, which applies from the next hub cycle (R369, R370). -/
def State.writeWindow (s : State) (n w v : Nat) : State :=
  let s := s.setEntry (Key.hostWindowsWindow n w) v
  (s.setEntry (Key.hostWindowsEpoch n) ((s.entry (Key.hostWindowsEpoch n) + 1) % 2 ^ 16)).passCycle

/-- Ring reads of a slice that were checked under an earlier rule epoch are in flight (R369, R370): the only accesses of a host window that outlast their command. -/
def State.oldReads (s : State) (n : Nat) : Bool :=
  s.queues.any fun p => s.slotSlice p.1 = n && p.2.runs.any fun r => r.epoch ≠ s.windowEpoch n

/-- The oldest window write of a slice is accepted, which advances the epoch, or completes when no older read is in flight; a later one of the slice waits for it (R370). `fuel` bounds the steps: two for each write. -/
def settleWindowsFor (n : Nat) : Nat → State → State
  | 0, s => s
  | fuel + 1, s =>
    match s.windowWrites.find? (fun w => w.slice = n) with
    | none => s
    | some w =>
      let rest := s.windowWrites.erase w
      if !w.taken then settleWindowsFor n fuel (({ s with windowWrites := { w with taken := true } :: rest } : State).writeWindow n w.window w.value)
      else if s.oldReads n then s
      else settleWindowsFor n fuel (({ s with windowWrites := rest } : State).answerLate (0x6400 + n) (w.window + 1) w.reply)

/-- The window writes of a slice go as far as they can (R370). -/
def State.settleWindows (s : State) (n : Nat) : State := settleWindowsFor n (2 * s.windowWrites.length) s

/-- Reads that were in flight are gone: the window writes of every slice go as far as they can (R370). -/
def State.settleAllWindows (s : State) : State := (s.windowWrites.map fun w => w.slice).foldl State.settleWindows s

/-! ### Function resets -/

/-- The slots whose slice is on a link and whose queue is not DISABLED. -/
def State.linkSlots (s : State) (l : Nat) : List Nat :=
  (List.range 2048).filter fun g => s.slotSlice g < 512 && s.slotLink g = l && s.queueState g ≠ qDisabled

/-- A queue becomes DRAINING: nothing is scanned, and reads in flight are discarded (R408). -/
def State.drainQueue (s : State) (g : Nat) : State :=
  let q := s.queue g
  (s.setQueue g { Queue.idle with scanned := q.scanned, fetched := q.fetched, ackCmd := q.ackCmd, ackToken := q.ackToken, ackResult := q.ackResult, ackFetch := q.ackFetch }).setQueueState g qDraining

/-- A function reset of a link (R408, R538). -/
def State.functionReset (s : State) (l : Nat) : State :=
  let s := s.bump (Key.hostLinkFunctionResets l)
  let ready := (s.fn l).ready
  let s := s.setFn l { HostFn.reset with ready := ready }
  let s := s.clearCounter (Key.hostLinkDoorbellDrops l)
  let slots := s.linkSlots l
  let s := slots.foldl State.drainQueue s
  let s := (s.jobs.filter fun j => slots.contains j.slot).foldl State.resetJob s
  let off := fun (r : LateReply) => match r with | .mailbox k _ _ => if k = l then LateReply.nobody else r | _ => r
  State.settleAllWindows { s with mailboxes := s.mailboxes.filter fun p => s.sliceLink p.1 ≠ l, erasing := s.erasing.map fun e => (e.1, e.2.1, off e.2.2), windowWrites := s.windowWrites.map fun w => { w with reply := off w.reply } }

/-- A queue whose last job has ended after a function reset becomes DISABLED (R408). -/
def State.settleDrain (s : State) (g : Nat) : State :=
  if s.queueState g = qDraining && s.inFlight g = 0 then
    (s.setQueue g Queue.idle).setQueueState g qDisabled |>.setEntry (Key.queueSlotEnable g) 0
  else s

end Sys2Proof.Machine
end

