-- ==== Sys2Proof/Machine/FaultOps.lean ====
section
/-! DEFINITION. The fault collector: reports, events and their actions (R625 to R634), fencing (R633), self-tests (R635 to R640), the end of waiting jobs (R56) and the fatal stop (R641, R644). -/

namespace Sys2Proof.Machine

/-! ### Time -/

/-- Hub cycles pass until at least a given cycle (log 4). -/
def State.passCycles (s : State) (due : Nat) : State := { s with hubCycle := max s.hubCycle due }

/-- Ticks pass until at least a given timestamp (log 4). -/
def State.passTicks (s : State) (due : Nat) : State :=
  if s.timestamp.toNat < due then { s with timestamp := BitVec.ofNat 64 due } else s

/-! ### Severity -/

/-- The severity of a code: its FaultSeverity entry; a self-test failure is NOTE (R627, R640). -/
def State.severityOf (s : State) (code : Nat) : Nat :=
  let c := code / 256
  if code % 256 = 255 then 1
  else if 1 ≤ c && c ≤ 18 && 1 ≤ code % 256 then s.entry (Key.faultSeveritySeverity (c - 1) (code % 256 - 1))
  else 0

/-- The severity at which a report acts on its accused unit, and whether OVERRIDE is set (R631). -/
def State.actingSeverity (s : State) (sev : Nat) (accused : UnitId) : Nat × Bool :=
  let c := unitClass accused
  if sev ≠ 3 then (sev, false)
  else if (8 ≤ c && c ≤ 13) || c = 18 || accused = uDigester 32 then (4, true)
  else if c = 14 || c = 15 || c = 16 || c = 17 || accused = 0 then (2, true)
  else if s.health accused = 1 then (1, true)
  else (3, false)

/-! ### Attempts a unit serves -/

/-- The units whose attempts end with a fault against a unit: an FV island's attempts are those of its wick. -/
def servingUnits (u : UnitId) : List UnitId :=
  if unitClass u = 2 then [u, uWick (unitIndex u)] else [u]

/-- End every attempt a unit serves, charged to it; whether any ended (R51, R52, R630). -/
def State.recover (s : State) (u : UnitId) : State :=
  (servingUnits u).foldl (fun s v => s.replayServed v (servingUnits u)) s

/-! ### Fencing -/

/-- A fenced unit takes no work and is cleared as at the end of an attempt (R633). -/
def State.clearFenced (s : State) (u : UnitId) : State :=
  let i := unitIndex u
  if unitClass u = 1 then s.setWick i (s.wick i).fence
  else if unitClass u = 4 then s.setTaper i (s.taper i).endAttempt
  else if unitClass u = 6 then s.setSealer i (s.sealer i).cleared
  else s

/-- The link whose octets include an octet, among the links that are not down (R374). -/
def State.linkOfOctet (s : State) (o : Nat) : Option Nat :=
  (List.range 8).find? fun l =>
    s.linkUp l && (s.linkOctets l).contains o

/-- The link goes down: a function reset, and the entries of a link that is down (R408, R411). -/
def State.linkDown (s : State) (l : Nat) : State :=
  let s := s.functionReset l
  ((s.setEntry (Key.hostLinkLinkState l) 0).setEntry (Key.hostLinkSpeed l) 0).setEntry (Key.hostLinkNegotiatedWidth l) 0

/-- What a fence does to the units that depend on the unit (R633). -/
def State.fenceDependants (s : State) (u : UnitId) : State :=
  let i := unitIndex u
  if unitClass u = 3 then
    (span (16 * i) 16).foldl (fun s w =>
      let s := s.setHealth (uWick w) 1
      let s := s.replayServed (uWick w) [u]
      (s.setHealth (uIsland w) 1).clearFenced (uWick w)) s
  else if unitClass u = 1 then s.setHealth (uIsland i) 1
  else if unitClass u = 7 then
    let s := match s.linkOfOctet i with
      | some l => s.linkDown l
      | none => s
    let s := (span (8 * i) 8).foldl (fun s p => s.setEntry (Key.mediaPortLinkUp p) 0) s
    (s.liveStreams.filter fun n => s.streamOctet n = i).foldl State.streamWaits s
  else s

/-- Fence a unit (R631, R633, R653). -/
def State.fence (s : State) (u : UnitId) (code : Nat) (time : BitVec 64) : State :=
  let s := s.bump Key.faultCollectorFences
  let s := match healthIndex u with
    | some k => (((s.bump (k * 256 + 2)).setEntry (k * 256 + 4) code).setEntry (k * 256 + 5) time.toNat).setHealth u 1
    | none => s
  let s := { s with selfOwn := s.selfOwn.filter (· ≠ u) ++ [u] }
  let s := s.recover u
  let s := s.clearFenced u
  (s.fenceDependants u).settleKinds

/-! ### The fatal stop -/

/-- Steps 1 to 3 of a fatal stop, with the persistent fields of R644: the dispatcher stops, READY clears, attempts end, moving streams glide. -/
def State.fatalStop (s : State) (e : FaultEvent) : State :=
  let before := BitVec.ofNat 8 s.deviceState
  let s := s.bump Key.faultCollectorFatalCount
  let s := s.setEntry Key.faultCollectorLastFatalCode e.code.toNat
  let s := s.setEntry Key.faultCollectorLastFatalUnit e.accused.toNat
  let s := s.setEntry Key.faultCollectorLastFatalTime e.time.toNat
  let s := s.setEntry Key.faultCollectorState 2
  let fns := s.fns.map fun p => (p.1, { p.2 with ready := false })
  let wicks := s.wicks.map fun p => (p.1, { p.2.endAttempt with job := p.2.job })
  let tapers := s.tapers.map fun p => (p.1, { p.2.endAttempt with job := p.2.job })
  let sealers := s.sealers.map fun p => (p.1, p.2.cleared)
  let jobs := s.jobs.map fun j => { j with phase := if j.running then JobPhase.waiting else j.phase, units := [], served := [], build := j.build.map (fun b => { b with tasks := [] }), output := [] }
  let s := { s with fetchStopped := true, entering := none, fns := fns, wicks := wicks, tapers := tapers, sealers := sealers, jobs := jobs, fatal := some { event := e, served := false, before := before } }
  s.liveStreams.foldl (fun s n =>
    if s.streamState n = stMoving && s.streamDir n = 0 then s.sendGlide n (s.stream n).ackedRsn
    else if s.streamState n = stMoving && s.streamDir n = 1 then s.sendGlide n ((s.stream n).nextRsn - 1)
    else s) s

/-! ### Events -/

/-- The 32-byte record of an event (R632). -/
def FaultEvent.record (e : FaultEvent) : Bytes :=
  let flags := (if 1 < e.reports then 1 else 0) + (if e.override then 2 else 0) + (if e.replayed then 4 else 0) + (if e.atLimit then 8 else 0)
  leBytes 8 e.time.toNat ++ leBytes 2 e.accused.toNat ++ leBytes 2 e.detector.toNat ++ leBytes 2 e.code.toNat ++ leBytes 1 e.severity ++
    leBytes 1 flags ++ leBytes 2 e.reports ++ leBytes 2 e.slice.toNat ++ leBytes 4 e.seq.toNat ++ leBytes 8 e.detail.toNat

/-- Write an event's record at its ring position and close the event (R632, R651). -/
def State.closeEvent (s : State) (e : FaultEvent) : State :=
  { s with eventLog := Table.set (fun _ => []) s.eventLog (e.seq.toNat % 1024) e.record, events := s.events.filter (fun f => f.seq ≠ e.seq) }

/-- The collector becomes TROUBLED, and its quiet timer starts again (R634). -/
def State.troubled (s : State) : State :=
  let s := if s.entry Key.faultCollectorState = 0 then s.setEntry Key.faultCollectorState 1 else s
  { s with quietStart := s.timestamp }

/-- The action of a severity against the accused unit (R630). -/
def State.applySeverity (s : State) (sev : Nat) (e : FaultEvent) : State :=
  if sev = 2 then s.recover e.accused
  else if sev = 3 then s.fence e.accused e.code.toNat e.time
  else if sev = 4 then s.fatalStop e
  else s

/-- A unit under self-test ends it as a failure: RelightCount counts, the unit stays fenced (R636, R637). -/
def State.selfTestEnds (s : State) (u : UnitId) : State :=
  match healthIndex u with
  | some k => ((s.bump (k * 256 + 3)).setHealth u 1).settleKinds
  | none => s

/-- Replace the open event of the same number. -/
def State.putEvent (s : State) (e : FaultEvent) : State :=
  { s with events := s.events.map fun f => if f.seq = e.seq then e else f }

/-- Open an event and apply its action (R629, R630, R632). `raw` is the report's severity, which counts for R634, and `sev` the severity it acts at (R631). -/
def State.openEvent (s : State) (code : Nat) (accused detector slc : UnitId) (detail : Nat) (raw sev : Nat) (ovr : Bool) : State :=
  let stopping := s.fatal.isSome
  let s := s.bump Key.faultCollectorEvents
  let seq := s.entry Key.faultLogNextSeq
  let s := s.setEntry Key.faultLogNextSeq ((seq + 1) % 2 ^ 32)
  let limit := match healthIndex accused with
    | some k => s.entry Key.faultCollectorRelightLimit ≤ s.entry (k * 256 + 3)
    | none => false
  let e : FaultEvent := { opened := s.hubCycle, time := s.timestamp, accused := accused, detector := detector, code := BitVec.ofNat 16 code, severity := sev, override := ovr, replayed := false, atLimit := limit, reports := 1, slice := slc, seq := BitVec.ofNat 32 seq, detail := BitVec.ofNat 64 detail }
  let s := { s with events := s.events ++ [e] }
  let s := if raw = 2 || raw = 3 then s.troubled else s
  if stopping then s else
  let replays := s.entry Key.faultCollectorReplays
  let s := s.applySeverity sev e
  if s.entry Key.faultCollectorReplays ≠ replays then s.putEvent { e with replayed := true } else s

/-- A report joins an open event: it is counted, ends attempts when it is RECOVER or FENCE, raises the event's severity when it is higher, and restarts the quiet timer by its own severity, even where the unit is fenced already (R629, R630, R634). -/
def State.joinEvent (s : State) (e : FaultEvent) (raw sev : Nat) (ovr : Bool) : State :=
  let stopping := s.fatal.isSome
  let s := s.bump Key.faultCollectorReportsMerged
  let raised := e.severity < sev
  let e := { e with reports := min 0xFFFF (e.reports + 1), severity := max e.severity sev, override := e.override || (raised && ovr) }
  let s := s.putEvent e
  let s := if raw = 2 || raw = 3 then s.troubled else s
  if stopping then s else
  let replays := s.entry Key.faultCollectorReplays
  let s := if raised then s.applySeverity sev e else if sev = 2 || sev = 3 then s.recover e.accused else s
  if s.entry Key.faultCollectorReplays ≠ replays then s.putEvent { e with replayed := true } else s

/-- The counter that names a fault, whatever its severity (R628). -/
def faultCounter (code : Nat) (accused : UnitId) : Option Nat :=
  let i := unitIndex accused
  if code = 0x0101 || code = 0x010A then some (Key.wickStatusCorrected i)
  else if code = 0x010C then some Key.wickVectorsShroudFaults
  else if code = 0x0301 || code = 0x0901 then some Key.tamperStatusIntegrityFailures
  else if code = 0x0401 || code = 0x0402 then some (Key.taperStatusMismatches i)
  else if code = 0x0403 then some (Key.taperStatusStoreCorrected i)
  else if code = 0x0405 then some (Key.taperStatusOperandCorrected i)
  else if code = 0x0408 then some (Key.taperStatusWaitTimeouts i)
  else if code = 0x0501 then some (Key.digesterStatusMismatches i)
  else if code = 0x0502 then some (Key.digesterStatusCorrected i)
  else if code = 0x0601 then some (Key.sealerStatusMismatches i)
  else if code = 0x0801 then some (Key.channelStatusLinkCorrected i)
  else if code = 0x0802 then some (Key.channelStatusTagRereads i)
  else if code = 0x0803 then some (Key.channelStatusLinesLost i)
  else if code = 0x0B01 then some Key.entropyStatusHealthFailures
  else if code = 0x0B02 then some Key.entropyStatusGutterEntries
  else if code = 0x0D01 then some Key.tamperTestTestFailures
  else if code = 0x1201 then some Key.pilotPowerRetentionLost
  else none

/-- Count a fault where its unit's entries name it (R628, R332); a taper's mismatch sets its strike (R210); a shroud generator that repeated a word rekeys before it delivers again (R332); an integrity failure is also dated for the burst source (R620). -/
def State.countFault (s : State) (code : Nat) (accused : UnitId) : State :=
  let s :=
    if code = 0x1201 && s.retention.isSome then { s with retention := none }
    else match faultCounter code accused with
      | some k => s.bump k
      | none => s
  let s := if code = 0x0401 || code = 0x0402 then
      (let t := unitIndex accused
       (s.setTaper t { s.taper t with cleanJobs := 0 }).setEntry (Key.taperStatusStrike t) 1)
    else s
  let s := if code = 0x010C then (let x := s.wick (unitIndex accused); s.setWick (unitIndex accused) { x with shroud := { x.shroud with fifo := 0, rekeying := true } }) else s
  let s := if code = 0x0804 then s.setEntry (Key.channelStatusState (unitIndex accused)) 4 else s
  if code = 0x0301 || code = 0x0901 then { s with tamper := { s.tamper with failures := s.tamper.failures ++ [s.timestamp] } } else s

/-- A self-test starts: the unit's State reads 02h (R635, R638). -/
def State.startSelfTest (s : State) (u : UnitId) : State := s.setHealth u 2

/-- The sconce of a wick or island, or the octet a sealer or digester is bound to, is in service (R635, R638). -/
def State.parentInService (s : State) (u : UnitId) : Bool :=
  let i := unitIndex u
  if unitClass u = 1 || unitClass u = 2 then s.inService (uSconce (i / 16))
  else if unitClass u = 6 then s.inService (uOctet (s.sealer i).octet)
  else if unitClass u = 5 then s.inService (uOctet (Table.get id s.digesterOctets i))
  else true

/-- The second round of relight tests starts once no sconce or octet is under test: every unit still due whose sconce and bound octet are in service (R635). -/
def State.settleRelight (s : State) : State :=
  if ((List.range 16).any fun c => s.health (uSconce c) = 2) || ((List.range 32).any fun o => s.health (uOctet o) = 2) then s
  else
    let due := s.relightDue
    due.foldl (fun s u => if s.health u = 1 && s.parentInService u then s.startSelfTest u else s) { s with relightDue := [] }

/-- A fault report reaches the collector (R626 to R634, R637). -/
def State.reportFault (s : State) (code : Nat) (accused detector slc : UnitId) (detail : Nat) : State :=
  let s := s.countFault code accused
  let s := if s.health accused = 2 then (s.selfTestEnds accused).settleRelight else s
  let raw := s.severityOf code
  let (sev, ovr) := s.actingSeverity raw accused
  if sev = 0 then s else
  match s.events.find? (fun e => e.accused = accused && (accused ≠ 0 || e.code.toNat = code)) with
  | some e =>
    if s.hubCycle < e.opened + 4096 then s.joinEvent e raw sev ovr
    else (s.closeEvent e).openEvent code accused detector slc detail raw sev ovr
  | none => s.openEvent code accused detector slc detail raw sev ovr

/-! ### Self-tests -/

/-- A unit relights: it returns to service, and RelightCount and Relights count (R636). A sconce brings back its wicks and islands that are not fenced on their own account; a wick brings back its island likewise; a taper's strike clears (R210); the streams of a digester's octet, which may have waited for it, go on (R238). -/
def State.relight (s : State) (u : UnitId) : State :=
  let s := match healthIndex u with
    | some k => s.bump (k * 256 + 3)
    | none => s
  let s := (s.setHealth u 0).bump Key.faultCollectorRelights
  let s := { s with selfOwn := s.selfOwn.filter (· ≠ u) }
  let own := fun (v : UnitId) => decide (v ∈ s.selfOwn)
  let bring := fun (s : State) (w : Nat) =>
    let s := if own (uWick w) then s else s.setHealth (uWick w) 0
    if own (uIsland w) || own (uWick w) then s else s.setHealth (uIsland w) 0
  let i := unitIndex u
  if unitClass u = 3 then (span (16 * i) 16).foldl bring s
  else if unitClass u = 1 then (if own (uIsland i) then s else s.setHealth (uIsland i) 0)
  else if unitClass u = 4 then s.setEntry (Key.taperStatusStrike i) 0
  else if unitClass u = 5 then s.liveStreams.foldl (fun s n => if s.streamOctet n = s.digesterOctet i then s.evaluate n else s) s
  else s

/-- Every unit that can be fenced (R653): 632 units, in ascending unit ID order. -/
def fencible : List UnitId :=
  (List.range 256).map uWick ++ (List.range 256).map uIsland ++ (List.range 16).map uSconce ++ (List.range 8).map uTaper ++
    (List.range 32).map uDigester ++ (List.range 32).map uSealer ++ (List.range 32).map uOctet

end Sys2Proof.Machine
end

