-- ==== Sys2Proof/Machine/EntropyOps.lean ====
section
/-! DEFINITION. Entropy and the device's own keys: gutter (R491 to R495), the key hierarchy (R454 to R457, R461), the vault's persistent records (R465). -/

namespace Sys2Proof.Machine

/-! ### Gutter -/

/-- State of an ember (R484); TESTING at power-up. -/
def State.ember (s : State) (e : Nat) : Ember := Table.get (fun _ => Ember.testing) s.entropy.embers e
def State.setEmber (s : State) (e : Nat) (x : Ember) : State :=
  { s with entropy := { s.entropy with embers := Table.set (fun _ => Ember.testing) s.entropy.embers e x } }

/-- HEALTHY embers. -/
def State.healthyEmbers (s : State) : Nat := ((List.range 4).filter fun e => s.ember e = .healthy).length

/-- The state of the entropy block (R491). -/
def State.entropyState (s : State) : Nat :=
  let e := s.entropy
  if e.failed then 4
  else if e.startupDone && s.healthyEmbers < 2 then 3
  else if e.starting then 0
  else if s.healthyEmbers = 4 then 1 else 2

/-- A fault of the entropy block (R496). -/
def State.entropyFault (s : State) (code : Nat) : State := s.reportFault code uEntropy uEntropy 0 0

/-- The pool and the blocks in progress are discarded, and SeedsDiscarded counts the seeds (R492). -/
def State.discardSeeds (s : State) : State :=
  let n := s.entropy.pool.length
  { s with entropy := { s.entropy with pool := [], halfSeeds := [] } }.bumpBy Key.entropyStatusSeedsDiscarded n

/-- Entry to GUTTER (R492); its fault counts in GutterEntries (R628). -/
def State.enterGutter (s : State) : State :=
  let s := s.discardSeeds
  let s := { s with entropy := { s.entropy with gutter := true, expired := false } }
  s.entropyFault 0x0B02

/-- GUTTER starts when fewer than two embers are HEALTHY once the start-up tests have ended, and ends with the second HEALTHY ember (R491, R492, R494, R495). -/
def State.settleGutter (s : State) : State :=
  if !s.entropy.startupDone then s
  else if s.healthyEmbers < 2 then (if s.entropy.gutter then s else s.enterGutter)
  else { s with entropy := { s.entropy with gutter := false, expired := if s.entropy.failed then s.entropy.expired else false } }

/-- An ember fails a health or start-up test (R484); its fault counts in HealthFailures (R628). -/
def State.emberFails (s : State) (e : Nat) : State :=
  (s.setEmber e .failed).entropyFault 0x0B01

/-! ### Waits on the hub instance -/

/-- The public key of an ephemeral ML-KEM-768 seed, and its decapsulation (R549). -/
def mlkem768Public (seed : Bytes) : Bytes := kemPublic 0x11 seed
def mlkem768Decaps (seed ct : Bytes) : Bytes := kemDecaps 0x11 seed ct

/-- Bytes drawn for AUTH_BEGIN: SESSION, NONCE_D and the seed of the ephemeral key, a generate request each (R549). -/
def authDraws : List Nat := [4, 32, 64]

/-- Generate requests of the hub instance in order, as far as it serves them. -/
def drawHub : List Nat → State → List Bytes × State
  | [], s => ([], s)
  | n :: rest, s =>
    match s.generate 16 n with
    | (none, s) => ([], s)
    | (some b, s) => (b :: (drawHub rest s).1, (drawHub rest s).2)

/-- AUTH_BEGIN with all it draws: the pending session and its answer (R549). -/
def State.openPending (s : State) (f : HopFrame) (drawn : List Bytes) : HopReply × State :=
  let n := BitVec.ofNat 32 (nonzeroOther 32 0 (Config.drawn (drawn.getD 0 [])))
  let nonce := drawn.getD 1 []
  let seed := drawn.getD 2 []
  let ek := mlkem768Public seed
  let p : PendingSession := { number := n, keySlot := BitVec.ofNat 8 (field f.data 0 1), address := f.source, nonceM := cut f.data 8 32, nonceD := nonce, ephemeral := seed, encapKey := ek }
  ({ result := drOk, more := false, data := nonce ++ ek, session := n }, { s with hop := { s.hop with pending := some p } })

/-- Hub cycles of the second that AUTH_BEGIN waits at most (R551). -/
def authCycles : Nat := 1200000000

/-- AUTH_BEGIN draws what it still needs: it is answered, or it waits (R551). -/
def State.drawAuth (s : State) (f : HopFrame) (drawn : List Bytes) (due : Nat) : HopReply × State :=
  let (more, s) := drawHub (authDraws.drop drawn.length) s
  if authDraws.length ≤ (drawn ++ more).length then ({ s with hop := { s.hop with authWait := none } } : State).openPending f (drawn ++ more)
  else ({ hopResult f drEntropy with later := true }, { s with hop := { s.hop with authWait := some { frame := f, drawn := drawn ++ more, due := due } } })

/-- An AUTH_BEGIN that waits goes on once the hub instance serves (R551). -/
def State.serveAuth (s : State) : State :=
  match s.hop.authWait with
  | none => s
  | some a =>
    let (r, s) := s.drawAuth a.frame a.drawn a.due
    if r.later then s else s.respondLate (.address a.frame.source) a.frame none r

/-- An AUTH_BEGIN whose second has ended is answered ENTROPY (R551). -/
def State.expireAuth (s : State) : State :=
  match s.hop.authWait with
  | none => s
  | some a =>
    if s.hubCycle < a.due then s
    else ({ s with hop := { s.hop with authWait := none } } : State).respondLate (.address a.frame.source) a.frame none (hopResult a.frame drEntropy)

/-- What waited for the hub instance is drawn once it serves: stream EPOCHs and an AUTH_BEGIN (R493, R551). -/
def State.drawEpochs (s : State) (i : Nat) : State :=
  if i ≠ 16 then s else ((s.liveStreams.filter fun n => (s.stream n).epochDue).foldl State.newEpoch s).serveAuth

/-! ### Seeds -/

/-- A seed goes to the instance whose reseed fell due first, else to the pool of 32 (R485, R488, R494). -/
def State.placeSeed (s : State) (seed : Bytes) : State :=
  match s.entropy.holdOrder with
  | i :: rest =>
    let s := s.setDrbg i ((s.drbg i).reseeded seed)
    { s with entropy := { s.entropy with holdOrder := rest } }.drawEpochs i
  | [] => if 32 ≤ s.entropy.pool.length then s else { s with entropy := { s.entropy with pool := s.entropy.pool ++ [seed] } }

/-- A block of an ember ends with its samples, and the conditioner takes its SHA3-256. With the first waiting output of another ember, which came earlier, it forms a seed: that output, then the first 16 bytes of this one (R485). -/
def State.takeBlock (s : State) (e : Nat) (samples : Bytes) : State :=
  let out := sha3_256 samples
  match s.entropy.halfSeeds.find? (fun h => h.1 ≠ e) with
  | some h => { s with entropy := { s.entropy with halfSeeds := s.entropy.halfSeeds.erase h } }.placeSeed (h.2 ++ out.take 16)
  | none => { s with entropy := { s.entropy with halfSeeds := s.entropy.halfSeeds ++ [(e, out)] } }

/-- A job that waits for randomness ends ENTROPY_UNAVAILABLE (R493). -/
def State.entropyEnds (s : State) (id : Nat) : State :=
  (s.failJob id jsEntropy).bump Key.entropyStatusEntropyUnavailable

/-- A job waits for randomness, or ends at once after the gutter timeout (R493). -/
def State.waitEntropy (s : State) (id : Nat) : State :=
  if s.entropy.expired then s.entropyEnds id
  else s.modJob id fun j => { j with waitsEntropy := true }

/-- The shroud generators of a sconce's wicks get a new key from its instance (R317, R480). -/
def State.keyShrouds (s : State) (c : Nat) : State :=
  (span (16 * c) 16).foldl (fun s w => let s := (s.generate c 32).2; let x := s.wick w; s.setWick w { x with shroud := { x.shroud with keyed := true, produced := 0, rekeying := false } }) s

/-- The entropy block leaves STARTING once every instance is instantiated (R489). -/
def State.settleStart (s : State) : State :=
  if (List.range 17).all fun k => (s.drbg k).ready then { s with entropy := { s.entropy with starting := false } } else s

/-- Instance i is instantiated from the oldest seed; a sconce's shroud generators are keyed from theirs (R480, R489). -/
def State.instantiate (s : State) (i : Nat) : State :=
  let seed := s.entropy.pool.headD []
  let s := { s with entropy := { s.entropy with pool := s.entropy.pool.drop 1 } }
  let s := s.setDrbg i (Drbg.instantiated i s.timestamp.toNat seed)
  ((if i < 16 then s.keyShrouds i else s).settleStart).drawEpochs i

/-! ### The device's own keys -/

/-- The device is in PROVISION or FIELD, where its keys exist (R454). -/
def State.keyed (s : State) : Bool := s.lifeCycle = lcProvision || s.lifeCycle = lcField

def State.unitBytes : Bytes := leBytes 16 Config.unitId.toNat

def State.urs (s : State) : Bytes := s.roots.urs.getD []

/-- DRK (R454). -/
def rootKey (urs ck : Bytes) : Bytes := kmac256 urs (ck ++ ascii "root") 32 ""

/-- VSK, formed at need (R454). -/
def State.vsk (s : State) : Option Bytes := s.roots.drk.map fun k => kmac256 k (ascii "vault") 32 "PYRS-VSK"

/-- MBK (R454). -/
def measuredKey (drk m : Bytes) : Bytes := kmac256 drk (m ++ ascii "measure") 32 ""

/-- OSK_ID (R461). -/
def oskId (osk : Bytes) : Bytes := (kmac256 osk [] 32 "PYRS-OSKID").take 8

/-- The public key of an ML-KEM-1024 seed. -/
def mlkem1024Public (seed : Bytes) : Bytes := kemPublic 0x12 seed

/-- The UTK seed (R456). -/
def State.utkSeedOf (s : State) : Bytes := kmac256 s.urs (ascii "transport") 64 "PYRS-UTK"

/-- An ML-DSA-87 signature verifies over a message under a public key, pure, with an empty context. -/
def mldsa87Verifies (pk msg sig : Bytes) : Bool := dsaVerify 0x22 pk ([0x00#8, 0x00#8] ++ msg) sig

/-- A new CK is drawn from the hub instance (R454); nothing when that instance cannot serve. -/
def State.drawCk (s : State) : Option State :=
  match s.generate 16 32 with
  | (some k, s) => some ({ s with roots := { s.roots with ck := some k } }.bump Key.keyRootCkDrawn)
  | (none, _) => none

/-- The CK is erased, and the owner must provision the unit again (R613, R615). -/
def State.eraseCk (s : State) : State :=
  { s with roots := { s.roots with ck := none } }.setEntry Key.tamperStatusReprovisionNeeded 1

/-! ### Vault content -/

/-- Write a key's MRAM record under the present VSK (R465); without one nothing can be wrapped. -/
def State.writeRecord (s : State) (slot : Nat) (k : VaultKey) : State :=
  match s.vsk with
  | some v => { s with mram := putOption s.mram slot (some (v, k)) }
  | none => s

/-- A key enters a slice slot: PERSIST comes from the grant, and a persistent key gets its record (R463, R465). -/
def State.enterKey (s : State) (slot : Nat) (k : VaultKey) : State :=
  let p := bitOf (s.entry (Key.vaultSlotGrant slot)) 3
  let k := { k with persist := p }
  let s := s.setVaultKey slot (some k)
  if p then s.writeRecord slot k else s

/-- A slot is emptied and its record overwritten (R468); wicks that hold an expansion of the key lose it (R129). -/
def State.emptySlot (s : State) (slot : Nat) : State :=
  let s := { s.setVaultKey slot none with mram := putOption s.mram slot none }
  let hit := fun (r : Residency) => refKind r.keyRef.toNat = 1 && bitsOf r.keyRef.toNat 8 0 = slot
  { s with wicks := s.wicks.map fun p => match p.2.resident with | some r => if hit r then (p.1, p.2.scrub) else p | none => p }

/-- A generic key of a device slot (R465). -/
def deviceKey (k : Bytes) : VaultKey := { alg := 0, uses := 0, origin := 0, exportable := false, persist := true, key := k }

/-- Every record is reloaded at boot; one that does not unwrap leaves its slot empty and counts in PersistLost (R465). -/
def State.reloadVault (s : State) : State :=
  s.mram.foldl (fun s p =>
    if s.vsk = some p.2.1 then
      if p.1 = 509 then { s with roots := { s.roots with osk := some p.2.2.key } }
      else if p.1 = 508 then { s with roots := { s.roots with attestSecret := some p.2.2.key } }
      else s.setVaultKey p.1 (some p.2.2)
    else s.bump Key.keyRootPersistLost) s

end Sys2Proof.Machine
end

