-- ==== Sys2Proof/Machine/ResetOps.lean ====
section
/-! DEFINITION. SNUFF (R477 to R481), what the loss of the hub's power or a device reset leaves (R14, R343, R408, R449, R454, R489, R581), HALT (R612), tamper alarms (R609 to R616), and wakes (R587 to R590). -/

namespace Sys2Proof.Machine

/-! ### HOP servers -/

/-- A new server starts: assemblies, snapshots and sessions are discarded (R529, R552). -/
def State.handover (s : State) (v : Option Server) : State :=
  { s with hop := { s.hop with server := v, requesters := [], sessions := [], pending := none, authWait := none } }

/-! ### SNUFF -/

/-- A wick after SNUFF: WKR, secret granules, SV and f registers with their shadow, sponge state, shroud key and FIFO are erased (R477). -/
def Wick.snuffed (x : Wick) : Wick :=
  { x.scrub with wkr := 0, wkrAlg := 0, keyed := false, sponge := Sponge.cleared, sregs := [], stags := 0, fregs := [], shroud := Shroud.off, taper := x.taper }

/-- The digest contexts are erased; their handles stay known as used (R250, R477). -/
def State.eraseContexts (s : State) : State := s.closeContexts (fun _ => false)

/-- Lantern and McEliece cache entries and owner programs are dropped with their extents (R166, R184, R480, R581); each lantern entry counts. -/
def State.dropCaches (s : State) : State :=
  let s := s.bumpBy Key.lanternCacheEntriesDropped (s.lanterns.filter (fun e => !e.dropped && e.validFrom.isSome)).length
  let keep := fun (e : Extent) => match e.use with | .stream _ => true | _ => false
  let mces := s.mces.map fun (p : Nat × MceEntry) => (p.1, { p.2 with slice := 0, alg := 0, key := [], size := 0, pins := [], dropped := false, live := false })
  let programs := s.programs.map fun (p : Nat × OwnerProgram) => (p.1, { p.2 with image := [], pins := [], dropped := false, live := false })
  { s with lanterns := [], mces := mces, programs := programs, extents := s.extents.filter keep }

/-- The stores of R477 other than the CK. -/
def State.eraseStores (s : State) : State :=
  let roots := { s.roots with drk := none, mbk := none, osk := none, attestSecret := none, vaultSession := none }
  let wicks := s.wicks.map fun (p : Nat × Wick) => (p.1, p.2.snuffed)
  let tapers := s.tapers.map fun (p : Nat × Taper) => (p.1, { Taper.wiped with cleanJobs := p.2.cleanJobs, mustWipe := p.2.mustWipe, job := p.2.job })
  let sealers := s.sealers.map fun (p : Nat × Sealer) => (p.1, p.2.cleared)
  let entropy := { s.entropy with halfSeeds := [], pool := [], drbgs := [], holdOrder := [], starting := true }
  { s with vault := [], roots := roots, wicks := wicks, tapers := tapers, sealers := sealers, entropy := entropy, sealSets := [], cache := [] }.eraseContexts

/-- A job not past its commit point ends INTERNAL on SNUFF (R480). -/
def State.snuffJob (s : State) (j : Job) : State :=
  let s :=
    if j.phase = .staged || j.phase = .closing then
      s.modJob j.id fun j => { j with status := BitVec.ofNat 8 jsInternal, w6 := BitVec.ofNat 64 (j.failW6 jsInternal), output := [] }
    else s.failJob j.id jsInternal
  s.modJob j.id fun j => { j with keyOut := none, drawn := [] }

/-- Hub cycles of a SNUFF, 2.0 µs (R478). -/
def snuffCycles : Nat := 2400

/-- SNUFF is raised: every fetched job ends INTERNAL, the stores are erased, every session becomes FREE, the caches are dropped, HOP sessions end, the retention block is discarded, and the seal key sets and the clear of the reservoir follow (R477 to R480, R552, R594, R343). It is complete 2.0 µs later (R478, step 5). -/
def State.snuff (s : State) : State :=
  let s := s.jobs.foldl State.snuffJob s
  let s := s.eraseStores
  let s := (s.sessions.map (·.1)).foldl State.freeSession s
  let s := s.dropCaches
  { s with hop := { s.hop.keepSessions (fun _ => false) with pending := none, authWait := none }, retention := none, clearingAll := true, tamper := { s.tamper with snuffDue := some (s.hubCycle + snuffCycles), snuffHalt := false } }

/-! ### Losing the hub -/

/-- The entry keeps its value across resets: it persists, or the pilot latches it (R14, R612). -/
def keepsValue (key : Nat) : Bool :=
  key = Key.tamperStatusHaltLatched ||
  (match dictRow (key / 256) (key % 256) with
   | some r => r.persist
   | none => false)

/-- Everything the hub and its clients hold is lost; entries with Persist no return to their defaults (R14, R449, R454, R581). Loop conditions stay, since the pilot watches loops in every state (R608). -/
def State.hubOff (s : State) : State :=
  let loops := s.entry Key.tamperStatusSourceState / 32 % 16 * 32
  let streams := s.streams.map fun (p : Nat × Stream) => (p.1, { Stream.off with lastEpoch := p.2.lastEpoch })
  let s := s.eraseStores.dropCaches
  let sessions := s.sessions.map fun (p : Nat × Session) => (p.1, p.2.freed)
  let s := { s with dict := s.dict.filter (fun p => keepsValue p.1), sessions := sessions, jobs := [], erasing := [], windowWrites := [], queues := [], lastServed := 2047, lastSteady := 511, fetchStopped := false, fns := [], reservoir := [], lineTags := [], extents := [], clearing := [], clearingAll := false, windows := [], quotas := [], links := [], modes := [], arbiters := [], streams := streams, pauses := [], wicks := [], tapers := [], control := { patch := [], map := [] }, library := [], sealers := [], digesterOctets := [], digesterAt := [], entropy := Entropy.reset, events := [], eventLog := [], selfOwn := [], relightDue := [], fatal := none, dump := [], mailboxes := [], mirrorBuilt := false, resetPending := none, entering := none, sconces := [] }
  let s := { s with tamper := { s.tamper with disarmed := s.tamper.disarmed &&& 0x1E0, testSource := none, testAlarmed := false, testJudged := false, failures := [] } }
  (s.setEntry Key.tamperStatusSourceState loops).handover (some .pilot)

/-- Record a wake, all fields at once (R589); a wake by WakeAtTime clears it (R603). -/
def State.recordWake (s : State) (source : Nat) (unit slc : UnitId) (pin : Nat) : State :=
  let s := s.setEntry Key.pilotPowerLastWakeSource source
  let s := s.setEntry Key.pilotPowerLastWakeUnit unit.toNat
  let s := s.setEntry Key.pilotPowerLastWakeSlice slc.toNat
  let s := s.setEntry Key.pilotPowerLastWakePin pin
  let s := s.setEntry Key.pilotPowerLastWakeTime s.timestamp.toNat
  if source = 4 then s.setEntry Key.pilotPowerWakeAtTime 0 else s

/-! ### Tamper alarms -/

/-- POWER of an alarm record (R616). -/
def State.alarmPower (s : State) : Nat :=
  if s.haltLatched then 5 else
  match s.power with
  | .lit => 0
  | .low => 1
  | .dark => 2
  | .cell => 3
  | .booting => 4
  | .halted => 5

/-- Write an alarm record in the ring of 16 (R616). -/
def State.logAlarm (s : State) (src response flags detail : Nat) : State :=
  let n := s.entry Key.tamperLogNextSeq
  let r := leBytes 8 s.timestamp.toNat ++ leBytes 1 src ++ leBytes 1 response ++ leBytes 1 s.alarmPower ++ leBytes 1 flags ++
    leBytes 4 detail ++ leBytes 4 n ++ leBytes 4 0
  (s.setEntry (Key.tamperLogRecord (n % 16)) (leNat r)).setEntry Key.tamperLogNextSeq ((n + 1) % 2 ^ 32)

/-- HALT: the main reset is asserted and latched; links and streams are as after a device reset, and the pilot serves (R612). In DARK and CELL only the latch is set (R614). -/
def State.halt (s : State) : State :=
  let s := s.setEntry Key.tamperStatusHaltLatched 1
  if s.power = .dark || s.power = .cell then s else ({ s.hubOff with power := .halted, retention := none }).emit .mainReset

/-- Step 5 of a SNUFF in progress: it is counted and dated, and HALT follows where a joined alarm requires it (R478, R613). -/
def State.endSnuff (s : State) : State :=
  if s.tamper.snuffDue.isNone then s else
  let t := { s with tamper := { s.tamper with snuffDue := none, snuffHalt := false } }
  let t := (t.bump Key.keyRootSnuffs).setEntry Key.keyRootLastSnuffTime t.timestamp.toNat
  if s.tamper.snuffHalt then t.halt else t

/-- A SNUFF whose 2.0 µs have passed is complete (R478). -/
def State.settleSnuff (s : State) : State :=
  if s.tamper.snuffDue.any (fun due => decide (due ≤ s.hubCycle)) then s.endSnuff else s

/-- A device reset with its cause (R449, R560, R580, R594). It takes longer than a SNUFF, which runs from its own distribution and ends first (R478, log 63). -/
def State.deviceReset (s : State) (cause : Nat) : State :=
  let s := s.endSnuff
  if s.haltLatched then s else
  let s := { s.hubOff with power := .booting, retention := none }
  let s := (s.bump Key.deviceControlResetCount).setEntry Key.deviceControlLastResetCause cause
  (s.recordWake 6 0 0 0xFF).emit .mainReset

/-- The response of an alarm acts (R611, R613): one that finds a SNUFF in progress joins it, one in LIT, LOW or a boot raises a SNUFF that HALT may follow, and in DARK and CELL only HALT applies (R614). -/
def State.alarmResponse (s : State) (response : Nat) : State :=
  if s.tamper.snuffDue.isSome then { s with tamper := { s.tamper with snuffHalt := s.tamper.snuffHalt || response = 2 } }
  else if 1 ≤ response && s.hubOn then
    let t := s.snuff
    { t with tamper := { t.tamper with snuffHalt := decide (response = 2) } }
  else if response = 2 then s.halt
  else s

/-- A source's condition begins: an armed source raises one alarm (R609), recorded with the response applied and, where a SNUFF is in progress, JOINED (R611, R613, R616); one under test is suppressed (R617); a CK erasure applies in every state (R613), and nothing else while HALT is latched. -/
def State.alarm (s : State) (src detail : Nat) : State :=
  let bit := src - 1
  let s := s.settleSnuff
  if s.tamper.disarmed.getLsbD bit then s else
  let s := s.setEntryBit Key.tamperStatusSourceState bit true
  let s := { s with tamper := { s.tamper with disarmed := s.tamper.disarmed ||| BitVec.ofNat 10 (2 ^ bit) } }
  let response := s.entry (Key.tamperControlResponse bit)
  if s.tamper.testSource = some src then
    let s := s.logAlarm src response 1 detail
    let s := s.bump Key.tamperStatusSuppressed
    let s := if s.tamper.testJudged then s else s.setEntry Key.tamperTestTestResult 2
    { s with tamper := { s.tamper with testAlarmed := true, testJudged := true } }
  else
    let ck := (src = 1 || (6 ≤ src && src ≤ 9)) && 1 ≤ response
    let s := s.logAlarm src response ((if ck then 2 else 0) + (if s.tamper.snuffDue.isSome then 4 else 0)) detail
    let s := ((s.bump Key.tamperStatusAlarms).setEntry Key.tamperStatusLastAlarmSource src).setEntry Key.tamperStatusLastAlarmTime s.timestamp.toNat
    let s := if ck then s.eraseCk.bump Key.tamperStatusCkErasures else s
    if s.haltLatched then s else s.alarmResponse response

/-- A hub-powered source is active (R608). -/
def State.hubMonitors (s : State) : Bool := s.hubOn && !s.haltLatched

/-! ### Wakes -/

/-- Domains that are on when a sconce is on: its common part and its 16 wicks (R597). -/
def sconceDomains (c : Nat) : List Nat := (0x200 + c) :: span (16 * c) 16

/-- Count power-ups of domains (R606). -/
def State.powerUps (s : State) (ds : List Nat) : State := ds.foldl (fun s d => s.bump (Key.powerDomainPowerUps d)) s

/-- The shroud generator of a wick asks its instance for a key; one that holds lets it wait (R317, R590, R601). -/
def State.keyShroud (s : State) (c w : Nat) : State :=
  let ready := (s.drbg c).ready
  let g := s.generate c 32
  let x := g.2.wick w
  g.2.setWick w { x with shroud := { x.shroud with keyed := ready, rekeying := ready && g.1.isNone } }

/-- A sconce takes jobs at its level; its shroud generators are keyed once its instance is instantiated (R601, R590). -/
def State.sconceOn (s : State) (c : Nat) : State :=
  let s := s.setEntry (Key.sconcePowerState c) 1
  let s := s.setEntry (Key.sconcePowerCurrentLevel c) (s.entry (Key.sconcePowerLevel c))
  let s := (span (16 * c) 16).foldl (fun s w => s.keyShroud c w) s
  s.powerUps (sconceDomains c)

/-- A sconce's domains are off (R597): its wicks lose what they hold. -/
def State.sconceOff (s : State) (c : Nat) : State :=
  let s := s.setEntry (Key.sconcePowerState c) 0
  let s := s.setEntry (Key.sconcePowerCurrentLevel c) 0xFF
  (span (16 * c) 16).foldl (fun s w => s.setWick w Wick.fresh) s

/-- The sconces whose Enable is 01h. -/
def State.enabledSconces (s : State) : List Nat := (List.range 16).filter fun c => s.flag (Key.sconcePowerEnable c)

/-- The host links in force. -/
def State.enabledLinks (s : State) : List Nat := s.links.map (·.1)

/-- An octet carries an enabled host link. -/
def State.hostOctet (s : State) (o : Nat) : Bool := s.enabledLinks.any fun l => (s.linkOctets l).contains o

/-- A media port or host link uses an octet that is on (R597). -/
def State.octetOn (s : State) (o : Nat) : Bool :=
  if s.power = .lit then s.hostOctet o || s.octetMode o ≠ 0
  else s.power = .low && s.hostOctet o

/-- The digesters and sealers whose bound octet is on (R597). -/
def State.boundDomains (s : State) : List Nat :=
  ((List.range 32).filter fun d => s.octetOn (Table.get id s.digesterOctets d)).map (0x218 + ·) ++
    ((List.range 32).filter fun n => s.octetOn (s.sealer n).octet).map (0x238 + ·)

/-- The SerDes octets that are on and, with `media`, carry no host link: those that power up at a wake from LOW (R590, R597). -/
def State.octetDomains (s : State) (media : Bool) : List Nat :=
  ((List.range 32).filter fun o => s.octetOn o && !(media && s.hostOctet o)).map (0x258 + ·)

/-- Every slice's rule epoch is 0000h at an entry to LIT (R369); a wick's goes with its power. -/
def State.zeroEpochs (s : State) : State :=
  { s with dict := s.dict.filter fun p => !(decide (0x6400 ≤ p.1 / 256) && decide (p.1 / 256 < 0x6600) && decide (p.1 % 256 = 0x41)) }

/-- A wake from LOW: the device is LIT again, sconces and media octets power up, and streams wait for frames (R590). -/
def State.wakeLow (s : State) : State :=
  let s := { s with power := .lit, fetchStopped := false, activityAt := s.timestamp }
  let fns := s.fns.map fun (p : Nat × HostFn) => (p.1, { p.2 with ready := s.linkUp p.1 })
  let s := s.enabledSconces.foldl State.sconceOn { s with fns := fns }
  let s := s.powerUps (span 0x210 8 ++ s.boundDomains ++ s.octetDomains true)
  s.liveStreams.foldl State.streamWaits s

end Sys2Proof.Machine
end

