-- ==== Sys2Proof/Machine/BootOps.lean ====
section
/-! DEFINITION. Boot: fuses (R502, R503), firmware images (R516 to R521), keys at boot (R454 to R456, R465), the retention block (R593, R594), the entry to LIT (R31, R346, R347, R374, R415, R419, R522), and life-cycle transitions (R504 to R511, R482). -/

namespace Sys2Proof.Machine

/-! ### Firmware images -/

/-- Size of an image slot (R516). -/
def slotBytes : Nat := 0x800000

/-- One section entry (R518). -/
structure Section where
  type : Nat
  offset : Nat
  length : Nat
  dest : Nat
  clean : Bool
  deriving DecidableEq, Repr

/-- Section entry i of an image (R517, R518). -/
def imageSection (img : Bytes) (i : Nat) : Section :=
  let b := cut img (2720 + 32 * i) 32
  { type := field b 0 1, offset := field b 4 4, length := field b 8 4, dest := field b 12 4, clean := field b 1 3 = 0 && field b 16 16 = 0 }

/-- The sections an image names. -/
def imageSections (img : Bytes) : List Section := (List.range (field img 5 1)).map (imageSection img)

/-- Two ranges have no byte in common. -/
def apart (a n b m : Nat) : Bool := a + n ≤ b || b + m ≤ a || n = 0 || m = 0

/-- No two members of a list stand in a relation that fails. -/
def pairwiseBool {α : Type} (r : α → α → Bool) : List α → Bool
  | [] => true
  | a :: l => l.all (r a) && pairwiseBool r l

/-- The rules of R518 for one section. -/
def sectionOk (len : Nat) (x : Section) : Bool :=
  x.clean && 1 ≤ x.type && x.type ≤ 4 && x.offset % 64 = 0 && 3072 ≤ x.offset && x.offset + x.length ≤ len &&
  (if x.type ≤ 2 then x.dest + x.length ≤ 0x80000 else if x.type = 3 then x.dest + x.length ≤ 0x200000 else x.dest = 0)

/-- Two sections share neither image bytes nor a destination (R517, R518). -/
def sectionsApart (x y : Section) : Bool :=
  apart x.offset x.length y.offset y.length &&
  (if x.type ≤ 2 && y.type ≤ 2 || x.type = 3 && y.type = 3 then apart x.dest x.length y.dest y.length else true) &&
  !(x.type = 4 && y.type = 4)

/-- MAGIC, VERSION, field ranges, reserved bytes and section rules (R517 to R519). -/
def imageHeaderOk (img : Bytes) : Bool :=
  let len := field img 16 4
  cut img 0 4 = [0x50#8, 0x59#8, 0x46#8, 0x57#8] && field img 4 1 = 1 && 1 ≤ field img 5 1 && field img 5 1 ≤ 8 && field img 6 2 = 0 &&
  field img 8 4 ≠ 0 && field img 12 4 ≤ field img 8 4 && 3136 ≤ len && len ≤ 8354189 && field img 24 40 = 0 && field img 2976 96 = 0 &&
  ((List.range 8).all fun i => i < field img 5 1 || field img (2720 + 32 * i) 32 = 0) &&
  (imageSections img).all (sectionOk len) && pairwiseBool sectionsApart (imageSections img)

/-- An SLH-DSA-SHAKE-256s signature verifies, pure, with an empty context. -/
def slh256sVerifies (pk msg sig : Bytes) : Bool := slhVerifies 0x39 pk ([0x00#8, 0x00#8] ++ msg) sig

/-- The slot result of an image (R519). -/
def slotCheck (readOk : Bool) (img : Bytes) (minVersion : Nat) : Nat :=
  let len := field img 16 4
  let covered := img.take len
  if !readOk then 6
  else if !imageHeaderOk img then 1
  else if sha3_256 (cut img 64 2656) ≠ leBytes 32 Config.firmwareKeyHash.toNat then 2
  else if !mldsa87Verifies (cut img 64 2592) covered (cut img len 4627) then 3
  else if !slh256sVerifies (cut img 2656 64) covered (cut img (len + 4627) 29792) then 4
  else if field img 8 4 < minVersion then 5
  else 0

/-- The boot flash of a slot. -/
def State.flashOf (s : State) (k : Nat) : List Host.Cell := if k = 0 then s.flash0 else s.flash1

def State.setFlash (s : State) (k : Nat) (m : List Host.Cell) : State := if k = 0 then { s with flash0 := m } else { s with flash1 := m }

/-- An image slot as the ROM reads it (R516). -/
def State.slotImage (s : State) (k : Nat) : Bytes := Memory.read erasedByte (s.flashOf k) 0 slotBytes

/-- An image written through the board's own path to the flash (R523). -/
def State.boardImage (s : State) (k : Nat) (b : Option Bytes) : State :=
  match b with
  | some img => s.setFlash k (Memory.write erasedByte [] 0 (img.take slotBytes))
  | none => s

/-! ### Fuses -/

/-- Every bit of maj that a copy lacks is programmed into it (R503). -/
def State.repairFuses (s : State) (m : BitVec 16) : State :=
  { s with roots := { s.roots with c1 := s.roots.c1 ||| m, c2 := s.roots.c2 ||| m, c3 := s.roots.c3 ||| m } }

/-- The fuse copies are read (R502). -/
def State.readFuses (s : State) : State :=
  { s with roots := { s.roots with copiesRead := (s.roots.c3 ++ s.roots.c2 ++ s.roots.c1 : BitVec 48) } }

/-! ### Keys and firmware -/

/-- The measured image runs: M goes to the vault and to BootControl (R521), and the boot's counters move (R520, R526). -/
def State.runImage (s : State) (k : Nat) (img : Bytes) : State :=
  let m := sha3_512 (img.take (field img 16 4))
  let s := s.bumpBy (Key.digesterStatusBytesAbsorbed 32) (field img 16 4)
  let s := { s with roots := { s.roots with measurement := m } }
  let s := s.setEntry Key.bootControlMeasurement (leNat m)
  let s := s.setEntry Key.bootControlRunningSlot k
  let s := s.setEntry Key.bootControlFirmwareVersion (field img 8 4)
  let s := s.setEntry Key.bootControlMinFirmwareVersion (max (s.entry Key.bootControlMinFirmwareVersion) (field img 12 4))
  let s := s.bump Key.bootControlBoots
  if k = s.entry Key.bootControlPreferredSlot then s else s.bump Key.bootControlSlotFallbacks

/-- The taper patch bundle of an image: the part its ML-DSA-87 signature under the firmware key covers, the signature, the version, the words and the map (R221). Its layout inside the section is not given, so each of these is a free function of the section's bytes (log 3). The words stand in patch RAM, F00h to FFFh of the control store (R216). -/
def State.applyPatch (s : State) (img : Bytes) : State :=
  match (imageSections img).find? (fun x => x.type = 4) with
  | none => s
  | some x =>
    let b := cut img x.offset x.length
    let version := leNat (Config.bytes 4 4 [b])
    if !mldsa87Verifies (cut img 64 2592) (Config.signedPart b) (Config.bytes 5 4627 [b]) || version < s.entry Key.taperBankMinPatchVersion then s.bump Key.taperBankPatchRefused
    else
      let words := Config.bytes 6 4096 [b]
      let entries := Config.bytes 7 64 [b]
      let patch := (List.range 256).foldl (fun t i => Table.set (fun _ => 0) t (0xF00 + i) (BitVec.ofNat 128 (field words (16 * i) 16))) []
      let map := (List.range (leNat (Config.bytes 8 1 [b]) % 17)).map fun i => (BitVec.ofNat 12 (field entries (4 * i) 2), BitVec.ofNat 12 (0xF00 + field entries (4 * i + 2) 1))
      let s := { s with control := { patch := patch, map := map } }
      (s.setEntry Key.taperBankPatchVersion version).setEntry Key.taperBankMinPatchVersion version

/-- The wick library of an image enters the library store (R287), and its version is read (R295). How the section lays out its programs is not given: their number, lengths and bytes are free functions of it (log 3). -/
def State.placeLibrary (s : State) (img : Bytes) : State :=
  match (imageSections img).find? (fun x => x.type = 3) with
  | none => s
  | some x =>
    let b := cut img x.offset x.length
    let programs := (List.range (leNat (Config.bytes 10 2 [b]))).map fun i => Config.bytes 11 (leNat (Config.bytes 12 4 [b, leBytes 2 i])) [b, leBytes 2 i]
    { s with library := programs }.setEntry Key.wickProgramsLibraryVersion (leNat (Config.bytes 9 4 [b]))

/-- A CK is held, or drawn when none is found (R454, R615); nothing while the hub instance cannot serve. -/
def State.haveCk (s : State) : Option State := if s.roots.ck.isSome then some s else s.drawCk

/-- The keys formed at boot in PROVISION or FIELD: DRK, MBK, UTK, and the reloaded vault (R454, R456, R465). -/
def State.formKeys (s : State) : State :=
  let drk := rootKey s.urs (s.roots.ck.getD [])
  let s := { s with roots := { s.roots with drk := some drk, mbk := some (measuredKey drk s.roots.measurement), utkSeed := some s.utkSeedOf } }
  (s.setEntry Key.keyRootUtkPublicKey (leNat (mlkem1024Public s.utkSeedOf))).reloadVault

/-- The vault session key is drawn (R455). -/
def State.drawVaultSession (s : State) : State :=
  match s.generate 16 32 with
  | (some f, s) => { s with roots := { s.roots with vaultSession := some f } }
  | (none, s) => s

/-! ### The retention block -/

/-- The keys of a queue slot that the block holds, with their sizes (R593). -/
def retainedKeys (g : Nat) : List (Nat × Nat) :=
  [(Key.queueSlotKind g, 1), (Key.queueSlotSizeLog2 g, 1), (Key.queueSlotRingBase g, 8), (Key.queueSlotStatusAddr g, 8),
   (Key.queueSlotWeight g, 1), (Key.queueSlotBurst g, 1), (Key.queueSlotInFlightLimit g, 2)]

/-- The 22 bytes of a queue slot (R593). -/
def State.retainedSlot (s : State) (g : Nat) : Bytes := (retainedKeys g).flatMap fun k => leBytes k.2 (s.entry k.1)

/-- Write the retention block (R593): slots at their defaults are left unlisted. -/
def State.retain (s : State) : State :=
  let dflt := leNat ((retainedKeys 0).flatMap fun k => leBytes k.2 (dictDefault s.variant k.1))
  let slots := (List.range 2048).filterMap fun g =>
    let v := leNat (s.retainedSlot g)
    if v = dflt then none else some (g, v)
  { s with retention := some { time := s.timestamp, slots := slots } }

/-- The bytes of the block (R593): magic, length, time, the CRC-32C of what follows, 44 zeros, and 22 bytes for each slot. -/
def Retention.bytes (variant : Variant) (r : Retention) : Bytes :=
  let dflt := leNat ((retainedKeys 0).flatMap fun k => leBytes k.2 (dictDefault variant k.1))
  let slots := (List.range 2048).flatMap fun g => leBytes 22 (((r.slots.find? fun p => p.1 = g).map (·.2)).getD dflt)
  let rest := leBytes 44 0 ++ slots
  [0x50#8, 0x59#8, 0x52#8, 0x54#8] ++ leBytes 4 45120 ++ leBytes 8 r.time.toNat ++ leBytes 4 (crc32c rest) ++ rest

/-- Restore one slot's configuration (R593). -/
def State.restoreSlot (s : State) (g v : Nat) : State :=
  ((retainedKeys g).foldl (fun (p : State × Nat) k => (p.1.setEntry k.1 (p.2 % 256 ^ k.2), p.2 / 256 ^ k.2)) (s, v)).1

/-- After a wake from DARK the block is restored and marked invalid; without a valid one RetentionLost counts (R594). -/
def State.restoreRetention (s : State) : State :=
  if s.entry Key.pilotPowerLastWakeSource = 6 then s else
  match s.retention with
  | some r => { r.slots.foldl (fun s p => s.restoreSlot p.1 p.2) s with retention := none }
  | none => s.bump Key.pilotPowerRetentionLost

/-! ### Boot -/

/-- The slots in the order the ROM tries them (R520). -/
def State.slotOrder (s : State) : List Nat := if s.entry Key.bootControlPreferredSlot = 1 then [1, 0] else [0, 1]

/-- Try one slot (R519): its result is recorded. -/
def State.trySlot (s : State) (readOk : Bool) (k : Nat) : Nat × State :=
  let r := slotCheck readOk (s.slotImage k) (s.entry Key.bootControlMinFirmwareVersion)
  (r, s.setEntry (if k = 0 then Key.bootControlSlotResult0 else Key.bootControlSlotResult1) r)

/-- Choose the image that runs: the first accepted slot (R520). -/
def State.chooseSlot (s : State) (ok0 ok1 : Bool) : List Nat → Option Nat × State
  | [] => (none, s)
  | k :: rest =>
    match s.trySlot (if k = 0 then ok0 else ok1) k with
    | (0, s) => (some k, s)
    | (_, s) => s.chooseSlot ok0 ok1 rest

/-- The firmware starts and serves, and builds the capability list (R522 step 7, R556). -/
def State.startFirmware (s : State) (img : Bytes) : State :=
  let s := ((s.applyPatch img).placeLibrary img).handover (some .firmware)
  { s with mirrorBuilt := true }

/-- Steps 3 to 9 of R522. A boot in PROVISION or FIELD without a CK waits for the hub instance (R489). -/
def State.boot (s : State) (ok0 ok1 : Bool) (b0 b1 : Option Bytes) : State :=
  if !s.hubOn || s.power ≠ .booting || s.haltLatched || s.hop.server ≠ some .pilot || s.fatal.isSome then s else
  let s0 := s
  let s := (s.boardImage 0 b0).boardImage 1 b1
  let s := s.readFuses
  let m := majority s.roots.c1 s.roots.c2 s.roots.c3
  let s := if lifeCode m = m.toNat then s.repairFuses m else s
  if s.lifeCycle = lcScrap then s else
  match s.chooseSlot ok0 ok1 s.slotOrder with
  | (none, s) => s.handover (some .rom)
  | (some k, s) =>
    let img := s.slotImage k
    let s := s.runImage k img
    if s.lifeCycle = lcRetired then s.startFirmware img
    else if s.keyed then
      match s.haveCk with
      | none => s0
      | some s => { ((s.formKeys.drawVaultSession).startFirmware img).restoreRetention with clearingAll := true }
    else { ((s.drawVaultSession).startFirmware img).restoreRetention with clearingAll := true }

/-! ### Entry to LIT -/

/-- The areas' boundaries in force, and whether they are the defaults (R346). -/
def State.layoutNow (s : State) : (Nat × Nat × Nat) × Bool :=
  let sb := s.entry Key.reservoirLayoutStreamBase
  let lb := s.entry Key.reservoirLayoutLanternBase
  let mb := s.entry Key.reservoirLayoutMcElieceBase
  if sb ≤ lb && lb ≤ mb && mb ≤ s.entry Key.reservoirLayoutSessionBase then ((sb, lb, mb), false)
  else ((dictDefault s.variant Key.reservoirLayoutStreamBase, dictDefault s.variant Key.reservoirLayoutLanternBase,
         dictDefault s.variant Key.reservoirLayoutMcElieceBase), true)

/-- The slices with a configured window: slice, base, size. -/
def State.windowList (s : State) : List (Nat × Nat × Nat) :=
  (List.range 512).filterMap fun n =>
    let size := s.entry (Key.reservoirSliceWindowSize n)
    if size = 0 then none else some (n, s.entry (Key.reservoirSliceWindowBase n), size)

/-- The windows in force, and how many were treated as empty (R347). -/
def State.windowsNow (s : State) (streamBase : Nat) : Table (Nat × Nat) × Nat :=
  let all := s.windowList
  let below := all.filter fun w => w.2.1 + w.2.2 ≤ streamBase
  let kept := below.filter fun w => below.all fun v => v.1 = w.1 || apart v.2.1 v.2.2 w.2.1 w.2.2
  (kept.map fun w => (w.1, w.2), all.length - kept.length)

/-- The enabled host links with their first octet and their octet count (R374, R411). -/
def State.linksNow (s : State) : Table (Nat × Nat) :=
  ((List.range 8).filter fun l => s.flag (Key.hostLinkEnable l)).map fun l =>
    (l, s.entry (Key.hostLinkFirstOctet l), if s.entry (Key.hostLinkWidth l) = 16 then 2 else 1)

/-- The media modes that are not 00h (R451). -/
def State.modesNow (s : State) : Table Nat :=
  (List.range 32).filterMap fun o => let m := s.entry (Key.octetMediaMode o); if m = 0 then none else some (o, m)

/-- Host links train, or stay down when they name a common octet, or when their reference clock is absent (R374, R665). -/
def State.startLinks (s : State) : State :=
  s.enabledLinks.foldl (fun s l =>
    if s.enabledLinks.any fun m => m ≠ l && (s.linkOctets m).any fun o => (s.linkOctets l).contains o then
      (s.setEntry (Key.hostLinkLinkState l) 4).bump (Key.hostLinkLinkErrors l)
    else if (s.linkOctets l).all fun o => s.supplies.refclk100.getLsbD (o / 8) then s.setEntry (Key.hostLinkLinkState l) 1
    else s.setEntry (Key.hostLinkLinkState l) 0) s

/-- The quotas a slice's entries hold, where they are not at their defaults (R348, R350). -/
def State.quotasNow (s : State) : Table (Nat × Nat × Nat) :=
  (List.range 512).filterMap fun n =>
    let q := (s.entry (Key.reservoirSliceStreamQuota n), s.entry (Key.reservoirSliceLanternQuota n), s.entry (Key.reservoirSliceMcElieceQuota n))
    if q = (0xFFFFFFFF, 0xFFFFFFFF, 0xFFFFFFFF) then none else some (n, q)

/-- OctetMedia State at the entry to LIT (R415). -/
def State.startOctets (s : State) : State :=
  (List.range 32).foldl (fun s o =>
    let v := if s.octetMode o = 0 then 0 else if s.hostOctet o then 2 else 1
    s.setEntry (Key.octetMediaState o) v) s

/-- Sealers and digesters take the octets the bindings name (R31, R256). -/
def State.bindUnits (s : State) : State :=
  let octet := fun (mirror : Nat → Nat) (n : Nat) => if s.flag (mirror n) then n ^^^ 16 else n
  let sealers := (List.range 32).foldl (fun t n => Table.set Sealer.idle t n { Sealer.idle n with octet := octet Key.unitBindingSealerMirror n }) []
  let digesters := (List.range 32).foldl (fun t n => Table.set id t n (octet Key.unitBindingDigesterMirror n)) []
  { s with sealers := sealers, digesterOctets := digesters }

/-- Enable a stream: a new EPOCH, RSNs from 0, WAITING for a RATE (R419, R421, R447). -/
def State.startStream (s : State) (n : Nat) : State :=
  let s := s.setStream n { Stream.off with lastEpoch := (s.stream n).lastEpoch }
  (s.setStreamState n stWaiting).newEpoch n

/-- Step 10 of R522: areas, windows, bindings, links, octets, sconces and streams are set, and every link reads READY. -/
def State.enterLit (s : State) : State :=
  if s.power ≠ .booting || s.hop.server ≠ some .firmware || s.clearingAll || s.lifeCycle = lcRetired || s.fatal.isSome || s.haltLatched then s else
  let (layout, fallback) := s.layoutNow
  let (windows, emptied) := s.windowsNow layout.1
  let s := { s with layout := layout, windows := windows, quotas := s.quotasNow, links := s.linksNow, modes := s.modesNow, power := .lit, activityAt := s.timestamp }
  let s := s.setEntry Key.reservoirLayoutLayoutStatus (if fallback then 1 else 0)
  let s := s.bumpBy Key.reservoirLayoutLayoutErrors (emptied + if fallback then 1 else 0)
  let s := s.startLinks.startOctets.bindUnits.zeroEpochs
  let s := (List.range 16).foldl (fun s c => if s.flag (Key.sconcePowerEnable c) then s.sconceOn c else s.sconceOff c) s
  let s := s.powerUps (span 0x210 8 ++ s.boundDomains ++ s.octetDomains false ++ span 0x278 64)
  let s := ((List.range 1024).filter fun n => s.flag (Key.mediaStreamEnable n)).foldl State.startStream s
  (List.range 8).foldl (fun s l => s.setFn l { s.fn l with ready := true }) s

/-! ### Life-cycle transitions -/

/-- LastResult codes (R506). -/
def lrDone : Nat := 1
def lrFormat : Nat := 2
def lrKey : Nat := 3
def lrSignature : Nat := 4
def lrStale : Nat := 5
def lrNotAllowed : Nat := 6
def lrSupply : Nat := 7
def lrProgramFail : Nat := 0x0A

/-- The transitions that exist (R504). -/
def transitionExists (src dst : Nat) : Bool :=
  (src = lcRaw && dst = lcTest) || (src = lcTest && dst = lcProvision) || (src = lcProvision && dst = lcField) ||
  (src = lcField && dst = lcRetired) || (src = lcRetired && dst = lcScrap) ||
  (dst = lcScrap && (src = lcRaw || src = lcTest || src = lcProvision || src = lcField))

/-- The hash of the signer's key (R504): the vendor's from RAW and TEST, the owner's from later states. -/
def State.signerHash (s : State) (src : Nat) : Bytes :=
  if src = lcRaw || src = lcTest then leBytes 32 Config.transitionKeyHash.toNat else s.roots.ownerHash

/-- The owner key hash row holds no bit that a hash lacks (R506, R507). -/
def rowFits (row hash : Bytes) : Bool := (row.zip hash).all fun p => p.1 &&& p.2 = p.1

/-- Every copy's bits are bits of the target (R504). -/
def State.copiesFit (s : State) (dst : BitVec 16) : Bool :=
  [s.roots.c1, s.roots.c2, s.roots.c3].all fun c => c &&& dst = c

/-- The first check of R506 that fails, 0 for none. -/
def State.transitionCheck (s : State) (r : Bytes) : Nat :=
  let src := field r 24 2
  let dst := field r 26 2
  let toProvision := src = lcTest && dst = lcProvision
  let hash := cut r 48 32
  let zero := hash = List.replicate 32 0#8
  if cut r 0 4 ≠ [0x50#8, 0x59#8, 0x4C#8, 0x54#8] || field r 4 1 ≠ 1 || field r 5 3 ≠ 0 || field r 28 4 ≠ 0 || field r 40 8 ≠ 0 ||
      field r 80 48 ≠ 0 || (toProvision && zero) || (!toProvision && !zero) then lrFormat
  else if s.signerHash src = List.replicate 32 0#8 || sha3_256 (cut r 128 2592) ≠ s.signerHash src then lrKey
  else if !mldsa87Verifies (cut r 128 2592) (r.take 2720) (cut r 2720 4627) then lrSignature
  else if cut r 8 16 ≠ State.unitBytes || src ≠ s.lifeCycle || field r 32 8 ≠ s.entry Key.lifeCycleCounter then lrStale
  else if !transitionExists src dst || !s.copiesFit (BitVec.ofNat 16 dst) then lrNotAllowed
  else if toProvision && (!rowFits s.roots.ownerHash hash || s.roots.urs.isNone || s.roots.rowPartial) then lrNotAllowed
  else 0

/-- Steps 1 to 3 of R509 with R482: SNUFF, the CK and every MRAM key record destroyed, and the owner key hash row blown. -/
def State.destroyKeys (s : State) (r : Bytes) : State :=
  let s := (if s.tamper.snuffDue.isSome then s else s.snuff).endSnuff
  if s.haltLatched then s else
  let s := if s.roots.ck.isSome then s.eraseCk else s
  let s := { s with mram := [] }
  if field r 24 2 = lcTest && field r 26 2 = lcProvision then
    { s with roots := { s.roots with ownerHash := s.roots.ownerHash.zipWith (· ||| ·) (cut r 48 32) } }
  else s

/-- The fuse bits to blow, in order: copy by copy, bits descending (R509). -/
def State.fusePlan (s : State) (dst : BitVec 16) : List (Nat × Nat) :=
  let bits := fun (k : Nat) (c : BitVec 16) => ((List.range 16).reverse.filter fun b => dst.getLsbD b && !c.getLsbD b).map fun b => (k, b)
  bits 0 s.roots.c1 ++ bits 1 s.roots.c2 ++ bits 2 s.roots.c3

/-- Blow one fuse bit. -/
def State.blow (s : State) (p : Nat × Nat) : State :=
  let m := BitVec.ofNat 16 (2 ^ p.2)
  let r := s.roots
  let r := if p.1 = 0 then { r with c1 := r.c1 ||| m } else if p.1 = 1 then { r with c2 := r.c2 ||| m } else { r with c3 := r.c3 ||| m }
  { s with roots := r }

/-- An alarm that falls at a point of a transition; one that asserts HALT before step 6 abandons it, and LastResult reads ABORTED (R510). -/
def State.alarmAt (s : State) (event : Option TransitionEvent) (p : TransitionPoint) : State :=
  match event with
  | some (.alarm q src detail) =>
    if q ≠ p then s else
    let t := (s.alarm (src.val + 1) detail.toNat).endSnuff
    if t.haltLatched && p ≠ .critical then t.setEntry Key.lifeCycleLastResult 9 else t
  | _ => s

/-- Steps 6 to 9 of R509: the fuse bits are blown and the device is reset; HALT in the critical phase takes effect after it (R510). -/
def State.blowCopies (s : State) (dst : BitVec 16) (event : Option TransitionEvent) : State :=
  let plan := s.fusePlan dst
  let bad := match event with | some (.bitFails c b) => some (c.val, b.val) | _ => none
  let stops := match bad with | some f => plan.contains f | none => false
  let todo := match bad with | some f => plan.takeWhile (fun p => p ≠ f) | none => plan
  let s := todo.foldl State.blow s
  let s := if stops then s.setEntry Key.lifeCycleLastResult lrProgramFail
    else (s.setEntry Key.lifeCycleLastResult lrDone).bump Key.lifeCycleTransitions
  let s := s.alarmAt event .critical
  if s.haltLatched then s else s.deviceReset 3

/-- A transition request that was written (R506, R509, R510): its checks, the destruction of the keys, the counter, the critical phase and the device reset. -/
def State.transition (s : State) (r : Bytes) (event : Option TransitionEvent) : State :=
  let c := s.transitionCheck r
  if c ≠ 0 then s.setEntry Key.lifeCycleLastResult c else
  let s := { s with fetchStopped := true }.alarmAt event .beforeKeys
  if s.haltLatched then s else
  let s := (s.destroyKeys r).alarmAt event .beforeCounter
  if s.haltLatched then s else
  if s.supplies.rails ≠ 0xFF || event = some .supplyOut then (s.setEntry Key.lifeCycleLastResult lrSupply).deviceReset 3 else
  let s := s.countLife.alarmAt event .beforeFuses
  if s.haltLatched then s else s.blowCopies (BitVec.ofNat 16 (field r 26 2)) event

/-- The supplies fall out of range in the critical phase after some bits are blown (R511, R663). -/
def State.transitionLost (s : State) (r : Bytes) (blown : Nat) : State :=
  let c := s.transitionCheck r
  if c ≠ 0 then s.setEntry Key.lifeCycleLastResult c else
  let s := s.destroyKeys r
  if s.supplies.rails ≠ 0xFF then (s.setEntry Key.lifeCycleLastResult lrSupply).deviceReset 3 else
  let s := s.countLife
  let s := ((s.fusePlan (BitVec.ofNat 16 (field r 26 2))).take blown).foldl State.blow s
  let s := (s.bump Key.moduleSensorsRailDropResets).deviceReset 7
  { s with supplies := { s.supplies with rails := 0 } }

/-- The URS is drawn and its row blown (R514); a power loss leaves the row partial. -/
def State.programKeyRows (s : State) (powerKept : Bool) : State :=
  match s.generate 16 32 with
  | (none, s) => s
  | (some k, s) =>
    if powerKept && !s.roots.rowPartial then { s with roots := { s.roots with urs := some k } }
    else { s with roots := { s.roots with rowPartial := true } }

/-- Program 256 bytes into the slot that is not running; at offset 0 the slot is erased first (R524). -/
def State.programFlash (s : State) (v : Bytes) : State :=
  let k := if s.entry Key.bootControlRunningSlot = 0 then 1 else 0
  let off := s.entry Key.bootControlFlashWriteOffset
  let m := if off = 0 then [] else s.flashOf k
  (s.setFlash k (Memory.write erasedByte m off v)).setEntry Key.bootControlFlashWriteOffset (off + 256)

end Sys2Proof.Machine
end

