-- ==== Sys2Proof/Machine/PowerOps.lean ====
section
/-! DEFINITION. Entries to LOW and DARK with their checks (R582 to R585), sconce levels and power (R599 to R601), tamper tests (R617, R618), and changes of tenancy (R344, R571). -/

namespace Sys2Proof.Machine

/-! ### LOW and DARK -/

/-- A refuser of an entry: a unit and, for a queue, its slice (R17, R583). -/
abbrev Refuser := UnitId × UnitId

/-- The queue of a slot as a refuser: its local queue's unit and its slice's (R17). -/
def State.queueRefuser (s : State) (g : Nat) : Refuser := (uQueue (s.entry (Key.queueSlotLocalQueue g)), uSlice (s.slotSlice g))

/-- The queue that is not DISABLED with the lowest unit index (R583). -/
def State.liveQueue (s : State) : Option Nat :=
  s.liveSlots.foldl (fun b g => match b with
    | none => some g
    | some h => if s.entry (Key.queueSlotLocalQueue g) < s.entry (Key.queueSlotLocalQueue h) then some g else some h) none

/-- The first check of R583 that fails, in order. A transition in progress never meets another command. -/
def State.entryRefuser (s : State) (dark : Bool) : Option Refuser :=
  match s.jobs.head? with
  | some j => some (s.queueRefuser j.slot)
  | none =>
    match s.liveStreams.find? (fun n => s.streamState n ≠ stStopped && s.streamState n ≠ stWaiting) with
    | some n => some (uStream n, 0)
    | none =>
      match if dark then s.liveQueue else none with
      | some g => some (s.queueRefuser g)
      | none =>
        match if dark then s.enabledLinks.find? (fun l => s.entry (Key.hostLinkLinkState l) = 1 || s.entry (Key.hostLinkLinkState l) = 2) else none with
        | some l => some (uHost l, 0)
        | none => if s.entropyState = 0 then some (uEntropy, 0) else none

/-- Record a refused entry (R583). -/
def State.refuseEntry (s : State) (dark : Bool) (r : Refuser) : State :=
  let s := s.bump (if dark then Key.pilotPowerDarkRefused else Key.pilotPowerLowRefused)
  ((s.setEntry Key.pilotPowerLastRefuser r.1.toNat).setEntry Key.pilotPowerLastRefuserSlice r.2.toNat).setEntry Key.pilotPowerLastRefuseTime s.timestamp.toNat

/-- Steps 3 to 5 of R584: sconce, taper, sealer, digester and media-octet domains power off, and the device is LOW. -/
def State.commitLow (s : State) : State :=
  let sealers := s.sealers.map fun (p : Nat × Sealer) => (p.1, p.2.cleared)
  let s := (List.range 16).foldl State.sconceOff { s with tapers := [], sealers := sealers, digesterAt := [] }
  let s := { s with wicks := [], sconces := [] }
  let s := (List.range 256).foldl (fun s p => s.setEntry (Key.mediaPortLinkUp p) 0) s
  let fns := s.fns.map fun (p : Nat × HostFn) => (p.1, { p.2 with ready := false })
  { s with power := .low, entering := none, lowSince := s.timestamp, fns := fns }.bump Key.powerControlLowEntries

/-- Steps 3 to 7 of R585 (R592, R662): the retention block is written, the stores are zeroed, every domain and the main rails go off, and the pilot serves. -/
def State.commitDark (s : State) : State :=
  let s := s.retain.hubOff
  let s := { s with power := .dark, supplies := { s.supplies with mainEn := false, rails := 0 } }
  s.bump Key.pilotPowerDarkEntries

/-- An entry whose commit point has come completes (R584, R585); the target state is reached at once (log 62). -/
def State.settleEntry (s : State) : State :=
  match s.entering with
  | none => s
  | some e => if s.hubCycle < e.due then s else if e.dark then s.commitDark else s.commitLow

/-- Hub cycles from the checks to the commit point: 0.2 ms for LOW (R584), and for DARK the 0.9 ms of the retention block, no HOP request being pending (R585, log 62). -/
def entryCycles (dark : Bool) : Nat := if dark then 1080000 else 240000

/-- Step 1 of an entry (R583 to R585): the checks are made; when they pass, fetching stops, units are as at the end of an attempt, and shroud FIFOs are flushed. -/
def State.startEntry (s : State) (dark : Bool) : State :=
  match s.entryRefuser dark with
  | some r => s.refuseEntry dark r
  | none =>
    let wicks := s.wicks.map fun (p : Nat × Wick) => (p.1, { p.2 with shroud := { p.2.shroud with fifo := 0 } })
    { s with fetchStopped := true, wicks := if dark then s.wicks else wicks, entering := some { dark := dark, due := s.hubCycle + entryCycles dark } }

/-- A wake source before the commit point aborts the entry: the device returns to the state it left, and the source's unit is recorded as the refuser (R586). A WakeAtTime that fired is cleared (R603). -/
def State.abortEntry (s : State) (e : PowerEntry) (source : Nat) (r : Refuser) : State :=
  let s := s.bump (if e.dark then Key.pilotPowerDarkAborted else Key.pilotPowerLowAborted)
  let s := ((s.setEntry Key.pilotPowerLastRefuser r.1.toNat).setEntry Key.pilotPowerLastRefuserSlice r.2.toNat).setEntry Key.pilotPowerLastRefuseTime s.timestamp.toNat
  let s := if source = 4 then s.setEntry Key.pilotPowerWakeAtTime 0 else s
  { s with entering := none, fetchStopped := s.power ≠ .lit }

/-- A wake source acts (R586, R587): it aborts an entry that has not committed; from LOW the device returns to LIT; from DARK, unless HALT is latched, it boots; elsewhere the source is ignored. -/
def State.wake (s : State) (source : Nat) (unit slc : UnitId) (pin : Nat) : State :=
  let s := s.settleEntry
  if s.haltLatched then s else
  match s.entering with
  | some e => s.abortEntry e source (unit, slc)
  | none =>
    if s.power = .low then (s.recordWake source unit slc pin).wakeLow
    else if s.power = .dark && source ≠ 3 && source ≠ 5 then { s.recordWake source unit slc pin with power := .booting }
    else s

/-- The unit a HOP WAKE records (R587): the pilot for DARK, the lamplighter for LOW. -/
def State.hopWakeUnit (s : State) : UnitId :=
  match s.entering with
  | some e => if e.dark then uPilot else uLamplighter
  | none => if s.power = .low then uLamplighter else uPilot

/-- A power request (R582): 01h LIT, 02h LOW, 03h DARK. One for the present state does nothing. -/
def State.requestPower (s : State) (v : Nat) : State :=
  if v = 1 then s.wake 5 uLamplighter 0 0xFF
  else if v = 2 then (if s.power = .lit then s.startEntry false else s)
  else if s.power = .lit || s.power = .low then s.startEntry true else s

/-! ### Sconces -/

def State.sconce (s : State) (c : Nat) : Sconce := Table.get (fun _ => { target := 0, draining := false }) s.sconces c
def State.setSconce (s : State) (c : Nat) (x : Sconce) : State :=
  { s with sconces := Table.set (fun _ => { target := 0, draining := false }) s.sconces c x }

/-- A Level write (R599, R600): an enabled sconce that is on starts to change; one that changes already stores the level. -/
def State.writeLevel (s : State) (c v : Nat) : State :=
  let s := s.setEntry (Key.sconcePowerLevel c) v
  if s.entry (Key.sconcePowerState c) = 1 && s.entry (Key.sconcePowerCurrentLevel c) ≠ v then
    (s.setEntry (Key.sconcePowerState c) 2).setSconce c { s.sconce c with target := v }
  else s

/-- A change ends (R599): CurrentLevel, LevelChanges, and another change when a different level was stored meanwhile (R600). -/
def State.endLevelChange (s : State) (c : Nat) : State :=
  if s.entry (Key.sconcePowerState c) ≠ 2 then s else
  let t := (s.sconce c).target
  let s := (s.setEntry (Key.sconcePowerCurrentLevel c) t).bump (Key.sconcePowerLevelChanges c)
  let want := s.entry (Key.sconcePowerLevel c)
  if want = t then s.setEntry (Key.sconcePowerState c) 1 else s.setSconce c { s.sconce c with target := want }

/-- A wick of the sconce serves an attempt. -/
def State.sconceBusy (s : State) (c : Nat) : Bool :=
  s.jobs.any fun j => j.running && j.units.any fun u => unitClass u = 1 && sconceOf (unitIndex u) = c

/-- A write of Enable 00h in LIT: no new jobs; the domains go off when the last attempt ends (R601). -/
def State.disableSconce (s : State) (c : Nat) : State :=
  let s := s.setEntry (Key.sconcePowerEnable c) 0
  if s.power = .lit && s.entry (Key.sconcePowerState c) ≠ 0 then s.setSconce c { s.sconce c with draining := true } else s

/-- The last attempt of a disabled sconce has ended: its wicks are scrubbed and its domains power off (R601). -/
def State.powerDownSconce (s : State) (c : Nat) : State :=
  if (s.sconce c).draining && !s.sconceBusy c then (s.sconceOff c).setSconce c { s.sconce c with draining := false } else s

/-- A write of Enable 01h in LIT powers the sconce up (R601). -/
def State.enableSconce (s : State) (c : Nat) : State :=
  let s := (s.setEntry (Key.sconcePowerEnable c) 1).setSconce c { s.sconce c with draining := false }
  if s.power = .lit && s.entry (Key.sconcePowerState c) = 0 then s.setEntry (Key.sconcePowerState c) 3 else s

/-- The ramp, lock and keying of a sconce that powers up have ended (R601); keying waits on its DRBG instance. -/
def State.readySconce (s : State) (c : Nat) : State :=
  if s.power = .lit && s.flag (Key.sconcePowerEnable c) && s.entry (Key.sconcePowerState c) = 3 && (s.drbg c).ready then s.sconceOn c else s

/-! ### Tamper tests -/

/-- A stimulus starts (R617). -/
def State.startTamperTest (s : State) (src : Nat) : State :=
  let s := s.setEntry Key.tamperTestTestResult 1
  { s with tamper := { s.tamper with testSource := some src, testAlarmed := false, testJudged := false } }

/-- The latency of the source under test has passed without an alarm: the test fails (R618). -/
def State.judgeTamperTest (s : State) : State :=
  if s.tamper.testSource.isNone || s.tamper.testJudged then s else
  let s := { s with tamper := { s.tamper with testJudged := true } }
  (s.setEntry Key.tamperTestTestResult 3).reportFault 0x0D01 uTamper uTamper 0 0

/-! ### Tenancy -/

/-- The seal key set of an owner: a slice, or 512 for the device; none is drawn while it is empty (R339). -/
def State.sealSet (s : State) (owner : Nat) : Bytes := Table.get (fun _ => []) s.sealSets owner

def State.setSealSet (s : State) (owner : Nat) (b : Bytes) : State := { s with sealSets := Table.set (fun _ => []) s.sealSets owner b }

/-- A seal key set of 768 bits is drawn for an owner that has none; the draw waits while the hub instance cannot serve (R339, R344, R493). -/
def State.drawSealKey (s : State) (owner : Nat) : State :=
  if !(s.sealSet owner).isEmpty then s else
  match s.generate 16 96 with
  | (some b, s) => s.setSealSet owner b
  | (none, s) => s

/-- A slot of the slice is not DISABLED, or one of its streams is enabled (R571). -/
def State.sliceInUse (s : State) (n : Nat) : Bool :=
  (s.liveSlots.any fun g => s.slotSlice g = n) ||
  (List.range 1024).any fun k => s.entry (Key.mediaStreamSlice k) = n && s.flag (Key.mediaStreamEnable k)

/-- A change of tenancy (R571, R344): sessions, contexts, programs and keys of the slice go; a new seal key set is drawn and its window and extents are cleared. -/
def State.retenant (s : State) (n : Nat) : State :=
  let s := ((s.sessions.filter fun p => p.2.slice = n && p.2.state ≠ .free).map (·.1)).foldl State.freeSession s
  let s := s.closeContexts fun c => c.slice ≠ n
  let programs := s.programs.map fun (p : Nat × OwnerProgram) => if p.1 / 16 = n then (p.1, { p.2 with image := [], pins := [], dropped := false, live := false }) else p
  let s := { s with programs := programs }
  let s := ((s.vault.filter fun p => s.entry (Key.vaultSlotSlice p.1) = n).map (·.1)).foldl State.emptySlot s
  let gone := s.lanterns.filter fun e => e.slice = n
  let s := s.bumpBy Key.lanternCacheEntriesDropped (gone.filter fun e => !e.dropped && e.validFrom.isSome).length
  let mces := s.mces.map fun (p : Nat × MceEntry) => if p.2.slice = n then (p.1, { p.2 with slice := 0, alg := 0, key := [], size := 0, pins := [], dropped := false, live := false }) else p
  let s := { s with lanterns := s.lanterns.filter (fun e => e.slice ≠ n), mces := mces }
  let s := (s.setSealSet n []).drawSealKey n
  let s := { s with clearing := s.clearing.filter (· ≠ n) ++ [n] }
  (s.bump (Key.sliceConfigTenancy n)).bump Key.sliceControlTenancyChanges

/-- The clear of a slice's window and extents ends once its new seal key set is drawn; its traffic is charged to the slice (R344, R351). -/
def State.endTenancyClear (s : State) (n : Nat) : State :=
  if !s.clearing.contains n then s else
  let s := s.drawSealKey n
  if (s.sealSet n).isEmpty then s else
  let w := s.windowOf n
  let mine := s.extents.filter fun e => e.slice = n
  let s := mine.foldl (fun s e => s.clearLines e.base e.size) (s.clearLines w.1 w.2)
  { s with extents := s.extents.filter (fun e => e.slice ≠ n), clearing := s.clearing.filter (· ≠ n) }.bumpBy (Key.reservoirSliceBytesWritten n) (w.2 + (mine.map fun (e : Extent) => e.size).sum)

/-- The rewrite of every usable line as clear ends after the 513 seal key sets are drawn (R343); it waits for the hub instance (R495). -/
def State.endReservoirClear (s : State) : State :=
  if !s.clearingAll then s else
  let s := (List.range 513).foldl State.drawSealKey s
  if (List.range 513).any fun o => (s.sealSet o).isEmpty then s
  else { s with reservoir := [], lineTags := [], clearingAll := false }

end Sys2Proof.Machine
end

