-- ==== Sys2Proof/Machine/DictRead.lean ====
section
/-! DEFINITION. Reading the object dictionary: the entries that are computed from the rest of the state, and the value of every entry (R11 to R14, R555). -/

namespace Sys2Proof.Machine

/-- The running wick library holds the second-order routines (R555): a property of the running image. -/
def State.order2Library (s : State) : Bool := Config.order2Library s.roots.measurement

/-- The object exists: capability record 000Bh only with the second-order library (R555). -/
def State.objectExists (s : State) (index : Nat) : Bool := index ≠ 0x000B || s.order2Library

/-- A wick's State (R294). A program load is one command, so 03h is never read. -/
def State.wickState (s : State) (w : Nat) : Nat :=
  let x := s.wick w
  if s.health (uWick w) = 1 then 4
  else if s.entry (Key.sconcePowerState (sconceOf w)) = 0 then 5
  else match x.job with
    | none => 0
    | some _ => if x.napping then 2 else 1

/-- A taper's State (R223). What one under self-test reads is not stated: it reads idle, as the model's choice (log 20). -/
def State.taperState (s : State) (t : Nat) : Nat :=
  let x := s.taper t
  if s.health (uTaper t) = 1 then 3 else if x.mustWipe then 2 else if x.job.isSome then 1 else 0

/-- The context serves software: a DIG_OPEN's or a DIGEST job's (R239). -/
def State.isSoft (s : State) (c : DigestContext) : Bool :=
  match c.objectJob with
  | none => true
  | some id => match s.findJob id with
    | some j => j.entry.opcode / 256 = 3
    | none => true

/-- A digester's State (R254): it is active while it has contexts open. -/
def State.digesterContexts (s : State) (d : Nat) : Nat :=
  (s.contexts.filter fun p => p.1 / 64 = d && p.2.isOpen).length

def State.digesterState (s : State) (d : Nat) : Nat :=
  if d = 32 then (if s.hop.server = some .firmware then 3 else 0)
  else if s.health (uDigester d) = 1 then 2 else if 0 < s.digesterContexts d then 1 else 0

/-- A sealer's State (R255). -/
def State.sealerState (s : State) (n : Nat) : Nat :=
  if s.health (uSealer n) = 1 then 2 else if (s.sealer n).key.isSome then 1 else 0

/-- A channel's State (R373); one whose training failed stays failed. -/
def State.channelState (s : State) (c : Nat) : Nat :=
  if s.entry (Key.channelStatusState c) = 4 then 4
  else match s.power with
    | .lit => 1
    | .low => 2
    | .booting => 0
    | _ => 3

/-- State of a power domain (R597, R606). -/
def State.domainState (s : State) (d : Nat) : Nat :=
  let on := fun (b : Bool) => if b then 1 else 0
  let sc := fun (c : Nat) => let v := s.entry (Key.sconcePowerState c); if v = 3 then 2 else on (v ≠ 0)
  if d < 0x100 then sc (d / 16)
  else if d < 0x200 then
    match (s.wick (d - 0x100)).island with
    | .off => 0
    | .waking _ _ => 2
    | _ => 1
  else if d < 0x210 then sc (d - 0x200)
  else if d < 0x218 then on (s.power = .lit)
  else if d < 0x238 then on (s.power = .lit && s.octetOn (Table.get id s.digesterOctets (d - 0x218)))
  else if d < 0x258 then on (s.power = .lit && s.octetOn (s.sealer (d - 0x238)).octet)
  else if d < 0x278 then on (s.octetOn (d - 0x258))
  else if d < 0x2B8 then on (s.power = .lit || s.power = .low)
  else on s.hubOn

/-- The queue slots assigned to a slice (R412). -/
def State.slotCount (s : State) (n : Nat) : Nat := (s.sliceSlots n).length

/-- FloorCapacityMBps at an N (R353). -/
def floorCapacity (n : Nat) : Nat := 440000 * (n - 1) / n - 10000

/-- The sum of FloorMBps over all slices (R362). -/
def State.floorsTotal (s : State) : Nat := ((List.range 512).map fun n => s.entry (Key.reservoirSliceFloorMBps n)).sum

/-- WakePinLevels (R603): bit n is set while WAKEn is at its asserted level. -/
def State.pinAsserted (s : State) (n : Nat) : Bool :=
  s.supplies.wakeLevels.getLsbD n = bitOf (s.entry (Key.wakePinsWakePinConfig n)) 1

/-- A block of the event ring (R651). -/
def State.logBlock (s : State) (k : Nat) : Bytes :=
  (span (256 * k) 256).flatMap fun p => cut (Table.get (fun _ => []) s.eventLog p) 0 32

/-- A number with the given bits set. -/
def bitMask (n : Nat) (p : Nat → Bool) : Nat := ((List.range n).map fun i => if p i then 2 ^ i else 0).sum

/-- Lantern entries that count as valid (R169). -/
def State.validLanterns (s : State) : List LanternEntry := s.lanterns.filter fun e => e.validFrom.isSome && !e.dropped

/-- The bytes of extents of a kind. -/
def State.extentBytes (s : State) (area : Nat) : Nat := ((s.extents.filter fun e => e.area = area).map fun e => e.size).sum

/-- The computed entries of objects 0000h to 2FFFh. -/
def State.derivedLow (s : State) (index sub i : Nat) : Option Nat :=
  if index = 0x0000 && sub = 2 then some (if s.mirrorBuilt then (if s.order2Library then 11 else 10) else 0)
  else if index = 0x000A && sub = 3 then some (if s.order2Library then 11 else 0)
  else if index = 0x1000 then
    (if sub = 1 then some s.deviceState
     else if sub = 2 then some s.timestamp.toNat
     else if sub = 6 then some (match s.hop.server with | some .pilot => 1 | some .rom => 2 | some .firmware => 3 | none => 0)
     else none)
  else if index = 0x1010 && sub = 0x0C then some s.hop.sessions.length
  else if index = 0x1100 then
    (if sub = 1 then some s.lifeCycle
     else if sub = 2 then some s.roots.copiesRead.toNat
     else if sub = 0x0B then some (leNat s.roots.ownerHash)
     else if sub = 0x0C then some (if s.roots.urs.isSome then 1 else 0)
     else none)
  else if index = 0x2020 && sub = 2 then some ((List.range 512).filter fun n => s.flag (Key.sliceConfigSteady n)).length
  else if 0x2200 ≤ index && index < 0x2400 && sub = 3 then some (s.slotCount i)
  else none

/-- The computed entries of objects 3000h to 6FFFh. -/
def State.derivedMid (s : State) (index sub i : Nat) : Option Nat :=
  if index = 0x3000 && sub = 2 then some (s.sessions.filter fun p => p.2.state ≠ .free).length
  else if index = 0x3010 && sub = 2 then some s.validLanterns.length
  else if index = 0x3010 && sub = 3 then some (s.extentBytes 3)
  else if index = 0x3011 && sub = 1 then some (s.mces.filter fun p => p.2.live && !p.2.dropped).length
  else if index = 0x3011 && sub = 2 then some (s.extentBytes 4)
  else if 0x4000 ≤ index && index < 0x4100 then
    (if sub = 1 then some (s.wickState i)
     else if sub = 6 then some (match (s.wick i).program with | some p => if p.owner then 0 else p.id | none => 0)
     else none)
  else if index = 0x4300 && sub = 3 then some (s.programs.filter fun p => p.2.live && !p.2.dropped).length
  else if 0x5000 ≤ index && index < 0x5008 && sub = 1 then some (s.taperState i)
  else if index = 0x5008 && sub = 1 then some ((List.range 8).filter fun t => s.health (uTaper t) = 0).length
  else if 0x5100 ≤ index && index < 0x5121 then
    (if sub = 1 then some (s.digesterState i)
     else if sub = 2 then some (if i = 32 then 0xFF else Table.get id s.digesterOctets i)
     else if sub = 3 then some (s.digesterContexts i)
     else none)
  else if 0x5140 ≤ index && index < 0x5160 then
    (if sub = 1 then some (s.sealerState i) else if sub = 2 then some (s.sealer i).octet else none)
  else if index = 0x5160 && sub = 0x42 then some (s.contexts.filter fun p => p.2.isOpen && s.isSoft p.2).length
  else if index = 0x6002 && sub = 2 then some (floorCapacity (s.entry Key.arbitrationLongestWaiterN))
  else if index = 0x6002 && sub = 3 then some s.floorsTotal
  else if 0x6040 ≤ index && index < 0x6080 && sub = 1 then some (s.channelState i)
  else none

/-- The computed entries of objects 7000h to BFFFh. -/
def State.derivedHigh (s : State) (index sub i : Nat) : Option Nat :=
  if index = 0x7000 && sub = 7 then some s.liveStreams.length
  else if 0x7400 ≤ index && index < 0x7800 && sub = 0x0D then some (s.streamLevel i)
  else if index = 0x8000 then
    (if sub = 1 then some (if s.roots.ck.isSome then 1 else 0)
     else if sub = 3 then some (if s.roots.osk.isSome then 1 else 0)
     else if sub = 4 then some (match s.roots.osk with | some k => leNat (oskId k) | none => 0)
     else if sub = 5 then some (if s.roots.attestSecret.isSome then 1 else 0)
     else none)
  else if index = 0x8010 && sub = 1 then some s.entropyState
  else if index = 0x8010 && 2 ≤ sub && sub ≤ 5 then
    some (match s.ember (sub - 2) with | .healthy => 0 | .failed => 1 | .testing => 2)
  else if 0x8100 ≤ index && index < 0x8300 && 3 ≤ sub && sub ≤ 8 then
    if 508 ≤ i then
      some (if sub = 3 && (if i = 508 then s.roots.attestSecret.isSome else if i = 509 then s.roots.osk.isSome else if i = 510 then s.roots.mbk.isSome else s.roots.drk.isSome) then 1 else 0)
    else match s.vaultKey i with
      | none => some 0
      | some k =>
        some (if sub = 3 then 1 else if sub = 4 then k.alg.toNat else if sub = 5 then k.key.length else if sub = 6 then k.uses.toNat
          else if sub = 7 then k.origin.toNat else if k.exportable then 1 else 0)
  else if index = 0xA010 && 2 ≤ sub && sub ≤ 5 then some (leNat (s.logBlock (sub - 2)))
  else if index = 0xA020 then
    (if sub = 6 then some (if s.dump.isEmpty then 0 else 1)
     else if sub = 7 then some s.dump.length
     else if sub = 9 then some (leNat (cut s.dump (s.entry Key.dumpControlDumpOffset) 8192))
     else none)
  else if index = 0xB010 && sub = 0x11 then some (bitMask 8 s.pinAsserted)
  else if 0xB100 ≤ index && index < 0xB3BB && sub = 1 then some (s.domainState i)
  else none

/-- The value of an entry as the dictionary holds it, before a server's own rules. -/
def State.entryValue (s : State) (index sub : Nat) : Nat :=
  match dictObject index with
  | none => 0
  | some (_, i) =>
    match (if index < 0x3000 then s.derivedLow index sub i else if index < 0x7000 then s.derivedMid index sub i else s.derivedHigh index sub i) with
    | some v => v
    | none => s.entry (index * 256 + sub)

/-- The bytes a read returns: zeros for a write-only entry (R12), and for the shelf bus counters under the pilot (R553). -/
def State.readBytes (s : State) (index sub : Nat) : Bytes :=
  match dictRow index sub with
  | none => []
  | some r =>
    if r.access = .wo || r.access = .woa then List.replicate r.type.size 0#8
    else if s.hop.server = some .pilot && index = 0x1010 && 0x0D ≤ sub then List.replicate r.type.size 0#8
    else leBytes r.type.size (s.entryValue index sub)

end Sys2Proof.Machine
end

