-- ==== Sys2Proof/Machine/DictOps.lean ====
section
/-! DEFINITION. Dictionary operations: who may do what (R540, R541, R548), which server answers (R528, R530, R545, R553), the order in which an operation is judged (R672), and what an accepted write does. -/

namespace Sys2Proof.Machine

/-! ### Requesters -/

/-- What a path may do (R541, R548): everything, what a session-less HOP requester may, what a slice's mailbox may, or nothing since its session has ended. -/
inductive Authority where
  | full
  | anonymous
  | tenant (slice : Nat)
  | ended
  deriving DecidableEq, Repr

def State.authority (s : State) (p : Path) : Authority :=
  match p with
  | .firmware => .full
  | .hopPlain => .anonymous
  | .hopSession n => if s.hop.sessions.any (fun x => x.number = n) then .full else .ended
  | .mailbox slc => if slc.val = s.ownerSlice then .full else .tenant slc.val

/-- The entry belongs to a slice (R540). -/
def State.belongs (s : State) (slc index : Nat) : Bool :=
  index = 0x2200 + slc || index = 0x6100 + slc || index = 0x6400 + slc || index = 0x8400 + slc ||
  (0x2800 ≤ index && index < 0x3000 && s.entry (Key.queueSlotSlice (index - 0x2800)) = slc) ||
  (0x7400 ≤ index && index < 0x7800 && s.entry (Key.mediaStreamSlice (index - 0x7400)) = slc) ||
  (0x8100 ≤ index && index < 0x8300 && s.entry (Key.vaultSlotSlice (index - 0x8100)) = slc)

/-- The authority a read needs (R541, R548). The pilot and the ROM hold no sessions and answer what they serve (R523, R553). -/
def State.readRight (s : State) (p : Path) (index : Nat) (r : DictRow) : Nat :=
  if s.hop.server ≠ some .firmware then drOk else
  match s.authority p with
  | .full => drOk
  | .anonymous => if index < 0x2000 then drOk else drAuth
  | .ended => drAuth
  | .tenant n => if (index < 0x2000 && (r.access = .const || r.access = .ro)) || s.belongs n index then drOk else drRights

/-- The authority a write needs (R541, R548). -/
def State.writeRight (s : State) (p : Path) (index sub : Nat) (r : DictRow) : Nat :=
  match s.authority p with
  | .full => drOk
  | .anonymous => if index = 0x1100 && (sub = 4 || sub = 0x0D) then drOk else drAuth
  | .ended => drAuth
  | .tenant n =>
    if r.access = .rwa || r.access = .woa then drAuth
    else if r.access = .rw && s.belongs n index then drOk else drRights

/-! ### Servers -/

/-- The pilot serves the entry (R525, R553). -/
def State.pilotServes (s : State) (index sub : Nat) : Bool :=
  if s.lifeCycle = lcScrap then index = 0x1100 && (sub = 1 || sub = 2)
  else index = 0x0100 || (index = 0x1000 && (sub = 1 || sub = 2 || sub = 6)) || index = 0x1010 ||
    (index = 0x1100 && (sub = 1 || sub = 2 || sub = 8)) || index = 0xB010 || index = 0xB020 || index = 0x9010 || index = 0x9020 ||
    (index = 0x9000 && ((6 ≤ sub && sub ≤ 9) || sub = 0x0B))

/-- The ROM serves the entry: those of R523, and A000h to AFFFh in a fatal stop (R528). -/
def State.romServes (s : State) (index sub : Nat) : Bool :=
  index = 0x0100 || index = 0x1100 || (index = 0x1101 && (sub = 6 || sub = 7)) ||
  (s.fatal.isSome && ((0xA000 ≤ index && index < 0xB000) || (index = 0x1000 && sub = 3)))

/-- The mailbox of a slice is served (R528, R535): its link is up, and the firmware runs in LIT or LOW; in a fatal stop the ROM serves the owner slice's alone. -/
def State.mailboxServed (s : State) (slc : Nat) : Bool :=
  s.linkUp (s.sliceLink slc) &&
  ((s.hop.server = some .firmware && (s.power = .lit || s.power = .low)) ||
   (s.hop.server = some .rom && s.fatal.isSome && slc = s.ownerSlice))

/-- The path reaches a server at all: HOP needs one and the shelf clock (R36, R665), a mailbox must be served. -/
def State.reaches (s : State) (p : Path) : Bool :=
  match p with
  | .firmware => s.hop.server = some .firmware
  | .mailbox slc => s.mailboxServed slc.val
  | _ => s.hop.server.isSome && s.supplies.sysclk

/-- What the server itself answers before access and rights are judged: UNAVAILABLE where it does not serve (R545, R553), STATE in RETIRED and under the ROM except for what they allow (R523, R530). -/
def State.serverResult (s : State) (p : Path) (write : Bool) (index sub : Nat) (r : DictRow) : Nat :=
  match s.hop.server with
  | some .pilot => if write || !s.pilotServes index sub then drUnavailable else drOk
  | some .rom =>
    if !s.romServes index sub then drUnavailable
    else if write then (match p with | .mailbox _ => if index = 0x1000 && sub = 3 then drOk else drState | _ => drState)
    else if r.access = .const || r.access = .ro then drOk else drState
  | _ =>
    if s.lifeCycle = lcRetired then
      if write then (if index = 0x1100 && sub = 4 then drOk else drState)
      else if r.access = .const || r.access = .ro then drOk else drState
    else drOk

/-- Judge a READ or INFO (R672 steps 1 to 4). -/
def State.judgeRead (s : State) (p : Path) (index sub : Nat) : Nat :=
  match dictObject index with
  | none => drNoEntry
  | some _ =>
    if !s.objectExists index then drNoEntry else
    match dictRow index sub with
    | none => drNoSub
    | some r =>
      let v := s.serverResult p false index sub r
      if v ≠ drOk then v else s.readRight p index r

/-! ### Values -/

/-- A 32-bit two's-complement value in a range (R11). -/
def signedIn (v : Nat) (lo hi : Int) : Bool :=
  let x := (BitVec.ofNat 32 v).toInt
  lo ≤ x && x ≤ hi

def inRange (v lo hi : Nat) : Bool := lo ≤ v && v ≤ hi

/-- A host window value is well formed (R364). -/
def windowValueOk (v : Nat) : Bool :=
  if bitOf v 0 then
    let size := bitsOf v 11 6
    12 ≤ size && size ≤ 40 && bitsOf v 63 12 % 2 ^ (size - 12) = 0
  else v / 16 = 0

/-- The value's own range or form for objects 1000h to 2FFFh (R672 step 6). -/
def State.rangeLow (s : State) (index sub v : Nat) : Bool :=
  if index = 0x1000 then v = 0xA5
  else if index = 0x1010 then
    (if sub = 1 then 0x600 ≤ v && v ≠ s.entry Key.vspControlVspEtherType
     else if sub = 3 || sub = 4 || sub = 6 then 1 ≤ v
     else if sub = 7 then inRange v 10 3600 else true)
  else if index = 0x1100 then (if sub = 0x0D then v = 1 else true)
  else if index = 0x1101 then (if sub = 1 then v ≤ 1 else true)
  else if 0x2000 ≤ index && index < 0x2008 then
    (if sub = 1 then v ≤ 1 else if sub = 2 then v ≤ 15 else if sub = 3 then v = 8 || v = 16 else true)
  else if index = 0x2020 then (if sub = 1 then v ≤ 511 else true)
  else if 0x2200 ≤ index && index < 0x2400 then (if sub = 1 then v ≤ 7 || v = 0xFF else if sub = 2 then v ≤ 0xFFFFF else true)
  else if 0x2400 ≤ index && index < 0x2600 then
    (if sub = 1 then v ≤ 4095 else if sub = 2 then v ≤ 4096
     else if sub = 4 then
       let n := index - 0x2400
       let sc := s.entry (Key.sliceConfigSteadySconces n)
       let tp := s.entry (Key.sliceConfigSteadyTapers n)
       v = 0 || (v = 1 && s.entry (Key.reservoirSliceFloorMBps n) ≠ 0 && sc ≠ 0 &&
         (List.range 512).all fun k => k = n || !s.flag (Key.sliceConfigSteady k) ||
           (sc &&& s.entry (Key.sliceConfigSteadySconces k) = 0 && tp &&& s.entry (Key.sliceConfigSteadyTapers k) = 0))
     else if sub = 7 then v = 1
     else if sub = 0x0A then v ≤ 2048 || v = 0xFFFF else true)
  else if 0x2800 ≤ index && index < 0x3000 then
    (if sub = 1 then v ≤ 511 || v = 0xFFFF else if sub = 2 then v ≤ 1023 else if sub = 3 then v ≤ 2047
     else if sub = 4 then v ≤ 1 else if sub = 5 then inRange v 4 20 else if sub = 6 then v % 4096 = 0 else if sub = 7 then v % 16 = 0
     else if sub = 8 then 1 ≤ v else if sub = 9 then inRange v 1 64 else if sub = 0x0A then inRange v 1 4096
     else if sub = 0x0B then v ≤ 1 else true)
  else true

/-- The value's own range or form for objects 3000h to 6FFFh. -/
def State.rangeMid (s : State) (index sub v : Nat) : Bool :=
  if index = 0x3010 then (if sub = 1 then v ≤ 1 else true)
  else if 0x4200 ≤ index && index < 0x4210 then (if sub = 1 then v ≤ 1 else if sub = 2 then v ≤ 5 else true)
  else if index = 0x4300 then (if sub = 4 then v ≤ 1 else if sub = 5 then inRange v 16 4095 else if sub = 6 then inRange v 1 15 else true)
  else if index = 0x4301 then (if sub = 1 then inRange v 1024 16777216 else true)
  else if index = 0x5008 then (if sub = 2 then 1 ≤ v else if sub = 3 then inRange v 4096 16777216 else true)
  else if index = 0x5160 then (if sub ≤ 0x40 then v ≤ 1 else if sub = 0x41 then v ≤ 64 else true)
  else if index = 0x6000 then
    (if sub ≤ 4 then v % 0x200000 = 0 && v ≤ s.entry Key.reservoirLayoutSessionBase else if sub = 8 then inRange v 10 200 else true)
  else if index = 0x6002 then (if sub = 1 then inRange v 2 64 else true)
  else if 0x6100 ≤ index && index < 0x6300 then (if sub ≤ 2 then v % 0x200000 = 0 else if sub = 7 then v ≤ 7 else true)
  else if 0x6400 ≤ index && index < 0x6600 then windowValueOk v
  else true

/-- The value's own range or form for objects 7000h to BFFFh. -/
def State.rangeHigh (_s : State) (index sub v : Nat) : Bool :=
  if index = 0x7000 then
    (if sub = 1 then 0x600 ≤ v && v ≠ 0x88B5 else if sub = 2 then inRange v 1 1000 else if sub = 3 then inRange v 10 10000
     else if sub = 4 then inRange v 20 10000 else if sub = 5 then inRange v 1 64
     else if sub = 6 then inRange v 1024 8192 && v % 64 = 0 else true)
  else if 0x7010 ≤ index && index < 0x7030 then
    (if sub = 1 then v ≤ 5 else if sub = 2 then inRange v 1 3 else if sub = 3 then v ≤ 2 else v ≤ 1)
  else if 0x7400 ≤ index && index < 0x7800 then
    (if sub = 1 then v ≤ 511 || v = 0xFFFF else if sub = 3 then v ≤ 2 else if sub = 5 then v ≤ 4094 else if sub = 6 then v ≤ 7
     else if sub = 7 then inRange v 20 1000 else if sub = 8 then inRange v 20 26 else if sub = 9 then v ≤ 1 else true)
  else if index = 0x8010 then (if sub = 6 then inRange v 100 600000 else if sub = 7 then inRange v 10 10000 else if sub = 8 then v ≤ 1 else true)
  else if 0x8100 ≤ index && index < 0x8300 then (if sub = 1 then v ≤ 511 || v = 0xFFFF else if sub = 9 then v = 1 else true)
  else if 0x8400 ≤ index && index < 0x8600 then (if sub = 1 then v < 32 else v ≤ 1)
  else if index = 0x9000 then
    (if sub ≤ 0x0A then v ≤ 2 else if sub = 0x0C then signedIn v 90 130 else if sub = 0x0D then signedIn v (-45) 0
     else if sub = 0x0E then 1 ≤ v else if sub = 0x0F then inRange v 1 1000 else true)
  else if index = 0x9030 then (if sub = 1 then inRange v 1 10 else true)
  else if index = 0xA000 then (if sub = 2 then inRange v 1 3600 else if sub = 3 then v ≤ 15 else true)
  else if index = 0xA020 then
    (if sub = 1 then v ≤ 86400 else if sub = 2 then v ≤ 511 || v = 0xFFFF else if sub = 3 then v % 4096 = 0
     else if sub = 5 then v ≤ 2047 || v = 0xFFFF else if sub = 8 then v % 8 = 0 else true)
  else if 0xA101 ≤ index && index ≤ 0xA112 then
    let lowest := severityLowest ((index - 0xA100) * 256 + sub)
    lowest ≤ v && v ≤ 4
  else if 0xA400 ≤ index && index < 0xA680 then (if sub = 6 then v = 1 else true)
  else if index = 0xB000 then
    (if sub = 1 then inRange v 1 3 else if sub = 2 then v = 0 || inRange v 10 86400000 else if sub = 3 then v ≤ 604800
     else if sub = 4 || sub = 5 then v ≤ 1 else true)
  else if index = 0xB010 then (if sub = 0x0F then v = 0 else true)
  else true

def State.valueInRange (s : State) (index sub v : Nat) : Bool :=
  if index < 0x3000 then s.rangeLow index sub v else if index < 0x7000 then s.rangeMid index sub v else s.rangeHigh index sub v

/-! ### State conditions -/

/-- One host window holds a range with the directions granted (R388). -/
def State.oneWindow (s : State) (slc addr len : Nat) (rd wr : Bool) : Bool :=
  (List.range 64).any fun n => windowGrants (s.entry (Key.hostWindowsWindow slc n)) addr len rd wr

/-- The conditions of R388 for Enable 01h. -/
def State.queueReady (s : State) (g : Nat) : Bool :=
  let slc := s.slotSlice g
  let size := s.entry (Key.queueSlotSizeLog2 g)
  s.queueState g = qDisabled && slc < 512 && 4 ≤ size && size ≤ (if s.entry (Key.queueSlotKind g) = 0 then 12 else 20) &&
  s.entry (Key.queueSlotRingBase g) % 4096 = 0 && s.entry (Key.queueSlotStatusAddr g) % 16 = 0 &&
  s.oneWindow slc (s.entry (Key.queueSlotRingBase g)) (64 * s.ringSize g) true true &&
  s.oneWindow slc (s.entry (Key.queueSlotStatusAddr g)) 16 false true

/-- The conditions of R390 for Enable 00h: no job is unpublished, and no command waits for its acknowledgement; in ERROR none is written any more (R407). -/
def State.queueQuiet (s : State) (g : Nat) : Bool :=
  s.queueState g = qDisabled || (s.queueState g ≠ qDraining && s.inFlight g = 0 && (s.queue g).aborting.isNone && (!(s.queue g).ackDue || s.queueState g = qError))

/-- Another slot holds a pair of slice and local queue (R383). -/
def State.pairTaken (s : State) (g slc q : Nat) : Bool :=
  slc < 512 && (List.range 2048).any fun k => k ≠ g && s.slotSlice k = slc && s.entry (Key.queueSlotLocalQueue k) = q

/-- Another slice has a link and PASID (R380). -/
def State.pasidTaken (s : State) (n link pasid : Nat) : Bool :=
  link < 8 && (List.range 512).any fun k => k ≠ n && s.sliceLink k = link && s.entry (Key.sliceHostPasid k) = pasid

/-- A session range of a slice may be set: it ends within 4,096, meets no other slice's, and drops no session in use (R567). -/
def State.sessionsFit (s : State) (n base count : Nat) : Bool :=
  base + count ≤ 4096 &&
  ((List.range 512).all fun k => k = n || apart base count (s.entry (Key.sliceConfigSessionBase k)) (s.entry (Key.sliceConfigSessionCount k))) &&
  s.sessions.all fun p => p.2.state = .free || p.2.slice ≠ n || (base ≤ p.1 && p.1 < base + count)

/-- A job that uses a stream is fetched and not ended (R453). -/
def State.streamUsed (s : State) (n : Nat) : Bool :=
  s.jobs.any fun j =>
    let x := s.session j.entry.session
    j.entry.opcode / 256 = 7 && (x.mediaStream = n || (x.kind = 1 && x.ingest = 1 && x.feedStream = n))

/-- A sconce is named in a steady slice's SteadySconces (R601). -/
def State.steadySconce (s : State) (c : Nat) : Bool :=
  (List.range 512).any fun n => s.flag (Key.sliceConfigSteady n) && bitOf (s.entry (Key.sliceConfigSteadySconces n)) c

/-- The unit of a UnitHealth index (R653). -/
def healthUnit (index : Nat) : UnitId :=
  if index < 0xA500 then uWick (index - 0xA400)
  else if index < 0xA600 then uIsland (index - 0xA500)
  else if index < 0xA610 then uSconce (index - 0xA600)
  else if index < 0xA620 then uTaper (index - 0xA610)
  else if index < 0xA640 then uDigester (index - 0xA620)
  else if index < 0xA660 then uSealer (index - 0xA640)
  else uOctet (index - 0xA660)

/-- The device's state and other entries allow the write (R672 step 8). -/
def State.stateAllows (s : State) (index sub v : Nat) : Bool :=
  if 0x2000 ≤ index && index < 0x2008 then
    let l := index - 0x2000
    (if sub = 2 then v % 2 = 0 || s.entry (Key.hostLinkWidth l) ≠ 16
     else if sub = 3 then v ≠ 16 || s.entry (Key.hostLinkFirstOctet l) % 2 = 0 else true)
  else if 0x2200 ≤ index && index < 0x2400 then
    let n := index - 0x2200
    (if sub = 1 then v = s.sliceLink n || (!s.sliceInUse n && !s.pasidTaken n v (s.entry (Key.sliceHostPasid n)))
     else if sub = 2 then v = s.entry (Key.sliceHostPasid n) || (!s.sliceInUse n && !s.pasidTaken n (s.sliceLink n) v) else true)
  else if 0x2400 ≤ index && index < 0x2600 then
    let n := index - 0x2400
    (if sub = 1 then s.sessionsFit n v (s.entry (Key.sliceConfigSessionCount n))
     else if sub = 2 then s.sessionsFit n (s.entry (Key.sliceConfigSessionBase n)) v
     else if sub = 7 then !s.sliceInUse n else true)
  else if 0x2800 ≤ index && index < 0x3000 then
    let g := index - 0x2800
    (if sub = 0x0B then (if v = 1 then s.queueReady g else s.queueQuiet g)
     else if sub = 8 || sub = 9 || sub = 0x0A || sub = 0x13 then true
     else s.queueState g = qDisabled &&
       (if sub = 1 then !s.pairTaken g v (s.entry (Key.queueSlotLocalQueue g)) else if sub = 2 then !s.pairTaken g (s.slotSlice g) v else true))
  else if 0x4200 ≤ index && index < 0x4210 then (if sub = 1 && v = 0 then !s.steadySconce (index - 0x4200) else true)
  else if index = 0x6002 then (if sub = 1 then s.floorsTotal ≤ floorCapacity v else true)
  else if 0x6100 ≤ index && index < 0x6300 then
    (if sub = 6 then s.floorsTotal - s.entry (Key.reservoirSliceFloorMBps (index - 0x6100)) + v ≤ floorCapacity (s.entry Key.arbitrationLongestWaiterN) else true)
  else if index = 0x7000 then (if sub = 3 then 3 * s.entry Key.vspControlStatusIntervalMs ≤ v else true)
  else if 0x7400 ≤ index && index < 0x7800 then
    let n := index - 0x7400
    (if sub ≤ 8 then !s.flag (Key.mediaStreamEnable n) else if sub = 9 then v = 1 || !s.streamUsed n else true)
  else if 0x8100 ≤ index && index < 0x8300 then (if sub = 1 || sub = 2 then (s.vaultKey (index - 0x8100)).isNone else true)
  else if index = 0x1100 then (if sub = 0x0D then s.lifeCycle = lcTest && s.roots.urs.isNone else true)
  else if index = 0x1101 then
    (if sub = 9 then s.power = .lit && s.entry Key.bootControlFlashWriteOffset % 256 = 0 && s.entry Key.bootControlFlashWriteOffset + 256 ≤ slotBytes else true)
  else if index = 0x9030 then (if sub = 1 then s.power = .lit else true)
  else if 0xA400 ≤ index && index < 0xA680 then
    (if sub = 6 then s.health (healthUnit index) = 1 && s.parentInService (healthUnit index) else true)
  else true

/-- Judge a WRITE in the order of R672; 0 when it is accepted. -/
def State.judgeWrite (s : State) (p : Path) (index sub : Nat) (value : Bytes) : Nat :=
  match dictObject index with
  | none => drNoEntry
  | some _ =>
    if !s.objectExists index then drNoEntry else
    match dictRow index sub with
    | none => drNoSub
    | some r =>
      let sv := s.serverResult p true index sub r
      if sv ≠ drOk then sv
      else if r.access = .const || r.access = .ro || (0x82FC ≤ index && index < 0x8300 && (sub = 1 || sub = 2 || sub = 9)) then drAccess
      else
        let w := s.writeRight p index sub r
        let v := leNat value
        if w ≠ drOk then w
        else if value.length ≠ r.type.size then drLength
        else if (r.type = .bool && 1 < v) || !s.valueInRange index sub v then drRange
        else if (index = 0x9030 && sub = 1 && s.tamper.testSource.isSome) || (index = 0xB000 && sub = 1 && s.entering.isSome) then drBusy
        else if !s.stateAllows index sub v then drState
        else drOk

/-! ### Effects of accepted writes -/

/-- Reserved bits read as zero and ignore writes (R10, R364). -/
def storedValue (index sub v : Nat) : Nat :=
  if 0x6400 ≤ index && index < 0x6600 then v - bitsOf v 3 1 * 2
  else if index = 0x9000 && sub = 0x0B then v % 16
  else if index = 0xB020 then v % 8
  else if 0x8100 ≤ index && index < 0x8300 && sub = 2 then v % 16
  else if 0x2400 ≤ index && index < 0x2600 && sub = 3 then v &&& 0x81FE
  else v

/-- Clear the counters whose overflow bits are written as 1 (R21). -/
def State.clearCounters (s : State) (index sub v : Nat) : State :=
  match dictObject index with
  | none => s
  | some (o, _) => (o.ovf.filter fun c => c.2.1 = sub && bitOf v c.2.2).foldl (fun s c => s.clearCounter (index * 256 + c.1)) s

/-- The entry is an overflow entry: its bits clear counters (R21). -/
def isOverflow (index sub : Nat) : Bool :=
  match dictObject index with
  | none => false
  | some (o, _) => o.ovf.any fun c => c.2.1 = sub

/-- Enable a queue (R388): the counts are zero, the queue is ACTIVE and its status block is written with every field zero. -/
def State.enableQueue (s : State) (g : Nat) : State :=
  let s := s.setQueue g { Queue.idle with burst := s.entry (Key.queueSlotBurst g), limit := s.entry (Key.queueSlotInFlightLimit g) }
  let s := ((s.setEntry (Key.queueSlotPublished g) 0).setEntry (Key.queueSlotFetchPoint g) 0).setEntry (Key.queueSlotErrorCause g) 0
  ((s.setEntry (Key.queueSlotEnable g) 1).setQueueState g qActive).writeStatus g

/-- Disable a queue (R390); its reads in flight are discarded. -/
def State.disableQueue (s : State) (g : Nat) : State :=
  (((s.setQueue g Queue.idle).setEntry (Key.queueSlotEnable g) 0).setQueueState g qDisabled).settleAllWindows

/-- Disable a stream (R442, R453): its extent is freed. -/
def State.stopStream (s : State) (n : Nat) : State :=
  let s := { s.setStream n { Stream.off with lastEpoch := (s.stream n).lastEpoch } with extents := s.extents.filter (fun e => e.use ≠ ExtentUse.stream n) }
  (((s.setEntry (Key.mediaStreamEnable n) 0).setStreamState n stDisabled).setEntry (Key.mediaStreamStep n) 0xFF).setEntry (Key.mediaStreamEpoch n) 0

/-- Enable or disable a stream (R419, R453). -/
def State.writeStreamEnable (s : State) (n v : Nat) : State :=
  if v = 0 then s.stopStream n
  else if s.flag (Key.mediaStreamEnable n) then s
  else
    let s := s.setEntry (Key.mediaStreamEnable n) 1
    if s.power = .lit || s.power = .low then s.startStream n else s

/-- A job fetched before a number that runs, or waits for its replay, holds a copy of a slot's key (R468). -/
def State.slotHeld (s : State) (slot before : Nat) : Bool :=
  s.jobs.any fun j => j.id < before && (j.running || (j.phase = .waiting && 0 < j.retries)) &&
    (List.range 4).any fun k => let r := (s.session j.entry.session).keyRef k; refKind r = 1 && bitsOf r 8 0 = slot

/-- An erase that no earlier job holds back commits: the slot is emptied and the write that asked for it completes (R468). -/
def State.commitErase (s : State) (slot : Nat) : State :=
  match s.erasing.find? (fun e => e.1 = slot) with
  | none => s
  | some e =>
    if s.slotHeld slot e.2.1 then s else
    { s.emptySlot slot with erasing := s.erasing.filter (fun f => f ≠ e) }.answerLate (0x8100 + slot) 9 e.2.2

/-- A write of VaultSlot Erase is accepted: it waits for the copies held by jobs fetched earlier (R468). `r` is the operation that completes at the commit. -/
def State.vaultErase (s : State) (slot : Nat) (r : LateReply) : State :=
  { s with erasing := s.erasing ++ [(slot, s.nextJob, r)] }.commitErase slot

/-- The entry is VaultSlot Erase, whose write completes when the erase commits (R468). -/
def isErase (index sub : Nat) : Bool := 0x8100 ≤ index && index < 0x8300 && sub = 9

/-- The entry is a host window, whose write completes when no access checked under an earlier rule epoch is left (R370, R539). -/
def isWindow (index sub : Nat) : Bool := 0x6400 ≤ index && index < 0x6600 && 1 ≤ sub && sub ≤ 0x40

/-- The write of the entry completes later than it is accepted (R370, R468). -/
def isLate (index sub : Nat) : Bool := isErase index sub || isWindow index sub

/-- Sessions set up under a shelf key slot end when its hash changes (R552). -/
def State.writeShelfHash (s : State) (n v : Nat) : State :=
  let changed := s.entry (Key.shelfBusShelfKeyHash n) ≠ v
  let s := s.setEntry (Key.shelfBusShelfKeyHash n) v
  if changed then { s with hop := s.hop.keepSessions fun x => decide (x.keySlot.toNat ≠ n + 1) } else s

/-- A judged write of a host window; `r` is the operation that completes with it (R369, R370, R539). -/
def State.windowWrite (s : State) (n w v : Nat) (r : LateReply) : State :=
  ({ s with windowWrites := s.windowWrites ++ [{ slice := n, window := w, value := storedValue (0x6400 + n) (w + 1) v, reply := r, taken := false }] } : State).settleWindows n

/-- A write whose operation completes later than it is accepted takes its course (R370, R468). -/
def State.lateWrite (s : State) (index sub v : Nat) (r : LateReply) : State :=
  if isErase index sub then s.vaultErase (index - 0x8100) r else s.windowWrite (index - 0x6400) (sub - 1) v r

/-- A write of SliceHost Link or Pasid: a change is a change of tenancy (R380, R571). -/
def State.writeTenancy (s : State) (n key v : Nat) : State :=
  if s.entry key = v then s else (s.setEntry key v).retenant n

/-- The known-answer tests of R490 with their outcome: bit i for an instance, bit 17 for the conditioner (R496). A conditioner that passes ends the FAILED state, and with it a gutter timeout that GUTTER does not keep (R491, R493). -/
def State.runKats (s : State) (failing : Nat) : State :=
  let s := s.setEntry Key.entropyStatusKatResult failing
  let s := (List.range 16).foldl (fun s i => if bitOf failing i then s.reportFault 0x0302 (uSconce i) uEntropy 0 0 else s) s
  let s := if bitOf failing 16 then s.entropyFault 0x0B05 else s
  if bitOf failing 17 then
    let s := { s.discardSeeds with entropy := { s.discardSeeds.entropy with failed := true } }
    s.entropyFault 0x0B04
  else if s.entropy.failed then { s with entropy := { s.entropy with failed := false, expired := s.entropy.expired && s.entropy.gutter } }
  else s

/-- A ResetRequest is pending; the reset follows (R561). -/
def State.requestReset (s : State) : State := { s with resetPending := some 2 }

/-- The write takes effect in the hub cycle after it is accepted: ReservoirSlice FloorMBps and Priority (R350, R359), LongestWaiterN (R359), SliceConfig (R578) and TamperControl (R621). -/
def takesNextCycle (index sub : Nat) : Bool :=
  (0x6100 ≤ index && index < 0x6300 && (sub = 6 || sub = 7)) || (index = 0x6002 && sub = 1) || (0x2400 ≤ index && index < 0x2600 && (sub ≤ 6 || sub = 0x0A)) || index = 0x9000

/-- What an accepted write does (R532 and the entries' own rules). -/
def State.applyWrite (s : State) (index sub : Nat) (value : Bytes) : State :=
  let v := leNat value
  let key := index * 256 + sub
  if isOverflow index sub then s.clearCounters index sub v
  else if key = Key.deviceControlResetRequest then s.requestReset
  else if index = 0x1010 && 8 ≤ sub && sub ≤ 0x0B then s.writeShelfHash (sub - 8) v
  else if key = Key.lifeCycleTransitionRequest then s.transition value none
  else if key = Key.lifeCycleKeyRowsProgram then s.programKeyRows true
  else if key = Key.bootControlFlashWriteData then s.programFlash value
  else if 0x2200 ≤ index && index < 0x2400 && (sub = 1 || sub = 2) then s.writeTenancy (index - 0x2200) key v
  else if 0x2400 ≤ index && index < 0x2600 && sub = 7 then s.retenant (index - 0x2400)
  else if 0x2800 ≤ index && index < 0x3000 && sub = 0x0B then
    (if v = 1 then s.enableQueue (index - 0x2800) else s.disableQueue (index - 0x2800))
  else if 0x4200 ≤ index && index < 0x4210 && sub = 1 then
    (if v = 0 then s.disableSconce (index - 0x4200) else s.enableSconce (index - 0x4200))
  else if 0x4200 ≤ index && index < 0x4210 && sub = 2 then s.writeLevel (index - 0x4200) v
  else if isLate index sub then s.lateWrite index sub v .nobody
  else if 0x7400 ≤ index && index < 0x7800 && sub = 9 then s.writeStreamEnable (index - 0x7400) v
  else if key = Key.entropyStatusKatRequest then (if v = 1 then s.runKats 0 else s)
  else if key = Key.tamperTestTestRequest then s.startTamperTest v
  else if 0xA400 ≤ index && index < 0xA680 && sub = 6 then s.startSelfTest (healthUnit index)
  else if key = Key.powerControlRequest then s.requestPower v
  else if key = Key.faultCollectorRelightLimit then (s.setEntry key (storedValue index sub v)).settleKinds
  else if takesNextCycle index sub then (s.settleArbiters.setEntry key (storedValue index sub v)).passCycle
  else s.setEntry key (storedValue index sub v)

/-- A dictionary write by a path with an effect: it is judged, answered, and, when accepted, takes effect. Nothing happens on a path that reaches no server. -/
def State.writeBy (s : State) (p : Path) (index sub : Nat) (value : Bytes) (effect : State → State) : State :=
  if !s.reaches p then s else
  let r := s.judgeWrite p index sub value
  let s := s.answer p index sub r
  if r = drOk then effect s else s

/-- A dictionary write by a path with the entry's own effect; one that completes late is answered then (R370, R468). -/
def State.writeEntry (s : State) (p : Path) (index sub : Nat) (value : Bytes) : State :=
  if isLate index sub && s.reaches p && s.judgeWrite p index sub value = drOk then s.lateWrite index sub (leNat value) (.path p)
  else s.writeBy p index sub value fun s => s.applyWrite index sub value

end Sys2Proof.Machine
end

