-- ==== Sys2Proof/Machine/AlgOps.lean ====
section
/-! DEFINITION. Algorithms: sizes (R109, R115, R148, R174, R189, R200), the functions of their standards (log 3), hybrids (R114 to R117), and key blobs (R469 to R471). -/

namespace Sys2Proof.Machine

/-! ### Sizes -/

def isMlKem (a : Nat) : Bool := 0x10 ≤ a && a ≤ 0x12
def isMlDsa (a : Nat) : Bool := 0x20 ≤ a && a ≤ 0x22
def isSlh (a : Nat) : Bool := 0x30 ≤ a && a ≤ 0x3B
def isLms (a : Nat) : Bool := a = 0x3C || a = 0x3D
def isMce (a : Nat) : Bool := 0x40 ≤ a && a ≤ 0x44
def isHqc (a : Nat) : Bool := 0x48 ≤ a && a ≤ 0x4A
def isKem (a : Nat) : Bool := isMlKem a || isHybrid a || isMce a || isHqc a
def isClassical (a : Nat) : Bool := 0x50 ≤ a && a ≤ 0x59

/-- The value listed for an algorithm, 0 for one not listed. -/
def sized (t : List (Nat × Nat)) (a : Nat) : Nat := ((t.find? (fun p => p.1 = a)).map (·.2)).getD 0

/-- n of an SLH-DSA set (R148). -/
def slhN (a : Nat) : Nat := if a ≤ 0x33 then 16 else if a ≤ 0x37 then 24 else 32

/-- Public key bytes (R109, R148, R174, R189, R200). -/
def publicSize (a : Nat) : Nat :=
  if isSlh a then 2 * slhN a
  else sized [(0x10, 800), (0x11, 1184), (0x12, 1568), (0x20, 1312), (0x21, 1952), (0x22, 2592), (0x80, 1216), (0x81, 1665),
    (0x40, 261120), (0x41, 524160), (0x42, 1044992), (0x43, 1047319), (0x44, 1357824), (0x48, 2249), (0x49, 4522), (0x4A, 7245),
    (0x51, 65), (0x52, 97), (0x53, 133), (0x54, 32), (0x55, 57), (0x56, 32), (0x57, 56), (0x58, 65), (0x59, 97)] a

/-- Private key bytes as held (R109, R149, R174, R190, R200). -/
def privateSize (a : Nat) : Nat :=
  if isSlh a || isHqc a then 32
  else sized [(0x10, 64), (0x11, 64), (0x12, 64), (0x20, 32), (0x21, 32), (0x22, 32), (0x80, 32), (0x81, 32),
    (0x40, 6492), (0x41, 13608), (0x42, 13932), (0x43, 13948), (0x44, 14120),
    (0x51, 32), (0x52, 48), (0x53, 66), (0x54, 32), (0x55, 57), (0x56, 32), (0x57, 56), (0x58, 32), (0x59, 48)] a

/-- Bytes of a seed given with SEED_IN: the held key, δ for McEliece (R121, R150, R175, R190, R200). -/
def seedSize (a : Nat) : Nat := if isMce a then 32 else privateSize a

/-- Ciphertext bytes (R109, R174, R189). -/
def cipherSize (a : Nat) : Nat :=
  sized [(0x10, 768), (0x11, 1088), (0x12, 1568), (0x80, 1120), (0x81, 1665), (0x40, 96), (0x41, 156), (0x42, 208), (0x43, 194), (0x44, 208),
    (0x48, 4433), (0x49, 8978), (0x4A, 14421)] a

/-- Shared secret bytes (R109, R174, R189). -/
def secretSize (a : Nat) : Nat := if isHqc a then 64 else 32

/-- Signature bytes (R109, R148, R200); RSA and the stateful schemes vary. -/
def signatureSize (a : Nat) : Nat :=
  sized [(0x20, 2420), (0x21, 3309), (0x22, 4627), (0x30, 7856), (0x31, 7856), (0x32, 17088), (0x33, 17088), (0x34, 16224), (0x35, 16224),
    (0x36, 35664), (0x37, 35664), (0x38, 29792), (0x39, 29792), (0x3A, 49856), (0x3B, 49856), (0x51, 64), (0x52, 96), (0x53, 132),
    (0x54, 64), (0x55, 114)] a

/-! ### The standards' functions (log 3) -/

/-- The public key of a private key as the device holds it, of a scheme that is neither a hybrid nor classical (R111, R149, R174, R190). -/
def publicOf (a : Nat) (key : Bytes) : Bytes :=
  if isMlKem a then kemPublic a key else if isMlDsa a then dsaPublic a key else if isSlh a then slhPublic a key
  else if isMce a then mcePublic a key else hqcPublic a key

/-- An encapsulation to a public key with the 32 bytes drawn for it: ciphertext and secret. -/
def encaps (a : Nat) (pk m : Bytes) : Bytes × Bytes :=
  if isMlKem a then kemEncaps a pk m else if isMce a then mceEncaps a pk m else hqcEncaps a pk m

/-- Decapsulation, with implicit rejection (R83, R187). -/
def decaps (a : Nat) (key ct : Bytes) : Bytes :=
  if isMlKem a then kemDecaps a key ct else if isMce a then mceDecaps a key ct else hqcDecaps a key ct

/-- A signature of ML-DSA or SLH-DSA over a formatted message, an SLH-DSA one with PK.root as the session keeps it (R154): the iterations of the signing loop (R137), and none where it ends without a signature (R138). -/
def signatureOf (a : Nat) (key root msg rnd : Bytes) : Nat × Option Bytes :=
  if isMlDsa a then dsaSign a key msg rnd else (0, some (slhSignature a key root msg rnd))

/-- A signature of ML-DSA or SLH-DSA verifies over a formatted message, or one of a stateful scheme over a message (R126, R151, R173). -/
def verifies (a : Nat) (pk msg sig : Bytes) : Bool :=
  if isMlDsa a then dsaVerify a pk msg sig else if isSlh a then slhVerifies a pk msg sig
  else if a = 0x3C then hssVerify pk msg sig else xmssVerify pk msg sig

/-! ### Hybrids -/

/-- The parts of a hybrid private key (R114): the ML-KEM seed d ‖ z, and the classical scalar. -/
def hybridSeed (a : Nat) (sigma : Bytes) : Bytes :=
  (shake256 (ascii "PYRS-HYB" ++ leBytes 1 a ++ sigma) (if a = 0x80 then 96 else 128)).take 64

/-- X25519 clamping (RFC 7748). -/
def clamp25519 (b : Bytes) : Bytes :=
  let v := leNat b
  let v := v - v % 8
  leBytes 32 (v % 2 ^ 254 + 2 ^ 254)

def hybridScalar (a : Nat) (sigma : Bytes) : Bytes :=
  let x := shake256 (ascii "PYRS-HYB" ++ leBytes 1 a ++ sigma) (if a = 0x80 then 96 else 128)
  if a = 0x80 then clamp25519 (x.drop 64)
  else beBytes 48 (beNat (x.drop 64) % (curveP384.n - 1) + 1)

/-- The ML-KEM half, the classical algorithm, its public size and its secret's size (R115, R116). -/
def hybridKem (a : Nat) : Nat := if a = 0x80 then 0x11 else 0x12
def hybridCl (a : Nat) : Nat := if a = 0x80 then 0x56 else 0x59
def hybridClSize (a : Nat) : Nat := if a = 0x80 then 32 else 97
def hybridShareSize (a : Nat) : Nat := if a = 0x80 then 32 else 48

/-- A hybrid public key (R115). -/
def hybridPublic (a : Nat) (sigma : Bytes) : Bytes :=
  classicalPublic (hybridCl a) (hybridScalar a sigma) ++ publicOf (hybridKem a) (hybridSeed a sigma)

/-- The combiner (R116). -/
def hybridCombine (a : Nat) (kpq kcl ctcl pkcl : Bytes) : Bytes :=
  sha3_256 (kpq ++ kcl ++ ctcl ++ pkcl ++ ascii "PYRS-HYB" ++ leBytes 1 a)

/-- A hybrid encapsulation with ML-KEM randomness m and ephemeral scalar e (R115, R116): ciphertext and secret. -/
def hybridEncaps (a : Nat) (pk m e : Bytes) : Bytes × Bytes :=
  let n := hybridClSize a
  let pkcl := pk.take n
  let ek := pk.drop n
  let ctcl := classicalPublic (hybridCl a) e
  let kcl := classicalShared (hybridCl a) e pkcl
  let pq := kemEncaps (hybridKem a) ek m
  (ctcl ++ pq.1, hybridCombine a pq.2 kcl ctcl pkcl)

/-- A hybrid decapsulation: an invalid classical half is replaced as R117 states. -/
def hybridDecaps (a : Nat) (sigma ct : Bytes) : Bytes :=
  let n := hybridClSize a
  let ctcl := ct.take n
  let scalar := hybridScalar a sigma
  let seed := hybridSeed a sigma
  let shared := classicalShared (hybridCl a) scalar ctcl
  let invalid := if a = 0x80 then leNat shared = 0 else !classicalOk 0x59 ctcl
  let kcl := if invalid then shake256 (seed.drop 32 ++ leBytes 1 a ++ ct) (hybridShareSize a) else shared
  hybridCombine a (decaps (hybridKem a) seed (ct.drop n)) kcl ctcl (classicalPublic (hybridCl a) scalar)

/-! ### Any KEM, any key -/

/-- The public key parses and passes its scheme's check (R113, R172, R175, R202, R203): the modulus check of FIPS 203, the types of the stateful schemes and the classical checks; of the other schemes the length alone. -/
def publicOk (a : Nat) (pk : Bytes) : Bool :=
  if isMlKem a then kemModulusOk a pk
  else if isHybrid a then classicalOk (hybridCl a) (pk.take (hybridClSize a)) && kemModulusOk (hybridKem a) (pk.drop (hybridClSize a))
  else if a = 0x3C then (hssKey pk).isSome
  else if a = 0x3D then xmssKeyOk pk
  else if isClassical a then classicalOk a pk
  else true

/-- The public key of a private key as the device holds it. -/
def anyPublic (a : Nat) (key : Bytes) : Bytes :=
  if isHybrid a then hybridPublic a key else if isClassical a then classicalPublic a key else publicOf a key

/-- The check value of a key (R130, R154, R176, R202): of its public key, or of a McEliece private key itself. -/
def keyCheck (a : Nat) (isPrivate : Bool) (key : Bytes) : Bytes :=
  if isPrivate && !isMce a then sha3_256 (anyPublic a key) else sha3_256 key

/-- Encapsulation of any KEM: ciphertext and secret. -/
def anyEncaps (a : Nat) (pk m e : Bytes) : Bytes × Bytes :=
  if isHybrid a then hybridEncaps a pk m e else encaps a pk m

/-- Decapsulation of any KEM. -/
def anyDecaps (a : Nat) (key ct : Bytes) : Bytes := if isHybrid a then hybridDecaps a key ct else decaps a key ct

/-! ### What a wick keeps of a key -/

/-- The secret part of a key's expansion (R128, R132, R176): ŝ and z; K, s1, s2 and t0; SK.seed and SK.prf; x, y and σ of HQC; the Classic McEliece key; a hybrid's scalar first. How it is encoded is the model's choice (log 54). -/
def expandedSecret (a : Nat) (key : Bytes) : Bytes :=
  let seed := if isHybrid a then hybridSeed a key else key
  let half := if isHybrid a then hybridKem a else a
  (if isHybrid a then hybridScalar a key else []) ++
  if isMlKem half then (kemExpand half (seed.take 32)).hidden.2.flatMap (packBits 12) ++ seed.drop 32
  else if isMlDsa a then let k := (dsaExpand a key).hidden; k.key ++ (k.s1 ++ k.s2 ++ k.t0).flatMap (packBits 23)
  else if isSlh a then let k := slhSeeds a key; k.skSeed ++ k.skPrf
  else if isHqc a then
    let p := hqcSet a
    let k := hqcSeeds a key
    let v := p.vectors k
    leBytes (ceilDiv p.n 8) v.1 ++ leBytes (ceilDiv p.n 8) v.2.1 ++ k.sigma
  else if isMce a then key else []

/-- The public part (R128, R139, R145): the public key with the matrix its seed expands to; nothing of the keys that need no expansion. -/
def expandedPublic (a : Nat) (pk : Bytes) : Bytes :=
  let half := if isHybrid a then hybridKem a else a
  let ek := if isHybrid a then pk.drop (hybridClSize a) else pk
  if isMlKem half then ek ++ (kemMatrix (kemSet half).k (kemDecode half ek).2).flatten.flatMap (packBits 12)
  else if isMlDsa a then pk ++ (dsaMatrix (dsaSet a) (pk.take 32)).flatten.flatMap (packBits 23)
  else if isSlh a || isHqc a then pk else []

/-! ### Caches and programs by number -/

/-- A McEliece cache entry that holds no key (R182). -/
def MceEntry.none : MceEntry := { gen := 0, slice := 0, alg := 0, key := [], size := 0, pins := [], dropped := false, live := false }

def State.mce (s : State) (n : Nat) : MceEntry := Table.get (fun _ => MceEntry.none) s.mces n
def State.setMce (s : State) (n : Nat) (x : MceEntry) : State := { s with mces := Table.set (fun _ => MceEntry.none) s.mces n x }

/-- An owner program place that holds none (R289). -/
def OwnerProgram.none : OwnerProgram := { gen := 0, image := [], pins := [], dropped := false, live := false }

/-- Owner programs are numbered slice × 16 + program. -/
def State.program (s : State) (n : Nat) : OwnerProgram := Table.get (fun _ => OwnerProgram.none) s.programs n
def State.setProgram (s : State) (n : Nat) (x : OwnerProgram) : State := { s with programs := Table.set (fun _ => OwnerProgram.none) s.programs n x }

/-! ### Key blobs -/

/-- Bytes of a blob of a key (R469). -/
def blobSize (keyLen : Nat) : Nat := 32 + 8 * (ceilDiv keyLen 8 + 1)

/-- The KWP key of a blob header (R470). -/
def blobKek (osk header : Bytes) : Bytes := kmac256 osk header 32 "PYRS-BLOB"

/-- What a blob says of its key, before USES and ALG are judged. -/
structure BlobKey where
  alg : Nat
  uses : Nat
  exportable : Bool
  key : Bytes
  deriving DecidableEq, Repr

/-- Unwrap a blob for a slice (R470); none where it fails with KEY_INVALID. -/
def State.openBlob (s : State) (slc : Nat) (b : Bytes) : Option BlobKey :=
  let n := field b 6 2
  let bound := bitOf (field b 10 1) 1
  match s.roots.osk with
  | none => none
  | some osk =>
    let kek := blobKek osk (cut b 0 32)
    let w := cut b 32 (blobSize n - 32)
    if cut b 0 4 ≠ [0x50#8, 0x59#8, 0x52#8, 0x42#8] || field b 4 1 ≠ 1 || 32 ≤ field b 8 2 || 4 ≤ field b 10 1 || field b 11 1 ≠ 0 || field b 14 2 ≠ 0 ||
        n = 0 || cut b 16 8 ≠ oskId osk || (bound && field b 12 2 ≠ slc) || (!bound && field b 12 2 ≠ 0) || !kwpAccepts kek w then none
    else some { alg := field b 5 1, uses := field b 8 2, exportable := bitOf (field b 10 1) 0, key := kwpUnwrap kek w n }

/-- Wrap a key in a blob (R469 to R471); none while no OSK is installed. -/
def State.makeBlob (s : State) (slc : Nat) (bind : Bool) (k : VaultKey) : Option Bytes :=
  match s.roots.osk with
  | none => none
  | some osk =>
    let h := [0x50#8, 0x59#8, 0x52#8, 0x42#8] ++ leBytes 1 1 ++ leBytes 1 k.alg.toNat ++ leBytes 2 k.key.length ++ leBytes 2 k.uses.toNat ++
      leBytes 1 ((if k.exportable then 1 else 0) + if bind then 2 else 0) ++ leBytes 1 0 ++ leBytes 2 (if bind then slc else 0) ++ leBytes 2 0 ++
      oskId osk ++ leBytes 8 s.timestamp.toNat
    some (h ++ kwpWrap (blobKek osk h) k.key)

/-- A key made on the device takes USES and EXPORTABLE from the slice's defaults, as they were when its job was fetched (R463, R500). -/
def Job.defaultKey (j : Job) (alg origin : Nat) (key : Bytes) : VaultKey :=
  { alg := BitVec.ofNat 8 alg, uses := j.keyRules.uses, origin := BitVec.ofNat 8 origin, exportable := j.keyRules.exportable, persist := false, key := key }

end Sys2Proof.Machine
end

