-- ==== Sys2Proof/Machine/JobCheck.lean ====
section
/-! DEFINITION. The checks of a fetched job, steps 1 to 6 of R80, with the rules of each opcode: what its words, flags, session and keys must be (R63 to R68, R75 to R81, R119 to R127, R147 to R151, R161, R172 to R175, R182, R196 to R203, R233, R234, R243 to R251, R288, R289, R444, R458, R472 to R476). -/

namespace Sys2Proof.Machine

/-- A failed check: its status and w6. -/
abbrev Failure := Nat × Nat

/-- The first check of a list that fails. -/
def firstFail : List (Bool × Nat × Nat) → Option Failure
  | [] => none
  | (bad, st, w) :: r => if bad then some (st, w) else firstFail r

/-- The first answer of a list. -/
def firstSome {α : Type} : List (Option α) → Option α
  | [] => none
  | some x :: _ => some x
  | none :: r => firstSome r

/-- A word of an entry, by number. -/
def entryWord (e : RingEntry) (k : Nat) : Nat :=
  [e.w0, e.w1, e.w2, e.w3, e.w4, e.w5, e.w6, e.w7].getD k 0 |>.toNat

/-! ### What each opcode asks for -/

/-- The session an opcode runs in: none named for its kind, direct with its ALG, direct without an ALG (and with or without keys), an object write, a restore, or either object kind. -/
inductive SessionNeed where
  | any
  | direct
  | bare
  | keyedBare
  | write
  | restore
  | object
  deriving DecidableEq, Repr

/-- What an opcode asks of a descriptor: session, ring kind, algorithm, the words among w1 to w4 it uses, the form of w5, and the flags that may be set. -/
structure OpSpec where
  need : SessionNeed
  jumbo : Bool
  alg : Bool
  words : List Nat
  w5 : Bool
  order2 : Bool
  mceF : Bool
  hedged : Bool
  deriving DecidableEq, Repr

/-- An opcode without flags on a compact ring. -/
def plainSpec (need : SessionNeed) (alg : Bool) (words : List Nat) (w5 : Bool) : OpSpec :=
  { need := need, jumbo := false, alg := alg, words := words, w5 := w5, order2 := false, mceF := false, hedged := false }

/-- TO_VAULT, SEED_IN and SLOT of a key-generation control word (R120). -/
def ctlToVault (w5 : Nat) : Bool := bitOf w5 63
def ctlSeedIn (w5 : Nat) : Bool := bitOf w5 62
def ctlSlot (w5 : Nat) : Nat := bitsOf w5 8 0
/-- The form of a key-generation control word (R120). -/
def keygenWord (w5 : Nat) : Bool := bitsOf w5 61 9 = 0 && (ctlToVault w5 || ctlSlot w5 = 0)
/-- The form of a signing control word (R198). -/
def signWord (a w5 : Nat) : Bool :=
  let h := bitsOf w5 15 8
  bitsOf w5 63 16 = 0 && bitsOf w5 7 2 = 0 && (if a = 0x50 then 0x70 ≤ h && h ≤ 0x72 else h = 0 && !bitOf w5 0) && (!bitOf w5 1 || a ≤ 0x53)
/-- The output bytes a digest control word asks for, 0 where OUT_LEN breaks its range (R244). -/
def outLen (a w5 : Nat) : Nat :=
  let n := bitsOf w5 31 16
  if a = 0x76 || a = 0x77 then (if 1 ≤ n && n ≤ 4096 then n else 0) else if n = 0 then digestSize a else 0
/-- HANDLE of a digest control word is well formed (R245). -/
def handleWord (w5 : Nat) : Bool := bitsOf w5 15 11 = 0
/-- The slot of a digest result (R244). -/
def digestSlot (w5 : Nat) : Nat := bitsOf w5 40 32

/-- The specification of an opcode for an ALG and its control word; none for one that is not defined (R77). -/
def opSpec (op a w5 : Nat) : Option OpSpec :=
  let seed := if ctlSeedIn w5 then [1, 2, 3, 4] else [3, 4]
  let lattice := isMlKem a || isHybrid a
  match op with
  | 0x0101 => some { plainSpec .direct (isKem a) seed (keygenWord w5 && !(isMce a && ctlToVault w5)) with order2 := lattice, mceF := isMce a }
  | 0x0102 => some (plainSpec .direct (isKem a) [3, 4] (w5 = 0))
  | 0x0103 => some { plainSpec .direct (isKem a) [1, 2, 3, 4] (w5 = 0) with order2 := lattice }
  | 0x0110 => some (plainSpec .direct (isMce a) [1, 2, 3, 4] (w5 = 0))
  | 0x0111 => some (plainSpec .direct (isMce a) [] true)
  | 0x0201 => some { plainSpec .direct (isMlDsa a || isSlh a) seed (keygenWord w5) with order2 := isMlDsa a }
  | 0x0202 => some { plainSpec .direct (isMlDsa a || isSlh a) [1, 2, 3, 4] (w5 = 0) with order2 := isMlDsa a, hedged := true }
  | 0x0203 => some (plainSpec .direct (isMlDsa a || isSlh a || isLms a) [1, 2] (w5 = 0))
  | 0x0210 => some (plainSpec .direct (isSlh a) [] (1 ≤ w5 && w5 ≤ 255))
  | 0x0211 => some (plainSpec .direct (isSlh a) [] (w5 = 0))
  | 0x0301 => some (plainSpec .direct (0x70 ≤ a && a ≤ 0x77) [1, 2, 3, 4]
      (bitsOf w5 62 41 = 0 && bitsOf w5 15 0 = 0 && (ctlToVault w5 || digestSlot w5 = 0) && outLen a w5 ≠ 0 && (!ctlToVault w5 || outLen a w5 = 32 || outLen a w5 = 64)))
  | 0x0302 => some (plainSpec .direct (0x70 ≤ a && a ≤ 0x77) [3, 4]
      (bitsOf w5 59 48 = 0 && bitsOf w5 15 0 = 0 && bitsOf w5 63 62 ≠ 3 && (bitsOf w5 63 62 = 2 || !bitOf w5 61) &&
        (if bitsOf w5 63 62 = 0 then bitsOf w5 47 32 = 0 else bitsOf w5 47 32 ≤ 1023) && outLen a w5 ≠ 0))
  | 0x0303 => some (plainSpec .direct (0x70 ≤ a && a ≤ 0x77) [1, 2] (bitsOf w5 63 32 = 0 && handleWord w5))
  | 0x0304 => some (plainSpec .direct (0x70 ≤ a && a ≤ 0x77) [3, 4] (bitsOf w5 62 41 = 0 && (ctlToVault w5 || digestSlot w5 = 0) && handleWord w5))
  | 0x0305 => some (plainSpec .direct (0x70 ≤ a && a ≤ 0x77) [3, 4] (bitsOf w5 63 32 = 0 && handleWord w5))
  | 0x0306 => some (plainSpec .direct (0x70 ≤ a && a ≤ 0x77) [] (bitsOf w5 63 32 = 0 && handleWord w5))
  | 0x0401 => some (plainSpec .direct (0x60 ≤ a && a ≤ 0x62) [1, 2, 3, 4] (w5 = 0))
  | 0x0402 => some (plainSpec .direct (0x60 ≤ a && a ≤ 0x62) [1, 2, 3, 4] (w5 = 0))
  | 0x0403 => some (plainSpec .direct (a = 0x63) [1, 2, 3, 4] (w5 = 0))
  | 0x0404 => some (plainSpec .direct (a = 0x63) [1, 2, 3, 4] (w5 = 0))
  | 0x0501 => some (plainSpec .direct (0x51 ≤ a && a ≤ 0x59) seed (keygenWord w5 && !(a = 0x53 && ctlToVault w5)))
  | 0x0502 => some { plainSpec .direct (0x50 ≤ a && a ≤ 0x55) [1, 2, 3, 4] (signWord a w5) with hedged := 0x51 ≤ a && a ≤ 0x53 }
  | 0x0503 => some (plainSpec .direct (0x50 ≤ a && a ≤ 0x55) [1, 2] (signWord a w5))
  | 0x0504 => some (plainSpec .direct (0x56 ≤ a && a ≤ 0x59) [1, 2, 3, 4] (w5 = 0))
  | 0x0601 => some (plainSpec .any (a = 0) [1, 2, 3, 4] (w5 = 0))
  | 0x0602 => some (plainSpec .any (a = 0) [] (w5 = 0))
  | 0x0603 => some (plainSpec .bare (a = 0) [1, 2] (w5 < 512))
  | 0x0604 => some (plainSpec .bare (a = 0) [3, 4] (w5 < 512))
  | 0x0605 => some (plainSpec .bare (a = 0) [] (w5 < 512))
  | 0x0610 => some (plainSpec .bare (a = 0) [1, 2] (w5 = 0))
  | 0x0611 => some (plainSpec .bare (a = 0) [1, 2, 3, 4] (w5 = 0))
  | 0x0701 => some { plainSpec .write (a = 0) [1, 2] true with jumbo := true }
  | 0x0702 => some { plainSpec .restore (a = 0) [3, 4] true with jumbo := true }
  | 0x0703 => some { plainSpec .write (a = 0) [] (1 ≤ w5 && w5 ≤ 255) with jumbo := true }
  | 0x0704 => some { plainSpec .object (a = 0) [] (w5 = 0) with jumbo := true }
  | 0x0801 => some (plainSpec .bare (a = 0) [2, 3, 4] (w5 = 0))
  | 0x0F01 => some (plainSpec .keyedBare (a = 0) [1, 2, 3, 4] (w5 = 0))
  | 0x0F02 => some (plainSpec .keyedBare (a = 0) [1, 2, 3, 4] (bitsOf w5 15 4 = 0))
  | 0x0F03 => some (plainSpec .keyedBare (a = 0) [] (bitsOf w5 63 32 = 0 && bitsOf w5 15 4 = 0))
  | _ => none

/-- Every key reference of the session is zero. -/
def Session.noKeys (x : Session) : Bool := (List.range 4).all fun k => x.keyRef k = 0

/-- The session is of the kind an opcode needs, with the ALG the job names (R78, R80, R243, R288, R472). -/
def sessionFits (need : SessionNeed) (op a : Nat) (x : Session) : Bool :=
  match need with
  | .any => true
  | .direct => x.kind = 1 && x.directAlg = a && (op / 256 ≠ 3 || x.noKeys)
  | .bare => x.kind = 1 && x.directAlg = 0 && x.noKeys
  | .keyedBare => x.kind = 1 && x.directAlg = 0
  | .write => x.kind = 2
  | .restore => x.kind = 3
  | .object => x.kind = 2 || x.kind = 3

/-- The session named is OPEN with the generation the job names (R60, R70). -/
def State.sessionLive (s : State) (e : RingEntry) : Bool :=
  let x := s.session e.session
  x.state = .opened && x.gen.toNat = e.gen

/-! ### Steps 1 to 3 -/

/-- Step 1: the opcode family, the session, and the streams the job names (R568, R61, R88, R246, R472). A queue target that is no queue of the slice is refused like a stream that is not granted (log 42). -/
def State.checkGrants (s : State) (j : Job) : Option Failure :=
  let e := j.entry
  let n := j.slice
  let fam := e.opcode / 256
  let base := s.entry (Key.sliceConfigSessionBase n)
  let x := s.session e.session
  let granted := fun (k : Nat) => s.entry (Key.mediaStreamSlice k) = n
  let object := s.sessionLive e && fam = 7 && (x.kind = 2 || x.kind = 3)
  firstFail [
    ((1 ≤ fam && fam ≤ 8 || fam = 15) && !bitOf (s.entry (Key.sliceConfigOpcodeFamilies n)) fam, jsSliceDenied, 0),
    (!(base ≤ e.session && e.session < base + s.entry (Key.sliceConfigSessionCount n)), jsSliceDenied, 0),
    (e.opcode = 0x0610 && n ≠ s.ownerSlice, jsSliceDenied, 0),
    (object && !granted x.mediaStream, jsSliceDenied, 0),
    (object && x.kind = 2 && x.ingest = 1 && !granted x.feedStream, jsSliceDenied, 0),
    (e.opcode = 0x0302 && bitsOf e.w5.toNat 63 62 = 2 && !granted (bitsOf e.w5.toNat 47 32), jsSliceDenied, 0),
    (e.opcode = 0x0302 && bitsOf e.w5.toNat 63 62 = 1 && (s.slotFor n (bitsOf e.w5.toNat 47 32)).isNone, jsSliceDenied, 0)]

/-- Step 2: the form of the descriptor (R75, R76, R78 to R81, R384). -/
def State.checkForm (s : State) (j : Job) : Option Failure :=
  let e := j.entry
  let x := s.session e.session
  match opSpec e.opcode e.alg e.w5.toNat with
  | none => some (jsFormat, 0)
  | some p =>
    let unused := (List.range 4).any fun k => !p.words.contains (k + 1) && entryWord e (k + 1) ≠ 0
    firstFail [
      (bitsOf e.w0.toNat 62 48 ≠ 0 || bitsOf e.w0.toNat 11 4 ≠ 0 || e.w6 ≠ 0 || !p.alg || unused || !p.w5, jsFormat, 0),
      ((e.order2 && !(p.order2 && s.order2Library)) || (e.mceF && !p.mceF) || (e.hedged && !p.hedged), jsFormat, 0),
      (p.jumbo ≠ (s.entry (Key.queueSlotKind j.slot) = 1), jsFormat, 0),
      (e.opcode = 0x0601 && e.gen ≠ 0, jsFormat, 0),
      (e.opcode ≠ 0x0601 && s.sessionLive e && !sessionFits p.need e.opcode e.alg x, jsFormat, 0),
      (e.opcode = 0x0701 && s.sessionLive e && x.ingest = 1 && e.w1 ≠ 0, jsFormat, 0),
      (e.opcode = 0x0301 && (if ctlToVault e.w5.toNat then e.w3 ≠ 0 || e.w4 ≠ 0 else e.w3 = 0), jsFormat, 0),
      (e.opcode = 0x0304 && (if ctlToVault e.w5.toNat then e.w3 ≠ 0 || e.w4 ≠ 0 else e.w3 = 0 && e.w4 ≠ 0), jsFormat, 0)]

/-- A digest handle names an open context of the job's session with its generation (R245); a form rule that needs the session. -/
def State.openContext (s : State) (e : RingEntry) : Option (Nat × DigestContext) :=
  let k := bitsOf e.w5.toNat 10 0
  let c := s.context k
  if c.isOpen && c.objectJob.isNone && c.session = e.session && c.gen.toNat = bitsOf e.w5.toNat 31 16 && c.gen ≠ 0 then some (k, c) else none

/-- Steps 2 and 3 meet for handles: a handle is judged in the session the job names (R245, R246, R251, R289). -/
def State.checkHandle (s : State) (j : Job) : Option Failure :=
  let e := j.entry
  if !s.sessionLive e then none
  else if 0x0303 ≤ e.opcode && e.opcode ≤ 0x0306 then
    match s.openContext e with
    | none => some (jsFormat, 0)
    | some (_, c) =>
      firstFail [
        (e.opcode = 0x0303 && c.attach ≠ .none, jsFormat, 0),
        (e.opcode = 0x0304 && c.secret && !ctlToVault e.w5.toNat, jsFormat, 0),
        (e.opcode = 0x0304 && ctlToVault e.w5.toNat && c.outLen ≠ 32 && c.outLen ≠ 64, jsFormat, 0)]
  else if e.opcode = 0x0302 && bitsOf e.w5.toNat 63 62 = 1 then
    (if (List.range 2048).any fun g => s.slotSlice g = j.slice && s.entry (Key.queueSlotLocalQueue g) = bitsOf e.w5.toNat 47 32 then none else some (jsFormat, 0))
  else if e.opcode = 0x0F02 || e.opcode = 0x0F03 then
    let n := j.slice * 16 + bitsOf e.w5.toNat 3 0
    let p := s.program n
    let gone := s.jobs.any fun k => k.entry.opcode = 0x0F03 && k.id < j.id && k.slice * 16 + bitsOf k.entry.w5.toNat 3 0 = n && (k.phase ≠ .staged || k.status = 0)
    if p.live && !p.dropped && !gone && p.gen.toNat = bitsOf e.w5.toNat 31 16 then none else some (jsFormat, 0)
  else none

/-- Step 3: the session is OPEN with the generation named (R60). -/
def State.checkSession (s : State) (j : Job) : Option Failure :=
  if j.entry.opcode ≠ 0x0601 && !s.sessionLive j.entry then some (jsSessionStale, 0) else none

/-! ### Keys -/

/-- What a key reference yields: nothing usable, a slot that is being erased, a private key, or a public key. -/
inductive KeyFound where
  | bad
  | erasing
  | priv (key : Bytes)
  | pub (key : Bytes)
  deriving DecidableEq, Repr

/-- An erase of the slot that was fetched or accepted before a job is in progress (R468). -/
def State.eraseAhead (s : State) (slot id : Nat) : Bool :=
  (s.erasing.any fun e => e.1 = slot && e.2.1 ≤ id) ||
  (s.jobs.any fun j => j.entry.opcode = 0x0605 && ctlSlot j.entry.w5.toNat = slot && j.id < id && (j.phase ≠ .staged || j.status = 0))

/-- A key of an ALG may serve a job's ALG (R112, R464): equal, or a generic secret for symmetric jobs and owner programs. -/
def algServes (keyAlg keyLen a : Nat) (prog : Bool) : Bool :=
  if prog then keyAlg = 0 && (keyLen = 32 || keyLen = 64)
  else keyAlg = a || (keyAlg = 0 && keyLen = 32 && 0x60 ≤ a && a ≤ 0x63)

/-- The length of a private key fits its ALG (R68). -/
def lengthServes (a : Nat) (key : Bytes) (prog : Bool) : Bool :=
  if prog then key.length = 32 || key.length = 64
  else if 0x60 ≤ a && a ≤ 0x63 then key.length = 32
  else if a = 0x50 then key.length = 8 + 5 * (field key 0 2 / 16) && rsaKeyOk key
  else key.length = privateSize a

/-- Resolve a key reference for a use (R67, R68, R112, R113, R175, R184, R197, R202, R464, R470). `use` is the bit of USES a private use needs; none for a public key. -/
def State.resolveKey (s : State) (j : Job) (ref a : Nat) (use : Option Nat) (prog : Bool) (host : Bytes) : KeyFound :=
  let v := refValue ref
  let useOk := fun (u : Nat) => match use with | some b => bitOf u b | none => true
  if refKind ref = 1 then
    if 508 ≤ v || s.entry (Key.vaultSlotSlice v) ≠ j.slice || isMce a || a = 0x50 || a = 0x53 then .bad
    else if s.eraseAhead v j.id then .erasing
    else match s.vaultKey v with
      | none => .bad
      | some k => if algServes k.alg.toNat k.key.length a prog && useOk k.uses.toNat && lengthServes a k.key prog then .priv k.key else .bad
  else if refKind ref = 2 then
    match s.openBlob j.slice host with
    | none => .bad
    | some k =>
      let first := !(s.session j.entry.session).checks.any fun c => c.1 = 0
      if algServes k.alg k.key.length a prog && useOk k.uses && lengthServes a k.key prog && (prog || a ≠ 0x50 || !first || rsaFirstOk k.key) then .priv k.key else .bad
  else if refKind ref = 3 then
    let n := if a = 0x50 then 8 + field host 0 2 / 8 else if isLms a then host.length else publicSize a
    let pk := cut host 0 n
    if use.isSome || !publicOk a pk then .bad else .pub pk
  else if refKind ref = 4 then
    let e := s.mce (bitsOf ref 15 0)
    let gone := s.jobs.any fun k => k.entry.opcode = 0x0111 && k.id < j.id && bitsOf k.entry.w5.toNat 15 0 = bitsOf ref 15 0 && (k.phase ≠ .staged || k.status = 0)
    if use.isNone && isMce a && bitsOf ref 59 32 = 0 && e.live && ((!e.dropped && !gone) || e.pins.contains j.id) && e.slice = j.slice && e.alg.toNat = a && e.gen.toNat = bitsOf ref 31 16 then .pub e.key else .bad
  else .bad

/-- The bit of USES an opcode's KEY_A needs (R464). -/
def useBit (op : Nat) : Option Nat :=
  if op = 0x0103 then some 0 else if op = 0x0202 || op = 0x0502 || op = 0x0210 || op = 0x0211 then some 1 else if op = 0x0504 then some 2
  else if op / 256 = 4 then some 3 else if op = 0x0F02 then some 4 else none

/-- The opcodes of direct sessions that use KEY_A. -/
def usesKeyA (op : Nat) : Bool := [0x0102, 0x0103, 0x0202, 0x0203, 0x0210, 0x0211, 0x0401, 0x0402, 0x0403, 0x0404, 0x0502, 0x0503, 0x0504, 0x0F01, 0x0F02].contains op

/-- KEY_A of a direct job, resolved. The public key of OWN_PROG_LOAD is ML-DSA-87; a run without a key holds none. -/
def State.keyA (s : State) (j : Job) : KeyFound :=
  let op := j.entry.opcode
  let ref := (s.session j.entry.session).keyRef 0
  if op = 0x0F01 then (if refKind ref = 3 then .pub (cut j.data.keyA 0 2592) else .bad)
  else if op = 0x0F02 then (if ref = 0 then .pub [] else if refKind ref = 1 || refKind ref = 2 then s.resolveKey j ref 0 (useBit op) true j.data.keyA else .bad)
  else s.resolveKey j ref j.entry.alg (useBit op) false j.data.keyA

def isObject (op : Nat) : Bool := op = 0x0701 || op = 0x0702

/-- The keys of an object job, in the order of their roles (R65, R66, R113). -/
def State.objectKeys (s : State) (j : Job) : List KeyFound :=
  let x := s.session j.entry.session
  if j.entry.opcode = 0x0701 then
    (if x.signA = 0 then [] else [s.resolveKey j (x.keyRef 0) x.signA (some 1) false j.data.keyA]) ++
    (if x.signB = 0 then [] else [s.resolveKey j (x.keyRef 1) x.signB (some 1) false j.data.keyB]) ++
    (List.range x.recipients).map fun n => s.resolveKey j (field (x.recipient n) 8 8) (field (x.recipient n) 0 1) none false (j.data.recipients.getD n [])
  else if j.entry.opcode = 0x0702 then
    s.resolveKey j (x.keyRef 0) (field (x.recipient 0) 0 1) (some 0) false j.data.keyA ::
    ((if x.signA = 0 then [] else [s.resolveKey j (x.keyRef 1) x.signA none false j.data.keyB]) ++
     (if x.signB = 0 then [] else [s.resolveKey j (x.keyRef 2) x.signB none false j.data.keyC]))
  else []

/-- The public key that KEY_A gives (R113). -/
def KeyFound.public (a : Nat) (k : KeyFound) : Bytes :=
  match k with
  | .priv b => anyPublic a b
  | .pub b => b
  | _ => []

/-- The private key that KEY_A gives. -/
def KeyFound.secret (k : KeyFound) : Bytes :=
  match k with
  | .priv b => b
  | _ => []

/-- A slot is granted to a slice with a grant bit (R463). -/
def State.slotGranted (s : State) (slc slot : Nat) (bit : Option Nat) : Bool :=
  slot < 508 && s.entry (Key.vaultSlotSlice slot) = slc && (match bit with | some b => bitOf (s.entry (Key.vaultSlotGrant slot)) b | none => true)

/-- The vault slot a job writes or erases (R467): its number. -/
def Job.slotWritten (j : Job) : Option Nat :=
  let op := j.entry.opcode
  let w5 := j.entry.w5.toNat
  if op = 0x0101 || op = 0x0201 || op = 0x0501 then (if ctlToVault w5 then some (ctlSlot w5) else none)
  else if op = 0x0301 || op = 0x0304 then (if ctlToVault w5 then some (digestSlot w5) else none)
  else if op = 0x0603 || op = 0x0605 then some (ctlSlot w5)
  else none

/-- The grant bit a job's slot needs (R463, R473). -/
def grantBit (op : Nat) : Option Nat :=
  if op = 0x0101 || op = 0x0201 || op = 0x0501 then some 0 else if op = 0x0603 then some 1 else if op = 0x0301 || op = 0x0304 then some 2 else none

/-! ### Step 4 -/

/-- The host range a key reference names, given what its header says (R67, R469). -/
def keyRange (ref n : Nat) (host : Bytes) : Nat × Nat :=
  if refKind ref = 2 then (refValue ref, blobSize (field host 6 2)) else if refKind ref = 3 then (refValue ref, n) else (0, 0)

/-- The ranges of the keys a job reads. -/
def State.keyRanges (s : State) (j : Job) : List (Nat × Nat) :=
  let x := s.session j.entry.session
  let op := j.entry.opcode
  let a := j.entry.alg
  let pk := fun (b : Nat) (h : Bytes) => if b = 0x50 then 8 + field h 0 2 / 8 else if isLms b then h.length else publicSize b
  if op = 0x0F01 then [keyRange (x.keyRef 0) 2592 j.data.keyA]
  else if op = 0x0701 then
    keyRange (x.keyRef 0) (pk x.signA j.data.keyA) j.data.keyA :: keyRange (x.keyRef 1) (pk x.signB j.data.keyB) j.data.keyB ::
      (List.range x.recipients).map fun n => let r := x.recipient n; keyRange (field r 8 8) (pk (field r 0 1) []) (j.data.recipients.getD n [])
  else if op = 0x0702 then
    [keyRange (x.keyRef 0) 0 j.data.keyA, keyRange (x.keyRef 1) (pk x.signA []) j.data.keyB, keyRange (x.keyRef 2) (pk x.signB []) j.data.keyC]
  else if usesKeyA op then [keyRange (x.keyRef 0) (pk a j.data.keyA) j.data.keyA]
  else []

/-- Step 4: the host windows of the input, the output and any key (R365). -/
def State.checkWindows (s : State) (j : Job) : Option Failure :=
  let e := j.entry
  let input := if e.opcode = 0x0601 then 256 else if e.opcode = 0x0801 || (e.opcode = 0x0701 && (s.session e.session).ingest = 1) then 0 else e.w2.toNat
  let ok := s.hostAllows j.slice e.w1.toNat input true false && s.hostAllows j.slice e.w3.toNat e.w4.toNat false true &&
    (s.keyRanges j).all fun r => s.hostAllows j.slice r.1 r.2 true false
  if ok then none else some (jsAccess, 0)

/-! ### Step 5 -/

/-- Step 5: keys and slot grants, of an object job every key of its session (R68, R80, R122, R251, R473, R476). -/
def State.checkKeys (s : State) (j : Job) : Option Failure :=
  let e := j.entry
  let bad := some (jsKeyInvalid, 0)
  match j.slotWritten with
  | some n => if s.slotGranted j.slice n (grantBit e.opcode) then none else bad
  | none =>
    if e.opcode = 0x0604 then
      let n := ctlSlot e.w5.toNat
      (if !s.slotGranted j.slice n none then bad
       else if s.eraseAhead n j.id then none
       else match s.vaultKey n with
        | some k => if k.exportable && s.roots.osk.isSome then none else bad
        | none => bad)
    else if e.opcode = 0x0611 then (if s.keyed && s.roots.attestSecret.isSome then none else bad)
    else if (e.opcode = 0x0101 || e.opcode = 0x0201 || e.opcode = 0x0501) && s.roots.osk.isNone then bad
    else if e.opcode = 0x0111 then
      (match s.resolveKey j e.w5.toNat e.alg none false [] with | .pub _ => none | _ => bad)
    else if usesKeyA e.opcode then (match s.keyA j with | .bad => bad | _ => none)
    else if (s.objectKeys j).contains .bad then bad
    else none

/-! ### The session parameter block -/

/-- An algorithm ID of R78. -/
def algKnown (a : Nat) : Bool :=
  a = 0 || isMlKem a || isMlDsa a || isSlh a || isLms a || isMce a || isHqc a || (0x50 ≤ a && a ≤ 0x59) || (0x60 ≤ a && a ≤ 0x63) || (0x70 ≤ a && a ≤ 0x77) || isHybrid a

/-- A reference of a kind of R67; kind 0h has value zero. -/
def refKnown (r : Nat) : Bool := refKind r ≤ 4 && (refKind r ≠ 0 || r = 0)
/-- A role that R65 requires to hold a private key, or a public one (R68). -/
def privateRole (r : Nat) : Bool := refKind r = 1 || refKind r = 2
def publicRole (r : Nat) : Bool := 1 ≤ refKind r && refKind r ≤ 4

/-- A recipient entry that is used (R66); its PUBLIC_KEY is a public-key role in an object write and zero in a restore. -/
def recipientOk (write : Bool) (e : Bytes) : Bool :=
  let a := field e 0 1
  isKem a && field e 1 1 < 2 && (isMce a || field e 1 1 = 0) && field e 2 6 = 0 && (if write then publicRole (field e 8 8) else field e 8 8 = 0)

/-- Ranges and rules of R63 to R68 that complete an open with FORMAT. -/
def blockOk (b : Bytes) : Bool :=
  let x : Session := { Session.free with params := b }
  let kind := x.kind
  let write := kind = 2
  let object := kind = 2 || kind = 3
  let a := x.signA
  let c := x.signB
  1 ≤ kind && kind ≤ 3 && field b 13 3 = 0 && field b 48 16 = 0 &&
  x.ingest ≤ (if write then 1 else 0) &&
  (if write then 16 ≤ x.segExp && x.segExp ≤ 26 else x.segExp = 0) &&
  (if object then 0x70 ≤ x.manifestAlg && x.manifestAlg ≤ 0x75 else x.manifestAlg = 0) &&
  (a = 0 || (object && isMlDsa a)) && (c = 0 || (object && isSlh c)) && (!write || a ≠ 0 || c ≠ 0) &&
  x.signMode ≤ (if write then 1 else 0) &&
  (if write then 1 ≤ x.recipients && x.recipients ≤ 4 else if object then x.recipients = 1 else x.recipients = 0) &&
  (if object then x.mediaStream ≤ 1023 else x.mediaStream = 0) &&
  (if write && x.ingest = 1 then x.feedStream ≤ 1023 else x.feedStream = 0) &&
  (if object then x.directAlg = 0 else algKnown x.directAlg) &&
  refKnown (x.keyRef 0) &&
  (if write then
    (if a ≠ 0 then privateRole (x.keyRef 0) else x.keyRef 0 = 0) && (if c ≠ 0 then privateRole (x.keyRef 1) else x.keyRef 1 = 0) && x.keyRef 2 = 0
   else if object then
    privateRole (x.keyRef 0) && (if a ≠ 0 then publicRole (x.keyRef 1) else x.keyRef 1 = 0) && (if c ≠ 0 then publicRole (x.keyRef 2) else x.keyRef 2 = 0)
   else x.keyRef 1 = 0 && x.keyRef 2 = 0) && x.keyRef 3 = 0 &&
  (List.range 4).all fun n => if n < x.recipients then recipientOk write (x.recipient n) else leNat (x.recipient n) = 0

/-- Every vault slot a block names is a slice slot granted to the slice (R68). -/
def State.blockSlotsOk (s : State) (slc : Nat) (b : Bytes) : Bool :=
  let x : Session := { Session.free with params := b }
  let refs := (List.range 4).map x.keyRef ++ (List.range x.recipients).map fun n => field (x.recipient n) 8 8
  refs.all fun r => refKind r ≠ 1 || s.slotGranted slc (refValue r) none

/-! ### Step 6 -/

/-- A length against its exact value. -/
def exactly (n want : Nat) : List (Bool × Nat × Nat) := [(n < want, jsLengthShort, 0), (want < n, jsLengthLong, 0)]

/-- An output capacity against the length needed (R82). -/
def capacity (e : RingEntry) (need : Nat) : List (Bool × Nat × Nat) := [(e.w4.toNat < need, jsLengthShort, need)]

/-- Output bytes of a key generation (R123, R152, R174, R189, R200). -/
def keygenOut (a : Nat) (toVault : Bool) : Nat := publicSize a + if toVault then 0 else blobSize (privateSize a)

/-- Signature bytes under a key: those of the modulus for RSA (R200). -/
def sigBytes (a : Nat) (pk : Bytes) : Nat := if a = 0x50 then field pk 0 2 / 8 else signatureSize a

/-- The header bytes of an RSA key, private or public, hold MOD_BITS (R201). -/
def KeyFound.bytes (k : KeyFound) : Bytes := match k with | .priv b => b | .pub b => b | _ => []

/-- The digest length of a signing job with PREHASHED (R198, R199). -/
def prehashSize (a w5 : Nat) : Nat := if a = 0x50 then digestSize (bitsOf w5 15 8) else if a = 0x51 then 32 else if a = 0x52 then 48 else 64

/-- The length checks of a signing or verifying input of R125: `n` signature bytes, then CTX_LEN, ctx and M. -/
def messageChecks (e : RingEntry) (input : Bytes) (n : Nat) (classical : Bool) : List (Bool × Nat × Nat) :=
  let w2 := e.w2.toNat
  let ctx := field input n 1
  let msg := w2 - (n + 1 + ctx)
  let pre := classical && bitOf e.w5.toNat 1
  let want := prehashSize e.alg e.w5.toNat
  [(w2 = 0 || w2 ≤ n, jsLengthShort, 0), (classical && e.alg ≠ 0x55 && ctx ≠ 0, jsFormat, 0), (w2 < n + 1 + ctx, jsLengthShort, 0),
   (2 ^ 30 < msg, jsLengthLong, 0), (pre && msg < want, jsLengthShort, 0), (pre && want < msg, jsLengthLong, 0)]

/-- A drawn or given EC scalar lies in 1 to n − 1 (R200); the orders are the curves'. -/
def scalarOk (a : Nat) (d : Bytes) : Bool :=
  let v := beNat d
  (0x54 ≤ a && a ≤ 0x57) || (1 ≤ v && v < (curveOf a).n)

/-- The 32 bytes of an owner program image's length, from its header (R286). -/
def imageLength (img : Bytes) : Nat :=
  let body := 64 + 9 * ceilDiv (field img 16 2) 2 + 9 * field img 22 2
  ceilDiv body 8 * 8 + 4627

/-- Step 6 of each opcode. -/
def State.lengthChecks (s : State) (j : Job) : List (Bool × Nat × Nat) :=
  let e := j.entry
  let a := e.alg
  let op := e.opcode
  let w2 := e.w2.toNat
  let w5 := e.w5.toNat
  let d := j.data.input
  if op = 0x0101 || op = 0x0201 || op = 0x0501 then
    (if ctlSeedIn w5 then exactly w2 (seedSize a) ++ [(op = 0x0501 && !scalarOk a (cut d 0 w2), jsFormat, 0)] else []) ++ capacity e (keygenOut a (ctlToVault w5))
  else if op = 0x0102 then capacity e (cipherSize a + secretSize a)
  else if op = 0x0103 then exactly w2 (cipherSize a) ++ capacity e (secretSize a)
  else if op = 0x0110 then exactly w2 (publicSize a) ++ capacity e 8
  else if op = 0x0202 then messageChecks e d 0 false ++ capacity e (signatureSize a)
  else if op = 0x0203 then
    (if isLms a then [(decide (w2 < 4), jsLengthShort, 0), (decide (w2 < 4 + field d 0 4), jsLengthShort, 0), (decide (2 ^ 30 < w2 - (4 + field d 0 4)), jsLengthLong, 0)]
     else messageChecks e d (signatureSize a) false)
  else if op = 0x0301 then [(decide (2 ^ 40 < w2), jsLengthLong, 0)] ++ (if ctlToVault w5 then [] else capacity e (outLen a w5))
  else if op = 0x0302 then capacity e 8
  else if op = 0x0303 then [(decide (w2 < 1), jsLengthShort, 0), (decide (2 ^ 32 < w2), jsLengthLong, 0)]
  else if op = 0x0304 then
    (if ctlToVault w5 || e.w3 = 0 then [] else match s.openContext e with | some (_, c) => capacity e c.outLen | none => [])
  else if op = 0x0401 || op = 0x0402 then
    let aad := field d 12 4
    let fixed := if op = 0x0401 then 16 else 32
    [(decide (w2 < 16), jsLengthShort, 0), (decide (65536 < aad), jsLengthLong, 0), (decide (w2 < fixed + aad), jsLengthShort, 0), (decide (2 ^ 30 < w2 - 16 - aad), jsLengthLong, 0)] ++
      capacity e (if op = 0x0401 then w2 - aad else w2 - 32 - aad)
  else if op = 0x0403 then [(decide (w2 < 1), jsLengthShort, 0), (decide (4096 < w2), jsLengthLong, 0)] ++ capacity e (8 * (ceilDiv w2 8 + 1))
  else if op = 0x0404 then [(decide (w2 < 16), jsLengthShort, 0), (decide (4104 < w2), jsLengthLong, 0), (decide (w2 % 8 ≠ 0), jsFormat, 0)]
  else if op = 0x0502 then messageChecks e d 0 true ++ capacity e (sigBytes a (s.keyA j).bytes)
  else if op = 0x0503 then messageChecks e d (sigBytes a (s.keyA j).bytes) true
  else if op = 0x0504 then exactly w2 (publicSize a) ++ capacity e (if a = 0x59 then 48 else if a = 0x57 then 56 else 32)
  else if op = 0x0601 then
    exactly w2 256 ++ capacity e 8 ++ [(!blockOk (cut d 0 256), jsFormat, 0), (!s.blockSlotsOk j.slice (cut d 0 256), jsKeyInvalid, 0)]
  else if op = 0x0603 then
    [(decide (w2 < 32), jsLengthShort, 0)] ++ exactly w2 (blobSize (field d 6 2)) ++
      [(decide (64 < field d 6 2), jsKeyInvalid, 0), ((s.openBlob j.slice d).isNone, jsKeyInvalid, 0)]
  else if op = 0x0604 then (match s.vaultKey (ctlSlot w5) with | some k => capacity e (blobSize k.key.length) | none => [])
  else if op = 0x0610 then exactly w2 8923
  else if op = 0x0611 then exactly w2 32 ++ capacity e 128
  else if op = 0x0701 then [(decide ((2 ^ 32 - 1) * 2 ^ (s.session e.session).segExp < w2), jsLengthLong, 0)]
  else if op = 0x0801 then [(decide (w2 = 0), jsLengthShort, 0), (decide (65536 < w2), jsLengthLong, 0)] ++ capacity e w2
  else if op = 0x0F01 then
    [(decide (w2 < 64), jsLengthShort, 0)] ++ exactly w2 (imageLength d) ++ capacity e 8
  else if op = 0x0F02 then [(decide (2 ^ 30 < w2), jsLengthLong, 0)]
  else []

/-- Steps 1 to 6 of R80, in order. Keys in a slot that is being erased are judged when the attempt starts (R468). -/
def State.checkJob (s : State) (j : Job) : Option Failure :=
  firstSome [s.checkGrants j, s.checkForm j, s.checkHandle j, s.checkSession j, s.checkWindows j, s.checkKeys j, firstFail (s.lengthChecks j)]

end Sys2Proof.Machine
end

