-- ==== Sys2Proof/Machine/ExtentOps.lean ====
section
/-! DEFINITION. Extents: the allocator of areas 2 to 4 with the quotas of a slice (R348), the extents of an owner program in a slice window (R290), and which jobs stage data (R347). -/

namespace Sys2Proof.Machine

/-- The unit of an extent: 64 KiB (R348). -/
def extentUnit : Nat := 0x10000

/-- A length rounded up to extent units. -/
def extentSpan (n : Nat) : Nat := ceilDiv n extentUnit * extentUnit

/-- The bounds of area 2, 3 or 4 (R42, R346); area 4 ends at the session area. -/
def State.areaBounds (s : State) (area : Nat) : Nat × Nat :=
  if area = 2 then (s.layout.1, s.layout.2.1)
  else if area = 3 then (s.layout.2.1, s.layout.2.2)
  else (s.layout.2.2, s.entry Key.reservoirLayoutSessionBase)

/-- The bytes a slice holds in an area. -/
def State.areaHeld (s : State) (slc area : Nat) : Nat :=
  ((s.extents.filter fun e => e.slice = slc && e.area = area).map (·.size)).sum

/-- The quota of a slice in an area, in MiB, as the last entry to LIT took it (R350). -/
def State.areaQuota (s : State) (slc area : Nat) : Nat :=
  let q := Table.get (fun _ => (0xFFFFFFFF, 0xFFFFFFFF, 0xFFFFFFFF)) s.quotas slc
  if area = 2 then q.1 else if area = 3 then q.2.1 else q.2.2

/-- A further extent keeps the slice within its quota; FFFFFFFFh is no quota (R348). -/
def State.quotaFits (s : State) (slc area n : Nat) : Bool :=
  s.areaQuota slc area = 0xFFFFFFFF || s.areaHeld slc area + n ≤ s.areaQuota slc area * 2 ^ 20

/-- A range meets no extent. -/
def State.rangeFree (s : State) (base n : Nat) : Bool := s.extents.all fun e => apart base n e.base e.size

/-- The least of a list of numbers. -/
def leastOf : List Nat → Option Nat
  | [] => none
  | a :: l => match leastOf l with
    | none => some a
    | some b => some (min a b)

/-- The lowest free base of an area for n bytes: the area's base or the end of an extent. -/
def State.freeBase (s : State) (area n : Nat) : Option Nat :=
  let b := s.areaBounds area
  let starts := b.1 :: s.extents.map fun e => e.base + e.size
  leastOf (starts.filter fun a => b.1 ≤ a && a + n ≤ b.2 && s.rangeFree a n)

/-- Allocate an extent of an area, or answer none where R348 ends the job RESOURCE. -/
def State.allocate (s : State) (slc area n : Nat) (use : ExtentUse) : Option State :=
  if !s.quotaFits slc area n then none else
  match s.freeBase area n with
  | none => none
  | some b => some { s with extents := s.extents ++ [{ area := area, base := b, size := n, slice := slc, use := use }] }

/-- Free the extents of a use. -/
def State.release (s : State) (use : ExtentUse) : State := { s with extents := s.extents.filter fun e => e.use ≠ use }

/-- The base of an extent, 0 where there is none. -/
def State.extentBase (s : State) (use : ExtentUse) : Nat :=
  ((s.extents.find? fun e => e.use = use).map (·.base)).getD 0

/-! ### Owner extents -/

/-- The exponent of the smallest power of two of at least 4 KiB that holds n bytes (R290). -/
def ownerExp (n : Nat) : Nat := max 12 (Nat.log2 (max n 1 - 1) + 1)

/-- The lowest aligned free place in the slice's window (R290): the window's base or the end of an extent, rounded up. -/
def State.ownerBase (s : State) (slc exp : Nat) : Option Nat :=
  let w := s.windowOf slc
  let size := 2 ^ exp
  let starts := (w.1 :: s.extents.map fun e => e.base + e.size).map fun a => ceilDiv a size * size
  leastOf (starts.filter fun a => w.1 ≤ a && a + size ≤ w.1 + w.2 && s.rangeFree a size)

/-- Allocate one of the two extents of a run. -/
def State.allocateOwner (s : State) (slc id n : Nat) (out : Bool) : Option State :=
  match s.ownerBase slc (ownerExp n) with
  | none => none
  | some b => some { s with extents := s.extents ++ [{ area := 1, base := b, size := 2 ^ ownerExp n, slice := slc, use := .owner id out }] }

/-! ### Staging -/

/-- The slice has a window (R347). -/
def State.hasWindow (s : State) (slc : Nat) : Bool := 0 < (s.windowOf slc).2

/-- The opcodes that read a host input when w2 is not zero. -/
def readsInput (op : Nat) : Bool :=
  [0x0101, 0x0103, 0x0110, 0x0201, 0x0202, 0x0203, 0x0301, 0x0303, 0x0401, 0x0402, 0x0403, 0x0404, 0x0501, 0x0502, 0x0503, 0x0504, 0x0601, 0x0603, 0x0610, 0x0611, 0x0F01, 0x0F02].contains op

/-- The job stages data (R347): it reads or writes host memory, reads a key there, builds container records, or needs owner extents. -/
def State.stagesData (s : State) (j : Job) : Bool :=
  let op := j.entry.opcode
  let x := s.session j.entry.session
  op = 0x0701 || op = 0x0702 || op = 0x0F02 || op = 0x0601 ||
  (readsInput op && j.entry.w2 ≠ 0) || (op / 256 ≠ 7 && j.entry.w4 ≠ 0) ||
  (usesKeyA op && op ≠ 0x0211 && (refKind (x.keyRef 0) = 2 || refKind (x.keyRef 0) = 3))

end Sys2Proof.Machine
end

