-- ==== Sys2Proof/Machine/ImageOps.lean ====
section
/-! DEFINITION. Wick program images (R44, R286, R289) and how they are placed in a wick. -/

namespace Sys2Proof.Machine

/-- Header fields of a program image (R286). -/
def imgLevel (img : Bytes) : Nat := field img 4 1
def imgKind (img : Bytes) : Nat := field img 5 1
def imgCount (img : Bytes) : Nat := field img 16 2
def imgEntry (img : Bytes) : Nat := field img 18 2
def imgDataBase (img : Bytes) : Nat := field img 20 2
def imgDataWords (img : Bytes) : Nat := field img 22 2
def imgMaxCycles (img : Bytes) : Nat := field img 40 4

/-- Bytes of CODE (R286). -/
def imgCodeBytes (img : Bytes) : Nat := 9 * ceilDiv (imgCount img) 2

/-- MAGIC, LEVEL, KIND, field ranges, reserved bytes, an unused odd half, padding, and MAX_CYCLES (R286, R289). -/
def imageFormOk (kind : Nat) (img : Bytes) : Bool :=
  let count := imgCount img
  let body := 64 + imgCodeBytes img + 9 * imgDataWords img
  cut img 0 4 = [0x50#8, 0x59#8, 0x57#8, 0x4B#8] && (imgLevel img = 1 || imgLevel img = 2) && imgKind img = kind && field img 6 2 = 0 &&
  1 ≤ count && count ≤ (if imgLevel img = 1 then 8192 else 16384) && imgEntry img < count &&
  imgDataBase img ≤ 16384 && imgDataWords img ≤ 16384 - imgDataBase img && field img 44 20 = 0 &&
  (count % 2 = 0 || field img (64 + imgCodeBytes img - 9) 9 < 2 ^ 36) && leNat (cut img body (ceilDiv body 8 * 8 - body)) = 0 &&
  (kind = 1 || imgMaxCycles img ≠ 0)

/-- What a wick keeps of a program image (R286). -/
def imageProgram (img : Bytes) : Program :=
  { level1 := imgLevel img = 1, owner := imgKind img = 2, id := field img 8 4, instrCount := imgCount img, entry := imgEntry img, maxCycles := imgMaxCycles img, secretMask := BitVec.ofNat 128 (field img 24 16) }

/-- n words of 9 bytes from an offset, as a table from a first index; zero words stay unlisted. -/
def wordTable (img : Bytes) (off first n : Nat) : Table Word72 :=
  (List.range n).filterMap fun i =>
    let v := field img (off + 9 * i) 9
    if v = 0 then none else some (first + i, BitVec.ofNat 72 v)

/-- The program memory an image fills: two instructions a word (R44). -/
def imageCode (img : Bytes) : Table Word72 := wordTable img 64 0 (ceilDiv (imgCount img) 2)
/-- The data memory an image fills. -/
def imageData (img : Bytes) : Table Word72 := wordTable img (64 + imgCodeBytes img) (imgDataBase img) (imgDataWords img)

/-- Write a table's words into a data memory. -/
def pokeWords (m t : Table Word72) : Table Word72 := t.foldl (fun m p => Table.set (fun _ => 0) m p.1 p.2) m

/-- The load engine puts a vendor program into a wick (R286, R287). -/
def Wick.loadImage (x : Wick) (img : Bytes) : Wick :=
  let kept := x.dmem.filter fun q => q.1 < imgDataBase img || imgDataBase img + imgDataWords img ≤ q.1
  { x with program := some (imageProgram img), pmem := imageCode img, dmem := pokeWords kept (imageData img) }

/-- The program of the library store that runs a job (R287): which routine that is, is not given and is a free function of its opcode and algorithm (log 58). -/
def State.routineImage (s : State) (e : RingEntry) : Option Bytes :=
  s.library.find? fun img => imageFormOk 1 img && decide (field img 8 4 = Config.routine e.opcode e.alg)

/-- The wick holds the program of a job (R287). -/
def State.holdsProgram (s : State) (e : RingEntry) (w : Nat) : Bool :=
  match s.routineImage e with
  | none => true
  | some img => (s.wick w).program = some (imageProgram img)

end Sys2Proof.Machine
end

