-- ==== Sys2Proof/Machine/JobFlow.lean ====
section
/-! DEFINITION. From a fetched job to a waiting one: jobs that take turns (R73, R250, R467), step 7 of R80 with what each opcode allocates there, pins on cache entries (R168, R184), digest contexts (R239, R243, R246), and the session cache (R72). -/

namespace Sys2Proof.Machine

/-! ### Turns -/

/-- A job fetched earlier and not yet ended meets a condition. -/
def State.earlier (s : State) (id : Nat) (p : Job → Bool) : Bool := s.jobs.any fun k => k.id < id && p k

/-- The opcodes that name a digest context by its handle (R244). -/
def namesContext (op : Nat) : Bool := 0x0303 ≤ op && op ≤ 0x0306

/-- The digest context a handle names, by number. -/
def handleContext (w5 : Nat) : Nat := bitsOf w5 10 0

/-- The job's turn has come: object and stream jobs of one session, writes and erases of one vault slot, and jobs on one digest context go one at a time, in fetch order (R73, R250, R444, R467). -/
def State.turnCome (s : State) (j : Job) : Bool :=
  let e := j.entry
  (e.opcode / 256 ≠ 7 || !s.earlier j.id fun k => k.entry.opcode / 256 = 7 && k.entry.session = e.session && k.entry.gen = e.gen) &&
  (match j.slotWritten with
   | some n => !(s.earlier j.id fun k => k.slotWritten = some n) && !(s.erasing.any fun x => x.1 = n && x.2.1 ≤ j.id)
   | none => true) &&
  (!namesContext e.opcode || !s.earlier j.id fun k => namesContext k.entry.opcode && k.entry.session = e.session && handleContext k.entry.w5.toNat = handleContext e.w5.toNat)

/-! ### Digest contexts -/

/-- SoftContextLimit (R239, R255). -/
def State.softLimit (s : State) : Nat := s.entry Key.unitBindingSoftContextLimit

/-- Open contexts of a digester, software or object. -/
def State.contextsOn (s : State) (d : Nat) (soft : Bool) : Nat :=
  (s.contexts.filter fun p => p.1 / 64 = d && p.2.isOpen && s.isSoft p.2 = soft).length

/-- Free software contexts, and free object contexts, of a digester; software contexts beyond the limit are taken from the object share (R239, R256). -/
def State.freeSoft (s : State) (d : Nat) : Nat := s.softLimit - s.contextsOn d true
def State.freeObject (s : State) (d : Nat) : Nat := (64 - max s.softLimit (s.contextsOn d true)) - s.contextsOn d false

/-- The digester of a list with the most free software contexts, the lowest of equals; none when none has one (R243, R246). -/
def State.mostFree (s : State) (ds : List Nat) : Option Nat :=
  ds.foldl (fun b d =>
    match b with
    | none => if 0 < s.freeSoft d then some d else none
    | some e => if s.freeSoft e < s.freeSoft d then some d else b) none

/-- Digesters in service, of all octets or of those named. -/
def State.digestersUp (s : State) (octets : Option (List Nat)) : List Nat :=
  (List.range 32).filter fun d => s.inService (uDigester d) && (match octets with | none => true | some l => l.contains (s.digesterOctet d))

/-- The octets of the link a slice is on; none while it has no link. -/
def State.sliceOctets (s : State) (slc : Nat) : List Nat :=
  if s.sliceLink slc < 8 then s.linkOctets (s.sliceLink slc) else []

/-- The lowest closed context of a digester. -/
def State.freeLocal (s : State) (d : Nat) : Option Nat := (span (64 * d) 64).find? fun k => !(s.context k).isOpen

/-- Software contexts a slice holds. -/
def State.softHeld (s : State) (slc : Nat) : Nat := (s.contexts.filter fun p => p.2.isOpen && s.isSoft p.2 && p.2.slice = slc).length

def State.softQuota (s : State) (slc : Nat) : Nat := s.entry (Key.sliceConfigDigestContextQuota slc)

/-- Open a context for a job, EMPTY with NONE (R248); one of an object takes the records of its stream from now on. -/
def State.takeContext (s : State) (j : Job) (d : Nat) (attach : Attach) (a : Nat) : Option (Nat × State) :=
  match s.freeLocal d with
  | none => none
  | some k =>
    let w5 := j.entry.w5.toNat
    let c : DigestContext := { DigestContext.closed with gen := (s.context k).gen, session := j.entry.session, slice := j.slice, alg := BitVec.ofNat 8 a, outLen := outLen a w5, lastItem := if isObject j.entry.opcode then (s.stream (s.jobStream j)).passed else 0, secret := j.entry.opcode = 0x0302 && bitOf w5 60, attach := attach, objectJob := some j.id, isOpen := true }
    some (k, s.setContext k c)

/-- The digester a DIG_OPEN goes to, and its attachment (R246). -/
def State.openPlace (s : State) (j : Job) : Option (Nat × Attach) :=
  let w5 := j.entry.w5.toNat
  let target := bitsOf w5 47 32
  if bitsOf w5 63 62 = 1 then
    match s.slotFor j.slice target with
    | none => none
    | some g => (s.mostFree (s.digestersUp (some (s.sliceOctets j.slice)))).map fun d => (d, .queue g)
  else if bitsOf w5 63 62 = 2 then
    (s.mostFree (s.digestersUp (some [s.streamOctet target]))).map fun d => (d, .stream target (bitOf w5 61))
  else (s.mostFree (s.digestersUp none)).map fun d => (d, .none)

/-- A DIG_OPEN reserves its context, or ends RESOURCE (R239). -/
def State.reserveContext (s : State) (j : Job) : Option State :=
  if s.softQuota j.slice ≤ s.softHeld j.slice then none else
  match s.openPlace j with
  | none => none
  | some (d, a) =>
    match s.takeContext j d a j.entry.alg with
    | none => none
    | some (k, s) => some (s.modJob j.id fun j => { j with drawn := [k] })

/-! ### Pins -/

/-- The private key that KEY_A yields, with its check value (R154). -/
def State.keyACheck (s : State) (j : Job) : Bytes :=
  match s.keyA j with
  | .priv b => keyCheck j.entry.alg true b
  | .pub b => keyCheck j.entry.alg false b
  | _ => []

/-- A LANTERN_DROP that was fetched before a job, and when the entry was valid, hides the entry from it (R168). -/
def State.lanternHidden (s : State) (id : Nat) (e : LanternEntry) : Bool :=
  s.earlier id fun k => k.entry.opcode = 0x0211 && k.slice = e.slice && k.entry.alg = e.alg.toNat && k.check = e.check && (e.validFrom.getD 0) ≤ k.id && (k.phase ≠ .staged || k.status = 0)

/-- The entry of a job's slice, ALG and check value that was valid when the job was fetched (R162, R164, R168). -/
def State.lanternFor (s : State) (j : Job) : Option LanternEntry :=
  s.lanterns.find? fun e => e.slice = j.slice && e.alg.toNat = j.entry.alg && e.check = j.check && !e.dropped && !s.lanternHidden j.id e &&
    (match e.validFrom with | some v => v ≤ j.id | none => false)

/-- The job names a lantern entry by its key. -/
def namesLantern (e : RingEntry) : Bool := isSlh e.alg && (e.opcode = 0x0202 || e.opcode = 0x0210 || e.opcode = 0x0211)

/-- The lantern entry that serves a signing job (R164, R168). LanternEnable is judged at the fetch: R164 states no moment, and the choice is the model's (log 53). -/
def State.lanternServes (s : State) (j : Job) : Option LanternEntry :=
  if j.entry.opcode ≠ 0x0202 || !isSlh j.entry.alg || !s.flag Key.lanternCacheLanternEnable then none else s.lanternFor j

/-- The McEliece cache entries a job uses, those its references name rightly (R184): KEY_A of a direct job, and the recipients of an object write. -/
def State.mceRefs (s : State) (j : Job) : List Nat :=
  let x := s.session j.entry.session
  let refs := if usesKeyA j.entry.opcode then [(x.keyRef 0, j.entry.alg)]
    else if j.entry.opcode = 0x0701 then (List.range x.recipients).map fun n => (field (x.recipient n) 8 8, field (x.recipient n) 0 1)
    else []
  (refs.filter fun r => refKind r.1 = 4 && (match s.resolveKey j r.1 r.2 none false [] with | .pub _ => true | _ => false)).map fun r => bitsOf r.1 15 0

/-- A fetched job pins what it will read: its lantern entry, McEliece keys and owner program (R168, R184, R289). -/
def State.pinFor (s : State) (j : Job) : State :=
  let id := j.id
  let served := s.lanternServes j
  let s := match served with
    | some e => { s with lanterns := s.lanterns.map fun (f : LanternEntry) => if f.id = e.id then { f with pins := f.pins ++ [id] } else f }
    | none => s
  let s := (s.mceRefs j).foldl (fun s k => let e := s.mce k; s.setMce k { e with pins := e.pins ++ [id] }) s
  if j.entry.opcode = 0x0F02 then
    let k := j.slice * 16 + bitsOf j.entry.w5.toNat 3 0
    let p := s.program k
    s.setProgram k { p with pins := p.pins ++ [id] }
  else s

/-! ### Step 7 -/

/-- The lowest cache entry that holds nothing and is not being loaded. R183 states no order; the lowest is the model's choice (log 51). -/
def State.freeMce (s : State) : Option Nat := (List.range (s.mces.length + 1)).find? fun k => let e := s.mce k; k < 65536 && !e.live && e.pins.isEmpty

/-- Reserve an entry and its extent for a load (R183). -/
def State.reserveMce (s : State) (j : Job) : Option State :=
  match s.freeMce with
  | none => none
  | some k =>
    let n := extentSpan (publicSize j.entry.alg)
    match s.allocate j.slice 4 n (.mceliece k) with
    | none => none
    | some s => some ((s.setMce k { s.mce k with slice := j.slice, alg := BitVec.ofNat 8 j.entry.alg, size := n, pins := [j.id] }).modJob j.id fun j => { j with drawn := [k] })

/-- A build of the same entry runs (R162). -/
def State.buildRuns (s : State) (j : Job) : Bool :=
  s.jobs.any fun k => k.id ≠ j.id && k.entry.opcode = 0x0210 && k.slice = j.slice && k.entry.alg = j.entry.alg && (s.extents.any fun e => e.use = .lantern k.id) && k.check = j.check

/-- Reserve the extent of a build, none of whose tasks has started (R162, R163, R348). -/
def State.reserveLantern (s : State) (j : Job) : Option State :=
  if s.buildRuns j || !s.flag Key.lanternCacheLanternEnable then none
  else (s.modJob j.id fun j => { j with build := some { check := j.check, started := 0, tasks := [] } }).allocate j.slice 3 (extentSpan (lanternTrees j.entry.alg * lanternRecord j.entry.alg)) (.lantern j.id)

/-- A stream allows an object or stream job of the session to start (R88, R438, R442, R445, R446). -/
def State.streamReady (s : State) (j : Job) : Bool :=
  let op := j.entry.opcode
  let x := s.session j.entry.session
  let n := x.mediaStream
  let live := fun (k dir : Nat) => s.streamState k ≠ stDisabled && s.streamDir k = dir
  let other := fun (k : Nat) => match (s.stream k).currentJob with
    | some id => id ≠ j.id && (s.findJob id).isSome
    | none => false
  if op = 0x0703 then live n 0
  else if op = 0x0704 then live n (if x.kind = 2 then 0 else 1)
  else if op = 0x0701 then
    live n 0 && s.streamState n ≠ stFaulted && !other n && x.segExp ≤ s.entry (Key.mediaStreamRecordExp n) &&
    (x.ingest = 0 || (live x.feedStream 2 && !other x.feedStream))
  else live n 1 && s.streamState n ≠ stFaulted && !other n && !((s.stream n).steps ≠ [] && s.streamExtent n = 0)

/-- Step 7 of R80 with what it reserves; none where the job ends RESOURCE. -/
def State.stepSeven (s : State) (j : Job) : Option State :=
  let op := j.entry.opcode
  let x := s.session j.entry.session
  if s.stagesData j && !s.hasWindow j.slice then none
  else if (match j.slotWritten with | some n => op ≠ 0x0605 && (s.vaultKey n).isSome | none => false) then none
  else if op = 0x0110 then s.reserveMce j
  else if op = 0x0210 then s.reserveLantern j
  else if op = 0x0F02 then
    match s.allocateOwner j.slice j.id j.entry.w2.toNat false with
    | none => none
    | some s => s.allocateOwner j.slice j.id j.entry.w4.toNat true
  else if op = 0x0301 then (if s.softQuota j.slice = 0 || s.softLimit = 0 then none else some s)
  else if op = 0x0302 then s.reserveContext j
  else if op / 256 = 7 then
    (if s.streamReady j then
       let s := if op = 0x0701 || op = 0x0702 then s.setStream x.mediaStream { s.stream x.mediaStream with currentJob := some j.id } else s
       some (if op = 0x0701 && x.ingest = 1 then s.setStream x.feedStream { s.stream x.feedStream with currentJob := some j.id } else s)
     else none)
  else some s

/-! ### The session cache -/

/-- A job of the session runs; an object write runs until its last record is acknowledged (R72, R92). -/
def State.cachePinned (s : State) (n : Nat) : Bool := s.jobs.any fun j => (j.running || j.phase = .closing) && j.entry.session = n

/-- Entries of the session cache (R72). -/
def cacheEntries : Nat := 512

/-- The session is in the cache. -/
def State.cached (s : State) (n : Nat) : Bool := s.cache.any fun e => e.session = n

/-- The entry becomes the most recently used. -/
def State.touchCache (s : State) (n : Nat) : State :=
  { s with cache := s.cache.filter (fun e => e.session ≠ n) ++ s.cache.filter (fun e => e.session = n) }

/-- Every cached entry is pinned and none is free. -/
def State.cacheBlocked (s : State) : Bool := cacheEntries ≤ s.cache.length && s.cache.all fun e => s.cachePinned e.session

/-- Look a job's session up (R72): it waits for units on a hit, and for the load of its context on a miss. PinnedWaits counts here, once per lookup that finds every entry pinned, and not at a later load: R74 states no moment, and the choice is the model's (log 52). -/
def State.lookup (s : State) (id : Nat) : State :=
  match s.findJob id with
  | none => s
  | some j =>
    let n := j.entry.session
    if s.cached n then (((s.touchCache n).bump Key.sessionCacheCacheHits).modJob id fun j => { j with phase := .waiting }).settleJob id
    else
      let s := s.bump Key.sessionCacheCacheMisses
      let s := if s.cacheBlocked then s.bump Key.sessionCachePinnedWaits else s
      s.modJob id fun j => { j with phase := .loading }

/-- 4 KiB of context traffic is charged to the slice that owns a session (R57, R72, R351). -/
def State.chargeContext (s : State) (n : Nat) (write : Bool) : State :=
  let slc := (s.session n).slice
  s.bumpBy (if write then Key.reservoirSliceBytesWritten slc else Key.reservoirSliceBytesRead slc) 4096

/-- Make room for one entry: the least recently used unpinned one is evicted, and written back when it changed (R72). -/
def State.evict (s : State) : Option State :=
  if s.cache.length < cacheEntries then some s else
  match s.cache.find? (fun e => !s.cachePinned e.session) with
  | none => none
  | some e =>
    let s := { s with cache := s.cache.filter fun f => f.session ≠ e.session }
    some (if e.changed then s.chargeContext e.session true else s)

/-- A context has been loaded: every job that waits for it may start (R72). Nothing while all entries are pinned. -/
def State.loadContext (s : State) (n : Nat) : State :=
  if !(s.jobs.any fun j => j.phase = .loading && j.entry.session = n) then s else
  match s.evict with
  | none => s
  | some s =>
    let s := { s with cache := s.cache.filter (fun (e : CacheEntry) => e.session ≠ n) ++ [({ session := n, changed := false } : CacheEntry)] }
    let s := s.chargeContext n false
    { s with jobs := s.jobs.map fun (j : Job) => if j.phase = JobPhase.loading && j.entry.session = n then { j with phase := JobPhase.waiting } else j }.settleKinds

/-- A newly opened session takes a cache entry when one can be had (log 43). -/
def State.cacheOpened (s : State) (n : Nat) : State :=
  match s.evict with
  | none => s
  | some s => { s with cache := s.cache.filter (fun (e : CacheEntry) => e.session ≠ n) ++ [({ session := n, changed := true } : CacheEntry)] }

/-- The context of a session changed (R72). -/
def State.touchSession (s : State) (n : Nat) : State :=
  { s with cache := s.cache.map fun e => if e.session = n then { e with changed := true } else e }

/-! ### Taking a turn -/

/-- A DIG_FINISH on an attached context takes effect at the first boundary after its fetch (R249). -/
def State.armFinish (s : State) (j : Job) : State :=
  if j.entry.opcode ≠ 0x0304 then s else
  match s.openContext j.entry with
  | some (k, c) => if c.attach = .none then s else s.setContext k { c with finishJobs := c.finishJobs ++ [j.id] }
  | none => s

/-- Step 7 when the job's turn comes (R73, R467); a lantern build whose entry is valid is done at once (R162), also while LanternEnable is 00h: R162 gives OK and RESOURCE both, and the model takes the first (log 53). -/
def State.takeTurn (s : State) (id : Nat) : State :=
  match s.findJob id with
  | none => s
  | some j =>
    if j.phase ≠ .turn || !s.turnCome j then s
    else
      match if j.entry.opcode = 0x0210 then s.lanternFor j else none with
      | some e => s.stageResult id jsOk e.size []
      | none =>
        match s.stepSeven j with
        | none => s.stageResult id jsResource 0 []
        | some s =>
          if j.entry.opcode = 0x0601 then s.modJob id fun j => { j with phase := .waiting } else s.lookup id

/-- Every job whose turn has come takes it, in fetch order. -/
def State.settleTurns (s : State) : State := (s.jobs.map (·.id)).foldl State.takeTurn s

/-- The checks of step 7 that belong to fetch: a SESSION_OPEN of a session that is not FREE, or being opened (R71), and an object write after early warning (R445). -/
def State.fetchRefused (s : State) (j : Job) : Bool :=
  let x := s.session j.entry.session
  (j.entry.opcode = 0x0601 && s.hasWindow j.slice && (x.state ≠ .free || x.opening)) ||
  (j.entry.opcode = 0x0701 && (s.stream x.mediaStream).earlyWarning)

/-- A fetched job that passed steps 1 to 6 is admitted (R70, R71, R73, R467). -/
def State.takeFetched (s : State) (j : Job) : State :=
  let n := j.entry.session
  let x := s.session n
  if s.fetchRefused j then s.stageResult j.id jsResource 0 []
  else
    let j := if namesLantern j.entry then { j with check := s.keyACheck j } else j
    let s := s.modJob j.id fun _ => j
    let s := if j.entry.opcode = 0x0602 then s.setSession n { x with state := .closing, closedAt := j.id }
      else if j.entry.opcode = 0x0601 && s.hasWindow j.slice then s.setSession n { x with opening := true, closedAt := j.id }
      else s
    ((s.pinFor j).armFinish j).takeTurn j.id

end Sys2Proof.Machine
end

