-- ==== Sys2Proof/Machine/Operands.lean ====
section
/-! DEFINITION. Operands of wick instructions: registers and their 64-bit form at LEVEL1 (R257, R293), data-memory addresses, granules and interlocks (R261, R262, R276), elements and shares of SV registers (R296, R300, R301, R315), lanes of f registers (R324), and reservoir regions (R266). -/

namespace Sys2Proof.Machine

/-! ### Scalar registers -/

/-- STATUS.LEVEL1 and STATUS.OWNER: those of the resident program (R265, R286). -/
def Wick.level1 (x : Wick) : Bool := match x.program with | some p => p.level1 | none => false
def Wick.owner (x : Wick) : Bool := match x.program with | some p => p.owner | none => false
/-- INSTR_COUNT of the resident program (R286). -/
def Wick.instrCount (x : Wick) : Nat := match x.program with | some p => p.instrCount | none => 0

/-- A g-register: g0 reads zero (R257). -/
def Wick.reg (x : Wick) (r : BitVec 5) : Word72 := if r = 0 then 0 else Table.get (fun _ => 0) x.g r.toNat

/-- Bits [63:0], zero-extended (R270, R293). -/
def low64 (v : Word72) : Word72 := (v.setWidth 64).setWidth 72

/-- Write a g-register, ready from a cycle on: g0 discards it, and at LEVEL1 the value is zero-extended from 64 bits (R257, R293). -/
def Wick.setReg (x : Wick) (r : BitVec 5) (v : Word72) (ready : Nat) : Wick :=
  if r = 0 then x
  else { x with g := Table.set (fun _ => 0) x.g r.toNat (if x.level1 then low64 v else v), gReady := Table.set (fun _ => 0) x.gReady r.toNat ready }

/-- An operation at the width of the level: 72 bits, or 64 at LEVEL1 (R270, R293). -/
def Wick.wide (x : Wick) (f : (n : Nat) → BitVec n → BitVec n → BitVec n) (a b : Word72) : Word72 :=
  if x.level1 then (f 64 (a.setWidth 64) (b.setWidth 64)).setWidth 72 else f 72 a b

/-- A shift amount: taken mod 128, or mod 64 at LEVEL1 (R270, R293). -/
def shiftAmount (n v : Nat) : Nat := v % (if n = 64 then 64 else 128)

/-- Leading zeros of a word. -/
def leadingZeros {n : Nat} (v : BitVec n) : Nat := if v = 0 then n else n - 1 - Nat.log2 v.toNat

/-- One bits of a word. -/
def oneBits {n : Nat} (v : BitVec n) : Nat := ((List.range n).filter fun i => v.getLsbD i).length

/-! ### Data memory -/

/-- A data-memory word. -/
def Wick.word (x : Wick) (a : Nat) : Word72 := Table.get (fun _ => 0) x.dmem a
def Wick.setWord (x : Wick) (a : Nat) (v : Word72) : Wick := { x with dmem := Table.set (fun _ => 0) x.dmem a v }

/-- Store words from an address upward. -/
def Wick.setWords (x : Wick) (a : Nat) (vs : List Word72) : Wick := (vs.zipIdx a).foldl (fun (x : Wick) p => x.setWord p.2 p.1) x

/-- A data-memory address: the low 72 bits of a register plus a signed constant (R261). -/
def Wick.address (x : Wick) {n : Nat} (rs1 : BitVec 5) (imm : BitVec n) : Nat := (x.reg rs1 + imm.signExtend 72).toNat

/-- The granule of a word is secret (R45). -/
def Wick.secret (x : Wick) (a : Nat) : Bool := x.gmask.getLsbD (a / 128)

/-- A transfer's local range holds a word. -/
def DmaTransfer.covers (d : DmaTransfer) (a : Nat) : Bool := d.local_ ≤ a && a < d.local_ + d.words

/-- The tag of an outstanding transfer that holds an access back: a read into one of its words, or a write from one that a store would change (R276). -/
def Wick.interlock (x : Wick) (as : List Nat) (store : Bool) : Option Nat :=
  (x.dma.find? fun p => (!p.2.write || store) && as.any p.2.covers).map (·.1)

/-! ### SV registers -/

/-- The element width of ET; none for codes 5 to 7 (R301). -/
def etWidth (et : BitVec 3) : Option Nat := [8, 12, 24, 36, 72][et.toNat]?

/-- The elements of a half, element 0 first (R301). -/
def elements (w : Nat) (h : Nat) : List Nat := (List.range (72 / w)).map fun j => h / 2 ^ (w * j) % 2 ^ w

/-- A half from its elements. -/
def joinElements (w : Nat) : List Nat → Nat
  | [] => 0
  | e :: r => e % 2 ^ w + 2 ^ w * joinElements w r

/-- Half 0 or 1 of an SV register (R296). -/
def Wick.half (x : Wick) (r h : Nat) : Nat := bitsOf (Table.get (fun _ => 0#144) x.sregs r).toNat (72 * h + 71) (72 * h)

/-- SH of an SV register (R296). -/
def Wick.sh (x : Wick) (r : Nat) : Bool := x.stags.getLsbD r

/-- Set or clear one bit of a tag word. -/
def setTag (t : BitVec 32) (r : Nat) (b : Bool) : BitVec 32 :=
  if b then t ||| BitVec.ofNat 32 (2 ^ r) else t &&& ~~~BitVec.ofNat 32 (2 ^ r)

/-- Write an SV register with its tag, ready from a cycle on (R298, R304). -/
def Wick.setSv (x : Wick) (r h0 h1 : Nat) (sh : Bool) (ready : Nat) : Wick :=
  { x with sregs := Table.set (fun _ => 0#144) x.sregs r (BitVec.ofNat 144 (h0 % 2 ^ 72 + 2 ^ 72 * (h1 % 2 ^ 72))), stags := setTag x.stags r sh, sReady := Table.set (fun _ => 0) x.sReady r ready }

/-- The shares of a shared value: two halves, or the three of an even pair at second order (R296, R315). -/
def Wick.shares (x : Wick) (r : Nat) : List Nat :=
  if x.order2 then [x.half r 0, x.half r 1, x.half (r + 1) 0] else [x.half r 0, x.half r 1]

/-- Write the shares of a shared value (R298, R315). -/
def Wick.setShares (x : Wick) (r : Nat) (v : List Nat) (ready : Nat) : Wick :=
  let y := x.setSv r (v.getD 0 0) (v.getD 1 0) true ready
  if x.order2 then y.setSv (r + 1) (v.getD 2 0) 0 true ready else y

/-- The SV registers a shared operand stands in. -/
def Wick.svOperand (x : Wick) (r : Nat) (shared : Bool) : List Nat := if shared && x.order2 then [r, r + 1] else [r]

/-! ### The FV unit -/

/-- The lane width of FT (R324). -/
def ftWidth (ft : BitVec 2) : Nat := 8 * 2 ^ ft.toNat

/-- An f register. -/
def Wick.freg (x : Wick) (r : BitVec 4) : Nat := (Table.get (fun _ => 0#128) x.fregs r.toNat).toNat

/-- Write an f register, ready from a cycle on. -/
def Wick.setFreg (x : Wick) (r : BitVec 4) (v : Nat) (ready : Nat) : Wick :=
  { x with fregs := Table.set (fun _ => 0#128) x.fregs r.toNat (BitVec.ofNat 128 v), fReady := Table.set (fun _ => 0) x.fReady r.toNat ready }

/-- The lanes of a 128-bit value, lane 0 first (R324). -/
def fvLanes (w v : Nat) : List Nat := (List.range (128 / w)).map fun i => v / 2 ^ (w * i) % 2 ^ w

/-- Two's complement reading of a w-bit value. -/
def signedOf (w v : Nat) : Int := if 2 ^ (w - 1) ≤ v % 2 ^ w then (v % 2 ^ w : Int) - 2 ^ w else (v % 2 ^ w : Int)

/-- A whole number modulo 2^w. -/
def wrapInt (w : Nat) (v : Int) : Nat := (v % (2 ^ w : Int)).toNat

/-! ### Reservoir regions -/

/-- One MPU region contains a whole access and grants its direction (R266). -/
def regionGrants (v : Word72) (addr len : Nat) (wr : Bool) : Bool :=
  let r := v.toNat
  bitOf r 71 && bitOf r (if wr then 60 else 61) && bitsOf r 39 0 ≤ addr && addr + len ≤ bitsOf r 39 0 + 2 ^ bitsOf r 67 62

/-- The wick's MPU allows an access under the present rule epoch (R266, R275, R369). -/
def Wick.mpuAllows (x : Wick) (addr len : Nat) (wr : Bool) : Bool :=
  (List.range 16).any fun k => regionGrants (Table.get (fun _ => 0) x.mpu k) addr len wr

end Sys2Proof.Machine
end

