-- ==== Sys2Proof/Machine/Flags.lean ====
section
/-! DEFINITION. Conditions: the masks that comparisons write in place of flags (R270, R271, R293, R306, R326), the conditions branches test (R273), and the share-tag rules of SV instructions (R298 to R300, R315). -/

namespace Sys2Proof.Machine

/-- A mask: all ones when the condition holds, else 0 (R270). -/
def maskOf (n : Nat) (c : Bool) : BitVec n := if c then BitVec.allOnes n else 0

/-- A mask in w bits as a number (R306, R326). -/
def maskNat (w : Nat) (c : Bool) : Nat := if c then 2 ^ w - 1 else 0

/-- Equality mask (R270). -/
def meqMask (n : Nat) (a b : BitVec n) : BitVec n := maskOf n (a = b)
/-- Signed less-than mask (R270). -/
def mltMask (n : Nat) (a b : BitVec n) : BitVec n := maskOf n (a.slt b)
/-- Unsigned less-than mask (R270). -/
def mloMask (n : Nat) (a b : BitVec n) : BitVec n := maskOf n (a.ult b)

/-- The register is zero, at the width of the level (R273, R293). -/
def Wick.isZero (x : Wick) (r : BitVec 5) : Bool := if x.level1 then (x.reg r).setWidth 64 = 0#64 else x.reg r = 0
/-- Bit 71 of the register is set; bit 63 at LEVEL1 (R273, R293). -/
def Wick.isNegative (x : Wick) (r : BitVec 5) : Bool := (x.reg r).getLsbD (if x.level1 then 63 else 71)

/-- A plain-mode read of shared registers (R299): the secret-access fault. -/
def Wick.readsShared (x : Wick) (rs : List Nat) : Bool := rs.any x.sh

/-- At second order, every shared register named must be even (R315). -/
def Wick.oddShared (x : Wick) (rs : List Nat) : Bool := x.order2 && rs.any fun r => r % 2 = 1

end Sys2Proof.Machine
end

