-- ==== Sys2Proof/Machine/WickOps.lean ====
section
/-! DEFINITION. How a wick issues an instruction (R267, R269, R304, log 22): the cycle it issues in, when its results are ready, shroud words (R305, R316, R317, R674), stalls and naps (R276, R284), and the faults that end an attempt (R285, R332). -/

namespace Sys2Proof.Machine

/-- Why an instruction ends the attempt (R285, R332). -/
inductive WickFault where
  | illegal
  | address
  | secret
  | mpu (addr : Nat)
  | imprecise
  | program (code : BitVec 8)
  | budget
  | island
  deriving DecidableEq, Repr

/-- What becomes of an instruction that reaches issue: it completes, it stalls, it ends the attempt's part on the wick with the state given, or it faults. -/
inductive Issue where
  | ok (s : State) (x : Wick)
  | stall (s : State) (x : Wick) (why : Stall)
  | ended (s : State)
  | fault (f : WickFault)

/-! ### Time -/

/-- The shroud generator produces one word per cycle into a FIFO of 16, and asks for a new key after 65,536 words (R316, R317). -/
def Shroud.produce (h : Shroud) (n : Nat) : Shroud :=
  if !h.keyed || h.rekeying then h else
  let p := min (min n (16 - h.fifo)) (65536 - h.produced)
  { h with fifo := h.fifo + p, produced := h.produced + p, rekeying := 65536 ≤ h.produced + p }

/-- A consumer takes the oldest word (R316). -/
def Shroud.take (h : Shroud) : Shroud := { h with fifo := h.fifo - 1, consumed := h.consumed + 1 }

/-- From cycle a to cycle b the generator runs, and the instructions that have issued draw the words due until then. -/
def Shroud.serve : List Nat → Nat → Nat → Shroud → Shroud
  | [], a, b, h => { h.produce (b - a) with due := [] }
  | d :: ds, a, b, h =>
    if b < d then { h.produce (b - a) with due := d :: ds }
    else Shroud.serve ds (max a d) b (h.produce (d - a)).take

def Shroud.run (h : Shroud) (a b : Nat) : Shroud := Shroud.serve h.due a b h

/-- The FV island and its idle counter n cycles later (R328): a counter that reached 0 in an earlier cycle starts the save of 8 cycles; an FV instruction that issues in the cycle of the 0 comes first (R329). -/
def Wick.islandAfter (x : Wick) (n : Nat) : Island × Nat :=
  let rest := fun (k m : Nat) => if k ≤ m then Island.off else Island.saving (k - m)
  match x.island with
  | .saving k => (rest k n, x.idleCount)
  | .on => if x.idleCount < n then (rest 8 (n - x.idleCount), 0) else (.on, x.idleCount - n)
  | i => (i, x.idleCount)

/-- The core's cycle counter reaches a later cycle: the shroud generator, the FV idle counter and a save of the f registers go on (R316, R328). -/
def Wick.passTo (x : Wick) (t : Nat) : Wick :=
  let n := t - x.cycles
  { x with cycles := max x.cycles t, shroud := x.shroud.run x.cycles t, idleCount := (x.islandAfter n).2, island := (x.islandAfter n).1 }

/-- An island that was on begins to power down (R333). -/
def State.countPowerDown (s : State) (before after : Island) : State :=
  match before, after with
  | .on, .on => s
  | .on, _ => s.bump Key.wickVectorsFvPowerDowns
  | _, _ => s

/-- The cycle an instruction issues in: its sources are ready and its unit is free (R269, R304). -/
def Wick.issueAt (x : Wick) (gs : List (BitVec 5)) (ss : List Nat) (fs : List (BitVec 4)) (free : Nat) : Nat :=
  let a := gs.foldl (fun t r => max t (Table.get (fun _ => 0) x.gReady r.toNat)) (max x.cycles free)
  let b := ss.foldl (fun t r => max t (Table.get (fun _ => 0) x.sReady r)) a
  fs.foldl (fun t (r : BitVec 4) => max t (Table.get (fun _ => 0) x.fReady r.toNat)) b

/-- An instruction that issued in cycle t keeps the core for n cycles, and pc moves to the next instruction. -/
def Wick.advance (x : Wick) (t n : Nat) : Wick := { x.passTo (t + n) with pc := x.pc + 1 }

/-! ### Shroud words -/

/-- n fresh words of the shroud generator. -/
def State.drawWords (s : State) (n : Nat) : List Nat × State :=
  ((List.range n).map fun k => Config.free (s.freeIndex + k) % 2 ^ 72, { s with freeIndex := s.freeIndex + n })

/-- An instruction that waited for a shroud word is counted once (R333). -/
def State.countWait (s : State) (x : Wick) : State := if x.stall = .shroud then s else s.bump Key.wickVectorsShroudWaits

/-- The draws of an instruction, beat by beat (R305, R674): `needs` are the cycles, from its first beat on, in which it needs a word; `h` is the generator in cycle `now`, and `base` the cycle of the first beat, which every wait so far has moved on. A need that finds the FIFO empty waits one cycle for the next word, and with it all that follows; none comes while the generator has no key. The result is the cycles of the draws, the base after the waits, and the cycle and index of the need that waits for a key, if one does. -/
def Shroud.plan : List Nat → Nat → Nat → Nat → Shroud → List Nat × Nat × Option (Nat × Nat)
  | [], _, base, _, _ => ([], base, none)
  | o :: os, done, base, now, h =>
    let t := base + o
    let g := h.run now t
    let late := (g.produce 1).fifo
    if g.fifo = 0 && late = 0 then ([], base, some (t, done))
    else
      let base := if g.fifo = 0 then base + 1 else base
      let g := if g.fifo = 0 then g.produce 1 else g
      let r := Shroud.plan os (done + 1) base (base + o) g.take
      ((base + o) :: r.1, r.2)

/-- Cycles in rising order. -/
def insertCycle (t : Nat) : List Nat → List Nat
  | [] => [t]
  | d :: ds => if t < d then t :: d :: ds else d :: insertCycle t ds

/-- Draw words in FIFO order for an instruction whose first beat is in cycle t: one word for each of `needs`. A beat that finds no word holds the rest (R305); one that the generator cannot serve before its new key holds the instruction, which keeps what it has drawn (R317, R674). The continuation gets the words and the cycle its first beat counts from after the waits. -/
def State.takeShroud (s : State) (x : Wick) (t : Nat) (needs : List Nat) (k : List Nat → Nat → State → Wick → Issue) : Issue :=
  let h := x.shroud
  let left := needs.drop h.got
  let base := t - (if h.got = 0 then 0 else left.headD 0)
  let p := Shroud.plan left h.got base x.cycles h
  let drawn := { x with shroud := { h with due := p.1.foldl (fun l c => insertCycle c l) h.due, got := 0 } }
  match p.2.2 with
  | some (c, got) =>
    let y := drawn.passTo c
    .stall (s.countWait x) { y with shroud := { y.shroud with got := got } } .shroud
  | none =>
    let words := s.drawWords needs.length
    k words.1 p.2.1 (if p.2.1 = base then words.2 else words.2.countWait x) drawn

/-! ### Data memory accesses -/

/-- An access to data-memory words: all must exist, all be of the kind of granule the access may reach, and none be under a transfer (R261, R262, R276). -/
def State.access (s : State) (x : Wick) (as : List Nat) (secret store : Bool) (k : Issue) : Issue :=
  if as.any (fun a => decide (0x3FFF < a)) then .fault .address
  else if as.any (fun a => x.secret a ≠ secret) then .fault .secret
  else match x.interlock as store with
    | some t => .stall s x (.dma t)
    | none => k

/-! ### Faults -/

/-- Code of a wick's fault (R627). -/
def WickFault.code : WickFault → Nat
  | .illegal => 0x0103
  | .address => 0x0104
  | .secret => 0x0105
  | .mpu _ => 0x0106
  | .imprecise => 0x0107
  | .program _ => 0x0108
  | .budget => 0x0109
  | .island => 0x0204

/-- How an owner program's job ends for its own error (R285); none for a fault that replays it. -/
def WickFault.ownerStatus : WickFault → Option Nat
  | .illegal | .address | .program _ | .budget => some jsFormat
  | .secret | .mpu _ | .imprecise => some jsAccess
  | .island => none

/-- What a fault carries beside its report (R275, R281). -/
def WickFault.report (f : WickFault) (pc : BitVec 14) : Option WickReport :=
  match f with
  | .mpu a => some { address := a, pc := pc, code := 0 }
  | .program c => some { address := 0, pc := pc, code := c }
  | _ => none

/-- A wick's fault ends the attempt: an owner program's own error ends its job, every other fault is reported against the wick or its island (R285, R292, R332). -/
def State.wickFault (s : State) (w : Nat) (f : WickFault) : State :=
  let x := s.wick w
  match x.job, if x.owner then f.ownerStatus else none with
  | some id, some st => s.failJob id st
  | some id, none =>
    let slc := match s.findJob id with | some j => uSlice j.slice | none => 0
    let detail := match f with | .mpu a => a | _ => 0
    let s := match f.report x.pc with | some r => s.setWick w { x with report := some r } | none => s
    s.reportFault f.code (if f = .island then uIsland w else uWick w) (uWick w) slc detail
  | none, _ => s

/-! ### Issue -/

/-- The cycle budget of the program is used up (R285, R286). -/
def Wick.spent (x : Wick) : Bool := match x.program with | some p => p.maxCycles ≠ 0 && p.maxCycles ≤ x.cycles | none => false

/-- An attempt runs on the wick (R84, R259). -/
def State.attemptOn (s : State) (w : Nat) : Bool :=
  match (s.wick w).job with
  | none => false
  | some id => match s.findJob id with | some j => j.running && j.units.contains (uWick w) | none => false

/-- The wick may issue: the device is LIT and not stopped, the wick serves an attempt and has not reached its DONE, does not nap, and has cycles left. -/
def State.wickIssues (s : State) (w : Nat) : Bool :=
  let x := s.wick w
  s.isLit && s.fatal.isNone && s.inService (uWick w) && s.attemptOn w && !x.napping && !x.spent && x.doneWith.isNone

/-- The next line of an outstanding transfer (R283): of a write, its first line in the write buffer; of a read, whose words arrive together, its first. -/
def Wick.nextLine (x : Wick) (tag : Nat) : Option Nat :=
  match x.dma.find? (fun p => p.1 = tag) with
  | none => none
  | some p => if p.2.write then (x.writeBuffer.find? fun l => l.1 = tag).map (·.2.1) else some p.2.address

/-- The line a stalled wick waits for (R284): that of the transfer it names, or of its oldest one in a drain. -/
def Wick.awaitedLine (x : Wick) : Option Nat :=
  match x.stall with
  | .dma tag => x.nextLine tag
  | .drain => match x.writeBuffer with
    | l :: _ => some l.2.1
    | [] => x.dma.head?.map (·.2.address)
  | _ => none

/-- The latest hint of the channel a line lies on (R283). -/
def Wick.hintFor (x : Wick) (line : Nat) : Nat := (Table.get (fun _ => (0 : BitVec 12)) x.hints (channelOf line)).toNat

/-- NAP_MIN of a wick (R265). -/
def Wick.napMin (x : Wick) : Nat := bitsOf x.napCtl.toNat 11 0

/-- A wick naps from now on (R284): NAP_EN is 1, it is stalled on a transfer or a drain, and the hint for the line it waits for is at least NAP_MIN. -/
def Wick.mayNap (x : Wick) : Bool :=
  bitOf x.napCtl.toNat 16 && (match x.awaitedLine with | some a => x.napMin ≤ x.hintFor a | none => false)

/-- A stall begins or goes on; one that begins with a hint of at least NAP_MIN is a nap (R284). -/
def State.stallWick (s : State) (w : Nat) (x : Wick) (why : Stall) : State :=
  let nap := x.stall ≠ why && { x with stall := why }.mayNap
  let s := s.setWick w { x with stall := why, napping := nap }
  if nap then s.bump (Key.wickStatusNaps w) else s

/-- An instruction reaches issue on a wick. The cycles of a stall on the outside that now ends are not stated: they are a free value (R269, log 22). -/
def State.issue (s : State) (w : Nat) (f : State → Wick → Issue) : State :=
  if !s.wickIssues w then s else
  let x := s.wick w
  let waited := x.stall ≠ .none
  let s0 := if waited then s.draw.2 else s
  let x0 := if waited then x.passTo (x.cycles + s.draw.1) else x
  match f s0 x0 with
  | .ok t y => (t.setWick w { y with stall := .none, napping := false }).countPowerDown x.island y.island
  | .ended t => t
  | .fault e => s.wickFault w e
  | .stall t0 y0 why0 =>
    match f s x with
    | .stall t y why => (t.stallWick w y why).countPowerDown x.island y.island
    | _ => (t0.stallWick w y0 why0).countPowerDown x.island y0.island

/-! ### Shapes of scalar instructions -/

/-- An instruction that reads g-registers and writes one (R270 to R272): reserved bits or a form the level lacks are illegal. -/
def State.scalar (s : State) (w : Nat) (legal : Wick → Bool) (rd : BitVec 5) (srcs : List (BitVec 5)) (latency : Nat) (v : Wick → Word72) : State :=
  s.issue w fun s x =>
    if !legal x then .fault .illegal else
    let t := x.issueAt srcs [] [] 0
    .ok s ((x.advance t 1).setReg rd (v x) (t + latency))

/-- An ALU instruction with two source registers (R270). -/
def State.aluR (s : State) (w : Nat) (rd rs1 rs2 : BitVec 5) (rsv : BitVec 9) (latency : Nat) (f : (n : Nat) → BitVec n → BitVec n → BitVec n) : State :=
  s.scalar w (fun _ => rsv = 0) rd [rs1, rs2] latency fun x => x.wide f (x.reg rs1) (x.reg rs2)

/-- An ALU instruction with a sign-extended constant (R271). -/
def State.aluI (s : State) (w : Nat) (rd rs1 : BitVec 5) (imm : BitVec 20) (f : (n : Nat) → BitVec n → BitVec n → BitVec n) : State :=
  s.scalar w (fun _ => true) rd [rs1] 1 fun x => x.wide f (x.reg rs1) (imm.signExtend 72)

/-- A shift by a constant of at most 71 (R271). -/
def State.aluShift (s : State) (w : Nat) (rd rs1 : BitVec 5) (rsv : BitVec 10) (amount : BitVec 7) (f : (n : Nat) → BitVec n → BitVec n → BitVec n) : State :=
  s.scalar w (fun _ => rsv = 0 && amount.toNat ≤ 71) rd [rs1] 1 fun x => x.wide f (x.reg rs1) (amount.setWidth 72)

/-- A constant load (R272). -/
def State.constant (s : State) (w : Nat) (rd : BitVec 5) (legal : Wick → Bool) (v : Wick → Word72) : State :=
  s.scalar w legal rd [rd] 1 v

/-! ### Control transfers -/

/-- A transfer to a target: one at or above INSTR_COUNT is illegal (R273). -/
def Wick.jump (x : Wick) (t : Nat) (target : Word72) : Option Wick :=
  if x.instrCount ≤ target.toNat then none else some { x.advance t 2 with pc := target.setWidth 14 }

/-- pc plus a signed offset. -/
def Wick.relative (x : Wick) {n : Nat} (off : BitVec n) : Word72 := x.pc.setWidth 72 + off.signExtend 72

/-- A transfer as it issues. -/
def Wick.transfer (x : Wick) (s : State) (t : Nat) (target : Word72) (after : Wick → Wick) : Issue :=
  match x.jump t target with
  | none => .fault .illegal
  | some y => .ok s (after y)

/-- A branch on a register; RS2 must be 0 (R273). -/
def State.branch (s : State) (w : Nat) (rs1 rs2 : BitVec 5) (off : BitVec 20) (c : Wick → Bool) : State :=
  s.issue w fun s x =>
    if rs2 ≠ 0 then .fault .illegal else
    let t := x.issueAt [rs1] [] [] 0
    if c x then x.transfer s t (x.relative off) id else .ok s (x.advance t 1)

end Sys2Proof.Machine
end

