-- ==== Sys2Proof/Machine/AttemptOps.lean ====
section
/-! DEFINITION. Attempts: which units a job may get (R29, R30, R52, R128, R131, R204, R228, R239, R242, R243, R573), the keys and windows judged when it starts (R68, R365, R468), and the state its units start in (R213, R226, R259, R290, R318). -/

namespace Sys2Proof.Machine

/-! ### Keys of a job -/

/-- Every key a job uses (R68). -/
def State.jobKeys (s : State) (j : Job) : List KeyFound :=
  if j.entry.opcode = 0x0604 then
    (if s.eraseAhead (ctlSlot j.entry.w5.toNat) j.id then [.erasing] else
     match s.vaultKey (ctlSlot j.entry.w5.toNat) with
     | some k => [if k.exportable then .priv k.key else .bad]
     | none => [.bad])
  else if usesKeyA j.entry.opcode then [s.keyA j]
  else s.objectKeys j

/-- The reference whose expansion a wick keeps for a job (R128): KEY_A, or KEY_B of an object write without an ML-DSA key. -/
def State.jobKeyRef (s : State) (j : Job) : BitVec 64 :=
  let x := s.session j.entry.session
  if usesKeyA j.entry.opcode || j.entry.opcode = 0x0702 then BitVec.ofNat 64 (x.keyRef 0)
  else if j.entry.opcode = 0x0701 then BitVec.ofNat 64 (if x.signA = 0 then x.keyRef 1 else x.keyRef 0)
  else 0

/-- The residency a job's attempt leaves in a wick: of the whole key, or of its public part (R128, R139). -/
def State.jobResidency (s : State) (j : Job) (full : Bool) : Residency :=
  { session := j.entry.session, gen := (s.session j.entry.session).gen, keyRef := s.jobKeyRef j, order2 := j.entry.order2, full := full }

/-- A key of a role has been expanded in the session (R130). -/
def Session.knows (x : Session) (role : Nat) : Bool := x.checks.any fun c => c.1 = role

/-- KEY_A has not been expanded in the session yet (R130). -/
def State.firstUse (s : State) (j : Job) : Bool := !(s.session j.entry.session).knows 0

/-- An opcode expands the private part of its key. -/
def usesPrivate (op : Nat) : Bool := op = 0x0103 || op = 0x0202 || op = 0x0210 || op = 0x0502 || isObject op

/-- The wick of this place in an attempt expands the whole key: the first one of a job that uses the private part, and the second at the key's first use (R130, R139). -/
def State.expandsFully (s : State) (j : Job) (place : Nat) : Bool := usesPrivate j.entry.opcode && (place = 0 || (place = 1 && s.firstUse j))

/-- A key of a restore has not been expanded in the session yet: KEY_A, and the signers' keys (R130). -/
def State.restoreFirst (s : State) (j : Job) : Bool :=
  let x := s.session j.entry.session
  !x.knows 0 || (x.signA ≠ 0 && !x.knows 1) || (x.signB ≠ 0 && !x.knows 2)

/-! ### Numbers of units -/

def unitsOfClass (us : List UnitId) (c : Nat) : List Nat := (us.filter fun u => unitClass u = c).map unitIndex

/-- The first wick of an attempt. -/
def Job.wick (j : Job) : Nat := (unitsOfClass j.units 1).getD 0 0

/-- The least and greatest number of wicks of an attempt (R29, R86, R130, R154, R163, R180, R205, R206): of a lantern build, those of one task and its check; of a gang, 17 or the 16 of its sconce (R131). -/
def State.wickNeed (s : State) (j : Job) : Nat × Nat :=
  let op := j.entry.opcode
  let a := j.entry.alg
  if op = 0x0101 then (if isMce a then (16, 17) else (1, 1))
  else if op = 0x0201 then (if isSlh a then (2, 2) else (1, 1))
  else if op = 0x0102 || op = 0x0103 || op = 0x0203 then (if s.firstUse j && !isLms a && !(isMce a && op = 0x0102) then (2, 2) else (1, 1))
  else if op = 0x0702 then (if s.restoreFirst j then (2, 2) else (1, 1))
  else if op = 0x0202 || op = 0x0502 || op = 0x0701 || op = 0x0210 then (2, 2)
  else if op = 0x0501 || op = 0x0503 || op = 0x0611 || op = 0x0F02 then (1, 1)
  else (0, 0)

def isGang (e : RingEntry) : Bool := e.opcode = 0x0101 && isMce e.alg
def needsSealer (op : Nat) : Bool := op / 256 = 4 || isObject op
def needsDigester (op : Nat) : Bool := op = 0x0301 || op = 0x0303 || op = 0x0304 || isObject op

/-! ### Usable units -/

/-- A unit is in service and has not failed an attempt of the job (R52, R633). -/
def State.candidate (s : State) (j : Job) (u : UnitId) : Bool := s.inService u && !j.failed.contains u

/-- Another slice runs under steady scheduling and names a unit in an entry of its own (R573, R575). -/
def State.namedByOther (s : State) (slc : Nat) (names : Nat → Nat) (u : Nat) : Bool :=
  (List.range 512).any fun n => n ≠ slc && s.flag (Key.sliceConfigSteady n) && bitOf (s.entry (names n)) u

/-- A job may use a sconce (R573): of a steady slice, those it named when the job was fetched; and none that another steady slice names now (R575). -/
def State.mayUseSconce (s : State) (j : Job) (c : Nat) : Bool :=
  (match j.steady with | some p => bitOf p.1 c | none => true) && !s.namedByOther j.slice Key.sliceConfigSteadySconces c

/-- A job may use a taper (R573, R575): those of a steady slice serve it alone; one whose SteadyTapers was 00h shares the others. -/
def State.mayUseTaper (s : State) (j : Job) (t : Nat) : Bool :=
  (match j.steady with | some p => p.2 = 0 || bitOf p.2 t | none => true) && !s.namedByOther j.slice Key.sliceConfigSteadyTapers t

/-- A wick in service that the slice may use, its sconce taking jobs (R599, R601). -/
def State.wickServes (s : State) (j : Job) (w : Nat) : Bool :=
  let c := sconceOf w
  s.candidate j (uWick w) && s.inService (uSconce c) && s.entry (Key.sconcePowerState c) = 1 && !(s.sconce c).draining && s.mayUseSconce j c

def State.wickIdle (s : State) (j : Job) (w : Nat) : Bool := s.wickServes j w && (s.wick w).job.isNone

/-- A sconce takes attempts of more than one wick only while all its wicks are in service; one that has a fenced wick, or one under self-test, runs single-wick jobs (R30). -/
def State.sconceWhole (s : State) (c : Nat) : Bool := (span (16 * c) 16).all fun w => s.inService (uWick w)

/-- A wick may be one of a pair. -/
def State.wickPairs (s : State) (j : Job) (w : Nat) : Bool := s.wickServes j w && s.sconceWhole (sconceOf w)

/-- Another sconce has a wick that may be one of a pair with a wick of this one. -/
def State.otherSconce (s : State) (j : Job) (c : Nat) : Bool := (List.range 256).any fun w => sconceOf w ≠ c && s.wickPairs j w

/-- Two wicks for a paired step (R131): of two sconces where another sconce has one in service, else of one. -/
def State.pairFits (s : State) (j : Job) (a b : Nat) : Bool :=
  a ≠ b && s.wickPairs j a && s.wickPairs j b && (sconceOf a ≠ sconceOf b || !s.otherSconce j (sconceOf a))

/-- An expansion in a wick survives the start of a job: of the same session, and of the same key and masking order where the job uses a key and masks it (R128, R129). -/
def State.keepsKey (s : State) (j : Job) (r : Residency) : Bool :=
  let want := s.jobResidency j true
  r.session = want.session && r.gen = want.gen && (want.keyRef = 0 || r.keyRef = want.keyRef) && (!usesPrivate j.entry.opcode || !r.full || r.order2 = want.order2)

/-- The wick holds the expansion of the job's key, with its private part where that is needed (R128, R139). -/
def State.holdsKey (s : State) (j : Job) (full : Bool) (w : Nat) : Bool :=
  match (s.wick w).resident with
  | some r => s.jobKeyRef j ≠ 0 && s.keepsKey j r && (r.full || !full)
  | none => false

/-- A wick whose FV island is fenced runs no LEVEL 01h program (R332). -/
def State.islandFits (s : State) (j : Job) (w : Nat) : Bool :=
  j.entry.opcode ≠ 0x0F02 || imgLevel (s.program (j.slice * 16 + bitsOf j.entry.w5.toNat 3 0)).image ≠ 1 || s.inService (uIsland w)

/-- The job draws from the instance of its wick's sconce (R136, R153, R187, R199, R200, R487). -/
def drawsFromSconce (e : RingEntry) : Bool :=
  let op := e.opcode
  ((op = 0x0101 || op = 0x0201 || op = 0x0501) && !ctlSeedIn e.w5.toNat) || op = 0x0102 || op = 0x0701 || (op = 0x0202 && e.hedged) ||
  (op = 0x0502 && (if e.alg = 0x50 then bitOf e.w5.toNat 0 else e.hedged))

/-- In GUTTER a job that draws goes to a sconce whose instance does not hold, when one has an idle wick able to run it (R492). -/
def State.steered (s : State) (j : Job) : Bool :=
  s.entropy.gutter && drawsFromSconce j.entry && (List.range 256).any fun w => s.wickIdle j w && s.islandFits j w && !(s.drbg (sconceOf w)).holding

/-- A wick the dispatcher may give an attempt (R492). -/
def State.wickOffered (s : State) (j : Job) (w : Nat) : Bool := s.wickIdle j w && (!s.steered j || !(s.drbg (sconceOf w)).holding)

/-- A job goes to a wick that holds its key's expansion when one is idle (R128), and among those to one that holds its program too (R287). -/
def State.residencyFits (s : State) (j : Job) (w : Nat) : Bool :=
  let holds := s.holdsKey j (s.expandsFully j 0)
  let both := fun v => holds v && s.holdsProgram j.entry v
  (s.jobKeyRef j = 0 || holds w || !(s.wicks.any fun p => s.wickOffered j p.1 && holds p.1)) &&
  (both w || !(s.wicks.any fun p => s.wickOffered j p.1 && both p.1))

/-- The wicks of a gang: one whole sconce that has failed no attempt of the job, and the wick of another sconce that checks the key; where no other sconce has one, a wick of the gang checks it (R30, R131, R180). -/
def State.gangFits (s : State) (j : Job) (us : List UnitId) (ws : List Nat) : Bool :=
  let c := sconceOf (ws.getD 0 0)
  ws.take 16 = span (16 * c) 16 && unitsOfClass us 3 = [c] && s.candidate j (uSconce c) &&
  (match ws.drop 16 with
   | [] => !s.otherSconce j c
   | w :: _ => sconceOf w ≠ c && s.wickPairs j w)

/-- The wicks of an attempt: as many as needed, idle, the second chosen by R131 (R29, R30). -/
def State.wicksFit (s : State) (j : Job) (us : List UnitId) : Bool :=
  let ws := unitsOfClass us 1
  let need := s.wickNeed j
  need.1 ≤ ws.length && ws.length ≤ need.2 && ws.all (fun w => s.wickIdle j w && s.islandFits j w) && (ws.length < 1 || s.wickOffered j (ws.getD 0 0)) &&
  (if isGang j.entry then s.gangFits j us ws
   else unitsOfClass us 3 = [] && (ws.length < 1 || s.residencyFits j (ws.getD 0 0)) && (ws.length < 2 || s.pairFits j (ws.getD 0 0) (ws.getD 1 0)))

/-- The taper of an attempt: idle and wiped (R204, R213). -/
def State.tapersFit (s : State) (j : Job) (us : List UnitId) : Bool :=
  match unitsOfClass us 4 with
  | [] => !s.taperNeed j
  | [t] => s.taperNeed j && s.candidate j (uTaper t) && (s.taper t).job.isNone && !(s.taper t).mustWipe && s.mayUseTaper j t
  | _ => false

/-- The objects assigned to a sealer: those of the attempts it serves (R228). -/
def State.sealerObjects (s : State) (n : Nat) : Nat := (s.jobs.filter fun j => isObject j.entry.opcode && j.units.contains (uSealer n)).length

/-- A direct job has the key register of a sealer, from its start to its end (R226, R229). -/
def State.sealerTaken (s : State) (n : Nat) : Bool :=
  match (s.sealer n).job with
  | some id => (match s.findJob id with | some j => decide (j.entry.opcode / 256 = 4) | none => false)
  | none => false

/-- The sealer of R228: of those bound to the octets concerned, the one with the fewest objects. -/
def State.sealerFor (s : State) (j : Job) : Option Nat :=
  let x := s.session j.entry.session
  let octets := if j.entry.opcode = 0x0701 && x.ingest = 1 then [s.streamOctet x.feedStream] else s.sliceOctets j.slice
  ((List.range 32).filter fun n => octets.contains (s.sealer n).octet && s.candidate j (uSealer n)).foldl (fun b n =>
    match b with
    | none => some n
    | some m => if s.sealerObjects n < s.sealerObjects m then some n else some m) none

/-- The sealer of an attempt; a direct job waits while another has its key register (R228, R229, R233). -/
def State.sealersFit (s : State) (j : Job) (us : List UnitId) : Bool :=
  match unitsOfClass us 6 with
  | [] => !needsSealer j.entry.opcode
  | [n] => needsSealer j.entry.opcode && s.sealerFor j = some n && (isObject j.entry.opcode || !s.sealerTaken n)
  | _ => false

/-- The digester a DIGEST job runs on (R243): one of its link's octets, else the one with the most free contexts. -/
def State.digestPlace (s : State) (j : Job) : Option Nat :=
  let ok := fun (d : Nat) => !j.failed.contains (uDigester d)
  match s.mostFree ((s.digestersUp (some (s.sliceOctets j.slice))).filter ok) with
  | some d => some d
  | none => s.mostFree ((s.digestersUp none).filter ok)

/-- A digester that may carry a context: its own, or where that is out of service another of its octet, or any for an unattached one (R242). -/
def State.carries (s : State) (j : Job) (d : Nat) : Bool :=
  match s.openContext j.entry with
  | none => true
  | some (k, c) =>
    let home := k / 64
    s.candidate j (uDigester d) && (d = home || (!s.candidate j (uDigester home) && (c.attach = .none || s.digesterOctet d = s.digesterOctet home)))

/-- The object contexts of a job, by number. -/
def State.contextsOf (s : State) (id : Nat) : List Nat := (s.contexts.filter fun p => p.2.isOpen && p.2.objectJob = some id).map (·.1)

/-- A digester has the two contexts of an object attempt, or those it holds there already (R239, R242). -/
def State.objectRoom (s : State) (j : Job) (d : Nat) : Bool :=
  2 ≤ s.freeObject d || (s.contextsOf j.id).any fun k => k / 64 = d

/-- The digester of an attempt: DIGEST's by R243, one of its octet with contexts free for an object, that of the context or one that may carry it for a handle (R239, R242). -/
def State.digestersFit (s : State) (j : Job) (us : List UnitId) : Bool :=
  let op := j.entry.opcode
  match unitsOfClass us 5 with
  | [] => !needsDigester op
  | [d] =>
    d < 32 && needsDigester op && s.candidate j (uDigester d) &&
    (if op = 0x0301 then s.digestPlace j = some d
     else if isObject op then s.digesterOctet d = s.streamOctet (s.jobStream j) && s.objectRoom j d
     else s.carries j d)
  | _ => false

/-- The media octet of an object job serves with it. -/
def State.octetsFit (s : State) (j : Job) (us : List UnitId) : Bool :=
  unitsOfClass us 7 = if isObject j.entry.opcode then (if s.inService (uOctet (s.streamOctet (s.jobStream j))) then [s.streamOctet (s.jobStream j)] else [32]) else []

/-- No unit twice. -/
def distinct : List UnitId → Bool
  | [] => true
  | u :: l => !l.contains u && distinct l

/-- The units given are those the job needs. -/
def State.unitsFit (s : State) (j : Job) (us : List UnitId) : Bool :=
  distinct us && us.all (fun u => unitExists u && [1, 3, 4, 5, 6, 7].contains (unitClass u)) &&
  s.wicksFit j us && s.tapersFit j us && s.sealersFit j us && s.digestersFit j us && s.octetsFit j us

/-- A DIGEST job waits while its slice's quota is used up (R239). -/
def State.digestWaits (s : State) (j : Job) : Bool := j.entry.opcode = 0x0301 && s.softQuota j.slice ≤ s.softHeld j.slice

/-! ### The start state of units -/

/-- Vendor MPU regions: what the hub grants an attempt is not given (log 14). -/
def State.drawRegions (s : State) : Table Word72 × State :=
  (List.range 16).foldl (fun (p : Table Word72 × State) k => (Table.set (fun _ => 0) p.1 k (BitVec.ofNat 72 p.2.draw.1), p.2.draw.2)) ([], s)

/-- An MPU region register (R266). -/
def mpuRegion (exp base : Nat) (wr : Bool) : Word72 :=
  BitVec.ofNat 72 (2 ^ 71 + exp * 2 ^ 62 + 2 ^ 61 + (if wr then 2 ^ 60 else 0) + base)

/-- NAPCTL as WickPrograms gives it (R265, R284). -/
def State.napCtl (s : State) : BitVec 17 :=
  BitVec.ofNat 17 ((if s.flag Key.wickProgramsNapEnable then 2 ^ 16 else 0) + s.entry Key.wickProgramsWakeLead * 2 ^ 12 + s.entry Key.wickProgramsNapMin)

/-- The key a job's WKR receives when its attempt starts, and its ALG: a private KEY_A of a direct job or a restore, the object key of a write taken up again, AS for ATTEST (R112, R257, R264, R290, R476). A key of more than 512 bits does not fit: R205 says nothing of one, and the model loads none (log 55). -/
def State.wkrKey (s : State) (j : Job) : Bytes × Nat :=
  let op := j.entry.opcode
  let found := if op = 0x0701 then (j.obj.key, 0x60)
    else if op = 0x0702 then (((s.objectKeys j).getD 0 .bad).secret, field ((s.session j.entry.session).recipient 0) 0 1)
    else if op = 0x0611 then (s.roots.attestSecret.getD [], 0)
    else if usesKeyA op then ((s.keyA j).secret, j.entry.alg) else ([], 0)
  if found.1.length ≤ 64 then found else ([], 0)

/-- The vault loads a key into a wick's WKR (R112, R257). -/
def Wick.loadWkr (x : Wick) (key : Bytes) (alg : Nat) : Wick :=
  { x with wkr := BitVec.ofNat 512 (leNat key), wkrAlg := if key.isEmpty then 0 else BitVec.ofNat 8 alg, keyed := !key.isEmpty }

/-- Bytes in the low 64 bits of data-memory words. -/
def bytesWords (b : Bytes) : List Word72 := (List.range (ceilDiv b.length 8)).map fun i => BitVec.ofNat 72 (leNat (cut b (8 * i) 8))

/-- A wick keeps an expansion (R128, R280): the secret part in two shares in secret granules, the public part in plain ones. Which granules is the model's choice: the shares end at the last granule, and the public part at the first granule below them (log 54). -/
def Wick.keepKey (x : Wick) (r : Residency) (secret mask pub : Bytes) : Wick :=
  let hidden := bytesWords (xorBytes secret mask) ++ bytesWords mask
  let open_ := bytesWords pub
  let g := ceilDiv hidden.length 128
  let h := ceilDiv open_.length 128
  let base := 16384 - 128 * g
  let marks := (span (128 - g) g).foldl (fun (m : BitVec 128) k => m ||| BitVec.ofNat 128 (2 ^ k)) 0
  { x with dmem := pokeWords x.dmem (((span base hidden.length).zip hidden) ++ ((span (base - 128 * h) open_.length).zip open_)), gmask := x.gmask ||| marks, resident := some r }

/-- The load engine gives a wick the program of its job where it is not resident (R287); without a library the wick runs what it holds. -/
def State.loadRoutine (s : State) (j : Job) (w : Nat) : State :=
  match s.routineImage j.entry with
  | none => s
  | some img => if s.holdsProgram j.entry w then s else (s.setWick w ((s.wick w).loadImage img)).bump (Key.wickStatusProgramLoads w)

/-- Since a wick's last attempt its clock has run for a number of cycles the spec does not give: a free value. The shroud generator fills its FIFO and the FV idle counter counts meanwhile (R316, R328, log 22). -/
def State.passIdle (s : State) (w : Nat) : State :=
  let x := s.wick w
  let y := x.passTo (x.cycles + s.draw.1)
  (s.draw.2.setWick w y).countPowerDown x.island y.island

/-- A wick starts an attempt (R128, R129, R259, R260, R265, R287, R298, R318, R323, R324). -/
def State.startWick (s : State) (j : Job) (w place : Nat) (key : Bytes × Nat) (taper : Option Nat) : State :=
  let s := (s.loadRoutine j w).passIdle w
  let x := s.wick w
  let x := if x.lastSlice = some j.slice then x else x.scrub.flushShroud
  let x := if (match x.resident with | some r => s.keepsKey j r | none => false) then x else x.scrub
  let (mpu, s) := s.drawRegions
  let entry := match x.program with | some p => p.entry | none => 0
  let mask := match x.program with | some p => p.secretMask | none => 0
  let x := { x.loadWkr key.1 key.2 with g := [], pc := BitVec.ofNat 14 entry, napCtl := s.napCtl, mpu := mpu, mpuEpoch := x.mpuEpoch + 1, gmask := mask ||| x.gmask, sponge := Sponge.cleared, dma := [], writeBuffer := [], gangIn := [], gangOut := none, sregs := [], stags := 0, fregs := [], shroud := { x.shroud with consumed := 0, due := [], got := 0 }, svBeats := 0, svmBeats := 0, fvIdle := s.entry Key.wickVectorsFvIdleTimeout, cycles := 0, gReady := [], sReady := [], fReady := [], svFree := 0, spongeFree := 0, hint := 0, hints := [], napping := false, stall := .none, doneWith := none, report := none, job := some j.id, gang := isGang j.entry && place < 16, order2 := j.entry.order2, taper := taper, lastSlice := some j.slice }
  (s.setWick w x).bump (Key.wickStatusAttempts w)

/-- An owner program starts in the state of R290: its image, its input and output extents, ARG and its regions; 4,096 cycles to zero the data memory. -/
def State.startOwner (s : State) (j : Job) (w : Nat) : State :=
  let img := (s.program (j.slice * 16 + bitsOf j.entry.w5.toNat 3 0)).image
  let p := imageProgram img
  let inBase := s.extentBase (.owner j.id false)
  let outBase := s.extentBase (.owner j.id true)
  let x := s.wick w
  let g := pokeWords [] [(1, BitVec.ofNat 72 inBase), (2, BitVec.ofNat 72 j.entry.w2.toNat), (3, BitVec.ofNat 72 outBase), (4, BitVec.ofNat 72 j.entry.w4.toNat), (5, BitVec.ofNat 72 (bitsOf j.entry.w5.toNat 63 32))]
  let mpu := pokeWords [] [(0, mpuRegion (ownerExp j.entry.w2.toNat) inBase false), (1, mpuRegion (ownerExp j.entry.w4.toNat) outBase true)]
  let s := (s.clearLines inBase (2 ^ ownerExp j.entry.w2.toNat)).clearLines outBase (2 ^ ownerExp j.entry.w4.toNat)
  let s := s.writeReservoir inBase (cut j.data.input 0 j.entry.w2.toNat)
  let x := { x with g := g, pc := BitVec.ofNat 14 p.entry, mpu := mpu, gmask := p.secretMask, pmem := imageCode img, dmem := imageData img, program := some p, cycles := 4096, resident := none }
  (s.setWick w x).bump (Key.wickStatusProgramLoads w)

/-- The slot length L of a macro-operation (R207). -/
def slotLength (a bits : Nat) : Nat :=
  if a = 0x50 then (if bits ≤ 2048 then 32 else if bits ≤ 4096 then 64 else 128)
  else if a = 0x53 then 16
  else if [0x52, 0x55, 0x57, 0x59, 0x81].contains a then 8
  else 4

/-- The job parameter bits JP0 to JP3: PSS, PREHASHED, HEDGED, hybrid (R198, R219). -/
def taperJobBits (j : Job) (a : Nat) : BitVec 4 :=
  let sign := j.entry.opcode = 0x0502 || j.entry.opcode = 0x0503
  BitVec.ofNat 4 ((if sign && bitOf j.entry.w5.toNat 0 then 1 else 0) + (if sign && bitOf j.entry.w5.toNat 1 then 2 else 0) + (if j.entry.hedged then 4 else 0) + (if isHybrid a then 8 else 0))

/-- The scalar multiplication of a curve (R207). -/
def mulOp (a : Nat) : MacroOp := if a = 0x54 || a = 0x55 then .edMul else if a = 0x56 || a = 0x57 then .xMul else .ecMul

/-- The first-use check of an RSA private key is due (R202, R219). -/
def State.rsaCheckDue (s : State) (j : Job) : Bool :=
  j.entry.alg = 0x50 && usesKeyA j.entry.opcode && s.firstUse j && (match s.keyA j with | .priv _ => true | _ => false)

/-- The macro-operations of an attempt, in order (R202, R207): a hybrid encapsulation multiplies twice, for the ephemeral share and for the secret (R114, R146). -/
def State.macroRuns (s : State) (j : Job) : List MacroRun :=
  let op := j.entry.opcode
  let a := j.entry.alg
  let bits := if a = 0x50 then field (s.keyA j).bytes 0 2 else 0
  let one := fun (m : MacroOp) => ({ op := m, alg := a, slotLength := slotLength a bits } : MacroRun)
  let hybrid := fun (h n : Nat) => List.replicate n ({ op := mulOp (hybridCl h), alg := hybridCl h, slotLength := slotLength h 0 } : MacroRun)
  let x := s.session j.entry.session
  let hybrids := fun (k n : Nat) => (List.range k).flatMap fun i => let h := field (x.recipient i) 0 1; if isHybrid h then hybrid h n else []
  if op = 0x0701 then hybrids x.recipients 2
  else if op = 0x0702 then hybrids 1 1
  else if isHybrid a then hybrid a (if op = 0x0102 then 2 else 1)
  else if op = 0x0502 || op = 0x0503 then
    (if s.rsaCheckDue j then [one .rsaKeyCheck] else []) ++
    [one (if a = 0x50 then (if op = 0x0502 then .rsaCrtExp else .rsaPubExp) else if a = 0x54 || a = 0x55 then (if op = 0x0502 then .edSign else .edVerify) else if op = 0x0502 then .ecSign else .ecVerify)]
  else [one (mulOp a)]

/-- The modulus of a macro-operation: n of an RSA key, else the prime of the curve's field. The spec calls it n; for a curve the field's prime is the model's choice (log 20). -/
def State.macroModulus (s : State) (j : Job) (a : Nat) : Nat :=
  if a = 0x50 then (match s.keyA j with | .priv b => rsaPart b 0 * rsaPart b 1 | k => beNat (k.bytes.drop 8))
  else if a = 0x54 || a = 0x55 then (edwardsOf a).p
  else if a = 0x56 || a = 0x57 then (ladderOf a).p
  else (curveOf a).p

/-- The private key as the vault sends it over the key path, 8 bytes a word (R205). The order of its words is the model's choice (log 20). -/
def State.vaultWords (s : State) (j : Job) : List Word72 :=
  match if j.entry.opcode / 256 = 5 && usesKeyA j.entry.opcode then s.keyA j else .bad with
  | .priv b => bytesWords b
  | _ => []

/-- A job whose taper waits for inputs that a wick prepares (R205). -/
def needsPreparing (op : Nat) : Bool := op = 0x0502 || op = 0x0503

/-- A taper takes a macro-operation (R193, R207). -/
def Taper.takeRun (x : Taper) (m : MacroRun) (modulus : Nat) : Taper :=
  { x with slotLength := m.slotLength, modulus := modulus, entry := Config.macroEntry m.op, address := Config.macroEntry m.op, run2 := false }

/-- A taper takes a job (R193, R204, R205, R207, R223, R224). -/
def State.startTaper (s : State) (j : Job) (t : Nat) : State :=
  let runs := s.macroRuns j
  let a := (runs.map (·.alg)).getD 0 j.entry.alg
  let x := { Taper.wiped with cleanJobs := (s.taper t).cleanJobs, strikeRule := j.taperRules.1, job := some j.id, firstUse := s.rsaCheckDue j, jobBits := taperJobBits j (if isObject j.entry.opcode then 0x80 else j.entry.alg), keyPath := s.vaultWords j, prepared := !needsPreparing j.entry.opcode, runs := runs.drop 1 }
  let x := match runs with | m :: _ => x.takeRun m (s.macroModulus j a) | [] => x
  (s.setTaper t x).bump (Key.taperStatusJobs t)

/-- The hash key that a load derives with the key: GHASH's for GCM, POLYVAL's for GCM-SIV, which its nonce enters (R226). -/
def hashKeyOf (a : Nat) (key nonce : Bytes) : Bytes :=
  if a = 0x60 then aes256 key (List.replicate 16 0#8) else if a = 0x61 then (sivKeys key nonce).1 else []

/-- The vault loads a key into a sealer's register, which held nothing or another's (R226). -/
def State.loadSealer (s : State) (n id : Nat) (key hash : Bytes) : State :=
  (s.setSealer n { (s.sealer n).cleared with key := some key, hashKey := hash, job := some id }).bump (Key.sealerStatusKeyLoads n)

/-- The vault loads an object's key, with its OBJECT_ID, salt, EPOCH and next segment (R226, R227). -/
def State.loadSealerObject (s : State) (n : Nat) (j : Job) (key : Bytes) (salt : BitVec 64) (epoch next : Nat) : State :=
  let s := s.loadSealer n j.id key (hashKeyOf 0x60 key [])
  s.setSealer n { s.sealer n with object := some j.entry.w5, salt := salt, epoch := epoch, nextSegment := next }

/-- A sealer takes a job; a direct job's key is loaded at once (R226, R228). -/
def State.startSealer (s : State) (j : Job) (n : Nat) : State :=
  if j.entry.opcode / 256 = 4 then
    match s.keyA j with
    | .priv b => s.loadSealer n j.id b (hashKeyOf j.entry.alg b (cut j.data.input 0 12))
    | _ => s
  else s

/-- The units of an attempt start (R259). -/
def State.startUnits (s : State) (j : Job) (us : List UnitId) : State :=
  let key := s.wkrKey j
  let ws := unitsOfClass us 1
  let taper := (unitsOfClass us 4).head?
  let s := (ws.zipIdx).foldl (fun s p => s.startWick j p.1 p.2 (if p.2 = 0 || s.expandsFully j p.2 then key else ([], 0)) (if p.2 = 0 then taper else none)) s
  let s := if j.entry.opcode = 0x0F02 then ws.foldl (fun s w => s.startOwner j w) s else s
  let s := (unitsOfClass us 4).foldl (fun s t => s.startTaper j t) s
  (unitsOfClass us 6).foldl (fun s n => s.startSealer j n) s

/-- A context goes on from its checkpoint on another digester (R242). -/
def State.moveContext (s : State) (d k : Nat) : State :=
  if k / 64 = d then s else
  match s.freeLocal d with
  | none => s
  | some n =>
    let c := s.context k
    (s.setContext n { c with gen := (s.context n).gen }).setContext k { DigestContext.closed with gen := c.gen }

/-- Digest contexts of an attempt: one software context for DIGEST, CHAIN and MANIFEST for an object; a replay goes on with those its job holds, on the digester it is given (R239, R242, R243). -/
def State.startContexts (s : State) (j : Job) (us : List UnitId) : State :=
  match (unitsOfClass us 5).head? with
  | none => s
  | some d =>
    let held := s.contextsOf j.id
    if !held.isEmpty then held.foldl (State.moveContext · d ·) s else
    let algs := if j.entry.opcode = 0x0301 then [j.entry.alg] else if isObject j.entry.opcode then [0x73, (s.session j.entry.session).manifestAlg] else []
    algs.foldl (fun s a => match s.takeContext j d .none a with | some p => p.2 | none => s) s

end Sys2Proof.Machine
end

