-- ==== Sys2Proof/Machine/Costs.lean ====
section
/-! DEFINITION. The cycle counts the spec states: lattice and hybrid jobs (R143 to R146), SLH-DSA (R170, R171), lantern builds (R158), LMS and XMSS (R173), Classic McEliece and HQC (R176, R181, R186, R191), classical jobs on tapers and their wick part (R222, R675), and shroud words (R674). A job's record is charged with them; no result depends on a charge. The start of an attempt is here, since it charges what a cold key adds. -/

namespace Sys2Proof.Machine

/-- ML-KEM and ML-DSA operations at order 1 (R143): key generation, encapsulation or verification, decapsulation. -/
def latticeKeygen (a : Nat) : Nat := sized [(0x10, 36000), (0x11, 55340), (0x12, 79700), (0x20, 151200), (0x21, 244667), (0x22, 326000)] a
def latticePublic (a : Nat) : Nat := sized [(0x10, 6800), (0x11, 10240), (0x12, 14600), (0x20, 27000), (0x21, 40960), (0x22, 64000)] a
def latticeDecaps (a : Nat) : Nat := sized [(0x10, 16900), (0x11, 25600), (0x12, 36400)] a

/-- Setup and iteration cost of ML-DSA signing at order 1 (R144). -/
def signSetup (a : Nat) : Nat := sized [(0x20, 15000), (0x21, 22607), (0x22, 34500)] a
def signIteration (a : Nat) : Nat := sized [(0x20, 14400), (0x21, 21000), (0x22, 30000)] a

/-- The lattice half of an algorithm: itself, or a hybrid's (R114). -/
def latticeHalf (a : Nat) : Nat := if isHybrid a then hybridKem a else a

/-- A figure that doubles at order 2. -/
def atOrder (order2 : Bool) (n : Nat) : Nat := if order2 then 2 * n else n

/-- Units of 136 bytes, or part of them, by which M' exceeds 71 bytes (R145, R171). -/
def furtherBlocks (m : Nat) : Nat := ceilDiv (m - 71) 136

/-- Cold expansion of a private key (R145, R154, R176, R191). -/
def coldPrivate (a : Nat) (order2 : Bool) : Nat :=
  let half := sized [(0x10, 5600), (0x11, 9000), (0x12, 13800), (0x20, 19000), (0x21, 30000), (0x22, 45000)] (latticeHalf a)
  if isHybrid a then atOrder order2 (half + 400)
  else if isMlKem a || isMlDsa a then atOrder order2 half
  else if isSlh a then 400
  else if isMce a then (if a = 0x40 then 48000 else 96000)
  else sized [(0x48, 2400), (0x49, 3900), (0x4A, 5600)] a

/-- Cold expansion of a public key (R145, R191). -/
def coldPublic (a : Nat) : Nat :=
  if isMlDsa a then sized [(0x20, 4750), (0x21, 7500), (0x22, 11250)] a
  else if isMlKem a || isHybrid a then sized [(0x10, 2800), (0x11, 4500), (0x12, 6900)] (latticeHalf a)
  else sized [(0x48, 1200), (0x49, 1950), (0x4A, 2800)] a

/-- SLH-DSA operations (R170): signing without and with the cache, verification, key generation. -/
def slhSign (a : Nat) (served : Bool) : Nat :=
  if served then
    sized [(0x31, 8110000), (0x33, 585143), (0x35, 10480000), (0x37, 930000), (0x39, 11377778), (0x3B, 1880000), (0x30, 10137500), (0x32, 731429), (0x34, 13100000), (0x36, 1162500), (0x38, 14222223), (0x3A, 2350000)] a
  else
    sized [(0x31, 10811900), (0x33, 819200), (0x35, 14000000), (0x37, 1310000), (0x39, 18351300), (0x3B, 2700000), (0x30, 13514875), (0x32, 1024000), (0x34, 17500000), (0x36, 1637500), (0x38, 22939125), (0x3A, 3375000)] a
def slhVerify (a : Nat) : Nat :=
  sized [(0x31, 20000), (0x33, 39760), (0x35, 28500), (0x37, 61000), (0x39, 31500), (0x3B, 62000), (0x30, 25000), (0x32, 49700), (0x34, 35625), (0x36, 76250), (0x38, 39375), (0x3A, 77500)] a
def slhKeygen (a : Nat) : Nat :=
  sized [(0x31, 5422000), (0x33, 96424), (0x35, 7062000), (0x37, 154800), (0x39, 6988000), (0x3B, 413000), (0x30, 6777500), (0x32, 120530), (0x34, 8827500), (0x36, 193500), (0x38, 8735000), (0x3A, 516250)] a

/-- A SHA2 set of SLH-DSA has an even ID (R78). -/
def slhSha2 (a : Nat) : Bool := a % 2 = 0

/-- What a longer message adds to signing and to verification (R145, R171). -/
def signExtra (a m : Nat) : Nat := furtherBlocks m * if isMlDsa a then 6 else if slhSha2 a then 27 else 21
def verifyExtra (a m : Nat) : Nat := furtherBlocks m * if isSlh a then (if slhSha2 a then 8 else 6) else 6

/-- Build cycles of a lantern entry (R158). -/
def lanternBuildCycles (a : Nat) : Nat :=
  let shake := sized [(0x30, 1390000000), (0x31, 1390000000), (0x32, 1820000000), (0x33, 1820000000), (0x34, 1810000000), (0x35, 1810000000), (0x36, 2940000000), (0x37, 2940000000), (0x38, 230000000000), (0x39, 230000000000), (0x3A, 14700000000), (0x3B, 14700000000)] a
  if slhSha2 a then shake * 5 / 4 else shake

/-- Classic McEliece and HQC: encapsulation and decapsulation (R186, R191); HQC key generation (R191); the mean of a gang key generation in wick cycles at 1.6 GHz (R181). -/
def codeEncaps (a : Nat) : Nat := sized [(0x40, 33000), (0x41, 62000), (0x42, 121000), (0x43, 121500), (0x44, 155000), (0x48, 232000), (0x49, 468000), (0x4A, 770000)] a
def codeDecaps (a : Nat) : Nat := sized [(0x40, 210000), (0x41, 420000), (0x42, 560000), (0x43, 540000), (0x44, 580000), (0x48, 392000), (0x49, 786000), (0x4A, 1290000)] a
def hqcKeygen (a : Nat) : Nat := sized [(0x48, 148000), (0x49, 296000), (0x4A, 478000)] a
def gangMean (a : Nat) (f : Bool) : Nat :=
  1600 * (if f then sized [(0x40, 1300), (0x41, 4500), (0x42, 11700), (0x43, 10500), (0x44, 14300)] a else sized [(0x40, 3100), (0x41, 10800), (0x42, 27800), (0x43, 25000), (0x44, 34000)] a)

/-- Representative verification costs of LMS and XMSS (R173); the spec gives no other, so one figure stands for each ID. -/
def statefulVerify (a : Nat) : Nat := if a = 0x3C then 9300 else 61000

/-- An encapsulation and a decapsulation of any KEM on a wick (R143, R146, R186, R191). -/
def encapsCost (a : Nat) : Nat := if isMce a || isHqc a then codeEncaps a else latticePublic (latticeHalf a) + if isHybrid a then 60 else 0
def decapsCost (a : Nat) (order2 : Bool) : Nat := if isMce a || isHqc a then codeDecaps a else atOrder order2 (latticeDecaps (latticeHalf a)) + if isHybrid a then 60 else 0

/-- A signature of ML-DSA with n iterations, or of SLH-DSA, over a formatted message of m bytes, and its verification on another wick (R86, R144, R145, R170, R171). -/
def signedCost (a n m : Nat) (order2 served : Bool) : Nat :=
  (if isSlh a then slhSign a served else atOrder order2 (signSetup a + n * signIteration a)) + signExtra a m
def checkedCost (a m : Nat) : Nat := (if isSlh a then slhVerify a else latticePublic a) + verifyExtra a m

/-! ### Tapers -/

/-- A figure for an RSA modulus from those of 2,048, 3,072, 4,096 and 8,192 bits, interpolated with power k (R675). -/
def rsaFigure (k : Nat) (f : Nat × Nat × Nat × Nat) (bits : Nat) : Nat :=
  let w := bits / 64
  let between := fun (w1 w2 f1 f2 : Nat) => f1 + ceilDiv ((f2 - f1) * (w ^ k - w1 ^ k)) (w2 ^ k - w1 ^ k)
  if bits ≤ 2048 then f.1
  else if bits ≤ 3072 then between 32 48 f.1 f.2.1
  else if bits ≤ 4096 then between 48 64 f.2.1 f.2.2.1
  else between 64 128 f.2.2.1 f.2.2.2

def rsaSignRun (bits : Nat) : Nat := rsaFigure 3 (240000, 750000, 1680000, 12600000) bits
def rsaVerifyRun (bits : Nat) : Nat := rsaFigure 2 (8500, 18000, 32000, 126000) bits
def rsaCheckCycles (bits : Nat) : Nat := rsaFigure 2 (60000, 120000, 200000, 760000) bits

/-- Taper cycles of a job, both runs (R222): scalar multiplications and signing, and verifications. -/
def taperMul (a : Nat) : Nat := 2 * sized [(0x51, 26000), (0x52, 50000), (0x53, 112000), (0x54, 13000), (0x55, 38000), (0x56, 15000), (0x57, 46000), (0x58, 26000), (0x59, 50000)] a
def taperSign (a bits : Nat) : Nat := if a = 0x50 then 2 * rsaSignRun bits else taperMul a
def taperVerify (a bits : Nat) : Nat := 2 * (if a = 0x50 then rsaVerifyRun bits else sized [(0x51, 34000), (0x52, 66000), (0x53, 146000), (0x54, 26000), (0x55, 76000)] a)
/-- A taper's wipe (R213). -/
def wipeCycles : Nat := 67

/-- Wick cycles of a classical signature: preparation and verification (R675); each further hash block adds to both. -/
def classicalPrep (a : Nat) : Nat := sized [(0x50, 3000), (0x51, 20000), (0x52, 30000), (0x53, 56000), (0x54, 12000), (0x55, 24000)] a
def classicalCheck (a bits : Nat) : Nat := if a = 0x50 then rsaCheckCycles bits else sized [(0x51, 182000), (0x52, 384000), (0x53, 870000), (0x54, 156000), (0x55, 458000)] a
def hashBlocks (a m : Nat) : Nat := ceilDiv (m - 64) (if a = 0x55 then 136 else 128)

/-! ### Shroud words -/

/-- Words of a lattice routine at one masking order (R674). -/
def shroudKeygen (a : Nat) (order2 : Bool) : Nat :=
  if order2 then sized [(0x10, 4000), (0x11, 6000), (0x12, 8000), (0x20, 5000), (0x21, 7500), (0x22, 10500)] (latticeHalf a)
  else sized [(0x10, 1600), (0x11, 2400), (0x12, 3200), (0x20, 2000), (0x21, 3000), (0x22, 4200)] (latticeHalf a)
def shroudDecaps (a : Nat) (order2 : Bool) : Nat :=
  if order2 then sized [(0x10, 5600), (0x11, 8192), (0x12, 11200)] (latticeHalf a) else sized [(0x10, 2240), (0x11, 3277), (0x12, 4480)] (latticeHalf a)
def shroudSign (a n : Nat) (order2 : Bool) : Nat :=
  if order2 then sized [(0x20, 3500), (0x21, 5000), (0x22, 7000)] a + n * sized [(0x20, 6500), (0x21, 9750), (0x22, 13000)] a
  else sized [(0x20, 1400), (0x21, 2000), (0x22, 2800)] a + n * sized [(0x20, 2600), (0x21, 3900), (0x22, 5200)] a

/-- Words of one masked hash of SLH-DSA over m bytes after the public seed and an address (R674): one permutation for each block of 136 bytes, or one compression for each block after that of the seed, whose state is kept. -/
def SlhSet.words (p : SlhSet) (wide : Bool) (m : Nat) : Nat :=
  if p.shake then 12 * ((p.n + 32 + m) / 136 + 1)
  else if wide && 16 < p.n then 20 * ceilDiv (22 + m + 17) 128
  else 16 * ceilDiv (22 + m + 9) 64

/-- Words of a tree that runs masked (R155): of each leaf the secrets, every chain step and the hash of the chain ends, and of the tree every join. -/
def SlhSet.treeWords (p : SlhSet) : Nat :=
  2 ^ p.height * (16 * p.len * p.words false p.n + p.words true (p.len * p.n)) + (2 ^ p.height - 1) * p.words true (2 * p.n)

/-- Words of an SLH-DSA signature over m bytes (R155, R158, R674): PRF_msg, the secrets and leaves of FORS, the secrets of the lower layers, and without the cache the lantern signature layers. The figures follow from the hashes R155 names, each made once; the spec gives none (log 59). -/
def slhShroudSign (a m : Nat) (served : Bool) : Nat :=
  let p := slhSet a
  let lower := p.d - lanternLayers a + 1
  let first := if p.shake then 12 * ((2 * p.n + m) / 136 + 1) else if p.n = 16 then 16 * (3 + ceilDiv (p.n + m + 9) 64) else 20 * (3 + ceilDiv (p.n + m + 17) 128)
  first + p.k * 2 ^ p.a * (2 * p.words false p.n) + lower * (2 ^ p.height * p.len * p.words false p.n) +
    if served then 0 else (lanternLayers a - 1) * p.treeWords

/-- Words of a key generation or of the first expansion of a private key on one wick: for SLH-DSA those of the top tree, for a lattice or hybrid key R674's. -/
def keygenWords (a : Nat) (order2 : Bool) : Nat := if isSlh a then (slhSet a).treeWords else shroudKeygen a order2

/-- Words of a signature: with n iterations for ML-DSA, over a formatted message of m bytes for SLH-DSA. -/
def signWords (a n m : Nat) (order2 served : Bool) : Nat := if isSlh a then slhShroudSign a m served else shroudSign a n order2

/-- Words of a KEK of R101, three masked permutations (R253, R279), and of an attestation, the same with the four lanes of AS (R476). -/
def kekWords : Nat := 36
def attestWords : Nat := 40

/-! ### Charging -/

/-- A wick's generator delivers n words to a routine of its attempt, with a new key after every 65,536 (R317, R674). A wick whose program has run them itself has drawn them already. -/
def State.spendWords (s : State) (w n : Nat) : State :=
  let x := s.wick w
  if n = 0 || x.doneWith.isSome then s else
  let h := x.shroud
  let total := h.produced + n
  let s := s.setWick w { x with shroud := { h with produced := total % 65536, consumed := h.consumed + n } }
  (List.range (total / 65536)).foldl (fun s _ => (s.generate (sconceOf w) 32).2.bump Key.wickVectorsShroudReseeds) s

/-- Charge wick cycles, taper cycles and shroud words to a job; its first wick draws the words. -/
def State.charge (s : State) (id cycles taper shroud : Nat) : State :=
  let s := match s.findJob id with | some j => s.spendWords j.wick shroud | none => s
  s.modJob id fun j => { j with cycles := j.cycles + cycles, taperCycles := j.taperCycles + taper, shroud := j.shroud + shroud }

/-- Charge shroud words to a job that its second wick draws. -/
def State.chargeSecond (s : State) (id shroud : Nat) : State :=
  let s := match s.findJob id with
    | some j => (match (unitsOfClass j.units 1)[1]? with | some w => s.spendWords w shroud | none => s)
    | none => s
  s.modJob id fun j => { j with shroud := j.shroud + shroud }

/-- The keys an attempt expands, with their algorithms: KEY_A, or those of an object job. -/
def State.coldKeys (s : State) (j : Job) : List (Nat × KeyFound) :=
  let x := s.session j.entry.session
  let op := j.entry.opcode
  let signers := (if x.signA = 0 then [] else [x.signA]) ++ (if x.signB = 0 then [] else [x.signB])
  let kems := (List.range x.recipients).map fun n => field (x.recipient n) 0 1
  if op = 0x0701 then (signers ++ kems).zip (s.objectKeys j)
  else if op = 0x0702 then (kems.take 1 ++ signers).zip (s.objectKeys j)
  else if usesKeyA op then [(j.entry.alg, s.keyA j)] else []

/-- What the keys that are not resident add to the wicks of an attempt (R130, R139, R145, R154, R674): the wick, its cycles and its shroud words. The first wick pays for the part it expands; so does a second one, for the whole key at its first use in a session and else for the public part. The first use of an SLH-DSA key computes PK.root on both. -/
def State.coldParts (s : State) (j : Job) (us : List UnitId) : List (Nat × Nat × Nat) :=
  (s.coldKeys j).zipIdx.flatMap fun k =>
    let a := k.1.1
    (((unitsOfClass us 1).take 2).zipIdx).map fun p =>
      let isPrivate := match k.1.2 with | .priv _ => true | _ => false
      let full := isPrivate && s.expandsFully j p.2
      if (match k.1.2 with | .priv _ | .pub _ => false | _ => true) || (k.2 = 0 && s.holdsKey j full p.1) then (p.1, 0, 0)
      else if !full then (p.1, coldPublic a, 0)
      else if isSlh a then (if s.firstUse j then (p.1, if p.2 = 0 then slhKeygen a else 0, keygenWords a false) else (p.1, coldPrivate a false, 0))
      else (p.1, coldPrivate a j.entry.order2, keygenWords a j.entry.order2)

/-- Wick cycles of the scrub of a wick that last served another slice: 32 for each secret granule (R566). -/
def State.scrubCost (s : State) (j : Job) (w : Nat) : Nat :=
  let x := s.wick w
  if x.lastSlice = some j.slice then 0 else 32 * ((List.range 128).filter fun g => x.gmask.getLsbD g).length

/-- The cycles and words an attempt starts with: the scrubs of its wicks (R566) and its cold keys. -/
def State.coldCharge (s : State) (j : Job) (us : List UnitId) : Nat × Nat :=
  (s.coldParts j us).foldl (fun c p => (c.1 + p.2.1, c.2 + p.2.2)) (((unitsOfClass us 1).map (s.scrubCost j)).sum, 0)

/-- Each wick draws the words of the keys it expands. -/
def State.spendCold (s : State) (parts : List (Nat × Nat × Nat)) : State := parts.foldl (fun s p => s.spendWords p.1 p.2.2) s

/-! ### Start -/

/-- A check of R80 made when the attempt starts ends the job: an object write of which no record exists releases nothing (R92). -/
def State.endAtCheck (s : State) (j : Job) (st : Nat) : State :=
  if j.obj.headSent then s.failJob j.id st else s.stageResult j.id st 0 []

/-- The task a lantern build may start now (R163): one whose attempt ended in replay, else the next one, once the layers below its own are done; none while BUILD_WICKS tasks run. BUILD_WICKS counts the wicks that build, not those that check them (log 44). -/
def Job.nextTask (j : Job) : Option LanternTask :=
  match j.build with
  | none => none
  | some b =>
    let a := j.entry.alg
    if j.entry.w5.toNat ≤ (b.tasks.filter fun t => !t.units.isEmpty).length then none
    else match b.tasks.find? (fun t => t.units.isEmpty) with
      | some t => some t
      | none =>
        if b.started < lanternTrees a && b.tasks.all (fun t => (lanternTask a t.number).1 = (lanternTask a b.started).1) then
          some { number := b.started, retries := 0, failed := [], units := [] }
        else none

/-- A task starts on its wicks. -/
def State.beginTask (s : State) (id : Nat) (t : LanternTask) (us : List UnitId) : State :=
  let s := s.modJob id fun j => { j with build := j.build.map fun b => { b with started := max b.started (t.number + 1) } }
  s.setTasks id fun ts => ts.filter (fun x => x.number ≠ t.number) ++ [{ t with units := us }]

/-- A restore whose WRAPPED_KEY failed to unwrap is given a second wick that repeats the decapsulation (R142). -/
def State.addConfirming (s : State) (j : Job) (us : List UnitId) : State :=
  match us with
  | [u] =>
    let w := unitIndex u
    if unitClass u = 1 && s.wickIdle j w && s.pairFits j ((unitsOfClass j.units 1).getD 0 0) w && (unitsOfClass j.units 1).length = 1 then
      (s.startWick j w 1 (s.wkrKey j) none).modJob j.id fun j => { j with units := j.units ++ [u] }
    else s
  | _ => s

/-- The job may be given wicks now: it waits, or it runs and may start one more task or needs its confirmation. -/
def Job.mayStart (j : Job) : Bool := j.phase = .waiting || (j.running && (j.build.isSome || j.obj.confirming))

/-- The units given start the attempt, or one task of a build. -/
def State.beginAttempt (s : State) (j : Job) (us : List UnitId) : State :=
  let cold := s.coldCharge j us
  let s := ((s.startUnits j us).spendCold (s.coldParts j us)).startContexts j us
  let s := s.touchCache j.entry.session
  match j.nextTask with
  | some t => (s.beginTask j.id t us).modJob j.id fun j => { j with cycles := j.cycles + cold.1, shroud := j.shroud + cold.2 }
  | none => s.modJob j.id fun j => { j with phase := .running, units := us, served := [], cycles := cold.1, taperCycles := 0, shroud := cold.2 }

/-- No digester of an object's octet has the contexts it needs: its start waits, and ContextWaits counts (R239, R256). -/
def State.lacksContexts (s : State) (j : Job) : Bool :=
  isObject j.entry.opcode && !(s.digestersUp (some [s.streamOctet (s.jobStream j)])).any fun d => !j.failed.contains (uDigester d) && s.objectRoom j d

/-- An attempt starts (R72, R84, R163, R259, R365, R468): its session is in the cache, its keys and windows are judged, and its units take it. It waits, unchanged, for what is missing. -/
def State.startAttempt (s : State) (id : Nat) (us : List UnitId) : State :=
  match s.findJob id with
  | none => s
  | some j =>
    if !j.mayStart || !s.isLit || s.fatal.isSome || s.clearingAll || s.clearing.contains j.slice || j.waitsEntropy then s
    else if j.running && j.build.isNone then s.addConfirming j us
    else if j.entry.opcode ≠ 0x0601 && !s.cached j.entry.session then s.lookup id
    else
      let keys := s.jobKeys j
      if keys.contains .erasing || s.digestWaits j then s
      else if keys.contains .bad then s.endAtCheck j jsKeyInvalid
      else match s.checkWindows j with
        | some (st, _) => s.endAtCheck j st
        | none =>
          if s.lacksContexts j then s.bump Key.unitBindingContextWaits
          else
            let failed := match j.nextTask with | some t => t.failed | none => j.failed
            if (j.build.isSome && j.nextTask.isNone) || !s.unitsFit { j with failed := failed } us then s
            else s.beginAttempt j us

end Sys2Proof.Machine
end

