-- ==== Sys2Proof/Machine/KeyOps.lean ====
section
/-! DEFINITION. What the public-key commands share: the running attempt they act on, randomness (R136, R493), the check value of a key (R130, R154, R176, R202), and how results leave (R123, R200). -/

namespace Sys2Proof.Machine

/-! ### The running attempt -/

/-- The job when an attempt of it runs under an opcode. -/
def State.attemptOf (s : State) (id op : Nat) : Option Job :=
  match s.findJob id with
  | some j => if j.running && j.entry.opcode = op && s.fatal.isNone then some j else none
  | none => none

/-- Act on a running attempt; without one nothing happens. -/
def State.during (s : State) (id op : Nat) (f : Job → State) : State :=
  match s.attemptOf id op with
  | some j => f j
  | none => s

/-- The DRBG instance of an attempt's wick (R136, R486). -/
def Job.instOf (j : Job) : Nat := sconceOf j.wick

/-- Draw n bytes and go on with them, or wait (R96, R136, R493). Each value an attempt draws, by its place among them, is drawn once: an attempt that waits for a later one keeps it (R199). -/
def State.withDraw (s : State) (id place i n : Nat) (f : Bytes → State → State) : State :=
  match ((s.findJob id).map (·.kept)).getD [] |>.drop place with
  | b :: _ => f b s
  | [] =>
    match s.generate i n with
    | (some b, s) => f b (s.modJob id fun j => { j with kept := j.kept ++ [b] })
    | (none, s) => s.waitEntropy id

/-- Draw n bytes only where a condition holds, else go on with a given string, which takes the place. -/
def State.withDrawIf (s : State) (need : Bool) (given : Bytes) (id place i n : Nat) (f : Bytes → State → State) : State :=
  if need then s.withDraw id place i n f
  else f given (s.modJob id fun j => { j with kept := if j.kept.length ≤ place then j.kept ++ [given] else j.kept })

/-- The shroud generator of an attempt's wick is keyed, and one that waits for a new key has words left (R136, R316, R317). -/
def State.shroudReady (s : State) (j : Job) : Bool :=
  let h := (s.wick j.wick).shroud
  h.keyed && !(h.rekeying && h.fifo = 0)

/-- A masked step goes on only with shroud words (R136). -/
def State.withShroud (s : State) (j : Job) (masked : Bool) (f : State) : State :=
  if masked && !s.shroudReady j then s.waitEntropy j.id else f

/-- The taper of a job has run its macro-operations word by word, and drawn its blinding in them (R208, R217). -/
def State.ranMicrocode (s : State) (id : Nat) : Bool :=
  match s.findJob id with
  | some j => (unitsOfClass j.units 4).any fun t => (s.taper t).ended
  | none => false

/-- A taper's blinding comes from the hub instance, fresh for each of its two runs (R208). -/
def State.withBlind (s : State) (id place : Nat) (taper : Bool) (f : State → State) : State :=
  let taper := taper && !s.ranMicrocode id
  s.withDrawIf taper [] id place 16 8 fun _ s => s.withDrawIf taper [] id (place + 1) 16 8 fun _ s => f s

/-! ### Check values -/

/-- The value an expansion of a key gives, none where no expansion is checked: EC keys, LMS and XMSS, and McEliece public keys. -/
def checkValue (a : Nat) (k : KeyFound) : Option Bytes :=
  match k with
  | .priv b => if isClassical a && a ≠ 0x50 then none else some (keyCheck a true b)
  | .pub b => if isClassical a || isLms a || isMce a then none else some (keyCheck a false b)
  | _ => none

/-- PK.root of an SLH-DSA private key, which the session keeps with the check value (R154). -/
def rootOf (a : Nat) (k : KeyFound) : Bytes :=
  match k with
  | .priv b => if isSlh a then slhRoot a b else []
  | _ => []

/-- An expansion of a key of the session is compared with the value of its first use, which is stored, with PK.root (R130, R140, R154, R176, R202); none where they differ. -/
def State.expandRole (s : State) (n role a : Nat) (k : KeyFound) : Option State :=
  match checkValue a k with
  | none => some s
  | some v =>
    let x := s.session n
    match x.checks.find? (fun c => c.1 = role) with
    | none =>
      let root := rootOf a k
      some ((s.setSession n { x with checks := x.checks ++ [(role, v)], pkRoots := if root.isEmpty then x.pkRoots else x.pkRoots ++ [(role, root)] }).touchSession n)
    | some c => if c.2 = v then some s else none

/-- Expand several keys, each in its role. -/
def State.expandRoles (s : State) (n : Nat) (ks : List (Nat × Nat × KeyFound)) : Option State :=
  ks.foldlM (fun s k => s.expandRole n k.1 k.2.1 k.2.2) s

/-- PK.root as the session keeps it for a role (R154). -/
def State.rootFor (s : State) (n role a : Nat) (key : Bytes) : Bytes :=
  match (s.session n).pkRoots.find? (fun c => c.1 = role) with
  | some c => c.2
  | none => slhRoot a key

/-- One wick keeps the expansion of a key (R128); the masks of its shares are free values. -/
def State.keepOn (s : State) (j : Job) (a : Nat) (k : KeyFound) (w : Nat) (full : Bool) : State :=
  let pub := expandedPublic a (match k with | .priv b => anyPublic a b | .pub b => b | _ => [])
  let secret := match k with | .priv b => if full then expandedSecret a b else [] | _ => []
  let (mask, s) := s.drawBytes secret.length
  s.setWick w ((s.wick w).keepKey (s.jobResidency j (!secret.isEmpty)) secret mask pub)

/-- The wicks of the attempt keep what they expanded of the key, where they do not hold it yet (R128, R130, R139). `first` tells whether this is its first use in the session. -/
def State.keepKeys (s : State) (j : Job) (a : Nat) (k : KeyFound) (first : Bool) (ws : List Nat) : State :=
  if s.jobKeyRef j = 0 || isLms a || (isClassical a && a ≠ 0x50) then s else
  ((ws.take 2).zipIdx).foldl (fun s p =>
    let full := usesPrivate j.entry.opcode && (p.2 = 0 || first)
    if s.holdsKey j full p.1 then s else s.keepOn j a k p.1 full) s

/-- Act with KEY_A expanded. A failed check of the attempt, or a check value that differs, ends it in replay (R51, R130). -/
def State.withKey (s : State) (j : Job) (check : Bool) (f : KeyFound → State → State) : State :=
  let k := s.keyA j
  match k with
  | .bad => s.failJob j.id jsKeyInvalid
  | .erasing => s
  | _ =>
    if !check then s.checkFailed j.id else
    let first := s.firstUse j
    match s.expandRole j.entry.session 0 j.entry.alg k with
    | none => s.checkFailed j.id
    | some s => f k (s.keepKeys j j.entry.alg k first (unitsOfClass j.units 1))

/-- The public key KEY_A gives (R113). -/
def KeyFound.publicKey (a : Nat) (k : KeyFound) : Bytes :=
  match k with
  | .priv b => anyPublic a b
  | .pub b => b
  | _ => []

/-- Each encapsulation to a Classic McEliece key reads it whole, which counts in the slice's traffic; a key in host memory is staged first (R164, R186). -/
def State.readMceKey (s : State) (slc a ref reads : Nat) : State :=
  let s := (s.bumpBy Key.mcElieceKeyCacheKeyReads reads).bumpBy (Key.reservoirSliceBytesRead slc) (reads * publicSize a)
  if refKind ref = 3 then s.bumpBy (Key.reservoirSliceBytesWritten slc) (publicSize a) else s

/-! ### Results -/

/-- A job is done OK with an output; w6 is its length. -/
def State.finish (s : State) (id : Nat) (out : Bytes) : State := s.stageResult id jsOk out.length out

/-- A generated key leaves as public key and blob, or enters its slot with the public key as output (R120, R123, R463, R471). -/
def State.finishKeygen (s : State) (j : Job) (key : Bytes) : State :=
  let a := j.entry.alg
  let k := j.defaultKey a 1 key
  let w5 := j.entry.w5.toNat
  if ctlToVault w5 then
    (s.modJob j.id fun j => { j with keyOut := some (ctlSlot w5, k) }).finish j.id (anyPublic a key)
  else match s.makeBlob j.slice j.keyRules.bindBlobs k with
    | some b => s.finish j.id (anyPublic a key ++ b)
    | none => s.failJob j.id jsKeyInvalid

/-- The formatted message of ML-DSA and SLH-DSA (R126, R151): 00h, then CTX_LEN, ctx and M as the input gives them. -/
def formatted (input : Bytes) : Bytes := 0#8 :: input

/-- The taper cycles of a hybrid job's scalar multiplications and its wipe (R146, R213). -/
def hybridTaper (a n : Nat) : Nat := if isHybrid a then n * taperMul (hybridCl a) + wipeCycles else 0

end Sys2Proof.Machine
end

