-- ==== Sys2Proof/Machine/Classical.lean ====
section
/-! DEFINITION. The classical commands on tapers (R196 to R209). -/

namespace Sys2Proof.Machine

/-- A curve whose private key is a scalar in 1 to n − 1 (R200). -/
def isScalarKey (a : Nat) : Bool := (0x51 ≤ a && a ≤ 0x53) || a = 0x58 || a = 0x59

/-- The key made of drawn bytes (R200): a scalar d := (c mod (n − 1)) + 1, or the bytes themselves. -/
def drawnKey (a : Nat) (c : Bytes) : Bytes :=
  if isScalarKey a then beBytes (privateSize a) (beNat c % ((curveOf a).n - 1) + 1) else c

/-- How many bytes a key is drawn from (R200). -/
def drawnSize (a : Nat) : Nat := if isScalarKey a then privateSize a + 8 else privateSize a

/-- CL_KEYGEN (R120, R196, R200). -/
def State.clKeygen (s : State) (id : Nat) (check : Bool) : State :=
  s.during id 0x0501 fun j =>
    let a := j.entry.alg
    let seeded := ctlSeedIn j.entry.w5.toNat
    let given := cut j.data.input 0 j.entry.w2.toNat
    s.withDrawIf (!seeded) given id 0 j.instOf (drawnSize a) fun b s =>
    s.withBlind id 1 true fun s =>
    if !check then s.checkFailed id else
    (s.charge id 0 (taperMul a + wipeCycles) 0).finishKeygen j (if seeded then b else drawnKey a b)

def execClKeygen (job : Nat) (check : Bool) (s : State) : Res := .next (s.clKeygen job check)

/-- ctx and M of a classical input CTX_LEN ‖ ctx ‖ M (R125, R199). -/
def classicalParts (input : Bytes) : Bytes × Bytes := let n := field input 0 1; (cut input 1 n, input.drop (1 + n))

/-- The modulus bits of an RSA key, 0 for another ALG (R201). -/
def modBits (a : Nat) (k : KeyFound) : Nat := if a = 0x50 then field k.bytes 0 2 else 0

/-- The RSA check of a first use costs one verification run, doubled (R202, R222, R675). -/
def State.firstUseTaper (s : State) (j : Job) (k : KeyFound) : Nat :=
  if s.rsaCheckDue j then taperVerify 0x50 (modBits 0x50 k) else 0

/-- CL_SIGN: the salt of RSA-PSS and the additional data of a hedged ECDSA nonce are drawn by the preparing wick; the verifying wick checks the signature (R199, R205, R206, R208). -/
def State.clSign (s : State) (id : Nat) (check : Bool) : State :=
  s.during id 0x0502 fun j =>
    let a := j.entry.alg
    let w5 := j.entry.w5.toNat
    let first := s.firstUseTaper j (s.keyA j)
    s.withKey j check fun k s =>
    match k with
    | .priv key =>
      let drawn := (a = 0x50 && bitOf w5 0) || j.entry.hedged
      let size := if a = 0x50 then digestSize (bitsOf w5 15 8) else 32
      s.withDrawIf drawn [] id 0 j.instOf size fun rnd s =>
      s.withBlind id 1 true fun s =>
      let input := cut j.data.input 0 j.entry.w2.toNat
      let m := j.entry.w2.toNat - 1
      let cost := classicalPrep a + classicalCheck a (modBits a k) + 2 * 1200 * hashBlocks a m
      let s := s.charge id cost (taperSign a (modBits a k) + first + wipeCycles) 0
      let p := classicalParts input
      s.finish id (classicalSign a w5 key p.1 p.2 rnd)
    | _ => s.failJob id jsKeyInvalid

def execClSign (job : Nat) (check : Bool) (s : State) : Res := .next (s.clSign job check)

/-- CL_VERIFY; a private RSA key used first here is checked as in signing (R113, R196, R199, R202, R203, R222). -/
def State.clVerify (s : State) (id : Nat) (check : Bool) : State :=
  s.during id 0x0503 fun j =>
    let a := j.entry.alg
    let first := s.firstUseTaper j (s.keyA j)
    s.withKey j check fun k s =>
    s.withBlind id 0 true fun s =>
    let n := sigBytes a (k.publicKey a)
    let input := cut j.data.input 0 j.entry.w2.toNat
    let m := j.entry.w2.toNat - n - 1
    let s := s.charge id (3000 + 1200 * hashBlocks a m) (taperVerify a (modBits a k) + first + wipeCycles) 0
    let p := classicalParts (input.drop n)
    if classicalVerify a j.entry.w5.toNat (k.publicKey a) p.1 p.2 (input.take n) then s.finish id [] else s.failJob id jsVerifyFail

def execClVerify (job : Nat) (check : Bool) (s : State) : Res := .next (s.clVerify job check)

/-- A peer point is well formed, and the result of an X curve is not all zero (R203). -/
def agreeOk (a : Nat) (peer shared : Bytes) : Bool :=
  if a = 0x58 || a = 0x59 then classicalOk a peer else leNat shared ≠ 0

/-- CL_AGREE (R196, R199, R203). -/
def State.clAgree (s : State) (id : Nat) (check : Bool) : State :=
  s.during id 0x0504 fun j =>
    let a := j.entry.alg
    s.withKey j check fun k s =>
    s.withBlind id 0 true fun s =>
    match k with
    | .priv key =>
      let peer := cut j.data.input 0 (publicSize a)
      let shared := classicalShared a key peer
      let s := s.charge id 0 (taperMul a + wipeCycles) 0
      if agreeOk a peer shared then s.finish id shared else s.failJob id jsFormat
    | _ => s.failJob id jsKeyInvalid

def execClAgree (job : Nat) (check : Bool) (s : State) : Res := .next (s.clAgree job check)

end Sys2Proof.Machine
end

