-- ==== Sys2Proof/Machine/DictRows.lean ====
section
/-! DEFINITION. The commands that are writes of dictionary entries (R672), and those of life cycle, boot and tenancy that such writes cause or complete (R21, R344, R370, R468, R506 to R524, R561, R570, R571, R595). -/

namespace Sys2Proof.Machine

/-- R672: a write of any entry, judged and applied. -/
def execDictEntryWrite (path : Path) (index : BitVec 16) (sub : BitVec 8) (value : Bytes) (s : State) : Res :=
  .next (s.writeEntry path index.toNat sub.toNat value)

/-- R21: a write of an overflow entry; each 1 clears its counter. -/
def execCounterClear (path : Path) (index : BitVec 16) (sub : BitVec 8) (value : Bytes) (s : State) : Res :=
  .next (s.writeBy path index.toNat sub.toNat value fun s => s.clearCounters index.toNat sub.toNat (leNat value))

/-- R388: a write of QueueSlot Enable 01h. -/
def execQueueEnable (path : Path) (slot : Fin 2048) (s : State) : Res :=
  .next (s.writeBy path (0x2800 + slot.val) 0x0B [1] fun s => s.enableQueue slot.val)

/-- R390: a write of QueueSlot Enable 00h. -/
def execQueueDisable (path : Path) (slot : Fin 2048) (s : State) : Res :=
  .next (s.writeBy path (0x2800 + slot.val) 0x0B [0] fun s => s.disableQueue slot.val)

/-- R370: a write of a host window; the rule epoch advances, and the write completes when no ring read checked under an earlier one is in flight. -/
def execHostWindowWrite (path : Path) (slice : Fin 512) (window : Fin 64) (value : BitVec 64) (s : State) : Res :=
  .next (s.writeEntry path (0x6400 + slice.val) (window.val + 1) (leBytes 8 value.toNat))

/-- R419: a write of MediaStream Enable 01h. -/
def execStreamEnable (path : Path) (stream : Fin 1024) (s : State) : Res :=
  .next (s.writeBy path (0x7400 + stream.val) 9 [1] fun s => s.writeStreamEnable stream.val 1)

/-- R453: a write of MediaStream Enable 00h. -/
def execStreamDisable (path : Path) (stream : Fin 1024) (s : State) : Res :=
  .next (s.writeBy path (0x7400 + stream.val) 9 [0] fun s => s.writeStreamEnable stream.val 0)

/-- R561: a write of ResetRequest; the reset is DEVICE_RESET. -/
def execResetRequest (path : Path) (value : BitVec 8) (s : State) : Res :=
  .next (s.writeBy path 0x1000 3 [value] State.requestReset)

/-- R506, R509, R510: a life-cycle transition request, with what happens in the transition, if anything does. -/
def execTransitionRequest (path : Path) (request : Bytes) (event : Option TransitionEvent) (s : State) : Res :=
  .next (s.writeBy path 0x1100 4 request fun s => s.transition request event)

/-- R511: the supplies are lost while fuse copies are programmed, `blown` bits into the plan. -/
def execCriticalPhasePowerLoss (path : Path) (request : Bytes) (blown : Nat) (s : State) : Res :=
  .next (s.writeBy path 0x1100 4 request fun s => s.transitionLost request blown)

/-- R514: a write of KeyRowsProgram, with whether the power held through the row. -/
def execKeyRowsProgram (path : Path) (value : BitVec 8) (powerKept : Bool) (s : State) : Res :=
  .next (s.writeBy path 0x1100 0x0D [value] fun s => s.programKeyRows powerKept)

/-- R524: a write of FlashWriteData. -/
def execFlashWriteData (path : Path) (value : Bytes) (s : State) : Res :=
  .next (s.writeBy path 0x1101 9 value fun s => s.programFlash value)

/-- R571: a change of tenancy by Retenant, Link or Pasid. -/
def execRetenant (path : Path) (slice : Fin 512) (change : TenancyChange) (s : State) : Res :=
  .next (match change with
    | .retenant v => s.writeBy path (0x2400 + slice.val) 7 [v] fun s => s.retenant slice.val
    | .link v => s.writeBy path (0x2200 + slice.val) 1 [v] fun s => s.writeTenancy slice.val (Key.sliceHostLink slice.val) v.toNat
    | .pasid v => s.writeBy path (0x2200 + slice.val) 2 (leBytes 4 v.toNat) fun s => s.writeTenancy slice.val (Key.sliceHostPasid slice.val) v.toNat)

/-- R344: the clear of a re-tenanted slice's window and extents ends. -/
def execTenancyClearComplete (slice : Fin 512) (s : State) : Res := .next (s.endTenancyClear slice.val)

/-- R343: the rewrite of every usable line as clear ends. -/
def execReservoirClearComplete (s : State) : Res := .next s.endReservoirClear

/-- R570: a write of OwnerSlice. -/
def execOwnerSliceWrite (path : Path) (value : BitVec 16) (s : State) : Res :=
  .next (s.writeBy path 0x2020 1 (leBytes 2 value.toNat) fun s => s.setEntry Key.sliceControlOwnerSlice value.toNat)

/-- R595: a write of TimestampRestarted. -/
def execTimestampRestartedClear (path : Path) (value : BitVec 8) (s : State) : Res :=
  .next (s.writeBy path 0xB010 0x0F [value] fun s => s.setEntry Key.pilotPowerTimestampRestarted 0)

/-- R468: a write of VaultSlot Erase; the requester is answered when the erase commits. -/
def execVaultSlotErase (path : Path) (slot : Fin 512) (value : BitVec 8) (s : State) : Res :=
  .next (
    if !s.reaches path then s else
    let r := s.judgeWrite path (0x8100 + slot.val) 9 [value]
    if r = drOk then s.vaultErase slot.val (.path path) else s.answer path (0x8100 + slot.val) 9 r)

/-- R522 steps 2 to 9, with whether each slot could be read and images the board wrote meanwhile (R523). -/
def execBoot (readOk0 readOk1 : Bool) (board0 board1 : Option Bytes) (s : State) : Res :=
  .next (s.boot readOk0 readOk1 board0 board1)

/-- R522 step 10. -/
def execLitEntry (s : State) : Res := .next s.enterLit

end Sys2Proof.Machine
end

