-- ==== Sys2Proof/Machine/Digests.lean ====
section
/-! DEFINITION. The digest commands and the boundaries of digesters (R239 to R251). What a context has absorbed is itself the checkpoint that R241 writes at every boundary. -/

namespace Sys2Proof.Machine

/-- A digest result leaves: into its slot, or as output, or nowhere but the register (R243, R251). -/
def State.finishDigest (s : State) (j : Job) (r : Bytes) : State :=
  let w5 := j.entry.w5.toNat
  if ctlToVault w5 then
    (s.modJob j.id fun j => { j with keyOut := some (digestSlot w5, j.defaultKey 0 3 r) }).finish j.id []
  else if j.entry.w3 = 0 then s.finish j.id []
  else s.finish j.id r

/-- Bytes that a digester takes into contexts (R254). -/
def State.digesterCarries (s : State) (d n : Nat) : State := s.bumpBy (Key.digesterStatusBytesAbsorbed d) n

/-- A digester moves to the contexts that an item uses, where they are not those of the item before (R240, R254). Contexts that use one item together count as one place, which R240 does not say (log 61). -/
def State.digesterMoves (s : State) (d : Nat) (ks : List Nat) : State :=
  let last := Table.get (fun _ => []) s.digesterAt d
  if ks.isEmpty || last = ks then s
  else
    let s := { s with digesterAt := Table.set (fun _ => []) s.digesterAt d ks }
    if last.isEmpty then s else s.bump (Key.digesterStatusSwitches d)

/-- At a boundary the state of each context used is written to its session's context, at the charge of its slice (R241, R351). How many bytes that is, is not stated: a free value (log 61). -/
def State.checkpoint (s : State) (ks : List Nat) : State :=
  ks.foldl (fun s k =>
    let c := s.context k
    (s.bumpBy (Key.reservoirSliceBytesWritten c.slice) (Config.checkpointBytes c.alg.toNat)).touchSession c.session) s

/-- The input of a DIGEST whose digester is on no octet of its link is staged in the slice window and read from there (R243, R351). -/
def State.chargeStaged (s : State) (j : Job) (d n : Nat) : State :=
  if (s.sliceOctets j.slice).contains (s.digesterOctet d) then s
  else (s.bumpBy (Key.reservoirSliceBytesWritten j.slice) n).bumpBy (Key.reservoirSliceBytesRead j.slice) n

/-- DIGEST: a context that opens, absorbs, finishes and closes within the job (R239, R243). -/
def State.digest (s : State) (id : Nat) : State :=
  s.during id 0x0301 fun j =>
    let w5 := j.entry.w5.toNat
    let input := cut j.data.input 0 j.entry.w2.toNat
    let d := (unitsOfClass j.units 5).getD 0 0
    let ks := s.contextsOf id
    let s := (((s.chargeStaged j d input.length).digesterCarries d input.length).digesterMoves d ks).checkpoint ks
    let s := s.releaseContexts id
    s.finishDigest j (digestOf j.entry.alg input (outLen j.entry.alg w5))

def execDigest (job : Nat) (s : State) : Res := .next (s.digest job)

/-- A handle (R245). -/
def digestHandle (context gen : Nat) : Bytes := leBytes 8 (gen * 2 ^ 16 + context)

/-- DIG_OPEN: the context reserved at step 7 takes a new generation; it opens at the commit (R245, R246). -/
def State.digOpen (s : State) (id : Nat) : State :=
  s.during id 0x0302 fun j =>
    let k := j.drawn.getD 0 0
    s.withDraw id 0 16 2 fun b s =>
    let gen := nonzeroOther 16 (s.context k).gen.toNat (Config.drawn b)
    (s.modJob id fun j => { j with drawn := [k, gen] }).finish id (digestHandle k gen)

def execDigOpen (job : Nat) (s : State) : Res := .next (s.digOpen job)

/-- Act on the context a job's handle names; one closed meanwhile ends the job FORMAT (R245, R250). -/
def State.onContext (s : State) (j : Job) (f : Nat → DigestContext → State) : State :=
  match s.openContext j.entry with
  | none => s.failJob j.id jsFormat
  | some (k, c) => f k c

/-- Bytes arrive at a context (R248). -/
def DigestContext.absorb (c : DigestContext) (b : Bytes) : DigestContext :=
  { c with absorbing := true, absorbed := if c.absorbing then c.absorbed ++ b else b }

/-- The result of what a context has absorbed; of the empty string while EMPTY (R248). -/
def DigestContext.value (c : DigestContext) : Bytes := digestOf c.alg.toNat (if c.absorbing then c.absorbed else []) c.outLen

/-- A finished context is EMPTY, and its register takes the result unless it went to the vault (R248, R251). -/
def DigestContext.finished (c : DigestContext) (toVault : Bool) : DigestContext :=
  { c with absorbing := false, absorbed := [], result := if toVault then none else some c.value }

/-- DIG_UPDATE: the input is absorbed; the context takes it at the commit (R243). -/
def State.digUpdate (s : State) (id : Nat) : State :=
  s.during id 0x0303 fun j =>
    s.onContext j fun k _ =>
    let d := (unitsOfClass j.units 5).getD (k / 64) 0
    (s.digesterCarries d j.entry.w2.toNat).finish id []

def execDigUpdate (job : Nat) (s : State) : Res := .next (s.digUpdate job)

/-- DIG_FINISH: an unattached context finishes with the job, whose commit empties it; an attached one at a boundary, which may have come before the job's turn (R248 to R250). -/
def State.digFinish (s : State) (id : Nat) : State :=
  s.during id 0x0304 fun j =>
    s.onContext j fun _ c =>
    if c.attach = .none then s.finishDigest j c.value
    else match j.kept with
      | r :: _ => (s.finishDigest j r).settleResult id
      | [] => s

def execDigFinish (job : Nat) (s : State) : Res := .next (s.digFinish job)

/-- DIG_READ: the register as it is when the job runs; a capacity below its length ends it LENGTH_SHORT (R92, R243, R248). -/
def State.digRead (s : State) (id : Nat) : State :=
  s.during id 0x0305 fun j => s.onContext j fun _ c =>
    let r := c.result.getD []
    if j.entry.w4.toNat < r.length then s.stageResult id jsLengthShort r.length [] else s.finish id r

def execDigRead (job : Nat) (s : State) : Res := .next (s.digRead job)

/-- DIG_CLOSE: the context closes at the commit (R250). -/
def State.digClose (s : State) (id : Nat) : State :=
  s.during id 0x0306 fun j => s.onContext j fun _ _ => s.finish id []

def execDigClose (job : Nat) (s : State) : Res := .next (s.digClose job)

/-! ### Boundaries -/

/-- The digester that carries a context: its own, or another of the octet while that is out of service (R242). -/
def State.carriedBy (s : State) (k d : Nat) : Bool :=
  let home := k / 64
  s.inService (uDigester d) && (d = home || (!s.inService (uDigester home) && s.digesterOctet d = s.digesterOctet home))

/-- A job that is done with the result its finish took effect with; before its turn it keeps the result (R249, R250). -/
def State.giveDigest (s : State) (id : Nat) (r : Bytes) : State :=
  match s.findJob id with
  | none => s
  | some j =>
    if j.phase = .staged then s
    else if j.phase = .turn then s.modJob id fun j => { j with kept := [r] }
    else (s.finishDigest j r).settleResult id

/-- The finishes of a context that wait take effect, in fetch order: the second finds it EMPTY (R248, R249). -/
def State.boundaryFinish (s : State) (d k : Nat) : State :=
  let c := s.context k
  if !c.isOpen || !s.carriedBy k d then s
  else c.finishJobs.foldl (fun s id =>
    let c := s.context k
    let toVault := match s.findJob id with | some j => ctlToVault j.entry.w5.toNat | none => false
    (s.setContext k { c.finished toVault with finishJobs := c.finishJobs.filter (· ≠ id) }).giveDigest id c.value) s

/-- The contexts that stand in the state, by number. -/
def State.contextKeys (s : State) : List Nat := (s.contexts.map (·.1)).dedup

/-- A boundary of a digester whose item used some contexts: it has moved to them, their states are written, and finishes that wait take effect (R240, R241, R249). -/
def State.boundaryEnds (s : State) (d : Nat) (ks : List Nat) : State :=
  (s.contextKeys.foldl (State.boundaryFinish · d ·) ((s.digesterMoves d ks).checkpoint ks))

/-- The software contexts of a digester that an item reaches and that have not absorbed it (R238, R247). -/
def State.absorbers (s : State) (d item : Nat) (reaches : Attach → Bool) : List Nat :=
  s.contextKeys.filter fun k => let c := s.context k; c.isOpen && c.objectJob.isNone && c.lastItem < item && s.carriedBy k d && reaches c.attach

/-- The object contexts of a digester whose object a stream carries, that have not absorbed a record (R239). What they compute is in the object's progress. -/
def State.objectAbsorbers (s : State) (d n item : Nat) : List Nat :=
  s.contextKeys.filter fun k => let c := s.context k; c.isOpen && c.objectJob.isSome && c.objectJob = (s.stream n).currentJob && c.lastItem < item && s.carriedBy k d

/-- Contexts absorb an item. -/
def State.absorbItem (s : State) (ks : List Nat) (item : Nat) (b : Bytes) : State :=
  ks.foldl (fun s k => s.setContext k { (s.context k).absorb b with lastItem := item }) s

/-- The item of a digester ends: its contexts have absorbed it, its bytes are counted once, and the boundary acts (R240, R254). -/
def State.itemEnds (s : State) (d item : Nat) (soft own : List Nat) (b : Bytes) : State :=
  let ks := own ++ soft
  let s := own.foldl (fun s k => s.setContext k { s.context k with lastItem := item }) (s.absorbItem soft item b)
  (if ks.isEmpty then s else s.digesterCarries d b.length).boundaryEnds d ks

/-! ### Records -/

/-- A context or a digester of a stream's octet has still to take a record that passed (R238, R242, R247). -/
def State.awaitsRecord (s : State) (d n : Nat) (r : PassedRecord) : Bool :=
  !r.seen.contains d || !(s.absorbers d r.number fun a => a = .stream n r.received).isEmpty || !(s.objectAbsorbers d n r.number).isEmpty

/-- The digesters in service at an octet. -/
def State.digestersOf (s : State) (o : Nat) : List Nat := s.digestersUp (some [o])

/-- Records that every digester of the octet has taken are gone. -/
def State.dropPassed (s : State) (n : Nat) : State :=
  let x := s.stream n
  let ds := s.digestersOf (s.streamOctet n)
  s.setStream n { x with passing := x.passing.filter fun r => ds.isEmpty || ds.any fun d => s.awaitsRecord d n r }

/-- A record ends at a digester (R238, R240, R247): the oldest that it has still to take, whose bytes are those the stream carried. -/
def State.recordEnds (s : State) (d n : Nat) (received : Bool) (b : Bytes) : State :=
  let x := s.stream n
  match x.passing.find? (fun r => s.awaitsRecord d n r) with
  | none => s
  | some r =>
    if r.received ≠ received || r.bytes ≠ b || s.digesterOctet d ≠ s.streamOctet n then s
    else
      let soft := s.absorbers d r.number fun a => a = .stream n received
      let own := s.objectAbsorbers d n r.number
      let s := s.setStream n { x with passing := x.passing.map fun q => if q.number = r.number then { q with seen := q.seen ++ [d] } else q }
      (s.itemEnds d r.number soft own b).dropPassed n

/-! ### Inputs -/

/-- The job declares an input that queue contexts absorb (R247). -/
def State.snoops (s : State) (j : Job) : Bool :=
  (readsInput j.entry.opcode && j.entry.w2 ≠ 0) || (j.entry.opcode = 0x0701 && (s.session j.entry.session).ingest ≠ 1)

/-- The input of a job has been read whole (R247). -/
def State.inputRead (s : State) (j : Job) : Bool :=
  if j.entry.opcode = 0x0701 then decide (j.obj.segmentsDone = segmentCount j.entry.w2.toNat (s.session j.entry.session).segExp)
  else j.phase ≠ .staged || !j.served.isEmpty || j.status = 0

/-- The input of a job may still pass a digester. -/
def State.inputComes (s : State) (d : Nat) (j : Job) : Bool :=
  s.snoops j && !j.snooped.contains d && (s.inputRead j || (j.phase ≠ .staged && j.phase ≠ .closing))

/-- Jobs of a slot fetched before one keep its input from passing a digester first (R247). -/
def State.inputTurn (s : State) (d : Nat) (j : Job) : Bool := !s.jobs.any fun k => k.slot = j.slot && k.id < j.id && s.inputComes d k

/-- The declared input of a job. -/
def Job.inputBytes (j : Job) : Bytes := if j.entry.opcode = 0x0701 then j.obj.input else cut j.data.input 0 j.entry.w2.toNat

/-- The input of a job ends at a digester of its link's octets (R240, R242, R247). -/
def State.inputEnds (s : State) (d id : Nat) : State :=
  match s.findJob id with
  | none => s
  | some j =>
    let ks := s.absorbers d (id + 1) fun a => a = .queue j.slot
    if !s.snoops j || !s.inputRead j || (j.snooped.contains d && ks.isEmpty) || !s.inputTurn d j || !(s.sliceOctets j.slice).contains (s.digesterOctet d) then s
    else (s.modJob id fun j => { j with snooped := j.snooped ++ [d] }).itemEnds d (id + 1) ks [] j.inputBytes

/-- An item ends at a digester in service (R238, R240, R241, R247, R249). -/
def State.boundary (s : State) (d : Nat) (item : DigestItem) : State :=
  if !s.inService (uDigester d) || !s.isLit then s else
  match item with
  | .record n received b => s.recordEnds d n.val received b
  | .input id => s.inputEnds d id

def execDigesterBoundary (digester : Fin 32) (item : DigestItem) (s : State) : Res := .next (s.settleTurns.boundary digester.val item)

end Sys2Proof.Machine
end

