-- ==== Sys2Proof/Machine/Faults.lean ====
section
/-! DEFINITION. The commands of the fault collector and of the fatal stop (R626 to R642, R449, R561), and debug accesses (R513). DUMP_COMPLETE is in Dump. -/

namespace Sys2Proof.Machine

/-- The collector runs while the hub is powered (R579). -/
def State.collects (s : State) : Bool := s.hubOn && !s.haltLatched

/-- A unit ID of a report as the collector takes it: one that names no unit reads 0000h (R18, R19). -/
def knownUnit (u : UnitId) : UnitId := if unitExists u then u else 0

/-- R629: a report reaches the collector. A report with no slice carries 0000h. -/
def execFaultReport (code : BitVec 16) (detector accused slice : UnitId) (detail : BitVec 64) (s : State) : Res :=
  .next (
    if s.collects then s.reportFault code.toNat (knownUnit accused) (knownUnit detector) (knownUnit slice) detail.toNat else s)

/-- R620: a flit's code fails; the destination reports it against 0000h. -/
def execFlitIntegrityFailure (detector : UnitId) (s : State) : Res :=
  .next (if s.collects then s.reportFault 0x0901 0 (knownUnit detector) 0 0 else s)

/-- R632: 4,096 cycles after it opened, an event's window closes. -/
def execEventWindowClose (accused : UnitId) (code : BitVec 16) (s : State) : Res :=
  .next (
    match s.events.find? (fun e => e.accused = accused && (accused ≠ 0 || e.code = code)) with
    | some e => (s.passCycles (e.opened + 4096)).closeEvent e
    | none => s)

/-- A fenced unit whose RelightCount is below RelightLimit (R635). -/
def State.relightWanted (s : State) (u : UnitId) : Bool :=
  s.health u = 1 &&
  (match healthIndex u with
   | some k => decide (s.entry (k * 256 + 3) < s.entry Key.faultCollectorRelightLimit)
   | none => false)

/-- The two rounds of relight tests (R635): sconces and octets first, then the other units. -/
def State.relightTests (s : State) : State :=
  let due := fencible.filter s.relightWanted
  let first := fun (u : UnitId) => unitClass u = 3 || unitClass u = 7
  let s := (due.filter fun u => first u).foldl State.startSelfTest s
  { s with relightDue := due.filter fun u => !first u }.settleRelight

/-- R634: the quiet timer reaches QuietS; the collector is NORMAL and relight starts (R635). -/
def execQuietExpiry (s : State) : Res :=
  .next (
    if s.entry Key.faultCollectorState ≠ 1 then s else
    let s := s.passTicks (s.quietStart.toNat + s.entry Key.faultCollectorQuietS * 32768)
    let s := (s.setEntry Key.faultCollectorState 0).bump Key.faultCollectorRecoveries
    s.relightTests)

/-- R636: a self-test ends. A failure raises the class's self-test code at NOTE (R640). A sconce's test includes the known-answer test of its instance, so one fenced for that relights only after it passes (R496, R639). -/
def execSelfTestComplete (unit : UnitId) (passed : Bool) (s : State) : Res :=
  .next (
    if s.health unit ≠ 2 then s
    else if passed then (s.relight unit).settleRelight
    else s.reportFault (unitClass unit * 256 + 255) unit unit 0 0)

/-- R638: a write of UnitHealth RelightRequest. -/
def execRelightRequest (path : Path) (unit : UnitId) (value : BitVec 8) (s : State) : Res :=
  .next (match healthIndex unit with
    | some k => s.writeEntry path k 6 [value]
    | none => s.writeEntry path 0xA680 6 [value])

/-- R641 step 7: FatalHoldS after the stop the device resets; 0 holds it. -/
def execFatalHoldExpiry (s : State) : Res :=
  .next (
    match s.fatal with
    | none => s
    | some f =>
      let n := s.entry Key.dumpControlFatalHoldS
      if n = 0 then s else (s.passTicks (f.event.time.toNat + n * 32768)).deviceReset 4)

/-- R642: steps 4 and 5 are not done 2.0 s after the stop; the watchdog resets the device. -/
def execLamplighterWatchdog (s : State) : Res :=
  .next (
    match s.fatal with
    | none => s
    | some f => if f.served then s else (s.passTicks (f.event.time.toNat + 65536)).deviceReset 5)

/-- R449, R560: a device reset, with the cause of a ResetRequest that is pending, where the hub is powered. -/
def execDeviceReset (cause : BitVec 8) (s : State) : Res :=
  .next (
    if s.power = .lit || s.power = .low || s.power = .booting then
      s.deviceReset ((s.resetPending.getD cause).toNat)
    else s)

/-- R513: in TEST, after the key rows are written, a locked region reads 5Ah in every byte, writes are dropped, and DebugErrors counts. Debug is closed from PROVISION on (R515); what an access finds where R513 does not apply is no part of the model (log 40). -/
def execDebugAccess (_region : DebugRegion) (write : Bool) (s : State) : Res :=
  .next (
    if s.lifeCycle = lcTest && s.roots.urs.isSome then
      let s := s.bump Key.lifeCycleDebugErrors
      if write then s else s.emit (.debugData 0x5A)
    else s)

end Sys2Proof.Machine
end

