-- ==== Sys2Proof/Machine/Kem.lean ====
section
/-! DEFINITION. The KEM commands: key generation, encapsulation, decapsulation (R114 to R124, R136, R174 to R181, R187 to R190), and the McEliece key cache (R182 to R185). -/

namespace Sys2Proof.Machine

/-- What a KEM key generation costs on its wicks (R143, R146, R181, R191). -/
def kemKeygenCost (a : Nat) (f order2 : Bool) : Nat :=
  if isMce a then gangMean a f else if isHqc a then hqcKeygen a
  else atOrder order2 (latticeKeygen (latticeHalf a)) + if isHybrid a then 400 else 0

/-- The matrix of a gang job stands in the data memories of its 16 wicks, each with its own rows (R177). -/
def State.placeGang (s : State) (j : Job) (a : Nat) (key : Bytes) : State :=
  let g := mceGang a key
  (((unitsOfClass j.units 1).take 16).zipIdx).foldl (fun s p =>
    let words := gangWords g.1 g.2 p.2
    s.setWick p.1 { s.wick p.1 with dmem := pokeWords (s.wick p.1).dmem ((List.range words.length).zip words) }) s

/-- KEM_KEYGEN (R114, R119 to R123, R136, R174, R175, R177 to R180, R190). -/
def State.kemKeygen (s : State) (id : Nat) (check : Bool) : State :=
  s.during id 0x0101 fun j =>
    let a := j.entry.alg
    let given := cut j.data.input 0 j.entry.w2.toNat
    s.withShroud j (isMlKem a || isHybrid a) <|
    s.withDrawIf (!ctlSeedIn j.entry.w5.toNat) given id 0 j.instOf (seedSize a) fun seed s =>
    s.withBlind id 1 (isHybrid a) fun s =>
    if !check then s.checkFailed id else
    let key := if isMce a then mcePrivate a j.entry.mceF seed else seed
    let s := s.charge id (kemKeygenCost a j.entry.mceF j.entry.order2) (hybridTaper a 1) (shroudKeygen a j.entry.order2)
    (if isMce a then s.placeGang j a key else s).finishKeygen j key

def execKemKeygen (job : Nat) (check : Bool) (s : State) : Res := .next (s.kemKeygen job check)

/-- KEM_ENCAPS (R113, R116, R119, R136, R186). The ephemeral scalar of a hybrid is the bytes drawn, 32 or 48, as they are: R136 gives neither their number nor a clamping or reduction (log 56). -/
def State.kemEncaps (s : State) (id : Nat) (check : Bool) : State :=
  s.during id 0x0102 fun j =>
    let a := j.entry.alg
    s.withKey j check fun k s =>
    s.withDraw id 0 j.instOf 32 fun m s =>
    s.withDrawIf (isHybrid a) [] id 1 16 (hybridShareSize a) fun e s =>
    s.withBlind id 2 (isHybrid a) fun s =>
    let s := if isMce a then s.readMceKey j.slice a ((s.session j.entry.session).keyRef 0) 1 else s
    let s := s.charge id (encapsCost a) (hybridTaper a 2) 0
    let r := anyEncaps a (k.publicKey a) m e
    s.finish id (r.1 ++ r.2)

def execKemEncaps (job : Nat) (check : Bool) (s : State) : Res := .next (s.kemEncaps job check)

/-- KEM_DECAPS, with implicit rejection (R83, R117, R119, R124, R187). -/
def State.kemDecaps (s : State) (id : Nat) (check : Bool) : State :=
  s.during id 0x0103 fun j =>
    let a := j.entry.alg
    s.withShroud j (isMlKem a || isHybrid a) <|
    s.withKey j check fun k s =>
    s.withBlind id 0 (isHybrid a) fun s =>
    match k with
    | .priv key =>
      let s := s.charge id (decapsCost a j.entry.order2) (hybridTaper a 1) (shroudDecaps a j.entry.order2)
      s.finish id (anyDecaps a key (cut j.data.input 0 (cipherSize a)))
    | _ => s.failJob id jsKeyInvalid

def execKemDecaps (job : Nat) (check : Bool) (s : State) : Res := .next (s.kemDecaps job check)

/-- A reference of kind 4h (R183). -/
def mceRef (entry gen : Nat) : Bytes := leBytes 8 (4 * 2 ^ 60 + gen * 2 ^ 16 + entry)

/-- MCE_CACHE_LOAD: the entry reserved at step 7 takes a new generation; the key enters it at the commit (R183). -/
def State.mceLoad (s : State) (id : Nat) : State :=
  s.during id 0x0110 fun j =>
    let k := j.drawn.getD 0 0
    s.withDraw id 0 16 2 fun b s =>
    let gen := nonzeroOther 16 (s.mce k).gen.toNat (Config.drawn b)
    (s.modJob id fun j => { j with drawn := [k, gen] }).finish id (mceRef k gen)

def execMceCacheLoad (job : Nat) (s : State) : Res := .next (s.mceLoad job)

/-- MCE_CACHE_DROP: the entry is dropped at the commit (R184). -/
def State.mceDrop (s : State) (id : Nat) : State := s.during id 0x0111 fun _ => s.finish id []

def execMceCacheDrop (job : Nat) (s : State) : Res := .next (s.mceDrop job)

end Sys2Proof.Machine
end

