-- ==== Sys2Proof/Machine/Keys.lean ====
section
/-! DEFINITION. The session commands (R60, R63, R70, R71, R79), the key and entropy commands (R458 to R460, R468, R472 to R476). -/

namespace Sys2Proof.Machine

/-! ### Sessions -/

/-- SESSION_OPEN: a generation is drawn from the hub instance; the session opens at the commit (R60, R79). -/
def State.sessionOpen (s : State) (id : Nat) : State :=
  s.during id 0x0601 fun j =>
    s.withDraw id 0 16 2 fun b s =>
    let n := j.entry.session
    let gen := nonzeroOther 16 (s.session n).lastGen.toNat (Config.drawn b)
    (s.modJob id fun j => { j with drawn := [gen] }).finish id (leBytes 2 n ++ leBytes 2 gen ++ leBytes 4 0)

def execSessionOpen (job : Nat) (s : State) : Res := .next (s.sessionOpen job)

/-- SESSION_CLOSE completes when the last job fetched before it has (R70). -/
def State.sessionClose (s : State) (id : Nat) : State :=
  s.during id 0x0602 fun j => if s.earlierJobs j.entry.session id then s else s.finish id []

def execSessionClose (job : Nat) (s : State) : Res := .next (s.sessionClose job)

/-! ### Keys -/

/-- KEY_IMPORT: the blob is unwrapped; its key enters the slot at the commit (R463, R470, R473). -/
def State.keyImport (s : State) (id : Nat) : State :=
  s.during id 0x0603 fun j =>
    match s.openBlob j.slice (cut j.data.input 0 j.entry.w2.toNat) with
    | none => s.failJob id jsKeyInvalid
    | some b =>
      let k : VaultKey := { alg := BitVec.ofNat 8 b.alg, uses := BitVec.ofNat 16 b.uses, origin := 2, exportable := b.exportable, persist := false, key := b.key }
      (s.modJob id fun j => { j with keyOut := some (ctlSlot j.entry.w5.toNat, k) }).finish id []

def execKeyImport (job : Nat) (s : State) : Res := .next (s.keyImport job)

/-- KEY_EXPORT: the slot's key in a blob (R471, R473). -/
def State.keyExport (s : State) (id : Nat) : State :=
  s.during id 0x0604 fun j =>
    match s.vaultKey (ctlSlot j.entry.w5.toNat) with
    | none => s.failJob id jsKeyInvalid
    | some k =>
      if !k.exportable then s.failJob id jsKeyInvalid else
      match s.makeBlob j.slice j.keyRules.bindBlobs k with
      | none => s.failJob id jsKeyInvalid
      | some b => if j.entry.w4.toNat < b.length then s.stageResult id jsLengthShort b.length [] else s.finish id b

def execKeyExport (job : Nat) (s : State) : Res := .next (s.keyExport job)

/-- KEY_ERASE is ready to commit; it commits once no job fetched earlier holds a copy (R468). -/
def State.keyErase (s : State) (id : Nat) : State := s.during id 0x0605 fun _ => s.finish id []

def execKeyErase (job : Nat) (s : State) : Res := .next (s.keyErase job)

/-! ### The owner envelope -/

/-- K and WRAPPED of an envelope, unwrapped (R458): OSK ‖ AS, none where KWP fails. -/
def State.openEnvelope (s : State) (b : Bytes) : Option Bytes :=
  let k := decaps 0x12 (s.roots.utkSeed.getD []) (cut b 2656 1568)
  let kek := kmac256 k (cut b 0 64) 32 "PYRS-OSK"
  let w := cut b 4224 72
  if kwpAccepts kek w then some (kwpUnwrap kek w 64) else none

/-- The checks of R459 after the length: a status, or the 64 bytes OSK ‖ AS. -/
def State.envelopeCheck (s : State) (b : Bytes) : Nat × Bytes :=
  if cut b 0 4 ≠ [0x50#8, 0x59#8, 0x52#8, 0x4F#8] || field b 4 1 ≠ 1 || field b 5 3 ≠ 0 || field b 40 24 ≠ 0 || !s.keyed then (jsFormat, [])
  else if sha3_256 (cut b 64 2592) ≠ s.roots.ownerHash then (jsKeyInvalid, [])
  else if !mldsa87Verifies (cut b 64 2592) (b.take 4296) (cut b 4296 4627) then (jsVerifyFail, [])
  else if cut b 8 16 ≠ State.unitBytes || field b 24 8 ≠ s.entry Key.lifeCycleCounter then (jsVerifyFail, [])
  else match s.openEnvelope b with
    | none => (jsVerifyFail, [])
    | some k => if oskId (k.take 32) = cut b 32 8 then (jsOk, k) else (jsVerifyFail, [])

/-- OSK_INSTALL: a checked envelope's keys are installed at the commit (R459, R460). -/
def State.oskInstall (s : State) (id : Nat) : State :=
  s.during id 0x0610 fun j =>
    let r := s.envelopeCheck (cut j.data.input 0 8923)
    if r.1 ≠ jsOk then s.failJob id r.1
    else (s.modJob id fun j => { j with keyOut := some (509, deviceKey r.2) }).finish id []

def execOskInstall (job : Nat) (s : State) : Res := .next (s.oskInstall job)

/-! ### ATTEST and RANDOM -/

/-- The 96 bytes ATTEST publishes before its MAC (R475). -/
def State.attestBody (s : State) : Bytes :=
  State.unitBytes ++ leBytes 2 s.lifeCycle ++ leBytes 6 0 ++ leBytes 8 s.timestamp.toNat ++ cut s.roots.measurement 0 64

/-- ATTEST (R475, R476). -/
def State.attest (s : State) (id : Nat) : State :=
  s.during id 0x0611 fun j =>
    match s.roots.attestSecret with
    | none => s.failJob id jsKeyInvalid
    | some k =>
      if !s.keyed then s.failJob id jsKeyInvalid else
      s.withShroud j true <|
      (s.charge id 0 0 attestWords).finish id (s.attestBody ++ kmac256 k (cut j.data.input 0 32 ++ s.attestBody) 32 "PYRS-ATTEST")

def execAttest (job : Nat) (s : State) : Res := .next (s.attest job)

/-- RANDOM: one generate request of the hub instance (R474). -/
def State.random (s : State) (id : Nat) : State :=
  s.during id 0x0801 fun j => s.withDraw id 0 16 j.entry.w2.toNat fun b s => s.finish id b

def execRandom (job : Nat) (s : State) : Res := .next (s.random job)

end Sys2Proof.Machine
end

