-- ==== Sys2Proof/Machine/OwnerPrograms.lean ====
section
/-! DEFINITION. The owner program commands (R286, R288 to R291). OWN_PROG_RUN is in OwnerRun. -/

namespace Sys2Proof.Machine

/-- The lowest entry of a slice that holds no program. -/
def State.freeProgram (s : State) (slc : Nat) : Option Nat := (span (16 * slc) 16).find? fun k => let p := s.program k; !p.live && p.pins.isEmpty

/-- OWN_PROG_LOAD: the checks of R289; the program is loaded at the commit. -/
def State.ownerLoad (s : State) (id : Nat) : State :=
  s.during id 0x0F01 fun j =>
    let img := cut j.data.input 0 j.entry.w2.toNat
    let hash := leBytes 32 (s.entry Key.wickProgramsOwnerProgramKeyHash)
    let pk := cut j.data.keyA 0 2592
    if !imageFormOk 2 img then s.failJob id jsFormat
    else if leNat hash = 0 then s.failJob id jsKeyInvalid
    else match s.freeProgram j.slice with
      | none => s.failJob id jsResource
      | some k =>
        let n := img.length - 4627
        if sha3_256 pk ≠ hash || !mldsa87Verifies pk (img.take n) (img.drop n) then s.failJob id jsVerifyFail
        else
          s.withDraw id 0 16 2 fun b s =>
          let gen := nonzeroOther 16 (s.program k).gen.toNat (Config.drawn b)
          let s := s.setProgram k { s.program k with pins := [id] }
          (s.modJob id fun j => { j with drawn := [k, gen] }).finish id (leBytes 8 (gen * 2 ^ 16 + k % 16))

def execOwnProgLoad (job : Nat) (s : State) : Res := .next (s.ownerLoad job)

/-- How a run ends when its program executes DONE with a status byte and a length (R291). -/
def State.ownerDone (s : State) (j : Job) (status len : Nat) : State :=
  let st := if [0x00, 0x02, 0x03, 0x05, 0x06].contains status then status else jsFormat
  if st ≠ jsOk then s.failJob j.id st
  else if j.entry.w4.toNat < len then s.stageResult j.id jsLengthShort len []
  else s.finish j.id (s.readReservoir (s.extentBase (.owner j.id true)) len)

/-- OWN_PROG_DROP: the program is dropped at the commit (R289). -/
def State.ownerDrop (s : State) (id : Nat) : State := s.during id 0x0F03 fun _ => s.finish id []

def execOwnProgDrop (job : Nat) (s : State) : Res := .next (s.ownerDrop job)

end Sys2Proof.Machine
end

