-- ==== Sys2Proof/Machine/Signature.lean ====
section
/-! DEFINITION. The signature commands (R119 to R127, R136 to R139, R148 to R155, R172, R173) and the lantern cache (R157 to R168). -/

namespace Sys2Proof.Machine

/-- What a signature key generation costs (R143, R170). -/
def sigKeygenCost (a : Nat) (order2 : Bool) : Nat := if isSlh a then slhKeygen a else atOrder order2 (latticeKeygen a)

/-- SIG_KEYGEN (R119 to R123, R136, R149, R150). -/
def State.sigKeygen (s : State) (id : Nat) (check : Bool) : State :=
  s.during id 0x0201 fun j =>
    let a := j.entry.alg
    let given := cut j.data.input 0 j.entry.w2.toNat
    s.withShroud j true <|
    s.withDrawIf (!ctlSeedIn j.entry.w5.toNat) given id 0 j.instOf 32 fun seed s =>
    if !check then s.checkFailed id else
    let s := s.charge id (sigKeygenCost a j.entry.order2) 0 (keygenWords a j.entry.order2)
    let s := if isSlh a then s.chargeSecond id (keygenWords a false) else s
    s.finishKeygen j seed

def execSigKeygen (job : Nat) (check : Bool) (s : State) : Res := .next (s.sigKeygen job check)

/-- The lantern entry a job holds; it finishes with one that was dropped meanwhile (R164, R168). -/
def State.heldLantern (s : State) (id : Nat) : Option LanternEntry := s.lanterns.find? fun e => e.pins.contains id

/-- A lantern entry is dropped by a failed attempt that used it; the job lets go of it (R166, R167). -/
def State.dropLantern (s : State) (id : Nat) (e : LanternEntry) : State :=
  let s := { s with lanterns := s.lanterns.map fun (f : LanternEntry) => if f.id = e.id then { f with dropped := true } else f }
  (s.bump Key.lanternCacheEntriesDropped).unpin id

/-- Records a served job reads (R158, R164). -/
def lanternReads (a : Nat) : Nat := lanternLayers a - 1

/-- The XMSS signatures of the layers an entry serves on the path of a tree, from the records in its extent (R158, R159, R164). -/
def State.servedLayers (s : State) (e : LanternEntry) (tree : Nat) : List Bytes :=
  let a := e.alg.toNat
  (lanternPath a tree).map fun n => lanternSignature a (s.readReservoir (s.extentBase (.lantern e.id) + n * lanternRecord a) (lanternRecord a))

/-- An SLH-DSA signature, with or without the cache; both give the same bytes (R153, R154, R158, R160, R164). -/
def State.slhSignature (s : State) (j : Job) (key rnd : Bytes) : State :=
  let a := j.entry.alg
  let msg := formatted (cut j.data.input 0 j.entry.w2.toNat)
  let held := s.heldLantern j.id
  let layers := match held with | some e => s.servedLayers e | none => fun _ => []
  let sig := slhSignWith a key (s.rootFor j.entry.session 0 a key) msg rnd layers
  let s := if held.isSome then (s.bump Key.lanternCacheSignsServed).bumpBy (Key.reservoirSliceBytesRead j.slice) (lanternReads a * lanternRecord a) else s.bump Key.lanternCacheSignsFull
  (s.charge j.id (signedCost a 0 msg.length false held.isSome + checkedCost a msg.length) 0 (signWords a 0 msg.length false held.isSome)).finish j.id sig

/-- An ML-DSA signature: the loop ends in replay after 1,000 iterations (R137, R138, R144). -/
def State.mlSignature (s : State) (j : Job) (key rnd : Bytes) : State :=
  let a := j.entry.alg
  let o2 := j.entry.order2
  let msg := formatted (cut j.data.input 0 j.entry.w2.toNat)
  let r := dsaSign a key msg rnd
  match r.2 with
  | none => s.replayJob j.id []
  | some sig => (s.charge j.id (signedCost a r.1 msg.length o2 false + checkedCost a msg.length) 0 (shroudSign a r.1 o2)).finish j.id sig

/-- SIG_SIGN (R86, R125, R126, R136 to R139, R151, R153, R164, R167). -/
def State.sigSign (s : State) (id : Nat) (check : Bool) : State :=
  s.during id 0x0202 fun j =>
    let a := j.entry.alg
    let used := if check then none else s.heldLantern id
    let s := match used with
      | some e => s.dropLantern id e
      | none => s
    s.withShroud j true <|
    s.withKey j check fun k s =>
    match k with
    | .priv key =>
      let fixed := if isSlh a then (anyPublic a key).take (slhN a) else List.replicate 32 0#8
      s.withDrawIf j.entry.hedged fixed id 0 j.instOf (if isSlh a then slhN a else 32) fun rnd s =>
      if isSlh a then s.slhSignature j key rnd else s.mlSignature j key rnd
    | _ => s.failJob id jsKeyInvalid

def execSigSign (job : Nat) (check : Bool) (s : State) : Res := .next (s.sigSign job check)

/-- The signature and the message of a verification (R125, R173). -/
def verifyParts (a : Nat) (input : Bytes) : Bytes × Bytes :=
  if isLms a then
    let n := field input 0 4
    (cut input 4 n, input.drop (4 + n))
  else (cut input 0 (signatureSize a), formatted (input.drop (signatureSize a)))

/-- SIG_VERIFY: OK or VERIFY_FAIL (R119, R126, R151, R173). -/
def State.sigVerify (s : State) (id : Nat) (check : Bool) : State :=
  s.during id 0x0203 fun j =>
    let a := j.entry.alg
    s.withKey j check fun k s =>
    let p := verifyParts a (cut j.data.input 0 j.entry.w2.toNat)
    let cost := if isLms a then statefulVerify a else checkedCost a p.2.length
    let s := s.charge id cost 0 0
    if verifies a (k.publicKey a) p.2 p.1 then s.finish id [] else s.failJob id jsVerifyFail

def execSigVerify (job : Nat) (check : Bool) (s : State) : Res := .next (s.sigVerify job check)

/-! ### The lantern cache -/

/-- The size of the extent a build holds. -/
def State.buildSize (s : State) (id : Nat) : Nat := ((s.extents.find? fun e => e.use = .lantern id).map (·.size)).getD 0

/-- Write the records a task finished to the extent of its build, at the charge of the slice (R157, R159, R163, R351). -/
def State.writeRecords (s : State) (id a : Nat) (key : Bytes) (rs : List (Nat × Nat)) : State :=
  let base := s.extentBase (.lantern id)
  let s := match s.findJob id with
    | some j => s.bumpBy (Key.reservoirSliceBytesWritten j.slice) (rs.length * lanternRecord a)
    | none => s
  rs.foldl (fun s r => s.writeReservoir (base + lanternOffset a r.1 r.2) (lanternContent a key r.1 r.2)) s

/-- A task of a build is done: its records are written, and its wicks are free. The last one ends the build, whose entry exists at the commit (R162 to R164). -/
def State.taskDone (s : State) (j : Job) (t : LanternTask) (key : Bytes) : State :=
  let a := j.entry.alg
  let at_ := lanternTask a t.number
  let s := s.writeRecords j.id a key (lanternRecords a at_.1 at_.2)
  let s := (s.releaseUnits t.units).setTasks j.id fun ts => ts.filter fun x => x.number ≠ t.number
  match (s.findJob j.id).bind (·.build) with
  | some b =>
    if b.started = lanternTrees a && b.tasks.isEmpty then (s.charge j.id (lanternBuildCycles a) 0 0).stageResult j.id jsOk (s.buildSize j.id) []
    else s
  | none => s

/-- LANTERN_BUILD: a task ends with the check of its records by another wick; one that fails is replayed by itself (R130, R154, R162, R163). -/
def State.lanternBuild (s : State) (id task : Nat) (check : Bool) : State :=
  s.during id 0x0210 fun j =>
    match (j.build.map (·.tasks)).getD [] |>.find? (fun t => t.number = task && !t.units.isEmpty) with
    | none => s
    | some t =>
      s.withShroud j true <|
      match s.keyA j with
      | .bad => s.failJob id jsKeyInvalid
      | .priv key =>
        let first := s.firstUse j
        match if check then s.expandRole j.entry.session 0 j.entry.alg (.priv key) else none with
        | none => s.replayTask id t t.units
        | some s =>
          let ws := unitsOfClass t.units 1
          let words := (slhSet j.entry.alg).treeWords
          let s := ((s.keepKeys j j.entry.alg (.priv key) first ws).spendWords (ws.getD 0 0) words).modJob id fun j => { j with shroud := j.shroud + words }
          s.taskDone j t key
      | _ => s

def execLanternBuild (job : Nat) (check : TaskCheck) (s : State) : Res := .next (s.lanternBuild job check.task check.passed)

/-- LANTERN_DROP waits for the jobs that hold the entry; w6 is the extent it frees, 0 where no entry exists (R161, R168). -/
def State.lanternDrop (s : State) (id : Nat) : State :=
  s.during id 0x0211 fun j =>
    match s.lanternFor j with
    | none => s.finish id []
    | some e =>
      if e.pins.isEmpty then (s.modJob id fun j => { j with drawn := [e.id] }).stageResult id jsOk e.size [] else s

def execLanternDrop (job : Nat) (s : State) : Res := .next (s.lanternDrop job)

end Sys2Proof.Machine
end

