-- ==== Sys2Proof/Machine/WickDma.lean ====
section
/-! DEFINITION. Reservoir DMA of a wick (R275 to R277), naps (R283, R284), the cycle budget (R285) and program loads (R286, R287). -/

namespace Sys2Proof.Machine

/-! ### Transfers -/

/-- The area of a reservoir address: 1 to 6, or 0 for none (R42, R346). -/
def State.areaOf (s : State) (a : Nat) : Nat :=
  if a < s.layout.1 then 1
  else if a < s.layout.2.1 then 2
  else if a < s.layout.2.2 then 3
  else if a < s.entry Key.reservoirLayoutSessionBase then 4
  else if a < s.entry Key.reservoirLayoutDumpBase then 5
  else if a < s.entry Key.reservoirLayoutUsableBytes then 6
  else 0

/-- The wick's MPU allows an access of usable reservoir (R41, R266). -/
def State.mpuAllows (s : State) (x : Wick) (addr len : Nat) (wr : Bool) : Bool :=
  addr + len ≤ s.entry Key.reservoirLayoutUsableBytes && x.mpuAllows addr len wr

/-- Bytes of a transfer's word (R275). -/
def DmaTransfer.wordBytes (d : DmaTransfer) : Nat := if d.p72 then 9 else 8

/-- Bytes of a transfer. -/
def DmaTransfer.length (d : DmaTransfer) : Nat := d.words * d.wordBytes

/-- The transfer a descriptor describes; none for reserved bits or formats, an address that is no multiple of 8, and P72 at LEVEL1 (R275, R293). -/
def Wick.descriptor (x : Wick) (write : Bool) (addr desc : Nat) : Option DmaTransfer :=
  let fmt := bitsOf desc 31 30
  if bitsOf desc 71 32 ≠ 0 || bitsOf desc 15 14 ≠ 0 || 1 < fmt || (x.level1 && fmt = 1) || addr % 8 ≠ 0 then none
  else some { write := write, local_ := bitsOf desc 13 0, words := bitsOf desc 29 16 + 1, address := addr, p72 := fmt = 1 }

/-- The local words of a transfer. -/
def DmaTransfer.locals (d : DmaTransfer) : List Nat := span d.local_ d.words

/-- The bytes a write takes from data memory, in ascending reservoir address (R275). -/
def Wick.outBytes (x : Wick) (d : DmaTransfer) : Bytes := d.locals.flatMap fun a => leBytes d.wordBytes (x.word a).toNat

/-- Cut a write into reservoir lines of 64 bytes. -/
def lineParts (tag : Nat) : Nat → Nat → Bytes → List (Nat × Nat × Bytes)
  | 0, _, _ => []
  | fuel + 1, a, b =>
    let n := 64 - a % 64
    if b.isEmpty then [] else (tag, a, b.take n) :: lineParts tag fuel (a + n) (b.drop n)

/-- A DMA instruction up to the point where it issues (R262, R275): its descriptor, its local range, granules, and a tag that is free. -/
def State.startTransfer (s : State) (w : Nat) (write : Bool) (rs1 rs2 : BitVec 5) (tag : BitVec 3) (rsv : BitVec 9) (k : State → Wick → DmaTransfer → Issue) : State :=
  s.issue w fun s x =>
    if rsv ≠ 0 then .fault .illegal else
    match x.descriptor write (x.reg rs1).toNat (x.reg rs2).toNat with
    | none => .fault .illegal
    | some d =>
      if 0x4000 < d.local_ + d.words then .fault .address
      else if d.locals.any x.secret then .fault .secret
      else if x.dma.any (fun p => p.1 = tag.toNat) then .stall s x .tag
      else k s x d

/-- R275: a read, checked whole by the MPU as it issues; its words arrive at DMA_COMPLETE. -/
def execDmar (w : Fin 256) (_rd rs1 rs2 : BitVec 5) (tag : BitVec 3) (rsv : BitVec 9) (s : State) : Res :=
  .next (s.startTransfer w false rs1 rs2 tag rsv fun s x d =>
    if !s.mpuAllows x d.address d.length false then .fault (.mpu d.address)
    else .ok s { x.advance (x.issueAt [rs1, rs2] [] [] 0) 1 with dma := putOption x.dma tag.toNat (some d) })

/-- R275: a write: its bytes enter the write buffer as lines, each checked as it leaves. Words still arriving under a read hold it back, so that no partly transferred word is sent (R276). -/
def execDmaw (w : Fin 256) (_rd rs1 rs2 : BitVec 5) (tag : BitVec 3) (rsv : BitVec 9) (s : State) : Res :=
  .next (s.startTransfer w true rs1 rs2 tag rsv fun s x d =>
    match x.interlock d.locals false with
    | some t => .stall s x (.dma t)
    | none =>
      let lines := lineParts tag.toNat (d.length / 64 + 2) d.address (x.outBytes d)
      .ok s { x.advance (x.issueAt [rs1, rs2] [] [] 0) 1 with dma := putOption x.dma tag.toNat (some d), writeBuffer := x.writeBuffer ++ lines })

/-- R275: waits until the transfer TAG is complete; RD, RS1 and RS2 must be 0. -/
def execDwait (w : Fin 256) (rd rs1 rs2 : BitVec 5) (tag : BitVec 3) (rsv : BitVec 9) (s : State) : Res :=
  .next (s.issue w fun s x =>
    if rd ≠ 0 || rs1 ≠ 0 || rs2 ≠ 0 || rsv ≠ 0 then .fault .illegal
    else if x.dma.any (fun p => p.1 = tag.toNat) then .stall s x (.dma tag.toNat)
    else .ok s (x.advance x.cycles 1))

/-- The words a read brings (R275): P64 words have bits [71:64] zero. -/
def State.arrivingWords (s : State) (d : DmaTransfer) : List Word72 :=
  let b := s.readReservoir d.address d.length
  (List.range d.words).map fun i => BitVec.ofNat 72 (field b (d.wordBytes * i) d.wordBytes)

/-- The wick serves an attempt in a device that is LIT and not stopped. -/
def State.wickLive (s : State) (w : Nat) : Bool := s.isLit && s.fatal.isNone && s.attemptOn w

/-- Reservoir bytes, in whole lines, that the slice of a wick's job reads or writes (R338, R350). -/
def State.chargeSlice (s : State) (x : Wick) (n : Nat) (write : Bool) : State :=
  match (match x.job with | some id => s.findJob id | none => none) with
  | none => s
  | some j => s.bumpBy (if write then Key.reservoirSliceBytesWritten j.slice else Key.reservoirSliceBytesRead j.slice) n

/-- R276, R284: a transfer completes: a read's words are in place, a write's lines have all passed their check; the tag and its interlocks are free, and a nap that waited for it ends. -/
def execDmaComplete (w : Fin 256) (tag : BitVec 3) (s : State) : Res :=
  .next (
    let x := s.wick w
    if !s.wickLive w then s else
    match x.dma.find? (fun p => p.1 = tag.toNat) with
    | none => s
    | some (_, d) =>
      if d.write && x.writeBuffer.any (fun l => l.1 = tag.toNat) then s else
      let lines := (d.address + d.length - 1) / 64 - d.address / 64 + 1
      let s := if d.write then s else s.chargeSlice x (64 * lines) false
      let y := if d.write then x else x.setWords d.local_ (s.arrivingWords d)
      let ends := x.stall = .dma tag.toNat || x.stall = .drain
      s.setWick w { y with dma := putOption x.dma tag.toNat none, napping := x.napping && !ends })

/-- The line the DMA engine sends next (R283): a transfer's lines go in their order, and the oldest goes first, unless its channel's hint is at least NAP_MIN and another transfer's next line is bound for a channel whose hint is below it. -/
def Wick.nextWrite (x : Wick) : Option (Nat × Nat × Bytes) :=
  match x.writeBuffer with
  | [] => none
  | l :: rest =>
    let heads := rest.filter fun m => m.1 ≠ l.1 && decide (x.nextLine m.1 = some m.2.1)
    if x.hintFor l.2.1 < x.napMin then some l
    else match heads.find? (fun m => x.hintFor m.2.1 < x.napMin) with
      | some m => some m
      | none => some l

/-- R275, R368: the next line leaves the write buffer and is checked under the epoch current now. One that violates is dropped with an imprecise notice, and the attempt ends with the MPU fault (R281, R285). -/
def execDmawLineCheck (w : Fin 256) (s : State) : Res :=
  .next (
    let x := s.wick w
    if !s.wickLive w then s else
    match x.nextWrite with
    | none => s
    | some (g, a, b) =>
      let t := s.setWick w { x with writeBuffer := x.writeBuffer.erase (g, a, b) }
      if s.mpuAllows x a b.length true then (t.writeReservoir a b).chargeSlice x 64 true
      else
        let slc := match x.job with | some id => (match s.findJob id with | some j => uSlice j.slice | none => 0) | none => 0
        (t.notice (s.areaOf a) (uWick w) slc x.mpuEpoch.toNat).wickFault w .imprecise)

/-! ### Naps, budget, loads -/

/-- R284: the clocks of a napping wick restart; the core waits for its data. -/
def execNapWake (w : Fin 256) (s : State) : Res :=
  .next (
    let x := s.wick w
    if x.napping then s.setWick w { x with napping := false } else s)

/-- R285: the attempt's cycle count reaches MAX_CYCLES: the cycle-budget fault of a vendor attempt, FORMAT for an owner's job. A program with MAX_CYCLES 0 has no budget (R286). -/
def execCycleBudgetExceeded (w : Fin 256) (s : State) : Res :=
  .next (
    let x := s.wick w
    match x.program with
    | none => s
    | some p =>
      if !s.wickLive w || p.maxCycles = 0 then s
      else (s.setWick w (x.passTo p.maxCycles)).wickFault w .budget)

/-- R287: the load engine loads a vendor program of the library store into a wick that serves no attempt. -/
def execProgramLoad (w : Fin 256) (image : Bytes) (s : State) : Res :=
  .next (
    let x := s.wick w
    if !s.isLit || s.fatal.isSome || !s.inService (uWick w) || s.entry (Key.sconcePowerState (sconceOf w)) ≠ 1 || x.job.isSome || !s.library.contains image || !imageFormOk 1 image then s else
    (s.setWick w (x.loadImage image)).bump (Key.wickStatusProgramLoads w))

end Sys2Proof.Machine
end

