-- ==== Sys2Proof/Machine/WickSystem.lean ====
section
/-! DEFINITION. The SYS group and the control registers of a wick (R265, R281, R282, R291, R323). -/

namespace Sys2Proof.Machine

/-! ### Control registers -/

/-- STATUS bits [5:0] (R265). -/
def Wick.statusBits (x : Wick) : Nat :=
  (if x.keyed then 32 else 0) + (if x.sponge.taint then 16 else 0) + (if x.owner then 8 else 0) + (if x.gang then 4 else 0) +
    (if x.order2 then 2 else 0) + (if x.level1 then 1 else 0)

/-- FVSTAT (R323). -/
def Island.code : Island → Nat
  | .off => 0
  | .waking _ _ => 1
  | .on => 2
  | .saving _ => 3

/-- The value of a control register; reserved ones read zero (R265, R266, R323), and c32 to c63 do at LEVEL1 (R293). -/
def State.controlReg (s : State) (w : Nat) (x : Wick) (c : Nat) : Nat :=
  if x.level1 && 32 ≤ c then 0
  else if c = 0 then (w % 16) * 2 ^ 20 + sconceOf w * 2 ^ 16 + (uWick w).toNat
  else if c = 1 then x.wkrAlg.toNat * 256 + x.statusBits
  else if c = 2 then
    match (match x.job with | some id => s.findJob id | none => none) with
    | none => 0
    | some j => j.slice * 2 ^ 32 + bitsOf j.entry.w0.toNat 3 0 * 2 ^ 24 + j.entry.alg * 2 ^ 16 + j.entry.opcode
  else if c = 3 then x.cycles
  else if c = 4 then x.hint.toNat
  else if c = 5 then x.napCtl.toNat
  else if c = 6 then x.shroud.consumed
  else if c = 8 then x.mod.toNat
  else if c = 9 then x.stags.toNat
  else if c = 10 then (if x.shroud.rekeying then 256 else 0) + x.shroud.fifo
  else if c = 12 then x.island.code
  else if c = 13 then x.fvIdle
  else if 16 ≤ c && c < 32 then (Table.get (fun _ => (0 : Word72)) x.mpu (c - 16)).toNat
  else if c = 32 then (x.gmask.setWidth 64).toNat
  else if c = 33 then (x.gmask >>> 64).toNat
  else if c = 40 then x.svBeats
  else if c = 41 then x.svmBeats
  else 0

/-- R282: rd := c[CREG]; RS1 and the reserved bits must be 0. -/
def execCr (w : Fin 256) (rd rs1 : BitVec 5) (creg : BitVec 6) (rsv : BitVec 14) (s : State) : Res :=
  .next (s.scalar w (fun _ => rs1 = 0 && rsv = 0) rd [] 1 fun x => BitVec.ofNat 72 (s.controlReg w x creg.toNat))

/-- NAPCTL as a write leaves it: each field at its value or the nearest limit (R265). -/
def napLimits (v : Nat) : BitVec 17 :=
  BitVec.ofNat 17 (bitsOf v 16 16 * 2 ^ 16 + max 1 (bitsOf v 15 12) * 2 ^ 12 + max 16 (bitsOf v 11 0))

/-- R282: c[CREG] := rs1 in 2 cycles; a read-only or reserved register is illegal (R265, R293, R323). -/
def execCw (w : Fin 256) (rd rs1 : BitVec 5) (creg : BitVec 6) (rsv : BitVec 14) (s : State) : Res :=
  .next (s.issue w fun s x =>
    let v := x.reg rs1
    let y := x.advance (x.issueAt [rs1] [] [] 0) 2
    if rd ≠ 0 || rsv ≠ 0 then .fault .illegal
    else if creg = 5 then .ok s { y with napCtl := napLimits v.toNat }
    else if creg = 8 then .ok s { y with mod := v }
    else if creg = 13 then .ok s { y with fvIdle := min 16777216 (max 1024 (bitsOf v.toNat 24 0)) }
    else .fault .illegal)

/-! ### The SYS group (R281) -/

/-- R281: nothing, for one cycle; RD and IMM20[15:8] must be 0. -/
def execNop (w : Fin 256) (rd _rs1 : BitVec 5) (rsv : BitVec 8) (_code : BitVec 8) (s : State) : Res :=
  .next (s.issue w fun s x => if rd ≠ 0 || rsv ≠ 0 then .fault .illegal else .ok s (x.advance x.cycles 1))

/-- The wick has transfers or lines outstanding (R281). -/
def Wick.draining (x : Wick) : Bool := !x.dma.isEmpty || !x.writeBuffer.isEmpty

/-- R281: waits until every transfer is complete and every line has passed its check. -/
def execFence (w : Fin 256) (rd _rs1 : BitVec 5) (rsv : BitVec 8) (_code : BitVec 8) (s : State) : Res :=
  .next (s.issue w fun s x =>
    if rd ≠ 0 || rsv ≠ 0 then .fault .illegal
    else if x.draining then .stall s x .fence
    else .ok s (x.advance x.cycles 1))

/-- R281: ends the attempt with the program fault, which carries the code. -/
def execTrap (w : Fin 256) (rd _rs1 : BitVec 5) (rsv : BitVec 8) (code : BitVec 8) (s : State) : Res :=
  .next (s.issue w fun _ _ => if rd ≠ 0 || rsv ≠ 0 then .fault .illegal else .fault (.program code))

/-- What the DONEs of a vendor attempt give its job: the result of the job's algorithm, with the outcome of the attempt's own check; of a lantern build, that of one task (log 45). -/
def State.vendorResult (s : State) (j : Job) (task : Nat) (check : Bool) : State :=
  let op := j.entry.opcode
  if op = 0x0101 then s.kemKeygen j.id check
  else if op = 0x0102 then s.kemEncaps j.id check
  else if op = 0x0103 then s.kemDecaps j.id check
  else if op = 0x0201 then s.sigKeygen j.id check
  else if op = 0x0202 then s.sigSign j.id check
  else if op = 0x0203 then s.sigVerify j.id check
  else if op = 0x0210 then s.lanternBuild j.id task check
  else if op = 0x0501 then s.clKeygen j.id check
  else if op = 0x0502 then s.clSign j.id check
  else if op = 0x0503 then s.clVerify j.id check
  else if op = 0x0611 then s.attest j.id
  else s

/-- The statuses with which a vendor program may end a job (R82, R83): a verification result only where the job verifies. -/
def vendorStatus (op status : Nat) : Bool :=
  status = jsOk || status = jsKeyInvalid || status = jsFormat || (status = jsVerifyFail && (op = 0x0203 || op = 0x0503))

/-- The wicks that run the attempt a wick serves, in order, with the number of its task in a lantern build (R163). -/
def Job.attemptWicks (j : Job) (w : Nat) : List Nat × Nat :=
  match j.build with
  | none => (unitsOfClass j.units 1, 0)
  | some b =>
    match b.tasks.find? (fun t => t.units.contains (uWick w)) with
    | some t => (unitsOfClass t.units 1, t.number)
    | none => ([], 0)

/-- DONE after its drain: an owner program's ends its job by R291. A wick of a vendor attempt stays at its DONE until every wick of the attempt has reached its own; then the first wick's status ends the attempt, and those of the others are the outcome of its check, 00h where it passed (R86, log 45). A status no job of the opcode has is a program fault. -/
def State.wickDone (s : State) (w : Nat) (x : Wick) (status len : Nat) : Issue :=
  match (match x.job with | some id => s.findJob id | none => none) with
  | none => .ok s x
  | some j =>
    let y := { x.passTo (x.cycles + 1) with doneWith := some (BitVec.ofNat 8 status) }
    let a := j.attemptWicks w
    let others := a.1.filter fun v => v ≠ w
    let first := a.1.head? = some w
    if x.owner then .ended (s.ownerDone j status len)
    else if isObject j.entry.opcode then .ok s y
    else if first && !vendorStatus j.entry.opcode status then .fault (.program (BitVec.ofNat 8 status))
    else if others.any (fun v => (s.wick v).doneWith.isNone) then .ok s y
    else
      let s := s.setWick w y
      let lead := match a.1 with | v :: _ => ((s.wick v).doneWith.getD 0).toNat | [] => jsOk
      let check := (a.1.drop 1).all fun v => (s.wick v).doneWith = some 0
      if lead = jsOk || !check then .ended (s.vendorResult j a.2 check) else .ended (s.failJob j.id lead)

/-- R281, R291: drains as FENCE, then ends the attempt with a status and a result length. -/
def execDone (w : Fin 256) (rd rs1 : BitVec 5) (rsv : BitVec 8) (code : BitVec 8) (s : State) : Res :=
  .next (s.issue w fun s x =>
    if rd ≠ 0 || rsv ≠ 0 then .fault .illegal
    else if x.draining then .stall s x .drain
    else s.wickDone w x code.toNat (x.reg rs1).toNat)

end Sys2Proof.Machine
end

