-- ==== Sys2Proof/Machine/Dump.lean ====
section
/-! DEFINITION. The dump of a fatal stop (R645 to R647), its copy in host memory (R649), and the end of steps 4 and 5 of R641. -/

namespace Sys2Proof.Machine

/-- A record: its header, its value, and zeros up to a multiple of 8 (R646). -/
def dumpRecord (type : Nat) (value : Bytes) : Bytes :=
  leBytes 2 type ++ leBytes 2 0 ++ leBytes 4 value.length ++ value ++ List.replicate (8 * ceilDiv value.length 8 - value.length) 0#8

/-- The OPCODE and the slice unit of the attempt that a unit served, zero where it served none (R646, R647). -/
def State.dumpAttempt (s : State) (job : Option Nat) : Bytes :=
  match (match job with | some id => s.findJob id | none => none) with
  | some j => leBytes 2 j.entry.opcode ++ leBytes 2 (uSlice j.slice).toNat
  | none => leBytes 4 0

/-- EVENTS: the ring, oldest first (R632, R646). -/
def State.dumpEvents (s : State) : Bytes :=
  let next := s.entry Key.faultLogNextSeq
  (span next 1024).flatMap fun n => Table.get (fun _ => []) s.eventLog (n % 1024)

/-- UNIT_HEALTH (R646, R653). -/
def State.dumpHealth (s : State) : Bytes :=
  fencible.flatMap fun u =>
    let k := (healthIndex u).getD 0
    leBytes 2 u.toNat ++ leBytes 1 (s.health u) ++ leBytes 1 (s.entry (k * 256 + 3)) ++ leBytes 4 (s.entry (k * 256 + 2))

/-- WICKS (R646): attempts have ended, so a wick in service is idle. -/
def State.dumpWicks (s : State) : Bytes :=
  (List.range 256).flatMap fun w =>
    let x := s.wick w
    let st := s.wickState w
    leBytes 2 (uWick w).toNat ++ leBytes 1 (if st = 1 || st = 2 then 0 else st) ++ leBytes 1 x.statusBits ++
      leBytes 4 (match x.program with | some p => if p.owner then 0 else p.id | none => 0) ++ leBytes 2 x.pc.toNat ++ s.dumpAttempt x.job ++ leBytes 2 0

/-- TAPERS (R646). -/
def State.dumpTapers (s : State) : Bytes :=
  (List.range 8).flatMap fun t =>
    let x := s.taper t
    let st := s.taperState t
    leBytes 2 (uTaper t).toNat ++ leBytes 1 (if st = 1 then 0 else st) ++ leBytes 1 (s.entry (Key.taperStatusStrike t)) ++ leBytes 2 x.address.toNat ++
      s.dumpAttempt x.job ++ leBytes 6 0

/-- QUEUES: every assigned slot (R646). -/
def State.dumpQueues (s : State) : Bytes :=
  ((List.range 2048).filter fun g => s.slotSlice g ≠ 0xFFFF).flatMap fun g =>
    leBytes 2 g ++ leBytes 2 (uSlice (s.slotSlice g)).toNat ++ leBytes 2 (s.entry (Key.queueSlotLocalQueue g)) ++ leBytes 1 (s.queueState g) ++
      leBytes 1 (s.entry (Key.queueSlotKind g)) ++ leBytes 4 (s.entry (Key.queueSlotPublished g)) ++ leBytes 4 (s.entry (Key.queueSlotFetchPoint g)) ++
      leBytes 4 (s.inFlight g) ++ leBytes 4 0

/-- The RSN of the last record of which bytes were sent: by the device on an egress stream, by the peer, whole, on the others (log 46). -/
def State.lastSent (s : State) (n : Nat) : BitVec 32 :=
  let x := s.stream n
  if s.streamDir n = 0 then
    match (x.records.filter fun r => 0 < r.offset).getLast? with
    | some r => r.rsn
    | none => x.ackedRsn
  else x.nextRsn - 1

/-- The RSN of the last record acknowledged or committed. -/
def State.lastAcked (s : State) (n : Nat) : BitVec 32 :=
  if s.streamDir n = 0 then (s.stream n).ackedRsn else (s.stream n).committed.getD 0

/-- STREAMS: every enabled stream (R646). -/
def State.dumpStreams (s : State) : Bytes :=
  s.liveStreams.flatMap fun n =>
    leBytes 2 (uStream n).toNat ++ leBytes 1 (s.streamState n) ++ leBytes 1 (s.entry (Key.mediaStreamStep n)) ++ leBytes 4 (s.entry (Key.mediaStreamEpoch n)) ++
      leBytes 4 (s.lastSent n).toNat ++ leBytes 4 (s.lastAcked n).toNat ++ leBytes 8 (s.streamLevel n) ++ leBytes 8 0

/-- COUNTERS: every counter entry of the dictionary, an entry with an overflow bit (R20, R646). -/
def State.dumpCounters (s : State) : Bytes :=
  dictObjects.flatMap fun (o : DictObject) => (span o.base o.count).flatMap fun i => o.ovf.flatMap fun (p : Nat × Nat × Nat) =>
    leBytes 2 i ++ leBytes 1 p.1 ++ leBytes 1 (if bitOf (s.entry (i * 256 + p.2.1)) p.2.2 then 1 else 0) ++ leBytes 4 0 ++ leBytes 8 (s.entry (i * 256 + p.1))

/-- POWER: 699 domain states, 16 sconce levels, and DeviceState before the stop (R646). -/
def State.dumpPower (s : State) (f : FatalStop) : Bytes :=
  ((List.range 699).flatMap fun d => leBytes 1 (s.domainState d)) ++
    ((List.range 16).flatMap fun c => leBytes 1 (s.entry (Key.sconcePowerCurrentLevel c))) ++ [f.before]

/-- TAMPER: the 16 log records (R616, R646). -/
def State.dumpTamper (s : State) : Bytes := (List.range 16).flatMap fun n => leBytes 24 (s.entry (Key.tamperLogRecord n))

/-- RESERVOIR (R646). -/
def State.dumpChannels (s : State) : Bytes :=
  (List.range 64).flatMap fun c =>
    leBytes 2 (uChannel c).toNat ++ leBytes 1 (s.channelState c) ++ leBytes 1 0 ++ leBytes 4 (s.entry (Key.channelStatusLinesLost c)) ++
      leBytes 4 (s.entry (Key.channelStatusTagRereads c)) ++ leBytes 4 (s.entry (Key.channelStatusLinkCorrected c))

/-- The records, TRIGGER first and END last, the others by rising TYPE (R646). pc, cause and trace of the lamplighter are free bytes: the spec gives the lamplighter no state of its own. -/
def State.dumpRecords (s : State) (f : FatalStop) (lamplighter : Bytes) : List Bytes :=
  [dumpRecord 0x01 f.event.record, dumpRecord 0x02 s.dumpEvents, dumpRecord 0x03 s.dumpHealth, dumpRecord 0x04 s.dumpWicks,
   dumpRecord 0x05 s.dumpTapers, dumpRecord 0x06 s.dumpQueues, dumpRecord 0x07 s.dumpStreams, dumpRecord 0x08 s.dumpCounters,
   dumpRecord 0x09 lamplighter, dumpRecord 0x0A (s.dumpPower f), dumpRecord 0x0B s.dumpTamper, dumpRecord 0x0C s.dumpChannels,
   dumpRecord 0xFF []]

/-- The 64-byte header over a body of records, with FLAGS (R645). -/
def State.dumpHeader (s : State) (f : FatalStop) (flags records : Nat) (body : Bytes) : Bytes :=
  let h := [0x50#8, 0x59#8, 0x52#8, 0x44#8, 0x01#8] ++ leBytes 1 flags ++ leBytes 2 records ++ leBytes 16 Config.unitId.toNat ++
    leBytes 8 f.event.time.toNat ++ leBytes 4 (64 + body.length) ++ leBytes 4 (s.entry Key.bootControlFirmwareVersion) ++ leBytes 2 s.lifeCycle ++
    leBytes 2 f.event.code.toNat ++ leBytes 2 f.event.accused.toNat ++ leBytes 2 f.event.detector.toNat ++
    leBytes 4 (s.entry Key.faultCollectorFatalCount) ++ leBytes 4 (crc32c body)
  h ++ leBytes 4 (crc32c h) ++ leBytes 4 0

/-- The host copy may be written (R649). -/
def State.dumpCopyOk (s : State) (n len : Nat) : Bool :=
  n < 512 && s.fnIssues (s.sliceLink n) && len ≤ s.entry Key.dumpControlDumpHostSize && s.hostAllows n (s.entry Key.dumpControlDumpHostAddr) len false true

/-- The host copy in one pass, header last, then its vector (R648, R649). -/
def State.copyDump (s : State) (n : Nat) (dump : Bytes) : State :=
  let a := s.entry Key.dumpControlDumpHostAddr
  let l := s.sliceLink n
  let put := fun (s : State) (off : Nat) (b : Bytes) =>
    s.emit (.hostWrite { link := l, pasid := s.slicePasid n, kind := .dump, slot := 0, job := 0, address := BitVec.ofNat 64 (a + off), bytes := b })
  let s := put (put s 64 (dump.drop 64)) 0 (dump.take 64)
  let v := s.entry Key.dumpControlDumpVector
  if v < 2048 then s.signalVector l v else s

/-- Steps 4 to 6 of R641: the dump is written, copied when a copy is configured, and the ROM serves. -/
def State.writeDump (s : State) (f : FatalStop) : State :=
  let (lamp, s) := s.drawBytes 65544
  let records := s.dumpRecords f lamp
  let body := records.flatten
  let header := fun (flags : Nat) => s.dumpHeader f flags records.length body
  let n := s.entry Key.dumpControlDumpSlice
  let copied := s.dumpCopyOk n (64 + body.length)
  let t := if copied then s.copyDump n (header 1 ++ body) else s
  let flags := if n = 0xFFFF then 1 else if copied then 3 else 5
  { t with dump := header flags ++ body, fatal := some { f with served := true } }.handover (some .rom)

/-- R645, R641: the dump is written, copied to the host when configured, and the ROM serves. -/
def execDumpComplete (s : State) : Res :=
  .next (
    match s.fatal with
    | none => s
    | some f => if f.served then s else s.writeDump f)

end Sys2Proof.Machine
end

