-- ==== Sys2Proof/Machine/Entropy.lean ====
section
/-! DEFINITION. The commands of the entropy block (R480, R484 to R496). -/

namespace Sys2Proof.Machine

/-- R484: an ember's start-up test ends. Once no ember is left TESTING after a power-up, the start-up tests have ended and GUTTER is judged (R489, R495). -/
def execEmberStartupTestEnd (ember : Fin 4) (passed : Bool) (s : State) : Res :=
  .next (
    if !s.hubOn || s.ember ember.val ≠ .testing then s else
    let s := if passed then s.setEmber ember.val .healthy else s.emberFails ember.val
    let done := (List.range 4).all fun e => s.ember e ≠ .testing
    let s := { s with entropy := { s.entropy with startupDone := s.entropy.startupDone || done } }
    s.settleGutter)

/-- R484: EmberRetryMs after it failed, an ember starts a start-up test. -/
def execEmberRetry (ember : Fin 4) (s : State) : Res :=
  .next (if s.hubOn && s.ember ember.val = .failed then s.setEmber ember.val .testing else s)

/-- R484: a HEALTHY ember fails a health test; its block in progress is discarded. -/
def execEmberHealthFailure (ember : Fin 4) (s : State) : Res :=
  .next (
    if !s.hubOn || s.ember ember.val ≠ .healthy then s else
    (s.emberFails ember.val).settleGutter)

/-- The repetition count test fails: 55 consecutive samples are alike (R483). `run` samples like `last` came before. -/
def repetitionFails : Nat → Bool → List Bool → Bool
  | _, _, [] => false
  | run, last, b :: rest =>
    let run := if b = last then run + 1 else 1
    55 ≤ run || repetitionFails run b rest

/-- The samples of a block, in their order. -/
def blockSamples (x : BitVec 512) : List Bool := (List.range 512).map fun i => x.getLsbD i

/-- R485: a block of a HEALTHY ember ends with its 512 samples; one that fails the repetition count test fails the ember (R483, R484). With the output of a block from another ember it forms a seed; seeds are made neither in GUTTER nor after the conditioner failed (R492, R496). -/
def execBlockComplete (ember : EmberBlock) (s : State) : Res :=
  .next (
    if !s.hubOn || s.ember ember.ember.val ≠ .healthy || s.entropy.gutter || s.entropy.failed then s
    else if repetitionFails 0 false (blockSamples ember.samples) then (s.emberFails ember.ember.val).settleGutter
    else s.takeBlock ember.ember.val (leBytes 64 ember.samples.toNat))

/-- The instance that must be ready before instance i is instantiated: the hub first, then 0 to 15 in order (R480, R489). -/
def instanceBefore (i : Nat) : Option Nat := if i = 16 then none else if i = 0 then some 16 else some (i - 1)

/-- R480, R489: an instance is instantiated from a seed of new blocks; with the hub instance the vault session key is drawn where none is held (R455). -/
def execDrbgInstantiate (inst : Fin 17) (s : State) : Res :=
  .next (
    let before := match instanceBefore inst.val with
      | some k => (s.drbg k).ready
      | none => true
    if !s.hubOn || (s.drbg inst.val).ready || !before || s.entropy.pool.isEmpty || s.entropy.failed then s else
    let s := s.instantiate inst.val
    if inst.val = 16 && s.roots.vaultSession.isNone && s.hop.server = some .firmware then s.drawVaultSession else s)

/-- R488: a reseed that is due. -/
def execDrbgReseed (inst : Fin 17) (s : State) : Res := .next (s.reseed inst.val)

/-- R493, R496: the gutter timeout expires; every job that waits for randomness ends. -/
def execGutterTimeout (s : State) : Res :=
  .next (
    if !(s.entropy.gutter || s.entropy.failed) || s.entropy.expired then s else
    let s := { s with entropy := { s.entropy with expired := true } }
    let s := (s.jobs.filter fun j => j.waitsEntropy).foldl (fun s j => s.entropyEnds j.id) s
    s.entropyFault 0x0B03)

/-- R490: a write of KatRequest runs the tests with their outcome. -/
def execKatRequest (path : Path) (value : BitVec 8) (failing : BitVec 18) (s : State) : Res :=
  .next (s.writeBy path 0x8010 8 [value] fun s => if value = 1 then s.runKats failing.toNat else s)

end Sys2Proof.Machine
end

