-- ==== Sys2Proof/Machine/ForerunnerVectors.lean ====
section
/-! DEFINITION. The FV unit of a wick and its power island (R324 to R332). -/

namespace Sys2Proof.Machine

/-! ### The island -/

/-- The sconce of a wick runs at this performance level; 6 while the level changes (R599). -/
def State.steadyLevel (s : State) (w : Nat) : Nat :=
  if s.entry (Key.sconcePowerState (sconceOf w)) = 1 then s.entry (Key.sconcePowerCurrentLevel (sconceOf w)) else 6

/-- Wick cycles of a wake's 400 ns at P0 to P5 (R328). -/
def wakeCycles : List Nat := [640, 580, 520, 440, 360, 240]

/-- The island powers up, after the cycles a save still takes, and the wick waits (R328, R329). -/
def State.beginWake (s : State) (w : Nat) (x : Wick) (after : Nat) : Issue :=
  .stall ((s.bump Key.wickVectorsFvWakes).bump (Key.powerDomainPowerUps (0x100 + w))) { x with island := .waking (s.steadyLevel w) after } .fvWake

/-- An FV instruction reaches issue (R328, R329, R332): on a fenced island it faults; while the island is off it powers up and the wick waits; while it wakes or saves, the wick waits; on it, the instruction goes on and the idle counter is loaded again. -/
def State.fvIssue (s : State) (w : Nat) (k : State → Wick → Issue) : State :=
  s.issue w fun s x =>
    if !s.inService (uIsland w) then .fault .island else
    match x.island with
    | .on => k s { x with idleCount := x.fvIdle }
    | .off => s.beginWake w x 0
    | .waking _ _ => .stall s x .fvWake
    | .saving n => s.beginWake w x n

/-- The wick waited for the wake, which took the cycles of R328 where the sconce stayed at one level; the cycles of a wake in which it changes are not stated: they are a free value (R329, log 22). -/
def State.wakeWait (s : State) (w : Nat) (x : Wick) (level after : Nat) : Wick × State :=
  if x.stall ≠ .fvWake then (x, s)
  else if level = s.steadyLevel w && level < 6 then ({ x.passTo (x.cycles + after + wakeCycles.getD level 0) with stall := .none }, s)
  else ({ x.passTo (x.cycles + s.draw.1) with stall := .none }, s.draw.2)

/-- R328: 400 ns after it began, the wake ends: the island is on, the f registers are restored and the idle counter is loaded. -/
def execFvWakeComplete (w : Fin 256) (s : State) : Res :=
  .next (
    let x := s.wick w
    match x.island with
    | .waking level after =>
      let p := s.wakeWait w x level after
      p.2.setWick w { p.1 with island := .on, idleCount := x.fvIdle }
    | _ => s)

/-- R328, R331: the idle counter of a wick reaches 0, its clock having run that long since its last instruction or attempt: the f registers are saved in 8 cycles and the island powers off. -/
def execFvIdleExpiry (w : Fin 256) (s : State) : Res :=
  .next (
    let x := s.wick w
    if x.island = .on then
      let y := if x.job.isSome then x.passTo (x.cycles + x.idleCount) else x
      (s.setWick w { y with island := .saving 8, idleCount := 0 }).bump Key.wickVectorsFvPowerDowns
    else s)

/-- R332: a wake that is not complete 2 µs after it began faults the island. -/
def execFvWakeTimeout (w : Fin 256) (s : State) : Res :=
  .next (
    let x := s.wick w
    match x.island with
    | .waking _ _ =>
      if !s.isLit || s.fatal.isSome then s else
      let slc := match x.job with | some id => (match s.findJob id with | some j => uSlice j.slice | none => 0) | none => 0
      (s.setWick w { x with island := .off }).reportFault 0x0203 (uIsland w) (uWick w) slc 0
    | _ => s)

/-! ### Lane operations (OP 28h and 29h, R326) -/

/-- An FV instruction whose result is a new f register (R324, R326). -/
def State.fvResult (s : State) (w : Nat) (fd : BitVec 4) (srcs : List (BitVec 4)) (legal : Bool) (latency : Nat) (v : Wick → Nat) : State :=
  s.fvIssue w fun s x =>
    if !legal then .fault .illegal else
    let t := x.issueAt [] [] srcs 0
    .ok s ((x.advance t 1).setFreg fd (v x) (t + latency))

/-- A two-source lane operation. -/
def State.fvBinary (s : State) (w : Nat) (fd fs1 fs2 : BitVec 4) (ft : BitVec 2) (rsv : BitVec 10) (latency : Nat) (f : Nat → Nat → Nat → Nat) : State :=
  s.fvResult w fd [fs1, fs2] (rsv = 0) latency fun x =>
    joinElements (ftWidth ft) (List.zipWith (f (ftWidth ft)) (fvLanes (ftWidth ft) (x.freg fs1)) (fvLanes (ftWidth ft) (x.freg fs2)))

/-- A shift by an immediate below the lane width. -/
def State.fvShift (s : State) (w : Nat) (fd fs1 : BitVec 4) (ft : BitVec 2) (amount : BitVec 6) (rsv : BitVec 10) (f : Nat → Nat → Nat → Nat) : State :=
  s.fvResult w fd [fs1] (rsv = 0 && amount.toNat < ftWidth ft) 2 fun x =>
    joinElements (ftWidth ft) ((fvLanes (ftWidth ft) (x.freg fs1)).map fun e => f (ftWidth ft) e amount.toNat)

/-- Arithmetic right shift of a w-bit value. -/
def sraLane (w a n : Nat) : Nat := wrapInt w (signedOf w a / 2 ^ n)

/-- R326: a + b modulo 2^w. -/
def execFvAdd (w : Fin 256) (fd fs1 fs2 : BitVec 4) (ft : BitVec 2) (rsv : BitVec 10) (s : State) : Res := .next (s.fvBinary w fd fs1 fs2 ft rsv 2 (fun w a b => (a + b) % 2 ^ w))

/-- R326: a − b modulo 2^w. -/
def execFvSub (w : Fin 256) (fd fs1 fs2 : BitVec 4) (ft : BitVec 2) (rsv : BitVec 10) (s : State) : Res := .next (s.fvBinary w fd fs1 fs2 ft rsv 2 (fun w a b => (a + 2 ^ w - b) % 2 ^ w))

/-- R326: a and b. -/
def execFvAnd (w : Fin 256) (fd fs1 fs2 : BitVec 4) (ft : BitVec 2) (rsv : BitVec 10) (s : State) : Res := .next (s.fvBinary w fd fs1 fs2 ft rsv 2 (fun _ a b => a &&& b))

/-- R326: a or b. -/
def execFvOr (w : Fin 256) (fd fs1 fs2 : BitVec 4) (ft : BitVec 2) (rsv : BitVec 10) (s : State) : Res := .next (s.fvBinary w fd fs1 fs2 ft rsv 2 (fun _ a b => a ||| b))

/-- R326: a xor b. -/
def execFvXor (w : Fin 256) (fd fs1 fs2 : BitVec 4) (ft : BitVec 2) (rsv : BitVec 10) (s : State) : Res := .next (s.fvBinary w fd fs1 fs2 ft rsv 2 (fun _ a b => a ^^^ b))

/-- R326: a and not b. -/
def execFvAndn (w : Fin 256) (fd fs1 fs2 : BitVec 4) (ft : BitVec 2) (rsv : BitVec 10) (s : State) : Res := .next (s.fvBinary w fd fs1 fs2 ft rsv 2 (fun w a b => a &&& (2 ^ w - 1 - b)))

/-- R326: low w bits of the unsigned product. -/
def execFvMullo (w : Fin 256) (fd fs1 fs2 : BitVec 4) (ft : BitVec 2) (rsv : BitVec 10) (s : State) : Res := .next (s.fvBinary w fd fs1 fs2 ft rsv 4 (fun w a b => a * b % 2 ^ w))

/-- R326: high w bits of the unsigned product. -/
def execFvMulhu (w : Fin 256) (fd fs1 fs2 : BitVec 4) (ft : BitVec 2) (rsv : BitVec 10) (s : State) : Res := .next (s.fvBinary w fd fs1 fs2 ft rsv 4 (fun w a b => a * b / 2 ^ w))

/-- R326: left shift by lane i of FS2, modulo w. -/
def execFvSll (w : Fin 256) (fd fs1 fs2 : BitVec 4) (ft : BitVec 2) (rsv : BitVec 10) (s : State) : Res := .next (s.fvBinary w fd fs1 fs2 ft rsv 2 (fun w a b => a * 2 ^ (b % w) % 2 ^ w))

/-- R326: logical right shift by lane i of FS2, modulo w. -/
def execFvSrl (w : Fin 256) (fd fs1 fs2 : BitVec 4) (ft : BitVec 2) (rsv : BitVec 10) (s : State) : Res := .next (s.fvBinary w fd fs1 fs2 ft rsv 2 (fun w a b => a / 2 ^ (b % w)))

/-- R326: arithmetic right shift by lane i of FS2, modulo w. -/
def execFvSra (w : Fin 256) (fd fs1 fs2 : BitVec 4) (ft : BitVec 2) (rsv : BitVec 10) (s : State) : Res := .next (s.fvBinary w fd fs1 fs2 ft rsv 2 (fun w a b => sraLane w a (b % w)))

/-- R326: unsigned minimum. -/
def execFvMinu (w : Fin 256) (fd fs1 fs2 : BitVec 4) (ft : BitVec 2) (rsv : BitVec 10) (s : State) : Res := .next (s.fvBinary w fd fs1 fs2 ft rsv 2 (fun _ a b => min a b))

/-- R326: unsigned maximum. -/
def execFvMaxu (w : Fin 256) (fd fs1 fs2 : BitVec 4) (ft : BitVec 2) (rsv : BitVec 10) (s : State) : Res := .next (s.fvBinary w fd fs1 fs2 ft rsv 2 (fun _ a b => max a b))

/-- R326: all ones where a = b. -/
def execFvCmpeq (w : Fin 256) (fd fs1 fs2 : BitVec 4) (ft : BitVec 2) (rsv : BitVec 10) (s : State) : Res := .next (s.fvBinary w fd fs1 fs2 ft rsv 2 (fun w a b => maskNat w (a = b)))

/-- R326: all ones where a > b unsigned. -/
def execFvCmpgtu (w : Fin 256) (fd fs1 fs2 : BitVec 4) (ft : BitVec 2) (rsv : BitVec 10) (s : State) : Res := .next (s.fvBinary w fd fs1 fs2 ft rsv 2 (fun w a b => maskNat w (b < a)))

/-- R326: unsigned saturating sum. -/
def execFvAddsu (w : Fin 256) (fd fs1 fs2 : BitVec 4) (ft : BitVec 2) (rsv : BitVec 10) (s : State) : Res := .next (s.fvBinary w fd fs1 fs2 ft rsv 2 (fun w a b => min (a + b) (2 ^ w - 1)))

/-- R326: byte i := byte (FS2 byte i) of FS1 where that index is below 16, else 00h; FT must be 0. -/
def execFvTbl (w : Fin 256) (fd fs1 fs2 : BitVec 4) (ft : BitVec 2) (rsv : BitVec 10) (s : State) : Res :=
  .next (s.fvResult w fd [fs1, fs2] (rsv = 0 && ft = 0) 3 fun x =>
    joinElements 8 ((fvLanes 8 (x.freg fs2)).map fun i => (fvLanes 8 (x.freg fs1)).getD i 0))

/-- R326: left shift by an immediate; an amount of w or more is illegal. -/
def execFvSlli (w : Fin 256) (fd fs1 : BitVec 4) (ft : BitVec 2) (amount : BitVec 6) (rsv : BitVec 10) (s : State) : Res := .next (s.fvShift w fd fs1 ft amount rsv (fun w a n => a * 2 ^ n % 2 ^ w))

/-- R326: logical right shift by an immediate; an amount of w or more is illegal. -/
def execFvSrli (w : Fin 256) (fd fs1 : BitVec 4) (ft : BitVec 2) (amount : BitVec 6) (rsv : BitVec 10) (s : State) : Res := .next (s.fvShift w fd fs1 ft amount rsv (fun _ a n => a / 2 ^ n))

/-- R326: arithmetic right shift by an immediate; an amount of w or more is illegal. -/
def execFvSrai (w : Fin 256) (fd fs1 : BitVec 4) (ft : BitVec 2) (amount : BitVec 6) (rsv : BitVec 10) (s : State) : Res := .next (s.fvShift w fd fs1 ft amount rsv sraLane)

/-- R326: rotate left by an immediate; an amount of w or more is illegal. -/
def execFvRoli (w : Fin 256) (fd fs1 : BitVec 4) (ft : BitVec 2) (amount : BitVec 6) (rsv : BitVec 10) (s : State) : Res := .next (s.fvShift w fd fs1 ft amount rsv (fun w a n => a * 2 ^ n % 2 ^ w + a / 2 ^ (w - n)))

/-! ### Loads, stores and moves (OP 2Ah to 2Ch, R326) -/

/-- R326: doublewords 0 and 1 := bits [63:0] of words a and a + 1. -/
def execFld (w : Fin 256) (fd : BitVec 4) (rs1 : BitVec 5) (rsv : BitVec 1) (imm : BitVec 20) (s : State) : Res :=
  .next (s.fvIssue w fun s x =>
    let a := x.address rs1 imm
    if rsv ≠ 0 then .fault .illegal
    else s.access x [a, a + 1] false false (
      let t := x.issueAt [rs1] [] [] 0
      .ok s ((x.advance t 1).setFreg fd ((low64 (x.word a)).toNat + 2 ^ 64 * (low64 (x.word (a + 1))).toNat) (t + 3))))

/-- R326: words a and a + 1 := doublewords 0 and 1, with bits [71:64] zero. -/
def execFst (w : Fin 256) (fd : BitVec 4) (rs1 : BitVec 5) (rsv : BitVec 1) (imm : BitVec 20) (s : State) : Res :=
  .next (s.fvIssue w fun s x =>
    let a := x.address rs1 imm
    if rsv ≠ 0 then .fault .illegal
    else s.access x [a, a + 1] false true (
      let v := x.freg fd
      .ok s ((x.advance (x.issueAt [rs1] [] [fd] 0) 1).setWords a [BitVec.ofNat 72 (v % 2 ^ 64), BitVec.ofNat 72 (v / 2 ^ 64)])))

/-- A lane number below the lane count of FT (R326). -/
def laneOk (ft : BitVec 2) (lane : BitVec 4) : Bool := decide (lane.toNat < 128 / ftWidth ft)

/-- R326: g[G] := lane LANE of f[F], zero-extended. -/
def execFmvgf (w : Fin 256) (g : BitVec 5) (f : BitVec 4) (ft : BitVec 2) (lane : BitVec 4) (rsv : BitVec 9) (s : State) : Res :=
  .next (s.fvIssue w fun s x =>
    if rsv ≠ 0 || !laneOk ft lane then .fault .illegal else
    let t := x.issueAt [] [] [f] 0
    .ok s ((x.advance t 1).setReg g (BitVec.ofNat 72 ((fvLanes (ftWidth ft) (x.freg f)).getD lane.toNat 0)) (t + 2)))

/-- R326: lane LANE of f[F] := the low w bits of g[G]; the other lanes are kept. -/
def execFmvfg (w : Fin 256) (g : BitVec 5) (f : BitVec 4) (ft : BitVec 2) (lane : BitVec 4) (rsv : BitVec 9) (s : State) : Res :=
  .next (s.fvIssue w fun s x =>
    if rsv ≠ 0 || !laneOk ft lane then .fault .illegal else
    let n := ftWidth ft
    let t := x.issueAt [g] [] [f] 0
    .ok s ((x.advance t 1).setFreg f (joinElements n ((fvLanes n (x.freg f)).set lane.toNat ((x.reg g).toNat % 2 ^ n))) (t + 2)))

/-- R326: every lane of f[F] := the low w bits of g[G]; LANE must be 0. -/
def execFsplat (w : Fin 256) (g : BitVec 5) (f : BitVec 4) (ft : BitVec 2) (lane : BitVec 4) (rsv : BitVec 9) (s : State) : Res :=
  .next (s.fvIssue w fun s x =>
    if rsv ≠ 0 || lane ≠ 0 then .fault .illegal else
    let n := ftWidth ft
    let t := x.issueAt [g] [] [] 0
    .ok s ((x.advance t 1).setFreg f (joinElements n (List.replicate (128 / n) (x.reg g).toNat)) (t + 2)))

end Sys2Proof.Machine
end

