-- ==== Sys2Proof/Machine/HopOps.lean ====
section
/-! DEFINITION. The shelf bus: what the port drops (R543, R544), sessions and tags (R548 to R552), fragments and snapshots (R546), repeated requests and DISCOVER (R547), and the operations of R545. -/

namespace Sys2Proof.Machine

/-! ### Frames -/

def HopIn.auth (f : HopFrame) : Bool := f.flags.getLsbD 1
def HopIn.more (f : HopFrame) : Bool := f.flags.getLsbD 2

/-- The port drops the frame and counts it (R543, R544); so it does one whose reserved fields are not zero, those of an AUTH_BEGIN's data among them (R9, R549). -/
def State.hopDrops (s : State) (f : HopFrame) : Bool :=
  let need := 24 + f.length.toNat + if HopIn.auth f then 16 else 0
  f.tagged || f.etherType.toNat ≠ s.entry Key.shelfBusHopEtherType || f.payload < need || (need < f.payload && !f.minimum) ||
  f.version ≠ 1 || f.flags.toNat % 2 = 1 || 8 ≤ f.flags.toNat || f.rsv15 ≠ 0 || f.rsv22 ≠ 0 || 1456 < f.length.toNat ||
  (f.op = 4 && f.data.length = 40 && field f.data 1 7 ≠ 0)

/-- The frame is addressed to the device: to its MAC, or a broadcast that carries DISCOVER (R543). -/
def hopAddressed (f : HopFrame) : Bool :=
  f.destination = Config.shelfMac || (f.destination = 0xFFFFFFFFFFFF && f.op = 8)

/-! ### Requesters -/

/-- A requester may hold an assembly or a snapshot: it has one, or fewer than 8 others do (R546). -/
def State.roomFor (s : State) (w : Requester) : Bool :=
  (s.hop.requesters.filter fun r => r.who ≠ w && (r.assembly.isSome || r.snapshot.isSome)).length < 8

/-- Note the SEQ of an accepted request in its session (R547). -/
def State.noteSeq (s : State) (n seq : BitVec 32) : State :=
  { s with hop := { s.hop with sessions := s.hop.sessions.map fun x => if x.number = n then { x with lastSeq := seq } else x } }

/-- End a session (R552). -/
def State.endHopSession (s : State) (n : BitVec 32) : State :=
  let keep := fun (r : RequesterState) => decide (r.who ≠ .session n)
  { s with hop := { s.hop with sessions := s.hop.sessions.filter (fun x => x.number ≠ n), requesters := s.hop.requesters.filter keep } }

/-! ### Dictionary operations over HOP -/

/-- The path of a requester. -/
def hopPath (w : Requester) : Path :=
  match w with
  | .session n => .hopSession n
  | .address _ => .hopPlain

/-- The entry a frame names, as one number. -/
def hopEntry (f : HopFrame) : BitVec 24 := f.index ++ f.sub

/-- The value bytes from an offset that one response carries (R546). -/
def hopSlice (f : HopFrame) (v : Bytes) : HopReply :=
  let rest := v.drop f.offset.toNat
  { result := drOk, more := 1456 < rest.length, data := rest.take 1456, session := f.session }

/-- READ (R546): at offset 0 a snapshot is taken; elsewhere the requester's snapshot of that entry serves. -/
def State.hopReadOp (s : State) (w : Requester) (f : HopFrame) : HopReply × State :=
  let r := s.judgeRead (hopPath w) f.index.toNat f.sub.toNat
  if r ≠ drOk then (hopResult f r, s)
  else
    let q := s.requester w
    if f.offset = 0 then
      let v := s.readBytes f.index.toNat f.sub.toNat
      if !s.roomFor w then (hopResult f drBusy, s)
      else (hopSlice f v, s.setRequester { q with snapshot := some (hopEntry f, v) })
    else match q.snapshot with
      | some (e, v) => if e = hopEntry f && f.offset.toNat ≤ v.length then (hopSlice f v, s) else (hopResult f drOffset, s)
      | none => (hopResult f drOffset, s)

/-- One fragment of a value joins its assembly (R546): none when its offset does not continue it, else the bytes so far. -/
def State.assemble (s : State) (w : Requester) (f : HopFrame) (e : BitVec 24) : Option Bytes :=
  if f.offset = 0 then some f.data
  else match (s.requester w).assembly with
    | some (e', b) => if e' = e && f.offset.toNat = b.length then some (b ++ f.data) else none
    | none => none

/-- Set the assembly of a requester. -/
def State.setAssembly (s : State) (w : Requester) (a : Option (BitVec 24 × Bytes)) : State :=
  s.setRequester { s.requester w with assembly := a }

/-- The description of an entry (R534). -/
def infoBytes (r : DictRow) : Bytes :=
  let t := match r.type with
    | .u8 => 1 | .u16 => 2 | .u32 => 3 | .u64 => 4 | .i32 => 5 | .bool => 6 | .bits8 => 7 | .bits16 => 8 | .bits32 => 9 | .bits64 => 10
    | .octets _ => 11 | .string _ => 12
  let a := match r.access with
    | .const => 0 | .ro => 1 | .rw => 2 | .rwa => 3 | .wo => 4 | .woa => 5
  leBytes 1 t ++ leBytes 1 a ++ leBytes 2 r.type.size ++ leBytes 1 (if r.access = .const then 2 else if r.persist then 1 else 0) ++
    leBytes 3 0 ++ strBytes 32 r.name

/-- INFO (R534). -/
def State.infoOp (s : State) (p : Path) (index sub : Nat) : Nat × Bytes :=
  let r := s.judgeRead p index sub
  if r ≠ drOk then (r, [])
  else match dictRow index sub with
    | some row => (drOk, infoBytes row)
    | none => (drNoSub, [])

/-! ### Sessions -/

/-- The trusted hash a KEY_SLOT selects (R549); none where the combination is refused. -/
def State.trustedHash (s : State) (k : Nat) : Option Bytes :=
  if k = 0x80 then (if s.lifeCycle = lcRaw || s.lifeCycle = lcTest then some (leBytes 32 Config.transitionKeyHash.toNat) else none)
  else if !s.keyed then none
  else if k = 0 then some s.roots.ownerHash
  else if k ≤ 4 then (let h := s.entry (Key.shelfBusShelfKeyHash (k - 1)); if h = 0 then none else some (leBytes 32 h))
  else none

/-- The authority operations need the firmware, which answers no session in RETIRED (R530, R545). -/
def State.authServer (s : State) : Nat :=
  if s.hop.server ≠ some .firmware then drUnavailable else if s.lifeCycle = lcRetired then drState else drOk

/-- AUTH_BEGIN (R549, R551): SESSION, NONCE_D and the ephemeral key are three draws of the hub instance, for which it waits a second at most; one that waits counts as pending. -/
def State.authBeginOp (s : State) (f : HopFrame) : HopReply × State :=
  let a := s.authServer
  let k := field f.data 0 1
  if a ≠ drOk then (hopResult f a, s)
  else if s.hop.lockedOut || (s.trustedHash k).isNone then (hopResult f drAuth, s)
  else if f.data.length ≠ 40 then (hopResult f drLength, s)
  else if 4 ≤ s.hop.sessions.length || s.hop.pending.isSome || s.hop.authWait.isSome then (hopResult f drBusy, s)
  else s.drawAuth f [] (s.hubCycle + authCycles)

/-- The transcript T (R549). -/
def hopTranscript (p : PendingSession) (ct : Bytes) : Bytes :=
  ascii "PYRS-HOP" ++ State.unitBytes ++ leBytes 4 p.number.toNat ++ leBytes 1 p.keySlot.toNat ++ beBytes 6 p.address.toNat ++
    p.nonceM ++ p.nonceD ++ sha3_256 p.encapKey ++ sha3_256 ct

/-- A failed AUTH_FINISH (R551); `left` is the pending session afterwards. -/
def State.authFails (s : State) (f : HopFrame) (left : Option PendingSession) : (HopReply × Option Bytes) × State :=
  let n := s.hop.failures + 1
  let s := { s with hop := { s.hop with pending := left, failures := n, lockedOut := s.hop.lockedOut || n % 8 = 0 } }
  ((hopResult f drAuth, none), s.bump Key.shelfBusAuthFailures)

/-- The end of AUTH_FINISH with all its data (R549): the checks, the session key, PROOF, and the open session. -/
def State.authFinishOp (s : State) (f : HopFrame) (p : PendingSession) (d : Bytes) : (HopReply × Option Bytes) × State :=
  let ct := cut d 0 1088
  let pk := cut d 1088 2592
  let t := hopTranscript p ct
  if some (sha3_256 pk) ≠ s.trustedHash p.keySlot.toNat || !mldsa87Verifies pk t (cut d 3680 4627) then s.authFails f none
  else
    let key := kmac256 (mlkem768Decaps p.ephemeral ct) t 32 "PYRS-HOPKEY"
    let proof := match s.roots.attestSecret with
      | some as_ => kmac256 as_ t 32 "PYRS-HOPPROOF"
      | none => List.replicate 32 0#8
    let x : HopSession := { number := p.number, keySlot := p.keySlot, address := p.address, key := key, lastSeq := f.seq }
    (({ result := drOk, more := false, data := proof, session := p.number }, some key),
      { s with hop := { s.hop with pending := none, failures := 0, sessions := s.hop.sessions ++ [x] } })

/-! ### WAKE and DISCOVER -/

/-- A HOP WAKE is refused by its enable or by a latched HALT (R587, R612). -/
def State.hopWakeRefused (s : State) : Bool := s.haltLatched || !s.flag Key.powerControlHopWakeEnable

/-- The 40 bytes of DISCOVER (R547). -/
def State.discoverBytes (s : State) : Bytes :=
  let keep := if s.lifeCycle = lcScrap then 0 else 1
  leBytes 16 (keep * Config.unitId.toNat) ++ leBytes 2 s.lifeCycle ++ leBytes 1 (keep * s.deviceState) ++
    leBytes 1 (keep * s.entryValue 0x1000 6) ++ leBytes 1 (keep * s.entry Key.shelfBusPlcaNodeId) ++ leBytes 3 0 ++
    leBytes 4 (keep * s.entry Key.bootControlFirmwareVersion) ++ leBytes 4 0 ++ leBytes 8 (keep * s.timestamp.toNat)

/-! ### Receiving -/

/-- What a request does once its requester is known: its reply, the key of the response's tag, the new state, and what follows the response. -/
abbrev HopOp := Requester → HopFrame → State → (HopReply × State) × (State → State)

/-- A request outside a session, or of AUTH_FINISH: its requester is its source address (R546). -/
def State.serveAddress (s : State) (f : HopFrame) (op : HopOp) : State :=
  let w := Requester.address f.source
  let q := s.requester w
  if q.lastSeq = some f.seq then (match q.lastResponse with | some r => s.emit (.hop r) | none => s)
  else
    let ((r, s), after) := op w f s
    after (s.respond w f none r)

/-- A request in a session (R547, R550, R552). -/
def State.serveSession (s : State) (f : HopFrame) (op : HopOp) : State :=
  match s.hopSession f.session with
  | none => (s.bump Key.shelfBusFramesReceived).emit (.hop (hopResponse f none (hopResult f drAuth)))
  | some x =>
    let h := hopHeader f.op.toNat f.flags.toNat f.result.toNat f.session f.seq f.index.toNat f.sub.toNat f.offset.toNat f.length.toNat
    if !HopIn.auth f || f.tag ≠ hopTag x.key f.destination f.source h f.data then s.bump Key.shelfBusTagFailures
    else
      let s := s.bump Key.shelfBusFramesReceived
      let w := Requester.session x.number
      let q := s.requester w
      if q.lastSeq = some f.seq then (match q.lastResponse with | some r => s.emit (.hop r) | none => s)
      else if f.seq.toNat ≤ x.lastSeq.toNat && !(x.lastSeq = 0xFFFFFFFF && f.op = 6) then s
      else
        let s := s.noteSeq x.number f.seq
        let ((r, s), after) := op w f s
        after (s.respond w f (some x.key) r)

/-- A frame of an operation arrives on the shelf bus: nothing serves it without a server and the system clock (R36, R665). -/
def State.hopReceive (s : State) (f : HopFrame) (code : Nat) (op : HopOp) : State :=
  if s.hop.server.isNone || !s.supplies.sysclk || f.op.toNat ≠ code then s
  else if s.hopDrops f then s.bump Key.shelfBusFramesDropped
  else if !hopAddressed f then s
  else if f.session = 0 || f.op = 5 then (s.bump Key.shelfBusFramesReceived).serveAddress f op
  else s.serveSession f op

end Sys2Proof.Machine
end

