-- ==== Sys2Proof/Machine/Hop.lean ====
section
/-! DEFINITION. The commands of the shelf bus: the eight HOP operations (R545 to R552), their time limits, and the handover of servers (R529). -/

namespace Sys2Proof.Machine

/-- R546: a READ. -/
def execHopRead (frame : HopFrame) (s : State) : Res :=
  .next (s.hopReceive frame 1 fun w f s => (s.hopReadOp w f, id))

/-- The last fragment of a WRITE has arrived: the value is judged and applied (R531, R546, R672); what it does follows its response (R552, R561), but an erase of a vault slot is answered when it commits (R468), and a write of a host window when it completes (R370). -/
def State.hopApply (s : State) (w : Requester) (f : HopFrame) (v : Bytes) : (HopReply × State) × (State → State) :=
  let i := f.index.toNat
  let k := f.sub.toNat
  let r := s.judgeWrite (hopPath w) i k v
  if r ≠ drOk then ((hopResult f r, s.setAssembly w none), id)
  else if isLate i k then (({ hopResult f r with later := true }, s.setAssembly w none), fun s => s.lateWrite i k (leNat v) (.hop w f))
  else ((hopResult f r, s.setAssembly w none), fun s => s.applyWrite i k v)

/-- R546: a WRITE fragment. -/
def execHopWrite (frame : HopFrame) (s : State) : Res :=
  .next (s.hopReceive frame 2 fun w f s =>
    if s.hop.server = some .pilot then ((hopResult f (s.judgeWrite (hopPath w) f.index.toNat f.sub.toNat f.data), s), id)
    else match s.assemble w f (hopEntry f) with
      | none => ((hopResult f drOffset, s.setAssembly w none), id)
      | some v =>
        if !HopIn.more f then s.hopApply w f v
        else if s.roomFor w then ((hopResult f drOk, s.setAssembly w (some (hopEntry f, v))), id)
        else ((hopResult f drBusy, s), id))

/-- R534: an INFO. -/
def execHopInfo (frame : HopFrame) (s : State) : Res :=
  .next (s.hopReceive frame 3 fun w f s =>
    let r := s.infoOp (hopPath w) f.index.toNat f.sub.toNat
    (({ result := r.1, more := false, data := r.2, session := f.session }, s), id))

/-- R549: AUTH_BEGIN. -/
def execAuthBegin (frame : HopFrame) (s : State) : Res :=
  .next (s.hopReceive frame 4 fun _ f s => (s.authBeginOp f, id))

/-- The pending session an AUTH_FINISH belongs to (R549). -/
def State.pendingFor (s : State) (f : HopFrame) : Option PendingSession :=
  match s.hop.pending with
  | some p => if p.number = f.session && p.address = f.source then some p else none
  | none => none

/-- R549: a fragment of AUTH_FINISH, 8,307 bytes in all. The response to the last one is tagged with the new session's key. -/
def State.authFinish (s : State) (f : HopFrame) : State :=
  let w := Requester.address f.source
  let q := s.requester w
  if q.lastSeq = some f.seq then (match q.lastResponse with | some r => s.emit (.hop r) | none => s)
  else
    let a := s.authServer
    if a ≠ drOk then s.respond w f none (hopResult f a)
    else match s.pendingFor f with
      | none =>
        let ((r, k), s) := s.authFails f s.hop.pending
        s.respond w f k r
      | some p =>
        match s.assemble w f 0xFFFF05 with
        | none => (s.setAssembly w none).respond w f none (hopResult f drOffset)
        | some d =>
          if HopIn.more f then
            (if s.roomFor w then (s.setAssembly w (some (0xFFFF05, d))).respond w f none (hopResult f drOk) else s.respond w f none (hopResult f drBusy))
          else
            let s := s.setAssembly w none
            if d.length ≠ 8307 then s.respond w f none (hopResult f drLength)
            else
              let ((r, k), s) := s.authFinishOp f p d
              s.respond w f k r

/-- R549: AUTH_FINISH. -/
def execAuthFinish (frame : HopFrame) (s : State) : Res :=
  .next (
    if s.hop.server.isNone || !s.supplies.sysclk || frame.op ≠ 5 then s
    else if s.hopDrops frame then s.bump Key.shelfBusFramesDropped
    else if !hopAddressed frame then s
    else (s.bump Key.shelfBusFramesReceived).authFinish frame)

/-- R552: AUTH_END ends the session it is sent in; outside a session it is answered AUTH (R548). -/
def execAuthEnd (frame : HopFrame) (s : State) : Res :=
  .next (s.hopReceive frame 6 fun w f s =>
    match w with
    | .session n => ((hopResult f drOk, s), fun s => s.endHopSession n)
    | .address _ => ((hopResult f (if s.hop.server = some .firmware then drAuth else drUnavailable), s), id))

/-- R587, R545: WAKE, answered at once. -/
def execHopWake (frame : HopFrame) (s : State) : Res :=
  .next (s.hopReceive frame 7 fun _ f s =>
    if s.hop.server = some .rom then ((hopResult f drUnavailable, s), id)
    else if s.hopWakeRefused then ((hopResult f drState, s), id)
    else ((hopResult f drOk, s), fun s => s.wake 2 s.hopWakeUnit 0 0xFF))

/-- R547: DISCOVER. -/
def execDiscover (frame : HopFrame) (s : State) : Res :=
  .next (s.hopReceive frame 8 fun _ f s =>
    (({ result := drOk, more := false, data := s.discoverBytes, session := f.session }, s), id))

/-- R546: an assembly or snapshot idle for 1 s is discarded. -/
def execHopAssemblyIdle (requester : Requester) (s : State) : Res :=
  .next (
    if s.hop.requesters.any (fun r => r.who = requester) then s.setRequester { s.requester requester with assembly := none, snapshot := none } else s)

/-- R551: a pending session expires 10 s after AUTH_BEGIN. -/
def execPendingSessionExpiry (s : State) : Res := .next { s with hop := { s.hop with pending := none } }

/-- R551: the refusal after 8 consecutive failures ends. -/
def execAuthLockoutEnd (s : State) : Res := .next { s with hop := { s.hop with lockedOut := false } }

/-- R552: SessionIdleS without a valid request. -/
def execSessionIdleExpiry (session : BitVec 32) (s : State) : Res := .next (s.endHopSession session)

/-- R529: a new server starts to serve. Which server that may be follows from the device's condition (R528). -/
def State.mayServe (s : State) (v : Server) : Bool :=
  match v with
  | .pilot => s.power = .dark || s.power = .halted || (s.power = .booting && s.hop.server ≠ some .firmware && s.hop.server ≠ some .rom)
  | .rom => (s.power = .booting && s.hop.server = some .rom) || (match s.fatal with | some f => f.served | none => false)
  | .firmware => s.fatal.isNone && s.hop.server = some .firmware

/-- R529: a handover to the server of the device's condition. -/
def execServerHandover (server : Server) (s : State) : Res :=
  .next (if s.mayServe server then s.handover (some server) else s)

end Sys2Proof.Machine
end

