-- ==== Sys2Proof/Machine/ContainerOps.lean ====
section
/-! DEFINITION. The sealed object container: recipient blocks (R100, R101), nonces (R93), the manifest tree (R104), TAIL and its message (R105, R106), and the checks a restore makes of a record (R108). -/

namespace Sys2Proof.Machine

/-- Bytes padded with zeros to a multiple of 8. -/
def pad8 (b : Bytes) : Bytes := b ++ List.replicate ((8 - b.length % 8) % 8) 0#8

/-! ### Keys and nonces -/

/-- The KEK of a recipient block (R101). -/
def recipientKek (secret : Bytes) (objectId : BitVec 64) (index alg : Nat) : Bytes :=
  kmac256 secret (leBytes 8 objectId.toNat ++ leBytes 1 index ++ leBytes 1 alg) 32 "PYRS-KEK"

/-- A recipient block (R100). -/
def recipientBlock (entry : Bytes) (index : Nat) (wrapped ct : Bytes) : Bytes :=
  pad8 (leBytes 1 (field entry 0 1) ++ leBytes 1 index ++ leBytes 1 (field entry 1 1) ++ leBytes 1 0 ++ leBytes 4 ct.length ++ cut entry 16 32 ++ wrapped ++ ct)

/-- IV and AAD of a segment (R93). -/
def segmentIv (salt : BitVec 64) (index : Nat) : Bytes := leBytes 8 salt.toNat ++ leBytes 4 index
def segmentAad (objectId : BitVec 64) (index epoch : Nat) : Bytes := leBytes 8 objectId.toNat ++ leBytes 4 index ++ leBytes 1 epoch

/-- The plaintext bytes of segment i of an object (R89). -/
def segmentBytes (length segExp i : Nat) : Nat := min (2 ^ segExp) (length - i * 2 ^ segExp)

/-- The fixed part of a HEAD body (R99). -/
def headFixed (length : Nat) (salt0 : BitVec 64) (x : Session) (created : BitVec 64) : Bytes :=
  leBytes 8 length ++ leBytes 8 salt0.toNat ++ leBytes 1 0x60 ++ leBytes 1 x.manifestAlg ++ leBytes 1 x.signA ++ leBytes 1 x.signB ++
    leBytes 1 x.segExp ++ leBytes 1 x.recipients ++ leBytes 2 0 ++ leBytes 8 created.toNat

/-! ### The manifest -/

/-- Leaf of a SEG record (R104). -/
def manifestLeaf (alg index epoch : Nat) (body : Bytes) : Bytes := digestOf alg (leBytes 1 0 ++ leBytes 4 index ++ leBytes 1 epoch ++ body) 0

/-- One level of the tree: nodes pair from the left, and an unpaired last node passes up (R104). -/
def manifestLevel (alg : Nat) : List Bytes → List Bytes
  | a :: b :: r => digestOf alg (leBytes 1 1 ++ a ++ b) 0 :: manifestLevel alg r
  | l => l

/-- Levels until one node is left. -/
def manifestFold (alg : Nat) : Nat → List Bytes → Bytes
  | 0, l => l.headD []
  | fuel + 1, l => if l.length ≤ 1 then l.headD [] else manifestFold alg fuel (manifestLevel alg l)

/-- The root (R104). -/
def manifestRoot (alg : Nat) (objectId : BitVec 64) (leaves : List Bytes) : Bytes :=
  if leaves.isEmpty then digestOf alg (leBytes 1 2 ++ leBytes 8 objectId.toNat) 0 else manifestFold alg leaves.length leaves

/-- The fixed part of a TAIL body (R105). -/
def tailFixed (length segments : Nat) (x : Session) (epoch : Nat) (root : Bytes) : Bytes :=
  leBytes 8 length ++ leBytes 4 segments ++ leBytes 1 x.manifestAlg ++ leBytes 1 ((if x.signA = 0 then 0 else 1) + if x.signB = 0 then 0 else 1) ++
    leBytes 1 epoch ++ leBytes 1 0 ++ cut root 0 64

/-- A signature block (R105). -/
def signatureBlock (alg : Nat) (sig : Bytes) : Bytes := pad8 (leBytes 1 alg ++ leBytes 3 0 ++ leBytes 4 sig.length ++ sig)

/-- Bytes of the signature blocks of a session's TAIL. -/
def tailSignatures (x : Session) : Nat :=
  (if x.signA = 0 then 0 else (signatureBlock x.signA (List.replicate (signatureSize x.signA) 0#8)).length) +
  (if x.signB = 0 then 0 else (signatureBlock x.signB (List.replicate (signatureSize x.signB) 0#8)).length)

/-- The 140-byte message a TAIL's signatures cover, of a TAIL record's bytes (R106). -/
def tailMessage (r : Bytes) : Bytes := cut r 0 28 ++ cut r 32 32 ++ cut r 64 80

/-- What ML-DSA and SLH-DSA sign for it: pure, with an empty context (R106, R126, R151). -/
def tailFormatted (r : Bytes) : Bytes := formatted (leBytes 1 0 ++ tailMessage r)

/-! ### Checks of a record -/

/-- Fields of a record header (R97). -/
def recKind (r : Bytes) : Nat := field r 4 1
def recEpoch (r : Bytes) : Nat := field r 6 1
def recObject (r : Bytes) : Nat := field r 8 8
def recBody (r : Bytes) : Bytes := r.drop 64
def recIndex (r : Bytes) : Nat := field r 20 4
def recChain (r : Bytes) : Bytes := cut r 32 32

/-- MAGIC, VERSION, HEADER_CRC, reserved fields and lengths of any record (R97, R108). -/
def recordFormOk (r : Bytes) : Bool :=
  64 ≤ r.length && cut r 0 4 = [0x50#8, 0x59#8, 0x52#8, 0x53#8] && field r 5 1 = 1 && field r 7 1 = 0 && field r 24 4 = 0 &&
  field r 28 4 = crc32c (cut r 0 28 ++ cut r 32 32) && field r 16 4 = r.length - 64 && 1 ≤ recKind r && recKind r ≤ 5 &&
  (recKind r = 2 || r.length % 8 = 0) && (recKind r = 2 || recKind r = 3 || recIndex r = 0) && (recKind r ≠ 1 || recEpoch r = 0)

/-- The recipient blocks of a HEAD body, none where they break a rule of R100 or R108. -/
def recipientBlocksOf : Nat → Nat → Bytes → Option (List Bytes)
  | 0, _, b => if b.isEmpty then some [] else none
  | n + 1, i, b =>
    let ct := cipherSize (field b 0 1)
    let size := (80 + ct + 7) / 8 * 8
    if b.length < size || ct = 0 || field b 4 4 ≠ ct || field b 1 1 ≠ i || 2 ≤ field b 2 1 || field b 3 1 ≠ 0 || leNat (cut b (80 + ct) (size - 80 - ct)) ≠ 0 then none
    else (recipientBlocksOf n (i + 1) (b.drop size)).map fun l => b.take size :: l

/-- The recipient blocks of a HEAD record. -/
def headBlocks (r : Bytes) : Option (List Bytes) := recipientBlocksOf (field r (64 + 21) 1) 0 (r.drop 96)

/-- A HEAD's own form (R99, R108). -/
def headOk (r : Bytes) : Bool :=
  96 ≤ r.length && field r (64 + 16) 1 = 0x60 && 16 ≤ field r (64 + 20) 1 && field r (64 + 20) 1 ≤ 26 && 1 ≤ field r (64 + 21) 1 && field r (64 + 21) 1 ≤ 4 &&
  field r (64 + 22) 2 = 0 && (headBlocks r).isSome

/-- The signature blocks of a TAIL body: algorithm, signature; none where they do not fill it, or padding or reserved bytes are not zero (R105, R108). -/
def signatureBlocksOf : Nat → Bytes → Option (List (Nat × Bytes))
  | 0, b => if b.isEmpty then some [] else none
  | n + 1, b =>
    if b.isEmpty then some [] else
    let len := field b 4 4
    let size := (8 + len + 7) / 8 * 8
    if b.length < 8 || b.length < size || field b 1 3 ≠ 0 || leNat (cut b (8 + len) (size - 8 - len)) ≠ 0 then none
    else (signatureBlocksOf n (b.drop size)).map fun l => (field b 0 1, cut b 8 len) :: l

def tailBlocks (r : Bytes) : Option (List (Nat × Bytes)) := signatureBlocksOf (r.length / 8) (r.drop 144)

/-- A TAIL's own form. -/
def tailOk (r : Bytes) : Bool :=
  144 ≤ r.length && field r (64 + 15) 1 = 0 &&
  match tailBlocks r with
  | none => false
  | some l => l.length = field r (64 + 13) 1

/-- The FORMAT conditions of R108 for the next record of a restore. -/
def recordOk (o : ObjectState) (objectId : BitVec 64) (r : Bytes) : Bool :=
  recordFormOk r &&
  (if !o.headSeen then recKind r = 1 && recObject r = objectId.toNat && headOk r
   else if recKind r = 1 then false
   else if recKind r = 2 then
     recIndex r = o.segIndex && recEpoch r = o.epoch && o.segIndex < segmentCount o.length o.segExp && r.length = 64 + segmentBytes o.length o.segExp o.segIndex + 16
   else if recKind r = 3 then recEpoch r = o.epoch + 1 && recEpoch r ≤ 3 && recIndex r = o.segIndex && r.length = 72
   else if recKind r = 4 then recEpoch r = o.epoch && tailOk r
   else recEpoch r = o.epoch && r.length = 80 && field r (64 + 13) 3 = 0)

/-- The recipient block a session's entry 0 names (R66, R108). -/
def blockFor (entry : Bytes) (bs : List Bytes) : Option Bytes := bs.find? fun b => field b 0 1 = field entry 0 1 && cut b 8 32 = cut entry 16 32

end Sys2Proof.Machine
end

