-- ==== Sys2Proof/Machine/Objects.lean ====
section
/-! DEFINITION. The object and stream commands: writing an object (R47, R87 to R107), restoring one (R48, R49, R108, R142), file marks and stops (R444). -/

namespace Sys2Proof.Machine

/-! ### Writing -/

/-- The sealer an object attempt keeps (R228). -/
def Job.objectSealer (j : Job) : Nat := (unitsOfClass j.units 6).getD 0 0

/-- The randomness of each recipient's encapsulation, drawn once an attempt (R136, R199): the message, and for a hybrid the ephemeral scalar, which is the bytes drawn, as they are (log 56). -/
def State.withRecipientDraws (s : State) (j : Job) : List (Nat × Nat) → List (Bytes × Bytes) → (List (Bytes × Bytes) → State → State) → State
  | [], drawn, f => f drawn s
  | (i, a) :: rest, drawn, f =>
    s.withDraw j.id (2 + 2 * i) j.instOf 32 fun m s =>
    s.withDrawIf (isHybrid a) [] j.id (3 + 2 * i) 16 (hybridShareSize a) fun e s =>
    s.withRecipientDraws j rest (drawn ++ [(m, e)]) f

/-- Encapsulate the object key to each recipient, on two wicks (R47 step 3, R100, R101, R141, R146, R188, R253). -/
def State.recipientBlocks (s : State) (j : Job) (key : Bytes) (ks : List ((KeyFound × Nat) × Bytes × Bytes)) : Bytes × State :=
  ks.foldl (fun p k =>
    let i := k.1.2
    let entry := (p.2.session j.entry.session).recipient i
    let a := field entry 0 1
    let s := if isMce a then p.2.readMceKey j.slice a (field entry 8 8) 2 else p.2
    let s := s.charge j.id (2 * encapsCost a) (hybridTaper a 2) kekWords
    let ck := anyEncaps a (k.1.1.publicKey a) k.2.1 k.2.2
    (p.1 ++ recipientBlock entry i (kwpWrap (recipientKek ck.2 j.entry.w5 i a) key) ck.1, s)) ([], s)

/-- The places of the draws of an attempt that follow those of its recipients. -/
def State.tailPlace (s : State) (j : Job) : Nat := 2 + 2 * (s.session j.entry.session).recipients

/-- An attempt of an object whose HEAD is made draws nothing for its recipients. -/
def State.skipRecipients (s : State) (j : Job) : State :=
  let n := s.tailPlace j
  s.modJob j.id fun j => { j with kept := j.kept ++ List.replicate (n - j.kept.length) [] }

/-- SALT records of epochs 1 up to the current one, where replays came before the HEAD (R94, R95). -/
def State.releaseSalts (s : State) (id : Nat) (salts : List (BitVec 64)) (segments : Nat) : State :=
  (salts.zipIdx.drop 1).foldl (fun s p => s.releaseRecord id 3 p.2 segments (leBytes 8 p.1.toNat)) s

/-- The vault loads the object key into the wick's WKR and into the sealer, unless a direct job has that (R47 step 2, R112, R226, R229). -/
def State.loadObject (s : State) (j : Job) (o : ObjectState) : State :=
  let s := s.setWick j.wick ((s.wick j.wick).loadWkr o.key 0x60)
  let s := s.modObject j.id fun o => { o with sealer := j.objectSealer }
  if s.sealerTaken j.objectSealer then s
  else s.loadSealerObject j.objectSealer j o.key (o.salts.getLastD 0) (o.salts.length - 1) o.segmentsDone

/-- The HEAD and the SALT records so far are released (R47 step 4); a feed is granted a WINDOW (log 29). -/
def State.sendHead (s : State) (j : Job) (o : ObjectState) (blocks : Bytes) : State :=
  let id := j.id
  let x := s.session j.entry.session
  let s := s.releaseRecord id 1 0 0 (headFixed j.entry.w2.toNat (o.salts.headD 0) x o.created ++ blocks)
  let s := s.modObject id fun p => { p with headSent := true, epoch := o.salts.length - 1 }
  let s := s.releaseSalts id o.salts o.segmentsDone
  let s := s.modJob id fun j => { j with waitsEntropy := false }
  if x.ingest = 1 then s.sendCredit x.feedStream else s

/-- Steps 3 and 4 of R47: every recipient's key is expanded and checked against its first use (R130, R140), the object key is encapsulated to each, and the HEAD follows. -/
def State.startObject (s : State) (j : Job) (o : ObjectState) : State :=
  let x := s.session j.entry.session
  let keys := ((s.objectKeys j).drop ((if x.signA = 0 then 0 else 1) + if x.signB = 0 then 0 else 1)).zipIdx
  match s.expandRoles j.entry.session (keys.map fun k => (3 + k.2, field (x.recipient k.2) 0 1, k.1)) with
  | none => s.checkFailed j.id
  | some s =>
    s.withRecipientDraws j (keys.map fun k => (k.2, field (x.recipient k.2) 0 1)) [] fun drawn s =>
    let p := s.recipientBlocks j o.key (keys.zip drawn)
    p.2.sendHead j o p.1

/-- The object state of a job, by number. -/
def State.objectOf (s : State) (id : Nat) : ObjectState := ((s.findJob id).map Job.obj).getD ObjectState.start

/-- OBJECT_WRITE: the attempt draws the object key with salt 0, or after a replay the salt of its new epoch; it encapsulates the key and releases the HEAD, or goes on with the object (R47, R89, R94 to R96). A failed double encapsulation ends it in replay (R51, R141, R188). -/
def State.objectWrite (s : State) (id : Nat) (check : Bool) : State :=
  s.during id 0x0701 fun j =>
    if !check then s.checkFailed id else
    let o := j.obj
    s.withDrawIf o.key.isEmpty o.key id 0 16 40 fun b s =>
    let s := if o.key.isEmpty then s.modObject id fun o => { o with key := b.take 32, salts := [BitVec.ofNat 64 (field b 32 8)], created := s.timestamp } else s
    s.withDrawIf o.saltDue [] id 1 16 8 fun b s =>
    let s := if o.saltDue then s.newSaltEpoch id (leNat b) else s
    let o := s.objectOf id
    let s := s.loadObject j o
    if o.headSent then s.skipRecipients j else s.startObject j o

def execObjectWrite (job : Nat) (check : Bool) (s : State) : Res := .next (s.objectWrite job check)

/-- The sealer holds the object's key, loaded again after other work (R227). -/
def State.sealerReady (s : State) (j : Job) : State :=
  let n := j.objectSealer
  if (s.sealer n).job = some j.id && (s.sealer n).key.isSome then s
  else s.loadSealerObject n j j.obj.key (j.obj.salts.getLastD 0) j.obj.epoch j.obj.segmentsDone

/-- A feed's bytes that make up the next segment, and the feed once they are taken (R91, R434). -/
def State.takeFeed (s : State) (n count : Nat) (bytes : Bytes) : Option State :=
  let y := s.stream n
  let have_ := match y.arriving with | some p => p.2 | none => []
  if have_.take count ≠ bytes then none
  else some ((s.setStream n { y with arriving := some (y.ordinal, have_.drop count), consumed := y.consumed + count }).sendCredit n)

/-- Seal one segment and release its record (R47 steps 5 to 7, R93, R102, R104). -/
def State.sealSegment (s : State) (j : Job) (bytes : Bytes) : State :=
  let id := j.id
  let o := j.obj
  let i := o.segmentsDone
  let x := s.session j.entry.session
  let s := s.sealerReady j
  let iv := segmentIv (o.salts.getLastD 0) i
  let aad := segmentAad j.entry.w5 i o.epoch
  let c := gcmCipher o.key iv aad bytes
  let body := c ++ gcmTag o.key iv aad c
  let n := j.objectSealer
  let s := s.setSealer n { s.sealer n with nextSegment := i + 1 }
  let s := s.bump (Key.sealerStatusSegments n)
  let s := s.releaseRecord id 2 o.epoch i body
  s.modObject id fun o => { o with segmentsDone := i + 1, payload := o.payload + bytes.length, input := if x.ingest = 1 then o.input else o.input ++ bytes, leaves := o.leaves ++ [manifestLeaf x.manifestAlg i o.epoch body] }

/-- SEGMENT_ARRIVAL: the next segment, whole, by host DMA or from a feed; it waits while a direct job has the sealer (R89 to R93, R229, R365). -/
def State.segmentArrival (s : State) (id : Nat) (bytes : Bytes) : State :=
  s.during id 0x0701 fun j =>
    let o := j.obj
    let x := s.session j.entry.session
    let length := j.entry.w2.toNat
    let i := o.segmentsDone
    let n := segmentBytes length x.segExp i
    if !o.headSent || segmentCount length x.segExp ≤ i || bytes.length ≠ n || s.sealerTaken j.objectSealer then s
    else if x.ingest = 1 then
      match s.takeFeed x.feedStream n bytes with
      | none => s
      | some s => s.sealSegment j bytes
    else if !s.hostAllows j.slice (j.entry.w1.toNat + i * 2 ^ x.segExp) n true false then s.failJob id jsAccess
    else (s.emit (.hostRead id (j.entry.w1 + BitVec.ofNat 64 (i * 2 ^ x.segExp)) n)).sealSegment j bytes

def execSegmentArrival (job : Nat) (bytes : Bytes) (s : State) : Res := .next (s.segmentArrival job bytes)

/-- Every segment is sealed, its record has passed the digester, and a feed's mark has come (R47 step 8, R91). -/
def State.manifestReady (s : State) (j : Job) : Bool :=
  let o := j.obj
  let x := s.session j.entry.session
  o.headSent && o.segmentsDone = segmentCount j.entry.w2.toNat x.segExp && (x.ingest = 0 || o.feedEnded) && !o.voided && !o.tailSeen &&
  !((s.stream x.mediaStream).records.any fun r => r.job = j.id && r.offset < r.bytes.length)

/-- One signature of a TAIL (R105, R106, R137, R153); none where the loop of R138 ends. -/
def tailSign (a : Nat) (key root msg rnd : Bytes) : Option Bytes :=
  (signatureOf a key root msg rnd).2.map (signatureBlock a)

/-- The wick cycles of a TAIL signature and its check (R86, R144, R170), and its shroud words (R674). -/
def tailCost (a : Nat) (key root msg rnd : Bytes) : Nat × Nat :=
  if a = 0 then (0, 0) else
  let n := (signatureOf a key root msg rnd).1
  (signedCost a n msg.length false false + checkedCost a msg.length, signWords a n msg.length false false)

/-- The key a TAIL signature is made with. -/
def KeyFound.secretKey (k : KeyFound) : Bytes := match k with | .priv b => b | _ => []

/-- The signing key and then the next one stand in the WKR of the wick while it signs (R112, R257), and the wicks keep the expansion of the key the session's residency names (R128, R139). -/
def State.loadSigners (s : State) (j : Job) (first : Bool) : State :=
  let x := s.session j.entry.session
  let keys := s.objectKeys j
  let a := if x.signA = 0 then x.signB else x.signA
  let load := fun (s : State) (a : Nat) (k : KeyFound) => s.setWick j.wick ((s.wick j.wick).loadWkr k.secret a)
  let s := s.keepKeys j a (keys.getD 0 .bad) first (unitsOfClass j.units 1)
  let s := if x.signA = 0 then s else load s x.signA (keys.getD 0 .bad)
  if x.signB = 0 then s else load s x.signB (keys.getD (if x.signA = 0 then 0 else 1) .bad)

/-- The signing keys of an object write in their roles (R65, R130). -/
def State.signers (s : State) (j : Job) : List (Nat × Nat × KeyFound) :=
  let x := s.session j.entry.session
  let keys := s.objectKeys j
  (if x.signA = 0 then [] else [(0, x.signA, keys.getD 0 .bad)]) ++ (if x.signB = 0 then [] else [(1, x.signB, keys.getD (if x.signA = 0 then 0 else 1) .bad)])

/-- The TAIL is released, and the job ends when it is acknowledged; the digester, the octet and the sealer serve the object until then (R47 steps 9 and 10, R51). -/
def State.sendTail (s : State) (j : Job) (body : Bytes) : State :=
  let s := (s.releaseUnits j.units).leaveSealers j.id
  let s := s.modJob j.id fun j => { j with phase := .closing, status := BitVec.ofNat 8 jsOk, units := [], served := j.units.filter fun u => unitClass u = 5 || unitClass u = 7, waitsEntropy := false }
  let s := s.modObject j.id fun o => { o with tailSeen := true }
  s.releaseRecord j.id 4 j.obj.epoch 0 body

/-- MANIFEST_SIGN: the root is signed under the session's keys, each expanded and checked against its first use, and each signature verified on the second wick (R47 step 8, R86, R105, R106, R130, R140). -/
def State.manifestSign (s : State) (id : Nat) (check : Bool) : State :=
  s.during id 0x0701 fun j =>
    let n := j.entry.session
    let x := s.session n
    if !s.manifestReady j then s else
    if !check then s.checkFailed id else
    let first := (s.signers j).any fun k => !x.knows k.1
    match s.expandRoles n (s.signers j) with
    | none => s.checkFailed id
    | some s =>
      let o := j.obj
      let keyOf := fun (role : Nat) => (((s.signers j).find? fun k => k.1 = role).map fun k => k.2.2.secretKey).getD []
      let root := manifestRoot x.manifestAlg j.entry.w5 o.leaves
      let fixed := tailFixed j.entry.w2.toNat o.segmentsDone x o.epoch root
      let msg := tailFormatted (containerRecord 4 o.epoch j.entry.w5 0 o.chain (fixed ++ List.replicate (tailSignatures x) 0#8))
      let hedged := x.signMode = 1
      let s := s.loadSigners j first
      s.withShroud j true <|
      s.withDrawIf (hedged && x.signA ≠ 0) (List.replicate 32 0#8) id (s.tailPlace j) j.instOf 32 fun rndA s =>
      s.withDrawIf (hedged && x.signB ≠ 0) ((anyPublic x.signB (keyOf 1)).take (slhN x.signB)) id (s.tailPlace j + 1) j.instOf (slhN x.signB) fun rndB s =>
      let rootB := s.rootFor n 1 x.signB (keyOf 1)
      match if x.signA = 0 then some [] else tailSign x.signA (keyOf 0) [] msg rndA, if x.signB = 0 then some [] else tailSign x.signB (keyOf 1) rootB msg rndB with
      | some a, some b =>
        let ca := tailCost x.signA (keyOf 0) [] msg rndA
        let cb := tailCost x.signB (keyOf 1) rootB msg rndB
        (s.charge id (ca.1 + cb.1) 0 (ca.2 + cb.2)).sendTail j (fixed ++ a ++ b)
      | _, _ => s.replayJob id []

def execManifestSign (job : Nat) (check : Bool) (s : State) : Res := .next (s.manifestSign job check)

/-! ### Restoring -/

/-- The second wick has repeated the decapsulation whose WRAPPED_KEY failed to unwrap: equal secrets end the job VERIFY_FAIL, others end the attempt in replay (R51, R142). -/
def State.confirmed (s : State) (j : Job) (same : Bool) : State :=
  if (unitsOfClass j.units 1).length < 2 then s
  else if same then s.stageResult j.id jsVerifyFail 0 [] else s.checkFailed j.id

/-- OBJECT_RESTORE: the restore begins, and its stream is paced (R48 step 1, R442). Where a decapsulation is to be confirmed, it is the outcome of that on the second wick (R142); a failed check of a first expansion ends the attempt in replay (R130). -/
def State.objectRestore (s : State) (id : Nat) (check : Bool) : State :=
  s.during id 0x0702 fun j =>
    if j.obj.confirming then s.confirmed j check
    else if !check then s.checkFailed id
    else
      let s := if j.object.isNone then s.modObject id fun o => o else s
      s.evaluate (s.jobStream j)

def execObjectRestore (job : Nat) (check : Bool) (s : State) : Res := .next (s.objectRestore job check)

/-- A restore ends: bytes delivered stand in w6 where R82 and R108 say so. -/
def State.endRestore (s : State) (id st w6 : Nat) : State := s.stageResult id st w6 []

/-- A HEAD is opened: the private key is expanded and checked against its first use, and an object key that fails to unwrap has its decapsulation confirmed (R48 step 2, R99, R101, R108, R130, R142). -/
def State.restoreHead (s : State) (j : Job) (r : Bytes) : State :=
  let id := j.id
  let x := s.session j.entry.session
  let entry := x.recipient 0
  let length := field r 64 8
  match blockFor entry ((headBlocks r).getD []) with
  | none => s.endRestore id jsKeyInvalid 0
  | some b =>
    if j.entry.w4.toNat < length then s.endRestore id jsLengthShort length
    else if recChain r ≠ List.replicate 32 0#8 || field r (64 + 17) 1 ≠ x.manifestAlg || field r (64 + 18) 1 ≠ x.signA || field r (64 + 19) 1 ≠ x.signB then s.endRestore id jsVerifyFail 0
    else
      let a := field entry 0 1
      let found := (s.objectKeys j).getD 0 .bad
      let first := s.firstUse j
      match s.expandRole j.entry.session 0 a found with
      | none => s.checkFailed id
      | some s =>
        let s := (s.keepKeys j a found first (unitsOfClass j.units 1)).charge id (decapsCost a false) (hybridTaper a 1) ((if isMlKem a || isHybrid a then shroudDecaps a false else 0) + kekWords)
        let kek := recipientKek (anyDecaps a found.secretKey (cut b 80 (cipherSize a))) j.entry.w5 (field b 1 1) a
        let wrapped := cut b 40 40
        if !kwpAccepts kek wrapped then s.modObject id fun o => { o with confirming := true }
        else
          let objectKey := kwpUnwrap kek wrapped 32
          let salt := BitVec.ofNat 64 (field r (64 + 8) 8)
          let s := if s.sealerTaken j.objectSealer then s else s.loadSealerObject j.objectSealer j objectKey salt 0 0
          s.modObject id fun o => { o with headSeen := true, key := objectKey, salts := [salt], length := length, segExp := field r (64 + 20) 1, chain := chainAfter r, sealer := j.objectSealer }

/-- The plaintext of a segment is written to the host buffer, held while the function issues nothing (R49, R84, R231, R366, R381). -/
def State.deliver (s : State) (j : Job) (addr : Nat) (b : Bytes) : State :=
  let l := s.sliceLink j.slice
  let w : HostWrite := { link := l, pasid := s.slicePasid j.slice, kind := .plaintext, slot := j.slot, job := j.id, address := BitVec.ofNat 64 addr, bytes := b }
  if s.fnIssues l then s.emit (.hostWrite w)
  else if s.linkUp l then
    let f := s.fn l
    s.setFn l { f with held := f.held ++ [.plaintext w] }
  else s

/-- The sealer of a restore turns to the next segment, or to a new salt and its EPOCH, which its register holds (R226). -/
def State.turnSealer (s : State) (j : Job) (f : Sealer → Sealer) : State :=
  let n := j.objectSealer
  if (s.sealer n).job = some j.id then s.setSealer n (f (s.sealer n)) else s

/-- A SEG is decrypted on its way to the host buffer, where its plaintext is written before its tag has checked; its bytes count in w6 only after (R48 steps 4 and 5, R93, R108, R231). -/
def State.restoreSegment (s : State) (j : Job) (r : Bytes) : State :=
  let id := j.id
  let o := j.obj
  let x := s.session j.entry.session
  let body := recBody r
  let c := body.take (body.length - 16)
  let iv := segmentIv (o.salts.getLastD 0) o.segIndex
  let aad := segmentAad j.entry.w5 o.segIndex o.epoch
  let s := s.sealerReady j
  let s := s.bump (Key.sealerStatusSegments j.objectSealer)
  let addr := j.entry.w3.toNat + o.segIndex * 2 ^ o.segExp
  if !s.hostAllows j.slice addr c.length false true then (s.hostNotice j.slice).endRestore id jsAccess 0
  else
    let s := s.deliver j addr (gcmPlain o.key iv aad c)
    if gcmTag o.key iv aad c ≠ body.drop (body.length - 16) then (s.bump (Key.sealerStatusTagFailures j.objectSealer)).endRestore id jsVerifyFail o.payload
    else
      let s := s.turnSealer j fun x => { x with nextSegment := o.segIndex + 1 }
      s.modObject id fun o => { o with segIndex := o.segIndex + 1, segmentsDone := o.segmentsDone + 1, payload := o.payload + c.length, chain := chainAfter r, leaves := o.leaves ++ [manifestLeaf x.manifestAlg o.segIndex o.epoch body] }

/-- A signature block of a TAIL checks under its key and names the algorithm the session expects (R106, R108). -/
def tailSigOk (a : Nat) (k : KeyFound) (r : Bytes) (b : Option (Nat × Bytes)) : Bool :=
  match b with
  | some (alg, sig) => alg = a && sig.length = signatureSize a && verifies a (k.publicKey a) (tailFormatted r) sig
  | none => false

/-- A TAIL's totals, root and signatures, under keys expanded and checked against their first use (R48 steps 6 and 7, R105, R108, R130). The TAIL names the last epoch as well as the totals and the root: one that is not the highest used ends the restore VERIFY_FAIL, which R108 does not say of it (log 57). -/
def State.restoreTail (s : State) (j : Job) (r : Bytes) : State :=
  let o := j.obj
  let x := s.session j.entry.session
  let blocks := (tailBlocks r).getD []
  let keys := s.objectKeys j
  let n := if x.signA = 0 then 0 else 1
  let expected := n + if x.signB = 0 then 0 else 1
  let ok := field r 64 8 = o.length && o.payload = o.length && field r (64 + 8) 4 = o.segIndex && o.segIndex = segmentCount o.length o.segExp &&
    field r (64 + 12) 1 = x.manifestAlg && field r (64 + 14) 1 = o.epoch && cut r (64 + 16) 64 = cut (manifestRoot x.manifestAlg j.entry.w5 o.leaves) 0 64 &&
    blocks.length = expected && (x.signA = 0 || tailSigOk x.signA (keys.getD 1 .bad) r blocks[0]?) && (x.signB = 0 || tailSigOk x.signB (keys.getD (1 + n) .bad) r blocks[n]?)
  match s.expandRoles j.entry.session ((if x.signA = 0 then [] else [(1, x.signA, keys.getD 1 .bad)]) ++ if x.signB = 0 then [] else [(2, x.signB, keys.getD (1 + n) .bad)]) with
  | none => s.checkFailed j.id
  | some s =>
    let s := s.charge j.id ((if x.signA = 0 then 0 else checkedCost x.signA 142) + if x.signB = 0 then 0 else checkedCost x.signB 142) 0 0
    if ok then s.endRestore j.id jsOk o.payload else s.endRestore j.id jsVerifyFail o.payload

/-- Plaintext of a restore waits to be written (R381, R410). -/
def State.plaintextHeld (s : State) (j : Job) : Bool :=
  (s.fn (s.sliceLink j.slice)).held.any fun h => match h with
    | .plaintext w => w.job = j.id
    | _ => false

/-- RESTORE_RECORD: the next held record is taken, checked and used; a restore waits while its plaintext waits, and a segment while a direct job has its sealer (R48, R108, R229, R381). -/
def State.restoreRecord (s : State) (id : Nat) : State :=
  s.during id 0x0702 fun j =>
    if s.plaintextHeld j || j.obj.confirming then s else
    let n := s.jobStream j
    let x := s.stream n
    match x.records.find? (fun r => !r.taken) with
    | none => s
    | some q =>
      if recKind q.bytes = 2 && s.sealerTaken j.objectSealer then s else
      let s := s.setStream n { x with records := x.records.map fun r => if r.rsn = q.rsn then { r with taken := true, job := id } else r }
      let o := j.obj
      let r := q.bytes
      if !recordOk o j.entry.w5 r then s.endRestore id jsFormat o.payload
      else if recKind r = 1 then s.restoreHead j r
      else if recChain r ≠ o.chain then s.endRestore id jsVerifyFail o.payload
      else if recKind r = 2 then s.restoreSegment j r
      else if recKind r = 3 then (s.turnSealer j fun x => { x with salt := BitVec.ofNat 64 (field r 64 8), epoch := recEpoch r }).modObject id fun o => { o with epoch := recEpoch r, salts := o.salts ++ [BitVec.ofNat 64 (field r 64 8)], chain := chainAfter r }
      else if recKind r = 4 then s.restoreTail j r
      else s.endRestore id jsVerifyFail o.payload

def execRestoreRecord (job : Nat) (s : State) : Res := .next (s.restoreRecord job)

/-! ### Marks and stops -/

/-- STREAM_MARK: the marks wait behind the last record and are sent; the job ends when they are acknowledged (R444). -/
def State.streamMark (s : State) (id : Nat) : State :=
  s.during id 0x0703 fun j =>
    let n := s.jobStream j
    let x := s.stream n
    if (x.marksHeld.any fun m => m.1 = id) || x.marksSent.any fun m => m.1 = id then s
    else (s.setStream n { x with marksHeld := x.marksHeld ++ [(id, j.entry.w5.toNat)] }).evaluate n

def execStreamMark (job : Nat) (s : State) : Res := .next (s.streamMark job)

/-- Held records that no job has taken are discarded; the next RESUME names the first of them (R444). -/
def State.discardHeld (s : State) (n : Nat) : State :=
  let x := s.stream n
  if s.streamDir n ≠ 1 then s else
  match x.records.find? (fun r => !r.taken) with
  | none => s.setStream n { x with arriving := none }
  | some q => s.setStream n { x with records := x.records.filter (fun r => r.taken), nextRsn := q.rsn, arriving := none }

/-- STREAM_STOP: at once on a STOPPED stream; a moving medium glides, and the job ends when the bridge reports STATE 00h (R444). -/
def State.streamStop (s : State) (id : Nat) : State :=
  s.during id 0x0704 fun j =>
    let n := s.jobStream j
    let x := s.stream n
    if s.streamState n = stStopped then (s.discardHeld n).finish id []
    else if s.streamState n = stMoving then s.sendGlide n (if s.streamDir n = 0 then x.ackedRsn else x.nextRsn - 1)
    else s

def execStreamStop (job : Nat) (s : State) : Res := .next (s.streamStop job)

end Sys2Proof.Machine
end

