-- ==== Sys2Proof/Machine/RingOps.lean ====
section
/-! DEFINITION. Scanning a ring: when a queue may be read, the runs it asks for, and what a returned run does (R391, R395, R396, R407). -/

namespace Sys2Proof.Machine

/-- Places of the prefetch cache (R395). -/
def cachePlaces : Nat := 16

/-- Entries asked for in runs that are not to be discarded. -/
def Queue.asked (q : Queue) : Nat := ((q.runs.filter fun r => !r.dropped).map fun r => r.len).sum

/-- Free places of the cache, less what is asked for (R395). -/
def Queue.room (q : Queue) : Nat := cachePlaces - q.cache.length - q.asked

/-- The count of the next entry to ask for. -/
def Queue.next (q : Queue) : Nat := q.scanned + q.asked

/-- Entries from a count up to S beyond the published count (R395). -/
def State.ahead (s : State) (g count : Nat) : Nat :=
  s.ringSize g - (count + 2 ^ 32 - s.entry (Key.queueSlotPublished g)) % 2 ^ 32

/-- The device reads rings: in LIT and LOW, without a fatal stop. -/
def State.scans (s : State) : Bool := (s.isLit || s.power = .low) && s.fatal.isNone

/-- The longest run that may be asked for at a count: 16 whole entries at most, not across the end of the ring (R391, R395). -/
def State.runLength (s : State) (g count room : Nat) : Nat :=
  min (min room cachePlaces) (min (s.ringSize g - count % s.ringSize g) (s.ahead g count))

/-- Ask for one run. A read that fails its check is not issued, and the queue becomes ERROR with cause 01h (R407). -/
def State.askRun (s : State) (g start len : Nat) : State :=
  let q := s.queue g
  if s.hostAllows (s.slotSlice g) (s.entryAddr g (start % s.ringSize g)) (64 * len) true false then
    (s.setQueue g { q with runs := q.runs ++ [{ start := start, len := len, epoch := s.windowEpoch (s.slotSlice g), dropped := false }] }).emit (.ringRead g (start % s.ringSize g) len)
  else (s.setQueueState g qError).setEntry (Key.queueSlotErrorCause g) 1

/-- The scan of a queue goes on: not while it stands at an entry, waits for a re-read or for an ABORT, is full, or is at its limit (R395, R396, R399). -/
def State.mayScan (s : State) (g : Nat) : Bool :=
  let q := s.queue g
  s.queueState g = qActive && s.scans && q.aborting.isNone && !q.stopped && q.rereadDue.isNone && s.inFlight g < q.limit && s.fnIssues (s.slotLink g)

/-- Issue the runs that a scan may ask for now. -/
def scanRuns (g : Nat) : Nat → State → State
  | 0, s => s
  | fuel + 1, s =>
    let q := s.queue g
    let n := s.runLength g q.next q.room
    if !s.mayScan g || n = 0 then s else scanRuns g fuel (s.askRun g q.next n)

/-- Scan as far as the conditions of R395 allow. -/
def State.scan (s : State) (g : Nat) : State := scanRuns g cachePlaces s

/-- The scan stops at the entry at P, which had O = 0; inside the doorbell's range it is short, counted, and read once more (R395, R396). -/
def State.stopScan (s : State) (g : Nat) : State :=
  let q := s.queue g
  let i := q.scanned
  let short := i - q.range.start < q.range.len && !q.range.reread.contains i
  let s := s.setQueue g { q.dropRuns with stopped := true, rereadDue := if short then some i else none }
  if short then s.bump (Key.queueSlotShortDoorbells g) else s

/-- Number the entries of a run from its first count. -/
def numbered : Nat → List RingEntry → List (Nat × RingEntry)
  | _, [] => []
  | n, e :: rest => (n, e) :: numbered (n + 1) rest

/-- A run returns to a scan: entries up to the first with O = 0 enter the cache (R395). -/
def State.takeRun (s : State) (g : Nat) (r : RingRun) (entries : List RingEntry) : State :=
  let es := entries.take r.len
  let good := es.takeWhile RingEntry.owned
  let q := s.queue g
  let s := s.setQueue g { q with cache := q.cache ++ numbered q.scanned good, scanned := q.scanned + good.length }
  if good.length < es.length then s.stopScan g
  else if good.length < r.len then (s.setQueue g (s.queue g).dropRuns).scan g
  else s.scan g

/-- The re-read of R396 step 2 is due. -/
def State.reread (s : State) (g : Nat) : State :=
  let q := s.queue g
  match q.rereadDue with
  | none => s
  | some i => (s.setQueue g { q with rereadDue := none, stopped := false, range := { q.range with reread := q.range.reread ++ [i] } }).scan g

end Sys2Proof.Machine
end

