-- ==== Sys2Proof/Machine/Sealers.lean ====
section
/-! DEFINITION. The direct sealer commands (R225, R229, R233 to R236). -/

namespace Sys2Proof.Machine

/-- The parts of an AEAD input (R234): nonce, AAD, and the rest. -/
def aeadParts (input : Bytes) : Bytes × Bytes × Bytes :=
  let n := field input 12 4
  (cut input 0 12, cut input 16 n, input.drop (16 + n))

/-- The sealer that serves a direct job, or served it until its result was staged. -/
def Job.sealerOf (j : Job) : Nat := (unitsOfClass (if j.units.isEmpty then j.served else j.units) 6).getD 0 0

/-- The host input of a direct job. -/
def Job.sealerInput (j : Job) : Bytes := cut j.data.input 0 j.entry.w2.toNat

/-- Act with the 32-byte key that the vault loaded into the sealer's register for the job (R226, R233). -/
def State.withSealer (s : State) (id op : Nat) (f : Job → Bytes → Bytes → State) : State :=
  s.during id op fun j =>
    let x := s.sealer j.sealerOf
    match if x.job = some id then x.key else none with
    | some key => f j key j.sealerInput
    | none => s.failJob id jsKeyInvalid

/-- A tag or KWP check that fails is counted and ends the job VERIFY_FAIL (R235, R236). -/
def State.tagFails (s : State) (j : Job) : State := (s.bump (Key.sealerStatusTagFailures j.sealerOf)).failJob j.id jsVerifyFail

/-- The second pass of GCM-SIV reads the input from the host again (R236). What it reads where the host changed the input, which R236 forbids, is not stated: the model takes the bytes of the first read (log 35). -/
def State.readAgain (s : State) (j : Job) (k : State → State) : State :=
  if j.entry.alg ≠ 0x61 then k s
  else if !s.hostAllows j.slice j.entry.w1.toNat j.entry.w2.toNat true false then (s.hostNotice j.slice).failJob j.id jsAccess
  else k (s.emit (.hostRead j.id j.entry.w1 j.entry.w2.toNat))

/-- AEAD_ENCRYPT: the ciphertext and tag are staged (R233, R234, R236). -/
def State.aeadEncrypt (s : State) (id : Nat) : State :=
  s.withSealer id 0x0401 fun j key input =>
    let p := aeadParts input
    s.readAgain j fun s => s.finish id (aeadSeal j.entry.alg key p.1 p.2.1 p.2.2)

def execAeadEncrypt (job : Nat) (s : State) : Res := .next (s.aeadEncrypt job)

/-- The ciphertext of an AEAD_DECRYPT, before its tag. -/
def aeadCiphertext (input : Bytes) : Bytes :=
  let b := (aeadParts input).2.2
  b.take (b.length - 16)

/-- AEAD_DECRYPT: the tag is checked, and the ciphertext stays staged; its publication decrypts it (R236). -/
def State.aeadDecrypt (s : State) (id : Nat) : State :=
  s.withSealer id 0x0402 fun j key input =>
    let p := aeadParts input
    let c := aeadCiphertext input
    match aeadOpen j.entry.alg key p.1 p.2.1 c (p.2.2.drop c.length) with
    | some _ => s.finish id c
    | none => s.tagFails j

def execAeadDecrypt (job : Nat) (s : State) : Res := .next (s.aeadDecrypt job)

/-- A KWP result stays in the data buffer of the key register until it is written to the host (R236). -/
def State.holdData (s : State) (j : Job) (b : Bytes) : State :=
  (s.setSealer j.sealerOf { s.sealer j.sealerOf with data := b }).stageResult j.id jsOk b.length []

/-- KWP_WRAP: 8 × (ceil(n ÷ 8) + 1) bytes (R233). -/
def State.kwpWrapJob (s : State) (id : Nat) : State :=
  s.withSealer id 0x0403 fun j key input => s.holdData j (kwpWrap key input)

def execKwpWrap (job : Nat) (s : State) : Res := .next (s.kwpWrapJob job)

/-- KWP_UNWRAP: the integrity check, then the capacity for what was unwrapped (R82, R233, R236). -/
def State.kwpUnwrapJob (s : State) (id : Nat) : State :=
  s.withSealer id 0x0404 fun j key input =>
    if !kwpAccepts key input then s.tagFails j else
    let n := kwpLength key input
    if j.entry.w4.toNat < n then s.stageResult id jsLengthShort n [] else s.holdData j (kwpUnwrap key input n)

def execKwpUnwrap (job : Nat) (s : State) : Res := .next (s.kwpUnwrapJob job)

/-- What a job writes to its output range when it is published (R84): a sealer decrypts what an AEAD_DECRYPT staged on its way to the host, and gives a KWP result from its buffer (R236). -/
def State.outputBytes (s : State) (j : Job) : Bytes :=
  let x := s.sealer j.sealerOf
  if j.status.toNat ≠ jsOk then []
  else if j.entry.opcode = 0x0402 then
    let p := aeadParts j.sealerInput
    aeadCrypt j.entry.alg (x.key.getD []) p.1 (p.2.2.drop j.output.length) j.output
  else if j.entry.opcode = 0x0403 || j.entry.opcode = 0x0404 then x.data
  else j.output

end Sys2Proof.Machine
end

