-- ==== Sys2Proof/Machine/CommitOps.lean ====
section
/-! DEFINITION. The commit and the publication of a job: what it does at its commit point, opcode by opcode (R54, R84, R400), and the writes that follow (R366, R381, R401, R402, R407). -/

namespace Sys2Proof.Machine

/-! ### Effects at the commit -/

/-- The opened session (R60 to R63, R79): parameters and generation are stored, and it is OPEN. -/
def State.commitOpen (s : State) (j : Job) : State :=
  let n := j.entry.session
  let x : Session := { Session.free with state := .opened, gen := BitVec.ofNat 16 (j.drawn.getD 0 0), lastGen := (s.session n).lastGen, slice := j.slice, params := j.data.input.take 256 }
  (s.setSession n x).cacheOpened n

/-- OSK and AS with their record, then the counter (R460); the unit is provisioned again (R613). -/
def State.commitOsk (s : State) (key : Bytes) : State :=
  let osk := key.take 32
  let as := key.drop 32
  let s := { s with roots := { s.roots with osk := some osk, attestSecret := some as } }
  let s := (s.writeRecord 509 (deviceKey osk)).writeRecord 508 (deviceKey as)
  s.countLife.setEntry Key.tamperStatusReprovisionNeeded 0

/-- A loaded McEliece key becomes valid in its entry (R183). -/
def State.commitMce (s : State) (j : Job) : State :=
  let k := j.drawn.getD 0 0
  s.setMce k { s.mce k with gen := BitVec.ofNat 16 (j.drawn.getD 1 0), key := j.data.input.take j.entry.w2.toNat, live := true, dropped := false }

/-- A dropped McEliece key: no job fetched later finds it (R184). -/
def State.commitMceDrop (s : State) (j : Job) : State :=
  let k := bitsOf j.entry.w5.toNat 15 0
  s.setMce k { s.mce k with dropped := true }

/-- The entry of a build that wrote records; jobs fetched from now on may use it (R162, R164). -/
def State.commitLantern (s : State) (j : Job) : State :=
  if !(s.extents.any fun e => e.use = .lantern j.id) then s else
  let e : LanternEntry := { id := j.id, slice := j.slice, alg := BitVec.ofNat 8 j.entry.alg, check := j.check, size := s.buildSize j.id, validFrom := some s.nextJob, pins := [], dropped := false }
  { s with lanterns := s.lanterns ++ [e] }.bump Key.lanternCacheBuildsCompleted

/-- A dropped lantern entry goes with its extent (R166, R168). -/
def State.commitLanternDrop (s : State) (j : Job) : State :=
  match j.drawn.head? with
  | none => s
  | some k => ({ s with lanterns := s.lanterns.filter fun (e : LanternEntry) => e.id ≠ k }.release (.lantern k)).bump Key.lanternCacheEntriesDropped

/-- A loaded owner program (R289). -/
def State.commitProgram (s : State) (j : Job) : State :=
  let k := j.drawn.getD 0 0
  s.setProgram k { s.program k with gen := BitVec.ofNat 16 (j.drawn.getD 1 0), image := j.data.input.take j.entry.w2.toNat, live := true, dropped := false }

def State.commitProgramDrop (s : State) (j : Job) : State :=
  let k := 16 * j.slice + bitsOf j.entry.w5.toNat 3 0
  s.setProgram k { s.program k with dropped := true }

/-- Change the digest context a job names, when its handle is good. -/
def State.atContext (s : State) (j : Job) (f : DigestContext → DigestContext) : State :=
  match s.openContext j.entry with
  | some (k, c) => s.setContext k (f c)
  | none => s

/-- A context opened by DIG_OPEN is the session's under its handle; on a stream it takes the records that pass from now on (R246 to R248). -/
def State.commitDigOpen (s : State) (j : Job) : State :=
  let k := j.drawn.getD 0 0
  let c := s.context k
  let last := match c.attach with | .stream n _ => (s.stream n).passed | _ => 0
  s.setContext k { c with gen := BitVec.ofNat 16 (j.drawn.getD 1 0), objectJob := none, lastItem := last }

/-- The input of a DIG_UPDATE is absorbed; its end is a boundary of the digester, where finishes that wait take effect (R240, R241, R243, R249). -/
def State.commitUpdate (s : State) (j : Job) : State :=
  match s.openContext j.entry with
  | none => s
  | some (k, c) =>
    let d := (unitsOfClass j.served 5).getD (k / 64) 0
    (s.setContext k (c.absorb (j.data.input.take j.entry.w2.toNat))).boundaryEnds d [k]

/-- DIG_FINISH on an unattached context takes effect here, on an attached one it did at its boundary (R249). -/
def State.commitFinish (s : State) (j : Job) : State :=
  s.atContext j fun c => if c.attach = .none then c.finished (ctlToVault j.entry.w5.toNat) else c

/-- A closed context keeps its generation (R250). -/
def closedContext (c : DigestContext) : DigestContext := { DigestContext.closed with gen := c.gen }

/-- The key a job leaves in a vault slot enters it (R463, R465). -/
def State.commitKey (s : State) (j : Job) : State :=
  match j.keyOut with
  | some (slot, k) => if slot < 508 then s.enterKey slot k else s
  | none => s

/-- What a job that completes OK does at its commit point (R54, R84, R400). -/
def State.commitOk (s : State) (j : Job) : State :=
  let s := s.commitKey j
  let op := j.entry.opcode
  if op = 0x0601 then s.commitOpen j
  else if op = 0x0602 then s.freeSession j.entry.session
  else if op = 0x0605 then s.emptySlot (ctlSlot j.entry.w5.toNat)
  else if op = 0x0610 then s.commitOsk ((j.keyOut.map fun p => p.2.key).getD [])
  else if op = 0x0110 then s.commitMce j
  else if op = 0x0111 then s.commitMceDrop j
  else if op = 0x0210 then s.commitLantern j
  else if op = 0x0211 then s.commitLanternDrop j
  else if op = 0x0F01 then s.commitProgram j
  else if op = 0x0F03 then s.commitProgramDrop j
  else if op = 0x0302 then s.commitDigOpen j
  else if op = 0x0303 then s.commitUpdate j
  else if op = 0x0304 then s.commitFinish j
  else if op = 0x0306 then s.atContext j closedContext
  else s

/-- What a job that ends otherwise does: an open leaves the session FREE (R71). -/
def State.commitFailed (s : State) (j : Job) : State :=
  let n := j.entry.session
  let x := s.session n
  if j.entry.opcode = 0x0601 && x.opening && x.closedAt = j.id then s.setSession n { x with opening := false, closedAt := 0 } else s

/-- The effects of a commit. -/
def State.commit (s : State) (j : Job) : State := if j.status.toNat = jsOk then s.commitOk j else s.commitFailed j

/-! ### The writes -/

/-- w0 as it is written back (R401): O clear, STATUS in place, every other field as posted. -/
def Job.finalW0 (j : Job) : BitVec 64 :=
  (j.entry.w0 &&& ~~~(BitVec.ofNat 64 (2 ^ 63 + 0xFF * 2 ^ 48))) ||| BitVec.ofNat 64 (j.status.toNat * 2 ^ 48)

/-- One write of a job under its slice's PASID (R381). -/
def State.jobWrite (s : State) (j : Job) (kind : HostWriteKind) (addr : Nat) (b : Bytes) : State :=
  let l := s.sliceLink j.slice
  s.emit (.hostWrite { link := l, pasid := s.slicePasid j.slice, kind := kind, slot := j.slot, job := j.id, address := BitVec.ofNat 64 addr, bytes := b })

/-- The check of a job's output write, the first of its publication: where it fails the job completes ACCESS with w6 = 0, and what its commit would do does not happen (R54, R71, R366). A queue in ERROR writes nothing, so nothing is checked (R407). -/
def State.judgeOutput (s : State) (j : Job) : Job × State :=
  let b := s.outputBytes j
  if b.isEmpty || s.queueState j.slot = qError || s.hostAllows j.slice j.entry.w3.toNat b.length false true then (j, s)
  else ({ j with status := BitVec.ofNat 8 jsAccess, w6 := 0 }, s.hostNotice j.slice)

/-- The output of a job is written. -/
def State.writeOutput (s : State) (j : Job) : State :=
  if (s.outputBytes j).isEmpty then s else s.jobWrite j .output j.entry.w3.toNat (s.outputBytes j)

/-- w6 and w0, each checked as it issues; a failure makes the queue ERROR (R401, R407). -/
def State.writeEntryWords (s : State) (j : Job) : State :=
  let a := s.entryAddr j.slot (j.count % s.ringSize j.slot)
  if !s.hostAllows j.slice (a + 48) 8 false true then s.writeBackFailed j.slot
  else
    let s := s.jobWrite j .w6 (a + 48) (leBytes 8 j.w6.toNat)
    if !s.hostAllows j.slice a 8 false true then s.writeBackFailed j.slot
    else s.jobWrite j .w0 a (leBytes 8 j.finalW0.toNat)

/-- The writes of a publication; a queue in ERROR writes nothing more (R407). -/
def State.writeJob (s : State) (j : Job) : State :=
  if s.queueState j.slot = qError then s else
  let s := (s.writeOutput j).writeEntryWords j
  if s.queueState j.slot = qError then s else s.entryDone j.slot j.count j.entry.irq

/-! ### The end of a job -/

/-- Records a restore took go with it, and a stream is free for the next object (R50, R442). -/
def State.leaveStreams (s : State) (id : Nat) : State :=
  { s with streams := s.streams.map fun (p : Nat × Stream) => (p.1, { p.2 with records := p.2.records.filter (fun r => !(r.taken && r.job = id)), currentJob := if p.2.currentJob = some id then none else p.2.currentJob }) }

/-- A completed job leaves: what it held is released (R50), and what waited for it goes on (R70, R73, R395, R408). -/
def State.retire (s : State) (j : Job) : State :=
  let s := s.dropJob j.id
  let s := (((s.leaveSealers j.id).releaseContexts j.id).unpin j.id).freeBuild j.id
  let x := s.session j.entry.session
  let s := if j.entry.opcode = 0x0701 && x.ingest = 1 then s.leaveFeed j x.feedStream else s
  let s := s.leaveStreams j.id
  (((s.settleSession j.entry.session).settleDrain j.slot).settleTurns).scan j.slot

/-- The function may not issue the writes of a job now, and its link is up: they are held (R381, R410). -/
def State.holdPublication (s : State) (j : Job) : State :=
  let l := s.sliceLink j.slice
  let f := s.fn l
  if f.held.contains (.publication j.id) then s else s.setFn l { f with held := f.held ++ [.publication j.id] }

/-- The publication of a staged job may start: an erase waits for the copies of earlier jobs (R468), and the jobs of a queue for the end of an ABORT's scan (R399); one that used a taper waits for its wipe (R214). -/
def State.mayPublish (s : State) (j : Job) : Bool :=
  j.phase = .staged && s.fatal.isNone && (s.queue j.slot).aborting.isNone && !(s.tapers.any fun p => p.2.mustWipe && p.2.job = some j.id) && !(j.entry.opcode = 0x0605 && j.status.toNat = jsOk && s.slotHeld (ctlSlot j.entry.w5.toNat) j.id)

/-- An OWN_PROG_LOAD that did not end OK is counted (R295). -/
def State.countRefused (s : State) (j : Job) : State :=
  if j.entry.opcode = 0x0F01 && j.status.toNat ≠ jsOk then s.bump Key.wickProgramsOwnerLoadsRefused else s

/-- A job's output is checked, it commits, is written back, and leaves (R54, R84). -/
def State.publishNow (s : State) (j : Job) : State :=
  let (j, s) := s.judgeOutput j
  let s := ((s.commit j).countRefused j).writeJob j
  { s.retire j with activityAt := s.timestamp }

/-- Publication of one job (R84): held while its function issues nothing, without writes when its queue is in ERROR. -/
def State.publish (s : State) (id : Nat) : State :=
  match s.findJob id with
  | none => s
  | some j =>
    if !s.mayPublish j then s
    else if s.fnIssues (s.sliceLink j.slice) || s.queueState j.slot = qError then s.publishNow j
    else s.holdPublication j

/-- The jobs of a slot's erase that can commit now (R468). -/
def State.commitEraseJob (s : State) (slot : Nat) : State :=
  match s.jobs.find? (fun j => j.entry.opcode = 0x0605 && j.phase = .staged && ctlSlot j.entry.w5.toNat = slot) with
  | some j => s.publish j.id
  | none => s

end Sys2Proof.Machine
end

