-- ==== Sys2Proof/Machine/DispatchOps.lean ====
section
/-! DEFINITION. Doorbells and the commands they carry (R394, R396, R398, R399), and the dispatcher's choice and fetch of one entry (R397, R404, R405, R573). -/

namespace Sys2Proof.Machine

/-! ### Fetched entries -/

/-- The job an entry becomes at its fetch (R397). -/
def State.newJob (s : State) (g count : Nat) (e : RingEntry) (data : HostData) : Job :=
  let slc := s.slotSlice g
  let steady := if s.flag (Key.sliceConfigSteady slc) then some (s.entry (Key.sliceConfigSteadySconces slc), s.entry (Key.sliceConfigSteadyTapers slc)) else none
  { id := s.nextJob, slot := g, count := count, slice := slc, entry := e, data := data, phase := .turn, status := 0, w6 := 0, output := [], keyOut := none, drawn := [], retries := 0, failed := [], units := [], served := [], kept := [], check := [], build := none, taperRules := (s.entry Key.taperBankStrikeClearJobs, s.entry Key.taperBankWaitWatchdog), keyRules := { uses := BitVec.ofNat 16 (s.entry (Key.sliceKeyDefaultsUses slc)), exportable := s.flag (Key.sliceKeyDefaultsExportable slc), bindBlobs := s.flag (Key.sliceKeyDefaultsBindBlobs slc) }, cycles := 0, taperCycles := 0, shroud := 0, waitsEntropy := false, snooped := [], steady := steady, object := none }

/-- An entry is fetched: it is counted, and the fetch point advances (R397, R413). -/
def State.enterJob (s : State) (j : Job) : State :=
  let g := j.slot
  let s := { s with jobs := s.jobs ++ [j], nextJob := s.nextJob + 1 }
  let s := s.setQueue g { s.queue g with fetched := j.count + 1 }
  (s.setEntry (Key.queueSlotFetchPoint g) ((j.count + 1) % s.ringSize g)).bump (Key.queueSlotFetched g)

/-! ### ABORT -/

/-- A fetched entry that has not committed ends ABORTED; its attempt is discarded, with no fault and no retry (R399 step 2, R400). -/
def State.abortJob (s : State) (id : Nat) : State := ((s.releaseContexts id).stageResult id jsAborted 0 []).settleResult id

/-- An entry the ABORT's scan finds is fetched and ends ABORTED without the checks of R80 (R399 step 3). -/
def State.abortFound (s : State) (g : Nat) (e : RingEntry) : State :=
  let j := s.newJob g (s.queue g).fetched e { keyA := [], keyB := [], keyC := [], keyD := [], recipients := [], input := [] }
  let s := s.enterJob { j with phase := .staged, status := BitVec.ofNat 8 jsAborted }
  s.setQueue g { s.queue g with scanned := j.count + 1 }

/-- The jobs of a slot, in ring order. -/
def State.slotJobs (s : State) (g : Nat) : List Nat := (s.jobs.filter fun j => j.slot = g).map (·.id)

/-- Steps 4 and 5 of R399: the ABORTED entries are published in ring order, the queue is ACTIVE, and the command is acknowledged; nothing is written for a queue in ERROR. -/
def State.finishAbort (s : State) (g : Nat) (token : BitVec 8) : State :=
  let s := s.setQueue g { s.queue g with aborting := none, stopped := true }
  let s := (s.slotJobs g).foldl State.publish s
  if s.queueState g = qError then s else (s.setQueueState g qActive).acknowledge g 2 token 0

/-- Step 3 of R399: the next run of the scan, or its end. A place S beyond the published count ends it too (R392, R395). -/
def State.abortScan (s : State) (g : Nat) : State :=
  let q := s.queue g
  match q.aborting with
  | none => s
  | some (token, left) =>
    if q.asked ≠ 0 || !s.scans || !s.fnIssues (s.slotLink g) then s else
    let n := min left (s.runLength g q.scanned cachePlaces)
    if n = 0 then s.finishAbort g token
    else
      let s := s.askRun g q.scanned n
      if s.queueState g = qError then s.finishAbort g token else s

/-- A run of the ABORT's scan returns. -/
def State.abortRun (s : State) (g : Nat) (r : RingRun) (entries : List RingEntry) : State :=
  match (s.queue g).aborting with
  | none => s
  | some (token, left) =>
    let es := entries.take r.len
    let good := es.takeWhile RingEntry.owned
    let s := good.foldl (fun s e => s.abortFound g e) s
    let s := s.setQueue g { s.queue g with aborting := some (token, left - good.length) }
    if good.length < es.length then s.finishAbort g token else s.abortScan g

/-- The cache is emptied and P goes back to the fetch point; what is in flight is discarded when it returns (R398, R399). -/
def Queue.rewind (q : Queue) : Queue :=
  { q.dropRuns with cache := [], scanned := q.fetched, stopped := true, rereadDue := none, range := { start := q.fetched, len := 0, reread := [] } }

/-- ABORT of a compact queue, steps 1 to 3; a jumbo queue refuses it (R399). -/
def State.takeAbort (s : State) (g : Nat) (token : BitVec 8) (tail : Nat) : State :=
  if s.entry (Key.queueSlotKind g) = 1 then s.acknowledge g 2 token 1 else
  let q := (s.queue g).rewind
  let size := s.ringSize g
  let d := (tail + size - q.scanned % size) % size
  let s := s.setQueue g { q with aborting := some (token, if d = 0 then size - 1 else d) }
  let s := (s.slotJobs g).foldl State.abortJob s
  s.abortScan g

/-! ### Doorbells -/

/-- RING starts or continues the scan (R396). -/
def State.takeRing (s : State) (g tail : Nat) : State :=
  let s := if s.queueState g = qPaused then s.setQueueState g qActive else s
  let q := s.queue g
  let size := s.ringSize g
  (s.setQueue g { q with range := { start := q.scanned, len := (tail + size - q.scanned % size) % size, reread := [] }, rereadDue := none, stopped := false }).scan g

/-- INVALIDATE (R398). -/
def State.takeInvalidate (s : State) (g : Nat) (token : BitVec 8) : State :=
  let s := (s.setQueue g (s.queue g).rewind).setQueueState g qPaused
  s.acknowledge g 1 token 0

/-- A doorbell reaches its queue; a bad one is discarded and counted. TAIL is not judged for INVALIDATE, which ignores it (R394). -/
def State.takeDoorbell (s : State) (g : Nat) (v : BitVec 32) : State :=
  let cmd := bitsOf v.toNat 31 28
  let token := BitVec.ofNat 8 (bitsOf v.toNat 27 20)
  let tail := bitsOf v.toNat 19 0
  let st := s.queueState g
  if 3 ≤ cmd || st = qDisabled || st = qError || st = qDraining || (cmd ≠ 1 && s.ringSize g ≤ tail) then s.bump (Key.queueSlotBadDoorbells g)
  else if cmd = 0 then s.takeRing g tail
  else if cmd = 1 then s.takeInvalidate g token
  else s.takeAbort g token tail

/-- A queue takes its doorbells one at a time: one that comes during an ABORT waits (R394). -/
def State.queueDoorbell (s : State) (g : Nat) (v : BitVec 32) : State :=
  let q := s.queue g
  if q.aborting.isSome then s.setQueue g { q with doorbells := q.doorbells ++ [v] } else s.takeDoorbell g v

/-- Take the doorbells that waited, as far as the next ABORT. -/
def takeWaiting (g : Nat) : Nat → State → State
  | 0, s => s
  | fuel + 1, s =>
    let q := s.queue g
    if q.aborting.isSome then s else
    match q.doorbells with
    | [] => s
    | v :: rest => takeWaiting g fuel ((s.setQueue g { q with doorbells := rest }).takeDoorbell g v)

def State.takeDoorbells (s : State) (g : Nat) : State := takeWaiting g (s.queue g).doorbells.length s

/-- The slot a doorbell of a link reaches; none where the write is discarded at the function (R40, R381, R383, R394, R408). -/
def State.doorbellSlot (s : State) (l slc q : Nat) (sized : Bool) : Option Nat :=
  let f := s.fn l
  if sized && s.sliceLink slc = l && s.scans && f.pasidEnable && f.power = .d0 then s.slotFor slc q else none

/-- A write to a doorbell page of a link (R394). -/
def State.doorbell (s : State) (l slc q : Nat) (sized : Bool) (v : BitVec 32) : State :=
  if !s.linkUp l then s else
  match s.doorbellSlot l slc q sized with
  | none => s.bump (Key.hostLinkDoorbellDrops l)
  | some g => ({ s with activityAt := s.timestamp }.queueDoorbell g v).takeDoorbells g

/-! ### The dispatcher -/

/-- The dispatcher fetches (R405, R584, R641). -/
def State.dispatches (s : State) : Bool := s.isLit && !s.fetchStopped && s.fatal.isNone && s.jobs.length < 65536

/-- A queue is ready (R404), and its slice is not being cleared (R344). -/
def State.ringReady (s : State) (g : Nat) : Bool :=
  let q := s.queue g
  s.queueState g = qActive && q.aborting.isNone && !q.cache.isEmpty && s.inFlight g < q.limit && s.fnIssues (s.slotLink g) &&
  !s.clearingAll && !s.clearing.contains (s.slotSlice g)

/-- The slice of a slot runs under steady scheduling (R572). -/
def State.slotSteady (s : State) (g : Nat) : Bool := s.flag (Key.sliceConfigSteady (s.slotSlice g))

/-- The ready queues, steady or not, by ascending slot. -/
def State.readySlots (s : State) (steady : Bool) : List Nat :=
  if s.dispatches then s.liveSlots.filter fun g => s.ringReady g && s.slotSteady g = steady else []

/-- A ready queue joins the round with full credit; Weight, Burst and InFlightLimit are taken now (R390, R404). -/
def State.joinRound (s : State) (g : Nat) : State :=
  let q := s.queue g
  if q.inRound then s
  else s.setQueue g { q with inRound := true, credit := s.entry (Key.queueSlotWeight g), visit := 0, burst := s.entry (Key.queueSlotBurst g), limit := s.entry (Key.queueSlotInFlightLimit g) }

/-- A new round begins (R390, R404). -/
def State.newRound (s : State) : State :=
  s.liveSlots.foldl (fun s g =>
    let q := s.queue g
    (s.setQueue g { q with inRound := false, credit := 0, visit := 0, burst := s.entry (Key.queueSlotBurst g), limit := s.entry (Key.queueSlotInFlightLimit g) }).scan g) s

/-- The first of a list after a number, else the first. -/
def nextAfter (xs : List Nat) (k : Nat) : Option Nat :=
  match xs.find? (fun x => k < x) with
  | some x => some x
  | none => xs.head?

/-- The queue the round serves next, its visit begun where it is another's turn (R404). -/
def State.roundPick (s : State) : Option Nat × State :=
  let ready := s.readySlots false
  let s := ready.foldl State.joinRound s
  let last := s.queue s.lastServed
  if ready.contains s.lastServed && 0 < last.visit && 0 < last.credit then (some s.lastServed, s)
  else
    match nextAfter (ready.filter fun g => 0 < (s.queue g).credit) s.lastServed with
    | none => (none, s)
    | some g =>
      let q := s.queue g
      (some g, { s.setQueue g { q with visit := min q.burst q.credit } with lastServed := g })

/-- The queue the weighted rounds serve, in a new round where the present one is over (R404). -/
def State.weightedPick (s : State) : Option Nat × State :=
  match s.roundPick with
  | (some g, s) => (some g, s)
  | (none, s) => s.newRound.roundPick

/-- The steady queue whose slice's turn it is: the lowest ready slot of the next steady slice (R573). -/
def State.steadyPick (s : State) : Option Nat :=
  let ready := s.readySlots true
  let slices := (List.range 512).filter fun n => ready.any fun g => s.slotSlice g = n
  match nextAfter slices s.lastSteady with
  | none => none
  | some n => ready.find? fun g => s.slotSlice g = n

/-- Fetch the oldest cached entry of a queue: it is checked, and admitted or done with the status of its first failure (R80, R397). -/
def State.fetchFrom (s : State) (g : Nat) (data : HostData) : State :=
  let q := s.queue g
  match q.cache with
  | [] => s
  | (count, e) :: rest =>
    let j := s.newJob g count e data
    let s := { s.setQueue g { q with cache := rest } with activityAt := s.timestamp }
    let s := s.enterJob j
    let s := match s.checkJob j with
      | some (st, w6) => s.stageResult j.id st w6 []
      | none => s.takeFetched j
    s.scan g

/-- The hub cycle's one fetch (R35, R404, R573). -/
def State.fetch (s : State) (data : HostData) : State :=
  if !s.hubOn then s else
  let s := { s with hubCycle := s.hubCycle + 1 }
  match if s.hubCycle % 16 = 0 then s.steadyPick else none with
  | some g => { s with lastSteady := s.slotSlice g }.fetchFrom g data
  | none =>
    match s.weightedPick with
    | (none, s) => s
    | (some g, s) =>
      let q := s.queue g
      (s.setQueue g { q with credit := q.credit - 1, visit := q.visit - 1 }).fetchFrom g data

end Sys2Proof.Machine
end

