-- ==== Sys2Proof/Machine/Links.lean ====
section
/-! DEFINITION. The commands of a host link: function resets, D3hot, PASID Enable, training, MSI-X unmasking (R374, R381, R406, R408, R410), and PAUSE on a media port (R416). -/

namespace Sys2Proof.Machine

/-! ### Held writes -/

/-- Plaintext that waited is written, or fails its check and ends its restore ACCESS (R366, R381, R410). -/
def State.writePlaintext (s : State) (w : HostWrite) : State :=
  match s.findJob w.job with
  | none => s
  | some j =>
    if s.hostAllows j.slice w.address.toNat w.bytes.length false true then s.emit (.hostWrite w)
    else (s.hostNotice j.slice).stageResult j.id jsAccess 0 []

/-- Issue one held write. -/
def State.writeHeld (s : State) (h : Held) : State :=
  match h with
  | .publication id => s.publish id
  | .status g => s.issueStatus g
  | .plaintext w => s.writePlaintext w

/-- The function issues requests again: held writes go in order, vectors are sent, and scanning resumes (R381, R406, R410). -/
def State.resumeLink (s : State) (l : Nat) : State :=
  let s := s.deliverVectors l
  if !s.fnIssues l then s else
  let f := s.fn l
  let s := f.held.foldl State.writeHeld (s.setFn l { f with held := [] })
  (s.linkSlots l).foldl (fun s g => ((s.scan g).abortScan g).takeDoorbells g) s

/-! ### Resets and power states of a function -/

/-- R408: a function reset of a link that is up. After FLR and a hot reset the function is in D0; link-down and D3cold leave the link down. -/
def execFunctionReset (link : Fin 8) (kind : FunctionResetKind) (s : State) : Res :=
  .next (
    let l := link.val
    if !s.linkUp l then s else
    match kind with
    | .flr => (s.functionReset l).setEntry (Key.hostLinkLinkState l) 2
    | .hotReset => (s.functionReset l).setEntry (Key.hostLinkLinkState l) 2
    | .linkDown => (s.linkDown l).bump (Key.hostLinkLinkErrors l)
    | .d3cold => let s := s.linkDown l; s.setFn l { s.fn l with power := .d3cold })

/-- R408: the last job of a DRAINING queue has ended. -/
def execQueueDrained (slot : Fin 2048) (s : State) : Res := .next (s.settleDrain slot.val)

/-- R410: the function enters D3hot. -/
def execD3hotEntry (link : Fin 8) (s : State) : Res :=
  .next (
    let l := link.val
    if s.linkUp l && (s.fn l).power = .d0 then (s.setFn l { s.fn l with power := .d3hot }).setEntry (Key.hostLinkLinkState l) 3 else s)

/-- R410: the function returns to D0, which is no reset. -/
def execD0Return (link : Fin 8) (s : State) : Res :=
  .next (
    let l := link.val
    if s.linkUp l && (s.fn l).power = .d3hot then ((s.setFn l { s.fn l with power := .d0 }).setEntry (Key.hostLinkLinkState l) 2).resumeLink l else s)

/-- R381: PASID Enable is cleared. -/
def execPasidEnableClear (link : Fin 8) (s : State) : Res :=
  .next (if s.linkUp link.val then s.setFn link.val { s.fn link.val with pasidEnable := false } else s)

/-- R381: PASID Enable is set. -/
def execPasidEnableSet (link : Fin 8) (s : State) : Res :=
  .next (if s.linkUp link.val then (s.setFn link.val { s.fn link.val with pasidEnable := true }).resumeLink link.val else s)

/-- The rate and width are ones R375 lets the link negotiate. -/
def State.trains (s : State) (l speed width : Nat) : Bool :=
  1 ≤ speed && speed ≤ 5 && [1, 2, 4, 8, 16].contains width && width ≤ 8 * (s.linkOctets l).length

/-- R374: an enabled link that is down without a conflict comes up; its octets must be in service (R633). -/
def execHostLinkUp (link : Fin 8) (speed width : BitVec 8) (s : State) : Res :=
  .next (
    let l := link.val
    if s.entry (Key.hostLinkLinkState l) ≤ 1 && (s.isLit || s.power = .low) && (s.linkOctets l).all (fun o => s.inService (uOctet o) && s.supplies.refclk100.getLsbD (o / 8)) && s.trains l speed.toNat width.toNat then
      let s := ((s.setEntry (Key.hostLinkLinkState l) 2).setEntry (Key.hostLinkSpeed l) speed.toNat).setEntry (Key.hostLinkNegotiatedWidth l) width.toNat
      s.setFn l { HostFn.reset with ready := s.isLit && s.fatal.isNone }
    else s)

/-- R406: a vector, the function or MSI-X is unmasked, and what is pending is sent. -/
def execMsixVectorUnmask (link : Fin 8) (what : MsixUnmask) (s : State) : Res :=
  .next (
    let l := link.val
    if !s.linkUp l then s else
    let f := s.fn l
    let f := match what with
      | .vector v a d => { f with msix := Table.set (fun _ => MsixEntry.reset) f.msix v.val { address := a, data := d, masked := false } }
      | .function => { f with functionMask := false }
      | .enable => { f with msixEnable := true }
    (s.setFn l f).deliverVectors l)

/-! ### PAUSE -/

/-- The line rate of a port in Mbit/s, 0 where the port carries no Ethernet (R414). -/
def State.portRate (s : State) (p : Nat) : Nat :=
  let o := p / 8
  match s.octetMode o with
  | 1 => (match s.entry (Key.octetMediaLaneSpeed o) with | 1 => 10000 | 2 => 25000 | _ => 50000)
  | 2 => 100000
  | 3 => 200000
  | 4 => 400000
  | _ => 0

/-- Transmission of a priority stops for a number of quanta of 512 bit times, in hub cycles of 1.2 GHz (R416). -/
def State.pausePort (s : State) (p pcp quanta : Nat) : State :=
  let n := ceilDiv (quanta * 512 * 1200) (s.portRate p)
  { s with pauses := Table.set (fun _ => 0) s.pauses (8 * p + pcp) (if quanta = 0 then 0 else s.hubCycle + n) }

/-- R416: a PAUSE or PFC frame is honoured and counted; a direct lane drops it as a frame of another EtherType. -/
def execPauseFrame (port : Fin 256) (pause : PauseFrame) (s : State) : Res :=
  .next (
    let p := port.val
    if !s.isLit || !s.flag (Key.mediaPortLinkUp p) then s else
    let s := s.bump (Key.mediaPortRxFrames p)
    if s.portRate p = 0 then s.bump (Key.mediaPortUnknownDrops p) else
    let s := s.bump (Key.mediaPortPauseReceived p)
    let s := match pause with
      | .pause q => (List.range 8).foldl (fun (s : State) c => s.pausePort p c q.toNat) s
      | .pfc qs => qs.foldl (fun (s : State) (x : Fin 8 × BitVec 16) => s.pausePort p x.1.val x.2.toNat) s
    (s.liveStreams.filter fun n => s.entry (Key.mediaStreamPort n) = p).foldl State.pump s)

end Sys2Proof.Machine
end

