-- ==== Sys2Proof/Machine/MailboxOps.lean ====
section
/-! DEFINITION. Mailboxes: their registers (R536) and the end of an operation (R537). -/

namespace Sys2Proof.Machine

/-- INDEX and SUB of MB_ADDR (R536). -/
def mbIndex (addr : BitVec 32) : Nat := bitsOf addr.toNat 23 8
def mbSub (addr : BitVec 32) : Nat := bitsOf addr.toNat 7 0

/-- The mailbox of a slice is served on a link (R535). -/
def State.mailboxOn (s : State) (link slc : Nat) : Bool := s.sliceLink slc = link && s.mailboxServed slc

/-- BUSY of a mailbox: its operation, an erase that waits, has not ended, and writes of its registers are ignored (R468, R537). -/
def State.mailboxBusy (s : State) (slc : Nat) : Bool := bitOf (s.mailbox slc).status.toNat 31

end Sys2Proof.Machine
end

