-- ==== Sys2Proof/Machine/Mailbox.lean ====
section
/-! DEFINITION. The commands of the mailboxes (R535 to R539). A command stands for the writes of MB_ADDR, MB_LEN and MB_DATA and the write of MB_CMD that starts it; reserved bits of the registers ignore writes and read zero (R10); nothing arrives on a link that is down, and a mailbox with BUSY set ignores them. -/

namespace Sys2Proof.Machine

/-- R537: READ. A value longer than 8,192 bytes ends with LENGTH. -/
def execMbRead (link : Fin 8) (slice : Fin 512) (addr : BitVec 32) (s : State) : Res :=
  .next (
    if !s.linkUp link.val then s
    else if !s.mailboxOn link.val slice.val then s.bump (Key.hostMailboxMailboxDrops link.val)
    else if s.mailboxBusy slice.val then s else
    let r := s.judgeRead (.mailbox slice) (mbIndex addr) (mbSub addr)
    let v := s.readBytes (mbIndex addr) (mbSub addr)
    if r ≠ drOk then s.endMailbox link.val slice.val addr r none
    else if 8192 < v.length then s.endMailbox link.val slice.val addr drLength none
    else s.endMailbox link.val slice.val addr drOk (some v))

/-- R537: WRITE of the first LENGTH bytes of MB_DATA. An accepted write takes effect, and the operation then ends; a reset it asks for follows the completion (R538, R561), and an erase of a vault slot keeps BUSY set until it commits (R468), a write of a host window until it completes (R370, R539). -/
def execMbWrite (link : Fin 8) (slice : Fin 512) (addr : BitVec 32) (len : BitVec 32) (data : Bytes) (s : State) : Res :=
  .next (
    if !s.linkUp link.val then s
    else if !s.mailboxOn link.val slice.val then s.bump (Key.hostMailboxMailboxDrops link.val)
    else if s.mailboxBusy slice.val then s else
    let s := s.setMailbox slice.val { s.mailbox slice.val with len := len &&& 0x3FFF#32, data := data.take 8192 }
    let v := cut data 0 (bitsOf len.toNat 13 0)
    let r := s.judgeWrite (.mailbox slice) (mbIndex addr) (mbSub addr) v
    if r = drOk && isLate (mbIndex addr) (mbSub addr) then
      (s.setMailbox slice.val { s.mailbox slice.val with addr := addr &&& 0xFFFFFF#32, status := BitVec.ofNat 32 (2 ^ 31) }).lateWrite (mbIndex addr) (mbSub addr) (leNat v) (.mailbox link.val slice.val addr)
    else
    let s := s.endMailbox link.val slice.val addr r none
    if r = drOk then s.applyWrite (mbIndex addr) (mbSub addr) v else s)

/-- R537: INFO. -/
def execMbInfo (link : Fin 8) (slice : Fin 512) (addr : BitVec 32) (s : State) : Res :=
  .next (
    if !s.linkUp link.val then s
    else if !s.mailboxOn link.val slice.val then s.bump (Key.hostMailboxMailboxDrops link.val)
    else if s.mailboxBusy slice.val then s else
    let r := s.infoOp (.mailbox slice) (mbIndex addr) (mbSub addr)
    s.endMailbox link.val slice.val addr r.1 (if r.1 = drOk then some r.2 else none))

end Sys2Proof.Machine
end

