-- ==== Sys2Proof/Machine/VectorOps.lean ====
section
/-! DEFINITION. How the SV unit executes an instruction: element arithmetic (R301, R306, R307), beats and latency (R304, R305), share tags (R298 to R300), linear and nonlinear shared mode at both orders (R310 to R315). -/

namespace Sys2Proof.Machine

/-! ### Element arithmetic -/

/-- The share combination ⊕, its inverse ⊖ and the product ⊙ of a group (R312). -/
structure Ring where
  add : Nat → Nat → Nat
  sub : Nat → Nat → Nat
  mul : Nat → Nat → Nat

/-- Boolean shares. -/
def boolRing : Ring := { add := (· ^^^ ·), sub := (· ^^^ ·), mul := (· &&& ·) }

/-- Arithmetic shares modulo n: 2^w or q. -/
def modRing (n : Nat) : Ring :=
  { add := fun a b => (a + b) % n, sub := fun a b => (a % n + n - b % n) % n, mul := fun a b => a * b % n }

/-- Complement of a w-bit element. -/
def complement (w a : Nat) : Nat := 2 ^ w - 1 - a % 2 ^ w

/-- Apply an element operation to two halves. -/
def perElement (w : Nat) (f : Nat → Nat → Nat) (a b : Nat) : Nat := joinElements w (List.zipWith f (elements w a) (elements w b))

/-- A half's random elements from shroud words: one word gives a w-bit field per element; for shares modulo q, two words give 2w-bit values scaled by q (R312). -/
def randomHalf (w : Nat) (q : Option Nat) (ws : List Nat) : Nat :=
  match q with
  | none => ws.getD 0 0
  | some q => joinElements w (List.zipWith (fun lo hi => (lo + 2 ^ w * hi) * q / 2 ^ (2 * w)) (elements w (ws.getD 0 0)) (elements w (ws.getD 1 0)))

/-- Shroud words one random half takes (R312). -/
def randomWords (q : Option Nat) : Nat := if q.isSome then 2 else 1

/-- The k-th random half of an instruction's words. -/
def nthRandom (w : Nat) (q : Option Nat) (ws : List Nat) (k : Nat) : Nat := randomHalf w q (ws.drop (k * randomWords q))

/-- The value shares combine to (R296). -/
def combine (w : Nat) (r : Ring) : List Nat → Nat
  | [] => 0
  | [a] => a
  | a :: l => perElement w r.add a (combine w r l)

/-- A value split with fresh shares after the first: share 0 is what remains (R313, R315). -/
def splitShares (w : Nat) (r : Ring) (v : Nat) (fresh : List Nat) : List Nat :=
  fresh.foldl (fun a x => perElement w r.sub a x) v :: fresh

/-! ### Issue -/

/-- The cycle the SV unit takes an instruction in: its sources and the unit are ready (R304). -/
def Wick.svBegin (x : Wick) (gs : List (BitVec 5)) (ss : List Nat) : Nat := x.issueAt gs ss [] x.svFree

/-- The SV unit takes an instruction of b beats in cycle t0; waits for shroud words move its beats to count from cycle t (R304, R305). -/
def Wick.svAt (x : Wick) (t0 t : Nat) (m : Bool) (b : Nat) : Wick :=
  { x.advance t0 1 with svFree := t + b, svBeats := x.svBeats + b, svmBeats := x.svmBeats + if m then b else 0 }

/-- An instruction that draws no shroud word: the wick after it, and the cycle it issued in. -/
def Wick.svTime (x : Wick) (gs : List (BitVec 5)) (ss : List Nat) (m : Bool) (b : Nat) : Wick × Nat :=
  let t := x.svBegin gs ss
  (x.svAt t t m b, t)

/-- Which beat draws the words of an instruction with a random half in each of its first beats, n words a half (R312, R315). At second order the spec gives the number of words and not their beats: one half a beat is the model's choice (log 23). -/
def beatNeeds (halves n : Nat) : List Nat := (List.range halves).flatMap fun b => List.replicate n b

/-- Beats and latency of a linear shared instruction from its first-order figures (R311, R315). -/
def Wick.linearCost (x : Wick) (latency : Nat) : Nat × Nat := if x.order2 then (3, latency + 1) else (2, latency)

/-- An SV-R instruction: illegal at LEVEL1, with ET 5 to 7, or with an AUX bit set that it does not use (R293, R301, R302). The element width is handed on. -/
def State.svIssue (s : State) (w : Nat) (et : BitVec 3) (auxOk : Bool) (k : State → Wick → Nat → Issue) : State :=
  s.issue w fun s x =>
    match etWidth et with
    | none => .fault .illegal
    | some ew => if x.level1 || !auxOk then .fault .illegal else k s x ew

/-! ### Forms -/

/-- A nonlinear product (R312): the ring, which operands and whether the result are complemented, the modulus of its random values, and its first-order latency. -/
structure Product where
  ring : Ring
  notA : Bool
  notB : Bool
  notD : Bool
  q : Option Nat
  latency : Nat

/-- A two-source instruction: its plain operation per element, its latency, its shared forms with VS2 shared (share by share, or a product) and with VS2 public, by share number. An absent form is illegal. -/
structure SvForm where
  plain : Nat → Nat → Nat
  latency : Nat
  shared : Option (Nat → Nat → Nat)
  product : Option Product
  pub : Option (Nat → Nat → Nat → Nat)

/-- The shares of a nonlinear product (R312). At second order the spec gives the words drawn and not the shares: shares 1 and 2 are fresh and share 0 is what the value leaves (log 23). -/
def productShares (w : Nat) (p : Product) (order2 : Bool) (a b ws : List Nat) : List Nat :=
  let r := p.ring
  let un := perElement w (fun v _ => complement w v)
  let flip := fun (c : Bool) v => if c then un v 0 else v
  let x := nthRandom w p.q ws 0
  let y := nthRandom w p.q ws 1
  let a0 := flip p.notA (a.getD 0 0)
  let b0 := flip p.notB (b.getD 0 0)
  let op := fun f u v => perElement w f u v
  if order2 then
    let va := combine w r (a0 :: a.drop 1)
    let vb := combine w r (b0 :: b.drop 1)
    splitShares w r (flip p.notD (op r.mul va vb)) [x, y]
  else
    let t := op r.add (op r.add b0 x) (b.getD 1 0)
    let d0 := op r.sub (op r.add (op r.mul a0 t) y) (op r.mul a0 x)
    let a1 := a.getD 1 0
    let d1 := op r.sub (op r.sub (op r.mul a1 t) y) (op r.mul a1 x)
    [flip p.notD d0, d1]

/-- A two-source SV instruction (R299, R300, R306, R307, R311, R312, R315). -/
def State.svBinary (s : State) (w : Nat) (vd vs1 vs2 : BitVec 5) (et : BitVec 3) (m : Bool) (aux : BitVec 5) (form : Wick → Nat → Option SvForm) : State :=
  s.svIssue w et (aux = 0) fun s x ew =>
    let d := vd.toNat
    let a := vs1.toNat
    let b := vs2.toNat
    match form x ew with
    | none => .fault .illegal
    | some f =>
      if !m then
        if x.readsShared [a, b] then .fault .secret else
        let (y, t) := x.svTime [] [a, b] false 2
        .ok s (y.setSv d (perElement ew f.plain (x.half a 0) (x.half b 0)) (perElement ew f.plain (x.half a 1) (x.half b 1)) false (t + f.latency))
      else
        let sh := x.sh b
        if f.pub.isNone || !x.sh a || x.oddShared (d :: a :: (if sh then [b] else [])) then .fault .illegal else
        let srcs := x.svOperand a true ++ x.svOperand b sh
        let (beats, lat) := x.linearCost f.latency
        let sa := x.shares a
        if !sh then
          let p := x.half b 0
          let g := f.pub.getD (fun _ v _ => v)
          let (y, t) := x.svTime [] srcs true beats
          .ok s (y.setShares d (sa.zipIdx.map fun v => perElement ew (g v.2) v.1 p) (t + lat))
        else match f.shared, f.product with
          | some g, _ =>
            let (y, t) := x.svTime [] srcs true beats
            .ok s (y.setShares d (List.zipWith (perElement ew g) sa (x.shares b)) (t + lat))
          | none, some p =>
            let t0 := x.svBegin [] srcs
            s.takeShroud x t0 (beatNeeds (if x.order2 then 3 else 2) (randomWords p.q)) fun ws t s x =>
              .ok s ((x.svAt t0 t true (if x.order2 then 6 else 3)).setShares d (productShares ew p x.order2 sa (x.shares b) ws) (t + if x.order2 then p.latency + 3 else p.latency))
          | none, none => .fault .illegal

/-- A one-source SV instruction, VS2 being 0: its plain operation per element and its form on share n (R306, R307). -/
def State.svUnary (s : State) (w : Nat) (vd vs1 vs2 : BitVec 5) (et : BitVec 3) (m : Bool) (aux : BitVec 5) (latency : Nat) (form : Wick → Nat → Option ((Nat → Nat) × (Nat → Nat → Nat))) : State :=
  s.svIssue w et (aux = 0 && vs2 = 0) fun s x ew =>
    let d := vd.toNat
    let a := vs1.toNat
    match form x ew with
    | none => .fault .illegal
    | some (plain, share) =>
      let each := fun f v => perElement ew (fun e _ => f e) v 0
      if !m then
        if x.readsShared [a] then .fault .secret else
        let (y, t) := x.svTime [] [a] false 2
        .ok s (y.setSv d (each plain (x.half a 0)) (each plain (x.half a 1)) false (t + latency))
      else if !x.sh a || x.oddShared [d, a] then .fault .illegal
      else
        let (beats, lat) := x.linearCost latency
        let (y, t) := x.svTime [] (x.svOperand a true) true beats
        .ok s (y.setShares d ((x.shares a).zipIdx.map fun v => each (share v.2) v.1) (t + lat))

/-- A shift or rotation of elements by the g-register VS2 names (R306): `shared` tells whether the shared mode exists. -/
def State.svShift (s : State) (w : Nat) (vd vs1 vs2 : BitVec 5) (et : BitVec 3) (m : Bool) (aux : BitVec 5) (shared : Bool) (f : Nat → Nat → List Nat → List Nat) : State :=
  s.svIssue w et (aux = 0) fun s x ew =>
    let d := vd.toNat
    let a := vs1.toNat
    let go := fun v => joinElements ew (f ew (x.reg vs2).toNat (elements ew v))
    if !m then
      if x.readsShared [a] then .fault .secret else
      let (y, t) := x.svTime [vs2] [a] false 2
      .ok s (y.setSv d (go (x.half a 0)) (go (x.half a 1)) false (t + 3))
    else if !shared || !x.sh a || x.oddShared [d, a] then .fault .illegal
    else
      let (beats, lat) := x.linearCost 3
      let (y, t) := x.svTime [vs2] (x.svOperand a true) true beats
      .ok s (y.setShares d ((x.shares a).map go) (t + lat))

/-- The modulus q of c8, where a modular instruction may use it: e12 to e36 and 2 ≤ q < 2^w (R307). -/
def Wick.modulus (x : Wick) (ew : Nat) : Option Nat :=
  let q := bitsOf x.mod.toNat 35 0
  if 12 ≤ ew && ew ≤ 36 && 2 ≤ q && q < 2 ^ ew then some q else none

/-- A plain-only instruction (R306): its shared forms are illegal. -/
def plainForm (latency : Nat) (f : Nat → Nat → Nat) : SvForm := { plain := f, latency := latency, shared := none, product := none, pub := none }

/-- A linear instruction: share by share, and with a public operand on share 0 only (R306, R307). -/
def linearForm (latency : Nat) (f : Nat → Nat → Nat) (rest : Nat → Nat) : SvForm :=
  { plain := f, latency := latency, shared := some f, product := none, pub := some fun n a p => if n = 0 then f a p else rest a }

/-- A nonlinear instruction whose public form acts on every share (R306, R307). -/
def productForm (latency : Nat) (f : Nat → Nat → Nat) (p : Product) : SvForm :=
  { plain := f, latency := latency, shared := none, product := some p, pub := some fun _ a p => f a p }

end Sys2Proof.Machine
end

