-- ==== Sys2Proof/Machine/Vectors.lean ====
section
/-! DEFINITION. The SV instructions of a wick: integer, modular, widening and move groups (R306 to R309), masking and conversion (R313 to R315), loads and stores (R319 to R322), and the shroud rekey (R317). -/

namespace Sys2Proof.Machine

/-! ### The integer group (OP 30h, R306) -/

/-- R306: a + b modulo 2^w. -/
def execSvAdd (w : Fin 256) (vd vs1 vs2 : BitVec 5) (et : BitVec 3) (m : Bool) (aux : BitVec 5) (s : State) : Res :=
  .next (s.svBinary w vd vs1 vs2 et m aux fun _ ew => some (linearForm 3 (modRing (2 ^ ew)).add id))

/-- R306: a − b modulo 2^w. -/
def execSvSub (w : Fin 256) (vd vs1 vs2 : BitVec 5) (et : BitVec 3) (m : Bool) (aux : BitVec 5) (s : State) : Res :=
  .next (s.svBinary w vd vs1 vs2 et m aux fun _ ew => some (linearForm 3 (modRing (2 ^ ew)).sub id))

/-- A Boolean product (R306, R312). -/
def boolProduct (notA notB notD : Bool) : Product := { ring := boolRing, notA := notA, notB := notB, notD := notD, q := none, latency := 5 }

/-- R306: a and b. -/
def execSvAnd (w : Fin 256) (vd vs1 vs2 : BitVec 5) (et : BitVec 3) (m : Bool) (aux : BitVec 5) (s : State) : Res :=
  .next (s.svBinary w vd vs1 vs2 et m aux fun _ _ => some (productForm 3 (· &&& ·) (boolProduct false false false)))

/-- R306: a or b; with a public p, share 0 is (a0 and not p) xor p and the others are ANDed with not p. -/
def execSvOr (w : Fin 256) (vd vs1 vs2 : BitVec 5) (et : BitVec 3) (m : Bool) (aux : BitVec 5) (s : State) : Res :=
  .next (s.svBinary w vd vs1 vs2 et m aux fun _ ew =>
    some { productForm 3 (· ||| ·) (boolProduct true true true) with pub := some fun n a p => if n = 0 then (a &&& complement ew p) ^^^ p else a &&& complement ew p })

/-- R306: a xor b. -/
def execSvXor (w : Fin 256) (vd vs1 vs2 : BitVec 5) (et : BitVec 3) (m : Bool) (aux : BitVec 5) (s : State) : Res :=
  .next (s.svBinary w vd vs1 vs2 et m aux fun _ _ => some (linearForm 3 (· ^^^ ·) id))

/-- R306: a and not b. -/
def execSvAndn (w : Fin 256) (vd vs1 vs2 : BitVec 5) (et : BitVec 3) (m : Bool) (aux : BitVec 5) (s : State) : Res :=
  .next (s.svBinary w vd vs1 vs2 et m aux fun _ ew => some (productForm 3 (fun a b => a &&& complement ew b) (boolProduct false true false)))

/-- R306: not a; in shared mode share 0 is inverted. -/
def execSvNot (w : Fin 256) (vd vs1 vs2 : BitVec 5) (et : BitVec 3) (m : Bool) (aux : BitVec 5) (s : State) : Res :=
  .next (s.svUnary w vd vs1 vs2 et m aux 3 fun _ ew => some (complement ew, fun n a => if n = 0 then complement ew a else a))

/-- R306: left shift by the amount modulo w. -/
def execSvSll (w : Fin 256) (vd vs1 vs2 : BitVec 5) (et : BitVec 3) (m : Bool) (aux : BitVec 5) (s : State) : Res :=
  .next (s.svShift w vd vs1 vs2 et m aux true fun ew n l => l.map fun e => e * 2 ^ (n % ew) % 2 ^ ew)

/-- R306: logical right shift by the amount modulo w. -/
def execSvSrl (w : Fin 256) (vd vs1 vs2 : BitVec 5) (et : BitVec 3) (m : Bool) (aux : BitVec 5) (s : State) : Res :=
  .next (s.svShift w vd vs1 vs2 et m aux true fun ew n l => l.map fun e => e / 2 ^ (n % ew))

/-- R306: arithmetic right shift by the amount modulo w; plain mode only. -/
def execSvSra (w : Fin 256) (vd vs1 vs2 : BitVec 5) (et : BitVec 3) (m : Bool) (aux : BitVec 5) (s : State) : Res :=
  .next (s.svShift w vd vs1 vs2 et m aux false fun ew n l => l.map fun e => wrapInt ew (signedOf ew e / 2 ^ (n % ew)))

/-- R306: element j of each half moves to position (j + amount) mod E. -/
def execSvRote (w : Fin 256) (vd vs1 vs2 : BitVec 5) (et : BitVec 3) (m : Bool) (aux : BitVec 5) (s : State) : Res :=
  .next (s.svShift w vd vs1 vs2 et m aux true fun _ n l => l.rotateRight n)

/-- R306: unsigned minimum; plain mode only. -/
def execSvMinu (w : Fin 256) (vd vs1 vs2 : BitVec 5) (et : BitVec 3) (m : Bool) (aux : BitVec 5) (s : State) : Res :=
  .next (s.svBinary w vd vs1 vs2 et m aux fun _ _ => some (plainForm 3 min))

/-- R306: unsigned maximum; plain mode only. -/
def execSvMaxu (w : Fin 256) (vd vs1 vs2 : BitVec 5) (et : BitVec 3) (m : Bool) (aux : BitVec 5) (s : State) : Res :=
  .next (s.svBinary w vd vs1 vs2 et m aux fun _ _ => some (plainForm 3 max))

/-- R306: all ones where a = b; plain mode only. -/
def execSvCmpeq (w : Fin 256) (vd vs1 vs2 : BitVec 5) (et : BitVec 3) (m : Bool) (aux : BitVec 5) (s : State) : Res :=
  .next (s.svBinary w vd vs1 vs2 et m aux fun _ ew => some (plainForm 3 fun a b => maskNat ew (a = b)))

/-- R306: all ones where a < b unsigned; plain mode only. -/
def execSvCmpltu (w : Fin 256) (vd vs1 vs2 : BitVec 5) (et : BitVec 3) (m : Bool) (aux : BitVec 5) (s : State) : Res :=
  .next (s.svBinary w vd vs1 vs2 et m aux fun _ ew => some (plainForm 3 fun a b => maskNat ew (a < b)))

/-- R306: low w bits of a × b. -/
def execSvMul (w : Fin 256) (vd vs1 vs2 : BitVec 5) (et : BitVec 3) (m : Bool) (aux : BitVec 5) (s : State) : Res :=
  .next (s.svBinary w vd vs1 vs2 et m aux fun _ ew =>
    some (productForm 5 (modRing (2 ^ ew)).mul { ring := modRing (2 ^ ew), notA := false, notB := false, notD := false, q := none, latency := 7 }))

/-- R306: high w bits of a × b; plain mode only. -/
def execSvMulhu (w : Fin 256) (vd vs1 vs2 : BitVec 5) (et : BitVec 3) (m : Bool) (aux : BitVec 5) (s : State) : Res :=
  .next (s.svBinary w vd vs1 vs2 et m aux fun _ ew => some (plainForm 5 fun a b => a * b / 2 ^ ew))

/-! ### The modular group (OP 31h, R307) -/

/-- R307: (a + b) mod q. -/
def execMadd (w : Fin 256) (vd vs1 vs2 : BitVec 5) (et : BitVec 3) (m : Bool) (aux : BitVec 5) (s : State) : Res :=
  .next (s.svBinary w vd vs1 vs2 et m aux fun x ew => (x.modulus ew).map fun q => linearForm 4 (modRing q).add (· % q))

/-- R307: (a − b) mod q. -/
def execMsub (w : Fin 256) (vd vs1 vs2 : BitVec 5) (et : BitVec 3) (m : Bool) (aux : BitVec 5) (s : State) : Res :=
  .next (s.svBinary w vd vs1 vs2 et m aux fun x ew => (x.modulus ew).map fun q => linearForm 4 (modRing q).sub (· % q))

/-- R307: (a × b) mod q. -/
def execMmul (w : Fin 256) (vd vs1 vs2 : BitVec 5) (et : BitVec 3) (m : Bool) (aux : BitVec 5) (s : State) : Res :=
  .next (s.svBinary w vd vs1 vs2 et m aux fun x ew =>
    (x.modulus ew).map fun q => productForm 6 (modRing q).mul { ring := modRing q, notA := false, notB := false, notD := false, q := some q, latency := 8 })

/-- R307: a mod q. -/
def execMred (w : Fin 256) (vd vs1 vs2 : BitVec 5) (et : BitVec 3) (m : Bool) (aux : BitVec 5) (s : State) : Res :=
  .next (s.svUnary w vd vs1 vs2 et m aux 4 fun x ew => (x.modulus ew).map fun q => ((· % q), fun _ a => a % q))

/-- R307: (q − a) mod q. -/
def execMneg (w : Fin 256) (vd vs1 vs2 : BitVec 5) (et : BitVec 3) (m : Bool) (aux : BitVec 5) (s : State) : Res :=
  .next (s.svUnary w vd vs1 vs2 et m aux 4 fun x ew => (x.modulus ew).map fun q => (fun a => (q - a % q) % q, fun _ a => (q - a % q) % q))

/-! ### Widening and dot product (OP 32h, R308) -/

/-- Products of one half, each element read signed when S is set. -/
def halfProducts (ew : Nat) (signed : Bool) (a b : Nat) : List Int :=
  let v := fun e => if signed then signedOf ew e else (e : Int)
  List.zipWith (fun p r => v p * v r) (elements ew a) (elements ew b)

/-- A plain-only instruction from element products to a half of wider elements, accumulating into VD when ACC is set (R308). -/
def State.svWiden (s : State) (w : Nat) (vd vs1 vs2 : BitVec 5) (et : BitVec 3) (m : Bool) (aux : BitVec 5) (widths : List Nat) (out : Nat → Nat) (f : List Int → List Int) : State :=
  s.svIssue w et (aux.toNat < 4 && !m) fun s x ew =>
    if !widths.contains ew then .fault .illegal else
    let acc := aux.getLsbD 1
    let d := vd.toNat
    let srcs := [vs1.toNat, vs2.toNat] ++ (if acc then [d] else [])
    if x.readsShared srcs then .fault .secret else
    let half := fun n =>
      let old := elements (out ew) (x.half d n)
      let new := f (halfProducts ew (aux.getLsbD 0) (x.half vs1.toNat n) (x.half vs2.toNat n))
      joinElements (out ew) ((new.zip old).map fun p => wrapInt (out ew) (p.1 + if acc then (p.2 : Int) else 0))
    let (y, t) := x.svTime [] srcs false 2
    .ok s (y.setSv d (half 0) (half 1) false (t + 6))

/-- The products at even or odd places. -/
def everySecond (odd : Bool) : List Int → List Int
  | a :: b :: r => (if odd then b else a) :: everySecond odd r
  | _ => []

/-- R308: products of even elements at twice the width. -/
def execWmule (w : Fin 256) (vd vs1 vs2 : BitVec 5) (et : BitVec 3) (m : Bool) (aux : BitVec 5) (s : State) : Res :=
  .next (s.svWiden w vd vs1 vs2 et m aux [12, 36] (2 * ·) (everySecond false))

/-- R308: products of odd elements at twice the width. -/
def execWmulo (w : Fin 256) (vd vs1 vs2 : BitVec 5) (et : BitVec 3) (m : Bool) (aux : BitVec 5) (s : State) : Res :=
  .next (s.svWiden w vd vs1 vs2 et m aux [12, 36] (2 * ·) (everySecond true))

/-- R308: the sum of the products of a half in one e72 element. -/
def execDot (w : Fin 256) (vd vs1 vs2 : BitVec 5) (et : BitVec 3) (m : Bool) (aux : BitVec 5) (s : State) : Res :=
  .next (s.svWiden w vd vs1 vs2 et m aux [12, 24] (fun _ => 72) fun l => [l.sum])

/-! ### Moves (OP 33h, R309) -/

/-- R309: every element of both halves := the low w bits of the g-register VS1 names. -/
def execVsplat (w : Fin 256) (vd vs1 _vs2 : BitVec 5) (et : BitVec 3) (m : Bool) (aux : BitVec 5) (s : State) : Res :=
  .next (s.svIssue w et (aux = 0 && !m) fun s x ew =>
    let h := joinElements ew (List.replicate (72 / ew) (x.reg vs1).toNat)
    let (y, t) := x.svTime [vs1] [] false 2
    .ok s (y.setSv vd.toNat h h false (t + 3)))

/-- R309: half AUX[0] of VD := the g-register VS1 names; a shared VD loses its other half. -/
def execVins (w : Fin 256) (vd vs1 _vs2 : BitVec 5) (et : BitVec 3) (m : Bool) (aux : BitVec 5) (s : State) : Res :=
  .next (s.svIssue w et (aux.toNat < 2 && !m) fun s x _ =>
    let d := vd.toNat
    let v := (x.reg vs1).toNat
    let other := fun n => if x.sh d then 0 else x.half d n
    let (y, t) := x.svTime [vs1] [d] false 1
    .ok s (if aux = 0 then y.setSv d v (other 1) false (t + 2) else y.setSv d (other 0) v false (t + 2)))

/-- R309: the g-register VD names := half AUX[0] of VS1; a shared register raises the secret-access fault (R299). -/
def execVext (w : Fin 256) (vd vs1 _vs2 : BitVec 5) (et : BitVec 3) (m : Bool) (aux : BitVec 5) (s : State) : Res :=
  .next (s.svIssue w et (aux.toNat < 2 && !m) fun s x _ =>
    if x.readsShared [vs1.toNat] then .fault .secret else
    let (y, t) := x.svTime [] [vs1.toNat] false 1
    .ok s (y.setReg vd (BitVec.ofNat 72 (x.half vs1.toNat aux.toNat)) (t + 2)))

/-- R309: the halves of VS1 swapped. -/
def execVswaph (w : Fin 256) (vd vs1 _vs2 : BitVec 5) (et : BitVec 3) (m : Bool) (aux : BitVec 5) (s : State) : Res :=
  .next (s.svIssue w et (aux = 0 && !m) fun s x _ =>
    if x.readsShared [vs1.toNat] then .fault .secret else
    let (y, t) := x.svTime [] [vs1.toNat] false 2
    .ok s (y.setSv vd.toNat (x.half vs1.toNat 1) (x.half vs1.toNat 0) false (t + 3)))

/-- R309: VD := VS1 with its tag. -/
def execVmov (w : Fin 256) (vd vs1 _vs2 : BitVec 5) (et : BitVec 3) (m : Bool) (aux : BitVec 5) (s : State) : Res :=
  .next (s.svIssue w et (aux = 0) fun s x _ =>
    let a := vs1.toNat
    if !m then
      if x.readsShared [a] then .fault .secret else
      let (y, t) := x.svTime [] [a] false 2
      .ok s (y.setSv vd.toNat (x.half a 0) (x.half a 1) false (t + 3))
    else if !x.sh a || x.oddShared [vd.toNat, a] then .fault .illegal
    else
      let (beats, lat) := x.linearCost 3
      let (y, t) := x.svTime [] (x.svOperand a true) true beats
      .ok s (y.setShares vd.toNat (x.shares a) (t + lat)))

/-- R309: VD := 0 and SH := 0; VS1 and VS2 must be 0. -/
def execVzero (w : Fin 256) (vd vs1 vs2 : BitVec 5) (et : BitVec 3) (m : Bool) (aux : BitVec 5) (s : State) : Res :=
  .next (s.svIssue w et (aux = 0 && !m && vs1 = 0 && vs2 = 0) fun s x _ =>
    let (y, t) := x.svTime [] [] false 1
    .ok s (y.setSv vd.toNat 0 0 false (t + 2)))

/-! ### Masking and conversion (OP 35h, R313 to R315) -/

/-- The share ring AUX[1:0] selects and the modulus of its random values: Boolean, arithmetic modulo 2^w, or modulo q; none for MODQ without ARITH or without a usable modulus (R313). -/
def Wick.maskRing (x : Wick) (ew : Nat) (aux : BitVec 5) : Option (Ring × Option Nat) :=
  match aux.getLsbD 0, aux.getLsbD 1 with
  | false, false => some (boolRing, none)
  | true, false => some (modRing (2 ^ ew), none)
  | true, true => (x.modulus ew).map fun q => (modRing q, some q)
  | false, true => none

/-- Beats, latency and random halves of MASK, REFRESH and VKEY (R313, R315). -/
def Wick.maskCost (x : Wick) : Nat × Nat × Nat := if x.order2 then (3, 4, 2) else (2, 3, 1)

/-- The fresh halves of an instruction's words. -/
def freshHalves (ew : Nat) (q : Option Nat) (ws : List Nat) (n : Nat) : List Nat := (List.range n).map (nthRandom ew q ws)

/-- R313: splits half 0 of a plain VS1 into shares. A shared VS1 is illegal. -/
def execMask (w : Fin 256) (vd vs1 _vs2 : BitVec 5) (et : BitVec 3) (m : Bool) (aux : BitVec 5) (s : State) : Res :=
  .next (s.svIssue w et (aux.toNat < 4 && m) fun s x ew =>
    match x.maskRing ew aux with
    | none => .fault .illegal
    | some (r, q) =>
      let (b, l, n) := x.maskCost
      if x.sh vs1.toNat || x.oddShared [vd.toNat] then .fault .illegal
      else
        let t0 := x.svBegin [] [vs1.toNat]
        s.takeShroud x t0 (List.replicate (n * randomWords q) 0) fun ws t s x =>
        .ok s ((x.svAt t0 t true b).setShares vd.toNat (splitShares ew r (x.half vs1.toNat 0) (freshHalves ew q ws n)) (t + l)))

/-- R313: new shares of the same value. -/
def execRefresh (w : Fin 256) (vd vs1 _vs2 : BitVec 5) (et : BitVec 3) (m : Bool) (aux : BitVec 5) (s : State) : Res :=
  .next (s.svIssue w et (aux.toNat < 4 && m) fun s x ew =>
    match x.maskRing ew aux with
    | none => .fault .illegal
    | some (r, q) =>
      let (b, l, n) := x.maskCost
      let a := vs1.toNat
      if !x.sh a || x.oddShared [vd.toNat, a] then .fault .illegal
      else
        let t0 := x.svBegin [] (x.svOperand a true)
        s.takeShroud x t0 (List.replicate (n * randomWords q) 0) fun ws t s x =>
        let fresh := freshHalves ew q ws n
        let old := x.shares a
        let first := fresh.foldl (fun v f => perElement ew r.add v f) (old.getD 0 0)
        .ok s ((x.svAt t0 t true b).setShares vd.toNat (first :: List.zipWith (perElement ew r.sub) (old.drop 1) fresh) (t + l)))

/-- R313, R315: unmasking: where the combined value goes is the caller's. -/
def State.unmask (s : State) (w : Nat) (vs1 : BitVec 5) (et : BitVec 3) (m : Bool) (aux : BitVec 5) (put : Wick → Nat → Nat → Wick) : State :=
  s.svIssue w et (aux.toNat < 4 && m) fun s x ew =>
    match x.maskRing ew aux with
    | none => .fault .illegal
    | some (r, _) =>
      let a := vs1.toNat
      if !x.sh a || x.oddShared [a] then .fault .illegal
      else
        let (b, l, _) := x.maskCost
        let (y, t) := x.svTime [] (x.svOperand a true) true b
        .ok s (put y (combine ew r (x.shares a)) (t + l))

/-- R313: VD half 0 := the combined shares, half 1 := 0, SH := 0. -/
def execUnm (w : Fin 256) (vd vs1 _vs2 : BitVec 5) (et : BitVec 3) (m : Bool) (aux : BitVec 5) (s : State) : Res :=
  .next (s.unmask w vs1 et m aux fun y v t => y.setSv vd.toNat v 0 false t)

/-- R313: g[VD] := the combined shares. -/
def execUnmg (w : Fin 256) (vd vs1 _vs2 : BitVec 5) (et : BitVec 3) (m : Bool) (aux : BitVec 5) (s : State) : Res :=
  .next (s.unmask w vs1 et m aux fun y v t => y.setReg vd (BitVec.ofNat 72 v) t)

/-- R264, R313: a WKR lane as fresh Boolean shares; illegal while KEYED is clear. -/
def execVkey (w : Fin 256) (vd _vs1 _vs2 : BitVec 5) (et : BitVec 3) (m : Bool) (aux : BitVec 5) (s : State) : Res :=
  .next (s.svIssue w et (aux.toNat % 4 = 0 && m) fun s x ew =>
    if !x.keyed || x.oddShared [vd.toNat] then .fault .illegal
    else
      let (b, l, n) := x.maskCost
      let t0 := x.svBegin [] []
      s.takeShroud x t0 (List.replicate n 0) fun ws t s x =>
        .ok s ((x.svAt t0 t true b).setShares vd.toNat (splitShares ew boolRing (x.wkr.extractLsb' (64 * (aux.toNat / 4)) 64).toNat (freshHalves ew none ws n)) (t + l)))

/-- R314: a conversion between share forms, at first order only: the value is kept, share 1 is fresh and share 0 is what remains; a word a beat, from the first, is the model's choice (log 23). -/
def State.convert (s : State) (w : Nat) (vd vs1 : BitVec 5) (et : BitVec 3) (m : Bool) (aux : BitVec 5) (modq freshModq : Bool) (beats latency words : Nat) (f : Nat → Nat → Nat × Nat → Nat → Nat → List Nat) : State :=
  s.svIssue w et (aux = 0 && m) fun s x ew =>
    let a := vs1.toNat
    let q := x.modulus ew
    if x.order2 || !x.sh a || (modq && q.isNone) then .fault .illegal
    else
      let t0 := x.svBegin [] [a]
      s.takeShroud x t0 (List.range words) fun ws t s x =>
      let (open_, s) := s.draw
      let fresh := nthRandom ew (if freshModq then q else none) ws 0
      .ok s ((x.svAt t0 t true beats).setShares vd.toNat (f ew (q.getD (2 ^ ew)) (x.half a 0, x.half a 1) open_ fresh) (t + latency))

/-- R314: arithmetic modulo 2^w to Boolean. -/
def execA2b (w : Fin 256) (vd vs1 _vs2 : BitVec 5) (et : BitVec 3) (m : Bool) (aux : BitVec 5) (s : State) : Res :=
  .next (s.convert w vd vs1 et m aux false false 6 8 4 fun ew _ a _ r =>
    splitShares ew boolRing (perElement ew (modRing (2 ^ ew)).add a.1 a.2) [r])

/-- R314: Boolean to arithmetic modulo 2^w. -/
def execB2a (w : Fin 256) (vd vs1 _vs2 : BitVec 5) (et : BitVec 3) (m : Bool) (aux : BitVec 5) (s : State) : Res :=
  .next (s.convert w vd vs1 et m aux false false 3 5 1 fun ew _ a _ r =>
    splitShares ew (modRing (2 ^ ew)) (perElement ew boolRing.add a.1 a.2) [r])

/-- R314: arithmetic modulo q to Boolean. A share element outside [0, q) gives an undefined value, which is free (log 23). -/
def execA2bq (w : Fin 256) (vd vs1 _vs2 : BitVec 5) (et : BitVec 3) (m : Bool) (aux : BitVec 5) (s : State) : Res :=
  .next (s.convert w vd vs1 et m aux true false 8 10 6 fun ew q a v r =>
    let ok := List.zipWith (fun p t => decide (p < q) && decide (t < q)) (elements ew a.1) (elements ew a.2)
    let sum := List.zipWith (modRing q).add (elements ew a.1) (elements ew a.2)
    let free := elements ew v
    splitShares ew boolRing (joinElements ew ((ok.zip (sum.zip free)).map fun p => if p.1 then p.2.1 else p.2.2)) [r])

/-- R314: Boolean x to arithmetic modulo q of x mod q. -/
def execB2aq (w : Fin 256) (vd vs1 _vs2 : BitVec 5) (et : BitVec 3) (m : Bool) (aux : BitVec 5) (s : State) : Res :=
  .next (s.convert w vd vs1 et m aux true true 4 6 2 fun ew q a _ r =>
    splitShares ew (modRing q) (perElement ew (fun p t => (p ^^^ t) % q) a.1 a.2) [r])

/-! ### Loads and stores (OP 34h, R319 to R322) -/

/-- The words of a transfer, in memory order, and the registers they belong to (R319, R321, R322); none for an illegal form: ET 5 to 7, an ordinary transfer with ET not 0, a register above 31, an odd register or a structure at second order. -/
def Wick.svTransfer (x : Wick) (vd nf : Nat) (m : Bool) (et : BitVec 3) : Option (Nat × Nat) :=
  match etWidth et with
  | none => none
  | some ew =>
    if nf = 0 then
      if et ≠ 0 || (m && x.oddShared [vd]) then none else some (ew, if m && x.order2 then 4 else 2)
    else if 31 < vd + nf || (m && x.order2) then none
    else some (ew, 2 * (nf + 1))

/-- The alignment of a shared transfer (R319, R322). -/
def Wick.svMisaligned (x : Wick) (a : Nat) (m : Bool) : Bool := m && (if x.order2 then a % 4 ≠ 0 else a % 2 ≠ 0)

/-- Entry k of a list of numbers. -/
def nth (l : List Nat) (k : Nat) : Nat := l.getD k 0

/-- The halves of the registers a structure load fills (R321, R322): registers by halves, from words in memory order. -/
def deinterleave (ew nf : Nat) (m : Bool) (ws : List Nat) : List (Nat × Nat) :=
  let e := 72 / ew
  let stream := fun (l : List Nat) => l.flatMap (elements ew)
  if m then
    let s0 := stream ((List.range nf).map fun i => nth ws (2 * i))
    let s1 := stream ((List.range nf).map fun i => nth ws (2 * i + 1))
    (List.range nf).map fun f =>
      (joinElements ew ((List.range e).map fun j => nth s0 (j * nf + f)), joinElements ew ((List.range e).map fun j => nth s1 (j * nf + f)))
  else
    let st := stream ws
    (List.range nf).map fun f =>
      (joinElements ew ((List.range e).map fun k => nth st (k * nf + f)), joinElements ew ((List.range e).map fun k => nth st ((e + k) * nf + f)))

/-- The words a structure store writes, in memory order: the inverse (R321, R322). -/
def interleave (ew nf : Nat) (m : Bool) (rs : List (Nat × Nat)) : List Nat :=
  let e := 72 / ew
  let reg := fun f => rs.getD f (0, 0)
  if m then
    let word := fun (p : Nat × Nat → Nat) i => joinElements ew ((List.range e).map fun j => nth (elements ew (p (reg ((i * e + j) % nf)))) ((i * e + j) / nf))
    (List.range nf).flatMap fun i => [word (·.1) i, word (·.2) i]
  else
    (List.range (2 * nf)).map fun i => joinElements ew ((List.range e).map fun j =>
      let n := i * e + j
      let k := n / nf
      let r := reg (n % nf)
      if k < e then nth (elements ew r.1) k else nth (elements ew r.2) (k - e))

/-- The words of a transfer touch granules of its mode only (R320). -/
def State.svAccess (s : State) (x : Wick) (a n : Nat) (m store : Bool) (k : Issue) : Issue :=
  if x.svMisaligned a m then .fault .address else s.access x (span a n) m store k

/-- R319 to R322: loads VD, or VD to VD + NF − 1. -/
def execVld (w : Fin 256) (vd rs1 : BitVec 5) (imm : BitVec 11) (nf : BitVec 2) (m : Bool) (et : BitVec 3) (rsv : BitVec 2) (s : State) : Res :=
  .next (s.issue w fun s x =>
    let d := vd.toNat
    let a := x.address rs1 imm
    match if x.level1 || rsv ≠ 0 then none else x.svTransfer d nf.toNat m et with
    | none => .fault .illegal
    | some (ew, n) =>
      s.svAccess x a n m false (
        let ws := (span a n).map fun i => (x.word i).toNat
        if nf = 0 then
          let (y, t) := x.svTime [rs1] [] m (if n = 4 then 3 else 2)
          if m then .ok s (y.setShares d ws (t + if n = 4 then 4 else 3)) else .ok s (y.setSv d (nth ws 0) (nth ws 1) false (t + 3))
        else
          let (y, t) := x.svTime [rs1] [] m n
          .ok s ((deinterleave ew (nf.toNat + 1) m ws).zipIdx.foldl (fun (y : Wick) p => y.setSv (d + p.2) p.1.1 p.1.2 m (t + n + 1)) y)))

/-- The registers of a store hold what its mode stores: plain ones, or shared ones (R299). -/
def Wick.storeFault (x : Wick) (rs : List Nat) (m : Bool) : Option WickFault :=
  if m then (if rs.all x.sh then none else some .illegal) else (if x.readsShared rs then some .secret else none)

/-- R319 to R322: stores VD, or VD to VD + NF − 1 interleaved. -/
def execVst (w : Fin 256) (vd rs1 : BitVec 5) (imm : BitVec 11) (nf : BitVec 2) (m : Bool) (et : BitVec 3) (rsv : BitVec 2) (s : State) : Res :=
  .next (s.issue w fun s x =>
    let d := vd.toNat
    let a := x.address rs1 imm
    match if x.level1 || rsv ≠ 0 then none else x.svTransfer d nf.toNat m et with
    | none => .fault .illegal
    | some (ew, n) =>
      let rs := span d (nf.toNat + 1)
      match x.storeFault rs m with
      | some f => .fault f
      | none =>
        s.svAccess x a n m true (
          let srcs := if nf = 0 then x.svOperand d m else rs
          let words := if nf = 0 then (if m && x.order2 then x.shares d ++ [0] else [x.half d 0, x.half d 1])
            else interleave ew (nf.toNat + 1) m (rs.map fun r => (x.half r 0, x.half r 1))
          let (y, _) := x.svTime [rs1] srcs m n
          .ok s (y.setWords a (words.map (BitVec.ofNat 72)))))

/-! ### The shroud key (R317) -/

/-- R317: the new key arrives from the sconce's instance, once it serves, and generation goes on; a job that waits for its words is a job that waits for randomness (R493). -/
def execShroudRekey (w : Fin 256) (s : State) : Res :=
  .next (
    let x := s.wick w
    if !s.hubOn || !x.shroud.rekeying then s else
    match s.generate (sconceOf w) 32 with
    | (none, s) =>
      match x.stall, x.job with
      | .shroud, some id => s.waitEntropy id
      | _, _ => s
    | (some _, s) =>
      let s := (s.setWick w { x with shroud := { x.shroud with rekeying := false, produced := 0 } }).bump Key.wickVectorsShroudReseeds
      match x.job with
      | some id => s.modJob id fun j => { j with waitsEntropy := false }
      | none => s)

end Sys2Proof.Machine
end

