-- ==== Sys2Proof/Machine/WickGang.lean ====
section
/-! DEFINITION. The gang ring, the key path and the granules of a wick (R262, R264, R280, R316). -/

namespace Sys2Proof.Machine

/-! ### The gang ring -/

/-- The next wick of the ring: local index (i + 1) mod 16 (R280). -/
def ringNext (w : Nat) : Nat := 16 * sconceOf w + (w + 1) % 16
/-- The wick before it. -/
def ringPrev (w : Nat) : Nat := 16 * sconceOf w + (w + 15) % 16

/-- A word in an out latch goes to the next wick of the job when one of its four in latches is free (R257, R280). -/
def State.moveRing (s : State) (w : Nat) : State :=
  let x := s.wick w
  let y := s.wick (ringNext w)
  match x.gangOut with
  | none => s
  | some v =>
    if x.job = y.job && y.gangIn.length < 4 then
      (s.setWick w { x with gangOut := none }).setWick (ringNext w) { y with gangIn := y.gangIn ++ [v] }
    else s

/-- Words on the ring move on after an instruction of a wick. -/
def State.settleRing (s : State) (w : Nat) : State := (s.moveRing w).moveRing (ringPrev w)

/-- R280: places rs1 in the out latch, waiting while it is full. -/
def execGsend (w : Fin 256) (_rd rs1 _rs2 : BitVec 5) (rsv : BitVec 9) (s : State) : Res :=
  .next ((s.issue w fun s x =>
    if rsv ≠ 0 || x.level1 || !x.gang then .fault .illegal
    else if x.gangOut.isSome then .stall s x .gangOut
    else .ok s { x.advance (x.issueAt [rs1] [] [] 0) 1 with gangOut := some (x.reg rs1) }).settleRing w)

/-- R280: rd := the oldest word in the in latches, waiting while they are empty. -/
def execGrecv (w : Fin 256) (rd _rs1 _rs2 : BitVec 5) (rsv : BitVec 9) (s : State) : Res :=
  .next ((s.issue w fun s x =>
    if rsv ≠ 0 || x.level1 || !x.gang then .fault .illegal
    else match x.gangIn with
      | [] => .stall s x .gangIn
      | v :: rest => .ok s ({ x.advance x.cycles 1 with gangIn := rest }.setReg rd v (x.cycles + 1))).settleRing w)

/-- R178, R280: as GRECV, and the word goes out to the next wick; it waits for a word and for its out latch. -/
def execGfwd (w : Fin 256) (rd _rs1 _rs2 : BitVec 5) (rsv : BitVec 9) (s : State) : Res :=
  .next ((s.issue w fun s x =>
    if rsv ≠ 0 || x.level1 || !x.gang then .fault .illegal
    else match x.gangIn with
      | [] => .stall s x .gangIn
      | v :: rest =>
        if x.gangOut.isSome then .stall s x .gangOut
        else .ok s ({ x.advance x.cycles 1 with gangIn := rest, gangOut := some v }.setReg rd v (x.cycles + 1))).settleRing w)

/-! ### The key path -/

/-- The values KPSEND takes from data memory: a word each from a plain granule, a pair each, combined, from a secret one (R263, R280). -/
def Wick.keyValues (x : Wick) (a n : Nat) : List Word72 :=
  if x.secret a then (List.range n).map fun i => x.word (a + 2 * i) ^^^ x.word (a + 2 * i + 1) else (span a n).map x.word

/-- R280: sends 1 to 16 values to the taper's key path, one shroud word for each pair combined, one a cycle (R316, R674); only where the job has a taper, waiting while the taper refuses (R213). A taper that waits for prepared inputs starts when the first of them come (R205). The range lies in granules of one kind. -/
def execKpsend (w : Fin 256) (_rd rs1 rs2 : BitVec 5) (rsv : BitVec 9) (s : State) : Res :=
  .next (s.issue w fun s x =>
    let n := bitsOf (x.reg rs2).toNat 4 0
    let a := (x.reg rs1).toNat
    let pairs := x.secret a
    match x.taper with
    | none => .fault .illegal
    | some t =>
      if rsv ≠ 0 || x.level1 || x.owner || n < 1 || 16 < n then .fault .illegal
      else if 0x3FFF < a || (pairs && a % 2 = 1) then .fault .address
      else s.access x (span a (if pairs then 2 * n else n)) pairs false
        (if (s.taper t).mustWipe then .stall s x .keyPath
         else s.takeShroud x (x.issueAt [rs1, rs2] [] [] 0) (if pairs then List.range n else []) fun _ c s x =>
          let y := s.taper t
          .ok (s.setTaper t { y with keyPath := y.keyPath ++ x.keyValues a n, prepared := true }) (x.advance c n)))

/-! ### Keys and granules -/

/-- R264, R280: clears the WKR. -/
def execWkclr (w : Fin 256) (_rd _rs1 _rs2 : BitVec 5) (rsv : BitVec 9) (s : State) : Res :=
  .next (s.issue w fun s x =>
    if rsv ≠ 0 then .fault .illegal else .ok s { x.advance x.cycles 1 with wkr := 0, wkrAlg := 0, keyed := false })

/-- The granule a register names and its words. -/
def Wick.granule (x : Wick) (rs1 : BitVec 5) : Nat := bitsOf (x.reg rs1).toNat 6 0

/-- A transfer that touches a granule holds GMARK and GSCRUB back (R276). -/
def Wick.granuleTag (x : Wick) (g : Nat) : Option Nat := (x.dma.find? fun p => (span (128 * g) 128).any p.2.covers).map (·.1)

/-- R276, R280: marks a granule secret. -/
def execGmark (w : Fin 256) (_rd rs1 _rs2 : BitVec 5) (rsv : BitVec 9) (s : State) : Res :=
  .next (s.issue w fun s x =>
    let g := x.granule rs1
    if rsv ≠ 0 then .fault .illegal else
    match x.granuleTag g with
    | some t => .stall s x (.dma t)
    | none => .ok s { x.advance (x.issueAt [rs1] [] [] 0) 1 with gmask := x.gmask ||| BitVec.ofNat 128 (2 ^ g) })

/-- R276, R280: zeroes a granule and marks it plain, in 32 cycles. -/
def execGscrub (w : Fin 256) (_rd rs1 _rs2 : BitVec 5) (rsv : BitVec 9) (s : State) : Res :=
  .next (s.issue w fun s x =>
    let g := x.granule rs1
    if rsv ≠ 0 then .fault .illegal else
    match x.granuleTag g with
    | some t => .stall s x (.dma t)
    | none =>
      .ok s { x.advance (x.issueAt [rs1] [] [] 0) 32 with gmask := x.gmask &&& ~~~BitVec.ofNat 128 (2 ^ g), dmem := x.dmem.filter fun p => p.1 / 128 ≠ g })

end Sys2Proof.Machine
end

