-- ==== Sys2Proof/Machine/WickScalar.lean ====
section
/-! DEFINITION. The scalar instructions of a wick: the ALU group (R270), constants (R271, R272), control transfers (R273), loads and stores (R274). -/

namespace Sys2Proof.Machine

/-! ### The ALU group (OP 01h, R270) -/

/-- R270: rd := rs1 + rs2. -/
def execAdd (w : Fin 256) (rd rs1 rs2 : BitVec 5) (rsv : BitVec 9) (s : State) : Res := .next (s.aluR w rd rs1 rs2 rsv 1 (fun _ a b => a + b))

/-- R270: rd := rs1 − rs2. -/
def execSub (w : Fin 256) (rd rs1 rs2 : BitVec 5) (rsv : BitVec 9) (s : State) : Res := .next (s.aluR w rd rs1 rs2 rsv 1 (fun _ a b => a - b))

/-- R270: rd := rs1 and rs2. -/
def execAnd (w : Fin 256) (rd rs1 rs2 : BitVec 5) (rsv : BitVec 9) (s : State) : Res := .next (s.aluR w rd rs1 rs2 rsv 1 (fun _ a b => a &&& b))

/-- R270: rd := rs1 or rs2. -/
def execIor (w : Fin 256) (rd rs1 rs2 : BitVec 5) (rsv : BitVec 9) (s : State) : Res := .next (s.aluR w rd rs1 rs2 rsv 1 (fun _ a b => a ||| b))

/-- R270: rd := rs1 xor rs2. -/
def execXor (w : Fin 256) (rd rs1 rs2 : BitVec 5) (rsv : BitVec 9) (s : State) : Res := .next (s.aluR w rd rs1 rs2 rsv 1 (fun _ a b => a ^^^ b))

/-- R270: rd := rs1 and not rs2. -/
def execAndc (w : Fin 256) (rd rs1 rs2 : BitVec 5) (rsv : BitVec 9) (s : State) : Res := .next (s.aluR w rd rs1 rs2 rsv 1 (fun _ a b => a &&& ~~~b))

/-- R270: left shift; 0 when the amount is at least the width. -/
def execShl (w : Fin 256) (rd rs1 rs2 : BitVec 5) (rsv : BitVec 9) (s : State) : Res := .next (s.aluR w rd rs1 rs2 rsv 1 (fun n a b => a <<< shiftAmount n b.toNat))

/-- R270: logical right shift. -/
def execShr (w : Fin 256) (rd rs1 rs2 : BitVec 5) (rsv : BitVec 9) (s : State) : Res := .next (s.aluR w rd rs1 rs2 rsv 1 (fun n a b => a >>> shiftAmount n b.toNat))

/-- R270: arithmetic right shift, sign-filled beyond the width. -/
def execShra (w : Fin 256) (rd rs1 rs2 : BitVec 5) (rsv : BitVec 9) (s : State) : Res := .next (s.aluR w rd rs1 rs2 rsv 1 (fun n a b => a.sshiftRight (shiftAmount n b.toNat)))

/-- R270: rotate left by the amount mod the width. -/
def execRot (w : Fin 256) (rd rs1 rs2 : BitVec 5) (rsv : BitVec 9) (s : State) : Res := .next (s.aluR w rd rs1 rs2 rsv 1 (fun n a b => a.rotateLeft (b.toNat % n)))

/-- R270: mask of equality. -/
def execMeq (w : Fin 256) (rd rs1 rs2 : BitVec 5) (rsv : BitVec 9) (s : State) : Res := .next (s.aluR w rd rs1 rs2 rsv 1 meqMask)

/-- R270: mask of signed less-than. -/
def execMlt (w : Fin 256) (rd rs1 rs2 : BitVec 5) (rsv : BitVec 9) (s : State) : Res := .next (s.aluR w rd rs1 rs2 rsv 1 mltMask)

/-- R270: low half of the product. -/
def execMul (w : Fin 256) (rd rs1 rs2 : BitVec 5) (rsv : BitVec 9) (s : State) : Res := .next (s.aluR w rd rs1 rs2 rsv 3 (fun _ a b => a * b))

/-- R270: high half of the unsigned product. -/
def execMulhi (w : Fin 256) (rd rs1 rs2 : BitVec 5) (rsv : BitVec 9) (s : State) : Res := .next (s.aluR w rd rs1 rs2 rsv 3 (fun n a b => BitVec.ofNat n (a.toNat * b.toNat / 2 ^ n)))

/-- R270, R293: bits [63:0]; illegal at LEVEL1. -/
def execLimb (w : Fin 256) (rd rs1 _rs2 : BitVec 5) (rsv : BitVec 9) (s : State) : Res :=
  .next (s.scalar w (fun x => rsv = 0 && !x.level1) rd [rs1] 1 fun x => low64 (x.reg rs1))

/-- R270, R293: guard bits [71:64]; illegal at LEVEL1. -/
def execCarry (w : Fin 256) (rd rs1 _rs2 : BitVec 5) (rsv : BitVec 9) (s : State) : Res :=
  .next (s.scalar w (fun x => rsv = 0 && !x.level1) rd [rs1] 1 fun x => x.reg rs1 >>> 64)

/-- R270: leading zeros. -/
def execClz (w : Fin 256) (rd rs1 _rs2 : BitVec 5) (rsv : BitVec 9) (s : State) : Res :=
  .next (s.scalar w (fun _ => rsv = 0) rd [rs1] 1 fun x => x.wide (fun n a _ => BitVec.ofNat n (leadingZeros a)) (x.reg rs1) 0)

/-- R270: one bits. -/
def execPopc (w : Fin 256) (rd rs1 _rs2 : BitVec 5) (rsv : BitVec 9) (s : State) : Res :=
  .next (s.scalar w (fun _ => rsv = 0) rd [rs1] 1 fun x => x.wide (fun n a _ => BitVec.ofNat n (oneBits a)) (x.reg rs1) 0)

/-- R270: rd := (rs1 and rd) or (rs2 and not rd). -/
def execMux (w : Fin 256) (rd rs1 rs2 : BitVec 5) (rsv : BitVec 9) (s : State) : Res :=
  .next (s.scalar w (fun _ => rsv = 0) rd [rs1, rs2, rd] 1 fun x => (x.reg rs1 &&& x.reg rd) ||| (x.reg rs2 &&& ~~~x.reg rd))

/-- R270: mask of unsigned less-than. -/
def execMlo (w : Fin 256) (rd rs1 rs2 : BitVec 5) (rsv : BitVec 9) (s : State) : Res := .next (s.aluR w rd rs1 rs2 rsv 1 mloMask)

/-! ### Constants (R271, R272) -/

/-- R271: adds the constant. -/
def execAddk (w : Fin 256) (rd rs1 : BitVec 5) (imm : BitVec 20) (s : State) : Res := .next (s.aluI w rd rs1 imm (fun _ a b => a + b))

/-- R271: ands the constant. -/
def execAndk (w : Fin 256) (rd rs1 : BitVec 5) (imm : BitVec 20) (s : State) : Res := .next (s.aluI w rd rs1 imm (fun _ a b => a &&& b))

/-- R271: ors the constant. -/
def execIork (w : Fin 256) (rd rs1 : BitVec 5) (imm : BitVec 20) (s : State) : Res := .next (s.aluI w rd rs1 imm (fun _ a b => a ||| b))

/-- R271: exclusive-ors the constant. -/
def execXork (w : Fin 256) (rd rs1 : BitVec 5) (imm : BitVec 20) (s : State) : Res := .next (s.aluI w rd rs1 imm (fun _ a b => a ^^^ b))

/-- R271: mask of signed less-than the constant. -/
def execMltk (w : Fin 256) (rd rs1 : BitVec 5) (imm : BitVec 20) (s : State) : Res := .next (s.aluI w rd rs1 imm mltMask)

/-- R271: mask of unsigned less-than the constant. -/
def execMlok (w : Fin 256) (rd rs1 : BitVec 5) (imm : BitVec 20) (s : State) : Res := .next (s.aluI w rd rs1 imm mloMask)

/-- R271: left shift by a constant. -/
def execShlk (w : Fin 256) (rd rs1 : BitVec 5) (rsv : BitVec 10) (amount : BitVec 7) (s : State) : Res := .next (s.aluShift w rd rs1 rsv amount (fun n a b => a <<< shiftAmount n b.toNat))

/-- R271: logical right shift by a constant. -/
def execShrk (w : Fin 256) (rd rs1 : BitVec 5) (rsv : BitVec 10) (amount : BitVec 7) (s : State) : Res := .next (s.aluShift w rd rs1 rsv amount (fun n a b => a >>> shiftAmount n b.toNat))

/-- R271: arithmetic right shift by a constant. -/
def execShrak (w : Fin 256) (rd rs1 : BitVec 5) (rsv : BitVec 10) (amount : BitVec 7) (s : State) : Res := .next (s.aluShift w rd rs1 rsv amount (fun n a b => a.sshiftRight (shiftAmount n b.toNat)))

/-- R271: rotate left by a constant. -/
def execRotk (w : Fin 256) (rd rs1 : BitVec 5) (rsv : BitVec 10) (amount : BitVec 7) (s : State) : Res := .next (s.aluShift w rd rs1 rsv amount (fun n a b => a.rotateLeft (b.toNat % n)))

/-- R272: rd := the constant, zero-extended. -/
def execLk0 (w : Fin 256) (rd : BitVec 5) (rsv : BitVec 1) (imm : BitVec 24) (s : State) : Res :=
  .next (s.scalar w (fun _ => rsv = 0) rd [] 1 fun _ => imm.setWidth 72)

/-- R272: replaces rd[47:24]. -/
def execLk1 (w : Fin 256) (rd : BitVec 5) (rsv : BitVec 1) (imm : BitVec 24) (s : State) : Res :=
  .next (s.scalar w (fun _ => rsv = 0) rd [rd] 1 fun x => (x.reg rd &&& ~~~(0xFFFFFF000000#72)) ||| (imm.setWidth 72 <<< 24))

/-- R272, R293: replaces rd[71:48]; illegal at LEVEL1. -/
def execLk2 (w : Fin 256) (rd : BitVec 5) (rsv : BitVec 1) (imm : BitVec 24) (s : State) : Res :=
  .next (s.scalar w (fun x => rsv = 0 && !x.level1) rd [rd] 1 fun x => (x.reg rd &&& 0xFFFFFFFFFFFF#72) ||| (imm.setWidth 72 <<< 48))

/-! ### Loads and stores (R274) -/

/-- R274: rd := mem[rs1 + IMM20]; ready two cycles later. -/
def execLd (w : Fin 256) (rd rs1 : BitVec 5) (imm : BitVec 20) (s : State) : Res :=
  .next (s.issue w fun s x =>
    let a := x.address rs1 imm
    let t := x.issueAt [rs1] [] [] 0
    s.access x [a] false false (.ok s ((x.advance t 1).setReg rd (x.word a) (t + 2))))

/-- R274, R293: mem[rs1 + IMM20] := rs2; bits [71:64] are zero at LEVEL1. -/
def execSt (w : Fin 256) (rs1 rs2 : BitVec 5) (imm : BitVec 20) (s : State) : Res :=
  .next (s.issue w fun s x =>
    let a := x.address rs1 imm
    let t := x.issueAt [rs1, rs2] [] [] 0
    s.access x [a] false true (.ok s ((x.advance t 1).setWord a (if x.level1 then low64 (x.reg rs2) else x.reg rs2))))

/-! ### Control transfers (R273) -/

/-- R273: branches when rs1 is zero. -/
def execBz (w : Fin 256) (rs1 rs2 : BitVec 5) (off : BitVec 20) (s : State) : Res := .next (s.branch w rs1 rs2 off fun x => x.isZero rs1)

/-- R273: branches when rs1 is not zero. -/
def execBnz (w : Fin 256) (rs1 rs2 : BitVec 5) (off : BitVec 20) (s : State) : Res := .next (s.branch w rs1 rs2 off fun x => !x.isZero rs1)

/-- R273, R293: branches when the sign bit of rs1 is 1. -/
def execBneg (w : Fin 256) (rs1 rs2 : BitVec 5) (off : BitVec 20) (s : State) : Res := .next (s.branch w rs1 rs2 off fun x => x.isNegative rs1)

/-- R273, R293: branches when the sign bit of rs1 is 0. -/
def execBnneg (w : Fin 256) (rs1 rs2 : BitVec 5) (off : BitVec 20) (s : State) : Res := .next (s.branch w rs1 rs2 off fun x => !x.isNegative rs1)

/-- R273: rs1 := rs1 − 1, and branches when the result is not zero; g0 is illegal, and an illegal target writes nothing. -/
def execDbnz (w : Fin 256) (rs1 rs2 : BitVec 5) (off : BitVec 20) (s : State) : Res :=
  .next (s.issue w fun s x =>
    if rs2 ≠ 0 || rs1 = 0 then .fault .illegal else
    let t := x.issueAt [rs1] [] [] 0
    let y := x.setReg rs1 (x.reg rs1 - 1) (t + 1)
    if y.isZero rs1 then .ok s (y.advance t 1) else y.transfer s t (x.relative off) id)

/-- R273: pc := rs1 + IMM20; RD must be 0. -/
def execJmpr (w : Fin 256) (rd rs1 : BitVec 5) (imm : BitVec 20) (s : State) : Res :=
  .next (s.issue w fun s x =>
    if rd ≠ 0 then .fault .illegal else x.transfer s (x.issueAt [rs1] [] [] 0) (x.reg rs1 + imm.signExtend 72) id)

/-- R273: pc := pc + OFF25; RD must be 0. -/
def execJmp (w : Fin 256) (rd : BitVec 5) (off : BitVec 25) (s : State) : Res :=
  .next (s.issue w fun s x => if rd ≠ 0 then .fault .illegal else x.transfer s x.cycles (x.relative off) id)

/-- R273: g31 := pc + 1 and pc := pc + OFF25; RD must be 0. -/
def execCall (w : Fin 256) (rd : BitVec 5) (off : BitVec 25) (s : State) : Res :=
  .next (s.issue w fun s x =>
    if rd ≠ 0 then .fault .illegal
    else x.transfer s x.cycles (x.relative off) fun y => y.setReg 31 (x.pc.setWidth 72 + 1) (x.cycles + 1))

end Sys2Proof.Machine
end

