-- ==== Sys2Proof/Machine/WickSponge.lean ====
section
/-! DEFINITION. The sponge unit of a wick (R257, R262 to R264, R278, R279). A masked state's value is the exclusive or of its two shares. -/

namespace Sys2Proof.Machine

/-! ### Lanes -/

/-- Lanes with values combined by exclusive or from a first lane on. -/
def xorLanes (n first : Nat) (l vs : List (BitVec 64)) : List (BitVec 64) :=
  (List.range n).map fun k => l.getD k 0 ^^^ (if first ≤ k then vs.getD (k - first) 0 else 0)

/-- Lanes with values written from a first lane on. -/
def putLanes (n first : Nat) (l vs : List (BitVec 64)) : List (BitVec 64) :=
  (List.range n).map fun k => if first ≤ k && k < first + vs.length then vs.getD (k - first) 0 else l.getD k 0

/-- Lanes of the SHA-2 block buffer a function uses (R278). -/
def SpongeFn.blockLanes : SpongeFn → Nat
  | .keccak => 0
  | .sha256 => 8
  | .sha512 => 16
  | .sha384 => 16

/-- Lanes of the chaining value (R278); all 25 lanes of a Keccak state. -/
def SpongeFn.stateLanes : SpongeFn → Nat
  | .keccak => 25
  | .sha256 => 4
  | .sha512 => 8
  | .sha384 => 8

/-- The state after SPINIT, as lanes: zero for Keccak, the initial value's digest bytes for SHA-2 (R278). -/
def SpongeFn.init : SpongeFn → List (BitVec 64)
  | .keccak => []
  | .sha256 => lanesOf (sha256Iv.flatMap fun v => beBytes 4 v.toNat) 4
  | .sha512 => lanesOf (sha512Iv.flatMap fun v => beBytes 8 v.toNat) 8
  | .sha384 => lanesOf (sha384Iv.flatMap fun v => beBytes 8 v.toNat) 8

/-- Absorb lanes as two shares: Keccak XORs them into the state, SHA-2 writes its block buffer (R278). -/
def Sponge.absorb (p : Sponge) (first : Nat) (a b : List (BitVec 64)) : Sponge :=
  if p.fn = .keccak then { p with share0 := xorLanes 25 first p.share0 a, share1 := xorLanes 25 first p.share1 b }
  else { p with block0 := putLanes 16 first p.block0 a, block1 := putLanes 16 first p.block1 b }

/-- Lanes first to first + n − 1 exist where absorbing writes them (R278). -/
def Sponge.absorbs (p : Sponge) (first n : Nat) : Bool :=
  first ≤ 24 && first + n ≤ (if p.fn = .keccak then 25 else p.fn.blockLanes)

/-- The value of the state, its shares combined. -/
def Sponge.value (p : Sponge) : List (BitVec 64) := (List.range 25).map fun k => p.share0.getD k 0 ^^^ p.share1.getD k 0

/-- The value of the block buffer as bytes. -/
def Sponge.blockBytes (p : Sponge) : Bytes := lanesBytes ((List.range 16).map fun k => p.block0.getD k 0 ^^^ p.block1.getD k 0)

/-- The state's value after Keccak-f[1600] or a compression of the block buffer (R278). -/
def Sponge.permute (p : Sponge) : List (BitVec 64) :=
  let digest := lanesBytes p.value
  match p.fn with
  | .keccak => keccakF p.value
  | .sha256 =>
    let h := (List.range 8).map fun i => BitVec.ofNat 32 (beNat (cut digest (4 * i) 4))
    lanesOf ((sha256Compress h (p.blockBytes.take 64)).flatMap fun v => beBytes 4 v.toNat) 4
  | _ =>
    let h := (List.range 8).map fun i => BitVec.ofNat 64 (beNat (cut digest (8 * i) 8))
    lanesOf ((sha512Compress h p.blockBytes).flatMap fun v => beBytes 8 v.toNat) 8

/-- Cycles of SPPERM in a plain state; twice that, and as many shroud words, in a masked one (R279). -/
def SpongeFn.cycles : SpongeFn → Nat
  | .keccak => 6
  | .sha256 => 8
  | .sha512 => 10
  | .sha384 => 10

/-- Fresh values of n lanes. -/
def State.drawLanes (s : State) (n : Nat) : List (BitVec 64) × State :=
  ((List.range n).map fun k => BitVec.ofNat 64 (Config.free (s.freeIndex + k)), { s with freeIndex := s.freeIndex + n })

/-- The shares of lane k as they leave the unit; a SHA-2 lane beyond the chaining value is not stated and is free (log 23). -/
def State.squeeze (s : State) (p : Sponge) (first n : Nat) : List (BitVec 64 × BitVec 64) × State :=
  let (fs, s) := if first + n ≤ p.fn.stateLanes then ([], s) else s.drawLanes n
  ((List.range n).map fun i =>
    let k := first + i
    if k < p.fn.stateLanes then (p.share0.getD k 0, p.share1.getD k 0) else (fs.getD i 0, 0), s)

/-- What TAINT lets SPSQZ and SPSQR read (R279). -/
def Sponge.readable (p : Sponge) (first n : Nat) : Bool :=
  !p.taint || (p.fn = .keccak && p.permuted && first + n ≤ p.rate)

/-! ### Issue -/

/-- The cycle the sponge unit takes an instruction in (R269). -/
def Wick.spongeBegin (x : Wick) (gs : List (BitVec 5)) : Nat := x.issueAt gs [] [] x.spongeFree

/-- The sponge unit takes an instruction in cycle t0 for n cycles, which count from cycle t where it waited for shroud words (R278, R674). -/
def Wick.spongeAt (x : Wick) (t0 t n : Nat) : Wick := { x.advance t0 1 with spongeFree := t + n }

/-- An instruction of the sponge unit that draws no shroud word. -/
def Wick.spongeTime (x : Wick) (gs : List (BitVec 5)) (n : Nat) : Wick := x.spongeAt (x.spongeBegin gs) (x.spongeBegin gs) n

/-- LANE operands of rs2: the first lane and the count (R278). -/
def laneFirst (v : Word72) : Nat := bitsOf v.toNat 4 0
def laneCount (v : Word72) : Nat := bitsOf v.toNat 12 8

/-- R278: initialises the state. FUNC 4 to 7 and a Keccak rate outside 1 to 24 are illegal. -/
def execSpinit (w : Fin 256) (_rd rs1 _rs2 : BitVec 5) (rsv : BitVec 9) (s : State) : Res :=
  .next (s.issue w fun s x =>
    let v := (x.reg rs1).toNat
    let rate := bitsOf v 8 4
    let fn := [SpongeFn.keccak, .sha256, .sha512, .sha384][bitsOf v 2 0]?
    match fn with
    | none => .fault .illegal
    | some f =>
      if rsv ≠ 0 || (f = .keccak && (rate < 1 || 24 < rate)) then .fault .illegal
      else .ok s { x.spongeTime [rs1] 1 with sponge := { Sponge.cleared with fn := f, masked := bitOf v 3, rate := rate, share0 := f.init } })

/-- R278: absorbs plain words. -/
def execSpabs (w : Fin 256) (_rd rs1 rs2 : BitVec 5) (rsv : BitVec 9) (s : State) : Res :=
  .next (s.issue w fun s x =>
    let first := laneFirst (x.reg rs2)
    let n := laneCount (x.reg rs2)
    let as := span (x.reg rs1).toNat n
    if rsv ≠ 0 || !x.sponge.absorbs first n then .fault .illegal
    else s.access x as false false
      (.ok s { x.spongeTime [rs1, rs2] n with sponge := x.sponge.absorb first (as.map fun a => (x.word a).setWidth 64) (as.map fun _ => 0) }))

/-- R278: absorbs word pairs from secret granules into a masked state, share into share. -/
def execSpabsM (w : Fin 256) (_rd rs1 rs2 : BitVec 5) (rsv : BitVec 9) (s : State) : Res :=
  .next (s.issue w fun s x =>
    let first := laneFirst (x.reg rs2)
    let n := laneCount (x.reg rs2)
    let a := (x.reg rs1).toNat
    if rsv ≠ 0 || x.level1 || !x.sponge.masked || !x.sponge.absorbs first n then .fault .illegal
    else if a % 2 = 1 then .fault .address
    else s.access x (span a (2 * n)) true false
      (.ok s { x.spongeTime [rs1, rs2] (2 * n) with sponge := x.sponge.absorb first ((List.range n).map fun i => (x.word (a + 2 * i)).setWidth 64) ((List.range n).map fun i => (x.word (a + 2 * i + 1)).setWidth 64) }))

/-- R278: absorbs a register into one lane. -/
def execSpabr (w : Fin 256) (_rd rs1 rs2 : BitVec 5) (rsv : BitVec 9) (s : State) : Res :=
  .next (s.issue w fun s x =>
    let first := laneFirst (x.reg rs2)
    if rsv ≠ 0 || !x.sponge.absorbs first 1 then .fault .illegal
    else .ok s { x.spongeTime [rs1, rs2] 1 with sponge := x.sponge.absorb first [(x.reg rs1).setWidth 64] [0] })

/-- R278, R279: permutes or compresses. A masked state's new second share is not stated and is free (log 23). -/
def execSpperm (w : Fin 256) (_rd _rs1 _rs2 : BitVec 5) (rsv : BitVec 9) (s : State) : Res :=
  .next (s.issue w fun s x =>
    let p := x.sponge
    if rsv ≠ 0 then .fault .illegal
    else if !p.masked then .ok s { x.spongeTime [] p.fn.cycles with sponge := { p with share0 := p.permute, permuted := true } }
    else
      let t0 := x.spongeBegin []
      s.takeShroud x t0 (List.range (2 * p.fn.cycles)) fun _ t s x =>
      let (m, s) := s.drawLanes p.fn.stateLanes
      .ok s { x.spongeAt t0 t (2 * p.fn.cycles) with sponge := { p with share0 := p.permute.zipWith (· ^^^ ·) m, share1 := m, permuted := true } })

/-- R278, R279: squeezes lanes to plain words, unmasked. -/
def execSpsqz (w : Fin 256) (_rd rs1 rs2 : BitVec 5) (rsv : BitVec 9) (s : State) : Res :=
  .next (s.issue w fun s x =>
    let first := laneFirst (x.reg rs2)
    let n := laneCount (x.reg rs2)
    let a := (x.reg rs1).toNat
    if rsv ≠ 0 || 24 < first || 25 < first + n then .fault .illegal
    else if !x.sponge.readable first n then .fault .secret
    else s.access x (span a n) false true
      (let (v, s) := s.squeeze x.sponge first n
       .ok s ((x.spongeTime [rs1, rs2] n).setWords a (v.map fun p => (p.1 ^^^ p.2).setWidth 72))))

/-- R278: squeezes lanes as word pairs into secret granules; a masked state only. -/
def execSpsqzM (w : Fin 256) (_rd rs1 rs2 : BitVec 5) (rsv : BitVec 9) (s : State) : Res :=
  .next (s.issue w fun s x =>
    let first := laneFirst (x.reg rs2)
    let n := laneCount (x.reg rs2)
    let a := (x.reg rs1).toNat
    if rsv ≠ 0 || x.level1 || !x.sponge.masked || 24 < first || 25 < first + n then .fault .illegal
    else if a % 2 = 1 then .fault .address
    else s.access x (span a (2 * n)) true true
      (let (v, s) := s.squeeze x.sponge first n
       .ok s ((x.spongeTime [rs1, rs2] (2 * n)).setWords a (v.flatMap fun p => [p.1.setWidth 72, p.2.setWidth 72]))))

/-- R278, R279: rd := one lane, unmasked. -/
def execSpsqr (w : Fin 256) (rd _rs1 rs2 : BitVec 5) (rsv : BitVec 9) (s : State) : Res :=
  .next (s.issue w fun s x =>
    let first := laneFirst (x.reg rs2)
    if rsv ≠ 0 || 24 < first then .fault .illegal
    else if !x.sponge.readable first 1 then .fault .secret
    else
      let (v, s) := s.squeeze x.sponge first 1
      let y := x.spongeTime [rs2] 1
      .ok s (y.setReg rd ((v.map fun p => (p.1 ^^^ p.2).setWidth 72).getD 0 0) y.spongeFree))

/-- Lane k of the WKR (R264). -/
def Wick.wkrLane (x : Wick) (k : Nat) : BitVec 64 := x.wkr.extractLsb' (64 * k) 64

/-- R278: XORs 1 to 8 WKR lanes, each split with a shroud word, into a masked state from lane 0, and sets TAINT. -/
def execSpkey (w : Fin 256) (_rd _rs1 rs2 : BitVec 5) (rsv : BitVec 9) (s : State) : Res :=
  .next (s.issue w fun s x =>
    let n := bitsOf (x.reg rs2).toNat 3 0
    if rsv ≠ 0 || x.level1 || !x.sponge.masked || n < 1 || 8 < n then .fault .illegal
    else
      let t0 := x.spongeBegin [rs2]
      s.takeShroud x t0 (List.range n) fun ws t s x =>
      let r := ws.map fun v => BitVec.ofNat 64 v
      let k := (List.range n).map fun i => x.wkrLane i ^^^ r.getD i 0
      let p := x.sponge
      let q := if p.fn = .keccak then { p with share0 := xorLanes 25 0 p.share0 k, share1 := xorLanes 25 0 p.share1 r }
        else { p with block0 := xorLanes 16 0 p.block0 k, block1 := xorLanes 16 0 p.block1 r }
      .ok s { x.spongeAt t0 t n with sponge := { q with taint := true, permuted := false } })

end Sys2Proof.Machine
end

