-- ==== Sys2Proof/Machine/OwnerRun.lean ====
section
/-! DEFINITION. OWN_PROG_RUN: a wick fetches, decodes and runs the instructions of an owner program, with its own engines serving it, to its DONE, its fault or its budget (R44, R265, R285, R290 to R292). -/

namespace Sys2Proof.Machine

/-- The instruction at the pc: two to a program word, the even one in the low half (R44). None beyond the program, or for a word that is not assigned (R265, R268). -/
def State.wickFetch (s : State) (w : Fin 256) : Option Instr :=
  let x := s.wick w.val
  let v := Table.get (fun _ => (0 : Word72)) x.pmem (x.pc.toNat / 2)
  if x.instrCount ≤ x.pc.toNat then none else wickDecode w (v.extractLsb' (36 * (x.pc.toNat % 2)) 36)

/-- The meaning of a wick instruction. -/
def wickExec (i : Instr) (s : State) : Res :=
  match i with
  | .add w rd rs1 rs2 rsv => execAdd w rd rs1 rs2 rsv s
  | .sub w rd rs1 rs2 rsv => execSub w rd rs1 rs2 rsv s
  | .and w rd rs1 rs2 rsv => execAnd w rd rs1 rs2 rsv s
  | .ior w rd rs1 rs2 rsv => execIor w rd rs1 rs2 rsv s
  | .xor w rd rs1 rs2 rsv => execXor w rd rs1 rs2 rsv s
  | .andc w rd rs1 rs2 rsv => execAndc w rd rs1 rs2 rsv s
  | .shl w rd rs1 rs2 rsv => execShl w rd rs1 rs2 rsv s
  | .shr w rd rs1 rs2 rsv => execShr w rd rs1 rs2 rsv s
  | .shra w rd rs1 rs2 rsv => execShra w rd rs1 rs2 rsv s
  | .rot w rd rs1 rs2 rsv => execRot w rd rs1 rs2 rsv s
  | .meq w rd rs1 rs2 rsv => execMeq w rd rs1 rs2 rsv s
  | .mlt w rd rs1 rs2 rsv => execMlt w rd rs1 rs2 rsv s
  | .mul w rd rs1 rs2 rsv => execMul w rd rs1 rs2 rsv s
  | .mulhi w rd rs1 rs2 rsv => execMulhi w rd rs1 rs2 rsv s
  | .limb w rd rs1 rs2 rsv => execLimb w rd rs1 rs2 rsv s
  | .carry w rd rs1 rs2 rsv => execCarry w rd rs1 rs2 rsv s
  | .clz w rd rs1 rs2 rsv => execClz w rd rs1 rs2 rsv s
  | .popc w rd rs1 rs2 rsv => execPopc w rd rs1 rs2 rsv s
  | .mux w rd rs1 rs2 rsv => execMux w rd rs1 rs2 rsv s
  | .mlo w rd rs1 rs2 rsv => execMlo w rd rs1 rs2 rsv s
  | .addk w rd rs1 imm => execAddk w rd rs1 imm s
  | .andk w rd rs1 imm => execAndk w rd rs1 imm s
  | .iork w rd rs1 imm => execIork w rd rs1 imm s
  | .xork w rd rs1 imm => execXork w rd rs1 imm s
  | .mltk w rd rs1 imm => execMltk w rd rs1 imm s
  | .mlok w rd rs1 imm => execMlok w rd rs1 imm s
  | .shlk w rd rs1 rsv amount => execShlk w rd rs1 rsv amount s
  | .shrk w rd rs1 rsv amount => execShrk w rd rs1 rsv amount s
  | .shrak w rd rs1 rsv amount => execShrak w rd rs1 rsv amount s
  | .rotk w rd rs1 rsv amount => execRotk w rd rs1 rsv amount s
  | .lk0 w rd rsv imm => execLk0 w rd rsv imm s
  | .lk1 w rd rsv imm => execLk1 w rd rsv imm s
  | .lk2 w rd rsv imm => execLk2 w rd rsv imm s
  | .ld w rd rs1 imm => execLd w rd rs1 imm s
  | .st w rs1 rs2 imm => execSt w rs1 rs2 imm s
  | .bz w rs1 rs2 off => execBz w rs1 rs2 off s
  | .bnz w rs1 rs2 off => execBnz w rs1 rs2 off s
  | .bneg w rs1 rs2 off => execBneg w rs1 rs2 off s
  | .bnneg w rs1 rs2 off => execBnneg w rs1 rs2 off s
  | .dbnz w rs1 rs2 off => execDbnz w rs1 rs2 off s
  | .jmpr w rd rs1 imm => execJmpr w rd rs1 imm s
  | .jmp w rd off => execJmp w rd off s
  | .call w rd off => execCall w rd off s
  | .dmar w rd rs1 rs2 tag rsv => execDmar w rd rs1 rs2 tag rsv s
  | .dmaw w rd rs1 rs2 tag rsv => execDmaw w rd rs1 rs2 tag rsv s
  | .dwait w rd rs1 rs2 tag rsv => execDwait w rd rs1 rs2 tag rsv s
  | .spinit w rd rs1 rs2 rsv => execSpinit w rd rs1 rs2 rsv s
  | .spabs w rd rs1 rs2 rsv => execSpabs w rd rs1 rs2 rsv s
  | .spabsM w rd rs1 rs2 rsv => execSpabsM w rd rs1 rs2 rsv s
  | .spabr w rd rs1 rs2 rsv => execSpabr w rd rs1 rs2 rsv s
  | .spperm w rd rs1 rs2 rsv => execSpperm w rd rs1 rs2 rsv s
  | .spsqz w rd rs1 rs2 rsv => execSpsqz w rd rs1 rs2 rsv s
  | .spsqzM w rd rs1 rs2 rsv => execSpsqzM w rd rs1 rs2 rsv s
  | .spsqr w rd rs1 rs2 rsv => execSpsqr w rd rs1 rs2 rsv s
  | .spkey w rd rs1 rs2 rsv => execSpkey w rd rs1 rs2 rsv s
  | .gsend w rd rs1 rs2 rsv => execGsend w rd rs1 rs2 rsv s
  | .grecv w rd rs1 rs2 rsv => execGrecv w rd rs1 rs2 rsv s
  | .gfwd w rd rs1 rs2 rsv => execGfwd w rd rs1 rs2 rsv s
  | .kpsend w rd rs1 rs2 rsv => execKpsend w rd rs1 rs2 rsv s
  | .wkclr w rd rs1 rs2 rsv => execWkclr w rd rs1 rs2 rsv s
  | .gmark w rd rs1 rs2 rsv => execGmark w rd rs1 rs2 rsv s
  | .gscrub w rd rs1 rs2 rsv => execGscrub w rd rs1 rs2 rsv s
  | .nop w rd rs1 rsv code => execNop w rd rs1 rsv code s
  | .done w rd rs1 rsv code => execDone w rd rs1 rsv code s
  | .trap w rd rs1 rsv code => execTrap w rd rs1 rsv code s
  | .fence w rd rs1 rsv code => execFence w rd rs1 rsv code s
  | .cr w rd rs1 creg rsv => execCr w rd rs1 creg rsv s
  | .cw w rd rs1 creg rsv => execCw w rd rs1 creg rsv s
  | .svAdd w vd vs1 vs2 et m aux => execSvAdd w vd vs1 vs2 et m aux s
  | .svSub w vd vs1 vs2 et m aux => execSvSub w vd vs1 vs2 et m aux s
  | .svAnd w vd vs1 vs2 et m aux => execSvAnd w vd vs1 vs2 et m aux s
  | .svOr w vd vs1 vs2 et m aux => execSvOr w vd vs1 vs2 et m aux s
  | .svXor w vd vs1 vs2 et m aux => execSvXor w vd vs1 vs2 et m aux s
  | .svAndn w vd vs1 vs2 et m aux => execSvAndn w vd vs1 vs2 et m aux s
  | .svNot w vd vs1 vs2 et m aux => execSvNot w vd vs1 vs2 et m aux s
  | .svSll w vd vs1 vs2 et m aux => execSvSll w vd vs1 vs2 et m aux s
  | .svSrl w vd vs1 vs2 et m aux => execSvSrl w vd vs1 vs2 et m aux s
  | .svSra w vd vs1 vs2 et m aux => execSvSra w vd vs1 vs2 et m aux s
  | .svRote w vd vs1 vs2 et m aux => execSvRote w vd vs1 vs2 et m aux s
  | .svMinu w vd vs1 vs2 et m aux => execSvMinu w vd vs1 vs2 et m aux s
  | .svMaxu w vd vs1 vs2 et m aux => execSvMaxu w vd vs1 vs2 et m aux s
  | .svCmpeq w vd vs1 vs2 et m aux => execSvCmpeq w vd vs1 vs2 et m aux s
  | .svCmpltu w vd vs1 vs2 et m aux => execSvCmpltu w vd vs1 vs2 et m aux s
  | .svMul w vd vs1 vs2 et m aux => execSvMul w vd vs1 vs2 et m aux s
  | .svMulhu w vd vs1 vs2 et m aux => execSvMulhu w vd vs1 vs2 et m aux s
  | .madd w vd vs1 vs2 et m aux => execMadd w vd vs1 vs2 et m aux s
  | .msub w vd vs1 vs2 et m aux => execMsub w vd vs1 vs2 et m aux s
  | .mmul w vd vs1 vs2 et m aux => execMmul w vd vs1 vs2 et m aux s
  | .mred w vd vs1 vs2 et m aux => execMred w vd vs1 vs2 et m aux s
  | .mneg w vd vs1 vs2 et m aux => execMneg w vd vs1 vs2 et m aux s
  | .wmule w vd vs1 vs2 et m aux => execWmule w vd vs1 vs2 et m aux s
  | .wmulo w vd vs1 vs2 et m aux => execWmulo w vd vs1 vs2 et m aux s
  | .dot w vd vs1 vs2 et m aux => execDot w vd vs1 vs2 et m aux s
  | .vsplat w vd vs1 vs2 et m aux => execVsplat w vd vs1 vs2 et m aux s
  | .vins w vd vs1 vs2 et m aux => execVins w vd vs1 vs2 et m aux s
  | .vext w vd vs1 vs2 et m aux => execVext w vd vs1 vs2 et m aux s
  | .vswaph w vd vs1 vs2 et m aux => execVswaph w vd vs1 vs2 et m aux s
  | .vmov w vd vs1 vs2 et m aux => execVmov w vd vs1 vs2 et m aux s
  | .vzero w vd vs1 vs2 et m aux => execVzero w vd vs1 vs2 et m aux s
  | .vld w vd rs1 imm nf m et rsv => execVld w vd rs1 imm nf m et rsv s
  | .vst w vd rs1 imm nf m et rsv => execVst w vd rs1 imm nf m et rsv s
  | .mask w vd vs1 vs2 et m aux => execMask w vd vs1 vs2 et m aux s
  | .refresh w vd vs1 vs2 et m aux => execRefresh w vd vs1 vs2 et m aux s
  | .unm w vd vs1 vs2 et m aux => execUnm w vd vs1 vs2 et m aux s
  | .unmg w vd vs1 vs2 et m aux => execUnmg w vd vs1 vs2 et m aux s
  | .vkey w vd vs1 vs2 et m aux => execVkey w vd vs1 vs2 et m aux s
  | .a2b w vd vs1 vs2 et m aux => execA2b w vd vs1 vs2 et m aux s
  | .b2a w vd vs1 vs2 et m aux => execB2a w vd vs1 vs2 et m aux s
  | .a2bq w vd vs1 vs2 et m aux => execA2bq w vd vs1 vs2 et m aux s
  | .b2aq w vd vs1 vs2 et m aux => execB2aq w vd vs1 vs2 et m aux s
  | .fvAdd w fd fs1 fs2 ft rsv => execFvAdd w fd fs1 fs2 ft rsv s
  | .fvSub w fd fs1 fs2 ft rsv => execFvSub w fd fs1 fs2 ft rsv s
  | .fvAnd w fd fs1 fs2 ft rsv => execFvAnd w fd fs1 fs2 ft rsv s
  | .fvOr w fd fs1 fs2 ft rsv => execFvOr w fd fs1 fs2 ft rsv s
  | .fvXor w fd fs1 fs2 ft rsv => execFvXor w fd fs1 fs2 ft rsv s
  | .fvAndn w fd fs1 fs2 ft rsv => execFvAndn w fd fs1 fs2 ft rsv s
  | .fvMullo w fd fs1 fs2 ft rsv => execFvMullo w fd fs1 fs2 ft rsv s
  | .fvMulhu w fd fs1 fs2 ft rsv => execFvMulhu w fd fs1 fs2 ft rsv s
  | .fvSll w fd fs1 fs2 ft rsv => execFvSll w fd fs1 fs2 ft rsv s
  | .fvSrl w fd fs1 fs2 ft rsv => execFvSrl w fd fs1 fs2 ft rsv s
  | .fvSra w fd fs1 fs2 ft rsv => execFvSra w fd fs1 fs2 ft rsv s
  | .fvMinu w fd fs1 fs2 ft rsv => execFvMinu w fd fs1 fs2 ft rsv s
  | .fvMaxu w fd fs1 fs2 ft rsv => execFvMaxu w fd fs1 fs2 ft rsv s
  | .fvCmpeq w fd fs1 fs2 ft rsv => execFvCmpeq w fd fs1 fs2 ft rsv s
  | .fvCmpgtu w fd fs1 fs2 ft rsv => execFvCmpgtu w fd fs1 fs2 ft rsv s
  | .fvAddsu w fd fs1 fs2 ft rsv => execFvAddsu w fd fs1 fs2 ft rsv s
  | .fvTbl w fd fs1 fs2 ft rsv => execFvTbl w fd fs1 fs2 ft rsv s
  | .fvSlli w fd fs1 ft amount rsv => execFvSlli w fd fs1 ft amount rsv s
  | .fvSrli w fd fs1 ft amount rsv => execFvSrli w fd fs1 ft amount rsv s
  | .fvSrai w fd fs1 ft amount rsv => execFvSrai w fd fs1 ft amount rsv s
  | .fvRoli w fd fs1 ft amount rsv => execFvRoli w fd fs1 ft amount rsv s
  | .fld w fd rs1 rsv imm => execFld w fd rs1 rsv imm s
  | .fst w fd rs1 rsv imm => execFst w fd rs1 rsv imm s
  | .fmvgf w g f ft lane rsv => execFmvgf w g f ft lane rsv s
  | .fmvfg w g f ft lane rsv => execFmvfg w g f ft lane rsv s
  | .fsplat w g f ft lane rsv => execFsplat w g f ft lane rsv s
  | _ => .next s

/-- The state a meaning leaves. -/
def stateAfter (r : Res) (s : State) : State :=
  match r with
  | .next t => t
  | _ => s

/-- The lines of a wick's writes pass their checks, and its transfers complete (R275, R276). -/
def State.serveDma (s : State) (w : Fin 256) : State :=
  let s := (List.range (s.wick w.val).writeBuffer.length).foldl (fun (s : State) _ => stateAfter (execDmawLineCheck w s) s) s
  (List.range 8).foldl (fun (s : State) t => stateAfter (execDmaComplete w (BitVec.ofNat 3 t) s) s) s

/-- What ends the stall of a wick by its own engines: its transfers complete (R275, R276), its island wakes (R328), its shroud generator gets a key (R317). -/
def State.serveStall (s : State) (w : Fin 256) : State :=
  match (s.wick w.val).stall with
  | .dma _ | .tag | .fence | .drain => s.serveDma w
  | .shroud => stateAfter (execShroudRekey w s) s
  | .fvWake => stateAfter (execFvWakeComplete w s) s
  | _ => s

/-- The program runs: an instruction after the other while the wick issues. A stall is served once; one that stands after that holds the program until a later command. -/
def runProgram (w : Fin 256) : Nat → State → State
  | 0, s => s
  | fuel + 1, s =>
    let stalled := (s.wick w.val).stall ≠ .none
    let s := if stalled then s.serveStall w else s
    if s.wickLive w.val && (s.wick w.val).spent then s.wickFault w.val .budget
    else if !s.wickIssues w.val then s
    else match s.wickFetch w with
      | none => s.wickFault w.val .illegal
      | some i =>
        let t := stateAfter (wickExec i s) s
        if stalled && (t.wick w.val).stall ≠ .none then t else runProgram w fuel t

/-- OWN_PROG_RUN: the program runs to its end; every instruction takes a cycle at least, so MAX_CYCLES bounds them (R286, R290, R291). -/
def State.ownerRun (s : State) (id : Nat) : State :=
  s.during id 0x0F02 fun j =>
    let budget := match (s.wick j.wick).program with | some p => p.maxCycles | none => 0
    runProgram (Fin.ofNat 256 j.wick) (2 * budget + 2) s

def execOwnProgRun (job : Nat) (s : State) : Res := .next (s.ownerRun job)

end Sys2Proof.Machine
end

