-- ==== Sys2Proof/Machine/Power.lean ====
section
/-! DEFINITION. The power commands: entries to LOW and DARK (R582 to R585), wakes (R587 to R590), sconces (R599 to R601), supplies and clocks (R26, R595, R596, R656 to R665), the slow clock (R24) and the sensors (R671). -/

namespace Sys2Proof.Machine

/-! ### Requests -/

/-- R584: Request 02h; the entry starts, and hub cycles bring it to its commit point. -/
def execRequestLow (path : Path) (s : State) : Res := .next (s.writeEntry path 0xB000 1 [2])

/-- R585: Request 03h; the entry starts, and hub cycles bring it to its commit point. -/
def execRequestDark (path : Path) (s : State) : Res := .next (s.writeEntry path 0xB000 1 [3])

/-- R587: Request 01h. -/
def execRequestLit (path : Path) (s : State) : Res := .next (s.writeEntry path 0xB000 1 [1])

/-- Nothing keeps the device from idling (R582): no job, and no stream MOVING or GLIDING. -/
def State.idle (s : State) : Bool :=
  s.jobs.isEmpty && s.liveStreams.all fun n => s.streamState n ≠ stMoving && s.streamState n ≠ stGliding

/-- Ticks of a time in milliseconds, rounded up. -/
def msTicks (ms : Nat) : Nat := ceilDiv (ms * 32768) 1000

/-- R582: LowAfterIdleMs without activity requests LOW. -/
def execLowIdleExpiry (s : State) : Res :=
  .next (
    let ms := s.entry Key.powerControlLowAfterIdleMs
    if s.power = .lit && s.entering.isNone && ms ≠ 0 && s.idle && s.fatal.isNone then (s.passTicks (s.activityAt.toNat + msTicks ms)).startEntry false else s)

/-- R582: DarkAfterLowS in LOW requests DARK. -/
def execDarkAfterLowExpiry (s : State) : Res :=
  .next (
    let n := s.entry Key.powerControlDarkAfterLowS
    if s.power = .low && s.entering.isNone && n ≠ 0 && s.fatal.isNone then (s.passTicks (s.lowSince.toNat + n * 32768)).startEntry true else s)

/-! ### Wakes -/

/-- R588: a WAKE pin has held a level for two ticks; an enabled pin wakes the device by level or by its change to the asserted level. -/
def execWakePin (pin : Fin 8) (high : Bool) (s : State) : Res :=
  .next (
    if !s.supplies.vstby then s else
    let cfg := s.entry (Key.wakePinsWakePinConfig pin.val)
    let before := s.pinAsserted pin.val
    let s := { s with supplies := { s.supplies with wakeLevels := BitVec.ofNat 8 (withBit s.supplies.wakeLevels.toNat pin.val high) } }
    if bitOf cfg 0 && s.pinAsserted pin.val && (!bitOf cfg 2 || !before) then s.wake 1 uPilot 0 pin.val else s)

/-- A pin enabled and configured by level is asserted (R588). -/
def State.levelHeld (s : State) (k : Nat) : Bool :=
  let cfg := s.entry (Key.wakePinsWakePinConfig k)
  bitOf cfg 0 && !bitOf cfg 2 && s.pinAsserted k

/-- A pin configured by level wakes the device again after every entry to LOW or DARK while it stays asserted (R588). -/
def State.wakeHeld (s : State) : State :=
  if s.entering.isSome || !(s.power = .low || s.power = .dark) || !s.supplies.vstby then s else
  match (List.range 8).find? s.levelHeld with
  | some k => s.wake 1 uPilot 0 k
  | none => s

/-- R587: in LOW an entry in a queue's prefetch cache wakes the device when HostWakeEnable is set; during an entry to LOW it aborts the entry (R586). -/
def execHostWake (slot : Fin 2048) (s : State) : Res :=
  .next (
    if (s.power = .low || s.entering.any fun e => !e.dark) && s.flag Key.powerControlHostWakeEnable && !(s.queue slot.val).cache.isEmpty then
      let r := s.queueRefuser slot.val
      s.wake 3 r.1 r.2 0xFF
    else s)

/-- R587: the timestamp reaches WakeAtTime. -/
def execWakeAtTime (s : State) : Res :=
  .next (
    let t := s.entry Key.pilotPowerWakeAtTime
    if t = 0 || !s.supplies.vstby || s.power = .cell then s else (s.passTicks t).wake 4 uPilot 0 0xFF)

/-! ### Sconces -/

/-- R599: a write of SconcePower Level. -/
def execLevelWrite (path : Path) (sconce : Fin 16) (level : BitVec 8) (s : State) : Res :=
  .next (s.writeEntry path (0x4200 + sconce.val) 2 [level])

/-- R599: a level change ends. -/
def execLevelChangeComplete (sconce : Fin 16) (s : State) : Res := .next (s.endLevelChange sconce.val)

/-- R601: a write of SconcePower Enable 00h. -/
def execSconceDisable (path : Path) (sconce : Fin 16) (s : State) : Res := .next (s.writeEntry path (0x4200 + sconce.val) 1 [0])

/-- R601: the last attempt of a disabled sconce has ended. -/
def execSconcePowerDown (sconce : Fin 16) (s : State) : Res := .next (s.powerDownSconce sconce.val)

/-- R601: a write of SconcePower Enable 01h. -/
def execSconceEnable (path : Path) (sconce : Fin 16) (s : State) : Res := .next (s.writeEntry path (0x4200 + sconce.val) 1 [1])

/-- R601: the sconce has powered up. -/
def execSconceReady (sconce : Fin 16) (s : State) : Res := .next (s.readySconce sconce.val)

/-! ### Supplies -/

/-- The main rails and the reset of the main domains are lost with MAIN_EN (R662, R663). -/
def State.mainOff (s : State) : State :=
  let s := s.endSnuff
  let s := if s.supplies.mainEn then s.hubOff else s
  { s with supplies := { s.supplies with mainEn := false, rails := 0, railRetry := false } }

/-- R663: VSTBY is lost. With a cell the device enters CELL; without one the pilot loses its power, and with it the CK (R454). -/
def execVstbyLoss (s : State) : Res :=
  .next (
    if !s.supplies.vstby then s else
    let s := (s.mainOff.handover none)
    let s := { s with power := .cell, retention := none, resetPending := none, supplies := { s.supplies with vstby := false } }
    if s.supplies.vbat then s else { s with roots := { s.roots with ck := none } })

/-- R596, R663: VSTBY returns to a pilot that ran from its cell, which enters DARK. -/
def execVstbyReturn (s : State) : Res :=
  .next (
    if s.power = .cell && !s.supplies.vstby && s.supplies.vbat then
      { s with power := .dark, supplies := { s.supplies with vstby := true } }.handover (some .pilot)
    else s)

/-- R26: the pilot powers up after both supplies were lost: the timestamp restarts, TimestampRestarted is set, and the device powers up (R595, R661, code 06h of R587). -/
def execPilotPowerUp (s : State) : Res :=
  .next (
    if s.supplies.vstby || s.supplies.vbat then s else
    let s := { s with timestamp := 0, activityAt := 0, lowSince := 0, power := .booting, supplies := { s.supplies with vstby := true, mainEn := false, rails := 0, railRetry := false } }
    let s := { s with tamper := { s.tamper with disarmed := 0, openOnce := 0 } }
    let s := (s.setEntry Key.tamperStatusSourceState 0).setEntry Key.pilotPowerTimestampRestarted 1
    let s := (s.bump Key.deviceControlResetCount).setEntry Key.deviceControlLastResetCause 1
    (s.recordWake 6 0 0 0xFF).handover (some .pilot))

/-- R661: the pilot asserts MAIN_EN at power-up, at a wake from DARK, or 1 s after a failed start. -/
def execMainEnAssert (s : State) : Res :=
  .next (
    if s.supplies.vstby && s.power = .booting && !s.supplies.mainEn then
      { s with supplies := { s.supplies with mainEn := true, railRetry := false } }
    else s)

/-- R661, R663: every rail is in range; the main reset is released. The hub's domains power up where VDD_HUB was out of range (R597, R606). -/
def execRailsInRange (s : State) : Res :=
  .next (
    if s.supplies.mainEn then
      let s := if s.supplies.rails.getLsbD 1 then s else s.powerUps [0x2B8, 0x2B9, 0x2BA]
      { s with supplies := { s.supplies with rails := 0xFF } }
    else s)

/-- R661: a rail is not in range 100 ms after MAIN_EN. -/
def execRailStartTimeout (s : State) : Res :=
  .next (
    if s.power = .booting && s.supplies.mainEn && s.supplies.rails ≠ 0xFF then
      { s with supplies := { s.supplies with mainEn := false, rails := 0, railRetry := true } }.bump Key.moduleSensorsRailStartFailures
    else s)

/-- R663: a main rail leaves its range; VDD_HUB and VDDIO trip the glitch monitor first. -/
def execRailDrop (rail : Fin 8) (s : State) : Res :=
  .next (
    if !s.hubOn then s else
    let s := if rail.val = 1 then s.alarm 2 1 else if rail.val = 7 then s.alarm 2 2 else s
    let s := s.bump Key.moduleSensorsRailDropResets
    let s := if s.haltLatched then s else s.deviceReset 7
    { s with supplies := { s.supplies with rails := BitVec.ofNat 8 (withBit s.supplies.rails.toNat rail.val false) } })

/-- R658: RESET_N low for 10 µs resets the device in LIT, in LOW and during a boot. -/
def execResetN (s : State) : Res :=
  .next (if s.power = .lit || s.power = .low || s.power = .booting then s.deviceReset 6 else s)

/-- R612: the latch of a HALT is cleared by a power cycle of the main rails, where MAIN_EN stayed asserted, or by RESET_N held low for 1 s while VSTBY is present; the device boots with cause 01h. -/
def execHaltRelease (byRails : Bool) (s : State) : Res :=
  .next (
    if s.haltLatched && s.supplies.vstby && (!byRails || s.power = .halted) then
      let s := s.setEntry Key.tamperStatusHaltLatched 0
      let rails := if s.power = .halted then 0xFF else s.supplies.rails
      let s := { s with power := .booting, supplies := { s.supplies with rails := rails } }
      let s := (s.bump Key.deviceControlResetCount).setEntry Key.deviceControlLastResetCause 1
      s.recordWake 6 0 0 0xFF
    else s)

/-- R454: the cell is lost; in CELL the pilot loses its power and the CK. -/
def execVbatLoss (s : State) : Res :=
  .next (
    let s := { s with supplies := { s.supplies with vbat := false } }
    if s.supplies.vstby then s else { s with roots := { s.roots with ck := none } })

/-- R665: the 25 MHz reference is lost: source 03h while the hub monitors run, else the shelf bus falls silent. -/
def execSysclk25Loss (s : State) : Res :=
  .next (
    let s := if s.hubMonitors then s.alarm 3 1 else s
    { s with supplies := { s.supplies with sysclk := false } })

/-- R665: the reference is back. -/
def execSysclk25Return (s : State) : Res := .next { s with supplies := { s.supplies with sysclk := true } }

/-! ### Time and sensors -/

/-- R24: one tick of the slow clock, while the pilot has power. Where the hub clock runs, hub cycles pass at 1,171,875 for every 32 ticks (R35, log 4), and a SNUFF may complete (R478), an AUTH_BEGIN may have waited its second (R551), and an entry to LOW or DARK may reach its commit point (R584, R585). A level pin that is asserted then wakes the device again (R588). -/
def execSlowClockTick (s : State) : Res :=
  .next (
    if s.supplies.vstby || s.supplies.vbat then
      let t := s.timestamp.toNat % 32
      let cycles := if s.hubOn then (t + 1) * 1171875 / 32 - t * 1171875 / 32 else 0
      { s with timestamp := s.timestamp + 1, hubCycle := s.hubCycle + cycles }.settleSnuff.expireAuth.settleEntry.wakeHeld
    else s)

/-- R671: one sample of every sensor and rail, by the firmware. -/
def execSensorSample (temps : List (BitVec 32)) (rails : List (BitVec 16)) (vbat : BitVec 16) (s : State) : Res :=
  .next (
    if s.hop.server ≠ some .firmware || temps.length ≠ 17 || rails.length ≠ 9 then s else
    let s := (temps.zip (List.range 17)).foldl (fun s p =>
      let s := s.setEntry (Key.moduleSensorsDieTemp p.2) p.1.toNat
      if (BitVec.ofNat 32 (s.entry Key.moduleSensorsMaxDieTemp)).toInt < p.1.toInt then s.setEntry Key.moduleSensorsMaxDieTemp p.1.toNat else s) s
    let s := (rails.zip (List.range 9)).foldl (fun s p => s.setEntry (Key.moduleSensorsRailMv p.2) p.1.toNat) s
    s.setEntry Key.moduleSensorsVbatMv vbat.toNat)

end Sys2Proof.Machine
end

