-- ==== Sys2Proof/Machine/Reservoir.lean ====
section
/-! DEFINITION. Reservoir commands: a grant of a channel with its turn hints (R283, R358 to R361) and a line read whose tag is checked (R345, R167). TENANCY_CLEAR_COMPLETE, RESERVOIR_CLEAR_COMPLETE and HOST_WINDOW_WRITE are in DictRows. -/

namespace Sys2Proof.Machine

/-! ### Grants -/

/-- The channel a wick's transfer may wait for: one that a granule of it lies on. -/
def DmaTransfer.touches (d : DmaTransfer) (c : Nat) : Bool :=
  (List.range (d.length / 256 + 2)).any fun k => 256 * (d.address / 256 + k) < d.address + d.length && channelOf (256 * (d.address / 256 + k)) = c

/-- A wick takes a hint of a channel (R265 c4, R283); one that is stalled may nap from then on (R284). -/
def State.takeHint (s : State) (w c hint : Nat) : State :=
  let x := s.wick w
  let y := { x with hint := BitVec.ofNat 18 (c * 4096 + hint), hints := Table.set (fun _ => (0 : BitVec 12)) x.hints c (BitVec.ofNat 12 hint) }
  let nap := !y.napping && y.mayNap
  let s := s.setWick w { y with napping := y.napping || nap }
  if nap then s.bump (Key.wickStatusNaps w) else s

/-- The wicks of a requester's slice whose transfers use a channel. -/
def State.waitingWicks (s : State) (c r : Nat) : List Nat :=
  (s.wicks.filter fun p =>
    (match p.2.job with | some id => (match s.findJob id with | some j => decide (j.slice = r) | none => false) | none => false) &&
    p.2.dma.any (fun d => d.2.touches c)).map (·.1)

/-- A hint reaches the wicks of the slice whose transfers use the channel (R265 c4, R283). -/
def State.hintWicks (s : State) (c r hint : Nat) : State :=
  (s.waitingWicks c r).foldl (fun s w => s.takeHint w c hint) s

/-- The winner of a grant waits for that channel no longer. -/
def State.clearHints (s : State) (c r : Nat) : State :=
  (s.waitingWicks c r).foldl (fun s w => s.setWick w { s.wick w with hints := Table.set (fun _ => (0 : BitVec 12)) (s.wick w).hints c 0 }) s

/-- Send one turn hint (R360). -/
def State.sendHint (s : State) (c r hint : Nat) : State :=
  (s.emit (.turnHint c (if h : r < 512 then some ⟨r, h⟩ else none) hint)).hintWicks c r hint

/-- After a grant: a hint for every requester with requests still waiting (R360). With fewer than two grants Gm is not stated: it is a free value (log 13). -/
def State.sendHints (s : State) (c : Nat) : State :=
  let x := s.arbiter c
  let gap := x.meanGap.getD s.draw.1
  let s := if x.meanGap.isNone && !x.waiting.isEmpty then s.draw.2 else s
  let wins := s.winsAfter gap 4096 0 x s.hubCycle []
  x.requesters.foldl (fun s r =>
    let k := match wins.find? (fun p => p.1 = r) with | some p => p.2 | none => 4096
    s.sendHint c r (min 4095 (gap * k))) s

/-- A granted request waits at the crossbar output port that returns its data (R356, R361). -/
def State.portJoin (s : State) (q : ChannelRequest) : State :=
  let port := q.port
  if 50 ≤ port then s else
  let s := s.settlePort s.hubCycle port
  let y := s.arbiter (64 + port)
  s.setArbiter (64 + port) { y with waiting := y.waiting ++ [{ q with arrival := s.hubCycle }] }

/-- The reservoir is active (R579). -/
def State.reservoirActive (s : State) : Bool := s.power = .lit && !s.clearingAll

/-- A hub-generated access lies in its area, in the slice's window in area 1, and in an extent the slice holds in areas 2 to 4 (R42, R367). -/
def State.areaAdmits (s : State) (q : ChannelRequest) : Bool :=
  match q.access with
  | none => true
  | some h =>
    let r := requesterNo q.requester
    let inside := fun base size => base ≤ h.address && h.address + 64 * q.lines ≤ base + size
    let upTo := fun base top => inside base (top - base)
    let base := s.entry Key.reservoirLayoutSessionBase
    let dump := s.entry Key.reservoirLayoutDumpBase
    if h.area = 1 then inside (s.windowOf r).1 (s.windowOf r).2
    else if 2 ≤ h.area && h.area ≤ 4 then s.extents.any fun e => e.area = h.area && e.slice = r && inside e.base e.size
    else if h.area = 5 then upTo base dump
    else if h.area = 6 then upTo dump (s.entry Key.reservoirLayoutUsableBytes)
    else false

/-- R367: accesses that fail the area check are not performed; each raises the area-check fault against its unit. -/
def State.failedAccesses (s : State) (c : Nat) (arrivals : List ChannelRequest) : State :=
  arrivals.foldl (fun t q =>
    match q.access with
    | none => t
    | some h => if s.areaAdmits q then t else t.reportFault 0x0805 h.unit (uChannel c) (match q.requester with | some n => uSlice n.val | none => 0) h.address) s

/-- R358: new requests join, and the channel's arbiter grants one: at most one per hub cycle (R356), so that a second grant in a cycle passes to the next. -/
def execReservoirGrant (channel : Fin 64) (arrivals : List ChannelRequest) (s : State) : Res :=
  .next (
    if !s.reservoirActive then s else
    let c := channel.val
    let admitted := fun (q : ChannelRequest) => 1 ≤ q.lines && q.lines ≤ 4 && s.areaAdmits q
    let s := s.failedAccesses c arrivals
    let s := if (s.arbiter c).recent.head? = some s.hubCycle then { s with hubCycle := s.hubCycle + 1 } else s
    let x := s.growCredits (s.arbiter c) s.hubCycle
    let x := { x with waiting := x.waiting ++ arrivals.filter admitted }
    match s.winner x s.hubCycle (x.grants + 1) with
    | none => s.setArbiter c x
    | some (r, stage) =>
      let q := x.oldest r
      let port := match q with | some q => q.port | none => 50
      let differs := decide (stage = 1) && decide ((s.byPriority x s.hubCycle).map (·.1) ≠ some r)
      let s := (s.setArbiter c (x.grant r s.hubCycle)).bump (Key.channelStatusGrants c)
      let s := if stage = 2 then s.bump Key.arbitrationFloorGrants else s
      let s := if differs then s.bump Key.arbitrationLongestWaiterWins else s
      let s := (match q with | some q => s.portJoin q | none => s).clearHints c r
      (s.emit (.granted c (if h : r < 512 then some ⟨r, h⟩ else none) port)).sendHints c)

/-! ### Lost lines -/

/-- The attempts that read a lost line end and are replayed, charged to no unit (R51, R345). -/
def State.replayReader (s : State) (reader : UnitId) : State := s.replayServed reader []

/-- Jobs of a session that run or wait, in fetch order. -/
def State.sessionJobs (s : State) (n : Nat) (p : Job → Bool) : List Nat :=
  (s.jobs.filter fun j => j.entry.session = n && j.phase ≠ .staged && p j).map (·.id)

/-- A lost line of a stream reserve (R345): a restore ends INTERNAL; an object write is replayed, or ends INTERNAL where its payload came from a feed. -/
def State.lostRecord (s : State) (n : Nat) : State :=
  match (s.stream n).currentJob with
  | none => s
  | some id =>
    match s.findJob id with
    | none => s
    | some j => if j.entry.opcode = 0x0701 && (s.session j.entry.session).ingest ≠ 1 then s.replayJob id [] else s.internalJob id

/-- A lost record of a lantern entry (R167): the attempt that read it ends and the entry is dropped. -/
def State.lostLantern (s : State) (k : Nat) (reader : UnitId) : State :=
  let ids := s.servedBy reader
  let s := match s.lanterns.find? (fun (e : LanternEntry) => e.id = k && !e.dropped) with
    | none => s
    | some e => (ids.foldl State.unpin (s.dropLantern s.nextJob e))
  ids.foldl (fun s id => s.replayUnder id reader []) s

/-- A lost line of a McEliece key: the entry is dropped and jobs that use it end KEY_INVALID (R345). -/
def State.lostMce (s : State) (k : Nat) : State :=
  let e := s.mce k
  let s := s.setMce k { e with dropped := true }
  e.pins.foldl (fun s id => s.failJob id jsKeyInvalid) s

/-- A lost line of a session context: the session becomes FREE and its jobs end INTERNAL; read by a digester, it is a checkpoint: its contexts are lost and object jobs end INTERNAL (R345). -/
def State.lostContext (s : State) (n : Nat) (reader : UnitId) : State :=
  if unitClass reader = 5 then
    let s := s.closeContexts fun c => c.session ≠ n
    (s.sessionJobs n fun j => isObject j.entry.opcode).foldl State.internalJob s
  else
    let ids := s.sessionJobs n fun j => j.running || j.phase = .closing || j.object.isSome
    ids.foldl State.internalJob (s.freeSession n)

/-- What a lost line held, and what follows (R42, R345). -/
def State.lineLost (s : State) (a : Nat) (reader : UnitId) : State :=
  let area := s.areaOf a
  if area = 5 then s.lostContext ((a - s.entry Key.reservoirLayoutSessionBase) / 4096) reader
  else if area = 6 then s
  else match s.extents.find? (fun e => e.base ≤ a && a < e.base + e.size) with
    | some e => match e.use with
      | .stream n => s.lostRecord n
      | .lantern k => s.lostLantern k reader
      | .mceliece k => s.lostMce k
      | .owner _ _ => s.replayReader reader
    | none => s.replayReader reader

/-- A read of a line passes its check when the channel returns its cells with some bits wrong: an error pattern over the 64 ciphertext bytes and the 8 of the tag (R341, R345). -/
def State.readPasses (s : State) (line : Nat) (errors : Bytes) : Bool :=
  s.lineChecks line (xorBytes (s.lineCells line) (cut errors 0 64)) (s.storedTag line ^^^ field errors 64 8)

/-- R345: a line is read, its tag recomputed and checked, and on a failure it is read once more; the operands are the wrong bits of the two reads, none where the cells come back as written. A line that fails twice is lost: it becomes a clear line. -/
def execLineRead (line : Nat) (reader : UnitId) (first second : Bytes) (s : State) : Res :=
  .next (
    let a := 64 * line
    if !s.reservoirActive || s.entry Key.reservoirLayoutUsableBytes ≤ a || s.readPasses line first then s else
    let ch := uChannel (channelOf a)
    if s.readPasses line second then s.reportFault 0x0802 ch ch 0 a
    else ((s.clearLines a 64).reportFault 0x0803 ch ch 0 a).lineLost a reader)

end Sys2Proof.Machine
end

