-- ==== Sys2Proof/Machine/Rings.lean ====
section
/-! DEFINITION. The commands of a host ring: doorbells, ring reads, the dispatcher's fetch, the start of attempts, and publication (R72, R84, R259, R394 to R407, R468). -/

namespace Sys2Proof.Machine

/-- R396: a write to a doorbell dword, whatever command its bits give (R394). -/
def execRing (link : Fin 8) (slice : Fin 512) (queue : Fin 1024) (wellSized : Bool) (value : BitVec 32) (s : State) : Res :=
  .next (s.doorbell link.val slice.val queue.val wellSized value)

/-- R398: a doorbell with CMD 1h. -/
def execInvalidate (link : Fin 8) (slice : Fin 512) (queue : Fin 1024) (wellSized : Bool) (token : BitVec 8) (tail : BitVec 20) (s : State) : Res :=
  .next (s.doorbell link.val slice.val queue.val wellSized (1#4 ++ token ++ tail))

/-- R399: a doorbell with CMD 2h. -/
def execAbort (link : Fin 8) (slice : Fin 512) (queue : Fin 1024) (wellSized : Bool) (token : BitVec 8) (tail : BitVec 20) (s : State) : Res :=
  .next (s.doorbell link.val slice.val queue.val wellSized (2#4 ++ token ++ tail))

/-- R395: the oldest run of a queue returns with the entries read; fewer than it asked for end the run there. A write of a host window that waited for it alone completes (R370). -/
def execRingReadComplete (slot : Fin 2048) (entries : List RingEntry) (s : State) : Res :=
  .next (
    let g := slot.val
    let q := s.queue g
    match q.runs with
    | [] => s
    | r :: rest =>
      if entries.isEmpty && !r.dropped then s else
      let s := s.setQueue g { q with runs := rest }
      let s :=
        if r.dropped then s
        else if q.aborting.isSome then (s.abortRun g r entries).takeDoorbells g
        else s.takeRun g r entries
      s.settleWindows (s.slotSlice g))

/-- R396: 1 µs after a short stop the entry is read once more. -/
def execShortDoorbellReread (slot : Fin 2048) (s : State) : Res := .next (s.reread slot.val)

/-- R404: one fetch in this hub cycle, with what the device reads from host memory for the entry. -/
def execFetch (data : HostData) (s : State) : Res := .next (s.fetch data)

/-- R259: an attempt of a job starts on the units named. -/
def execAttemptStart (job : Nat) (units : List UnitId) (s : State) : Res := .next (s.settleTurns.startAttempt job units)

/-- R72: the context of a session has been loaded. -/
def execContextLoadComplete (session : Fin 4096) (s : State) : Res := .next (s.settleTurns.loadContext session.val)

/-- R84: a staged job commits and is published. -/
def execPublication (job : Nat) (s : State) : Res := .next (s.settleTurns.publish job)

/-- R468: the last copy held by an earlier job is released, and the erase commits. -/
def execKeyEraseCommit (slot : Fin 512) (s : State) : Res := .next ((s.commitErase slot.val).commitEraseJob slot.val)

end Sys2Proof.Machine
end

