-- ==== Sys2Proof/Machine/StreamRx.lean ====
section
/-! DEFINITION. What a received VSP frame does: the checks of R425, sequencing (R432), acknowledgements and commits (R427, R433 to R435), rates (R428, R442), reports of the peer (R431, R446, R447), marks (R91, R430, R445), and the bytes of records and feeds (R426, R435, R442). -/

namespace Sys2Proof.Machine

/-! ### The checks of R425 -/

/-- The first check: EtherType, VERSION, TYPE and tags (R416, R417, R423). -/
def State.frameForm (s : State) (p : Nat) (f : VspFrame) : Bool :=
  f.etherType.toNat = s.entry Key.vspControlVspEtherType && f.version = 1 && 1 ≤ f.kind.toNat && f.kind.toNat ≤ 9 && !f.stacked &&
  (s.octetMode (p / 8) ≠ 5 || f.vlan.isNone)

/-- The second check (R424): the payload holds header and body, and more only as padding of a minimum-length frame. -/
def frameLengthOk (f : VspFrame) : Bool :=
  let n := 16 + f.length.toNat
  n ≤ f.payload && (f.payload = n || f.minimum)

/-- The stream a frame belongs to (R420). -/
def State.streamOf (s : State) (p : Nat) (f : VspFrame) : Option Nat :=
  let n := f.stream.toNat
  let vlan := match f.vlan with | some v => v.toNat | none => 0
  if n < 1024 && s.streamState n ≠ stDisabled && s.entry (Key.mediaStreamPort n) = p && s.entry (Key.mediaStreamPeerMac n) = leNat ((List.range 6).reverse.map fun i => f.source.extractLsb' (8 * i) 8) &&
      s.entry (Key.mediaStreamVlanId n) = vlan && f.vlan ≠ some 0 then some n else none

/-- The body of a frame: LENGTH bytes. -/
def frameContent (f : VspFrame) : Bytes := cut f.body 0 f.length.toNat

/-- The KIND a MARK may have on a direction (R430). -/
def markKind (dir : Nat) : Nat := if dir = 0 then 4 else if dir = 1 then 3 else 1

/-- The peer may send the type on the stream's direction (R423, R430). -/
def peerMaySend (dir kind : Nat) (body : Bytes) : Bool :=
  if kind = 1 then dir ≠ 0
  else if kind = 3 then dir ≠ 2
  else if kind = 6 then let k := field body 0 1; k < 1 || 4 < k || k = markKind dir
  else kind = 2 || kind = 8 || kind = 9

/-- Every reserved field of a frame is zero (R9, R422, R426 to R431). -/
def reservedZero (dir kind flags : Nat) (b : Bytes) : Bool :=
  (if kind = 1 then flags / 4 = 0 && (dir ≠ 2 || flags = 0) else flags = 0) &&
  (if kind = 1 then field b 4 4 = 0
   else if kind = 2 then field b 20 4 = 0
   else if kind = 3 then field b 2 2 = 0 && (List.range ((b.length - 8) / 8)).all fun k => field b (14 + 8 * k) 2 = 0
   else if kind = 6 then field b 1 3 = 0
   else if kind = 8 || kind = 9 then field b 2 2 = 0
   else true)

/-- LENGTH is the fixed body size of the type (R426 to R431). -/
def fixedSize (kind n : Nat) : Bool :=
  if kind = 2 || kind = 8 then n = 24 else if kind = 6 then n = 16 else if kind = 9 then n = 8 else true

/-- The last check of R425. -/
def State.frameAllowed (s : State) (n : Nat) (f : VspFrame) : Bool :=
  let dir := s.streamDir n
  let b := frameContent f
  peerMaySend dir f.kind.toNat b && reservedZero dir f.kind.toNat f.flags.toNat b && fixedSize f.kind.toNat b.length

/-! ### Acknowledgements and commits -/

/-- A job whose records are all released by its bridge is done (R47 step 10, R92). -/
def State.settleObjects (s : State) (n : Nat) : State :=
  let x := s.stream n
  (s.jobs.filter fun j => j.phase = .closing && x.currentJob = some j.id && !x.records.any fun r => r.job = j.id).foldl (fun s j =>
    let st := j.status.toNat
    s.stageResult j.id st (if st = jsOk then j.obj.releasedBytes else j.failW6 st) []) s

/-- STREAM_MARK jobs whose FILEMARKs are acknowledged are done (R444). -/
def State.settleMarks (s : State) (n : Nat) (ack : BitVec 32) : State :=
  let x := s.stream n
  let reached := x.marksSent.filter fun m => serialLater 32 ack.toNat m.2.toNat
  let s := s.setStream n { x with marksSent := x.marksSent.filter fun m => !serialLater 32 ack.toNat m.2.toNat }
  reached.foldl (fun s m => if (s.attemptOf m.1 0x0703).isSome then s.stageResult m.1 jsOk 0 [] else s) s

/-- ACK_SEQ covers every earlier frame (R427); an advance ends a run of retransmissions (R433), and records whose last frame it covers count as acknowledged (R439). -/
def State.takeAck (s : State) (n : Nat) (ack : BitVec 32) : State :=
  let x := s.stream n
  if serialLater 32 ack.toNat x.txSeq.toNat then s else
  let left := x.unacked.filter fun u => !serialLater 32 ack.toNat u.frame.seq.toNat
  let recs := x.records.map fun r => if r.offset = r.bytes.length && serialLater 32 ack.toNat r.lastSeq.toNat then { r with acked := true } else r
  let last := (recs.filter fun r => r.acked && !r.taken).getLast?
  let x := { x with unacked := left, retries := if left.length < x.unacked.length then 0 else x.retries, records := recs }
  let x := if s.streamDir n ≠ 0 then x else
    match last with
    | some r => { x with ackedEnd := max x.ackedEnd r.endPos, ackedRsn := r.rsn }
    | none => x
  (s.setStream n x).settleMarks n ack

/-- Records the bridge reports committed are released: those up to COMMITTED_RSN that end within CONSUMED (R427, R435). -/
def State.takeCommit (s : State) (n consumed : Nat) (rsn : BitVec 32) : State :=
  let x := s.stream n
  let out := fun (r : StreamRecord) => r.offset = r.bytes.length && r.endPos ≤ consumed && !serialLater 32 r.rsn.toNat rsn.toNat
  let s := s.setStream n { x with consumed := consumed, committed := some rsn, records := x.records.filter fun r => !out r }
  s.settleObjects n

/-- CREDIT (R427). -/
def State.takeCredit (s : State) (n : Nat) (b : Bytes) : State :=
  let s := s.takeAck n (BitVec.ofNat 32 (field b 0 4))
  let s := s.setStream n { s.stream n with window := field b 4 4 }
  if s.streamDir n = 0 then s.takeCommit n (field b 8 8) (BitVec.ofNat 32 (field b 16 4)) else s

/-! ### Rates -/

/-- The steps of a RATE body: rate and coast. -/
def rateSteps (b : Bytes) : List (Nat × Nat) := (List.range ((b.length - 8) / 8)).map fun k => (field b (8 + 8 * k) 4, field b (12 + 8 * k) 2)

/-- A list of numbers strictly ascends. -/
def ascending : List Nat → Bool
  | a :: b :: rest => a < b && ascending (b :: rest)
  | _ => true

/-- The ranges of a RATE body (R428). -/
def rateOk (b : Bytes) : Bool :=
  let n := field b 0 1
  let cur := field b 1 1
  let st := rateSteps b
  1 ≤ n && n ≤ 16 && b.length = 8 + 8 * n && (cur < n || cur = 0xFF) && (st.all fun p => 1 ≤ p.1 && p.1 ≤ 100000 && 1 ≤ p.2 && p.2 ≤ 10000) && ascending (st.map (·.1))

/-- The steps that BUFFER lets the device use (R436). -/
def State.usedSteps (s : State) (n buffer : Nat) (steps : List (Nat × Nat)) : List (Nat × Nat) :=
  steps.takeWhile fun p => p.1 * 1000 * (p.2 + s.entry (Key.mediaStreamMarginMs n)) + s.recordRoom n ≤ buffer

/-- The extent of a restore stream at its first RATE (R442). -/
def State.restoreExtent (s : State) (n : Nat) : State :=
  let x := s.stream n
  match (s.usedSteps n x.buffer x.steps).getLast? with
  | none => s
  | some p =>
    let size := extentSpan (2 * (p.1 * 1000 * (p.2 + s.entry (Key.mediaStreamMarginMs n))) + s.recordRoom n)
    (s.allocate (s.entry (Key.mediaStreamSlice n)) 2 size (.stream n)).getD s

/-- RATE: the steps and BUFFER are taken; the first one after the stream is enabled, or takes a new EPOCH, ends WAITING where a step is allowed (R421, R428, R442). -/
def State.takeRate (s : State) (n : Nat) (b : Bytes) : State :=
  let x := s.stream n
  let first := x.steps.isEmpty
  let cur := field b 1 1
  let s := s.setStream n { x with steps := rateSteps b, buffer := field b 4 4 }
  let s := if s.streamDir n = 1 && first && s.streamExtent n = 0 then s.restoreExtent n else s
  let top := (s.usedSteps n (field b 4 4) (rateSteps b)).length - 1
  if s.streamState n = stWaiting && first then
    if !s.stepAllowed n 0 then s
    else if cur = 0xFF then (s.setStreamState n stStopped).setEntry (Key.mediaStreamStep n) 0xFF
    else (s.setStreamState n stMoving).setEntry (Key.mediaStreamStep n) (min cur top)
  else if s.streamState n = stMoving && top < s.streamStep n then s.setEntry (Key.mediaStreamStep n) top
  else s

/-! ### Reports of the peer -/

/-- The running STREAM_STOP jobs of a stream are done (R444). -/
def State.settleStops (s : State) (n : Nat) : State :=
  let js := s.jobs.filter fun j => j.running && j.entry.opcode = 0x0704 && s.jobStream j = n
  if js.isEmpty then s else js.foldl (fun s j => s.stageResult j.id jsOk 0 []) (s.discardHeld n)

/-- The medium is at rest (R421, R436). -/
def State.mediumStops (s : State) (n : Nat) : State :=
  let x := s.stream n
  let s := s.setStream n { x with stopRsn := none, flush := false, filling := false, stopping := false }
  (s.setStreamState n stStopped).setEntry (Key.mediaStreamStep n) 0xFF

/-- A RATE has been received, and the stream has what its direction needs to leave WAITING (R421, R442). -/
def State.rated (s : State) (n : Nat) : Bool := s.stepAllowed n 0

/-- STATUS: a stop the bridge reports ends a glide or a flush, and STREAM_STOP jobs; after a lost link the stream takes the state reported (R421, R431, R436, R444, R447). -/
def State.takeStatus (s : State) (n : Nat) (b : Bytes) : State :=
  let st := field b 0 1
  if 3 < st then s.bump (Key.mediaStreamProtocolErrors n)
  else if s.streamDir n = 2 then s
  else
    let x := s.stream n
    let cur := s.streamState n
    let covered := match x.stopRsn with
      | some r => !serialLater 32 r.toNat (field b 4 4)
      | none => false
    let s :=
      if cur = stWaiting then
        if !s.rated n then s
        else if st = 0 then s.mediumStops n
        else if st = 1 then (s.setStreamState n stMoving).setEntry (Key.mediaStreamStep n) (min (field b 1 1) (x.steps.length - 1))
        else s.setStreamState n (if st = 2 then stGliding else stFaulted)
      else if st = 0 && (cur = stGliding || (cur = stMoving && x.flush && covered)) then s.mediumStops n
      else s
    if st = 0 then s.settleStops n else s

/-- The job whose object a stream carries. -/
def State.carried (s : State) (n : Nat) : Option Job :=
  match (s.stream n).currentJob with
  | some id => s.findJob id
  | none => none

/-- The job is still under way on its streams. -/
def Job.inProgress (j : Job) : Bool := j.phase ≠ .staged && j.phase ≠ .closing

/-- The object in progress on a stream ends with a status. -/
def State.endObject (s : State) (n status : Nat) : State :=
  match s.carried n with
  | some j => s.failJob j.id status
  | none => s

/-- A record the bridge cannot write counts as acknowledged (R446). -/
def State.refuseRecord (s : State) (n : Nat) (rsn : BitVec 32) : State :=
  let x := s.stream n
  (s.setStream n { x with records := x.records.filter fun r => r.rsn ≠ rsn || r.offset < r.bytes.length }).settleObjects n

/-- The stream becomes FAULTED (R446). -/
def State.faultStream (s : State) (n : Nat) : State := s.setStreamState n stFaulted

/-- Drop the records of an egress stream for a new EPOCH: a VOID that no job waits for stays, and is sent again first (R446, R448). -/
def State.dropRecords (s : State) (n : Nat) : State :=
  let x := s.stream n
  let begun := (x.records.filter fun r => 0 < r.offset || r.acked).getLast?
  let first := match begun with
    | some r => r.rsn + 1
    | none => match x.records.head? with
      | some r => r.rsn
      | none => x.nextRsn
  let kept := x.records.filter fun r => r.kind = 5 && (s.findJob r.job).isNone
  let again := kept.zipIdx.map fun p => { p.1 with rsn := first + BitVec.ofNat 32 p.2, endPos := ((kept.take (p.2 + 1)).map fun r => r.bytes.length).sum, offset := 0, acked := false }
  s.setStream n { x with records := again, nextRsn := first + BitVec.ofNat 32 kept.length, readyEnd := (kept.map fun r => r.bytes.length).sum, ackedEnd := 0, stopRsn := none, filling := false, flush := false, stopping := false, marksHeld := x.marksSent.map (fun m => (m.1, ((s.findJob m.1).map fun j => j.entry.w5.toNat).getD 1)) ++ x.marksHeld, marksSent := [], steps := [], arriving := none }

/-- What an object had begun to send when its EPOCH ended: its counts and its chain are those of these records (R98, R107, R448). -/
def State.rewindObject (s : State) (n : Nat) (j : Job) : State :=
  let x := s.stream n
  let gone := x.records.filter fun r => r.job = j.id && r.offset = 0 && !r.acked
  let segs := gone.filter fun r => r.kind = 2
  let c := match x.lastChain with
    | some p => if p.1 = j.id then p.2 else List.replicate 32 0#8
    | none => List.replicate 32 0#8
  s.modObject j.id fun o => { o with chain := c, released := o.released - segs.length, releasedPayload := o.releasedPayload - (segs.map fun r => r.bytes.length - 80).sum, releasedBytes := o.releasedBytes - (gone.map fun r => r.bytes.length).sum, voided := false }

/-- The object in progress ends RESOURCE at a new EPOCH, and its VOID is the first record of it; one that had ended already keeps its status and sends its VOID again (R446). -/
def State.endAtEpoch (s : State) (j : Job) : State :=
  if j.phase = .closing then
    let st := if j.obj.voided then j.status.toNat else jsResource
    (s.modJob j.id fun j => { j with status := BitVec.ofNat 8 st }).releaseVoid j.id st
  else s.failJob j.id jsResource

/-- ERROR 0006h (R446): a new EPOCH; both sequence spaces start again, and RSNs continue. -/
def State.forgetEpoch (s : State) (n : Nat) : State :=
  let job := s.carried n
  let s := match job with
    | some j => if s.streamDir n = 0 then s.rewindObject n j else s
    | none => s
  let s := if s.streamDir n = 0 then s.dropRecords n else s.setStream n { s.stream n with steps := [], arriving := none, stopRsn := none }
  let s := ((s.streamWaits n).setEntry (Key.mediaStreamStep n) 0xFF).newEpoch n
  match job with
  | some j => if s.streamDir n = 0 then s.endAtEpoch j else s.failJob j.id jsResource
  | none => s

/-- ERROR (R431, R446). Codes a direction gives no effect are ignored. -/
def State.takeError (s : State) (n : Nat) (b : Bytes) : State :=
  let code := field b 0 2
  let rsn := BitVec.ofNat 32 (field b 4 4)
  let dir := s.streamDir n
  if code < 1 || 7 < code then s.bump (Key.mediaStreamProtocolErrors n)
  else if (code = 1 || code = 3) && dir = 0 then
    let s := if s.streamState n = stFaulted then s else (s.faultStream n).endObject n jsResource
    if code = 1 then s.refuseRecord n rsn else s
  else if code = 2 && dir = 1 then
    (if s.streamState n = stFaulted then s else (s.faultStream n).endObject n jsVerifyFail)
  else if code = 5 then s.setStream n { s.stream n with starves := (s.stream n).starves + 1 }
  else if code = 6 then s.forgetEpoch n
  else s

/-! ### Marks -/

/-- END_OBJECT of a feed (R91, R430), with the ordinal of the object in progress: the object is judged by the bytes that came, or what was left of a dropped one is over. -/
def State.takeEndObject (s : State) (n : Nat) (ordinal : BitVec 32) : State :=
  let y := s.stream n
  if ordinal ≠ y.ordinal then s
  else if y.dropping then s.setStream n { y with dropping := false, ordinal := y.ordinal + 1, feedOffset := 0, arriving := none }
  else match s.carried n with
    | none => s
    | some j =>
      if j.obj.feedEnded then s else
      let length := j.entry.w2.toNat
      let s := s.setStream n { y with ordinal := y.ordinal + 1, feedOffset := 0, arriving := if y.feedOffset = length then y.arriving else none }
      let s := s.modObject j.id fun o => { o with feedEnded := true }
      if !j.inProgress then s
      else if length < y.feedOffset then s.failJob j.id jsLengthLong
      else if y.feedOffset < length then s.failJob j.id jsLengthShort
      else s

/-- END_OF_DATA before the restore job's TAIL ends it FORMAT (R445). -/
def State.takeEndOfData (s : State) (n : Nat) : State :=
  if (s.stream n).records.any fun r => r.kind = 4 && !r.taken then s else s.endObject n jsFormat

/-- A MARK whose KIND the direction allows (R430). -/
def State.takeMark (s : State) (n : Nat) (b : Bytes) : State :=
  let k := field b 0 1
  if k = 1 then s.takeEndObject n (BitVec.ofNat 32 (field b 4 4))
  else if k = 3 then s.takeEndOfData n
  else s.setStream n { s.stream n with earlyWarning := true }

/-! ### Records and payload -/

/-- A record is complete: it is held where it is the next one (R435, R442). -/
def State.holdRecord (s : State) (n : Nat) (rsn : BitVec 32) (b : Bytes) : State :=
  let x := s.stream n
  let x := { x with arriving := none, readyEnd := x.readyEnd + b.length }
  if x.dropping || rsn ≠ x.nextRsn then s.setStream n x
  else
    let r : StreamRecord := { rsn := rsn, job := 0, kind := field b 4 1, bytes := b, endPos := x.readyEnd, offset := b.length, lastSeq := 0, acked := true, taken := false }
    s.setStream n ({ x with records := x.records ++ [r], nextRsn := rsn + 1 }.pass rsn true b)

/-- DATA of a restore (R426, R435): bytes follow each other within a record, and a record longer than RecordRoom ends the restore RESOURCE (R442). -/
def State.takeRecordData (s : State) (n flags : Nat) (b : Bytes) : State :=
  let x := s.stream n
  let rsn := BitVec.ofNat 32 (field b 0 4)
  let off := field b 8 8
  let data := b.drop 16
  let have_ := if bitOf flags 0 then (if off = 0 then some [] else none)
    else match x.arriving with
      | some p => if p.1 = rsn && p.2.length = off then some p.2 else none
      | none => none
  match have_ with
  | none => s.setStream n { x with arriving := none }
  | some a =>
    let r := a ++ data
    if s.recordRoom n < r.length then (s.setStream n { x with arriving := none }).endObject n jsResource
    else if bitOf flags 1 then s.holdRecord n rsn r
    else s.setStream n { x with arriving := some (rsn, r) }

/-- DATA of a feed (R91, R426): bytes of the object in progress up to its length are kept; those beyond are discarded and counted. The rest of an object that was given up is discarded, up to its mark or the first byte of the next one; without an object in progress nothing is kept (log 29). -/
def State.takeFeedData (s : State) (n : Nat) (b : Bytes) : State :=
  let y := s.stream n
  let data := b.drop 16
  match s.carried n with
  | none => s
  | some j =>
    if j.obj.feedEnded then s else
    let y := if y.dropping && BitVec.ofNat 32 (field b 0 4) = y.ordinal + 1 && field b 8 8 = 0 then { y with dropping := false, ordinal := y.ordinal + 1, feedOffset := 0, arriving := none } else y
    if y.dropping || BitVec.ofNat 32 (field b 0 4) ≠ y.ordinal || field b 8 8 ≠ y.feedOffset then s
    else
      let room := j.entry.w2.toNat - y.feedOffset
      let kept := (match y.arriving with | some p => p.2 | none => []) ++ (if j.inProgress then data.take room else [])
      let s := s.setStream n { y with feedOffset := y.feedOffset + data.length, arriving := some (y.ordinal, kept) }
      if room < data.length then s.bump (Key.mediaStreamProtocolErrors n) else s

/-! ### Reception -/

/-- The ranges of a sequenced body (R426, R428, R430, R432). -/
def State.bodyOk (s : State) (kind : Nat) (b : Bytes) : Bool :=
  if kind = 1 then 17 ≤ b.length && b.length ≤ s.entry Key.vspControlMaxBody
  else if kind = 3 then rateOk b
  else 1 ≤ field b 0 1 && field b 0 1 ≤ 4

/-- An accepted sequenced frame (R432). -/
def State.takeSequenced (s : State) (n : Nat) (f : VspFrame) : State :=
  let b := frameContent f
  let k := f.kind.toNat
  if !s.bodyOk k b then (s.bump (Key.mediaStreamProtocolErrors n)).sendError n 4 0
  else if k = 1 then (if s.streamDir n = 1 then s.takeRecordData n f.flags.toNat b else s.takeFeedData n b)
  else if k = 3 then s.takeRate n b
  else s.takeMark n b

/-- A frame that passed every check (R432). -/
def State.takeFrame (s : State) (n : Nat) (f : VspFrame) : State :=
  let k := f.kind.toNat
  let x := s.stream n
  let s := if s.streamDir n = 2 && s.streamState n = stWaiting then s.setStreamState n stMoving else s
  if k = 1 || k = 3 || k = 6 then
    if f.seq = x.rxSeq then (s.setStream n { x with rxSeq := x.rxSeq + 1 }).takeSequenced n f
    else if serialLater 32 x.rxSeq.toNat f.seq.toNat then (s.bump (Key.mediaStreamDuplicateDrops n)).sendCredit n
    else s
  else if k = 2 then s.takeCredit n (frameContent f)
  else if k = 8 then s.takeStatus n (frameContent f)
  else s.takeError n (frameContent f)

/-- The stream heard its peer (R447). -/
def State.heard (s : State) (n : Nat) : State :=
  let x := s.stream n
  s.setStream n { x with heardAt := s.hubCycle, timedOut := false, retries := if x.timedOut then 0 else x.retries }

/-- A frame arrives on a media port that is up: it is counted, checked in the order of R425, and handled; the stream is evaluated after it (R437). -/
def State.receive (s : State) (p : Nat) (f : VspFrame) : State :=
  if !s.isLit || s.fatal.isSome || !s.flag (Key.mediaPortLinkUp p) then s else
  let s := s.bump (Key.mediaPortRxFrames p)
  if !s.frameForm p f then s.bump (Key.mediaPortUnknownDrops p)
  else if !frameLengthOk f then s.bump (Key.mediaPortLengthDrops p)
  else match s.streamOf p f with
    | none => s.bump (Key.mediaPortUnknownDrops p)
    | some n =>
      let s := s.heard n
      if (s.stream n).epochDue || f.epoch.toNat ≠ s.entry (Key.mediaStreamEpoch n) || !s.frameAllowed n f then s.bump (Key.mediaStreamProtocolErrors n)
      else (s.takeFrame n f).evaluate n

/-! ### Timers -/

/-- The stream's link is lost: WAITING, and fault 0F01h once (R447). -/
def State.loseStream (s : State) (n : Nat) : State :=
  let x := s.stream n
  if x.timedOut then s else
  let s := (s.setStream n { x with timedOut := true }).streamWaits n
  s.reportFault 0x0F01 (uStream n) (uOctet (s.streamOctet n)) 0 0

/-- Every unacknowledged frame is sent again, in order (R433). -/
def State.resendFrames (s : State) (n : Nat) : State :=
  let x := s.stream n
  let s := s.setStream n { x with unacked := x.unacked.map fun u => { u with at_ := s.hubCycle } }
  x.unacked.foldl (fun s u => s.issueFrame u.frame) s

end Sys2Proof.Machine
end

