-- ==== Sys2Proof/Machine/Streams.lean ====
section
/-! DEFINITION. The commands of media ports and streams: received frames (R420 to R435, R445, R446), timers (R419, R432, R433, R437, R447), and a port that comes up. -/

namespace Sys2Proof.Machine

/-- R435: a DATA frame is received. -/
def execVspDataReceived (port : Fin 256) (frame : VspFrame) (s : State) : Res := .next (s.receive port.val frame)

/-- R427: a CREDIT is received. -/
def execVspCreditReceived (port : Fin 256) (frame : VspFrame) (s : State) : Res := .next (s.receive port.val frame)

/-- R428: a RATE is received. -/
def execVspRateReceived (port : Fin 256) (frame : VspFrame) (s : State) : Res := .next (s.receive port.val frame)

/-- R431: a STATUS is received. -/
def execVspStatusReceived (port : Fin 256) (frame : VspFrame) (s : State) : Res := .next (s.receive port.val frame)

/-- R91: a MARK with KIND 01h is received. -/
def execEndObject (port : Fin 256) (frame : VspFrame) (s : State) : Res := .next (s.receive port.val frame)

/-- R445: a MARK with KIND 03h is received. -/
def execEndOfData (port : Fin 256) (frame : VspFrame) (s : State) : Res := .next (s.receive port.val frame)

/-- R445: a MARK with KIND 04h is received. -/
def execEarlyWarning (port : Fin 256) (frame : VspFrame) (s : State) : Res := .next (s.receive port.val frame)

/-- R446: an ERROR 0001h is received. -/
def execMediumWrite (port : Fin 256) (frame : VspFrame) (s : State) : Res := .next (s.receive port.val frame)

/-- R446: an ERROR 0003h is received. -/
def execNoMedium (port : Fin 256) (frame : VspFrame) (s : State) : Res := .next (s.receive port.val frame)

/-- R446: an ERROR 0002h is received. -/
def execMediumRead (port : Fin 256) (frame : VspFrame) (s : State) : Res := .next (s.receive port.val frame)

/-- R446: an ERROR 0005h is received. -/
def execStarved (port : Fin 256) (frame : VspFrame) (s : State) : Res := .next (s.receive port.val frame)

/-- R446: an ERROR 0006h is received. -/
def execUnknownEpoch (port : Fin 256) (frame : VspFrame) (s : State) : Res := .next (s.receive port.val frame)

/-- Streams act in LIT, outside a fatal stop, while they are not DISABLED and have an EPOCH. -/
def State.streamActs (s : State) (n : Nat) : Bool := s.isLit && s.fatal.isNone && s.streamState n ≠ stDisabled && !(s.stream n).epochDue

/-- R437: a stream's pacing is evaluated. -/
def execPacingEvaluation (stream : Fin 1024) (s : State) : Res := .next (if s.streamActs stream.val then s.evaluate stream.val else s)

/-- R433: an unacknowledged frame has reached RetransmitUs; after RetransmitLimit retransmissions without an advance the link is lost. -/
def execRetransmitTimeout (stream : Fin 1024) (s : State) : Res :=
  .next (
    let n := stream.val
    let x := s.stream n
    if !s.streamActs n || x.unacked.isEmpty || x.timedOut then s
    else if s.entry Key.vspControlRetransmitLimit ≤ x.retries then s.loseStream n
    else ((s.setStream n { x with retries := x.retries + 1 }).bump (Key.mediaStreamRetransmits n)).resendFrames n)

/-- R432: received frames are acknowledged. -/
def execCreditTimer (stream : Fin 1024) (s : State) : Res :=
  .next (if s.streamActs stream.val && (s.stream stream.val).rxSeq ≠ (s.stream stream.val).rxAcked then s.sendCredit stream.val else s)

/-- R419: the STATUS that is due. -/
def execStatusTimer (stream : Fin 1024) (s : State) : Res :=
  .next (if s.streamActs stream.val && s.portUp stream.val then s.sendStatus stream.val else s)

/-- R447: LinkTimeoutMs without a frame. -/
def execLinkTimeout (stream : Fin 1024) (s : State) : Res := .next (if s.streamActs stream.val then s.loseStream stream.val else s)

/-- The octet's mode gives it this port (R414). -/
def portOf (mode p : Nat) : Bool :=
  if mode = 1 || mode = 5 then true else if mode = 2 then p % 2 = 0 else if mode = 3 then p % 4 = 0 else if mode = 4 then p % 8 = 0 else false

/-- R419: a port of an octet that carries media comes up; its streams' STATUS frames that wait are sent, with the frames not yet acknowledged left to R433. -/
def execMediaPortLinkUp (port : Fin 256) (s : State) : Res :=
  .next (
    let p := port.val
    let o := p / 8
    if !s.isLit || s.fatal.isSome || s.flag (Key.mediaPortLinkUp p) || !portOf (s.octetMode o) p || s.hostOctet o || !s.inService (uOctet o) || !s.supplies.refclk156.getLsbD (o / 8) then s
    else
      let s := s.setEntry (Key.mediaPortLinkUp p) 1
      (s.liveStreams.filter fun n => s.entry (Key.mediaStreamPort n) = p && (s.stream n).statusDue).foldl State.sendStatus s)

end Sys2Proof.Machine
end

