-- ==== Sys2Proof/Machine/Tamper.lean ====
section
/-! DEFINITION. The tamper commands: alarms of each monitor (R607 to R616), loop samples (R610), re-arming (R609), and the built-in test (R617, R618). -/

namespace Sys2Proof.Machine

/-- R607 source 01h: a mantle line alarms while the hub is powered. -/
def execMantleAlarm (line : Fin 64) (s : State) : Res :=
  .next (if s.hubMonitors then s.alarm 1 line.val else s)

/-- The rail codes of R616: VDD_HUB, VDDIO, and the sconces' regulators. -/
def glitchCode (rail : BitVec 8) : Bool :=
  rail = 1 || rail = 2 || (0x10 ≤ rail.toNat && rail.toNat < 0x20)

/-- R607 source 02h: a supply glitch on a monitored rail. -/
def execSupplyGlitchAlarm (rail : BitVec 8) (s : State) : Res :=
  .next (if s.hubMonitors && glitchCode rail then s.alarm 2 rail.toNat else s)

/-- R607 source 03h: the reference (01h) or the hub clock (02h). -/
def execClockAlarm (hubClock : Bool) (s : State) : Res :=
  .next (if s.hubMonitors then s.alarm 3 (if hubClock then 2 else 1) else s)

/-- A die reading in degrees Celsius is outside TempLowC to TempHighC (R607). -/
def State.tempOutside (s : State) (reading : BitVec 16) : Bool :=
  let high := (BitVec.ofNat 32 (s.entry Key.tamperControlTempHighC)).toInt
  let low := (BitVec.ofNat 32 (s.entry Key.tamperControlTempLowC)).toInt
  high < reading.toInt || reading.toInt < low

/-- R607 source 04h: a die sensor with its reading in °C. -/
def execTemperatureAlarm (sensor : Fin 17) (reading : BitVec 16) (s : State) : Res :=
  .next (if s.hubMonitors && s.tempOutside reading then s.alarm 4 (sensor.val + reading.toNat * 0x10000) else s)

/-- R607 source 05h: a photodiode. -/
def execLightAlarm (diode : Fin 8) (s : State) : Res :=
  .next (if s.hubMonitors then s.alarm 5 diode.val else s)

/-- One sample of one loop (R610): SourceState follows it, and the second consecutive open sample alarms. -/
def State.sampleLoop (s : State) (n : Nat) (isOpen : Bool) : State :=
  if !bitOf (s.entry Key.tamperControlLoopEnable) n then s else
  let before := s.tamper.openOnce.getLsbD n
  let s := { s with tamper := { s.tamper with openOnce := BitVec.ofNat 4 (withBit s.tamper.openOnce.toNat n isOpen) } }
  if isOpen then (if before then (s.setEntryBit Key.tamperStatusSourceState (5 + n) true).alarm (6 + n) 0 else s)
  else s.setEntryBit Key.tamperStatusSourceState (5 + n) false

/-- R610: the pilot samples each enabled loop, while it is powered. -/
def execLoopSample (isOpen : BitVec 4) (s : State) : Res :=
  .next (if s.supplies.vstby || s.supplies.vbat then
    (List.range 4).foldl (fun s n => s.sampleLoop n (isOpen.getLsbD n)) s else s)

/-- Integrity failures that lie in the window of R620 which ends now. -/
def State.burstFailures (s : State) : List (BitVec 64) :=
  let w := s.entry Key.tamperControlIntegrityBurstWindowMs
  s.tamper.failures.filter fun t => (s.timestamp.toNat - t.toNat) * 1000 ≤ w * 32768

/-- R620: IntegrityBurstCount failures within the window raise source 0Ah. -/
def execIntegrityBurstAlarm (s : State) : Res :=
  .next (
    let n := s.burstFailures.length
    if s.hubMonitors && s.entry Key.tamperControlIntegrityBurstCount ≤ n then s.alarm 10 n else s)

/-- The condition of a source is absent as far as the device's own state shows: a loop last read intact, a burst has left its window. -/
def State.conditionAbsent (s : State) (src : Nat) : Bool :=
  if 6 ≤ src && src ≤ 9 then !s.tamper.openOnce.getLsbD (src - 6)
  else if src = 10 then s.burstFailures.length < s.entry Key.tamperControlIntegrityBurstCount
  else true

/-- R609: after 32 ticks without its condition a source re-arms. -/
def execAlarmRearm (source : Fin 10) (s : State) : Res :=
  .next (
    if s.conditionAbsent (source.val + 1) then
      let s := s.setEntryBit Key.tamperStatusSourceState source.val false
      { s with tamper := { s.tamper with disarmed := BitVec.ofNat 10 (withBit s.tamper.disarmed.toNat source.val false) } }
    else s)

/-- R617: a write of TamperTest TestRequest starts a stimulus. -/
def execTestRequest (path : Path) (value : BitVec 8) (s : State) : Res :=
  .next (s.writeEntry path 0x9030 1 [value])

/-- R618: the latency after the stimulus started has passed. -/
def execTestDeadline (s : State) : Res := .next s.judgeTamperTest

/-- R617: 1 ms after the stimulus the source under test responds again. -/
def execTestSuppressionEnd (s : State) : Res :=
  .next { s with tamper := { s.tamper with testSource := none, testAlarmed := false, testJudged := false } }

end Sys2Proof.Machine
end

