-- ==== Sys2Proof/Machine/Tapers.lean ====
section
/-! DEFINITION. The tapers as microcoded engines (R192 to R195, R208 to R220): one microword, waits, the wipe, and the strike. What two fields of one word that act on one resource do together, a port's value when it is not read, and flags an operation does not give are free values (log 20). -/

namespace Sys2Proof.Machine

/-! ### Microword fields (R217) -/

/-- Bits [hi:lo] of a microword. -/
def mw (v : BitVec 128) (hi lo : Nat) : Nat := bitsOf v.toNat hi lo

/-- A reserved code in a field, or a non-zero reserved bit (R217, R218). -/
def reservedWord (v : BitVec 128) : Bool :=
  mw v 25 16 ≠ 0 || 8 < mw v 119 116 || mw v 72 70 = 7 || 3 < mw v 69 67 || 4 < mw v 64 61 || 8 < mw v 60 57 || 1 < mw v 48 47 ||
    3 < mw v 35 33 || 3 < mw v 32 30 || 4 < mw v 29 27

/-! ### Parts of a taper -/

def Taper.pointer (x : Taper) (k : Nat) : Nat := (Table.get (fun _ => 0#10) x.pointers k).toNat
def Taper.index (x : Taper) (k : Nat) : Nat := (Table.get (fun _ => 0#7) x.indices k).toNat
def Taper.counter (x : Taper) (k : Nat) : Nat := (Table.get (fun _ => 0#16) x.counters k).toNat
def Taper.word (x : Taper) (a : Nat) : Word72 := Table.get (fun _ => 0) x.memory a

/-- A pointer names a slot of the memory (R193). -/
def Taper.slotOk (x : Taper) (k : Nat) : Bool := x.pointer k < 4096 / x.slotLength

/-- Word p × L + (x mod L) (R193). -/
def Taper.operand (x : Taper) (p i : Nat) : Nat := x.pointer p * x.slotLength + x.index i % x.slotLength

/-- Word k of a row: the index with its low 3 bits ignored, and then on within the slot, where it wraps (R192, R193, R217). -/
def Taper.row (x : Taper) (p i k : Nat) : Nat := x.pointer p * x.slotLength + (x.index i / 8 * 8 + k) % x.slotLength

/-- A row of 8 limbs as one number. -/
def limbsNat : List Nat → Nat
  | [] => 0
  | a :: l => a % 2 ^ 64 + 2 ^ 64 * limbsNat l

/-- The limbs of ROW_B or ROW_N as one number. -/
def rowNat (r : Table (BitVec 64)) : Nat := limbsNat ((List.range 8).map fun k => (Table.get (fun _ => 0#64) r k).toNat)

/-- A row register loaded from 8 words. -/
def loadRow (ws : List Nat) : Table (BitVec 64) :=
  (ws.zipIdx).foldl (fun r p => Table.set (fun _ => 0#64) r p.2 (BitVec.ofNat 64 p.1)) []

/-- A pointer that a word uses is out of range (R193, R212). -/
def Taper.pointerError (x : Taper) (v : BitVec 128) : Bool :=
  (mw v 96 96 = 1 && !x.slotOk (mw v 95 92)) || (mw v 88 88 = 1 && !x.slotOk (mw v 87 84)) || (mw v 80 80 = 1 && !x.slotOk (mw v 79 76))

/-- BLIND has a fresh word: the hub's instance serves and the taper takes refills (R208, R213, R218). -/
def State.blindFresh (s : State) (x : Taper) : Bool := s.drbgServes 16 && !x.mustWipe

/-- The condition COND selects (R219); reserved codes read false. When staging accepts a word is not stated: that it always does, so that OUT_READY reads true, is the model's choice (log 20). -/
def State.taperCond (s : State) (x : Taper) (v : BitVec 128) : Bool :=
  let c := mw v 103 99
  if c = 0 then true
  else if c = 1 then x.carry
  else if c = 2 then x.zero
  else if c = 3 then x.borrow
  else if 4 ≤ c && c ≤ 7 then x.counter (c - 4) = 0
  else if c = 8 then x.run2
  else if c = 9 then s.blindFresh x
  else if c = 0x0A then !x.keyPath.isEmpty
  else if c = 0x0B then true
  else if c = 0x0C then x.cmpEq
  else if 0x0D ≤ c && c ≤ 0x10 then x.jobBits.getLsbD (c - 0x0D)
  else if c = 0x11 then x.firstUse
  else false

/-! ### The datapath -/

/-- −n⁻¹ modulo 2^64 for an odd n (R217): each step doubles the bits of the inverse that are right. -/
def negInverse (n : Nat) : Nat :=
  let m := 2 ^ 64
  let y := (List.range 6).foldl (fun y _ => y * (m + 2 - n % m * y % m) % m) 1
  (m - y) % m

/-- The ALU: result of 72 bits, and carry and borrow where the operation gives them (R192, R217). Without an operation its result is not stated; 0, and with it ZERO set by an update, is the model's choice (log 20). -/
def taperAlu (op a x y cin : Nat) : Nat × Option Bool × Option Bool :=
  let m := 2 ^ 72
  if op = 1 then ((x + y + cin) % m, some (m ≤ x + y + cin), none)
  else if op = 2 then ((x + 2 * m - y - cin) % m, none, some (x < y + cin))
  else if op = 3 then (x &&& y, none, none)
  else if op = 4 then (x ||| y, none, none)
  else if op = 5 then (x ^^^ y, none, none)
  else if op = 6 then (x / 2, none, none)
  else if op = 7 then (x * 2 % m, none, none)
  else if op = 8 then (a, none, none)
  else (0, none, none)

/-- What one microword does to every resource but the sequencer, and whether the compare unit concludes on a difference (R209, R217). `f` gives free values, by number, and `fresh` the word BLIND takes from the hub (R208). Job parameter word 0 is N′ (R217). -/
def Taper.datapath (x : Taper) (v : BitVec 128) (fresh : Nat) (f : Nat → Nat) : Taper × Bool :=
  let imm := mw v 15 0
  let word := fun a => (x.word (a % 4096)).toNat
  let a := if mw v 96 96 = 1 then word (x.operand (mw v 95 92) (mw v 91 89)) else f 0 % 2 ^ 72
  let bs := (List.range 8).map fun k => if mw v 88 88 = 1 then word (x.row (mw v 87 84) (mw v 83 81) k) else f (1 + k) % 2 ^ 72
  let b := bs.getD 0 0
  let acc := x.acc.toNat
  let limb := acc % 2 ^ 64
  let src := mw v 56 55
  let cin := [0, 1, if x.carry then 1 else 0, if x.borrow then 1 else 0].getD (mw v 54 53) 0
  let (alu, carry, borrow) := taperAlu (mw v 60 57) a (if src = 3 then limb else a) (if src = 1 then imm else if src = 2 then limb else b) cin
  -- multiplier, reducer and accumulator
  let mul := mw v 69 67
  let red := mw v 52 51
  let m := [a % 2 ^ 64, limb, x.blind.toNat, imm].getD (mw v 66 65) 0
  let p := m * rowNat x.rowB
  let sum := (acc + (if mul = 1 then p else 0) + (if mul = 2 then 2 ^ 640 - p % 2 ^ 640 else 0) + (if red = 2 then x.q.toNat * rowNat x.rowN else 0)) % 2 ^ 640
  let op := mw v 64 61
  let acc2 :=
    if op = 0 then sum
    else if mul = 1 || mul = 2 || red = 2 then f 9 + 2 ^ 64 * f 10
    else if op = 1 then 0
    else if op = 2 then acc / 2 ^ 64
    else if op = 3 then acc + alu
    else acc - limb + a % 2 ^ 64
  -- swap unit
  let sw := mw v 50 49
  let bit := bitOf a (imm % 64)
  let out := if sw = 2 then (if x.latch then (b, a) else (a, b)) else (f 11 % 2 ^ 72, f 12 % 2 ^ 72)
  let latch := if sw = 1 then bit else if sw = 3 then x.latch != bit else x.latch
  -- write port
  let key := match x.keyPath with | k :: _ => k.toNat | [] => f 13 % 2 ^ 72
  let wv := [alu, limb, out.1, out.2, x.blind.toNat, key, imm].getD (mw v 72 70) 0
  let memory := if mw v 80 80 = 1 then Table.set (fun _ => 0) x.memory (x.operand (mw v 79 76) (mw v 75 73) % 4096) (BitVec.ofNat 72 wv) else x.memory
  -- flags, compare, hub, registers
  let fl := mw v 29 27
  let cmp := mw v 35 33
  let cmpEq := if cmp = 1 then true else if cmp = 2 then x.cmpEq && decide (a = b) else x.cmpEq
  let hub := mw v 32 30
  let xs := mw v 46 44
  let xo := mw v 43 42
  let ps := mw v 39 36
  let po := mw v 41 40
  let xi := x.index xs
  let pi := x.pointer ps
  let y := { x with memory := memory, rowB := if mul = 3 then loadRow bs else x.rowB, rowN := if red = 3 then loadRow bs else x.rowN, q := if red = 1 then BitVec.ofNat 64 (limb * x.nPrime.toNat) else x.q, acc := BitVec.ofNat 640 acc2, carry := if fl = 1 then carry.getD (bitOf (f 14) 0) else if fl = 2 then false else x.carry, borrow := if fl = 1 then borrow.getD (bitOf (f 15) 0) else if fl = 2 then false else x.borrow, zero := if fl = 1 then decide (alu = 0) else if fl = 2 then false else x.zero, latch := latch, blind := if mw v 48 47 = 1 then BitVec.ofNat 64 fresh else x.blind, nPrime := if hub = 3 && imm % 16 = 0 then BitVec.ofNat 64 (negInverse x.modulus) else x.nPrime, pointers := if po = 0 then x.pointers else Table.set (fun _ => 0#10) x.pointers ps (BitVec.ofNat 10 (if po = 1 then imm else if po = 2 then pi + 1 else pi + 1023)), indices := if xo = 0 then x.indices else Table.set (fun _ => 0#7) x.indices xs (BitVec.ofNat 7 (if xo = 3 then imm else if xo = 1 then xi + 1 else xi + 127)), counters := if mw v 26 26 = 1 then Table.set (fun _ => 0#16) x.counters (mw v 98 97) (BitVec.ofNat 16 imm) else x.counters, cmpEq := cmpEq, run2 := if fl = 3 then true else if fl = 4 then false else x.run2, keyPath := if hub = 1 then x.keyPath.drop 1 else x.keyPath, staging := if hub = 2 then x.staging ++ [BitVec.ofNat 72 a] else x.staging }
  (y, cmp = 3 && !x.cmpEq)

/-! ### The sequencer -/

/-- The taper after the sequencer's part of a word, `before` being it as the word began; none for a microword error (R218). Where one word gives CTR_LD and LOOP on one counter, the load stays and the branch goes by the old count less 1; END sees RUN2 as the word's FLAG leaves it: the spec states neither, and both are the model's choice (log 20). -/
def Taper.sequence (y before : Taper) (v : BitVec 128) (c : Bool) : Option Taper :=
  let cur := before.address.toNat
  let target := BitVec.ofNat 12 (mw v 115 104)
  let next : Option Taper := if cur = 0xFFF then none else some { y with address := BitVec.ofNat 12 (cur + 1) }
  let taken : Option Taper := some { y with address := target }
  let k := mw v 98 97
  let n := (before.counter k + 65535) % 65536
  let op := mw v 119 116
  if op = 0 || op = 7 then next
  else if op = 1 then taken
  else if op = 2 then (if c then taken else next)
  else if op = 3 then (if c then next else taken)
  else if op = 4 then (if 4 ≤ before.stack.length then none else some { y with address := target, stack := BitVec.ofNat 12 (cur + 1) :: before.stack })
  else if op = 5 then (match before.stack with
    | [] => none
    | r :: rest => some { y with address := r, stack := rest })
  else if op = 6 then
    let z := if mw v 26 26 = 1 then y else { y with counters := Table.set (fun _ => 0#16) y.counters k (BitVec.ofNat 16 n) }
    if n ≠ 0 then some { z with address := target } else (if cur = 0xFFF then none else some { z with address := BitVec.ofNat 12 (cur + 1) })
  else if op = 8 then
    -- END: the hub interface starts the second run, then the next macro-operation of the attempt, or the attempt is over (R207, R208, R218)
    (if !y.run2 then some { y with address := y.entry, run2 := true }
     else match y.runs with
       | m :: rest => some { y.takeRun m y.modulus with runs := rest }
       | [] => some { y with ended := true })
  else none

/-! ### Commands -/

/-- The taper runs: it serves an attempt whose inputs are prepared (R205), in a device that is LIT and not stopped. -/
def State.taperRuns (s : State) (t : Nat) : Bool :=
  let x := s.taper t
  s.isLit && s.fatal.isNone && s.inService (uTaper t) && !x.mustWipe && !x.ended && x.prepared &&
  (match x.job with
   | none => false
   | some id => match s.findJob id with | some j => j.running && j.units.contains (uTaper t) | none => false)

/-- Report a taper's fault with the slice of its job (R212). -/
def State.taperFault (s : State) (t code : Nat) : State :=
  let slc := match (s.taper t).job with | some id => (match s.findJob id with | some j => uSlice j.slice | none => 0) | none => 0
  s.reportFault code (uTaper t) (uTaper t) slc 0

/-- A mismatch: the code depends on the strike, and the attempt ends whatever the fault's severity, charged to the taper (R51, R52, R209, R210, R212). -/
def State.taperMismatch (s : State) (t : Nat) : State :=
  (s.taperFault t (if s.flag (Key.taperStatusStrike t) then 0x0402 else 0x0401)).replayServed (uTaper t) [uTaper t]

/-- The modulus of the macro-operation that an END has just started, `before` being the taper before it. -/
def State.nextModulus (s : State) (after before : Taper) : Option Nat :=
  match before.runs, after.job.bind s.findJob with
  | m :: rest, some j => if after.runs = rest then some (s.macroModulus j m.alg) else none
  | _, _ => none

/-- A microword takes effect: datapath and sequencer in one cycle (R216 to R218). A word that takes a BLIND word while the hub has none takes a free value (log 20). -/
def State.runWord (s : State) (t : Nat) (v : BitVec 128) : State :=
  let x := s.taper t
  let c := s.taperCond x v
  let base := s.freeIndex
  let s := { s with freeIndex := base + 17 }
  let g := if mw v 48 47 = 1 then s.generate 16 8 else (none, s)
  let (y, differs) := x.datapath v ((g.1.map leNat).getD (Config.free (base + 16))) fun k => Config.free (base + k)
  let s := g.2
  match y.sequence x v c with
  | none => s.taperFault t 0x0407
  | some z =>
    let z := match s.nextModulus z x with | some n => { z with modulus := n } | none => z
    let s := s.setTaper t { z with waiting := none }
    if differs then s.taperMismatch t else s

/-- A word reads operand memory. -/
def readsMemory (v : BitVec 128) : Bool := mw v 96 96 = 1 || mw v 88 88 = 1

/-- The SECDED outcome of the operand words a microword reads: an error of one bit is corrected and counted, one of two bits is a fault (R195, R212). -/
def State.readOperands (s : State) (t : Nat) (v : BitVec 128) (e : EccOutcome) : State :=
  if !readsMemory v then s else
  match e with
  | .clean => s
  | .single => s.taperFault t 0x0405
  | .double => s.taperFault t 0x0406

/-- The word the sequencer fetches and its address: ROM, or patch RAM at F00h and above or where the patch map redirects (R216). -/
def State.fetchWord (s : State) (x : Taper) (rom : BitVec 128) : BitVec 12 × BitVec 128 :=
  let a := match s.control.map.find? (fun p => p.1 = x.address) with | some p => p.2 | none => x.address
  (a, if 0xF00 ≤ a.toNat then Table.get (fun _ => 0#128) s.control.patch a.toNat else rom)

/-- R217: a taper executes the microword at its address, `word` being what the ROM holds there and `ecc` what the SECDED codes of that word (R220) and of the operand words it reads (R195) show. A WAIT whose condition is false holds (R218); one for a fresh BLIND word is a job that waits for randomness (R493). -/
def execTaperMicroword (taper : Fin 8) (word : BitVec 128) (ecc : WordEcc) (s : State) : Res :=
  .next (
    let x := s.taper taper
    if !s.taperRuns taper || x.waiting.isSome then s else
    let (a, v) := s.fetchWord x word
    let s := match ecc.word with
      | .clean => s
      | .single => s.taperFault taper 0x0403
      | .double => s.taperFault taper 0x0404
    if ecc.word = .double || !s.taperRuns taper then s else
    let s := s.setTaper taper { s.taper taper with address := a }
    let x := s.taper taper
    if reservedWord v || x.pointerError v then s.taperFault taper 0x0407
    else if mw v 119 116 = 7 && !s.taperCond x v then
      let s := s.setTaper taper { x with waiting := some v }
      match x.job with
      | some id => if mw v 103 99 = 9 then s.waitEntropy id else s
      | none => s
    else
      let s := s.readOperands taper v ecc.operands
      if (ecc.operands = .double && readsMemory v) || !s.taperRuns taper then s else s.runWord taper v)

/-- R218: the condition of a WAIT has become true, and its fields take effect. -/
def execTaperWaitRelease (taper : Fin 8) (s : State) : Res :=
  .next (
    let x := s.taper taper
    match x.waiting with
    | none => s
    | some v =>
      if !s.taperRuns taper || !s.taperCond x v then s else
      let s := match x.job with
        | some id => s.modJob id fun j => { j with waitsEntropy := false }
        | none => s
      s.runWord taper v)

/-- R218: a WAIT on anything but RND_READY has lasted WaitWatchdog cycles, as that entry stood when the job was fetched (R224). -/
def execTaperWaitWatchdog (taper : Fin 8) (s : State) : Res :=
  .next (
    let x := s.taper taper
    match x.waiting with
    | none => s
    | some v =>
      if !s.taperRuns taper || mw v 103 99 = 9 then s else
      let s := match x.job with
        | some id => s.modJob id fun j => { j with taperCycles := j.taperCycles + j.taperRules.2 }
        | none => s
      s.taperFault taper 0x0408)

/-- R213, R214: the wipe ends: memory and registers are clear and the taper is idle; a clean job that ended counts towards the strike (R210). A word that does not read zero raises the wipe-readback fault, which comes before the job's commit (R54). -/
def execTaperWipe (taper : Fin 8) (readbackZero : Bool) (s : State) : Res :=
  .next (
    let x := s.taper taper
    if !x.mustWipe then s else
    let slc := match x.job with | some id => (match s.findJob id with | some j => uSlice j.slice | none => 0) | none => 0
    let clean := match x.job with | some id => (match s.findJob id with | some j => decide (j.phase = .staged) | none => false) | none => false
    let wiped := { Taper.wiped with strikeRule := x.strikeRule, cleanJobs := if clean && readbackZero then x.cleanJobs + 1 else x.cleanJobs }
    if readbackZero then s.setTaper taper wiped
    else
      (s.setTaper taper wiped).reportFault 0x0409 (uTaper taper) (uTaper taper) slc 0)

/-- R210: StrikeClearJobs consecutive jobs without a mismatch clear the strike, by the value at the fetch of the last of them (R224). -/
def execStrikeClear (taper : Fin 8) (s : State) : Res :=
  .next (
    let x := s.taper taper
    if s.flag (Key.taperStatusStrike taper) && x.strikeRule ≤ x.cleanJobs then
      (s.setTaper taper { x with cleanJobs := 0 }).setEntry (Key.taperStatusStrike taper) 0
    else s)

end Sys2Proof.Machine
end

