-- ==== Sys2Proof/Machine/Dispatch.lean ====
section
/-! DEFINITION. The dispatch: one arm for each command, each a direct call of its meaning. -/

namespace Sys2Proof.Machine

def exec (i : Instr) (s : State) : Host.Outcome State Fault Refusal :=
  match i with
  | .ring link slice queue wellSized value => Sys2Proof.Machine.execRing link slice queue wellSized value s
  | .invalidate link slice queue wellSized token tail => Sys2Proof.Machine.execInvalidate link slice queue wellSized token tail s
  | .abort link slice queue wellSized token tail => Sys2Proof.Machine.execAbort link slice queue wellSized token tail s
  | .ringReadComplete slot entries => Sys2Proof.Machine.execRingReadComplete slot entries s
  | .shortDoorbellReread slot => Sys2Proof.Machine.execShortDoorbellReread slot s
  | .fetch data => Sys2Proof.Machine.execFetch data s
  | .attemptStart job units => Sys2Proof.Machine.execAttemptStart job units s
  | .contextLoadComplete session => Sys2Proof.Machine.execContextLoadComplete session s
  | .publication job => Sys2Proof.Machine.execPublication job s
  | .queueEnable path slot => Sys2Proof.Machine.execQueueEnable path slot s
  | .queueDisable path slot => Sys2Proof.Machine.execQueueDisable path slot s
  | .functionReset link kind => Sys2Proof.Machine.execFunctionReset link kind s
  | .queueDrained slot => Sys2Proof.Machine.execQueueDrained slot s
  | .d3hotEntry link => Sys2Proof.Machine.execD3hotEntry link s
  | .d0Return link => Sys2Proof.Machine.execD0Return link s
  | .pasidEnableClear link => Sys2Proof.Machine.execPasidEnableClear link s
  | .pasidEnableSet link => Sys2Proof.Machine.execPasidEnableSet link s
  | .hostLinkUp link speed width => Sys2Proof.Machine.execHostLinkUp link speed width s
  | .kemKeygen job check => Sys2Proof.Machine.execKemKeygen job check s
  | .kemEncaps job check => Sys2Proof.Machine.execKemEncaps job check s
  | .kemDecaps job check => Sys2Proof.Machine.execKemDecaps job check s
  | .mceCacheLoad job => Sys2Proof.Machine.execMceCacheLoad job s
  | .mceCacheDrop job => Sys2Proof.Machine.execMceCacheDrop job s
  | .sigKeygen job check => Sys2Proof.Machine.execSigKeygen job check s
  | .sigSign job check => Sys2Proof.Machine.execSigSign job check s
  | .sigVerify job check => Sys2Proof.Machine.execSigVerify job check s
  | .lanternBuild job check => Sys2Proof.Machine.execLanternBuild job check s
  | .lanternDrop job => Sys2Proof.Machine.execLanternDrop job s
  | .digest job => Sys2Proof.Machine.execDigest job s
  | .digOpen job => Sys2Proof.Machine.execDigOpen job s
  | .digUpdate job => Sys2Proof.Machine.execDigUpdate job s
  | .digFinish job => Sys2Proof.Machine.execDigFinish job s
  | .digRead job => Sys2Proof.Machine.execDigRead job s
  | .digClose job => Sys2Proof.Machine.execDigClose job s
  | .aeadEncrypt job => Sys2Proof.Machine.execAeadEncrypt job s
  | .aeadDecrypt job => Sys2Proof.Machine.execAeadDecrypt job s
  | .kwpWrap job => Sys2Proof.Machine.execKwpWrap job s
  | .kwpUnwrap job => Sys2Proof.Machine.execKwpUnwrap job s
  | .clKeygen job check => Sys2Proof.Machine.execClKeygen job check s
  | .clSign job check => Sys2Proof.Machine.execClSign job check s
  | .clVerify job check => Sys2Proof.Machine.execClVerify job check s
  | .clAgree job check => Sys2Proof.Machine.execClAgree job check s
  | .sessionOpen job => Sys2Proof.Machine.execSessionOpen job s
  | .sessionClose job => Sys2Proof.Machine.execSessionClose job s
  | .keyImport job => Sys2Proof.Machine.execKeyImport job s
  | .keyExport job => Sys2Proof.Machine.execKeyExport job s
  | .keyErase job => Sys2Proof.Machine.execKeyErase job s
  | .keyEraseCommit slot => Sys2Proof.Machine.execKeyEraseCommit slot s
  | .oskInstall job => Sys2Proof.Machine.execOskInstall job s
  | .attest job => Sys2Proof.Machine.execAttest job s
  | .objectWrite job check => Sys2Proof.Machine.execObjectWrite job check s
  | .objectRestore job check => Sys2Proof.Machine.execObjectRestore job check s
  | .streamMark job => Sys2Proof.Machine.execStreamMark job s
  | .streamStop job => Sys2Proof.Machine.execStreamStop job s
  | .random job => Sys2Proof.Machine.execRandom job s
  | .ownProgLoad job => Sys2Proof.Machine.execOwnProgLoad job s
  | .ownProgRun job => Sys2Proof.Machine.execOwnProgRun job s
  | .ownProgDrop job => Sys2Proof.Machine.execOwnProgDrop job s
  | .segmentArrival job bytes => Sys2Proof.Machine.execSegmentArrival job bytes s
  | .manifestSign job check => Sys2Proof.Machine.execManifestSign job check s
  | .restoreRecord job => Sys2Proof.Machine.execRestoreRecord job s
  | .digesterBoundary digester item => Sys2Proof.Machine.execDigesterBoundary digester item s
  | .add w rd rs1 rs2 rsv => Sys2Proof.Machine.execAdd w rd rs1 rs2 rsv s
  | .sub w rd rs1 rs2 rsv => Sys2Proof.Machine.execSub w rd rs1 rs2 rsv s
  | .and w rd rs1 rs2 rsv => Sys2Proof.Machine.execAnd w rd rs1 rs2 rsv s
  | .ior w rd rs1 rs2 rsv => Sys2Proof.Machine.execIor w rd rs1 rs2 rsv s
  | .xor w rd rs1 rs2 rsv => Sys2Proof.Machine.execXor w rd rs1 rs2 rsv s
  | .andc w rd rs1 rs2 rsv => Sys2Proof.Machine.execAndc w rd rs1 rs2 rsv s
  | .shl w rd rs1 rs2 rsv => Sys2Proof.Machine.execShl w rd rs1 rs2 rsv s
  | .shr w rd rs1 rs2 rsv => Sys2Proof.Machine.execShr w rd rs1 rs2 rsv s
  | .shra w rd rs1 rs2 rsv => Sys2Proof.Machine.execShra w rd rs1 rs2 rsv s
  | .rot w rd rs1 rs2 rsv => Sys2Proof.Machine.execRot w rd rs1 rs2 rsv s
  | .meq w rd rs1 rs2 rsv => Sys2Proof.Machine.execMeq w rd rs1 rs2 rsv s
  | .mlt w rd rs1 rs2 rsv => Sys2Proof.Machine.execMlt w rd rs1 rs2 rsv s
  | .mul w rd rs1 rs2 rsv => Sys2Proof.Machine.execMul w rd rs1 rs2 rsv s
  | .mulhi w rd rs1 rs2 rsv => Sys2Proof.Machine.execMulhi w rd rs1 rs2 rsv s
  | .limb w rd rs1 rs2 rsv => Sys2Proof.Machine.execLimb w rd rs1 rs2 rsv s
  | .carry w rd rs1 rs2 rsv => Sys2Proof.Machine.execCarry w rd rs1 rs2 rsv s
  | .clz w rd rs1 rs2 rsv => Sys2Proof.Machine.execClz w rd rs1 rs2 rsv s
  | .popc w rd rs1 rs2 rsv => Sys2Proof.Machine.execPopc w rd rs1 rs2 rsv s
  | .mux w rd rs1 rs2 rsv => Sys2Proof.Machine.execMux w rd rs1 rs2 rsv s
  | .mlo w rd rs1 rs2 rsv => Sys2Proof.Machine.execMlo w rd rs1 rs2 rsv s
  | .addk w rd rs1 imm => Sys2Proof.Machine.execAddk w rd rs1 imm s
  | .andk w rd rs1 imm => Sys2Proof.Machine.execAndk w rd rs1 imm s
  | .iork w rd rs1 imm => Sys2Proof.Machine.execIork w rd rs1 imm s
  | .xork w rd rs1 imm => Sys2Proof.Machine.execXork w rd rs1 imm s
  | .mltk w rd rs1 imm => Sys2Proof.Machine.execMltk w rd rs1 imm s
  | .mlok w rd rs1 imm => Sys2Proof.Machine.execMlok w rd rs1 imm s
  | .shlk w rd rs1 rsv amount => Sys2Proof.Machine.execShlk w rd rs1 rsv amount s
  | .shrk w rd rs1 rsv amount => Sys2Proof.Machine.execShrk w rd rs1 rsv amount s
  | .shrak w rd rs1 rsv amount => Sys2Proof.Machine.execShrak w rd rs1 rsv amount s
  | .rotk w rd rs1 rsv amount => Sys2Proof.Machine.execRotk w rd rs1 rsv amount s
  | .lk0 w rd rsv imm => Sys2Proof.Machine.execLk0 w rd rsv imm s
  | .lk1 w rd rsv imm => Sys2Proof.Machine.execLk1 w rd rsv imm s
  | .lk2 w rd rsv imm => Sys2Proof.Machine.execLk2 w rd rsv imm s
  | .ld w rd rs1 imm => Sys2Proof.Machine.execLd w rd rs1 imm s
  | .st w rs1 rs2 imm => Sys2Proof.Machine.execSt w rs1 rs2 imm s
  | .bz w rs1 rs2 off => Sys2Proof.Machine.execBz w rs1 rs2 off s
  | .bnz w rs1 rs2 off => Sys2Proof.Machine.execBnz w rs1 rs2 off s
  | .bneg w rs1 rs2 off => Sys2Proof.Machine.execBneg w rs1 rs2 off s
  | .bnneg w rs1 rs2 off => Sys2Proof.Machine.execBnneg w rs1 rs2 off s
  | .dbnz w rs1 rs2 off => Sys2Proof.Machine.execDbnz w rs1 rs2 off s
  | .jmpr w rd rs1 imm => Sys2Proof.Machine.execJmpr w rd rs1 imm s
  | .jmp w rd off => Sys2Proof.Machine.execJmp w rd off s
  | .call w rd off => Sys2Proof.Machine.execCall w rd off s
  | .dmar w rd rs1 rs2 tag rsv => Sys2Proof.Machine.execDmar w rd rs1 rs2 tag rsv s
  | .dmaw w rd rs1 rs2 tag rsv => Sys2Proof.Machine.execDmaw w rd rs1 rs2 tag rsv s
  | .dwait w rd rs1 rs2 tag rsv => Sys2Proof.Machine.execDwait w rd rs1 rs2 tag rsv s
  | .dmaComplete w tag => Sys2Proof.Machine.execDmaComplete w tag s
  | .dmawLineCheck w => Sys2Proof.Machine.execDmawLineCheck w s
  | .spinit w rd rs1 rs2 rsv => Sys2Proof.Machine.execSpinit w rd rs1 rs2 rsv s
  | .spabs w rd rs1 rs2 rsv => Sys2Proof.Machine.execSpabs w rd rs1 rs2 rsv s
  | .spabsM w rd rs1 rs2 rsv => Sys2Proof.Machine.execSpabsM w rd rs1 rs2 rsv s
  | .spabr w rd rs1 rs2 rsv => Sys2Proof.Machine.execSpabr w rd rs1 rs2 rsv s
  | .spperm w rd rs1 rs2 rsv => Sys2Proof.Machine.execSpperm w rd rs1 rs2 rsv s
  | .spsqz w rd rs1 rs2 rsv => Sys2Proof.Machine.execSpsqz w rd rs1 rs2 rsv s
  | .spsqzM w rd rs1 rs2 rsv => Sys2Proof.Machine.execSpsqzM w rd rs1 rs2 rsv s
  | .spsqr w rd rs1 rs2 rsv => Sys2Proof.Machine.execSpsqr w rd rs1 rs2 rsv s
  | .spkey w rd rs1 rs2 rsv => Sys2Proof.Machine.execSpkey w rd rs1 rs2 rsv s
  | .gsend w rd rs1 rs2 rsv => Sys2Proof.Machine.execGsend w rd rs1 rs2 rsv s
  | .grecv w rd rs1 rs2 rsv => Sys2Proof.Machine.execGrecv w rd rs1 rs2 rsv s
  | .gfwd w rd rs1 rs2 rsv => Sys2Proof.Machine.execGfwd w rd rs1 rs2 rsv s
  | .kpsend w rd rs1 rs2 rsv => Sys2Proof.Machine.execKpsend w rd rs1 rs2 rsv s
  | .wkclr w rd rs1 rs2 rsv => Sys2Proof.Machine.execWkclr w rd rs1 rs2 rsv s
  | .gmark w rd rs1 rs2 rsv => Sys2Proof.Machine.execGmark w rd rs1 rs2 rsv s
  | .gscrub w rd rs1 rs2 rsv => Sys2Proof.Machine.execGscrub w rd rs1 rs2 rsv s
  | .nop w rd rs1 rsv code => Sys2Proof.Machine.execNop w rd rs1 rsv code s
  | .done w rd rs1 rsv code => Sys2Proof.Machine.execDone w rd rs1 rsv code s
  | .trap w rd rs1 rsv code => Sys2Proof.Machine.execTrap w rd rs1 rsv code s
  | .fence w rd rs1 rsv code => Sys2Proof.Machine.execFence w rd rs1 rsv code s
  | .cr w rd rs1 creg rsv => Sys2Proof.Machine.execCr w rd rs1 creg rsv s
  | .cw w rd rs1 creg rsv => Sys2Proof.Machine.execCw w rd rs1 creg rsv s
  | .napWake w => Sys2Proof.Machine.execNapWake w s
  | .programLoad w image => Sys2Proof.Machine.execProgramLoad w image s
  | .svAdd w vd vs1 vs2 et m aux => Sys2Proof.Machine.execSvAdd w vd vs1 vs2 et m aux s
  | .svSub w vd vs1 vs2 et m aux => Sys2Proof.Machine.execSvSub w vd vs1 vs2 et m aux s
  | .svAnd w vd vs1 vs2 et m aux => Sys2Proof.Machine.execSvAnd w vd vs1 vs2 et m aux s
  | .svOr w vd vs1 vs2 et m aux => Sys2Proof.Machine.execSvOr w vd vs1 vs2 et m aux s
  | .svXor w vd vs1 vs2 et m aux => Sys2Proof.Machine.execSvXor w vd vs1 vs2 et m aux s
  | .svAndn w vd vs1 vs2 et m aux => Sys2Proof.Machine.execSvAndn w vd vs1 vs2 et m aux s
  | .svNot w vd vs1 vs2 et m aux => Sys2Proof.Machine.execSvNot w vd vs1 vs2 et m aux s
  | .svSll w vd vs1 vs2 et m aux => Sys2Proof.Machine.execSvSll w vd vs1 vs2 et m aux s
  | .svSrl w vd vs1 vs2 et m aux => Sys2Proof.Machine.execSvSrl w vd vs1 vs2 et m aux s
  | .svSra w vd vs1 vs2 et m aux => Sys2Proof.Machine.execSvSra w vd vs1 vs2 et m aux s
  | .svRote w vd vs1 vs2 et m aux => Sys2Proof.Machine.execSvRote w vd vs1 vs2 et m aux s
  | .svMinu w vd vs1 vs2 et m aux => Sys2Proof.Machine.execSvMinu w vd vs1 vs2 et m aux s
  | .svMaxu w vd vs1 vs2 et m aux => Sys2Proof.Machine.execSvMaxu w vd vs1 vs2 et m aux s
  | .svCmpeq w vd vs1 vs2 et m aux => Sys2Proof.Machine.execSvCmpeq w vd vs1 vs2 et m aux s
  | .svCmpltu w vd vs1 vs2 et m aux => Sys2Proof.Machine.execSvCmpltu w vd vs1 vs2 et m aux s
  | .svMul w vd vs1 vs2 et m aux => Sys2Proof.Machine.execSvMul w vd vs1 vs2 et m aux s
  | .svMulhu w vd vs1 vs2 et m aux => Sys2Proof.Machine.execSvMulhu w vd vs1 vs2 et m aux s
  | .madd w vd vs1 vs2 et m aux => Sys2Proof.Machine.execMadd w vd vs1 vs2 et m aux s
  | .msub w vd vs1 vs2 et m aux => Sys2Proof.Machine.execMsub w vd vs1 vs2 et m aux s
  | .mmul w vd vs1 vs2 et m aux => Sys2Proof.Machine.execMmul w vd vs1 vs2 et m aux s
  | .mred w vd vs1 vs2 et m aux => Sys2Proof.Machine.execMred w vd vs1 vs2 et m aux s
  | .mneg w vd vs1 vs2 et m aux => Sys2Proof.Machine.execMneg w vd vs1 vs2 et m aux s
  | .wmule w vd vs1 vs2 et m aux => Sys2Proof.Machine.execWmule w vd vs1 vs2 et m aux s
  | .wmulo w vd vs1 vs2 et m aux => Sys2Proof.Machine.execWmulo w vd vs1 vs2 et m aux s
  | .dot w vd vs1 vs2 et m aux => Sys2Proof.Machine.execDot w vd vs1 vs2 et m aux s
  | .vsplat w vd vs1 vs2 et m aux => Sys2Proof.Machine.execVsplat w vd vs1 vs2 et m aux s
  | .vins w vd vs1 vs2 et m aux => Sys2Proof.Machine.execVins w vd vs1 vs2 et m aux s
  | .vext w vd vs1 vs2 et m aux => Sys2Proof.Machine.execVext w vd vs1 vs2 et m aux s
  | .vswaph w vd vs1 vs2 et m aux => Sys2Proof.Machine.execVswaph w vd vs1 vs2 et m aux s
  | .vmov w vd vs1 vs2 et m aux => Sys2Proof.Machine.execVmov w vd vs1 vs2 et m aux s
  | .vzero w vd vs1 vs2 et m aux => Sys2Proof.Machine.execVzero w vd vs1 vs2 et m aux s
  | .vld w vd rs1 imm nf m et rsv => Sys2Proof.Machine.execVld w vd rs1 imm nf m et rsv s
  | .vst w vd rs1 imm nf m et rsv => Sys2Proof.Machine.execVst w vd rs1 imm nf m et rsv s
  | .mask w vd vs1 vs2 et m aux => Sys2Proof.Machine.execMask w vd vs1 vs2 et m aux s
  | .refresh w vd vs1 vs2 et m aux => Sys2Proof.Machine.execRefresh w vd vs1 vs2 et m aux s
  | .unm w vd vs1 vs2 et m aux => Sys2Proof.Machine.execUnm w vd vs1 vs2 et m aux s
  | .unmg w vd vs1 vs2 et m aux => Sys2Proof.Machine.execUnmg w vd vs1 vs2 et m aux s
  | .vkey w vd vs1 vs2 et m aux => Sys2Proof.Machine.execVkey w vd vs1 vs2 et m aux s
  | .a2b w vd vs1 vs2 et m aux => Sys2Proof.Machine.execA2b w vd vs1 vs2 et m aux s
  | .b2a w vd vs1 vs2 et m aux => Sys2Proof.Machine.execB2a w vd vs1 vs2 et m aux s
  | .a2bq w vd vs1 vs2 et m aux => Sys2Proof.Machine.execA2bq w vd vs1 vs2 et m aux s
  | .b2aq w vd vs1 vs2 et m aux => Sys2Proof.Machine.execB2aq w vd vs1 vs2 et m aux s
  | .shroudRekey w => Sys2Proof.Machine.execShroudRekey w s
  | .fvAdd w fd fs1 fs2 ft rsv => Sys2Proof.Machine.execFvAdd w fd fs1 fs2 ft rsv s
  | .fvSub w fd fs1 fs2 ft rsv => Sys2Proof.Machine.execFvSub w fd fs1 fs2 ft rsv s
  | .fvAnd w fd fs1 fs2 ft rsv => Sys2Proof.Machine.execFvAnd w fd fs1 fs2 ft rsv s
  | .fvOr w fd fs1 fs2 ft rsv => Sys2Proof.Machine.execFvOr w fd fs1 fs2 ft rsv s
  | .fvXor w fd fs1 fs2 ft rsv => Sys2Proof.Machine.execFvXor w fd fs1 fs2 ft rsv s
  | .fvAndn w fd fs1 fs2 ft rsv => Sys2Proof.Machine.execFvAndn w fd fs1 fs2 ft rsv s
  | .fvMullo w fd fs1 fs2 ft rsv => Sys2Proof.Machine.execFvMullo w fd fs1 fs2 ft rsv s
  | .fvMulhu w fd fs1 fs2 ft rsv => Sys2Proof.Machine.execFvMulhu w fd fs1 fs2 ft rsv s
  | .fvSll w fd fs1 fs2 ft rsv => Sys2Proof.Machine.execFvSll w fd fs1 fs2 ft rsv s
  | .fvSrl w fd fs1 fs2 ft rsv => Sys2Proof.Machine.execFvSrl w fd fs1 fs2 ft rsv s
  | .fvSra w fd fs1 fs2 ft rsv => Sys2Proof.Machine.execFvSra w fd fs1 fs2 ft rsv s
  | .fvMinu w fd fs1 fs2 ft rsv => Sys2Proof.Machine.execFvMinu w fd fs1 fs2 ft rsv s
  | .fvMaxu w fd fs1 fs2 ft rsv => Sys2Proof.Machine.execFvMaxu w fd fs1 fs2 ft rsv s
  | .fvCmpeq w fd fs1 fs2 ft rsv => Sys2Proof.Machine.execFvCmpeq w fd fs1 fs2 ft rsv s
  | .fvCmpgtu w fd fs1 fs2 ft rsv => Sys2Proof.Machine.execFvCmpgtu w fd fs1 fs2 ft rsv s
  | .fvAddsu w fd fs1 fs2 ft rsv => Sys2Proof.Machine.execFvAddsu w fd fs1 fs2 ft rsv s
  | .fvTbl w fd fs1 fs2 ft rsv => Sys2Proof.Machine.execFvTbl w fd fs1 fs2 ft rsv s
  | .fvSlli w fd fs1 ft amount rsv => Sys2Proof.Machine.execFvSlli w fd fs1 ft amount rsv s
  | .fvSrli w fd fs1 ft amount rsv => Sys2Proof.Machine.execFvSrli w fd fs1 ft amount rsv s
  | .fvSrai w fd fs1 ft amount rsv => Sys2Proof.Machine.execFvSrai w fd fs1 ft amount rsv s
  | .fvRoli w fd fs1 ft amount rsv => Sys2Proof.Machine.execFvRoli w fd fs1 ft amount rsv s
  | .fld w fd rs1 rsv imm => Sys2Proof.Machine.execFld w fd rs1 rsv imm s
  | .fst w fd rs1 rsv imm => Sys2Proof.Machine.execFst w fd rs1 rsv imm s
  | .fmvgf w g f ft lane rsv => Sys2Proof.Machine.execFmvgf w g f ft lane rsv s
  | .fmvfg w g f ft lane rsv => Sys2Proof.Machine.execFmvfg w g f ft lane rsv s
  | .fsplat w g f ft lane rsv => Sys2Proof.Machine.execFsplat w g f ft lane rsv s
  | .fvWakeComplete w => Sys2Proof.Machine.execFvWakeComplete w s
  | .fvIdleExpiry w => Sys2Proof.Machine.execFvIdleExpiry w s
  | .fvWakeTimeout w => Sys2Proof.Machine.execFvWakeTimeout w s
  | .taperMicroword taper word ecc => Sys2Proof.Machine.execTaperMicroword taper word ecc s
  | .taperWaitRelease taper => Sys2Proof.Machine.execTaperWaitRelease taper s
  | .taperWaitWatchdog taper => Sys2Proof.Machine.execTaperWaitWatchdog taper s
  | .taperWipe taper readbackZero => Sys2Proof.Machine.execTaperWipe taper readbackZero s
  | .strikeClear taper => Sys2Proof.Machine.execStrikeClear taper s
  | .reservoirGrant channel arrivals => Sys2Proof.Machine.execReservoirGrant channel arrivals s
  | .lineRead line reader first second => Sys2Proof.Machine.execLineRead line reader first second s
  | .tenancyClearComplete slice => Sys2Proof.Machine.execTenancyClearComplete slice s
  | .reservoirClearComplete => Sys2Proof.Machine.execReservoirClearComplete s
  | .hostWindowWrite path slice window value => Sys2Proof.Machine.execHostWindowWrite path slice window value s
  | .vspDataReceived port frame => Sys2Proof.Machine.execVspDataReceived port frame s
  | .vspCreditReceived port frame => Sys2Proof.Machine.execVspCreditReceived port frame s
  | .vspRateReceived port frame => Sys2Proof.Machine.execVspRateReceived port frame s
  | .vspStatusReceived port frame => Sys2Proof.Machine.execVspStatusReceived port frame s
  | .endObject port frame => Sys2Proof.Machine.execEndObject port frame s
  | .endOfData port frame => Sys2Proof.Machine.execEndOfData port frame s
  | .earlyWarning port frame => Sys2Proof.Machine.execEarlyWarning port frame s
  | .mediumWrite port frame => Sys2Proof.Machine.execMediumWrite port frame s
  | .noMedium port frame => Sys2Proof.Machine.execNoMedium port frame s
  | .mediumRead port frame => Sys2Proof.Machine.execMediumRead port frame s
  | .starved port frame => Sys2Proof.Machine.execStarved port frame s
  | .unknownEpoch port frame => Sys2Proof.Machine.execUnknownEpoch port frame s
  | .pacingEvaluation stream => Sys2Proof.Machine.execPacingEvaluation stream s
  | .retransmitTimeout stream => Sys2Proof.Machine.execRetransmitTimeout stream s
  | .creditTimer stream => Sys2Proof.Machine.execCreditTimer stream s
  | .statusTimer stream => Sys2Proof.Machine.execStatusTimer stream s
  | .linkTimeout stream => Sys2Proof.Machine.execLinkTimeout stream s
  | .mediaPortLinkUp port => Sys2Proof.Machine.execMediaPortLinkUp port s
  | .streamEnable path stream => Sys2Proof.Machine.execStreamEnable path stream s
  | .streamDisable path stream => Sys2Proof.Machine.execStreamDisable path stream s
  | .hopRead frame => Sys2Proof.Machine.execHopRead frame s
  | .hopWrite frame => Sys2Proof.Machine.execHopWrite frame s
  | .hopInfo frame => Sys2Proof.Machine.execHopInfo frame s
  | .authBegin frame => Sys2Proof.Machine.execAuthBegin frame s
  | .authFinish frame => Sys2Proof.Machine.execAuthFinish frame s
  | .authEnd frame => Sys2Proof.Machine.execAuthEnd frame s
  | .hopWake frame => Sys2Proof.Machine.execHopWake frame s
  | .discover frame => Sys2Proof.Machine.execDiscover frame s
  | .hopAssemblyIdle requester => Sys2Proof.Machine.execHopAssemblyIdle requester s
  | .pendingSessionExpiry => Sys2Proof.Machine.execPendingSessionExpiry s
  | .authLockoutEnd => Sys2Proof.Machine.execAuthLockoutEnd s
  | .sessionIdleExpiry session => Sys2Proof.Machine.execSessionIdleExpiry session s
  | .serverHandover server => Sys2Proof.Machine.execServerHandover server s
  | .mbRead link slice addr => Sys2Proof.Machine.execMbRead link slice addr s
  | .mbWrite link slice addr len data => Sys2Proof.Machine.execMbWrite link slice addr len data s
  | .mbInfo link slice addr => Sys2Proof.Machine.execMbInfo link slice addr s
  | .dictEntryWrite path index sub value => Sys2Proof.Machine.execDictEntryWrite path index sub value s
  | .counterClear path index sub value => Sys2Proof.Machine.execCounterClear path index sub value s
  | .resetRequest path value => Sys2Proof.Machine.execResetRequest path value s
  | .transitionRequest path request event => Sys2Proof.Machine.execTransitionRequest path request event s
  | .keyRowsProgram path value powerKept => Sys2Proof.Machine.execKeyRowsProgram path value powerKept s
  | .flashWriteData path value => Sys2Proof.Machine.execFlashWriteData path value s
  | .retenant path slice change => Sys2Proof.Machine.execRetenant path slice change s
  | .ownerSliceWrite path value => Sys2Proof.Machine.execOwnerSliceWrite path value s
  | .timestampRestartedClear path value => Sys2Proof.Machine.execTimestampRestartedClear path value s
  | .katRequest path value failing => Sys2Proof.Machine.execKatRequest path value failing s
  | .vaultSlotErase path slot value => Sys2Proof.Machine.execVaultSlotErase path slot value s
  | .relightRequest path unit value => Sys2Proof.Machine.execRelightRequest path unit value s
  | .testRequest path value => Sys2Proof.Machine.execTestRequest path value s
  | .testDeadline => Sys2Proof.Machine.execTestDeadline s
  | .testSuppressionEnd => Sys2Proof.Machine.execTestSuppressionEnd s
  | .levelWrite path sconce level => Sys2Proof.Machine.execLevelWrite path sconce level s
  | .levelChangeComplete sconce => Sys2Proof.Machine.execLevelChangeComplete sconce s
  | .sconceDisable path sconce => Sys2Proof.Machine.execSconceDisable path sconce s
  | .sconcePowerDown sconce => Sys2Proof.Machine.execSconcePowerDown sconce s
  | .sconceEnable path sconce => Sys2Proof.Machine.execSconceEnable path sconce s
  | .sconceReady sconce => Sys2Proof.Machine.execSconceReady sconce s
  | .requestLow path => Sys2Proof.Machine.execRequestLow path s
  | .requestDark path => Sys2Proof.Machine.execRequestDark path s
  | .requestLit path => Sys2Proof.Machine.execRequestLit path s
  | .lowIdleExpiry => Sys2Proof.Machine.execLowIdleExpiry s
  | .darkAfterLowExpiry => Sys2Proof.Machine.execDarkAfterLowExpiry s
  | .wakePin pin high => Sys2Proof.Machine.execWakePin pin high s
  | .hostWake slot => Sys2Proof.Machine.execHostWake slot s
  | .wakeAtTime => Sys2Proof.Machine.execWakeAtTime s
  | .vstbyLoss => Sys2Proof.Machine.execVstbyLoss s
  | .vstbyReturn => Sys2Proof.Machine.execVstbyReturn s
  | .pilotPowerUp => Sys2Proof.Machine.execPilotPowerUp s
  | .mainEnAssert => Sys2Proof.Machine.execMainEnAssert s
  | .railsInRange => Sys2Proof.Machine.execRailsInRange s
  | .railStartTimeout => Sys2Proof.Machine.execRailStartTimeout s
  | .railDrop rail => Sys2Proof.Machine.execRailDrop rail s
  | .resetN => Sys2Proof.Machine.execResetN s
  | .haltRelease byRails => Sys2Proof.Machine.execHaltRelease byRails s
  | .boot readOk0 readOk1 board0 board1 => Sys2Proof.Machine.execBoot readOk0 readOk1 board0 board1 s
  | .litEntry => Sys2Proof.Machine.execLitEntry s
  | .criticalPhasePowerLoss path request blown => Sys2Proof.Machine.execCriticalPhasePowerLoss path request blown s
  | .mantleAlarm line => Sys2Proof.Machine.execMantleAlarm line s
  | .supplyGlitchAlarm rail => Sys2Proof.Machine.execSupplyGlitchAlarm rail s
  | .clockAlarm hubClock => Sys2Proof.Machine.execClockAlarm hubClock s
  | .temperatureAlarm sensor reading => Sys2Proof.Machine.execTemperatureAlarm sensor reading s
  | .lightAlarm diode => Sys2Proof.Machine.execLightAlarm diode s
  | .loopSample isOpen => Sys2Proof.Machine.execLoopSample isOpen s
  | .integrityBurstAlarm => Sys2Proof.Machine.execIntegrityBurstAlarm s
  | .alarmRearm source => Sys2Proof.Machine.execAlarmRearm source s
  | .drbgInstantiate inst => Sys2Proof.Machine.execDrbgInstantiate inst s
  | .emberHealthFailure ember => Sys2Proof.Machine.execEmberHealthFailure ember s
  | .emberRetry ember => Sys2Proof.Machine.execEmberRetry ember s
  | .emberStartupTestEnd ember passed => Sys2Proof.Machine.execEmberStartupTestEnd ember passed s
  | .blockComplete ember => Sys2Proof.Machine.execBlockComplete ember s
  | .drbgReseed inst => Sys2Proof.Machine.execDrbgReseed inst s
  | .gutterTimeout => Sys2Proof.Machine.execGutterTimeout s
  | .faultReport code detector accused slice detail => Sys2Proof.Machine.execFaultReport code detector accused slice detail s
  | .flitIntegrityFailure detector => Sys2Proof.Machine.execFlitIntegrityFailure detector s
  | .eventWindowClose accused code => Sys2Proof.Machine.execEventWindowClose accused code s
  | .quietExpiry => Sys2Proof.Machine.execQuietExpiry s
  | .selfTestComplete unit passed => Sys2Proof.Machine.execSelfTestComplete unit passed s
  | .dumpComplete => Sys2Proof.Machine.execDumpComplete s
  | .fatalHoldExpiry => Sys2Proof.Machine.execFatalHoldExpiry s
  | .lamplighterWatchdog => Sys2Proof.Machine.execLamplighterWatchdog s
  | .deviceReset cause => Sys2Proof.Machine.execDeviceReset cause s
  | .cycleBudgetExceeded w => Sys2Proof.Machine.execCycleBudgetExceeded w s
  | .debugAccess region write => Sys2Proof.Machine.execDebugAccess region write s
  | .sysclk25Loss => Sys2Proof.Machine.execSysclk25Loss s
  | .sysclk25Return => Sys2Proof.Machine.execSysclk25Return s
  | .vbatLoss => Sys2Proof.Machine.execVbatLoss s
  | .pauseFrame port pause => Sys2Proof.Machine.execPauseFrame port pause s
  | .msixVectorUnmask link what => Sys2Proof.Machine.execMsixVectorUnmask link what s
  | .slowClockTick => Sys2Proof.Machine.execSlowClockTick s
  | .sensorSample temps rails vbat => Sys2Proof.Machine.execSensorSample temps rails vbat s

end Sys2Proof.Machine
end

