-- ==== Sys2Proof/Machine/Step.lean ====
section
/-! DEFINITION. The step of the block: it takes the command at the front of its queue; on an empty queue one hub cycle passes where the hub clock runs. -/

namespace Sys2Proof.Machine

/-- One step. A command is performed with the rest of the queue in place; without one the device idles for a hub cycle, counted where the hub clock runs (R35, log 4), in which a SNUFF may complete (R478), an AUTH_BEGIN may have waited its second (R551), and an entry to LOW or DARK may reach its commit point (R584, R585). -/
def step (s : State) : Host.Outcome State Fault Refusal :=
  match s.pending with
  | c :: rest => exec c { s with pending := rest }
  | [] => .next s.passCycle.settleSnuff.expireAuth.settleEntry

/-- The state with the command a word spells at the front of its queue; unchanged where the word spells none. -/
def State.withFetchWord (s : State) (nbits w : Nat) : State :=
  match decodeTableWord nbits w with
  | some c => { s with pending := c :: s.pending }
  | none => s

end Sys2Proof.Machine
end

