-- ==== Sys2Proof/Safety.lean ====
section
/-! DEFINITION. What counts as a safe run, in the terms the claims use: a command that completes, stores in canonical form, and what no command undoes. -/

namespace Sys2Proof.Machine

/-- A command completes, and the state it leaves satisfies a condition. -/
def Completes (i : Instr) (s : State) (p : State → Prop) : Prop := ∃ t, exec i s = .next t ∧ p t

/-- The stores are in canonical form: reservoir with its tags, flash and dictionary list only what differs from what an unlisted place reads as, in rising order. -/
def storesWf (v : Variant) (reservoir : List Host.Cell) (tags : Table Nat) (flash0 flash1 : List Host.Cell) (dict : Table Nat) : Prop :=
  (Memory.wf clearByte reservoir ∧ Table.wf (fun _ => 0) tags) ∧ Memory.wf erasedByte flash0 ∧ Memory.wf erasedByte flash1 ∧ Table.wf (dictDefault v) dict

/-- The stores of a state are in canonical form. -/
def State.storesOk (s : State) : Prop := storesWf s.variant s.reservoir s.lineTags s.flash0 s.flash1 s.dict

/-- The bits blown in one copy of a code are blown in another reading of it (R501, R506). -/
def Blown (a b : BitVec 16) : Prop := a &&& b = a

/-- What no command undoes, from a state and the values a later state holds: the part's variant and the command queue stay, free values are drawn once each, blown life-cycle fuses stay blown, and the stores keep their canonical form. -/
structure KeepsOf (s : State) (v : Variant) (free : Nat) (dict : Table Nat) (reservoir : List Host.Cell) (tags : Table Nat) (roots : Roots) (flash0 flash1 : List Host.Cell) (queue : List Instr) : Prop where
  variant : v = s.variant
  pending : queue = s.pending
  drawn : s.freeIndex ≤ free
  fuse1 : Blown s.roots.c1 roots.c1
  fuse2 : Blown s.roots.c2 roots.c2
  fuse3 : Blown s.roots.c3 roots.c3
  stores : s.storesOk → storesWf v reservoir tags flash0 flash1 dict

/-- What no command undoes between two states. -/
def Keeps (s t : State) : Prop := KeepsOf s t.variant t.freeIndex t.dict t.reservoir t.lineTags t.roots t.flash0 t.flash1 t.pending

/-! ### What a command leaves alone -/

/-- Outside one wick nothing changes but the count of free values drawn, and FvPowerDowns where the wick's idle island begins to power down (R328, R333). -/
def OnlyWick (s t : State) (w : Nat) : Prop :=
  { t with wicks := s.wicks, freeIndex := s.freeIndex, dict := s.dict } = s ∧
    t.dict = (s.countPowerDown (s.wick w).island (t.wick w).island).dict ∧ ∀ v, v ≠ w → t.wick v = s.wick v

/-- The shroud generator serves n more words, beside those that issued instructions still draw, before it asks for a new key (R316, R317). -/
def Shroud.serves (h : Shroud) (n : Nat) : Prop := h.keyed = true ∧ h.rekeying = false ∧ h.produced + (16 - h.fifo) + h.due.length + n < 65536

/-- A wick without what the passing of cycles moves: pc, the cycle counter, when results and units are ready, beats, the shroud generator, the FV island and its idle counter, and a stall with its nap. -/
def Wick.steady (x : Wick) : Wick :=
  { x with pc := 0, cycles := 0, gReady := [], sReady := [], fReady := [], svFree := 0, spongeFree := 0, svBeats := 0, svmBeats := 0, shroud := { keyed := false, fifo := 0, produced := 0, consumed := 0, due := [], got := 0, rekeying := false }, island := .off, idleCount := 0, stall := .none, napping := false }

/-- An instruction of a wick has issued and pc is at a place; outside the wick nothing changed. -/
def Issued (s t : State) (w : Nat) (pc : BitVec 14) : Prop := OnlyWick s t w ∧ (t.wick w).pc = pc ∧ (t.wick w).stall = .none

/-- The g-registers read as before, but for one that reads a value (g0 reads zero, R257). -/
def RegIs (x y : Wick) (rd : BitVec 5) (v : Word72) : Prop := ∀ r, y.reg r = if r = rd ∧ r ≠ 0 then v else x.reg r

/-- An instruction completes that writes one g-register and nothing else of its wick. -/
def WritesReg (i : Instr) (s : State) (w : Nat) (rd : BitVec 5) (v : Word72) : Prop :=
  Completes i s fun t => Issued s t w ((s.wick w).pc + 1) ∧ RegIs (s.wick w) (t.wick w) rd v ∧ { (t.wick w).steady with g := (s.wick w).g } = (s.wick w).steady

/-- An ALU instruction writes a value of 72 bits, or at LEVEL1 one of 64 bits, zero-extended (R293). -/
def AluWrites (i : Instr) (s : State) (w : Nat) (rd : BitVec 5) (v : Word72) (v1 : BitVec 64) : Prop :=
  WritesReg i s w rd (if (s.wick w).level1 then v1.setWidth 72 else v)

/-- Data-memory words an access may reach: they exist, their granules are of its kind, and no transfer holds them (R261, R262, R276). -/
def Wick.reaches (x : Wick) (as : List Nat) (secret store : Bool) : Prop :=
  (∀ a ∈ as, a ≤ 0x3FFF ∧ x.secret a = secret) ∧ x.interlock as store = none

/-- An instruction completes that writes data-memory words and nothing else of its wick: each word reads as the function says, or as before where it says none. -/
def WritesWords (i : Instr) (s : State) (w : Nat) (v : Nat → Option Word72) : Prop :=
  Completes i s fun t => Issued s t w ((s.wick w).pc + 1) ∧ (∀ a, (t.wick w).word a = (v a).getD ((s.wick w).word a)) ∧ { (t.wick w).steady with dmem := (s.wick w).dmem } = (s.wick w).steady

/-- An instruction completes that moves pc and changes nothing else of its wick. -/
def Goes (i : Instr) (s : State) (w : Nat) (pc : BitVec 14) : Prop :=
  Completes i s fun t => Issued s t w pc ∧ (t.wick w).steady = (s.wick w).steady

/-- A transfer of control: to its target where the condition holds, if the program has that instruction, else on to the next (R273). -/
def Branches (i : Instr) (s : State) (w : Nat) (c : Prop) (target : Word72) : Prop :=
  (c → target.toNat < (s.wick w).instrCount → Goes i s w (target.setWidth 14)) ∧ (¬c → Goes i s w ((s.wick w).pc + 1))

/-- An instruction completes and leaves a wick that is, but for what cycles move, the one given. -/
def Becomes (i : Instr) (s : State) (w : Nat) (pc : BitVec 14) (y : Wick) : Prop :=
  Completes i s fun t => Issued s t w pc ∧ (t.wick w).steady = y.steady

/-- The same of an instruction that draws shroud words: one that had to wait for a word is counted (R305, R333). -/
def BecomesDrawing (i : Instr) (s : State) (w : Nat) (pc : BitVec 14) (y : Wick) : Prop :=
  Completes i s fun t => (Issued s t w pc ∨ Issued (s.bump Key.wickVectorsShroudWaits) t w pc) ∧ (t.wick w).steady = y.steady

/-- Nothing changes but wicks, counters and the count of free values drawn; of the wicks, only one. -/
def WickAndCounters (s t : State) (w : Nat) : Prop :=
  { t with wicks := s.wicks, dict := s.dict, freeIndex := s.freeIndex } = s ∧ ∀ v, v ≠ w → t.wick v = s.wick v

/-! ### Jobs -/

/-- A job has ended with a status, a w6 and an output, and waits for its publication (R84). -/
def JobEnds (t : State) (id status w6 : Nat) (out : Bytes) : Prop :=
  ∃ j, t.findJob id = some j ∧ j.phase = .staged ∧ j.status = BitVec.ofNat 8 status ∧ j.w6 = BitVec.ofNat 64 w6 ∧ j.output = out ∧ j.units = []

/-- A command ends a job with a status and no output. -/
def Ends (i : Instr) (s : State) (id status w6 : Nat) : Prop := Completes i s fun t => JobEnds t id status w6 []

/-- A command ends a job OK; w6 is the length of its output. -/
def Finishes (i : Instr) (s : State) (id : Nat) (out : Bytes) : Prop := Completes i s fun t => JobEnds t id jsOk out.length out

/-- A DRBG instance serves n more requests without a reseed (R488). -/
def State.canDraw (s : State) (i n : Nat) : Prop := (s.drbg i).ready = true ∧ (s.drbg i).holding = false ∧ (s.drbg i).requests + n ≤ 4096

/-- The n bytes that the next generate request of a DRBG instance gives (R486). -/
def State.drawnBy (s : State) (i n : Nat) : Bytes := drbgStream (s.drbg i).key (s.drbg i).v n

/-- The key of a job is found and agrees with the check value of its first use (R113, R130). -/
def State.keyFor (s : State) (j : Job) (k : KeyFound) : Prop := s.keyA j = k ∧ k ≠ .bad ∧ k ≠ .erasing ∧ s.expandRole j.entry.session 0 j.entry.alg k ≠ none

end Sys2Proof.Machine
end

