-- ==== Sys2Proof/WellFormed.lean ====
section
/-! DEFINITION. Which commands are well formed: operands that their Lean types leave wider than the spec does. Bits that a wick instruction, a ring entry or a frame carries are never ill formed: what the device does with reserved or illegal ones is the command's own effect. -/

namespace Sys2Proof

open Machine

/-- A read run returns 1 to 16 entries, the size of the prefetch cache (R395). -/
def runWf (entries : List RingEntry) : Bool := 1 ≤ entries.length && entries.length ≤ 16

/-- An attempt's units exist and are named once (R16, R259). -/
def unitsWf (units : List UnitId) : Bool := units.all unitExists && decide units.Nodup

/-- A session has at most four recipient entries (R63, R66). -/
def hostDataWf (d : HostData) : Bool := d.recipients.length ≤ 4

/-- A request carries 1 to 4 lines from one of the 50 crossbar ports (R338, R356). -/
def requestWf (r : ChannelRequest) : Bool := 1 ≤ r.lines && r.lines ≤ 4 && r.port < 50

/-- A frame's body lies in its Ethernet payload after the 16-byte header (R422, R424). -/
def vspWf (f : VspFrame) : Bool := f.body.length ≤ f.payload

/-- A frame's data and tag lie in its Ethernet payload (R544). -/
def hopWf (f : HopFrame) : Bool := f.data.length + f.tag.length ≤ f.payload

/-- A dictionary value has at most 8,192 bytes, the size of the largest entry (R11, R527). -/
def valueWf (b : Bytes) : Bool := b.length ≤ 8192

/-- The rail codes of an alarm: VDD_HUB, VDDIO, and one for each sconce (R616). -/
def railWf (rail : BitVec 8) : Bool := rail = 1 || rail = 2 || (16 ≤ rail.toNat && rail.toNat < 32)

/-- A sample has a value of each of 17 sensors and 9 rails (R671). -/
def sampleWf (temps : List (BitVec 32)) (rails : List (BitVec 16)) : Bool := temps.length = 17 && rails.length = 9

/-- The command is well formed. -/
def Instr.wf : Instr → Bool
  | .ringReadComplete _ entries => runWf entries
  | .fetch d => hostDataWf d
  | .attemptStart _ units => unitsWf units
  | .reservoirGrant _ arrivals => arrivals.all requestWf
  | .lineRead _ reader _ _ => unitExists reader
  | .vspDataReceived _ f | .vspCreditReceived _ f | .vspRateReceived _ f | .vspStatusReceived _ f | .endObject _ f | .endOfData _ f
  | .earlyWarning _ f | .mediumWrite _ f | .noMedium _ f | .mediumRead _ f | .starved _ f | .unknownEpoch _ f => vspWf f
  | .hopRead f | .hopWrite f | .hopInfo f | .authBegin f | .authFinish f | .authEnd f | .hopWake f | .discover f => hopWf f
  | .dictEntryWrite _ _ _ v | .counterClear _ _ _ v => valueWf v
  | .relightRequest _ u _ | .selfTestComplete u _ => unitExists u
  | .supplyGlitchAlarm rail => railWf rail
  | .sensorSample temps rails _ => sampleWf temps rails
  | _ => true

end Sys2Proof
end

