-- ==== Sys2Proof/Certificates/Slice0/Obligations.lean ====
section
/-! DEFINITION. The statements for the provers. Each says, for every state and operand that meets its hypotheses, what a command does; a docstring names the rules it formalises or rests on. -/

open Sys2Proof Sys2Proof.Machine

/-- The step of the block: it takes the command at the front of its queue and runs it with the rest of the queue in place; the queue is served first in, first out. On an empty queue one hub cycle passes where the hub clock runs, and with no SNUFF and no power entry in progress nothing else happens (log 4, the model's choice). -/
def Obligations.StepTakesTheFrontCommand : Prop :=
  (∀ (c : Instr) (rest : List Instr) (s : State), step { s with pending := c :: rest } = exec c { s with pending := rest }) ∧
  ∀ s : State, s.pending = [] → s.tamper.snuffDue = none → s.entering = none → s.hop.authWait = none →
    (s.hubOn = true → step s = .next { s with hubCycle := s.hubCycle + 1 }) ∧ (s.hubOn = false → step s = .next s)

/-- R14, R59, R387, R421, R501: what a unit new from the fab holds: every dictionary entry its default, every fuse unblown (RAW), no session, job, key or extent, every queue and stream DISABLED, nothing sent, no command waiting, and its stores in canonical form. That it stands booting with its supplies present is the model's choice (logs 16 to 18). -/
def Obligations.ResetState : Prop :=
  let s := State.reset
  s.storesOk ∧ s.pending = [] ∧ s.out = [] ∧ s.jobs = [] ∧ s.extents = [] ∧ (∀ k, s.entry k = dictDefault s.variant k) ∧ s.lifeCycle = lcRaw ∧ (s.roots.c1, s.roots.c2, s.roots.c3) = (0, 0, 0) ∧
  s.roots.ck = none ∧ s.roots.urs = none ∧ (∀ n, (s.session n).state = .free) ∧ (∀ n < 512, s.vaultKey n = none) ∧ (∀ g < 2048, s.queueState g = qDisabled) ∧ (∀ n < 1024, s.streamState n = stDisabled) ∧
  (∀ w, s.wick w = Wick.fresh) ∧ s.power = .booting ∧ s.hop.server = some .pilot

/-- R14, R20, R501, R503, R526: what no command and no idle cycle undoes. From every state in canonical form a step that answers a next state leaves the stores in canonical form, the part's variant as it is, and the rest of the queue waiting; a free value once drawn is not drawn again; and no blown life-cycle fuse bit is ever cleared. -/
def Obligations.StepKeepsInvariants : Prop :=
  ∀ s t : State, step s = .next t →
    (s.storesOk → t.storesOk) ∧ t.variant = s.variant ∧ t.pending = s.pending.tail ∧ s.freeIndex ≤ t.freeIndex ∧
    Blown s.roots.c1 t.roots.c1 ∧ Blown s.roots.c2 t.roots.c2 ∧ Blown s.roots.c3 t.roots.c3

/-- R267, R268, R270 to R282, R302, R303, R325, R326: every wick instruction, with every operand and reserved bit at every value its 36-bit word admits, is read back from its word as it was, and every word that is read as an instruction is the word of that instruction: no bit of an encoding is dropped. -/
def Obligations.WickWordsRoundTrip : Prop :=
  (∀ (i : Instr) (w : Fin 256) (x : BitVec 36), wickEncode i = some (w, x) → wickDecode w x = some i) ∧
  ∀ (w : Fin 256) (x : BitVec 36) (i : Instr), wickDecode w x = some i → wickEncode i = some (w, x)

/-- R267, R268, R270 to R274, R282, R302, R303, R319: the instruction words of the manual's worked loops and vectors, written out: each decodes to the instruction it stands for; word zero and the unassigned opcodes decode to none. -/
def Obligations.InstructionWords : Prop :=
  ∀ w : Fin 256,
    wickDecode w 0x08A000000 = some (.addk w 5 0 0) ∧ wickDecode w 0x30E600100 = some (.ld w 7 6 0x100) ∧ wickDecode w 0x34C700110 = some (.st w 6 7 0x110) ∧
    wickDecode w 0x5120FFFF8 = some (.dbnz w 9 0 0xFFFF8) ∧ wickDecode w 0x04E740000 = some (.add w 7 7 8 0) ∧ wickDecode w 0x04E701C00 = some (.limb w 7 7 0 0) ∧ wickDecode w 0x04A701E00 = some (.carry w 5 7 0 0) ∧
    wickDecode w 0x254000200 = some (.lk0 w 10 0 0x200) ∧ wickDecode w 0x840B20000 = some (.cw w 0 11 8 0) ∧ wickDecode w 0xD08A00020 = some (.vld w 4 10 0 0 true 0 0) ∧
    wickDecode w 0xD10A00920 = some (.vst w 8 10 4 0 true 0 0) ∧ wickDecode w 0xC4E530460 = some (.mmul w 7 5 6 1 true 0) ∧ wickDecode w 0xC50438060 = some (.madd w 8 4 7 1 true 0) ∧ wickDecode w 0 = none ∧ (∀ x : BitVec 36, iwOp x ∈ [0x00#6, 0x0E, 0x0F, 0x19, 0x1A, 0x1B, 0x1F, 0x23, 0x27, 0x2D, 0x36, 0x3F] → wickDecode w x = none)

/-- R13: a dictionary write whose length or type does not match its entry is refused, and a refused write leaves every entry, and all else but the answer sent, as it was. -/
def Obligations.MismatchedWritesAreRefused : Prop :=
  ∀ (s : State) (p : Path) (index : BitVec 16) (sub : BitVec 8) (value : Bytes) (r : DictRow),
    let i := index.toNat
    let k := sub.toNat
    (dictRow i k = some r → value.length ≠ r.type.size ∨ (r.type = .bool ∧ 1 < leNat value) → s.judgeWrite p i k value ≠ drOk) ∧
    (s.judgeWrite p i k value ≠ drOk → ∀ c ∈ [Instr.dictEntryWrite p index sub value, .counterClear p index sub value],
      Completes c s fun t => (∀ e, t.entry e = s.entry e) ∧ { t with out := s.out } = s)

/-- R337, R336: each naturally aligned 16 KiB block of reservoir addresses has exactly one granule on each channel, and any list of such blocks loads all 64 channels equally. -/
def Obligations.BlocksLoadChannelsEqually : Prop :=
  (∀ a < 2 ^ 38, ∀ o < 256, a % 256 = 0 → channelOf (a + o) = channelOf a) ∧
  (∀ b < 2 ^ 24, ∀ c < 64, ∃ g < 64, channelOf (b * 16384 + g * 256) = c ∧ ∀ g' < 64, channelOf (b * 16384 + g' * 256) = c → g' = g) ∧
  ∀ bs : List Nat, (∀ b ∈ bs, b < 2 ^ 24) → ∀ c < 64, (bs.flatMap fun b => (List.range 64).map fun g => channelOf (b * 16384 + g * 256)).count c = bs.length

/-- R502, R503: at every boot the three fuse copies are read, and their bitwise majority gives the state: its own code where it is one of R501, else SCRAP, FFFFh. A valid majority is programmed into each copy that lacks a bit of it; bits beyond it stay, and an invalid one programs nothing. -/
def Obligations.FuseCopiesAtBoot : Prop :=
  ∀ (s : State) (ok0 ok1 : Bool), s.hubOn = true → s.power = .booting → s.haltLatched = false → s.hop.server = some .pilot → s.fatal = none → s.canDraw 16 8 →
    let r := s.roots
    let m := (r.c1 &&& r.c2) ||| (r.c1 &&& r.c3) ||| (r.c2 &&& r.c3)
    let valid := m.toNat ∈ [0x0000, 0x0C3A, 0xACBA, 0xEEBB, 0xFFBF, 0xFFFF]
    Completes (.boot ok0 ok1 none none) s fun t =>
      (valid → t.lifeCycle = m.toNat ∧ (t.roots.c1, t.roots.c2, t.roots.c3) = (r.c1 ||| m, r.c2 ||| m, r.c3 ||| m)) ∧
      (¬valid → t.lifeCycle = 0xFFFF ∧ (t.roots.c1, t.roots.c2, t.roots.c3) = (r.c1, r.c2, r.c3)) ∧
      t.entryValue 0x1100 1 = t.lifeCycle

/-- R51 to R53: an attempt whose own check fails produces nothing and is charged to its job alone: up to the third time the job waits to run again with one more retry, and the fourth ends it INTERNAL; no other job is touched. -/
def Obligations.FailedChecksReplay : Prop :=
  ∀ (s : State) (id : Nat) (j : Job) (row : Instr × Nat),
    row ∈ [(Instr.kemKeygen id false, 0x0101), (.sigKeygen id false, 0x0201), (.clKeygen id false, 0x0501), (.objectWrite id false, 0x0701), (.objectRestore id false, 0x0702)] →
    s.attemptOf id row.2 = some j → j.object = none → s.canDraw j.instOf 3 → s.canDraw 16 3 → s.shroudReady j = true →
    (j.retries < 3 → Completes row.1 s fun t =>
      (t.findJob id).map (fun k => (k.phase, k.retries, k.units, k.output, k.keyOut)) = some (.waiting, j.retries + 1, [], [], none) ∧ ∀ k, k ≠ id → t.findJob k = s.findJob k) ∧
    (3 ≤ j.retries → Completes row.1 s fun t => JobEnds t id jsInternal 0 [] ∧ ∀ k, k ≠ id → t.findJob k = s.findJob k)

/-- R20, R21: counters. A count that reaches its maximum stays there and sets its overflow bit, and every other entry keeps its value; clearing sets count and bit to zero. -/
def Obligations.CountersSaturate : Prop :=
  ∀ (s : State) (k n b i : Nat), overflowBit k = some (b, i) → k ≠ b →
    (s.entry k ≤ counterMax k → (s.bumpBy k n).entry k = min (s.entry k + n) (counterMax k)) ∧
    (0 < n → counterMax k ≤ s.entry k + n → bitOf ((s.bumpBy k n).entry b) i = true) ∧
    (∀ e, e ≠ k → e ≠ b → (s.bumpBy k n).entry e = s.entry e) ∧
    (s.clearCounter k).entry k = 0 ∧ bitOf ((s.clearCounter k).entry b) i = false

/-- R270, R293: what the ALU instructions write, on every wick that may issue; reserved bits 0. Nothing else of the wick changes but what cycles move, and nothing outside it.

R271, R272, R293: what the constant instructions write, on every wick that may issue; reserved bits 0, and shift amounts of at most 71.

R269, R270: when scalar instructions issue, on a wick that waits for nothing: in the first cycle in which their sources are ready; ALU results are ready in the next cycle, products after three, loads after two. -/
def Obligations.ScalarResults : Prop :=
  (∀ (s : State) (w : Fin 256) (rd rs1 rs2 : BitVec 5), s.wickIssues w = true →
     let a := (s.wick w).reg rs1
     let b := (s.wick w).reg rs2
     let a1 := a.setWidth 64
     let b1 := b.setWidth 64
     AluWrites (.add w rd rs1 rs2 0) s w rd (a + b) (a1 + b1) ∧
     AluWrites (.sub w rd rs1 rs2 0) s w rd (a - b) (a1 - b1) ∧
     AluWrites (.and w rd rs1 rs2 0) s w rd (a &&& b) (a1 &&& b1) ∧
     AluWrites (.ior w rd rs1 rs2 0) s w rd (a ||| b) (a1 ||| b1) ∧
     AluWrites (.xor w rd rs1 rs2 0) s w rd (a ^^^ b) (a1 ^^^ b1) ∧
     AluWrites (.andc w rd rs1 rs2 0) s w rd (a &&& ~~~b) (a1 &&& ~~~b1) ∧
     AluWrites (.shl w rd rs1 rs2 0) s w rd (a <<< (b.toNat % 128)) (a1 <<< (b1.toNat % 64)) ∧
     AluWrites (.shr w rd rs1 rs2 0) s w rd (a >>> (b.toNat % 128)) (a1 >>> (b1.toNat % 64)) ∧
     AluWrites (.shra w rd rs1 rs2 0) s w rd (a.sshiftRight (b.toNat % 128)) (a1.sshiftRight (b1.toNat % 64)) ∧
     AluWrites (.rot w rd rs1 rs2 0) s w rd (a.rotateLeft (b.toNat % 72)) (a1.rotateLeft (b1.toNat % 64)) ∧
     AluWrites (.meq w rd rs1 rs2 0) s w rd (if a = b then BitVec.allOnes 72 else 0) (if a1 = b1 then BitVec.allOnes 64 else 0) ∧
     AluWrites (.mlt w rd rs1 rs2 0) s w rd (if a.toInt < b.toInt then BitVec.allOnes 72 else 0) (if a1.toInt < b1.toInt then BitVec.allOnes 64 else 0) ∧
     AluWrites (.mlo w rd rs1 rs2 0) s w rd (if a.toNat < b.toNat then BitVec.allOnes 72 else 0) (if a1.toNat < b1.toNat then BitVec.allOnes 64 else 0) ∧
     AluWrites (.mul w rd rs1 rs2 0) s w rd (a * b) (a1 * b1) ∧
     AluWrites (.mulhi w rd rs1 rs2 0) s w rd (BitVec.ofNat 72 (a.toNat * b.toNat / 2 ^ 72)) (BitVec.ofNat 64 (a1.toNat * b1.toNat / 2 ^ 64)) ∧
     AluWrites (.clz w rd rs1 rs2 0) s w rd (BitVec.ofNat 72 (leadingZeros a)) (BitVec.ofNat 64 (leadingZeros a1)) ∧
     AluWrites (.popc w rd rs1 rs2 0) s w rd (BitVec.ofNat 72 (oneBits a)) (BitVec.ofNat 64 (oneBits a1)) ∧
     (let d := (s.wick w).reg rd
      AluWrites (.mux w rd rs1 rs2 0) s w rd ((a &&& d) ||| (b &&& ~~~d)) (((a &&& d) ||| (b &&& ~~~d)).setWidth 64)) ∧
     ((s.wick w).level1 = false →
       WritesReg (.limb w rd rs1 rs2 0) s w rd ((a.setWidth 64).setWidth 72) ∧ WritesReg (.carry w rd rs1 rs2 0) s w rd (a >>> 64))) ∧
  (∀ (s : State) (w : Fin 256) (rd rs1 : BitVec 5) (imm : BitVec 20) (c : BitVec 24) (n : BitVec 7), s.wickIssues w = true → n.toNat ≤ 71 →
     let a := (s.wick w).reg rs1
     let a1 := a.setWidth 64
     let k : Word72 := imm.signExtend 72
     let k1 : BitVec 64 := imm.signExtend 64
     let d := (s.wick w).reg rd
     AluWrites (.addk w rd rs1 imm) s w rd (a + k) (a1 + k1) ∧
     AluWrites (.andk w rd rs1 imm) s w rd (a &&& k) (a1 &&& k1) ∧
     AluWrites (.iork w rd rs1 imm) s w rd (a ||| k) (a1 ||| k1) ∧
     AluWrites (.xork w rd rs1 imm) s w rd (a ^^^ k) (a1 ^^^ k1) ∧
     AluWrites (.mltk w rd rs1 imm) s w rd (if a.toInt < k.toInt then BitVec.allOnes 72 else 0) (if a1.toInt < k1.toInt then BitVec.allOnes 64 else 0) ∧
     AluWrites (.mlok w rd rs1 imm) s w rd (if a.toNat < k.toNat then BitVec.allOnes 72 else 0) (if a1.toNat < k1.toNat then BitVec.allOnes 64 else 0) ∧
     AluWrites (.shlk w rd rs1 0 n) s w rd (a <<< n.toNat) (a1 <<< (n.toNat % 64)) ∧
     AluWrites (.shrk w rd rs1 0 n) s w rd (a >>> n.toNat) (a1 >>> (n.toNat % 64)) ∧
     AluWrites (.shrak w rd rs1 0 n) s w rd (a.sshiftRight n.toNat) (a1.sshiftRight (n.toNat % 64)) ∧
     AluWrites (.rotk w rd rs1 0 n) s w rd (a.rotateLeft n.toNat) (a1.rotateLeft (n.toNat % 64)) ∧
     WritesReg (.lk0 w rd 0 c) s w rd (c.setWidth 72) ∧
     AluWrites (.lk1 w rd 0 c) s w rd ((d &&& ~~~0xFFFFFF000000#72) ||| (c.setWidth 72 <<< 24)) (((d &&& ~~~0xFFFFFF000000#72) ||| (c.setWidth 72 <<< 24)).setWidth 64) ∧
     ((s.wick w).level1 = false → WritesReg (.lk2 w rd 0 c) s w rd ((d &&& 0xFFFFFFFFFFFF) ||| (c.setWidth 72 <<< 48)))) ∧
  (∀ (s : State) (w : Fin 256) (rd rs1 rs2 : BitVec 5) (imm : BitVec 20), s.wickIssues w = true → (s.wick w).stall = .none → rd ≠ 0 →
     let x := s.wick w
     let ready := fun (y : Wick) (r : BitVec 5) => Table.get (fun _ => 0) y.gReady r.toNat
     let c2 := max (max x.cycles (ready x rs1)) (ready x rs2)
     let c1 := max x.cycles (ready x rs1)
     let timed := fun (i : Instr) (c latency : Nat) => Completes i s fun t => (t.wick w).cycles = c + 1 ∧ ready (t.wick w) rd = c + latency
     timed (.add w rd rs1 rs2 0) c2 1 ∧ timed (.mlt w rd rs1 rs2 0) c2 1 ∧ timed (.mul w rd rs1 rs2 0) c2 3 ∧ timed (.mulhi w rd rs1 rs2 0) c2 3 ∧
     timed (.addk w rd rs1 imm) c1 1 ∧ (x.reaches [x.address rs1 imm] false false → timed (.ld w rd rs1 imm) c1 2))

/-- R273, R293: where the branches and jumps go. A register is tested in 72 bits, or in 64 at LEVEL1.

R273: DBNZ counts a register down and branches while the result is not zero. -/
def Obligations.ControlTransfers : Prop :=
  (∀ (s : State) (w : Fin 256) (rs1 : BitVec 5) (off imm : BitVec 20) (far : BitVec 25), s.wickIssues w = true →
     let x := s.wick w
     let a := x.reg rs1
     let near : Word72 := x.pc.setWidth 72 + off.signExtend 72
     let zero := if x.level1 then a.setWidth 64 = 0 else a = 0
     let negative := if x.level1 then a.getLsbD 63 = true else a.getLsbD 71 = true
     let jump : Word72 := x.pc.setWidth 72 + far.signExtend 72
     Branches (.bz w rs1 0 off) s w zero near ∧
     Branches (.bnz w rs1 0 off) s w (¬zero) near ∧
     Branches (.bneg w rs1 0 off) s w negative near ∧
     Branches (.bnneg w rs1 0 off) s w (¬negative) near ∧
     ((a + imm.signExtend 72).toNat < x.instrCount → Goes (.jmpr w 0 rs1 imm) s w ((a + imm.signExtend 72).setWidth 14)) ∧
     (jump.toNat < x.instrCount → Goes (.jmp w 0 far) s w (jump.setWidth 14)) ∧
     (jump.toNat < x.instrCount → Completes (.call w 0 far) s fun t =>
       Issued s t w (jump.setWidth 14) ∧ RegIs x (t.wick w) 31 (x.pc.setWidth 72 + 1) ∧ { (t.wick w).steady with g := x.g } = x.steady)) ∧
  (∀ (s : State) (w : Fin 256) (rs1 : BitVec 5) (off : BitVec 20), s.wickIssues w = true → rs1 ≠ 0 →
     let x := s.wick w
     let v := if x.level1 then low64 (x.reg rs1 - 1) else x.reg rs1 - 1
     let near : Word72 := x.pc.setWidth 72 + off.signExtend 72
     (v ≠ 0 → near.toNat < x.instrCount) → Completes (.dbnz w rs1 0 off) s fun t =>
       Issued s t w (if v = 0 then x.pc + 1 else near.setWidth 14) ∧ RegIs x (t.wick w) rs1 v ∧ { (t.wick w).steady with g := x.g } = x.steady)

/-- R274, R293: a load and a store whose word the wick may reach. The address stored to is rs1 + IMM20; every other word reads as before.

R319 to R322: SV loads and stores whose words the wick may reach: one register, as two words or, with shares at second order, four, or structures of up to four registers interleaved by elements. Words outside the transfer read as before. -/
def Obligations.LoadsAndStores : Prop :=
  (∀ (s : State) (w : Fin 256) (rd rs1 rs2 : BitVec 5) (imm : BitVec 20), s.wickIssues w = true →
     let x := s.wick w
     let a := x.address rs1 imm
     (x.reaches [a] false false → WritesReg (.ld w rd rs1 imm) s w rd (if x.level1 then low64 (x.word a) else x.word a)) ∧
     (x.reaches [a] false true →
       WritesWords (.st w rs1 rs2 imm) s w fun b => if b = a then some (if x.level1 then low64 (x.reg rs2) else x.reg rs2) else none)) ∧
  (∀ (s : State) (w : Fin 256) (vd rs1 : BitVec 5) (imm : BitVec 11) (nf : BitVec 2) (m : Bool) (et : BitVec 3) (ew n : Nat), s.wickIssues w = true → (s.wick w).level1 = false →
     let x := s.wick w
     let d := vd.toNat
     let a := x.address rs1 imm
     let regs := span d (nf.toNat + 1)
     x.svTransfer d nf.toNat m et = some (ew, n) → x.svMisaligned a m = false →
     (x.reaches (span a n) m false →
       Becomes (.vld w vd rs1 imm nf m et 0) s w (x.pc + 1)
         (let ws := (span a n).map fun i => (x.word i).toNat
          if nf = 0 then (if m then x.setShares d ws 0 else x.setSv d (nth ws 0) (nth ws 1) false 0)
          else (deinterleave ew (nf.toNat + 1) m ws).zipIdx.foldl (fun (y : Wick) p => y.setSv (d + p.2) p.1.1 p.1.2 m 0) x)) ∧
     (x.reaches (span a n) m true → (∀ r ∈ regs, x.sh r = m) →
       WritesWords (.vst w vd rs1 imm nf m et 0) s w fun b =>
         let ws := if nf = 0 then (if m && x.order2 then x.shares d ++ [0] else [x.half d 0, x.half d 1])
           else interleave ew (nf.toNat + 1) m (regs.map fun r => (x.half r 0, x.half r 1))
         if a ≤ b then (ws[b - a]?).map (BitVec.ofNat 72) else none))

/-- R275: what a descriptor describes.

R275, R276: a DMA transfer of a valid descriptor whose local words are plain and whose tag is free begins, a read if the MPU grants it whole, a write with its bytes taken from data memory into the write buffer; DWAIT passes once its tag is free. The wick changes in nothing else.

R275, R276, R338: the end of a transfer: a read's words arrive, eight bytes each or nine for P72, and the tag is free; a write's tag is free once its lines have left the write buffer.

R275, R283, R340, R341: the line of a DMA write that goes next and that the MPU allows under the present epoch is stored as its owner's ciphertext with its tag; every other line keeps its cells and tag. -/
def Obligations.DmaTransfers : Prop :=
  (∀ (x : Wick) (write : Bool) (addr : Nat) (first : BitVec 14) (count : BitVec 14) (p72 : Bool), addr % 8 = 0 → (p72 = true → x.level1 = false) →
     x.descriptor write addr (first.toNat + count.toNat * 2 ^ 16 + (if p72 then 2 ^ 30 else 0)) =
       some { write := write, local_ := first.toNat, words := count.toNat + 1, address := addr, p72 := p72 }) ∧
  (∀ (s : State) (w : Fin 256) (rd rs1 rs2 : BitVec 5) (tag : BitVec 3) (d : DmaTransfer), s.wickIssues w = true →
     let x := s.wick w
     (∀ p ∈ x.dma, p.1 ≠ tag.toNat) →
     (x.descriptor false (x.reg rs1).toNat (x.reg rs2).toNat = some d → (∀ a ∈ d.locals, a ≤ 0x3FFF ∧ x.secret a = false) → s.mpuAllows x d.address d.length false = true →
       Becomes (.dmar w rd rs1 rs2 tag 0) s w (x.pc + 1) { x with dma := putOption x.dma tag.toNat (some d) }) ∧
     (x.descriptor true (x.reg rs1).toNat (x.reg rs2).toNat = some d → (∀ a ∈ d.locals, a ≤ 0x3FFF ∧ x.secret a = false) → x.interlock d.locals false = none →
       Becomes (.dmaw w rd rs1 rs2 tag 0) s w (x.pc + 1)
         { x with dma := putOption x.dma tag.toNat (some d), writeBuffer := x.writeBuffer ++ lineParts tag.toNat (d.length / 64 + 2) d.address (x.outBytes d) }) ∧
     Becomes (.dwait w 0 0 0 tag 0) s w (x.pc + 1) x) ∧
  (∀ (s : State) (w : Fin 256) (tag : BitVec 3) (n : Nat) (d : DmaTransfer), s.wickLive w = true →
     let x := s.wick w
     x.dma.find? (fun p => p.1 = tag.toNat) = some (n, d) →
     (d.write = false → Completes (.dmaComplete w tag) s fun t =>
       WickAndCounters s t w ∧ (t.wick w).steady = { x.setWords d.local_ (s.arrivingWords d) with dma := putOption x.dma tag.toNat none }.steady) ∧
     (d.write = true → (∀ l ∈ x.writeBuffer, l.1 ≠ tag.toNat) → Completes (.dmaComplete w tag) s fun t =>
       WickAndCounters s t w ∧ (t.wick w).steady = { x with dma := putOption x.dma tag.toNat none }.steady)) ∧
  (∀ (s : State) (w : Fin 256) (tag a : Nat) (b : Bytes), s.wickLive w = true →
     (s.wick w).nextWrite = some (tag, a, b) → s.mpuAllows (s.wick w) a b.length true = true → b ≠ [] → a % 64 + b.length ≤ 64 →
     let line := a / 64
     let o := s.lineOwner (64 * line)
     let sealed := sealLine (s.sealKeys o) line (patchLine line (s.linePlain line) a b)
     Completes (.dmawLineCheck w) s fun t =>
       { t with wicks := s.wicks, dict := s.dict, reservoir := s.reservoir, lineTags := s.lineTags } = s ∧
       t.wick w = { s.wick w with writeBuffer := (s.wick w).writeBuffer.erase (tag, a, b) } ∧ (∀ v, v ≠ w.val → t.wick v = s.wick v) ∧
       (∀ i : Nat, i < sealed.length → Memory.byte clearByte t.reservoir (64 * line + i) = sealed.getD i 0) ∧
       (∀ c, c < 64 * line ∨ 64 * line + sealed.length ≤ c → Memory.byte clearByte t.reservoir c = Memory.byte clearByte s.reservoir c) ∧
       t.storedTag line = lineTag (s.sealKeys o) line (ownerCode o) sealed ∧ ∀ l, l ≠ line → t.storedTag l = s.storedTag l)

/-- R82, R86, R265, R281, R282, R291: the SYS group. NOP does nothing for a cycle and FENCE passes with nothing outstanding; CR reads a control register, CW writes c5, c8 and c13 within their limits; TRAP ends the attempt with the program fault, which carries its code; DONE ends an owner program's job, and a vendor attempt once all its wicks have reached their DONE: the first wick's status is the result, those of the others are the outcome of its check.

R284, R285, R287: what happens to a wick from outside: a nap ends, the cycle budget runs out, a vendor program of the library store is loaded into a wick that serves no attempt.

R317, R333: the shroud generator's new key: with a word of the sconce's instance the generator runs again under a new key; without one, a wick that waits for it makes its job wait for randomness. -/
def Obligations.SystemInstructionsAndEvents : Prop :=
  (∀ (s : State) (w : Fin 256) (rd rs1 : BitVec 5) (code : BitVec 8) (c : BitVec 6) (j : Job), s.wickIssues w = true →
     let x := s.wick w
     Becomes (.nop w 0 rs1 0 code) s w (x.pc + 1) x ∧
     (x.draining = false → Becomes (.fence w 0 rs1 0 code) s w (x.pc + 1) x) ∧
     (x.stall = .none → WritesReg (.cr w rd 0 c 0) s w rd (if x.level1 then low64 (BitVec.ofNat 72 (s.controlReg w x c.toNat)) else BitVec.ofNat 72 (s.controlReg w x c.toNat))) ∧
     Becomes (.cw w 0 rs1 5 0) s w (x.pc + 1) { x with napCtl := napLimits (x.reg rs1).toNat } ∧
     Becomes (.cw w 0 rs1 8 0) s w (x.pc + 1) { x with mod := x.reg rs1 } ∧
     Becomes (.cw w 0 rs1 13 0) s w (x.pc + 1) { x with fvIdle := min 16777216 (max 1024 (bitsOf (x.reg rs1).toNat 24 0)) } ∧
     (x.job = some j.id → s.findJob j.id = some j →
       let a := j.attemptWicks w
       let others := a.1.filter fun v => v ≠ w.val
       let legal : Prop := a.1.head? = some w.val → vendorStatus j.entry.opcode code.toNat = true
       let lead := match a.1 with | v :: _ => if v = w.val then code.toNat else ((s.wick v).doneWith.getD 0).toNat | [] => jsOk
       let check := (a.1.drop 1).all fun v => if v = w.val then code = 0 else (s.wick v).doneWith = some 0
       exec (.trap w 0 rs1 0 code) s = .next (if x.owner then s.failJob j.id jsFormat
         else (s.setWick w { x with report := some { address := 0, pc := x.pc, code := code } }).reportFault 0x0108 (uWick w) (uWick w) (uSlice j.slice) 0) ∧
       (x.draining = false → x.owner = true →
         ∃ n, exec (.done w 0 rs1 0 code) s = .next ({ s with freeIndex := n }.ownerDone j code.toNat (x.reg rs1).toNat)) ∧
       (x.draining = false → x.owner = false → isObject j.entry.opcode = true →
         Becomes (.done w 0 rs1 0 code) s w x.pc { x with doneWith := some code }) ∧
       (x.draining = false → x.owner = false → isObject j.entry.opcode = false → ¬legal →
         exec (.done w 0 rs1 0 code) s = .next ((s.setWick w { x with report := some { address := 0, pc := x.pc, code := code } }).reportFault 0x0108 (uWick w) (uWick w) (uSlice j.slice) 0)) ∧
       (x.draining = false → x.owner = false → isObject j.entry.opcode = false → legal → (∃ v ∈ others, (s.wick v).doneWith = none) →
         Becomes (.done w 0 rs1 0 code) s w x.pc { x with doneWith := some code }) ∧
       (x.draining = false → x.owner = false → isObject j.entry.opcode = false → legal → (∀ v ∈ others, (s.wick v).doneWith ≠ none) →
         ∃ n y, y.steady = { x with doneWith := some code }.steady ∧ exec (.done w 0 rs1 0 code) s = .next (
           let t := { s with freeIndex := n }.setWick w y
           if lead = jsOk || !check then t.vendorResult j a.2 check else t.failJob j.id lead)))) ∧
  (∀ (s : State) (w : Fin 256) (image : Bytes) (p : Program) (j : Job),
     let x := s.wick w
     (x.napping = true → exec (.napWake w) s = .next (s.setWick w { x with napping := false })) ∧
     (x.program = some p → p.maxCycles ≠ 0 → s.wickLive w = true → x.job = some j.id → s.findJob j.id = some j →
       exec (.cycleBudgetExceeded w) s =
         .next (let t := s.setWick w (x.passTo p.maxCycles)
                if p.owner then t.failJob j.id jsFormat else t.reportFault 0x0109 (uWick w) (uWick w) (uSlice j.slice) 0)) ∧
     (s.isLit = true → s.fatal = none → s.inService (uWick w) = true → s.entry (Key.sconcePowerState (sconceOf w)) = 1 → x.job = none → image ∈ s.library → imageFormOk 1 image = true →
       Completes (.programLoad w image) s fun t =>
         WickAndCounters s t w ∧ (t.wick w).program = some (imageProgram image) ∧ (t.wick w).pmem = imageCode image ∧
         { t.wick w with program := x.program, pmem := x.pmem, dmem := x.dmem } = x)) ∧
  (∀ (s : State) (w : Fin 256), s.hubOn = true → (s.wick w).shroud.rekeying = true →
     let x := s.wick w
     ((s.generate (sconceOf w) 32).1 ≠ none → Completes (.shroudRekey w) s fun t =>
       (t.wick w).shroud = { x.shroud with rekeying := false, produced := 0 } ∧ { t.wick w with shroud := x.shroud } = x) ∧
     ((s.generate (sconceOf w) 32).1 = none → x.stall ≠ .shroud → exec (.shroudRekey w) s = .next (s.generate (sconceOf w) 32).2))

/-- R278: the sponge instructions on plain words and registers. A lane LANE of the state is the exclusive or of its two shares.

R264, R278, R279, R316: the sponge instructions of a masked state, which take pairs of words from secret granules, or draw shroud words that the generator has a key for. What the fresh shares are is not stated. -/
def Obligations.SpongeInstructions : Prop :=
  (∀ (s : State) (w : Fin 256) (rd rs1 rs2 : BitVec 5), s.wickIssues w = true →
     let x := s.wick w
     let p := x.sponge
     let a := (x.reg rs1).toNat
     let first := laneFirst (x.reg rs2)
     let n := laneCount (x.reg rs2)
     (∀ f, [SpongeFn.keccak, .sha256, .sha512, .sha384][bitsOf a 2 0]? = some f → (f = .keccak → 1 ≤ bitsOf a 8 4 ∧ bitsOf a 8 4 ≤ 24) →
       Becomes (.spinit w rd rs1 rs2 0) s w (x.pc + 1) { x with sponge := { Sponge.cleared with fn := f, masked := bitOf a 3, rate := bitsOf a 8 4, share0 := f.init } }) ∧
     (p.absorbs first n = true → x.reaches (span a n) false false →
       Becomes (.spabs w rd rs1 rs2 0) s w (x.pc + 1) { x with sponge := p.absorb first ((span a n).map fun b => (x.word b).setWidth 64) ((span a n).map fun _ => 0) }) ∧
     (p.absorbs first 1 = true →
       Becomes (.spabr w rd rs1 rs2 0) s w (x.pc + 1) { x with sponge := p.absorb first [(x.reg rs1).setWidth 64] [0] }) ∧
     (p.masked = false →
       Becomes (.spperm w rd rs1 rs2 0) s w (x.pc + 1) { x with sponge := { p with share0 := p.permute, permuted := true } }) ∧
     (first ≤ 24 → first + n ≤ 25 → p.readable first n = true → x.reaches (span a n) false true →
       Completes (.spsqz w rd rs1 rs2 0) s fun t => Issued s t w (x.pc + 1) ∧ { (t.wick w).steady with dmem := x.dmem } = x.steady ∧
         (∀ b, b < a ∨ a + n ≤ b → (t.wick w).word b = x.word b) ∧
         ∀ k, k < n → first + k < p.fn.stateLanes → (t.wick w).word (a + k) = (p.share0.getD (first + k) 0 ^^^ p.share1.getD (first + k) 0).setWidth 72) ∧
     (first ≤ 24 → p.readable first 1 = true →
       ∃ v, (first < p.fn.stateLanes → v = (p.share0.getD first 0 ^^^ p.share1.getD first 0).setWidth 72) ∧ WritesReg (.spsqr w rd rs1 rs2 0) s w rd v)) ∧
  (∀ (s : State) (w : Fin 256) (rd rs1 rs2 : BitVec 5), s.wickIssues w = true → (s.wick w).sponge.masked = true →
     let x := s.wick w
     let p := x.sponge
     let a := (x.reg rs1).toNat
     let first := laneFirst (x.reg rs2)
     let n := laneCount (x.reg rs2)
     let k := bitsOf (x.reg rs2).toNat 3 0
     (x.shroud.serves (2 * p.fn.cycles) → ∃ m : List (BitVec 64), m.length = p.fn.stateLanes ∧
       BecomesDrawing (.spperm w rd rs1 rs2 0) s w (x.pc + 1) { x with sponge := { p with share0 := p.permute.zipWith (· ^^^ ·) m, share1 := m, permuted := true } }) ∧
     (x.level1 = false → a % 2 = 0 → p.absorbs first n = true → x.reaches (span a (2 * n)) true false →
       Becomes (.spabsM w rd rs1 rs2 0) s w (x.pc + 1)
         { x with sponge := p.absorb first ((List.range n).map fun i => (x.word (a + 2 * i)).setWidth 64) ((List.range n).map fun i => (x.word (a + 2 * i + 1)).setWidth 64) }) ∧
     (x.level1 = false → a % 2 = 0 → first ≤ 24 → first + n ≤ 25 → x.reaches (span a (2 * n)) true true →
       Completes (.spsqzM w rd rs1 rs2 0) s fun t => Issued s t w (x.pc + 1) ∧ { (t.wick w).steady with dmem := x.dmem } = x.steady ∧
         (∀ b, b < a ∨ a + 2 * n ≤ b → (t.wick w).word b = x.word b) ∧
         ∀ i, i < n → first + i < p.fn.stateLanes →
           (t.wick w).word (a + 2 * i) = (p.share0.getD (first + i) 0).setWidth 72 ∧ (t.wick w).word (a + 2 * i + 1) = (p.share1.getD (first + i) 0).setWidth 72) ∧
     (x.level1 = false → 1 ≤ k → k ≤ 8 → x.shroud.serves k → ∃ r : List (BitVec 64), r.length = k ∧
       let v := (List.range k).map fun i => x.wkrLane i ^^^ r.getD i 0
       BecomesDrawing (.spkey w rd rs1 rs2 0) s w (x.pc + 1)
         { x with sponge := { (if p.fn = .keccak then { p with share0 := xorLanes 25 0 p.share0 v, share1 := xorLanes 25 0 p.share1 r }
             else { p with block0 := xorLanes 16 0 p.block0 v, block1 := xorLanes 16 0 p.block1 r }) with taint := true, permuted := false } }))

/-- R257, R280: words on the gang ring. A sent word stands in the out latch, or at the end of the in latches of the next wick of the job where one is free; GRECV and GFWD take the oldest word received.

R262, R263, R264, R276, R280: KPSEND hands values to the taper of its job; WKCLR clears the WKR; GMARK makes a granule secret and GSCRUB zeroes one and makes it plain. -/
def Obligations.GangKeyAndGranuleInstructions : Prop :=
  (∀ (s : State) (w : Fin 256) (rd rs1 rs2 : BitVec 5) (v : Word72) (rest : List Word72), s.wickIssues w = true →
     let x := s.wick w
     let y := s.wick (ringNext w)
     let room : Prop := x.job = y.job ∧ y.gangIn.length < 4
     let ring : State → Prop := fun t => { t with wicks := s.wicks, freeIndex := s.freeIndex, dict := s.dict } = s ∧
       (∀ u, u ≠ w.val → u ≠ ringNext w → u ≠ ringPrev w → t.wick u = s.wick u) ∧ (t.wick w).pc = x.pc + 1
     x.gang = true → x.level1 = false →
     (x.gangOut = none → Completes (.gsend w rd rs1 rs2 0) s fun t => ring t ∧ (∀ r, (t.wick w).reg r = x.reg r) ∧
       (room → (t.wick (ringNext w)).gangIn = y.gangIn ++ [x.reg rs1]) ∧ (¬room → (t.wick w).gangOut = some (x.reg rs1))) ∧
     (x.gangIn = v :: rest → Completes (.grecv w rd rs1 rs2 0) s fun t => ring t ∧ RegIs x (t.wick w) rd v ∧ rest <+: (t.wick w).gangIn) ∧
     (x.gangIn = v :: rest → x.gangOut = none → Completes (.gfwd w rd rs1 rs2 0) s fun t => ring t ∧ RegIs x (t.wick w) rd v ∧ rest <+: (t.wick w).gangIn ∧
       (room → (t.wick (ringNext w)).gangIn = y.gangIn ++ [v]) ∧ (¬room → (t.wick w).gangOut = some v))) ∧
  (∀ (s : State) (w : Fin 256) (rd rs1 rs2 : BitVec 5) (k : Nat), s.wickIssues w = true →
     let x := s.wick w
     let a := (x.reg rs1).toNat
     let n := bitsOf (x.reg rs2).toNat 4 0
     let g := x.granule rs1
     (x.taper = some k → x.level1 = false → x.owner = false → 1 ≤ n → n ≤ 16 → (x.secret a = true → a % 2 = 0) →
       x.reaches (span a (if x.secret a then 2 * n else n)) (x.secret a) false → (s.taper k).mustWipe = false → (x.secret a = true → x.shroud.serves n) →
       Completes (.kpsend w rd rs1 rs2 0) s fun t =>
         { t with wicks := s.wicks, tapers := s.tapers, freeIndex := s.freeIndex, dict := s.dict } = s ∧ (∀ v, v ≠ w.val → t.wick v = s.wick v) ∧ (∀ j, j ≠ k → t.taper j = s.taper j) ∧
         t.taper k = { s.taper k with keyPath := (s.taper k).keyPath ++ x.keyValues a n, prepared := true } ∧ (t.wick w).pc = x.pc + 1 ∧ (t.wick w).steady = x.steady) ∧
     Becomes (.wkclr w rd rs1 rs2 0) s w (x.pc + 1) { x with wkr := 0, wkrAlg := 0, keyed := false } ∧
     (x.granuleTag g = none →
       Becomes (.gmark w rd rs1 rs2 0) s w (x.pc + 1) { x with gmask := x.gmask ||| BitVec.ofNat 128 (2 ^ g) } ∧
       Completes (.gscrub w rd rs1 rs2 0) s fun t => Issued s t w (x.pc + 1) ∧ (∀ b, (t.wick w).word b = if b / 128 = g then 0 else x.word b) ∧
         { (t.wick w).steady with dmem := x.dmem } = { x.steady with gmask := x.gmask &&& ~~~BitVec.ofNat 128 (2 ^ g) }))

/-- R324, R326: what the FV instructions on lanes write, with the island on and in service, and no stall whose end the island's idle counter might not outlast.

R326: FV loads, stores and moves, with the island on and in service and no stall.

R328, R329, R331, R332: the FV island: an FV instruction that finds it off starts its wake and waits; the wake ends with it on, after its 400 ns in wick cycles where the sconce kept its level and after a free number of them where it changed; the idle counter's expiry saves it, and a wake that does not end in time faults it. -/
def Obligations.ForerunnerUnit : Prop :=
  (∀ (s : State) (w : Fin 256) (fd fs1 fs2 : BitVec 4) (ft : BitVec 2) (k : BitVec 6), s.wickIssues w = true → (s.wick w).stall = .none → (s.wick w).island = .on → s.inService (uIsland w) = true →
     let x := s.wick w
     let n := ftWidth ft
     let a := fvLanes n (x.freg fs1)
     let b := fvLanes n (x.freg fs2)
     let put := fun (i : Instr) (l : List Nat) => Becomes i s w (x.pc + 1) (x.setFreg fd (joinElements n l) 0)
     put (.fvAdd w fd fs1 fs2 ft 0) (List.zipWith (fun p q => p + q) a b) ∧
     put (.fvSub w fd fs1 fs2 ft 0) (List.zipWith (fun p q => p + 2 ^ n - q) a b) ∧
     put (.fvAnd w fd fs1 fs2 ft 0) (List.zipWith (fun p q => p &&& q) a b) ∧
     put (.fvOr w fd fs1 fs2 ft 0) (List.zipWith (fun p q => p ||| q) a b) ∧
     put (.fvXor w fd fs1 fs2 ft 0) (List.zipWith (fun p q => p ^^^ q) a b) ∧
     put (.fvAndn w fd fs1 fs2 ft 0) (List.zipWith (fun p q => p &&& (2 ^ n - 1 - q)) a b) ∧
     put (.fvMullo w fd fs1 fs2 ft 0) (List.zipWith (fun p q => p * q) a b) ∧
     put (.fvMulhu w fd fs1 fs2 ft 0) (List.zipWith (fun p q => p * q / 2 ^ n) a b) ∧
     put (.fvSll w fd fs1 fs2 ft 0) (List.zipWith (fun p q => p * 2 ^ (q % n)) a b) ∧
     put (.fvSrl w fd fs1 fs2 ft 0) (List.zipWith (fun p q => p / 2 ^ (q % n)) a b) ∧
     put (.fvSra w fd fs1 fs2 ft 0) (List.zipWith (fun p q => wrapInt n (signedOf n p / 2 ^ (q % n))) a b) ∧
     put (.fvMinu w fd fs1 fs2 ft 0) (List.zipWith (fun p q => if p ≤ q then p else q) a b) ∧
     put (.fvMaxu w fd fs1 fs2 ft 0) (List.zipWith (fun p q => if p ≤ q then q else p) a b) ∧
     put (.fvCmpeq w fd fs1 fs2 ft 0) (List.zipWith (fun p q => if p = q then 2 ^ n - 1 else 0) a b) ∧
     put (.fvCmpgtu w fd fs1 fs2 ft 0) (List.zipWith (fun p q => if p > q then 2 ^ n - 1 else 0) a b) ∧
     put (.fvAddsu w fd fs1 fs2 ft 0) (List.zipWith (fun p q => min (p + q) (2 ^ n - 1)) a b) ∧
     (k.toNat < n →
       put (.fvSlli w fd fs1 ft k 0) (a.map fun p => p * 2 ^ k.toNat) ∧
       put (.fvSrli w fd fs1 ft k 0) (a.map fun p => p / 2 ^ k.toNat) ∧
       put (.fvSrai w fd fs1 ft k 0) (a.map fun p => wrapInt n (signedOf n p / 2 ^ k.toNat)) ∧
       put (.fvRoli w fd fs1 ft k 0) (a.map fun p => p * 2 ^ k.toNat % 2 ^ n + p / 2 ^ (n - k.toNat))) ∧
     Becomes (.fvTbl w fd fs1 fs2 0 0) s w (x.pc + 1) (x.setFreg fd (joinElements 8 ((fvLanes 8 (x.freg fs2)).map fun i => if i < 16 then (fvLanes 8 (x.freg fs1)).getD i 0 else 0)) 0)) ∧
  (∀ (s : State) (w : Fin 256) (f : BitVec 4) (g : BitVec 5) (imm : BitVec 20) (ft : BitVec 2) (lane : BitVec 4),
     s.wickIssues w = true → (s.wick w).stall = .none → (s.wick w).island = .on → s.inService (uIsland w) = true →
     let x := s.wick w
     let n := ftWidth ft
     let a := x.address g imm
     (x.reaches [a, a + 1] false false →
       Becomes (.fld w f g 0 imm) s w (x.pc + 1) (x.setFreg f (((x.word a).setWidth 64).toNat + 2 ^ 64 * ((x.word (a + 1)).setWidth 64).toNat) 0)) ∧
     (x.reaches [a, a + 1] false true →
       WritesWords (.fst w f g 0 imm) s w fun b =>
         if b = a then some (BitVec.ofNat 72 (x.freg f % 2 ^ 64)) else if b = a + 1 then some (BitVec.ofNat 72 (x.freg f / 2 ^ 64)) else none) ∧
     (lane.toNat < 128 / n →
       WritesReg (.fmvgf w g f ft lane 0) s w g (BitVec.ofNat 72 ((fvLanes n (x.freg f)).getD lane.toNat 0)) ∧
       Becomes (.fmvfg w g f ft lane 0) s w (x.pc + 1) (x.setFreg f (joinElements n ((fvLanes n (x.freg f)).set lane.toNat (x.reg g).toNat)) 0)) ∧
     Becomes (.fsplat w g f ft 0 0) s w (x.pc + 1) (x.setFreg f (joinElements n (List.replicate (128 / n) (x.reg g).toNat)) 0)) ∧
  (∀ (s : State) (w : Fin 256) (fd fs1 fs2 : BitVec 4) (ft : BitVec 2) (j : Job),
     let x := s.wick w
     (s.wickIssues w = true → s.inService (uIsland w) = true → x.island = .off → x.stall = .none →
       Completes (.fvAdd w fd fs1 fs2 ft 0) s fun t => WickAndCounters s t w ∧ (t.wick w).island = .waking (s.steadyLevel w) 0 ∧ (t.wick w).stall = .fvWake ∧ (t.wick w).pc = x.pc ∧ (t.wick w).fregs = x.fregs) ∧
     (s.wickIssues w = true → s.inService (uIsland w) = false → exec (.fvAdd w fd fs1 fs2 ft 0) s = .next (s.wickFault w .island)) ∧
     (∀ level after, x.island = .waking level after →
       let kept := s.entry (Key.sconcePowerState (w.val / 16)) = 1 ∧ s.entry (Key.sconcePowerCurrentLevel (w.val / 16)) = level ∧ level < 6
       (x.stall ≠ .fvWake → exec (.fvWakeComplete w) s = .next (s.setWick w { x with island := .on, idleCount := x.fvIdle })) ∧
       (x.stall = .fvWake → kept → exec (.fvWakeComplete w) s =
         .next (s.setWick w { x.passTo (x.cycles + after + [640, 580, 520, 440, 360, 240].getD level 0) with stall := .none, island := .on, idleCount := x.fvIdle })) ∧
       (x.stall = .fvWake → ¬kept → ∃ n, exec (.fvWakeComplete w) s =
         .next ({ s with freeIndex := s.freeIndex + 1 }.setWick w { x.passTo (x.cycles + n) with stall := .none, island := .on, idleCount := x.fvIdle }))) ∧
     (x.island = .on → exec (.fvIdleExpiry w) s =
       .next ((s.setWick w { (if x.job.isSome then x.passTo (x.cycles + x.idleCount) else x) with island := .saving 8, idleCount := 0 }).bump Key.wickVectorsFvPowerDowns)) ∧
     (∀ level after, x.island = .waking level after → s.isLit = true → s.fatal = none → x.job = some j.id → s.findJob j.id = some j →
       exec (.fvWakeTimeout w) s = .next ((s.setWick w { x with island := .off }).reportFault 0x0203 (uIsland w) (uWick w) (uSlice j.slice) 0)))

/-- R296, R301, R324: what a write of a vector register leaves: the halves and the tag of an SV register, or the value of an f register, and no other; the elements of a value put together from elements are these, modulo their width.

R301, R306: what the integer group writes in plain mode, element by element in both halves; the result is plain.

R307, R308: what the modular group and the widening products write in plain mode. The modulus is that of c8, which must fit the elements; the products are of even or odd elements, or of all and summed, read signed with S and accumulated into VD with ACC.

R309: the moves of the SV unit: splat, insert, extract, swap, copy and clear. A copy in shared mode copies every share. -/
def Obligations.PlainVectorResults : Prop :=
  ((∀ (x : Wick) (r q h0 h1 ready : Nat) (sh : Bool), r < 32 → q < 32 →
     let y := x.setSv r h0 h1 sh ready
     (q = r → y.half q 0 = h0 % 2 ^ 72 ∧ y.half q 1 = h1 % 2 ^ 72 ∧ y.sh q = sh) ∧ (q ≠ r → y.half q 0 = x.half q 0 ∧ y.half q 1 = x.half q 1 ∧ y.sh q = x.sh q)) ∧
   (∀ (x : Wick) (r q : BitVec 4) (v ready : Nat), (x.setFreg r v ready).freg q = if q = r then v % 2 ^ 128 else x.freg q) ∧
   (∀ (et : BitVec 3) (ew : Nat) (l : List Nat), etWidth et = some ew → l.length = 72 / ew → elements ew (joinElements ew l % 2 ^ 72) = l.map (· % 2 ^ ew)) ∧
   ∀ (ft : BitVec 2) (l : List Nat), l.length = 128 / ftWidth ft → fvLanes (ftWidth ft) (joinElements (ftWidth ft) l % 2 ^ 128) = l.map (· % 2 ^ ftWidth ft)) ∧
  (∀ (s : State) (w : Fin 256) (vd vs1 vs2 : BitVec 5) (et : BitVec 3) (ew : Nat), s.wickIssues w = true → (s.wick w).level1 = false → etWidth et = some ew →
     let x := s.wick w
     let a := vs1.toNat
     let b := vs2.toNat
     let m := 2 ^ ew
     let c := (x.reg vs2).toNat
     let ends := fun (i : Instr) (h0 h1 : Nat) => Becomes i s w (x.pc + 1) (x.setSv vd.toNat h0 h1 false 0)
     let put := fun (i : Instr) (f : Nat → Nat → Nat) => ends i (perElement ew f (x.half a 0) (x.half b 0)) (perElement ew f (x.half a 1) (x.half b 1))
     let shift := fun (i : Instr) (f : List Nat → List Nat) => ends i (joinElements ew (f (elements ew (x.half a 0)))) (joinElements ew (f (elements ew (x.half a 1))))
     x.sh a = false →
     (x.sh b = false →
       put (.svAdd w vd vs1 vs2 et false 0) (fun p q => p + q) ∧
       put (.svSub w vd vs1 vs2 et false 0) (fun p q => p + (m - q % m)) ∧
       put (.svAnd w vd vs1 vs2 et false 0) (fun p q => p &&& q) ∧
       put (.svOr w vd vs1 vs2 et false 0) (fun p q => p ||| q) ∧
       put (.svXor w vd vs1 vs2 et false 0) (fun p q => p ^^^ q) ∧
       put (.svAndn w vd vs1 vs2 et false 0) (fun p q => p &&& complement ew q) ∧
       put (.svMinu w vd vs1 vs2 et false 0) (fun p q => if p ≤ q then p else q) ∧
       put (.svMaxu w vd vs1 vs2 et false 0) (fun p q => if p ≤ q then q else p) ∧
       put (.svCmpeq w vd vs1 vs2 et false 0) (fun p q => if p = q then m - 1 else 0) ∧
       put (.svCmpltu w vd vs1 vs2 et false 0) (fun p q => if p < q then m - 1 else 0) ∧
       put (.svMul w vd vs1 vs2 et false 0) (fun p q => p * q) ∧
       put (.svMulhu w vd vs1 vs2 et false 0) (fun p q => p * q / m)) ∧
     shift (.svNot w vd vs1 0 et false 0) (fun l => l.map (complement ew)) ∧
     shift (.svSll w vd vs1 vs2 et false 0) (fun l => l.map fun p => p * 2 ^ (c % ew)) ∧
     shift (.svSrl w vd vs1 vs2 et false 0) (fun l => l.map fun p => p / 2 ^ (c % ew)) ∧
     shift (.svSra w vd vs1 vs2 et false 0) (fun l => l.map fun p => wrapInt ew (signedOf ew p / 2 ^ (c % ew))) ∧
     shift (.svRote w vd vs1 vs2 et false 0) (fun l => l.rotateRight c)) ∧
  (∀ (s : State) (w : Fin 256) (vd vs1 vs2 aux : BitVec 5) (et : BitVec 3) (ew : Nat), s.wickIssues w = true → (s.wick w).level1 = false → etWidth et = some ew →
     let x := s.wick w
     let d := vd.toNat
     let a := vs1.toNat
     let b := vs2.toNat
     let ends := fun (i : Instr) (h0 h1 : Nat) => Becomes i s w (x.pc + 1) (x.setSv d h0 h1 false 0)
     let put := fun (i : Instr) (f : Nat → Nat → Nat) => ends i (perElement ew f (x.half a 0) (x.half b 0)) (perElement ew f (x.half a 1) (x.half b 1))
     let one := fun (i : Instr) (f : Nat → Nat) => ends i (joinElements ew ((elements ew (x.half a 0)).map f)) (joinElements ew ((elements ew (x.half a 1)).map f))
     let wide := fun (i : Instr) (n : Nat) (f : List Int → List Int) =>
       let half := fun h => joinElements n ((((f (halfProducts ew (aux.getLsbD 0) (x.half a h) (x.half b h))).zip (elements n (x.half d h)))).map fun p => wrapInt n (p.1 + if aux.getLsbD 1 then (p.2 : Int) else 0))
       ends i (half 0) (half 1)
     x.sh a = false →
     (∀ q, x.modulus ew = some q →
       (x.sh b = false →
         put (.madd w vd vs1 vs2 et false 0) (fun p r => (p + r) % q) ∧
         put (.msub w vd vs1 vs2 et false 0) (fun p r => (p % q + q - r % q) % q) ∧
         put (.mmul w vd vs1 vs2 et false 0) (fun p r => p * r % q)) ∧
       one (.mred w vd vs1 0 et false 0) (· % q) ∧
       one (.mneg w vd vs1 0 et false 0) (fun p => (q - p % q) % q)) ∧
     (x.sh b = false → aux.toNat < 4 → (aux.getLsbD 1 = true → x.sh d = false) →
       (ew = 12 ∨ ew = 36 → wide (.wmule w vd vs1 vs2 et false aux) (2 * ew) (everySecond false) ∧ wide (.wmulo w vd vs1 vs2 et false aux) (2 * ew) (everySecond true)) ∧
       (ew = 12 ∨ ew = 24 → wide (.dot w vd vs1 vs2 et false aux) 72 fun l => [l.sum]))) ∧
  (∀ (s : State) (w : Fin 256) (vd vs1 vs2 : BitVec 5) (et : BitVec 3) (ew : Nat), s.wickIssues w = true → (s.wick w).level1 = false → etWidth et = some ew →
     let x := s.wick w
     let d := vd.toNat
     let a := vs1.toNat
     let g := (x.reg vs1).toNat
     let ends := fun (i : Instr) (h0 h1 : Nat) => Becomes i s w (x.pc + 1) (x.setSv d h0 h1 false 0)
     ends (.vsplat w vd vs1 vs2 et false 0) (joinElements ew (List.replicate (72 / ew) g)) (joinElements ew (List.replicate (72 / ew) g)) ∧
     ends (.vins w vd vs1 vs2 et false 0) g (if x.sh d then 0 else x.half d 1) ∧
     ends (.vins w vd vs1 vs2 et false 1) (if x.sh d then 0 else x.half d 0) g ∧
     (x.sh a = false →
       WritesReg (.vext w vd vs1 vs2 et false 0) s w vd (BitVec.ofNat 72 (x.half a 0)) ∧
       WritesReg (.vext w vd vs1 vs2 et false 1) s w vd (BitVec.ofNat 72 (x.half a 1)) ∧
       ends (.vswaph w vd vs1 vs2 et false 0) (x.half a 1) (x.half a 0) ∧
       ends (.vmov w vd vs1 vs2 et false 0) (x.half a 0) (x.half a 1)) ∧
     (x.sh a = true → x.oddShared [d, a] = false → Becomes (.vmov w vd vs1 vs2 et true 0) s w (x.pc + 1) (x.setShares d (x.shares a) 0)) ∧
     ends (.vzero w vd 0 0 et false 0) 0 0)

/-- R312, R313: shares made from fresh values combine to the value they were split from, in Boolean form and modulo 2^w; modulo q, for a value whose elements are below q.

R306, R307, R311, R315: linear instructions on shared values act share by share; a public operand acts on share 0. At second order shared registers are even.

R312, R315: products of shared values, with a shroud generator that has a key for the words they take: the value that the new shares combine to is the product of the values the operands combine to, complemented where the instruction says. A public operand acts on every share; SV.OR's also sets its bits in share 0.

R264, R313, R315: masking, refreshing, unmasking and key extraction, with a shroud generator that has a key for the words they take: the shares of the result combine to the value, whatever the fresh shares are.

R314: conversions between share forms, first order only, with a shroud generator that has a key for the words they take: the value is kept, in the new form. A2BQ keeps it where every share element is below q. -/
def Obligations.SharedVectorResults : Prop :=
  (∀ (et : BitVec 3) (ew : Nat) (v : Nat) (fresh : List Nat), etWidth et = some ew →
     elements ew (combine ew boolRing (splitShares ew boolRing v fresh)) = elements ew v ∧
     elements ew (combine ew (modRing (2 ^ ew)) (splitShares ew (modRing (2 ^ ew)) v fresh)) = elements ew v ∧
     ∀ q, 2 ≤ q → q < 2 ^ ew → (∀ e ∈ elements ew v, e < q) →
       elements ew (combine ew (modRing q) (splitShares ew (modRing q) v fresh)) = elements ew v) ∧
  (∀ (s : State) (w : Fin 256) (vd vs1 vs2 : BitVec 5) (et : BitVec 3) (ew : Nat), s.wickIssues w = true → (s.wick w).level1 = false → etWidth et = some ew →
     let x := s.wick w
     let d := vd.toNat
     let a := vs1.toNat
     let b := vs2.toNat
     let m := 2 ^ ew
     let c := (x.reg vs2).toNat
     let ends := fun (i : Instr) (l : List Nat) => Becomes i s w (x.pc + 1) (x.setShares d l 0)
     let both := fun (i : Instr) (f : Nat → Nat → Nat) => x.sh b = true → x.oddShared [d, a, b] = false → ends i (List.zipWith (perElement ew f) (x.shares a) (x.shares b))
     let public_ := fun (i : Instr) (f : Nat → Nat → Nat) (r : Nat → Nat) => x.sh b = false →
       ends i ((x.shares a).zipIdx.map fun v => perElement ew (fun p q => if v.2 = 0 then f p q else r p) v.1 (x.half b 0))
     let each := fun (i : Instr) (f : List Nat → List Nat) => ends i ((x.shares a).map fun v => joinElements ew (f (elements ew v)))
     x.sh a = true → x.oddShared [d, a] = false →
     both (.svAdd w vd vs1 vs2 et true 0) (fun p q => p + q) ∧ public_ (.svAdd w vd vs1 vs2 et true 0) (fun p q => p + q) id ∧
     both (.svSub w vd vs1 vs2 et true 0) (fun p q => p + (m - q % m)) ∧ public_ (.svSub w vd vs1 vs2 et true 0) (fun p q => p + (m - q % m)) id ∧
     both (.svXor w vd vs1 vs2 et true 0) (fun p q => p ^^^ q) ∧ public_ (.svXor w vd vs1 vs2 et true 0) (fun p q => p ^^^ q) id ∧
     ends (.svNot w vd vs1 0 et true 0) ((x.shares a).zipIdx.map fun v => perElement ew (fun p _ => if v.2 = 0 then complement ew p else p) v.1 0) ∧
     each (.svSll w vd vs1 vs2 et true 0) (fun l => l.map fun p => p * 2 ^ (c % ew)) ∧
     each (.svSrl w vd vs1 vs2 et true 0) (fun l => l.map fun p => p / 2 ^ (c % ew)) ∧
     each (.svRote w vd vs1 vs2 et true 0) (fun l => l.rotateRight c) ∧
     ∀ q, x.modulus ew = some q →
       both (.madd w vd vs1 vs2 et true 0) (fun p r => (p + r) % q) ∧ public_ (.madd w vd vs1 vs2 et true 0) (fun p r => (p + r) % q) (· % q) ∧
       both (.msub w vd vs1 vs2 et true 0) (fun p r => (p % q + q - r % q) % q) ∧ public_ (.msub w vd vs1 vs2 et true 0) (fun p r => (p % q + q - r % q) % q) (· % q) ∧
       each (.mred w vd vs1 0 et true 0) (fun l => l.map (· % q)) ∧
       each (.mneg w vd vs1 0 et true 0) (fun l => l.map fun p => (q - p % q) % q)) ∧
  (∀ (s : State) (w : Fin 256) (vd vs1 vs2 : BitVec 5) (et : BitVec 3) (ew : Nat), s.wickIssues w = true → (s.wick w).level1 = false → etWidth et = some ew →
     let x := s.wick w
     let d := vd.toNat
     let a := vs1.toNat
     let b := vs2.toNat
     let n := if x.order2 then 3 else 2
     let ends := fun (i : Instr) (l : List Nat) => Becomes i s w (x.pc + 1) (x.setShares d l 0)
     let product := fun (i : Instr) (r : Ring) (f : Nat → Nat → Nat) => ∃ l, l.length = n ∧ BecomesDrawing i s w (x.pc + 1) (x.setShares d l 0) ∧
       elements ew (combine ew r l) = List.zipWith (fun p q => f p q % 2 ^ ew) (elements ew (combine ew r (x.shares a))) (elements ew (combine ew r (x.shares b)))
     let public_ := fun (i : Instr) (f : Nat → Nat → Nat → Nat) => ends i ((x.shares a).zipIdx.map fun v => perElement ew (f v.2) v.1 (x.half b 0))
     x.sh a = true →
     (x.sh b = true → x.oddShared [d, a, b] = false →
       (x.shroud.serves n →
         product (.svAnd w vd vs1 vs2 et true 0) boolRing (fun p q => p &&& q) ∧
         product (.svOr w vd vs1 vs2 et true 0) boolRing (fun p q => p ||| q) ∧
         product (.svAndn w vd vs1 vs2 et true 0) boolRing (fun p q => p &&& complement ew q) ∧
         product (.svMul w vd vs1 vs2 et true 0) (modRing (2 ^ ew)) (fun p q => p * q)) ∧
       ∀ q, x.modulus ew = some q → x.shroud.serves (2 * n) → product (.mmul w vd vs1 vs2 et true 0) (modRing q) (fun p r => p * r % q)) ∧
     (x.sh b = false → x.oddShared [d, a] = false →
       public_ (.svAnd w vd vs1 vs2 et true 0) (fun _ p q => p &&& q) ∧
       public_ (.svOr w vd vs1 vs2 et true 0) (fun k p q => if k = 0 then (p &&& complement ew q) ^^^ q else p &&& complement ew q) ∧
       public_ (.svAndn w vd vs1 vs2 et true 0) (fun _ p q => p &&& complement ew q) ∧
       public_ (.svMul w vd vs1 vs2 et true 0) (fun _ p q => p * q) ∧
       ∀ q, x.modulus ew = some q → public_ (.mmul w vd vs1 vs2 et true 0) (fun _ p r => p * r % q))) ∧
  (∀ (s : State) (w : Fin 256) (vd vs1 vs2 aux : BitVec 5) (et : BitVec 3) (ew : Nat) (r : Ring) (q : Option Nat), s.wickIssues w = true → (s.wick w).level1 = false → etWidth et = some ew →
     let x := s.wick w
     let d := vd.toNat
     let a := vs1.toNat
     let n := if x.order2 then 3 else 2
     let splits := fun (i : Instr) (r : Ring) (v : Nat) => ∃ fresh, fresh.length + 1 = n ∧ BecomesDrawing i s w (x.pc + 1) (x.setShares d (splitShares ew r v fresh) 0)
     (x.maskRing ew aux = some (r, q) → aux.toNat < 4 →
       (x.sh a = false → x.oddShared [d] = false → x.shroud.serves ((n - 1) * randomWords q) → splits (.mask w vd vs1 vs2 et true aux) r (x.half a 0)) ∧
       (x.sh a = true → x.oddShared [d, a] = false → x.shroud.serves ((n - 1) * randomWords q) →
         ∃ fresh, fresh.length + 1 = n ∧ BecomesDrawing (.refresh w vd vs1 vs2 et true aux) s w (x.pc + 1)
           (x.setShares d (fresh.foldl (fun v f => perElement ew r.add v f) ((x.shares a).getD 0 0) :: List.zipWith (perElement ew r.sub) ((x.shares a).drop 1) fresh) 0)) ∧
       (x.sh a = true → x.oddShared [a] = false →
         Becomes (.unm w vd vs1 vs2 et true aux) s w (x.pc + 1) (x.setSv d (combine ew r (x.shares a)) 0 false 0) ∧
         WritesReg (.unmg w vd vs1 vs2 et true aux) s w vd (BitVec.ofNat 72 (combine ew r (x.shares a))))) ∧
     (x.keyed = true → x.oddShared [d] = false → aux.toNat % 4 = 0 → x.shroud.serves (n - 1) →
       splits (.vkey w vd vs1 vs2 et true aux) boolRing (x.wkr.extractLsb' (64 * (aux.toNat / 4)) 64).toNat)) ∧
  (∀ (s : State) (w : Fin 256) (vd vs1 vs2 : BitVec 5) (et : BitVec 3) (ew : Nat), s.wickIssues w = true → (s.wick w).level1 = false → (s.wick w).order2 = false → etWidth et = some ew →
     let x := s.wick w
     let d := vd.toNat
     let p := x.half vs1.toNat 0
     let r := x.half vs1.toNat 1
     let splits := fun (i : Instr) (g : Ring) (v : Nat) => ∃ fresh, BecomesDrawing i s w (x.pc + 1) (x.setShares d (splitShares ew g v [fresh]) 0)
     x.sh vs1.toNat = true →
     (x.shroud.serves 4 → splits (.a2b w vd vs1 vs2 et true 0) boolRing (perElement ew (fun a b => a + b) p r)) ∧
     (x.shroud.serves 1 → splits (.b2a w vd vs1 vs2 et true 0) (modRing (2 ^ ew)) (perElement ew (fun a b => a ^^^ b) p r)) ∧
     ∀ q, x.modulus ew = some q →
       (x.shroud.serves 2 → splits (.b2aq w vd vs1 vs2 et true 0) (modRing q) (perElement ew (fun a b => (a ^^^ b) % q) p r)) ∧
       (x.shroud.serves 6 → ∃ v, splits (.a2bq w vd vs1 vs2 et true 0) boolRing v ∧
         ((∀ e ∈ elements ew p, e < q) → (∀ e ∈ elements ew r, e < q) → v = perElement ew (fun a b => (a + b) % q) p r)))

/-- R262, R270, R272, R273, R285, R293, R332: forms and accesses that end the attempt with a fault: reserved bits that are not zero, instructions LEVEL1 lacks, a target beyond the program, data memory that does not exist, a granule of the other kind.

R275, R281, R285, R292: how a fault of a wick ends the attempt: the job of an owner program fails with the status of its error, and any other fault is reported against the wick, or its FV island, with the code of R627; an MPU fault carries its address and pc, a program fault its code and pc. -/
def Obligations.WickFaults : Prop :=
  (∀ (s : State) (w : Fin 256) (rd rs1 rs2 : BitVec 5) (rsv : BitVec 9) (imm off : BitVec 20) (c : BitVec 24), s.wickIssues w = true →
     let x := s.wick w
     let a := x.address rs1 imm
     let near : Word72 := x.pc.setWidth 72 + off.signExtend 72
     (rsv ≠ 0 → exec (.add w rd rs1 rs2 rsv) s = .next (s.wickFault w .illegal) ∧ exec (.spperm w rd rs1 rs2 rsv) s = .next (s.wickFault w .illegal)) ∧
     (x.level1 = true → exec (.limb w rd rs1 rs2 0) s = .next (s.wickFault w .illegal) ∧ exec (.carry w rd rs1 rs2 0) s = .next (s.wickFault w .illegal) ∧
       exec (.lk2 w rd 0 c) s = .next (s.wickFault w .illegal)) ∧
     (x.reg rs1 = 0 → x.instrCount ≤ near.toNat → exec (.bz w rs1 0 off) s = .next (s.wickFault w .illegal)) ∧
     (exec (.dbnz w 0 0 off) s = .next (s.wickFault w .illegal)) ∧
     (0x3FFF < a → exec (.ld w rd rs1 imm) s = .next (s.wickFault w .address) ∧ exec (.st w rs1 rs2 imm) s = .next (s.wickFault w .address)) ∧
     (a ≤ 0x3FFF → x.secret a = true → exec (.ld w rd rs1 imm) s = .next (s.wickFault w .secret) ∧ exec (.st w rs1 rs2 imm) s = .next (s.wickFault w .secret))) ∧
  (∀ (s : State) (w a : Nat) (c : BitVec 8) (j : Job), (s.wick w).job = some j.id → s.findJob j.id = some j →
     let report := fun (code : Nat) (u : UnitId) (d : Nat) => s.reportFault code u (uWick w) (uSlice j.slice) d
     let carries := fun (code d : Nat) (r : WickReport) => (s.setWick w { s.wick w with report := some r }).reportFault code (uWick w) (uWick w) (uSlice j.slice) d
     ((s.wick w).owner = true →
       s.wickFault w .illegal = s.failJob j.id jsFormat ∧ s.wickFault w .address = s.failJob j.id jsFormat ∧ s.wickFault w (.program c) = s.failJob j.id jsFormat ∧
       s.wickFault w .budget = s.failJob j.id jsFormat ∧ s.wickFault w .secret = s.failJob j.id jsAccess ∧ s.wickFault w (.mpu a) = s.failJob j.id jsAccess ∧
       s.wickFault w .imprecise = s.failJob j.id jsAccess ∧ s.wickFault w .island = report 0x0204 (uIsland w) 0) ∧
     ((s.wick w).owner = false →
       s.wickFault w .illegal = report 0x0103 (uWick w) 0 ∧ s.wickFault w .address = report 0x0104 (uWick w) 0 ∧ s.wickFault w .secret = report 0x0105 (uWick w) 0 ∧
       s.wickFault w (.mpu a) = carries 0x0106 a { address := a, pc := (s.wick w).pc, code := 0 } ∧ s.wickFault w .imprecise = report 0x0107 (uWick w) 0 ∧ s.wickFault w (.program c) = carries 0x0108 0 { address := 0, pc := (s.wick w).pc, code := c } ∧
       s.wickFault w .budget = report 0x0109 (uWick w) 0 ∧ s.wickFault w .island = report 0x0204 (uIsland w) 0))

/-- R114 to R124, R136, R175, R183, R184, R186, R187, R190: the results of the KEM commands, with randomness and shroud words at hand and nothing drawn by the attempt before: a generated key leaves as public key and blob or enters its slot, an encapsulation gives ciphertext and shared key, a decapsulation its shared key. -/
def Obligations.KemResults : Prop :=
  ∀ (s : State) (id : Nat) (j : Job),
    let a := j.entry.alg
    let w5 := j.entry.w5.toNat
    let seed := if ctlSeedIn w5 then cut j.data.input 0 j.entry.w2.toNat else s.drawnBy j.instOf (seedSize a)
    let key := if isMce a then mcePrivate a j.entry.mceF seed else seed
    s.canDraw j.instOf 4 → s.canDraw 16 4 → s.shroudReady j = true → j.kept = [] →
    (s.attemptOf id 0x0101 = some j →
      (ctlToVault w5 = true → Completes (.kemKeygen id true) s fun t =>
        JobEnds t id jsOk (anyPublic a key).length (anyPublic a key) ∧ (t.findJob id).map (·.keyOut) = some (some (ctlSlot w5, j.defaultKey a 1 key))) ∧
      (ctlToVault w5 = false → ∀ b, s.makeBlob j.slice j.keyRules.bindBlobs (j.defaultKey a 1 key) = some b → Finishes (.kemKeygen id true) s id (anyPublic a key ++ b))) ∧
    (∀ k, s.attemptOf id 0x0102 = some j → s.keyFor j k →
      ∃ e, (isHybrid a = true → j.instOf ≠ 16 → e = s.drawnBy 16 (hybridShareSize a)) ∧
        let r := anyEncaps a (k.publicKey a) (s.drawnBy j.instOf 32) e
        Finishes (.kemEncaps id true) s id (r.1 ++ r.2)) ∧
    (∀ key, s.attemptOf id 0x0103 = some j → s.keyFor j (.priv key) →
      Finishes (.kemDecaps id true) s id (anyDecaps a key (cut j.data.input 0 (cipherSize a)))) ∧
    (s.attemptOf id 0x0110 = some j →
      ∃ gen, gen ≠ 0 ∧ gen < 65536 ∧ gen ≠ (s.mce (j.drawn.getD 0 0)).gen.toNat ∧ Finishes (.mceCacheLoad id) s id (mceRef (j.drawn.getD 0 0) gen)) ∧
    (s.attemptOf id 0x0111 = some j → Finishes (.mceCacheDrop id) s id [])

/-- R119 to R126, R136 to R139, R149 to R154, R158 to R164, R168, R173: the results of the signature commands and of the lantern cache, with randomness and shroud words at hand and nothing drawn by the attempt before. An ML-DSA attempt gives its signature where its loop finds one, else its job runs again, three times at most; an SLH-DSA job that holds a lantern entry takes the layers the entry serves. A task of a build that ends leaves the rest of them; the last one ends the build. -/
def Obligations.SignatureResults : Prop :=
  ∀ (s : State) (id : Nat) (j : Job),
    let a := j.entry.alg
    let w5 := j.entry.w5.toNat
    let input := cut j.data.input 0 j.entry.w2.toNat
    let p := verifyParts a input
    let seed := if ctlSeedIn w5 then input else s.drawnBy j.instOf 32
    s.canDraw j.instOf 2 → s.shroudReady j = true → j.kept = [] →
    (s.attemptOf id 0x0201 = some j →
      (ctlToVault w5 = true → Completes (.sigKeygen id true) s fun t =>
        JobEnds t id jsOk (anyPublic a seed).length (anyPublic a seed) ∧ (t.findJob id).map (·.keyOut) = some (some (ctlSlot w5, j.defaultKey a 1 seed))) ∧
      (ctlToVault w5 = false → ∀ b, s.makeBlob j.slice j.keyRules.bindBlobs (j.defaultKey a 1 seed) = some b → Finishes (.sigKeygen id true) s id (anyPublic a seed ++ b))) ∧
    (∀ key, s.attemptOf id 0x0202 = some j → s.keyFor j (.priv key) →
      let rnd := if j.entry.hedged then s.drawnBy j.instOf (if isSlh a then slhN a else 32) else if isSlh a then (anyPublic a key).take (slhN a) else List.replicate 32 0#8
      let root := s.rootFor j.entry.session 0 a key
      (isSlh a = true → s.heldLantern id = none → Finishes (.sigSign id true) s id (slhSignature a key root (formatted input) rnd)) ∧
      (∀ e, isSlh a = true → s.heldLantern id = some e → Finishes (.sigSign id true) s id (slhSignWith a key root (formatted input) rnd (s.servedLayers e))) ∧
      (isSlh a = false → Completes (.sigSign id true) s fun t => match (dsaSign a key (formatted input) rnd).2 with
        | some sig => JobEnds t id jsOk sig.length sig
        | none => if j.retries < 3 then (t.findJob id).map (fun k => (k.phase, k.retries)) = some (.waiting, j.retries + 1) else JobEnds t id jsInternal 0 [])) ∧
    (∀ k, s.attemptOf id 0x0203 = some j → s.keyFor j k → Ends (.sigVerify id true) s id (if verifies a (k.publicKey a) p.2 p.1 then jsOk else jsVerifyFail) 0) ∧
    (∀ key b n t, s.attemptOf id 0x0210 = some j → s.keyFor j (.priv key) → j.build = some b → b.tasks.find? (fun t => t.number = n && !t.units.isEmpty) = some t →
      let rest := b.tasks.filter fun t => t.number ≠ n
      (b.started = lanternTrees a → rest = [] → Ends (.lanternBuild id { task := n, passed := true }) s id jsOk (s.buildSize id)) ∧
      (b.started ≠ lanternTrees a ∨ rest ≠ [] → Completes (.lanternBuild id { task := n, passed := true }) s fun t => (t.findJob id).bind (·.build) = some { b with tasks := rest })) ∧
    (s.attemptOf id 0x0211 = some j →
      (s.lanternFor j = none → Ends (.lanternDrop id) s id jsOk 0) ∧
      ∀ e, s.lanternFor j = some e → (e.pins = [] → Ends (.lanternDrop id) s id jsOk e.size) ∧ (e.pins ≠ [] → exec (.lanternDrop id) s = .next s))

/-- R196 to R203: the results of the classical commands, with randomness at hand and nothing drawn by the attempt before. -/
def Obligations.ClassicalResults : Prop :=
  ∀ (s : State) (id : Nat) (j : Job),
    let a := j.entry.alg
    let w5 := j.entry.w5.toNat
    let input := cut j.data.input 0 j.entry.w2.toNat
    s.canDraw j.instOf 4 → s.canDraw 16 4 → j.kept = [] →
    (s.attemptOf id 0x0501 = some j →
      let key := if ctlSeedIn w5 then input else drawnKey a (s.drawnBy j.instOf (drawnSize a))
      (ctlToVault w5 = true → Completes (.clKeygen id true) s fun t =>
        JobEnds t id jsOk (anyPublic a key).length (anyPublic a key) ∧ (t.findJob id).map (·.keyOut) = some (some (ctlSlot w5, j.defaultKey a 1 key))) ∧
      (ctlToVault w5 = false → ∀ c, s.makeBlob j.slice j.keyRules.bindBlobs (j.defaultKey a 1 key) = some c → Finishes (.clKeygen id true) s id (anyPublic a key ++ c))) ∧
    (∀ key, s.attemptOf id 0x0502 = some j → s.keyFor j (.priv key) →
      let rnd := if (a = 0x50 && bitOf w5 0) || j.entry.hedged then s.drawnBy j.instOf (if a = 0x50 then digestSize (bitsOf w5 15 8) else 32) else []
      Finishes (.clSign id true) s id (classicalSign a w5 key (classicalParts input).1 (classicalParts input).2 rnd)) ∧
    (∀ k, s.attemptOf id 0x0503 = some j → s.keyFor j k →
      let n := sigBytes a (k.publicKey a)
      let p := classicalParts (input.drop n)
      Ends (.clVerify id true) s id (if classicalVerify a w5 (k.publicKey a) p.1 p.2 (input.take n) then jsOk else jsVerifyFail) 0) ∧
    (∀ key, s.attemptOf id 0x0504 = some j → s.keyFor j (.priv key) →
      let peer := cut j.data.input 0 (publicSize a)
      let shared := classicalShared a key peer
      Completes (.clAgree id true) s fun t => if agreeOk a peer shared then JobEnds t id jsOk shared.length shared else JobEnds t id jsFormat 0 [])

/-- R239, R243, R245, R246, R248 to R250: the results of the digest commands. A handle carries a fresh generation; a finish of an unattached context gives the digest of what it absorbed, and one of an attached context waits for its boundary, or gives what a boundary gave it before its turn.

R238 to R242, R247, R249: at the end of an item, the contexts attached to its stream, and carried by its digester, absorb it, each item once and in order, and where no finish waits nothing else changes but where the digester stands, the streams' and jobs' records of what passed, the caches' marks of a changed context, and counters; the input of a job passes each digester of its octets only in its turn. -/
def Obligations.DigestResults : Prop :=
  (∀ (s : State) (id : Nat) (j : Job) (k : Nat) (c : DigestContext),
     let a := j.entry.alg
     let w5 := j.entry.w5.toNat
     let input := cut j.data.input 0 j.entry.w2.toNat
     let leaves := fun (i : Instr) (r : Bytes) =>
       (ctlToVault w5 = true → Completes i s fun t => JobEnds t id jsOk 0 [] ∧ ∃ v, (t.findJob id).map (·.keyOut) = some (some (digestSlot w5, v)) ∧ v.key = r) ∧
       (ctlToVault w5 = false → Finishes i s id (if j.entry.w3 = 0 then [] else r))
     (s.attemptOf id 0x0301 = some j → leaves (.digest id) (digestOf a input (outLen a w5))) ∧
     (s.attemptOf id 0x0302 = some j → s.canDraw 16 1 →
       ∃ gen, gen ≠ 0 ∧ gen < 65536 ∧ gen ≠ (s.context (j.drawn.getD 0 0)).gen.toNat ∧ Finishes (.digOpen id) s id (digestHandle (j.drawn.getD 0 0) gen)) ∧
     (s.openContext j.entry = some (k, c) →
       (s.attemptOf id 0x0303 = some j → Finishes (.digUpdate id) s id []) ∧
       (s.attemptOf id 0x0304 = some j → c.attach = .none → leaves (.digFinish id) (digestOf c.alg.toNat (if c.absorbing then c.absorbed else []) c.outLen)) ∧
       (s.attemptOf id 0x0304 = some j → c.attach ≠ .none → (∀ r l, j.kept = r :: l → leaves (.digFinish id) r) ∧ (j.kept = [] → exec (.digFinish id) s = .next s)) ∧
       (s.attemptOf id 0x0305 = some j →
         let r := c.result.getD []
         (r.length ≤ j.entry.w4.toNat → Finishes (.digRead id) s id r) ∧ (j.entry.w4.toNat < r.length → Ends (.digRead id) s id jsLengthShort r.length)) ∧
       (s.attemptOf id 0x0306 = some j → Finishes (.digClose id) s id [])) ∧
     (s.openContext j.entry = none → s.attemptOf id 0x0305 = some j → Ends (.digRead id) s id jsFormat 0)) ∧
  (∀ (s : State) (d : Fin 32), (∀ j ∈ s.jobs, j.phase ≠ .turn) → (∀ p ∈ s.contexts, p.2.finishJobs = []) →
     let served := s.inService (uDigester d.val) = true ∧ s.isLit = true
     let same := fun (t : State) => { t with contexts := s.contexts, dict := s.dict, digesterAt := s.digesterAt, cache := s.cache, streams := s.streams, jobs := s.jobs } = s
     let absorbs := fun (t : State) (item : Nat) (reached : Attach) (own : Option Nat) (b : Bytes) => ∀ k,
       let c := s.context k
       let due := c.isOpen = true ∧ c.lastItem < item ∧ s.carriedBy k d.val = true
       (due ∧ c.objectJob = none ∧ c.attach = reached → t.context k = { c.absorb b with lastItem := item }) ∧
       (due ∧ c.objectJob.isSome = true ∧ c.objectJob = own → t.context k = { c with lastItem := item }) ∧
       (¬due ∨ (c.objectJob = none ∧ c.attach ≠ reached) ∨ (c.objectJob.isSome = true ∧ c.objectJob ≠ own) → t.context k = c)
     (¬served → ∀ item, exec (.digesterBoundary d item) s = .next s) ∧
     (served → ∀ (n : Fin 1024) (received : Bool) (b : Bytes),
       let x := s.stream n.val
       ((x.passing.find? fun r => s.awaitsRecord d.val n.val r) = none → exec (.digesterBoundary d (.record n received b)) s = .next s) ∧
       (∀ r, (x.passing.find? fun r => s.awaitsRecord d.val n.val r) = some r →
         (r.received ≠ received ∨ r.bytes ≠ b ∨ s.digesterOctet d.val ≠ s.streamOctet n.val → exec (.digesterBoundary d (.record n received b)) s = .next s) ∧
         (r.received = received → r.bytes = b → s.digesterOctet d.val = s.streamOctet n.val → Completes (.digesterBoundary d (.record n received b)) s fun t =>
           absorbs t r.number (.stream n.val received) x.currentJob b ∧ t.jobs = s.jobs ∧ same t ∧ (∀ m, m ≠ n.val → t.stream m = s.stream m)))) ∧
     (served → ∀ (id : Nat) (j : Job), s.findJob id = some j →
       let row := Instr.digesterBoundary d (.input id)
       (s.snoops j = false ∨ s.inputRead j = false ∨ s.inputTurn d.val j = false ∨ (s.sliceOctets j.slice).contains (s.digesterOctet d.val) = false → exec row s = .next s) ∧
       (j.snooped.contains d.val = false → s.snoops j = true → s.inputRead j = true → s.inputTurn d.val j = true → (s.sliceOctets j.slice).contains (s.digesterOctet d.val) = true → Completes row s fun t =>
         absorbs t (id + 1) (.queue j.slot) none j.inputBytes ∧ (t.findJob id).map (·.snooped) = some (j.snooped ++ [d.val]) ∧ t.streams = s.streams ∧ same t)))

/-- R225, R226, R229, R233 to R236: the results of the direct sealer commands, on a sealer whose register holds the job's key. A decryption stages its ciphertext once its tag has checked, and what leaves at its publication is the plaintext; a KWP result leaves from the register's data buffer. -/
def Obligations.SealerResults : Prop :=
  ∀ (s : State) (id : Nat) (j : Job) (key : Bytes), (s.sealer j.sealerOf).job = some id → (s.sealer j.sealerOf).key = some key →
    let a := j.entry.alg
    let input := cut j.data.input 0 j.entry.w2.toNat
    let p := aeadParts input
    let cipher := p.2.2.take (p.2.2.length - 16)
    let n := kwpLength key input
    let buffered := fun (i : Instr) (b : Bytes) => Completes i s fun t => JobEnds t id jsOk b.length [] ∧ (t.sealer j.sealerOf).data = b
    (s.attemptOf id 0x0401 = some j → (a = 0x61 → s.hostAllows j.slice j.entry.w1.toNat j.entry.w2.toNat true false = true) →
      Finishes (.aeadEncrypt id) s id (aeadSeal a key p.1 p.2.1 p.2.2)) ∧
    (s.attemptOf id 0x0402 = some j →
      Completes (.aeadDecrypt id) s fun t =>
        if (aeadOpen a key p.1 p.2.1 cipher (p.2.2.drop cipher.length)).isSome then JobEnds t id jsOk cipher.length cipher else JobEnds t id jsVerifyFail 0 []) ∧
    (j.entry.opcode = 0x0402 → j.status = 0 → j.output = cipher → s.outputBytes j = aeadCrypt a key p.1 (p.2.2.drop cipher.length) cipher) ∧
    (j.entry.opcode = 0x0403 ∨ j.entry.opcode = 0x0404 → j.status = 0 → s.outputBytes j = (s.sealer j.sealerOf).data) ∧
    (s.attemptOf id 0x0403 = some j → buffered (.kwpWrap id) (kwpWrap key input)) ∧
    (s.attemptOf id 0x0404 = some j → Completes (.kwpUnwrap id) s fun t =>
      if kwpAccepts key input = false then JobEnds t id jsVerifyFail 0 []
      else if j.entry.w4.toNat < n then JobEnds t id jsLengthShort n []
      else JobEnds t id jsOk (kwpUnwrap key input n).length [] ∧ (t.sealer j.sealerOf).data = kwpUnwrap key input n)

/-- R60, R70, R79, R289, R459, R460, R468, R470 to R475: the results of the session, key, owner-program and entropy commands.

R288 to R291: what ends the run of an owner program: a program that executes DONE at once, with a status byte and a length. -/
def Obligations.SessionKeyAndProgramResults : Prop :=
  (∀ (s : State) (id : Nat) (j : Job),
     let n := j.entry.session
     let w5 := j.entry.w5.toNat
     let input := cut j.data.input 0 j.entry.w2.toNat
     let keyOut := fun (t : State) => (t.findJob id).map (·.keyOut)
     (s.attemptOf id 0x0601 = some j → s.canDraw 16 1 →
       ∃ gen, gen ≠ 0 ∧ gen < 65536 ∧ gen ≠ (s.session n).lastGen.toNat ∧ Finishes (.sessionOpen id) s id (leBytes 2 n ++ leBytes 2 gen ++ leBytes 4 0)) ∧
     (s.attemptOf id 0x0602 = some j → (s.earlierJobs n id = false → Finishes (.sessionClose id) s id []) ∧ (s.earlierJobs n id = true → exec (.sessionClose id) s = .next s)) ∧
     (s.attemptOf id 0x0603 = some j → Completes (.keyImport id) s fun t => match s.openBlob j.slice input with
       | some b => JobEnds t id jsOk 0 [] ∧ keyOut t = some (some (ctlSlot w5, { alg := BitVec.ofNat 8 b.alg, uses := BitVec.ofNat 16 b.uses, origin := 2, exportable := b.exportable, persist := false, key := b.key }))
       | none => JobEnds t id jsKeyInvalid 0 []) ∧
     (∀ k b, s.attemptOf id 0x0604 = some j → s.vaultKey (ctlSlot w5) = some k → k.exportable = true → s.makeBlob j.slice j.keyRules.bindBlobs k = some b →
       (b.length ≤ j.entry.w4.toNat → Finishes (.keyExport id) s id b) ∧ (j.entry.w4.toNat < b.length → Ends (.keyExport id) s id jsLengthShort b.length)) ∧
     (s.attemptOf id 0x0605 = some j → Finishes (.keyErase id) s id []) ∧
     (s.attemptOf id 0x0610 = some j →
       let r := s.envelopeCheck (cut j.data.input 0 8923)
       Completes (.oskInstall id) s fun t => if r.1 = jsOk then JobEnds t id jsOk 0 [] ∧ keyOut t = some (some (509, deviceKey r.2)) else JobEnds t id r.1 0 []) ∧
     (∀ k, s.attemptOf id 0x0611 = some j → s.roots.attestSecret = some k → s.keyed = true → s.shroudReady j = true →
       Finishes (.attest id) s id (s.attestBody ++ kmac256 k (cut j.data.input 0 32 ++ s.attestBody) 32 "PYRS-ATTEST")) ∧
     (s.attemptOf id 0x0801 = some j → s.canDraw 16 1 → j.kept = [] → Finishes (.random id) s id (s.drawnBy 16 j.entry.w2.toNat)) ∧
     (∀ k, s.attemptOf id 0x0F01 = some j → s.canDraw 16 1 → imageFormOk 2 input = true → leNat (leBytes 32 (s.entry Key.wickProgramsOwnerProgramKeyHash)) ≠ 0 → s.freeProgram j.slice = some k →
       let verified := sha3_256 (cut j.data.keyA 0 2592) = leBytes 32 (s.entry Key.wickProgramsOwnerProgramKeyHash) ∧
         mldsa87Verifies (cut j.data.keyA 0 2592) (input.take (input.length - 4627)) (input.drop (input.length - 4627)) = true
       ∃ gen, gen ≠ 0 ∧ gen < 65536 ∧ gen ≠ (s.program k).gen.toNat ∧ Completes (.ownProgLoad id) s fun t =>
         if verified then JobEnds t id jsOk 8 (leBytes 8 (gen * 2 ^ 16 + k % 16)) else JobEnds t id jsVerifyFail 0 []) ∧
     (s.attemptOf id 0x0F03 = some j → Finishes (.ownProgDrop id) s id [])) ∧
  (∀ (s : State) (id : Nat) (j : Job) (w : Fin 256) (p : Program) (rs1 : BitVec 5) (code : BitVec 8), s.attemptOf id 0x0F02 = some j → j.wick = w.val →
     let x := s.wick w
     let len := (x.reg rs1).toNat
     x.program = some p → p.owner = true → p.maxCycles ≠ 0 → x.job = some id → s.wickIssues w = true → x.stall = .none → x.draining = false →
     s.wickFetch w = some (.done w 0 rs1 0 code) →
     (code = 0 → len ≤ j.entry.w4.toNat → Completes (.ownProgRun id) s fun t => JobEnds t id jsOk len (s.readReservoir (s.extentBase (.owner id true)) len)) ∧
     (code = 0 → j.entry.w4.toNat < len → Ends (.ownProgRun id) s id jsLengthShort len) ∧
     (code.toNat = jsVerifyFail ∨ code.toNat = jsLengthLong → Ends (.ownProgRun id) s id code.toNat 0))

/-- R392, R394 to R396: a RING doorbell that reaches an ACTIVE or PAUSED queue starts its scan: the queue is ACTIVE, or ERROR with cause 01h when a ring read failed its check, D = (T − P) mod S is the doorbell's range from P, and neither the cache, the fetch point nor any job changes. A doorbell that reaches no queue is counted at the function.

R386, R393, R398: INVALIDATE pauses the queue, empties its cache, sets P to the fetch point, discards the reads in flight, and writes the status block with ACK_CMD 1h, the TOKEN, ACK_RESULT 00h and FETCH_INDEX; a status write that fails its check makes the queue ERROR with cause 02h.

R399: ABORT. On a jumbo queue it only writes an acknowledgement with ACK_RESULT 01h. On a compact queue every fetched entry ends ABORTED, and a scan from the fetch point for at most (TAIL − P) mod S, or S − 1, entries begins. -/
def Obligations.DoorbellCommands : Prop :=
  (∀ (s : State) (link : Fin 8) (slice : Fin 512) (queue : Fin 1024) (sized : Bool) (v : BitVec 32), s.linkUp link.val = true →
     let found := s.doorbellSlot link.val slice.val queue.val sized
     (found = none → exec (.ring link slice queue sized v) s = .next (s.bump (Key.hostLinkDoorbellDrops link.val))) ∧
     ∀ g, found = some g →
       let q := s.queue g
       let tail := bitsOf v.toNat 19 0
       q.aborting = none → q.doorbells = [] →
       ((bitsOf v.toNat 31 28 = 0 ∨ bitsOf v.toNat 31 28 = 2) → s.ringSize g ≤ tail → Completes (.ring link slice queue sized v) s fun t => t = { s.bump (Key.queueSlotBadDoorbells g) with activityAt := s.timestamp }) ∧
       (bitsOf v.toNat 31 28 = 0 → tail < s.ringSize g → s.queueState g = qActive ∨ s.queueState g = qPaused →
         Completes (.ring link slice queue sized v) s fun t =>
           let p := t.queue g
           (t.queueState g = qActive ∨ (t.queueState g = qError ∧ t.entry (Key.queueSlotErrorCause g) = 1)) ∧
           p.range = { start := q.scanned, len := (tail + s.ringSize g - q.scanned % s.ringSize g) % s.ringSize g, reread := [] } ∧
           { p with range := q.range, stopped := q.stopped, rereadDue := q.rereadDue, runs := q.runs } = q ∧ p.stopped = false ∧ p.rereadDue = none ∧
           { t with dict := s.dict, queues := s.queues, out := s.out, activityAt := s.activityAt } = s)) ∧
  (∀ (s : State) (link : Fin 8) (slice : Fin 512) (queue : Fin 1024) (token : BitVec 8) (tail : BitVec 20) (g : Nat), s.linkUp link.val = true →
     s.doorbellSlot link.val slice.val queue.val true = some g → (s.queue g).aborting = none → (s.queue g).doorbells = [] →
     s.queueState g = qActive ∨ s.queueState g = qPaused →
     let addr := s.entry (Key.queueSlotStatusAddr g)
     let ok := s.hostAllows slice.val addr 16 false true
     let block := leBytes 4 (s.entry (Key.queueSlotPublished g)) ++ [1#8, token, 0#8, 0#8] ++ leBytes 4 (s.entry (Key.queueSlotFetchPoint g) % 2 ^ 32) ++ leBytes 4 0
     Completes (.invalidate link slice queue true token tail) s fun t =>
       let p := t.queue g
       p.cache = [] ∧ p.scanned = (s.queue g).fetched ∧ p.fetched = (s.queue g).fetched ∧ p.stopped = true ∧ (∀ r ∈ p.runs, r.dropped = true) ∧ t.jobs = s.jobs ∧
       (ok = true → t.queueState g = qPaused ∧ ∃ more, t.out = s.out ++ .hostWrite { link := link.val, pasid := s.slicePasid slice.val, kind := .status, slot := g, job := 0, address := BitVec.ofNat 64 addr, bytes := block } :: more) ∧
       (ok = false → t.queueState g = qError ∧ t.entry (Key.queueSlotErrorCause g) = 2 ∧ t.notices.length = s.notices.length + 1)) ∧
  (∀ (s : State) (link : Fin 8) (slice : Fin 512) (queue : Fin 1024) (token : BitVec 8) (tail : BitVec 20) (g : Nat), s.linkUp link.val = true →
     s.doorbellSlot link.val slice.val queue.val true = some g → (s.queue g).aborting = none → (s.queue g).doorbells = [] →
     (s.jobs.map (·.id)).Nodup → tail.toNat < s.ringSize g → s.queueState g = qActive ∨ s.queueState g = qPaused →
     (s.entry (Key.queueSlotKind g) = 1 → Completes (.abort link slice queue true token tail) s fun t =>
       t.jobs = s.jobs ∧ (t.queue g).cache = (s.queue g).cache ∧ (t.queue g).scanned = (s.queue g).scanned ∧ (t.queue g).aborting = none ∧
       ((t.queue g).ackCmd, (t.queue g).ackToken, (t.queue g).ackResult) = (2#8, token, 1#8)) ∧
     (s.entry (Key.queueSlotKind g) = 0 →
       let p := (s.queue g).fetched
       let d := (tail.toNat + s.ringSize g - p % s.ringSize g) % s.ringSize g
       let left := if d = 0 then s.ringSize g - 1 else d
       let n := min left (s.runLength g p cachePlaces)
       0 < n → s.hostAllows slice.val (s.entryAddr g (p % s.ringSize g)) (64 * n) true false = true →
       Completes (.abort link slice queue true token tail) s fun t =>
         (∀ j ∈ t.jobs, j.slot = g → j.phase = .staged ∧ j.status = BitVec.ofNat 8 jsAborted ∧ j.output = [] ∧ j.units = []) ∧
         t.jobs.filter (fun j => j.slot ≠ g) = s.jobs.filter (fun j => j.slot ≠ g) ∧ t.jobs.map (·.id) = s.jobs.map (·.id) ∧
         (t.queue g).cache = [] ∧ (t.queue g).scanned = p ∧ (t.queue g).aborting = some (token, left) ∧ .ringRead g (p % s.ringSize g) n ∈ t.out))

/-- R395, R396: a run that returns. Its entries up to the first with O = 0 enter the cache in ring order; at such an entry the scan stops, and inside the doorbell's range the stop is short, is counted and is read once more. A run to be discarded leaves no trace.

R396: the re-read of a short stop. The scan goes on from that entry, which is not read again for this doorbell.

R35, R390, R397, R404, R405: a fetch in a cycle of the hub clock, where one queue alone is ready. Its oldest cached entry becomes the youngest job, its fetch point advances by one around the ring, and other queues are left alone. With no entry cached nothing is fetched. -/
def Obligations.ScansAndFetches : Prop :=
  (∀ (s : State) (slot : Fin 2048) (entries : List RingEntry) (r : RingRun) (rest : List RingRun), entries ≠ [] →
     let g := slot.val
     let q := s.queue g
     let es := entries.take r.len
     let good := es.takeWhile RingEntry.owned
     let at_ := q.scanned + good.length
     let short := decide (at_ - q.range.start < q.range.len ∧ at_ ∉ q.range.reread)
     q.runs = r :: rest →
     (r.dropped = true → (∀ w ∈ s.windowWrites, w.slice ≠ s.slotSlice g) → exec (.ringReadComplete slot entries) s = .next (s.setQueue g { q with runs := rest })) ∧
     (r.dropped = false → q.aborting = none → Completes (.ringReadComplete slot entries) s fun t =>
       let p := t.queue g
       p.cache = q.cache ++ numbered q.scanned good ∧ p.scanned = at_ ∧ p.fetched = q.fetched ∧ t.jobs = s.jobs ∧
       (good.length < es.length → p.stopped = true ∧ p.rereadDue = (if short then some at_ else none) ∧ (∀ x ∈ p.runs, x.dropped = true) ∧
         (short = true → s.entry (Key.queueSlotShortDoorbells g) + 1 < 2 ^ 32 → t.entry (Key.queueSlotShortDoorbells g) = s.entry (Key.queueSlotShortDoorbells g) + 1)))) ∧
  (∀ (s : State) (slot : Fin 2048) (i : Nat),
     let g := slot.val
     let q := s.queue g
     let n := s.runLength g i cachePlaces
     q.rereadDue = some i → i = q.scanned → q.cache = [] → q.asked = 0 →
     Completes (.shortDoorbellReread slot) s fun t =>
       let p := t.queue g
       p.rereadDue = none ∧ p.stopped = false ∧ p.range = { q.range with reread := q.range.reread ++ [i] } ∧ p.cache = [] ∧ p.scanned = i ∧ t.jobs = s.jobs ∧
       (s.queueState g = qActive → s.scans = true → s.fnIssues (s.slotLink g) = true → q.aborting = none → s.inFlight g < q.limit → 0 < n →
         s.hostAllows (s.slotSlice g) (s.entryAddr g (i % s.ringSize g)) (64 * n) true false = true → .ringRead g (i % s.ringSize g) n ∈ t.out)) ∧
  (∀ (s : State) (data : HostData), s.hubOn = true → (s.hubCycle + 1) % 16 ≠ 0 ∨ s.steadyPick = none →
     ((∀ g, (s.queue g).cache = []) → Completes (.fetch data) s fun t => t.jobs = s.jobs ∧ t.nextJob = s.nextJob ∧ t.hubCycle = s.hubCycle + 1) ∧
     ∀ (g count : Nat) (e : RingEntry) (rest : List (Nat × RingEntry)), s.readySlots false = [g] → (s.queue g).cache = (count, e) :: rest →
       ((s.queue g).inRound = true → 0 < (s.queue g).credit) → 0 < s.entry (Key.queueSlotWeight g) → (∀ j ∈ s.jobs, j.id < s.nextJob) →
       Completes (.fetch data) s fun t =>
         (∃ j, t.findJob s.nextJob = some j ∧ j.slot = g ∧ j.count = count ∧ j.entry = e ∧ j.data = data ∧ j.slice = s.slotSlice g) ∧
         t.nextJob = s.nextJob + 1 ∧ t.jobs.length = s.jobs.length + 1 ∧ (t.queue g).cache = rest ∧ (t.queue g).fetched = count + 1 ∧
         t.entry (Key.queueSlotFetchPoint g) = (count + 1) % s.ringSize g ∧ t.lastServed = g ∧ ∀ h, h ≠ g → t.queue h = s.queue h)

/-- R52, R163, R259, R260: an attempt starts when the units given are ones the job may get and its keys and windows are good: the job runs on them, and each of its wicks serves it with general registers and counters cleared and WKR holding at most its own key. Without such units it waits, unchanged. Of a lantern build, the next task starts.

R72: a session's context is loaded into the cache, which has room or an unpinned entry to evict; the jobs that waited for it go on to wait for units, as long as no kind of unit is lost, and 4 KiB of reads are charged. While every entry is pinned they wait. -/
def Obligations.AttemptsAndContexts : Prop :=
  (∀ (s : State) (id : Nat) (us : List UnitId) (j : Job), (∀ k ∈ s.jobs, k.phase ≠ .turn) →
     s.findJob id = some j → j.phase = .waiting → s.isLit = true → s.fatal = none → s.clearingAll = false → s.clearing = [] → j.waitsEntropy = false →
     j.entry.opcode = 0x0601 ∨ s.cached j.entry.session = true → (s.jobKeys j).contains .erasing = false → s.digestWaits j = false →
     ((s.jobKeys j).contains .bad = true → isObject j.entry.opcode = false → Ends (.attemptStart id us) s id jsKeyInvalid 0) ∧
     ((s.jobKeys j).contains .bad = false → s.checkWindows j = none →
       (j.build = none → s.unitsFit j us = false → isObject j.entry.opcode = false → exec (.attemptStart id us) s = .next s) ∧
       (∀ b k, j.build = some b → isObject j.entry.opcode = false → j.nextTask = some k → s.unitsFit { j with failed := k.failed } us = true →
         Completes (.attemptStart id us) s fun t =>
           ((t.findJob id).bind (·.build)).map (·.tasks) = some ((b.tasks.filter fun x => x.number ≠ k.number) ++ [{ k with units := us }])) ∧
       (j.build = none → s.unitsFit j us = true →
         Completes (.attemptStart id us) s fun t =>
           (∃ k, t.findJob id = some k ∧ k.phase = .running ∧ k.units = us ∧ k.entry = j.entry ∧ k.slot = j.slot ∧ k.retries = j.retries) ∧
           (∀ w ∈ unitsOfClass us 1,
             let x := t.wick w
             x.job = some id ∧ x.stall = .none ∧ x.napping = false ∧ x.sregs = [] ∧ x.fregs = [] ∧ x.sponge = Sponge.cleared ∧ (x.keyed = true → x.wkr = BitVec.ofNat 512 (leNat (s.wkrKey j).1)) ∧
             (j.entry.opcode ≠ 0x0F02 → x.g = [] ∧ x.cycles = 0))))) ∧
  (∀ (s : State) (n : Fin 4096), (∀ k ∈ s.jobs, k.phase ≠ .turn) → (∃ j ∈ s.jobs, j.phase = .loading ∧ j.entry.session = n.val) →
     (s.evict = none → exec (.contextLoadComplete n) s = .next s) ∧
     (s.evict ≠ none → (∀ c ∈ [1, 4, 5, 6], s.kindLost c = false) → Completes (.contextLoadComplete n) s fun t =>
       t.cached n.val = true ∧ (t.cache.length ≤ s.cache.length + 1) ∧
       t.jobs = s.jobs.map fun (j : Job) => if j.phase = JobPhase.loading ∧ j.entry.session = n.val then { j with phase := .waiting } else j))

/-- R54, R71, R84, R366, R386, R401, R402: a publication commits and writes output, w6, w0 and the status block, in that order, under the slice's PASID; w0 goes back with O = 0 and the status in place and every other bit as posted. The job is gone. A SESSION_OPEN whose output may not be written leaves its session FREE.

R54, R60, R70, R183, R184, R249, R250, R289, R400, R465, R468: what a job that completes OK does at its commit.

R463, R468: an erase that no earlier job's copy holds back empties its slot and answers the write that asked for it; one held back waits. -/
def Obligations.PublicationsAndCommits : Prop :=
  (∀ (s : State) (id : Nat) (j : Job), (∀ k ∈ s.jobs, k.phase ≠ .turn) → s.findJob id = some j → s.mayPublish j = true → s.fnIssues (s.sliceLink j.slice) = true →
     let allowed : Prop := s.outputBytes j = [] ∨ s.hostAllows j.slice j.entry.w3.toNat (s.outputBytes j).length false true = true
     let c := (s.commit j).countRefused j
     let b := c.outputBytes j
     let a := c.entryAddr j.slot (j.count % c.ringSize j.slot)
     let write := fun (kind : HostWriteKind) (addr : Nat) (b : Bytes) => Emission.hostWrite { link := c.sliceLink j.slice, pasid := c.slicePasid j.slice, kind := kind, slot := j.slot, job := id, address := BitVec.ofNat 64 addr, bytes := b }
     let output := if b = [] then [] else [write .output j.entry.w3.toNat b]
     let w0 := (j.entry.w0 &&& ~~~(0x80FF000000000000#64)) ||| (j.status.setWidth 64 <<< 48)
     (¬allowed → s.queueState j.slot ≠ qError → j.entry.opcode = 0x0601 → (s.session j.entry.session).state = .free →
       Completes (.publication id) s fun t => (∀ k ∈ t.jobs, k.id ≠ id) ∧ (t.session j.entry.session).state = .free) ∧
     (allowed → c.queueState j.slot = qActive ∨ c.queueState j.slot = qPaused →
     c.hostAllows j.slice (a + 48) 8 false true = true → c.hostAllows j.slice a 8 false true = true →
     Completes (.publication id) s fun t =>
       (∀ k ∈ t.jobs, k.id ≠ id) ∧
       ∃ more, t.out = c.out ++ output ++ [write .w6 (a + 48) (leBytes 8 j.w6.toNat), write .w0 a (leBytes 8 w0.toNat)] ++ more ∧
         ((c.queue j.slot).done = [] → c.entry (Key.queueSlotPublished j.slot) = j.count % 2 ^ 32 → c.slotSlice j.slot = j.slice → c.fnIssues (c.sliceLink j.slice) = true →
           c.hostAllows j.slice (c.entry (Key.queueSlotStatusAddr j.slot)) 16 false true = true →
           ∃ w : HostWrite, more.head? = some (.hostWrite w) ∧ w.kind = .status ∧ w.address = BitVec.ofNat 64 (c.entry (Key.queueSlotStatusAddr j.slot)) ∧ w.bytes.take 4 = leBytes 4 ((j.count + 1) % 2 ^ 32)))) ∧
  (∀ (s : State) (j : Job), j.status.toNat = jsOk → j.keyOut = none →
     let n := j.entry.session
     let t := s.commit j
     (j.entry.opcode = 0x0601 → (t.session n).state = .opened ∧ (t.session n).gen = BitVec.ofNat 16 (j.drawn.getD 0 0) ∧ (t.session n).params = j.data.input.take 256 ∧ (t.session n).slice = j.slice) ∧
     (j.entry.opcode = 0x0602 → (s.session n).state ≠ .free → (t.session n).state = .free ∧ (t.session n).lastGen = (s.session n).gen ∧ t.cached n = false ∧ ∀ k c, (k, c) ∈ t.contexts → c.isOpen = true → c.session ≠ n) ∧
     (j.entry.opcode = 0x0605 → t.vaultKey (ctlSlot j.entry.w5.toNat) = none) ∧
     (j.entry.opcode = 0x0110 → (t.mce (j.drawn.getD 0 0)).live = true ∧ (t.mce (j.drawn.getD 0 0)).gen = BitVec.ofNat 16 (j.drawn.getD 1 0) ∧ (t.mce (j.drawn.getD 0 0)).key = j.data.input.take j.entry.w2.toNat) ∧
     (j.entry.opcode = 0x0111 → (t.mce (bitsOf j.entry.w5.toNat 15 0)).dropped = true) ∧
     (j.entry.opcode = 0x0F03 → (t.program (16 * j.slice + bitsOf j.entry.w5.toNat 3 0)).dropped = true) ∧
     ((j.entry.opcode = 0x0202 ∨ j.entry.opcode = 0x0203 ∨ j.entry.opcode = 0x0301 ∨ j.entry.opcode / 256 = 4 ∨ j.entry.opcode / 256 = 5 ∨ j.entry.opcode = 0x0801) → t = s)) ∧
  (∀ (s : State) (slot : Fin 512) (before : Nat) (r : LateReply), s.erasing = [(slot.val, before, r)] → (∀ j ∈ s.jobs, j.entry.opcode ≠ 0x0605) →
     (s.slotHeld slot.val before = true → exec (.keyEraseCommit slot) s = .next s) ∧
     (s.slotHeld slot.val before = false → Completes (.keyEraseCommit slot) s fun t =>
       t.vaultKey slot.val = none ∧ (∀ k, k ≠ slot.val → t.vaultKey k = s.vaultKey k) ∧ t.erasing = [] ∧ t.jobs = s.jobs ∧
       (∀ p, r = .path p → t.out = s.out ++ [.dictResult p (BitVec.ofNat 16 (0x8100 + slot.val)) 9 (BitVec.ofNat 8 drOk)]) ∧
       (∀ link slc addr, r = .mailbox link slc addr → t.out = s.out ∧ (t.mailbox slc).status = mbStatus drOk 0) ∧
       (∀ n f x, r = .hop (.session n) f → s.hop.server = some .firmware → s.hopSession n = some x →
         ∃ a : HopResponse, t.out = s.out ++ [.hop a] ∧ a.result = 0 ∧ a.data = [] ∧ a.seq = f.seq ∧ a.destination = f.source ∧ a.session = f.session)))

/-- R386, R388, R390, R672: accepted writes of QueueSlot Enable. 01h sets scan and fetch point to 0 and the published count to 0, makes the queue ACTIVE and writes its status block with every field zero; 00h makes it DISABLED with nothing cached. A refused write changes nothing.

R408: a DRAINING queue whose last job has ended becomes DISABLED, and its configuration entries keep their values; one with jobs left waits. -/
def Obligations.QueueStates : Prop :=
  (∀ (s : State) (p : Path) (slot : Fin 2048), s.reaches p = true →
     let g := slot.val
     let i := 0x2800 + g
     let told := fun (r : Nat) => Emission.dictResult p (BitVec.ofNat 16 i) 0x0B (BitVec.ofNat 8 r)
     let r1 := s.judgeWrite p i 0x0B [1]
     let r0 := s.judgeWrite p i 0x0B [0]
     (r1 = drOk → Completes (.queueEnable p slot) s fun t =>
       let q := t.queue g
       q.scanned = 0 ∧ q.fetched = 0 ∧ q.cache = [] ∧ q.done = [] ∧ q.ackCmd = 0 ∧ t.entry (Key.queueSlotPublished g) = 0 ∧ t.entry (Key.queueSlotFetchPoint g) = 0 ∧
       t.entry (Key.queueSlotEnable g) = 1 ∧ t.queueState g = qActive ∧ t.jobs = s.jobs ∧
       (s.fnIssues (s.slotLink g) = true → ∃ w : HostWrite, t.out = s.out ++ [told drOk, .hostWrite w] ∧ w.kind = .status ∧ w.address = BitVec.ofNat 64 (s.entry (Key.queueSlotStatusAddr g)) ∧ w.bytes = List.replicate 16 0)) ∧
     (r1 ≠ drOk → exec (.queueEnable p slot) s = .next { s with out := s.out ++ [told r1] }) ∧
     (r0 = drOk → Completes (.queueDisable p slot) s fun t =>
       t.queue g = Queue.idle ∧ t.queueState g = qDisabled ∧ t.entry (Key.queueSlotEnable g) = 0 ∧ t.jobs = s.jobs ∧ (∀ h, h ≠ g → t.queue h = s.queue h) ∧ (s.windowWrites = [] → t.out = s.out ++ [told drOk])) ∧
     (r0 ≠ drOk → exec (.queueDisable p slot) s = .next { s with out := s.out ++ [told r0] })) ∧
  (∀ (s : State) (slot : Fin 2048), s.queueState slot.val = qDraining →
     (s.inFlight slot.val ≠ 0 → exec (.queueDrained slot) s = .next s) ∧
     (s.inFlight slot.val = 0 → Completes (.queueDrained slot) s fun t =>
       t.queueState slot.val = qDisabled ∧ t.queue slot.val = Queue.idle ∧ t.entry (Key.queueSlotEnable slot.val) = 0 ∧
       (∀ k, k ≠ Key.queueSlotState slot.val → k ≠ Key.queueSlotEnable slot.val → t.entry k = s.entry k) ∧ { t with dict := s.dict, queues := s.queues } = s))

/-- R408: function resets of a link without jobs: every queue of its slices is DRAINING with nothing cached, PASID Enable, MSI-X Enable and held writes are clear, and FN_DOORBELL_DROPS reads 0; sessions, vault, digest contexts and slice windows stay. After FLR and a hot reset the link is up in D0, after link-down and D3cold it is down.

R381, R410: D3hot entry and return to D0, and PASID Enable. A function that issues again sends its held writes in order; with nothing held, no vector pending and no queue enabled on the link, nothing else happens. -/
def Obligations.FunctionStates : Prop :=
  (∀ (s : State) (link : Fin 8) (kind : FunctionResetKind), s.linkUp link.val = true → s.jobs = [] →
     let l := link.val
     Completes (.functionReset link kind) s fun t =>
       (∀ g ∈ s.linkSlots l, t.queueState g = qDraining ∧ (t.queue g).cache = [] ∧ (t.queue g).runs = []) ∧ (∀ g, g ∉ s.linkSlots l → t.queue g = s.queue g) ∧
       (t.fn l).pasidEnable = false ∧ (t.fn l).msixEnable = false ∧ (t.fn l).held = [] ∧ (t.fn l).msix = [] ∧ (∀ k, k ≠ l → t.fn k = s.fn k) ∧
       t.sessions = s.sessions ∧ t.vault = s.vault ∧ t.contexts = s.contexts ∧ t.reservoir = s.reservoir ∧ t.jobs = [] ∧
       (kind = .flr ∨ kind = .hotReset → t.entry (Key.hostLinkLinkState l) = 2 ∧ (t.fn l).power = .d0 ∧ t.entry (Key.hostLinkDoorbellDrops l) = 0) ∧
       (kind = .linkDown ∨ kind = .d3cold → t.linkUp l = false)) ∧
  (∀ (s : State) (link : Fin 8), s.linkUp link.val = true →
     let l := link.val
     let f := s.fn l
     let quiet := f.held = [] ∧ f.pendingVectors = [] ∧ s.linkSlots l = []
     (f.power = .d0 → exec (.d3hotEntry link) s = .next ((s.setFn l { f with power := .d3hot }).setEntry (Key.hostLinkLinkState l) 3)) ∧
     (f.power ≠ .d0 → exec (.d3hotEntry link) s = .next s) ∧
     (f.power = .d3hot → quiet → Completes (.d0Return link) s fun t => t.fn l = { f with power := .d0 } ∧ t.entry (Key.hostLinkLinkState l) = 2 ∧ { t with fns := s.fns, dict := s.dict } = s) ∧
     (f.power ≠ .d3hot → exec (.d0Return link) s = .next s) ∧
     exec (.pasidEnableClear link) s = .next (s.setFn l { f with pasidEnable := false }) ∧
     (quiet → Completes (.pasidEnableSet link) s fun t => t.fn l = { f with pasidEnable := true } ∧ { t with fns := s.fns } = s) ∧
     ∀ (w : HostWrite) (j : Job), f.held = [.plaintext w] → f.power = .d0 → f.pendingVectors = [] → s.linkSlots l = [] → s.findJob w.job = some j →
       s.hostAllows j.slice w.address.toNat w.bytes.length false true = true → Completes (.pasidEnableSet link) s fun t => t.out = s.out ++ [.hostWrite w] ∧ (t.fn l).held = [] ∧ t.jobs = s.jobs)

/-- R374, R375, R408: an enabled link that is down comes up at the rate and width it negotiated, in D0, with PASID Enable and MSI-X Enable clear; one that is up already, or names a width its octets do not give, does not.

R412, R419, R665: a media port of an octet that carries one there, in service and with its reference clock, comes up; the STATUS frames that waited for it are sent, and no job changes. Any other port stays as it is.

R406: a pending vector is sent once it is unmasked, by its own mask bit, the function's, or MSI-X Enable; its message carries the address and data of its table entry, and it is no longer pending.

R414, R416: a PAUSE frame stops every priority of its port, a PFC frame the priorities it names, for its quanta of 512 bit times at the port's line rate; PauseReceived counts it. A port that carries no Ethernet drops it and counts it as unknown. -/
def Obligations.LinksVectorsAndPauses : Prop :=
  (∀ (s : State) (link : Fin 8) (speed width : BitVec 8),
     let l := link.val
     let ready := decide (s.entry (Key.hostLinkLinkState l) ≤ 1) && (s.isLit || decide (s.power = .low)) && (s.linkOctets l).all fun o => s.inService (uOctet o) && s.supplies.refclk100.getLsbD (o / 8)
     let fits := 1 ≤ speed.toNat ∧ speed.toNat ≤ 5 ∧ width.toNat ∈ [1, 2, 4, 8, 16] ∧ width.toNat ≤ 8 * (s.linkOctets l).length
     (ready = true → fits → Completes (.hostLinkUp link speed width) s fun t =>
       t.linkUp l = true ∧ t.entry (Key.hostLinkLinkState l) = 2 ∧ t.entry (Key.hostLinkSpeed l) = speed.toNat ∧ t.entry (Key.hostLinkNegotiatedWidth l) = width.toNat ∧
       (t.fn l).power = .d0 ∧ (t.fn l).pasidEnable = false ∧ (t.fn l).msixEnable = false ∧ (t.fn l).held = [] ∧ { t with dict := s.dict, fns := s.fns } = s) ∧
     (¬(ready = true ∧ fits) → exec (.hostLinkUp link speed width) s = .next s)) ∧
  (∀ (s : State) (port : Fin 256),
     let p := port.val
     let ready := s.isLit = true ∧ s.fatal = none ∧ s.flag (Key.mediaPortLinkUp p) = false ∧ portOf (s.octetMode (p / 8)) p = true ∧ s.hostOctet (p / 8) = false ∧ s.inService (uOctet (p / 8)) = true ∧ s.supplies.refclk156.getLsbD (p / 8 / 8) = true
     let up := s.setEntry (Key.mediaPortLinkUp p) 1
     let due := up.liveStreams.filter fun n => up.entry (Key.mediaStreamPort n) = p && (up.stream n).statusDue
     (¬ready → exec (.mediaPortLinkUp port) s = .next s) ∧
     (ready → due = [] → exec (.mediaPortLinkUp port) s = .next up) ∧
     (ready → Completes (.mediaPortLinkUp port) s fun t => t.flag (Key.mediaPortLinkUp p) = true ∧ t.jobs = s.jobs ∧
       ∀ n ∈ due, (t.stream n).statusDue = false ∧ ∃ g : SentFrame, .vsp g ∈ t.out ∧ g.stream = n ∧ g.kind = 8 ∧ g.epoch = BitVec.ofNat 32 (s.entry (Key.mediaStreamEpoch n)) ∧ field g.body 0 1 = statusCode (s.streamState n))) ∧
  (∀ (s : State) (link : Fin 8) (v : Fin 2048) (a : BitVec 64) (d : BitVec 32), s.linkUp link.val = true →
     let l := link.val
     let f := s.fn l
     f.power = .d0 → f.pendingVectors = [v.val] →
     (f.msixEnable = true → f.functionMask = false → Completes (.msixVectorUnmask link (.vector v a d)) s fun t => t.out = s.out ++ [.msix l v.val a d] ∧ (t.fn l).pendingVectors = []) ∧
     (f.msixEnable = true → Table.get (fun _ => MsixEntry.reset) f.msix v.val = { address := a, data := d, masked := false } →
       Completes (.msixVectorUnmask link .function) s fun t => t.out = s.out ++ [.msix l v.val a d] ∧ (t.fn l).pendingVectors = [] ∧ (t.fn l).functionMask = false) ∧
     (f.functionMask = false → Table.get (fun _ => MsixEntry.reset) f.msix v.val = { address := a, data := d, masked := false } →
       Completes (.msixVectorUnmask link .enable) s fun t => t.out = s.out ++ [.msix l v.val a d] ∧ (t.fn l).pendingVectors = [] ∧ (t.fn l).msixEnable = true) ∧
     (f.msixEnable = false → Completes (.msixVectorUnmask link (.vector v a d)) s fun t => t.out = s.out ∧ (t.fn l).pendingVectors = [v.val])) ∧
  (∀ (s : State) (port : Fin 256), s.isLit = true → s.flag (Key.mediaPortLinkUp port.val) = true → (∀ n ∈ s.liveStreams, s.entry (Key.mediaStreamPort n) ≠ port.val) →
     let p := port.val
     let r := s.portRate p
     let until_ := fun (q : Nat) => if q = 0 then 0 else s.hubCycle + (q * 512 * 1200 + r - 1) / r
     let at_ := fun (t : State) (c : Nat) => Table.get (fun _ => 0) t.pauses (8 * p + c)
     (0 < r → ∀ q : BitVec 16, Completes (.pauseFrame port (.pause q)) s fun t =>
       (∀ c < 8, at_ t c = until_ q.toNat) ∧ t.entry (Key.mediaPortPauseReceived p) ≠ 0 ∧ { t with dict := s.dict, pauses := s.pauses } = s) ∧
     (0 < r → ∀ (c : Fin 8) (q : BitVec 16), Completes (.pauseFrame port (.pfc [(c, q)])) s fun t =>
       at_ t c.val = until_ q.toNat ∧ (∀ k, k < 8 → k ≠ c.val → at_ t k = at_ s k) ∧ { t with dict := s.dict, pauses := s.pauses } = s) ∧
     (r = 0 → ∀ f, Completes (.pauseFrame port f) s fun t => t.pauses = s.pauses ∧ t.entry (Key.mediaPortUnknownDrops p) ≠ 0))

/-- R47, R86, R89 to R107, R112, R130, R226: an object write with randomness at hand and its sealer free of direct jobs. OBJECT_WRITE draws key and salt in one request, loads them into WKR and sealer and releases HEAD as the stream's next record; each SEGMENT_ARRIVAL seals the next segment, whole, under salt and index, and releases its SEG; MANIFEST_SIGN releases TAIL with the root and the session's signatures and leaves the job to its acknowledgement. A segment that may not be read ends the job ACCESS with one VOID. Arrivals out of place change nothing. How a hybrid's ephemeral scalar comes from its draw is the model's choice (log 56). -/
def Obligations.ObjectWrites : Prop :=
  ∀ (s : State) (id : Nat) (j : Job), s.attemptOf id 0x0701 = some j → s.streamDir (s.jobStream j) = 0 →
    let n := s.jobStream j
    let x := s.session j.entry.session
    let o := j.obj
    let w5 := j.entry.w5
    let free := s.sealerTaken j.objectSealer = false
    let new := fun (t : State) (kind : Nat) (b : Bytes) => ∃ r ∈ (t.stream n).records, r.rsn = (s.stream n).nextRsn ∧ r.job = id ∧ r.kind = kind ∧ r.bytes = b
    let keys := (s.objectKeys j).drop ((if x.signA = 0 then 0 else 1) + if x.signB = 0 then 0 else 1)
    (j.object = none → j.kept = [] → free → x.recipients ≤ 4 → x.ingest = 0 → s.canDraw j.instOf 10 → s.canDraw 16 10 →
      s.expandRoles j.entry.session (keys.zipIdx.map fun k => (3 + k.2, field (x.recipient k.2) 0 1, k.1)) ≠ none → Completes (.objectWrite id true) s fun t =>
      ∃ m e : Nat → Bytes,
        let drawn := s.drawnBy 16 40
        let key := drawn.take 32
        let salt := BitVec.ofNat 64 (field drawn 32 8)
        let block := fun (p : KeyFound × Nat) =>
          let a := field (x.recipient p.2) 0 1
          let ck := anyEncaps a (p.1.publicKey a) (m p.2) (e p.2)
          recipientBlock (x.recipient p.2) p.2 (kwpWrap (recipientKek ck.2 w5 p.2 a) key) ck.1
        new t 1 (containerRecord 1 0 w5 0 (List.replicate 32 0#8) (headFixed j.entry.w2.toNat salt x s.timestamp ++ keys.zipIdx.flatMap block)) ∧
        (t.wick j.wick).wkr = BitVec.ofNat 512 (leNat key) ∧ (t.wick j.wick).keyed = true ∧ (t.sealer j.objectSealer).key = some key ∧ (t.sealer j.objectSealer).object = some w5 ∧ (t.sealer j.objectSealer).job = some j.id ∧
        (t.findJob id).map (fun k => (k.phase, k.obj.headSent, k.obj.key, k.obj.salts)) = some (.running, true, key, [salt])) ∧
    (∀ bytes, free → o.headSent = true → o.segmentsDone < segmentCount j.entry.w2.toNat x.segExp → bytes.length = segmentBytes j.entry.w2.toNat x.segExp o.segmentsDone →
      let i := o.segmentsDone
      let at_ := j.entry.w1.toNat + i * 2 ^ x.segExp
      let c := gcmCipher o.key (segmentIv (o.salts.getLastD 0) i) (segmentAad w5 i o.epoch) bytes
      let body := c ++ gcmTag o.key (segmentIv (o.salts.getLastD 0) i) (segmentAad w5 i o.epoch) c
      let taken := fun (t : State) => new t 2 (containerRecord 2 o.epoch w5 i o.chain body) ∧
        (t.findJob id).map (fun k => (k.phase, k.obj.segmentsDone, k.obj.payload, k.obj.leaves)) = some (.running, i + 1, o.payload + bytes.length, o.leaves ++ [manifestLeaf x.manifestAlg i o.epoch body])
      (x.ingest = 0 → s.hostAllows j.slice at_ bytes.length true false = true → Completes (.segmentArrival id bytes) s fun t =>
        taken t ∧ .hostRead id (j.entry.w1 + BitVec.ofNat 64 (i * 2 ^ x.segExp)) bytes.length ∈ t.out) ∧
      (x.ingest = 1 → x.feedStream ≠ n → ∀ p, (s.stream x.feedStream).arriving = some p → p.2.take bytes.length = bytes → Completes (.segmentArrival id bytes) s fun t =>
        taken t ∧ (t.stream x.feedStream).consumed = (s.stream x.feedStream).consumed + bytes.length) ∧
      (x.ingest = 0 → s.hostAllows j.slice at_ bytes.length true false = false → o.voided = false → Completes (.segmentArrival id bytes) s fun t =>
        new t 5 (containerRecord 5 o.epoch w5 0 o.chain (leBytes 8 o.releasedPayload ++ leBytes 4 o.released ++ leBytes 1 jsAccess ++ leBytes 3 0)) ∧
        (t.findJob id).map (fun k => (k.phase, k.status.toNat, k.units)) = some (.closing, jsAccess, []))) ∧
    (∀ bytes, ¬free ∨ o.headSent = false ∨ segmentCount j.entry.w2.toNat x.segExp ≤ o.segmentsDone ∨ bytes.length ≠ segmentBytes j.entry.w2.toNat x.segExp o.segmentsDone →
      exec (.segmentArrival id bytes) s = .next s) ∧
    (s.manifestReady j = false → ∀ check, exec (.manifestSign id check) s = .next s) ∧
    (s.manifestReady j = true → s.shroudReady j = true → s.canDraw j.instOf 2 → j.kept.length ≤ s.tailPlace j → s.expandRoles j.entry.session (s.signers j) ≠ none →
      let fixed := tailFixed j.entry.w2.toNat o.segmentsDone x o.epoch (manifestRoot x.manifestAlg w5 o.leaves)
      let msg := tailFormatted (containerRecord 4 o.epoch w5 0 o.chain (fixed ++ List.replicate (tailSignatures x) 0#8))
      let keyA := ((s.objectKeys j).getD 0 .bad).secretKey
      let keyB := ((s.objectKeys j).getD (if x.signA = 0 then 0 else 1) .bad).secretKey
      let rootB := s.rootFor j.entry.session 1 x.signB keyB
      (∀ r, x.signA = 0 ∨ tailSign x.signA keyA [] msg r ≠ none) → (∀ r, x.signB = 0 ∨ tailSign x.signB keyB rootB msg r ≠ none) →
      Completes (.manifestSign id true) s fun t => ∃ a b ra rb : Bytes,
        (x.signMode ≠ 1 → ra = List.replicate 32 0#8 ∧ (x.signB ≠ 0 → rb = (anyPublic x.signB keyB).take (slhN x.signB))) ∧
        (if x.signA = 0 then a = [] else tailSign x.signA keyA [] msg ra = some a) ∧ (if x.signB = 0 then b = [] else tailSign x.signB keyB rootB msg rb = some b) ∧
        new t 4 (containerRecord 4 o.epoch w5 0 o.chain (fixed ++ a ++ b)) ∧
        (t.findJob id).map (fun k => (k.phase, k.status.toNat, k.units)) = some (.closing, jsOk, []))

/-- R48, R49, R108, R130, R142, R231, R442: an object restore. OBJECT_RESTORE starts the medium from rest at the highest step whose 2t(k) fits the free room; each RESTORE_RECORD takes the next held record: its form, CHAIN, tag and the restored total decide FORMAT, VERIFY_FAIL, LENGTH_SHORT, KEY_INVALID and ACCESS; a HEAD whose key unwraps begins the object, and one whose key does not has its decapsulation confirmed; the plaintext of a SEG is written to the buffer, and its tag checked; a TAIL whose totals, root and signatures check ends the job OK with the bytes restored, which also asks for its LAST_EPOCH (the model's choice, log 57). -/
def Obligations.ObjectRestores : Prop :=
  ∀ (s : State) (id : Nat) (j : Job), s.attemptOf id 0x0702 = some j → s.streamDir (s.jobStream j) = 1 →
    let n := s.jobStream j
    let x := s.session j.entry.session
    let y := s.stream n
    let o := j.obj
    let row := Instr.restoreRecord id
    (∀ k, o.confirming = false → s.streamState n = stStopped → s.highestStep n y.steps.length (fun k => decide (2 * s.threshold n k ≤ s.restoreRoom n)) = some k → Completes (.objectRestore id true) s fun t =>
      t.streamState n = stMoving ∧ t.streamStep n = k ∧ (t.stream n).records = y.records.filter (fun q => q.taken) ∧ (t.findJob id).map (·.phase) = some .running) ∧
    (o.confirming = true → 2 ≤ (unitsOfClass j.units 1).length → Ends (.objectRestore id true) s id jsVerifyFail 0) ∧
    (s.plaintextHeld j = true ∨ o.confirming = true ∨ y.records.find? (fun r => !r.taken) = none → exec row s = .next s) ∧
    (s.plaintextHeld j = false → o.confirming = false → ∀ q, y.records.find? (fun r => !r.taken) = some q → (recKind q.bytes = 2 → s.sealerTaken j.objectSealer = false) →
      let r := q.bytes
      let chained := recordOk o j.entry.w5 r = true ∧ recChain r = o.chain
      (recordOk o j.entry.w5 r = false → Ends row s id jsFormat o.payload) ∧
      (recordOk o j.entry.w5 r = true → recKind r = 1 →
        let e := x.recipient 0
        let b := blockFor e ((headBlocks r).getD [])
        let a := field e 0 1
        let found := (s.objectKeys j).getD 0 .bad
        let begins := recChain r = List.replicate 32 0#8 ∧ field r 81 1 = x.manifestAlg ∧ field r 82 1 = x.signA ∧ field r 83 1 = x.signB
        (b = none → Ends row s id jsKeyInvalid 0) ∧
        (b.isSome = true → j.entry.w4.toNat < field r 64 8 → Ends row s id jsLengthShort (field r 64 8)) ∧
        (b.isSome = true → field r 64 8 ≤ j.entry.w4.toNat → ¬begins → Ends row s id jsVerifyFail 0) ∧
        (∀ c, b = some c → field r 64 8 ≤ j.entry.w4.toNat → begins → s.expandRole j.entry.session 0 a found ≠ none →
          let kek := recipientKek (anyDecaps a found.secretKey (cut c 80 (cipherSize a))) j.entry.w5 (field c 1 1) a
          let wrapped := cut c 40 40
          Completes row s fun t => if kwpAccepts kek wrapped = false then (t.findJob id).map (fun k => (k.phase, k.obj.confirming, k.obj.headSeen)) = some (.running, true, o.headSeen)
            else (t.findJob id).map (fun k => (k.phase, k.obj.headSeen, k.obj.key, k.obj.salts, k.obj.length, k.obj.segExp, k.obj.chain)) =
              some (.running, true, kwpUnwrap kek wrapped 32, [BitVec.ofNat 64 (field r 72 8)], field r 64 8, field r 84 1, chainAfter r))) ∧
      (recordOk o j.entry.w5 r = true → recKind r ≠ 1 → recChain r ≠ o.chain → Ends row s id jsVerifyFail o.payload) ∧
      (chained → recKind r = 2 →
        let body := recBody r
        let c := body.take (body.length - 16)
        let iv := segmentIv (o.salts.getLastD 0) o.segIndex
        let aad := segmentAad j.entry.w5 o.segIndex o.epoch
        let at_ := j.entry.w3.toNat + o.segIndex * 2 ^ o.segExp
        (s.hostAllows j.slice at_ c.length false true = false → Ends row s id jsAccess 0) ∧
        (s.hostAllows j.slice at_ c.length false true = true → s.fnIssues (s.sliceLink j.slice) = true → Completes row s fun t =>
          (∃ w : HostWrite, .hostWrite w ∈ t.out ∧ w.address = BitVec.ofNat 64 at_ ∧ w.bytes = gcmPlain o.key iv aad c ∧ w.kind = .plaintext) ∧
          if gcmTag o.key iv aad c = body.drop (body.length - 16) then
            (t.findJob id).map (fun k => (k.phase, k.obj.segIndex, k.obj.payload, k.obj.chain)) = some (.running, o.segIndex + 1, o.payload + c.length, chainAfter r)
          else JobEnds t id jsVerifyFail o.payload [])) ∧
      (chained → recKind r = 3 → Completes row s fun t =>
        (t.findJob id).map (fun k => (k.phase, k.obj.epoch, k.obj.salts)) = some (.running, recEpoch r, o.salts ++ [BitVec.ofNat 64 (field r 64 8)])) ∧
      (chained → recKind r = 4 →
        let keys := s.objectKeys j
        let first := if x.signA = 0 then 0 else 1
        let blocks := (tailBlocks r).getD []
        let signed := blocks.length = first + (if x.signB = 0 then 0 else 1) ∧ (x.signA = 0 ∨ tailSigOk x.signA (keys.getD 1 .bad) r blocks[0]? = true) ∧ (x.signB = 0 ∨ tailSigOk x.signB (keys.getD (1 + first) .bad) r blocks[first]? = true)
        let totals := field r 64 8 = o.length ∧ o.payload = o.length ∧ field r 72 4 = o.segIndex ∧ o.segIndex = segmentCount o.length o.segExp ∧ field r 76 1 = x.manifestAlg ∧ field r 78 1 = o.epoch
        s.expandRoles j.entry.session ((if x.signA = 0 then [] else [(1, x.signA, keys.getD 1 .bad)]) ++ if x.signB = 0 then [] else [(2, x.signB, keys.getD (1 + first) .bad)]) ≠ none →
        (totals ∧ cut r 80 64 = cut (manifestRoot x.manifestAlg j.entry.w5 o.leaves) 0 64 ∧ signed → Ends row s id jsOk o.payload) ∧
        (¬(totals ∧ cut r 80 64 = cut (manifestRoot x.manifestAlg j.entry.w5 o.leaves) 0 64 ∧ signed) → Ends row s id jsVerifyFail o.payload)) ∧
      (chained → recKind r = 5 → Ends row s id jsVerifyFail o.payload))

/-- R419, R429, R430, R444, R453, R493: STREAM_MARK sends its FILEMARKs once every record before them is sent; STREAM_STOP ends at once at rest and makes a moving medium glide to its stop; an enabled stream waits under a new EPOCH, never 0 and never the one before it, or for the hub instance where that is not ready, and a disabled one is DISABLED with step FFh and EPOCH 0. -/
def Obligations.StreamJobs : Prop :=
  ∀ (s : State) (id : Nat) (j : Job),
    let n := s.jobStream j
    let x := s.stream n
    (s.attemptOf id 0x0703 = some j → s.streamDir n = 0 → s.streamState n = stStopped → x.records = [] → x.marksHeld = [] →
      ((x.marksSent.any fun m => m.1 = id) = true → exec (.streamMark id) s = .next s) ∧
      ((x.marksSent.any fun m => m.1 = id) = false → Completes (.streamMark id) s fun t =>
        (t.stream n).marksSent = x.marksSent ++ [(id, x.txSeq)] ∧ t.jobs = s.jobs ∧
        ∃ u, (t.stream n).unacked = x.unacked ++ [u] ∧ u.frame.kind = 6 ∧ u.frame.seq = x.txSeq ∧ u.frame.body = leBytes 1 2 ++ leBytes 3 0 ++ leBytes 4 (x.nextRsn - 1).toNat ++ leBytes 8 j.entry.w5.toNat)) ∧
    (s.attemptOf id 0x0704 = some j →
      (s.streamState n = stStopped → Ends (.streamStop id) s id jsOk 0) ∧
      (s.streamState n = stMoving → Completes (.streamStop id) s fun t =>
        t.streamState n = stGliding ∧ t.jobs = s.jobs ∧ ∃ u, (t.stream n).unacked = x.unacked ++ [u] ∧ u.frame.kind = 5 ∧
          u.frame.body = leBytes 4 (if s.streamDir n = 0 then x.ackedRsn else x.nextRsn - 1).toNat ++ leBytes 4 0) ∧
      (s.streamState n ≠ stStopped → s.streamState n ≠ stMoving → exec (.streamStop id) s = .next s)) ∧
    ∀ (p : Path) (m : Fin 1024), s.reaches p = true →
      (s.judgeWrite p (0x7400 + m.val) 9 [1] = drOk →
        (s.flag (Key.mediaStreamEnable m.val) = true → Completes (.streamEnable p m) s fun t => { t with out := s.out } = s) ∧
        (s.flag (Key.mediaStreamEnable m.val) = false → s.power = .lit ∨ s.power = .low → (s.drbg 16).ready = false → Completes (.streamEnable p m) s fun t =>
          t.entry (Key.mediaStreamEnable m.val) = 1 ∧ t.streamState m.val = stWaiting ∧ t.entry (Key.mediaStreamEpoch m.val) = 0 ∧ (t.stream m.val).epochDue = true ∧ ∀ k, k ≠ m.val → t.stream k = s.stream k) ∧
        (s.flag (Key.mediaStreamEnable m.val) = false → s.power = .lit ∨ s.power = .low → s.canDraw 16 1 → Completes (.streamEnable p m) s fun t =>
          t.entry (Key.mediaStreamEnable m.val) = 1 ∧ t.streamState m.val = stWaiting ∧ t.entry (Key.mediaStreamEpoch m.val) ≠ 0 ∧
          t.entry (Key.mediaStreamEpoch m.val) ≠ (s.stream m.val).lastEpoch.toNat ∧ (t.stream m.val).txSeq = 0 ∧ (t.stream m.val).records = [] ∧ ∀ k, k ≠ m.val → t.stream k = s.stream k)) ∧
      (s.judgeWrite p (0x7400 + m.val) 9 [0] = drOk → Completes (.streamDisable p m) s fun t =>
        t.entry (Key.mediaStreamEnable m.val) = 0 ∧ t.streamState m.val = stDisabled ∧ t.streamStep m.val = 0xFF ∧ t.entry (Key.mediaStreamEpoch m.val) = 0 ∧
        t.extents = s.extents.filter (fun e => e.use ≠ ExtentUse.stream m.val) ∧ ∀ k, k ≠ m.val → t.stream k = s.stream k)

/-- R9, R91, R419 to R436, R442, R445, R446: received frames. Each is counted and checked in the order of R425; a duplicate or an early frame is not taken; a whole record is held; a commit ends the object it completes; RATE, STATUS, marks and errors move the stream and its job as their tables say. -/
def Obligations.FramesReceived : Prop :=
  ∀ (s : State) (port : Fin 256) (f : VspFrame) (n : Nat),
    let p := port.val
    let b := frameContent f
    let x := s.stream n
    let rows := [Instr.vspDataReceived port f, .vspCreditReceived port f, .vspRateReceived port f, .vspStatusReceived port f, .endObject port f, .endOfData port f, .earlyWarning port f, .mediumWrite port f, .noMedium port f, .mediumRead port f, .starved port f, .unknownEpoch port f]
    let up := s.isLit = true ∧ s.fatal = none ∧ s.flag (Key.mediaPortLinkUp p) = true
    let s1 := s.bump (Key.mediaPortRxFrames p)
    let ok := up ∧ s.frameForm p f = true ∧ frameLengthOk f = true ∧ s.streamOf p f = some n ∧ x.epochDue = false ∧ f.epoch.toNat = s.entry (Key.mediaStreamEpoch n) ∧ s.frameAllowed n f = true
    let dir := s.streamDir n
    let seqd := f.seq = x.rxSeq ∧ s.bodyOk f.kind.toNat b = true
    (∀ i ∈ rows, (¬up → exec i s = .next s) ∧
      (up → s.frameForm p f = false → exec i s = .next (s1.bump (Key.mediaPortUnknownDrops p))) ∧
      (up → s.frameForm p f = true → frameLengthOk f = false → exec i s = .next (s1.bump (Key.mediaPortLengthDrops p))) ∧
      (up → s.frameForm p f = true → frameLengthOk f = true → s.streamOf p f = none → exec i s = .next (s1.bump (Key.mediaPortUnknownDrops p))) ∧
      (up → s.frameForm p f = true → frameLengthOk f = true → s.streamOf p f = some n → x.epochDue = true ∨ f.epoch.toNat ≠ s.entry (Key.mediaStreamEpoch n) ∨ s.frameAllowed n f = false →
        exec i s = .next ((s1.heard n).bump (Key.mediaStreamProtocolErrors n)))) ∧
    (ok → f.kind = 1 ∨ f.kind = 3 ∨ f.kind = 6 → f.seq ≠ x.rxSeq → ∀ i ∈ rows, Completes i s fun t => (t.stream n).rxSeq = x.rxSeq ∧ t.jobs = s.jobs) ∧
    (ok → f.kind = 1 → dir = 1 → seqd → s.streamState n = stMoving → f.flags = 3 → field b 8 8 = 0 → field b 0 4 = x.nextRsn.toNat → x.dropping = false → b.length - 16 ≤ s.recordRoom n →
      Completes (.vspDataReceived port f) s fun t => (t.stream n).rxSeq = x.rxSeq + 1 ∧ (t.stream n).nextRsn = x.nextRsn + 1 ∧
        ∃ r, (t.stream n).records = x.records ++ [r] ∧ r.rsn = x.nextRsn ∧ r.bytes = b.drop 16 ∧ r.taken = false) ∧
    (ok → f.kind = 2 → dir = 0 → ∀ (j : Job) (r : StreamRecord), s.jobs = [j] → j.phase = .closing → x.currentJob = some j.id → j.status = BitVec.ofNat 8 jsOk → x.records = [r] → r.offset = r.bytes.length → r.endPos ≤ field b 8 8 → r.rsn.toNat = field b 16 4 → x.marksSent = [] →
      Completes (.vspCreditReceived port f) s fun t => (t.stream n).records = [] ∧ (t.stream n).consumed = field b 8 8 ∧ (t.stream n).window = field b 4 4 ∧ JobEnds t j.id jsOk j.obj.releasedBytes []) ∧
    (ok → f.kind = 3 → dir = 0 → seqd → s.streamState n = stWaiting → x.steps = [] → x.records = [] →
      let now := (s.setStream n { x with steps := rateSteps b, buffer := field b 4 4 }).stepAllowed n 0
      Completes (.vspRateReceived port f) s fun t => (t.stream n).steps = rateSteps b ∧ (t.stream n).buffer = field b 4 4 ∧
        (now = false → t.streamState n = stWaiting) ∧ (now = true → field b 1 1 = 0xFF → t.streamState n = stStopped ∧ t.streamStep n = 0xFF)) ∧
    (ok → f.kind = 8 → dir = 0 → s.streamState n = stGliding → field b 0 1 = 0 → x.records = [] →
      Completes (.vspStatusReceived port f) s fun t => t.streamState n = stStopped ∧ t.streamStep n = 0xFF ∧ ∀ id j, s.attemptOf id 0x0704 = some j → s.jobStream j = n → JobEnds t id jsOk 0 []) ∧
    (ok → f.kind = 6 → dir = 2 → seqd → BitVec.ofNat 32 (field b 4 4) ≠ x.ordinal → Completes (.endObject port f) s fun t => t.jobs = s.jobs ∧ (t.stream n).ordinal = x.ordinal) ∧
    (ok → f.kind = 6 → dir = 2 → seqd → BitVec.ofNat 32 (field b 4 4) = x.ordinal → x.dropping = false → ∀ j, s.carried n = some j → j.phase = .running → j.entry.opcode = 0x0701 → j.obj.voided = false → j.obj.feedEnded = false →
      let void := fun (t : State) (st : Nat) => (t.findJob j.id).map (fun k => (k.phase, k.status.toNat, k.units, k.obj.voided)) = some (.closing, st, [], true)
      (x.feedOffset = j.entry.w2.toNat → Completes (.endObject port f) s fun t => (t.findJob j.id).map (fun k => (k.phase, k.obj.feedEnded)) = some (.running, true) ∧ (t.stream n).ordinal = x.ordinal + 1) ∧
      (x.feedOffset < j.entry.w2.toNat → Completes (.endObject port f) s fun t => void t jsLengthShort) ∧
      (j.entry.w2.toNat < x.feedOffset → Completes (.endObject port f) s fun t => void t jsLengthLong)) ∧
    (ok → f.kind = 6 → dir = 1 → seqd → (x.records.any fun r => r.kind = 4 && !r.taken) = false → ∀ j, s.carried n = some j → j.phase = .running → j.entry.opcode = 0x0702 →
      Completes (.endOfData port f) s fun t => JobEnds t j.id jsFormat j.obj.payload []) ∧
    (ok → f.kind = 6 → dir = 1 → seqd → (x.records.any fun r => r.kind = 4 && !r.taken) = true → Completes (.endOfData port f) s fun t => (t.stream n).rxSeq = x.rxSeq + 1 ∧ t.jobs = s.jobs) ∧
    (ok → f.kind = 6 → dir = 0 → seqd → Completes (.earlyWarning port f) s fun t => (t.stream n).earlyWarning = true ∧ t.jobs = s.jobs) ∧
    (ok → f.kind = 9 → dir = 0 → s.streamState n ≠ stFaulted → s.carried n = none →
      (field b 0 2 = 1 → Completes (.mediumWrite port f) s fun t => t.streamState n = stFaulted) ∧ (field b 0 2 = 3 → Completes (.noMedium port f) s fun t => t.streamState n = stFaulted)) ∧
    (ok → f.kind = 9 → dir = 1 → s.streamState n ≠ stFaulted → field b 0 2 = 2 → ∀ j, s.carried n = some j → j.phase = .running → j.entry.opcode = 0x0702 →
      Completes (.mediumRead port f) s fun t => t.streamState n = stFaulted ∧ JobEnds t j.id jsVerifyFail j.obj.payload []) ∧
    (ok → f.kind = 9 → field b 0 2 = 5 → Completes (.starved port f) s fun t => (t.stream n).starves = x.starves + 1 ∧ t.jobs = s.jobs) ∧
    (ok → f.kind = 9 → field b 0 2 = 6 → s.streamState n ≠ stFaulted → s.carried n = none → s.canDraw 16 1 → Completes (.unknownEpoch port f) s fun t =>
      t.streamState n = stWaiting ∧ t.streamStep n = 0xFF ∧ t.entry (Key.mediaStreamEpoch n) ≠ 0 ∧ t.entry (Key.mediaStreamEpoch n) ≠ x.lastEpoch.toNat ∧ (t.stream n).rxSeq = 0 ∧ (t.stream n).txSeq = 0 ∧ (t.stream n).unacked = [])

/-- R419, R432, R433, R437 to R439, R447: the timers of a stream that acts: pacing below its threshold dims or glides, unacknowledged frames are sent again up to the limit, received frames are acknowledged, STATUS is sent where the port is up, and a lost link makes the stream wait and reports 0F01h once. -/
def Obligations.StreamTimers : Prop :=
  ∀ (s : State) (m : Fin 1024),
    let n := m.val
    let x := s.stream n
    let lost := if x.timedOut then s else ((s.setStream n { x with timedOut := true }).streamWaits n).reportFault 0x0F01 (uStream n) (uOctet (s.streamOctet n)) 0 0
    (s.streamActs n = false → ∀ i ∈ [Instr.pacingEvaluation m, .retransmitTimeout m, .creditTimer m, .statusTimer m, .linkTimeout m], exec i s = .next s) ∧
    (s.streamActs n = true →
      (s.streamDir n = 0 → s.streamState n = stMoving → x.flush = false → x.filling = false → x.level < s.threshold n (s.streamStep n) →
        let lower := s.highestStep n (s.streamStep n) (fun k => decide (s.threshold n k ≤ x.level))
        (∀ k, lower = some k → Completes (.pacingEvaluation m) s fun t => t.streamState n = stMoving ∧ t.streamStep n = k ∧ t.jobs = s.jobs) ∧
        (lower = none → Completes (.pacingEvaluation m) s fun t => t.streamState n = stGliding ∧ t.jobs = s.jobs)) ∧
      (s.streamDir n = 2 → exec (.pacingEvaluation m) s = .next s) ∧
      (x.unacked = [] ∨ x.timedOut = true → exec (.retransmitTimeout m) s = .next s) ∧
      (x.unacked ≠ [] → x.timedOut = false → x.retries < s.entry Key.vspControlRetransmitLimit → Completes (.retransmitTimeout m) s fun t =>
        (t.stream n).retries = x.retries + 1 ∧ (t.stream n).unacked.map (·.frame) = x.unacked.map (·.frame) ∧ t.jobs = s.jobs ∧
        ((∀ u ∈ x.unacked, s.portUp u.frame.stream = true) → t.out = s.out ++ x.unacked.map fun u => .vsp u.frame)) ∧
      (x.unacked ≠ [] → x.timedOut = false → s.entry Key.vspControlRetransmitLimit ≤ x.retries → exec (.retransmitTimeout m) s = .next lost) ∧
      (x.rxSeq = x.rxAcked → exec (.creditTimer m) s = .next s) ∧
      (x.rxSeq ≠ x.rxAcked → Completes (.creditTimer m) s fun t => (t.stream n).rxAcked = x.rxSeq ∧ (t.stream n).unacked = x.unacked ∧ t.jobs = s.jobs ∧
        (s.portUp n = true → ∃ g : SentFrame, t.out = s.out ++ [.vsp g] ∧ g.stream = n ∧ g.kind = 2 ∧ field g.body 0 4 = x.rxSeq.toNat ∧ g.destination = leBytes 6 (s.entry (Key.mediaStreamPeerMac n)) ∧ (s.streamDir n = 2 → field g.body 4 4 ≤ s.sealerRoom n))) ∧
      (s.portUp n = false → exec (.statusTimer m) s = .next s) ∧
      (s.portUp n = true → Completes (.statusTimer m) s fun t => (t.stream n).statusDue = false ∧ t.jobs = s.jobs ∧ ∃ g : SentFrame, t.out = s.out ++ [.vsp g] ∧ g.stream = n ∧ g.kind = 8 ∧ field g.body 0 1 = statusCode (s.streamState n)) ∧
      exec (.linkTimeout m) s = .next lost)

/-- R36, R531, R534, R543 to R548, R550, R552: the shelf bus. A frame without a server or clock, or not addressed to the device, has no effect; a malformed one is dropped and counted; a repeated SEQ gets the recorded response again; in a session a wrong tag is dropped and counted, and an unknown session is answered AUTH. READ, WRITE, INFO and DISCOVER answer as the dictionary's checks say; an accepted WRITE in a session is answered first and then takes effect, but that of VaultSlot Erase is answered when the erase commits (R468). -/
def Obligations.HopRequests : Prop :=
  ∀ (s : State) (f : HopFrame),
    let up := s.hop.server.isSome = true ∧ s.supplies.sysclk = true
    let rows := [(Instr.hopRead f, 1), (.hopWrite f, 2), (.hopInfo f, 3), (.authBegin f, 4), (.authFinish f, 5), (.authEnd f, 6), (.hopWake f, 7), (.discover f, 8)]
    let s1 := s.bump Key.shelfBusFramesReceived
    let w := Requester.address f.source
    let got := fun (code : Nat) => up ∧ f.op.toNat = code ∧ s.hopDrops f = false ∧ hopAddressed f = true
    let plain := fun (code : Nat) => got code ∧ f.session = 0 ∧ (s.requester w).lastSeq ≠ some f.seq
    let answers := fun (t : State) (result : Nat) (data : Bytes) => ∃ r : HopResponse, t.out = s.out ++ [.hop r] ∧ r.result = BitVec.ofNat 8 result ∧ r.data = data ∧ r.seq = f.seq ∧ r.op = f.op ∧ r.destination = f.source
    let i := f.index.toNat
    let k := f.sub.toNat
    let h := hopHeader f.op.toNat f.flags.toNat f.result.toNat f.session f.seq i k f.offset.toNat f.length.toNat
    (∀ r ∈ rows,
      (¬up ∨ f.op.toNat ≠ r.2 → exec r.1 s = .next s) ∧
      (up → f.op.toNat = r.2 → s.hopDrops f = true → exec r.1 s = .next (s.bump Key.shelfBusFramesDropped)) ∧
      (up → f.op.toNat = r.2 → s.hopDrops f = false → hopAddressed f = false → exec r.1 s = .next s) ∧
      (got r.2 → f.session = 0 → (s.requester w).lastSeq = some f.seq → ∀ a, (s.requester w).lastResponse = some a → exec r.1 s = .next (s1.emit (.hop a))) ∧
      (got r.2 → f.session ≠ 0 → r.2 ≠ 5 → s.hopSession f.session = none → Completes r.1 s fun t => answers t drAuth [] ∧ t.hop = s.hop) ∧
      (got r.2 → f.session ≠ 0 → r.2 ≠ 5 → ∀ x, s.hopSession f.session = some x → HopIn.auth f = false ∨ f.tag ≠ hopTag x.key f.destination f.source h f.data →
        exec r.1 s = .next (s.bump Key.shelfBusTagFailures))) ∧
    (plain 1 →
      (s1.judgeRead .hopPlain i k ≠ drOk → Completes (.hopRead f) s fun t => answers t (s1.judgeRead .hopPlain i k) []) ∧
      (s1.judgeRead .hopPlain i k = drOk → f.offset = 0 → s.roomFor w = true → Completes (.hopRead f) s fun t =>
        answers t drOk ((s1.readBytes i k).take 1456) ∧ (t.requester w).snapshot = some (hopEntry f, s1.readBytes i k)) ∧
      (s1.judgeRead .hopPlain i k = drOk → f.offset ≠ 0 → (s.requester w).snapshot = none → Completes (.hopRead f) s fun t => answers t drOffset [])) ∧
    (plain 2 → s.hop.server = some .firmware → f.offset = 0 → HopIn.more f = false → s1.judgeWrite .hopPlain i k f.data ≠ drOk →
      Completes (.hopWrite f) s fun t => answers t (s1.judgeWrite .hopPlain i k f.data) []) ∧
    (got 2 → s.hop.server = some .firmware → f.offset = 0 → HopIn.more f = false → ∀ x, f.session ≠ 0 → s.hopSession f.session = some x → HopIn.auth f = true → f.tag = hopTag x.key f.destination f.source h f.data →
      (s.requester (.session x.number)).lastSeq ≠ some f.seq → x.lastSeq.toNat < f.seq.toNat → (s1.noteSeq x.number f.seq).judgeWrite (.hopSession x.number) i k f.data = drOk →
      ∃ u, exec (.hopWrite f) s = .next (if isLate i k = true then u.lateWrite i k (leNat f.data) (.hop (.session x.number) f) else u.applyWrite i k f.data) ∧
        (if isLate i k = true then u.out = s.out else answers u drOk []) ∧ { u with out := s.out, hop := s.hop, dict := s.dict } = s ∧ u.hop.sessions = (s1.noteSeq x.number f.seq).hop.sessions) ∧
    (plain 3 → Completes (.hopInfo f) s fun t => answers t (s1.infoOp .hopPlain i k).1 (s1.infoOp .hopPlain i k).2) ∧
    (plain 8 → Completes (.discover f) s fun t => answers t drOk s1.discoverBytes ∧ t.jobs = s.jobs)

/-- R549, R551, R552, R587, R612: sessions and WAKE on the shelf bus. AUTH_BEGIN opens a pending session with a fresh nonce and key, or waits for randomness, a second at most; AUTH_FINISH whose public key and signature are right opens the session and answers PROOF, any other counts a failure, and eight in a row lock the port out; AUTH_END ends its session; WAKE brings the device back from LOW; expiries discard what they name. -/
def Obligations.HopSessionsAndWake : Prop :=
  ∀ (s : State) (f : HopFrame),
    let w := Requester.address f.source
    let got := fun (code : Nat) => s.hop.server.isSome = true ∧ s.supplies.sysclk = true ∧ f.op.toNat = code ∧ s.hopDrops f = false ∧ hopAddressed f = true
    let plain := fun (code : Nat) => got code ∧ f.session = 0 ∧ (s.requester w).lastSeq ≠ some f.seq
    let answers := fun (t : State) (result : Nat) (data : Bytes) => ∃ r : HopResponse, .hop r ∈ t.out ∧ r.result = BitVec.ofNat 8 result ∧ r.data = data ∧ r.seq = f.seq ∧ r.destination = f.source
    let h := hopHeader f.op.toNat f.flags.toNat f.result.toNat f.session f.seq f.index.toNat f.sub.toNat f.offset.toNat f.length.toNat
    (plain 4 → s.authServer = drOk →
      (s.hop.lockedOut = true ∨ s.trustedHash (field f.data 0 1) = none → Completes (.authBegin f) s fun t => answers t drAuth [] ∧ t.hop.pending = s.hop.pending) ∧
      (s.hop.lockedOut = false → s.trustedHash (field f.data 0 1) ≠ none → f.data.length = 40 → field f.data 1 7 = 0 → s.hop.sessions.length < 4 → s.hop.pending = none → s.hop.authWait = none → s.canDraw 16 3 → Completes (.authBegin f) s fun t =>
        ∃ p : PendingSession, t.hop.pending = some p ∧ p.number ≠ 0 ∧ p.address = f.source ∧ p.nonceM = cut f.data 8 32 ∧ p.nonceD.length = 32 ∧ answers t drOk (p.nonceD ++ p.encapKey) ∧ t.hop.sessions = s.hop.sessions) ∧
      (s.hop.lockedOut = false → s.trustedHash (field f.data 0 1) ≠ none → f.data.length = 40 → field f.data 1 7 = 0 → s.hop.sessions.length < 4 → s.hop.pending = none → s.hop.authWait = none → (s.drbg 16).ready = false → Completes (.authBegin f) s fun t =>
        t.hop.authWait = some { frame := f, drawn := [], due := s.hubCycle + 1200000000 } ∧ t.hop.pending = none ∧ t.out = s.out)) ∧
    (got 5 → (s.requester w).lastSeq ≠ some f.seq → s.authServer = drOk → HopIn.more f = false →
      ∀ (p : PendingSession) (b : Bytes), s.pendingFor f = some p → (s.requester w).assembly = some (0xFFFF05, b) → f.offset ≠ 0 → f.offset.toNat = b.length → (b ++ f.data).length = 8307 →
      let d := b ++ f.data
      let t_ := hopTranscript p (cut d 0 1088)
      let right := some (sha3_256 (cut d 1088 2592)) = s.trustedHash p.keySlot.toNat ∧ mldsa87Verifies (cut d 1088 2592) t_ (cut d 3680 4627) = true
      Completes (.authFinish f) s fun t => t.hop.pending = none ∧
        (right → ∃ (x : HopSession) (proof : Bytes), t.hop.sessions = s.hop.sessions ++ [x] ∧ x.number = p.number ∧ x.key = kmac256 (mlkem768Decaps p.ephemeral (cut d 0 1088)) t_ 32 "PYRS-HOPKEY" ∧
          (∀ a, s.roots.attestSecret = some a → proof = kmac256 a t_ 32 "PYRS-HOPPROOF") ∧ answers t drOk proof ∧ t.hop.failures = 0) ∧
        (¬right → answers t drAuth [] ∧ t.hop.sessions = s.hop.sessions ∧ t.hop.failures = s.hop.failures + 1 ∧
          t.hop.lockedOut = (s.hop.lockedOut || (s.hop.failures + 1) % 8 = 0))) ∧
    (plain 6 → Completes (.authEnd f) s fun t => answers t (if s.hop.server = some .firmware then drAuth else drUnavailable) [] ∧ t.hop.sessions = s.hop.sessions) ∧
    (got 6 → ∀ x, f.session ≠ 0 → s.hopSession f.session = some x → HopIn.auth f = true → f.tag = hopTag x.key f.destination f.source h f.data → (s.requester (.session x.number)).lastSeq ≠ some f.seq → x.lastSeq.toNat < f.seq.toNat →
      Completes (.authEnd f) s fun t => answers t drOk [] ∧ t.hop.sessions = s.hop.sessions.filter (fun y => y.number ≠ x.number) ∧ t.jobs = s.jobs) ∧
    (plain 7 → s.hop.server ≠ some .rom →
      (s.hopWakeRefused = true → Completes (.hopWake f) s fun t => answers t drState [] ∧ t.power = s.power) ∧
      (s.hopWakeRefused = false → s.power = .low → s.entering = none → Completes (.hopWake f) s fun t => answers t drOk [] ∧ t.power = .lit ∧ t.entry Key.pilotPowerLastWakeSource = 2 ∧ t.sessions = s.sessions ∧ t.jobs = s.jobs)) ∧
    (∀ r : Requester, Completes (.hopAssemblyIdle r) s fun t => (t.requester r).assembly = none ∧ (t.requester r).snapshot = none ∧ (∀ q, q ≠ r → t.requester q = s.requester q) ∧ { t with hop := s.hop } = s) ∧
    exec .pendingSessionExpiry s = .next { s with hop := { s.hop with pending := none } } ∧
    exec .authLockoutEnd s = .next { s with hop := { s.hop with lockedOut := false } } ∧
    ∀ n : BitVec 32, Completes (.sessionIdleExpiry n) s fun t => t.hopSession n = none ∧ (∀ k, k ≠ n → t.hopSession k = s.hopSession k) ∧ { t with hop := s.hop } = s

/-- R10, R534 to R539, R542: the mailbox of a slice. Reserved bits of MB_ADDR and MB_LEN stay zero. Where the link does not serve it the write is dropped and counted; READ and INFO end with the entry's bytes at the start of MB_DATA and their length in MB_STATUS, or with the result of the check that fails; an accepted WRITE ends its operation and takes effect, but that of VaultSlot Erase keeps BUSY set until the erase commits (R468), and a mailbox with BUSY set ignores writes. Nothing arrives on a link that is down. -/
def Obligations.MailboxOperations : Prop :=
  ∀ (s : State) (link : Fin 8) (slice : Fin 512) (addr len : BitVec 32) (data : Bytes),
    let m := s.mailbox slice.val
    let kept := addr &&& 0xFFFFFF#32
    let i := mbIndex addr
    let k := mbSub addr
    let p := Path.mailbox slice
    let rd := s.judgeRead p i k
    let v := s.readBytes i k
    let others := fun (t : State) => ∀ n, n ≠ slice.val → t.mailbox n = s.mailbox n
    let busy := m.status.getLsbD 31
    (∀ c ∈ [Instr.mbRead link slice addr, .mbWrite link slice addr len data, .mbInfo link slice addr],
      (s.linkUp link.val = false → exec c s = .next s) ∧
      (s.linkUp link.val = true → s.mailboxOn link.val slice.val = false → exec c s = .next (s.bump (Key.hostMailboxMailboxDrops link.val))) ∧
      (s.mailboxOn link.val slice.val = true → busy = true → exec c s = .next s)) ∧
    (s.mailboxOn link.val slice.val = true → busy = false →
      (rd ≠ drOk → Completes (.mbRead link slice addr) s fun t => t.mailbox slice.val = { m with addr := kept, status := mbStatus rd 0 } ∧ others t ∧ { t with mailboxes := s.mailboxes, dict := s.dict } = s) ∧
      (rd = drOk → v.length ≤ 8192 → Completes (.mbRead link slice addr) s fun t =>
        t.mailbox slice.val = { m with addr := kept, status := mbStatus drOk v.length, data := v ++ m.data.drop v.length } ∧ others t ∧ { t with mailboxes := s.mailboxes, dict := s.dict } = s) ∧
      (rd = drOk → 8192 < v.length → Completes (.mbRead link slice addr) s fun t => t.mailbox slice.val = { m with addr := kept, status := mbStatus drLength 0 } ∧ others t) ∧
      (Completes (.mbInfo link slice addr) s fun t =>
        let r := s.infoOp p i k
        t.mailbox slice.val = (if r.1 = drOk then { m with addr := kept, status := mbStatus drOk r.2.length, data := r.2 ++ m.data.drop r.2.length } else { m with addr := kept, status := mbStatus r.1 0 }) ∧ others t) ∧
      (let given := cut data 0 (len.toNat % 2 ^ 14)
       let s1 := s.setMailbox slice.val { m with len := len &&& 0x3FFF#32, data := data.take 8192 }
       let wr := s1.judgeWrite p i k given
       let late := wr = drOk ∧ isLate i k = true
       ∃ u, exec (.mbWrite link slice addr len data) s = .next (if late then u.lateWrite i k (leNat given) (.mailbox link.val slice.val addr) else if wr = drOk then u.applyWrite i k given else u) ∧
         u.mailbox slice.val = { addr := kept, len := len &&& 0x3FFF#32, status := if late then 0x80000000 else mbStatus wr 0, data := data.take 8192 } ∧ others u ∧ { u with mailboxes := s.mailboxes, dict := s.dict } = s))

/-- R10, R21, R533, R672: writes of dictionary entries that are judged OK. A slice's configuration entries take the value written without its reserved bits, which counts from the next hub cycle (R578; what arbiters did up to now is settled first), a host link's overflow bits clear their counters, and nothing else changes but the answer sent; a write judged otherwise, or by a path that reaches no server, changes nothing at all.

R524, R561, R570, R595: writes whose effect is one entry or one request: ResetRequest leaves a reset pending, OwnerSlice names the owner slice, TimestampRestarted is cleared, RelightRequest starts a self-test, and FlashWriteData programs 256 bytes of the slot that does not run and moves the offset on.

R364, R369, R370: an accepted write of a host window stores its value with the reserved bits zero, and the slice's rule epoch advances by one; the check that follows uses the new window. The write completes at once where no ring read of the slice checked under an earlier epoch is in flight, else with the return of the last such read; a later write of the slice's set waits for it. -/
def Obligations.EntryWriteEffects : Prop :=
  (∀ (s : State) (p : Path) (value : Bytes),
     (∀ (index : BitVec 16) (sub : BitVec 8),
       let told := { s with out := s.out ++ [.dictResult p index sub (BitVec.ofNat 8 (s.judgeWrite p index.toNat sub.toNat value))] }
       (s.reaches p = false → exec (.dictEntryWrite p index sub value) s = .next s ∧ exec (.counterClear p index sub value) s = .next s) ∧
       (s.reaches p = true → s.judgeWrite p index.toNat sub.toNat value ≠ drOk → exec (.dictEntryWrite p index sub value) s = .next told ∧ exec (.counterClear p index sub value) s = .next told) ∧
       (s.reaches p = true → s.judgeWrite p index.toNat sub.toNat value = drOk → 0x2400 ≤ index.toNat → index.toNat < 0x2600 → sub ≠ 7 → isOverflow index.toNat sub.toNat = false →
         let stored := fun (u : State) => u.setEntry (index.toNat * 256 + sub.toNat) (if sub = 3 then leNat value &&& 0x81FE else leNat value)
         exec (.dictEntryWrite p index sub value) s = .next (if sub.toNat ≤ 6 ∨ sub = 0x0A then (stored told.settleArbiters).passCycle else stored told))) ∧
     ∀ (l : Fin 8) (v : BitVec 8), s.reaches p = true → s.judgeWrite p (0x2000 + l.val) 0x0A [v] = drOk →
       Completes (.counterClear p (BitVec.ofNat 16 (0x2000 + l.val)) 0x0A [v]) s fun t =>
         t.entry (Key.hostLinkFunctionResets l.val) = (if v.getLsbD 0 then 0 else s.entry (Key.hostLinkFunctionResets l.val)) ∧
         t.entry (Key.hostLinkDoorbellDrops l.val) = (if v.getLsbD 1 then 0 else s.entry (Key.hostLinkDoorbellDrops l.val)) ∧
         t.entry (Key.hostLinkLinkErrors l.val) = (if v.getLsbD 2 then 0 else s.entry (Key.hostLinkLinkErrors l.val)) ∧ { t with dict := s.dict, out := s.out } = s) ∧
  (∀ (s : State) (p : Path), s.reaches p = true →
     (∀ v : BitVec 8, s.judgeWrite p 0x1000 3 [v] = drOk → Completes (.resetRequest p v) s fun t => { t with out := s.out } = { s with resetPending := some 2 }) ∧
     (∀ v : BitVec 16, s.judgeWrite p 0x2020 1 (leBytes 2 v.toNat) = drOk → Completes (.ownerSliceWrite p v) s fun t => t.ownerSlice = v.toNat ∧ { t with out := s.out, dict := s.dict } = s) ∧
     (∀ v : BitVec 8, s.judgeWrite p 0xB010 0x0F [v] = drOk → Completes (.timestampRestartedClear p v) s fun t => t.entry Key.pilotPowerTimestampRestarted = 0 ∧ { t with out := s.out, dict := s.dict } = s) ∧
     (∀ (u : UnitId) (k : Nat) (v : BitVec 8), healthIndex u = some k → s.judgeWrite p k 6 [v] = drOk → Completes (.relightRequest p u v) s fun t => t.health u = 2 ∧ { t with out := s.out, dict := s.dict } = s) ∧
     (∀ b : Bytes, b.length = 256 → s.judgeWrite p 0x1101 9 b = drOk → s.entry Key.bootControlRunningSlot = 0 ∨ s.entry Key.bootControlRunningSlot = 1 →
       Completes (.flashWriteData p b) s fun t =>
         let k := 1 - s.entry Key.bootControlRunningSlot
         let off := s.entry Key.bootControlFlashWriteOffset
         Memory.read erasedByte (t.flashOf k) off 256 = b ∧ t.flashOf (1 - k) = s.flashOf (1 - k) ∧ t.entry Key.bootControlFlashWriteOffset = off + 256 ∧
         { t with out := s.out, dict := s.dict, flash0 := s.flash0, flash1 := s.flash1 } = s)) ∧
  ((∀ (s : State) (p : Path) (slice : Fin 512) (w : Fin 64) (v : BitVec 64), s.reaches p = true → s.judgeWrite p (0x6400 + slice.val) (w.val + 1) (leBytes 8 v.toNat) = drOk →
     let told := Emission.dictResult p (BitVec.ofNat 16 (0x6400 + slice.val)) (BitVec.ofNat 8 (w.val + 1)) (BitVec.ofNat 8 drOk)
     let old := s.queues.any fun q => s.slotSlice q.1 = slice.val && q.2.runs.any fun r => r.epoch ≠ (s.windowEpoch slice.val + 1) % 2 ^ 16
     (∀ x, x.slice = slice.val → x.taken = true → s.windowWrites = [x] → s.oldReads slice.val = true → Completes (.hostWindowWrite p slice w v) s fun t => { t with windowWrites := [x] } = s ∧ t.windowWrites.length = 2) ∧
     ((∀ x ∈ s.windowWrites, x.slice ≠ slice.val) → Completes (.hostWindowWrite p slice w v) s fun t =>
       (old = false → t.windowWrites = s.windowWrites ∧ t.out = s.out ++ [told]) ∧ (old = true → t.out = s.out ∧ ∃ x ∈ t.windowWrites, x.slice = slice.val ∧ x.taken = true ∧ x.reply = .path p) ∧
       t.entry (Key.hostWindowsWindow slice.val w.val) = (v &&& ~~~(0xE#64)).toNat ∧ t.windowEpoch slice.val = (s.windowEpoch slice.val + 1) % 2 ^ 16 ∧
       (∀ k, k ≠ Key.hostWindowsWindow slice.val w.val → k ≠ Key.hostWindowsEpoch slice.val → t.entry k = s.entry k) ∧ t.jobs = s.jobs ∧ t.reservoir = s.reservoir ∧
       ∀ addr len : Nat, 0 < len → windowGrants (v &&& ~~~(0xE#64)).toNat addr len false true = true → t.hostAllows slice.val addr len false true = true)) ∧
   ∀ (s : State) (p : Path) (slot : Fin 2048) (entries : List RingEntry) (q : Queue) (r : RingRun) (x : WindowWrite),
     s.queues = [(slot.val, q)] → q.runs = [r] → r.dropped = true → s.windowWrites = [x] → x.slice = s.slotSlice slot.val → x.taken = true → x.reply = .path p →
     Completes (.ringReadComplete slot entries) s fun t => t.windowWrites = [] ∧ t.out = s.out ++ [.dictResult p (BitVec.ofNat 16 (0x6400 + x.slice)) (BitVec.ofNat 8 (x.window + 1)) (BitVec.ofNat 8 drOk)])

/-- R541, R548: the rights of a dictionary write in LIT: a tenant's mailbox writes only RW entries that belong to its slice, a HOP requester without a session only LifeCycle TransitionRequest and KeyRowsProgram, one whose session has ended nothing; every other write of theirs changes nothing but the answer. -/
def Obligations.WriteRights : Prop :=
  ∀ (s t : State) (p : Path) (index : BitVec 16) (sub : BitVec 8) (value : Bytes), s.hop.server = some .firmware → s.lifeCycle ≠ lcRetired →
    exec (.dictEntryWrite p index sub value) s = .next t →
    (∀ n : Fin 512, p = .mailbox n → n.val ≠ s.ownerSlice → s.belongs n.val index.toNat = false → { t with out := s.out } = s) ∧
    (p = .hopPlain → ¬(index = 0x1100 ∧ (sub = 4 ∨ sub = 0x0D)) → { t with out := s.out } = s) ∧
    (∀ n, p = .hopSession n → (s.hop.sessions.all fun x => decide (x.number ≠ n)) = true → { t with out := s.out } = s)

/-- R339, R343, R344, R351, R468, R571: a change of tenancy frees the slice's sessions, closes its digest contexts, empties its owner programs and vault slots, draws it a new seal key set where the hub instance serves and has its window cleared; when the clear ends, and the slice holds its set, its window and extents are clear lines and its extents gone. The clear of the whole reservoir ends with 513 sets held. An erase of a vault slot that nothing holds back empties it and is then answered. -/
def Obligations.TenancyAndErase : Prop :=
  ∀ (s : State) (p : Path) (slice : Fin 512),
    (∀ v : BitVec 8, s.reaches p = true → s.judgeWrite p (0x2400 + slice.val) 7 [v] = drOk →
      Completes (.retenant p slice (.retenant v)) s fun t =>
        (∀ m, (t.session m).slice = slice.val → (t.session m).state = .free) ∧ (∀ k c, (k, c) ∈ t.contexts → c.isOpen = true → c.slice ≠ slice.val) ∧
        (∀ k x, (k, x) ∈ t.programs → k / 16 = slice.val → x.live = false) ∧ (∀ k, s.entry (Key.vaultSlotSlice k) = slice.val → t.vaultKey k = none) ∧
        slice.val ∈ t.clearing ∧ (s.canDraw 16 1 → t.sealSet slice.val = s.drawnBy 16 96) ∧ t.jobs = s.jobs) ∧
    (slice.val ∈ s.clearing → s.sealSet slice.val ≠ [] ∨ s.canDraw 16 1 → Completes (.tenancyClearComplete slice) s fun t =>
      let w := s.windowOf slice.val
      let within := fun (a : Nat) => (w.1 ≤ a ∧ a < w.1 + w.2) ∨ ∃ e ∈ s.extents, e.slice = slice.val ∧ e.base ≤ a ∧ a < e.base + e.size
      slice.val ∉ t.clearing ∧ t.sealSet slice.val ≠ [] ∧ t.extents = s.extents.filter (fun e => e.slice ≠ slice.val) ∧
      (∀ a, (within a → Memory.byte clearByte t.reservoir a = 0) ∧ (¬within a → Memory.byte clearByte t.reservoir a = Memory.byte clearByte s.reservoir a)) ∧
      (∀ l, (within (64 * l) → t.storedTag l = 0) ∧ (¬within (64 * l) → t.storedTag l = s.storedTag l))) ∧
    (s.clearingAll = true → s.canDraw 16 513 → Completes .reservoirClearComplete s fun t =>
      t.reservoir = [] ∧ t.lineTags = [] ∧ t.clearingAll = false ∧ t.jobs = s.jobs ∧ ∀ o, o < 513 → t.sealSet o ≠ []) ∧
    ∀ (slot : Fin 512) (v : BitVec 8), s.reaches p = true → s.judgeWrite p (0x8100 + slot.val) 9 [v] = drOk → s.erasing = [] →
      (s.slotHeld slot.val s.nextJob = false → Completes (.vaultSlotErase p slot v) s fun t =>
        t.vaultKey slot.val = none ∧ t.erasing = [] ∧ (∀ k, k ≠ slot.val → t.vaultKey k = s.vaultKey k) ∧ t.out = s.out ++ [.dictResult p (BitVec.ofNat 16 (0x8100 + slot.val)) 9 (BitVec.ofNat 8 drOk)]) ∧
      (s.slotHeld slot.val s.nextJob = true → exec (.vaultSlotErase p slot v) s = .next { s with erasing := [(slot.val, s.nextJob, .path p)] })

/-- R484, R491, R492: embers. A FAILED ember that retries is TESTING, and a start-up test leaves it HEALTHY or FAILED; a HEALTHY ember that fails a health test is FAILED; with fewer than two HEALTHY left the block enters GUTTER and its pool and halves of seeds are discarded. Stated while the faults of R496 for these events are IGNORE or NOTE, their default.

R455, R480, R485, R487 to R489, R493, R494: seeds and DRBG instances. A block whose samples repeat fails its ember (R483). The outputs of blocks of two embers form a seed, the earlier one and then 16 bytes of the later, for the instance whose reseed fell due first, else for the pool of 32; an instance is instantiated from the oldest seed once the one before it is ready; a reseed takes the oldest seed, and one that finds the pool empty holds its instance; when the gutter timeout expires the job that waits for randomness ends ENTROPY_UNAVAILABLE. Where the hub instance serves again, no stream waits for an EPOCH of it.

R490, R496: an accepted write of KatRequest 01h runs the known-answer tests: KatResult takes their outcome, and a failed conditioner test makes the block FAILED, a passed one ends that. Stated while the conditioner's fault is IGNORE or NOTE; where it is FATAL it also stops the device. -/
def Obligations.EntropyBlock : Prop :=
  (∀ (s : State) (e : Fin 4), s.hubOn = true → s.severityOf 0x0B01 ≤ 1 → s.severityOf 0x0B02 ≤ 1 →
     (s.ember e.val = .failed → Completes (.emberRetry e) s fun t => t.ember e.val = .testing ∧ (∀ k, k ≠ e.val → t.ember k = s.ember k) ∧ { t with entropy := s.entropy } = s) ∧
     (s.ember e.val = .testing → s.entropy.startupDone = true → 1 ≤ s.healthyEmbers →
       Completes (.emberStartupTestEnd e true) s fun t => t.ember e.val = .healthy ∧ (∀ k, k ≠ e.val → t.ember k = s.ember k) ∧ t.entropy.gutter = false ∧ { t with entropy := s.entropy } = s) ∧
     (s.ember e.val = .testing → s.entropy.startupDone = true → 2 ≤ s.healthyEmbers →
       Completes (.emberStartupTestEnd e false) s fun t => t.ember e.val = .failed ∧ (∀ k, k ≠ e.val → t.ember k = s.ember k) ∧ t.entropy.pool = s.entropy.pool) ∧
     (s.ember e.val = .healthy → s.entropy.startupDone = true →
       Completes (.emberHealthFailure e) s fun t => t.ember e.val = .failed ∧ (∀ k, k ≠ e.val → t.ember k = s.ember k) ∧ t.jobs = s.jobs ∧
         (3 ≤ s.healthyEmbers → t.entropy.gutter = false ∧ t.entropy.pool = s.entropy.pool) ∧
         (s.healthyEmbers ≤ 2 → s.entropy.gutter = false → t.entropy.gutter = true ∧ t.entropy.pool = [] ∧ t.entropy.halfSeeds = [] ∧ t.entropy.expired = false))) ∧
  (∀ (s : State) (e : Fin 4) (i : Fin 17) (samples : BitVec 512), s.hubOn = true →
     let x := s.entropy
     let out := sha3_256 (leBytes 64 samples.toNat)
     let stuck := repetitionFails 0 false (blockSamples samples)
     (s.ember e.val = .healthy → x.gutter = false → x.failed = false → stuck = true → exec (.blockComplete { ember := e, samples := samples }) s = exec (.emberHealthFailure e) s) ∧
     (s.ember e.val = .healthy → x.gutter = false → x.failed = false → stuck = false →
       ((∀ h ∈ x.halfSeeds, h.1 = e.val) → exec (.blockComplete { ember := e, samples := samples }) s = .next { s with entropy := { x with halfSeeds := x.halfSeeds ++ [(e.val, out)] } }) ∧
       (∀ k first, x.halfSeeds = [(k, first)] → k ≠ e.val →
         let seed := first ++ out.take 16
         (x.holdOrder = [] → exec (.blockComplete { ember := e, samples := samples }) s = .next { s with entropy := { x with halfSeeds := [], pool := if x.pool.length < 32 then x.pool ++ [seed] else x.pool } }) ∧
         (∀ n rest, x.holdOrder = n :: rest → (n = 16 → s.hop.authWait = none ∧ ∀ m ∈ s.liveStreams, (s.stream m).epochDue = false) → Completes (.blockComplete { ember := e, samples := samples }) s fun t =>
           t.drbg n = (s.drbg n).reseeded seed ∧ t.entropy.holdOrder = rest ∧ t.entropy.halfSeeds = [] ∧ t.entropy.pool = x.pool ∧ { t with entropy := x } = s))) ∧
     ((s.drbg i.val).ready = false → (∀ k, instanceBefore i.val = some k → (s.drbg k).ready = true) → x.pool ≠ [] → x.failed = false →
       (i.val = 16 → s.hop.authWait = none ∧ ∀ m ∈ s.liveStreams, (s.stream m).epochDue = false) →
       Completes (.drbgInstantiate i) s fun t =>
         (t.drbg i.val).ready = true ∧ (t.drbg i.val).holding = false ∧ t.entropy.pool = x.pool.drop 1 ∧ (∀ k, k ≠ i.val → t.drbg k = s.drbg k) ∧
         (∀ w, i.val < 16 → w / 16 = i.val → (t.wick w).shroud.keyed = true) ∧ (∀ w, w / 16 ≠ i.val → t.wick w = s.wick w) ∧
         (i.val = 16 → s.hop.server = some .firmware → t.roots.vaultSession.isSome = true) ∧
         (i.val = 16 → s.hop.server ≠ some .firmware → t.drbg 16 = Drbg.instantiated 16 s.timestamp.toNat (x.pool.headD []))) ∧
     ((s.drbg i.val).ready = true → (s.drbg i.val).holding = false →
       ((s.drbg i.val).requests < 4096 → exec (.drbgReseed i) s = .next s) ∧
       (4096 ≤ (s.drbg i.val).requests → ∀ seed rest, x.pool = seed :: rest → Completes (.drbgReseed i) s fun t => t.drbg i.val = (s.drbg i.val).reseeded seed ∧ t.entropy.pool = rest ∧ { t with entropy := x } = s) ∧
       (4096 ≤ (s.drbg i.val).requests → x.pool = [] → Completes (.drbgReseed i) s fun t => (t.drbg i.val).holding = true ∧ t.entropy.holdOrder = x.holdOrder ++ [i.val] ∧ { t with entropy := x, dict := s.dict } = s)) ∧
     (x.gutter = true → x.expired = false → s.severityOf 0x0B03 ≤ 1 →
       (s.jobs = [] → Completes .gutterTimeout s fun t => t.entropy = { x with expired := true } ∧ t.jobs = []) ∧
       (∀ j, s.jobs = [j] → j.waitsEntropy = true → j.phase = .running → isObject j.entry.opcode = false → Ends .gutterTimeout s j.id jsEntropy 0))) ∧
  (∀ (s : State) (p : Path), s.reaches p = true → s.judgeWrite p 0x8010 8 [1] = drOk →
     (Completes (.katRequest p 1 0) s fun t => t.entry Key.entropyStatusKatResult = 0 ∧ t.entropy = { s.entropy with failed := false, expired := if s.entropy.failed then s.entropy.expired && s.entropy.gutter else s.entropy.expired } ∧ { t with entropy := s.entropy, dict := s.dict, out := s.out } = s) ∧
     (s.severityOf 0x0B04 ≤ 1 → Completes (.katRequest p 1 0x20000) s fun t => t.entry Key.entropyStatusKatResult = 0x20000 ∧ t.entropy.failed = true ∧ t.entropy.pool = [] ∧ t.entropyState = 4))

/-- R482, R504, R506, R509, R511, R514: an accepted write of TransitionRequest. A request that fails a check records it and changes nothing else; one that passes, with the rails in range, destroys every key, advances the counter (which stays at its last value: the model's choice, log 60), blows all three fuse copies to the target and resets the device; with a rail out of range it stops before the counter; a loss of supply part way leaves each copy between old and new; a fuse bit that fails is recorded. Stated while neither HALT is latched nor a SNUFF runs. KeyRowsProgram draws the URS and blows its row, or leaves the row partial when the power fails. -/
def Obligations.LifeCycleTransitions : Prop :=
  ∀ (s : State) (p : Path) (r : Bytes) (n : Nat), s.reaches p = true →
    let dst := BitVec.ofNat 16 (field r 26 2)
    let c := s.transitionCheck r
    let recorded := fun (t : State) => t.entry Key.lifeCycleLastResult = c ∧ { t with out := s.out, dict := s.dict } = s
    (s.judgeWrite p 0x1100 4 r = drOk → s.haltLatched = false → s.tamper.snuffDue = none →
      (s.supplies.rails = 0xFF → Completes (.transitionRequest p r none) s fun t => if c ≠ 0 then recorded t else
        (t.roots.c1, t.roots.c2, t.roots.c3) = (dst, dst, dst) ∧ t.roots.ck = none ∧ t.roots.drk = none ∧ t.vault = [] ∧ t.mram = [] ∧ t.jobs = [] ∧ t.power = .booting ∧
        t.entry Key.lifeCycleLastResult = lrDone ∧ t.entry Key.lifeCycleCounter = min (s.entry Key.lifeCycleCounter + 1) (2 ^ 64 - 1) ∧ t.entry Key.deviceControlLastResetCause = 3) ∧
      (s.supplies.rails ≠ 0xFF → Completes (.transitionRequest p r none) s fun t => if c ≠ 0 then recorded t else
        (t.roots.c1, t.roots.c2, t.roots.c3) = (s.roots.c1, s.roots.c2, s.roots.c3) ∧ t.entry Key.lifeCycleLastResult = lrSupply ∧ t.entry Key.lifeCycleCounter = s.entry Key.lifeCycleCounter ∧ t.vault = [] ∧ t.power = .booting) ∧
      (s.supplies.rails = 0xFF → ∀ f : Fin 3 × Fin 16, s.fusePlan dst = [(f.1.val, f.2.val)] → Completes (.transitionRequest p r (some (.bitFails f.1 f.2))) s fun t => if c ≠ 0 then recorded t else
        (t.roots.c1, t.roots.c2, t.roots.c3) = (s.roots.c1, s.roots.c2, s.roots.c3) ∧ t.entry Key.lifeCycleLastResult = lrProgramFail ∧ t.vault = [] ∧ t.power = .booting) ∧
      (s.supplies.rails = 0xFF → Completes (.criticalPhasePowerLoss p r n) s fun t => if c ≠ 0 then recorded t else
        Blown s.roots.c1 t.roots.c1 ∧ Blown t.roots.c1 dst ∧ Blown s.roots.c2 t.roots.c2 ∧ Blown t.roots.c2 dst ∧ Blown s.roots.c3 t.roots.c3 ∧ Blown t.roots.c3 dst ∧
        t.vault = [] ∧ t.mram = [] ∧ t.power = .booting ∧ t.supplies.rails = 0 ∧ t.entry Key.deviceControlLastResetCause = 7)) ∧
    ∀ v : BitVec 8, s.judgeWrite p 0x1100 0x0D [v] = drOk → s.canDraw 16 1 →
      (s.roots.rowPartial = false → Completes (.keyRowsProgram p v true) s fun t => t.roots = { s.roots with urs := some (s.drawnBy 16 32) } ∧ { t with roots := s.roots, out := s.out, entropy := s.entropy } = s) ∧
      (Completes (.keyRowsProgram p v false) s fun t => t.roots = { s.roots with rowPartial := true } ∧ { t with roots := s.roots, out := s.out, entropy := s.entropy } = s)

/-- R502, R503, R516, R519 to R523: a boot from the pilot. In SCRAP nothing starts; in RAW and TEST the first slot of the order that is accepted runs, is measured, and serves, and the reservoir is to be cleared; with no accepted slot the ROM serves. Where no boot is due nothing happens.

R522 step 10, R528, R529: the entry to LIT, once the firmware serves and the reservoir is clear: enabled sconces are on and the others off, streams that are enabled wait, sealers are bound, and every function is ready; before that it changes nothing. A handover to the server that the device's condition gives discards assemblies, snapshots and sessions. -/
def Obligations.BootsAndLitEntry : Prop :=
  (∀ (s : State) (ok0 ok1 : Bool),
     let m := majority s.roots.c1 s.roots.c2 s.roots.c3
     let ready := s.hubOn = true ∧ s.power = .booting ∧ s.haltLatched = false ∧ s.hop.server = some .pilot ∧ s.fatal = none
     let min_ := s.entry Key.bootControlMinFirmwareVersion
     let check := fun (k : Nat) => slotCheck (if k = 0 then ok0 else ok1) (s.slotImage k) min_
     let first := (s.slotOrder.getD 0 0)
     let second := (s.slotOrder.getD 1 0)
     (¬ready → ∀ b0 b1, exec (.boot ok0 ok1 b0 b1) s = .next s) ∧
     (ready → lifeCode m = lcScrap → Completes (.boot ok0 ok1 none none) s fun t => t.lifeCycle = lcScrap ∧ t.hop = s.hop ∧ t.power = .booting ∧ t.dict = s.dict) ∧
     (ready → lifeCode m ≠ lcScrap → check 0 ≠ 0 → check 1 ≠ 0 → Completes (.boot ok0 ok1 none none) s fun t =>
       t.hop.server = some .rom ∧ t.hop.sessions = [] ∧ t.entry Key.bootControlSlotResult0 = check 0 ∧ t.entry Key.bootControlSlotResult1 = check 1 ∧ t.power = .booting) ∧
     (ready → lifeCode m = lcRaw ∨ lifeCode m = lcTest → s.canDraw 16 1 → s.entry Key.pilotPowerLastWakeSource = 6 →
       Completes (.boot ok0 ok1 none none) s fun t =>
         ∀ k, (check first = 0 ∧ k = first) ∨ (check first ≠ 0 ∧ check second = 0 ∧ k = second) →
         let img := s.slotImage k
         t.hop.server = some .firmware ∧ t.lifeCycle = lifeCode m ∧ Blown m t.roots.c1 ∧ Blown m t.roots.c2 ∧ Blown m t.roots.c3 ∧ t.clearingAll = true ∧ t.power = .booting ∧
         t.roots.measurement = sha3_512 (img.take (field img 16 4)) ∧ t.entry Key.bootControlRunningSlot = k ∧ t.entry Key.bootControlFirmwareVersion = field img 8 4 ∧
         t.entry Key.bootControlMinFirmwareVersion = max min_ (field img 12 4) ∧ t.roots.vaultSession = some (s.drawnBy 16 32))) ∧
  (∀ s : State,
     let due := s.power = .booting ∧ s.hop.server = some .firmware ∧ s.clearingAll = false ∧ s.lifeCycle ≠ lcRetired ∧ s.fatal = none ∧ s.haltLatched = false
     (¬due → exec .litEntry s = .next s) ∧
     (due → Completes .litEntry s fun t =>
       t.isLit = true ∧ t.activityAt = s.timestamp ∧ (∀ c < 16, t.entry (Key.sconcePowerState c) = if s.flag (Key.sconcePowerEnable c) then 1 else 0) ∧
       (∀ l < 8, (t.fn l).ready = true) ∧ (∀ n < 1024, s.flag (Key.mediaStreamEnable n) = true → t.streamState n = stWaiting) ∧
       (∀ n < 32, (t.sealer n).octet = (if s.flag (Key.unitBindingSealerMirror n) then n ^^^ 16 else n) ∧ (t.sealer n).key = none) ∧ t.jobs = s.jobs ∧ t.sessions = s.sessions) ∧
     ∀ v : Server,
       (s.mayServe v = true → Completes (.serverHandover v) s fun t => t.hop.server = some v ∧ t.hop.requesters = [] ∧ t.hop.sessions = [] ∧ t.hop.pending = none ∧ { t with hop := s.hop } = s) ∧
       (s.mayServe v = false → exec (.serverHandover v) s = .next s))

/-- R14, R343, R449, R454, R560, R658, R663: a device reset, by command, by RESET_N, or by a rail that drops: jobs, sessions, keys of the hub, reservoir and queues are lost, entries without Persist return to their defaults, and fuses, CK, boot flash and key records stay; the pilot serves and its record names the cause. Stated while HALT is neither latched nor due with a SNUFF. -/
def Obligations.DeviceResets : Prop :=
  ∀ s : State,
    let lost := fun (t : State) (cause : Nat) =>
      t.power = .booting ∧ t.jobs = [] ∧ t.queues = [] ∧ t.reservoir = [] ∧ t.vault = [] ∧ t.contexts.all (fun p => !p.2.isOpen) = true ∧ (∀ n, (t.session n).state = .free) ∧
      t.roots.drk = none ∧ t.roots.mbk = none ∧ t.roots.ck = s.roots.ck ∧ (t.roots.c1, t.roots.c2, t.roots.c3, t.roots.urs) = (s.roots.c1, s.roots.c2, s.roots.c3, s.roots.urs) ∧
      t.flash0 = s.flash0 ∧ t.flash1 = s.flash1 ∧ t.mram = s.mram ∧ t.hop.server = some .pilot ∧ t.fatal = none ∧ t.resetPending = none ∧ t.retention = none ∧ t.timestamp = s.timestamp ∧
      t.entry Key.deviceControlLastResetCause = cause ∧ t.entry Key.pilotPowerLastWakeSource = 6 ∧ (∀ g < 2048, t.entry (Key.queueSlotEnable g) = dictDefault s.variant (Key.queueSlotEnable g)) ∧ .mainReset ∈ t.out
    let running := s.power = .lit ∨ s.power = .low ∨ s.power = .booting
    let calm := s.haltLatched = false ∧ s.tamper.snuffHalt = false
    (running → calm → ∀ c : BitVec 8, Completes (.deviceReset c) s fun t => lost t (s.resetPending.getD c).toNat) ∧ (¬running → ∀ c, exec (.deviceReset c) s = .next s) ∧
    (running → calm → Completes .resetN s fun t => lost t 6) ∧ (¬running → exec .resetN s = .next s) ∧
    (s.hubOn = true → calm → ∀ r : Fin 8, r.val ≠ 1 → r.val ≠ 7 → Completes (.railDrop r) s fun t => lost t 7 ∧ t.supplies.rails.getLsbD r.val = false)

/-- R582 to R585, R587, R662: accepted requests for LOW, DARK and LIT, and the idle policy. An entry whose checks all pass stops fetching and flushes the shroud FIFOs, and hub cycles bring it to its commit point (log 62 says when), where LOW powers the sconces and the units off, and DARK the hub with every key but the CK and the main rails; one that meets a refuser records it and changes nothing else. A request from LOW wakes the device. -/
def Obligations.PowerStates : Prop :=
  ∀ (s : State) (p : Path),
    let low := fun (t : State) => t.power = .low ∧ t.entering = none ∧ t.lowSince = s.timestamp ∧ (∀ c < 16, t.entry (Key.sconcePowerState c) = 0) ∧ t.wicks = [] ∧ t.tapers = [] ∧ t.sessions = s.sessions ∧ t.vault = s.vault ∧ t.reservoir = s.reservoir ∧ t.queues = s.queues
    let dark := fun (t : State) => t.power = .dark ∧ t.entering = none ∧ t.jobs = [] ∧ t.vault = [] ∧ t.roots.drk = none ∧ t.roots.ck = s.roots.ck ∧ t.reservoir = [] ∧ (∀ n, (t.session n).state = .free) ∧
      t.supplies.mainEn = false ∧ t.supplies.rails = 0 ∧ t.hop.server = some .pilot ∧ (∃ r, t.retention = some r ∧ r.time = s.timestamp ∧ (r.bytes s.variant).take 8 = [0x50#8, 0x59#8, 0x52#8, 0x54#8] ++ leBytes 4 45120) ∧ t.entry Key.tamperStatusReprovisionNeeded = s.entry Key.tamperStatusReprovisionNeeded
    let enters := fun (d : Bool) (t : State) => t.entering = some { dark := d, due := s.hubCycle + entryCycles d } ∧ t.fetchStopped = true ∧
      (∀ w, t.wick w = if d then s.wick w else { s.wick w with shroud := { (s.wick w).shroud with fifo := 0 } }) ∧ { t with entering := s.entering, fetchStopped := s.fetchStopped, wicks := s.wicks, out := s.out } = s
    let refused := fun (r : Refuser) (t : State) => t.entry Key.pilotPowerLastRefuser = r.1.toNat ∧ t.entry Key.pilotPowerLastRefuserSlice = r.2.toNat ∧ t.entry Key.pilotPowerLastRefuseTime = s.timestamp.toNat ∧ { t with out := s.out, dict := s.dict } = s
    (s.reaches p = true → s.judgeWrite p 0xB000 1 [2] = drOk →
      (s.power = .lit → s.entryRefuser false = none → Completes (.requestLow p) s (enters false)) ∧
      (s.power = .low → Completes (.requestLow p) s fun t => { t with out := s.out } = s) ∧
      (∀ r, s.power = .lit → s.entryRefuser false = some r → Completes (.requestLow p) s (refused r))) ∧
    (s.reaches p = true → s.judgeWrite p 0xB000 1 [3] = drOk →
      (s.power = .lit ∨ s.power = .low → s.entryRefuser true = none → Completes (.requestDark p) s (enters true)) ∧
      (∀ r, s.power = .lit ∨ s.power = .low → s.entryRefuser true = some r → Completes (.requestDark p) s (refused r))) ∧
    (s.reaches p = true → s.judgeWrite p 0xB000 1 [1] = drOk →
      (s.power = .low → s.haltLatched = false → Completes (.requestLit p) s fun t => t.power = .lit ∧ t.fetchStopped = false ∧ t.entry Key.pilotPowerLastWakeSource = 5 ∧ t.sessions = s.sessions ∧ t.jobs = s.jobs) ∧
      (s.power = .lit → Completes (.requestLit p) s fun t => { t with out := s.out } = s)) ∧
    (s.power = .lit → s.entering = none → s.entry Key.powerControlLowAfterIdleMs ≠ 0 → s.idle = true → s.fatal = none → s.activityAt.toNat + msTicks (s.entry Key.powerControlLowAfterIdleMs) ≤ s.timestamp.toNat → s.entryRefuser false = none → Completes .lowIdleExpiry s (enters false)) ∧
    (s.power = .low → s.entering = none → s.entry Key.powerControlDarkAfterLowS ≠ 0 → s.fatal = none → s.lowSince.toNat + s.entry Key.powerControlDarkAfterLowS * 32768 ≤ s.timestamp.toNat → s.entryRefuser true = none → Completes .darkAfterLowExpiry s (enters true)) ∧
    ∀ e, s.entering = some e → s.pending = [] → s.hubOn = true → s.tamper.snuffDue = none → s.hop.authWait = none →
      (s.hubCycle + 1 < e.due → step s = .next { s with hubCycle := s.hubCycle + 1 }) ∧
      (e.due ≤ s.hubCycle + 1 → ∃ t, step s = .next t ∧ if e.dark then dark t else low t)

/-- R587 to R590, R603, R612, R614: wakes. From LOW the device is LIT again with its sessions, from DARK it boots; a host wakes it from LOW only; a wake pin acts by level or by its change, the timer at WakeAtTime, which is then 0; while HALT is latched nothing wakes it. A timer that meets an entry not yet committed aborts it (R586). The record of the last wake names source, pin and time. -/
def Obligations.Wakes : Prop :=
  ∀ (s : State) (pin : Fin 8) (slot : Fin 2048), s.haltLatched = false →
    let cfg := s.entry (Key.wakePinsWakePinConfig pin.val)
    let at_ := s.entry Key.pilotPowerWakeAtTime
    let calm := s.entering = none
    let woken := fun (t : State) (source p : Nat) => t.entry Key.pilotPowerLastWakeSource = source ∧ t.entry Key.pilotPowerLastWakePin = p ∧ t.jobs = s.jobs ∧ t.sessions = s.sessions ∧
      (s.power = .low → t.power = .lit ∧ t.fetchStopped = false ∧ t.activityAt = t.timestamp) ∧ (s.power = .dark → t.power = .booting)
    (s.supplies.vstby = true → bitOf cfg 0 = true → s.pinAsserted pin.val = false → ∀ high, ({ s with supplies := { s.supplies with wakeLevels := BitVec.ofNat 8 (withBit s.supplies.wakeLevels.toNat pin.val high) } } : State).pinAsserted pin.val = true →
      calm → s.power = .low ∨ s.power = .dark → Completes (.wakePin pin high) s fun t => woken t 1 pin.val ∧ t.entry Key.pilotPowerLastWakeTime = s.timestamp.toNat) ∧
    (s.supplies.vstby = true → bitOf cfg 0 = false → ∀ high, Completes (.wakePin pin high) s fun t => { t with supplies := s.supplies } = s) ∧
    (s.power = .low → calm → s.flag Key.powerControlHostWakeEnable = true → (s.queue slot.val).cache ≠ [] → Completes (.hostWake slot) s fun t => woken t 3 0xFF ∧ t.entry Key.pilotPowerLastWakeSlice = (uSlice (s.slotSlice slot.val)).toNat) ∧
    (s.power ≠ .low → calm → exec (.hostWake slot) s = .next s) ∧
    (calm → at_ ≠ 0 → s.supplies.vstby = true → s.power = .low ∨ s.power = .dark → at_ ≤ s.timestamp.toNat → Completes .wakeAtTime s fun t => woken t 4 0xFF ∧ t.entry Key.pilotPowerWakeAtTime = 0 ∧ t.timestamp = s.timestamp) ∧
    (∀ e, s.entering = some e → s.hubCycle < e.due → at_ ≠ 0 → s.supplies.vstby = true → s.power ≠ .cell → at_ ≤ s.timestamp.toNat → Completes .wakeAtTime s fun t =>
      t.entering = none ∧ t.fetchStopped = decide (s.power ≠ .lit) ∧ t.entry Key.pilotPowerLastRefuser = uPilot.toNat ∧ t.entry Key.pilotPowerLastRefuseTime = s.timestamp.toNat ∧ t.entry Key.pilotPowerWakeAtTime = 0 ∧
      { t with entering := s.entering, fetchStopped := s.fetchStopped, dict := s.dict } = s) ∧
    (at_ = 0 → exec .wakeAtTime s = .next s) ∧
    (s.supplies.vstby = true → s.tamper.snuffDue = none → calm → s.hop.authWait = none → s.power = .low ∨ s.power = .dark → s.levelHeld pin.val = true → (∀ k < pin.val, s.levelHeld k = false) → Completes .slowClockTick s fun t => woken t 1 pin.val)

/-- R26, R454, R595, R596, R612, R656, R661 to R663, R665: supplies, rails and clocks. Losing VSTBY takes the device to CELL, where without a cell the CK is lost; VSTBY back from a cell gives DARK; a power-up after both were lost restarts the timestamp and sets TimestampRestarted; MAIN_EN, the rails and a failed start move as R661 says; a HALT that is released boots with cause 01h. -/
def Obligations.SuppliesAndRails : Prop :=
  ∀ s : State,
    let x := s.supplies
    (x.vstby = true → Completes .vstbyLoss s fun t => t.power = .cell ∧ t.supplies.vstby = false ∧ t.supplies.mainEn = false ∧ t.hop.server = none ∧ t.retention = none ∧ t.timestamp = s.timestamp ∧
      t.roots.ck = (if x.vbat then s.roots.ck else none) ∧ (x.mainEn = true → t.vault = [] ∧ t.jobs = [])) ∧
    (s.power = .cell → x.vstby = false → x.vbat = true → Completes .vstbyReturn s fun t => t.power = .dark ∧ t.supplies.vstby = true ∧ t.hop.server = some .pilot ∧ t.roots = s.roots ∧ t.dict = s.dict) ∧
    (x.vstby = false → x.vbat = false → Completes .pilotPowerUp s fun t => t.timestamp = 0 ∧ t.power = .booting ∧ t.supplies.vstby = true ∧ t.hop.server = some .pilot ∧
      t.entry Key.pilotPowerTimestampRestarted = 1 ∧ t.entry Key.deviceControlLastResetCause = 1 ∧ t.entry Key.pilotPowerLastWakeSource = 6 ∧ t.roots = s.roots) ∧
    (x.vstby = true ∨ x.vbat = true → exec .pilotPowerUp s = .next s) ∧
    (x.vstby = true → s.power = .booting → x.mainEn = false → exec .mainEnAssert s = .next { s with supplies := { x with mainEn := true, railRetry := false } }) ∧
    (x.mainEn = true → Completes .railsInRange s fun t => t.supplies = { x with rails := 0xFF } ∧ { t with supplies := x, dict := s.dict } = s ∧ (x.rails.getLsbD 1 = true → t.dict = s.dict)) ∧ (x.mainEn = false → exec .railsInRange s = .next s) ∧
    (s.power = .booting → x.mainEn = true → x.rails ≠ 0xFF → Completes .railStartTimeout s fun t => t.supplies = { x with mainEn := false, rails := 0, railRetry := true } ∧ t.entry Key.moduleSensorsRailStartFailures ≠ 0 ∧ { t with supplies := x, dict := s.dict } = s) ∧
    Completes .vbatLoss s (fun t => t.supplies = { x with vbat := false } ∧ t.roots = (if x.vstby then s.roots else { s.roots with ck := none }) ∧ { t with supplies := x, roots := s.roots } = s) ∧
    (s.hubMonitors = false → exec .sysclk25Loss s = .next { s with supplies := { x with sysclk := false } }) ∧ exec .sysclk25Return s = .next { s with supplies := { x with sysclk := true } } ∧
    (s.haltLatched = true → x.vstby = true → ∀ byRails, s.power = .halted ∨ byRails = false → Completes (.haltRelease byRails) s fun t =>
      t.haltLatched = false ∧ t.power = .booting ∧ t.entry Key.deviceControlLastResetCause = 1 ∧ t.roots = s.roots ∧ t.jobs = s.jobs) ∧
    (s.haltLatched = false → ∀ byRails, exec (.haltRelease byRails) s = .next s)

/-- R24, R35, R599 to R601, R671: sconce levels and power, the slow clock, whose ticks pass hub cycles only where the hub clock runs, and the sensors. A level written to a sconce that is on is reached by LEVEL_CHANGE_COMPLETE; Enable 00h drains the sconce, whose domains go off with the last attempt; Enable 01h powers it up, and it takes jobs once its instance is ready. -/
def Obligations.SconcesAndSensors : Prop :=
  ∀ (s : State) (p : Path) (c : Fin 16), s.reaches p = true →
    let st := s.entry (Key.sconcePowerState c.val)
    let state := fun (t : State) => t.entry (Key.sconcePowerState c.val)
    (∀ v : BitVec 8, s.judgeWrite p (0x4200 + c.val) 2 [v] = drOk → Completes (.levelWrite p c v) s fun t => t.entry (Key.sconcePowerLevel c.val) = v.toNat ∧ t.jobs = s.jobs ∧
      (st = 1 → s.entry (Key.sconcePowerCurrentLevel c.val) ≠ v.toNat → state t = 2 ∧ (t.sconce c.val).target = v.toNat ∧ t.entry (Key.sconcePowerCurrentLevel c.val) = s.entry (Key.sconcePowerCurrentLevel c.val)) ∧
      (st ≠ 1 → state t = st)) ∧
    (st = 2 → Completes (.levelChangeComplete c) s fun t => t.entry (Key.sconcePowerCurrentLevel c.val) = (s.sconce c.val).target ∧
      (s.entry (Key.sconcePowerLevel c.val) = (s.sconce c.val).target → state t = 1) ∧ (s.entry (Key.sconcePowerLevel c.val) ≠ (s.sconce c.val).target → state t = 2 ∧ (t.sconce c.val).target = s.entry (Key.sconcePowerLevel c.val))) ∧
    (st ≠ 2 → exec (.levelChangeComplete c) s = .next s) ∧
    (s.judgeWrite p (0x4200 + c.val) 1 [0] = drOk → s.power = .lit → st ≠ 0 → Completes (.sconceDisable p c) s fun t => t.entry (Key.sconcePowerEnable c.val) = 0 ∧ (t.sconce c.val).draining = true ∧ state t = st ∧ t.wicks = s.wicks ∧ t.jobs = s.jobs) ∧
    ((s.sconce c.val).draining = true → s.sconceBusy c.val = false → Completes (.sconcePowerDown c) s fun t => state t = 0 ∧ (t.sconce c.val).draining = false ∧ (∀ w, w / 16 = c.val → t.wick w = Wick.fresh) ∧ (∀ w, w / 16 ≠ c.val → t.wick w = s.wick w)) ∧
    (s.sconceBusy c.val = true → exec (.sconcePowerDown c) s = .next s) ∧
    (s.judgeWrite p (0x4200 + c.val) 1 [1] = drOk → s.power = .lit → st = 0 → Completes (.sconceEnable p c) s fun t => t.entry (Key.sconcePowerEnable c.val) = 1 ∧ state t = 3 ∧ (t.sconce c.val).draining = false) ∧
    (s.power = .lit → s.flag (Key.sconcePowerEnable c.val) = true → st = 3 → (s.drbg c.val).ready = true → Completes (.sconceReady c) s fun t => state t = 1 ∧ t.entry (Key.sconcePowerCurrentLevel c.val) = s.entry (Key.sconcePowerLevel c.val) ∧ ∀ w, w / 16 = c.val → (t.wick w).shroud.keyed = true) ∧
    ((s.drbg c.val).ready = false → exec (.sconceReady c) s = .next s) ∧
    (s.supplies.vstby = true ∨ s.supplies.vbat = true → s.tamper.snuffDue = none → s.entering = none → s.hop.authWait = none → ((∀ k < 8, s.levelHeld k = false) ∨ (s.power ≠ .low ∧ s.power ≠ .dark)) → Completes .slowClockTick s fun t => t.timestamp = s.timestamp + 1 ∧ (s.hubOn = false → t.hubCycle = s.hubCycle) ∧
      (s.hubOn = true → t.hubCycle = s.hubCycle + 36621 ∨ t.hubCycle = s.hubCycle + 36622) ∧ { t with timestamp := s.timestamp, hubCycle := s.hubCycle } = s) ∧
    (s.supplies.vstby = false → s.supplies.vbat = false → exec .slowClockTick s = .next s) ∧
    ∀ (temps : List (BitVec 32)) (rails : List (BitVec 16)) (vbat : BitVec 16), s.hop.server = some .firmware → temps.length = 17 → rails.length = 9 →
      Completes (.sensorSample temps rails vbat) s fun t =>
        (∀ k < 17, t.entry (Key.moduleSensorsDieTemp k) = (temps.getD k 0).toNat) ∧ (∀ k < 9, t.entry (Key.moduleSensorsRailMv k) = (rails.getD k 0).toNat) ∧ t.entry Key.moduleSensorsVbatMv = vbat.toNat ∧ { t with dict := s.dict } = s

/-- R607 to R616, R620: tamper alarms. An armed source whose condition begins sets its SourceState bit and is disarmed, and one alarm record goes to the log; LOG counts it and does no more; SNUFF and SNUFF+HALT destroy the vault's keys at once, and the CK too for the mantle, and are complete after 2,400 hub cycles, where SNUFF+HALT latches HALT; an alarm that finds a SNUFF in progress joins it. A source that is not armed does nothing. -/
def Obligations.TamperAlarms : Prop :=
  ∀ s : State,
    let calm := s.tamper.snuffDue = none
    let raises := fun (i : Instr) (src : Nat) =>
      let r := s.entry (Key.tamperControlResponse (src - 1))
      (calm → s.tamper.disarmed.getLsbD (src - 1) = true → exec i s = .next s) ∧
      (calm → s.tamper.disarmed.getLsbD (src - 1) = false →
        (r = 0 → Completes i s fun t => bitOf (t.entry Key.tamperStatusSourceState) (src - 1) = true ∧ t.tamper.disarmed.getLsbD (src - 1) = true ∧ t.entry Key.tamperStatusLastAlarmSource = src ∧
          t.entry Key.tamperStatusLastAlarmTime = s.timestamp.toNat ∧ t.entry Key.tamperLogNextSeq = (s.entry Key.tamperLogNextSeq + 1) % 2 ^ 32 ∧ { t with dict := s.dict, tamper := s.tamper } = s) ∧
        (1 ≤ r → r ≤ 2 → Completes i s fun t => t.vault = [] ∧ t.roots.drk = none ∧ t.roots.osk = none ∧ t.entry Key.tamperStatusLastAlarmSource = src ∧ (∀ n, (t.session n).state = .free) ∧
          t.roots.ck = (if src = 1 then none else s.roots.ck) ∧ t.tamper.snuffDue = some (s.hubCycle + 2400) ∧ t.tamper.snuffHalt = decide (r = 2) ∧ t.haltLatched = false ∧ t.power = s.power)) ∧
      (∀ due, s.tamper.snuffDue = some due → s.hubCycle < due → s.tamper.disarmed.getLsbD (src - 1) = false → Completes i s fun t =>
        t.tamper.snuffDue = some due ∧ t.tamper.snuffHalt = (s.tamper.snuffHalt || decide (r = 2)) ∧ t.entry Key.tamperStatusLastAlarmSource = src ∧ t.jobs = s.jobs ∧ t.vault = s.vault)
    (s.hubMonitors = true → s.tamper.testSource = none →
    (∀ line, raises (.mantleAlarm line) 1) ∧ (∀ rail, glitchCode rail = true → raises (.supplyGlitchAlarm rail) 2) ∧ (∀ hub, raises (.clockAlarm hub) 3) ∧
    (∀ n r, s.tempOutside r = true → raises (.temperatureAlarm n r) 4) ∧ (∀ d, raises (.lightAlarm d) 5) ∧
    (s.entry Key.tamperControlIntegrityBurstCount ≤ s.burstFailures.length → raises .integrityBurstAlarm 10)) ∧
    (s.burstFailures.length < s.entry Key.tamperControlIntegrityBurstCount → exec .integrityBurstAlarm s = .next s) ∧
    (∀ n r, s.tempOutside r = false → exec (.temperatureAlarm n r) s = .next s) ∧
    (∀ due, s.tamper.snuffDue = some due → s.hubMonitors = true → s.entering = none → s.pending = [] → s.hop.authWait = none →
      (s.hubCycle + 1 < due → step s = .next { s with hubCycle := s.hubCycle + 1 }) ∧
      (due ≤ s.hubCycle + 1 → ∃ t, step s = .next t ∧ t.tamper.snuffDue = none ∧
        (s.tamper.snuffHalt = true → t.haltLatched = true ∧ t.power = .halted ∧ t.jobs = [] ∧ t.hop.server = some .pilot) ∧ (s.tamper.snuffHalt = false → t.entry Key.keyRootLastSnuffTime = s.timestamp.toNat ∧ t.haltLatched = false ∧ t.power = s.power ∧ t.jobs = s.jobs)))

/-- R608 to R610, R614, R617, R618: loops, re-arming and tamper tests. A loop alarms at its second consecutive open sample; a source whose condition is absent is armed again; a test request starts a stimulus, an alarm of the source under test is suppressed and passes it, and one that has not alarmed at its deadline fails it. -/
def Obligations.LoopsAndTests : Prop :=
  ∀ (s : State) (p : Path) (n : Fin 10) (v : BitVec 8),
    (s.supplies.vstby = true → s.entry Key.tamperControlLoopEnable = 0 → ∀ o, exec (.loopSample o) s = .next s) ∧
    (s.supplies.vstby = true → s.entry Key.tamperControlLoopEnable = 1 →
      (s.tamper.openOnce.getLsbD 0 = false → Completes (.loopSample 1) s fun t => t.tamper.openOnce.getLsbD 0 = true ∧ t.dict = s.dict ∧ { t with tamper := s.tamper } = s) ∧
      (Completes (.loopSample 0) s fun t => t.tamper.openOnce.getLsbD 0 = false ∧ bitOf (t.entry Key.tamperStatusSourceState) 5 = false ∧ { t with tamper := s.tamper, dict := s.dict } = s) ∧
      (s.tamper.snuffDue = none → s.tamper.openOnce.getLsbD 0 = true → s.tamper.disarmed.getLsbD 5 = false → s.tamper.testSource = none → s.entry (Key.tamperControlResponse 5) = 0 →
        Completes (.loopSample 1) s fun t => t.entry Key.tamperStatusLastAlarmSource = 6 ∧ t.tamper.disarmed.getLsbD 5 = true ∧ { t with tamper := s.tamper, dict := s.dict } = s)) ∧
    (s.conditionAbsent (n.val + 1) = true → Completes (.alarmRearm n) s fun t => bitOf (t.entry Key.tamperStatusSourceState) n.val = false ∧ t.tamper.disarmed.getLsbD n.val = false ∧ { t with tamper := s.tamper, dict := s.dict } = s) ∧
    (s.conditionAbsent (n.val + 1) = false → exec (.alarmRearm n) s = .next s) ∧
    (s.reaches p = true → s.judgeWrite p 0x9030 1 [v] = drOk → Completes (.testRequest p v) s fun t => t.entry Key.tamperTestTestResult = 1 ∧ t.tamper.testSource = some v.toNat ∧ t.tamper.testJudged = false ∧ t.jobs = s.jobs ∧ t.vault = s.vault) ∧
    (s.tamper.testSource = some (n.val + 1) → s.tamper.testJudged = false →
      (s.severityOf 0x0D01 ≤ 1 → Completes .testDeadline s fun t => t.entry Key.tamperTestTestResult = 3 ∧ t.tamper = { s.tamper with testJudged := true } ∧ t.jobs = s.jobs) ∧
      (s.hubMonitors = true → s.tamper.snuffDue = none → n.val = 0 → s.tamper.disarmed.getLsbD 0 = false → ∀ line, Completes (.mantleAlarm line) s fun t =>
        t.entry Key.tamperTestTestResult = 2 ∧ t.tamper.testJudged = true ∧ t.vault = s.vault ∧ t.roots = s.roots ∧ t.haltLatched = s.haltLatched)) ∧
    (s.tamper.testSource = none → exec .testDeadline s = .next s) ∧
    exec .testSuppressionEnd s = .next { s with tamper := { s.tamper with testSource := none, testAlarmed := false, testJudged := false } }

/-- R618 to R620, R627 to R634: what a report does, for a wick that serves no attempt and no open event: IGNORE only counts it where its unit names it; NOTE opens an event with the next sequence number; RECOVER also makes the collector TROUBLED; FENCE also takes the wick and its FV island out of service; FATAL stops the device. A flit integrity failure counts and is dated. -/
def Obligations.FaultReports : Prop :=
  ∀ (s : State) (code : BitVec 16) (w : Fin 256) (d : BitVec 64), s.collects = true →
    let u := uWick w.val
    let sev := s.severityOf code.toNat
    let report := Instr.faultReport code u u 0 d
    code.toNat ∉ [0x0101, 0x010A, 0x010C, 0x0301, 0x0901, 0x0401, 0x0402, 0x0403, 0x0405, 0x0408, 0x0501, 0x0502, 0x0601, 0x0801, 0x0802, 0x0803, 0x0804, 0x0B01, 0x0B02, 0x0D01, 0x1201] →
    s.health u = 0 → s.jobs = [] → s.events = [] → s.fatal = none → (∀ n, s.streamState n ≠ stMoving) →
    (sev = 0 → exec report s = .next s) ∧
    (sev = 1 → Completes report s fun t => (∃ e, t.events = [e] ∧ e.accused = u ∧ e.code = code ∧ e.severity = 1 ∧ e.reports = 1 ∧ e.seq = BitVec.ofNat 32 (s.entry Key.faultLogNextSeq) ∧ e.detail = d ∧ e.time = s.timestamp) ∧
      t.entry Key.faultLogNextSeq = (s.entry Key.faultLogNextSeq + 1) % 2 ^ 32 ∧ t.health u = 0 ∧ { t with dict := s.dict, events := s.events } = s) ∧
    (sev = 2 → Completes report s fun t => (∃ e, t.events = [e] ∧ e.accused = u ∧ e.code = code ∧ e.severity = 2) ∧ t.entry Key.faultCollectorState ≠ 0 ∧ t.quietStart = s.timestamp ∧ t.health u = 0 ∧ t.jobs = [] ∧ t.wicks = s.wicks) ∧
    (sev = 3 → Completes report s fun t => t.health u = 1 ∧ t.health (uIsland w.val) = 1 ∧ t.entry Key.faultCollectorState ≠ 0 ∧ u ∈ t.selfOwn ∧ (t.wick w.val).keyed = false ∧ (t.wick w.val).island = .off ∧ t.fatal = none) ∧
    (sev = 4 → Completes report s fun t => (∃ f, t.fatal = some f ∧ f.event.code = code ∧ f.served = false) ∧ t.alertLow = true ∧ t.fetchStopped = true ∧ t.entry Key.faultCollectorState = 2 ∧ t.entry Key.faultCollectorLastFatalCode = code.toNat ∧ ∀ l, (t.fn l).ready = false) ∧
    (s.severityOf 0x0901 = 0 → ∀ x, Completes (.flitIntegrityFailure x) s fun t => t.tamper.failures = s.tamper.failures ++ [s.timestamp] ∧ t.entry Key.tamperStatusIntegrityFailures ≠ 0 ∧ { t with dict := s.dict, tamper := s.tamper } = s)

/-- R513, R632, R634 to R637, R641, R642, R645: what follows events: a window that closes writes the event's record at its ring position; the quiet timer makes the collector NORMAL and starts the self-tests of fenced units; a passed self-test brings a unit back; the dump of a fatal stop begins with its magic and hands over to the ROM; the hold time and the lamplighter's watchdog reset the device. The resets are stated while HALT is neither latched nor due with a SNUFF. In TEST with key rows a locked region reads 5Ah. -/
def Obligations.FaultFollowUps : Prop :=
  ∀ s : State,
    let calm := s.haltLatched = false ∧ s.tamper.snuffHalt = false
    (∀ e, s.events = [e] → Completes (.eventWindowClose e.accused e.code) s fun t =>
      t.events = [] ∧ Table.get (fun _ => []) t.eventLog (e.seq.toNat % 1024) = e.record ∧ e.opened + 4096 ≤ t.hubCycle ∧ { t with events := s.events, eventLog := s.eventLog, hubCycle := s.hubCycle } = s) ∧
    (s.events = [] → ∀ a c, exec (.eventWindowClose a c) s = .next s) ∧
    (s.entry Key.faultCollectorState = 1 → (∀ u, s.health u ≠ 1) → s.quietStart.toNat + s.entry Key.faultCollectorQuietS * 32768 < 2 ^ 64 → Completes .quietExpiry s fun t =>
      t.entry Key.faultCollectorState = 0 ∧ s.quietStart.toNat + s.entry Key.faultCollectorQuietS * 32768 ≤ t.timestamp.toNat ∧ t.jobs = s.jobs) ∧
    (s.entry Key.faultCollectorState ≠ 1 → exec .quietExpiry s = .next s) ∧
    (∀ w : Fin 256, s.health (uWick w.val) = 2 → s.relightDue = [] → Completes (.selfTestComplete (uWick w.val) true) s fun t => t.health (uWick w.val) = 0 ∧ t.jobs = s.jobs ∧ uWick w.val ∉ t.selfOwn) ∧
    (∀ u b, s.health u ≠ 2 → exec (.selfTestComplete u b) s = .next s) ∧
    (∀ f, s.fatal = some f → f.served = false → s.entry Key.dumpControlDumpSlice = 0xFFFF → Completes .dumpComplete s fun t =>
      t.dump.take 5 = [0x50#8, 0x59#8, 0x52#8, 0x44#8, 0x01#8] ∧ t.fatal = some { f with served := true } ∧ t.hop.server = some .rom ∧ t.hop.sessions = [] ∧ t.out = s.out ∧ t.jobs = s.jobs) ∧
    (s.fatal = none → exec .dumpComplete s = .next s ∧ exec .fatalHoldExpiry s = .next s ∧ exec .lamplighterWatchdog s = .next s) ∧
    (∀ f, calm → s.fatal = some f → s.entry Key.dumpControlFatalHoldS ≠ 0 → Completes .fatalHoldExpiry s fun t => t.power = .booting ∧ t.fatal = none ∧ t.entry Key.deviceControlLastResetCause = 4) ∧
    (∀ f, s.fatal = some f → s.entry Key.dumpControlFatalHoldS = 0 → exec .fatalHoldExpiry s = .next s) ∧
    (∀ f, calm → s.fatal = some f → f.served = false → Completes .lamplighterWatchdog s fun t => t.power = .booting ∧ t.fatal = none ∧ t.entry Key.deviceControlLastResetCause = 5) ∧
    (s.lifeCycle = lcTest → s.roots.urs ≠ none → ∀ r, Completes (.debugAccess r false) s (fun t => t.out = s.out ++ [.debugData 0x5A] ∧ { t with out := s.out, dict := s.dict } = s) ∧ Completes (.debugAccess r true) s fun t => t.entry Key.lifeCycleDebugErrors ≠ 0 ∧ { t with dict := s.dict } = s)

/-- R334, R336, R345, R353 to R361, R367: the reservoir's granule map, arbiter and lines. Two usable addresses with one channel and one local address are one address, and each line of a channel has its own tag. With one request waiting that passes its area check its requester is granted, and the request joins the port that returns its data; one that fails it is not performed; with none nothing is granted. A read whose tag checks at once changes nothing, one that checks at the second try is counted, and one that fails twice makes the line a clear line: stated for a line outside every extent with no job fetched, 0803h at RECOVER. -/
def Obligations.ReservoirGrantsAndReads : Prop :=
  (∀ a b : Nat, a < 2 ^ 38 → b < 2 ^ 38 → channelOf a = channelOf b → channelAddr a = channelAddr b → a = b) ∧ (∀ (v : Variant) (a b : Nat), tagAddr v a = tagAddr v b ↔ a / 64 = b / 64) ∧
  ∀ s : State, s.reservoirActive = true →
    (∀ (c : Fin 64) (q : ChannelRequest) (r : Fin 512), (s.arbiter c.val).waiting = [] → (s.arbiter c.val).recent = [] → q.requester = some r → 1 ≤ q.lines → q.lines ≤ 4 → q.port < 50 → s.entry Key.arbitrationLongestWaiterN ≠ 0 → s.areaAdmits q = true →
      Completes (.reservoirGrant c [q]) s fun t => t.out = s.out ++ [.granted c.val (some r) q.port] ∧ (t.arbiter c.val).waiting = [] ∧ (t.arbiter c.val).grants = (s.arbiter c.val).grants + 1 ∧
        (∃ l, (t.arbiter (64 + q.port)).waiting = l ++ [{ q with arrival := s.hubCycle }]) ∧ t.hubCycle = s.hubCycle ∧ t.jobs = s.jobs ∧ t.reservoir = s.reservoir) ∧
    (∀ (c : Fin 64) (q : ChannelRequest) (h : HubAccess), (s.arbiter c.val).waiting = [] → (s.arbiter c.val).recent = [] → q.access = some h → s.areaAdmits q = false →
      Completes (.reservoirGrant c [q]) s fun t => (t.arbiter c.val).waiting = [] ∧ (t.arbiter c.val).grants = (s.arbiter c.val).grants) ∧
    (∀ c : Fin 64, (s.arbiter c.val).waiting = [] → (s.arbiter c.val).recent = [] → Completes (.reservoirGrant c []) s fun t => t.out = s.out ∧ (t.arbiter c.val).grants = (s.arbiter c.val).grants ∧ { t with arbiters := s.arbiters } = s) ∧
    ∀ (line : Nat) (u : UnitId) (first second : Bytes), (s.readPasses line first = true → exec (.lineRead line u first second) s = .next s) ∧ (s.readPasses line first = false → 64 * line < s.entry Key.reservoirLayoutUsableBytes → s.extents = [] → s.jobs = [] → s.areaOf (64 * line) < 5 → s.events = [] → s.severityOf 0x0802 ≤ 1 → s.severityOf 0x0803 = 2 →
      (s.readPasses line second = true → Completes (.lineRead line u first second) s fun t => t.reservoir = s.reservoir ∧ t.lineTags = s.lineTags ∧ t.entry (Key.channelStatusTagRereads (channelOf (64 * line))) ≠ 0) ∧
      (s.readPasses line second = false → Completes (.lineRead line u first second) s fun t => Memory.read clearByte t.reservoir (64 * line) 64 = List.replicate 64 0 ∧ (∀ a, a < 64 * line ∨ 64 * line + 64 ≤ a → Memory.byte clearByte t.reservoir a = Memory.byte clearByte s.reservoir a) ∧
        t.storedTag line = 0 ∧ t.entry (Key.channelStatusLinesLost (channelOf (64 * line))) ≠ 0))

/-- R195, R207, R208, R212, R216 to R218: the tapers' engine. A NOP word that jumps moves to its target; CALL pushes and RET pops; a LOOP counts down; END of the first run starts the second at the entry, and END of the second the next macro-operation, or it ends the attempt; an error of two bits in an operand word it reads is a fault; a WAIT whose condition is false holds.

R210, R213, R214, R218: waits that end, the watchdog, wipes and strikes of the tapers. -/
def Obligations.TaperCommands : Prop :=
  (∀ (s : State) (n : Fin 8), s.taperRuns n.val = true → (s.taper n.val).waiting = none → s.control.map = [] → (s.taper n.val).address.toNat < 0xEFF →
     let x := s.taper n.val
     let seq := fun (op target counter : Nat) => BitVec.ofNat 128 (op * 2 ^ 116 + target * 2 ^ 104 + counter * 2 ^ 97)
     let after := fun (v : BitVec 128) (f : Taper → Prop) => Completes (.taperMicroword n v { word := .clean, operands := .clean }) s fun t => f (t.taper n.val) ∧ t.jobs = s.jobs ∧ ∀ k, k ≠ n.val → t.taper k = s.taper k
     after (seq 0 0 0) (fun y => y.address = x.address + 1 ∧ y.memory = x.memory ∧ y.pointers = x.pointers ∧ y.acc = x.acc) ∧
     (∀ t : Fin 0xF00, after (seq 1 t.val 0) fun y => y.address = BitVec.ofNat 12 t.val ∧ y.memory = x.memory) ∧
     (∀ t : Fin 0xF00, x.stack.length < 4 → after (seq 4 t.val 0) fun y => y.address = BitVec.ofNat 12 t.val ∧ y.stack = (x.address + 1) :: x.stack) ∧
     (∀ a rest, x.stack = a :: rest → after (seq 5 0 0) fun y => y.address = a ∧ y.stack = rest) ∧
     (∀ (t : Fin 0xF00) (k : Fin 4), 2 ≤ x.counter k.val → after (seq 6 t.val k.val) fun y => y.address = BitVec.ofNat 12 t.val ∧ y.counter k.val = x.counter k.val - 1) ∧
     (∀ (t : Fin 0xF00) (k : Fin 4), x.counter k.val = 1 → after (seq 6 t.val k.val) fun y => y.address = x.address + 1 ∧ y.counter k.val = 0) ∧
     (x.run2 = false → after (seq 8 0 0) fun y => y.address = x.entry ∧ y.run2 = true ∧ y.ended = false) ∧ (x.run2 = true → x.runs = [] → after (seq 8 0 0) fun y => y.ended = true) ∧
     (∀ m rest, x.run2 = true → x.runs = m :: rest → after (seq 8 0 0) fun y => y.runs = rest ∧ y.ended = false ∧ y.run2 = false ∧ y.address = y.entry) ∧
     (x.zero = false → after (seq 7 0 0 ||| BitVec.ofNat 128 (2 * 2 ^ 99)) fun y => y.waiting = some (seq 7 0 0 ||| BitVec.ofNat 128 (2 * 2 ^ 99)) ∧ y.memory = x.memory) ∧
     (∀ v, reservedWord v = true → exec (.taperMicroword n v { word := .clean, operands := .clean }) s = .next ((s.setTaper n.val { x with address := x.address }).taperFault n.val 0x0407)) ∧
     (∀ v, reservedWord v = false → x.pointerError v = false → readsMemory v = true → mw v 119 116 ≠ 7 → exec (.taperMicroword n v { word := .clean, operands := .double }) s = .next ((s.setTaper n.val { x with address := x.address }).taperFault n.val 0x0406))) ∧
  (∀ (s : State) (n : Fin 8),
     let x := s.taper n.val
     (∀ v, x.waiting = some v → s.taperRuns n.val = true →
       (s.taperCond x v = false → exec (.taperWaitRelease n) s = .next s) ∧
       (s.taperCond x v = true → v = BitVec.ofNat 128 (7 * 2 ^ 116 + 2 * 2 ^ 99) → x.address.toNat < 0xEFF →
         Completes (.taperWaitRelease n) s fun t => (t.taper n.val).waiting = none ∧ (t.taper n.val).address = x.address + 1 ∧ (t.taper n.val).memory = x.memory) ∧
       (mw v 103 99 ≠ 9 → ∀ id, x.job = some id → exec (.taperWaitWatchdog n) s = .next ((s.modJob id fun j => { j with taperCycles := j.taperCycles + j.taperRules.2 }).taperFault n.val 0x0408)) ∧ (mw v 103 99 = 9 → exec (.taperWaitWatchdog n) s = .next s)) ∧
     (x.mustWipe = true → Completes (.taperWipe n true) s fun t => (t.taper n.val).memory = [] ∧ (t.taper n.val).job = none ∧ (t.taper n.val).mustWipe = false ∧ (t.taper n.val).acc = 0 ∧ (t.taper n.val).keyPath = [] ∧
       (t.taper n.val).cleanJobs = (match x.job with | some id => (match s.findJob id with | some j => if j.phase = .staged then x.cleanJobs + 1 else x.cleanJobs | none => x.cleanJobs) | none => x.cleanJobs) ∧ { t with tapers := s.tapers } = s) ∧
     (x.mustWipe = false → ∀ b, exec (.taperWipe n b) s = .next s) ∧
     (s.flag (Key.taperStatusStrike n.val) = true →
       (x.strikeRule ≤ x.cleanJobs → Completes (.strikeClear n) s fun t => t.flag (Key.taperStatusStrike n.val) = false ∧ t.taper n.val = { x with cleanJobs := 0 } ∧ { t with tapers := s.tapers, dict := s.dict } = s) ∧
       (x.cleanJobs < x.strikeRule → exec (.strikeClear n) s = .next s)))
end

