-- ==== Sys2Proof/Laws/Drbg.lean ====
section
/-! SUPPORT. Laws of AES-256 blocks and of a DRBG instance's output: how many bytes they have (R486). -/

namespace Sys2Proof.Machine

theorem xorBytes_length (a b : Bytes) : (xorBytes a b).length = min a.length b.length := by
  simp [xorBytes]

/-- The expanded key has one word more for every step, and every word has four bytes. -/
theorem aesExpand_words : ∀ (n : Nat) (w : List Bytes), 8 ≤ w.length → (∀ x ∈ w, x.length = 4) →
    (aesExpand n w).length = w.length + n ∧ ∀ x ∈ aesExpand n w, x.length = 4
  | 0, w, _, h => ⟨rfl, h⟩
  | n + 1, w, hl, h => by
    have hlast : (w.getLastD []).length = 4 := by
      have hne : w ≠ [] := by intro e; simp [e] at hl
      obtain ⟨l, y, rfl⟩ := (⟨w.dropLast, w.getLast hne, (List.dropLast_concat_getLast hne).symm⟩ : ∃ l y, w = l ++ [y])
      rw [List.getLastD_concat]
      exact h y (by simp)
    have hfirst : (w.getD (w.length - 8) []).length = 4 := by
      have hi : w.length - 8 < w.length := by omega
      rw [List.getD_eq_getElem _ _ hi]
      exact h _ (List.getElem_mem hi)
    unfold aesExpand
    obtain ⟨a, b⟩ := aesExpand_words n (w ++ [xorBytes (w.getD (w.length - 8) [])
      (if w.length % 8 = 0 then (((w.getLastD []).drop 1 ++ (w.getLastD []).take 1).map aesSub).set 0 (aesSub ((w.getLastD []).getD 1 0) ^^^ BitVec.ofNat 8 (gfPow 8 aesPoly 2 8 (w.length / 8 - 1)))
        else if w.length % 8 = 4 then (w.getLastD []).map aesSub else w.getLastD [])]) (by simp; omega) (by
        intro x hx
        rcases List.mem_append.mp hx with hx | hx
        · exact h x hx
        · rw [List.mem_singleton.mp hx, xorBytes_length, hfirst]
          split
          · simp only [List.length_set, List.length_map, List.length_append, List.length_drop, List.length_take, hlast]
            rfl
          · split <;> simp only [List.length_map, hlast] <;> rfl)
    exact ⟨by rw [a]; simp; omega, b⟩

/-- The last of the fifteen round keys has sixteen bytes. -/
theorem aesRoundKeys_last (key : Bytes) : ((aesRoundKeys key).getLastD []).length = 16 := by
  obtain ⟨a, b⟩ := aesExpand_words 52 ((List.range 8).map fun i => cut key (4 * i) 4) (by simp) (by
    intro x hx
    obtain ⟨i, _, rfl⟩ := List.mem_map.mp hx
    simp [cut])
  unfold aesRoundKeys
  simp only [List.range_succ (n := 14), List.map_append, List.map_cons, List.map_nil, List.getLastD_concat]
  rw [List.length_flatten]
  have e : ∀ l : List Bytes, (∀ x ∈ l, x.length = 4) → (l.map List.length).sum = 4 * l.length := by
    intro l
    induction l with
    | nil => intro _; rfl
    | cons x l ih =>
      intro h
      simp only [List.map_cons, List.sum_cons, List.length_cons, h x (by simp), ih fun y hy => h y (by simp [hy])]
      omega
  rw [e _ fun x hx => b x (List.mem_of_mem_drop (List.mem_of_mem_take hx))]
  simp [a]

/-- AES-256 gives blocks of sixteen bytes. -/
theorem aesEncrypt_length (key block : Bytes) : (aesEncrypt (aesRoundKeys key) block).length = 16 := by
  unfold aesEncrypt
  rw [xorBytes_length, aesRoundKeys_last]
  simp [aesBlock]

/-- A generate request gives as many bytes as it asks for (R486). -/
theorem drbgStream_length (key : Bytes) (v : BitVec 128) (n : Nat) : (drbgStream key v n).length = n := by
  simp only [drbgStream, List.length_take, List.length_flatMap, aesEncrypt_length, List.map_const', List.length_range, List.sum_replicate, smul_eq_mul, ceilDiv]
  omega

end Sys2Proof.Machine
end

