-- ==== Sys2Proof/Laws/Encoding.lean ====
section
/-! SUPPORT. The fields of an instruction word put together from fields are these fields (R267, R302, R325). -/

namespace Sys2Proof

set_option linter.unusedSimpArgs false

theorem extract_high {n m : Nat} (h : BitVec n) (l : BitVec m) (k w : Nat) (hk : m ≤ k) : (h ++ l).extractLsb' k w = h.extractLsb' (k - m) w := by
  ext i hi
  simp only [BitVec.getElem_extractLsb', BitVec.getLsbD_append]
  rw [if_neg (by omega)]
  congr 1
  omega

theorem extract_low {n m : Nat} (h : BitVec n) (l : BitVec m) (k w : Nat) (hk : k + w ≤ m) : (h ++ l).extractLsb' k w = l.extractLsb' k w := by
  ext i hi
  simp only [BitVec.getElem_extractLsb', BitVec.getLsbD_append]
  rw [if_pos (by omega)]

theorem extract_all {n : Nat} (x : BitVec n) : x.extractLsb' 0 n = x := by
  ext i hi
  simp

theorem bit_high {n m : Nat} (h : BitVec n) (l : BitVec m) (k : Nat) (hk : m ≤ k) : (h ++ l).getLsbD k = h.getLsbD (k - m) := by
  rw [BitVec.getLsbD_append, if_neg (by omega)]

theorem bit_low {n m : Nat} (h : BitVec n) (l : BitVec m) (k : Nat) (hk : k < m) : (h ++ l).getLsbD k = l.getLsbD k := by
  rw [BitVec.getLsbD_append, if_pos hk]

theorem bit_ofBool (b : Bool) : (BitVec.ofBool b).getLsbD 0 = b := by cases b <;> rfl

theorem encR_iwOp (op : BitVec 6) (a b c : BitVec 5) (fn : BitVec 6) (r : BitVec 9) : iwOp (encR op a b c fn r) = op := by
  simp (disch := omega) only [iwOp, encR, extract_high, extract_low, extract_all, bit_high, bit_low, bit_ofBool, Nat.reduceSub, Nat.sub_self]

theorem encR_iwA (op : BitVec 6) (a b c : BitVec 5) (fn : BitVec 6) (r : BitVec 9) : iwA (encR op a b c fn r) = a := by
  simp (disch := omega) only [iwA, encR, extract_high, extract_low, extract_all, bit_high, bit_low, bit_ofBool, Nat.reduceSub, Nat.sub_self]

theorem encR_iwB (op : BitVec 6) (a b c : BitVec 5) (fn : BitVec 6) (r : BitVec 9) : iwB (encR op a b c fn r) = b := by
  simp (disch := omega) only [iwB, encR, extract_high, extract_low, extract_all, bit_high, bit_low, bit_ofBool, Nat.reduceSub, Nat.sub_self]

theorem encR_iwC (op : BitVec 6) (a b c : BitVec 5) (fn : BitVec 6) (r : BitVec 9) : iwC (encR op a b c fn r) = c := by
  simp (disch := omega) only [iwC, encR, extract_high, extract_low, extract_all, bit_high, bit_low, bit_ofBool, Nat.reduceSub, Nat.sub_self]

theorem encR_iwFn (op : BitVec 6) (a b c : BitVec 5) (fn : BitVec 6) (r : BitVec 9) : iwFn (encR op a b c fn r) = fn := by
  simp (disch := omega) only [iwFn, encR, extract_high, extract_low, extract_all, bit_high, bit_low, bit_ofBool, Nat.reduceSub, Nat.sub_self]

theorem encR_iwLow9 (op : BitVec 6) (a b c : BitVec 5) (fn : BitVec 6) (r : BitVec 9) : iwLow9 (encR op a b c fn r) = r := by
  simp (disch := omega) only [iwLow9, encR, extract_high, extract_low, extract_all, bit_high, bit_low, bit_ofBool, Nat.reduceSub, Nat.sub_self]

theorem encI_iwOp (op : BitVec 6) (a b : BitVec 5) (k : BitVec 20) : iwOp (encI op a b k) = op := by
  simp (disch := omega) only [iwOp, encI, extract_high, extract_low, extract_all, bit_high, bit_low, bit_ofBool, Nat.reduceSub, Nat.sub_self]

theorem encI_iwA (op : BitVec 6) (a b : BitVec 5) (k : BitVec 20) : iwA (encI op a b k) = a := by
  simp (disch := omega) only [iwA, encI, extract_high, extract_low, extract_all, bit_high, bit_low, bit_ofBool, Nat.reduceSub, Nat.sub_self]

theorem encI_iwB (op : BitVec 6) (a b : BitVec 5) (k : BitVec 20) : iwB (encI op a b k) = b := by
  simp (disch := omega) only [iwB, encI, extract_high, extract_low, extract_all, bit_high, bit_low, bit_ofBool, Nat.reduceSub, Nat.sub_self]

theorem encI_iwImm20 (op : BitVec 6) (a b : BitVec 5) (k : BitVec 20) : iwImm20 (encI op a b k) = k := by
  simp (disch := omega) only [iwImm20, encI, extract_high, extract_low, extract_all, bit_high, bit_low, bit_ofBool, Nat.reduceSub, Nat.sub_self]

theorem encShift_iwOp (s : BitVec 3) (a b : BitVec 5) (r : BitVec 10) (k : BitVec 7) : iwOp (encShift s a b r k) = 0x08#6 := by
  simp (disch := omega) only [iwOp, encShift, extract_high, extract_low, extract_all, bit_high, bit_low, bit_ofBool, Nat.reduceSub, Nat.sub_self]

theorem encShift_iwA (s : BitVec 3) (a b : BitVec 5) (r : BitVec 10) (k : BitVec 7) : iwA (encShift s a b r k) = a := by
  simp (disch := omega) only [iwA, encShift, extract_high, extract_low, extract_all, bit_high, bit_low, bit_ofBool, Nat.reduceSub, Nat.sub_self]

theorem encShift_iwB (s : BitVec 3) (a b : BitVec 5) (r : BitVec 10) (k : BitVec 7) : iwB (encShift s a b r k) = b := by
  simp (disch := omega) only [iwB, encShift, extract_high, extract_low, extract_all, bit_high, bit_low, bit_ofBool, Nat.reduceSub, Nat.sub_self]

theorem encShift_at17 (s : BitVec 3) (a b : BitVec 5) (r : BitVec 10) (k : BitVec 7) : (encShift s a b r k).extractLsb' 17 3 = s := by
  simp (disch := omega) only [encShift, extract_high, extract_low, extract_all, bit_high, bit_low, bit_ofBool, Nat.reduceSub, Nat.sub_self]

theorem encShift_at7 (s : BitVec 3) (a b : BitVec 5) (r : BitVec 10) (k : BitVec 7) : (encShift s a b r k).extractLsb' 7 10 = r := by
  simp (disch := omega) only [encShift, extract_high, extract_low, extract_all, bit_high, bit_low, bit_ofBool, Nat.reduceSub, Nat.sub_self]

theorem encShift_at0 (s : BitVec 3) (a b : BitVec 5) (r : BitVec 10) (k : BitVec 7) : (encShift s a b r k).extractLsb' 0 7 = k := by
  simp (disch := omega) only [encShift, extract_high, extract_low, extract_all, bit_high, bit_low, bit_ofBool, Nat.reduceSub, Nat.sub_self]

theorem encK_iwOp (op : BitVec 6) (a : BitVec 5) (r : BitVec 1) (k : BitVec 24) : iwOp (encK op a r k) = op := by
  simp (disch := omega) only [iwOp, encK, extract_high, extract_low, extract_all, bit_high, bit_low, bit_ofBool, Nat.reduceSub, Nat.sub_self]

theorem encK_iwA (op : BitVec 6) (a : BitVec 5) (r : BitVec 1) (k : BitVec 24) : iwA (encK op a r k) = a := by
  simp (disch := omega) only [iwA, encK, extract_high, extract_low, extract_all, bit_high, bit_low, bit_ofBool, Nat.reduceSub, Nat.sub_self]

theorem encK_iwBit24 (op : BitVec 6) (a : BitVec 5) (r : BitVec 1) (k : BitVec 24) : iwBit24 (encK op a r k) = r := by
  simp (disch := omega) only [iwBit24, encK, extract_high, extract_low, extract_all, bit_high, bit_low, bit_ofBool, Nat.reduceSub, Nat.sub_self]

theorem encK_iwImm24 (op : BitVec 6) (a : BitVec 5) (r : BitVec 1) (k : BitVec 24) : iwImm24 (encK op a r k) = k := by
  simp (disch := omega) only [iwImm24, encK, extract_high, extract_low, extract_all, bit_high, bit_low, bit_ofBool, Nat.reduceSub, Nat.sub_self]

theorem encJ_iwOp (op : BitVec 6) (a : BitVec 5) (k : BitVec 25) : iwOp (encJ op a k) = op := by
  simp (disch := omega) only [iwOp, encJ, extract_high, extract_low, extract_all, bit_high, bit_low, bit_ofBool, Nat.reduceSub, Nat.sub_self]

theorem encJ_iwA (op : BitVec 6) (a : BitVec 5) (k : BitVec 25) : iwA (encJ op a k) = a := by
  simp (disch := omega) only [iwA, encJ, extract_high, extract_low, extract_all, bit_high, bit_low, bit_ofBool, Nat.reduceSub, Nat.sub_self]

theorem encJ_iwOff25 (op : BitVec 6) (a : BitVec 5) (k : BitVec 25) : iwOff25 (encJ op a k) = k := by
  simp (disch := omega) only [iwOff25, encJ, extract_high, extract_low, extract_all, bit_high, bit_low, bit_ofBool, Nat.reduceSub, Nat.sub_self]

theorem encC_iwOp (op : BitVec 6) (a b : BitVec 5) (k : BitVec 6) (r : BitVec 14) : iwOp (encC op a b k r) = op := by
  simp (disch := omega) only [iwOp, encC, extract_high, extract_low, extract_all, bit_high, bit_low, bit_ofBool, Nat.reduceSub, Nat.sub_self]

theorem encC_iwA (op : BitVec 6) (a b : BitVec 5) (k : BitVec 6) (r : BitVec 14) : iwA (encC op a b k r) = a := by
  simp (disch := omega) only [iwA, encC, extract_high, extract_low, extract_all, bit_high, bit_low, bit_ofBool, Nat.reduceSub, Nat.sub_self]

theorem encC_iwB (op : BitVec 6) (a b : BitVec 5) (k : BitVec 6) (r : BitVec 14) : iwB (encC op a b k r) = b := by
  simp (disch := omega) only [iwB, encC, extract_high, extract_low, extract_all, bit_high, bit_low, bit_ofBool, Nat.reduceSub, Nat.sub_self]

theorem encC_at14 (op : BitVec 6) (a b : BitVec 5) (k : BitVec 6) (r : BitVec 14) : (encC op a b k r).extractLsb' 14 6 = k := by
  simp (disch := omega) only [encC, extract_high, extract_low, extract_all, bit_high, bit_low, bit_ofBool, Nat.reduceSub, Nat.sub_self]

theorem encC_at0 (op : BitVec 6) (a b : BitVec 5) (k : BitVec 6) (r : BitVec 14) : (encC op a b k r).extractLsb' 0 14 = r := by
  simp (disch := omega) only [encC, extract_high, extract_low, extract_all, bit_high, bit_low, bit_ofBool, Nat.reduceSub, Nat.sub_self]

theorem encDma_iwOp (s : BitVec 3) (a b c : BitVec 5) (t : BitVec 3) (r : BitVec 9) : iwOp (encDma s a b c t r) = 0x18#6 := by
  simp (disch := omega) only [iwOp, encDma, extract_high, extract_low, extract_all, bit_high, bit_low, bit_ofBool, Nat.reduceSub, Nat.sub_self]

theorem encDma_iwA (s : BitVec 3) (a b c : BitVec 5) (t : BitVec 3) (r : BitVec 9) : iwA (encDma s a b c t r) = a := by
  simp (disch := omega) only [iwA, encDma, extract_high, extract_low, extract_all, bit_high, bit_low, bit_ofBool, Nat.reduceSub, Nat.sub_self]

theorem encDma_iwB (s : BitVec 3) (a b c : BitVec 5) (t : BitVec 3) (r : BitVec 9) : iwB (encDma s a b c t r) = b := by
  simp (disch := omega) only [iwB, encDma, extract_high, extract_low, extract_all, bit_high, bit_low, bit_ofBool, Nat.reduceSub, Nat.sub_self]

theorem encDma_iwC (s : BitVec 3) (a b c : BitVec 5) (t : BitVec 3) (r : BitVec 9) : iwC (encDma s a b c t r) = c := by
  simp (disch := omega) only [iwC, encDma, extract_high, extract_low, extract_all, bit_high, bit_low, bit_ofBool, Nat.reduceSub, Nat.sub_self]

theorem encDma_at12 (s : BitVec 3) (a b c : BitVec 5) (t : BitVec 3) (r : BitVec 9) : (encDma s a b c t r).extractLsb' 12 3 = s := by
  simp (disch := omega) only [encDma, extract_high, extract_low, extract_all, bit_high, bit_low, bit_ofBool, Nat.reduceSub, Nat.sub_self]

theorem encDma_at9 (s : BitVec 3) (a b c : BitVec 5) (t : BitVec 3) (r : BitVec 9) : (encDma s a b c t r).extractLsb' 9 3 = t := by
  simp (disch := omega) only [encDma, extract_high, extract_low, extract_all, bit_high, bit_low, bit_ofBool, Nat.reduceSub, Nat.sub_self]

theorem encDma_iwLow9 (s : BitVec 3) (a b c : BitVec 5) (t : BitVec 3) (r : BitVec 9) : iwLow9 (encDma s a b c t r) = r := by
  simp (disch := omega) only [iwLow9, encDma, extract_high, extract_low, extract_all, bit_high, bit_low, bit_ofBool, Nat.reduceSub, Nat.sub_self]

theorem encSys_iwOp (s : BitVec 4) (a b : BitVec 5) (r k : BitVec 8) : iwOp (encSys s a b r k) = 0x22#6 := by
  simp (disch := omega) only [iwOp, encSys, extract_high, extract_low, extract_all, bit_high, bit_low, bit_ofBool, Nat.reduceSub, Nat.sub_self]

theorem encSys_iwA (s : BitVec 4) (a b : BitVec 5) (r k : BitVec 8) : iwA (encSys s a b r k) = a := by
  simp (disch := omega) only [iwA, encSys, extract_high, extract_low, extract_all, bit_high, bit_low, bit_ofBool, Nat.reduceSub, Nat.sub_self]

theorem encSys_iwB (s : BitVec 4) (a b : BitVec 5) (r k : BitVec 8) : iwB (encSys s a b r k) = b := by
  simp (disch := omega) only [iwB, encSys, extract_high, extract_low, extract_all, bit_high, bit_low, bit_ofBool, Nat.reduceSub, Nat.sub_self]

theorem encSys_at16 (s : BitVec 4) (a b : BitVec 5) (r k : BitVec 8) : (encSys s a b r k).extractLsb' 16 4 = s := by
  simp (disch := omega) only [encSys, extract_high, extract_low, extract_all, bit_high, bit_low, bit_ofBool, Nat.reduceSub, Nat.sub_self]

theorem encSys_at8 (s : BitVec 4) (a b : BitVec 5) (r k : BitVec 8) : (encSys s a b r k).extractLsb' 8 8 = r := by
  simp (disch := omega) only [encSys, extract_high, extract_low, extract_all, bit_high, bit_low, bit_ofBool, Nat.reduceSub, Nat.sub_self]

theorem encSys_at0 (s : BitVec 4) (a b : BitVec 5) (r k : BitVec 8) : (encSys s a b r k).extractLsb' 0 8 = k := by
  simp (disch := omega) only [encSys, extract_high, extract_low, extract_all, bit_high, bit_low, bit_ofBool, Nat.reduceSub, Nat.sub_self]

theorem encSvR_iwOp (op fn : BitVec 6) (a b c : BitVec 5) (t : BitVec 3) (m : Bool) (k : BitVec 5) : iwOp (encSvR op fn a b c t m k) = op := by
  simp (disch := omega) only [iwOp, encSvR, extract_high, extract_low, extract_all, bit_high, bit_low, bit_ofBool, Nat.reduceSub, Nat.sub_self]

theorem encSvR_iwFn (op fn : BitVec 6) (a b c : BitVec 5) (t : BitVec 3) (m : Bool) (k : BitVec 5) : iwFn (encSvR op fn a b c t m k) = fn := by
  simp (disch := omega) only [iwFn, encSvR, extract_high, extract_low, extract_all, bit_high, bit_low, bit_ofBool, Nat.reduceSub, Nat.sub_self]

theorem encSvR_iwA (op fn : BitVec 6) (a b c : BitVec 5) (t : BitVec 3) (m : Bool) (k : BitVec 5) : iwA (encSvR op fn a b c t m k) = a := by
  simp (disch := omega) only [iwA, encSvR, extract_high, extract_low, extract_all, bit_high, bit_low, bit_ofBool, Nat.reduceSub, Nat.sub_self]

theorem encSvR_iwB (op fn : BitVec 6) (a b c : BitVec 5) (t : BitVec 3) (m : Bool) (k : BitVec 5) : iwB (encSvR op fn a b c t m k) = b := by
  simp (disch := omega) only [iwB, encSvR, extract_high, extract_low, extract_all, bit_high, bit_low, bit_ofBool, Nat.reduceSub, Nat.sub_self]

theorem encSvR_iwC (op fn : BitVec 6) (a b c : BitVec 5) (t : BitVec 3) (m : Bool) (k : BitVec 5) : iwC (encSvR op fn a b c t m k) = c := by
  simp (disch := omega) only [iwC, encSvR, extract_high, extract_low, extract_all, bit_high, bit_low, bit_ofBool, Nat.reduceSub, Nat.sub_self]

theorem encSvR_at6 (op fn : BitVec 6) (a b c : BitVec 5) (t : BitVec 3) (m : Bool) (k : BitVec 5) : (encSvR op fn a b c t m k).extractLsb' 6 3 = t := by
  simp (disch := omega) only [encSvR, extract_high, extract_low, extract_all, bit_high, bit_low, bit_ofBool, Nat.reduceSub, Nat.sub_self]

theorem encSvR_bit5 (op fn : BitVec 6) (a b c : BitVec 5) (t : BitVec 3) (m : Bool) (k : BitVec 5) : (encSvR op fn a b c t m k).getLsbD 5 = m := by
  simp (disch := omega) only [encSvR, extract_high, extract_low, extract_all, bit_high, bit_low, bit_ofBool, Nat.reduceSub, Nat.sub_self]

theorem encSvR_at0 (op fn : BitVec 6) (a b c : BitVec 5) (t : BitVec 3) (m : Bool) (k : BitVec 5) : (encSvR op fn a b c t m k).extractLsb' 0 5 = k := by
  simp (disch := omega) only [encSvR, extract_high, extract_low, extract_all, bit_high, bit_low, bit_ofBool, Nat.reduceSub, Nat.sub_self]

theorem encSvM_iwOp (s : Bool) (a b : BitVec 5) (k : BitVec 11) (n : BitVec 2) (m : Bool) (t : BitVec 3) (r : BitVec 2) : iwOp (encSvM s a b k n m t r) = 0x34#6 := by
  simp (disch := omega) only [iwOp, encSvM, extract_high, extract_low, extract_all, bit_high, bit_low, bit_ofBool, Nat.reduceSub, Nat.sub_self]

theorem encSvM_iwA (s : Bool) (a b : BitVec 5) (k : BitVec 11) (n : BitVec 2) (m : Bool) (t : BitVec 3) (r : BitVec 2) : iwA (encSvM s a b k n m t r) = a := by
  simp (disch := omega) only [iwA, encSvM, extract_high, extract_low, extract_all, bit_high, bit_low, bit_ofBool, Nat.reduceSub, Nat.sub_self]

theorem encSvM_iwB (s : Bool) (a b : BitVec 5) (k : BitVec 11) (n : BitVec 2) (m : Bool) (t : BitVec 3) (r : BitVec 2) : iwB (encSvM s a b k n m t r) = b := by
  simp (disch := omega) only [iwB, encSvM, extract_high, extract_low, extract_all, bit_high, bit_low, bit_ofBool, Nat.reduceSub, Nat.sub_self]

theorem encSvM_at9 (s : Bool) (a b : BitVec 5) (k : BitVec 11) (n : BitVec 2) (m : Bool) (t : BitVec 3) (r : BitVec 2) : (encSvM s a b k n m t r).extractLsb' 9 11 = k := by
  simp (disch := omega) only [encSvM, extract_high, extract_low, extract_all, bit_high, bit_low, bit_ofBool, Nat.reduceSub, Nat.sub_self]

theorem encSvM_bit8 (s : Bool) (a b : BitVec 5) (k : BitVec 11) (n : BitVec 2) (m : Bool) (t : BitVec 3) (r : BitVec 2) : (encSvM s a b k n m t r).getLsbD 8 = s := by
  simp (disch := omega) only [encSvM, extract_high, extract_low, extract_all, bit_high, bit_low, bit_ofBool, Nat.reduceSub, Nat.sub_self]

theorem encSvM_at6 (s : Bool) (a b : BitVec 5) (k : BitVec 11) (n : BitVec 2) (m : Bool) (t : BitVec 3) (r : BitVec 2) : (encSvM s a b k n m t r).extractLsb' 6 2 = n := by
  simp (disch := omega) only [encSvM, extract_high, extract_low, extract_all, bit_high, bit_low, bit_ofBool, Nat.reduceSub, Nat.sub_self]

theorem encSvM_bit5 (s : Bool) (a b : BitVec 5) (k : BitVec 11) (n : BitVec 2) (m : Bool) (t : BitVec 3) (r : BitVec 2) : (encSvM s a b k n m t r).getLsbD 5 = m := by
  simp (disch := omega) only [encSvM, extract_high, extract_low, extract_all, bit_high, bit_low, bit_ofBool, Nat.reduceSub, Nat.sub_self]

theorem encSvM_at2 (s : Bool) (a b : BitVec 5) (k : BitVec 11) (n : BitVec 2) (m : Bool) (t : BitVec 3) (r : BitVec 2) : (encSvM s a b k n m t r).extractLsb' 2 3 = t := by
  simp (disch := omega) only [encSvM, extract_high, extract_low, extract_all, bit_high, bit_low, bit_ofBool, Nat.reduceSub, Nat.sub_self]

theorem encSvM_at0 (s : Bool) (a b : BitVec 5) (k : BitVec 11) (n : BitVec 2) (m : Bool) (t : BitVec 3) (r : BitVec 2) : (encSvM s a b k n m t r).extractLsb' 0 2 = r := by
  simp (disch := omega) only [encSvM, extract_high, extract_low, extract_all, bit_high, bit_low, bit_ofBool, Nat.reduceSub, Nat.sub_self]

theorem encFR_iwOp (op : BitVec 6) (a b c : BitVec 4) (t : BitVec 2) (fn : BitVec 6) (r : BitVec 10) : iwOp (encFR op a b c t fn r) = op := by
  simp (disch := omega) only [iwOp, encFR, extract_high, extract_low, extract_all, bit_high, bit_low, bit_ofBool, Nat.reduceSub, Nat.sub_self]

theorem encFR_at26 (op : BitVec 6) (a b c : BitVec 4) (t : BitVec 2) (fn : BitVec 6) (r : BitVec 10) : (encFR op a b c t fn r).extractLsb' 26 4 = a := by
  simp (disch := omega) only [encFR, extract_high, extract_low, extract_all, bit_high, bit_low, bit_ofBool, Nat.reduceSub, Nat.sub_self]

theorem encFR_at22 (op : BitVec 6) (a b c : BitVec 4) (t : BitVec 2) (fn : BitVec 6) (r : BitVec 10) : (encFR op a b c t fn r).extractLsb' 22 4 = b := by
  simp (disch := omega) only [encFR, extract_high, extract_low, extract_all, bit_high, bit_low, bit_ofBool, Nat.reduceSub, Nat.sub_self]

theorem encFR_at18 (op : BitVec 6) (a b c : BitVec 4) (t : BitVec 2) (fn : BitVec 6) (r : BitVec 10) : (encFR op a b c t fn r).extractLsb' 18 4 = c := by
  simp (disch := omega) only [encFR, extract_high, extract_low, extract_all, bit_high, bit_low, bit_ofBool, Nat.reduceSub, Nat.sub_self]

theorem encFR_at16 (op : BitVec 6) (a b c : BitVec 4) (t : BitVec 2) (fn : BitVec 6) (r : BitVec 10) : (encFR op a b c t fn r).extractLsb' 16 2 = t := by
  simp (disch := omega) only [encFR, extract_high, extract_low, extract_all, bit_high, bit_low, bit_ofBool, Nat.reduceSub, Nat.sub_self]

theorem encFR_at10 (op : BitVec 6) (a b c : BitVec 4) (t : BitVec 2) (fn : BitVec 6) (r : BitVec 10) : (encFR op a b c t fn r).extractLsb' 10 6 = fn := by
  simp (disch := omega) only [encFR, extract_high, extract_low, extract_all, bit_high, bit_low, bit_ofBool, Nat.reduceSub, Nat.sub_self]

theorem encFR_at0 (op : BitVec 6) (a b c : BitVec 4) (t : BitVec 2) (fn : BitVec 6) (r : BitVec 10) : (encFR op a b c t fn r).extractLsb' 0 10 = r := by
  simp (disch := omega) only [encFR, extract_high, extract_low, extract_all, bit_high, bit_low, bit_ofBool, Nat.reduceSub, Nat.sub_self]

theorem encFM_iwOp (op : BitVec 6) (a : BitVec 4) (b : BitVec 5) (r : BitVec 1) (k : BitVec 20) : iwOp (encFM op a b r k) = op := by
  simp (disch := omega) only [iwOp, encFM, extract_high, extract_low, extract_all, bit_high, bit_low, bit_ofBool, Nat.reduceSub, Nat.sub_self]

theorem encFM_at26 (op : BitVec 6) (a : BitVec 4) (b : BitVec 5) (r : BitVec 1) (k : BitVec 20) : (encFM op a b r k).extractLsb' 26 4 = a := by
  simp (disch := omega) only [encFM, extract_high, extract_low, extract_all, bit_high, bit_low, bit_ofBool, Nat.reduceSub, Nat.sub_self]

theorem encFM_at21 (op : BitVec 6) (a : BitVec 4) (b : BitVec 5) (r : BitVec 1) (k : BitVec 20) : (encFM op a b r k).extractLsb' 21 5 = b := by
  simp (disch := omega) only [encFM, extract_high, extract_low, extract_all, bit_high, bit_low, bit_ofBool, Nat.reduceSub, Nat.sub_self]

theorem encFM_at20 (op : BitVec 6) (a : BitVec 4) (b : BitVec 5) (r : BitVec 1) (k : BitVec 20) : (encFM op a b r k).extractLsb' 20 1 = r := by
  simp (disch := omega) only [encFM, extract_high, extract_low, extract_all, bit_high, bit_low, bit_ofBool, Nat.reduceSub, Nat.sub_self]

theorem encFM_iwImm20 (op : BitVec 6) (a : BitVec 4) (b : BitVec 5) (r : BitVec 1) (k : BitVec 20) : iwImm20 (encFM op a b r k) = k := by
  simp (disch := omega) only [iwImm20, encFM, extract_high, extract_low, extract_all, bit_high, bit_low, bit_ofBool, Nat.reduceSub, Nat.sub_self]

theorem encFX_iwOp (s : BitVec 6) (g : BitVec 5) (f : BitVec 4) (t : BitVec 2) (l : BitVec 4) (r : BitVec 9) : iwOp (encFX s g f t l r) = 0x2C#6 := by
  simp (disch := omega) only [iwOp, encFX, extract_high, extract_low, extract_all, bit_high, bit_low, bit_ofBool, Nat.reduceSub, Nat.sub_self]

theorem encFX_iwA (s : BitVec 6) (g : BitVec 5) (f : BitVec 4) (t : BitVec 2) (l : BitVec 4) (r : BitVec 9) : iwA (encFX s g f t l r) = g := by
  simp (disch := omega) only [iwA, encFX, extract_high, extract_low, extract_all, bit_high, bit_low, bit_ofBool, Nat.reduceSub, Nat.sub_self]

theorem encFX_at21 (s : BitVec 6) (g : BitVec 5) (f : BitVec 4) (t : BitVec 2) (l : BitVec 4) (r : BitVec 9) : (encFX s g f t l r).extractLsb' 21 4 = f := by
  simp (disch := omega) only [encFX, extract_high, extract_low, extract_all, bit_high, bit_low, bit_ofBool, Nat.reduceSub, Nat.sub_self]

theorem encFX_at19 (s : BitVec 6) (g : BitVec 5) (f : BitVec 4) (t : BitVec 2) (l : BitVec 4) (r : BitVec 9) : (encFX s g f t l r).extractLsb' 19 2 = t := by
  simp (disch := omega) only [encFX, extract_high, extract_low, extract_all, bit_high, bit_low, bit_ofBool, Nat.reduceSub, Nat.sub_self]

theorem encFX_at13 (s : BitVec 6) (g : BitVec 5) (f : BitVec 4) (t : BitVec 2) (l : BitVec 4) (r : BitVec 9) : (encFX s g f t l r).extractLsb' 13 6 = s := by
  simp (disch := omega) only [encFX, extract_high, extract_low, extract_all, bit_high, bit_low, bit_ofBool, Nat.reduceSub, Nat.sub_self]

theorem encFX_at9 (s : BitVec 6) (g : BitVec 5) (f : BitVec 4) (t : BitVec 2) (l : BitVec 4) (r : BitVec 9) : (encFX s g f t l r).extractLsb' 9 4 = l := by
  simp (disch := omega) only [encFX, extract_high, extract_low, extract_all, bit_high, bit_low, bit_ofBool, Nat.reduceSub, Nat.sub_self]

theorem encFX_iwLow9 (s : BitVec 6) (g : BitVec 5) (f : BitVec 4) (t : BitVec 2) (l : BitVec 4) (r : BitVec 9) : iwLow9 (encFX s g f t l r) = r := by
  simp (disch := omega) only [iwLow9, encFX, extract_high, extract_low, extract_all, bit_high, bit_low, bit_ofBool, Nat.reduceSub, Nat.sub_self]

end Sys2Proof
end

