-- ==== Sys2Proof/Laws/Table.lean ====
section
/-! SUPPORT. Laws of sparse tables and byte memories: what is read after a write, and that every operation keeps the canonical form. -/

namespace Sys2Proof.Machine

variable {α : Type}

theorem Table.get_insert_same (d : Nat → α) (t : Table α) (k : Nat) (v : α) (h : ∀ p ∈ t, p.1 ≠ k) : Table.get d (Table.insert t k v) k = v := by
  induction t with
  | nil => simp [Table.insert, Table.get]
  | cons p r ih =>
    have hp := h p List.mem_cons_self
    simp only [Table.insert]
    split <;> simp [Table.get, hp, ih fun q hq => h q (List.mem_cons_of_mem _ hq)]

theorem Table.get_insert_other (d : Nat → α) (t : Table α) (k j : Nat) (v : α) (h : j ≠ k) : Table.get d (Table.insert t k v) j = Table.get d t j := by
  induction t with
  | nil => simp [Table.insert, Table.get, h.symm]
  | cons p r ih =>
    simp only [Table.insert]
    split <;> simp [Table.get, h.symm, ih]

theorem Table.get_absent (d : Nat → α) (t : Table α) (k : Nat) (h : ∀ p ∈ t, p.1 ≠ k) : Table.get d t k = d k := by
  induction t with
  | nil => rfl
  | cons p r ih => simp [Table.get, h p List.mem_cons_self, ih fun q hq => h q (List.mem_cons_of_mem _ hq)]

theorem Table.get_drop_other (d : Nat → α) (t : Table α) (k j : Nat) (h : j ≠ k) : Table.get d (t.filter fun p => p.1 ≠ k) j = Table.get d t j := by
  induction t with
  | nil => rfl
  | cons p r ih =>
    by_cases e : p.1 = k
    · have : p.1 ≠ j := by omega
      simp_all [Table.get]
    · simp_all [Table.get]

/-- What is stored is read. -/
@[simp] theorem Table.get_set_same [DecidableEq α] (d : Nat → α) (t : Table α) (k : Nat) (v : α) : Table.get d (Table.set d t k v) k = v := by
  have h : ∀ p ∈ t.filter (fun p => p.1 ≠ k), p.1 ≠ k := fun p hp => by simpa using (List.mem_filter.1 hp).2
  unfold Table.set
  simp only []
  split
  · rename_i e
    rw [Table.get_absent d _ k h, e]
  · exact Table.get_insert_same d _ k v h

/-- Storing under one key leaves the others. -/
theorem Table.get_set_other [DecidableEq α] (d : Nat → α) (t : Table α) (k j : Nat) (v : α) (h : j ≠ k) :
    Table.get d (Table.set d t k v) j = Table.get d t j := by
  unfold Table.set
  simp only []
  split
  · exact Table.get_drop_other d t k j h
  · rw [Table.get_insert_other _ _ _ _ _ h, Table.get_drop_other d t k j h]

theorem Table.get_set [DecidableEq α] (d : Nat → α) (t : Table α) (k j : Nat) (v : α) :
    Table.get d (Table.set d t k v) j = if j = k then v else Table.get d t j := by
  split
  · subst_vars
    exact Table.get_set_same ..
  · exact Table.get_set_other _ _ _ _ _ (by assumption)

theorem Table.wf_nil (d : Nat → α) : Table.wf d [] := ⟨List.Pairwise.nil, by simp⟩

theorem Table.wf_tail {d : Nat → α} {p : Nat × α} {t : Table α} (h : Table.wf d (p :: t)) : Table.wf d t :=
  ⟨(List.pairwise_cons.1 h.1).2, fun q hq => h.2 q (List.mem_cons_of_mem _ hq)⟩

theorem Table.wf_cons {d : Nat → α} {k : Nat} {v : α} {t : Table α} (h : Table.wf d t) (a : ∀ p ∈ t, k < p.1) (e : v ≠ d k) :
    Table.wf d ((k, v) :: t) :=
  ⟨List.pairwise_cons.2 ⟨a, h.1⟩, by intro p hp; rcases List.mem_cons.1 hp with rfl | hp; exacts [e, h.2 p hp]⟩

/-- Dropping entries keeps the canonical form. -/
theorem Table.wf_filter {d : Nat → α} {t : Table α} (p : Nat × α → Bool) (h : Table.wf d t) : Table.wf d (t.filter p) :=
  ⟨List.Pairwise.filter _ h.1, fun q hq => h.2 q (List.mem_of_mem_filter hq)⟩

/-- Inserting a new key keeps the canonical form. -/
theorem Table.wf_insert (d : Nat → α) (t : Table α) (k : Nat) (v : α) (h : Table.wf d t) (hk : ∀ p ∈ t, p.1 ≠ k) (hv : v ≠ d k) :
    Table.wf d (Table.insert t k v) ∧ ∀ p ∈ Table.insert t k v, p.1 = k ∨ p ∈ t := by
  induction t with
  | nil => exact ⟨Table.wf_cons h (by simp) hv, by simp [Table.insert]⟩
  | cons p r ih =>
    obtain ⟨i, hi⟩ := ih (Table.wf_tail h) fun q hq => hk q (List.mem_cons_of_mem _ hq)
    have hj : ∀ q ∈ r, p.1 < q.1 := (List.pairwise_cons.1 h.1).1
    have hp : p.1 ≠ k := hk p List.mem_cons_self
    simp only [Table.insert]
    split
    · refine ⟨Table.wf_cons h ?_ hv, fun q hq => (List.mem_cons.1 hq).imp (congrArg Prod.fst) id⟩
      intro q hq
      rcases List.mem_cons.1 hq with rfl | hq
      · assumption
      · have := hj q hq; omega
    · refine ⟨Table.wf_cons i ?_ (h.2 p List.mem_cons_self), ?_⟩
      · intro q hq
        rcases hi q hq with e | e
        · omega
        · exact hj q e
      · intro q hq
        rcases List.mem_cons.1 hq with rfl | hq
        · exact .inr List.mem_cons_self
        · rcases hi q hq with e | e
          exacts [.inl e, .inr (List.mem_cons_of_mem _ e)]

/-- A store keeps the canonical form. -/
theorem Table.wf_set [DecidableEq α] (d : Nat → α) (t : Table α) (k : Nat) (v : α) (h : Table.wf d t) : Table.wf d (Table.set d t k v) := by
  unfold Table.set
  simp only []
  have hf := Table.wf_filter (fun p => p.1 ≠ k) h
  split
  · exact hf
  · exact (Table.wf_insert d _ k v hf (fun p hp => by simpa using (List.mem_filter.1 hp).2) (by assumption)).1

/-! ### Byte memories -/

theorem Memory.wf_put (d : Byte) (m : List Host.Cell) (a : Nat) (b : Byte) (h : Memory.wf d m) : Memory.wf d (Memory.put d m a b) :=
  Table.wf_set _ _ _ _ h

theorem Memory.wf_write (d : Byte) (m : List Host.Cell) (a : Nat) (b : Bytes) (h : Memory.wf d m) : Memory.wf d (Memory.write d m a b) := by
  induction b generalizing m a with
  | nil => exact h
  | cons x r ih => exact ih _ _ (Memory.wf_put d m a x h)

theorem Memory.wf_clear (d : Byte) (m : List Host.Cell) (a n : Nat) (h : Memory.wf d m) : Memory.wf d (Memory.clear m a n) :=
  Table.wf_filter _ h

/-- A write leaves every byte outside its range as it was. -/
theorem Memory.byte_write_other (d : Byte) (m : List Host.Cell) (a : Nat) (b : Bytes) (x : Nat) (h : x < a ∨ a + b.length ≤ x) :
    Memory.byte d (Memory.write d m a b) x = Memory.byte d m x := by
  induction b generalizing m a with
  | nil => rfl
  | cons y r ih =>
    simp only [List.length_cons] at h
    rw [Memory.write, ih _ _ (by omega)]
    exact Table.get_set_other _ _ _ _ _ (by omega)

/-- A byte written is read back. -/
theorem Memory.byte_write (d : Byte) (m : List Host.Cell) (a : Nat) (b : Bytes) (i : Nat) (h : i < b.length) :
    Memory.byte d (Memory.write d m a b) (a + i) = b[i] := by
  induction b generalizing m a i with
  | nil => simp at h
  | cons y r ih =>
    rw [Memory.write]
    cases i with
    | zero =>
      have := Memory.byte_write_other d (Memory.put d m a y) (a + 1) r a (by omega)
      show Memory.byte d (Memory.write d (Memory.put d m a y) (a + 1) r) a = y
      rw [this]
      exact Table.get_set_same ..
    | succ i =>
      have := ih (Memory.put d m a y) (a + 1) i (by simpa using h)
      rw [show a + (i + 1) = a + 1 + i by omega, this]
      simp

end Sys2Proof.Machine
end

