-- ==== Sys2Proof/Laws/State.lean ====
section
/-! SUPPORT. What each update of the state leaves as it was, one lemma for each field and accessor, and what it changes. -/

namespace Sys2Proof.Machine

/-! ### setEntry -/

@[simp] theorem State.entry_setEntry (s : State) (key v : Nat) : (s.setEntry key v).entry key = v := Table.get_set_same ..
theorem State.entry_setEntry_other (s : State) (key v : Nat) {place : Nat} (h : place ≠ key) : (s.setEntry key v).entry place = s.entry place := Table.get_set_other _ _ _ _ _ h
@[simp] theorem State.variant_setEntry (s : State) (key v : Nat) : (s.setEntry key v).variant = s.variant := rfl
@[simp] theorem State.timestamp_setEntry (s : State) (key v : Nat) : (s.setEntry key v).timestamp = s.timestamp := rfl
@[simp] theorem State.hubCycle_setEntry (s : State) (key v : Nat) : (s.setEntry key v).hubCycle = s.hubCycle := rfl
@[simp] theorem State.freeIndex_setEntry (s : State) (key v : Nat) : (s.setEntry key v).freeIndex = s.freeIndex := rfl
@[simp] theorem State.out_setEntry (s : State) (key v : Nat) : (s.setEntry key v).out = s.out := rfl
@[simp] theorem State.notices_setEntry (s : State) (key v : Nat) : (s.setEntry key v).notices = s.notices := rfl
@[simp] theorem State.sessions_setEntry (s : State) (key v : Nat) : (s.setEntry key v).sessions = s.sessions := rfl
@[simp] theorem State.cache_setEntry (s : State) (key v : Nat) : (s.setEntry key v).cache = s.cache := rfl
@[simp] theorem State.jobs_setEntry (s : State) (key v : Nat) : (s.setEntry key v).jobs = s.jobs := rfl
@[simp] theorem State.nextJob_setEntry (s : State) (key v : Nat) : (s.setEntry key v).nextJob = s.nextJob := rfl
@[simp] theorem State.queues_setEntry (s : State) (key v : Nat) : (s.setEntry key v).queues = s.queues := rfl
@[simp] theorem State.lastServed_setEntry (s : State) (key v : Nat) : (s.setEntry key v).lastServed = s.lastServed := rfl
@[simp] theorem State.lastSteady_setEntry (s : State) (key v : Nat) : (s.setEntry key v).lastSteady = s.lastSteady := rfl
@[simp] theorem State.fetchStopped_setEntry (s : State) (key v : Nat) : (s.setEntry key v).fetchStopped = s.fetchStopped := rfl
@[simp] theorem State.fns_setEntry (s : State) (key v : Nat) : (s.setEntry key v).fns = s.fns := rfl
@[simp] theorem State.reservoir_setEntry (s : State) (key v : Nat) : (s.setEntry key v).reservoir = s.reservoir := rfl
@[simp] theorem State.lineTags_setEntry (s : State) (key v : Nat) : (s.setEntry key v).lineTags = s.lineTags := rfl
@[simp] theorem State.sealSets_setEntry (s : State) (key v : Nat) : (s.setEntry key v).sealSets = s.sealSets := rfl
@[simp] theorem State.extents_setEntry (s : State) (key v : Nat) : (s.setEntry key v).extents = s.extents := rfl
@[simp] theorem State.clearing_setEntry (s : State) (key v : Nat) : (s.setEntry key v).clearing = s.clearing := rfl
@[simp] theorem State.clearingAll_setEntry (s : State) (key v : Nat) : (s.setEntry key v).clearingAll = s.clearingAll := rfl
@[simp] theorem State.layout_setEntry (s : State) (key v : Nat) : (s.setEntry key v).layout = s.layout := rfl
@[simp] theorem State.windows_setEntry (s : State) (key v : Nat) : (s.setEntry key v).windows = s.windows := rfl
@[simp] theorem State.quotas_setEntry (s : State) (key v : Nat) : (s.setEntry key v).quotas = s.quotas := rfl
@[simp] theorem State.links_setEntry (s : State) (key v : Nat) : (s.setEntry key v).links = s.links := rfl
@[simp] theorem State.modes_setEntry (s : State) (key v : Nat) : (s.setEntry key v).modes = s.modes := rfl
@[simp] theorem State.arbiters_setEntry (s : State) (key v : Nat) : (s.setEntry key v).arbiters = s.arbiters := rfl
@[simp] theorem State.streams_setEntry (s : State) (key v : Nat) : (s.setEntry key v).streams = s.streams := rfl
@[simp] theorem State.pauses_setEntry (s : State) (key v : Nat) : (s.setEntry key v).pauses = s.pauses := rfl
@[simp] theorem State.wicks_setEntry (s : State) (key v : Nat) : (s.setEntry key v).wicks = s.wicks := rfl
@[simp] theorem State.tapers_setEntry (s : State) (key v : Nat) : (s.setEntry key v).tapers = s.tapers := rfl
@[simp] theorem State.control_setEntry (s : State) (key v : Nat) : (s.setEntry key v).control = s.control := rfl
@[simp] theorem State.sealers_setEntry (s : State) (key v : Nat) : (s.setEntry key v).sealers = s.sealers := rfl
@[simp] theorem State.digesterOctets_setEntry (s : State) (key v : Nat) : (s.setEntry key v).digesterOctets = s.digesterOctets := rfl
@[simp] theorem State.digesterAt_setEntry (s : State) (key v : Nat) : (s.setEntry key v).digesterAt = s.digesterAt := rfl
@[simp] theorem State.contexts_setEntry (s : State) (key v : Nat) : (s.setEntry key v).contexts = s.contexts := rfl
@[simp] theorem State.lanterns_setEntry (s : State) (key v : Nat) : (s.setEntry key v).lanterns = s.lanterns := rfl
@[simp] theorem State.mces_setEntry (s : State) (key v : Nat) : (s.setEntry key v).mces = s.mces := rfl
@[simp] theorem State.programs_setEntry (s : State) (key v : Nat) : (s.setEntry key v).programs = s.programs := rfl
@[simp] theorem State.library_setEntry (s : State) (key v : Nat) : (s.setEntry key v).library = s.library := rfl
@[simp] theorem State.vault_setEntry (s : State) (key v : Nat) : (s.setEntry key v).vault = s.vault := rfl
@[simp] theorem State.mram_setEntry (s : State) (key v : Nat) : (s.setEntry key v).mram = s.mram := rfl
@[simp] theorem State.erasing_setEntry (s : State) (key v : Nat) : (s.setEntry key v).erasing = s.erasing := rfl
@[simp] theorem State.windowWrites_setEntry (s : State) (key v : Nat) : (s.setEntry key v).windowWrites = s.windowWrites := rfl
@[simp] theorem State.entropy_setEntry (s : State) (key v : Nat) : (s.setEntry key v).entropy = s.entropy := rfl
@[simp] theorem State.events_setEntry (s : State) (key v : Nat) : (s.setEntry key v).events = s.events := rfl
@[simp] theorem State.eventLog_setEntry (s : State) (key v : Nat) : (s.setEntry key v).eventLog = s.eventLog := rfl
@[simp] theorem State.quietStart_setEntry (s : State) (key v : Nat) : (s.setEntry key v).quietStart = s.quietStart := rfl
@[simp] theorem State.selfOwn_setEntry (s : State) (key v : Nat) : (s.setEntry key v).selfOwn = s.selfOwn := rfl
@[simp] theorem State.relightDue_setEntry (s : State) (key v : Nat) : (s.setEntry key v).relightDue = s.relightDue := rfl
@[simp] theorem State.fatal_setEntry (s : State) (key v : Nat) : (s.setEntry key v).fatal = s.fatal := rfl
@[simp] theorem State.dump_setEntry (s : State) (key v : Nat) : (s.setEntry key v).dump = s.dump := rfl
@[simp] theorem State.hop_setEntry (s : State) (key v : Nat) : (s.setEntry key v).hop = s.hop := rfl
@[simp] theorem State.mailboxes_setEntry (s : State) (key v : Nat) : (s.setEntry key v).mailboxes = s.mailboxes := rfl
@[simp] theorem State.mirrorBuilt_setEntry (s : State) (key v : Nat) : (s.setEntry key v).mirrorBuilt = s.mirrorBuilt := rfl
@[simp] theorem State.resetPending_setEntry (s : State) (key v : Nat) : (s.setEntry key v).resetPending = s.resetPending := rfl
@[simp] theorem State.roots_setEntry (s : State) (key v : Nat) : (s.setEntry key v).roots = s.roots := rfl
@[simp] theorem State.flash0_setEntry (s : State) (key v : Nat) : (s.setEntry key v).flash0 = s.flash0 := rfl
@[simp] theorem State.flash1_setEntry (s : State) (key v : Nat) : (s.setEntry key v).flash1 = s.flash1 := rfl
@[simp] theorem State.power_setEntry (s : State) (key v : Nat) : (s.setEntry key v).power = s.power := rfl
@[simp] theorem State.entering_setEntry (s : State) (key v : Nat) : (s.setEntry key v).entering = s.entering := rfl
@[simp] theorem State.activityAt_setEntry (s : State) (key v : Nat) : (s.setEntry key v).activityAt = s.activityAt := rfl
@[simp] theorem State.lowSince_setEntry (s : State) (key v : Nat) : (s.setEntry key v).lowSince = s.lowSince := rfl
@[simp] theorem State.retention_setEntry (s : State) (key v : Nat) : (s.setEntry key v).retention = s.retention := rfl
@[simp] theorem State.supplies_setEntry (s : State) (key v : Nat) : (s.setEntry key v).supplies = s.supplies := rfl
@[simp] theorem State.sconces_setEntry (s : State) (key v : Nat) : (s.setEntry key v).sconces = s.sconces := rfl
@[simp] theorem State.tamper_setEntry (s : State) (key v : Nat) : (s.setEntry key v).tamper = s.tamper := rfl
@[simp] theorem State.pending_setEntry (s : State) (key v : Nat) : (s.setEntry key v).pending = s.pending := rfl
@[simp] theorem State.wick_setEntry (s : State) (key v : Nat) (place : Nat) : (s.setEntry key v).wick place = s.wick place := rfl
@[simp] theorem State.taper_setEntry (s : State) (key v : Nat) (place : Nat) : (s.setEntry key v).taper place = s.taper place := rfl
@[simp] theorem State.sealer_setEntry (s : State) (key v : Nat) (place : Nat) : (s.setEntry key v).sealer place = s.sealer place := rfl
@[simp] theorem State.stream_setEntry (s : State) (key v : Nat) (place : Nat) : (s.setEntry key v).stream place = s.stream place := rfl
@[simp] theorem State.queue_setEntry (s : State) (key v : Nat) (place : Nat) : (s.setEntry key v).queue place = s.queue place := rfl
@[simp] theorem State.fn_setEntry (s : State) (key v : Nat) (place : Nat) : (s.setEntry key v).fn place = s.fn place := rfl
@[simp] theorem State.session_setEntry (s : State) (key v : Nat) (place : Nat) : (s.setEntry key v).session place = s.session place := rfl
@[simp] theorem State.context_setEntry (s : State) (key v : Nat) (place : Nat) : (s.setEntry key v).context place = s.context place := rfl
@[simp] theorem State.arbiter_setEntry (s : State) (key v : Nat) (place : Nat) : (s.setEntry key v).arbiter place = s.arbiter place := rfl
@[simp] theorem State.drbg_setEntry (s : State) (key v : Nat) (place : Nat) : (s.setEntry key v).drbg place = s.drbg place := rfl
@[simp] theorem State.mailbox_setEntry (s : State) (key v : Nat) (place : Nat) : (s.setEntry key v).mailbox place = s.mailbox place := rfl
@[simp] theorem State.vaultKey_setEntry (s : State) (key v : Nat) (place : Nat) : (s.setEntry key v).vaultKey place = s.vaultKey place := rfl
@[simp] theorem State.findJob_setEntry (s : State) (key v : Nat) (place : Nat) : (s.setEntry key v).findJob place = s.findJob place := rfl

/-! ### emit -/

@[simp] theorem State.variant_emit (s : State) (e : Emission) : (s.emit e).variant = s.variant := rfl
@[simp] theorem State.timestamp_emit (s : State) (e : Emission) : (s.emit e).timestamp = s.timestamp := rfl
@[simp] theorem State.hubCycle_emit (s : State) (e : Emission) : (s.emit e).hubCycle = s.hubCycle := rfl
@[simp] theorem State.freeIndex_emit (s : State) (e : Emission) : (s.emit e).freeIndex = s.freeIndex := rfl
@[simp] theorem State.dict_emit (s : State) (e : Emission) : (s.emit e).dict = s.dict := rfl
@[simp] theorem State.notices_emit (s : State) (e : Emission) : (s.emit e).notices = s.notices := rfl
@[simp] theorem State.sessions_emit (s : State) (e : Emission) : (s.emit e).sessions = s.sessions := rfl
@[simp] theorem State.cache_emit (s : State) (e : Emission) : (s.emit e).cache = s.cache := rfl
@[simp] theorem State.jobs_emit (s : State) (e : Emission) : (s.emit e).jobs = s.jobs := rfl
@[simp] theorem State.nextJob_emit (s : State) (e : Emission) : (s.emit e).nextJob = s.nextJob := rfl
@[simp] theorem State.queues_emit (s : State) (e : Emission) : (s.emit e).queues = s.queues := rfl
@[simp] theorem State.lastServed_emit (s : State) (e : Emission) : (s.emit e).lastServed = s.lastServed := rfl
@[simp] theorem State.lastSteady_emit (s : State) (e : Emission) : (s.emit e).lastSteady = s.lastSteady := rfl
@[simp] theorem State.fetchStopped_emit (s : State) (e : Emission) : (s.emit e).fetchStopped = s.fetchStopped := rfl
@[simp] theorem State.fns_emit (s : State) (e : Emission) : (s.emit e).fns = s.fns := rfl
@[simp] theorem State.reservoir_emit (s : State) (e : Emission) : (s.emit e).reservoir = s.reservoir := rfl
@[simp] theorem State.lineTags_emit (s : State) (e : Emission) : (s.emit e).lineTags = s.lineTags := rfl
@[simp] theorem State.sealSets_emit (s : State) (e : Emission) : (s.emit e).sealSets = s.sealSets := rfl
@[simp] theorem State.extents_emit (s : State) (e : Emission) : (s.emit e).extents = s.extents := rfl
@[simp] theorem State.clearing_emit (s : State) (e : Emission) : (s.emit e).clearing = s.clearing := rfl
@[simp] theorem State.clearingAll_emit (s : State) (e : Emission) : (s.emit e).clearingAll = s.clearingAll := rfl
@[simp] theorem State.layout_emit (s : State) (e : Emission) : (s.emit e).layout = s.layout := rfl
@[simp] theorem State.windows_emit (s : State) (e : Emission) : (s.emit e).windows = s.windows := rfl
@[simp] theorem State.quotas_emit (s : State) (e : Emission) : (s.emit e).quotas = s.quotas := rfl
@[simp] theorem State.links_emit (s : State) (e : Emission) : (s.emit e).links = s.links := rfl
@[simp] theorem State.modes_emit (s : State) (e : Emission) : (s.emit e).modes = s.modes := rfl
@[simp] theorem State.arbiters_emit (s : State) (e : Emission) : (s.emit e).arbiters = s.arbiters := rfl
@[simp] theorem State.streams_emit (s : State) (e : Emission) : (s.emit e).streams = s.streams := rfl
@[simp] theorem State.pauses_emit (s : State) (e : Emission) : (s.emit e).pauses = s.pauses := rfl
@[simp] theorem State.wicks_emit (s : State) (e : Emission) : (s.emit e).wicks = s.wicks := rfl
@[simp] theorem State.tapers_emit (s : State) (e : Emission) : (s.emit e).tapers = s.tapers := rfl
@[simp] theorem State.control_emit (s : State) (e : Emission) : (s.emit e).control = s.control := rfl
@[simp] theorem State.sealers_emit (s : State) (e : Emission) : (s.emit e).sealers = s.sealers := rfl
@[simp] theorem State.digesterOctets_emit (s : State) (e : Emission) : (s.emit e).digesterOctets = s.digesterOctets := rfl
@[simp] theorem State.digesterAt_emit (s : State) (e : Emission) : (s.emit e).digesterAt = s.digesterAt := rfl
@[simp] theorem State.contexts_emit (s : State) (e : Emission) : (s.emit e).contexts = s.contexts := rfl
@[simp] theorem State.lanterns_emit (s : State) (e : Emission) : (s.emit e).lanterns = s.lanterns := rfl
@[simp] theorem State.mces_emit (s : State) (e : Emission) : (s.emit e).mces = s.mces := rfl
@[simp] theorem State.programs_emit (s : State) (e : Emission) : (s.emit e).programs = s.programs := rfl
@[simp] theorem State.library_emit (s : State) (e : Emission) : (s.emit e).library = s.library := rfl
@[simp] theorem State.vault_emit (s : State) (e : Emission) : (s.emit e).vault = s.vault := rfl
@[simp] theorem State.mram_emit (s : State) (e : Emission) : (s.emit e).mram = s.mram := rfl
@[simp] theorem State.erasing_emit (s : State) (e : Emission) : (s.emit e).erasing = s.erasing := rfl
@[simp] theorem State.windowWrites_emit (s : State) (e : Emission) : (s.emit e).windowWrites = s.windowWrites := rfl
@[simp] theorem State.entropy_emit (s : State) (e : Emission) : (s.emit e).entropy = s.entropy := rfl
@[simp] theorem State.events_emit (s : State) (e : Emission) : (s.emit e).events = s.events := rfl
@[simp] theorem State.eventLog_emit (s : State) (e : Emission) : (s.emit e).eventLog = s.eventLog := rfl
@[simp] theorem State.quietStart_emit (s : State) (e : Emission) : (s.emit e).quietStart = s.quietStart := rfl
@[simp] theorem State.selfOwn_emit (s : State) (e : Emission) : (s.emit e).selfOwn = s.selfOwn := rfl
@[simp] theorem State.relightDue_emit (s : State) (e : Emission) : (s.emit e).relightDue = s.relightDue := rfl
@[simp] theorem State.fatal_emit (s : State) (e : Emission) : (s.emit e).fatal = s.fatal := rfl
@[simp] theorem State.dump_emit (s : State) (e : Emission) : (s.emit e).dump = s.dump := rfl
@[simp] theorem State.hop_emit (s : State) (e : Emission) : (s.emit e).hop = s.hop := rfl
@[simp] theorem State.mailboxes_emit (s : State) (e : Emission) : (s.emit e).mailboxes = s.mailboxes := rfl
@[simp] theorem State.mirrorBuilt_emit (s : State) (e : Emission) : (s.emit e).mirrorBuilt = s.mirrorBuilt := rfl
@[simp] theorem State.resetPending_emit (s : State) (e : Emission) : (s.emit e).resetPending = s.resetPending := rfl
@[simp] theorem State.roots_emit (s : State) (e : Emission) : (s.emit e).roots = s.roots := rfl
@[simp] theorem State.flash0_emit (s : State) (e : Emission) : (s.emit e).flash0 = s.flash0 := rfl
@[simp] theorem State.flash1_emit (s : State) (e : Emission) : (s.emit e).flash1 = s.flash1 := rfl
@[simp] theorem State.power_emit (s : State) (e : Emission) : (s.emit e).power = s.power := rfl
@[simp] theorem State.entering_emit (s : State) (e : Emission) : (s.emit e).entering = s.entering := rfl
@[simp] theorem State.activityAt_emit (s : State) (e : Emission) : (s.emit e).activityAt = s.activityAt := rfl
@[simp] theorem State.lowSince_emit (s : State) (e : Emission) : (s.emit e).lowSince = s.lowSince := rfl
@[simp] theorem State.retention_emit (s : State) (e : Emission) : (s.emit e).retention = s.retention := rfl
@[simp] theorem State.supplies_emit (s : State) (e : Emission) : (s.emit e).supplies = s.supplies := rfl
@[simp] theorem State.sconces_emit (s : State) (e : Emission) : (s.emit e).sconces = s.sconces := rfl
@[simp] theorem State.tamper_emit (s : State) (e : Emission) : (s.emit e).tamper = s.tamper := rfl
@[simp] theorem State.pending_emit (s : State) (e : Emission) : (s.emit e).pending = s.pending := rfl
@[simp] theorem State.wick_emit (s : State) (e : Emission) (place : Nat) : (s.emit e).wick place = s.wick place := rfl
@[simp] theorem State.taper_emit (s : State) (e : Emission) (place : Nat) : (s.emit e).taper place = s.taper place := rfl
@[simp] theorem State.sealer_emit (s : State) (e : Emission) (place : Nat) : (s.emit e).sealer place = s.sealer place := rfl
@[simp] theorem State.stream_emit (s : State) (e : Emission) (place : Nat) : (s.emit e).stream place = s.stream place := rfl
@[simp] theorem State.queue_emit (s : State) (e : Emission) (place : Nat) : (s.emit e).queue place = s.queue place := rfl
@[simp] theorem State.fn_emit (s : State) (e : Emission) (place : Nat) : (s.emit e).fn place = s.fn place := rfl
@[simp] theorem State.session_emit (s : State) (e : Emission) (place : Nat) : (s.emit e).session place = s.session place := rfl
@[simp] theorem State.context_emit (s : State) (e : Emission) (place : Nat) : (s.emit e).context place = s.context place := rfl
@[simp] theorem State.arbiter_emit (s : State) (e : Emission) (place : Nat) : (s.emit e).arbiter place = s.arbiter place := rfl
@[simp] theorem State.drbg_emit (s : State) (e : Emission) (place : Nat) : (s.emit e).drbg place = s.drbg place := rfl
@[simp] theorem State.mailbox_emit (s : State) (e : Emission) (place : Nat) : (s.emit e).mailbox place = s.mailbox place := rfl
@[simp] theorem State.vaultKey_emit (s : State) (e : Emission) (place : Nat) : (s.emit e).vaultKey place = s.vaultKey place := rfl
@[simp] theorem State.entry_emit (s : State) (e : Emission) (place : Nat) : (s.emit e).entry place = s.entry place := rfl
@[simp] theorem State.flag_emit (s : State) (e : Emission) (place : Nat) : (s.emit e).flag place = s.flag place := rfl
@[simp] theorem State.findJob_emit (s : State) (e : Emission) (place : Nat) : (s.emit e).findJob place = s.findJob place := rfl

/-! ### notice -/

@[simp] theorem State.variant_notice (s : State) (cls : Nat) (unit slice : UnitId) (epoch : Nat) : (s.notice cls unit slice epoch).variant = s.variant := rfl
@[simp] theorem State.timestamp_notice (s : State) (cls : Nat) (unit slice : UnitId) (epoch : Nat) : (s.notice cls unit slice epoch).timestamp = s.timestamp := rfl
@[simp] theorem State.hubCycle_notice (s : State) (cls : Nat) (unit slice : UnitId) (epoch : Nat) : (s.notice cls unit slice epoch).hubCycle = s.hubCycle := rfl
@[simp] theorem State.freeIndex_notice (s : State) (cls : Nat) (unit slice : UnitId) (epoch : Nat) : (s.notice cls unit slice epoch).freeIndex = s.freeIndex := rfl
@[simp] theorem State.dict_notice (s : State) (cls : Nat) (unit slice : UnitId) (epoch : Nat) : (s.notice cls unit slice epoch).dict = s.dict := rfl
@[simp] theorem State.out_notice (s : State) (cls : Nat) (unit slice : UnitId) (epoch : Nat) : (s.notice cls unit slice epoch).out = s.out := rfl
@[simp] theorem State.sessions_notice (s : State) (cls : Nat) (unit slice : UnitId) (epoch : Nat) : (s.notice cls unit slice epoch).sessions = s.sessions := rfl
@[simp] theorem State.cache_notice (s : State) (cls : Nat) (unit slice : UnitId) (epoch : Nat) : (s.notice cls unit slice epoch).cache = s.cache := rfl
@[simp] theorem State.jobs_notice (s : State) (cls : Nat) (unit slice : UnitId) (epoch : Nat) : (s.notice cls unit slice epoch).jobs = s.jobs := rfl
@[simp] theorem State.nextJob_notice (s : State) (cls : Nat) (unit slice : UnitId) (epoch : Nat) : (s.notice cls unit slice epoch).nextJob = s.nextJob := rfl
@[simp] theorem State.queues_notice (s : State) (cls : Nat) (unit slice : UnitId) (epoch : Nat) : (s.notice cls unit slice epoch).queues = s.queues := rfl
@[simp] theorem State.lastServed_notice (s : State) (cls : Nat) (unit slice : UnitId) (epoch : Nat) : (s.notice cls unit slice epoch).lastServed = s.lastServed := rfl
@[simp] theorem State.lastSteady_notice (s : State) (cls : Nat) (unit slice : UnitId) (epoch : Nat) : (s.notice cls unit slice epoch).lastSteady = s.lastSteady := rfl
@[simp] theorem State.fetchStopped_notice (s : State) (cls : Nat) (unit slice : UnitId) (epoch : Nat) : (s.notice cls unit slice epoch).fetchStopped = s.fetchStopped := rfl
@[simp] theorem State.fns_notice (s : State) (cls : Nat) (unit slice : UnitId) (epoch : Nat) : (s.notice cls unit slice epoch).fns = s.fns := rfl
@[simp] theorem State.reservoir_notice (s : State) (cls : Nat) (unit slice : UnitId) (epoch : Nat) : (s.notice cls unit slice epoch).reservoir = s.reservoir := rfl
@[simp] theorem State.lineTags_notice (s : State) (cls : Nat) (unit slice : UnitId) (epoch : Nat) : (s.notice cls unit slice epoch).lineTags = s.lineTags := rfl
@[simp] theorem State.sealSets_notice (s : State) (cls : Nat) (unit slice : UnitId) (epoch : Nat) : (s.notice cls unit slice epoch).sealSets = s.sealSets := rfl
@[simp] theorem State.extents_notice (s : State) (cls : Nat) (unit slice : UnitId) (epoch : Nat) : (s.notice cls unit slice epoch).extents = s.extents := rfl
@[simp] theorem State.clearing_notice (s : State) (cls : Nat) (unit slice : UnitId) (epoch : Nat) : (s.notice cls unit slice epoch).clearing = s.clearing := rfl
@[simp] theorem State.clearingAll_notice (s : State) (cls : Nat) (unit slice : UnitId) (epoch : Nat) : (s.notice cls unit slice epoch).clearingAll = s.clearingAll := rfl
@[simp] theorem State.layout_notice (s : State) (cls : Nat) (unit slice : UnitId) (epoch : Nat) : (s.notice cls unit slice epoch).layout = s.layout := rfl
@[simp] theorem State.windows_notice (s : State) (cls : Nat) (unit slice : UnitId) (epoch : Nat) : (s.notice cls unit slice epoch).windows = s.windows := rfl
@[simp] theorem State.quotas_notice (s : State) (cls : Nat) (unit slice : UnitId) (epoch : Nat) : (s.notice cls unit slice epoch).quotas = s.quotas := rfl
@[simp] theorem State.links_notice (s : State) (cls : Nat) (unit slice : UnitId) (epoch : Nat) : (s.notice cls unit slice epoch).links = s.links := rfl
@[simp] theorem State.modes_notice (s : State) (cls : Nat) (unit slice : UnitId) (epoch : Nat) : (s.notice cls unit slice epoch).modes = s.modes := rfl
@[simp] theorem State.arbiters_notice (s : State) (cls : Nat) (unit slice : UnitId) (epoch : Nat) : (s.notice cls unit slice epoch).arbiters = s.arbiters := rfl
@[simp] theorem State.streams_notice (s : State) (cls : Nat) (unit slice : UnitId) (epoch : Nat) : (s.notice cls unit slice epoch).streams = s.streams := rfl
@[simp] theorem State.pauses_notice (s : State) (cls : Nat) (unit slice : UnitId) (epoch : Nat) : (s.notice cls unit slice epoch).pauses = s.pauses := rfl
@[simp] theorem State.wicks_notice (s : State) (cls : Nat) (unit slice : UnitId) (epoch : Nat) : (s.notice cls unit slice epoch).wicks = s.wicks := rfl
@[simp] theorem State.tapers_notice (s : State) (cls : Nat) (unit slice : UnitId) (epoch : Nat) : (s.notice cls unit slice epoch).tapers = s.tapers := rfl
@[simp] theorem State.control_notice (s : State) (cls : Nat) (unit slice : UnitId) (epoch : Nat) : (s.notice cls unit slice epoch).control = s.control := rfl
@[simp] theorem State.sealers_notice (s : State) (cls : Nat) (unit slice : UnitId) (epoch : Nat) : (s.notice cls unit slice epoch).sealers = s.sealers := rfl
@[simp] theorem State.digesterOctets_notice (s : State) (cls : Nat) (unit slice : UnitId) (epoch : Nat) : (s.notice cls unit slice epoch).digesterOctets = s.digesterOctets := rfl
@[simp] theorem State.digesterAt_notice (s : State) (cls : Nat) (unit slice : UnitId) (epoch : Nat) : (s.notice cls unit slice epoch).digesterAt = s.digesterAt := rfl
@[simp] theorem State.contexts_notice (s : State) (cls : Nat) (unit slice : UnitId) (epoch : Nat) : (s.notice cls unit slice epoch).contexts = s.contexts := rfl
@[simp] theorem State.lanterns_notice (s : State) (cls : Nat) (unit slice : UnitId) (epoch : Nat) : (s.notice cls unit slice epoch).lanterns = s.lanterns := rfl
@[simp] theorem State.mces_notice (s : State) (cls : Nat) (unit slice : UnitId) (epoch : Nat) : (s.notice cls unit slice epoch).mces = s.mces := rfl
@[simp] theorem State.programs_notice (s : State) (cls : Nat) (unit slice : UnitId) (epoch : Nat) : (s.notice cls unit slice epoch).programs = s.programs := rfl
@[simp] theorem State.library_notice (s : State) (cls : Nat) (unit slice : UnitId) (epoch : Nat) : (s.notice cls unit slice epoch).library = s.library := rfl
@[simp] theorem State.vault_notice (s : State) (cls : Nat) (unit slice : UnitId) (epoch : Nat) : (s.notice cls unit slice epoch).vault = s.vault := rfl
@[simp] theorem State.mram_notice (s : State) (cls : Nat) (unit slice : UnitId) (epoch : Nat) : (s.notice cls unit slice epoch).mram = s.mram := rfl
@[simp] theorem State.erasing_notice (s : State) (cls : Nat) (unit slice : UnitId) (epoch : Nat) : (s.notice cls unit slice epoch).erasing = s.erasing := rfl
@[simp] theorem State.windowWrites_notice (s : State) (cls : Nat) (unit slice : UnitId) (epoch : Nat) : (s.notice cls unit slice epoch).windowWrites = s.windowWrites := rfl
@[simp] theorem State.entropy_notice (s : State) (cls : Nat) (unit slice : UnitId) (epoch : Nat) : (s.notice cls unit slice epoch).entropy = s.entropy := rfl
@[simp] theorem State.events_notice (s : State) (cls : Nat) (unit slice : UnitId) (epoch : Nat) : (s.notice cls unit slice epoch).events = s.events := rfl
@[simp] theorem State.eventLog_notice (s : State) (cls : Nat) (unit slice : UnitId) (epoch : Nat) : (s.notice cls unit slice epoch).eventLog = s.eventLog := rfl
@[simp] theorem State.quietStart_notice (s : State) (cls : Nat) (unit slice : UnitId) (epoch : Nat) : (s.notice cls unit slice epoch).quietStart = s.quietStart := rfl
@[simp] theorem State.selfOwn_notice (s : State) (cls : Nat) (unit slice : UnitId) (epoch : Nat) : (s.notice cls unit slice epoch).selfOwn = s.selfOwn := rfl
@[simp] theorem State.relightDue_notice (s : State) (cls : Nat) (unit slice : UnitId) (epoch : Nat) : (s.notice cls unit slice epoch).relightDue = s.relightDue := rfl
@[simp] theorem State.fatal_notice (s : State) (cls : Nat) (unit slice : UnitId) (epoch : Nat) : (s.notice cls unit slice epoch).fatal = s.fatal := rfl
@[simp] theorem State.dump_notice (s : State) (cls : Nat) (unit slice : UnitId) (epoch : Nat) : (s.notice cls unit slice epoch).dump = s.dump := rfl
@[simp] theorem State.hop_notice (s : State) (cls : Nat) (unit slice : UnitId) (epoch : Nat) : (s.notice cls unit slice epoch).hop = s.hop := rfl
@[simp] theorem State.mailboxes_notice (s : State) (cls : Nat) (unit slice : UnitId) (epoch : Nat) : (s.notice cls unit slice epoch).mailboxes = s.mailboxes := rfl
@[simp] theorem State.mirrorBuilt_notice (s : State) (cls : Nat) (unit slice : UnitId) (epoch : Nat) : (s.notice cls unit slice epoch).mirrorBuilt = s.mirrorBuilt := rfl
@[simp] theorem State.resetPending_notice (s : State) (cls : Nat) (unit slice : UnitId) (epoch : Nat) : (s.notice cls unit slice epoch).resetPending = s.resetPending := rfl
@[simp] theorem State.roots_notice (s : State) (cls : Nat) (unit slice : UnitId) (epoch : Nat) : (s.notice cls unit slice epoch).roots = s.roots := rfl
@[simp] theorem State.flash0_notice (s : State) (cls : Nat) (unit slice : UnitId) (epoch : Nat) : (s.notice cls unit slice epoch).flash0 = s.flash0 := rfl
@[simp] theorem State.flash1_notice (s : State) (cls : Nat) (unit slice : UnitId) (epoch : Nat) : (s.notice cls unit slice epoch).flash1 = s.flash1 := rfl
@[simp] theorem State.power_notice (s : State) (cls : Nat) (unit slice : UnitId) (epoch : Nat) : (s.notice cls unit slice epoch).power = s.power := rfl
@[simp] theorem State.entering_notice (s : State) (cls : Nat) (unit slice : UnitId) (epoch : Nat) : (s.notice cls unit slice epoch).entering = s.entering := rfl
@[simp] theorem State.activityAt_notice (s : State) (cls : Nat) (unit slice : UnitId) (epoch : Nat) : (s.notice cls unit slice epoch).activityAt = s.activityAt := rfl
@[simp] theorem State.lowSince_notice (s : State) (cls : Nat) (unit slice : UnitId) (epoch : Nat) : (s.notice cls unit slice epoch).lowSince = s.lowSince := rfl
@[simp] theorem State.retention_notice (s : State) (cls : Nat) (unit slice : UnitId) (epoch : Nat) : (s.notice cls unit slice epoch).retention = s.retention := rfl
@[simp] theorem State.supplies_notice (s : State) (cls : Nat) (unit slice : UnitId) (epoch : Nat) : (s.notice cls unit slice epoch).supplies = s.supplies := rfl
@[simp] theorem State.sconces_notice (s : State) (cls : Nat) (unit slice : UnitId) (epoch : Nat) : (s.notice cls unit slice epoch).sconces = s.sconces := rfl
@[simp] theorem State.tamper_notice (s : State) (cls : Nat) (unit slice : UnitId) (epoch : Nat) : (s.notice cls unit slice epoch).tamper = s.tamper := rfl
@[simp] theorem State.pending_notice (s : State) (cls : Nat) (unit slice : UnitId) (epoch : Nat) : (s.notice cls unit slice epoch).pending = s.pending := rfl
@[simp] theorem State.wick_notice (s : State) (cls : Nat) (unit slice : UnitId) (epoch : Nat) (place : Nat) : (s.notice cls unit slice epoch).wick place = s.wick place := rfl
@[simp] theorem State.taper_notice (s : State) (cls : Nat) (unit slice : UnitId) (epoch : Nat) (place : Nat) : (s.notice cls unit slice epoch).taper place = s.taper place := rfl
@[simp] theorem State.sealer_notice (s : State) (cls : Nat) (unit slice : UnitId) (epoch : Nat) (place : Nat) : (s.notice cls unit slice epoch).sealer place = s.sealer place := rfl
@[simp] theorem State.stream_notice (s : State) (cls : Nat) (unit slice : UnitId) (epoch : Nat) (place : Nat) : (s.notice cls unit slice epoch).stream place = s.stream place := rfl
@[simp] theorem State.queue_notice (s : State) (cls : Nat) (unit slice : UnitId) (epoch : Nat) (place : Nat) : (s.notice cls unit slice epoch).queue place = s.queue place := rfl
@[simp] theorem State.fn_notice (s : State) (cls : Nat) (unit slice : UnitId) (epoch : Nat) (place : Nat) : (s.notice cls unit slice epoch).fn place = s.fn place := rfl
@[simp] theorem State.session_notice (s : State) (cls : Nat) (unit slice : UnitId) (epoch : Nat) (place : Nat) : (s.notice cls unit slice epoch).session place = s.session place := rfl
@[simp] theorem State.context_notice (s : State) (cls : Nat) (unit slice : UnitId) (epoch : Nat) (place : Nat) : (s.notice cls unit slice epoch).context place = s.context place := rfl
@[simp] theorem State.arbiter_notice (s : State) (cls : Nat) (unit slice : UnitId) (epoch : Nat) (place : Nat) : (s.notice cls unit slice epoch).arbiter place = s.arbiter place := rfl
@[simp] theorem State.drbg_notice (s : State) (cls : Nat) (unit slice : UnitId) (epoch : Nat) (place : Nat) : (s.notice cls unit slice epoch).drbg place = s.drbg place := rfl
@[simp] theorem State.mailbox_notice (s : State) (cls : Nat) (unit slice : UnitId) (epoch : Nat) (place : Nat) : (s.notice cls unit slice epoch).mailbox place = s.mailbox place := rfl
@[simp] theorem State.vaultKey_notice (s : State) (cls : Nat) (unit slice : UnitId) (epoch : Nat) (place : Nat) : (s.notice cls unit slice epoch).vaultKey place = s.vaultKey place := rfl
@[simp] theorem State.entry_notice (s : State) (cls : Nat) (unit slice : UnitId) (epoch : Nat) (place : Nat) : (s.notice cls unit slice epoch).entry place = s.entry place := rfl
@[simp] theorem State.flag_notice (s : State) (cls : Nat) (unit slice : UnitId) (epoch : Nat) (place : Nat) : (s.notice cls unit slice epoch).flag place = s.flag place := rfl
@[simp] theorem State.findJob_notice (s : State) (cls : Nat) (unit slice : UnitId) (epoch : Nat) (place : Nat) : (s.notice cls unit slice epoch).findJob place = s.findJob place := rfl

/-! ### setSession -/

@[simp] theorem State.session_setSession (s : State) (n : Nat) (x : Session) : (s.setSession n x).session n = x := Table.get_set_same ..
theorem State.session_setSession_other (s : State) (n : Nat) (x : Session) {place : Nat} (h : place ≠ n) : (s.setSession n x).session place = s.session place := Table.get_set_other _ _ _ _ _ h
@[simp] theorem State.variant_setSession (s : State) (n : Nat) (x : Session) : (s.setSession n x).variant = s.variant := rfl
@[simp] theorem State.timestamp_setSession (s : State) (n : Nat) (x : Session) : (s.setSession n x).timestamp = s.timestamp := rfl
@[simp] theorem State.hubCycle_setSession (s : State) (n : Nat) (x : Session) : (s.setSession n x).hubCycle = s.hubCycle := rfl
@[simp] theorem State.freeIndex_setSession (s : State) (n : Nat) (x : Session) : (s.setSession n x).freeIndex = s.freeIndex := rfl
@[simp] theorem State.dict_setSession (s : State) (n : Nat) (x : Session) : (s.setSession n x).dict = s.dict := rfl
@[simp] theorem State.out_setSession (s : State) (n : Nat) (x : Session) : (s.setSession n x).out = s.out := rfl
@[simp] theorem State.notices_setSession (s : State) (n : Nat) (x : Session) : (s.setSession n x).notices = s.notices := rfl
@[simp] theorem State.cache_setSession (s : State) (n : Nat) (x : Session) : (s.setSession n x).cache = s.cache := rfl
@[simp] theorem State.jobs_setSession (s : State) (n : Nat) (x : Session) : (s.setSession n x).jobs = s.jobs := rfl
@[simp] theorem State.nextJob_setSession (s : State) (n : Nat) (x : Session) : (s.setSession n x).nextJob = s.nextJob := rfl
@[simp] theorem State.queues_setSession (s : State) (n : Nat) (x : Session) : (s.setSession n x).queues = s.queues := rfl
@[simp] theorem State.lastServed_setSession (s : State) (n : Nat) (x : Session) : (s.setSession n x).lastServed = s.lastServed := rfl
@[simp] theorem State.lastSteady_setSession (s : State) (n : Nat) (x : Session) : (s.setSession n x).lastSteady = s.lastSteady := rfl
@[simp] theorem State.fetchStopped_setSession (s : State) (n : Nat) (x : Session) : (s.setSession n x).fetchStopped = s.fetchStopped := rfl
@[simp] theorem State.fns_setSession (s : State) (n : Nat) (x : Session) : (s.setSession n x).fns = s.fns := rfl
@[simp] theorem State.reservoir_setSession (s : State) (n : Nat) (x : Session) : (s.setSession n x).reservoir = s.reservoir := rfl
@[simp] theorem State.lineTags_setSession (s : State) (n : Nat) (x : Session) : (s.setSession n x).lineTags = s.lineTags := rfl
@[simp] theorem State.sealSets_setSession (s : State) (n : Nat) (x : Session) : (s.setSession n x).sealSets = s.sealSets := rfl
@[simp] theorem State.extents_setSession (s : State) (n : Nat) (x : Session) : (s.setSession n x).extents = s.extents := rfl
@[simp] theorem State.clearing_setSession (s : State) (n : Nat) (x : Session) : (s.setSession n x).clearing = s.clearing := rfl
@[simp] theorem State.clearingAll_setSession (s : State) (n : Nat) (x : Session) : (s.setSession n x).clearingAll = s.clearingAll := rfl
@[simp] theorem State.layout_setSession (s : State) (n : Nat) (x : Session) : (s.setSession n x).layout = s.layout := rfl
@[simp] theorem State.windows_setSession (s : State) (n : Nat) (x : Session) : (s.setSession n x).windows = s.windows := rfl
@[simp] theorem State.quotas_setSession (s : State) (n : Nat) (x : Session) : (s.setSession n x).quotas = s.quotas := rfl
@[simp] theorem State.links_setSession (s : State) (n : Nat) (x : Session) : (s.setSession n x).links = s.links := rfl
@[simp] theorem State.modes_setSession (s : State) (n : Nat) (x : Session) : (s.setSession n x).modes = s.modes := rfl
@[simp] theorem State.arbiters_setSession (s : State) (n : Nat) (x : Session) : (s.setSession n x).arbiters = s.arbiters := rfl
@[simp] theorem State.streams_setSession (s : State) (n : Nat) (x : Session) : (s.setSession n x).streams = s.streams := rfl
@[simp] theorem State.pauses_setSession (s : State) (n : Nat) (x : Session) : (s.setSession n x).pauses = s.pauses := rfl
@[simp] theorem State.wicks_setSession (s : State) (n : Nat) (x : Session) : (s.setSession n x).wicks = s.wicks := rfl
@[simp] theorem State.tapers_setSession (s : State) (n : Nat) (x : Session) : (s.setSession n x).tapers = s.tapers := rfl
@[simp] theorem State.control_setSession (s : State) (n : Nat) (x : Session) : (s.setSession n x).control = s.control := rfl
@[simp] theorem State.sealers_setSession (s : State) (n : Nat) (x : Session) : (s.setSession n x).sealers = s.sealers := rfl
@[simp] theorem State.digesterOctets_setSession (s : State) (n : Nat) (x : Session) : (s.setSession n x).digesterOctets = s.digesterOctets := rfl
@[simp] theorem State.digesterAt_setSession (s : State) (n : Nat) (x : Session) : (s.setSession n x).digesterAt = s.digesterAt := rfl
@[simp] theorem State.contexts_setSession (s : State) (n : Nat) (x : Session) : (s.setSession n x).contexts = s.contexts := rfl
@[simp] theorem State.lanterns_setSession (s : State) (n : Nat) (x : Session) : (s.setSession n x).lanterns = s.lanterns := rfl
@[simp] theorem State.mces_setSession (s : State) (n : Nat) (x : Session) : (s.setSession n x).mces = s.mces := rfl
@[simp] theorem State.programs_setSession (s : State) (n : Nat) (x : Session) : (s.setSession n x).programs = s.programs := rfl
@[simp] theorem State.library_setSession (s : State) (n : Nat) (x : Session) : (s.setSession n x).library = s.library := rfl
@[simp] theorem State.vault_setSession (s : State) (n : Nat) (x : Session) : (s.setSession n x).vault = s.vault := rfl
@[simp] theorem State.mram_setSession (s : State) (n : Nat) (x : Session) : (s.setSession n x).mram = s.mram := rfl
@[simp] theorem State.erasing_setSession (s : State) (n : Nat) (x : Session) : (s.setSession n x).erasing = s.erasing := rfl
@[simp] theorem State.windowWrites_setSession (s : State) (n : Nat) (x : Session) : (s.setSession n x).windowWrites = s.windowWrites := rfl
@[simp] theorem State.entropy_setSession (s : State) (n : Nat) (x : Session) : (s.setSession n x).entropy = s.entropy := rfl
@[simp] theorem State.events_setSession (s : State) (n : Nat) (x : Session) : (s.setSession n x).events = s.events := rfl
@[simp] theorem State.eventLog_setSession (s : State) (n : Nat) (x : Session) : (s.setSession n x).eventLog = s.eventLog := rfl
@[simp] theorem State.quietStart_setSession (s : State) (n : Nat) (x : Session) : (s.setSession n x).quietStart = s.quietStart := rfl
@[simp] theorem State.selfOwn_setSession (s : State) (n : Nat) (x : Session) : (s.setSession n x).selfOwn = s.selfOwn := rfl
@[simp] theorem State.relightDue_setSession (s : State) (n : Nat) (x : Session) : (s.setSession n x).relightDue = s.relightDue := rfl
@[simp] theorem State.fatal_setSession (s : State) (n : Nat) (x : Session) : (s.setSession n x).fatal = s.fatal := rfl
@[simp] theorem State.dump_setSession (s : State) (n : Nat) (x : Session) : (s.setSession n x).dump = s.dump := rfl
@[simp] theorem State.hop_setSession (s : State) (n : Nat) (x : Session) : (s.setSession n x).hop = s.hop := rfl
@[simp] theorem State.mailboxes_setSession (s : State) (n : Nat) (x : Session) : (s.setSession n x).mailboxes = s.mailboxes := rfl
@[simp] theorem State.mirrorBuilt_setSession (s : State) (n : Nat) (x : Session) : (s.setSession n x).mirrorBuilt = s.mirrorBuilt := rfl
@[simp] theorem State.resetPending_setSession (s : State) (n : Nat) (x : Session) : (s.setSession n x).resetPending = s.resetPending := rfl
@[simp] theorem State.roots_setSession (s : State) (n : Nat) (x : Session) : (s.setSession n x).roots = s.roots := rfl
@[simp] theorem State.flash0_setSession (s : State) (n : Nat) (x : Session) : (s.setSession n x).flash0 = s.flash0 := rfl
@[simp] theorem State.flash1_setSession (s : State) (n : Nat) (x : Session) : (s.setSession n x).flash1 = s.flash1 := rfl
@[simp] theorem State.power_setSession (s : State) (n : Nat) (x : Session) : (s.setSession n x).power = s.power := rfl
@[simp] theorem State.entering_setSession (s : State) (n : Nat) (x : Session) : (s.setSession n x).entering = s.entering := rfl
@[simp] theorem State.activityAt_setSession (s : State) (n : Nat) (x : Session) : (s.setSession n x).activityAt = s.activityAt := rfl
@[simp] theorem State.lowSince_setSession (s : State) (n : Nat) (x : Session) : (s.setSession n x).lowSince = s.lowSince := rfl
@[simp] theorem State.retention_setSession (s : State) (n : Nat) (x : Session) : (s.setSession n x).retention = s.retention := rfl
@[simp] theorem State.supplies_setSession (s : State) (n : Nat) (x : Session) : (s.setSession n x).supplies = s.supplies := rfl
@[simp] theorem State.sconces_setSession (s : State) (n : Nat) (x : Session) : (s.setSession n x).sconces = s.sconces := rfl
@[simp] theorem State.tamper_setSession (s : State) (n : Nat) (x : Session) : (s.setSession n x).tamper = s.tamper := rfl
@[simp] theorem State.pending_setSession (s : State) (n : Nat) (x : Session) : (s.setSession n x).pending = s.pending := rfl
@[simp] theorem State.wick_setSession (s : State) (n : Nat) (x : Session) (place : Nat) : (s.setSession n x).wick place = s.wick place := rfl
@[simp] theorem State.taper_setSession (s : State) (n : Nat) (x : Session) (place : Nat) : (s.setSession n x).taper place = s.taper place := rfl
@[simp] theorem State.sealer_setSession (s : State) (n : Nat) (x : Session) (place : Nat) : (s.setSession n x).sealer place = s.sealer place := rfl
@[simp] theorem State.stream_setSession (s : State) (n : Nat) (x : Session) (place : Nat) : (s.setSession n x).stream place = s.stream place := rfl
@[simp] theorem State.queue_setSession (s : State) (n : Nat) (x : Session) (place : Nat) : (s.setSession n x).queue place = s.queue place := rfl
@[simp] theorem State.fn_setSession (s : State) (n : Nat) (x : Session) (place : Nat) : (s.setSession n x).fn place = s.fn place := rfl
@[simp] theorem State.context_setSession (s : State) (n : Nat) (x : Session) (place : Nat) : (s.setSession n x).context place = s.context place := rfl
@[simp] theorem State.arbiter_setSession (s : State) (n : Nat) (x : Session) (place : Nat) : (s.setSession n x).arbiter place = s.arbiter place := rfl
@[simp] theorem State.drbg_setSession (s : State) (n : Nat) (x : Session) (place : Nat) : (s.setSession n x).drbg place = s.drbg place := rfl
@[simp] theorem State.mailbox_setSession (s : State) (n : Nat) (x : Session) (place : Nat) : (s.setSession n x).mailbox place = s.mailbox place := rfl
@[simp] theorem State.vaultKey_setSession (s : State) (n : Nat) (x : Session) (place : Nat) : (s.setSession n x).vaultKey place = s.vaultKey place := rfl
@[simp] theorem State.entry_setSession (s : State) (n : Nat) (x : Session) (place : Nat) : (s.setSession n x).entry place = s.entry place := rfl
@[simp] theorem State.flag_setSession (s : State) (n : Nat) (x : Session) (place : Nat) : (s.setSession n x).flag place = s.flag place := rfl
@[simp] theorem State.findJob_setSession (s : State) (n : Nat) (x : Session) (place : Nat) : (s.setSession n x).findJob place = s.findJob place := rfl

/-! ### setQueue -/

@[simp] theorem State.queue_setQueue (s : State) (g : Nat) (q : Queue) : (s.setQueue g q).queue g = q := Table.get_set_same ..
theorem State.queue_setQueue_other (s : State) (g : Nat) (q : Queue) {place : Nat} (h : place ≠ g) : (s.setQueue g q).queue place = s.queue place := Table.get_set_other _ _ _ _ _ h
@[simp] theorem State.variant_setQueue (s : State) (g : Nat) (q : Queue) : (s.setQueue g q).variant = s.variant := rfl
@[simp] theorem State.timestamp_setQueue (s : State) (g : Nat) (q : Queue) : (s.setQueue g q).timestamp = s.timestamp := rfl
@[simp] theorem State.hubCycle_setQueue (s : State) (g : Nat) (q : Queue) : (s.setQueue g q).hubCycle = s.hubCycle := rfl
@[simp] theorem State.freeIndex_setQueue (s : State) (g : Nat) (q : Queue) : (s.setQueue g q).freeIndex = s.freeIndex := rfl
@[simp] theorem State.dict_setQueue (s : State) (g : Nat) (q : Queue) : (s.setQueue g q).dict = s.dict := rfl
@[simp] theorem State.out_setQueue (s : State) (g : Nat) (q : Queue) : (s.setQueue g q).out = s.out := rfl
@[simp] theorem State.notices_setQueue (s : State) (g : Nat) (q : Queue) : (s.setQueue g q).notices = s.notices := rfl
@[simp] theorem State.sessions_setQueue (s : State) (g : Nat) (q : Queue) : (s.setQueue g q).sessions = s.sessions := rfl
@[simp] theorem State.cache_setQueue (s : State) (g : Nat) (q : Queue) : (s.setQueue g q).cache = s.cache := rfl
@[simp] theorem State.jobs_setQueue (s : State) (g : Nat) (q : Queue) : (s.setQueue g q).jobs = s.jobs := rfl
@[simp] theorem State.nextJob_setQueue (s : State) (g : Nat) (q : Queue) : (s.setQueue g q).nextJob = s.nextJob := rfl
@[simp] theorem State.lastServed_setQueue (s : State) (g : Nat) (q : Queue) : (s.setQueue g q).lastServed = s.lastServed := rfl
@[simp] theorem State.lastSteady_setQueue (s : State) (g : Nat) (q : Queue) : (s.setQueue g q).lastSteady = s.lastSteady := rfl
@[simp] theorem State.fetchStopped_setQueue (s : State) (g : Nat) (q : Queue) : (s.setQueue g q).fetchStopped = s.fetchStopped := rfl
@[simp] theorem State.fns_setQueue (s : State) (g : Nat) (q : Queue) : (s.setQueue g q).fns = s.fns := rfl
@[simp] theorem State.reservoir_setQueue (s : State) (g : Nat) (q : Queue) : (s.setQueue g q).reservoir = s.reservoir := rfl
@[simp] theorem State.lineTags_setQueue (s : State) (g : Nat) (q : Queue) : (s.setQueue g q).lineTags = s.lineTags := rfl
@[simp] theorem State.sealSets_setQueue (s : State) (g : Nat) (q : Queue) : (s.setQueue g q).sealSets = s.sealSets := rfl
@[simp] theorem State.extents_setQueue (s : State) (g : Nat) (q : Queue) : (s.setQueue g q).extents = s.extents := rfl
@[simp] theorem State.clearing_setQueue (s : State) (g : Nat) (q : Queue) : (s.setQueue g q).clearing = s.clearing := rfl
@[simp] theorem State.clearingAll_setQueue (s : State) (g : Nat) (q : Queue) : (s.setQueue g q).clearingAll = s.clearingAll := rfl
@[simp] theorem State.layout_setQueue (s : State) (g : Nat) (q : Queue) : (s.setQueue g q).layout = s.layout := rfl
@[simp] theorem State.windows_setQueue (s : State) (g : Nat) (q : Queue) : (s.setQueue g q).windows = s.windows := rfl
@[simp] theorem State.quotas_setQueue (s : State) (g : Nat) (q : Queue) : (s.setQueue g q).quotas = s.quotas := rfl
@[simp] theorem State.links_setQueue (s : State) (g : Nat) (q : Queue) : (s.setQueue g q).links = s.links := rfl
@[simp] theorem State.modes_setQueue (s : State) (g : Nat) (q : Queue) : (s.setQueue g q).modes = s.modes := rfl
@[simp] theorem State.arbiters_setQueue (s : State) (g : Nat) (q : Queue) : (s.setQueue g q).arbiters = s.arbiters := rfl
@[simp] theorem State.streams_setQueue (s : State) (g : Nat) (q : Queue) : (s.setQueue g q).streams = s.streams := rfl
@[simp] theorem State.pauses_setQueue (s : State) (g : Nat) (q : Queue) : (s.setQueue g q).pauses = s.pauses := rfl
@[simp] theorem State.wicks_setQueue (s : State) (g : Nat) (q : Queue) : (s.setQueue g q).wicks = s.wicks := rfl
@[simp] theorem State.tapers_setQueue (s : State) (g : Nat) (q : Queue) : (s.setQueue g q).tapers = s.tapers := rfl
@[simp] theorem State.control_setQueue (s : State) (g : Nat) (q : Queue) : (s.setQueue g q).control = s.control := rfl
@[simp] theorem State.sealers_setQueue (s : State) (g : Nat) (q : Queue) : (s.setQueue g q).sealers = s.sealers := rfl
@[simp] theorem State.digesterOctets_setQueue (s : State) (g : Nat) (q : Queue) : (s.setQueue g q).digesterOctets = s.digesterOctets := rfl
@[simp] theorem State.digesterAt_setQueue (s : State) (g : Nat) (q : Queue) : (s.setQueue g q).digesterAt = s.digesterAt := rfl
@[simp] theorem State.contexts_setQueue (s : State) (g : Nat) (q : Queue) : (s.setQueue g q).contexts = s.contexts := rfl
@[simp] theorem State.lanterns_setQueue (s : State) (g : Nat) (q : Queue) : (s.setQueue g q).lanterns = s.lanterns := rfl
@[simp] theorem State.mces_setQueue (s : State) (g : Nat) (q : Queue) : (s.setQueue g q).mces = s.mces := rfl
@[simp] theorem State.programs_setQueue (s : State) (g : Nat) (q : Queue) : (s.setQueue g q).programs = s.programs := rfl
@[simp] theorem State.library_setQueue (s : State) (g : Nat) (q : Queue) : (s.setQueue g q).library = s.library := rfl
@[simp] theorem State.vault_setQueue (s : State) (g : Nat) (q : Queue) : (s.setQueue g q).vault = s.vault := rfl
@[simp] theorem State.mram_setQueue (s : State) (g : Nat) (q : Queue) : (s.setQueue g q).mram = s.mram := rfl
@[simp] theorem State.erasing_setQueue (s : State) (g : Nat) (q : Queue) : (s.setQueue g q).erasing = s.erasing := rfl
@[simp] theorem State.windowWrites_setQueue (s : State) (g : Nat) (q : Queue) : (s.setQueue g q).windowWrites = s.windowWrites := rfl
@[simp] theorem State.entropy_setQueue (s : State) (g : Nat) (q : Queue) : (s.setQueue g q).entropy = s.entropy := rfl
@[simp] theorem State.events_setQueue (s : State) (g : Nat) (q : Queue) : (s.setQueue g q).events = s.events := rfl
@[simp] theorem State.eventLog_setQueue (s : State) (g : Nat) (q : Queue) : (s.setQueue g q).eventLog = s.eventLog := rfl
@[simp] theorem State.quietStart_setQueue (s : State) (g : Nat) (q : Queue) : (s.setQueue g q).quietStart = s.quietStart := rfl
@[simp] theorem State.selfOwn_setQueue (s : State) (g : Nat) (q : Queue) : (s.setQueue g q).selfOwn = s.selfOwn := rfl
@[simp] theorem State.relightDue_setQueue (s : State) (g : Nat) (q : Queue) : (s.setQueue g q).relightDue = s.relightDue := rfl
@[simp] theorem State.fatal_setQueue (s : State) (g : Nat) (q : Queue) : (s.setQueue g q).fatal = s.fatal := rfl
@[simp] theorem State.dump_setQueue (s : State) (g : Nat) (q : Queue) : (s.setQueue g q).dump = s.dump := rfl
@[simp] theorem State.hop_setQueue (s : State) (g : Nat) (q : Queue) : (s.setQueue g q).hop = s.hop := rfl
@[simp] theorem State.mailboxes_setQueue (s : State) (g : Nat) (q : Queue) : (s.setQueue g q).mailboxes = s.mailboxes := rfl
@[simp] theorem State.mirrorBuilt_setQueue (s : State) (g : Nat) (q : Queue) : (s.setQueue g q).mirrorBuilt = s.mirrorBuilt := rfl
@[simp] theorem State.resetPending_setQueue (s : State) (g : Nat) (q : Queue) : (s.setQueue g q).resetPending = s.resetPending := rfl
@[simp] theorem State.roots_setQueue (s : State) (g : Nat) (q : Queue) : (s.setQueue g q).roots = s.roots := rfl
@[simp] theorem State.flash0_setQueue (s : State) (g : Nat) (q : Queue) : (s.setQueue g q).flash0 = s.flash0 := rfl
@[simp] theorem State.flash1_setQueue (s : State) (g : Nat) (q : Queue) : (s.setQueue g q).flash1 = s.flash1 := rfl
@[simp] theorem State.power_setQueue (s : State) (g : Nat) (q : Queue) : (s.setQueue g q).power = s.power := rfl
@[simp] theorem State.entering_setQueue (s : State) (g : Nat) (q : Queue) : (s.setQueue g q).entering = s.entering := rfl
@[simp] theorem State.activityAt_setQueue (s : State) (g : Nat) (q : Queue) : (s.setQueue g q).activityAt = s.activityAt := rfl
@[simp] theorem State.lowSince_setQueue (s : State) (g : Nat) (q : Queue) : (s.setQueue g q).lowSince = s.lowSince := rfl
@[simp] theorem State.retention_setQueue (s : State) (g : Nat) (q : Queue) : (s.setQueue g q).retention = s.retention := rfl
@[simp] theorem State.supplies_setQueue (s : State) (g : Nat) (q : Queue) : (s.setQueue g q).supplies = s.supplies := rfl
@[simp] theorem State.sconces_setQueue (s : State) (g : Nat) (q : Queue) : (s.setQueue g q).sconces = s.sconces := rfl
@[simp] theorem State.tamper_setQueue (s : State) (g : Nat) (q : Queue) : (s.setQueue g q).tamper = s.tamper := rfl
@[simp] theorem State.pending_setQueue (s : State) (g : Nat) (q : Queue) : (s.setQueue g q).pending = s.pending := rfl
@[simp] theorem State.wick_setQueue (s : State) (g : Nat) (q : Queue) (place : Nat) : (s.setQueue g q).wick place = s.wick place := rfl
@[simp] theorem State.taper_setQueue (s : State) (g : Nat) (q : Queue) (place : Nat) : (s.setQueue g q).taper place = s.taper place := rfl
@[simp] theorem State.sealer_setQueue (s : State) (g : Nat) (q : Queue) (place : Nat) : (s.setQueue g q).sealer place = s.sealer place := rfl
@[simp] theorem State.stream_setQueue (s : State) (g : Nat) (q : Queue) (place : Nat) : (s.setQueue g q).stream place = s.stream place := rfl
@[simp] theorem State.fn_setQueue (s : State) (g : Nat) (q : Queue) (place : Nat) : (s.setQueue g q).fn place = s.fn place := rfl
@[simp] theorem State.session_setQueue (s : State) (g : Nat) (q : Queue) (place : Nat) : (s.setQueue g q).session place = s.session place := rfl
@[simp] theorem State.context_setQueue (s : State) (g : Nat) (q : Queue) (place : Nat) : (s.setQueue g q).context place = s.context place := rfl
@[simp] theorem State.arbiter_setQueue (s : State) (g : Nat) (q : Queue) (place : Nat) : (s.setQueue g q).arbiter place = s.arbiter place := rfl
@[simp] theorem State.drbg_setQueue (s : State) (g : Nat) (q : Queue) (place : Nat) : (s.setQueue g q).drbg place = s.drbg place := rfl
@[simp] theorem State.mailbox_setQueue (s : State) (g : Nat) (q : Queue) (place : Nat) : (s.setQueue g q).mailbox place = s.mailbox place := rfl
@[simp] theorem State.vaultKey_setQueue (s : State) (g : Nat) (q : Queue) (place : Nat) : (s.setQueue g q).vaultKey place = s.vaultKey place := rfl
@[simp] theorem State.entry_setQueue (s : State) (g : Nat) (q : Queue) (place : Nat) : (s.setQueue g q).entry place = s.entry place := rfl
@[simp] theorem State.flag_setQueue (s : State) (g : Nat) (q : Queue) (place : Nat) : (s.setQueue g q).flag place = s.flag place := rfl
@[simp] theorem State.findJob_setQueue (s : State) (g : Nat) (q : Queue) (place : Nat) : (s.setQueue g q).findJob place = s.findJob place := rfl

/-! ### setFn -/

@[simp] theorem State.fn_setFn (s : State) (l : Nat) (f : HostFn) : (s.setFn l f).fn l = f := Table.get_set_same ..
theorem State.fn_setFn_other (s : State) (l : Nat) (f : HostFn) {place : Nat} (h : place ≠ l) : (s.setFn l f).fn place = s.fn place := Table.get_set_other _ _ _ _ _ h
@[simp] theorem State.variant_setFn (s : State) (l : Nat) (f : HostFn) : (s.setFn l f).variant = s.variant := rfl
@[simp] theorem State.timestamp_setFn (s : State) (l : Nat) (f : HostFn) : (s.setFn l f).timestamp = s.timestamp := rfl
@[simp] theorem State.hubCycle_setFn (s : State) (l : Nat) (f : HostFn) : (s.setFn l f).hubCycle = s.hubCycle := rfl
@[simp] theorem State.freeIndex_setFn (s : State) (l : Nat) (f : HostFn) : (s.setFn l f).freeIndex = s.freeIndex := rfl
@[simp] theorem State.dict_setFn (s : State) (l : Nat) (f : HostFn) : (s.setFn l f).dict = s.dict := rfl
@[simp] theorem State.out_setFn (s : State) (l : Nat) (f : HostFn) : (s.setFn l f).out = s.out := rfl
@[simp] theorem State.notices_setFn (s : State) (l : Nat) (f : HostFn) : (s.setFn l f).notices = s.notices := rfl
@[simp] theorem State.sessions_setFn (s : State) (l : Nat) (f : HostFn) : (s.setFn l f).sessions = s.sessions := rfl
@[simp] theorem State.cache_setFn (s : State) (l : Nat) (f : HostFn) : (s.setFn l f).cache = s.cache := rfl
@[simp] theorem State.jobs_setFn (s : State) (l : Nat) (f : HostFn) : (s.setFn l f).jobs = s.jobs := rfl
@[simp] theorem State.nextJob_setFn (s : State) (l : Nat) (f : HostFn) : (s.setFn l f).nextJob = s.nextJob := rfl
@[simp] theorem State.queues_setFn (s : State) (l : Nat) (f : HostFn) : (s.setFn l f).queues = s.queues := rfl
@[simp] theorem State.lastServed_setFn (s : State) (l : Nat) (f : HostFn) : (s.setFn l f).lastServed = s.lastServed := rfl
@[simp] theorem State.lastSteady_setFn (s : State) (l : Nat) (f : HostFn) : (s.setFn l f).lastSteady = s.lastSteady := rfl
@[simp] theorem State.fetchStopped_setFn (s : State) (l : Nat) (f : HostFn) : (s.setFn l f).fetchStopped = s.fetchStopped := rfl
@[simp] theorem State.reservoir_setFn (s : State) (l : Nat) (f : HostFn) : (s.setFn l f).reservoir = s.reservoir := rfl
@[simp] theorem State.lineTags_setFn (s : State) (l : Nat) (f : HostFn) : (s.setFn l f).lineTags = s.lineTags := rfl
@[simp] theorem State.sealSets_setFn (s : State) (l : Nat) (f : HostFn) : (s.setFn l f).sealSets = s.sealSets := rfl
@[simp] theorem State.extents_setFn (s : State) (l : Nat) (f : HostFn) : (s.setFn l f).extents = s.extents := rfl
@[simp] theorem State.clearing_setFn (s : State) (l : Nat) (f : HostFn) : (s.setFn l f).clearing = s.clearing := rfl
@[simp] theorem State.clearingAll_setFn (s : State) (l : Nat) (f : HostFn) : (s.setFn l f).clearingAll = s.clearingAll := rfl
@[simp] theorem State.layout_setFn (s : State) (l : Nat) (f : HostFn) : (s.setFn l f).layout = s.layout := rfl
@[simp] theorem State.windows_setFn (s : State) (l : Nat) (f : HostFn) : (s.setFn l f).windows = s.windows := rfl
@[simp] theorem State.quotas_setFn (s : State) (l : Nat) (f : HostFn) : (s.setFn l f).quotas = s.quotas := rfl
@[simp] theorem State.links_setFn (s : State) (l : Nat) (f : HostFn) : (s.setFn l f).links = s.links := rfl
@[simp] theorem State.modes_setFn (s : State) (l : Nat) (f : HostFn) : (s.setFn l f).modes = s.modes := rfl
@[simp] theorem State.arbiters_setFn (s : State) (l : Nat) (f : HostFn) : (s.setFn l f).arbiters = s.arbiters := rfl
@[simp] theorem State.streams_setFn (s : State) (l : Nat) (f : HostFn) : (s.setFn l f).streams = s.streams := rfl
@[simp] theorem State.pauses_setFn (s : State) (l : Nat) (f : HostFn) : (s.setFn l f).pauses = s.pauses := rfl
@[simp] theorem State.wicks_setFn (s : State) (l : Nat) (f : HostFn) : (s.setFn l f).wicks = s.wicks := rfl
@[simp] theorem State.tapers_setFn (s : State) (l : Nat) (f : HostFn) : (s.setFn l f).tapers = s.tapers := rfl
@[simp] theorem State.control_setFn (s : State) (l : Nat) (f : HostFn) : (s.setFn l f).control = s.control := rfl
@[simp] theorem State.sealers_setFn (s : State) (l : Nat) (f : HostFn) : (s.setFn l f).sealers = s.sealers := rfl
@[simp] theorem State.digesterOctets_setFn (s : State) (l : Nat) (f : HostFn) : (s.setFn l f).digesterOctets = s.digesterOctets := rfl
@[simp] theorem State.digesterAt_setFn (s : State) (l : Nat) (f : HostFn) : (s.setFn l f).digesterAt = s.digesterAt := rfl
@[simp] theorem State.contexts_setFn (s : State) (l : Nat) (f : HostFn) : (s.setFn l f).contexts = s.contexts := rfl
@[simp] theorem State.lanterns_setFn (s : State) (l : Nat) (f : HostFn) : (s.setFn l f).lanterns = s.lanterns := rfl
@[simp] theorem State.mces_setFn (s : State) (l : Nat) (f : HostFn) : (s.setFn l f).mces = s.mces := rfl
@[simp] theorem State.programs_setFn (s : State) (l : Nat) (f : HostFn) : (s.setFn l f).programs = s.programs := rfl
@[simp] theorem State.library_setFn (s : State) (l : Nat) (f : HostFn) : (s.setFn l f).library = s.library := rfl
@[simp] theorem State.vault_setFn (s : State) (l : Nat) (f : HostFn) : (s.setFn l f).vault = s.vault := rfl
@[simp] theorem State.mram_setFn (s : State) (l : Nat) (f : HostFn) : (s.setFn l f).mram = s.mram := rfl
@[simp] theorem State.erasing_setFn (s : State) (l : Nat) (f : HostFn) : (s.setFn l f).erasing = s.erasing := rfl
@[simp] theorem State.windowWrites_setFn (s : State) (l : Nat) (f : HostFn) : (s.setFn l f).windowWrites = s.windowWrites := rfl
@[simp] theorem State.entropy_setFn (s : State) (l : Nat) (f : HostFn) : (s.setFn l f).entropy = s.entropy := rfl
@[simp] theorem State.events_setFn (s : State) (l : Nat) (f : HostFn) : (s.setFn l f).events = s.events := rfl
@[simp] theorem State.eventLog_setFn (s : State) (l : Nat) (f : HostFn) : (s.setFn l f).eventLog = s.eventLog := rfl
@[simp] theorem State.quietStart_setFn (s : State) (l : Nat) (f : HostFn) : (s.setFn l f).quietStart = s.quietStart := rfl
@[simp] theorem State.selfOwn_setFn (s : State) (l : Nat) (f : HostFn) : (s.setFn l f).selfOwn = s.selfOwn := rfl
@[simp] theorem State.relightDue_setFn (s : State) (l : Nat) (f : HostFn) : (s.setFn l f).relightDue = s.relightDue := rfl
@[simp] theorem State.fatal_setFn (s : State) (l : Nat) (f : HostFn) : (s.setFn l f).fatal = s.fatal := rfl
@[simp] theorem State.dump_setFn (s : State) (l : Nat) (f : HostFn) : (s.setFn l f).dump = s.dump := rfl
@[simp] theorem State.hop_setFn (s : State) (l : Nat) (f : HostFn) : (s.setFn l f).hop = s.hop := rfl
@[simp] theorem State.mailboxes_setFn (s : State) (l : Nat) (f : HostFn) : (s.setFn l f).mailboxes = s.mailboxes := rfl
@[simp] theorem State.mirrorBuilt_setFn (s : State) (l : Nat) (f : HostFn) : (s.setFn l f).mirrorBuilt = s.mirrorBuilt := rfl
@[simp] theorem State.resetPending_setFn (s : State) (l : Nat) (f : HostFn) : (s.setFn l f).resetPending = s.resetPending := rfl
@[simp] theorem State.roots_setFn (s : State) (l : Nat) (f : HostFn) : (s.setFn l f).roots = s.roots := rfl
@[simp] theorem State.flash0_setFn (s : State) (l : Nat) (f : HostFn) : (s.setFn l f).flash0 = s.flash0 := rfl
@[simp] theorem State.flash1_setFn (s : State) (l : Nat) (f : HostFn) : (s.setFn l f).flash1 = s.flash1 := rfl
@[simp] theorem State.power_setFn (s : State) (l : Nat) (f : HostFn) : (s.setFn l f).power = s.power := rfl
@[simp] theorem State.entering_setFn (s : State) (l : Nat) (f : HostFn) : (s.setFn l f).entering = s.entering := rfl
@[simp] theorem State.activityAt_setFn (s : State) (l : Nat) (f : HostFn) : (s.setFn l f).activityAt = s.activityAt := rfl
@[simp] theorem State.lowSince_setFn (s : State) (l : Nat) (f : HostFn) : (s.setFn l f).lowSince = s.lowSince := rfl
@[simp] theorem State.retention_setFn (s : State) (l : Nat) (f : HostFn) : (s.setFn l f).retention = s.retention := rfl
@[simp] theorem State.supplies_setFn (s : State) (l : Nat) (f : HostFn) : (s.setFn l f).supplies = s.supplies := rfl
@[simp] theorem State.sconces_setFn (s : State) (l : Nat) (f : HostFn) : (s.setFn l f).sconces = s.sconces := rfl
@[simp] theorem State.tamper_setFn (s : State) (l : Nat) (f : HostFn) : (s.setFn l f).tamper = s.tamper := rfl
@[simp] theorem State.pending_setFn (s : State) (l : Nat) (f : HostFn) : (s.setFn l f).pending = s.pending := rfl
@[simp] theorem State.wick_setFn (s : State) (l : Nat) (f : HostFn) (place : Nat) : (s.setFn l f).wick place = s.wick place := rfl
@[simp] theorem State.taper_setFn (s : State) (l : Nat) (f : HostFn) (place : Nat) : (s.setFn l f).taper place = s.taper place := rfl
@[simp] theorem State.sealer_setFn (s : State) (l : Nat) (f : HostFn) (place : Nat) : (s.setFn l f).sealer place = s.sealer place := rfl
@[simp] theorem State.stream_setFn (s : State) (l : Nat) (f : HostFn) (place : Nat) : (s.setFn l f).stream place = s.stream place := rfl
@[simp] theorem State.queue_setFn (s : State) (l : Nat) (f : HostFn) (place : Nat) : (s.setFn l f).queue place = s.queue place := rfl
@[simp] theorem State.session_setFn (s : State) (l : Nat) (f : HostFn) (place : Nat) : (s.setFn l f).session place = s.session place := rfl
@[simp] theorem State.context_setFn (s : State) (l : Nat) (f : HostFn) (place : Nat) : (s.setFn l f).context place = s.context place := rfl
@[simp] theorem State.arbiter_setFn (s : State) (l : Nat) (f : HostFn) (place : Nat) : (s.setFn l f).arbiter place = s.arbiter place := rfl
@[simp] theorem State.drbg_setFn (s : State) (l : Nat) (f : HostFn) (place : Nat) : (s.setFn l f).drbg place = s.drbg place := rfl
@[simp] theorem State.mailbox_setFn (s : State) (l : Nat) (f : HostFn) (place : Nat) : (s.setFn l f).mailbox place = s.mailbox place := rfl
@[simp] theorem State.vaultKey_setFn (s : State) (l : Nat) (f : HostFn) (place : Nat) : (s.setFn l f).vaultKey place = s.vaultKey place := rfl
@[simp] theorem State.entry_setFn (s : State) (l : Nat) (f : HostFn) (place : Nat) : (s.setFn l f).entry place = s.entry place := rfl
@[simp] theorem State.flag_setFn (s : State) (l : Nat) (f : HostFn) (place : Nat) : (s.setFn l f).flag place = s.flag place := rfl
@[simp] theorem State.findJob_setFn (s : State) (l : Nat) (f : HostFn) (place : Nat) : (s.setFn l f).findJob place = s.findJob place := rfl

/-! ### setStream -/

@[simp] theorem State.stream_setStream (s : State) (n : Nat) (x : Stream) : (s.setStream n x).stream n = x := Table.get_set_same ..
theorem State.stream_setStream_other (s : State) (n : Nat) (x : Stream) {place : Nat} (h : place ≠ n) : (s.setStream n x).stream place = s.stream place := Table.get_set_other _ _ _ _ _ h
@[simp] theorem State.variant_setStream (s : State) (n : Nat) (x : Stream) : (s.setStream n x).variant = s.variant := rfl
@[simp] theorem State.timestamp_setStream (s : State) (n : Nat) (x : Stream) : (s.setStream n x).timestamp = s.timestamp := rfl
@[simp] theorem State.hubCycle_setStream (s : State) (n : Nat) (x : Stream) : (s.setStream n x).hubCycle = s.hubCycle := rfl
@[simp] theorem State.freeIndex_setStream (s : State) (n : Nat) (x : Stream) : (s.setStream n x).freeIndex = s.freeIndex := rfl
@[simp] theorem State.dict_setStream (s : State) (n : Nat) (x : Stream) : (s.setStream n x).dict = s.dict := rfl
@[simp] theorem State.out_setStream (s : State) (n : Nat) (x : Stream) : (s.setStream n x).out = s.out := rfl
@[simp] theorem State.notices_setStream (s : State) (n : Nat) (x : Stream) : (s.setStream n x).notices = s.notices := rfl
@[simp] theorem State.sessions_setStream (s : State) (n : Nat) (x : Stream) : (s.setStream n x).sessions = s.sessions := rfl
@[simp] theorem State.cache_setStream (s : State) (n : Nat) (x : Stream) : (s.setStream n x).cache = s.cache := rfl
@[simp] theorem State.jobs_setStream (s : State) (n : Nat) (x : Stream) : (s.setStream n x).jobs = s.jobs := rfl
@[simp] theorem State.nextJob_setStream (s : State) (n : Nat) (x : Stream) : (s.setStream n x).nextJob = s.nextJob := rfl
@[simp] theorem State.queues_setStream (s : State) (n : Nat) (x : Stream) : (s.setStream n x).queues = s.queues := rfl
@[simp] theorem State.lastServed_setStream (s : State) (n : Nat) (x : Stream) : (s.setStream n x).lastServed = s.lastServed := rfl
@[simp] theorem State.lastSteady_setStream (s : State) (n : Nat) (x : Stream) : (s.setStream n x).lastSteady = s.lastSteady := rfl
@[simp] theorem State.fetchStopped_setStream (s : State) (n : Nat) (x : Stream) : (s.setStream n x).fetchStopped = s.fetchStopped := rfl
@[simp] theorem State.fns_setStream (s : State) (n : Nat) (x : Stream) : (s.setStream n x).fns = s.fns := rfl
@[simp] theorem State.reservoir_setStream (s : State) (n : Nat) (x : Stream) : (s.setStream n x).reservoir = s.reservoir := rfl
@[simp] theorem State.lineTags_setStream (s : State) (n : Nat) (x : Stream) : (s.setStream n x).lineTags = s.lineTags := rfl
@[simp] theorem State.sealSets_setStream (s : State) (n : Nat) (x : Stream) : (s.setStream n x).sealSets = s.sealSets := rfl
@[simp] theorem State.extents_setStream (s : State) (n : Nat) (x : Stream) : (s.setStream n x).extents = s.extents := rfl
@[simp] theorem State.clearing_setStream (s : State) (n : Nat) (x : Stream) : (s.setStream n x).clearing = s.clearing := rfl
@[simp] theorem State.clearingAll_setStream (s : State) (n : Nat) (x : Stream) : (s.setStream n x).clearingAll = s.clearingAll := rfl
@[simp] theorem State.layout_setStream (s : State) (n : Nat) (x : Stream) : (s.setStream n x).layout = s.layout := rfl
@[simp] theorem State.windows_setStream (s : State) (n : Nat) (x : Stream) : (s.setStream n x).windows = s.windows := rfl
@[simp] theorem State.quotas_setStream (s : State) (n : Nat) (x : Stream) : (s.setStream n x).quotas = s.quotas := rfl
@[simp] theorem State.links_setStream (s : State) (n : Nat) (x : Stream) : (s.setStream n x).links = s.links := rfl
@[simp] theorem State.modes_setStream (s : State) (n : Nat) (x : Stream) : (s.setStream n x).modes = s.modes := rfl
@[simp] theorem State.arbiters_setStream (s : State) (n : Nat) (x : Stream) : (s.setStream n x).arbiters = s.arbiters := rfl
@[simp] theorem State.pauses_setStream (s : State) (n : Nat) (x : Stream) : (s.setStream n x).pauses = s.pauses := rfl
@[simp] theorem State.wicks_setStream (s : State) (n : Nat) (x : Stream) : (s.setStream n x).wicks = s.wicks := rfl
@[simp] theorem State.tapers_setStream (s : State) (n : Nat) (x : Stream) : (s.setStream n x).tapers = s.tapers := rfl
@[simp] theorem State.control_setStream (s : State) (n : Nat) (x : Stream) : (s.setStream n x).control = s.control := rfl
@[simp] theorem State.sealers_setStream (s : State) (n : Nat) (x : Stream) : (s.setStream n x).sealers = s.sealers := rfl
@[simp] theorem State.digesterOctets_setStream (s : State) (n : Nat) (x : Stream) : (s.setStream n x).digesterOctets = s.digesterOctets := rfl
@[simp] theorem State.digesterAt_setStream (s : State) (n : Nat) (x : Stream) : (s.setStream n x).digesterAt = s.digesterAt := rfl
@[simp] theorem State.contexts_setStream (s : State) (n : Nat) (x : Stream) : (s.setStream n x).contexts = s.contexts := rfl
@[simp] theorem State.lanterns_setStream (s : State) (n : Nat) (x : Stream) : (s.setStream n x).lanterns = s.lanterns := rfl
@[simp] theorem State.mces_setStream (s : State) (n : Nat) (x : Stream) : (s.setStream n x).mces = s.mces := rfl
@[simp] theorem State.programs_setStream (s : State) (n : Nat) (x : Stream) : (s.setStream n x).programs = s.programs := rfl
@[simp] theorem State.library_setStream (s : State) (n : Nat) (x : Stream) : (s.setStream n x).library = s.library := rfl
@[simp] theorem State.vault_setStream (s : State) (n : Nat) (x : Stream) : (s.setStream n x).vault = s.vault := rfl
@[simp] theorem State.mram_setStream (s : State) (n : Nat) (x : Stream) : (s.setStream n x).mram = s.mram := rfl
@[simp] theorem State.erasing_setStream (s : State) (n : Nat) (x : Stream) : (s.setStream n x).erasing = s.erasing := rfl
@[simp] theorem State.windowWrites_setStream (s : State) (n : Nat) (x : Stream) : (s.setStream n x).windowWrites = s.windowWrites := rfl
@[simp] theorem State.entropy_setStream (s : State) (n : Nat) (x : Stream) : (s.setStream n x).entropy = s.entropy := rfl
@[simp] theorem State.events_setStream (s : State) (n : Nat) (x : Stream) : (s.setStream n x).events = s.events := rfl
@[simp] theorem State.eventLog_setStream (s : State) (n : Nat) (x : Stream) : (s.setStream n x).eventLog = s.eventLog := rfl
@[simp] theorem State.quietStart_setStream (s : State) (n : Nat) (x : Stream) : (s.setStream n x).quietStart = s.quietStart := rfl
@[simp] theorem State.selfOwn_setStream (s : State) (n : Nat) (x : Stream) : (s.setStream n x).selfOwn = s.selfOwn := rfl
@[simp] theorem State.relightDue_setStream (s : State) (n : Nat) (x : Stream) : (s.setStream n x).relightDue = s.relightDue := rfl
@[simp] theorem State.fatal_setStream (s : State) (n : Nat) (x : Stream) : (s.setStream n x).fatal = s.fatal := rfl
@[simp] theorem State.dump_setStream (s : State) (n : Nat) (x : Stream) : (s.setStream n x).dump = s.dump := rfl
@[simp] theorem State.hop_setStream (s : State) (n : Nat) (x : Stream) : (s.setStream n x).hop = s.hop := rfl
@[simp] theorem State.mailboxes_setStream (s : State) (n : Nat) (x : Stream) : (s.setStream n x).mailboxes = s.mailboxes := rfl
@[simp] theorem State.mirrorBuilt_setStream (s : State) (n : Nat) (x : Stream) : (s.setStream n x).mirrorBuilt = s.mirrorBuilt := rfl
@[simp] theorem State.resetPending_setStream (s : State) (n : Nat) (x : Stream) : (s.setStream n x).resetPending = s.resetPending := rfl
@[simp] theorem State.roots_setStream (s : State) (n : Nat) (x : Stream) : (s.setStream n x).roots = s.roots := rfl
@[simp] theorem State.flash0_setStream (s : State) (n : Nat) (x : Stream) : (s.setStream n x).flash0 = s.flash0 := rfl
@[simp] theorem State.flash1_setStream (s : State) (n : Nat) (x : Stream) : (s.setStream n x).flash1 = s.flash1 := rfl
@[simp] theorem State.power_setStream (s : State) (n : Nat) (x : Stream) : (s.setStream n x).power = s.power := rfl
@[simp] theorem State.entering_setStream (s : State) (n : Nat) (x : Stream) : (s.setStream n x).entering = s.entering := rfl
@[simp] theorem State.activityAt_setStream (s : State) (n : Nat) (x : Stream) : (s.setStream n x).activityAt = s.activityAt := rfl
@[simp] theorem State.lowSince_setStream (s : State) (n : Nat) (x : Stream) : (s.setStream n x).lowSince = s.lowSince := rfl
@[simp] theorem State.retention_setStream (s : State) (n : Nat) (x : Stream) : (s.setStream n x).retention = s.retention := rfl
@[simp] theorem State.supplies_setStream (s : State) (n : Nat) (x : Stream) : (s.setStream n x).supplies = s.supplies := rfl
@[simp] theorem State.sconces_setStream (s : State) (n : Nat) (x : Stream) : (s.setStream n x).sconces = s.sconces := rfl
@[simp] theorem State.tamper_setStream (s : State) (n : Nat) (x : Stream) : (s.setStream n x).tamper = s.tamper := rfl
@[simp] theorem State.pending_setStream (s : State) (n : Nat) (x : Stream) : (s.setStream n x).pending = s.pending := rfl
@[simp] theorem State.wick_setStream (s : State) (n : Nat) (x : Stream) (place : Nat) : (s.setStream n x).wick place = s.wick place := rfl
@[simp] theorem State.taper_setStream (s : State) (n : Nat) (x : Stream) (place : Nat) : (s.setStream n x).taper place = s.taper place := rfl
@[simp] theorem State.sealer_setStream (s : State) (n : Nat) (x : Stream) (place : Nat) : (s.setStream n x).sealer place = s.sealer place := rfl
@[simp] theorem State.queue_setStream (s : State) (n : Nat) (x : Stream) (place : Nat) : (s.setStream n x).queue place = s.queue place := rfl
@[simp] theorem State.fn_setStream (s : State) (n : Nat) (x : Stream) (place : Nat) : (s.setStream n x).fn place = s.fn place := rfl
@[simp] theorem State.session_setStream (s : State) (n : Nat) (x : Stream) (place : Nat) : (s.setStream n x).session place = s.session place := rfl
@[simp] theorem State.context_setStream (s : State) (n : Nat) (x : Stream) (place : Nat) : (s.setStream n x).context place = s.context place := rfl
@[simp] theorem State.arbiter_setStream (s : State) (n : Nat) (x : Stream) (place : Nat) : (s.setStream n x).arbiter place = s.arbiter place := rfl
@[simp] theorem State.drbg_setStream (s : State) (n : Nat) (x : Stream) (place : Nat) : (s.setStream n x).drbg place = s.drbg place := rfl
@[simp] theorem State.mailbox_setStream (s : State) (n : Nat) (x : Stream) (place : Nat) : (s.setStream n x).mailbox place = s.mailbox place := rfl
@[simp] theorem State.vaultKey_setStream (s : State) (n : Nat) (x : Stream) (place : Nat) : (s.setStream n x).vaultKey place = s.vaultKey place := rfl
@[simp] theorem State.entry_setStream (s : State) (n : Nat) (x : Stream) (place : Nat) : (s.setStream n x).entry place = s.entry place := rfl
@[simp] theorem State.flag_setStream (s : State) (n : Nat) (x : Stream) (place : Nat) : (s.setStream n x).flag place = s.flag place := rfl
@[simp] theorem State.findJob_setStream (s : State) (n : Nat) (x : Stream) (place : Nat) : (s.setStream n x).findJob place = s.findJob place := rfl

/-! ### setWick -/

@[simp] theorem State.variant_setWick (s : State) (w : Nat) (x : Wick) : (s.setWick w x).variant = s.variant := rfl
@[simp] theorem State.timestamp_setWick (s : State) (w : Nat) (x : Wick) : (s.setWick w x).timestamp = s.timestamp := rfl
@[simp] theorem State.hubCycle_setWick (s : State) (w : Nat) (x : Wick) : (s.setWick w x).hubCycle = s.hubCycle := rfl
@[simp] theorem State.freeIndex_setWick (s : State) (w : Nat) (x : Wick) : (s.setWick w x).freeIndex = s.freeIndex := rfl
@[simp] theorem State.dict_setWick (s : State) (w : Nat) (x : Wick) : (s.setWick w x).dict = s.dict := rfl
@[simp] theorem State.out_setWick (s : State) (w : Nat) (x : Wick) : (s.setWick w x).out = s.out := rfl
@[simp] theorem State.notices_setWick (s : State) (w : Nat) (x : Wick) : (s.setWick w x).notices = s.notices := rfl
@[simp] theorem State.sessions_setWick (s : State) (w : Nat) (x : Wick) : (s.setWick w x).sessions = s.sessions := rfl
@[simp] theorem State.cache_setWick (s : State) (w : Nat) (x : Wick) : (s.setWick w x).cache = s.cache := rfl
@[simp] theorem State.jobs_setWick (s : State) (w : Nat) (x : Wick) : (s.setWick w x).jobs = s.jobs := rfl
@[simp] theorem State.nextJob_setWick (s : State) (w : Nat) (x : Wick) : (s.setWick w x).nextJob = s.nextJob := rfl
@[simp] theorem State.queues_setWick (s : State) (w : Nat) (x : Wick) : (s.setWick w x).queues = s.queues := rfl
@[simp] theorem State.lastServed_setWick (s : State) (w : Nat) (x : Wick) : (s.setWick w x).lastServed = s.lastServed := rfl
@[simp] theorem State.lastSteady_setWick (s : State) (w : Nat) (x : Wick) : (s.setWick w x).lastSteady = s.lastSteady := rfl
@[simp] theorem State.fetchStopped_setWick (s : State) (w : Nat) (x : Wick) : (s.setWick w x).fetchStopped = s.fetchStopped := rfl
@[simp] theorem State.fns_setWick (s : State) (w : Nat) (x : Wick) : (s.setWick w x).fns = s.fns := rfl
@[simp] theorem State.reservoir_setWick (s : State) (w : Nat) (x : Wick) : (s.setWick w x).reservoir = s.reservoir := rfl
@[simp] theorem State.lineTags_setWick (s : State) (w : Nat) (x : Wick) : (s.setWick w x).lineTags = s.lineTags := rfl
@[simp] theorem State.sealSets_setWick (s : State) (w : Nat) (x : Wick) : (s.setWick w x).sealSets = s.sealSets := rfl
@[simp] theorem State.extents_setWick (s : State) (w : Nat) (x : Wick) : (s.setWick w x).extents = s.extents := rfl
@[simp] theorem State.clearing_setWick (s : State) (w : Nat) (x : Wick) : (s.setWick w x).clearing = s.clearing := rfl
@[simp] theorem State.clearingAll_setWick (s : State) (w : Nat) (x : Wick) : (s.setWick w x).clearingAll = s.clearingAll := rfl
@[simp] theorem State.layout_setWick (s : State) (w : Nat) (x : Wick) : (s.setWick w x).layout = s.layout := rfl
@[simp] theorem State.windows_setWick (s : State) (w : Nat) (x : Wick) : (s.setWick w x).windows = s.windows := rfl
@[simp] theorem State.quotas_setWick (s : State) (w : Nat) (x : Wick) : (s.setWick w x).quotas = s.quotas := rfl
@[simp] theorem State.links_setWick (s : State) (w : Nat) (x : Wick) : (s.setWick w x).links = s.links := rfl
@[simp] theorem State.modes_setWick (s : State) (w : Nat) (x : Wick) : (s.setWick w x).modes = s.modes := rfl
@[simp] theorem State.arbiters_setWick (s : State) (w : Nat) (x : Wick) : (s.setWick w x).arbiters = s.arbiters := rfl
@[simp] theorem State.streams_setWick (s : State) (w : Nat) (x : Wick) : (s.setWick w x).streams = s.streams := rfl
@[simp] theorem State.pauses_setWick (s : State) (w : Nat) (x : Wick) : (s.setWick w x).pauses = s.pauses := rfl
@[simp] theorem State.tapers_setWick (s : State) (w : Nat) (x : Wick) : (s.setWick w x).tapers = s.tapers := rfl
@[simp] theorem State.control_setWick (s : State) (w : Nat) (x : Wick) : (s.setWick w x).control = s.control := rfl
@[simp] theorem State.sealers_setWick (s : State) (w : Nat) (x : Wick) : (s.setWick w x).sealers = s.sealers := rfl
@[simp] theorem State.digesterOctets_setWick (s : State) (w : Nat) (x : Wick) : (s.setWick w x).digesterOctets = s.digesterOctets := rfl
@[simp] theorem State.digesterAt_setWick (s : State) (w : Nat) (x : Wick) : (s.setWick w x).digesterAt = s.digesterAt := rfl
@[simp] theorem State.contexts_setWick (s : State) (w : Nat) (x : Wick) : (s.setWick w x).contexts = s.contexts := rfl
@[simp] theorem State.lanterns_setWick (s : State) (w : Nat) (x : Wick) : (s.setWick w x).lanterns = s.lanterns := rfl
@[simp] theorem State.mces_setWick (s : State) (w : Nat) (x : Wick) : (s.setWick w x).mces = s.mces := rfl
@[simp] theorem State.programs_setWick (s : State) (w : Nat) (x : Wick) : (s.setWick w x).programs = s.programs := rfl
@[simp] theorem State.library_setWick (s : State) (w : Nat) (x : Wick) : (s.setWick w x).library = s.library := rfl
@[simp] theorem State.vault_setWick (s : State) (w : Nat) (x : Wick) : (s.setWick w x).vault = s.vault := rfl
@[simp] theorem State.mram_setWick (s : State) (w : Nat) (x : Wick) : (s.setWick w x).mram = s.mram := rfl
@[simp] theorem State.erasing_setWick (s : State) (w : Nat) (x : Wick) : (s.setWick w x).erasing = s.erasing := rfl
@[simp] theorem State.windowWrites_setWick (s : State) (w : Nat) (x : Wick) : (s.setWick w x).windowWrites = s.windowWrites := rfl
@[simp] theorem State.entropy_setWick (s : State) (w : Nat) (x : Wick) : (s.setWick w x).entropy = s.entropy := rfl
@[simp] theorem State.events_setWick (s : State) (w : Nat) (x : Wick) : (s.setWick w x).events = s.events := rfl
@[simp] theorem State.eventLog_setWick (s : State) (w : Nat) (x : Wick) : (s.setWick w x).eventLog = s.eventLog := rfl
@[simp] theorem State.quietStart_setWick (s : State) (w : Nat) (x : Wick) : (s.setWick w x).quietStart = s.quietStart := rfl
@[simp] theorem State.selfOwn_setWick (s : State) (w : Nat) (x : Wick) : (s.setWick w x).selfOwn = s.selfOwn := rfl
@[simp] theorem State.relightDue_setWick (s : State) (w : Nat) (x : Wick) : (s.setWick w x).relightDue = s.relightDue := rfl
@[simp] theorem State.fatal_setWick (s : State) (w : Nat) (x : Wick) : (s.setWick w x).fatal = s.fatal := rfl
@[simp] theorem State.dump_setWick (s : State) (w : Nat) (x : Wick) : (s.setWick w x).dump = s.dump := rfl
@[simp] theorem State.hop_setWick (s : State) (w : Nat) (x : Wick) : (s.setWick w x).hop = s.hop := rfl
@[simp] theorem State.mailboxes_setWick (s : State) (w : Nat) (x : Wick) : (s.setWick w x).mailboxes = s.mailboxes := rfl
@[simp] theorem State.mirrorBuilt_setWick (s : State) (w : Nat) (x : Wick) : (s.setWick w x).mirrorBuilt = s.mirrorBuilt := rfl
@[simp] theorem State.resetPending_setWick (s : State) (w : Nat) (x : Wick) : (s.setWick w x).resetPending = s.resetPending := rfl
@[simp] theorem State.roots_setWick (s : State) (w : Nat) (x : Wick) : (s.setWick w x).roots = s.roots := rfl
@[simp] theorem State.flash0_setWick (s : State) (w : Nat) (x : Wick) : (s.setWick w x).flash0 = s.flash0 := rfl
@[simp] theorem State.flash1_setWick (s : State) (w : Nat) (x : Wick) : (s.setWick w x).flash1 = s.flash1 := rfl
@[simp] theorem State.power_setWick (s : State) (w : Nat) (x : Wick) : (s.setWick w x).power = s.power := rfl
@[simp] theorem State.entering_setWick (s : State) (w : Nat) (x : Wick) : (s.setWick w x).entering = s.entering := rfl
@[simp] theorem State.activityAt_setWick (s : State) (w : Nat) (x : Wick) : (s.setWick w x).activityAt = s.activityAt := rfl
@[simp] theorem State.lowSince_setWick (s : State) (w : Nat) (x : Wick) : (s.setWick w x).lowSince = s.lowSince := rfl
@[simp] theorem State.retention_setWick (s : State) (w : Nat) (x : Wick) : (s.setWick w x).retention = s.retention := rfl
@[simp] theorem State.supplies_setWick (s : State) (w : Nat) (x : Wick) : (s.setWick w x).supplies = s.supplies := rfl
@[simp] theorem State.sconces_setWick (s : State) (w : Nat) (x : Wick) : (s.setWick w x).sconces = s.sconces := rfl
@[simp] theorem State.tamper_setWick (s : State) (w : Nat) (x : Wick) : (s.setWick w x).tamper = s.tamper := rfl
@[simp] theorem State.pending_setWick (s : State) (w : Nat) (x : Wick) : (s.setWick w x).pending = s.pending := rfl
@[simp] theorem State.taper_setWick (s : State) (w : Nat) (x : Wick) (place : Nat) : (s.setWick w x).taper place = s.taper place := rfl
@[simp] theorem State.sealer_setWick (s : State) (w : Nat) (x : Wick) (place : Nat) : (s.setWick w x).sealer place = s.sealer place := rfl
@[simp] theorem State.stream_setWick (s : State) (w : Nat) (x : Wick) (place : Nat) : (s.setWick w x).stream place = s.stream place := rfl
@[simp] theorem State.queue_setWick (s : State) (w : Nat) (x : Wick) (place : Nat) : (s.setWick w x).queue place = s.queue place := rfl
@[simp] theorem State.fn_setWick (s : State) (w : Nat) (x : Wick) (place : Nat) : (s.setWick w x).fn place = s.fn place := rfl
@[simp] theorem State.session_setWick (s : State) (w : Nat) (x : Wick) (place : Nat) : (s.setWick w x).session place = s.session place := rfl
@[simp] theorem State.context_setWick (s : State) (w : Nat) (x : Wick) (place : Nat) : (s.setWick w x).context place = s.context place := rfl
@[simp] theorem State.arbiter_setWick (s : State) (w : Nat) (x : Wick) (place : Nat) : (s.setWick w x).arbiter place = s.arbiter place := rfl
@[simp] theorem State.drbg_setWick (s : State) (w : Nat) (x : Wick) (place : Nat) : (s.setWick w x).drbg place = s.drbg place := rfl
@[simp] theorem State.mailbox_setWick (s : State) (w : Nat) (x : Wick) (place : Nat) : (s.setWick w x).mailbox place = s.mailbox place := rfl
@[simp] theorem State.vaultKey_setWick (s : State) (w : Nat) (x : Wick) (place : Nat) : (s.setWick w x).vaultKey place = s.vaultKey place := rfl
@[simp] theorem State.entry_setWick (s : State) (w : Nat) (x : Wick) (place : Nat) : (s.setWick w x).entry place = s.entry place := rfl
@[simp] theorem State.flag_setWick (s : State) (w : Nat) (x : Wick) (place : Nat) : (s.setWick w x).flag place = s.flag place := rfl
@[simp] theorem State.findJob_setWick (s : State) (w : Nat) (x : Wick) (place : Nat) : (s.setWick w x).findJob place = s.findJob place := rfl

/-! ### setTaper -/

@[simp] theorem State.taper_setTaper (s : State) (t : Nat) (x : Taper) : (s.setTaper t x).taper t = x := Table.get_set_same ..
theorem State.taper_setTaper_other (s : State) (t : Nat) (x : Taper) {place : Nat} (h : place ≠ t) : (s.setTaper t x).taper place = s.taper place := Table.get_set_other _ _ _ _ _ h
@[simp] theorem State.variant_setTaper (s : State) (t : Nat) (x : Taper) : (s.setTaper t x).variant = s.variant := rfl
@[simp] theorem State.timestamp_setTaper (s : State) (t : Nat) (x : Taper) : (s.setTaper t x).timestamp = s.timestamp := rfl
@[simp] theorem State.hubCycle_setTaper (s : State) (t : Nat) (x : Taper) : (s.setTaper t x).hubCycle = s.hubCycle := rfl
@[simp] theorem State.freeIndex_setTaper (s : State) (t : Nat) (x : Taper) : (s.setTaper t x).freeIndex = s.freeIndex := rfl
@[simp] theorem State.dict_setTaper (s : State) (t : Nat) (x : Taper) : (s.setTaper t x).dict = s.dict := rfl
@[simp] theorem State.out_setTaper (s : State) (t : Nat) (x : Taper) : (s.setTaper t x).out = s.out := rfl
@[simp] theorem State.notices_setTaper (s : State) (t : Nat) (x : Taper) : (s.setTaper t x).notices = s.notices := rfl
@[simp] theorem State.sessions_setTaper (s : State) (t : Nat) (x : Taper) : (s.setTaper t x).sessions = s.sessions := rfl
@[simp] theorem State.cache_setTaper (s : State) (t : Nat) (x : Taper) : (s.setTaper t x).cache = s.cache := rfl
@[simp] theorem State.jobs_setTaper (s : State) (t : Nat) (x : Taper) : (s.setTaper t x).jobs = s.jobs := rfl
@[simp] theorem State.nextJob_setTaper (s : State) (t : Nat) (x : Taper) : (s.setTaper t x).nextJob = s.nextJob := rfl
@[simp] theorem State.queues_setTaper (s : State) (t : Nat) (x : Taper) : (s.setTaper t x).queues = s.queues := rfl
@[simp] theorem State.lastServed_setTaper (s : State) (t : Nat) (x : Taper) : (s.setTaper t x).lastServed = s.lastServed := rfl
@[simp] theorem State.lastSteady_setTaper (s : State) (t : Nat) (x : Taper) : (s.setTaper t x).lastSteady = s.lastSteady := rfl
@[simp] theorem State.fetchStopped_setTaper (s : State) (t : Nat) (x : Taper) : (s.setTaper t x).fetchStopped = s.fetchStopped := rfl
@[simp] theorem State.fns_setTaper (s : State) (t : Nat) (x : Taper) : (s.setTaper t x).fns = s.fns := rfl
@[simp] theorem State.reservoir_setTaper (s : State) (t : Nat) (x : Taper) : (s.setTaper t x).reservoir = s.reservoir := rfl
@[simp] theorem State.lineTags_setTaper (s : State) (t : Nat) (x : Taper) : (s.setTaper t x).lineTags = s.lineTags := rfl
@[simp] theorem State.sealSets_setTaper (s : State) (t : Nat) (x : Taper) : (s.setTaper t x).sealSets = s.sealSets := rfl
@[simp] theorem State.extents_setTaper (s : State) (t : Nat) (x : Taper) : (s.setTaper t x).extents = s.extents := rfl
@[simp] theorem State.clearing_setTaper (s : State) (t : Nat) (x : Taper) : (s.setTaper t x).clearing = s.clearing := rfl
@[simp] theorem State.clearingAll_setTaper (s : State) (t : Nat) (x : Taper) : (s.setTaper t x).clearingAll = s.clearingAll := rfl
@[simp] theorem State.layout_setTaper (s : State) (t : Nat) (x : Taper) : (s.setTaper t x).layout = s.layout := rfl
@[simp] theorem State.windows_setTaper (s : State) (t : Nat) (x : Taper) : (s.setTaper t x).windows = s.windows := rfl
@[simp] theorem State.quotas_setTaper (s : State) (t : Nat) (x : Taper) : (s.setTaper t x).quotas = s.quotas := rfl
@[simp] theorem State.links_setTaper (s : State) (t : Nat) (x : Taper) : (s.setTaper t x).links = s.links := rfl
@[simp] theorem State.modes_setTaper (s : State) (t : Nat) (x : Taper) : (s.setTaper t x).modes = s.modes := rfl
@[simp] theorem State.arbiters_setTaper (s : State) (t : Nat) (x : Taper) : (s.setTaper t x).arbiters = s.arbiters := rfl
@[simp] theorem State.streams_setTaper (s : State) (t : Nat) (x : Taper) : (s.setTaper t x).streams = s.streams := rfl
@[simp] theorem State.pauses_setTaper (s : State) (t : Nat) (x : Taper) : (s.setTaper t x).pauses = s.pauses := rfl
@[simp] theorem State.wicks_setTaper (s : State) (t : Nat) (x : Taper) : (s.setTaper t x).wicks = s.wicks := rfl
@[simp] theorem State.control_setTaper (s : State) (t : Nat) (x : Taper) : (s.setTaper t x).control = s.control := rfl
@[simp] theorem State.sealers_setTaper (s : State) (t : Nat) (x : Taper) : (s.setTaper t x).sealers = s.sealers := rfl
@[simp] theorem State.digesterOctets_setTaper (s : State) (t : Nat) (x : Taper) : (s.setTaper t x).digesterOctets = s.digesterOctets := rfl
@[simp] theorem State.digesterAt_setTaper (s : State) (t : Nat) (x : Taper) : (s.setTaper t x).digesterAt = s.digesterAt := rfl
@[simp] theorem State.contexts_setTaper (s : State) (t : Nat) (x : Taper) : (s.setTaper t x).contexts = s.contexts := rfl
@[simp] theorem State.lanterns_setTaper (s : State) (t : Nat) (x : Taper) : (s.setTaper t x).lanterns = s.lanterns := rfl
@[simp] theorem State.mces_setTaper (s : State) (t : Nat) (x : Taper) : (s.setTaper t x).mces = s.mces := rfl
@[simp] theorem State.programs_setTaper (s : State) (t : Nat) (x : Taper) : (s.setTaper t x).programs = s.programs := rfl
@[simp] theorem State.library_setTaper (s : State) (t : Nat) (x : Taper) : (s.setTaper t x).library = s.library := rfl
@[simp] theorem State.vault_setTaper (s : State) (t : Nat) (x : Taper) : (s.setTaper t x).vault = s.vault := rfl
@[simp] theorem State.mram_setTaper (s : State) (t : Nat) (x : Taper) : (s.setTaper t x).mram = s.mram := rfl
@[simp] theorem State.erasing_setTaper (s : State) (t : Nat) (x : Taper) : (s.setTaper t x).erasing = s.erasing := rfl
@[simp] theorem State.windowWrites_setTaper (s : State) (t : Nat) (x : Taper) : (s.setTaper t x).windowWrites = s.windowWrites := rfl
@[simp] theorem State.entropy_setTaper (s : State) (t : Nat) (x : Taper) : (s.setTaper t x).entropy = s.entropy := rfl
@[simp] theorem State.events_setTaper (s : State) (t : Nat) (x : Taper) : (s.setTaper t x).events = s.events := rfl
@[simp] theorem State.eventLog_setTaper (s : State) (t : Nat) (x : Taper) : (s.setTaper t x).eventLog = s.eventLog := rfl
@[simp] theorem State.quietStart_setTaper (s : State) (t : Nat) (x : Taper) : (s.setTaper t x).quietStart = s.quietStart := rfl
@[simp] theorem State.selfOwn_setTaper (s : State) (t : Nat) (x : Taper) : (s.setTaper t x).selfOwn = s.selfOwn := rfl
@[simp] theorem State.relightDue_setTaper (s : State) (t : Nat) (x : Taper) : (s.setTaper t x).relightDue = s.relightDue := rfl
@[simp] theorem State.fatal_setTaper (s : State) (t : Nat) (x : Taper) : (s.setTaper t x).fatal = s.fatal := rfl
@[simp] theorem State.dump_setTaper (s : State) (t : Nat) (x : Taper) : (s.setTaper t x).dump = s.dump := rfl
@[simp] theorem State.hop_setTaper (s : State) (t : Nat) (x : Taper) : (s.setTaper t x).hop = s.hop := rfl
@[simp] theorem State.mailboxes_setTaper (s : State) (t : Nat) (x : Taper) : (s.setTaper t x).mailboxes = s.mailboxes := rfl
@[simp] theorem State.mirrorBuilt_setTaper (s : State) (t : Nat) (x : Taper) : (s.setTaper t x).mirrorBuilt = s.mirrorBuilt := rfl
@[simp] theorem State.resetPending_setTaper (s : State) (t : Nat) (x : Taper) : (s.setTaper t x).resetPending = s.resetPending := rfl
@[simp] theorem State.roots_setTaper (s : State) (t : Nat) (x : Taper) : (s.setTaper t x).roots = s.roots := rfl
@[simp] theorem State.flash0_setTaper (s : State) (t : Nat) (x : Taper) : (s.setTaper t x).flash0 = s.flash0 := rfl
@[simp] theorem State.flash1_setTaper (s : State) (t : Nat) (x : Taper) : (s.setTaper t x).flash1 = s.flash1 := rfl
@[simp] theorem State.power_setTaper (s : State) (t : Nat) (x : Taper) : (s.setTaper t x).power = s.power := rfl
@[simp] theorem State.entering_setTaper (s : State) (t : Nat) (x : Taper) : (s.setTaper t x).entering = s.entering := rfl
@[simp] theorem State.activityAt_setTaper (s : State) (t : Nat) (x : Taper) : (s.setTaper t x).activityAt = s.activityAt := rfl
@[simp] theorem State.lowSince_setTaper (s : State) (t : Nat) (x : Taper) : (s.setTaper t x).lowSince = s.lowSince := rfl
@[simp] theorem State.retention_setTaper (s : State) (t : Nat) (x : Taper) : (s.setTaper t x).retention = s.retention := rfl
@[simp] theorem State.supplies_setTaper (s : State) (t : Nat) (x : Taper) : (s.setTaper t x).supplies = s.supplies := rfl
@[simp] theorem State.sconces_setTaper (s : State) (t : Nat) (x : Taper) : (s.setTaper t x).sconces = s.sconces := rfl
@[simp] theorem State.tamper_setTaper (s : State) (t : Nat) (x : Taper) : (s.setTaper t x).tamper = s.tamper := rfl
@[simp] theorem State.pending_setTaper (s : State) (t : Nat) (x : Taper) : (s.setTaper t x).pending = s.pending := rfl
@[simp] theorem State.wick_setTaper (s : State) (t : Nat) (x : Taper) (place : Nat) : (s.setTaper t x).wick place = s.wick place := rfl
@[simp] theorem State.sealer_setTaper (s : State) (t : Nat) (x : Taper) (place : Nat) : (s.setTaper t x).sealer place = s.sealer place := rfl
@[simp] theorem State.stream_setTaper (s : State) (t : Nat) (x : Taper) (place : Nat) : (s.setTaper t x).stream place = s.stream place := rfl
@[simp] theorem State.queue_setTaper (s : State) (t : Nat) (x : Taper) (place : Nat) : (s.setTaper t x).queue place = s.queue place := rfl
@[simp] theorem State.fn_setTaper (s : State) (t : Nat) (x : Taper) (place : Nat) : (s.setTaper t x).fn place = s.fn place := rfl
@[simp] theorem State.session_setTaper (s : State) (t : Nat) (x : Taper) (place : Nat) : (s.setTaper t x).session place = s.session place := rfl
@[simp] theorem State.context_setTaper (s : State) (t : Nat) (x : Taper) (place : Nat) : (s.setTaper t x).context place = s.context place := rfl
@[simp] theorem State.arbiter_setTaper (s : State) (t : Nat) (x : Taper) (place : Nat) : (s.setTaper t x).arbiter place = s.arbiter place := rfl
@[simp] theorem State.drbg_setTaper (s : State) (t : Nat) (x : Taper) (place : Nat) : (s.setTaper t x).drbg place = s.drbg place := rfl
@[simp] theorem State.mailbox_setTaper (s : State) (t : Nat) (x : Taper) (place : Nat) : (s.setTaper t x).mailbox place = s.mailbox place := rfl
@[simp] theorem State.vaultKey_setTaper (s : State) (t : Nat) (x : Taper) (place : Nat) : (s.setTaper t x).vaultKey place = s.vaultKey place := rfl
@[simp] theorem State.entry_setTaper (s : State) (t : Nat) (x : Taper) (place : Nat) : (s.setTaper t x).entry place = s.entry place := rfl
@[simp] theorem State.flag_setTaper (s : State) (t : Nat) (x : Taper) (place : Nat) : (s.setTaper t x).flag place = s.flag place := rfl
@[simp] theorem State.findJob_setTaper (s : State) (t : Nat) (x : Taper) (place : Nat) : (s.setTaper t x).findJob place = s.findJob place := rfl

/-! ### setSealer -/

@[simp] theorem State.sealer_setSealer (s : State) (n : Nat) (x : Sealer) : (s.setSealer n x).sealer n = x := Table.get_set_same ..
theorem State.sealer_setSealer_other (s : State) (n : Nat) (x : Sealer) {place : Nat} (h : place ≠ n) : (s.setSealer n x).sealer place = s.sealer place := Table.get_set_other _ _ _ _ _ h
@[simp] theorem State.variant_setSealer (s : State) (n : Nat) (x : Sealer) : (s.setSealer n x).variant = s.variant := rfl
@[simp] theorem State.timestamp_setSealer (s : State) (n : Nat) (x : Sealer) : (s.setSealer n x).timestamp = s.timestamp := rfl
@[simp] theorem State.hubCycle_setSealer (s : State) (n : Nat) (x : Sealer) : (s.setSealer n x).hubCycle = s.hubCycle := rfl
@[simp] theorem State.freeIndex_setSealer (s : State) (n : Nat) (x : Sealer) : (s.setSealer n x).freeIndex = s.freeIndex := rfl
@[simp] theorem State.dict_setSealer (s : State) (n : Nat) (x : Sealer) : (s.setSealer n x).dict = s.dict := rfl
@[simp] theorem State.out_setSealer (s : State) (n : Nat) (x : Sealer) : (s.setSealer n x).out = s.out := rfl
@[simp] theorem State.notices_setSealer (s : State) (n : Nat) (x : Sealer) : (s.setSealer n x).notices = s.notices := rfl
@[simp] theorem State.sessions_setSealer (s : State) (n : Nat) (x : Sealer) : (s.setSealer n x).sessions = s.sessions := rfl
@[simp] theorem State.cache_setSealer (s : State) (n : Nat) (x : Sealer) : (s.setSealer n x).cache = s.cache := rfl
@[simp] theorem State.jobs_setSealer (s : State) (n : Nat) (x : Sealer) : (s.setSealer n x).jobs = s.jobs := rfl
@[simp] theorem State.nextJob_setSealer (s : State) (n : Nat) (x : Sealer) : (s.setSealer n x).nextJob = s.nextJob := rfl
@[simp] theorem State.queues_setSealer (s : State) (n : Nat) (x : Sealer) : (s.setSealer n x).queues = s.queues := rfl
@[simp] theorem State.lastServed_setSealer (s : State) (n : Nat) (x : Sealer) : (s.setSealer n x).lastServed = s.lastServed := rfl
@[simp] theorem State.lastSteady_setSealer (s : State) (n : Nat) (x : Sealer) : (s.setSealer n x).lastSteady = s.lastSteady := rfl
@[simp] theorem State.fetchStopped_setSealer (s : State) (n : Nat) (x : Sealer) : (s.setSealer n x).fetchStopped = s.fetchStopped := rfl
@[simp] theorem State.fns_setSealer (s : State) (n : Nat) (x : Sealer) : (s.setSealer n x).fns = s.fns := rfl
@[simp] theorem State.reservoir_setSealer (s : State) (n : Nat) (x : Sealer) : (s.setSealer n x).reservoir = s.reservoir := rfl
@[simp] theorem State.lineTags_setSealer (s : State) (n : Nat) (x : Sealer) : (s.setSealer n x).lineTags = s.lineTags := rfl
@[simp] theorem State.sealSets_setSealer (s : State) (n : Nat) (x : Sealer) : (s.setSealer n x).sealSets = s.sealSets := rfl
@[simp] theorem State.extents_setSealer (s : State) (n : Nat) (x : Sealer) : (s.setSealer n x).extents = s.extents := rfl
@[simp] theorem State.clearing_setSealer (s : State) (n : Nat) (x : Sealer) : (s.setSealer n x).clearing = s.clearing := rfl
@[simp] theorem State.clearingAll_setSealer (s : State) (n : Nat) (x : Sealer) : (s.setSealer n x).clearingAll = s.clearingAll := rfl
@[simp] theorem State.layout_setSealer (s : State) (n : Nat) (x : Sealer) : (s.setSealer n x).layout = s.layout := rfl
@[simp] theorem State.windows_setSealer (s : State) (n : Nat) (x : Sealer) : (s.setSealer n x).windows = s.windows := rfl
@[simp] theorem State.quotas_setSealer (s : State) (n : Nat) (x : Sealer) : (s.setSealer n x).quotas = s.quotas := rfl
@[simp] theorem State.links_setSealer (s : State) (n : Nat) (x : Sealer) : (s.setSealer n x).links = s.links := rfl
@[simp] theorem State.modes_setSealer (s : State) (n : Nat) (x : Sealer) : (s.setSealer n x).modes = s.modes := rfl
@[simp] theorem State.arbiters_setSealer (s : State) (n : Nat) (x : Sealer) : (s.setSealer n x).arbiters = s.arbiters := rfl
@[simp] theorem State.streams_setSealer (s : State) (n : Nat) (x : Sealer) : (s.setSealer n x).streams = s.streams := rfl
@[simp] theorem State.pauses_setSealer (s : State) (n : Nat) (x : Sealer) : (s.setSealer n x).pauses = s.pauses := rfl
@[simp] theorem State.wicks_setSealer (s : State) (n : Nat) (x : Sealer) : (s.setSealer n x).wicks = s.wicks := rfl
@[simp] theorem State.tapers_setSealer (s : State) (n : Nat) (x : Sealer) : (s.setSealer n x).tapers = s.tapers := rfl
@[simp] theorem State.control_setSealer (s : State) (n : Nat) (x : Sealer) : (s.setSealer n x).control = s.control := rfl
@[simp] theorem State.digesterOctets_setSealer (s : State) (n : Nat) (x : Sealer) : (s.setSealer n x).digesterOctets = s.digesterOctets := rfl
@[simp] theorem State.digesterAt_setSealer (s : State) (n : Nat) (x : Sealer) : (s.setSealer n x).digesterAt = s.digesterAt := rfl
@[simp] theorem State.contexts_setSealer (s : State) (n : Nat) (x : Sealer) : (s.setSealer n x).contexts = s.contexts := rfl
@[simp] theorem State.lanterns_setSealer (s : State) (n : Nat) (x : Sealer) : (s.setSealer n x).lanterns = s.lanterns := rfl
@[simp] theorem State.mces_setSealer (s : State) (n : Nat) (x : Sealer) : (s.setSealer n x).mces = s.mces := rfl
@[simp] theorem State.programs_setSealer (s : State) (n : Nat) (x : Sealer) : (s.setSealer n x).programs = s.programs := rfl
@[simp] theorem State.library_setSealer (s : State) (n : Nat) (x : Sealer) : (s.setSealer n x).library = s.library := rfl
@[simp] theorem State.vault_setSealer (s : State) (n : Nat) (x : Sealer) : (s.setSealer n x).vault = s.vault := rfl
@[simp] theorem State.mram_setSealer (s : State) (n : Nat) (x : Sealer) : (s.setSealer n x).mram = s.mram := rfl
@[simp] theorem State.erasing_setSealer (s : State) (n : Nat) (x : Sealer) : (s.setSealer n x).erasing = s.erasing := rfl
@[simp] theorem State.windowWrites_setSealer (s : State) (n : Nat) (x : Sealer) : (s.setSealer n x).windowWrites = s.windowWrites := rfl
@[simp] theorem State.entropy_setSealer (s : State) (n : Nat) (x : Sealer) : (s.setSealer n x).entropy = s.entropy := rfl
@[simp] theorem State.events_setSealer (s : State) (n : Nat) (x : Sealer) : (s.setSealer n x).events = s.events := rfl
@[simp] theorem State.eventLog_setSealer (s : State) (n : Nat) (x : Sealer) : (s.setSealer n x).eventLog = s.eventLog := rfl
@[simp] theorem State.quietStart_setSealer (s : State) (n : Nat) (x : Sealer) : (s.setSealer n x).quietStart = s.quietStart := rfl
@[simp] theorem State.selfOwn_setSealer (s : State) (n : Nat) (x : Sealer) : (s.setSealer n x).selfOwn = s.selfOwn := rfl
@[simp] theorem State.relightDue_setSealer (s : State) (n : Nat) (x : Sealer) : (s.setSealer n x).relightDue = s.relightDue := rfl
@[simp] theorem State.fatal_setSealer (s : State) (n : Nat) (x : Sealer) : (s.setSealer n x).fatal = s.fatal := rfl
@[simp] theorem State.dump_setSealer (s : State) (n : Nat) (x : Sealer) : (s.setSealer n x).dump = s.dump := rfl
@[simp] theorem State.hop_setSealer (s : State) (n : Nat) (x : Sealer) : (s.setSealer n x).hop = s.hop := rfl
@[simp] theorem State.mailboxes_setSealer (s : State) (n : Nat) (x : Sealer) : (s.setSealer n x).mailboxes = s.mailboxes := rfl
@[simp] theorem State.mirrorBuilt_setSealer (s : State) (n : Nat) (x : Sealer) : (s.setSealer n x).mirrorBuilt = s.mirrorBuilt := rfl
@[simp] theorem State.resetPending_setSealer (s : State) (n : Nat) (x : Sealer) : (s.setSealer n x).resetPending = s.resetPending := rfl
@[simp] theorem State.roots_setSealer (s : State) (n : Nat) (x : Sealer) : (s.setSealer n x).roots = s.roots := rfl
@[simp] theorem State.flash0_setSealer (s : State) (n : Nat) (x : Sealer) : (s.setSealer n x).flash0 = s.flash0 := rfl
@[simp] theorem State.flash1_setSealer (s : State) (n : Nat) (x : Sealer) : (s.setSealer n x).flash1 = s.flash1 := rfl
@[simp] theorem State.power_setSealer (s : State) (n : Nat) (x : Sealer) : (s.setSealer n x).power = s.power := rfl
@[simp] theorem State.entering_setSealer (s : State) (n : Nat) (x : Sealer) : (s.setSealer n x).entering = s.entering := rfl
@[simp] theorem State.activityAt_setSealer (s : State) (n : Nat) (x : Sealer) : (s.setSealer n x).activityAt = s.activityAt := rfl
@[simp] theorem State.lowSince_setSealer (s : State) (n : Nat) (x : Sealer) : (s.setSealer n x).lowSince = s.lowSince := rfl
@[simp] theorem State.retention_setSealer (s : State) (n : Nat) (x : Sealer) : (s.setSealer n x).retention = s.retention := rfl
@[simp] theorem State.supplies_setSealer (s : State) (n : Nat) (x : Sealer) : (s.setSealer n x).supplies = s.supplies := rfl
@[simp] theorem State.sconces_setSealer (s : State) (n : Nat) (x : Sealer) : (s.setSealer n x).sconces = s.sconces := rfl
@[simp] theorem State.tamper_setSealer (s : State) (n : Nat) (x : Sealer) : (s.setSealer n x).tamper = s.tamper := rfl
@[simp] theorem State.pending_setSealer (s : State) (n : Nat) (x : Sealer) : (s.setSealer n x).pending = s.pending := rfl
@[simp] theorem State.wick_setSealer (s : State) (n : Nat) (x : Sealer) (place : Nat) : (s.setSealer n x).wick place = s.wick place := rfl
@[simp] theorem State.taper_setSealer (s : State) (n : Nat) (x : Sealer) (place : Nat) : (s.setSealer n x).taper place = s.taper place := rfl
@[simp] theorem State.stream_setSealer (s : State) (n : Nat) (x : Sealer) (place : Nat) : (s.setSealer n x).stream place = s.stream place := rfl
@[simp] theorem State.queue_setSealer (s : State) (n : Nat) (x : Sealer) (place : Nat) : (s.setSealer n x).queue place = s.queue place := rfl
@[simp] theorem State.fn_setSealer (s : State) (n : Nat) (x : Sealer) (place : Nat) : (s.setSealer n x).fn place = s.fn place := rfl
@[simp] theorem State.session_setSealer (s : State) (n : Nat) (x : Sealer) (place : Nat) : (s.setSealer n x).session place = s.session place := rfl
@[simp] theorem State.context_setSealer (s : State) (n : Nat) (x : Sealer) (place : Nat) : (s.setSealer n x).context place = s.context place := rfl
@[simp] theorem State.arbiter_setSealer (s : State) (n : Nat) (x : Sealer) (place : Nat) : (s.setSealer n x).arbiter place = s.arbiter place := rfl
@[simp] theorem State.drbg_setSealer (s : State) (n : Nat) (x : Sealer) (place : Nat) : (s.setSealer n x).drbg place = s.drbg place := rfl
@[simp] theorem State.mailbox_setSealer (s : State) (n : Nat) (x : Sealer) (place : Nat) : (s.setSealer n x).mailbox place = s.mailbox place := rfl
@[simp] theorem State.vaultKey_setSealer (s : State) (n : Nat) (x : Sealer) (place : Nat) : (s.setSealer n x).vaultKey place = s.vaultKey place := rfl
@[simp] theorem State.entry_setSealer (s : State) (n : Nat) (x : Sealer) (place : Nat) : (s.setSealer n x).entry place = s.entry place := rfl
@[simp] theorem State.flag_setSealer (s : State) (n : Nat) (x : Sealer) (place : Nat) : (s.setSealer n x).flag place = s.flag place := rfl
@[simp] theorem State.findJob_setSealer (s : State) (n : Nat) (x : Sealer) (place : Nat) : (s.setSealer n x).findJob place = s.findJob place := rfl

/-! ### setContext -/

@[simp] theorem State.context_setContext (s : State) (k : Nat) (x : DigestContext) : (s.setContext k x).context k = x := Table.get_set_same ..
theorem State.context_setContext_other (s : State) (k : Nat) (x : DigestContext) {place : Nat} (h : place ≠ k) : (s.setContext k x).context place = s.context place := Table.get_set_other _ _ _ _ _ h
@[simp] theorem State.variant_setContext (s : State) (k : Nat) (x : DigestContext) : (s.setContext k x).variant = s.variant := rfl
@[simp] theorem State.timestamp_setContext (s : State) (k : Nat) (x : DigestContext) : (s.setContext k x).timestamp = s.timestamp := rfl
@[simp] theorem State.hubCycle_setContext (s : State) (k : Nat) (x : DigestContext) : (s.setContext k x).hubCycle = s.hubCycle := rfl
@[simp] theorem State.freeIndex_setContext (s : State) (k : Nat) (x : DigestContext) : (s.setContext k x).freeIndex = s.freeIndex := rfl
@[simp] theorem State.dict_setContext (s : State) (k : Nat) (x : DigestContext) : (s.setContext k x).dict = s.dict := rfl
@[simp] theorem State.out_setContext (s : State) (k : Nat) (x : DigestContext) : (s.setContext k x).out = s.out := rfl
@[simp] theorem State.notices_setContext (s : State) (k : Nat) (x : DigestContext) : (s.setContext k x).notices = s.notices := rfl
@[simp] theorem State.sessions_setContext (s : State) (k : Nat) (x : DigestContext) : (s.setContext k x).sessions = s.sessions := rfl
@[simp] theorem State.cache_setContext (s : State) (k : Nat) (x : DigestContext) : (s.setContext k x).cache = s.cache := rfl
@[simp] theorem State.jobs_setContext (s : State) (k : Nat) (x : DigestContext) : (s.setContext k x).jobs = s.jobs := rfl
@[simp] theorem State.nextJob_setContext (s : State) (k : Nat) (x : DigestContext) : (s.setContext k x).nextJob = s.nextJob := rfl
@[simp] theorem State.queues_setContext (s : State) (k : Nat) (x : DigestContext) : (s.setContext k x).queues = s.queues := rfl
@[simp] theorem State.lastServed_setContext (s : State) (k : Nat) (x : DigestContext) : (s.setContext k x).lastServed = s.lastServed := rfl
@[simp] theorem State.lastSteady_setContext (s : State) (k : Nat) (x : DigestContext) : (s.setContext k x).lastSteady = s.lastSteady := rfl
@[simp] theorem State.fetchStopped_setContext (s : State) (k : Nat) (x : DigestContext) : (s.setContext k x).fetchStopped = s.fetchStopped := rfl
@[simp] theorem State.fns_setContext (s : State) (k : Nat) (x : DigestContext) : (s.setContext k x).fns = s.fns := rfl
@[simp] theorem State.reservoir_setContext (s : State) (k : Nat) (x : DigestContext) : (s.setContext k x).reservoir = s.reservoir := rfl
@[simp] theorem State.lineTags_setContext (s : State) (k : Nat) (x : DigestContext) : (s.setContext k x).lineTags = s.lineTags := rfl
@[simp] theorem State.sealSets_setContext (s : State) (k : Nat) (x : DigestContext) : (s.setContext k x).sealSets = s.sealSets := rfl
@[simp] theorem State.extents_setContext (s : State) (k : Nat) (x : DigestContext) : (s.setContext k x).extents = s.extents := rfl
@[simp] theorem State.clearing_setContext (s : State) (k : Nat) (x : DigestContext) : (s.setContext k x).clearing = s.clearing := rfl
@[simp] theorem State.clearingAll_setContext (s : State) (k : Nat) (x : DigestContext) : (s.setContext k x).clearingAll = s.clearingAll := rfl
@[simp] theorem State.layout_setContext (s : State) (k : Nat) (x : DigestContext) : (s.setContext k x).layout = s.layout := rfl
@[simp] theorem State.windows_setContext (s : State) (k : Nat) (x : DigestContext) : (s.setContext k x).windows = s.windows := rfl
@[simp] theorem State.quotas_setContext (s : State) (k : Nat) (x : DigestContext) : (s.setContext k x).quotas = s.quotas := rfl
@[simp] theorem State.links_setContext (s : State) (k : Nat) (x : DigestContext) : (s.setContext k x).links = s.links := rfl
@[simp] theorem State.modes_setContext (s : State) (k : Nat) (x : DigestContext) : (s.setContext k x).modes = s.modes := rfl
@[simp] theorem State.arbiters_setContext (s : State) (k : Nat) (x : DigestContext) : (s.setContext k x).arbiters = s.arbiters := rfl
@[simp] theorem State.streams_setContext (s : State) (k : Nat) (x : DigestContext) : (s.setContext k x).streams = s.streams := rfl
@[simp] theorem State.pauses_setContext (s : State) (k : Nat) (x : DigestContext) : (s.setContext k x).pauses = s.pauses := rfl
@[simp] theorem State.wicks_setContext (s : State) (k : Nat) (x : DigestContext) : (s.setContext k x).wicks = s.wicks := rfl
@[simp] theorem State.tapers_setContext (s : State) (k : Nat) (x : DigestContext) : (s.setContext k x).tapers = s.tapers := rfl
@[simp] theorem State.control_setContext (s : State) (k : Nat) (x : DigestContext) : (s.setContext k x).control = s.control := rfl
@[simp] theorem State.sealers_setContext (s : State) (k : Nat) (x : DigestContext) : (s.setContext k x).sealers = s.sealers := rfl
@[simp] theorem State.digesterOctets_setContext (s : State) (k : Nat) (x : DigestContext) : (s.setContext k x).digesterOctets = s.digesterOctets := rfl
@[simp] theorem State.digesterAt_setContext (s : State) (k : Nat) (x : DigestContext) : (s.setContext k x).digesterAt = s.digesterAt := rfl
@[simp] theorem State.lanterns_setContext (s : State) (k : Nat) (x : DigestContext) : (s.setContext k x).lanterns = s.lanterns := rfl
@[simp] theorem State.mces_setContext (s : State) (k : Nat) (x : DigestContext) : (s.setContext k x).mces = s.mces := rfl
@[simp] theorem State.programs_setContext (s : State) (k : Nat) (x : DigestContext) : (s.setContext k x).programs = s.programs := rfl
@[simp] theorem State.library_setContext (s : State) (k : Nat) (x : DigestContext) : (s.setContext k x).library = s.library := rfl
@[simp] theorem State.vault_setContext (s : State) (k : Nat) (x : DigestContext) : (s.setContext k x).vault = s.vault := rfl
@[simp] theorem State.mram_setContext (s : State) (k : Nat) (x : DigestContext) : (s.setContext k x).mram = s.mram := rfl
@[simp] theorem State.erasing_setContext (s : State) (k : Nat) (x : DigestContext) : (s.setContext k x).erasing = s.erasing := rfl
@[simp] theorem State.windowWrites_setContext (s : State) (k : Nat) (x : DigestContext) : (s.setContext k x).windowWrites = s.windowWrites := rfl
@[simp] theorem State.entropy_setContext (s : State) (k : Nat) (x : DigestContext) : (s.setContext k x).entropy = s.entropy := rfl
@[simp] theorem State.events_setContext (s : State) (k : Nat) (x : DigestContext) : (s.setContext k x).events = s.events := rfl
@[simp] theorem State.eventLog_setContext (s : State) (k : Nat) (x : DigestContext) : (s.setContext k x).eventLog = s.eventLog := rfl
@[simp] theorem State.quietStart_setContext (s : State) (k : Nat) (x : DigestContext) : (s.setContext k x).quietStart = s.quietStart := rfl
@[simp] theorem State.selfOwn_setContext (s : State) (k : Nat) (x : DigestContext) : (s.setContext k x).selfOwn = s.selfOwn := rfl
@[simp] theorem State.relightDue_setContext (s : State) (k : Nat) (x : DigestContext) : (s.setContext k x).relightDue = s.relightDue := rfl
@[simp] theorem State.fatal_setContext (s : State) (k : Nat) (x : DigestContext) : (s.setContext k x).fatal = s.fatal := rfl
@[simp] theorem State.dump_setContext (s : State) (k : Nat) (x : DigestContext) : (s.setContext k x).dump = s.dump := rfl
@[simp] theorem State.hop_setContext (s : State) (k : Nat) (x : DigestContext) : (s.setContext k x).hop = s.hop := rfl
@[simp] theorem State.mailboxes_setContext (s : State) (k : Nat) (x : DigestContext) : (s.setContext k x).mailboxes = s.mailboxes := rfl
@[simp] theorem State.mirrorBuilt_setContext (s : State) (k : Nat) (x : DigestContext) : (s.setContext k x).mirrorBuilt = s.mirrorBuilt := rfl
@[simp] theorem State.resetPending_setContext (s : State) (k : Nat) (x : DigestContext) : (s.setContext k x).resetPending = s.resetPending := rfl
@[simp] theorem State.roots_setContext (s : State) (k : Nat) (x : DigestContext) : (s.setContext k x).roots = s.roots := rfl
@[simp] theorem State.flash0_setContext (s : State) (k : Nat) (x : DigestContext) : (s.setContext k x).flash0 = s.flash0 := rfl
@[simp] theorem State.flash1_setContext (s : State) (k : Nat) (x : DigestContext) : (s.setContext k x).flash1 = s.flash1 := rfl
@[simp] theorem State.power_setContext (s : State) (k : Nat) (x : DigestContext) : (s.setContext k x).power = s.power := rfl
@[simp] theorem State.entering_setContext (s : State) (k : Nat) (x : DigestContext) : (s.setContext k x).entering = s.entering := rfl
@[simp] theorem State.activityAt_setContext (s : State) (k : Nat) (x : DigestContext) : (s.setContext k x).activityAt = s.activityAt := rfl
@[simp] theorem State.lowSince_setContext (s : State) (k : Nat) (x : DigestContext) : (s.setContext k x).lowSince = s.lowSince := rfl
@[simp] theorem State.retention_setContext (s : State) (k : Nat) (x : DigestContext) : (s.setContext k x).retention = s.retention := rfl
@[simp] theorem State.supplies_setContext (s : State) (k : Nat) (x : DigestContext) : (s.setContext k x).supplies = s.supplies := rfl
@[simp] theorem State.sconces_setContext (s : State) (k : Nat) (x : DigestContext) : (s.setContext k x).sconces = s.sconces := rfl
@[simp] theorem State.tamper_setContext (s : State) (k : Nat) (x : DigestContext) : (s.setContext k x).tamper = s.tamper := rfl
@[simp] theorem State.pending_setContext (s : State) (k : Nat) (x : DigestContext) : (s.setContext k x).pending = s.pending := rfl
@[simp] theorem State.wick_setContext (s : State) (k : Nat) (x : DigestContext) (place : Nat) : (s.setContext k x).wick place = s.wick place := rfl
@[simp] theorem State.taper_setContext (s : State) (k : Nat) (x : DigestContext) (place : Nat) : (s.setContext k x).taper place = s.taper place := rfl
@[simp] theorem State.sealer_setContext (s : State) (k : Nat) (x : DigestContext) (place : Nat) : (s.setContext k x).sealer place = s.sealer place := rfl
@[simp] theorem State.stream_setContext (s : State) (k : Nat) (x : DigestContext) (place : Nat) : (s.setContext k x).stream place = s.stream place := rfl
@[simp] theorem State.queue_setContext (s : State) (k : Nat) (x : DigestContext) (place : Nat) : (s.setContext k x).queue place = s.queue place := rfl
@[simp] theorem State.fn_setContext (s : State) (k : Nat) (x : DigestContext) (place : Nat) : (s.setContext k x).fn place = s.fn place := rfl
@[simp] theorem State.session_setContext (s : State) (k : Nat) (x : DigestContext) (place : Nat) : (s.setContext k x).session place = s.session place := rfl
@[simp] theorem State.arbiter_setContext (s : State) (k : Nat) (x : DigestContext) (place : Nat) : (s.setContext k x).arbiter place = s.arbiter place := rfl
@[simp] theorem State.drbg_setContext (s : State) (k : Nat) (x : DigestContext) (place : Nat) : (s.setContext k x).drbg place = s.drbg place := rfl
@[simp] theorem State.mailbox_setContext (s : State) (k : Nat) (x : DigestContext) (place : Nat) : (s.setContext k x).mailbox place = s.mailbox place := rfl
@[simp] theorem State.vaultKey_setContext (s : State) (k : Nat) (x : DigestContext) (place : Nat) : (s.setContext k x).vaultKey place = s.vaultKey place := rfl
@[simp] theorem State.entry_setContext (s : State) (k : Nat) (x : DigestContext) (place : Nat) : (s.setContext k x).entry place = s.entry place := rfl
@[simp] theorem State.flag_setContext (s : State) (k : Nat) (x : DigestContext) (place : Nat) : (s.setContext k x).flag place = s.flag place := rfl
@[simp] theorem State.findJob_setContext (s : State) (k : Nat) (x : DigestContext) (place : Nat) : (s.setContext k x).findJob place = s.findJob place := rfl

/-! ### setVaultKey -/

@[simp] theorem State.variant_setVaultKey (s : State) (n : Nat) (v : Option VaultKey) : (s.setVaultKey n v).variant = s.variant := rfl
@[simp] theorem State.timestamp_setVaultKey (s : State) (n : Nat) (v : Option VaultKey) : (s.setVaultKey n v).timestamp = s.timestamp := rfl
@[simp] theorem State.hubCycle_setVaultKey (s : State) (n : Nat) (v : Option VaultKey) : (s.setVaultKey n v).hubCycle = s.hubCycle := rfl
@[simp] theorem State.freeIndex_setVaultKey (s : State) (n : Nat) (v : Option VaultKey) : (s.setVaultKey n v).freeIndex = s.freeIndex := rfl
@[simp] theorem State.dict_setVaultKey (s : State) (n : Nat) (v : Option VaultKey) : (s.setVaultKey n v).dict = s.dict := rfl
@[simp] theorem State.out_setVaultKey (s : State) (n : Nat) (v : Option VaultKey) : (s.setVaultKey n v).out = s.out := rfl
@[simp] theorem State.notices_setVaultKey (s : State) (n : Nat) (v : Option VaultKey) : (s.setVaultKey n v).notices = s.notices := rfl
@[simp] theorem State.sessions_setVaultKey (s : State) (n : Nat) (v : Option VaultKey) : (s.setVaultKey n v).sessions = s.sessions := rfl
@[simp] theorem State.cache_setVaultKey (s : State) (n : Nat) (v : Option VaultKey) : (s.setVaultKey n v).cache = s.cache := rfl
@[simp] theorem State.jobs_setVaultKey (s : State) (n : Nat) (v : Option VaultKey) : (s.setVaultKey n v).jobs = s.jobs := rfl
@[simp] theorem State.nextJob_setVaultKey (s : State) (n : Nat) (v : Option VaultKey) : (s.setVaultKey n v).nextJob = s.nextJob := rfl
@[simp] theorem State.queues_setVaultKey (s : State) (n : Nat) (v : Option VaultKey) : (s.setVaultKey n v).queues = s.queues := rfl
@[simp] theorem State.lastServed_setVaultKey (s : State) (n : Nat) (v : Option VaultKey) : (s.setVaultKey n v).lastServed = s.lastServed := rfl
@[simp] theorem State.lastSteady_setVaultKey (s : State) (n : Nat) (v : Option VaultKey) : (s.setVaultKey n v).lastSteady = s.lastSteady := rfl
@[simp] theorem State.fetchStopped_setVaultKey (s : State) (n : Nat) (v : Option VaultKey) : (s.setVaultKey n v).fetchStopped = s.fetchStopped := rfl
@[simp] theorem State.fns_setVaultKey (s : State) (n : Nat) (v : Option VaultKey) : (s.setVaultKey n v).fns = s.fns := rfl
@[simp] theorem State.reservoir_setVaultKey (s : State) (n : Nat) (v : Option VaultKey) : (s.setVaultKey n v).reservoir = s.reservoir := rfl
@[simp] theorem State.lineTags_setVaultKey (s : State) (n : Nat) (v : Option VaultKey) : (s.setVaultKey n v).lineTags = s.lineTags := rfl
@[simp] theorem State.sealSets_setVaultKey (s : State) (n : Nat) (v : Option VaultKey) : (s.setVaultKey n v).sealSets = s.sealSets := rfl
@[simp] theorem State.extents_setVaultKey (s : State) (n : Nat) (v : Option VaultKey) : (s.setVaultKey n v).extents = s.extents := rfl
@[simp] theorem State.clearing_setVaultKey (s : State) (n : Nat) (v : Option VaultKey) : (s.setVaultKey n v).clearing = s.clearing := rfl
@[simp] theorem State.clearingAll_setVaultKey (s : State) (n : Nat) (v : Option VaultKey) : (s.setVaultKey n v).clearingAll = s.clearingAll := rfl
@[simp] theorem State.layout_setVaultKey (s : State) (n : Nat) (v : Option VaultKey) : (s.setVaultKey n v).layout = s.layout := rfl
@[simp] theorem State.windows_setVaultKey (s : State) (n : Nat) (v : Option VaultKey) : (s.setVaultKey n v).windows = s.windows := rfl
@[simp] theorem State.quotas_setVaultKey (s : State) (n : Nat) (v : Option VaultKey) : (s.setVaultKey n v).quotas = s.quotas := rfl
@[simp] theorem State.links_setVaultKey (s : State) (n : Nat) (v : Option VaultKey) : (s.setVaultKey n v).links = s.links := rfl
@[simp] theorem State.modes_setVaultKey (s : State) (n : Nat) (v : Option VaultKey) : (s.setVaultKey n v).modes = s.modes := rfl
@[simp] theorem State.arbiters_setVaultKey (s : State) (n : Nat) (v : Option VaultKey) : (s.setVaultKey n v).arbiters = s.arbiters := rfl
@[simp] theorem State.streams_setVaultKey (s : State) (n : Nat) (v : Option VaultKey) : (s.setVaultKey n v).streams = s.streams := rfl
@[simp] theorem State.pauses_setVaultKey (s : State) (n : Nat) (v : Option VaultKey) : (s.setVaultKey n v).pauses = s.pauses := rfl
@[simp] theorem State.wicks_setVaultKey (s : State) (n : Nat) (v : Option VaultKey) : (s.setVaultKey n v).wicks = s.wicks := rfl
@[simp] theorem State.tapers_setVaultKey (s : State) (n : Nat) (v : Option VaultKey) : (s.setVaultKey n v).tapers = s.tapers := rfl
@[simp] theorem State.control_setVaultKey (s : State) (n : Nat) (v : Option VaultKey) : (s.setVaultKey n v).control = s.control := rfl
@[simp] theorem State.sealers_setVaultKey (s : State) (n : Nat) (v : Option VaultKey) : (s.setVaultKey n v).sealers = s.sealers := rfl
@[simp] theorem State.digesterOctets_setVaultKey (s : State) (n : Nat) (v : Option VaultKey) : (s.setVaultKey n v).digesterOctets = s.digesterOctets := rfl
@[simp] theorem State.digesterAt_setVaultKey (s : State) (n : Nat) (v : Option VaultKey) : (s.setVaultKey n v).digesterAt = s.digesterAt := rfl
@[simp] theorem State.contexts_setVaultKey (s : State) (n : Nat) (v : Option VaultKey) : (s.setVaultKey n v).contexts = s.contexts := rfl
@[simp] theorem State.lanterns_setVaultKey (s : State) (n : Nat) (v : Option VaultKey) : (s.setVaultKey n v).lanterns = s.lanterns := rfl
@[simp] theorem State.mces_setVaultKey (s : State) (n : Nat) (v : Option VaultKey) : (s.setVaultKey n v).mces = s.mces := rfl
@[simp] theorem State.programs_setVaultKey (s : State) (n : Nat) (v : Option VaultKey) : (s.setVaultKey n v).programs = s.programs := rfl
@[simp] theorem State.library_setVaultKey (s : State) (n : Nat) (v : Option VaultKey) : (s.setVaultKey n v).library = s.library := rfl
@[simp] theorem State.mram_setVaultKey (s : State) (n : Nat) (v : Option VaultKey) : (s.setVaultKey n v).mram = s.mram := rfl
@[simp] theorem State.erasing_setVaultKey (s : State) (n : Nat) (v : Option VaultKey) : (s.setVaultKey n v).erasing = s.erasing := rfl
@[simp] theorem State.windowWrites_setVaultKey (s : State) (n : Nat) (v : Option VaultKey) : (s.setVaultKey n v).windowWrites = s.windowWrites := rfl
@[simp] theorem State.entropy_setVaultKey (s : State) (n : Nat) (v : Option VaultKey) : (s.setVaultKey n v).entropy = s.entropy := rfl
@[simp] theorem State.events_setVaultKey (s : State) (n : Nat) (v : Option VaultKey) : (s.setVaultKey n v).events = s.events := rfl
@[simp] theorem State.eventLog_setVaultKey (s : State) (n : Nat) (v : Option VaultKey) : (s.setVaultKey n v).eventLog = s.eventLog := rfl
@[simp] theorem State.quietStart_setVaultKey (s : State) (n : Nat) (v : Option VaultKey) : (s.setVaultKey n v).quietStart = s.quietStart := rfl
@[simp] theorem State.selfOwn_setVaultKey (s : State) (n : Nat) (v : Option VaultKey) : (s.setVaultKey n v).selfOwn = s.selfOwn := rfl
@[simp] theorem State.relightDue_setVaultKey (s : State) (n : Nat) (v : Option VaultKey) : (s.setVaultKey n v).relightDue = s.relightDue := rfl
@[simp] theorem State.fatal_setVaultKey (s : State) (n : Nat) (v : Option VaultKey) : (s.setVaultKey n v).fatal = s.fatal := rfl
@[simp] theorem State.dump_setVaultKey (s : State) (n : Nat) (v : Option VaultKey) : (s.setVaultKey n v).dump = s.dump := rfl
@[simp] theorem State.hop_setVaultKey (s : State) (n : Nat) (v : Option VaultKey) : (s.setVaultKey n v).hop = s.hop := rfl
@[simp] theorem State.mailboxes_setVaultKey (s : State) (n : Nat) (v : Option VaultKey) : (s.setVaultKey n v).mailboxes = s.mailboxes := rfl
@[simp] theorem State.mirrorBuilt_setVaultKey (s : State) (n : Nat) (v : Option VaultKey) : (s.setVaultKey n v).mirrorBuilt = s.mirrorBuilt := rfl
@[simp] theorem State.resetPending_setVaultKey (s : State) (n : Nat) (v : Option VaultKey) : (s.setVaultKey n v).resetPending = s.resetPending := rfl
@[simp] theorem State.roots_setVaultKey (s : State) (n : Nat) (v : Option VaultKey) : (s.setVaultKey n v).roots = s.roots := rfl
@[simp] theorem State.flash0_setVaultKey (s : State) (n : Nat) (v : Option VaultKey) : (s.setVaultKey n v).flash0 = s.flash0 := rfl
@[simp] theorem State.flash1_setVaultKey (s : State) (n : Nat) (v : Option VaultKey) : (s.setVaultKey n v).flash1 = s.flash1 := rfl
@[simp] theorem State.power_setVaultKey (s : State) (n : Nat) (v : Option VaultKey) : (s.setVaultKey n v).power = s.power := rfl
@[simp] theorem State.entering_setVaultKey (s : State) (n : Nat) (v : Option VaultKey) : (s.setVaultKey n v).entering = s.entering := rfl
@[simp] theorem State.activityAt_setVaultKey (s : State) (n : Nat) (v : Option VaultKey) : (s.setVaultKey n v).activityAt = s.activityAt := rfl
@[simp] theorem State.lowSince_setVaultKey (s : State) (n : Nat) (v : Option VaultKey) : (s.setVaultKey n v).lowSince = s.lowSince := rfl
@[simp] theorem State.retention_setVaultKey (s : State) (n : Nat) (v : Option VaultKey) : (s.setVaultKey n v).retention = s.retention := rfl
@[simp] theorem State.supplies_setVaultKey (s : State) (n : Nat) (v : Option VaultKey) : (s.setVaultKey n v).supplies = s.supplies := rfl
@[simp] theorem State.sconces_setVaultKey (s : State) (n : Nat) (v : Option VaultKey) : (s.setVaultKey n v).sconces = s.sconces := rfl
@[simp] theorem State.tamper_setVaultKey (s : State) (n : Nat) (v : Option VaultKey) : (s.setVaultKey n v).tamper = s.tamper := rfl
@[simp] theorem State.pending_setVaultKey (s : State) (n : Nat) (v : Option VaultKey) : (s.setVaultKey n v).pending = s.pending := rfl
@[simp] theorem State.wick_setVaultKey (s : State) (n : Nat) (v : Option VaultKey) (place : Nat) : (s.setVaultKey n v).wick place = s.wick place := rfl
@[simp] theorem State.taper_setVaultKey (s : State) (n : Nat) (v : Option VaultKey) (place : Nat) : (s.setVaultKey n v).taper place = s.taper place := rfl
@[simp] theorem State.sealer_setVaultKey (s : State) (n : Nat) (v : Option VaultKey) (place : Nat) : (s.setVaultKey n v).sealer place = s.sealer place := rfl
@[simp] theorem State.stream_setVaultKey (s : State) (n : Nat) (v : Option VaultKey) (place : Nat) : (s.setVaultKey n v).stream place = s.stream place := rfl
@[simp] theorem State.queue_setVaultKey (s : State) (n : Nat) (v : Option VaultKey) (place : Nat) : (s.setVaultKey n v).queue place = s.queue place := rfl
@[simp] theorem State.fn_setVaultKey (s : State) (n : Nat) (v : Option VaultKey) (place : Nat) : (s.setVaultKey n v).fn place = s.fn place := rfl
@[simp] theorem State.session_setVaultKey (s : State) (n : Nat) (v : Option VaultKey) (place : Nat) : (s.setVaultKey n v).session place = s.session place := rfl
@[simp] theorem State.context_setVaultKey (s : State) (n : Nat) (v : Option VaultKey) (place : Nat) : (s.setVaultKey n v).context place = s.context place := rfl
@[simp] theorem State.arbiter_setVaultKey (s : State) (n : Nat) (v : Option VaultKey) (place : Nat) : (s.setVaultKey n v).arbiter place = s.arbiter place := rfl
@[simp] theorem State.drbg_setVaultKey (s : State) (n : Nat) (v : Option VaultKey) (place : Nat) : (s.setVaultKey n v).drbg place = s.drbg place := rfl
@[simp] theorem State.mailbox_setVaultKey (s : State) (n : Nat) (v : Option VaultKey) (place : Nat) : (s.setVaultKey n v).mailbox place = s.mailbox place := rfl
@[simp] theorem State.entry_setVaultKey (s : State) (n : Nat) (v : Option VaultKey) (place : Nat) : (s.setVaultKey n v).entry place = s.entry place := rfl
@[simp] theorem State.flag_setVaultKey (s : State) (n : Nat) (v : Option VaultKey) (place : Nat) : (s.setVaultKey n v).flag place = s.flag place := rfl
@[simp] theorem State.findJob_setVaultKey (s : State) (n : Nat) (v : Option VaultKey) (place : Nat) : (s.setVaultKey n v).findJob place = s.findJob place := rfl

/-! ### modJob -/

@[simp] theorem State.variant_modJob (s : State) (id : Nat) (f : Job → Job) : (s.modJob id f).variant = s.variant := rfl
@[simp] theorem State.timestamp_modJob (s : State) (id : Nat) (f : Job → Job) : (s.modJob id f).timestamp = s.timestamp := rfl
@[simp] theorem State.hubCycle_modJob (s : State) (id : Nat) (f : Job → Job) : (s.modJob id f).hubCycle = s.hubCycle := rfl
@[simp] theorem State.freeIndex_modJob (s : State) (id : Nat) (f : Job → Job) : (s.modJob id f).freeIndex = s.freeIndex := rfl
@[simp] theorem State.dict_modJob (s : State) (id : Nat) (f : Job → Job) : (s.modJob id f).dict = s.dict := rfl
@[simp] theorem State.out_modJob (s : State) (id : Nat) (f : Job → Job) : (s.modJob id f).out = s.out := rfl
@[simp] theorem State.notices_modJob (s : State) (id : Nat) (f : Job → Job) : (s.modJob id f).notices = s.notices := rfl
@[simp] theorem State.sessions_modJob (s : State) (id : Nat) (f : Job → Job) : (s.modJob id f).sessions = s.sessions := rfl
@[simp] theorem State.cache_modJob (s : State) (id : Nat) (f : Job → Job) : (s.modJob id f).cache = s.cache := rfl
@[simp] theorem State.nextJob_modJob (s : State) (id : Nat) (f : Job → Job) : (s.modJob id f).nextJob = s.nextJob := rfl
@[simp] theorem State.queues_modJob (s : State) (id : Nat) (f : Job → Job) : (s.modJob id f).queues = s.queues := rfl
@[simp] theorem State.lastServed_modJob (s : State) (id : Nat) (f : Job → Job) : (s.modJob id f).lastServed = s.lastServed := rfl
@[simp] theorem State.lastSteady_modJob (s : State) (id : Nat) (f : Job → Job) : (s.modJob id f).lastSteady = s.lastSteady := rfl
@[simp] theorem State.fetchStopped_modJob (s : State) (id : Nat) (f : Job → Job) : (s.modJob id f).fetchStopped = s.fetchStopped := rfl
@[simp] theorem State.fns_modJob (s : State) (id : Nat) (f : Job → Job) : (s.modJob id f).fns = s.fns := rfl
@[simp] theorem State.reservoir_modJob (s : State) (id : Nat) (f : Job → Job) : (s.modJob id f).reservoir = s.reservoir := rfl
@[simp] theorem State.lineTags_modJob (s : State) (id : Nat) (f : Job → Job) : (s.modJob id f).lineTags = s.lineTags := rfl
@[simp] theorem State.sealSets_modJob (s : State) (id : Nat) (f : Job → Job) : (s.modJob id f).sealSets = s.sealSets := rfl
@[simp] theorem State.extents_modJob (s : State) (id : Nat) (f : Job → Job) : (s.modJob id f).extents = s.extents := rfl
@[simp] theorem State.clearing_modJob (s : State) (id : Nat) (f : Job → Job) : (s.modJob id f).clearing = s.clearing := rfl
@[simp] theorem State.clearingAll_modJob (s : State) (id : Nat) (f : Job → Job) : (s.modJob id f).clearingAll = s.clearingAll := rfl
@[simp] theorem State.layout_modJob (s : State) (id : Nat) (f : Job → Job) : (s.modJob id f).layout = s.layout := rfl
@[simp] theorem State.windows_modJob (s : State) (id : Nat) (f : Job → Job) : (s.modJob id f).windows = s.windows := rfl
@[simp] theorem State.quotas_modJob (s : State) (id : Nat) (f : Job → Job) : (s.modJob id f).quotas = s.quotas := rfl
@[simp] theorem State.links_modJob (s : State) (id : Nat) (f : Job → Job) : (s.modJob id f).links = s.links := rfl
@[simp] theorem State.modes_modJob (s : State) (id : Nat) (f : Job → Job) : (s.modJob id f).modes = s.modes := rfl
@[simp] theorem State.arbiters_modJob (s : State) (id : Nat) (f : Job → Job) : (s.modJob id f).arbiters = s.arbiters := rfl
@[simp] theorem State.streams_modJob (s : State) (id : Nat) (f : Job → Job) : (s.modJob id f).streams = s.streams := rfl
@[simp] theorem State.pauses_modJob (s : State) (id : Nat) (f : Job → Job) : (s.modJob id f).pauses = s.pauses := rfl
@[simp] theorem State.wicks_modJob (s : State) (id : Nat) (f : Job → Job) : (s.modJob id f).wicks = s.wicks := rfl
@[simp] theorem State.tapers_modJob (s : State) (id : Nat) (f : Job → Job) : (s.modJob id f).tapers = s.tapers := rfl
@[simp] theorem State.control_modJob (s : State) (id : Nat) (f : Job → Job) : (s.modJob id f).control = s.control := rfl
@[simp] theorem State.sealers_modJob (s : State) (id : Nat) (f : Job → Job) : (s.modJob id f).sealers = s.sealers := rfl
@[simp] theorem State.digesterOctets_modJob (s : State) (id : Nat) (f : Job → Job) : (s.modJob id f).digesterOctets = s.digesterOctets := rfl
@[simp] theorem State.digesterAt_modJob (s : State) (id : Nat) (f : Job → Job) : (s.modJob id f).digesterAt = s.digesterAt := rfl
@[simp] theorem State.contexts_modJob (s : State) (id : Nat) (f : Job → Job) : (s.modJob id f).contexts = s.contexts := rfl
@[simp] theorem State.lanterns_modJob (s : State) (id : Nat) (f : Job → Job) : (s.modJob id f).lanterns = s.lanterns := rfl
@[simp] theorem State.mces_modJob (s : State) (id : Nat) (f : Job → Job) : (s.modJob id f).mces = s.mces := rfl
@[simp] theorem State.programs_modJob (s : State) (id : Nat) (f : Job → Job) : (s.modJob id f).programs = s.programs := rfl
@[simp] theorem State.library_modJob (s : State) (id : Nat) (f : Job → Job) : (s.modJob id f).library = s.library := rfl
@[simp] theorem State.vault_modJob (s : State) (id : Nat) (f : Job → Job) : (s.modJob id f).vault = s.vault := rfl
@[simp] theorem State.mram_modJob (s : State) (id : Nat) (f : Job → Job) : (s.modJob id f).mram = s.mram := rfl
@[simp] theorem State.erasing_modJob (s : State) (id : Nat) (f : Job → Job) : (s.modJob id f).erasing = s.erasing := rfl
@[simp] theorem State.windowWrites_modJob (s : State) (id : Nat) (f : Job → Job) : (s.modJob id f).windowWrites = s.windowWrites := rfl
@[simp] theorem State.entropy_modJob (s : State) (id : Nat) (f : Job → Job) : (s.modJob id f).entropy = s.entropy := rfl
@[simp] theorem State.events_modJob (s : State) (id : Nat) (f : Job → Job) : (s.modJob id f).events = s.events := rfl
@[simp] theorem State.eventLog_modJob (s : State) (id : Nat) (f : Job → Job) : (s.modJob id f).eventLog = s.eventLog := rfl
@[simp] theorem State.quietStart_modJob (s : State) (id : Nat) (f : Job → Job) : (s.modJob id f).quietStart = s.quietStart := rfl
@[simp] theorem State.selfOwn_modJob (s : State) (id : Nat) (f : Job → Job) : (s.modJob id f).selfOwn = s.selfOwn := rfl
@[simp] theorem State.relightDue_modJob (s : State) (id : Nat) (f : Job → Job) : (s.modJob id f).relightDue = s.relightDue := rfl
@[simp] theorem State.fatal_modJob (s : State) (id : Nat) (f : Job → Job) : (s.modJob id f).fatal = s.fatal := rfl
@[simp] theorem State.dump_modJob (s : State) (id : Nat) (f : Job → Job) : (s.modJob id f).dump = s.dump := rfl
@[simp] theorem State.hop_modJob (s : State) (id : Nat) (f : Job → Job) : (s.modJob id f).hop = s.hop := rfl
@[simp] theorem State.mailboxes_modJob (s : State) (id : Nat) (f : Job → Job) : (s.modJob id f).mailboxes = s.mailboxes := rfl
@[simp] theorem State.mirrorBuilt_modJob (s : State) (id : Nat) (f : Job → Job) : (s.modJob id f).mirrorBuilt = s.mirrorBuilt := rfl
@[simp] theorem State.resetPending_modJob (s : State) (id : Nat) (f : Job → Job) : (s.modJob id f).resetPending = s.resetPending := rfl
@[simp] theorem State.roots_modJob (s : State) (id : Nat) (f : Job → Job) : (s.modJob id f).roots = s.roots := rfl
@[simp] theorem State.flash0_modJob (s : State) (id : Nat) (f : Job → Job) : (s.modJob id f).flash0 = s.flash0 := rfl
@[simp] theorem State.flash1_modJob (s : State) (id : Nat) (f : Job → Job) : (s.modJob id f).flash1 = s.flash1 := rfl
@[simp] theorem State.power_modJob (s : State) (id : Nat) (f : Job → Job) : (s.modJob id f).power = s.power := rfl
@[simp] theorem State.entering_modJob (s : State) (id : Nat) (f : Job → Job) : (s.modJob id f).entering = s.entering := rfl
@[simp] theorem State.activityAt_modJob (s : State) (id : Nat) (f : Job → Job) : (s.modJob id f).activityAt = s.activityAt := rfl
@[simp] theorem State.lowSince_modJob (s : State) (id : Nat) (f : Job → Job) : (s.modJob id f).lowSince = s.lowSince := rfl
@[simp] theorem State.retention_modJob (s : State) (id : Nat) (f : Job → Job) : (s.modJob id f).retention = s.retention := rfl
@[simp] theorem State.supplies_modJob (s : State) (id : Nat) (f : Job → Job) : (s.modJob id f).supplies = s.supplies := rfl
@[simp] theorem State.sconces_modJob (s : State) (id : Nat) (f : Job → Job) : (s.modJob id f).sconces = s.sconces := rfl
@[simp] theorem State.tamper_modJob (s : State) (id : Nat) (f : Job → Job) : (s.modJob id f).tamper = s.tamper := rfl
@[simp] theorem State.pending_modJob (s : State) (id : Nat) (f : Job → Job) : (s.modJob id f).pending = s.pending := rfl
@[simp] theorem State.wick_modJob (s : State) (id : Nat) (f : Job → Job) (place : Nat) : (s.modJob id f).wick place = s.wick place := rfl
@[simp] theorem State.taper_modJob (s : State) (id : Nat) (f : Job → Job) (place : Nat) : (s.modJob id f).taper place = s.taper place := rfl
@[simp] theorem State.sealer_modJob (s : State) (id : Nat) (f : Job → Job) (place : Nat) : (s.modJob id f).sealer place = s.sealer place := rfl
@[simp] theorem State.stream_modJob (s : State) (id : Nat) (f : Job → Job) (place : Nat) : (s.modJob id f).stream place = s.stream place := rfl
@[simp] theorem State.queue_modJob (s : State) (id : Nat) (f : Job → Job) (place : Nat) : (s.modJob id f).queue place = s.queue place := rfl
@[simp] theorem State.fn_modJob (s : State) (id : Nat) (f : Job → Job) (place : Nat) : (s.modJob id f).fn place = s.fn place := rfl
@[simp] theorem State.session_modJob (s : State) (id : Nat) (f : Job → Job) (place : Nat) : (s.modJob id f).session place = s.session place := rfl
@[simp] theorem State.context_modJob (s : State) (id : Nat) (f : Job → Job) (place : Nat) : (s.modJob id f).context place = s.context place := rfl
@[simp] theorem State.arbiter_modJob (s : State) (id : Nat) (f : Job → Job) (place : Nat) : (s.modJob id f).arbiter place = s.arbiter place := rfl
@[simp] theorem State.drbg_modJob (s : State) (id : Nat) (f : Job → Job) (place : Nat) : (s.modJob id f).drbg place = s.drbg place := rfl
@[simp] theorem State.mailbox_modJob (s : State) (id : Nat) (f : Job → Job) (place : Nat) : (s.modJob id f).mailbox place = s.mailbox place := rfl
@[simp] theorem State.vaultKey_modJob (s : State) (id : Nat) (f : Job → Job) (place : Nat) : (s.modJob id f).vaultKey place = s.vaultKey place := rfl
@[simp] theorem State.entry_modJob (s : State) (id : Nat) (f : Job → Job) (place : Nat) : (s.modJob id f).entry place = s.entry place := rfl
@[simp] theorem State.flag_modJob (s : State) (id : Nat) (f : Job → Job) (place : Nat) : (s.modJob id f).flag place = s.flag place := rfl

/-! ### setDrbg -/

@[simp] theorem State.drbg_setDrbg (s : State) (i : Nat) (d : Drbg) : (s.setDrbg i d).drbg i = d := Table.get_set_same ..
theorem State.drbg_setDrbg_other (s : State) (i : Nat) (d : Drbg) {place : Nat} (h : place ≠ i) : (s.setDrbg i d).drbg place = s.drbg place := Table.get_set_other _ _ _ _ _ h
@[simp] theorem State.variant_setDrbg (s : State) (i : Nat) (d : Drbg) : (s.setDrbg i d).variant = s.variant := rfl
@[simp] theorem State.timestamp_setDrbg (s : State) (i : Nat) (d : Drbg) : (s.setDrbg i d).timestamp = s.timestamp := rfl
@[simp] theorem State.hubCycle_setDrbg (s : State) (i : Nat) (d : Drbg) : (s.setDrbg i d).hubCycle = s.hubCycle := rfl
@[simp] theorem State.freeIndex_setDrbg (s : State) (i : Nat) (d : Drbg) : (s.setDrbg i d).freeIndex = s.freeIndex := rfl
@[simp] theorem State.dict_setDrbg (s : State) (i : Nat) (d : Drbg) : (s.setDrbg i d).dict = s.dict := rfl
@[simp] theorem State.out_setDrbg (s : State) (i : Nat) (d : Drbg) : (s.setDrbg i d).out = s.out := rfl
@[simp] theorem State.notices_setDrbg (s : State) (i : Nat) (d : Drbg) : (s.setDrbg i d).notices = s.notices := rfl
@[simp] theorem State.sessions_setDrbg (s : State) (i : Nat) (d : Drbg) : (s.setDrbg i d).sessions = s.sessions := rfl
@[simp] theorem State.cache_setDrbg (s : State) (i : Nat) (d : Drbg) : (s.setDrbg i d).cache = s.cache := rfl
@[simp] theorem State.jobs_setDrbg (s : State) (i : Nat) (d : Drbg) : (s.setDrbg i d).jobs = s.jobs := rfl
@[simp] theorem State.nextJob_setDrbg (s : State) (i : Nat) (d : Drbg) : (s.setDrbg i d).nextJob = s.nextJob := rfl
@[simp] theorem State.queues_setDrbg (s : State) (i : Nat) (d : Drbg) : (s.setDrbg i d).queues = s.queues := rfl
@[simp] theorem State.lastServed_setDrbg (s : State) (i : Nat) (d : Drbg) : (s.setDrbg i d).lastServed = s.lastServed := rfl
@[simp] theorem State.lastSteady_setDrbg (s : State) (i : Nat) (d : Drbg) : (s.setDrbg i d).lastSteady = s.lastSteady := rfl
@[simp] theorem State.fetchStopped_setDrbg (s : State) (i : Nat) (d : Drbg) : (s.setDrbg i d).fetchStopped = s.fetchStopped := rfl
@[simp] theorem State.fns_setDrbg (s : State) (i : Nat) (d : Drbg) : (s.setDrbg i d).fns = s.fns := rfl
@[simp] theorem State.reservoir_setDrbg (s : State) (i : Nat) (d : Drbg) : (s.setDrbg i d).reservoir = s.reservoir := rfl
@[simp] theorem State.lineTags_setDrbg (s : State) (i : Nat) (d : Drbg) : (s.setDrbg i d).lineTags = s.lineTags := rfl
@[simp] theorem State.sealSets_setDrbg (s : State) (i : Nat) (d : Drbg) : (s.setDrbg i d).sealSets = s.sealSets := rfl
@[simp] theorem State.extents_setDrbg (s : State) (i : Nat) (d : Drbg) : (s.setDrbg i d).extents = s.extents := rfl
@[simp] theorem State.clearing_setDrbg (s : State) (i : Nat) (d : Drbg) : (s.setDrbg i d).clearing = s.clearing := rfl
@[simp] theorem State.clearingAll_setDrbg (s : State) (i : Nat) (d : Drbg) : (s.setDrbg i d).clearingAll = s.clearingAll := rfl
@[simp] theorem State.layout_setDrbg (s : State) (i : Nat) (d : Drbg) : (s.setDrbg i d).layout = s.layout := rfl
@[simp] theorem State.windows_setDrbg (s : State) (i : Nat) (d : Drbg) : (s.setDrbg i d).windows = s.windows := rfl
@[simp] theorem State.quotas_setDrbg (s : State) (i : Nat) (d : Drbg) : (s.setDrbg i d).quotas = s.quotas := rfl
@[simp] theorem State.links_setDrbg (s : State) (i : Nat) (d : Drbg) : (s.setDrbg i d).links = s.links := rfl
@[simp] theorem State.modes_setDrbg (s : State) (i : Nat) (d : Drbg) : (s.setDrbg i d).modes = s.modes := rfl
@[simp] theorem State.arbiters_setDrbg (s : State) (i : Nat) (d : Drbg) : (s.setDrbg i d).arbiters = s.arbiters := rfl
@[simp] theorem State.streams_setDrbg (s : State) (i : Nat) (d : Drbg) : (s.setDrbg i d).streams = s.streams := rfl
@[simp] theorem State.pauses_setDrbg (s : State) (i : Nat) (d : Drbg) : (s.setDrbg i d).pauses = s.pauses := rfl
@[simp] theorem State.wicks_setDrbg (s : State) (i : Nat) (d : Drbg) : (s.setDrbg i d).wicks = s.wicks := rfl
@[simp] theorem State.tapers_setDrbg (s : State) (i : Nat) (d : Drbg) : (s.setDrbg i d).tapers = s.tapers := rfl
@[simp] theorem State.control_setDrbg (s : State) (i : Nat) (d : Drbg) : (s.setDrbg i d).control = s.control := rfl
@[simp] theorem State.sealers_setDrbg (s : State) (i : Nat) (d : Drbg) : (s.setDrbg i d).sealers = s.sealers := rfl
@[simp] theorem State.digesterOctets_setDrbg (s : State) (i : Nat) (d : Drbg) : (s.setDrbg i d).digesterOctets = s.digesterOctets := rfl
@[simp] theorem State.digesterAt_setDrbg (s : State) (i : Nat) (d : Drbg) : (s.setDrbg i d).digesterAt = s.digesterAt := rfl
@[simp] theorem State.contexts_setDrbg (s : State) (i : Nat) (d : Drbg) : (s.setDrbg i d).contexts = s.contexts := rfl
@[simp] theorem State.lanterns_setDrbg (s : State) (i : Nat) (d : Drbg) : (s.setDrbg i d).lanterns = s.lanterns := rfl
@[simp] theorem State.mces_setDrbg (s : State) (i : Nat) (d : Drbg) : (s.setDrbg i d).mces = s.mces := rfl
@[simp] theorem State.programs_setDrbg (s : State) (i : Nat) (d : Drbg) : (s.setDrbg i d).programs = s.programs := rfl
@[simp] theorem State.library_setDrbg (s : State) (i : Nat) (d : Drbg) : (s.setDrbg i d).library = s.library := rfl
@[simp] theorem State.vault_setDrbg (s : State) (i : Nat) (d : Drbg) : (s.setDrbg i d).vault = s.vault := rfl
@[simp] theorem State.mram_setDrbg (s : State) (i : Nat) (d : Drbg) : (s.setDrbg i d).mram = s.mram := rfl
@[simp] theorem State.erasing_setDrbg (s : State) (i : Nat) (d : Drbg) : (s.setDrbg i d).erasing = s.erasing := rfl
@[simp] theorem State.windowWrites_setDrbg (s : State) (i : Nat) (d : Drbg) : (s.setDrbg i d).windowWrites = s.windowWrites := rfl
@[simp] theorem State.events_setDrbg (s : State) (i : Nat) (d : Drbg) : (s.setDrbg i d).events = s.events := rfl
@[simp] theorem State.eventLog_setDrbg (s : State) (i : Nat) (d : Drbg) : (s.setDrbg i d).eventLog = s.eventLog := rfl
@[simp] theorem State.quietStart_setDrbg (s : State) (i : Nat) (d : Drbg) : (s.setDrbg i d).quietStart = s.quietStart := rfl
@[simp] theorem State.selfOwn_setDrbg (s : State) (i : Nat) (d : Drbg) : (s.setDrbg i d).selfOwn = s.selfOwn := rfl
@[simp] theorem State.relightDue_setDrbg (s : State) (i : Nat) (d : Drbg) : (s.setDrbg i d).relightDue = s.relightDue := rfl
@[simp] theorem State.fatal_setDrbg (s : State) (i : Nat) (d : Drbg) : (s.setDrbg i d).fatal = s.fatal := rfl
@[simp] theorem State.dump_setDrbg (s : State) (i : Nat) (d : Drbg) : (s.setDrbg i d).dump = s.dump := rfl
@[simp] theorem State.hop_setDrbg (s : State) (i : Nat) (d : Drbg) : (s.setDrbg i d).hop = s.hop := rfl
@[simp] theorem State.mailboxes_setDrbg (s : State) (i : Nat) (d : Drbg) : (s.setDrbg i d).mailboxes = s.mailboxes := rfl
@[simp] theorem State.mirrorBuilt_setDrbg (s : State) (i : Nat) (d : Drbg) : (s.setDrbg i d).mirrorBuilt = s.mirrorBuilt := rfl
@[simp] theorem State.resetPending_setDrbg (s : State) (i : Nat) (d : Drbg) : (s.setDrbg i d).resetPending = s.resetPending := rfl
@[simp] theorem State.roots_setDrbg (s : State) (i : Nat) (d : Drbg) : (s.setDrbg i d).roots = s.roots := rfl
@[simp] theorem State.flash0_setDrbg (s : State) (i : Nat) (d : Drbg) : (s.setDrbg i d).flash0 = s.flash0 := rfl
@[simp] theorem State.flash1_setDrbg (s : State) (i : Nat) (d : Drbg) : (s.setDrbg i d).flash1 = s.flash1 := rfl
@[simp] theorem State.power_setDrbg (s : State) (i : Nat) (d : Drbg) : (s.setDrbg i d).power = s.power := rfl
@[simp] theorem State.entering_setDrbg (s : State) (i : Nat) (d : Drbg) : (s.setDrbg i d).entering = s.entering := rfl
@[simp] theorem State.activityAt_setDrbg (s : State) (i : Nat) (d : Drbg) : (s.setDrbg i d).activityAt = s.activityAt := rfl
@[simp] theorem State.lowSince_setDrbg (s : State) (i : Nat) (d : Drbg) : (s.setDrbg i d).lowSince = s.lowSince := rfl
@[simp] theorem State.retention_setDrbg (s : State) (i : Nat) (d : Drbg) : (s.setDrbg i d).retention = s.retention := rfl
@[simp] theorem State.supplies_setDrbg (s : State) (i : Nat) (d : Drbg) : (s.setDrbg i d).supplies = s.supplies := rfl
@[simp] theorem State.sconces_setDrbg (s : State) (i : Nat) (d : Drbg) : (s.setDrbg i d).sconces = s.sconces := rfl
@[simp] theorem State.tamper_setDrbg (s : State) (i : Nat) (d : Drbg) : (s.setDrbg i d).tamper = s.tamper := rfl
@[simp] theorem State.pending_setDrbg (s : State) (i : Nat) (d : Drbg) : (s.setDrbg i d).pending = s.pending := rfl
@[simp] theorem State.wick_setDrbg (s : State) (i : Nat) (d : Drbg) (place : Nat) : (s.setDrbg i d).wick place = s.wick place := rfl
@[simp] theorem State.taper_setDrbg (s : State) (i : Nat) (d : Drbg) (place : Nat) : (s.setDrbg i d).taper place = s.taper place := rfl
@[simp] theorem State.sealer_setDrbg (s : State) (i : Nat) (d : Drbg) (place : Nat) : (s.setDrbg i d).sealer place = s.sealer place := rfl
@[simp] theorem State.stream_setDrbg (s : State) (i : Nat) (d : Drbg) (place : Nat) : (s.setDrbg i d).stream place = s.stream place := rfl
@[simp] theorem State.queue_setDrbg (s : State) (i : Nat) (d : Drbg) (place : Nat) : (s.setDrbg i d).queue place = s.queue place := rfl
@[simp] theorem State.fn_setDrbg (s : State) (i : Nat) (d : Drbg) (place : Nat) : (s.setDrbg i d).fn place = s.fn place := rfl
@[simp] theorem State.session_setDrbg (s : State) (i : Nat) (d : Drbg) (place : Nat) : (s.setDrbg i d).session place = s.session place := rfl
@[simp] theorem State.context_setDrbg (s : State) (i : Nat) (d : Drbg) (place : Nat) : (s.setDrbg i d).context place = s.context place := rfl
@[simp] theorem State.arbiter_setDrbg (s : State) (i : Nat) (d : Drbg) (place : Nat) : (s.setDrbg i d).arbiter place = s.arbiter place := rfl
@[simp] theorem State.mailbox_setDrbg (s : State) (i : Nat) (d : Drbg) (place : Nat) : (s.setDrbg i d).mailbox place = s.mailbox place := rfl
@[simp] theorem State.vaultKey_setDrbg (s : State) (i : Nat) (d : Drbg) (place : Nat) : (s.setDrbg i d).vaultKey place = s.vaultKey place := rfl
@[simp] theorem State.entry_setDrbg (s : State) (i : Nat) (d : Drbg) (place : Nat) : (s.setDrbg i d).entry place = s.entry place := rfl
@[simp] theorem State.flag_setDrbg (s : State) (i : Nat) (d : Drbg) (place : Nat) : (s.setDrbg i d).flag place = s.flag place := rfl
@[simp] theorem State.findJob_setDrbg (s : State) (i : Nat) (d : Drbg) (place : Nat) : (s.setDrbg i d).findJob place = s.findJob place := rfl

/-! ### setArbiter -/

@[simp] theorem State.arbiter_setArbiter (s : State) (c : Nat) (x : Arbiter) : (s.setArbiter c x).arbiter c = x := Table.get_set_same ..
theorem State.arbiter_setArbiter_other (s : State) (c : Nat) (x : Arbiter) {place : Nat} (h : place ≠ c) : (s.setArbiter c x).arbiter place = s.arbiter place := Table.get_set_other _ _ _ _ _ h
@[simp] theorem State.variant_setArbiter (s : State) (c : Nat) (x : Arbiter) : (s.setArbiter c x).variant = s.variant := rfl
@[simp] theorem State.timestamp_setArbiter (s : State) (c : Nat) (x : Arbiter) : (s.setArbiter c x).timestamp = s.timestamp := rfl
@[simp] theorem State.hubCycle_setArbiter (s : State) (c : Nat) (x : Arbiter) : (s.setArbiter c x).hubCycle = s.hubCycle := rfl
@[simp] theorem State.freeIndex_setArbiter (s : State) (c : Nat) (x : Arbiter) : (s.setArbiter c x).freeIndex = s.freeIndex := rfl
@[simp] theorem State.dict_setArbiter (s : State) (c : Nat) (x : Arbiter) : (s.setArbiter c x).dict = s.dict := rfl
@[simp] theorem State.out_setArbiter (s : State) (c : Nat) (x : Arbiter) : (s.setArbiter c x).out = s.out := rfl
@[simp] theorem State.notices_setArbiter (s : State) (c : Nat) (x : Arbiter) : (s.setArbiter c x).notices = s.notices := rfl
@[simp] theorem State.sessions_setArbiter (s : State) (c : Nat) (x : Arbiter) : (s.setArbiter c x).sessions = s.sessions := rfl
@[simp] theorem State.cache_setArbiter (s : State) (c : Nat) (x : Arbiter) : (s.setArbiter c x).cache = s.cache := rfl
@[simp] theorem State.jobs_setArbiter (s : State) (c : Nat) (x : Arbiter) : (s.setArbiter c x).jobs = s.jobs := rfl
@[simp] theorem State.nextJob_setArbiter (s : State) (c : Nat) (x : Arbiter) : (s.setArbiter c x).nextJob = s.nextJob := rfl
@[simp] theorem State.queues_setArbiter (s : State) (c : Nat) (x : Arbiter) : (s.setArbiter c x).queues = s.queues := rfl
@[simp] theorem State.lastServed_setArbiter (s : State) (c : Nat) (x : Arbiter) : (s.setArbiter c x).lastServed = s.lastServed := rfl
@[simp] theorem State.lastSteady_setArbiter (s : State) (c : Nat) (x : Arbiter) : (s.setArbiter c x).lastSteady = s.lastSteady := rfl
@[simp] theorem State.fetchStopped_setArbiter (s : State) (c : Nat) (x : Arbiter) : (s.setArbiter c x).fetchStopped = s.fetchStopped := rfl
@[simp] theorem State.fns_setArbiter (s : State) (c : Nat) (x : Arbiter) : (s.setArbiter c x).fns = s.fns := rfl
@[simp] theorem State.reservoir_setArbiter (s : State) (c : Nat) (x : Arbiter) : (s.setArbiter c x).reservoir = s.reservoir := rfl
@[simp] theorem State.lineTags_setArbiter (s : State) (c : Nat) (x : Arbiter) : (s.setArbiter c x).lineTags = s.lineTags := rfl
@[simp] theorem State.sealSets_setArbiter (s : State) (c : Nat) (x : Arbiter) : (s.setArbiter c x).sealSets = s.sealSets := rfl
@[simp] theorem State.extents_setArbiter (s : State) (c : Nat) (x : Arbiter) : (s.setArbiter c x).extents = s.extents := rfl
@[simp] theorem State.clearing_setArbiter (s : State) (c : Nat) (x : Arbiter) : (s.setArbiter c x).clearing = s.clearing := rfl
@[simp] theorem State.clearingAll_setArbiter (s : State) (c : Nat) (x : Arbiter) : (s.setArbiter c x).clearingAll = s.clearingAll := rfl
@[simp] theorem State.layout_setArbiter (s : State) (c : Nat) (x : Arbiter) : (s.setArbiter c x).layout = s.layout := rfl
@[simp] theorem State.windows_setArbiter (s : State) (c : Nat) (x : Arbiter) : (s.setArbiter c x).windows = s.windows := rfl
@[simp] theorem State.quotas_setArbiter (s : State) (c : Nat) (x : Arbiter) : (s.setArbiter c x).quotas = s.quotas := rfl
@[simp] theorem State.links_setArbiter (s : State) (c : Nat) (x : Arbiter) : (s.setArbiter c x).links = s.links := rfl
@[simp] theorem State.modes_setArbiter (s : State) (c : Nat) (x : Arbiter) : (s.setArbiter c x).modes = s.modes := rfl
@[simp] theorem State.streams_setArbiter (s : State) (c : Nat) (x : Arbiter) : (s.setArbiter c x).streams = s.streams := rfl
@[simp] theorem State.pauses_setArbiter (s : State) (c : Nat) (x : Arbiter) : (s.setArbiter c x).pauses = s.pauses := rfl
@[simp] theorem State.wicks_setArbiter (s : State) (c : Nat) (x : Arbiter) : (s.setArbiter c x).wicks = s.wicks := rfl
@[simp] theorem State.tapers_setArbiter (s : State) (c : Nat) (x : Arbiter) : (s.setArbiter c x).tapers = s.tapers := rfl
@[simp] theorem State.control_setArbiter (s : State) (c : Nat) (x : Arbiter) : (s.setArbiter c x).control = s.control := rfl
@[simp] theorem State.sealers_setArbiter (s : State) (c : Nat) (x : Arbiter) : (s.setArbiter c x).sealers = s.sealers := rfl
@[simp] theorem State.digesterOctets_setArbiter (s : State) (c : Nat) (x : Arbiter) : (s.setArbiter c x).digesterOctets = s.digesterOctets := rfl
@[simp] theorem State.digesterAt_setArbiter (s : State) (c : Nat) (x : Arbiter) : (s.setArbiter c x).digesterAt = s.digesterAt := rfl
@[simp] theorem State.contexts_setArbiter (s : State) (c : Nat) (x : Arbiter) : (s.setArbiter c x).contexts = s.contexts := rfl
@[simp] theorem State.lanterns_setArbiter (s : State) (c : Nat) (x : Arbiter) : (s.setArbiter c x).lanterns = s.lanterns := rfl
@[simp] theorem State.mces_setArbiter (s : State) (c : Nat) (x : Arbiter) : (s.setArbiter c x).mces = s.mces := rfl
@[simp] theorem State.programs_setArbiter (s : State) (c : Nat) (x : Arbiter) : (s.setArbiter c x).programs = s.programs := rfl
@[simp] theorem State.library_setArbiter (s : State) (c : Nat) (x : Arbiter) : (s.setArbiter c x).library = s.library := rfl
@[simp] theorem State.vault_setArbiter (s : State) (c : Nat) (x : Arbiter) : (s.setArbiter c x).vault = s.vault := rfl
@[simp] theorem State.mram_setArbiter (s : State) (c : Nat) (x : Arbiter) : (s.setArbiter c x).mram = s.mram := rfl
@[simp] theorem State.erasing_setArbiter (s : State) (c : Nat) (x : Arbiter) : (s.setArbiter c x).erasing = s.erasing := rfl
@[simp] theorem State.windowWrites_setArbiter (s : State) (c : Nat) (x : Arbiter) : (s.setArbiter c x).windowWrites = s.windowWrites := rfl
@[simp] theorem State.entropy_setArbiter (s : State) (c : Nat) (x : Arbiter) : (s.setArbiter c x).entropy = s.entropy := rfl
@[simp] theorem State.events_setArbiter (s : State) (c : Nat) (x : Arbiter) : (s.setArbiter c x).events = s.events := rfl
@[simp] theorem State.eventLog_setArbiter (s : State) (c : Nat) (x : Arbiter) : (s.setArbiter c x).eventLog = s.eventLog := rfl
@[simp] theorem State.quietStart_setArbiter (s : State) (c : Nat) (x : Arbiter) : (s.setArbiter c x).quietStart = s.quietStart := rfl
@[simp] theorem State.selfOwn_setArbiter (s : State) (c : Nat) (x : Arbiter) : (s.setArbiter c x).selfOwn = s.selfOwn := rfl
@[simp] theorem State.relightDue_setArbiter (s : State) (c : Nat) (x : Arbiter) : (s.setArbiter c x).relightDue = s.relightDue := rfl
@[simp] theorem State.fatal_setArbiter (s : State) (c : Nat) (x : Arbiter) : (s.setArbiter c x).fatal = s.fatal := rfl
@[simp] theorem State.dump_setArbiter (s : State) (c : Nat) (x : Arbiter) : (s.setArbiter c x).dump = s.dump := rfl
@[simp] theorem State.hop_setArbiter (s : State) (c : Nat) (x : Arbiter) : (s.setArbiter c x).hop = s.hop := rfl
@[simp] theorem State.mailboxes_setArbiter (s : State) (c : Nat) (x : Arbiter) : (s.setArbiter c x).mailboxes = s.mailboxes := rfl
@[simp] theorem State.mirrorBuilt_setArbiter (s : State) (c : Nat) (x : Arbiter) : (s.setArbiter c x).mirrorBuilt = s.mirrorBuilt := rfl
@[simp] theorem State.resetPending_setArbiter (s : State) (c : Nat) (x : Arbiter) : (s.setArbiter c x).resetPending = s.resetPending := rfl
@[simp] theorem State.roots_setArbiter (s : State) (c : Nat) (x : Arbiter) : (s.setArbiter c x).roots = s.roots := rfl
@[simp] theorem State.flash0_setArbiter (s : State) (c : Nat) (x : Arbiter) : (s.setArbiter c x).flash0 = s.flash0 := rfl
@[simp] theorem State.flash1_setArbiter (s : State) (c : Nat) (x : Arbiter) : (s.setArbiter c x).flash1 = s.flash1 := rfl
@[simp] theorem State.power_setArbiter (s : State) (c : Nat) (x : Arbiter) : (s.setArbiter c x).power = s.power := rfl
@[simp] theorem State.entering_setArbiter (s : State) (c : Nat) (x : Arbiter) : (s.setArbiter c x).entering = s.entering := rfl
@[simp] theorem State.activityAt_setArbiter (s : State) (c : Nat) (x : Arbiter) : (s.setArbiter c x).activityAt = s.activityAt := rfl
@[simp] theorem State.lowSince_setArbiter (s : State) (c : Nat) (x : Arbiter) : (s.setArbiter c x).lowSince = s.lowSince := rfl
@[simp] theorem State.retention_setArbiter (s : State) (c : Nat) (x : Arbiter) : (s.setArbiter c x).retention = s.retention := rfl
@[simp] theorem State.supplies_setArbiter (s : State) (c : Nat) (x : Arbiter) : (s.setArbiter c x).supplies = s.supplies := rfl
@[simp] theorem State.sconces_setArbiter (s : State) (c : Nat) (x : Arbiter) : (s.setArbiter c x).sconces = s.sconces := rfl
@[simp] theorem State.tamper_setArbiter (s : State) (c : Nat) (x : Arbiter) : (s.setArbiter c x).tamper = s.tamper := rfl
@[simp] theorem State.pending_setArbiter (s : State) (c : Nat) (x : Arbiter) : (s.setArbiter c x).pending = s.pending := rfl
@[simp] theorem State.wick_setArbiter (s : State) (c : Nat) (x : Arbiter) (place : Nat) : (s.setArbiter c x).wick place = s.wick place := rfl
@[simp] theorem State.taper_setArbiter (s : State) (c : Nat) (x : Arbiter) (place : Nat) : (s.setArbiter c x).taper place = s.taper place := rfl
@[simp] theorem State.sealer_setArbiter (s : State) (c : Nat) (x : Arbiter) (place : Nat) : (s.setArbiter c x).sealer place = s.sealer place := rfl
@[simp] theorem State.stream_setArbiter (s : State) (c : Nat) (x : Arbiter) (place : Nat) : (s.setArbiter c x).stream place = s.stream place := rfl
@[simp] theorem State.queue_setArbiter (s : State) (c : Nat) (x : Arbiter) (place : Nat) : (s.setArbiter c x).queue place = s.queue place := rfl
@[simp] theorem State.fn_setArbiter (s : State) (c : Nat) (x : Arbiter) (place : Nat) : (s.setArbiter c x).fn place = s.fn place := rfl
@[simp] theorem State.session_setArbiter (s : State) (c : Nat) (x : Arbiter) (place : Nat) : (s.setArbiter c x).session place = s.session place := rfl
@[simp] theorem State.context_setArbiter (s : State) (c : Nat) (x : Arbiter) (place : Nat) : (s.setArbiter c x).context place = s.context place := rfl
@[simp] theorem State.drbg_setArbiter (s : State) (c : Nat) (x : Arbiter) (place : Nat) : (s.setArbiter c x).drbg place = s.drbg place := rfl
@[simp] theorem State.mailbox_setArbiter (s : State) (c : Nat) (x : Arbiter) (place : Nat) : (s.setArbiter c x).mailbox place = s.mailbox place := rfl
@[simp] theorem State.vaultKey_setArbiter (s : State) (c : Nat) (x : Arbiter) (place : Nat) : (s.setArbiter c x).vaultKey place = s.vaultKey place := rfl
@[simp] theorem State.entry_setArbiter (s : State) (c : Nat) (x : Arbiter) (place : Nat) : (s.setArbiter c x).entry place = s.entry place := rfl
@[simp] theorem State.flag_setArbiter (s : State) (c : Nat) (x : Arbiter) (place : Nat) : (s.setArbiter c x).flag place = s.flag place := rfl
@[simp] theorem State.findJob_setArbiter (s : State) (c : Nat) (x : Arbiter) (place : Nat) : (s.setArbiter c x).findJob place = s.findJob place := rfl

/-! ### setRequester -/

@[simp] theorem State.variant_setRequester (s : State) (r : RequesterState) : (s.setRequester r).variant = s.variant := rfl
@[simp] theorem State.timestamp_setRequester (s : State) (r : RequesterState) : (s.setRequester r).timestamp = s.timestamp := rfl
@[simp] theorem State.hubCycle_setRequester (s : State) (r : RequesterState) : (s.setRequester r).hubCycle = s.hubCycle := rfl
@[simp] theorem State.freeIndex_setRequester (s : State) (r : RequesterState) : (s.setRequester r).freeIndex = s.freeIndex := rfl
@[simp] theorem State.dict_setRequester (s : State) (r : RequesterState) : (s.setRequester r).dict = s.dict := rfl
@[simp] theorem State.out_setRequester (s : State) (r : RequesterState) : (s.setRequester r).out = s.out := rfl
@[simp] theorem State.notices_setRequester (s : State) (r : RequesterState) : (s.setRequester r).notices = s.notices := rfl
@[simp] theorem State.sessions_setRequester (s : State) (r : RequesterState) : (s.setRequester r).sessions = s.sessions := rfl
@[simp] theorem State.cache_setRequester (s : State) (r : RequesterState) : (s.setRequester r).cache = s.cache := rfl
@[simp] theorem State.jobs_setRequester (s : State) (r : RequesterState) : (s.setRequester r).jobs = s.jobs := rfl
@[simp] theorem State.nextJob_setRequester (s : State) (r : RequesterState) : (s.setRequester r).nextJob = s.nextJob := rfl
@[simp] theorem State.queues_setRequester (s : State) (r : RequesterState) : (s.setRequester r).queues = s.queues := rfl
@[simp] theorem State.lastServed_setRequester (s : State) (r : RequesterState) : (s.setRequester r).lastServed = s.lastServed := rfl
@[simp] theorem State.lastSteady_setRequester (s : State) (r : RequesterState) : (s.setRequester r).lastSteady = s.lastSteady := rfl
@[simp] theorem State.fetchStopped_setRequester (s : State) (r : RequesterState) : (s.setRequester r).fetchStopped = s.fetchStopped := rfl
@[simp] theorem State.fns_setRequester (s : State) (r : RequesterState) : (s.setRequester r).fns = s.fns := rfl
@[simp] theorem State.reservoir_setRequester (s : State) (r : RequesterState) : (s.setRequester r).reservoir = s.reservoir := rfl
@[simp] theorem State.lineTags_setRequester (s : State) (r : RequesterState) : (s.setRequester r).lineTags = s.lineTags := rfl
@[simp] theorem State.sealSets_setRequester (s : State) (r : RequesterState) : (s.setRequester r).sealSets = s.sealSets := rfl
@[simp] theorem State.extents_setRequester (s : State) (r : RequesterState) : (s.setRequester r).extents = s.extents := rfl
@[simp] theorem State.clearing_setRequester (s : State) (r : RequesterState) : (s.setRequester r).clearing = s.clearing := rfl
@[simp] theorem State.clearingAll_setRequester (s : State) (r : RequesterState) : (s.setRequester r).clearingAll = s.clearingAll := rfl
@[simp] theorem State.layout_setRequester (s : State) (r : RequesterState) : (s.setRequester r).layout = s.layout := rfl
@[simp] theorem State.windows_setRequester (s : State) (r : RequesterState) : (s.setRequester r).windows = s.windows := rfl
@[simp] theorem State.quotas_setRequester (s : State) (r : RequesterState) : (s.setRequester r).quotas = s.quotas := rfl
@[simp] theorem State.links_setRequester (s : State) (r : RequesterState) : (s.setRequester r).links = s.links := rfl
@[simp] theorem State.modes_setRequester (s : State) (r : RequesterState) : (s.setRequester r).modes = s.modes := rfl
@[simp] theorem State.arbiters_setRequester (s : State) (r : RequesterState) : (s.setRequester r).arbiters = s.arbiters := rfl
@[simp] theorem State.streams_setRequester (s : State) (r : RequesterState) : (s.setRequester r).streams = s.streams := rfl
@[simp] theorem State.pauses_setRequester (s : State) (r : RequesterState) : (s.setRequester r).pauses = s.pauses := rfl
@[simp] theorem State.wicks_setRequester (s : State) (r : RequesterState) : (s.setRequester r).wicks = s.wicks := rfl
@[simp] theorem State.tapers_setRequester (s : State) (r : RequesterState) : (s.setRequester r).tapers = s.tapers := rfl
@[simp] theorem State.control_setRequester (s : State) (r : RequesterState) : (s.setRequester r).control = s.control := rfl
@[simp] theorem State.sealers_setRequester (s : State) (r : RequesterState) : (s.setRequester r).sealers = s.sealers := rfl
@[simp] theorem State.digesterOctets_setRequester (s : State) (r : RequesterState) : (s.setRequester r).digesterOctets = s.digesterOctets := rfl
@[simp] theorem State.digesterAt_setRequester (s : State) (r : RequesterState) : (s.setRequester r).digesterAt = s.digesterAt := rfl
@[simp] theorem State.contexts_setRequester (s : State) (r : RequesterState) : (s.setRequester r).contexts = s.contexts := rfl
@[simp] theorem State.lanterns_setRequester (s : State) (r : RequesterState) : (s.setRequester r).lanterns = s.lanterns := rfl
@[simp] theorem State.mces_setRequester (s : State) (r : RequesterState) : (s.setRequester r).mces = s.mces := rfl
@[simp] theorem State.programs_setRequester (s : State) (r : RequesterState) : (s.setRequester r).programs = s.programs := rfl
@[simp] theorem State.library_setRequester (s : State) (r : RequesterState) : (s.setRequester r).library = s.library := rfl
@[simp] theorem State.vault_setRequester (s : State) (r : RequesterState) : (s.setRequester r).vault = s.vault := rfl
@[simp] theorem State.mram_setRequester (s : State) (r : RequesterState) : (s.setRequester r).mram = s.mram := rfl
@[simp] theorem State.erasing_setRequester (s : State) (r : RequesterState) : (s.setRequester r).erasing = s.erasing := rfl
@[simp] theorem State.windowWrites_setRequester (s : State) (r : RequesterState) : (s.setRequester r).windowWrites = s.windowWrites := rfl
@[simp] theorem State.entropy_setRequester (s : State) (r : RequesterState) : (s.setRequester r).entropy = s.entropy := rfl
@[simp] theorem State.events_setRequester (s : State) (r : RequesterState) : (s.setRequester r).events = s.events := rfl
@[simp] theorem State.eventLog_setRequester (s : State) (r : RequesterState) : (s.setRequester r).eventLog = s.eventLog := rfl
@[simp] theorem State.quietStart_setRequester (s : State) (r : RequesterState) : (s.setRequester r).quietStart = s.quietStart := rfl
@[simp] theorem State.selfOwn_setRequester (s : State) (r : RequesterState) : (s.setRequester r).selfOwn = s.selfOwn := rfl
@[simp] theorem State.relightDue_setRequester (s : State) (r : RequesterState) : (s.setRequester r).relightDue = s.relightDue := rfl
@[simp] theorem State.fatal_setRequester (s : State) (r : RequesterState) : (s.setRequester r).fatal = s.fatal := rfl
@[simp] theorem State.dump_setRequester (s : State) (r : RequesterState) : (s.setRequester r).dump = s.dump := rfl
@[simp] theorem State.mailboxes_setRequester (s : State) (r : RequesterState) : (s.setRequester r).mailboxes = s.mailboxes := rfl
@[simp] theorem State.mirrorBuilt_setRequester (s : State) (r : RequesterState) : (s.setRequester r).mirrorBuilt = s.mirrorBuilt := rfl
@[simp] theorem State.resetPending_setRequester (s : State) (r : RequesterState) : (s.setRequester r).resetPending = s.resetPending := rfl
@[simp] theorem State.roots_setRequester (s : State) (r : RequesterState) : (s.setRequester r).roots = s.roots := rfl
@[simp] theorem State.flash0_setRequester (s : State) (r : RequesterState) : (s.setRequester r).flash0 = s.flash0 := rfl
@[simp] theorem State.flash1_setRequester (s : State) (r : RequesterState) : (s.setRequester r).flash1 = s.flash1 := rfl
@[simp] theorem State.power_setRequester (s : State) (r : RequesterState) : (s.setRequester r).power = s.power := rfl
@[simp] theorem State.entering_setRequester (s : State) (r : RequesterState) : (s.setRequester r).entering = s.entering := rfl
@[simp] theorem State.activityAt_setRequester (s : State) (r : RequesterState) : (s.setRequester r).activityAt = s.activityAt := rfl
@[simp] theorem State.lowSince_setRequester (s : State) (r : RequesterState) : (s.setRequester r).lowSince = s.lowSince := rfl
@[simp] theorem State.retention_setRequester (s : State) (r : RequesterState) : (s.setRequester r).retention = s.retention := rfl
@[simp] theorem State.supplies_setRequester (s : State) (r : RequesterState) : (s.setRequester r).supplies = s.supplies := rfl
@[simp] theorem State.sconces_setRequester (s : State) (r : RequesterState) : (s.setRequester r).sconces = s.sconces := rfl
@[simp] theorem State.tamper_setRequester (s : State) (r : RequesterState) : (s.setRequester r).tamper = s.tamper := rfl
@[simp] theorem State.pending_setRequester (s : State) (r : RequesterState) : (s.setRequester r).pending = s.pending := rfl
@[simp] theorem State.wick_setRequester (s : State) (r : RequesterState) (place : Nat) : (s.setRequester r).wick place = s.wick place := rfl
@[simp] theorem State.taper_setRequester (s : State) (r : RequesterState) (place : Nat) : (s.setRequester r).taper place = s.taper place := rfl
@[simp] theorem State.sealer_setRequester (s : State) (r : RequesterState) (place : Nat) : (s.setRequester r).sealer place = s.sealer place := rfl
@[simp] theorem State.stream_setRequester (s : State) (r : RequesterState) (place : Nat) : (s.setRequester r).stream place = s.stream place := rfl
@[simp] theorem State.queue_setRequester (s : State) (r : RequesterState) (place : Nat) : (s.setRequester r).queue place = s.queue place := rfl
@[simp] theorem State.fn_setRequester (s : State) (r : RequesterState) (place : Nat) : (s.setRequester r).fn place = s.fn place := rfl
@[simp] theorem State.session_setRequester (s : State) (r : RequesterState) (place : Nat) : (s.setRequester r).session place = s.session place := rfl
@[simp] theorem State.context_setRequester (s : State) (r : RequesterState) (place : Nat) : (s.setRequester r).context place = s.context place := rfl
@[simp] theorem State.arbiter_setRequester (s : State) (r : RequesterState) (place : Nat) : (s.setRequester r).arbiter place = s.arbiter place := rfl
@[simp] theorem State.drbg_setRequester (s : State) (r : RequesterState) (place : Nat) : (s.setRequester r).drbg place = s.drbg place := rfl
@[simp] theorem State.mailbox_setRequester (s : State) (r : RequesterState) (place : Nat) : (s.setRequester r).mailbox place = s.mailbox place := rfl
@[simp] theorem State.vaultKey_setRequester (s : State) (r : RequesterState) (place : Nat) : (s.setRequester r).vaultKey place = s.vaultKey place := rfl
@[simp] theorem State.entry_setRequester (s : State) (r : RequesterState) (place : Nat) : (s.setRequester r).entry place = s.entry place := rfl
@[simp] theorem State.flag_setRequester (s : State) (r : RequesterState) (place : Nat) : (s.setRequester r).flag place = s.flag place := rfl
@[simp] theorem State.findJob_setRequester (s : State) (r : RequesterState) (place : Nat) : (s.setRequester r).findJob place = s.findJob place := rfl

/-! ### setMailbox -/

@[simp] theorem State.mailbox_setMailbox (s : State) (slc : Nat) (m : Mailbox) : (s.setMailbox slc m).mailbox slc = m := Table.get_set_same ..
theorem State.mailbox_setMailbox_other (s : State) (slc : Nat) (m : Mailbox) {place : Nat} (h : place ≠ slc) : (s.setMailbox slc m).mailbox place = s.mailbox place := Table.get_set_other _ _ _ _ _ h
@[simp] theorem State.variant_setMailbox (s : State) (slc : Nat) (m : Mailbox) : (s.setMailbox slc m).variant = s.variant := rfl
@[simp] theorem State.timestamp_setMailbox (s : State) (slc : Nat) (m : Mailbox) : (s.setMailbox slc m).timestamp = s.timestamp := rfl
@[simp] theorem State.hubCycle_setMailbox (s : State) (slc : Nat) (m : Mailbox) : (s.setMailbox slc m).hubCycle = s.hubCycle := rfl
@[simp] theorem State.freeIndex_setMailbox (s : State) (slc : Nat) (m : Mailbox) : (s.setMailbox slc m).freeIndex = s.freeIndex := rfl
@[simp] theorem State.dict_setMailbox (s : State) (slc : Nat) (m : Mailbox) : (s.setMailbox slc m).dict = s.dict := rfl
@[simp] theorem State.out_setMailbox (s : State) (slc : Nat) (m : Mailbox) : (s.setMailbox slc m).out = s.out := rfl
@[simp] theorem State.notices_setMailbox (s : State) (slc : Nat) (m : Mailbox) : (s.setMailbox slc m).notices = s.notices := rfl
@[simp] theorem State.sessions_setMailbox (s : State) (slc : Nat) (m : Mailbox) : (s.setMailbox slc m).sessions = s.sessions := rfl
@[simp] theorem State.cache_setMailbox (s : State) (slc : Nat) (m : Mailbox) : (s.setMailbox slc m).cache = s.cache := rfl
@[simp] theorem State.jobs_setMailbox (s : State) (slc : Nat) (m : Mailbox) : (s.setMailbox slc m).jobs = s.jobs := rfl
@[simp] theorem State.nextJob_setMailbox (s : State) (slc : Nat) (m : Mailbox) : (s.setMailbox slc m).nextJob = s.nextJob := rfl
@[simp] theorem State.queues_setMailbox (s : State) (slc : Nat) (m : Mailbox) : (s.setMailbox slc m).queues = s.queues := rfl
@[simp] theorem State.lastServed_setMailbox (s : State) (slc : Nat) (m : Mailbox) : (s.setMailbox slc m).lastServed = s.lastServed := rfl
@[simp] theorem State.lastSteady_setMailbox (s : State) (slc : Nat) (m : Mailbox) : (s.setMailbox slc m).lastSteady = s.lastSteady := rfl
@[simp] theorem State.fetchStopped_setMailbox (s : State) (slc : Nat) (m : Mailbox) : (s.setMailbox slc m).fetchStopped = s.fetchStopped := rfl
@[simp] theorem State.fns_setMailbox (s : State) (slc : Nat) (m : Mailbox) : (s.setMailbox slc m).fns = s.fns := rfl
@[simp] theorem State.reservoir_setMailbox (s : State) (slc : Nat) (m : Mailbox) : (s.setMailbox slc m).reservoir = s.reservoir := rfl
@[simp] theorem State.lineTags_setMailbox (s : State) (slc : Nat) (m : Mailbox) : (s.setMailbox slc m).lineTags = s.lineTags := rfl
@[simp] theorem State.sealSets_setMailbox (s : State) (slc : Nat) (m : Mailbox) : (s.setMailbox slc m).sealSets = s.sealSets := rfl
@[simp] theorem State.extents_setMailbox (s : State) (slc : Nat) (m : Mailbox) : (s.setMailbox slc m).extents = s.extents := rfl
@[simp] theorem State.clearing_setMailbox (s : State) (slc : Nat) (m : Mailbox) : (s.setMailbox slc m).clearing = s.clearing := rfl
@[simp] theorem State.clearingAll_setMailbox (s : State) (slc : Nat) (m : Mailbox) : (s.setMailbox slc m).clearingAll = s.clearingAll := rfl
@[simp] theorem State.layout_setMailbox (s : State) (slc : Nat) (m : Mailbox) : (s.setMailbox slc m).layout = s.layout := rfl
@[simp] theorem State.windows_setMailbox (s : State) (slc : Nat) (m : Mailbox) : (s.setMailbox slc m).windows = s.windows := rfl
@[simp] theorem State.quotas_setMailbox (s : State) (slc : Nat) (m : Mailbox) : (s.setMailbox slc m).quotas = s.quotas := rfl
@[simp] theorem State.links_setMailbox (s : State) (slc : Nat) (m : Mailbox) : (s.setMailbox slc m).links = s.links := rfl
@[simp] theorem State.modes_setMailbox (s : State) (slc : Nat) (m : Mailbox) : (s.setMailbox slc m).modes = s.modes := rfl
@[simp] theorem State.arbiters_setMailbox (s : State) (slc : Nat) (m : Mailbox) : (s.setMailbox slc m).arbiters = s.arbiters := rfl
@[simp] theorem State.streams_setMailbox (s : State) (slc : Nat) (m : Mailbox) : (s.setMailbox slc m).streams = s.streams := rfl
@[simp] theorem State.pauses_setMailbox (s : State) (slc : Nat) (m : Mailbox) : (s.setMailbox slc m).pauses = s.pauses := rfl
@[simp] theorem State.wicks_setMailbox (s : State) (slc : Nat) (m : Mailbox) : (s.setMailbox slc m).wicks = s.wicks := rfl
@[simp] theorem State.tapers_setMailbox (s : State) (slc : Nat) (m : Mailbox) : (s.setMailbox slc m).tapers = s.tapers := rfl
@[simp] theorem State.control_setMailbox (s : State) (slc : Nat) (m : Mailbox) : (s.setMailbox slc m).control = s.control := rfl
@[simp] theorem State.sealers_setMailbox (s : State) (slc : Nat) (m : Mailbox) : (s.setMailbox slc m).sealers = s.sealers := rfl
@[simp] theorem State.digesterOctets_setMailbox (s : State) (slc : Nat) (m : Mailbox) : (s.setMailbox slc m).digesterOctets = s.digesterOctets := rfl
@[simp] theorem State.digesterAt_setMailbox (s : State) (slc : Nat) (m : Mailbox) : (s.setMailbox slc m).digesterAt = s.digesterAt := rfl
@[simp] theorem State.contexts_setMailbox (s : State) (slc : Nat) (m : Mailbox) : (s.setMailbox slc m).contexts = s.contexts := rfl
@[simp] theorem State.lanterns_setMailbox (s : State) (slc : Nat) (m : Mailbox) : (s.setMailbox slc m).lanterns = s.lanterns := rfl
@[simp] theorem State.mces_setMailbox (s : State) (slc : Nat) (m : Mailbox) : (s.setMailbox slc m).mces = s.mces := rfl
@[simp] theorem State.programs_setMailbox (s : State) (slc : Nat) (m : Mailbox) : (s.setMailbox slc m).programs = s.programs := rfl
@[simp] theorem State.library_setMailbox (s : State) (slc : Nat) (m : Mailbox) : (s.setMailbox slc m).library = s.library := rfl
@[simp] theorem State.vault_setMailbox (s : State) (slc : Nat) (m : Mailbox) : (s.setMailbox slc m).vault = s.vault := rfl
@[simp] theorem State.mram_setMailbox (s : State) (slc : Nat) (m : Mailbox) : (s.setMailbox slc m).mram = s.mram := rfl
@[simp] theorem State.erasing_setMailbox (s : State) (slc : Nat) (m : Mailbox) : (s.setMailbox slc m).erasing = s.erasing := rfl
@[simp] theorem State.windowWrites_setMailbox (s : State) (slc : Nat) (m : Mailbox) : (s.setMailbox slc m).windowWrites = s.windowWrites := rfl
@[simp] theorem State.entropy_setMailbox (s : State) (slc : Nat) (m : Mailbox) : (s.setMailbox slc m).entropy = s.entropy := rfl
@[simp] theorem State.events_setMailbox (s : State) (slc : Nat) (m : Mailbox) : (s.setMailbox slc m).events = s.events := rfl
@[simp] theorem State.eventLog_setMailbox (s : State) (slc : Nat) (m : Mailbox) : (s.setMailbox slc m).eventLog = s.eventLog := rfl
@[simp] theorem State.quietStart_setMailbox (s : State) (slc : Nat) (m : Mailbox) : (s.setMailbox slc m).quietStart = s.quietStart := rfl
@[simp] theorem State.selfOwn_setMailbox (s : State) (slc : Nat) (m : Mailbox) : (s.setMailbox slc m).selfOwn = s.selfOwn := rfl
@[simp] theorem State.relightDue_setMailbox (s : State) (slc : Nat) (m : Mailbox) : (s.setMailbox slc m).relightDue = s.relightDue := rfl
@[simp] theorem State.fatal_setMailbox (s : State) (slc : Nat) (m : Mailbox) : (s.setMailbox slc m).fatal = s.fatal := rfl
@[simp] theorem State.dump_setMailbox (s : State) (slc : Nat) (m : Mailbox) : (s.setMailbox slc m).dump = s.dump := rfl
@[simp] theorem State.hop_setMailbox (s : State) (slc : Nat) (m : Mailbox) : (s.setMailbox slc m).hop = s.hop := rfl
@[simp] theorem State.mirrorBuilt_setMailbox (s : State) (slc : Nat) (m : Mailbox) : (s.setMailbox slc m).mirrorBuilt = s.mirrorBuilt := rfl
@[simp] theorem State.resetPending_setMailbox (s : State) (slc : Nat) (m : Mailbox) : (s.setMailbox slc m).resetPending = s.resetPending := rfl
@[simp] theorem State.roots_setMailbox (s : State) (slc : Nat) (m : Mailbox) : (s.setMailbox slc m).roots = s.roots := rfl
@[simp] theorem State.flash0_setMailbox (s : State) (slc : Nat) (m : Mailbox) : (s.setMailbox slc m).flash0 = s.flash0 := rfl
@[simp] theorem State.flash1_setMailbox (s : State) (slc : Nat) (m : Mailbox) : (s.setMailbox slc m).flash1 = s.flash1 := rfl
@[simp] theorem State.power_setMailbox (s : State) (slc : Nat) (m : Mailbox) : (s.setMailbox slc m).power = s.power := rfl
@[simp] theorem State.entering_setMailbox (s : State) (slc : Nat) (m : Mailbox) : (s.setMailbox slc m).entering = s.entering := rfl
@[simp] theorem State.activityAt_setMailbox (s : State) (slc : Nat) (m : Mailbox) : (s.setMailbox slc m).activityAt = s.activityAt := rfl
@[simp] theorem State.lowSince_setMailbox (s : State) (slc : Nat) (m : Mailbox) : (s.setMailbox slc m).lowSince = s.lowSince := rfl
@[simp] theorem State.retention_setMailbox (s : State) (slc : Nat) (m : Mailbox) : (s.setMailbox slc m).retention = s.retention := rfl
@[simp] theorem State.supplies_setMailbox (s : State) (slc : Nat) (m : Mailbox) : (s.setMailbox slc m).supplies = s.supplies := rfl
@[simp] theorem State.sconces_setMailbox (s : State) (slc : Nat) (m : Mailbox) : (s.setMailbox slc m).sconces = s.sconces := rfl
@[simp] theorem State.tamper_setMailbox (s : State) (slc : Nat) (m : Mailbox) : (s.setMailbox slc m).tamper = s.tamper := rfl
@[simp] theorem State.pending_setMailbox (s : State) (slc : Nat) (m : Mailbox) : (s.setMailbox slc m).pending = s.pending := rfl
@[simp] theorem State.wick_setMailbox (s : State) (slc : Nat) (m : Mailbox) (place : Nat) : (s.setMailbox slc m).wick place = s.wick place := rfl
@[simp] theorem State.taper_setMailbox (s : State) (slc : Nat) (m : Mailbox) (place : Nat) : (s.setMailbox slc m).taper place = s.taper place := rfl
@[simp] theorem State.sealer_setMailbox (s : State) (slc : Nat) (m : Mailbox) (place : Nat) : (s.setMailbox slc m).sealer place = s.sealer place := rfl
@[simp] theorem State.stream_setMailbox (s : State) (slc : Nat) (m : Mailbox) (place : Nat) : (s.setMailbox slc m).stream place = s.stream place := rfl
@[simp] theorem State.queue_setMailbox (s : State) (slc : Nat) (m : Mailbox) (place : Nat) : (s.setMailbox slc m).queue place = s.queue place := rfl
@[simp] theorem State.fn_setMailbox (s : State) (slc : Nat) (m : Mailbox) (place : Nat) : (s.setMailbox slc m).fn place = s.fn place := rfl
@[simp] theorem State.session_setMailbox (s : State) (slc : Nat) (m : Mailbox) (place : Nat) : (s.setMailbox slc m).session place = s.session place := rfl
@[simp] theorem State.context_setMailbox (s : State) (slc : Nat) (m : Mailbox) (place : Nat) : (s.setMailbox slc m).context place = s.context place := rfl
@[simp] theorem State.arbiter_setMailbox (s : State) (slc : Nat) (m : Mailbox) (place : Nat) : (s.setMailbox slc m).arbiter place = s.arbiter place := rfl
@[simp] theorem State.drbg_setMailbox (s : State) (slc : Nat) (m : Mailbox) (place : Nat) : (s.setMailbox slc m).drbg place = s.drbg place := rfl
@[simp] theorem State.vaultKey_setMailbox (s : State) (slc : Nat) (m : Mailbox) (place : Nat) : (s.setMailbox slc m).vaultKey place = s.vaultKey place := rfl
@[simp] theorem State.entry_setMailbox (s : State) (slc : Nat) (m : Mailbox) (place : Nat) : (s.setMailbox slc m).entry place = s.entry place := rfl
@[simp] theorem State.flag_setMailbox (s : State) (slc : Nat) (m : Mailbox) (place : Nat) : (s.setMailbox slc m).flag place = s.flag place := rfl
@[simp] theorem State.findJob_setMailbox (s : State) (slc : Nat) (m : Mailbox) (place : Nat) : (s.setMailbox slc m).findJob place = s.findJob place := rfl

/-! ### setSconce -/

@[simp] theorem State.variant_setSconce (s : State) (c : Nat) (x : Sconce) : (s.setSconce c x).variant = s.variant := rfl
@[simp] theorem State.timestamp_setSconce (s : State) (c : Nat) (x : Sconce) : (s.setSconce c x).timestamp = s.timestamp := rfl
@[simp] theorem State.hubCycle_setSconce (s : State) (c : Nat) (x : Sconce) : (s.setSconce c x).hubCycle = s.hubCycle := rfl
@[simp] theorem State.freeIndex_setSconce (s : State) (c : Nat) (x : Sconce) : (s.setSconce c x).freeIndex = s.freeIndex := rfl
@[simp] theorem State.dict_setSconce (s : State) (c : Nat) (x : Sconce) : (s.setSconce c x).dict = s.dict := rfl
@[simp] theorem State.out_setSconce (s : State) (c : Nat) (x : Sconce) : (s.setSconce c x).out = s.out := rfl
@[simp] theorem State.notices_setSconce (s : State) (c : Nat) (x : Sconce) : (s.setSconce c x).notices = s.notices := rfl
@[simp] theorem State.sessions_setSconce (s : State) (c : Nat) (x : Sconce) : (s.setSconce c x).sessions = s.sessions := rfl
@[simp] theorem State.cache_setSconce (s : State) (c : Nat) (x : Sconce) : (s.setSconce c x).cache = s.cache := rfl
@[simp] theorem State.jobs_setSconce (s : State) (c : Nat) (x : Sconce) : (s.setSconce c x).jobs = s.jobs := rfl
@[simp] theorem State.nextJob_setSconce (s : State) (c : Nat) (x : Sconce) : (s.setSconce c x).nextJob = s.nextJob := rfl
@[simp] theorem State.queues_setSconce (s : State) (c : Nat) (x : Sconce) : (s.setSconce c x).queues = s.queues := rfl
@[simp] theorem State.lastServed_setSconce (s : State) (c : Nat) (x : Sconce) : (s.setSconce c x).lastServed = s.lastServed := rfl
@[simp] theorem State.lastSteady_setSconce (s : State) (c : Nat) (x : Sconce) : (s.setSconce c x).lastSteady = s.lastSteady := rfl
@[simp] theorem State.fetchStopped_setSconce (s : State) (c : Nat) (x : Sconce) : (s.setSconce c x).fetchStopped = s.fetchStopped := rfl
@[simp] theorem State.fns_setSconce (s : State) (c : Nat) (x : Sconce) : (s.setSconce c x).fns = s.fns := rfl
@[simp] theorem State.reservoir_setSconce (s : State) (c : Nat) (x : Sconce) : (s.setSconce c x).reservoir = s.reservoir := rfl
@[simp] theorem State.lineTags_setSconce (s : State) (c : Nat) (x : Sconce) : (s.setSconce c x).lineTags = s.lineTags := rfl
@[simp] theorem State.sealSets_setSconce (s : State) (c : Nat) (x : Sconce) : (s.setSconce c x).sealSets = s.sealSets := rfl
@[simp] theorem State.extents_setSconce (s : State) (c : Nat) (x : Sconce) : (s.setSconce c x).extents = s.extents := rfl
@[simp] theorem State.clearing_setSconce (s : State) (c : Nat) (x : Sconce) : (s.setSconce c x).clearing = s.clearing := rfl
@[simp] theorem State.clearingAll_setSconce (s : State) (c : Nat) (x : Sconce) : (s.setSconce c x).clearingAll = s.clearingAll := rfl
@[simp] theorem State.layout_setSconce (s : State) (c : Nat) (x : Sconce) : (s.setSconce c x).layout = s.layout := rfl
@[simp] theorem State.windows_setSconce (s : State) (c : Nat) (x : Sconce) : (s.setSconce c x).windows = s.windows := rfl
@[simp] theorem State.quotas_setSconce (s : State) (c : Nat) (x : Sconce) : (s.setSconce c x).quotas = s.quotas := rfl
@[simp] theorem State.links_setSconce (s : State) (c : Nat) (x : Sconce) : (s.setSconce c x).links = s.links := rfl
@[simp] theorem State.modes_setSconce (s : State) (c : Nat) (x : Sconce) : (s.setSconce c x).modes = s.modes := rfl
@[simp] theorem State.arbiters_setSconce (s : State) (c : Nat) (x : Sconce) : (s.setSconce c x).arbiters = s.arbiters := rfl
@[simp] theorem State.streams_setSconce (s : State) (c : Nat) (x : Sconce) : (s.setSconce c x).streams = s.streams := rfl
@[simp] theorem State.pauses_setSconce (s : State) (c : Nat) (x : Sconce) : (s.setSconce c x).pauses = s.pauses := rfl
@[simp] theorem State.wicks_setSconce (s : State) (c : Nat) (x : Sconce) : (s.setSconce c x).wicks = s.wicks := rfl
@[simp] theorem State.tapers_setSconce (s : State) (c : Nat) (x : Sconce) : (s.setSconce c x).tapers = s.tapers := rfl
@[simp] theorem State.control_setSconce (s : State) (c : Nat) (x : Sconce) : (s.setSconce c x).control = s.control := rfl
@[simp] theorem State.sealers_setSconce (s : State) (c : Nat) (x : Sconce) : (s.setSconce c x).sealers = s.sealers := rfl
@[simp] theorem State.digesterOctets_setSconce (s : State) (c : Nat) (x : Sconce) : (s.setSconce c x).digesterOctets = s.digesterOctets := rfl
@[simp] theorem State.digesterAt_setSconce (s : State) (c : Nat) (x : Sconce) : (s.setSconce c x).digesterAt = s.digesterAt := rfl
@[simp] theorem State.contexts_setSconce (s : State) (c : Nat) (x : Sconce) : (s.setSconce c x).contexts = s.contexts := rfl
@[simp] theorem State.lanterns_setSconce (s : State) (c : Nat) (x : Sconce) : (s.setSconce c x).lanterns = s.lanterns := rfl
@[simp] theorem State.mces_setSconce (s : State) (c : Nat) (x : Sconce) : (s.setSconce c x).mces = s.mces := rfl
@[simp] theorem State.programs_setSconce (s : State) (c : Nat) (x : Sconce) : (s.setSconce c x).programs = s.programs := rfl
@[simp] theorem State.library_setSconce (s : State) (c : Nat) (x : Sconce) : (s.setSconce c x).library = s.library := rfl
@[simp] theorem State.vault_setSconce (s : State) (c : Nat) (x : Sconce) : (s.setSconce c x).vault = s.vault := rfl
@[simp] theorem State.mram_setSconce (s : State) (c : Nat) (x : Sconce) : (s.setSconce c x).mram = s.mram := rfl
@[simp] theorem State.erasing_setSconce (s : State) (c : Nat) (x : Sconce) : (s.setSconce c x).erasing = s.erasing := rfl
@[simp] theorem State.windowWrites_setSconce (s : State) (c : Nat) (x : Sconce) : (s.setSconce c x).windowWrites = s.windowWrites := rfl
@[simp] theorem State.entropy_setSconce (s : State) (c : Nat) (x : Sconce) : (s.setSconce c x).entropy = s.entropy := rfl
@[simp] theorem State.events_setSconce (s : State) (c : Nat) (x : Sconce) : (s.setSconce c x).events = s.events := rfl
@[simp] theorem State.eventLog_setSconce (s : State) (c : Nat) (x : Sconce) : (s.setSconce c x).eventLog = s.eventLog := rfl
@[simp] theorem State.quietStart_setSconce (s : State) (c : Nat) (x : Sconce) : (s.setSconce c x).quietStart = s.quietStart := rfl
@[simp] theorem State.selfOwn_setSconce (s : State) (c : Nat) (x : Sconce) : (s.setSconce c x).selfOwn = s.selfOwn := rfl
@[simp] theorem State.relightDue_setSconce (s : State) (c : Nat) (x : Sconce) : (s.setSconce c x).relightDue = s.relightDue := rfl
@[simp] theorem State.fatal_setSconce (s : State) (c : Nat) (x : Sconce) : (s.setSconce c x).fatal = s.fatal := rfl
@[simp] theorem State.dump_setSconce (s : State) (c : Nat) (x : Sconce) : (s.setSconce c x).dump = s.dump := rfl
@[simp] theorem State.hop_setSconce (s : State) (c : Nat) (x : Sconce) : (s.setSconce c x).hop = s.hop := rfl
@[simp] theorem State.mailboxes_setSconce (s : State) (c : Nat) (x : Sconce) : (s.setSconce c x).mailboxes = s.mailboxes := rfl
@[simp] theorem State.mirrorBuilt_setSconce (s : State) (c : Nat) (x : Sconce) : (s.setSconce c x).mirrorBuilt = s.mirrorBuilt := rfl
@[simp] theorem State.resetPending_setSconce (s : State) (c : Nat) (x : Sconce) : (s.setSconce c x).resetPending = s.resetPending := rfl
@[simp] theorem State.roots_setSconce (s : State) (c : Nat) (x : Sconce) : (s.setSconce c x).roots = s.roots := rfl
@[simp] theorem State.flash0_setSconce (s : State) (c : Nat) (x : Sconce) : (s.setSconce c x).flash0 = s.flash0 := rfl
@[simp] theorem State.flash1_setSconce (s : State) (c : Nat) (x : Sconce) : (s.setSconce c x).flash1 = s.flash1 := rfl
@[simp] theorem State.power_setSconce (s : State) (c : Nat) (x : Sconce) : (s.setSconce c x).power = s.power := rfl
@[simp] theorem State.entering_setSconce (s : State) (c : Nat) (x : Sconce) : (s.setSconce c x).entering = s.entering := rfl
@[simp] theorem State.activityAt_setSconce (s : State) (c : Nat) (x : Sconce) : (s.setSconce c x).activityAt = s.activityAt := rfl
@[simp] theorem State.lowSince_setSconce (s : State) (c : Nat) (x : Sconce) : (s.setSconce c x).lowSince = s.lowSince := rfl
@[simp] theorem State.retention_setSconce (s : State) (c : Nat) (x : Sconce) : (s.setSconce c x).retention = s.retention := rfl
@[simp] theorem State.supplies_setSconce (s : State) (c : Nat) (x : Sconce) : (s.setSconce c x).supplies = s.supplies := rfl
@[simp] theorem State.tamper_setSconce (s : State) (c : Nat) (x : Sconce) : (s.setSconce c x).tamper = s.tamper := rfl
@[simp] theorem State.pending_setSconce (s : State) (c : Nat) (x : Sconce) : (s.setSconce c x).pending = s.pending := rfl
@[simp] theorem State.wick_setSconce (s : State) (c : Nat) (x : Sconce) (place : Nat) : (s.setSconce c x).wick place = s.wick place := rfl
@[simp] theorem State.taper_setSconce (s : State) (c : Nat) (x : Sconce) (place : Nat) : (s.setSconce c x).taper place = s.taper place := rfl
@[simp] theorem State.sealer_setSconce (s : State) (c : Nat) (x : Sconce) (place : Nat) : (s.setSconce c x).sealer place = s.sealer place := rfl
@[simp] theorem State.stream_setSconce (s : State) (c : Nat) (x : Sconce) (place : Nat) : (s.setSconce c x).stream place = s.stream place := rfl
@[simp] theorem State.queue_setSconce (s : State) (c : Nat) (x : Sconce) (place : Nat) : (s.setSconce c x).queue place = s.queue place := rfl
@[simp] theorem State.fn_setSconce (s : State) (c : Nat) (x : Sconce) (place : Nat) : (s.setSconce c x).fn place = s.fn place := rfl
@[simp] theorem State.session_setSconce (s : State) (c : Nat) (x : Sconce) (place : Nat) : (s.setSconce c x).session place = s.session place := rfl
@[simp] theorem State.context_setSconce (s : State) (c : Nat) (x : Sconce) (place : Nat) : (s.setSconce c x).context place = s.context place := rfl
@[simp] theorem State.arbiter_setSconce (s : State) (c : Nat) (x : Sconce) (place : Nat) : (s.setSconce c x).arbiter place = s.arbiter place := rfl
@[simp] theorem State.drbg_setSconce (s : State) (c : Nat) (x : Sconce) (place : Nat) : (s.setSconce c x).drbg place = s.drbg place := rfl
@[simp] theorem State.mailbox_setSconce (s : State) (c : Nat) (x : Sconce) (place : Nat) : (s.setSconce c x).mailbox place = s.mailbox place := rfl
@[simp] theorem State.vaultKey_setSconce (s : State) (c : Nat) (x : Sconce) (place : Nat) : (s.setSconce c x).vaultKey place = s.vaultKey place := rfl
@[simp] theorem State.entry_setSconce (s : State) (c : Nat) (x : Sconce) (place : Nat) : (s.setSconce c x).entry place = s.entry place := rfl
@[simp] theorem State.flag_setSconce (s : State) (c : Nat) (x : Sconce) (place : Nat) : (s.setSconce c x).flag place = s.flag place := rfl
@[simp] theorem State.findJob_setSconce (s : State) (c : Nat) (x : Sconce) (place : Nat) : (s.setSconce c x).findJob place = s.findJob place := rfl

/-! ### setSealSet -/

@[simp] theorem State.variant_setSealSet (s : State) (owner : Nat) (b : Bytes) : (s.setSealSet owner b).variant = s.variant := rfl
@[simp] theorem State.timestamp_setSealSet (s : State) (owner : Nat) (b : Bytes) : (s.setSealSet owner b).timestamp = s.timestamp := rfl
@[simp] theorem State.hubCycle_setSealSet (s : State) (owner : Nat) (b : Bytes) : (s.setSealSet owner b).hubCycle = s.hubCycle := rfl
@[simp] theorem State.freeIndex_setSealSet (s : State) (owner : Nat) (b : Bytes) : (s.setSealSet owner b).freeIndex = s.freeIndex := rfl
@[simp] theorem State.dict_setSealSet (s : State) (owner : Nat) (b : Bytes) : (s.setSealSet owner b).dict = s.dict := rfl
@[simp] theorem State.out_setSealSet (s : State) (owner : Nat) (b : Bytes) : (s.setSealSet owner b).out = s.out := rfl
@[simp] theorem State.notices_setSealSet (s : State) (owner : Nat) (b : Bytes) : (s.setSealSet owner b).notices = s.notices := rfl
@[simp] theorem State.sessions_setSealSet (s : State) (owner : Nat) (b : Bytes) : (s.setSealSet owner b).sessions = s.sessions := rfl
@[simp] theorem State.cache_setSealSet (s : State) (owner : Nat) (b : Bytes) : (s.setSealSet owner b).cache = s.cache := rfl
@[simp] theorem State.jobs_setSealSet (s : State) (owner : Nat) (b : Bytes) : (s.setSealSet owner b).jobs = s.jobs := rfl
@[simp] theorem State.nextJob_setSealSet (s : State) (owner : Nat) (b : Bytes) : (s.setSealSet owner b).nextJob = s.nextJob := rfl
@[simp] theorem State.queues_setSealSet (s : State) (owner : Nat) (b : Bytes) : (s.setSealSet owner b).queues = s.queues := rfl
@[simp] theorem State.lastServed_setSealSet (s : State) (owner : Nat) (b : Bytes) : (s.setSealSet owner b).lastServed = s.lastServed := rfl
@[simp] theorem State.lastSteady_setSealSet (s : State) (owner : Nat) (b : Bytes) : (s.setSealSet owner b).lastSteady = s.lastSteady := rfl
@[simp] theorem State.fetchStopped_setSealSet (s : State) (owner : Nat) (b : Bytes) : (s.setSealSet owner b).fetchStopped = s.fetchStopped := rfl
@[simp] theorem State.fns_setSealSet (s : State) (owner : Nat) (b : Bytes) : (s.setSealSet owner b).fns = s.fns := rfl
@[simp] theorem State.reservoir_setSealSet (s : State) (owner : Nat) (b : Bytes) : (s.setSealSet owner b).reservoir = s.reservoir := rfl
@[simp] theorem State.lineTags_setSealSet (s : State) (owner : Nat) (b : Bytes) : (s.setSealSet owner b).lineTags = s.lineTags := rfl
@[simp] theorem State.extents_setSealSet (s : State) (owner : Nat) (b : Bytes) : (s.setSealSet owner b).extents = s.extents := rfl
@[simp] theorem State.clearing_setSealSet (s : State) (owner : Nat) (b : Bytes) : (s.setSealSet owner b).clearing = s.clearing := rfl
@[simp] theorem State.clearingAll_setSealSet (s : State) (owner : Nat) (b : Bytes) : (s.setSealSet owner b).clearingAll = s.clearingAll := rfl
@[simp] theorem State.layout_setSealSet (s : State) (owner : Nat) (b : Bytes) : (s.setSealSet owner b).layout = s.layout := rfl
@[simp] theorem State.windows_setSealSet (s : State) (owner : Nat) (b : Bytes) : (s.setSealSet owner b).windows = s.windows := rfl
@[simp] theorem State.quotas_setSealSet (s : State) (owner : Nat) (b : Bytes) : (s.setSealSet owner b).quotas = s.quotas := rfl
@[simp] theorem State.links_setSealSet (s : State) (owner : Nat) (b : Bytes) : (s.setSealSet owner b).links = s.links := rfl
@[simp] theorem State.modes_setSealSet (s : State) (owner : Nat) (b : Bytes) : (s.setSealSet owner b).modes = s.modes := rfl
@[simp] theorem State.arbiters_setSealSet (s : State) (owner : Nat) (b : Bytes) : (s.setSealSet owner b).arbiters = s.arbiters := rfl
@[simp] theorem State.streams_setSealSet (s : State) (owner : Nat) (b : Bytes) : (s.setSealSet owner b).streams = s.streams := rfl
@[simp] theorem State.pauses_setSealSet (s : State) (owner : Nat) (b : Bytes) : (s.setSealSet owner b).pauses = s.pauses := rfl
@[simp] theorem State.wicks_setSealSet (s : State) (owner : Nat) (b : Bytes) : (s.setSealSet owner b).wicks = s.wicks := rfl
@[simp] theorem State.tapers_setSealSet (s : State) (owner : Nat) (b : Bytes) : (s.setSealSet owner b).tapers = s.tapers := rfl
@[simp] theorem State.control_setSealSet (s : State) (owner : Nat) (b : Bytes) : (s.setSealSet owner b).control = s.control := rfl
@[simp] theorem State.sealers_setSealSet (s : State) (owner : Nat) (b : Bytes) : (s.setSealSet owner b).sealers = s.sealers := rfl
@[simp] theorem State.digesterOctets_setSealSet (s : State) (owner : Nat) (b : Bytes) : (s.setSealSet owner b).digesterOctets = s.digesterOctets := rfl
@[simp] theorem State.digesterAt_setSealSet (s : State) (owner : Nat) (b : Bytes) : (s.setSealSet owner b).digesterAt = s.digesterAt := rfl
@[simp] theorem State.contexts_setSealSet (s : State) (owner : Nat) (b : Bytes) : (s.setSealSet owner b).contexts = s.contexts := rfl
@[simp] theorem State.lanterns_setSealSet (s : State) (owner : Nat) (b : Bytes) : (s.setSealSet owner b).lanterns = s.lanterns := rfl
@[simp] theorem State.mces_setSealSet (s : State) (owner : Nat) (b : Bytes) : (s.setSealSet owner b).mces = s.mces := rfl
@[simp] theorem State.programs_setSealSet (s : State) (owner : Nat) (b : Bytes) : (s.setSealSet owner b).programs = s.programs := rfl
@[simp] theorem State.library_setSealSet (s : State) (owner : Nat) (b : Bytes) : (s.setSealSet owner b).library = s.library := rfl
@[simp] theorem State.vault_setSealSet (s : State) (owner : Nat) (b : Bytes) : (s.setSealSet owner b).vault = s.vault := rfl
@[simp] theorem State.mram_setSealSet (s : State) (owner : Nat) (b : Bytes) : (s.setSealSet owner b).mram = s.mram := rfl
@[simp] theorem State.erasing_setSealSet (s : State) (owner : Nat) (b : Bytes) : (s.setSealSet owner b).erasing = s.erasing := rfl
@[simp] theorem State.windowWrites_setSealSet (s : State) (owner : Nat) (b : Bytes) : (s.setSealSet owner b).windowWrites = s.windowWrites := rfl
@[simp] theorem State.entropy_setSealSet (s : State) (owner : Nat) (b : Bytes) : (s.setSealSet owner b).entropy = s.entropy := rfl
@[simp] theorem State.events_setSealSet (s : State) (owner : Nat) (b : Bytes) : (s.setSealSet owner b).events = s.events := rfl
@[simp] theorem State.eventLog_setSealSet (s : State) (owner : Nat) (b : Bytes) : (s.setSealSet owner b).eventLog = s.eventLog := rfl
@[simp] theorem State.quietStart_setSealSet (s : State) (owner : Nat) (b : Bytes) : (s.setSealSet owner b).quietStart = s.quietStart := rfl
@[simp] theorem State.selfOwn_setSealSet (s : State) (owner : Nat) (b : Bytes) : (s.setSealSet owner b).selfOwn = s.selfOwn := rfl
@[simp] theorem State.relightDue_setSealSet (s : State) (owner : Nat) (b : Bytes) : (s.setSealSet owner b).relightDue = s.relightDue := rfl
@[simp] theorem State.fatal_setSealSet (s : State) (owner : Nat) (b : Bytes) : (s.setSealSet owner b).fatal = s.fatal := rfl
@[simp] theorem State.dump_setSealSet (s : State) (owner : Nat) (b : Bytes) : (s.setSealSet owner b).dump = s.dump := rfl
@[simp] theorem State.hop_setSealSet (s : State) (owner : Nat) (b : Bytes) : (s.setSealSet owner b).hop = s.hop := rfl
@[simp] theorem State.mailboxes_setSealSet (s : State) (owner : Nat) (b : Bytes) : (s.setSealSet owner b).mailboxes = s.mailboxes := rfl
@[simp] theorem State.mirrorBuilt_setSealSet (s : State) (owner : Nat) (b : Bytes) : (s.setSealSet owner b).mirrorBuilt = s.mirrorBuilt := rfl
@[simp] theorem State.resetPending_setSealSet (s : State) (owner : Nat) (b : Bytes) : (s.setSealSet owner b).resetPending = s.resetPending := rfl
@[simp] theorem State.roots_setSealSet (s : State) (owner : Nat) (b : Bytes) : (s.setSealSet owner b).roots = s.roots := rfl
@[simp] theorem State.flash0_setSealSet (s : State) (owner : Nat) (b : Bytes) : (s.setSealSet owner b).flash0 = s.flash0 := rfl
@[simp] theorem State.flash1_setSealSet (s : State) (owner : Nat) (b : Bytes) : (s.setSealSet owner b).flash1 = s.flash1 := rfl
@[simp] theorem State.power_setSealSet (s : State) (owner : Nat) (b : Bytes) : (s.setSealSet owner b).power = s.power := rfl
@[simp] theorem State.entering_setSealSet (s : State) (owner : Nat) (b : Bytes) : (s.setSealSet owner b).entering = s.entering := rfl
@[simp] theorem State.activityAt_setSealSet (s : State) (owner : Nat) (b : Bytes) : (s.setSealSet owner b).activityAt = s.activityAt := rfl
@[simp] theorem State.lowSince_setSealSet (s : State) (owner : Nat) (b : Bytes) : (s.setSealSet owner b).lowSince = s.lowSince := rfl
@[simp] theorem State.retention_setSealSet (s : State) (owner : Nat) (b : Bytes) : (s.setSealSet owner b).retention = s.retention := rfl
@[simp] theorem State.supplies_setSealSet (s : State) (owner : Nat) (b : Bytes) : (s.setSealSet owner b).supplies = s.supplies := rfl
@[simp] theorem State.sconces_setSealSet (s : State) (owner : Nat) (b : Bytes) : (s.setSealSet owner b).sconces = s.sconces := rfl
@[simp] theorem State.tamper_setSealSet (s : State) (owner : Nat) (b : Bytes) : (s.setSealSet owner b).tamper = s.tamper := rfl
@[simp] theorem State.pending_setSealSet (s : State) (owner : Nat) (b : Bytes) : (s.setSealSet owner b).pending = s.pending := rfl
@[simp] theorem State.wick_setSealSet (s : State) (owner : Nat) (b : Bytes) (place : Nat) : (s.setSealSet owner b).wick place = s.wick place := rfl
@[simp] theorem State.taper_setSealSet (s : State) (owner : Nat) (b : Bytes) (place : Nat) : (s.setSealSet owner b).taper place = s.taper place := rfl
@[simp] theorem State.sealer_setSealSet (s : State) (owner : Nat) (b : Bytes) (place : Nat) : (s.setSealSet owner b).sealer place = s.sealer place := rfl
@[simp] theorem State.stream_setSealSet (s : State) (owner : Nat) (b : Bytes) (place : Nat) : (s.setSealSet owner b).stream place = s.stream place := rfl
@[simp] theorem State.queue_setSealSet (s : State) (owner : Nat) (b : Bytes) (place : Nat) : (s.setSealSet owner b).queue place = s.queue place := rfl
@[simp] theorem State.fn_setSealSet (s : State) (owner : Nat) (b : Bytes) (place : Nat) : (s.setSealSet owner b).fn place = s.fn place := rfl
@[simp] theorem State.session_setSealSet (s : State) (owner : Nat) (b : Bytes) (place : Nat) : (s.setSealSet owner b).session place = s.session place := rfl
@[simp] theorem State.context_setSealSet (s : State) (owner : Nat) (b : Bytes) (place : Nat) : (s.setSealSet owner b).context place = s.context place := rfl
@[simp] theorem State.arbiter_setSealSet (s : State) (owner : Nat) (b : Bytes) (place : Nat) : (s.setSealSet owner b).arbiter place = s.arbiter place := rfl
@[simp] theorem State.drbg_setSealSet (s : State) (owner : Nat) (b : Bytes) (place : Nat) : (s.setSealSet owner b).drbg place = s.drbg place := rfl
@[simp] theorem State.mailbox_setSealSet (s : State) (owner : Nat) (b : Bytes) (place : Nat) : (s.setSealSet owner b).mailbox place = s.mailbox place := rfl
@[simp] theorem State.vaultKey_setSealSet (s : State) (owner : Nat) (b : Bytes) (place : Nat) : (s.setSealSet owner b).vaultKey place = s.vaultKey place := rfl
@[simp] theorem State.entry_setSealSet (s : State) (owner : Nat) (b : Bytes) (place : Nat) : (s.setSealSet owner b).entry place = s.entry place := rfl
@[simp] theorem State.flag_setSealSet (s : State) (owner : Nat) (b : Bytes) (place : Nat) : (s.setSealSet owner b).flag place = s.flag place := rfl
@[simp] theorem State.findJob_setSealSet (s : State) (owner : Nat) (b : Bytes) (place : Nat) : (s.setSealSet owner b).findJob place = s.findJob place := rfl

/-! ### Drawing a free value -/

@[simp] theorem State.variant_draw (s : State) : s.draw.2.variant = s.variant := rfl
@[simp] theorem State.timestamp_draw (s : State) : s.draw.2.timestamp = s.timestamp := rfl
@[simp] theorem State.hubCycle_draw (s : State) : s.draw.2.hubCycle = s.hubCycle := rfl
@[simp] theorem State.dict_draw (s : State) : s.draw.2.dict = s.dict := rfl
@[simp] theorem State.out_draw (s : State) : s.draw.2.out = s.out := rfl
@[simp] theorem State.notices_draw (s : State) : s.draw.2.notices = s.notices := rfl
@[simp] theorem State.sessions_draw (s : State) : s.draw.2.sessions = s.sessions := rfl
@[simp] theorem State.cache_draw (s : State) : s.draw.2.cache = s.cache := rfl
@[simp] theorem State.jobs_draw (s : State) : s.draw.2.jobs = s.jobs := rfl
@[simp] theorem State.nextJob_draw (s : State) : s.draw.2.nextJob = s.nextJob := rfl
@[simp] theorem State.queues_draw (s : State) : s.draw.2.queues = s.queues := rfl
@[simp] theorem State.lastServed_draw (s : State) : s.draw.2.lastServed = s.lastServed := rfl
@[simp] theorem State.lastSteady_draw (s : State) : s.draw.2.lastSteady = s.lastSteady := rfl
@[simp] theorem State.fetchStopped_draw (s : State) : s.draw.2.fetchStopped = s.fetchStopped := rfl
@[simp] theorem State.fns_draw (s : State) : s.draw.2.fns = s.fns := rfl
@[simp] theorem State.reservoir_draw (s : State) : s.draw.2.reservoir = s.reservoir := rfl
@[simp] theorem State.lineTags_draw (s : State) : s.draw.2.lineTags = s.lineTags := rfl
@[simp] theorem State.sealSets_draw (s : State) : s.draw.2.sealSets = s.sealSets := rfl
@[simp] theorem State.extents_draw (s : State) : s.draw.2.extents = s.extents := rfl
@[simp] theorem State.clearing_draw (s : State) : s.draw.2.clearing = s.clearing := rfl
@[simp] theorem State.clearingAll_draw (s : State) : s.draw.2.clearingAll = s.clearingAll := rfl
@[simp] theorem State.layout_draw (s : State) : s.draw.2.layout = s.layout := rfl
@[simp] theorem State.windows_draw (s : State) : s.draw.2.windows = s.windows := rfl
@[simp] theorem State.quotas_draw (s : State) : s.draw.2.quotas = s.quotas := rfl
@[simp] theorem State.links_draw (s : State) : s.draw.2.links = s.links := rfl
@[simp] theorem State.modes_draw (s : State) : s.draw.2.modes = s.modes := rfl
@[simp] theorem State.arbiters_draw (s : State) : s.draw.2.arbiters = s.arbiters := rfl
@[simp] theorem State.streams_draw (s : State) : s.draw.2.streams = s.streams := rfl
@[simp] theorem State.pauses_draw (s : State) : s.draw.2.pauses = s.pauses := rfl
@[simp] theorem State.wicks_draw (s : State) : s.draw.2.wicks = s.wicks := rfl
@[simp] theorem State.tapers_draw (s : State) : s.draw.2.tapers = s.tapers := rfl
@[simp] theorem State.control_draw (s : State) : s.draw.2.control = s.control := rfl
@[simp] theorem State.sealers_draw (s : State) : s.draw.2.sealers = s.sealers := rfl
@[simp] theorem State.digesterOctets_draw (s : State) : s.draw.2.digesterOctets = s.digesterOctets := rfl
@[simp] theorem State.digesterAt_draw (s : State) : s.draw.2.digesterAt = s.digesterAt := rfl
@[simp] theorem State.contexts_draw (s : State) : s.draw.2.contexts = s.contexts := rfl
@[simp] theorem State.lanterns_draw (s : State) : s.draw.2.lanterns = s.lanterns := rfl
@[simp] theorem State.mces_draw (s : State) : s.draw.2.mces = s.mces := rfl
@[simp] theorem State.programs_draw (s : State) : s.draw.2.programs = s.programs := rfl
@[simp] theorem State.library_draw (s : State) : s.draw.2.library = s.library := rfl
@[simp] theorem State.vault_draw (s : State) : s.draw.2.vault = s.vault := rfl
@[simp] theorem State.mram_draw (s : State) : s.draw.2.mram = s.mram := rfl
@[simp] theorem State.erasing_draw (s : State) : s.draw.2.erasing = s.erasing := rfl
@[simp] theorem State.windowWrites_draw (s : State) : s.draw.2.windowWrites = s.windowWrites := rfl
@[simp] theorem State.entropy_draw (s : State) : s.draw.2.entropy = s.entropy := rfl
@[simp] theorem State.events_draw (s : State) : s.draw.2.events = s.events := rfl
@[simp] theorem State.eventLog_draw (s : State) : s.draw.2.eventLog = s.eventLog := rfl
@[simp] theorem State.quietStart_draw (s : State) : s.draw.2.quietStart = s.quietStart := rfl
@[simp] theorem State.selfOwn_draw (s : State) : s.draw.2.selfOwn = s.selfOwn := rfl
@[simp] theorem State.relightDue_draw (s : State) : s.draw.2.relightDue = s.relightDue := rfl
@[simp] theorem State.fatal_draw (s : State) : s.draw.2.fatal = s.fatal := rfl
@[simp] theorem State.dump_draw (s : State) : s.draw.2.dump = s.dump := rfl
@[simp] theorem State.hop_draw (s : State) : s.draw.2.hop = s.hop := rfl
@[simp] theorem State.mailboxes_draw (s : State) : s.draw.2.mailboxes = s.mailboxes := rfl
@[simp] theorem State.mirrorBuilt_draw (s : State) : s.draw.2.mirrorBuilt = s.mirrorBuilt := rfl
@[simp] theorem State.resetPending_draw (s : State) : s.draw.2.resetPending = s.resetPending := rfl
@[simp] theorem State.roots_draw (s : State) : s.draw.2.roots = s.roots := rfl
@[simp] theorem State.flash0_draw (s : State) : s.draw.2.flash0 = s.flash0 := rfl
@[simp] theorem State.flash1_draw (s : State) : s.draw.2.flash1 = s.flash1 := rfl
@[simp] theorem State.power_draw (s : State) : s.draw.2.power = s.power := rfl
@[simp] theorem State.entering_draw (s : State) : s.draw.2.entering = s.entering := rfl
@[simp] theorem State.activityAt_draw (s : State) : s.draw.2.activityAt = s.activityAt := rfl
@[simp] theorem State.lowSince_draw (s : State) : s.draw.2.lowSince = s.lowSince := rfl
@[simp] theorem State.retention_draw (s : State) : s.draw.2.retention = s.retention := rfl
@[simp] theorem State.supplies_draw (s : State) : s.draw.2.supplies = s.supplies := rfl
@[simp] theorem State.sconces_draw (s : State) : s.draw.2.sconces = s.sconces := rfl
@[simp] theorem State.tamper_draw (s : State) : s.draw.2.tamper = s.tamper := rfl
@[simp] theorem State.pending_draw (s : State) : s.draw.2.pending = s.pending := rfl
@[simp] theorem State.freeIndex_draw (s : State) : s.draw.2.freeIndex = s.freeIndex + 1 := rfl
@[simp] theorem State.wick_draw (s : State) (m : Nat) : s.draw.2.wick m = s.wick m := rfl
@[simp] theorem State.taper_draw (s : State) (m : Nat) : s.draw.2.taper m = s.taper m := rfl
@[simp] theorem State.sealer_draw (s : State) (m : Nat) : s.draw.2.sealer m = s.sealer m := rfl
@[simp] theorem State.stream_draw (s : State) (m : Nat) : s.draw.2.stream m = s.stream m := rfl
@[simp] theorem State.queue_draw (s : State) (m : Nat) : s.draw.2.queue m = s.queue m := rfl
@[simp] theorem State.fn_draw (s : State) (m : Nat) : s.draw.2.fn m = s.fn m := rfl
@[simp] theorem State.session_draw (s : State) (m : Nat) : s.draw.2.session m = s.session m := rfl
@[simp] theorem State.context_draw (s : State) (m : Nat) : s.draw.2.context m = s.context m := rfl
@[simp] theorem State.arbiter_draw (s : State) (m : Nat) : s.draw.2.arbiter m = s.arbiter m := rfl
@[simp] theorem State.drbg_draw (s : State) (m : Nat) : s.draw.2.drbg m = s.drbg m := rfl
@[simp] theorem State.mailbox_draw (s : State) (m : Nat) : s.draw.2.mailbox m = s.mailbox m := rfl
@[simp] theorem State.vaultKey_draw (s : State) (m : Nat) : s.draw.2.vaultKey m = s.vaultKey m := rfl
@[simp] theorem State.entry_draw (s : State) (m : Nat) : s.draw.2.entry m = s.entry m := rfl
@[simp] theorem State.flag_draw (s : State) (m : Nat) : s.draw.2.flag m = s.flag m := rfl
@[simp] theorem State.findJob_draw (s : State) (m : Nat) : s.draw.2.findJob m = s.findJob m := rfl

/-! ### Operations that complete late -/

/-- With nothing waiting nothing completes (R370, R551). -/
theorem State.settleAllWindows_nil {s : State} (h : s.windowWrites = []) : s.settleAllWindows = s := by simp [State.settleAllWindows, h]
theorem State.serveAuth_none {s : State} (h : s.hop.authWait = none) : s.serveAuth = s := by simp [State.serveAuth, h]
theorem State.expireAuth_none {s : State} (h : s.hop.authWait = none) : s.expireAuth = s := by simp [State.expireAuth, h]

/-- A count touches the dictionary alone. -/
theorem State.bump_frame (s : State) (k : Nat) : (s.bump k).jobs = s.jobs ∧ (s.bump k).queues = s.queues ∧ (s.bump k).windowWrites = s.windowWrites ∧ (s.bump k).vault = s.vault := by
  unfold State.bump State.bumpBy
  simp only []
  repeat' split
  all_goals exact ⟨rfl, rfl, rfl, rfl⟩

/-- A write of a host window touches its entry, the rule epoch and the count of hub cycles alone (R369). -/
theorem State.writeWindow_frame (s : State) (n w v : Nat) : (s.writeWindow n w v).jobs = s.jobs ∧ (s.writeWindow n w v).queues = s.queues := by
  unfold State.writeWindow State.passCycle
  simp only []
  split <;> exact ⟨rfl, rfl⟩

/-- What the answer of an operation that completes late leaves as it was (R370, R468). -/
theorem State.answerLate_frame (s : State) (index sub : Nat) (r : LateReply) :
    (s.answerLate index sub r).jobs = s.jobs ∧ (s.answerLate index sub r).queues = s.queues ∧ (s.answerLate index sub r).windowWrites = s.windowWrites ∧ (s.answerLate index sub r).vault = s.vault := by
  unfold State.answerLate
  cases r with
  | nobody => simp
  | path p => exact ⟨rfl, rfl, rfl, rfl⟩
  | hop w f =>
    simp only []
    split
    · simp
    · split <;> (try split) <;> simp [State.respondLate] <;> (try split) <;> simp
  | mailbox link slc addr => exact ⟨by simp [State.endMailbox, State.bump_frame], by simp [State.endMailbox, State.bump_frame], by simp [State.endMailbox, State.bump_frame], by simp [State.endMailbox, State.bump_frame]⟩

/-- The writes of host windows that complete, and those accepted, touch no job and no queue (R370). -/
theorem settleWindowsFor_frame (n fuel : Nat) (s : State) : (settleWindowsFor n fuel s).jobs = s.jobs ∧ (settleWindowsFor n fuel s).queues = s.queues := by
  induction fuel generalizing s with
  | zero => exact ⟨rfl, rfl⟩
  | succ k ih =>
    unfold settleWindowsFor
    split
    · exact ⟨rfl, rfl⟩
    · simp only []
      split
      · exact ⟨(ih _).1.trans (State.writeWindow_frame _ _ _ _).1, (ih _).2.trans (State.writeWindow_frame _ _ _ _).2⟩
      · split
        · exact ⟨rfl, rfl⟩
        · exact ⟨(ih _).1.trans (State.answerLate_frame _ _ _ _).1, (ih _).2.trans (State.answerLate_frame _ _ _ _).2.1⟩

theorem State.settleWindows_jobs (s : State) (n : Nat) : (s.settleWindows n).jobs = s.jobs := (settleWindowsFor_frame n _ s).1
theorem State.settleWindows_queues (s : State) (n : Nat) : (s.settleWindows n).queues = s.queues := (settleWindowsFor_frame n _ s).2
end Sys2Proof.Machine
end

