-- ==== Sys2Proof/Laws/Jobs.lean ====
section
/-! SUPPORT. Laws of jobs: finding and changing one, ending one (R84), and drawing randomness for one (R488). -/

namespace Sys2Proof.Machine

variable {s : State} {id : Nat} {j : Job}

/-! ### Finding and changing -/

theorem State.findJob_id (h : s.findJob id = some j) : j.id = id := by
  have := List.find?_some h
  simpa using this

theorem State.findJob_modJob (f : Job → Job) (hf : ∀ k, (f k).id = k.id) (h : s.findJob id = some j) : (s.modJob id f).findJob id = some (f j) := by
  have e : ((fun k : Job => decide (k.id = id)) ∘ fun k => if k.id = id then f k else k) = fun k => decide (k.id = id) := by
    funext k
    by_cases c : k.id = id <;> simp [c, hf]
  have hj := State.findJob_id h
  unfold State.findJob at h ⊢
  show (s.jobs.map fun k => if k.id = id then f k else k).find? _ = _
  rw [List.find?_map, e, h]
  simp [hj]

theorem State.findJob_modJob_other (f : Job → Job) (hf : ∀ k, (f k).id = k.id) {m : Nat} (h : m ≠ id) : (s.modJob id f).findJob m = s.findJob m := by
  have e : ((fun k : Job => decide (k.id = m)) ∘ fun k => if k.id = id then f k else k) = fun k => decide (k.id = m) := by
    funext k
    by_cases c : k.id = id <;> simp [c, hf]
  unfold State.findJob
  show (s.jobs.map fun k => if k.id = id then f k else k).find? _ = _
  rw [List.find?_map, e]
  cases hc : List.find? (fun k => decide (k.id = m)) s.jobs with
  | none => rfl
  | some k =>
    have hk : k.id = m := by simpa using List.find?_some hc
    simp [hk, h]

/-! ### Releasing units -/

/-- Releasing a unit touches wicks, tapers and sealers only. -/
theorem State.releaseUnit_frame (s : State) (u : UnitId) : { s.releaseUnit u with wicks := s.wicks, tapers := s.tapers, sealers := s.sealers } = s := by
  unfold State.releaseUnit
  repeat' split
  all_goals rfl

theorem State.releaseUnits_frame (us : List UnitId) : ∀ s : State, ∃ a b c, s.releaseUnits us = { s with wicks := a, tapers := b, sealers := c } := by
  induction us with
  | nil => exact fun s => ⟨s.wicks, s.tapers, s.sealers, rfl⟩
  | cons u us ih =>
    intro s
    obtain ⟨a, b, c, h⟩ := ih (s.releaseUnit u)
    refine ⟨a, b, c, h.trans ?_⟩
    exact congrArg (fun r : State => { r with wicks := a, tapers := b, sealers := c }) (State.releaseUnit_frame s u)

theorem State.releaseUnits_jobs (s : State) (us : List UnitId) : (s.releaseUnits us).jobs = s.jobs := by
  obtain ⟨a, b, c, h⟩ := State.releaseUnits_frame us s
  rw [h]

theorem State.releaseUnits_findJob (s : State) (us : List UnitId) (m : Nat) : (s.releaseUnits us).findJob m = s.findJob m := by
  unfold State.findJob
  rw [State.releaseUnits_jobs]

/-! ### Ending -/

/-- A result that is staged ends its job (R84). -/
theorem JobEnds.stageResult (st w6 : Nat) (out : Bytes) (h : s.findJob id = some j) : JobEnds (s.stageResult id st w6 out) id st w6 out := by
  have h' : (s.releaseUnits j.units).findJob id = some j := by rw [State.releaseUnits_findJob, h]
  have h2 : (if j.entry.opcode / 256 = 4 then s.releaseUnits j.units else (s.releaseUnits j.units).leaveSealers id).findJob id = some j := by
    split
    exacts [h', h']
  unfold State.stageResult
  rw [h]
  exact ⟨_, State.findJob_modJob (fun k => { k with phase := .staged, status := BitVec.ofNat 8 st, w6 := BitVec.ofNat 64 w6, output := out, units := [], served := if k.units.isEmpty then k.served else k.units, build := k.build.map fun b => { b with tasks := [] }, waitsEntropy := false }) (fun _ => rfl) h2, rfl, rfl, rfl, rfl, rfl⟩

theorem State.attemptOf_find {op : Nat} (h : s.attemptOf id op = some j) : s.findJob id = some j := by
  unfold State.attemptOf at h
  split at h
  · rename_i k hk
    split at h
    · cases h; exact hk
    · cases h
  · cases h

theorem State.during_some {op : Nat} {f : Job → State} (h : s.attemptOf id op = some j) : s.during id op f = f j := by
  unfold State.during
  rw [h]

theorem State.during_none {op : Nat} {f : Job → State} (h : s.attemptOf id op = none) : s.during id op f = s := by
  unfold State.during
  rw [h]

/-! ### Randomness -/

/-- An instance that can draw serves a request with its stream, and can draw one less (R486, R488). Nothing but the entropy block changes. -/
theorem State.generate_ok {i n k : Nat} (h : s.canDraw i (n + 1)) :
    ∃ t, s.generate i k = (some (drbgStream (s.drbg i).key (s.drbg i).v k), t) ∧ t.canDraw i n ∧ { t with entropy := s.entropy } = s := by
  obtain ⟨hr, hh, hn⟩ := h
  have e : s.reseed i = s := by
    unfold State.reseed
    simp [hr, hh]
    omega
  have v : s.drbgServes i = true := by
    unfold State.drbgServes
    simp [hr, hh]
    omega
  have g : s.generate i k = (some (drbgStream (s.drbg i).key (s.drbg i).v k), s.setDrbg i ((s.drbg i).used k)) := by
    unfold State.generate
    simp only [e, v, if_true]
  refine ⟨_, g, ⟨?_, ?_, ?_⟩, rfl⟩
  · simpa [Drbg.used, Drbg.update] using hr
  · simpa [Drbg.used, Drbg.update] using hh
  · simp [Drbg.used, Drbg.update]
    omega

end Sys2Proof.Machine
end

