-- ==== Sys2Proof/Laws/Keeps.lean ====
section
/-! SUPPORT. The relation Keeps (what no command undoes): it is reflexive and transitive, and how it is shown of a record update, a fold, and an outcome. -/

namespace Sys2Proof.Machine

theorem Blown.refl (a : BitVec 16) : Blown a a := by simp [Blown]

theorem Blown.trans {a b c : BitVec 16} (h : Blown a b) (k : Blown b c) : Blown a c := by
  unfold Blown at *
  rw [← h, BitVec.and_assoc, k]

theorem Blown.or (a b m : BitVec 16) (h : Blown a b) : Blown a (b ||| m) := by
  unfold Blown at *
  rw [BitVec.and_or_distrib_left, h]
  ext i hi
  simp
  intro x _
  exact x

theorem Keeps.refl (s : State) : Keeps s s :=
  ⟨rfl, rfl, Nat.le_refl _, Blown.refl _, Blown.refl _, Blown.refl _, id⟩

theorem Keeps.trans {s t u : State} (h : Keeps s t) (k : Keeps t u) : Keeps s u where
  variant := k.variant.trans h.variant
  pending := k.pending.trans h.pending
  drawn := Nat.le_trans h.drawn k.drawn
  fuse1 := Blown.trans h.fuse1 k.fuse1
  fuse2 := Blown.trans h.fuse2 k.fuse2
  fuse3 := Blown.trans h.fuse3 k.fuse3
  stores := fun x => k.stores (h.stores x)

/-- A state built field by field, as a record update is. -/
theorem Keeps.mk {s0 : State} {variant timestamp hubCycle freeIndex dict out notices sessions cache jobs nextJob queues lastServed lastSteady fetchStopped fns reservoir lineTags sealSets extents clearing clearingAll layout windows quotas links modes arbiters streams pauses wicks tapers control sealers digesterOctets digesterAt contexts lanterns mces programs library vault mram erasing windowWrites entropy events eventLog quietStart selfOwn relightDue fatal dump hop mailboxes mirrorBuilt resetPending roots flash0 flash1 power entering activityAt lowSince retention supplies sconces tamper pending}
    (h : KeepsOf s0 variant freeIndex dict reservoir lineTags roots flash0 flash1 pending) :
    Keeps s0 (State.mk variant timestamp hubCycle freeIndex dict out notices sessions cache jobs nextJob queues lastServed lastSteady fetchStopped fns reservoir lineTags sealSets extents clearing clearingAll layout windows quotas links modes arbiters streams pauses wicks tapers control sealers digesterOctets digesterAt contexts lanterns mces programs library vault mram erasing windowWrites entropy events eventLog quietStart selfOwn relightDue fatal dump hop mailboxes mirrorBuilt resetPending roots flash0 flash1 power entering activityAt lowSince retention supplies sconces tamper pending) := h

/-- A state built field by field, as a record update is. -/
theorem keeps_mk {s0 : State} {variant timestamp hubCycle freeIndex dict out notices sessions cache jobs nextJob queues lastServed lastSteady fetchStopped fns reservoir lineTags sealSets extents clearing clearingAll layout windows quotas links modes arbiters streams pauses wicks tapers control sealers digesterOctets digesterAt contexts lanterns mces programs library vault mram erasing windowWrites entropy events eventLog quietStart selfOwn relightDue fatal dump hop mailboxes mirrorBuilt resetPending roots flash0 flash1 power entering activityAt lowSince retention supplies sconces tamper pending}  :
    Keeps s0 (State.mk variant timestamp hubCycle freeIndex dict out notices sessions cache jobs nextJob queues lastServed lastSteady fetchStopped fns reservoir lineTags sealSets extents clearing clearingAll layout windows quotas links modes arbiters streams pauses wicks tapers control sealers digesterOctets digesterAt contexts lanterns mces programs library vault mram erasing windowWrites entropy events eventLog quietStart selfOwn relightDue fatal dump hop mailboxes mirrorBuilt resetPending roots flash0 flash1 power entering activityAt lowSince retention supplies sconces tamper pending) =
      KeepsOf s0 variant freeIndex dict reservoir lineTags roots flash0 flash1 pending := rfl

/-- The fields the relation reads, taken from one state. -/
theorem Keeps.of {s0 s : State} (h : Keeps s0 s) : KeepsOf s0 s.variant s.freeIndex s.dict s.reservoir s.lineTags s.roots s.flash0 s.flash1 s.pending := h

/-- The relation reads only the fuses of the roots. -/
theorem Keeps.roots {s0 s : State} {r : Roots} (h : Keeps s0 s) (h1 : r.c1 = s.roots.c1) (h2 : r.c2 = s.roots.c2) (h3 : r.c3 = s.roots.c3) :
    KeepsOf s0 s.variant s.freeIndex s.dict s.reservoir s.lineTags r s.flash0 s.flash1 s.pending :=
  { variant := h.variant, pending := h.pending, drawn := h.drawn, fuse1 := h1 ▸ h.fuse1, fuse2 := h2 ▸ h.fuse2, fuse3 := h3 ▸ h.fuse3, stores := h.stores }

/-- More free values are drawn. -/
theorem Keeps.free {s0 s : State} {n : Nat} (h : Keeps s0 s) (hn : s.freeIndex ≤ n) :
    KeepsOf s0 s.variant n s.dict s.reservoir s.lineTags s.roots s.flash0 s.flash1 s.pending :=
  { variant := h.variant, pending := h.pending, drawn := Nat.le_trans h.drawn hn, fuse1 := h.fuse1, fuse2 := h.fuse2, fuse3 := h.fuse3, stores := h.stores }

/-- The reservoir and its tags change and keep their canonical form. -/
theorem Keeps.memory {s0 s : State} {m : List Host.Cell} {g : Table Nat} (h : Keeps s0 s) (hm : Memory.wf clearByte s.reservoir → Memory.wf clearByte m)
    (hg : Table.wf (fun _ => 0) s.lineTags → Table.wf (fun _ => 0) g) : KeepsOf s0 s.variant s.freeIndex s.dict m g s.roots s.flash0 s.flash1 s.pending :=
  { variant := h.variant, pending := h.pending, drawn := h.drawn, fuse1 := h.fuse1, fuse2 := h.fuse2, fuse3 := h.fuse3, stores := fun x => have y := h.stores x; ⟨⟨hm y.1.1, hg y.1.2⟩, y.2⟩ }

/-- The dictionary's store changes and keeps its canonical form. -/
theorem Keeps.entries {s0 s : State} {d : Table Nat} (h : Keeps s0 s) (hd : Table.wf (dictDefault s.variant) s.dict → Table.wf (dictDefault s.variant) d) :
    KeepsOf s0 s.variant s.freeIndex d s.reservoir s.lineTags s.roots s.flash0 s.flash1 s.pending :=
  { variant := h.variant, pending := h.pending, drawn := h.drawn, fuse1 := h.fuse1, fuse2 := h.fuse2, fuse3 := h.fuse3, stores := fun x => have y := h.stores x; ⟨y.1, y.2.1, y.2.2.1, hd y.2.2.2⟩ }

/-- The flash changes and keeps its canonical form. -/
theorem Keeps.flash {s0 s : State} {m n : List Host.Cell} (h : Keeps s0 s)
    (hm : Memory.wf erasedByte s.flash0 → Memory.wf erasedByte s.flash1 → Memory.wf erasedByte m ∧ Memory.wf erasedByte n) :
    KeepsOf s0 s.variant s.freeIndex s.dict s.reservoir s.lineTags s.roots m n s.pending :=
  { variant := h.variant, pending := h.pending, drawn := h.drawn, fuse1 := h.fuse1, fuse2 := h.fuse2, fuse3 := h.fuse3, stores := fun x => have y := h.stores x; have z := hm y.2.1 y.2.2.1; ⟨y.1, z.1, z.2, y.2.2.2⟩ }

/-- Fuses are blown. -/
theorem Keeps.blown {s0 s : State} {r : Roots} (m1 m2 m3 : BitVec 16) (h : Keeps s0 s) (h1 : r.c1 = s.roots.c1 ||| m1) (h2 : r.c2 = s.roots.c2 ||| m2) (h3 : r.c3 = s.roots.c3 ||| m3) :
    KeepsOf s0 s.variant s.freeIndex s.dict s.reservoir s.lineTags r s.flash0 s.flash1 s.pending :=
  { variant := h.variant, pending := h.pending, drawn := h.drawn, fuse1 := h1 ▸ Blown.or _ _ _ h.fuse1, fuse2 := h2 ▸ Blown.or _ _ _ h.fuse2, fuse3 := h3 ▸ Blown.or _ _ _ h.fuse3, stores := h.stores }

/-- A power-down or reset: the reservoir is empty, and some entries return to their defaults. -/
theorem Keeps.lost {s0 s : State} {d : Table Nat} (h : Keeps s0 s) (hd : Table.wf (dictDefault s.variant) s.dict → Table.wf (dictDefault s.variant) d) :
    KeepsOf s0 s.variant s.freeIndex d [] [] s.roots s.flash0 s.flash1 s.pending :=
  { variant := h.variant, pending := h.pending, drawn := h.drawn, fuse1 := h.fuse1, fuse2 := h.fuse2, fuse3 := h.fuse3, stores := fun x => have y := h.stores x; ⟨⟨Table.wf_nil _, Table.wf_nil _⟩, y.2.1, y.2.2.1, hd y.2.2.2⟩ }

theorem Keeps.ite {s0 a b : State} {c : Prop} [Decidable c] (ha : Keeps s0 a) (hb : Keeps s0 b) : Keeps s0 (if c then a else b) := by
  split
  exacts [ha, hb]

theorem Keeps.foldl {s0 : State} {α : Type} {f : State → α → State} {l : List α} {s : State} (h : Keeps s0 s)
    (hf : ∀ (t : State) (a : α), Keeps s0 t → Keeps s0 (f t a)) : Keeps s0 (l.foldl f s) := by
  induction l generalizing s with
  | nil => exact h
  | cons a r ih => exact ih (hf s a h)

/-- An outcome keeps what no command undoes. -/
def ResKeeps (s0 : State) (r : Res) : Prop := ∀ t, r = .next t → Keeps s0 t

theorem ResKeeps.next {s0 s : State} (h : Keeps s0 s) : ResKeeps s0 (.next s) := by
  intro t e
  cases e
  exact h

/-- An optional state keeps what no command undoes. -/
def OptKeeps (s0 : State) (r : Option State) : Prop := ∀ t, r = some t → Keeps s0 t

theorem OptKeeps.some {s0 s : State} (h : Keeps s0 s) : OptKeeps s0 (some s) := by
  intro t e
  cases e
  exact h

theorem OptKeeps.ite {s0 : State} {a b : Option State} {c : Prop} [Decidable c] (ha : OptKeeps s0 a) (hb : OptKeeps s0 b) :
    OptKeeps s0 (if c then a else b) := by
  split
  exacts [ha, hb]

theorem OptKeeps.none {s0 : State} : OptKeeps s0 Option.none := fun _ e => nomatch e

end Sys2Proof.Machine
end

