-- ==== Sys2Proof/Laws/KeepsOps.lean ====
section
/-! SUPPORT. What no command undoes (Keeps), for the functions of Machine/Ops. -/

namespace Sys2Proof.Machine

theorem State.setEntry_keeps {s0 : State} {s : State} (key : Nat) (v : Nat) (hs : Keeps s0 s) : Keeps s0 (State.setEntry s key v) := by
  exact Keeps.mk (Keeps.entries hs fun w => Table.wf_set _ _ _ _ w)

theorem State.setEntryBit_keeps {s0 : State} {s : State} (key : Nat) (bit : Nat) (b : Bool) (hs : Keeps s0 s) : Keeps s0 (State.setEntryBit s key bit b) := by
  unfold State.setEntryBit
  repeat' first
    | with_reducible assumption
    | intro _
    | with_reducible apply State.setEntry_keeps

theorem State.bumpBy_keeps {s0 : State} {s : State} (key : Nat) (n : Nat) (hs : Keeps s0 s) : Keeps s0 (State.bumpBy s key n) := by
  unfold State.bumpBy
  repeat' first
    | with_reducible assumption
    | intro _
    | with_reducible apply State.setEntry_keeps
    | with_reducible apply State.setEntryBit_keeps
    | with_reducible apply Keeps.ite
    | with_reducible apply Keeps.foldl
    | with_reducible apply Keeps.of
    | with_reducible refine Keeps.roots ?_ rfl rfl rfl
    | split

theorem State.bump_keeps {s0 : State} {s : State} (key : Nat) (hs : Keeps s0 s) : Keeps s0 (State.bump s key) := by
  unfold State.bump
  repeat' first
    | with_reducible assumption
    | intro _
    | with_reducible apply State.bumpBy_keeps

theorem State.clearCounter_keeps {s0 : State} {s : State} (key : Nat) (hs : Keeps s0 s) : Keeps s0 (State.clearCounter s key) := by
  unfold State.clearCounter
  repeat' first
    | with_reducible assumption
    | intro _
    | with_reducible apply State.setEntry_keeps
    | with_reducible apply State.setEntryBit_keeps
    | with_reducible apply Keeps.ite
    | with_reducible apply Keeps.foldl
    | with_reducible apply Keeps.of
    | with_reducible refine Keeps.roots ?_ rfl rfl rfl
    | split

theorem State.draw_keeps {s0 : State} {s : State} (hs : Keeps s0 s) : Keeps s0 (State.draw s).2 := by
  exact Keeps.mk (Keeps.free hs (Nat.le_succ _))

theorem State.draw_keeps_eq {s0 : State} {s : State} {x_ : Nat} {t_ : State} (e_ : State.draw s = (x_, t_)) (hs : Keeps s0 s) : Keeps s0 t_ := by
  have h_ : Keeps s0 (State.draw s).2 := by apply State.draw_keeps <;> assumption
  rw [e_] at h_
  exact h_

theorem State.drawBytes_keeps {s0 : State} {s : State} (n : Nat) (hs : Keeps s0 s) : Keeps s0 (State.drawBytes s n).2 := by
  unfold State.drawBytes
  repeat' first
    | with_reducible assumption
    | intro _
    | refine State.draw_keeps_eq (by assumption) ?_
    | with_reducible apply State.draw_keeps

theorem State.drawBytes_keeps_eq {s0 : State} {s : State} {n : Nat} {x_ : Bytes} {t_ : State} (e_ : State.drawBytes s n = (x_, t_)) (hs : Keeps s0 s) : Keeps s0 t_ := by
  have h_ : Keeps s0 (State.drawBytes s n).2 := by apply State.drawBytes_keeps <;> assumption
  rw [e_] at h_
  exact h_

theorem State.emit_keeps {s0 : State} {s : State} (e : Emission) (hs : Keeps s0 s) : Keeps s0 (State.emit s e) := by
  unfold State.emit
  repeat' first
    | with_reducible assumption
    | intro _
    | with_reducible apply Keeps.ite
    | with_reducible apply Keeps.foldl
    | with_reducible apply Keeps.of
    | with_reducible refine Keeps.roots ?_ rfl rfl rfl
    | split
    | simp only [keeps_mk]

theorem State.notice_keeps {s0 : State} {s : State} (cls : Nat) (unit : UnitId) (slice : UnitId) (epoch : Nat) (hs : Keeps s0 s) : Keeps s0 (State.notice s cls unit slice epoch) := by
  unfold State.notice
  repeat' first
    | with_reducible assumption
    | intro _
    | with_reducible apply Keeps.ite
    | with_reducible apply Keeps.foldl
    | with_reducible apply Keeps.of
    | with_reducible refine Keeps.roots ?_ rfl rfl rfl
    | split
    | simp only [keeps_mk]

theorem State.setHealth_keeps {s0 : State} {s : State} (u : UnitId) (v : Nat) (hs : Keeps s0 s) : Keeps s0 (State.setHealth s u v) := by
  unfold State.setHealth
  repeat' first
    | with_reducible assumption
    | intro _
    | with_reducible apply State.setEntry_keeps
    | with_reducible apply Keeps.ite
    | with_reducible apply Keeps.foldl
    | with_reducible apply Keeps.of
    | with_reducible refine Keeps.roots ?_ rfl rfl rfl
    | split

theorem State.setSession_keeps {s0 : State} {s : State} (n : Nat) (x : Session) (hs : Keeps s0 s) : Keeps s0 (State.setSession s n x) := by
  unfold State.setSession
  repeat' first
    | with_reducible assumption
    | intro _
    | with_reducible apply Keeps.ite
    | with_reducible apply Keeps.foldl
    | with_reducible apply Keeps.of
    | with_reducible refine Keeps.roots ?_ rfl rfl rfl
    | split
    | simp only [keeps_mk]

theorem State.setQueue_keeps {s0 : State} {s : State} (g : Nat) (q : Queue) (hs : Keeps s0 s) : Keeps s0 (State.setQueue s g q) := by
  unfold State.setQueue
  repeat' first
    | with_reducible assumption
    | intro _
    | with_reducible apply Keeps.ite
    | with_reducible apply Keeps.foldl
    | with_reducible apply Keeps.of
    | with_reducible refine Keeps.roots ?_ rfl rfl rfl
    | split
    | simp only [keeps_mk]

theorem State.setFn_keeps {s0 : State} {s : State} (l : Nat) (f : HostFn) (hs : Keeps s0 s) : Keeps s0 (State.setFn s l f) := by
  unfold State.setFn
  repeat' first
    | with_reducible assumption
    | intro _
    | with_reducible apply Keeps.ite
    | with_reducible apply Keeps.foldl
    | with_reducible apply Keeps.of
    | with_reducible refine Keeps.roots ?_ rfl rfl rfl
    | split
    | simp only [keeps_mk]

theorem State.setStream_keeps {s0 : State} {s : State} (n : Nat) (x : Stream) (hs : Keeps s0 s) : Keeps s0 (State.setStream s n x) := by
  unfold State.setStream
  repeat' first
    | with_reducible assumption
    | intro _
    | with_reducible apply Keeps.ite
    | with_reducible apply Keeps.foldl
    | with_reducible apply Keeps.of
    | with_reducible refine Keeps.roots ?_ rfl rfl rfl
    | split
    | simp only [keeps_mk]

theorem State.setWick_keeps {s0 : State} {s : State} (w : Nat) (x : Wick) (hs : Keeps s0 s) : Keeps s0 (State.setWick s w x) := by
  unfold State.setWick
  repeat' first
    | with_reducible assumption
    | intro _
    | with_reducible apply Keeps.ite
    | with_reducible apply Keeps.foldl
    | with_reducible apply Keeps.of
    | with_reducible refine Keeps.roots ?_ rfl rfl rfl
    | split
    | simp only [keeps_mk]

theorem State.setTaper_keeps {s0 : State} {s : State} (t : Nat) (x : Taper) (hs : Keeps s0 s) : Keeps s0 (State.setTaper s t x) := by
  unfold State.setTaper
  repeat' first
    | with_reducible assumption
    | intro _
    | with_reducible apply Keeps.ite
    | with_reducible apply Keeps.foldl
    | with_reducible apply Keeps.of
    | with_reducible refine Keeps.roots ?_ rfl rfl rfl
    | split
    | simp only [keeps_mk]

theorem State.setSealer_keeps {s0 : State} {s : State} (n : Nat) (x : Sealer) (hs : Keeps s0 s) : Keeps s0 (State.setSealer s n x) := by
  unfold State.setSealer
  repeat' first
    | with_reducible assumption
    | intro _
    | with_reducible apply Keeps.ite
    | with_reducible apply Keeps.foldl
    | with_reducible apply Keeps.of
    | with_reducible refine Keeps.roots ?_ rfl rfl rfl
    | split
    | simp only [keeps_mk]

theorem State.setContext_keeps {s0 : State} {s : State} (k : Nat) (x : DigestContext) (hs : Keeps s0 s) : Keeps s0 (State.setContext s k x) := by
  unfold State.setContext
  repeat' first
    | with_reducible assumption
    | intro _
    | with_reducible apply Keeps.ite
    | with_reducible apply Keeps.foldl
    | with_reducible apply Keeps.of
    | with_reducible refine Keeps.roots ?_ rfl rfl rfl
    | split
    | simp only [keeps_mk]

theorem State.setVaultKey_keeps {s0 : State} {s : State} (n : Nat) (v : Option VaultKey) (hs : Keeps s0 s) : Keeps s0 (State.setVaultKey s n v) := by
  unfold State.setVaultKey
  repeat' first
    | with_reducible assumption
    | intro _
    | with_reducible apply Keeps.ite
    | with_reducible apply Keeps.foldl
    | with_reducible apply Keeps.of
    | with_reducible refine Keeps.roots ?_ rfl rfl rfl
    | split
    | simp only [keeps_mk]

theorem State.modJob_keeps {s0 : State} {s : State} (id : Nat) (f : Job → Job) (hs : Keeps s0 s) : Keeps s0 (State.modJob s id f) := by
  unfold State.modJob
  repeat' first
    | with_reducible assumption
    | intro _
    | with_reducible apply Keeps.ite
    | with_reducible apply Keeps.foldl
    | with_reducible apply Keeps.of
    | with_reducible refine Keeps.roots ?_ rfl rfl rfl
    | split
    | simp only [keeps_mk]

theorem State.dropJob_keeps {s0 : State} {s : State} (id : Nat) (hs : Keeps s0 s) : Keeps s0 (State.dropJob s id) := by
  unfold State.dropJob
  repeat' first
    | with_reducible assumption
    | intro _
    | with_reducible apply Keeps.ite
    | with_reducible apply Keeps.foldl
    | with_reducible apply Keeps.of
    | with_reducible refine Keeps.roots ?_ rfl rfl rfl
    | split
    | simp only [keeps_mk]

theorem State.writeLine_keeps {s0 : State} {s : State} (line : Nat) (plain : Bytes) (hs : Keeps s0 s) : Keeps s0 (State.writeLine s line plain) := by
  exact Keeps.mk (Keeps.memory hs (fun w => Memory.wf_write _ _ _ _ w) fun w => Table.wf_set _ _ _ _ w)

theorem State.writeReservoir_keeps {s0 : State} {s : State} (a : Nat) (b : Bytes) (hs : Keeps s0 s) : Keeps s0 (State.writeReservoir s a b) := by
  unfold State.writeReservoir
  repeat' first
    | with_reducible assumption
    | intro _
    | with_reducible apply State.writeLine_keeps
    | with_reducible apply Keeps.ite
    | with_reducible apply Keeps.foldl

theorem State.clearLines_keeps {s0 : State} {s : State} (a : Nat) (n : Nat) (hs : Keeps s0 s) : Keeps s0 (State.clearLines s a n) := by
  exact Keeps.mk (Keeps.memory hs (fun w => Memory.wf_clear _ _ _ _ w) fun w => Table.wf_filter _ w)

theorem State.countLife_keeps {s0 : State} {s : State} (hs : Keeps s0 s) : Keeps s0 (State.countLife s) := by
  unfold State.countLife
  repeat' first
    | with_reducible assumption
    | intro _
    | with_reducible apply State.setEntry_keeps

theorem State.passCycle_keeps {s0 : State} {s : State} (hs : Keeps s0 s) : Keeps s0 (State.passCycle s) := by
  unfold State.passCycle
  repeat' first
    | with_reducible assumption
    | intro _
    | with_reducible apply Keeps.ite
    | with_reducible apply Keeps.foldl
    | with_reducible apply Keeps.of
    | with_reducible refine Keeps.roots ?_ rfl rfl rfl
    | split
    | simp only [keeps_mk]

end Sys2Proof.Machine
end

