-- ==== Sys2Proof/Laws/KeepsArbiterOps.lean ====
section
/-! SUPPORT. What no command undoes (Keeps), for the functions of Machine/ArbiterOps. -/

namespace Sys2Proof.Machine

theorem State.setArbiter_keeps {s0 : State} {s : State} (c : Nat) (x : Arbiter) (hs : Keeps s0 s) : Keeps s0 (State.setArbiter s c x) := by
  unfold State.setArbiter
  repeat' first
    | with_reducible assumption
    | intro _
    | with_reducible apply Keeps.ite
    | with_reducible apply Keeps.foldl
    | with_reducible apply Keeps.of
    | with_reducible refine Keeps.roots ?_ rfl rfl rfl
    | split
    | simp only [keeps_mk]

theorem State.settlePort_keeps {s0 : State} {s : State} (now : Nat) (port : Nat) (hs : Keeps s0 s) : Keeps s0 (State.settlePort s now port) := by
  unfold State.settlePort
  repeat' first
    | with_reducible assumption
    | intro _
    | with_reducible apply State.setArbiter_keeps

theorem State.settleArbiters_keeps {s0 : State} {s : State} (hs : Keeps s0 s) : Keeps s0 (State.settleArbiters s) := by
  unfold State.settleArbiters
  repeat' first
    | with_reducible assumption
    | intro _
    | with_reducible apply State.setArbiter_keeps
    | with_reducible apply State.settlePort_keeps
    | with_reducible apply Keeps.ite
    | with_reducible apply Keeps.foldl

end Sys2Proof.Machine
end

