-- ==== Sys2Proof/Laws/KeepsDrbg.lean ====
section
/-! SUPPORT. What no command undoes (Keeps), for the functions of Machine/Drbg. -/

namespace Sys2Proof.Machine

theorem State.setDrbg_keeps {s0 : State} {s : State} (i : Nat) (d : Drbg) (hs : Keeps s0 s) : Keeps s0 (State.setDrbg s i d) := by
  unfold State.setDrbg
  repeat' first
    | with_reducible assumption
    | intro _
    | with_reducible apply Keeps.ite
    | with_reducible apply Keeps.foldl
    | with_reducible apply Keeps.of
    | with_reducible refine Keeps.roots ?_ rfl rfl rfl
    | split
    | simp only [keeps_mk]

theorem State.reseed_keeps {s0 : State} {s : State} (i : Nat) (hs : Keeps s0 s) : Keeps s0 (State.reseed s i) := by
  unfold State.reseed
  repeat' first
    | with_reducible assumption
    | intro _
    | with_reducible apply State.bump_keeps
    | with_reducible apply State.setDrbg_keeps
    | with_reducible apply Keeps.ite
    | with_reducible apply Keeps.foldl
    | with_reducible apply Keeps.of
    | with_reducible refine Keeps.roots ?_ rfl rfl rfl
    | split
    | simp only [keeps_mk]

theorem State.generate_keeps {s0 : State} {s : State} (i : Nat) (n : Nat) (hs : Keeps s0 s) : Keeps s0 (State.generate s i n).2 := by
  unfold State.generate
  repeat' first
    | with_reducible assumption
    | intro _
    | with_reducible apply State.setDrbg_keeps
    | with_reducible apply State.reseed_keeps
    | with_reducible apply Keeps.ite
    | with_reducible apply Keeps.foldl
    | with_reducible apply Keeps.of
    | with_reducible refine Keeps.roots ?_ rfl rfl rfl
    | split
    | simp only [keeps_mk]

theorem State.generate_keeps_eq {s0 : State} {s : State} {i : Nat} {n : Nat} {x_ : Option Bytes} {t_ : State} (e_ : State.generate s i n = (x_, t_)) (hs : Keeps s0 s) : Keeps s0 t_ := by
  have h_ : Keeps s0 (State.generate s i n).2 := by apply State.generate_keeps <;> assumption
  rw [e_] at h_
  exact h_

end Sys2Proof.Machine
end

