-- ==== Sys2Proof/Laws/KeepsStreamOps.lean ====
section
/-! SUPPORT. What no command undoes (Keeps), for the functions of Machine/StreamOps. -/

namespace Sys2Proof.Machine

theorem State.setStreamState_keeps {s0 : State} {s : State} (n : Nat) (v : Nat) (hs : Keeps s0 s) : Keeps s0 (State.setStreamState s n v) :=
  State.setEntry_keeps _ _ (Keeps.ite (Keeps.mk hs) hs)

theorem State.issueFrame_keeps {s0 : State} {s : State} (f : SentFrame) (hs : Keeps s0 s) : Keeps s0 (State.issueFrame s f) := by
  unfold State.issueFrame
  repeat' first
    | with_reducible assumption
    | intro _
    | with_reducible apply State.emit_keeps
    | with_reducible apply Keeps.ite

theorem State.sendSeq_keeps {s0 : State} {s : State} (n : Nat) (kind : Nat) (flags : Nat) (body : Bytes) (hs : Keeps s0 s) : Keeps s0 (State.sendSeq s n kind flags body) := by
  unfold State.sendSeq
  repeat' first
    | with_reducible assumption
    | intro _
    | with_reducible apply State.setStream_keeps
    | with_reducible apply State.issueFrame_keeps

theorem State.sendPlain_keeps {s0 : State} {s : State} (n : Nat) (kind : Nat) (body : Bytes) (hs : Keeps s0 s) : Keeps s0 (State.sendPlain s n kind body) := by
  unfold State.sendPlain
  repeat' first
    | with_reducible assumption
    | intro _
    | with_reducible apply State.issueFrame_keeps

theorem State.sendStatus_keeps {s0 : State} {s : State} (n : Nat) (hs : Keeps s0 s) : Keeps s0 (State.sendStatus s n) := by
  unfold State.sendStatus
  repeat' first
    | with_reducible assumption
    | intro _
    | with_reducible apply State.setStream_keeps
    | with_reducible apply State.sendPlain_keeps

theorem State.window_keeps {s0 : State} {s : State} (n : Nat) (hs : Keeps s0 s) : Keeps s0 (State.window s n).2 := by
  unfold State.window
  repeat' first
    | with_reducible assumption
    | intro _
    | refine State.draw_keeps_eq (by assumption) ?_
    | with_reducible apply State.draw_keeps
    | with_reducible apply Keeps.ite
    | with_reducible apply Keeps.foldl
    | with_reducible apply Keeps.of
    | with_reducible refine Keeps.roots ?_ rfl rfl rfl
    | split

theorem State.window_keeps_eq {s0 : State} {s : State} {n : Nat} {x_ : Nat} {t_ : State} (e_ : State.window s n = (x_, t_)) (hs : Keeps s0 s) : Keeps s0 t_ := by
  have h_ : Keeps s0 (State.window s n).2 := by apply State.window_keeps <;> assumption
  rw [e_] at h_
  exact h_

theorem State.sendCredit_keeps {s0 : State} {s : State} (n : Nat) (hs : Keeps s0 s) : Keeps s0 (State.sendCredit s n) := by
  unfold State.sendCredit
  repeat' first
    | with_reducible assumption
    | intro _
    | refine State.window_keeps_eq (by assumption) ?_
    | with_reducible apply State.setStream_keeps
    | with_reducible apply State.sendPlain_keeps
    | with_reducible apply State.window_keeps

theorem State.sendError_keeps {s0 : State} {s : State} (n : Nat) (code : Nat) (rsn : BitVec 32) (hs : Keeps s0 s) : Keeps s0 (State.sendError s n code rsn) := by
  unfold State.sendError
  repeat' first
    | with_reducible assumption
    | intro _
    | with_reducible apply State.sendPlain_keeps

theorem State.sendDim_keeps {s0 : State} {s : State} (n : Nat) (j : Nat) (hs : Keeps s0 s) : Keeps s0 (State.sendDim s n j) := by
  unfold State.sendDim
  repeat' first
    | with_reducible assumption
    | intro _
    | with_reducible apply State.setEntry_keeps
    | with_reducible apply State.bump_keeps
    | with_reducible apply State.sendSeq_keeps

theorem State.sendGlide_keeps {s0 : State} {s : State} (n : Nat) (stop : BitVec 32) (hs : Keeps s0 s) : Keeps s0 (State.sendGlide s n stop) := by
  unfold State.sendGlide
  repeat' first
    | with_reducible assumption
    | intro _
    | with_reducible apply State.bump_keeps
    | with_reducible apply State.setStream_keeps
    | with_reducible apply State.setStreamState_keeps
    | with_reducible apply State.sendSeq_keeps

theorem State.sendResume_keeps {s0 : State} {s : State} (n : Nat) (j : Nat) (fromRsn : BitVec 32) (stop : Option (BitVec 32)) (fromOffset : Nat) (hs : Keeps s0 s) : Keeps s0 (State.sendResume s n j fromRsn stop fromOffset) := by
  unfold State.sendResume
  repeat' first
    | with_reducible assumption
    | intro _
    | with_reducible apply State.bump_keeps
    | with_reducible apply State.sendSeq_keeps

theorem State.startStep_keeps {s0 : State} {s : State} (n : Nat) (j : Nat) (fromRsn : BitVec 32) (stop : Option (BitVec 32)) (hs : Keeps s0 s) : Keeps s0 (State.startStep s n j fromRsn stop) := by
  unfold State.startStep
  repeat' first
    | with_reducible assumption
    | intro _
    | with_reducible apply State.setEntry_keeps
    | with_reducible apply State.setStream_keeps
    | with_reducible apply State.setStreamState_keeps
    | with_reducible apply State.sendResume_keeps

theorem sendFrames_keeps {s0 : State} (n : Nat) (rsn : BitVec 32) (y0 : Nat) {y1 : State} (hy1 : Keeps s0 y1) : Keeps s0 (sendFrames n rsn y0 y1) := by
  induction y0 generalizing y1 with
  | zero =>
    unfold sendFrames
    repeat' first
      | with_reducible assumption
  | succ _ ih =>
    unfold sendFrames
    repeat' first
      | with_reducible assumption
      | with_reducible apply ih
      | intro _
      | refine State.window_keeps_eq (by assumption) ?_
      | with_reducible apply State.setStream_keeps
      | with_reducible apply State.sendSeq_keeps
      | with_reducible apply State.window_keeps
      | with_reducible apply Keeps.ite
      | with_reducible apply Keeps.foldl
      | with_reducible apply Keeps.of
      | with_reducible refine Keeps.roots ?_ rfl rfl rfl
      | split
      | simp only [keeps_mk]

theorem sendRecords_keeps {s0 : State} (n : Nat) (y0 : List StreamRecord) {y1 : State} (hy1 : Keeps s0 y1) : Keeps s0 (sendRecords n y0 y1) := by
  induction y0 generalizing y1 with
  | nil =>
    unfold sendRecords
    repeat' first
      | with_reducible assumption
  | cons _ _ ih =>
    unfold sendRecords
    repeat' first
      | with_reducible assumption
      | with_reducible apply ih
      | intro _
      | with_reducible apply sendFrames_keeps
      | with_reducible apply Keeps.ite
      | with_reducible apply Keeps.foldl
      | with_reducible apply Keeps.of
      | with_reducible refine Keeps.roots ?_ rfl rfl rfl
      | split
      | simp only [keeps_mk]

theorem State.sendMarks_keeps {s0 : State} {s : State} (n : Nat) (hs : Keeps s0 s) : Keeps s0 (State.sendMarks s n) := by
  unfold State.sendMarks
  repeat' first
    | with_reducible assumption
    | intro _
    | with_reducible apply State.setStream_keeps
    | with_reducible apply State.sendSeq_keeps
    | with_reducible apply Keeps.ite
    | with_reducible apply Keeps.foldl

theorem State.pump_keeps {s0 : State} {s : State} (n : Nat) (hs : Keeps s0 s) : Keeps s0 (State.pump s n) := by
  unfold State.pump
  repeat' first
    | with_reducible assumption
    | intro _
    | with_reducible apply sendRecords_keeps
    | with_reducible apply State.sendMarks_keeps
    | with_reducible apply Keeps.ite

theorem State.paceEgress_keeps {s0 : State} {s : State} (n : Nat) (hs : Keeps s0 s) : Keeps s0 (State.paceEgress s n) := by
  unfold State.paceEgress
  repeat' first
    | with_reducible assumption
    | intro _
    | with_reducible apply State.setStream_keeps
    | with_reducible apply State.sendDim_keeps
    | with_reducible apply State.sendGlide_keeps
    | with_reducible apply State.startStep_keeps
    | with_reducible apply Keeps.ite
    | with_reducible apply Keeps.foldl
    | with_reducible apply Keeps.of
    | with_reducible refine Keeps.roots ?_ rfl rfl rfl
    | split
    | simp only [keeps_mk]

theorem State.paceRestore_keeps {s0 : State} {s : State} (n : Nat) (hs : Keeps s0 s) : Keeps s0 (State.paceRestore s n) := by
  unfold State.paceRestore
  repeat' first
    | with_reducible assumption
    | intro _
    | with_reducible apply State.setStream_keeps
    | with_reducible apply State.sendDim_keeps
    | with_reducible apply State.sendGlide_keeps
    | with_reducible apply State.startStep_keeps
    | with_reducible apply Keeps.ite
    | with_reducible apply Keeps.foldl
    | with_reducible apply Keeps.of
    | with_reducible refine Keeps.roots ?_ rfl rfl rfl
    | split

theorem State.evaluate_keeps {s0 : State} {s : State} (n : Nat) (hs : Keeps s0 s) : Keeps s0 (State.evaluate s n) := by
  unfold State.evaluate
  repeat' first
    | with_reducible assumption
    | intro _
    | with_reducible apply State.pump_keeps
    | with_reducible apply State.paceEgress_keeps
    | with_reducible apply State.paceRestore_keeps
    | with_reducible apply Keeps.ite

theorem State.appendRecord_keeps {s0 : State} {s : State} (n : Nat) (job : Nat) (kind : Nat) (bytes : Bytes) (hs : Keeps s0 s) : Keeps s0 (State.appendRecord s n job kind bytes) := by
  unfold State.appendRecord
  repeat' first
    | with_reducible assumption
    | intro _
    | with_reducible apply State.setStream_keeps
    | with_reducible apply State.evaluate_keeps

theorem State.newEpoch_keeps {s0 : State} {s : State} (n : Nat) (hs : Keeps s0 s) : Keeps s0 (State.newEpoch s n) := by
  unfold State.newEpoch
  repeat' first
    | with_reducible assumption
    | intro _
    | refine State.generate_keeps_eq (by assumption) ?_
    | refine State.window_keeps_eq (by assumption) ?_
    | with_reducible apply State.setEntry_keeps
    | with_reducible apply State.setStream_keeps
    | with_reducible apply State.generate_keeps
    | with_reducible apply State.sendStatus_keeps
    | with_reducible apply State.window_keeps
    | with_reducible apply Keeps.ite
    | with_reducible apply Keeps.foldl
    | with_reducible apply Keeps.of
    | with_reducible refine Keeps.roots ?_ rfl rfl rfl
    | split

end Sys2Proof.Machine
end

