-- ==== Sys2Proof/Laws/KeepsHostOps.lean ====
section
/-! SUPPORT. What no command undoes (Keeps), for the functions of Machine/HostOps. -/

namespace Sys2Proof.Machine

theorem State.setQueueState_keeps {s0 : State} {s : State} (g : Nat) (v : Nat) (hs : Keeps s0 s) : Keeps s0 (State.setQueueState s g v) := by
  unfold State.setQueueState
  repeat' first
    | with_reducible assumption
    | intro _
    | with_reducible apply State.setEntry_keeps

theorem State.hostNotice_keeps {s0 : State} {s : State} (slc : Nat) (hs : Keeps s0 s) : Keeps s0 (State.hostNotice s slc) := by
  unfold State.hostNotice
  repeat' first
    | with_reducible assumption
    | intro _
    | with_reducible apply State.notice_keeps

theorem State.deliverVector_keeps {s0 : State} {s : State} (l : Nat) (v : Nat) (hs : Keeps s0 s) : Keeps s0 (State.deliverVector s l v) := by
  unfold State.deliverVector
  repeat' first
    | with_reducible assumption
    | intro _
    | with_reducible apply State.emit_keeps
    | with_reducible apply State.setFn_keeps
    | with_reducible apply Keeps.ite

theorem State.deliverVectors_keeps {s0 : State} {s : State} (l : Nat) (hs : Keeps s0 s) : Keeps s0 (State.deliverVectors s l) := by
  unfold State.deliverVectors
  repeat' first
    | with_reducible assumption
    | intro _
    | with_reducible apply State.deliverVector_keeps
    | with_reducible apply Keeps.ite
    | with_reducible apply Keeps.foldl

theorem State.signalVector_keeps {s0 : State} {s : State} (l : Nat) (v : Nat) (hs : Keeps s0 s) : Keeps s0 (State.signalVector s l v) := by
  unfold State.signalVector
  repeat' first
    | with_reducible assumption
    | intro _
    | with_reducible apply State.setFn_keeps
    | with_reducible apply State.deliverVector_keeps

theorem State.writeBackFailed_keeps {s0 : State} {s : State} (g : Nat) (hs : Keeps s0 s) : Keeps s0 (State.writeBackFailed s g) := by
  unfold State.writeBackFailed
  repeat' first
    | with_reducible assumption
    | intro _
    | with_reducible apply State.setEntry_keeps
    | with_reducible apply State.setQueueState_keeps
    | with_reducible apply State.hostNotice_keeps

theorem State.issueStatus_keeps {s0 : State} {s : State} (g : Nat) (hs : Keeps s0 s) : Keeps s0 (State.issueStatus s g) := by
  unfold State.issueStatus
  repeat' first
    | with_reducible assumption
    | intro _
    | with_reducible apply State.emit_keeps
    | with_reducible apply State.setQueue_keeps
    | with_reducible apply State.signalVector_keeps
    | with_reducible apply State.writeBackFailed_keeps
    | with_reducible apply Keeps.ite

theorem State.writeStatus_keeps {s0 : State} {s : State} (g : Nat) (hs : Keeps s0 s) : Keeps s0 (State.writeStatus s g) := by
  unfold State.writeStatus
  repeat' first
    | with_reducible assumption
    | intro _
    | with_reducible apply State.setFn_keeps
    | with_reducible apply State.issueStatus_keeps
    | with_reducible apply Keeps.ite

theorem State.acknowledge_keeps {s0 : State} {s : State} (g : Nat) (cmd : Nat) (token : BitVec 8) (result : Nat) (hs : Keeps s0 s) : Keeps s0 (State.acknowledge s g cmd token result) := by
  unfold State.acknowledge
  repeat' first
    | with_reducible assumption
    | intro _
    | with_reducible apply State.setQueue_keeps
    | with_reducible apply State.writeStatus_keeps

theorem advancePrefix_keeps {s0 : State} (g : Nat) (y0 : Nat) {y1 : State} (hy1 : Keeps s0 y1) : Keeps s0 (advancePrefix g y0 y1) := by
  induction y0 generalizing y1 with
  | zero =>
    unfold advancePrefix
    repeat' first
      | with_reducible assumption
  | succ _ ih =>
    unfold advancePrefix
    repeat' first
      | with_reducible assumption
      | with_reducible apply ih
      | intro _
      | with_reducible apply State.setEntry_keeps
      | with_reducible apply State.setQueue_keeps
      | with_reducible apply Keeps.ite
      | with_reducible apply Keeps.foldl
      | with_reducible apply Keeps.of
      | with_reducible refine Keeps.roots ?_ rfl rfl rfl
      | split
      | simp only [keeps_mk]

theorem State.entryDone_keeps {s0 : State} {s : State} (g : Nat) (count : Nat) (irq : Bool) (hs : Keeps s0 s) : Keeps s0 (State.entryDone s g count irq) := by
  unfold State.entryDone
  repeat' first
    | with_reducible assumption
    | intro _
    | with_reducible apply State.setQueue_keeps
    | with_reducible apply State.writeStatus_keeps
    | with_reducible apply advancePrefix_keeps
    | with_reducible apply Keeps.ite

end Sys2Proof.Machine
end

