-- ==== Sys2Proof/Laws/KeepsJobOps.lean ====
section
/-! SUPPORT. What no command undoes (Keeps), for the functions of Machine/JobOps. -/

namespace Sys2Proof.Machine

theorem State.leaveSealers_keeps {s0 : State} {s : State} (id : Nat) (hs : Keeps s0 s) : Keeps s0 (State.leaveSealers s id) := by
  unfold State.leaveSealers
  repeat' first
    | with_reducible assumption
    | intro _
    | with_reducible apply Keeps.ite
    | with_reducible apply Keeps.foldl
    | with_reducible apply Keeps.of
    | with_reducible refine Keeps.roots ?_ rfl rfl rfl
    | split
    | simp only [keeps_mk]

theorem State.releaseUnit_keeps {s0 : State} {s : State} (u : UnitId) (hs : Keeps s0 s) : Keeps s0 (State.releaseUnit s u) := by
  unfold State.releaseUnit
  repeat' first
    | with_reducible assumption
    | intro _
    | with_reducible apply State.setWick_keeps
    | with_reducible apply State.setTaper_keeps
    | with_reducible apply Keeps.ite

theorem State.releaseUnits_keeps {s0 : State} {s : State} (us : List UnitId) (hs : Keeps s0 s) : Keeps s0 (State.releaseUnits s us) := by
  unfold State.releaseUnits
  repeat' first
    | with_reducible assumption
    | intro _
    | with_reducible apply State.releaseUnit_keeps
    | with_reducible apply Keeps.ite
    | with_reducible apply Keeps.foldl

theorem State.modObject_keeps {s0 : State} {s : State} (id : Nat) (f : ObjectState → ObjectState) (hs : Keeps s0 s) : Keeps s0 (State.modObject s id f) := by
  unfold State.modObject
  repeat' first
    | with_reducible assumption
    | intro _
    | with_reducible apply State.modJob_keeps

theorem State.releaseRecord_keeps {s0 : State} {s : State} (id : Nat) (kind : Nat) (epoch : Nat) (segIndex : Nat) (body : Bytes) (hs : Keeps s0 s) : Keeps s0 (State.releaseRecord s id kind epoch segIndex body) := by
  unfold State.releaseRecord
  repeat' first
    | with_reducible assumption
    | intro _
    | with_reducible apply State.appendRecord_keeps
    | with_reducible apply State.modObject_keeps
    | with_reducible apply Keeps.ite
    | with_reducible apply Keeps.foldl
    | with_reducible apply Keeps.of
    | with_reducible refine Keeps.roots ?_ rfl rfl rfl
    | split

theorem State.saltNeeded_keeps {s0 : State} {s : State} (id : Nat) (hs : Keeps s0 s) : Keeps s0 (State.saltNeeded s id) := by
  unfold State.saltNeeded
  repeat' first
    | with_reducible assumption
    | intro _
    | with_reducible apply State.setStream_keeps
    | with_reducible apply State.sendResume_keeps
    | with_reducible apply State.modObject_keeps
    | with_reducible apply Keeps.ite
    | with_reducible apply Keeps.foldl
    | with_reducible apply Keeps.of
    | with_reducible refine Keeps.roots ?_ rfl rfl rfl
    | split

theorem State.newSaltEpoch_keeps {s0 : State} {s : State} (id : Nat) (drawn : Nat) (hs : Keeps s0 s) : Keeps s0 (State.newSaltEpoch s id drawn) := by
  unfold State.newSaltEpoch
  repeat' first
    | with_reducible assumption
    | intro _
    | with_reducible apply State.modObject_keeps
    | with_reducible apply State.releaseRecord_keeps
    | with_reducible apply Keeps.ite
    | with_reducible apply Keeps.foldl
    | with_reducible apply Keeps.of
    | with_reducible refine Keeps.roots ?_ rfl rfl rfl
    | split

theorem State.stageResult_keeps {s0 : State} {s : State} (id : Nat) (status : Nat) (w6 : Nat) (output : Bytes) (hs : Keeps s0 s) : Keeps s0 (State.stageResult s id status w6 output) := by
  unfold State.stageResult
  repeat' first
    | with_reducible assumption
    | intro _
    | with_reducible apply State.modJob_keeps
    | with_reducible apply State.leaveSealers_keeps
    | with_reducible apply State.releaseUnits_keeps
    | with_reducible apply Keeps.ite
    | with_reducible apply Keeps.foldl
    | with_reducible apply Keeps.of
    | with_reducible refine Keeps.roots ?_ rfl rfl rfl
    | split

theorem State.releaseVoid_keeps {s0 : State} {s : State} (id : Nat) (status : Nat) (hs : Keeps s0 s) : Keeps s0 (State.releaseVoid s id status) := by
  unfold State.releaseVoid
  repeat' first
    | with_reducible assumption
    | intro _
    | with_reducible apply State.modObject_keeps
    | with_reducible apply State.releaseRecord_keeps
    | with_reducible apply Keeps.ite
    | with_reducible apply Keeps.foldl
    | with_reducible apply Keeps.of
    | with_reducible refine Keeps.roots ?_ rfl rfl rfl
    | split

theorem State.failJob_keeps {s0 : State} {s : State} (id : Nat) (status : Nat) (hs : Keeps s0 s) : Keeps s0 (State.failJob s id status) := by
  unfold State.failJob
  repeat' first
    | with_reducible assumption
    | intro _
    | with_reducible apply State.modJob_keeps
    | with_reducible apply State.leaveSealers_keeps
    | with_reducible apply State.releaseUnits_keeps
    | with_reducible apply State.stageResult_keeps
    | with_reducible apply State.releaseVoid_keeps
    | with_reducible apply Keeps.ite
    | with_reducible apply Keeps.foldl
    | with_reducible apply Keeps.of
    | with_reducible refine Keeps.roots ?_ rfl rfl rfl
    | split

theorem State.settleResult_keeps {s0 : State} {s : State} (id : Nat) (hs : Keeps s0 s) : Keeps s0 (State.settleResult s id) := by
  unfold State.settleResult
  repeat' first
    | with_reducible assumption
    | intro _
    | with_reducible apply State.modJob_keeps

theorem State.internalJob_keeps {s0 : State} {s : State} (id : Nat) (hs : Keeps s0 s) : Keeps s0 (State.internalJob s id) := by
  unfold State.internalJob
  repeat' first
    | with_reducible assumption
    | with_reducible apply IssueKeeps.ok
    | with_reducible apply IssueKeeps.stall
    | with_reducible apply IssueKeeps.ended
    | with_reducible apply IssueKeeps.fault
    | with_reducible apply IssueKeeps.ite
    | intro _
    | with_reducible apply State.bump_keeps
    | with_reducible apply State.failJob_keeps
    | with_reducible apply State.settleResult_keeps

theorem State.resendRecord_keeps {s0 : State} {s : State} (id : Nat) (hs : Keeps s0 s) : Keeps s0 (State.resendRecord s id) := by
  unfold State.resendRecord
  repeat' first
    | with_reducible assumption
    | intro _
    | with_reducible apply State.setStream_keeps
    | with_reducible apply Keeps.ite
    | with_reducible apply Keeps.foldl
    | with_reducible apply Keeps.of
    | with_reducible refine Keeps.roots ?_ rfl rfl rfl
    | split

theorem State.restartRestore_keeps {s0 : State} {s : State} (id : Nat) (hs : Keeps s0 s) : Keeps s0 (State.restartRestore s id) := by
  unfold State.restartRestore
  repeat' first
    | with_reducible assumption
    | intro _
    | with_reducible apply State.setStream_keeps
    | with_reducible apply State.modJob_keeps
    | with_reducible apply Keeps.ite
    | with_reducible apply Keeps.foldl
    | with_reducible apply Keeps.of
    | with_reducible refine Keeps.roots ?_ rfl rfl rfl
    | split

theorem State.settleJob_keeps {s0 : State} {s : State} (id : Nat) (hs : Keeps s0 s) : Keeps s0 (State.settleJob s id) := by
  unfold State.settleJob
  repeat' first
    | with_reducible assumption
    | intro _
    | with_reducible apply State.internalJob_keeps
    | with_reducible apply Keeps.ite
    | with_reducible apply Keeps.foldl
    | with_reducible apply Keeps.of
    | with_reducible refine Keeps.roots ?_ rfl rfl rfl
    | split

theorem State.settleKinds_keeps {s0 : State} {s : State} (hs : Keeps s0 s) : Keeps s0 (State.settleKinds s) := by
  unfold State.settleKinds
  repeat' first
    | with_reducible assumption
    | intro _
    | with_reducible apply State.settleJob_keeps
    | with_reducible apply Keeps.ite
    | with_reducible apply Keeps.foldl

theorem State.releaseContexts_keeps {s0 : State} {s : State} (id : Nat) (hs : Keeps s0 s) : Keeps s0 (State.releaseContexts s id) := by
  unfold State.releaseContexts
  repeat' first
    | with_reducible assumption
    | intro _
    | with_reducible apply Keeps.ite
    | with_reducible apply Keeps.foldl
    | with_reducible apply Keeps.of
    | with_reducible refine Keeps.roots ?_ rfl rfl rfl
    | split
    | simp only [keeps_mk]

theorem State.replayJob_keeps {s0 : State} {s : State} (id : Nat) (charged : List UnitId) (hs : Keeps s0 s) : Keeps s0 (State.replayJob s id charged) := by
  unfold State.replayJob
  repeat' first
    | with_reducible assumption
    | with_reducible apply IssueKeeps.ok
    | with_reducible apply IssueKeeps.stall
    | with_reducible apply IssueKeeps.ended
    | with_reducible apply IssueKeeps.fault
    | with_reducible apply IssueKeeps.ite
    | intro _
    | with_reducible apply State.bump_keeps
    | with_reducible apply State.modJob_keeps
    | with_reducible apply State.leaveSealers_keeps
    | with_reducible apply State.releaseUnits_keeps
    | with_reducible apply State.saltNeeded_keeps
    | with_reducible apply State.internalJob_keeps
    | with_reducible apply State.resendRecord_keeps
    | with_reducible apply State.restartRestore_keeps
    | with_reducible apply State.settleJob_keeps
    | with_reducible apply State.releaseContexts_keeps
    | with_reducible apply Keeps.ite
    | with_reducible apply Keeps.foldl
    | with_reducible apply Keeps.of
    | with_reducible refine Keeps.roots ?_ rfl rfl rfl
    | split

theorem State.setTasks_keeps {s0 : State} {s : State} (id : Nat) (f : List LanternTask → List LanternTask) (hs : Keeps s0 s) : Keeps s0 (State.setTasks s id f) := by
  unfold State.setTasks
  repeat' first
    | with_reducible assumption
    | intro _
    | with_reducible apply State.modJob_keeps

theorem State.replayTask_keeps {s0 : State} {s : State} (id : Nat) (t : LanternTask) (charged : List UnitId) (hs : Keeps s0 s) : Keeps s0 (State.replayTask s id t charged) := by
  unfold State.replayTask
  repeat' first
    | with_reducible assumption
    | with_reducible apply IssueKeeps.ok
    | with_reducible apply IssueKeeps.stall
    | with_reducible apply IssueKeeps.ended
    | with_reducible apply IssueKeeps.fault
    | with_reducible apply IssueKeeps.ite
    | intro _
    | with_reducible apply State.bump_keeps
    | with_reducible apply State.releaseUnits_keeps
    | with_reducible apply State.internalJob_keeps
    | with_reducible apply State.settleJob_keeps
    | with_reducible apply State.setTasks_keeps
    | with_reducible apply Keeps.ite
    | with_reducible apply Keeps.foldl
    | with_reducible apply Keeps.of
    | with_reducible refine Keeps.roots ?_ rfl rfl rfl
    | split

theorem State.replayUnder_keeps {s0 : State} {s : State} (id : Nat) (u : UnitId) (charged : List UnitId) (hs : Keeps s0 s) : Keeps s0 (State.replayUnder s id u charged) := by
  unfold State.replayUnder
  repeat' first
    | with_reducible assumption
    | intro _
    | with_reducible apply State.replayJob_keeps
    | with_reducible apply State.replayTask_keeps
    | with_reducible apply Keeps.ite
    | with_reducible apply Keeps.foldl
    | with_reducible apply Keeps.of
    | with_reducible refine Keeps.roots ?_ rfl rfl rfl
    | split

theorem State.replayServed_keeps {s0 : State} {s : State} (u : UnitId) (charged : List UnitId) (hs : Keeps s0 s) : Keeps s0 (State.replayServed s u charged) := by
  unfold State.replayServed
  repeat' first
    | with_reducible assumption
    | intro _
    | with_reducible apply State.replayUnder_keeps
    | with_reducible apply Keeps.ite
    | with_reducible apply Keeps.foldl

theorem State.checkFailed_keeps {s0 : State} {s : State} (id : Nat) (hs : Keeps s0 s) : Keeps s0 (State.checkFailed s id) := by
  unfold State.checkFailed
  repeat' first
    | with_reducible assumption
    | intro _
    | with_reducible apply State.replayJob_keeps
    | with_reducible apply Keeps.ite
    | with_reducible apply Keeps.foldl
    | with_reducible apply Keeps.of
    | with_reducible refine Keeps.roots ?_ rfl rfl rfl
    | split

end Sys2Proof.Machine
end

