-- ==== Sys2Proof/Laws/KeepsReplyOps.lean ====
section
/-! SUPPORT. What no command undoes (Keeps), for the functions of Machine/ReplyOps. -/

namespace Sys2Proof.Machine

theorem State.setRequester_keeps {s0 : State} {s : State} (r : RequesterState) (hs : Keeps s0 s) : Keeps s0 (State.setRequester s r) := by
  unfold State.setRequester
  repeat' first
    | with_reducible assumption
    | intro _
    | with_reducible apply Keeps.ite
    | with_reducible apply Keeps.foldl
    | with_reducible apply Keeps.of
    | with_reducible refine Keeps.roots ?_ rfl rfl rfl
    | split
    | simp only [keeps_mk]

theorem State.respond_keeps {s0 : State} {s : State} (w : Requester) (f : HopFrame) (key : Option Bytes) (r : HopReply) (hs : Keeps s0 s) : Keeps s0 (State.respond s w f key r) := by
  unfold State.respond
  repeat' first
    | with_reducible assumption
    | intro _
    | with_reducible apply State.emit_keeps
    | with_reducible apply State.setRequester_keeps
    | with_reducible apply Keeps.ite

theorem State.respondLate_keeps {s0 : State} {s : State} (w : Requester) (f : HopFrame) (key : Option Bytes) (r : HopReply) (hs : Keeps s0 s) : Keeps s0 (State.respondLate s w f key r) := by
  unfold State.respondLate
  repeat' first
    | with_reducible assumption
    | intro _
    | with_reducible apply State.emit_keeps
    | with_reducible apply State.setRequester_keeps
    | with_reducible apply Keeps.ite
    | with_reducible apply Keeps.foldl
    | with_reducible apply Keeps.of
    | with_reducible refine Keeps.roots ?_ rfl rfl rfl
    | split
    | simp only [keeps_mk]

theorem State.setMailbox_keeps {s0 : State} {s : State} (slc : Nat) (m : Mailbox) (hs : Keeps s0 s) : Keeps s0 (State.setMailbox s slc m) := by
  unfold State.setMailbox
  repeat' first
    | with_reducible assumption
    | intro _
    | with_reducible apply Keeps.ite
    | with_reducible apply Keeps.foldl
    | with_reducible apply Keeps.of
    | with_reducible refine Keeps.roots ?_ rfl rfl rfl
    | split
    | simp only [keeps_mk]

theorem State.endMailbox_keeps {s0 : State} {s : State} (link : Nat) (slc : Nat) (addr : BitVec 32) (result : Nat) (data : Option Bytes) (hs : Keeps s0 s) : Keeps s0 (State.endMailbox s link slc addr result data) := by
  unfold State.endMailbox
  repeat' first
    | with_reducible assumption
    | intro _
    | with_reducible apply State.bump_keeps
    | with_reducible apply State.setMailbox_keeps

theorem State.answer_keeps {s0 : State} {s : State} (path : Path) (index : Nat) (sub : Nat) (result : Nat) (hs : Keeps s0 s) : Keeps s0 (State.answer s path index sub result) := by
  unfold State.answer
  repeat' first
    | with_reducible assumption
    | intro _
    | with_reducible apply State.emit_keeps

end Sys2Proof.Machine
end

