-- ==== Sys2Proof/Laws/KeepsLinkOps.lean ====
section
/-! SUPPORT. What no command undoes (Keeps), for the functions of Machine/LinkOps. -/

namespace Sys2Proof.Machine

theorem State.dropResidency_keeps {s0 : State} {s : State} (session : Nat) (hs : Keeps s0 s) : Keeps s0 (State.dropResidency s session) := by
  unfold State.dropResidency
  repeat' first
    | with_reducible assumption
    | intro _
    | with_reducible apply Keeps.ite
    | with_reducible apply Keeps.foldl
    | with_reducible apply Keeps.of
    | with_reducible refine Keeps.roots ?_ rfl rfl rfl
    | split
    | simp only [keeps_mk]

theorem State.closeContexts_keeps {s0 : State} {s : State} (keep : DigestContext → Bool) (hs : Keeps s0 s) : Keeps s0 (State.closeContexts s keep) := by
  unfold State.closeContexts
  repeat' first
    | with_reducible assumption
    | intro _
    | with_reducible apply Keeps.ite
    | with_reducible apply Keeps.foldl
    | with_reducible apply Keeps.of
    | with_reducible refine Keeps.roots ?_ rfl rfl rfl
    | split
    | simp only [keeps_mk]

theorem State.freeSession_keeps {s0 : State} {s : State} (n : Nat) (hs : Keeps s0 s) : Keeps s0 (State.freeSession s n) := by
  unfold State.freeSession
  repeat' first
    | with_reducible assumption
    | intro _
    | with_reducible apply State.setSession_keeps
    | with_reducible apply State.dropResidency_keeps
    | with_reducible apply State.closeContexts_keeps
    | with_reducible apply Keeps.ite
    | with_reducible apply Keeps.foldl
    | with_reducible apply Keeps.of
    | with_reducible refine Keeps.roots ?_ rfl rfl rfl
    | split
    | simp only [keeps_mk]

theorem State.settleSession_keeps {s0 : State} {s : State} (n : Nat) (hs : Keeps s0 s) : Keeps s0 (State.settleSession s n) := by
  unfold State.settleSession
  repeat' first
    | with_reducible assumption
    | intro _
    | with_reducible apply State.freeSession_keeps
    | with_reducible apply Keeps.ite

theorem State.unpin_keeps {s0 : State} {s : State} (id : Nat) (hs : Keeps s0 s) : Keeps s0 (State.unpin s id) := by
  unfold State.unpin
  repeat' first
    | with_reducible assumption
    | intro _
    | with_reducible apply Keeps.ite
    | with_reducible apply Keeps.foldl
    | with_reducible apply Keeps.of
    | with_reducible refine Keeps.roots ?_ rfl rfl rfl
    | split
    | simp only [keeps_mk]

theorem State.freeBuild_keeps {s0 : State} {s : State} (id : Nat) (hs : Keeps s0 s) : Keeps s0 (State.freeBuild s id) := by
  unfold State.freeBuild
  repeat' first
    | with_reducible assumption
    | intro _
    | with_reducible apply Keeps.ite
    | with_reducible apply Keeps.foldl
    | with_reducible apply Keeps.of
    | with_reducible refine Keeps.roots ?_ rfl rfl rfl
    | split
    | simp only [keeps_mk]

theorem State.abandonJob_keeps {s0 : State} {s : State} (id : Nat) (hs : Keeps s0 s) : Keeps s0 (State.abandonJob s id) := by
  unfold State.abandonJob
  repeat' first
    | with_reducible assumption
    | intro _
    | with_reducible apply State.setSession_keeps
    | with_reducible apply State.dropJob_keeps
    | with_reducible apply State.leaveSealers_keeps
    | with_reducible apply State.releaseUnits_keeps
    | with_reducible apply State.releaseContexts_keeps
    | with_reducible apply State.settleSession_keeps
    | with_reducible apply State.unpin_keeps
    | with_reducible apply State.freeBuild_keeps
    | with_reducible apply Keeps.ite
    | with_reducible apply Keeps.foldl
    | with_reducible apply Keeps.of
    | with_reducible refine Keeps.roots ?_ rfl rfl rfl
    | split

theorem State.streamWaits_keeps {s0 : State} {s : State} (n : Nat) (hs : Keeps s0 s) : Keeps s0 (State.streamWaits s n) := by
  unfold State.streamWaits
  repeat' first
    | with_reducible assumption
    | intro _
    | with_reducible apply State.setStreamState_keeps
    | with_reducible apply Keeps.ite

theorem State.resetEgress_keeps {s0 : State} {s : State} (j : Job) (n : Nat) (hs : Keeps s0 s) : Keeps s0 (State.resetEgress s j n) := by
  unfold State.resetEgress
  repeat' first
    | with_reducible assumption
    | intro _
    | with_reducible apply State.setStream_keeps
    | with_reducible apply State.sendGlide_keeps
    | with_reducible apply State.pump_keeps
    | with_reducible apply State.evaluate_keeps
    | with_reducible apply State.appendRecord_keeps
    | with_reducible apply Keeps.ite

theorem State.resetRestore_keeps {s0 : State} {s : State} (n : Nat) (hs : Keeps s0 s) : Keeps s0 (State.resetRestore s n) := by
  unfold State.resetRestore
  repeat' first
    | with_reducible assumption
    | intro _
    | with_reducible apply State.setStream_keeps
    | with_reducible apply State.sendGlide_keeps
    | with_reducible apply Keeps.ite

theorem State.leaveFeed_keeps {s0 : State} {s : State} (j : Job) (n : Nat) (hs : Keeps s0 s) : Keeps s0 (State.leaveFeed s j n) := by
  unfold State.leaveFeed
  repeat' first
    | with_reducible assumption
    | intro _
    | with_reducible apply State.setStream_keeps
    | with_reducible apply Keeps.ite

theorem State.resetJob_keeps {s0 : State} {s : State} (j : Job) (hs : Keeps s0 s) : Keeps s0 (State.resetJob s j) := by
  unfold State.resetJob
  repeat' first
    | with_reducible assumption
    | intro _
    | with_reducible apply State.setStream_keeps
    | with_reducible apply State.sendError_keeps
    | with_reducible apply State.abandonJob_keeps
    | with_reducible apply State.resetEgress_keeps
    | with_reducible apply State.resetRestore_keeps
    | with_reducible apply State.leaveFeed_keeps
    | with_reducible apply Keeps.ite

theorem State.drainQueue_keeps {s0 : State} {s : State} (g : Nat) (hs : Keeps s0 s) : Keeps s0 (State.drainQueue s g) := by
  unfold State.drainQueue
  repeat' first
    | with_reducible assumption
    | intro _
    | with_reducible apply State.setQueue_keeps
    | with_reducible apply State.setQueueState_keeps

theorem State.answerLate_keeps {s0 : State} {s : State} (index sub : Nat) (r : LateReply) (hs : Keeps s0 s) : Keeps s0 (State.answerLate s index sub r) := by
  unfold State.answerLate
  repeat' first
    | with_reducible assumption
    | intro _
    | with_reducible apply State.respondLate_keeps
    | with_reducible apply State.endMailbox_keeps
    | with_reducible apply State.answer_keeps
    | with_reducible apply Keeps.ite
    | with_reducible apply Keeps.foldl
    | with_reducible apply Keeps.of
    | with_reducible refine Keeps.roots ?_ rfl rfl rfl
    | split

theorem State.writeWindow_keeps {s0 : State} {s : State} (n : Nat) (w : Nat) (v : Nat) (hs : Keeps s0 s) : Keeps s0 (State.writeWindow s n w v) := by
  unfold State.writeWindow
  repeat' first
    | with_reducible assumption
    | intro _
    | with_reducible apply State.setEntry_keeps
    | with_reducible apply State.passCycle_keeps

theorem settleWindowsFor_keeps {s0 : State} (n fuel : Nat) {s : State} (hs : Keeps s0 s) : Keeps s0 (settleWindowsFor n fuel s) := by
  induction fuel generalizing s with
  | zero => exact hs
  | succ _ ih =>
    unfold settleWindowsFor
    split
    · exact hs
    · simp only []
      split
      · exact ih (State.writeWindow_keeps _ _ _ (Keeps.mk hs))
      · exact Keeps.ite hs (ih (State.answerLate_keeps _ _ _ (Keeps.mk hs)))

theorem State.settleWindows_keeps {s0 : State} {s : State} (n : Nat) (hs : Keeps s0 s) : Keeps s0 (State.settleWindows s n) := settleWindowsFor_keeps _ _ hs

theorem State.settleAllWindows_keeps {s0 : State} {s : State} (hs : Keeps s0 s) : Keeps s0 (State.settleAllWindows s) :=
  Keeps.foldl hs fun _ n h => State.settleWindows_keeps n h

theorem State.functionReset_keeps {s0 : State} {s : State} (l : Nat) (hs : Keeps s0 s) : Keeps s0 (State.functionReset s l) := by
  unfold State.functionReset
  repeat' first
    | with_reducible assumption
    | intro _
    | with_reducible apply State.settleAllWindows_keeps
    | with_reducible apply State.bump_keeps
    | with_reducible apply State.clearCounter_keeps
    | with_reducible apply State.setFn_keeps
    | with_reducible apply State.resetJob_keeps
    | with_reducible apply State.drainQueue_keeps
    | with_reducible apply Keeps.ite
    | with_reducible apply Keeps.foldl
    | with_reducible apply Keeps.of
    | with_reducible refine Keeps.roots ?_ rfl rfl rfl
    | split
    | simp only [keeps_mk]

theorem State.settleDrain_keeps {s0 : State} {s : State} (g : Nat) (hs : Keeps s0 s) : Keeps s0 (State.settleDrain s g) := by
  unfold State.settleDrain
  repeat' first
    | with_reducible assumption
    | intro _
    | with_reducible apply State.setEntry_keeps
    | with_reducible apply State.setQueue_keeps
    | with_reducible apply State.setQueueState_keeps
    | with_reducible apply Keeps.ite

end Sys2Proof.Machine
end

