-- ==== Sys2Proof/Laws/KeepsFaultOps.lean ====
section
/-! SUPPORT. What no command undoes (Keeps), for the functions of Machine/FaultOps. -/

namespace Sys2Proof.Machine

theorem State.passCycles_keeps {s0 : State} {s : State} (due : Nat) (hs : Keeps s0 s) : Keeps s0 (State.passCycles s due) := by
  unfold State.passCycles
  repeat' first
    | with_reducible assumption
    | intro _
    | with_reducible apply Keeps.ite
    | with_reducible apply Keeps.foldl
    | with_reducible apply Keeps.of
    | with_reducible refine Keeps.roots ?_ rfl rfl rfl
    | split
    | simp only [keeps_mk]

theorem State.passTicks_keeps {s0 : State} {s : State} (due : Nat) (hs : Keeps s0 s) : Keeps s0 (State.passTicks s due) := by
  unfold State.passTicks
  repeat' first
    | with_reducible assumption
    | intro _
    | with_reducible apply Keeps.ite
    | with_reducible apply Keeps.foldl
    | with_reducible apply Keeps.of
    | with_reducible refine Keeps.roots ?_ rfl rfl rfl
    | split
    | simp only [keeps_mk]

theorem State.recover_keeps {s0 : State} {s : State} (u : UnitId) (hs : Keeps s0 s) : Keeps s0 (State.recover s u) := by
  unfold State.recover
  repeat' first
    | with_reducible assumption
    | intro _
    | with_reducible apply State.replayServed_keeps
    | with_reducible apply Keeps.ite
    | with_reducible apply Keeps.foldl

theorem State.clearFenced_keeps {s0 : State} {s : State} (u : UnitId) (hs : Keeps s0 s) : Keeps s0 (State.clearFenced s u) := by
  unfold State.clearFenced
  repeat' first
    | with_reducible assumption
    | intro _
    | with_reducible apply State.setWick_keeps
    | with_reducible apply State.setTaper_keeps
    | with_reducible apply State.setSealer_keeps
    | with_reducible apply State.fence_keeps
    | with_reducible apply Keeps.ite

theorem State.linkDown_keeps {s0 : State} {s : State} (l : Nat) (hs : Keeps s0 s) : Keeps s0 (State.linkDown s l) := by
  unfold State.linkDown
  repeat' first
    | with_reducible assumption
    | intro _
    | with_reducible apply State.setEntry_keeps
    | with_reducible apply State.functionReset_keeps

theorem State.fenceDependants_keeps {s0 : State} {s : State} (u : UnitId) (hs : Keeps s0 s) : Keeps s0 (State.fenceDependants s u) := by
  unfold State.fenceDependants
  repeat' first
    | with_reducible assumption
    | intro _
    | with_reducible apply State.setEntry_keeps
    | with_reducible apply State.setHealth_keeps
    | with_reducible apply State.replayServed_keeps
    | with_reducible apply State.streamWaits_keeps
    | with_reducible apply State.clearFenced_keeps
    | with_reducible apply State.linkDown_keeps
    | with_reducible apply Keeps.ite
    | with_reducible apply Keeps.foldl
    | with_reducible apply Keeps.of
    | with_reducible refine Keeps.roots ?_ rfl rfl rfl
    | split

theorem State.fence_keeps {s0 : State} {s : State} (u : UnitId) (code : Nat) (time : BitVec 64) (hs : Keeps s0 s) : Keeps s0 (State.fence s u code time) := by
  unfold State.fence
  repeat' first
    | with_reducible assumption
    | with_reducible apply IssueKeeps.ok
    | with_reducible apply IssueKeeps.stall
    | with_reducible apply IssueKeeps.ended
    | with_reducible apply IssueKeeps.fault
    | with_reducible apply IssueKeeps.ite
    | intro _
    | with_reducible apply State.setEntry_keeps
    | with_reducible apply State.bump_keeps
    | with_reducible apply State.setHealth_keeps
    | with_reducible apply State.settleKinds_keeps
    | with_reducible apply State.recover_keeps
    | with_reducible apply State.clearFenced_keeps
    | with_reducible apply State.fenceDependants_keeps
    | with_reducible apply Keeps.ite
    | with_reducible apply Keeps.foldl
    | with_reducible apply Keeps.of
    | with_reducible refine Keeps.roots ?_ rfl rfl rfl
    | split
    | simp only [keeps_mk]

theorem State.fatalStop_keeps {s0 : State} {s : State} (e : FaultEvent) (hs : Keeps s0 s) : Keeps s0 (State.fatalStop s e) := by
  unfold State.fatalStop
  repeat' first
    | with_reducible assumption
    | with_reducible apply IssueKeeps.ok
    | with_reducible apply IssueKeeps.stall
    | with_reducible apply IssueKeeps.ended
    | with_reducible apply IssueKeeps.fault
    | with_reducible apply IssueKeeps.ite
    | intro _
    | with_reducible apply State.setEntry_keeps
    | with_reducible apply State.bump_keeps
    | with_reducible apply State.sendGlide_keeps
    | with_reducible apply Keeps.ite
    | with_reducible apply Keeps.foldl
    | with_reducible apply Keeps.of
    | with_reducible refine Keeps.roots ?_ rfl rfl rfl
    | split
    | simp only [keeps_mk]

theorem State.closeEvent_keeps {s0 : State} {s : State} (e : FaultEvent) (hs : Keeps s0 s) : Keeps s0 (State.closeEvent s e) := by
  unfold State.closeEvent
  repeat' first
    | with_reducible assumption
    | intro _
    | with_reducible apply Keeps.ite
    | with_reducible apply Keeps.foldl
    | with_reducible apply Keeps.of
    | with_reducible refine Keeps.roots ?_ rfl rfl rfl
    | split
    | simp only [keeps_mk]

theorem State.troubled_keeps {s0 : State} {s : State} (hs : Keeps s0 s) : Keeps s0 (State.troubled s) := by
  unfold State.troubled
  repeat' first
    | with_reducible assumption
    | with_reducible apply IssueKeeps.ok
    | with_reducible apply IssueKeeps.stall
    | with_reducible apply IssueKeeps.ended
    | with_reducible apply IssueKeeps.fault
    | with_reducible apply IssueKeeps.ite
    | intro _
    | with_reducible apply State.setEntry_keeps
    | with_reducible apply Keeps.ite
    | with_reducible apply Keeps.foldl
    | with_reducible apply Keeps.of
    | with_reducible refine Keeps.roots ?_ rfl rfl rfl
    | split
    | simp only [keeps_mk]

theorem State.applySeverity_keeps {s0 : State} {s : State} (sev : Nat) (e : FaultEvent) (hs : Keeps s0 s) : Keeps s0 (State.applySeverity s sev e) := by
  unfold State.applySeverity
  repeat' first
    | with_reducible assumption
    | intro _
    | with_reducible apply State.recover_keeps
    | with_reducible apply State.fence_keeps
    | with_reducible apply State.fatalStop_keeps
    | with_reducible apply Keeps.ite

theorem State.selfTestEnds_keeps {s0 : State} {s : State} (u : UnitId) (hs : Keeps s0 s) : Keeps s0 (State.selfTestEnds s u) := by
  unfold State.selfTestEnds
  repeat' first
    | with_reducible assumption
    | intro _
    | with_reducible apply State.bump_keeps
    | with_reducible apply State.setHealth_keeps
    | with_reducible apply State.settleKinds_keeps
    | with_reducible apply Keeps.ite
    | with_reducible apply Keeps.foldl
    | with_reducible apply Keeps.of
    | with_reducible refine Keeps.roots ?_ rfl rfl rfl
    | split

theorem State.putEvent_keeps {s0 : State} {s : State} (e : FaultEvent) (hs : Keeps s0 s) : Keeps s0 (State.putEvent s e) := by
  unfold State.putEvent
  repeat' first
    | with_reducible assumption
    | intro _
    | with_reducible apply Keeps.ite
    | with_reducible apply Keeps.foldl
    | with_reducible apply Keeps.of
    | with_reducible refine Keeps.roots ?_ rfl rfl rfl
    | split
    | simp only [keeps_mk]

theorem State.openEvent_keeps {s0 : State} {s : State} (code : Nat) (accused : UnitId) (detector : UnitId) (slc : UnitId) (detail : Nat) (raw : Nat) (sev : Nat) (ovr : Bool) (hs : Keeps s0 s) : Keeps s0 (State.openEvent s code accused detector slc detail raw sev ovr) := by
  unfold State.openEvent
  repeat' first
    | with_reducible assumption
    | with_reducible apply IssueKeeps.ok
    | with_reducible apply IssueKeeps.stall
    | with_reducible apply IssueKeeps.ended
    | with_reducible apply IssueKeeps.fault
    | with_reducible apply IssueKeeps.ite
    | intro _
    | with_reducible apply State.setEntry_keeps
    | with_reducible apply State.bump_keeps
    | with_reducible apply State.troubled_keeps
    | with_reducible apply State.applySeverity_keeps
    | with_reducible apply State.putEvent_keeps
    | with_reducible apply Keeps.ite
    | with_reducible apply Keeps.foldl
    | with_reducible apply Keeps.of
    | with_reducible refine Keeps.roots ?_ rfl rfl rfl
    | split
    | simp only [keeps_mk]

theorem State.joinEvent_keeps {s0 : State} {s : State} (e : FaultEvent) (raw : Nat) (sev : Nat) (ovr : Bool) (hs : Keeps s0 s) : Keeps s0 (State.joinEvent s e raw sev ovr) := by
  unfold State.joinEvent
  repeat' first
    | with_reducible assumption
    | with_reducible apply IssueKeeps.ok
    | with_reducible apply IssueKeeps.stall
    | with_reducible apply IssueKeeps.ended
    | with_reducible apply IssueKeeps.fault
    | with_reducible apply IssueKeeps.ite
    | intro _
    | with_reducible apply State.bump_keeps
    | with_reducible apply State.recover_keeps
    | with_reducible apply State.troubled_keeps
    | with_reducible apply State.applySeverity_keeps
    | with_reducible apply State.putEvent_keeps
    | with_reducible apply Keeps.ite

theorem State.countFault_keeps {s0 : State} {s : State} (code : Nat) (accused : UnitId) (hs : Keeps s0 s) : Keeps s0 (State.countFault s code accused) := by
  unfold State.countFault
  repeat' first
    | with_reducible assumption
    | intro _
    | with_reducible apply State.setEntry_keeps
    | with_reducible apply State.bump_keeps
    | with_reducible apply State.setWick_keeps
    | with_reducible apply State.setTaper_keeps
    | with_reducible apply Keeps.ite
    | with_reducible apply Keeps.foldl
    | with_reducible apply Keeps.of
    | with_reducible refine Keeps.roots ?_ rfl rfl rfl
    | split
    | simp only [keeps_mk]

theorem State.startSelfTest_keeps {s0 : State} {s : State} (u : UnitId) (hs : Keeps s0 s) : Keeps s0 (State.startSelfTest s u) := by
  unfold State.startSelfTest
  repeat' first
    | with_reducible assumption
    | intro _
    | with_reducible apply State.setHealth_keeps

theorem State.settleRelight_keeps {s0 : State} {s : State} (hs : Keeps s0 s) : Keeps s0 (State.settleRelight s) := by
  unfold State.settleRelight
  repeat' first
    | with_reducible assumption
    | intro _
    | with_reducible apply State.startSelfTest_keeps
    | with_reducible apply Keeps.ite
    | with_reducible apply Keeps.foldl
    | with_reducible apply Keeps.of
    | with_reducible refine Keeps.roots ?_ rfl rfl rfl
    | split
    | simp only [keeps_mk]

theorem State.reportFault_keeps {s0 : State} {s : State} (code : Nat) (accused : UnitId) (detector : UnitId) (slc : UnitId) (detail : Nat) (hs : Keeps s0 s) : Keeps s0 (State.reportFault s code accused detector slc detail) := by
  unfold State.reportFault
  repeat' first
    | with_reducible assumption
    | intro _
    | with_reducible apply State.closeEvent_keeps
    | with_reducible apply State.selfTestEnds_keeps
    | with_reducible apply State.openEvent_keeps
    | with_reducible apply State.joinEvent_keeps
    | with_reducible apply State.countFault_keeps
    | with_reducible apply State.settleRelight_keeps
    | with_reducible apply Keeps.ite
    | with_reducible apply Keeps.foldl
    | with_reducible apply Keeps.of
    | with_reducible refine Keeps.roots ?_ rfl rfl rfl
    | split

theorem State.relight_keeps {s0 : State} {s : State} (u : UnitId) (hs : Keeps s0 s) : Keeps s0 (State.relight s u) := by
  unfold State.relight
  repeat' first
    | with_reducible assumption
    | with_reducible apply IssueKeeps.ok
    | with_reducible apply IssueKeeps.stall
    | with_reducible apply IssueKeeps.ended
    | with_reducible apply IssueKeeps.fault
    | with_reducible apply IssueKeeps.ite
    | intro _
    | with_reducible apply State.setEntry_keeps
    | with_reducible apply State.bump_keeps
    | with_reducible apply State.setHealth_keeps
    | with_reducible apply State.evaluate_keeps
    | with_reducible apply Keeps.ite
    | with_reducible apply Keeps.foldl
    | with_reducible apply Keeps.of
    | with_reducible refine Keeps.roots ?_ rfl rfl rfl
    | split
    | simp only [keeps_mk]

end Sys2Proof.Machine
end

