-- ==== Sys2Proof/Laws/KeepsEntropyOps.lean ====
section
/-! SUPPORT. What no command undoes (Keeps), for the functions of Machine/EntropyOps. -/

namespace Sys2Proof.Machine

theorem State.setEmber_keeps {s0 : State} {s : State} (e : Nat) (x : Ember) (hs : Keeps s0 s) : Keeps s0 (State.setEmber s e x) := by
  unfold State.setEmber
  repeat' first
    | with_reducible assumption
    | intro _
    | with_reducible apply Keeps.ite
    | with_reducible apply Keeps.foldl
    | with_reducible apply Keeps.of
    | with_reducible refine Keeps.roots ?_ rfl rfl rfl
    | split
    | simp only [keeps_mk]

theorem State.entropyFault_keeps {s0 : State} {s : State} (code : Nat) (hs : Keeps s0 s) : Keeps s0 (State.entropyFault s code) := by
  unfold State.entropyFault
  repeat' first
    | with_reducible assumption
    | intro _
    | with_reducible apply State.reportFault_keeps

theorem State.discardSeeds_keeps {s0 : State} {s : State} (hs : Keeps s0 s) : Keeps s0 (State.discardSeeds s) := by
  unfold State.discardSeeds
  repeat' first
    | with_reducible assumption
    | intro _
    | with_reducible apply State.bumpBy_keeps
    | with_reducible apply Keeps.ite
    | with_reducible apply Keeps.foldl
    | with_reducible apply Keeps.of
    | with_reducible refine Keeps.roots ?_ rfl rfl rfl
    | split
    | simp only [keeps_mk]

theorem State.enterGutter_keeps {s0 : State} {s : State} (hs : Keeps s0 s) : Keeps s0 (State.enterGutter s) := by
  unfold State.enterGutter
  repeat' first
    | with_reducible assumption
    | intro _
    | with_reducible apply State.entropyFault_keeps
    | with_reducible apply State.discardSeeds_keeps
    | with_reducible apply Keeps.ite
    | with_reducible apply Keeps.foldl
    | with_reducible apply Keeps.of
    | with_reducible refine Keeps.roots ?_ rfl rfl rfl
    | split
    | simp only [keeps_mk]

theorem State.settleGutter_keeps {s0 : State} {s : State} (hs : Keeps s0 s) : Keeps s0 (State.settleGutter s) := by
  unfold State.settleGutter
  repeat' first
    | with_reducible assumption
    | intro _
    | with_reducible apply State.enterGutter_keeps
    | with_reducible apply Keeps.ite
    | with_reducible apply Keeps.foldl
    | with_reducible apply Keeps.of
    | with_reducible refine Keeps.roots ?_ rfl rfl rfl
    | split
    | simp only [keeps_mk]

theorem State.emberFails_keeps {s0 : State} {s : State} (e : Nat) (hs : Keeps s0 s) : Keeps s0 (State.emberFails s e) := by
  unfold State.emberFails
  repeat' first
    | with_reducible assumption
    | intro _
    | with_reducible apply State.setEmber_keeps
    | with_reducible apply State.entropyFault_keeps

theorem drawHub_keeps {s0 : State} (ns : List Nat) {s : State} (hs : Keeps s0 s) : Keeps s0 (drawHub ns s).2 := by
  induction ns generalizing s with
  | nil => exact hs
  | cons n rest ih =>
    unfold drawHub
    split
    · exact State.generate_keeps_eq (by assumption) hs
    · exact ih (State.generate_keeps_eq (by assumption) hs)

theorem State.openPending_keeps {s0 : State} {s : State} (f : HopFrame) (drawn : List Bytes) (hs : Keeps s0 s) : Keeps s0 (State.openPending s f drawn).2 := Keeps.mk hs

theorem State.drawAuth_keeps {s0 : State} {s : State} (f : HopFrame) (drawn : List Bytes) (due : Nat) (hs : Keeps s0 s) : Keeps s0 (State.drawAuth s f drawn due).2 := by
  have h := drawHub_keeps (authDraws.drop drawn.length) hs
  unfold State.drawAuth
  split
  rename_i e
  rw [e] at h
  split
  · exact State.openPending_keeps _ _ (Keeps.mk h)
  · exact Keeps.mk h

theorem State.serveAuth_keeps {s0 : State} {s : State} (hs : Keeps s0 s) : Keeps s0 (State.serveAuth s) := by
  unfold State.serveAuth
  split
  · exact hs
  · rename_i a _
    have h := State.drawAuth_keeps a.frame a.drawn a.due hs
    split
    rename_i e
    rw [e] at h
    exact Keeps.ite h (State.respondLate_keeps _ _ _ _ h)

theorem State.expireAuth_keeps {s0 : State} {s : State} (hs : Keeps s0 s) : Keeps s0 (State.expireAuth s) := by
  unfold State.expireAuth
  split
  · exact hs
  · exact Keeps.ite hs (State.respondLate_keeps _ _ _ _ (Keeps.mk hs))

theorem State.drawEpochs_keeps {s0 : State} {s : State} (i : Nat) (hs : Keeps s0 s) : Keeps s0 (State.drawEpochs s i) := by
  unfold State.drawEpochs
  repeat' first
    | with_reducible assumption
    | intro _
    | with_reducible apply State.serveAuth_keeps
    | with_reducible apply State.newEpoch_keeps
    | with_reducible apply Keeps.ite
    | with_reducible apply Keeps.foldl

theorem State.placeSeed_keeps {s0 : State} {s : State} (seed : Bytes) (hs : Keeps s0 s) : Keeps s0 (State.placeSeed s seed) := by
  unfold State.placeSeed
  repeat' first
    | with_reducible assumption
    | intro _
    | with_reducible apply State.setDrbg_keeps
    | with_reducible apply State.drawEpochs_keeps
    | with_reducible apply Keeps.ite
    | with_reducible apply Keeps.foldl
    | with_reducible apply Keeps.of
    | with_reducible refine Keeps.roots ?_ rfl rfl rfl
    | split
    | simp only [keeps_mk]

theorem State.takeBlock_keeps {s0 : State} {s : State} (e : Nat) (samples : Bytes) (hs : Keeps s0 s) : Keeps s0 (State.takeBlock s e samples) := by
  unfold State.takeBlock
  repeat' first
    | with_reducible assumption
    | intro _
    | with_reducible apply State.placeSeed_keeps
    | with_reducible apply Keeps.ite
    | with_reducible apply Keeps.foldl
    | with_reducible apply Keeps.of
    | with_reducible refine Keeps.roots ?_ rfl rfl rfl
    | split
    | simp only [keeps_mk]

theorem State.entropyEnds_keeps {s0 : State} {s : State} (id : Nat) (hs : Keeps s0 s) : Keeps s0 (State.entropyEnds s id) := by
  unfold State.entropyEnds
  repeat' first
    | with_reducible assumption
    | intro _
    | with_reducible apply State.bump_keeps
    | with_reducible apply State.failJob_keeps

theorem State.waitEntropy_keeps {s0 : State} {s : State} (id : Nat) (hs : Keeps s0 s) : Keeps s0 (State.waitEntropy s id) := by
  unfold State.waitEntropy
  repeat' first
    | with_reducible assumption
    | intro _
    | with_reducible apply State.modJob_keeps
    | with_reducible apply State.entropyEnds_keeps
    | with_reducible apply Keeps.ite

theorem State.keyShrouds_keeps {s0 : State} {s : State} (c : Nat) (hs : Keeps s0 s) : Keeps s0 (State.keyShrouds s c) := by
  unfold State.keyShrouds
  repeat' first
    | with_reducible assumption
    | intro _
    | refine State.generate_keeps_eq (by assumption) ?_
    | with_reducible apply State.setWick_keeps
    | with_reducible apply State.generate_keeps
    | with_reducible apply Keeps.ite
    | with_reducible apply Keeps.foldl

theorem State.settleStart_keeps {s0 : State} {s : State} (hs : Keeps s0 s) : Keeps s0 (State.settleStart s) := by
  unfold State.settleStart
  repeat' first
    | with_reducible assumption
    | intro _
    | with_reducible apply Keeps.ite
    | with_reducible apply Keeps.foldl
    | with_reducible apply Keeps.of
    | with_reducible refine Keeps.roots ?_ rfl rfl rfl
    | split
    | simp only [keeps_mk]

theorem State.instantiate_keeps {s0 : State} {s : State} (i : Nat) (hs : Keeps s0 s) : Keeps s0 (State.instantiate s i) := by
  unfold State.instantiate
  repeat' first
    | with_reducible assumption
    | intro _
    | with_reducible apply State.setDrbg_keeps
    | with_reducible apply State.drawEpochs_keeps
    | with_reducible apply State.keyShrouds_keeps
    | with_reducible apply State.settleStart_keeps
    | with_reducible apply Keeps.ite
    | with_reducible apply Keeps.foldl
    | with_reducible apply Keeps.of
    | with_reducible refine Keeps.roots ?_ rfl rfl rfl
    | split
    | simp only [keeps_mk]

theorem State.drawCk_keeps {s0 : State} {s : State} (hs : Keeps s0 s) : OptKeeps s0 (State.drawCk s) := by
  unfold State.drawCk
  repeat' first
    | with_reducible assumption
    | with_reducible apply OptKeeps.ite
    | with_reducible apply OptKeeps.some
    | with_reducible exact OptKeeps.none
    | refine State.generate_keeps_eq (by assumption) ?_
    | with_reducible apply State.bump_keeps
    | with_reducible apply State.generate_keeps
    | with_reducible apply Keeps.ite
    | with_reducible apply Keeps.foldl
    | with_reducible apply Keeps.of
    | with_reducible refine Keeps.roots ?_ rfl rfl rfl
    | split
    | simp only []
    | intro _
    | simp only [keeps_mk]

theorem State.drawCk_keeps_eq {s0 : State} {s : State} {t_ : State} (e_ : State.drawCk s = some t_) (hs : Keeps s0 s) : Keeps s0 t_ := by
  have h_ : OptKeeps s0 (State.drawCk s) := by apply State.drawCk_keeps <;> assumption
  exact h_ _ e_

theorem State.eraseCk_keeps {s0 : State} {s : State} (hs : Keeps s0 s) : Keeps s0 (State.eraseCk s) := by
  unfold State.eraseCk
  repeat' first
    | with_reducible assumption
    | intro _
    | with_reducible apply State.setEntry_keeps
    | with_reducible apply Keeps.ite
    | with_reducible apply Keeps.foldl
    | with_reducible apply Keeps.of
    | with_reducible refine Keeps.roots ?_ rfl rfl rfl
    | split
    | simp only [keeps_mk]

theorem State.writeRecord_keeps {s0 : State} {s : State} (slot : Nat) (k : VaultKey) (hs : Keeps s0 s) : Keeps s0 (State.writeRecord s slot k) := by
  unfold State.writeRecord
  repeat' first
    | with_reducible assumption
    | intro _
    | with_reducible apply Keeps.ite
    | with_reducible apply Keeps.foldl
    | with_reducible apply Keeps.of
    | with_reducible refine Keeps.roots ?_ rfl rfl rfl
    | split
    | simp only [keeps_mk]

theorem State.enterKey_keeps {s0 : State} {s : State} (slot : Nat) (k : VaultKey) (hs : Keeps s0 s) : Keeps s0 (State.enterKey s slot k) := by
  unfold State.enterKey
  repeat' first
    | with_reducible assumption
    | intro _
    | with_reducible apply State.setVaultKey_keeps
    | with_reducible apply State.writeRecord_keeps
    | with_reducible apply Keeps.ite

theorem State.emptySlot_keeps {s0 : State} {s : State} (slot : Nat) (hs : Keeps s0 s) : Keeps s0 (State.emptySlot s slot) := by
  unfold State.emptySlot
  repeat' first
    | with_reducible assumption
    | intro _
    | with_reducible apply State.setVaultKey_keeps
    | with_reducible apply Keeps.ite
    | with_reducible apply Keeps.foldl
    | with_reducible apply Keeps.of
    | with_reducible refine Keeps.roots ?_ rfl rfl rfl
    | split
    | simp only [keeps_mk]

theorem State.reloadVault_keeps {s0 : State} {s : State} (hs : Keeps s0 s) : Keeps s0 (State.reloadVault s) := by
  unfold State.reloadVault
  repeat' first
    | with_reducible assumption
    | intro _
    | with_reducible apply State.bump_keeps
    | with_reducible apply State.setVaultKey_keeps
    | with_reducible apply Keeps.ite
    | with_reducible apply Keeps.foldl
    | with_reducible apply Keeps.of
    | with_reducible refine Keeps.roots ?_ rfl rfl rfl
    | split
    | simp only [keeps_mk]

end Sys2Proof.Machine
end

