-- ==== Sys2Proof/Laws/KeepsResetOps.lean ====
section
/-! SUPPORT. What no command undoes (Keeps), for the functions of Machine/ResetOps. -/

namespace Sys2Proof.Machine

theorem State.handover_keeps {s0 : State} {s : State} (v : Option Server) (hs : Keeps s0 s) : Keeps s0 (State.handover s v) := by
  unfold State.handover
  repeat' first
    | with_reducible assumption
    | intro _
    | with_reducible apply Keeps.ite
    | with_reducible apply Keeps.foldl
    | with_reducible apply Keeps.of
    | with_reducible refine Keeps.roots ?_ rfl rfl rfl
    | split
    | simp only [keeps_mk]

theorem State.eraseContexts_keeps {s0 : State} {s : State} (hs : Keeps s0 s) : Keeps s0 (State.eraseContexts s) := by
  unfold State.eraseContexts
  repeat' first
    | with_reducible assumption
    | intro _
    | with_reducible apply State.closeContexts_keeps

theorem State.dropCaches_keeps {s0 : State} {s : State} (hs : Keeps s0 s) : Keeps s0 (State.dropCaches s) := by
  unfold State.dropCaches
  repeat' first
    | with_reducible assumption
    | intro _
    | with_reducible apply State.bumpBy_keeps
    | with_reducible apply Keeps.ite
    | with_reducible apply Keeps.foldl
    | with_reducible apply Keeps.of
    | with_reducible refine Keeps.roots ?_ rfl rfl rfl
    | split
    | simp only [keeps_mk]

theorem State.eraseStores_keeps {s0 : State} {s : State} (hs : Keeps s0 s) : Keeps s0 (State.eraseStores s) := by
  unfold State.eraseStores
  repeat' first
    | with_reducible assumption
    | intro _
    | with_reducible apply State.eraseContexts_keeps
    | with_reducible apply Keeps.ite
    | with_reducible apply Keeps.foldl
    | with_reducible apply Keeps.of
    | with_reducible refine Keeps.roots ?_ rfl rfl rfl
    | split
    | simp only [keeps_mk]

theorem State.snuffJob_keeps {s0 : State} {s : State} (j : Job) (hs : Keeps s0 s) : Keeps s0 (State.snuffJob s j) := by
  unfold State.snuffJob
  repeat' first
    | with_reducible assumption
    | intro _
    | with_reducible apply State.modJob_keeps
    | with_reducible apply State.failJob_keeps
    | with_reducible apply Keeps.ite

theorem State.snuff_keeps {s0 : State} {s : State} (hs : Keeps s0 s) : Keeps s0 (State.snuff s) := by
  unfold State.snuff
  repeat' first
    | with_reducible assumption
    | intro _
    | with_reducible apply State.freeSession_keeps
    | with_reducible apply State.dropCaches_keeps
    | with_reducible apply State.eraseStores_keeps
    | with_reducible apply State.snuffJob_keeps
    | with_reducible apply Keeps.ite
    | with_reducible apply Keeps.foldl
    | with_reducible apply Keeps.of
    | with_reducible refine Keeps.roots ?_ rfl rfl rfl
    | split
    | simp only [keeps_mk]

theorem State.hubOff_keeps {s0 : State} {s : State} (hs : Keeps s0 s) : Keeps s0 (State.hubOff s) := by
  have h := State.dropCaches_keeps (State.eraseStores_keeps hs)
  exact State.handover_keeps _ (State.setEntry_keeps _ _ (Keeps.mk (Keeps.of (Keeps.mk (Keeps.lost h fun w => Table.wf_filter _ w)))))

theorem State.recordWake_keeps {s0 : State} {s : State} (source : Nat) (unit : UnitId) (slc : UnitId) (pin : Nat) (hs : Keeps s0 s) : Keeps s0 (State.recordWake s source unit slc pin) := by
  unfold State.recordWake
  repeat' first
    | with_reducible assumption
    | intro _
    | with_reducible apply State.setEntry_keeps
    | with_reducible apply Keeps.ite

theorem State.logAlarm_keeps {s0 : State} {s : State} (src : Nat) (response : Nat) (flags : Nat) (detail : Nat) (hs : Keeps s0 s) : Keeps s0 (State.logAlarm s src response flags detail) := by
  unfold State.logAlarm
  repeat' first
    | with_reducible assumption
    | intro _
    | with_reducible apply State.setEntry_keeps

theorem State.halt_keeps {s0 : State} {s : State} (hs : Keeps s0 s) : Keeps s0 (State.halt s) := by
  unfold State.halt
  repeat' first
    | with_reducible assumption
    | intro _
    | with_reducible apply State.setEntry_keeps
    | with_reducible apply State.emit_keeps
    | with_reducible apply State.hubOff_keeps
    | with_reducible apply Keeps.ite
    | with_reducible apply Keeps.foldl
    | with_reducible apply Keeps.of
    | with_reducible refine Keeps.roots ?_ rfl rfl rfl
    | split
    | simp only [keeps_mk]

theorem State.endSnuff_keeps {s0 : State} {s : State} (hs : Keeps s0 s) : Keeps s0 (State.endSnuff s) := by
  unfold State.endSnuff
  repeat' first
    | with_reducible assumption
    | intro _
    | with_reducible apply State.setEntry_keeps
    | with_reducible apply State.bump_keeps
    | with_reducible apply State.halt_keeps
    | with_reducible apply Keeps.ite
    | with_reducible apply Keeps.foldl
    | with_reducible apply Keeps.of
    | with_reducible refine Keeps.roots ?_ rfl rfl rfl
    | split
    | simp only [keeps_mk]

theorem State.settleSnuff_keeps {s0 : State} {s : State} (hs : Keeps s0 s) : Keeps s0 (State.settleSnuff s) := by
  unfold State.settleSnuff
  repeat' first
    | with_reducible assumption
    | intro _
    | with_reducible apply State.endSnuff_keeps
    | with_reducible apply Keeps.ite

theorem State.deviceReset_keeps {s0 : State} {s : State} (cause : Nat) (hs : Keeps s0 s) : Keeps s0 (State.deviceReset s cause) := by
  unfold State.deviceReset
  repeat' first
    | with_reducible assumption
    | intro _
    | with_reducible apply State.setEntry_keeps
    | with_reducible apply State.bump_keeps
    | with_reducible apply State.emit_keeps
    | with_reducible apply State.hubOff_keeps
    | with_reducible apply State.recordWake_keeps
    | with_reducible apply State.endSnuff_keeps
    | with_reducible apply Keeps.ite
    | with_reducible apply Keeps.foldl
    | with_reducible apply Keeps.of
    | with_reducible refine Keeps.roots ?_ rfl rfl rfl
    | split
    | simp only [keeps_mk]

theorem State.alarmResponse_keeps {s0 : State} {s : State} (response : Nat) (hs : Keeps s0 s) : Keeps s0 (State.alarmResponse s response) := by
  unfold State.alarmResponse
  repeat' first
    | with_reducible assumption
    | intro _
    | with_reducible apply State.snuff_keeps
    | with_reducible apply State.halt_keeps
    | with_reducible apply Keeps.ite
    | with_reducible apply Keeps.foldl
    | with_reducible apply Keeps.of
    | with_reducible refine Keeps.roots ?_ rfl rfl rfl
    | split
    | simp only [keeps_mk]

theorem State.alarm_keeps {s0 : State} {s : State} (src : Nat) (detail : Nat) (hs : Keeps s0 s) : Keeps s0 (State.alarm s src detail) := by
  unfold State.alarm
  repeat' first
    | with_reducible assumption
    | intro _
    | with_reducible apply State.setEntry_keeps
    | with_reducible apply State.setEntryBit_keeps
    | with_reducible apply State.bump_keeps
    | with_reducible apply State.eraseCk_keeps
    | with_reducible apply State.logAlarm_keeps
    | with_reducible apply State.settleSnuff_keeps
    | with_reducible apply State.alarmResponse_keeps
    | with_reducible apply Keeps.ite
    | with_reducible apply Keeps.foldl
    | with_reducible apply Keeps.of
    | with_reducible refine Keeps.roots ?_ rfl rfl rfl
    | split
    | simp only [keeps_mk]

theorem State.powerUps_keeps {s0 : State} {s : State} (ds : List Nat) (hs : Keeps s0 s) : Keeps s0 (State.powerUps s ds) := by
  unfold State.powerUps
  repeat' first
    | with_reducible assumption
    | intro _
    | with_reducible apply State.bump_keeps
    | with_reducible apply Keeps.ite
    | with_reducible apply Keeps.foldl

theorem State.keyShroud_keeps {s0 : State} {s : State} (c : Nat) (w : Nat) (hs : Keeps s0 s) : Keeps s0 (State.keyShroud s c w) := by
  unfold State.keyShroud
  repeat' first
    | with_reducible assumption
    | intro _
    | refine State.generate_keeps_eq (by assumption) ?_
    | with_reducible apply State.setWick_keeps
    | with_reducible apply State.generate_keeps

theorem State.sconceOn_keeps {s0 : State} {s : State} (c : Nat) (hs : Keeps s0 s) : Keeps s0 (State.sconceOn s c) := by
  unfold State.sconceOn
  repeat' first
    | with_reducible assumption
    | intro _
    | with_reducible apply State.setEntry_keeps
    | with_reducible apply State.powerUps_keeps
    | with_reducible apply State.keyShroud_keeps
    | with_reducible apply Keeps.ite
    | with_reducible apply Keeps.foldl

theorem State.sconceOff_keeps {s0 : State} {s : State} (c : Nat) (hs : Keeps s0 s) : Keeps s0 (State.sconceOff s c) := by
  unfold State.sconceOff
  repeat' first
    | with_reducible assumption
    | intro _
    | with_reducible apply State.setEntry_keeps
    | with_reducible apply State.setWick_keeps
    | with_reducible apply Keeps.ite
    | with_reducible apply Keeps.foldl

theorem State.zeroEpochs_keeps {s0 : State} {s : State} (hs : Keeps s0 s) : Keeps s0 (State.zeroEpochs s) := by
  exact Keeps.mk (Keeps.entries hs fun w => Table.wf_filter _ w)

theorem State.wakeLow_keeps {s0 : State} {s : State} (hs : Keeps s0 s) : Keeps s0 (State.wakeLow s) := by
  unfold State.wakeLow
  repeat' first
    | with_reducible assumption
    | intro _
    | with_reducible apply State.streamWaits_keeps
    | with_reducible apply State.powerUps_keeps
    | with_reducible apply State.sconceOn_keeps
    | with_reducible apply Keeps.ite
    | with_reducible apply Keeps.foldl
    | with_reducible apply Keeps.of
    | with_reducible refine Keeps.roots ?_ rfl rfl rfl
    | split
    | simp only [keeps_mk]

end Sys2Proof.Machine
end

