-- ==== Sys2Proof/Laws/KeepsBootOps.lean ====
section
/-! SUPPORT. What no command undoes (Keeps), for the functions of Machine/BootOps. -/

namespace Sys2Proof.Machine

theorem State.setFlash_keeps {s0 : State} {s : State} (k : Nat) (m : List Host.Cell) (hs : Keeps s0 s)
    (hm : Memory.wf erasedByte s.flash0 → Memory.wf erasedByte s.flash1 → Memory.wf erasedByte m) : Keeps s0 (State.setFlash s k m) := by
  unfold State.setFlash
  split <;> rw [keeps_mk]
  · exact Keeps.flash hs fun a b => ⟨hm a b, b⟩
  · exact Keeps.flash hs fun a b => ⟨a, hm a b⟩

theorem State.boardImage_keeps {s0 : State} {s : State} (k : Nat) (b : Option Bytes) (hs : Keeps s0 s) : Keeps s0 (State.boardImage s k b) := by
  unfold State.boardImage
  split
  · exact State.setFlash_keeps _ _ hs fun _ _ => Memory.wf_write _ _ _ _ (Table.wf_nil _)
  · exact hs

theorem State.repairFuses_keeps {s0 : State} {s : State} (m : BitVec 16) (hs : Keeps s0 s) : Keeps s0 (State.repairFuses s m) := by
  exact Keeps.mk (Keeps.blown m m m hs rfl rfl rfl)

theorem State.readFuses_keeps {s0 : State} {s : State} (hs : Keeps s0 s) : Keeps s0 (State.readFuses s) := by
  unfold State.readFuses
  repeat' first
    | with_reducible assumption
    | intro _
    | with_reducible apply Keeps.ite
    | with_reducible apply Keeps.foldl
    | with_reducible apply Keeps.of
    | with_reducible refine Keeps.roots ?_ rfl rfl rfl
    | split
    | simp only [keeps_mk]

theorem State.runImage_keeps {s0 : State} {s : State} (k : Nat) (img : Bytes) (hs : Keeps s0 s) : Keeps s0 (State.runImage s k img) := by
  unfold State.runImage
  repeat' first
    | with_reducible assumption
    | intro _
    | with_reducible apply State.setEntry_keeps
    | with_reducible apply State.bumpBy_keeps
    | with_reducible apply State.bump_keeps
    | with_reducible apply Keeps.ite
    | with_reducible apply Keeps.foldl
    | with_reducible apply Keeps.of
    | with_reducible refine Keeps.roots ?_ rfl rfl rfl
    | split
    | simp only [keeps_mk]

theorem State.applyPatch_keeps {s0 : State} {s : State} (img : Bytes) (hs : Keeps s0 s) : Keeps s0 (State.applyPatch s img) := by
  unfold State.applyPatch
  repeat' first
    | with_reducible assumption
    | intro _
    | with_reducible apply State.setEntry_keeps
    | with_reducible apply State.bump_keeps
    | with_reducible apply Keeps.ite
    | with_reducible apply Keeps.foldl
    | with_reducible apply Keeps.of
    | with_reducible refine Keeps.roots ?_ rfl rfl rfl
    | split
    | simp only [keeps_mk]

theorem State.placeLibrary_keeps {s0 : State} {s : State} (img : Bytes) (hs : Keeps s0 s) : Keeps s0 (State.placeLibrary s img) := by
  unfold State.placeLibrary
  repeat' first
    | with_reducible assumption
    | intro _
    | with_reducible apply State.setEntry_keeps
    | with_reducible apply Keeps.ite
    | with_reducible apply Keeps.foldl
    | with_reducible apply Keeps.of
    | with_reducible refine Keeps.roots ?_ rfl rfl rfl
    | split
    | simp only [keeps_mk]

theorem State.haveCk_keeps {s0 : State} {s : State} (hs : Keeps s0 s) : OptKeeps s0 (State.haveCk s) := by
  unfold State.haveCk
  repeat' first
    | with_reducible assumption
    | with_reducible apply OptKeeps.ite
    | with_reducible apply OptKeeps.some
    | with_reducible exact OptKeeps.none
    | refine State.drawCk_keeps_eq (by assumption) ?_
    | with_reducible apply State.drawCk_keeps
    | simp only []

theorem State.haveCk_keeps_eq {s0 : State} {s : State} {t_ : State} (e_ : State.haveCk s = some t_) (hs : Keeps s0 s) : Keeps s0 t_ := by
  have h_ : OptKeeps s0 (State.haveCk s) := by apply State.haveCk_keeps <;> assumption
  exact h_ _ e_

theorem State.formKeys_keeps {s0 : State} {s : State} (hs : Keeps s0 s) : Keeps s0 (State.formKeys s) := by
  unfold State.formKeys
  repeat' first
    | with_reducible assumption
    | intro _
    | with_reducible apply State.setEntry_keeps
    | with_reducible apply State.reloadVault_keeps
    | with_reducible apply Keeps.ite
    | with_reducible apply Keeps.foldl
    | with_reducible apply Keeps.of
    | with_reducible refine Keeps.roots ?_ rfl rfl rfl
    | split
    | simp only [keeps_mk]

theorem State.drawVaultSession_keeps {s0 : State} {s : State} (hs : Keeps s0 s) : Keeps s0 (State.drawVaultSession s) := by
  unfold State.drawVaultSession
  repeat' first
    | with_reducible assumption
    | intro _
    | refine State.generate_keeps_eq (by assumption) ?_
    | with_reducible apply State.generate_keeps
    | with_reducible apply Keeps.ite
    | with_reducible apply Keeps.foldl
    | with_reducible apply Keeps.of
    | with_reducible refine Keeps.roots ?_ rfl rfl rfl
    | split
    | simp only [keeps_mk]

theorem State.retain_keeps {s0 : State} {s : State} (hs : Keeps s0 s) : Keeps s0 (State.retain s) := by
  unfold State.retain
  repeat' first
    | with_reducible assumption
    | intro _
    | with_reducible apply Keeps.ite
    | with_reducible apply Keeps.foldl
    | with_reducible apply Keeps.of
    | with_reducible refine Keeps.roots ?_ rfl rfl rfl
    | split
    | simp only [keeps_mk]

theorem State.restoreSlot_keeps {s0 : State} {s : State} (g : Nat) (v : Nat) (hs : Keeps s0 s) : Keeps s0 (State.restoreSlot s g v) := by
  have fold : ∀ (l : List (Nat × Nat)) (p : State × Nat), Keeps s0 p.1 →
      Keeps s0 (l.foldl (fun (p : State × Nat) k => (p.1.setEntry k.1 (p.2 % 256 ^ k.2), p.2 / 256 ^ k.2)) p).1 := by
    intro l
    induction l with
    | nil => exact fun _ h => h
    | cons a r ih => exact fun p h => ih _ (State.setEntry_keeps _ _ h)
  exact fold _ (s, v) hs

theorem State.restoreRetention_keeps {s0 : State} {s : State} (hs : Keeps s0 s) : Keeps s0 (State.restoreRetention s) := by
  unfold State.restoreRetention
  repeat' first
    | with_reducible assumption
    | intro _
    | with_reducible apply State.bump_keeps
    | with_reducible apply State.restoreSlot_keeps
    | with_reducible apply Keeps.ite
    | with_reducible apply Keeps.foldl
    | with_reducible apply Keeps.of
    | with_reducible refine Keeps.roots ?_ rfl rfl rfl
    | split
    | simp only [keeps_mk]

theorem State.trySlot_keeps {s0 : State} {s : State} (readOk : Bool) (k : Nat) (hs : Keeps s0 s) : Keeps s0 (State.trySlot s readOk k).2 := by
  unfold State.trySlot
  repeat' first
    | with_reducible assumption
    | intro _
    | with_reducible apply State.setEntry_keeps

theorem State.trySlot_keeps_eq {s0 : State} {s : State} {readOk : Bool} {k : Nat} {x_ : Nat} {t_ : State} (e_ : State.trySlot s readOk k = (x_, t_)) (hs : Keeps s0 s) : Keeps s0 t_ := by
  have h_ : Keeps s0 (State.trySlot s readOk k).2 := by apply State.trySlot_keeps <;> assumption
  rw [e_] at h_
  exact h_

theorem State.chooseSlot_keeps {s0 : State} {s : State} (ok0 : Bool) (ok1 : Bool) (y0 : List Nat) (hs : Keeps s0 s) : Keeps s0 (State.chooseSlot s ok0 ok1 y0).2 := by
  induction y0 generalizing s with
  | nil => exact hs
  | cons k rest ih =>
    unfold State.chooseSlot
    split
    · exact State.trySlot_keeps_eq (by assumption) hs
    · exact ih (State.trySlot_keeps_eq (by assumption) hs)

theorem State.chooseSlot_keeps_eq {s0 : State} {s : State} {ok0 : Bool} {ok1 : Bool} {y0 : List Nat} {x_ : Option Nat} {t_ : State} (e_ : State.chooseSlot s ok0 ok1 y0 = (x_, t_)) (hs : Keeps s0 s) : Keeps s0 t_ := by
  have h_ : Keeps s0 (State.chooseSlot s ok0 ok1 y0).2 := by apply State.chooseSlot_keeps <;> assumption
  rw [e_] at h_
  exact h_

theorem State.startFirmware_keeps {s0 : State} {s : State} (img : Bytes) (hs : Keeps s0 s) : Keeps s0 (State.startFirmware s img) := by
  unfold State.startFirmware
  repeat' first
    | with_reducible assumption
    | intro _
    | with_reducible apply State.handover_keeps
    | with_reducible apply State.applyPatch_keeps
    | with_reducible apply State.placeLibrary_keeps
    | with_reducible apply Keeps.ite
    | with_reducible apply Keeps.foldl
    | with_reducible apply Keeps.of
    | with_reducible refine Keeps.roots ?_ rfl rfl rfl
    | split
    | simp only [keeps_mk]

theorem State.boot_keeps {s0 : State} {s : State} (ok0 : Bool) (ok1 : Bool) (b0 : Option Bytes) (b1 : Option Bytes) (hs : Keeps s0 s) : Keeps s0 (State.boot s ok0 ok1 b0 b1) := by
  unfold State.boot
  refine Keeps.ite hs ?_
  have h1 := State.readFuses_keeps (State.boardImage_keeps 1 b1 (State.boardImage_keeps 0 b0 hs))
  simp only []
  generalize majority ((s.boardImage 0 b0).boardImage 1 b1).readFuses.roots.c1 ((s.boardImage 0 b0).boardImage 1 b1).readFuses.roots.c2 ((s.boardImage 0 b0).boardImage 1 b1).readFuses.roots.c3 = m
  have h2 : Keeps s0 (if lifeCode m = m.toNat then ((s.boardImage 0 b0).boardImage 1 b1).readFuses.repairFuses m else ((s.boardImage 0 b0).boardImage 1 b1).readFuses) := Keeps.ite (State.repairFuses_keeps m h1) h1
  refine Keeps.ite h2 ?_
  split
  · exact State.handover_keeps _ (State.chooseSlot_keeps_eq (by assumption) h2)
  · rename_i k t e
    have h3 := State.chooseSlot_keeps_eq e h2
    have h4 := State.runImage_keeps k (t.slotImage k) h3
    refine Keeps.ite (State.startFirmware_keeps _ h4) (Keeps.ite ?_ ?_)
    · split
      · exact hs
      · rename_i u e2
        have h5 := State.haveCk_keeps_eq e2 h4
        exact Keeps.mk (Keeps.of (State.restoreRetention_keeps (State.startFirmware_keeps _ (State.drawVaultSession_keeps (State.formKeys_keeps h5)))))
    · exact Keeps.mk (Keeps.of (State.restoreRetention_keeps (State.startFirmware_keeps _ (State.drawVaultSession_keeps h4))))

theorem State.startLinks_keeps {s0 : State} {s : State} (hs : Keeps s0 s) : Keeps s0 (State.startLinks s) := by
  unfold State.startLinks
  repeat' first
    | with_reducible assumption
    | intro _
    | with_reducible apply State.setEntry_keeps
    | with_reducible apply State.bump_keeps
    | with_reducible apply Keeps.ite
    | with_reducible apply Keeps.foldl

theorem State.startOctets_keeps {s0 : State} {s : State} (hs : Keeps s0 s) : Keeps s0 (State.startOctets s) := by
  unfold State.startOctets
  repeat' first
    | with_reducible assumption
    | intro _
    | with_reducible apply State.setEntry_keeps
    | with_reducible apply Keeps.ite
    | with_reducible apply Keeps.foldl

theorem State.bindUnits_keeps {s0 : State} {s : State} (hs : Keeps s0 s) : Keeps s0 (State.bindUnits s) := by
  unfold State.bindUnits
  repeat' first
    | with_reducible assumption
    | intro _
    | with_reducible apply Keeps.ite
    | with_reducible apply Keeps.foldl
    | with_reducible apply Keeps.of
    | with_reducible refine Keeps.roots ?_ rfl rfl rfl
    | split
    | simp only [keeps_mk]

theorem State.startStream_keeps {s0 : State} {s : State} (n : Nat) (hs : Keeps s0 s) : Keeps s0 (State.startStream s n) := by
  unfold State.startStream
  repeat' first
    | with_reducible assumption
    | intro _
    | with_reducible apply State.setStream_keeps
    | with_reducible apply State.setStreamState_keeps
    | with_reducible apply State.newEpoch_keeps

theorem State.enterLit_keeps {s0 : State} {s : State} (hs : Keeps s0 s) : Keeps s0 (State.enterLit s) := by
  unfold State.enterLit
  repeat' first
    | with_reducible assumption
    | intro _
    | with_reducible apply State.setEntry_keeps
    | with_reducible apply State.bumpBy_keeps
    | with_reducible apply State.setFn_keeps
    | with_reducible apply State.powerUps_keeps
    | with_reducible apply State.sconceOn_keeps
    | with_reducible apply State.sconceOff_keeps
    | with_reducible apply State.zeroEpochs_keeps
    | with_reducible apply State.startLinks_keeps
    | with_reducible apply State.startOctets_keeps
    | with_reducible apply State.bindUnits_keeps
    | with_reducible apply State.startStream_keeps
    | with_reducible apply Keeps.ite
    | with_reducible apply Keeps.foldl
    | with_reducible apply Keeps.of
    | with_reducible refine Keeps.roots ?_ rfl rfl rfl
    | split
    | simp only [keeps_mk]

theorem State.destroyKeys_keeps {s0 : State} {s : State} (r : Bytes) (hs : Keeps s0 s) : Keeps s0 (State.destroyKeys s r) := by
  unfold State.destroyKeys
  repeat' first
    | with_reducible assumption
    | intro _
    | with_reducible apply State.eraseCk_keeps
    | with_reducible apply State.snuff_keeps
    | with_reducible apply State.endSnuff_keeps
    | with_reducible apply Keeps.ite
    | with_reducible apply Keeps.foldl
    | with_reducible apply Keeps.of
    | with_reducible refine Keeps.roots ?_ rfl rfl rfl
    | split
    | simp only [keeps_mk]

theorem State.blow_keeps {s0 : State} {s : State} (p : Nat × Nat) (hs : Keeps s0 s) : Keeps s0 (State.blow s p) := by
  have e : ∀ c : BitVec 16, c = c ||| 0#16 := fun c => by simp
  unfold State.blow
  rw [keeps_mk]
  split
  · exact Keeps.blown _ 0 0 hs rfl (e _) (e _)
  · split
    · exact Keeps.blown 0 _ 0 hs (e _) rfl (e _)
    · exact Keeps.blown 0 0 _ hs (e _) (e _) rfl

theorem State.alarmAt_keeps {s0 : State} {s : State} (event : Option TransitionEvent) (p : TransitionPoint) (hs : Keeps s0 s) : Keeps s0 (State.alarmAt s event p) := by
  unfold State.alarmAt
  repeat' first
    | with_reducible assumption
    | intro _
    | with_reducible apply State.setEntry_keeps
    | with_reducible apply State.endSnuff_keeps
    | with_reducible apply State.alarm_keeps
    | with_reducible apply Keeps.ite
    | with_reducible apply Keeps.foldl
    | with_reducible apply Keeps.of
    | with_reducible refine Keeps.roots ?_ rfl rfl rfl
    | split

theorem State.blowCopies_keeps {s0 : State} {s : State} (dst : BitVec 16) (event : Option TransitionEvent) (hs : Keeps s0 s) : Keeps s0 (State.blowCopies s dst event) := by
  unfold State.blowCopies
  repeat' first
    | with_reducible assumption
    | intro _
    | with_reducible apply State.setEntry_keeps
    | with_reducible apply State.bump_keeps
    | with_reducible apply State.deviceReset_keeps
    | with_reducible apply State.blow_keeps
    | with_reducible apply State.alarmAt_keeps
    | with_reducible apply Keeps.ite
    | with_reducible apply Keeps.foldl

theorem State.transition_keeps {s0 : State} {s : State} (r : Bytes) (event : Option TransitionEvent) (hs : Keeps s0 s) : Keeps s0 (State.transition s r event) := by
  unfold State.transition
  repeat' first
    | with_reducible assumption
    | intro _
    | with_reducible apply State.setEntry_keeps
    | with_reducible apply State.countLife_keeps
    | with_reducible apply State.deviceReset_keeps
    | with_reducible apply State.destroyKeys_keeps
    | with_reducible apply State.alarmAt_keeps
    | with_reducible apply State.blowCopies_keeps
    | with_reducible apply Keeps.ite
    | with_reducible apply Keeps.foldl
    | with_reducible apply Keeps.of
    | with_reducible refine Keeps.roots ?_ rfl rfl rfl
    | split
    | simp only [keeps_mk]

theorem State.transitionLost_keeps {s0 : State} {s : State} (r : Bytes) (blown : Nat) (hs : Keeps s0 s) : Keeps s0 (State.transitionLost s r blown) := by
  unfold State.transitionLost
  repeat' first
    | with_reducible assumption
    | intro _
    | with_reducible apply State.setEntry_keeps
    | with_reducible apply State.bump_keeps
    | with_reducible apply State.countLife_keeps
    | with_reducible apply State.deviceReset_keeps
    | with_reducible apply State.destroyKeys_keeps
    | with_reducible apply State.blow_keeps
    | with_reducible apply Keeps.ite
    | with_reducible apply Keeps.foldl
    | with_reducible apply Keeps.of
    | with_reducible refine Keeps.roots ?_ rfl rfl rfl
    | split
    | simp only [keeps_mk]

theorem State.programKeyRows_keeps {s0 : State} {s : State} (powerKept : Bool) (hs : Keeps s0 s) : Keeps s0 (State.programKeyRows s powerKept) := by
  unfold State.programKeyRows
  repeat' first
    | with_reducible assumption
    | intro _
    | refine State.generate_keeps_eq (by assumption) ?_
    | with_reducible apply State.generate_keeps
    | with_reducible apply Keeps.ite
    | with_reducible apply Keeps.foldl
    | with_reducible apply Keeps.of
    | with_reducible refine Keeps.roots ?_ rfl rfl rfl
    | split
    | simp only [keeps_mk]

theorem State.programFlash_keeps {s0 : State} {s : State} (v : Bytes) (hs : Keeps s0 s) : Keeps s0 (State.programFlash s v) := by
  have hm : ∀ m k off, m = (if off = 0 then [] else s.flashOf k) → Memory.wf erasedByte s.flash0 → Memory.wf erasedByte s.flash1 → Memory.wf erasedByte m := by
    intro m k off e a b
    subst e
    unfold State.flashOf
    repeat' split
    exacts [Table.wf_nil _, a, b]
  unfold State.programFlash
  exact State.setEntry_keeps _ _ (State.setFlash_keeps _ _ hs fun a b => Memory.wf_write _ _ _ _ (hm _ _ _ rfl a b))

end Sys2Proof.Machine
end

