-- ==== Sys2Proof/Laws/KeepsPowerOps.lean ====
section
/-! SUPPORT. What no command undoes (Keeps), for the functions of Machine/PowerOps. -/

namespace Sys2Proof.Machine

theorem State.refuseEntry_keeps {s0 : State} {s : State} (dark : Bool) (r : Refuser) (hs : Keeps s0 s) : Keeps s0 (State.refuseEntry s dark r) := by
  unfold State.refuseEntry
  repeat' first
    | with_reducible assumption
    | intro _
    | with_reducible apply State.setEntry_keeps
    | with_reducible apply State.bump_keeps

theorem State.commitLow_keeps {s0 : State} {s : State} (hs : Keeps s0 s) : Keeps s0 (State.commitLow s) := by
  unfold State.commitLow
  repeat' first
    | with_reducible assumption
    | intro _
    | with_reducible apply State.setEntry_keeps
    | with_reducible apply State.bump_keeps
    | with_reducible apply State.sconceOff_keeps
    | with_reducible apply Keeps.ite
    | with_reducible apply Keeps.foldl
    | with_reducible apply Keeps.of
    | with_reducible refine Keeps.roots ?_ rfl rfl rfl
    | split
    | simp only [keeps_mk]

theorem State.commitDark_keeps {s0 : State} {s : State} (hs : Keeps s0 s) : Keeps s0 (State.commitDark s) := by
  unfold State.commitDark
  repeat' first
    | with_reducible assumption
    | intro _
    | with_reducible apply State.bump_keeps
    | with_reducible apply State.hubOff_keeps
    | with_reducible apply State.retain_keeps
    | with_reducible apply Keeps.ite
    | with_reducible apply Keeps.foldl
    | with_reducible apply Keeps.of
    | with_reducible refine Keeps.roots ?_ rfl rfl rfl
    | split
    | simp only [keeps_mk]

theorem State.settleEntry_keeps {s0 : State} {s : State} (hs : Keeps s0 s) : Keeps s0 (State.settleEntry s) := by
  unfold State.settleEntry
  repeat' first
    | with_reducible assumption
    | intro _
    | with_reducible apply State.commitLow_keeps
    | with_reducible apply State.commitDark_keeps
    | with_reducible apply Keeps.ite
    | with_reducible apply Keeps.foldl
    | with_reducible apply Keeps.of
    | with_reducible refine Keeps.roots ?_ rfl rfl rfl
    | split

theorem State.startEntry_keeps {s0 : State} {s : State} (dark : Bool) (hs : Keeps s0 s) : Keeps s0 (State.startEntry s dark) := by
  unfold State.startEntry
  repeat' first
    | with_reducible assumption
    | intro _
    | with_reducible apply State.refuseEntry_keeps
    | with_reducible apply Keeps.ite
    | with_reducible apply Keeps.foldl
    | with_reducible apply Keeps.of
    | with_reducible refine Keeps.roots ?_ rfl rfl rfl
    | split
    | simp only [keeps_mk]

theorem State.abortEntry_keeps {s0 : State} {s : State} (e : PowerEntry) (source : Nat) (r : Refuser) (hs : Keeps s0 s) : Keeps s0 (State.abortEntry s e source r) := by
  unfold State.abortEntry
  repeat' first
    | with_reducible assumption
    | intro _
    | with_reducible apply State.setEntry_keeps
    | with_reducible apply State.bump_keeps
    | with_reducible apply Keeps.ite
    | with_reducible apply Keeps.foldl
    | with_reducible apply Keeps.of
    | with_reducible refine Keeps.roots ?_ rfl rfl rfl
    | split
    | simp only [keeps_mk]

theorem State.wake_keeps {s0 : State} {s : State} (source : Nat) (unit : UnitId) (slc : UnitId) (pin : Nat) (hs : Keeps s0 s) : Keeps s0 (State.wake s source unit slc pin) := by
  unfold State.wake
  repeat' first
    | with_reducible assumption
    | intro _
    | with_reducible apply State.recordWake_keeps
    | with_reducible apply State.wakeLow_keeps
    | with_reducible apply State.settleEntry_keeps
    | with_reducible apply State.abortEntry_keeps
    | with_reducible apply Keeps.ite
    | with_reducible apply Keeps.foldl
    | with_reducible apply Keeps.of
    | with_reducible refine Keeps.roots ?_ rfl rfl rfl
    | split
    | simp only [keeps_mk]

theorem State.requestPower_keeps {s0 : State} {s : State} (v : Nat) (hs : Keeps s0 s) : Keeps s0 (State.requestPower s v) := by
  unfold State.requestPower
  repeat' first
    | with_reducible assumption
    | intro _
    | with_reducible apply State.startEntry_keeps
    | with_reducible apply State.wake_keeps
    | with_reducible apply Keeps.ite

theorem State.setSconce_keeps {s0 : State} {s : State} (c : Nat) (x : Sconce) (hs : Keeps s0 s) : Keeps s0 (State.setSconce s c x) := by
  unfold State.setSconce
  repeat' first
    | with_reducible assumption
    | intro _
    | with_reducible apply Keeps.ite
    | with_reducible apply Keeps.foldl
    | with_reducible apply Keeps.of
    | with_reducible refine Keeps.roots ?_ rfl rfl rfl
    | split
    | simp only [keeps_mk]

theorem State.writeLevel_keeps {s0 : State} {s : State} (c : Nat) (v : Nat) (hs : Keeps s0 s) : Keeps s0 (State.writeLevel s c v) := by
  unfold State.writeLevel
  repeat' first
    | with_reducible assumption
    | intro _
    | with_reducible apply State.setEntry_keeps
    | with_reducible apply State.setSconce_keeps
    | with_reducible apply Keeps.ite

theorem State.endLevelChange_keeps {s0 : State} {s : State} (c : Nat) (hs : Keeps s0 s) : Keeps s0 (State.endLevelChange s c) := by
  unfold State.endLevelChange
  repeat' first
    | with_reducible assumption
    | intro _
    | with_reducible apply State.setEntry_keeps
    | with_reducible apply State.bump_keeps
    | with_reducible apply State.setSconce_keeps
    | with_reducible apply Keeps.ite

theorem State.disableSconce_keeps {s0 : State} {s : State} (c : Nat) (hs : Keeps s0 s) : Keeps s0 (State.disableSconce s c) := by
  unfold State.disableSconce
  repeat' first
    | with_reducible assumption
    | intro _
    | with_reducible apply State.setEntry_keeps
    | with_reducible apply State.setSconce_keeps
    | with_reducible apply Keeps.ite

theorem State.powerDownSconce_keeps {s0 : State} {s : State} (c : Nat) (hs : Keeps s0 s) : Keeps s0 (State.powerDownSconce s c) := by
  unfold State.powerDownSconce
  repeat' first
    | with_reducible assumption
    | intro _
    | with_reducible apply State.sconceOff_keeps
    | with_reducible apply State.setSconce_keeps
    | with_reducible apply Keeps.ite

theorem State.enableSconce_keeps {s0 : State} {s : State} (c : Nat) (hs : Keeps s0 s) : Keeps s0 (State.enableSconce s c) := by
  unfold State.enableSconce
  repeat' first
    | with_reducible assumption
    | intro _
    | with_reducible apply State.setEntry_keeps
    | with_reducible apply State.setSconce_keeps
    | with_reducible apply Keeps.ite

theorem State.readySconce_keeps {s0 : State} {s : State} (c : Nat) (hs : Keeps s0 s) : Keeps s0 (State.readySconce s c) := by
  unfold State.readySconce
  repeat' first
    | with_reducible assumption
    | intro _
    | with_reducible apply State.sconceOn_keeps
    | with_reducible apply Keeps.ite

theorem State.startTamperTest_keeps {s0 : State} {s : State} (src : Nat) (hs : Keeps s0 s) : Keeps s0 (State.startTamperTest s src) := by
  unfold State.startTamperTest
  repeat' first
    | with_reducible assumption
    | intro _
    | with_reducible apply State.setEntry_keeps
    | with_reducible apply Keeps.ite
    | with_reducible apply Keeps.foldl
    | with_reducible apply Keeps.of
    | with_reducible refine Keeps.roots ?_ rfl rfl rfl
    | split
    | simp only [keeps_mk]

theorem State.judgeTamperTest_keeps {s0 : State} {s : State} (hs : Keeps s0 s) : Keeps s0 (State.judgeTamperTest s) := by
  unfold State.judgeTamperTest
  repeat' first
    | with_reducible assumption
    | intro _
    | with_reducible apply State.setEntry_keeps
    | with_reducible apply State.reportFault_keeps
    | with_reducible apply Keeps.ite
    | with_reducible apply Keeps.foldl
    | with_reducible apply Keeps.of
    | with_reducible refine Keeps.roots ?_ rfl rfl rfl
    | split
    | simp only [keeps_mk]

theorem State.setSealSet_keeps {s0 : State} {s : State} (owner : Nat) (b : Bytes) (hs : Keeps s0 s) : Keeps s0 (State.setSealSet s owner b) := by
  unfold State.setSealSet
  repeat' first
    | with_reducible assumption
    | intro _
    | with_reducible apply Keeps.ite
    | with_reducible apply Keeps.foldl
    | with_reducible apply Keeps.of
    | with_reducible refine Keeps.roots ?_ rfl rfl rfl
    | split
    | simp only [keeps_mk]

theorem State.drawSealKey_keeps {s0 : State} {s : State} (owner : Nat) (hs : Keeps s0 s) : Keeps s0 (State.drawSealKey s owner) := by
  unfold State.drawSealKey
  repeat' first
    | with_reducible assumption
    | intro _
    | refine State.generate_keeps_eq (by assumption) ?_
    | with_reducible apply State.generate_keeps
    | with_reducible apply State.setSealSet_keeps
    | with_reducible apply Keeps.ite
    | with_reducible apply Keeps.foldl
    | with_reducible apply Keeps.of
    | with_reducible refine Keeps.roots ?_ rfl rfl rfl
    | split

theorem State.retenant_keeps {s0 : State} {s : State} (n : Nat) (hs : Keeps s0 s) : Keeps s0 (State.retenant s n) := by
  unfold State.retenant
  repeat' first
    | with_reducible assumption
    | intro _
    | with_reducible apply State.bumpBy_keeps
    | with_reducible apply State.bump_keeps
    | with_reducible apply State.closeContexts_keeps
    | with_reducible apply State.freeSession_keeps
    | with_reducible apply State.emptySlot_keeps
    | with_reducible apply State.setSealSet_keeps
    | with_reducible apply State.drawSealKey_keeps
    | with_reducible apply Keeps.ite
    | with_reducible apply Keeps.foldl
    | with_reducible apply Keeps.of
    | with_reducible refine Keeps.roots ?_ rfl rfl rfl
    | split
    | simp only [keeps_mk]

theorem State.endTenancyClear_keeps {s0 : State} {s : State} (n : Nat) (hs : Keeps s0 s) : Keeps s0 (State.endTenancyClear s n) := by
  unfold State.endTenancyClear
  repeat' first
    | with_reducible assumption
    | intro _
    | with_reducible apply State.bumpBy_keeps
    | with_reducible apply State.clearLines_keeps
    | with_reducible apply State.drawSealKey_keeps
    | with_reducible apply Keeps.ite
    | with_reducible apply Keeps.foldl
    | with_reducible apply Keeps.of
    | with_reducible refine Keeps.roots ?_ rfl rfl rfl
    | split
    | simp only [keeps_mk]

theorem State.endReservoirClear_keeps {s0 : State} {s : State} (hs : Keeps s0 s) : Keeps s0 (State.endReservoirClear s) := by
  have h := Keeps.foldl (l := List.range 513) hs fun _ a x => State.drawSealKey_keeps a x
  unfold State.endReservoirClear
  split
  · exact hs
  · simp only []
    split
    · exact h
    · exact Keeps.mk (Keeps.memory h (fun _ => Table.wf_nil _) fun _ => Table.wf_nil _)

end Sys2Proof.Machine
end

