-- ==== Sys2Proof/Laws/KeepsDictOps.lean ====
section
/-! SUPPORT. What no command undoes (Keeps), for the functions of Machine/DictOps. -/

namespace Sys2Proof.Machine

theorem State.clearCounters_keeps {s0 : State} {s : State} (index : Nat) (sub : Nat) (v : Nat) (hs : Keeps s0 s) : Keeps s0 (State.clearCounters s index sub v) := by
  unfold State.clearCounters
  repeat' first
    | with_reducible assumption
    | intro _
    | with_reducible apply State.clearCounter_keeps
    | with_reducible apply Keeps.ite
    | with_reducible apply Keeps.foldl
    | with_reducible apply Keeps.of
    | with_reducible refine Keeps.roots ?_ rfl rfl rfl
    | split

theorem State.enableQueue_keeps {s0 : State} {s : State} (g : Nat) (hs : Keeps s0 s) : Keeps s0 (State.enableQueue s g) := by
  unfold State.enableQueue
  repeat' first
    | with_reducible assumption
    | intro _
    | with_reducible apply State.setEntry_keeps
    | with_reducible apply State.setQueue_keeps
    | with_reducible apply State.setQueueState_keeps
    | with_reducible apply State.writeStatus_keeps

theorem State.disableQueue_keeps {s0 : State} {s : State} (g : Nat) (hs : Keeps s0 s) : Keeps s0 (State.disableQueue s g) := by
  unfold State.disableQueue
  repeat' first
    | with_reducible assumption
    | intro _
    | with_reducible apply State.settleAllWindows_keeps
    | with_reducible apply State.setEntry_keeps
    | with_reducible apply State.setQueue_keeps
    | with_reducible apply State.setQueueState_keeps

theorem State.stopStream_keeps {s0 : State} {s : State} (n : Nat) (hs : Keeps s0 s) : Keeps s0 (State.stopStream s n) := by
  unfold State.stopStream
  repeat' first
    | with_reducible assumption
    | intro _
    | with_reducible apply State.setEntry_keeps
    | with_reducible apply State.setStream_keeps
    | with_reducible apply State.setStreamState_keeps
    | with_reducible apply Keeps.ite
    | with_reducible apply Keeps.foldl
    | with_reducible apply Keeps.of
    | with_reducible refine Keeps.roots ?_ rfl rfl rfl
    | split
    | simp only [keeps_mk]

theorem State.writeStreamEnable_keeps {s0 : State} {s : State} (n : Nat) (v : Nat) (hs : Keeps s0 s) : Keeps s0 (State.writeStreamEnable s n v) := by
  unfold State.writeStreamEnable
  repeat' first
    | with_reducible assumption
    | intro _
    | with_reducible apply State.setEntry_keeps
    | with_reducible apply State.startStream_keeps
    | with_reducible apply State.stopStream_keeps
    | with_reducible apply Keeps.ite

theorem State.commitErase_keeps {s0 : State} {s : State} (slot : Nat) (hs : Keeps s0 s) : Keeps s0 (State.commitErase s slot) := by
  unfold State.commitErase
  repeat' first
    | with_reducible assumption
    | intro _
    | with_reducible apply State.emptySlot_keeps
    | with_reducible apply State.answerLate_keeps
    | with_reducible apply Keeps.ite
    | with_reducible apply Keeps.foldl
    | with_reducible apply Keeps.of
    | with_reducible refine Keeps.roots ?_ rfl rfl rfl
    | split
    | simp only [keeps_mk]

theorem State.vaultErase_keeps {s0 : State} {s : State} (slot : Nat) (r : LateReply) (hs : Keeps s0 s) : Keeps s0 (State.vaultErase s slot r) := by
  unfold State.vaultErase
  repeat' first
    | with_reducible assumption
    | intro _
    | with_reducible apply State.commitErase_keeps
    | with_reducible apply Keeps.ite
    | with_reducible apply Keeps.foldl
    | with_reducible apply Keeps.of
    | with_reducible refine Keeps.roots ?_ rfl rfl rfl
    | split
    | simp only [keeps_mk]

theorem State.writeShelfHash_keeps {s0 : State} {s : State} (n : Nat) (v : Nat) (hs : Keeps s0 s) : Keeps s0 (State.writeShelfHash s n v) := by
  unfold State.writeShelfHash
  repeat' first
    | with_reducible assumption
    | intro _
    | with_reducible apply State.setEntry_keeps
    | with_reducible apply Keeps.ite
    | with_reducible apply Keeps.foldl
    | with_reducible apply Keeps.of
    | with_reducible refine Keeps.roots ?_ rfl rfl rfl
    | split
    | simp only [keeps_mk]

theorem State.windowWrite_keeps {s0 : State} {s : State} (n w v : Nat) (r : LateReply) (hs : Keeps s0 s) : Keeps s0 (State.windowWrite s n w v r) :=
  State.settleWindows_keeps _ (Keeps.mk hs)

theorem State.lateWrite_keeps {s0 : State} {s : State} (index sub v : Nat) (r : LateReply) (hs : Keeps s0 s) : Keeps s0 (State.lateWrite s index sub v r) :=
  Keeps.ite (State.vaultErase_keeps _ _ hs) (State.windowWrite_keeps _ _ _ _ hs)

theorem State.writeTenancy_keeps {s0 : State} {s : State} (n : Nat) (key : Nat) (v : Nat) (hs : Keeps s0 s) : Keeps s0 (State.writeTenancy s n key v) := by
  unfold State.writeTenancy
  repeat' first
    | with_reducible assumption
    | intro _
    | with_reducible apply State.setEntry_keeps
    | with_reducible apply State.retenant_keeps
    | with_reducible apply Keeps.ite

theorem State.runKats_keeps {s0 : State} {s : State} (failing : Nat) (hs : Keeps s0 s) : Keeps s0 (State.runKats s failing) := by
  unfold State.runKats
  repeat' first
    | with_reducible assumption
    | intro _
    | with_reducible apply State.setEntry_keeps
    | with_reducible apply State.reportFault_keeps
    | with_reducible apply State.entropyFault_keeps
    | with_reducible apply State.discardSeeds_keeps
    | with_reducible apply Keeps.ite
    | with_reducible apply Keeps.foldl
    | with_reducible apply Keeps.of
    | with_reducible refine Keeps.roots ?_ rfl rfl rfl
    | split
    | simp only [keeps_mk]

theorem State.requestReset_keeps {s0 : State} {s : State} (hs : Keeps s0 s) : Keeps s0 (State.requestReset s) := by
  unfold State.requestReset
  repeat' first
    | with_reducible assumption
    | intro _
    | with_reducible apply Keeps.ite
    | with_reducible apply Keeps.foldl
    | with_reducible apply Keeps.of
    | with_reducible refine Keeps.roots ?_ rfl rfl rfl
    | split
    | simp only [keeps_mk]

theorem State.applyWrite_keeps {s0 : State} {s : State} (index : Nat) (sub : Nat) (value : Bytes) (hs : Keeps s0 s) : Keeps s0 (State.applyWrite s index sub value) := by
  unfold State.applyWrite
  repeat' first
    | with_reducible assumption
    | with_reducible apply IssueKeeps.ok
    | with_reducible apply IssueKeeps.stall
    | with_reducible apply IssueKeeps.ended
    | with_reducible apply IssueKeeps.fault
    | with_reducible apply IssueKeeps.ite
    | intro _
    | with_reducible apply State.setEntry_keeps
    | with_reducible apply State.passCycle_keeps
    | with_reducible apply State.settleArbiters_keeps
    | with_reducible apply State.settleKinds_keeps
    | with_reducible apply State.startSelfTest_keeps
    | with_reducible apply State.transition_keeps
    | with_reducible apply State.programKeyRows_keeps
    | with_reducible apply State.programFlash_keeps
    | with_reducible apply State.requestPower_keeps
    | with_reducible apply State.writeLevel_keeps
    | with_reducible apply State.disableSconce_keeps
    | with_reducible apply State.enableSconce_keeps
    | with_reducible apply State.startTamperTest_keeps
    | with_reducible apply State.retenant_keeps
    | with_reducible apply State.clearCounters_keeps
    | with_reducible apply State.enableQueue_keeps
    | with_reducible apply State.disableQueue_keeps
    | with_reducible apply State.writeStreamEnable_keeps
    | with_reducible apply State.lateWrite_keeps
    | with_reducible apply State.writeShelfHash_keeps
    | with_reducible apply State.writeTenancy_keeps
    | with_reducible apply State.runKats_keeps
    | with_reducible apply State.requestReset_keeps
    | with_reducible apply Keeps.ite

theorem State.writeBy_keeps {s0 : State} {s : State} (p : Path) (index : Nat) (sub : Nat) (value : Bytes) (effect : State → State) (hs : Keeps s0 s) (heffect : ∀ z0 : State, Keeps s0 z0 → Keeps s0 (effect z0)) : Keeps s0 (State.writeBy s p index sub value effect) := by
  unfold State.writeBy
  split
  · exact hs
  · simp only []
    split
    · exact heffect _ (State.answer_keeps _ _ _ _ hs)
    · exact State.answer_keeps _ _ _ _ hs

theorem State.writeEntry_keeps {s0 : State} {s : State} (p : Path) (index : Nat) (sub : Nat) (value : Bytes) (hs : Keeps s0 s) : Keeps s0 (State.writeEntry s p index sub value) := by
  unfold State.writeEntry
  repeat' first
    | with_reducible assumption
    | intro _
    | with_reducible apply State.lateWrite_keeps
    | with_reducible apply State.applyWrite_keeps
    | with_reducible apply State.writeBy_keeps
    | with_reducible apply Keeps.ite

end Sys2Proof.Machine
end

