-- ==== Sys2Proof/Laws/KeepsAlgOps.lean ====
section
/-! SUPPORT. What no command undoes (Keeps), for the functions of Machine/AlgOps. -/

namespace Sys2Proof.Machine

theorem State.setMce_keeps {s0 : State} {s : State} (n : Nat) (x : MceEntry) (hs : Keeps s0 s) : Keeps s0 (State.setMce s n x) := by
  unfold State.setMce
  repeat' first
    | with_reducible assumption
    | intro _
    | with_reducible apply Keeps.ite
    | with_reducible apply Keeps.foldl
    | with_reducible apply Keeps.of
    | with_reducible refine Keeps.roots ?_ rfl rfl rfl
    | split
    | simp only [keeps_mk]

theorem State.setProgram_keeps {s0 : State} {s : State} (n : Nat) (x : OwnerProgram) (hs : Keeps s0 s) : Keeps s0 (State.setProgram s n x) := by
  unfold State.setProgram
  repeat' first
    | with_reducible assumption
    | intro _
    | with_reducible apply Keeps.ite
    | with_reducible apply Keeps.foldl
    | with_reducible apply Keeps.of
    | with_reducible refine Keeps.roots ?_ rfl rfl rfl
    | split
    | simp only [keeps_mk]

end Sys2Proof.Machine
end

