-- ==== Sys2Proof/Laws/KeepsExtentOps.lean ====
section
/-! SUPPORT. What no command undoes (Keeps), for the functions of Machine/ExtentOps. -/

namespace Sys2Proof.Machine

theorem State.allocate_keeps {s0 : State} {s : State} (slc : Nat) (area : Nat) (n : Nat) (use : ExtentUse) (hs : Keeps s0 s) : OptKeeps s0 (State.allocate s slc area n use) := by
  unfold State.allocate
  repeat' first
    | with_reducible assumption
    | with_reducible apply OptKeeps.ite
    | with_reducible apply OptKeeps.some
    | with_reducible exact OptKeeps.none
    | with_reducible apply Keeps.ite
    | with_reducible apply Keeps.foldl
    | with_reducible apply Keeps.of
    | with_reducible refine Keeps.roots ?_ rfl rfl rfl
    | split
    | simp only []
    | intro _
    | simp only [keeps_mk]

theorem State.allocate_keeps_eq {s0 : State} {s : State} {slc : Nat} {area : Nat} {n : Nat} {use : ExtentUse} {t_ : State} (e_ : State.allocate s slc area n use = some t_) (hs : Keeps s0 s) : Keeps s0 t_ := by
  have h_ : OptKeeps s0 (State.allocate s slc area n use) := by apply State.allocate_keeps <;> assumption
  exact h_ _ e_

theorem State.release_keeps {s0 : State} {s : State} (use : ExtentUse) (hs : Keeps s0 s) : Keeps s0 (State.release s use) := by
  unfold State.release
  repeat' first
    | with_reducible assumption
    | intro _
    | with_reducible apply Keeps.ite
    | with_reducible apply Keeps.foldl
    | with_reducible apply Keeps.of
    | with_reducible refine Keeps.roots ?_ rfl rfl rfl
    | split
    | simp only [keeps_mk]

theorem State.allocateOwner_keeps {s0 : State} {s : State} (slc : Nat) (id : Nat) (n : Nat) (out : Bool) (hs : Keeps s0 s) : OptKeeps s0 (State.allocateOwner s slc id n out) := by
  unfold State.allocateOwner
  repeat' first
    | with_reducible assumption
    | with_reducible apply OptKeeps.ite
    | with_reducible apply OptKeeps.some
    | with_reducible exact OptKeeps.none
    | with_reducible apply Keeps.ite
    | with_reducible apply Keeps.foldl
    | with_reducible apply Keeps.of
    | with_reducible refine Keeps.roots ?_ rfl rfl rfl
    | split
    | simp only []
    | intro _
    | simp only [keeps_mk]

theorem State.allocateOwner_keeps_eq {s0 : State} {s : State} {slc : Nat} {id : Nat} {n : Nat} {out : Bool} {t_ : State} (e_ : State.allocateOwner s slc id n out = some t_) (hs : Keeps s0 s) : Keeps s0 t_ := by
  have h_ : OptKeeps s0 (State.allocateOwner s slc id n out) := by apply State.allocateOwner_keeps <;> assumption
  exact h_ _ e_

end Sys2Proof.Machine
end

