-- ==== Sys2Proof/Laws/KeepsJobFlow.lean ====
section
/-! SUPPORT. What no command undoes (Keeps), for the functions of Machine/JobFlow. -/

namespace Sys2Proof.Machine

theorem State.takeContext_keeps {s0 : State} {s : State} {j : Job} {d : Nat} {attach : Attach} {a : Nat} {p : Nat × State} (e : State.takeContext s j d attach a = some p) (hs : Keeps s0 s) : Keeps s0 p.2 := by
  unfold State.takeContext at e
  split at e
  · exact nomatch e
  · cases e
    exact State.setContext_keeps _ _ hs

theorem State.takeContext_keeps_eq {s0 : State} {s : State} {j : Job} {d : Nat} {attach : Attach} {a k : Nat} {t : State} (e : State.takeContext s j d attach a = some (k, t)) (hs : Keeps s0 s) : Keeps s0 t := State.takeContext_keeps e hs

theorem State.reserveContext_keeps {s0 : State} {s : State} (j : Job) (hs : Keeps s0 s) : OptKeeps s0 (State.reserveContext s j) := by
  unfold State.reserveContext
  split
  · exact OptKeeps.none
  · split
    · exact OptKeeps.none
    · split
      · exact OptKeeps.none
      · exact OptKeeps.some (State.modJob_keeps _ _ (State.takeContext_keeps_eq (by assumption) hs))

theorem State.reserveContext_keeps_eq {s0 : State} {s : State} {j : Job} {t_ : State} (e_ : State.reserveContext s j = some t_) (hs : Keeps s0 s) : Keeps s0 t_ := by
  have h_ : OptKeeps s0 (State.reserveContext s j) := by apply State.reserveContext_keeps <;> assumption
  exact h_ _ e_

theorem State.pinFor_keeps {s0 : State} {s : State} (j : Job) (hs : Keeps s0 s) : Keeps s0 (State.pinFor s j) := by
  unfold State.pinFor
  repeat' first
    | with_reducible assumption
    | intro _
    | with_reducible apply State.setMce_keeps
    | with_reducible apply State.setProgram_keeps
    | with_reducible apply Keeps.ite
    | with_reducible apply Keeps.foldl
    | with_reducible apply Keeps.of
    | with_reducible refine Keeps.roots ?_ rfl rfl rfl
    | split
    | simp only [keeps_mk]

theorem State.reserveMce_keeps {s0 : State} {s : State} (j : Job) (hs : Keeps s0 s) : OptKeeps s0 (State.reserveMce s j) := by
  unfold State.reserveMce
  repeat' first
    | with_reducible assumption
    | with_reducible apply OptKeeps.ite
    | with_reducible apply OptKeeps.some
    | with_reducible exact OptKeeps.none
    | refine State.allocate_keeps_eq (by assumption) ?_
    | with_reducible apply State.modJob_keeps
    | with_reducible apply State.setMce_keeps
    | with_reducible apply State.allocate_keeps
    | with_reducible apply Keeps.ite
    | with_reducible apply Keeps.foldl
    | with_reducible apply Keeps.of
    | with_reducible refine Keeps.roots ?_ rfl rfl rfl
    | split
    | simp only []

theorem State.reserveMce_keeps_eq {s0 : State} {s : State} {j : Job} {t_ : State} (e_ : State.reserveMce s j = some t_) (hs : Keeps s0 s) : Keeps s0 t_ := by
  have h_ : OptKeeps s0 (State.reserveMce s j) := by apply State.reserveMce_keeps <;> assumption
  exact h_ _ e_

theorem State.reserveLantern_keeps {s0 : State} {s : State} (j : Job) (hs : Keeps s0 s) : OptKeeps s0 (State.reserveLantern s j) := by
  unfold State.reserveLantern
  repeat' first
    | with_reducible assumption
    | with_reducible apply OptKeeps.ite
    | with_reducible apply OptKeeps.some
    | with_reducible exact OptKeeps.none
    | refine State.allocate_keeps_eq (by assumption) ?_
    | with_reducible apply State.modJob_keeps
    | with_reducible apply State.allocate_keeps
    | simp only []

theorem State.reserveLantern_keeps_eq {s0 : State} {s : State} {j : Job} {t_ : State} (e_ : State.reserveLantern s j = some t_) (hs : Keeps s0 s) : Keeps s0 t_ := by
  have h_ : OptKeeps s0 (State.reserveLantern s j) := by apply State.reserveLantern_keeps <;> assumption
  exact h_ _ e_

theorem State.stepSeven_keeps {s0 : State} {s : State} (j : Job) (hs : Keeps s0 s) : OptKeeps s0 (State.stepSeven s j) := by
  unfold State.stepSeven
  repeat' first
    | with_reducible assumption
    | with_reducible apply OptKeeps.ite
    | with_reducible apply OptKeeps.some
    | with_reducible exact OptKeeps.none
    | refine State.allocateOwner_keeps_eq (by assumption) ?_
    | refine State.reserveContext_keeps_eq (by assumption) ?_
    | refine State.reserveMce_keeps_eq (by assumption) ?_
    | refine State.reserveLantern_keeps_eq (by assumption) ?_
    | with_reducible apply State.setStream_keeps
    | with_reducible apply State.allocateOwner_keeps
    | with_reducible apply State.reserveContext_keeps
    | with_reducible apply State.reserveMce_keeps
    | with_reducible apply State.reserveLantern_keeps
    | with_reducible apply Keeps.ite
    | with_reducible apply Keeps.foldl
    | with_reducible apply Keeps.of
    | with_reducible refine Keeps.roots ?_ rfl rfl rfl
    | split
    | simp only []

theorem State.stepSeven_keeps_eq {s0 : State} {s : State} {j : Job} {t_ : State} (e_ : State.stepSeven s j = some t_) (hs : Keeps s0 s) : Keeps s0 t_ := by
  have h_ : OptKeeps s0 (State.stepSeven s j) := by apply State.stepSeven_keeps <;> assumption
  exact h_ _ e_

theorem State.touchCache_keeps {s0 : State} {s : State} (n : Nat) (hs : Keeps s0 s) : Keeps s0 (State.touchCache s n) := by
  unfold State.touchCache
  repeat' first
    | with_reducible assumption
    | intro _
    | with_reducible apply Keeps.ite
    | with_reducible apply Keeps.foldl
    | with_reducible apply Keeps.of
    | with_reducible refine Keeps.roots ?_ rfl rfl rfl
    | split
    | simp only [keeps_mk]

theorem State.lookup_keeps {s0 : State} {s : State} (id : Nat) (hs : Keeps s0 s) : Keeps s0 (State.lookup s id) := by
  unfold State.lookup
  repeat' first
    | with_reducible assumption
    | intro _
    | with_reducible apply State.bump_keeps
    | with_reducible apply State.modJob_keeps
    | with_reducible apply State.settleJob_keeps
    | with_reducible apply State.touchCache_keeps
    | with_reducible apply Keeps.ite
    | with_reducible apply Keeps.foldl
    | with_reducible apply Keeps.of
    | with_reducible refine Keeps.roots ?_ rfl rfl rfl
    | split

theorem State.chargeContext_keeps {s0 : State} {s : State} (n : Nat) (write : Bool) (hs : Keeps s0 s) : Keeps s0 (State.chargeContext s n write) := by
  unfold State.chargeContext
  repeat' first
    | with_reducible assumption
    | intro _
    | with_reducible apply State.bumpBy_keeps

theorem State.evict_keeps {s0 : State} {s : State} (hs : Keeps s0 s) : OptKeeps s0 (State.evict s) := by
  unfold State.evict
  repeat' first
    | with_reducible assumption
    | with_reducible apply OptKeeps.ite
    | with_reducible apply OptKeeps.some
    | with_reducible exact OptKeeps.none
    | with_reducible apply State.chargeContext_keeps
    | with_reducible apply Keeps.ite
    | with_reducible apply Keeps.foldl
    | with_reducible apply Keeps.of
    | with_reducible refine Keeps.roots ?_ rfl rfl rfl
    | split
    | simp only []
    | intro _
    | simp only [keeps_mk]

theorem State.evict_keeps_eq {s0 : State} {s : State} {t_ : State} (e_ : State.evict s = some t_) (hs : Keeps s0 s) : Keeps s0 t_ := by
  have h_ : OptKeeps s0 (State.evict s) := by apply State.evict_keeps <;> assumption
  exact h_ _ e_

theorem State.loadContext_keeps {s0 : State} {s : State} (n : Nat) (hs : Keeps s0 s) : Keeps s0 (State.loadContext s n) := by
  unfold State.loadContext
  repeat' first
    | with_reducible assumption
    | intro _
    | refine State.evict_keeps_eq (by assumption) ?_
    | with_reducible apply State.settleKinds_keeps
    | with_reducible apply State.chargeContext_keeps
    | with_reducible apply State.evict_keeps
    | with_reducible apply Keeps.ite
    | with_reducible apply Keeps.foldl
    | with_reducible apply Keeps.of
    | with_reducible refine Keeps.roots ?_ rfl rfl rfl
    | split
    | simp only [keeps_mk]

theorem State.cacheOpened_keeps {s0 : State} {s : State} (n : Nat) (hs : Keeps s0 s) : Keeps s0 (State.cacheOpened s n) := by
  unfold State.cacheOpened
  repeat' first
    | with_reducible assumption
    | intro _
    | refine State.evict_keeps_eq (by assumption) ?_
    | with_reducible apply State.evict_keeps
    | with_reducible apply Keeps.ite
    | with_reducible apply Keeps.foldl
    | with_reducible apply Keeps.of
    | with_reducible refine Keeps.roots ?_ rfl rfl rfl
    | split
    | simp only [keeps_mk]

theorem State.touchSession_keeps {s0 : State} {s : State} (n : Nat) (hs : Keeps s0 s) : Keeps s0 (State.touchSession s n) := by
  unfold State.touchSession
  repeat' first
    | with_reducible assumption
    | intro _
    | with_reducible apply Keeps.ite
    | with_reducible apply Keeps.foldl
    | with_reducible apply Keeps.of
    | with_reducible refine Keeps.roots ?_ rfl rfl rfl
    | split
    | simp only [keeps_mk]

theorem State.armFinish_keeps {s0 : State} {s : State} (j : Job) (hs : Keeps s0 s) : Keeps s0 (State.armFinish s j) := by
  unfold State.armFinish
  repeat' first
    | with_reducible assumption
    | intro _
    | with_reducible apply State.setContext_keeps
    | with_reducible apply Keeps.ite
    | with_reducible apply Keeps.foldl
    | with_reducible apply Keeps.of
    | with_reducible refine Keeps.roots ?_ rfl rfl rfl
    | split

theorem State.takeTurn_keeps {s0 : State} {s : State} (id : Nat) (hs : Keeps s0 s) : Keeps s0 (State.takeTurn s id) := by
  unfold State.takeTurn
  repeat' first
    | with_reducible assumption
    | intro _
    | refine State.stepSeven_keeps_eq (by assumption) ?_
    | with_reducible apply State.modJob_keeps
    | with_reducible apply State.stageResult_keeps
    | with_reducible apply State.stepSeven_keeps
    | with_reducible apply State.lookup_keeps
    | with_reducible apply Keeps.ite
    | with_reducible apply Keeps.foldl
    | with_reducible apply Keeps.of
    | with_reducible refine Keeps.roots ?_ rfl rfl rfl
    | split

theorem State.settleTurns_keeps {s0 : State} {s : State} (hs : Keeps s0 s) : Keeps s0 (State.settleTurns s) := by
  unfold State.settleTurns
  repeat' first
    | with_reducible assumption
    | intro _
    | with_reducible apply State.takeTurn_keeps
    | with_reducible apply Keeps.ite
    | with_reducible apply Keeps.foldl

theorem State.takeFetched_keeps {s0 : State} {s : State} (j : Job) (hs : Keeps s0 s) : Keeps s0 (State.takeFetched s j) := by
  unfold State.takeFetched
  repeat' first
    | with_reducible assumption
    | intro _
    | with_reducible apply State.setSession_keeps
    | with_reducible apply State.modJob_keeps
    | with_reducible apply State.stageResult_keeps
    | with_reducible apply State.pinFor_keeps
    | with_reducible apply State.armFinish_keeps
    | with_reducible apply State.takeTurn_keeps
    | with_reducible apply Keeps.ite

end Sys2Proof.Machine
end

