-- ==== Sys2Proof/Laws/KeepsWickOps.lean ====
section
/-! SUPPORT. What no command undoes (Keeps), for the functions of Machine/WickOps. -/

namespace Sys2Proof.Machine

/-- An instruction at issue keeps what no command undoes. -/
def IssueKeeps (s0 : State) : Issue → Prop
  | .ok s _ => Keeps s0 s
  | .stall s _ _ => Keeps s0 s
  | .ended s => Keeps s0 s
  | .fault _ => True

theorem IssueKeeps.ok {s0 s : State} {x : Wick} (h : Keeps s0 s) : IssueKeeps s0 (.ok s x) := h
theorem IssueKeeps.stall {s0 s : State} {x : Wick} {y : Stall} (h : Keeps s0 s) : IssueKeeps s0 (.stall s x y) := h
theorem IssueKeeps.ended {s0 s : State} (h : Keeps s0 s) : IssueKeeps s0 (.ended s) := h
theorem IssueKeeps.fault {s0 : State} {f : WickFault} : IssueKeeps s0 (.fault f) := trivial

theorem IssueKeeps.ite {s0 : State} {a b : Issue} {c : Prop} [Decidable c] (ha : IssueKeeps s0 a) (hb : IssueKeeps s0 b) :
    IssueKeeps s0 (if c then a else b) := by
  split
  exacts [ha, hb]

theorem State.countPowerDown_keeps {s0 : State} {s : State} (before : Island) (after : Island) (hs : Keeps s0 s) : Keeps s0 (State.countPowerDown s before after) := by
  unfold State.countPowerDown
  repeat' first
    | with_reducible assumption
    | intro _
    | with_reducible apply State.bump_keeps
    | with_reducible apply Keeps.ite
    | with_reducible apply Keeps.foldl
    | with_reducible apply Keeps.of
    | with_reducible refine Keeps.roots ?_ rfl rfl rfl
    | split

theorem State.drawWords_keeps {s0 : State} {s : State} (n : Nat) (hs : Keeps s0 s) : Keeps s0 (State.drawWords s n).2 := by
  exact Keeps.mk (Keeps.free hs (Nat.le_add_right _ _))

theorem State.drawWords_keeps_eq {s0 : State} {s : State} {n : Nat} {x_ : List Nat} {t_ : State} (e_ : State.drawWords s n = (x_, t_)) (hs : Keeps s0 s) : Keeps s0 t_ := by
  have h_ : Keeps s0 (State.drawWords s n).2 := by apply State.drawWords_keeps <;> assumption
  rw [e_] at h_
  exact h_

theorem State.countWait_keeps {s0 : State} {s : State} (x : Wick) (hs : Keeps s0 s) : Keeps s0 (State.countWait s x) := by
  unfold State.countWait
  repeat' first
    | with_reducible assumption
    | intro _
    | with_reducible apply State.bump_keeps
    | with_reducible apply Keeps.ite

theorem State.takeShroud_keeps {s0 : State} {s : State} (x : Wick) (t : Nat) (needs : List Nat) (k : List Nat → Nat → State → Wick → Issue) (hs : Keeps s0 s) (hk : ∀ z0 : List Nat, ∀ z1 : Nat, ∀ z2 : State, Keeps s0 z2 → ∀ z3 : Wick, IssueKeeps s0 (k z0 z1 z2 z3)) : IssueKeeps s0 (State.takeShroud s x t needs k) := by
  unfold State.takeShroud
  repeat' first
    | with_reducible assumption
    | with_reducible apply IssueKeeps.ok
    | with_reducible apply IssueKeeps.stall
    | with_reducible apply IssueKeeps.ended
    | with_reducible apply IssueKeeps.fault
    | with_reducible apply IssueKeeps.ite
    | intro _
    | refine State.drawWords_keeps_eq (by assumption) ?_
    | with_reducible apply State.drawWords_keeps
    | with_reducible apply State.countWait_keeps
    | with_reducible apply Keeps.ite
    | with_reducible apply Keeps.foldl
    | with_reducible apply hk
    | with_reducible apply Keeps.of
    | with_reducible refine Keeps.roots ?_ rfl rfl rfl
    | split
    | simp only [keeps_mk]

theorem State.access_keeps {s0 : State} {s : State} (x : Wick) (as : List Nat) (secret : Bool) (store : Bool) (k : Issue) (hs : Keeps s0 s) (hk : IssueKeeps s0 k) : IssueKeeps s0 (State.access s x as secret store k) := by
  unfold State.access
  repeat' first
    | with_reducible assumption
    | with_reducible apply IssueKeeps.ok
    | with_reducible apply IssueKeeps.stall
    | with_reducible apply IssueKeeps.ended
    | with_reducible apply IssueKeeps.fault
    | with_reducible apply IssueKeeps.ite
    | intro _
    | with_reducible apply Keeps.ite
    | with_reducible apply Keeps.foldl
    | with_reducible apply Keeps.of
    | with_reducible refine Keeps.roots ?_ rfl rfl rfl
    | split

theorem State.wickFault_keeps {s0 : State} {s : State} (w : Nat) (f : WickFault) (hs : Keeps s0 s) : Keeps s0 (State.wickFault s w f) := by
  unfold State.wickFault
  repeat' first
    | with_reducible assumption
    | intro _
    | with_reducible apply State.setWick_keeps
    | with_reducible apply State.failJob_keeps
    | with_reducible apply State.reportFault_keeps
    | with_reducible apply Keeps.ite
    | with_reducible apply Keeps.foldl
    | with_reducible apply Keeps.of
    | with_reducible refine Keeps.roots ?_ rfl rfl rfl
    | split
    | simp only [keeps_mk]

theorem State.stallWick_keeps {s0 : State} {s : State} (w : Nat) (x : Wick) (why : Stall) (hs : Keeps s0 s) : Keeps s0 (State.stallWick s w x why) := by
  unfold State.stallWick
  repeat' first
    | with_reducible assumption
    | intro _
    | with_reducible apply State.bump_keeps
    | with_reducible apply State.setWick_keeps
    | with_reducible apply Keeps.ite

theorem State.issue_keeps {s0 : State} {s : State} (w : Nat) (f : State → Wick → Issue) (hs : Keeps s0 s) (hf : ∀ z0 : State, Keeps s0 z0 → ∀ z1 : Wick, IssueKeeps s0 (f z0 z1)) : Keeps s0 (State.issue s w f) := by
  unfold State.issue
  refine Keeps.ite hs ?_
  have h1 : Keeps s0 (if (s.wick w).stall ≠ .none then s.draw.2 else s) := Keeps.ite (State.draw_keeps hs) hs
  simp only []
  split
  · rename_i t y e
    exact State.countPowerDown_keeps _ _ (State.setWick_keeps _ _ (show IssueKeeps s0 (.ok t y) from e ▸ hf _ h1 _))
  · rename_i t e
    exact show IssueKeeps s0 (.ended t) from e ▸ hf _ h1 _
  · exact State.wickFault_keeps _ _ hs
  · rename_i t1 y1 why1 e1
    split
    · rename_i t y why e
      exact State.countPowerDown_keeps _ _ (State.stallWick_keeps _ _ _ (show IssueKeeps s0 (.stall t y why) from e ▸ hf _ hs _))
    · exact State.countPowerDown_keeps _ _ (State.stallWick_keeps _ _ _ (show IssueKeeps s0 (.stall t1 y1 why1) from e1 ▸ hf _ h1 _))

theorem State.scalar_keeps {s0 : State} {s : State} (w : Nat) (legal : Wick → Bool) (rd : BitVec 5) (srcs : List (BitVec 5)) (latency : Nat) (v : Wick → Word72) (hs : Keeps s0 s) : Keeps s0 (State.scalar s w legal rd srcs latency v) := by
  unfold State.scalar
  repeat' first
    | with_reducible assumption
    | with_reducible apply IssueKeeps.ok
    | with_reducible apply IssueKeeps.stall
    | with_reducible apply IssueKeeps.ended
    | with_reducible apply IssueKeeps.fault
    | with_reducible apply IssueKeeps.ite
    | intro _
    | with_reducible apply State.issue_keeps

theorem State.aluR_keeps {s0 : State} {s : State} (w : Nat) (rd : BitVec 5) (rs1 : BitVec 5) (rs2 : BitVec 5) (rsv : BitVec 9) (latency : Nat) (f : (n : Nat) → BitVec n → BitVec n → BitVec n) (hs : Keeps s0 s) : Keeps s0 (State.aluR s w rd rs1 rs2 rsv latency f) := by
  unfold State.aluR
  repeat' first
    | with_reducible assumption
    | intro _
    | with_reducible apply State.scalar_keeps

theorem State.aluI_keeps {s0 : State} {s : State} (w : Nat) (rd : BitVec 5) (rs1 : BitVec 5) (imm : BitVec 20) (f : (n : Nat) → BitVec n → BitVec n → BitVec n) (hs : Keeps s0 s) : Keeps s0 (State.aluI s w rd rs1 imm f) := by
  unfold State.aluI
  repeat' first
    | with_reducible assumption
    | intro _
    | with_reducible apply State.scalar_keeps

theorem State.aluShift_keeps {s0 : State} {s : State} (w : Nat) (rd : BitVec 5) (rs1 : BitVec 5) (rsv : BitVec 10) (amount : BitVec 7) (f : (n : Nat) → BitVec n → BitVec n → BitVec n) (hs : Keeps s0 s) : Keeps s0 (State.aluShift s w rd rs1 rsv amount f) := by
  unfold State.aluShift
  repeat' first
    | with_reducible assumption
    | intro _
    | with_reducible apply State.scalar_keeps

theorem State.constant_keeps {s0 : State} {s : State} (w : Nat) (rd : BitVec 5) (legal : Wick → Bool) (v : Wick → Word72) (hs : Keeps s0 s) : Keeps s0 (State.constant s w rd legal v) := by
  unfold State.constant
  repeat' first
    | with_reducible assumption
    | intro _
    | with_reducible apply State.scalar_keeps

theorem Wick.transfer_keeps {s0 : State} (x : Wick) {s : State} (t : Nat) (target : Word72) (after : Wick → Wick) (hs : Keeps s0 s) : IssueKeeps s0 (Wick.transfer x s t target after) := by
  unfold Wick.transfer
  repeat' first
    | with_reducible assumption
    | with_reducible apply IssueKeeps.ok
    | with_reducible apply IssueKeeps.stall
    | with_reducible apply IssueKeeps.ended
    | with_reducible apply IssueKeeps.fault
    | with_reducible apply IssueKeeps.ite
    | intro _
    | with_reducible apply Keeps.ite
    | with_reducible apply Keeps.foldl
    | with_reducible apply Keeps.of
    | with_reducible refine Keeps.roots ?_ rfl rfl rfl
    | split

theorem State.branch_keeps {s0 : State} {s : State} (w : Nat) (rs1 : BitVec 5) (rs2 : BitVec 5) (off : BitVec 20) (c : Wick → Bool) (hs : Keeps s0 s) : Keeps s0 (State.branch s w rs1 rs2 off c) := by
  unfold State.branch
  repeat' first
    | with_reducible assumption
    | with_reducible apply IssueKeeps.ok
    | with_reducible apply IssueKeeps.stall
    | with_reducible apply IssueKeeps.ended
    | with_reducible apply IssueKeeps.fault
    | with_reducible apply IssueKeeps.ite
    | intro _
    | with_reducible apply State.issue_keeps
    | with_reducible apply Wick.transfer_keeps

end Sys2Proof.Machine
end

