-- ==== Sys2Proof/Laws/KeepsAttemptOps.lean ====
section
/-! SUPPORT. What no command undoes (Keeps), for the functions of Machine/AttemptOps. -/

namespace Sys2Proof.Machine

theorem State.drawRegions_keeps {s0 : State} {s : State} (hs : Keeps s0 s) : Keeps s0 (State.drawRegions s).2 := by
  have fold : ∀ (l : List Nat) (p : Table Word72 × State), Keeps s0 p.2 →
      Keeps s0 (l.foldl (fun (p : Table Word72 × State) k => (Table.set (fun _ => 0) p.1 k (BitVec.ofNat 72 p.2.draw.1), p.2.draw.2)) p).2 := by
    intro l
    induction l with
    | nil => exact fun _ h => h
    | cons a r ih => exact fun p h => ih _ (State.draw_keeps h)
  exact fold _ ([], s) hs

theorem State.drawRegions_keeps_eq {s0 : State} {s : State} {x_ : Table Word72} {t_ : State} (e_ : State.drawRegions s = (x_, t_)) (hs : Keeps s0 s) : Keeps s0 t_ := by
  have h_ : Keeps s0 (State.drawRegions s).2 := by apply State.drawRegions_keeps <;> assumption
  rw [e_] at h_
  exact h_

theorem State.loadRoutine_keeps {s0 : State} {s : State} (j : Job) (w : Nat) (hs : Keeps s0 s) : Keeps s0 (State.loadRoutine s j w) := by
  unfold State.loadRoutine
  repeat' first
    | with_reducible assumption
    | intro _
    | with_reducible apply State.bump_keeps
    | with_reducible apply State.setWick_keeps
    | with_reducible apply Keeps.ite
    | with_reducible apply Keeps.foldl
    | with_reducible apply Keeps.of
    | with_reducible refine Keeps.roots ?_ rfl rfl rfl
    | split

theorem State.passIdle_keeps {s0 : State} {s : State} (w : Nat) (hs : Keeps s0 s) : Keeps s0 (State.passIdle s w) := by
  unfold State.passIdle
  repeat' first
    | with_reducible assumption
    | intro _
    | refine State.draw_keeps_eq (by assumption) ?_
    | with_reducible apply State.draw_keeps
    | with_reducible apply State.setWick_keeps
    | with_reducible apply State.countPowerDown_keeps

theorem State.startWick_keeps {s0 : State} {s : State} (j : Job) (w : Nat) (place : Nat) (key : Bytes × Nat) (taper : Option Nat) (hs : Keeps s0 s) : Keeps s0 (State.startWick s j w place key taper) := by
  unfold State.startWick
  repeat' first
    | with_reducible assumption
    | intro _
    | refine State.drawRegions_keeps_eq (by assumption) ?_
    | with_reducible apply State.bump_keeps
    | with_reducible apply State.setWick_keeps
    | with_reducible apply State.drawRegions_keeps
    | with_reducible apply State.loadRoutine_keeps
    | with_reducible apply State.passIdle_keeps

theorem State.startOwner_keeps {s0 : State} {s : State} (j : Job) (w : Nat) (hs : Keeps s0 s) : Keeps s0 (State.startOwner s j w) := by
  unfold State.startOwner
  repeat' first
    | with_reducible assumption
    | intro _
    | with_reducible apply State.bump_keeps
    | with_reducible apply State.setWick_keeps
    | with_reducible apply State.writeReservoir_keeps
    | with_reducible apply State.clearLines_keeps

theorem State.startTaper_keeps {s0 : State} {s : State} (j : Job) (t : Nat) (hs : Keeps s0 s) : Keeps s0 (State.startTaper s j t) := by
  unfold State.startTaper
  repeat' first
    | with_reducible assumption
    | intro _
    | with_reducible apply State.bump_keeps
    | with_reducible apply State.setTaper_keeps

theorem State.loadSealer_keeps {s0 : State} {s : State} (n : Nat) (id : Nat) (key : Bytes) (hash : Bytes) (hs : Keeps s0 s) : Keeps s0 (State.loadSealer s n id key hash) := by
  unfold State.loadSealer
  repeat' first
    | with_reducible assumption
    | intro _
    | with_reducible apply State.bump_keeps
    | with_reducible apply State.setSealer_keeps

theorem State.loadSealerObject_keeps {s0 : State} {s : State} (n : Nat) (j : Job) (key : Bytes) (salt : BitVec 64) (epoch : Nat) (next : Nat) (hs : Keeps s0 s) : Keeps s0 (State.loadSealerObject s n j key salt epoch next) := by
  unfold State.loadSealerObject
  repeat' first
    | with_reducible assumption
    | intro _
    | with_reducible apply State.setSealer_keeps
    | with_reducible apply State.loadSealer_keeps

theorem State.startSealer_keeps {s0 : State} {s : State} (j : Job) (n : Nat) (hs : Keeps s0 s) : Keeps s0 (State.startSealer s j n) := by
  unfold State.startSealer
  repeat' first
    | with_reducible assumption
    | intro _
    | with_reducible apply State.loadSealer_keeps
    | with_reducible apply Keeps.ite
    | with_reducible apply Keeps.foldl
    | with_reducible apply Keeps.of
    | with_reducible refine Keeps.roots ?_ rfl rfl rfl
    | split

theorem State.startUnits_keeps {s0 : State} {s : State} (j : Job) (us : List UnitId) (hs : Keeps s0 s) : Keeps s0 (State.startUnits s j us) := by
  unfold State.startUnits
  repeat' first
    | with_reducible assumption
    | intro _
    | with_reducible apply State.startWick_keeps
    | with_reducible apply State.startOwner_keeps
    | with_reducible apply State.startTaper_keeps
    | with_reducible apply State.startSealer_keeps
    | with_reducible apply Keeps.ite
    | with_reducible apply Keeps.foldl

theorem State.moveContext_keeps {s0 : State} {s : State} (d : Nat) (k : Nat) (hs : Keeps s0 s) : Keeps s0 (State.moveContext s d k) := by
  unfold State.moveContext
  repeat' first
    | with_reducible assumption
    | intro _
    | with_reducible apply State.setContext_keeps
    | with_reducible apply Keeps.ite
    | with_reducible apply Keeps.foldl
    | with_reducible apply Keeps.of
    | with_reducible refine Keeps.roots ?_ rfl rfl rfl
    | split

theorem State.startContexts_keeps {s0 : State} {s : State} (j : Job) (us : List UnitId) (hs : Keeps s0 s) : Keeps s0 (State.startContexts s j us) := by
  unfold State.startContexts
  split
  · exact hs
  · simp only []
    split
    · exact Keeps.foldl hs fun t a h => State.moveContext_keeps _ _ h
    · refine Keeps.foldl hs fun t a h => ?_
      split
      · exact State.takeContext_keeps (by assumption) h
      · exact h

end Sys2Proof.Machine
end

