-- ==== Sys2Proof/Laws/KeepsCosts.lean ====
section
/-! SUPPORT. What no command undoes (Keeps), for the functions of Machine/Costs. -/

namespace Sys2Proof.Machine

theorem State.spendWords_keeps {s0 : State} {s : State} (w : Nat) (n : Nat) (hs : Keeps s0 s) : Keeps s0 (State.spendWords s w n) := by
  unfold State.spendWords
  repeat' first
    | with_reducible assumption
    | intro _
    | refine State.generate_keeps_eq (by assumption) ?_
    | with_reducible apply State.bump_keeps
    | with_reducible apply State.setWick_keeps
    | with_reducible apply State.generate_keeps
    | with_reducible apply Keeps.ite
    | with_reducible apply Keeps.foldl

theorem State.charge_keeps {s0 : State} {s : State} (id : Nat) (cycles : Nat) (taper : Nat) (shroud : Nat) (hs : Keeps s0 s) : Keeps s0 (State.charge s id cycles taper shroud) := by
  unfold State.charge
  repeat' first
    | with_reducible assumption
    | intro _
    | with_reducible apply State.modJob_keeps
    | with_reducible apply State.spendWords_keeps
    | with_reducible apply Keeps.ite
    | with_reducible apply Keeps.foldl
    | with_reducible apply Keeps.of
    | with_reducible refine Keeps.roots ?_ rfl rfl rfl
    | split

theorem State.chargeSecond_keeps {s0 : State} {s : State} (id : Nat) (shroud : Nat) (hs : Keeps s0 s) : Keeps s0 (State.chargeSecond s id shroud) := by
  unfold State.chargeSecond
  repeat' first
    | with_reducible assumption
    | intro _
    | with_reducible apply State.modJob_keeps
    | with_reducible apply State.spendWords_keeps
    | with_reducible apply Keeps.ite
    | with_reducible apply Keeps.foldl
    | with_reducible apply Keeps.of
    | with_reducible refine Keeps.roots ?_ rfl rfl rfl
    | split

theorem State.spendCold_keeps {s0 : State} {s : State} (parts : List (Nat × Nat × Nat)) (hs : Keeps s0 s) : Keeps s0 (State.spendCold s parts) := by
  unfold State.spendCold
  repeat' first
    | with_reducible assumption
    | intro _
    | with_reducible apply State.spendWords_keeps
    | with_reducible apply Keeps.ite
    | with_reducible apply Keeps.foldl

theorem State.endAtCheck_keeps {s0 : State} {s : State} (j : Job) (st : Nat) (hs : Keeps s0 s) : Keeps s0 (State.endAtCheck s j st) := by
  unfold State.endAtCheck
  repeat' first
    | with_reducible assumption
    | intro _
    | with_reducible apply State.stageResult_keeps
    | with_reducible apply State.failJob_keeps
    | with_reducible apply Keeps.ite

theorem State.beginTask_keeps {s0 : State} {s : State} (id : Nat) (t : LanternTask) (us : List UnitId) (hs : Keeps s0 s) : Keeps s0 (State.beginTask s id t us) := by
  unfold State.beginTask
  repeat' first
    | with_reducible assumption
    | intro _
    | with_reducible apply State.modJob_keeps
    | with_reducible apply State.setTasks_keeps

theorem State.addConfirming_keeps {s0 : State} {s : State} (j : Job) (us : List UnitId) (hs : Keeps s0 s) : Keeps s0 (State.addConfirming s j us) := by
  unfold State.addConfirming
  repeat' first
    | with_reducible assumption
    | intro _
    | with_reducible apply State.modJob_keeps
    | with_reducible apply State.startWick_keeps
    | with_reducible apply Keeps.ite
    | with_reducible apply Keeps.foldl
    | with_reducible apply Keeps.of
    | with_reducible refine Keeps.roots ?_ rfl rfl rfl
    | split

theorem State.beginAttempt_keeps {s0 : State} {s : State} (j : Job) (us : List UnitId) (hs : Keeps s0 s) : Keeps s0 (State.beginAttempt s j us) := by
  unfold State.beginAttempt
  repeat' first
    | with_reducible assumption
    | intro _
    | with_reducible apply State.modJob_keeps
    | with_reducible apply State.touchCache_keeps
    | with_reducible apply State.startUnits_keeps
    | with_reducible apply State.startContexts_keeps
    | with_reducible apply State.spendCold_keeps
    | with_reducible apply State.beginTask_keeps
    | with_reducible apply Keeps.ite
    | with_reducible apply Keeps.foldl
    | with_reducible apply Keeps.of
    | with_reducible refine Keeps.roots ?_ rfl rfl rfl
    | split

theorem State.startAttempt_keeps {s0 : State} {s : State} (id : Nat) (us : List UnitId) (hs : Keeps s0 s) : Keeps s0 (State.startAttempt s id us) := by
  unfold State.startAttempt
  repeat' first
    | with_reducible assumption
    | intro _
    | with_reducible apply State.bump_keeps
    | with_reducible apply State.lookup_keeps
    | with_reducible apply State.endAtCheck_keeps
    | with_reducible apply State.addConfirming_keeps
    | with_reducible apply State.beginAttempt_keeps
    | with_reducible apply Keeps.ite
    | with_reducible apply Keeps.foldl
    | with_reducible apply Keeps.of
    | with_reducible refine Keeps.roots ?_ rfl rfl rfl
    | split

end Sys2Proof.Machine
end

