-- ==== Sys2Proof/Laws/KeepsKeyOps.lean ====
section
/-! SUPPORT. What no command undoes (Keeps), for the functions of Machine/KeyOps. -/

namespace Sys2Proof.Machine

theorem State.during_keeps {s0 : State} {s : State} (id : Nat) (op : Nat) (f : Job → State) (hs : Keeps s0 s) (hf : ∀ z0 : Job, Keeps s0 (f z0)) : Keeps s0 (State.during s id op f) := by
  unfold State.during
  repeat' first
    | with_reducible assumption
    | intro _
    | with_reducible apply Keeps.ite
    | with_reducible apply Keeps.foldl
    | with_reducible apply hf
    | with_reducible apply Keeps.of
    | with_reducible refine Keeps.roots ?_ rfl rfl rfl
    | split

theorem State.withDraw_keeps {s0 : State} {s : State} (id : Nat) (place : Nat) (i : Nat) (n : Nat) (f : Bytes → State → State) (hs : Keeps s0 s) (hf : ∀ z0 : Bytes, ∀ z1 : State, Keeps s0 z1 → Keeps s0 (f z0 z1)) : Keeps s0 (State.withDraw s id place i n f) := by
  unfold State.withDraw
  repeat' first
    | with_reducible assumption
    | intro _
    | refine State.generate_keeps_eq (by assumption) ?_
    | with_reducible apply State.modJob_keeps
    | with_reducible apply State.generate_keeps
    | with_reducible apply State.waitEntropy_keeps
    | with_reducible apply Keeps.ite
    | with_reducible apply Keeps.foldl
    | with_reducible apply hf
    | with_reducible apply Keeps.of
    | with_reducible refine Keeps.roots ?_ rfl rfl rfl
    | split

theorem State.withDrawIf_keeps {s0 : State} {s : State} (need : Bool) (given : Bytes) (id : Nat) (place : Nat) (i : Nat) (n : Nat) (f : Bytes → State → State) (hs : Keeps s0 s) (hf : ∀ z0 : Bytes, ∀ z1 : State, Keeps s0 z1 → Keeps s0 (f z0 z1)) : Keeps s0 (State.withDrawIf s need given id place i n f) := by
  unfold State.withDrawIf
  repeat' first
    | with_reducible assumption
    | intro _
    | with_reducible apply State.modJob_keeps
    | with_reducible apply State.withDraw_keeps
    | with_reducible apply Keeps.ite
    | with_reducible apply Keeps.foldl
    | with_reducible apply hf

theorem State.withShroud_keeps {s0 : State} {s : State} (j : Job) (masked : Bool) {f : State} (hs : Keeps s0 s) (hf : Keeps s0 f) : Keeps s0 (State.withShroud s j masked f) := by
  unfold State.withShroud
  repeat' first
    | with_reducible assumption
    | intro _
    | with_reducible apply State.waitEntropy_keeps
    | with_reducible apply Keeps.ite

theorem State.withBlind_keeps {s0 : State} {s : State} (id : Nat) (place : Nat) (taper : Bool) (f : State → State) (hs : Keeps s0 s) (hf : ∀ z0 : State, Keeps s0 z0 → Keeps s0 (f z0)) : Keeps s0 (State.withBlind s id place taper f) := by
  unfold State.withBlind
  repeat' first
    | with_reducible assumption
    | intro _
    | with_reducible apply State.withDrawIf_keeps

theorem State.expandRole_keeps {s0 : State} {s : State} (n : Nat) (role : Nat) (a : Nat) (k : KeyFound) (hs : Keeps s0 s) : OptKeeps s0 (State.expandRole s n role a k) := by
  unfold State.expandRole
  repeat' first
    | with_reducible assumption
    | with_reducible apply OptKeeps.ite
    | with_reducible apply OptKeeps.some
    | with_reducible exact OptKeeps.none
    | with_reducible apply State.setSession_keeps
    | with_reducible apply State.touchSession_keeps
    | with_reducible apply Keeps.ite
    | with_reducible apply Keeps.foldl
    | with_reducible apply Keeps.of
    | with_reducible refine Keeps.roots ?_ rfl rfl rfl
    | split
    | simp only []

theorem State.expandRole_keeps_eq {s0 : State} {s : State} {n : Nat} {role : Nat} {a : Nat} {k : KeyFound} {t_ : State} (e_ : State.expandRole s n role a k = some t_) (hs : Keeps s0 s) : Keeps s0 t_ := by
  have h_ : OptKeeps s0 (State.expandRole s n role a k) := by apply State.expandRole_keeps <;> assumption
  exact h_ _ e_

theorem State.expandRoles_keeps {s0 : State} {s : State} (n : Nat) (ks : List (Nat × Nat × KeyFound)) (hs : Keeps s0 s) : OptKeeps s0 (State.expandRoles s n ks) := by
  unfold State.expandRoles
  induction ks generalizing s with
  | nil => exact OptKeeps.some hs
  | cons k r ih =>
    intro t e
    rw [List.foldlM_cons] at e
    cases h : State.expandRole s n k.1 k.2.1 k.2.2 with
    | none =>
      rw [h] at e
      exact nomatch e
    | some u =>
      rw [h] at e
      exact ih (State.expandRole_keeps_eq h hs) t e

theorem State.expandRoles_keeps_eq {s0 : State} {s : State} {n : Nat} {ks : List (Nat × Nat × KeyFound)} {t_ : State} (e_ : State.expandRoles s n ks = some t_) (hs : Keeps s0 s) : Keeps s0 t_ := by
  have h_ : OptKeeps s0 (State.expandRoles s n ks) := by apply State.expandRoles_keeps <;> assumption
  exact h_ _ e_

theorem State.keepOn_keeps {s0 : State} {s : State} (j : Job) (a : Nat) (k : KeyFound) (w : Nat) (full : Bool) (hs : Keeps s0 s) : Keeps s0 (State.keepOn s j a k w full) := by
  unfold State.keepOn
  repeat' first
    | with_reducible assumption
    | intro _
    | refine State.drawBytes_keeps_eq (by assumption) ?_
    | with_reducible apply State.drawBytes_keeps
    | with_reducible apply State.setWick_keeps

theorem State.keepKeys_keeps {s0 : State} {s : State} (j : Job) (a : Nat) (k : KeyFound) (first : Bool) (ws : List Nat) (hs : Keeps s0 s) : Keeps s0 (State.keepKeys s j a k first ws) := by
  unfold State.keepKeys
  repeat' first
    | with_reducible assumption
    | intro _
    | with_reducible apply State.keepOn_keeps
    | with_reducible apply Keeps.ite
    | with_reducible apply Keeps.foldl

theorem State.withKey_keeps {s0 : State} {s : State} (j : Job) (check : Bool) (f : KeyFound → State → State) (hs : Keeps s0 s) (hf : ∀ z0 : KeyFound, ∀ z1 : State, Keeps s0 z1 → Keeps s0 (f z0 z1)) : Keeps s0 (State.withKey s j check f) := by
  unfold State.withKey
  simp only []
  split
  · exact State.failJob_keeps _ _ hs
  · exact hs
  · split
    · exact State.checkFailed_keeps _ hs
    · split
      · exact State.checkFailed_keeps _ hs
      · exact hf _ _ (State.keepKeys_keeps _ _ _ _ _ (State.expandRole_keeps_eq (by assumption) hs))

theorem State.readMceKey_keeps {s0 : State} {s : State} (slc : Nat) (a : Nat) (ref : Nat) (reads : Nat) (hs : Keeps s0 s) : Keeps s0 (State.readMceKey s slc a ref reads) := by
  unfold State.readMceKey
  repeat' first
    | with_reducible assumption
    | intro _
    | with_reducible apply State.bumpBy_keeps
    | with_reducible apply Keeps.ite

theorem State.finish_keeps {s0 : State} {s : State} (id : Nat) (out : Bytes) (hs : Keeps s0 s) : Keeps s0 (State.finish s id out) := by
  unfold State.finish
  repeat' first
    | with_reducible assumption
    | intro _
    | with_reducible apply State.stageResult_keeps

theorem State.finishKeygen_keeps {s0 : State} {s : State} (j : Job) (key : Bytes) (hs : Keeps s0 s) : Keeps s0 (State.finishKeygen s j key) := by
  unfold State.finishKeygen
  repeat' first
    | with_reducible assumption
    | intro _
    | with_reducible apply State.modJob_keeps
    | with_reducible apply State.failJob_keeps
    | with_reducible apply State.finish_keeps
    | with_reducible apply Keeps.ite
    | with_reducible apply Keeps.foldl
    | with_reducible apply Keeps.of
    | with_reducible refine Keeps.roots ?_ rfl rfl rfl
    | split

end Sys2Proof.Machine
end

