-- ==== Sys2Proof/Laws/KeepsClassical.lean ====
section
/-! SUPPORT. What no command undoes (Keeps), for the functions of Machine/Classical. -/

namespace Sys2Proof.Machine

theorem State.clKeygen_keeps {s0 : State} {s : State} (id : Nat) (check : Bool) (hs : Keeps s0 s) : Keeps s0 (State.clKeygen s id check) := by
  unfold State.clKeygen
  repeat' first
    | with_reducible assumption
    | intro _
    | with_reducible apply State.checkFailed_keeps
    | with_reducible apply State.charge_keeps
    | with_reducible apply State.during_keeps
    | with_reducible apply State.withDrawIf_keeps
    | with_reducible apply State.withBlind_keeps
    | with_reducible apply State.finishKeygen_keeps
    | with_reducible apply Keeps.ite

theorem execClKeygen_keeps {s0 : State} (job : Nat) (check : Bool) {s : State} (hs : Keeps s0 s) : ResKeeps s0 (execClKeygen job check s) := by
  unfold execClKeygen
  repeat' first
    | with_reducible assumption
    | with_reducible apply ResKeeps.next
    | intro _
    | with_reducible apply State.clKeygen_keeps

theorem State.clSign_keeps {s0 : State} {s : State} (id : Nat) (check : Bool) (hs : Keeps s0 s) : Keeps s0 (State.clSign s id check) := by
  unfold State.clSign
  repeat' first
    | with_reducible assumption
    | intro _
    | with_reducible apply State.failJob_keeps
    | with_reducible apply State.charge_keeps
    | with_reducible apply State.during_keeps
    | with_reducible apply State.withDrawIf_keeps
    | with_reducible apply State.withBlind_keeps
    | with_reducible apply State.withKey_keeps
    | with_reducible apply State.finish_keeps
    | with_reducible apply Keeps.ite
    | with_reducible apply Keeps.foldl
    | with_reducible apply Keeps.of
    | with_reducible refine Keeps.roots ?_ rfl rfl rfl
    | split

theorem execClSign_keeps {s0 : State} (job : Nat) (check : Bool) {s : State} (hs : Keeps s0 s) : ResKeeps s0 (execClSign job check s) := by
  unfold execClSign
  repeat' first
    | with_reducible assumption
    | with_reducible apply ResKeeps.next
    | intro _
    | with_reducible apply State.clSign_keeps

theorem State.clVerify_keeps {s0 : State} {s : State} (id : Nat) (check : Bool) (hs : Keeps s0 s) : Keeps s0 (State.clVerify s id check) := by
  unfold State.clVerify
  repeat' first
    | with_reducible assumption
    | intro _
    | with_reducible apply State.failJob_keeps
    | with_reducible apply State.charge_keeps
    | with_reducible apply State.during_keeps
    | with_reducible apply State.withBlind_keeps
    | with_reducible apply State.withKey_keeps
    | with_reducible apply State.finish_keeps
    | with_reducible apply Keeps.ite

theorem execClVerify_keeps {s0 : State} (job : Nat) (check : Bool) {s : State} (hs : Keeps s0 s) : ResKeeps s0 (execClVerify job check s) := by
  unfold execClVerify
  repeat' first
    | with_reducible assumption
    | with_reducible apply ResKeeps.next
    | intro _
    | with_reducible apply State.clVerify_keeps

theorem State.clAgree_keeps {s0 : State} {s : State} (id : Nat) (check : Bool) (hs : Keeps s0 s) : Keeps s0 (State.clAgree s id check) := by
  unfold State.clAgree
  repeat' first
    | with_reducible assumption
    | intro _
    | with_reducible apply State.failJob_keeps
    | with_reducible apply State.charge_keeps
    | with_reducible apply State.during_keeps
    | with_reducible apply State.withBlind_keeps
    | with_reducible apply State.withKey_keeps
    | with_reducible apply State.finish_keeps
    | with_reducible apply Keeps.ite
    | with_reducible apply Keeps.foldl
    | with_reducible apply Keeps.of
    | with_reducible refine Keeps.roots ?_ rfl rfl rfl
    | split

theorem execClAgree_keeps {s0 : State} (job : Nat) (check : Bool) {s : State} (hs : Keeps s0 s) : ResKeeps s0 (execClAgree job check s) := by
  unfold execClAgree
  repeat' first
    | with_reducible assumption
    | with_reducible apply ResKeeps.next
    | intro _
    | with_reducible apply State.clAgree_keeps

end Sys2Proof.Machine
end

