-- ==== Sys2Proof/Laws/KeepsDigests.lean ====
section
/-! SUPPORT. What no command undoes (Keeps), for the functions of Machine/Digests. -/

namespace Sys2Proof.Machine

theorem State.finishDigest_keeps {s0 : State} {s : State} (j : Job) (r : Bytes) (hs : Keeps s0 s) : Keeps s0 (State.finishDigest s j r) := by
  unfold State.finishDigest
  repeat' first
    | with_reducible assumption
    | intro _
    | with_reducible apply State.modJob_keeps
    | with_reducible apply State.finish_keeps
    | with_reducible apply Keeps.ite

theorem State.digesterCarries_keeps {s0 : State} {s : State} (d : Nat) (n : Nat) (hs : Keeps s0 s) : Keeps s0 (State.digesterCarries s d n) := by
  unfold State.digesterCarries
  repeat' first
    | with_reducible assumption
    | intro _
    | with_reducible apply State.bumpBy_keeps

theorem State.digesterMoves_keeps {s0 : State} {s : State} (d : Nat) (ks : List Nat) (hs : Keeps s0 s) : Keeps s0 (State.digesterMoves s d ks) := by
  unfold State.digesterMoves
  repeat' first
    | with_reducible assumption
    | intro _
    | with_reducible apply State.bump_keeps
    | with_reducible apply Keeps.ite
    | with_reducible apply Keeps.foldl
    | with_reducible apply Keeps.of
    | with_reducible refine Keeps.roots ?_ rfl rfl rfl
    | split
    | simp only [keeps_mk]

theorem State.checkpoint_keeps {s0 : State} {s : State} (ks : List Nat) (hs : Keeps s0 s) : Keeps s0 (State.checkpoint s ks) := by
  unfold State.checkpoint
  repeat' first
    | with_reducible assumption
    | intro _
    | with_reducible apply State.bumpBy_keeps
    | with_reducible apply State.touchSession_keeps
    | with_reducible apply Keeps.ite
    | with_reducible apply Keeps.foldl

theorem State.chargeStaged_keeps {s0 : State} {s : State} (j : Job) (d : Nat) (n : Nat) (hs : Keeps s0 s) : Keeps s0 (State.chargeStaged s j d n) := by
  unfold State.chargeStaged
  repeat' first
    | with_reducible assumption
    | intro _
    | with_reducible apply State.bumpBy_keeps
    | with_reducible apply Keeps.ite

theorem State.digest_keeps {s0 : State} {s : State} (id : Nat) (hs : Keeps s0 s) : Keeps s0 (State.digest s id) := by
  unfold State.digest
  repeat' first
    | with_reducible assumption
    | intro _
    | with_reducible apply State.releaseContexts_keeps
    | with_reducible apply State.during_keeps
    | with_reducible apply State.finishDigest_keeps
    | with_reducible apply State.digesterCarries_keeps
    | with_reducible apply State.digesterMoves_keeps
    | with_reducible apply State.checkpoint_keeps
    | with_reducible apply State.chargeStaged_keeps

theorem execDigest_keeps {s0 : State} (job : Nat) {s : State} (hs : Keeps s0 s) : ResKeeps s0 (execDigest job s) := by
  unfold execDigest
  repeat' first
    | with_reducible assumption
    | with_reducible apply ResKeeps.next
    | intro _
    | with_reducible apply State.digest_keeps

theorem State.digOpen_keeps {s0 : State} {s : State} (id : Nat) (hs : Keeps s0 s) : Keeps s0 (State.digOpen s id) := by
  unfold State.digOpen
  repeat' first
    | with_reducible assumption
    | intro _
    | with_reducible apply State.modJob_keeps
    | with_reducible apply State.during_keeps
    | with_reducible apply State.withDraw_keeps
    | with_reducible apply State.finish_keeps

theorem execDigOpen_keeps {s0 : State} (job : Nat) {s : State} (hs : Keeps s0 s) : ResKeeps s0 (execDigOpen job s) := by
  unfold execDigOpen
  repeat' first
    | with_reducible assumption
    | with_reducible apply ResKeeps.next
    | intro _
    | with_reducible apply State.digOpen_keeps

theorem State.onContext_keeps {s0 : State} {s : State} (j : Job) (f : Nat → DigestContext → State) (hs : Keeps s0 s) (hf : ∀ z0 : Nat, ∀ z1 : DigestContext, Keeps s0 (f z0 z1)) : Keeps s0 (State.onContext s j f) := by
  unfold State.onContext
  repeat' first
    | with_reducible assumption
    | intro _
    | with_reducible apply State.failJob_keeps
    | with_reducible apply Keeps.ite
    | with_reducible apply Keeps.foldl
    | with_reducible apply hf
    | with_reducible apply Keeps.of
    | with_reducible refine Keeps.roots ?_ rfl rfl rfl
    | split

theorem State.digUpdate_keeps {s0 : State} {s : State} (id : Nat) (hs : Keeps s0 s) : Keeps s0 (State.digUpdate s id) := by
  unfold State.digUpdate
  repeat' first
    | with_reducible assumption
    | intro _
    | with_reducible apply State.during_keeps
    | with_reducible apply State.finish_keeps
    | with_reducible apply State.digesterCarries_keeps
    | with_reducible apply State.onContext_keeps

theorem execDigUpdate_keeps {s0 : State} (job : Nat) {s : State} (hs : Keeps s0 s) : ResKeeps s0 (execDigUpdate job s) := by
  unfold execDigUpdate
  repeat' first
    | with_reducible assumption
    | with_reducible apply ResKeeps.next
    | intro _
    | with_reducible apply State.digUpdate_keeps

theorem State.digFinish_keeps {s0 : State} {s : State} (id : Nat) (hs : Keeps s0 s) : Keeps s0 (State.digFinish s id) := by
  unfold State.digFinish
  repeat' first
    | with_reducible assumption
    | intro _
    | with_reducible apply State.settleResult_keeps
    | with_reducible apply State.during_keeps
    | with_reducible apply State.finishDigest_keeps
    | with_reducible apply State.onContext_keeps
    | with_reducible apply Keeps.ite
    | with_reducible apply Keeps.foldl
    | with_reducible apply Keeps.of
    | with_reducible refine Keeps.roots ?_ rfl rfl rfl
    | split

theorem execDigFinish_keeps {s0 : State} (job : Nat) {s : State} (hs : Keeps s0 s) : ResKeeps s0 (execDigFinish job s) := by
  unfold execDigFinish
  repeat' first
    | with_reducible assumption
    | with_reducible apply ResKeeps.next
    | intro _
    | with_reducible apply State.digFinish_keeps

theorem State.digRead_keeps {s0 : State} {s : State} (id : Nat) (hs : Keeps s0 s) : Keeps s0 (State.digRead s id) := by
  unfold State.digRead
  repeat' first
    | with_reducible assumption
    | intro _
    | with_reducible apply State.stageResult_keeps
    | with_reducible apply State.during_keeps
    | with_reducible apply State.finish_keeps
    | with_reducible apply State.onContext_keeps
    | with_reducible apply Keeps.ite

theorem execDigRead_keeps {s0 : State} (job : Nat) {s : State} (hs : Keeps s0 s) : ResKeeps s0 (execDigRead job s) := by
  unfold execDigRead
  repeat' first
    | with_reducible assumption
    | with_reducible apply ResKeeps.next
    | intro _
    | with_reducible apply State.digRead_keeps

theorem State.digClose_keeps {s0 : State} {s : State} (id : Nat) (hs : Keeps s0 s) : Keeps s0 (State.digClose s id) := by
  unfold State.digClose
  repeat' first
    | with_reducible assumption
    | intro _
    | with_reducible apply State.during_keeps
    | with_reducible apply State.finish_keeps
    | with_reducible apply State.onContext_keeps

theorem execDigClose_keeps {s0 : State} (job : Nat) {s : State} (hs : Keeps s0 s) : ResKeeps s0 (execDigClose job s) := by
  unfold execDigClose
  repeat' first
    | with_reducible assumption
    | with_reducible apply ResKeeps.next
    | intro _
    | with_reducible apply State.digClose_keeps

theorem State.giveDigest_keeps {s0 : State} {s : State} (id : Nat) (r : Bytes) (hs : Keeps s0 s) : Keeps s0 (State.giveDigest s id r) := by
  unfold State.giveDigest
  repeat' first
    | with_reducible assumption
    | intro _
    | with_reducible apply State.modJob_keeps
    | with_reducible apply State.settleResult_keeps
    | with_reducible apply State.finishDigest_keeps
    | with_reducible apply Keeps.ite
    | with_reducible apply Keeps.foldl
    | with_reducible apply Keeps.of
    | with_reducible refine Keeps.roots ?_ rfl rfl rfl
    | split

theorem State.boundaryFinish_keeps {s0 : State} {s : State} (d : Nat) (k : Nat) (hs : Keeps s0 s) : Keeps s0 (State.boundaryFinish s d k) := by
  unfold State.boundaryFinish
  repeat' first
    | with_reducible assumption
    | intro _
    | with_reducible apply State.setContext_keeps
    | with_reducible apply State.giveDigest_keeps
    | with_reducible apply Keeps.ite
    | with_reducible apply Keeps.foldl

theorem State.boundaryEnds_keeps {s0 : State} {s : State} (d : Nat) (ks : List Nat) (hs : Keeps s0 s) : Keeps s0 (State.boundaryEnds s d ks) := by
  unfold State.boundaryEnds
  repeat' first
    | with_reducible assumption
    | intro _
    | with_reducible apply State.digesterMoves_keeps
    | with_reducible apply State.checkpoint_keeps
    | with_reducible apply State.boundaryFinish_keeps
    | with_reducible apply Keeps.ite
    | with_reducible apply Keeps.foldl

theorem State.absorbItem_keeps {s0 : State} {s : State} (ks : List Nat) (item : Nat) (b : Bytes) (hs : Keeps s0 s) : Keeps s0 (State.absorbItem s ks item b) := by
  unfold State.absorbItem
  repeat' first
    | with_reducible assumption
    | intro _
    | with_reducible apply State.setContext_keeps
    | with_reducible apply Keeps.ite
    | with_reducible apply Keeps.foldl

theorem State.itemEnds_keeps {s0 : State} {s : State} (d : Nat) (item : Nat) (soft : List Nat) (own : List Nat) (b : Bytes) (hs : Keeps s0 s) : Keeps s0 (State.itemEnds s d item soft own b) := by
  unfold State.itemEnds
  repeat' first
    | with_reducible assumption
    | intro _
    | with_reducible apply State.setContext_keeps
    | with_reducible apply State.digesterCarries_keeps
    | with_reducible apply State.boundaryEnds_keeps
    | with_reducible apply State.absorbItem_keeps
    | with_reducible apply Keeps.ite
    | with_reducible apply Keeps.foldl

theorem State.dropPassed_keeps {s0 : State} {s : State} (n : Nat) (hs : Keeps s0 s) : Keeps s0 (State.dropPassed s n) := by
  unfold State.dropPassed
  repeat' first
    | with_reducible assumption
    | intro _
    | with_reducible apply State.setStream_keeps

theorem State.recordEnds_keeps {s0 : State} {s : State} (d : Nat) (n : Nat) (received : Bool) (b : Bytes) (hs : Keeps s0 s) : Keeps s0 (State.recordEnds s d n received b) := by
  unfold State.recordEnds
  repeat' first
    | with_reducible assumption
    | intro _
    | with_reducible apply State.setStream_keeps
    | with_reducible apply State.itemEnds_keeps
    | with_reducible apply State.dropPassed_keeps
    | with_reducible apply Keeps.ite
    | with_reducible apply Keeps.foldl
    | with_reducible apply Keeps.of
    | with_reducible refine Keeps.roots ?_ rfl rfl rfl
    | split
    | simp only [keeps_mk]

theorem State.inputEnds_keeps {s0 : State} {s : State} (d : Nat) (id : Nat) (hs : Keeps s0 s) : Keeps s0 (State.inputEnds s d id) := by
  unfold State.inputEnds
  repeat' first
    | with_reducible assumption
    | intro _
    | with_reducible apply State.modJob_keeps
    | with_reducible apply State.itemEnds_keeps
    | with_reducible apply Keeps.ite
    | with_reducible apply Keeps.foldl
    | with_reducible apply Keeps.of
    | with_reducible refine Keeps.roots ?_ rfl rfl rfl
    | split

theorem State.boundary_keeps {s0 : State} {s : State} (d : Nat) (item : DigestItem) (hs : Keeps s0 s) : Keeps s0 (State.boundary s d item) := by
  unfold State.boundary
  repeat' first
    | with_reducible assumption
    | intro _
    | with_reducible apply State.recordEnds_keeps
    | with_reducible apply State.inputEnds_keeps
    | with_reducible apply Keeps.ite
    | with_reducible apply Keeps.foldl
    | with_reducible apply Keeps.of
    | with_reducible refine Keeps.roots ?_ rfl rfl rfl
    | split

theorem execDigesterBoundary_keeps {s0 : State} (digester : Fin 32) (item : DigestItem) {s : State} (hs : Keeps s0 s) : ResKeeps s0 (execDigesterBoundary digester item s) := by
  unfold execDigesterBoundary
  repeat' first
    | with_reducible assumption
    | with_reducible apply ResKeeps.next
    | intro _
    | with_reducible apply State.settleTurns_keeps
    | with_reducible apply State.boundary_keeps

end Sys2Proof.Machine
end

