-- ==== Sys2Proof/Laws/KeepsKem.lean ====
section
/-! SUPPORT. What no command undoes (Keeps), for the functions of Machine/Kem. -/

namespace Sys2Proof.Machine

theorem State.placeGang_keeps {s0 : State} {s : State} (j : Job) (a : Nat) (key : Bytes) (hs : Keeps s0 s) : Keeps s0 (State.placeGang s j a key) := by
  unfold State.placeGang
  repeat' first
    | with_reducible assumption
    | intro _
    | with_reducible apply State.setWick_keeps
    | with_reducible apply Keeps.ite
    | with_reducible apply Keeps.foldl

theorem State.kemKeygen_keeps {s0 : State} {s : State} (id : Nat) (check : Bool) (hs : Keeps s0 s) : Keeps s0 (State.kemKeygen s id check) := by
  unfold State.kemKeygen
  repeat' first
    | with_reducible assumption
    | intro _
    | with_reducible apply State.checkFailed_keeps
    | with_reducible apply State.charge_keeps
    | with_reducible apply State.during_keeps
    | with_reducible apply State.withDrawIf_keeps
    | with_reducible apply State.withShroud_keeps
    | with_reducible apply State.withBlind_keeps
    | with_reducible apply State.finishKeygen_keeps
    | with_reducible apply State.placeGang_keeps
    | with_reducible apply Keeps.ite

theorem execKemKeygen_keeps {s0 : State} (job : Nat) (check : Bool) {s : State} (hs : Keeps s0 s) : ResKeeps s0 (execKemKeygen job check s) := by
  unfold execKemKeygen
  repeat' first
    | with_reducible assumption
    | with_reducible apply ResKeeps.next
    | intro _
    | with_reducible apply State.kemKeygen_keeps

theorem State.kemEncaps_keeps {s0 : State} {s : State} (id : Nat) (check : Bool) (hs : Keeps s0 s) : Keeps s0 (State.kemEncaps s id check) := by
  unfold State.kemEncaps
  repeat' first
    | with_reducible assumption
    | intro _
    | with_reducible apply State.charge_keeps
    | with_reducible apply State.during_keeps
    | with_reducible apply State.withDraw_keeps
    | with_reducible apply State.withDrawIf_keeps
    | with_reducible apply State.withBlind_keeps
    | with_reducible apply State.withKey_keeps
    | with_reducible apply State.readMceKey_keeps
    | with_reducible apply State.finish_keeps
    | with_reducible apply Keeps.ite

theorem execKemEncaps_keeps {s0 : State} (job : Nat) (check : Bool) {s : State} (hs : Keeps s0 s) : ResKeeps s0 (execKemEncaps job check s) := by
  unfold execKemEncaps
  repeat' first
    | with_reducible assumption
    | with_reducible apply ResKeeps.next
    | intro _
    | with_reducible apply State.kemEncaps_keeps

theorem State.kemDecaps_keeps {s0 : State} {s : State} (id : Nat) (check : Bool) (hs : Keeps s0 s) : Keeps s0 (State.kemDecaps s id check) := by
  unfold State.kemDecaps
  repeat' first
    | with_reducible assumption
    | intro _
    | with_reducible apply State.failJob_keeps
    | with_reducible apply State.charge_keeps
    | with_reducible apply State.during_keeps
    | with_reducible apply State.withShroud_keeps
    | with_reducible apply State.withBlind_keeps
    | with_reducible apply State.withKey_keeps
    | with_reducible apply State.finish_keeps
    | with_reducible apply Keeps.ite
    | with_reducible apply Keeps.foldl
    | with_reducible apply Keeps.of
    | with_reducible refine Keeps.roots ?_ rfl rfl rfl
    | split

theorem execKemDecaps_keeps {s0 : State} (job : Nat) (check : Bool) {s : State} (hs : Keeps s0 s) : ResKeeps s0 (execKemDecaps job check s) := by
  unfold execKemDecaps
  repeat' first
    | with_reducible assumption
    | with_reducible apply ResKeeps.next
    | intro _
    | with_reducible apply State.kemDecaps_keeps

theorem State.mceLoad_keeps {s0 : State} {s : State} (id : Nat) (hs : Keeps s0 s) : Keeps s0 (State.mceLoad s id) := by
  unfold State.mceLoad
  repeat' first
    | with_reducible assumption
    | intro _
    | with_reducible apply State.modJob_keeps
    | with_reducible apply State.during_keeps
    | with_reducible apply State.withDraw_keeps
    | with_reducible apply State.finish_keeps

theorem execMceCacheLoad_keeps {s0 : State} (job : Nat) {s : State} (hs : Keeps s0 s) : ResKeeps s0 (execMceCacheLoad job s) := by
  unfold execMceCacheLoad
  repeat' first
    | with_reducible assumption
    | with_reducible apply ResKeeps.next
    | intro _
    | with_reducible apply State.mceLoad_keeps

theorem State.mceDrop_keeps {s0 : State} {s : State} (id : Nat) (hs : Keeps s0 s) : Keeps s0 (State.mceDrop s id) := by
  unfold State.mceDrop
  repeat' first
    | with_reducible assumption
    | intro _
    | with_reducible apply State.during_keeps
    | with_reducible apply State.finish_keeps

theorem execMceCacheDrop_keeps {s0 : State} (job : Nat) {s : State} (hs : Keeps s0 s) : ResKeeps s0 (execMceCacheDrop job s) := by
  unfold execMceCacheDrop
  repeat' first
    | with_reducible assumption
    | with_reducible apply ResKeeps.next
    | intro _
    | with_reducible apply State.mceDrop_keeps

end Sys2Proof.Machine
end

