-- ==== Sys2Proof/Laws/KeepsKeys.lean ====
section
/-! SUPPORT. What no command undoes (Keeps), for the functions of Machine/Keys. -/

namespace Sys2Proof.Machine

theorem State.sessionOpen_keeps {s0 : State} {s : State} (id : Nat) (hs : Keeps s0 s) : Keeps s0 (State.sessionOpen s id) := by
  unfold State.sessionOpen
  repeat' first
    | with_reducible assumption
    | intro _
    | with_reducible apply State.modJob_keeps
    | with_reducible apply State.during_keeps
    | with_reducible apply State.withDraw_keeps
    | with_reducible apply State.finish_keeps

theorem execSessionOpen_keeps {s0 : State} (job : Nat) {s : State} (hs : Keeps s0 s) : ResKeeps s0 (execSessionOpen job s) := by
  unfold execSessionOpen
  repeat' first
    | with_reducible assumption
    | with_reducible apply ResKeeps.next
    | intro _
    | with_reducible apply State.sessionOpen_keeps

theorem State.sessionClose_keeps {s0 : State} {s : State} (id : Nat) (hs : Keeps s0 s) : Keeps s0 (State.sessionClose s id) := by
  unfold State.sessionClose
  repeat' first
    | with_reducible assumption
    | intro _
    | with_reducible apply State.during_keeps
    | with_reducible apply State.finish_keeps
    | with_reducible apply Keeps.ite

theorem execSessionClose_keeps {s0 : State} (job : Nat) {s : State} (hs : Keeps s0 s) : ResKeeps s0 (execSessionClose job s) := by
  unfold execSessionClose
  repeat' first
    | with_reducible assumption
    | with_reducible apply ResKeeps.next
    | intro _
    | with_reducible apply State.sessionClose_keeps

theorem State.keyImport_keeps {s0 : State} {s : State} (id : Nat) (hs : Keeps s0 s) : Keeps s0 (State.keyImport s id) := by
  unfold State.keyImport
  repeat' first
    | with_reducible assumption
    | intro _
    | with_reducible apply State.modJob_keeps
    | with_reducible apply State.failJob_keeps
    | with_reducible apply State.during_keeps
    | with_reducible apply State.finish_keeps
    | with_reducible apply Keeps.ite
    | with_reducible apply Keeps.foldl
    | with_reducible apply Keeps.of
    | with_reducible refine Keeps.roots ?_ rfl rfl rfl
    | split

theorem execKeyImport_keeps {s0 : State} (job : Nat) {s : State} (hs : Keeps s0 s) : ResKeeps s0 (execKeyImport job s) := by
  unfold execKeyImport
  repeat' first
    | with_reducible assumption
    | with_reducible apply ResKeeps.next
    | intro _
    | with_reducible apply State.keyImport_keeps

theorem State.keyExport_keeps {s0 : State} {s : State} (id : Nat) (hs : Keeps s0 s) : Keeps s0 (State.keyExport s id) := by
  unfold State.keyExport
  repeat' first
    | with_reducible assumption
    | intro _
    | with_reducible apply State.stageResult_keeps
    | with_reducible apply State.failJob_keeps
    | with_reducible apply State.during_keeps
    | with_reducible apply State.finish_keeps
    | with_reducible apply Keeps.ite
    | with_reducible apply Keeps.foldl
    | with_reducible apply Keeps.of
    | with_reducible refine Keeps.roots ?_ rfl rfl rfl
    | split

theorem execKeyExport_keeps {s0 : State} (job : Nat) {s : State} (hs : Keeps s0 s) : ResKeeps s0 (execKeyExport job s) := by
  unfold execKeyExport
  repeat' first
    | with_reducible assumption
    | with_reducible apply ResKeeps.next
    | intro _
    | with_reducible apply State.keyExport_keeps

theorem State.keyErase_keeps {s0 : State} {s : State} (id : Nat) (hs : Keeps s0 s) : Keeps s0 (State.keyErase s id) := by
  unfold State.keyErase
  repeat' first
    | with_reducible assumption
    | intro _
    | with_reducible apply State.during_keeps
    | with_reducible apply State.finish_keeps

theorem execKeyErase_keeps {s0 : State} (job : Nat) {s : State} (hs : Keeps s0 s) : ResKeeps s0 (execKeyErase job s) := by
  unfold execKeyErase
  repeat' first
    | with_reducible assumption
    | with_reducible apply ResKeeps.next
    | intro _
    | with_reducible apply State.keyErase_keeps

theorem State.oskInstall_keeps {s0 : State} {s : State} (id : Nat) (hs : Keeps s0 s) : Keeps s0 (State.oskInstall s id) := by
  unfold State.oskInstall
  repeat' first
    | with_reducible assumption
    | intro _
    | with_reducible apply State.modJob_keeps
    | with_reducible apply State.failJob_keeps
    | with_reducible apply State.during_keeps
    | with_reducible apply State.finish_keeps
    | with_reducible apply Keeps.ite

theorem execOskInstall_keeps {s0 : State} (job : Nat) {s : State} (hs : Keeps s0 s) : ResKeeps s0 (execOskInstall job s) := by
  unfold execOskInstall
  repeat' first
    | with_reducible assumption
    | with_reducible apply ResKeeps.next
    | intro _
    | with_reducible apply State.oskInstall_keeps

theorem State.attest_keeps {s0 : State} {s : State} (id : Nat) (hs : Keeps s0 s) : Keeps s0 (State.attest s id) := by
  unfold State.attest
  repeat' first
    | with_reducible assumption
    | intro _
    | with_reducible apply State.failJob_keeps
    | with_reducible apply State.charge_keeps
    | with_reducible apply State.during_keeps
    | with_reducible apply State.withShroud_keeps
    | with_reducible apply State.finish_keeps
    | with_reducible apply Keeps.ite
    | with_reducible apply Keeps.foldl
    | with_reducible apply Keeps.of
    | with_reducible refine Keeps.roots ?_ rfl rfl rfl
    | split

theorem execAttest_keeps {s0 : State} (job : Nat) {s : State} (hs : Keeps s0 s) : ResKeeps s0 (execAttest job s) := by
  unfold execAttest
  repeat' first
    | with_reducible assumption
    | with_reducible apply ResKeeps.next
    | intro _
    | with_reducible apply State.attest_keeps

theorem State.random_keeps {s0 : State} {s : State} (id : Nat) (hs : Keeps s0 s) : Keeps s0 (State.random s id) := by
  unfold State.random
  repeat' first
    | with_reducible assumption
    | intro _
    | with_reducible apply State.during_keeps
    | with_reducible apply State.withDraw_keeps
    | with_reducible apply State.finish_keeps

theorem execRandom_keeps {s0 : State} (job : Nat) {s : State} (hs : Keeps s0 s) : ResKeeps s0 (execRandom job s) := by
  unfold execRandom
  repeat' first
    | with_reducible assumption
    | with_reducible apply ResKeeps.next
    | intro _
    | with_reducible apply State.random_keeps

end Sys2Proof.Machine
end

