-- ==== Sys2Proof/Laws/KeepsObjects.lean ====
section
/-! SUPPORT. What no command undoes (Keeps), for the functions of Machine/Objects. -/

namespace Sys2Proof.Machine

theorem State.withRecipientDraws_keeps {s0 : State} {s : State} (j : Job) (l : List (Nat × Nat)) (drawn : List (Bytes × Bytes)) (f : List (Bytes × Bytes) → State → State) (hs : Keeps s0 s)
    (hf : ∀ z : List (Bytes × Bytes), ∀ t : State, Keeps s0 t → Keeps s0 (f z t)) : Keeps s0 (State.withRecipientDraws s j l drawn f) := by
  induction l generalizing s drawn with
  | nil => exact hf _ _ hs
  | cons a rest ih =>
    unfold State.withRecipientDraws
    refine State.withDraw_keeps _ _ _ _ _ hs fun m t h => ?_
    exact State.withDrawIf_keeps _ _ _ _ _ _ _ h fun e u h2 => ih _ h2

theorem State.recipientBlocks_keeps {s0 : State} {s : State} (j : Job) (key : Bytes) (ks : List ((KeyFound × Nat) × Bytes × Bytes)) (hs : Keeps s0 s) : Keeps s0 (State.recipientBlocks s j key ks).2 := by
  have fold : ∀ (l : List ((KeyFound × Nat) × Bytes × Bytes)) (p : Bytes × State), Keeps s0 p.2 → Keeps s0 (l.foldl (fun p k =>
      let i := k.1.2
      let entry := (p.2.session j.entry.session).recipient i
      let a := field entry 0 1
      let s := if isMce a then p.2.readMceKey j.slice a (field entry 8 8) 2 else p.2
      let s := s.charge j.id (2 * encapsCost a) (hybridTaper a 2) kekWords
      let ck := anyEncaps a (k.1.1.publicKey a) k.2.1 k.2.2
      (p.1 ++ recipientBlock entry i (kwpWrap (recipientKek ck.2 j.entry.w5 i a) key) ck.1, s)) p).2 := by
    intro l
    induction l with
    | nil => exact fun _ h => h
    | cons a r ih => exact fun p h => ih _ (State.charge_keeps _ _ _ _ (Keeps.ite (State.readMceKey_keeps _ _ _ _ h) h))
  exact fold ks ([], s) hs

theorem State.recipientBlocks_keeps_eq {s0 : State} {s : State} {j : Job} {key : Bytes} {ks : List ((KeyFound × Nat) × Bytes × Bytes)} {x_ : Bytes} {t_ : State} (e_ : State.recipientBlocks s j key ks = (x_, t_)) (hs : Keeps s0 s) : Keeps s0 t_ := by
  have h_ : Keeps s0 (State.recipientBlocks s j key ks).2 := by apply State.recipientBlocks_keeps <;> assumption
  rw [e_] at h_
  exact h_

theorem State.skipRecipients_keeps {s0 : State} {s : State} (j : Job) (hs : Keeps s0 s) : Keeps s0 (State.skipRecipients s j) := by
  unfold State.skipRecipients
  repeat' first
    | with_reducible assumption
    | intro _
    | with_reducible apply State.modJob_keeps

theorem State.releaseSalts_keeps {s0 : State} {s : State} (id : Nat) (salts : List (BitVec 64)) (segments : Nat) (hs : Keeps s0 s) : Keeps s0 (State.releaseSalts s id salts segments) := by
  unfold State.releaseSalts
  repeat' first
    | with_reducible assumption
    | intro _
    | with_reducible apply State.releaseRecord_keeps
    | with_reducible apply Keeps.ite
    | with_reducible apply Keeps.foldl

theorem State.loadObject_keeps {s0 : State} {s : State} (j : Job) (o : ObjectState) (hs : Keeps s0 s) : Keeps s0 (State.loadObject s j o) := by
  unfold State.loadObject
  repeat' first
    | with_reducible assumption
    | intro _
    | with_reducible apply State.setWick_keeps
    | with_reducible apply State.modObject_keeps
    | with_reducible apply State.loadSealerObject_keeps
    | with_reducible apply Keeps.ite

theorem State.sendHead_keeps {s0 : State} {s : State} (j : Job) (o : ObjectState) (blocks : Bytes) (hs : Keeps s0 s) : Keeps s0 (State.sendHead s j o blocks) := by
  unfold State.sendHead
  repeat' first
    | with_reducible assumption
    | intro _
    | with_reducible apply State.modJob_keeps
    | with_reducible apply State.sendCredit_keeps
    | with_reducible apply State.modObject_keeps
    | with_reducible apply State.releaseRecord_keeps
    | with_reducible apply State.releaseSalts_keeps
    | with_reducible apply Keeps.ite

theorem State.startObject_keeps {s0 : State} {s : State} (j : Job) (o : ObjectState) (hs : Keeps s0 s) : Keeps s0 (State.startObject s j o) := by
  unfold State.startObject
  repeat' first
    | with_reducible assumption
    | intro _
    | refine State.expandRoles_keeps_eq (by assumption) ?_
    | refine State.recipientBlocks_keeps_eq (by assumption) ?_
    | with_reducible apply State.checkFailed_keeps
    | with_reducible apply State.expandRoles_keeps
    | with_reducible apply State.withRecipientDraws_keeps
    | with_reducible apply State.recipientBlocks_keeps
    | with_reducible apply State.sendHead_keeps
    | with_reducible apply Keeps.ite
    | with_reducible apply Keeps.foldl
    | with_reducible apply Keeps.of
    | with_reducible refine Keeps.roots ?_ rfl rfl rfl
    | split
    | simp only [keeps_mk]

theorem State.objectWrite_keeps {s0 : State} {s : State} (id : Nat) (check : Bool) (hs : Keeps s0 s) : Keeps s0 (State.objectWrite s id check) := by
  unfold State.objectWrite
  repeat' first
    | with_reducible assumption
    | intro _
    | with_reducible apply State.modObject_keeps
    | with_reducible apply State.newSaltEpoch_keeps
    | with_reducible apply State.checkFailed_keeps
    | with_reducible apply State.during_keeps
    | with_reducible apply State.withDrawIf_keeps
    | with_reducible apply State.skipRecipients_keeps
    | with_reducible apply State.loadObject_keeps
    | with_reducible apply State.startObject_keeps
    | with_reducible apply Keeps.ite

theorem execObjectWrite_keeps {s0 : State} (job : Nat) (check : Bool) {s : State} (hs : Keeps s0 s) : ResKeeps s0 (execObjectWrite job check s) := by
  unfold execObjectWrite
  repeat' first
    | with_reducible assumption
    | with_reducible apply ResKeeps.next
    | intro _
    | with_reducible apply State.objectWrite_keeps

theorem State.sealerReady_keeps {s0 : State} {s : State} (j : Job) (hs : Keeps s0 s) : Keeps s0 (State.sealerReady s j) := by
  unfold State.sealerReady
  repeat' first
    | with_reducible assumption
    | intro _
    | with_reducible apply State.loadSealerObject_keeps
    | with_reducible apply Keeps.ite

theorem State.takeFeed_keeps {s0 : State} {s : State} (n : Nat) (count : Nat) (bytes : Bytes) (hs : Keeps s0 s) : OptKeeps s0 (State.takeFeed s n count bytes) := by
  unfold State.takeFeed
  repeat' first
    | with_reducible assumption
    | with_reducible apply OptKeeps.ite
    | with_reducible apply OptKeeps.some
    | with_reducible exact OptKeeps.none
    | with_reducible apply State.setStream_keeps
    | with_reducible apply State.sendCredit_keeps
    | simp only []

theorem State.takeFeed_keeps_eq {s0 : State} {s : State} {n : Nat} {count : Nat} {bytes : Bytes} {t_ : State} (e_ : State.takeFeed s n count bytes = some t_) (hs : Keeps s0 s) : Keeps s0 t_ := by
  have h_ : OptKeeps s0 (State.takeFeed s n count bytes) := by apply State.takeFeed_keeps <;> assumption
  exact h_ _ e_

theorem State.sealSegment_keeps {s0 : State} {s : State} (j : Job) (bytes : Bytes) (hs : Keeps s0 s) : Keeps s0 (State.sealSegment s j bytes) := by
  unfold State.sealSegment
  repeat' first
    | with_reducible assumption
    | intro _
    | with_reducible apply State.bump_keeps
    | with_reducible apply State.setSealer_keeps
    | with_reducible apply State.modObject_keeps
    | with_reducible apply State.releaseRecord_keeps
    | with_reducible apply State.sealerReady_keeps

theorem State.segmentArrival_keeps {s0 : State} {s : State} (id : Nat) (bytes : Bytes) (hs : Keeps s0 s) : Keeps s0 (State.segmentArrival s id bytes) := by
  unfold State.segmentArrival
  repeat' first
    | with_reducible assumption
    | intro _
    | refine State.takeFeed_keeps_eq (by assumption) ?_
    | with_reducible apply State.emit_keeps
    | with_reducible apply State.failJob_keeps
    | with_reducible apply State.during_keeps
    | with_reducible apply State.takeFeed_keeps
    | with_reducible apply State.sealSegment_keeps
    | with_reducible apply Keeps.ite
    | with_reducible apply Keeps.foldl
    | with_reducible apply Keeps.of
    | with_reducible refine Keeps.roots ?_ rfl rfl rfl
    | split

theorem execSegmentArrival_keeps {s0 : State} (job : Nat) (bytes : Bytes) {s : State} (hs : Keeps s0 s) : ResKeeps s0 (execSegmentArrival job bytes s) := by
  unfold execSegmentArrival
  repeat' first
    | with_reducible assumption
    | with_reducible apply ResKeeps.next
    | intro _
    | with_reducible apply State.segmentArrival_keeps

theorem State.loadSigners_keeps {s0 : State} {s : State} (j : Job) (first : Bool) (hs : Keeps s0 s) : Keeps s0 (State.loadSigners s j first) := by
  unfold State.loadSigners
  repeat' first
    | with_reducible assumption
    | intro _
    | with_reducible apply State.setWick_keeps
    | with_reducible apply State.keepKeys_keeps
    | with_reducible apply Keeps.ite

theorem State.sendTail_keeps {s0 : State} {s : State} (j : Job) (body : Bytes) (hs : Keeps s0 s) : Keeps s0 (State.sendTail s j body) := by
  unfold State.sendTail
  repeat' first
    | with_reducible assumption
    | intro _
    | with_reducible apply State.modJob_keeps
    | with_reducible apply State.leaveSealers_keeps
    | with_reducible apply State.releaseUnits_keeps
    | with_reducible apply State.modObject_keeps
    | with_reducible apply State.releaseRecord_keeps

theorem State.manifestSign_keeps {s0 : State} {s : State} (id : Nat) (check : Bool) (hs : Keeps s0 s) : Keeps s0 (State.manifestSign s id check) := by
  unfold State.manifestSign
  repeat' first
    | with_reducible assumption
    | intro _
    | refine State.expandRoles_keeps_eq (by assumption) ?_
    | with_reducible apply State.replayJob_keeps
    | with_reducible apply State.checkFailed_keeps
    | with_reducible apply State.charge_keeps
    | with_reducible apply State.during_keeps
    | with_reducible apply State.withDrawIf_keeps
    | with_reducible apply State.withShroud_keeps
    | with_reducible apply State.expandRoles_keeps
    | with_reducible apply State.loadSigners_keeps
    | with_reducible apply State.sendTail_keeps
    | with_reducible apply Keeps.ite
    | with_reducible apply Keeps.foldl
    | with_reducible apply Keeps.of
    | with_reducible refine Keeps.roots ?_ rfl rfl rfl
    | split
    | simp only [keeps_mk]

theorem execManifestSign_keeps {s0 : State} (job : Nat) (check : Bool) {s : State} (hs : Keeps s0 s) : ResKeeps s0 (execManifestSign job check s) := by
  unfold execManifestSign
  repeat' first
    | with_reducible assumption
    | with_reducible apply ResKeeps.next
    | intro _
    | with_reducible apply State.manifestSign_keeps

theorem State.confirmed_keeps {s0 : State} {s : State} (j : Job) (same : Bool) (hs : Keeps s0 s) : Keeps s0 (State.confirmed s j same) := by
  unfold State.confirmed
  repeat' first
    | with_reducible assumption
    | intro _
    | with_reducible apply State.stageResult_keeps
    | with_reducible apply State.checkFailed_keeps
    | with_reducible apply Keeps.ite

theorem State.objectRestore_keeps {s0 : State} {s : State} (id : Nat) (check : Bool) (hs : Keeps s0 s) : Keeps s0 (State.objectRestore s id check) := by
  unfold State.objectRestore
  repeat' first
    | with_reducible assumption
    | intro _
    | with_reducible apply State.evaluate_keeps
    | with_reducible apply State.modObject_keeps
    | with_reducible apply State.checkFailed_keeps
    | with_reducible apply State.during_keeps
    | with_reducible apply State.confirmed_keeps
    | with_reducible apply Keeps.ite

theorem execObjectRestore_keeps {s0 : State} (job : Nat) (check : Bool) {s : State} (hs : Keeps s0 s) : ResKeeps s0 (execObjectRestore job check s) := by
  unfold execObjectRestore
  repeat' first
    | with_reducible assumption
    | with_reducible apply ResKeeps.next
    | intro _
    | with_reducible apply State.objectRestore_keeps

theorem State.endRestore_keeps {s0 : State} {s : State} (id : Nat) (st : Nat) (w6 : Nat) (hs : Keeps s0 s) : Keeps s0 (State.endRestore s id st w6) := by
  unfold State.endRestore
  repeat' first
    | with_reducible assumption
    | intro _
    | with_reducible apply State.stageResult_keeps

theorem State.restoreHead_keeps {s0 : State} {s : State} (j : Job) (r : Bytes) (hs : Keeps s0 s) : Keeps s0 (State.restoreHead s j r) := by
  unfold State.restoreHead
  repeat' first
    | with_reducible assumption
    | intro _
    | refine State.expandRole_keeps_eq (by assumption) ?_
    | with_reducible apply State.modObject_keeps
    | with_reducible apply State.checkFailed_keeps
    | with_reducible apply State.loadSealerObject_keeps
    | with_reducible apply State.charge_keeps
    | with_reducible apply State.expandRole_keeps
    | with_reducible apply State.keepKeys_keeps
    | with_reducible apply State.endRestore_keeps
    | with_reducible apply Keeps.ite
    | with_reducible apply Keeps.foldl
    | with_reducible apply Keeps.of
    | with_reducible refine Keeps.roots ?_ rfl rfl rfl
    | split
    | simp only [keeps_mk]

theorem State.deliver_keeps {s0 : State} {s : State} (j : Job) (addr : Nat) (b : Bytes) (hs : Keeps s0 s) : Keeps s0 (State.deliver s j addr b) := by
  unfold State.deliver
  repeat' first
    | with_reducible assumption
    | intro _
    | with_reducible apply State.emit_keeps
    | with_reducible apply State.setFn_keeps
    | with_reducible apply Keeps.ite

theorem State.turnSealer_keeps {s0 : State} {s : State} (j : Job) (f : Sealer → Sealer) (hs : Keeps s0 s) : Keeps s0 (State.turnSealer s j f) := by
  unfold State.turnSealer
  repeat' first
    | with_reducible assumption
    | intro _
    | with_reducible apply State.setSealer_keeps
    | with_reducible apply Keeps.ite

theorem State.restoreSegment_keeps {s0 : State} {s : State} (j : Job) (r : Bytes) (hs : Keeps s0 s) : Keeps s0 (State.restoreSegment s j r) := by
  unfold State.restoreSegment
  repeat' first
    | with_reducible assumption
    | intro _
    | with_reducible apply State.bump_keeps
    | with_reducible apply State.hostNotice_keeps
    | with_reducible apply State.modObject_keeps
    | with_reducible apply State.sealerReady_keeps
    | with_reducible apply State.endRestore_keeps
    | with_reducible apply State.deliver_keeps
    | with_reducible apply State.turnSealer_keeps
    | with_reducible apply Keeps.ite

theorem State.restoreTail_keeps {s0 : State} {s : State} (j : Job) (r : Bytes) (hs : Keeps s0 s) : Keeps s0 (State.restoreTail s j r) := by
  unfold State.restoreTail
  repeat' first
    | with_reducible assumption
    | intro _
    | refine State.expandRoles_keeps_eq (by assumption) ?_
    | with_reducible apply State.checkFailed_keeps
    | with_reducible apply State.charge_keeps
    | with_reducible apply State.expandRoles_keeps
    | with_reducible apply State.endRestore_keeps
    | with_reducible apply Keeps.ite
    | with_reducible apply Keeps.foldl
    | with_reducible apply Keeps.of
    | with_reducible refine Keeps.roots ?_ rfl rfl rfl
    | split
    | simp only [keeps_mk]

theorem State.restoreRecord_keeps {s0 : State} {s : State} (id : Nat) (hs : Keeps s0 s) : Keeps s0 (State.restoreRecord s id) := by
  unfold State.restoreRecord
  repeat' first
    | with_reducible assumption
    | intro _
    | with_reducible apply State.setStream_keeps
    | with_reducible apply State.modObject_keeps
    | with_reducible apply State.during_keeps
    | with_reducible apply State.endRestore_keeps
    | with_reducible apply State.restoreHead_keeps
    | with_reducible apply State.turnSealer_keeps
    | with_reducible apply State.restoreSegment_keeps
    | with_reducible apply State.restoreTail_keeps
    | with_reducible apply Keeps.ite
    | with_reducible apply Keeps.foldl
    | with_reducible apply Keeps.of
    | with_reducible refine Keeps.roots ?_ rfl rfl rfl
    | split
    | simp only [keeps_mk]

theorem execRestoreRecord_keeps {s0 : State} (job : Nat) {s : State} (hs : Keeps s0 s) : ResKeeps s0 (execRestoreRecord job s) := by
  unfold execRestoreRecord
  repeat' first
    | with_reducible assumption
    | with_reducible apply ResKeeps.next
    | intro _
    | with_reducible apply State.restoreRecord_keeps

theorem State.streamMark_keeps {s0 : State} {s : State} (id : Nat) (hs : Keeps s0 s) : Keeps s0 (State.streamMark s id) := by
  unfold State.streamMark
  repeat' first
    | with_reducible assumption
    | intro _
    | with_reducible apply State.setStream_keeps
    | with_reducible apply State.evaluate_keeps
    | with_reducible apply State.during_keeps
    | with_reducible apply Keeps.ite

theorem execStreamMark_keeps {s0 : State} (job : Nat) {s : State} (hs : Keeps s0 s) : ResKeeps s0 (execStreamMark job s) := by
  unfold execStreamMark
  repeat' first
    | with_reducible assumption
    | with_reducible apply ResKeeps.next
    | intro _
    | with_reducible apply State.streamMark_keeps

theorem State.discardHeld_keeps {s0 : State} {s : State} (n : Nat) (hs : Keeps s0 s) : Keeps s0 (State.discardHeld s n) := by
  unfold State.discardHeld
  repeat' first
    | with_reducible assumption
    | intro _
    | with_reducible apply State.setStream_keeps
    | with_reducible apply Keeps.ite
    | with_reducible apply Keeps.foldl
    | with_reducible apply Keeps.of
    | with_reducible refine Keeps.roots ?_ rfl rfl rfl
    | split

theorem State.streamStop_keeps {s0 : State} {s : State} (id : Nat) (hs : Keeps s0 s) : Keeps s0 (State.streamStop s id) := by
  unfold State.streamStop
  repeat' first
    | with_reducible assumption
    | intro _
    | with_reducible apply State.sendGlide_keeps
    | with_reducible apply State.during_keeps
    | with_reducible apply State.finish_keeps
    | with_reducible apply State.discardHeld_keeps
    | with_reducible apply Keeps.ite

theorem execStreamStop_keeps {s0 : State} (job : Nat) {s : State} (hs : Keeps s0 s) : ResKeeps s0 (execStreamStop job s) := by
  unfold execStreamStop
  repeat' first
    | with_reducible assumption
    | with_reducible apply ResKeeps.next
    | intro _
    | with_reducible apply State.streamStop_keeps

end Sys2Proof.Machine
end

