-- ==== Sys2Proof/Laws/KeepsOwnerPrograms.lean ====
section
/-! SUPPORT. What no command undoes (Keeps), for the functions of Machine/OwnerPrograms. -/

namespace Sys2Proof.Machine

theorem State.ownerLoad_keeps {s0 : State} {s : State} (id : Nat) (hs : Keeps s0 s) : Keeps s0 (State.ownerLoad s id) := by
  unfold State.ownerLoad
  repeat' first
    | with_reducible assumption
    | intro _
    | with_reducible apply State.modJob_keeps
    | with_reducible apply State.failJob_keeps
    | with_reducible apply State.setProgram_keeps
    | with_reducible apply State.during_keeps
    | with_reducible apply State.withDraw_keeps
    | with_reducible apply State.finish_keeps
    | with_reducible apply Keeps.ite
    | with_reducible apply Keeps.foldl
    | with_reducible apply Keeps.of
    | with_reducible refine Keeps.roots ?_ rfl rfl rfl
    | split

theorem execOwnProgLoad_keeps {s0 : State} (job : Nat) {s : State} (hs : Keeps s0 s) : ResKeeps s0 (execOwnProgLoad job s) := by
  unfold execOwnProgLoad
  repeat' first
    | with_reducible assumption
    | with_reducible apply ResKeeps.next
    | intro _
    | with_reducible apply State.ownerLoad_keeps

theorem State.ownerDone_keeps {s0 : State} {s : State} (j : Job) (status : Nat) (len : Nat) (hs : Keeps s0 s) : Keeps s0 (State.ownerDone s j status len) := by
  unfold State.ownerDone
  repeat' first
    | with_reducible assumption
    | intro _
    | with_reducible apply State.stageResult_keeps
    | with_reducible apply State.failJob_keeps
    | with_reducible apply State.finish_keeps
    | with_reducible apply Keeps.ite

theorem State.ownerDrop_keeps {s0 : State} {s : State} (id : Nat) (hs : Keeps s0 s) : Keeps s0 (State.ownerDrop s id) := by
  unfold State.ownerDrop
  repeat' first
    | with_reducible assumption
    | intro _
    | with_reducible apply State.during_keeps
    | with_reducible apply State.finish_keeps

theorem execOwnProgDrop_keeps {s0 : State} (job : Nat) {s : State} (hs : Keeps s0 s) : ResKeeps s0 (execOwnProgDrop job s) := by
  unfold execOwnProgDrop
  repeat' first
    | with_reducible assumption
    | with_reducible apply ResKeeps.next
    | intro _
    | with_reducible apply State.ownerDrop_keeps

end Sys2Proof.Machine
end

