-- ==== Sys2Proof/Laws/KeepsRingOps.lean ====
section
/-! SUPPORT. What no command undoes (Keeps), for the functions of Machine/RingOps. -/

namespace Sys2Proof.Machine

theorem State.askRun_keeps {s0 : State} {s : State} (g : Nat) (start : Nat) (len : Nat) (hs : Keeps s0 s) : Keeps s0 (State.askRun s g start len) := by
  unfold State.askRun
  repeat' first
    | with_reducible assumption
    | intro _
    | with_reducible apply State.setEntry_keeps
    | with_reducible apply State.emit_keeps
    | with_reducible apply State.setQueue_keeps
    | with_reducible apply State.setQueueState_keeps
    | with_reducible apply Keeps.ite

theorem scanRuns_keeps {s0 : State} (g : Nat) (y0 : Nat) {y1 : State} (hy1 : Keeps s0 y1) : Keeps s0 (scanRuns g y0 y1) := by
  induction y0 generalizing y1 with
  | zero =>
    unfold scanRuns
    repeat' first
      | with_reducible assumption
  | succ _ ih =>
    unfold scanRuns
    repeat' first
      | with_reducible assumption
      | with_reducible apply ih
      | intro _
      | with_reducible apply State.askRun_keeps
      | with_reducible apply Keeps.ite

theorem State.scan_keeps {s0 : State} {s : State} (g : Nat) (hs : Keeps s0 s) : Keeps s0 (State.scan s g) := by
  unfold State.scan
  repeat' first
    | with_reducible assumption
    | intro _
    | with_reducible apply scanRuns_keeps

theorem State.stopScan_keeps {s0 : State} {s : State} (g : Nat) (hs : Keeps s0 s) : Keeps s0 (State.stopScan s g) := by
  unfold State.stopScan
  repeat' first
    | with_reducible assumption
    | intro _
    | with_reducible apply State.bump_keeps
    | with_reducible apply State.setQueue_keeps
    | with_reducible apply State.reread_keeps
    | with_reducible apply Keeps.ite

theorem State.takeRun_keeps {s0 : State} {s : State} (g : Nat) (r : RingRun) (entries : List RingEntry) (hs : Keeps s0 s) : Keeps s0 (State.takeRun s g r entries) := by
  unfold State.takeRun
  repeat' first
    | with_reducible assumption
    | intro _
    | with_reducible apply State.setQueue_keeps
    | with_reducible apply State.scan_keeps
    | with_reducible apply State.stopScan_keeps
    | with_reducible apply Keeps.ite

theorem State.reread_keeps {s0 : State} {s : State} (g : Nat) (hs : Keeps s0 s) : Keeps s0 (State.reread s g) := by
  unfold State.reread
  repeat' first
    | with_reducible assumption
    | intro _
    | with_reducible apply State.setQueue_keeps
    | with_reducible apply State.scan_keeps
    | with_reducible apply Keeps.ite
    | with_reducible apply Keeps.foldl
    | with_reducible apply Keeps.of
    | with_reducible refine Keeps.roots ?_ rfl rfl rfl
    | split
    | simp only [keeps_mk]

end Sys2Proof.Machine
end

