-- ==== Sys2Proof/Laws/KeepsSealers.lean ====
section
/-! SUPPORT. What no command undoes (Keeps), for the functions of Machine/Sealers. -/

namespace Sys2Proof.Machine

theorem State.withSealer_keeps {s0 : State} {s : State} (id : Nat) (op : Nat) (f : Job → Bytes → Bytes → State) (hs : Keeps s0 s) (hf : ∀ z0 : Job, ∀ z1 : Bytes, ∀ z2 : Bytes, Keeps s0 (f z0 z1 z2)) : Keeps s0 (State.withSealer s id op f) := by
  unfold State.withSealer
  repeat' first
    | with_reducible assumption
    | intro _
    | with_reducible apply State.failJob_keeps
    | with_reducible apply State.during_keeps
    | with_reducible apply Keeps.ite
    | with_reducible apply Keeps.foldl
    | with_reducible apply hf
    | with_reducible apply Keeps.of
    | with_reducible refine Keeps.roots ?_ rfl rfl rfl
    | split
    | simp only [keeps_mk]

theorem State.tagFails_keeps {s0 : State} {s : State} (j : Job) (hs : Keeps s0 s) : Keeps s0 (State.tagFails s j) := by
  unfold State.tagFails
  repeat' first
    | with_reducible assumption
    | intro _
    | with_reducible apply State.bump_keeps
    | with_reducible apply State.failJob_keeps

theorem State.readAgain_keeps {s0 : State} {s : State} (j : Job) (k : State → State) (hs : Keeps s0 s) (hk : ∀ z0 : State, Keeps s0 z0 → Keeps s0 (k z0)) : Keeps s0 (State.readAgain s j k) := by
  unfold State.readAgain
  repeat' first
    | with_reducible assumption
    | intro _
    | with_reducible apply State.emit_keeps
    | with_reducible apply State.hostNotice_keeps
    | with_reducible apply State.failJob_keeps
    | with_reducible apply Keeps.ite
    | with_reducible apply Keeps.foldl
    | with_reducible apply hk

theorem State.aeadEncrypt_keeps {s0 : State} {s : State} (id : Nat) (hs : Keeps s0 s) : Keeps s0 (State.aeadEncrypt s id) := by
  unfold State.aeadEncrypt
  repeat' first
    | with_reducible assumption
    | intro _
    | with_reducible apply State.finish_keeps
    | with_reducible apply State.withSealer_keeps
    | with_reducible apply State.readAgain_keeps

theorem execAeadEncrypt_keeps {s0 : State} (job : Nat) {s : State} (hs : Keeps s0 s) : ResKeeps s0 (execAeadEncrypt job s) := by
  unfold execAeadEncrypt
  repeat' first
    | with_reducible assumption
    | with_reducible apply ResKeeps.next
    | intro _
    | with_reducible apply State.aeadEncrypt_keeps

theorem State.aeadDecrypt_keeps {s0 : State} {s : State} (id : Nat) (hs : Keeps s0 s) : Keeps s0 (State.aeadDecrypt s id) := by
  unfold State.aeadDecrypt
  repeat' first
    | with_reducible assumption
    | intro _
    | with_reducible apply State.finish_keeps
    | with_reducible apply State.withSealer_keeps
    | with_reducible apply State.tagFails_keeps
    | with_reducible apply Keeps.ite
    | with_reducible apply Keeps.foldl
    | with_reducible apply Keeps.of
    | with_reducible refine Keeps.roots ?_ rfl rfl rfl
    | split
    | simp only [keeps_mk]

theorem execAeadDecrypt_keeps {s0 : State} (job : Nat) {s : State} (hs : Keeps s0 s) : ResKeeps s0 (execAeadDecrypt job s) := by
  unfold execAeadDecrypt
  repeat' first
    | with_reducible assumption
    | with_reducible apply ResKeeps.next
    | intro _
    | with_reducible apply State.aeadDecrypt_keeps

theorem State.holdData_keeps {s0 : State} {s : State} (j : Job) (b : Bytes) (hs : Keeps s0 s) : Keeps s0 (State.holdData s j b) := by
  unfold State.holdData
  repeat' first
    | with_reducible assumption
    | intro _
    | with_reducible apply State.setSealer_keeps
    | with_reducible apply State.stageResult_keeps

theorem State.kwpWrapJob_keeps {s0 : State} {s : State} (id : Nat) (hs : Keeps s0 s) : Keeps s0 (State.kwpWrapJob s id) := by
  unfold State.kwpWrapJob
  repeat' first
    | with_reducible assumption
    | intro _
    | with_reducible apply State.withSealer_keeps
    | with_reducible apply State.holdData_keeps

theorem execKwpWrap_keeps {s0 : State} (job : Nat) {s : State} (hs : Keeps s0 s) : ResKeeps s0 (execKwpWrap job s) := by
  unfold execKwpWrap
  repeat' first
    | with_reducible assumption
    | with_reducible apply ResKeeps.next
    | intro _
    | with_reducible apply State.kwpWrapJob_keeps

theorem State.kwpUnwrapJob_keeps {s0 : State} {s : State} (id : Nat) (hs : Keeps s0 s) : Keeps s0 (State.kwpUnwrapJob s id) := by
  unfold State.kwpUnwrapJob
  repeat' first
    | with_reducible assumption
    | intro _
    | with_reducible apply State.stageResult_keeps
    | with_reducible apply State.withSealer_keeps
    | with_reducible apply State.tagFails_keeps
    | with_reducible apply State.holdData_keeps
    | with_reducible apply Keeps.ite

theorem execKwpUnwrap_keeps {s0 : State} (job : Nat) {s : State} (hs : Keeps s0 s) : ResKeeps s0 (execKwpUnwrap job s) := by
  unfold execKwpUnwrap
  repeat' first
    | with_reducible assumption
    | with_reducible apply ResKeeps.next
    | intro _
    | with_reducible apply State.kwpUnwrapJob_keeps

end Sys2Proof.Machine
end

