-- ==== Sys2Proof/Laws/KeepsSignature.lean ====
section
/-! SUPPORT. What no command undoes (Keeps), for the functions of Machine/Signature. -/

namespace Sys2Proof.Machine

theorem State.sigKeygen_keeps {s0 : State} {s : State} (id : Nat) (check : Bool) (hs : Keeps s0 s) : Keeps s0 (State.sigKeygen s id check) := by
  unfold State.sigKeygen
  repeat' first
    | with_reducible assumption
    | intro _
    | with_reducible apply State.checkFailed_keeps
    | with_reducible apply State.charge_keeps
    | with_reducible apply State.chargeSecond_keeps
    | with_reducible apply State.during_keeps
    | with_reducible apply State.withDrawIf_keeps
    | with_reducible apply State.withShroud_keeps
    | with_reducible apply State.finishKeygen_keeps
    | with_reducible apply Keeps.ite

theorem execSigKeygen_keeps {s0 : State} (job : Nat) (check : Bool) {s : State} (hs : Keeps s0 s) : ResKeeps s0 (execSigKeygen job check s) := by
  unfold execSigKeygen
  repeat' first
    | with_reducible assumption
    | with_reducible apply ResKeeps.next
    | intro _
    | with_reducible apply State.sigKeygen_keeps

theorem State.dropLantern_keeps {s0 : State} {s : State} (id : Nat) (e : LanternEntry) (hs : Keeps s0 s) : Keeps s0 (State.dropLantern s id e) := by
  unfold State.dropLantern
  repeat' first
    | with_reducible assumption
    | intro _
    | with_reducible apply State.bump_keeps
    | with_reducible apply State.unpin_keeps
    | with_reducible apply Keeps.ite
    | with_reducible apply Keeps.foldl
    | with_reducible apply Keeps.of
    | with_reducible refine Keeps.roots ?_ rfl rfl rfl
    | split
    | simp only [keeps_mk]

theorem State.slhSignature_keeps {s0 : State} {s : State} (j : Job) (key : Bytes) (rnd : Bytes) (hs : Keeps s0 s) : Keeps s0 (State.slhSignature s j key rnd) := by
  unfold State.slhSignature
  repeat' first
    | with_reducible assumption
    | intro _
    | with_reducible apply State.bumpBy_keeps
    | with_reducible apply State.bump_keeps
    | with_reducible apply State.charge_keeps
    | with_reducible apply State.finish_keeps
    | with_reducible apply Keeps.ite

theorem State.mlSignature_keeps {s0 : State} {s : State} (j : Job) (key : Bytes) (rnd : Bytes) (hs : Keeps s0 s) : Keeps s0 (State.mlSignature s j key rnd) := by
  unfold State.mlSignature
  repeat' first
    | with_reducible assumption
    | intro _
    | with_reducible apply State.replayJob_keeps
    | with_reducible apply State.charge_keeps
    | with_reducible apply State.finish_keeps
    | with_reducible apply Keeps.ite
    | with_reducible apply Keeps.foldl
    | with_reducible apply Keeps.of
    | with_reducible refine Keeps.roots ?_ rfl rfl rfl
    | split
    | simp only [keeps_mk]

theorem State.sigSign_keeps {s0 : State} {s : State} (id : Nat) (check : Bool) (hs : Keeps s0 s) : Keeps s0 (State.sigSign s id check) := by
  unfold State.sigSign
  repeat' first
    | with_reducible assumption
    | intro _
    | with_reducible apply State.failJob_keeps
    | with_reducible apply State.during_keeps
    | with_reducible apply State.withDrawIf_keeps
    | with_reducible apply State.withShroud_keeps
    | with_reducible apply State.withKey_keeps
    | with_reducible apply State.dropLantern_keeps
    | with_reducible apply State.slhSignature_keeps
    | with_reducible apply State.mlSignature_keeps
    | with_reducible apply Keeps.ite
    | with_reducible apply Keeps.foldl
    | with_reducible apply Keeps.of
    | with_reducible refine Keeps.roots ?_ rfl rfl rfl
    | split

theorem execSigSign_keeps {s0 : State} (job : Nat) (check : Bool) {s : State} (hs : Keeps s0 s) : ResKeeps s0 (execSigSign job check s) := by
  unfold execSigSign
  repeat' first
    | with_reducible assumption
    | with_reducible apply ResKeeps.next
    | intro _
    | with_reducible apply State.sigSign_keeps

theorem State.sigVerify_keeps {s0 : State} {s : State} (id : Nat) (check : Bool) (hs : Keeps s0 s) : Keeps s0 (State.sigVerify s id check) := by
  unfold State.sigVerify
  repeat' first
    | with_reducible assumption
    | intro _
    | with_reducible apply State.failJob_keeps
    | with_reducible apply State.charge_keeps
    | with_reducible apply State.during_keeps
    | with_reducible apply State.withKey_keeps
    | with_reducible apply State.finish_keeps
    | with_reducible apply Keeps.ite

theorem execSigVerify_keeps {s0 : State} (job : Nat) (check : Bool) {s : State} (hs : Keeps s0 s) : ResKeeps s0 (execSigVerify job check s) := by
  unfold execSigVerify
  repeat' first
    | with_reducible assumption
    | with_reducible apply ResKeeps.next
    | intro _
    | with_reducible apply State.sigVerify_keeps

theorem State.writeRecords_keeps {s0 : State} {s : State} (id : Nat) (a : Nat) (key : Bytes) (rs : List (Nat × Nat)) (hs : Keeps s0 s) : Keeps s0 (State.writeRecords s id a key rs) := by
  unfold State.writeRecords
  repeat' first
    | with_reducible assumption
    | intro _
    | with_reducible apply State.bumpBy_keeps
    | with_reducible apply State.writeReservoir_keeps
    | with_reducible apply Keeps.ite
    | with_reducible apply Keeps.foldl
    | with_reducible apply Keeps.of
    | with_reducible refine Keeps.roots ?_ rfl rfl rfl
    | split

theorem State.taskDone_keeps {s0 : State} {s : State} (j : Job) (t : LanternTask) (key : Bytes) (hs : Keeps s0 s) : Keeps s0 (State.taskDone s j t key) := by
  unfold State.taskDone
  repeat' first
    | with_reducible assumption
    | intro _
    | with_reducible apply State.releaseUnits_keeps
    | with_reducible apply State.stageResult_keeps
    | with_reducible apply State.setTasks_keeps
    | with_reducible apply State.charge_keeps
    | with_reducible apply State.writeRecords_keeps
    | with_reducible apply Keeps.ite
    | with_reducible apply Keeps.foldl
    | with_reducible apply Keeps.of
    | with_reducible refine Keeps.roots ?_ rfl rfl rfl
    | split
    | simp only [keeps_mk]

theorem State.lanternBuild_keeps {s0 : State} {s : State} (id : Nat) (task : Nat) (check : Bool) (hs : Keeps s0 s) : Keeps s0 (State.lanternBuild s id task check) := by
  unfold State.lanternBuild
  refine State.during_keeps _ _ _ hs fun j => ?_
  split
  · exact hs
  · refine State.withShroud_keeps _ _ hs ?_
    split
    · exact State.failJob_keeps _ _ hs
    · simp only []
      split
      · exact State.replayTask_keeps _ _ _ hs
      · rename_i u e
        have h : Keeps s0 u := by
          split at e
          · exact State.expandRole_keeps_eq e hs
          · exact nomatch e
        exact State.taskDone_keeps _ _ _ (State.modJob_keeps _ _ (State.spendWords_keeps _ _ (State.keepKeys_keeps _ _ _ _ _ h)))
    · exact hs

theorem execLanternBuild_keeps {s0 : State} (job : Nat) (check : TaskCheck) {s : State} (hs : Keeps s0 s) : ResKeeps s0 (execLanternBuild job check s) := by
  unfold execLanternBuild
  repeat' first
    | with_reducible assumption
    | with_reducible apply ResKeeps.next
    | intro _
    | with_reducible apply State.lanternBuild_keeps

theorem State.lanternDrop_keeps {s0 : State} {s : State} (id : Nat) (hs : Keeps s0 s) : Keeps s0 (State.lanternDrop s id) := by
  unfold State.lanternDrop
  repeat' first
    | with_reducible assumption
    | intro _
    | with_reducible apply State.modJob_keeps
    | with_reducible apply State.stageResult_keeps
    | with_reducible apply State.during_keeps
    | with_reducible apply State.finish_keeps
    | with_reducible apply Keeps.ite
    | with_reducible apply Keeps.foldl
    | with_reducible apply Keeps.of
    | with_reducible refine Keeps.roots ?_ rfl rfl rfl
    | split

theorem execLanternDrop_keeps {s0 : State} (job : Nat) {s : State} (hs : Keeps s0 s) : ResKeeps s0 (execLanternDrop job s) := by
  unfold execLanternDrop
  repeat' first
    | with_reducible assumption
    | with_reducible apply ResKeeps.next
    | intro _
    | with_reducible apply State.lanternDrop_keeps

end Sys2Proof.Machine
end

