-- ==== Sys2Proof/Laws/KeepsCommitOps.lean ====
section
/-! SUPPORT. What no command undoes (Keeps), for the functions of Machine/CommitOps. -/

namespace Sys2Proof.Machine

theorem State.commitOpen_keeps {s0 : State} {s : State} (j : Job) (hs : Keeps s0 s) : Keeps s0 (State.commitOpen s j) := by
  unfold State.commitOpen
  repeat' first
    | with_reducible assumption
    | intro _
    | with_reducible apply State.setSession_keeps
    | with_reducible apply State.cacheOpened_keeps

theorem State.commitOsk_keeps {s0 : State} {s : State} (key : Bytes) (hs : Keeps s0 s) : Keeps s0 (State.commitOsk s key) := by
  unfold State.commitOsk
  repeat' first
    | with_reducible assumption
    | intro _
    | with_reducible apply State.setEntry_keeps
    | with_reducible apply State.countLife_keeps
    | with_reducible apply State.writeRecord_keeps
    | with_reducible apply Keeps.ite
    | with_reducible apply Keeps.foldl
    | with_reducible apply Keeps.of
    | with_reducible refine Keeps.roots ?_ rfl rfl rfl
    | split
    | simp only [keeps_mk]

theorem State.commitMce_keeps {s0 : State} {s : State} (j : Job) (hs : Keeps s0 s) : Keeps s0 (State.commitMce s j) := by
  unfold State.commitMce
  repeat' first
    | with_reducible assumption
    | intro _
    | with_reducible apply State.setMce_keeps

theorem State.commitMceDrop_keeps {s0 : State} {s : State} (j : Job) (hs : Keeps s0 s) : Keeps s0 (State.commitMceDrop s j) := by
  unfold State.commitMceDrop
  repeat' first
    | with_reducible assumption
    | intro _
    | with_reducible apply State.setMce_keeps

theorem State.commitLantern_keeps {s0 : State} {s : State} (j : Job) (hs : Keeps s0 s) : Keeps s0 (State.commitLantern s j) := by
  unfold State.commitLantern
  repeat' first
    | with_reducible assumption
    | intro _
    | with_reducible apply State.bump_keeps
    | with_reducible apply Keeps.ite
    | with_reducible apply Keeps.foldl
    | with_reducible apply Keeps.of
    | with_reducible refine Keeps.roots ?_ rfl rfl rfl
    | split
    | simp only [keeps_mk]

theorem State.commitLanternDrop_keeps {s0 : State} {s : State} (j : Job) (hs : Keeps s0 s) : Keeps s0 (State.commitLanternDrop s j) := by
  unfold State.commitLanternDrop
  repeat' first
    | with_reducible assumption
    | intro _
    | with_reducible apply State.bump_keeps
    | with_reducible apply State.release_keeps
    | with_reducible apply Keeps.ite
    | with_reducible apply Keeps.foldl
    | with_reducible apply Keeps.of
    | with_reducible refine Keeps.roots ?_ rfl rfl rfl
    | split
    | simp only [keeps_mk]

theorem State.commitProgram_keeps {s0 : State} {s : State} (j : Job) (hs : Keeps s0 s) : Keeps s0 (State.commitProgram s j) := by
  unfold State.commitProgram
  repeat' first
    | with_reducible assumption
    | intro _
    | with_reducible apply State.setProgram_keeps

theorem State.commitProgramDrop_keeps {s0 : State} {s : State} (j : Job) (hs : Keeps s0 s) : Keeps s0 (State.commitProgramDrop s j) := by
  unfold State.commitProgramDrop
  repeat' first
    | with_reducible assumption
    | intro _
    | with_reducible apply State.setProgram_keeps

theorem State.atContext_keeps {s0 : State} {s : State} (j : Job) (f : DigestContext → DigestContext) (hs : Keeps s0 s) : Keeps s0 (State.atContext s j f) := by
  unfold State.atContext
  repeat' first
    | with_reducible assumption
    | intro _
    | with_reducible apply State.setContext_keeps
    | with_reducible apply Keeps.ite
    | with_reducible apply Keeps.foldl
    | with_reducible apply Keeps.of
    | with_reducible refine Keeps.roots ?_ rfl rfl rfl
    | split

theorem State.commitDigOpen_keeps {s0 : State} {s : State} (j : Job) (hs : Keeps s0 s) : Keeps s0 (State.commitDigOpen s j) := by
  unfold State.commitDigOpen
  repeat' first
    | with_reducible assumption
    | intro _
    | with_reducible apply State.setContext_keeps

theorem State.commitUpdate_keeps {s0 : State} {s : State} (j : Job) (hs : Keeps s0 s) : Keeps s0 (State.commitUpdate s j) := by
  unfold State.commitUpdate
  repeat' first
    | with_reducible assumption
    | intro _
    | with_reducible apply State.setContext_keeps
    | with_reducible apply State.boundaryEnds_keeps
    | with_reducible apply Keeps.ite
    | with_reducible apply Keeps.foldl
    | with_reducible apply Keeps.of
    | with_reducible refine Keeps.roots ?_ rfl rfl rfl
    | split

theorem State.commitFinish_keeps {s0 : State} {s : State} (j : Job) (hs : Keeps s0 s) : Keeps s0 (State.commitFinish s j) := by
  unfold State.commitFinish
  repeat' first
    | with_reducible assumption
    | intro _
    | with_reducible apply State.atContext_keeps

theorem State.commitKey_keeps {s0 : State} {s : State} (j : Job) (hs : Keeps s0 s) : Keeps s0 (State.commitKey s j) := by
  unfold State.commitKey
  repeat' first
    | with_reducible assumption
    | intro _
    | with_reducible apply State.enterKey_keeps
    | with_reducible apply Keeps.ite
    | with_reducible apply Keeps.foldl
    | with_reducible apply Keeps.of
    | with_reducible refine Keeps.roots ?_ rfl rfl rfl
    | split

theorem State.commitOk_keeps {s0 : State} {s : State} (j : Job) (hs : Keeps s0 s) : Keeps s0 (State.commitOk s j) := by
  unfold State.commitOk
  repeat' first
    | with_reducible assumption
    | intro _
    | with_reducible apply State.freeSession_keeps
    | with_reducible apply State.emptySlot_keeps
    | with_reducible apply State.commitOpen_keeps
    | with_reducible apply State.commitOsk_keeps
    | with_reducible apply State.commitMce_keeps
    | with_reducible apply State.commitMceDrop_keeps
    | with_reducible apply State.commitLantern_keeps
    | with_reducible apply State.commitLanternDrop_keeps
    | with_reducible apply State.commitProgram_keeps
    | with_reducible apply State.commitProgramDrop_keeps
    | with_reducible apply State.atContext_keeps
    | with_reducible apply State.commitDigOpen_keeps
    | with_reducible apply State.commitUpdate_keeps
    | with_reducible apply State.commitFinish_keeps
    | with_reducible apply State.commitKey_keeps
    | with_reducible apply Keeps.ite

theorem State.commitFailed_keeps {s0 : State} {s : State} (j : Job) (hs : Keeps s0 s) : Keeps s0 (State.commitFailed s j) := by
  unfold State.commitFailed
  repeat' first
    | with_reducible assumption
    | intro _
    | with_reducible apply State.setSession_keeps
    | with_reducible apply Keeps.ite

theorem State.commit_keeps {s0 : State} {s : State} (j : Job) (hs : Keeps s0 s) : Keeps s0 (State.commit s j) := by
  unfold State.commit
  repeat' first
    | with_reducible assumption
    | intro _
    | with_reducible apply State.commitOk_keeps
    | with_reducible apply State.commitFailed_keeps
    | with_reducible apply Keeps.ite

theorem State.jobWrite_keeps {s0 : State} {s : State} (j : Job) (kind : HostWriteKind) (addr : Nat) (b : Bytes) (hs : Keeps s0 s) : Keeps s0 (State.jobWrite s j kind addr b) := by
  unfold State.jobWrite
  repeat' first
    | with_reducible assumption
    | intro _
    | with_reducible apply State.emit_keeps

theorem State.judgeOutput_keeps {s0 : State} {s : State} (j : Job) (hs : Keeps s0 s) : Keeps s0 (State.judgeOutput s j).2 := by
  unfold State.judgeOutput
  repeat' first
    | with_reducible assumption
    | intro _
    | with_reducible apply State.hostNotice_keeps
    | with_reducible apply Keeps.ite
    | with_reducible apply Keeps.foldl
    | with_reducible apply Keeps.of
    | with_reducible refine Keeps.roots ?_ rfl rfl rfl
    | split
    | simp only [keeps_mk]

theorem State.judgeOutput_keeps_eq {s0 : State} {s : State} {j : Job} {x_ : Job} {t_ : State} (e_ : State.judgeOutput s j = (x_, t_)) (hs : Keeps s0 s) : Keeps s0 t_ := by
  have h_ : Keeps s0 (State.judgeOutput s j).2 := by apply State.judgeOutput_keeps <;> assumption
  rw [e_] at h_
  exact h_

theorem State.writeOutput_keeps {s0 : State} {s : State} (j : Job) (hs : Keeps s0 s) : Keeps s0 (State.writeOutput s j) := by
  unfold State.writeOutput
  repeat' first
    | with_reducible assumption
    | intro _
    | with_reducible apply State.jobWrite_keeps
    | with_reducible apply Keeps.ite

theorem State.writeEntryWords_keeps {s0 : State} {s : State} (j : Job) (hs : Keeps s0 s) : Keeps s0 (State.writeEntryWords s j) := by
  unfold State.writeEntryWords
  repeat' first
    | with_reducible assumption
    | intro _
    | with_reducible apply State.writeBackFailed_keeps
    | with_reducible apply State.jobWrite_keeps
    | with_reducible apply Keeps.ite

theorem State.writeJob_keeps {s0 : State} {s : State} (j : Job) (hs : Keeps s0 s) : Keeps s0 (State.writeJob s j) := by
  unfold State.writeJob
  repeat' first
    | with_reducible assumption
    | intro _
    | with_reducible apply State.entryDone_keeps
    | with_reducible apply State.writeOutput_keeps
    | with_reducible apply State.writeEntryWords_keeps
    | with_reducible apply Keeps.ite

theorem State.leaveStreams_keeps {s0 : State} {s : State} (id : Nat) (hs : Keeps s0 s) : Keeps s0 (State.leaveStreams s id) := by
  unfold State.leaveStreams
  repeat' first
    | with_reducible assumption
    | intro _
    | with_reducible apply Keeps.ite
    | with_reducible apply Keeps.foldl
    | with_reducible apply Keeps.of
    | with_reducible refine Keeps.roots ?_ rfl rfl rfl
    | split
    | simp only [keeps_mk]

theorem State.retire_keeps {s0 : State} {s : State} (j : Job) (hs : Keeps s0 s) : Keeps s0 (State.retire s j) := by
  unfold State.retire
  repeat' first
    | with_reducible assumption
    | intro _
    | with_reducible apply State.dropJob_keeps
    | with_reducible apply State.scan_keeps
    | with_reducible apply State.leaveSealers_keeps
    | with_reducible apply State.releaseContexts_keeps
    | with_reducible apply State.settleSession_keeps
    | with_reducible apply State.unpin_keeps
    | with_reducible apply State.freeBuild_keeps
    | with_reducible apply State.leaveFeed_keeps
    | with_reducible apply State.settleDrain_keeps
    | with_reducible apply State.settleTurns_keeps
    | with_reducible apply State.leaveStreams_keeps
    | with_reducible apply Keeps.ite

theorem State.holdPublication_keeps {s0 : State} {s : State} (j : Job) (hs : Keeps s0 s) : Keeps s0 (State.holdPublication s j) := by
  unfold State.holdPublication
  repeat' first
    | with_reducible assumption
    | intro _
    | with_reducible apply State.setFn_keeps
    | with_reducible apply Keeps.ite

theorem State.countRefused_keeps {s0 : State} {s : State} (j : Job) (hs : Keeps s0 s) : Keeps s0 (State.countRefused s j) := by
  unfold State.countRefused
  repeat' first
    | with_reducible assumption
    | intro _
    | with_reducible apply State.bump_keeps
    | with_reducible apply Keeps.ite

theorem State.publishNow_keeps {s0 : State} {s : State} (j : Job) (hs : Keeps s0 s) : Keeps s0 (State.publishNow s j) := by
  unfold State.publishNow
  repeat' first
    | with_reducible assumption
    | intro _
    | refine State.judgeOutput_keeps_eq (by assumption) ?_
    | with_reducible apply State.commit_keeps
    | with_reducible apply State.judgeOutput_keeps
    | with_reducible apply State.writeJob_keeps
    | with_reducible apply State.retire_keeps
    | with_reducible apply State.countRefused_keeps
    | with_reducible apply Keeps.ite
    | with_reducible apply Keeps.foldl
    | with_reducible apply Keeps.of
    | with_reducible refine Keeps.roots ?_ rfl rfl rfl
    | split
    | simp only [keeps_mk]

theorem State.publish_keeps {s0 : State} {s : State} (id : Nat) (hs : Keeps s0 s) : Keeps s0 (State.publish s id) := by
  unfold State.publish
  repeat' first
    | with_reducible assumption
    | intro _
    | with_reducible apply State.holdPublication_keeps
    | with_reducible apply State.publishNow_keeps
    | with_reducible apply Keeps.ite
    | with_reducible apply Keeps.foldl
    | with_reducible apply Keeps.of
    | with_reducible refine Keeps.roots ?_ rfl rfl rfl
    | split

theorem State.commitEraseJob_keeps {s0 : State} {s : State} (slot : Nat) (hs : Keeps s0 s) : Keeps s0 (State.commitEraseJob s slot) := by
  unfold State.commitEraseJob
  repeat' first
    | with_reducible assumption
    | intro _
    | with_reducible apply State.publish_keeps
    | with_reducible apply Keeps.ite
    | with_reducible apply Keeps.foldl
    | with_reducible apply Keeps.of
    | with_reducible refine Keeps.roots ?_ rfl rfl rfl
    | split

end Sys2Proof.Machine
end

