-- ==== Sys2Proof/Laws/KeepsDictRows.lean ====
section
/-! SUPPORT. What no command undoes (Keeps), for the functions of Machine/DictRows. -/

namespace Sys2Proof.Machine

theorem execDictEntryWrite_keeps {s0 : State} (path : Path) (index : BitVec 16) (sub : BitVec 8) (value : Bytes) {s : State} (hs : Keeps s0 s) : ResKeeps s0 (execDictEntryWrite path index sub value s) := by
  unfold execDictEntryWrite
  repeat' first
    | with_reducible assumption
    | with_reducible apply ResKeeps.next
    | intro _
    | with_reducible apply State.writeEntry_keeps

theorem execCounterClear_keeps {s0 : State} (path : Path) (index : BitVec 16) (sub : BitVec 8) (value : Bytes) {s : State} (hs : Keeps s0 s) : ResKeeps s0 (execCounterClear path index sub value s) := by
  unfold execCounterClear
  repeat' first
    | with_reducible assumption
    | with_reducible apply ResKeeps.next
    | intro _
    | with_reducible apply State.clearCounters_keeps
    | with_reducible apply State.writeBy_keeps

theorem execQueueEnable_keeps {s0 : State} (path : Path) (slot : Fin 2048) {s : State} (hs : Keeps s0 s) : ResKeeps s0 (execQueueEnable path slot s) := by
  unfold execQueueEnable
  repeat' first
    | with_reducible assumption
    | with_reducible apply ResKeeps.next
    | intro _
    | with_reducible apply State.enableQueue_keeps
    | with_reducible apply State.writeBy_keeps

theorem execQueueDisable_keeps {s0 : State} (path : Path) (slot : Fin 2048) {s : State} (hs : Keeps s0 s) : ResKeeps s0 (execQueueDisable path slot s) := by
  unfold execQueueDisable
  repeat' first
    | with_reducible assumption
    | with_reducible apply ResKeeps.next
    | intro _
    | with_reducible apply State.disableQueue_keeps
    | with_reducible apply State.writeBy_keeps

theorem execHostWindowWrite_keeps {s0 : State} (path : Path) (slice : Fin 512) (window : Fin 64) (value : BitVec 64) {s : State} (hs : Keeps s0 s) : ResKeeps s0 (execHostWindowWrite path slice window value s) := by
  unfold execHostWindowWrite
  repeat' first
    | with_reducible assumption
    | with_reducible apply ResKeeps.next
    | intro _
    | refine State.window_keeps_eq (by assumption) ?_
    | with_reducible apply State.window_keeps
    | with_reducible apply State.writeEntry_keeps

theorem execStreamEnable_keeps {s0 : State} (path : Path) (stream : Fin 1024) {s : State} (hs : Keeps s0 s) : ResKeeps s0 (execStreamEnable path stream s) := by
  unfold execStreamEnable
  repeat' first
    | with_reducible assumption
    | with_reducible apply ResKeeps.next
    | intro _
    | with_reducible apply State.writeStreamEnable_keeps
    | with_reducible apply State.writeBy_keeps

theorem execStreamDisable_keeps {s0 : State} (path : Path) (stream : Fin 1024) {s : State} (hs : Keeps s0 s) : ResKeeps s0 (execStreamDisable path stream s) := by
  unfold execStreamDisable
  repeat' first
    | with_reducible assumption
    | with_reducible apply ResKeeps.next
    | intro _
    | with_reducible apply State.writeStreamEnable_keeps
    | with_reducible apply State.writeBy_keeps

theorem execResetRequest_keeps {s0 : State} (path : Path) (value : BitVec 8) {s : State} (hs : Keeps s0 s) : ResKeeps s0 (execResetRequest path value s) := by
  unfold execResetRequest
  repeat' first
    | with_reducible assumption
    | with_reducible apply ResKeeps.next
    | intro _
    | with_reducible apply State.requestReset_keeps
    | with_reducible apply State.writeBy_keeps

theorem execTransitionRequest_keeps {s0 : State} (path : Path) (request : Bytes) (event : Option TransitionEvent) {s : State} (hs : Keeps s0 s) : ResKeeps s0 (execTransitionRequest path request event s) := by
  unfold execTransitionRequest
  repeat' first
    | with_reducible assumption
    | with_reducible apply ResKeeps.next
    | intro _
    | with_reducible apply State.transition_keeps
    | with_reducible apply State.writeBy_keeps

theorem execCriticalPhasePowerLoss_keeps {s0 : State} (path : Path) (request : Bytes) (blown : Nat) {s : State} (hs : Keeps s0 s) : ResKeeps s0 (execCriticalPhasePowerLoss path request blown s) := by
  unfold execCriticalPhasePowerLoss
  repeat' first
    | with_reducible assumption
    | with_reducible apply ResKeeps.next
    | intro _
    | with_reducible apply State.transitionLost_keeps
    | with_reducible apply State.writeBy_keeps

theorem execKeyRowsProgram_keeps {s0 : State} (path : Path) (value : BitVec 8) (powerKept : Bool) {s : State} (hs : Keeps s0 s) : ResKeeps s0 (execKeyRowsProgram path value powerKept s) := by
  unfold execKeyRowsProgram
  repeat' first
    | with_reducible assumption
    | with_reducible apply ResKeeps.next
    | intro _
    | with_reducible apply State.programKeyRows_keeps
    | with_reducible apply State.writeBy_keeps

theorem execFlashWriteData_keeps {s0 : State} (path : Path) (value : Bytes) {s : State} (hs : Keeps s0 s) : ResKeeps s0 (execFlashWriteData path value s) := by
  unfold execFlashWriteData
  repeat' first
    | with_reducible assumption
    | with_reducible apply ResKeeps.next
    | intro _
    | with_reducible apply State.programFlash_keeps
    | with_reducible apply State.writeBy_keeps

theorem execRetenant_keeps {s0 : State} (path : Path) (slice : Fin 512) (change : TenancyChange) {s : State} (hs : Keeps s0 s) : ResKeeps s0 (execRetenant path slice change s) := by
  unfold execRetenant
  repeat' first
    | with_reducible assumption
    | with_reducible apply ResKeeps.next
    | intro _
    | with_reducible apply State.retenant_keeps
    | with_reducible apply State.writeTenancy_keeps
    | with_reducible apply State.writeBy_keeps
    | with_reducible apply Keeps.ite
    | with_reducible apply Keeps.foldl
    | with_reducible apply Keeps.of
    | with_reducible refine Keeps.roots ?_ rfl rfl rfl
    | split

theorem execTenancyClearComplete_keeps {s0 : State} (slice : Fin 512) {s : State} (hs : Keeps s0 s) : ResKeeps s0 (execTenancyClearComplete slice s) := by
  unfold execTenancyClearComplete
  repeat' first
    | with_reducible assumption
    | with_reducible apply ResKeeps.next
    | intro _
    | with_reducible apply State.endTenancyClear_keeps

theorem execReservoirClearComplete_keeps {s0 : State} {s : State} (hs : Keeps s0 s) : ResKeeps s0 (execReservoirClearComplete s) := by
  unfold execReservoirClearComplete
  repeat' first
    | with_reducible assumption
    | with_reducible apply ResKeeps.next
    | intro _
    | with_reducible apply State.endReservoirClear_keeps

theorem execOwnerSliceWrite_keeps {s0 : State} (path : Path) (value : BitVec 16) {s : State} (hs : Keeps s0 s) : ResKeeps s0 (execOwnerSliceWrite path value s) := by
  unfold execOwnerSliceWrite
  repeat' first
    | with_reducible assumption
    | with_reducible apply ResKeeps.next
    | intro _
    | with_reducible apply State.setEntry_keeps
    | with_reducible apply State.writeBy_keeps

theorem execTimestampRestartedClear_keeps {s0 : State} (path : Path) (value : BitVec 8) {s : State} (hs : Keeps s0 s) : ResKeeps s0 (execTimestampRestartedClear path value s) := by
  unfold execTimestampRestartedClear
  repeat' first
    | with_reducible assumption
    | with_reducible apply ResKeeps.next
    | intro _
    | with_reducible apply State.setEntry_keeps
    | with_reducible apply State.writeBy_keeps

theorem execVaultSlotErase_keeps {s0 : State} (path : Path) (slot : Fin 512) (value : BitVec 8) {s : State} (hs : Keeps s0 s) : ResKeeps s0 (execVaultSlotErase path slot value s) := by
  unfold execVaultSlotErase
  repeat' first
    | with_reducible assumption
    | with_reducible apply ResKeeps.next
    | intro _
    | with_reducible apply State.answer_keeps
    | with_reducible apply State.vaultErase_keeps
    | with_reducible apply Keeps.ite

theorem execBoot_keeps {s0 : State} (readOk0 : Bool) (readOk1 : Bool) (board0 : Option Bytes) (board1 : Option Bytes) {s : State} (hs : Keeps s0 s) : ResKeeps s0 (execBoot readOk0 readOk1 board0 board1 s) := by
  unfold execBoot
  repeat' first
    | with_reducible assumption
    | with_reducible apply ResKeeps.next
    | intro _
    | with_reducible apply State.boot_keeps

theorem execLitEntry_keeps {s0 : State} {s : State} (hs : Keeps s0 s) : ResKeeps s0 (execLitEntry s) := by
  unfold execLitEntry
  repeat' first
    | with_reducible assumption
    | with_reducible apply ResKeeps.next
    | intro _
    | with_reducible apply State.enterLit_keeps

end Sys2Proof.Machine
end

