-- ==== Sys2Proof/Laws/KeepsDispatchOps.lean ====
section
/-! SUPPORT. What no command undoes (Keeps), for the functions of Machine/DispatchOps. -/

namespace Sys2Proof.Machine

theorem State.enterJob_keeps {s0 : State} {s : State} (j : Job) (hs : Keeps s0 s) : Keeps s0 (State.enterJob s j) := by
  unfold State.enterJob
  repeat' first
    | with_reducible assumption
    | intro _
    | with_reducible apply State.setEntry_keeps
    | with_reducible apply State.bump_keeps
    | with_reducible apply State.setQueue_keeps
    | with_reducible apply Keeps.ite
    | with_reducible apply Keeps.foldl
    | with_reducible apply Keeps.of
    | with_reducible refine Keeps.roots ?_ rfl rfl rfl
    | split
    | simp only [keeps_mk]

theorem State.abortJob_keeps {s0 : State} {s : State} (id : Nat) (hs : Keeps s0 s) : Keeps s0 (State.abortJob s id) := by
  unfold State.abortJob
  repeat' first
    | with_reducible assumption
    | intro _
    | with_reducible apply State.stageResult_keeps
    | with_reducible apply State.settleResult_keeps
    | with_reducible apply State.releaseContexts_keeps

theorem State.abortFound_keeps {s0 : State} {s : State} (g : Nat) (e : RingEntry) (hs : Keeps s0 s) : Keeps s0 (State.abortFound s g e) := by
  unfold State.abortFound
  repeat' first
    | with_reducible assumption
    | intro _
    | with_reducible apply State.setQueue_keeps
    | with_reducible apply State.enterJob_keeps

theorem State.finishAbort_keeps {s0 : State} {s : State} (g : Nat) (token : BitVec 8) (hs : Keeps s0 s) : Keeps s0 (State.finishAbort s g token) := by
  unfold State.finishAbort
  repeat' first
    | with_reducible assumption
    | intro _
    | with_reducible apply State.setQueue_keeps
    | with_reducible apply State.setQueueState_keeps
    | with_reducible apply State.acknowledge_keeps
    | with_reducible apply State.publish_keeps
    | with_reducible apply Keeps.ite
    | with_reducible apply Keeps.foldl

theorem State.abortScan_keeps {s0 : State} {s : State} (g : Nat) (hs : Keeps s0 s) : Keeps s0 (State.abortScan s g) := by
  unfold State.abortScan
  repeat' first
    | with_reducible assumption
    | intro _
    | with_reducible apply State.askRun_keeps
    | with_reducible apply State.finishAbort_keeps
    | with_reducible apply Keeps.ite
    | with_reducible apply Keeps.foldl
    | with_reducible apply Keeps.of
    | with_reducible refine Keeps.roots ?_ rfl rfl rfl
    | split
    | simp only [keeps_mk]

theorem State.abortRun_keeps {s0 : State} {s : State} (g : Nat) (r : RingRun) (entries : List RingEntry) (hs : Keeps s0 s) : Keeps s0 (State.abortRun s g r entries) := by
  unfold State.abortRun
  repeat' first
    | with_reducible assumption
    | intro _
    | with_reducible apply State.setQueue_keeps
    | with_reducible apply State.abortFound_keeps
    | with_reducible apply State.finishAbort_keeps
    | with_reducible apply State.abortScan_keeps
    | with_reducible apply Keeps.ite
    | with_reducible apply Keeps.foldl
    | with_reducible apply Keeps.of
    | with_reducible refine Keeps.roots ?_ rfl rfl rfl
    | split

theorem State.takeAbort_keeps {s0 : State} {s : State} (g : Nat) (token : BitVec 8) (tail : Nat) (hs : Keeps s0 s) : Keeps s0 (State.takeAbort s g token tail) := by
  unfold State.takeAbort
  repeat' first
    | with_reducible assumption
    | intro _
    | with_reducible apply State.setQueue_keeps
    | with_reducible apply State.acknowledge_keeps
    | with_reducible apply State.abortJob_keeps
    | with_reducible apply State.abortScan_keeps
    | with_reducible apply Keeps.ite
    | with_reducible apply Keeps.foldl

theorem State.takeRing_keeps {s0 : State} {s : State} (g : Nat) (tail : Nat) (hs : Keeps s0 s) : Keeps s0 (State.takeRing s g tail) := by
  unfold State.takeRing
  repeat' first
    | with_reducible assumption
    | intro _
    | with_reducible apply State.setQueue_keeps
    | with_reducible apply State.setQueueState_keeps
    | with_reducible apply State.scan_keeps
    | with_reducible apply State.reread_keeps
    | with_reducible apply Keeps.ite

theorem State.takeInvalidate_keeps {s0 : State} {s : State} (g : Nat) (token : BitVec 8) (hs : Keeps s0 s) : Keeps s0 (State.takeInvalidate s g token) := by
  unfold State.takeInvalidate
  repeat' first
    | with_reducible assumption
    | intro _
    | with_reducible apply State.setQueue_keeps
    | with_reducible apply State.setQueueState_keeps
    | with_reducible apply State.acknowledge_keeps

theorem State.takeDoorbell_keeps {s0 : State} {s : State} (g : Nat) (v : BitVec 32) (hs : Keeps s0 s) : Keeps s0 (State.takeDoorbell s g v) := by
  unfold State.takeDoorbell
  repeat' first
    | with_reducible assumption
    | intro _
    | with_reducible apply State.bump_keeps
    | with_reducible apply State.takeAbort_keeps
    | with_reducible apply State.takeRing_keeps
    | with_reducible apply State.takeInvalidate_keeps
    | with_reducible apply Keeps.ite

theorem State.queueDoorbell_keeps {s0 : State} {s : State} (g : Nat) (v : BitVec 32) (hs : Keeps s0 s) : Keeps s0 (State.queueDoorbell s g v) := by
  unfold State.queueDoorbell
  repeat' first
    | with_reducible assumption
    | intro _
    | with_reducible apply State.setQueue_keeps
    | with_reducible apply State.takeDoorbell_keeps
    | with_reducible apply Keeps.ite

theorem takeWaiting_keeps {s0 : State} (g : Nat) (y0 : Nat) {y1 : State} (hy1 : Keeps s0 y1) : Keeps s0 (takeWaiting g y0 y1) := by
  induction y0 generalizing y1 with
  | zero =>
    unfold takeWaiting
    repeat' first
      | with_reducible assumption
  | succ _ ih =>
    unfold takeWaiting
    repeat' first
      | with_reducible assumption
      | with_reducible apply ih
      | intro _
      | with_reducible apply State.setQueue_keeps
      | with_reducible apply State.takeDoorbell_keeps
      | with_reducible apply Keeps.ite
      | with_reducible apply Keeps.foldl
      | with_reducible apply Keeps.of
      | with_reducible refine Keeps.roots ?_ rfl rfl rfl
      | split

theorem State.takeDoorbells_keeps {s0 : State} {s : State} (g : Nat) (hs : Keeps s0 s) : Keeps s0 (State.takeDoorbells s g) := by
  unfold State.takeDoorbells
  repeat' first
    | with_reducible assumption
    | intro _
    | with_reducible apply takeWaiting_keeps

theorem State.doorbell_keeps {s0 : State} {s : State} (l : Nat) (slc : Nat) (q : Nat) (sized : Bool) (v : BitVec 32) (hs : Keeps s0 s) : Keeps s0 (State.doorbell s l slc q sized v) := by
  unfold State.doorbell
  repeat' first
    | with_reducible assumption
    | intro _
    | with_reducible apply State.bump_keeps
    | with_reducible apply State.queueDoorbell_keeps
    | with_reducible apply State.takeDoorbells_keeps
    | with_reducible apply Keeps.ite
    | with_reducible apply Keeps.foldl
    | with_reducible apply Keeps.of
    | with_reducible refine Keeps.roots ?_ rfl rfl rfl
    | split
    | simp only [keeps_mk]

theorem State.joinRound_keeps {s0 : State} {s : State} (g : Nat) (hs : Keeps s0 s) : Keeps s0 (State.joinRound s g) := by
  unfold State.joinRound
  repeat' first
    | with_reducible assumption
    | intro _
    | with_reducible apply State.setQueue_keeps
    | with_reducible apply Keeps.ite

theorem State.newRound_keeps {s0 : State} {s : State} (hs : Keeps s0 s) : Keeps s0 (State.newRound s) := by
  unfold State.newRound
  repeat' first
    | with_reducible assumption
    | intro _
    | with_reducible apply State.setQueue_keeps
    | with_reducible apply State.scan_keeps
    | with_reducible apply Keeps.ite
    | with_reducible apply Keeps.foldl

theorem State.roundPick_keeps {s0 : State} {s : State} (hs : Keeps s0 s) : Keeps s0 (State.roundPick s).2 := by
  unfold State.roundPick
  repeat' first
    | with_reducible assumption
    | intro _
    | with_reducible apply State.setQueue_keeps
    | with_reducible apply State.joinRound_keeps
    | with_reducible apply Keeps.ite
    | with_reducible apply Keeps.foldl
    | with_reducible apply Keeps.of
    | with_reducible refine Keeps.roots ?_ rfl rfl rfl
    | split
    | simp only [keeps_mk]

theorem State.roundPick_keeps_eq {s0 : State} {s : State} {x_ : Option Nat} {t_ : State} (e_ : State.roundPick s = (x_, t_)) (hs : Keeps s0 s) : Keeps s0 t_ := by
  have h_ : Keeps s0 (State.roundPick s).2 := by apply State.roundPick_keeps <;> assumption
  rw [e_] at h_
  exact h_

theorem State.weightedPick_keeps {s0 : State} {s : State} (hs : Keeps s0 s) : Keeps s0 (State.weightedPick s).2 := by
  unfold State.weightedPick
  repeat' first
    | with_reducible assumption
    | intro _
    | refine State.roundPick_keeps_eq (by assumption) ?_
    | with_reducible apply State.newRound_keeps
    | with_reducible apply State.roundPick_keeps
    | with_reducible apply Keeps.ite
    | with_reducible apply Keeps.foldl
    | with_reducible apply Keeps.of
    | with_reducible refine Keeps.roots ?_ rfl rfl rfl
    | split

theorem State.weightedPick_keeps_eq {s0 : State} {s : State} {x_ : Option Nat} {t_ : State} (e_ : State.weightedPick s = (x_, t_)) (hs : Keeps s0 s) : Keeps s0 t_ := by
  have h_ : Keeps s0 (State.weightedPick s).2 := by apply State.weightedPick_keeps <;> assumption
  rw [e_] at h_
  exact h_

theorem State.fetchFrom_keeps {s0 : State} {s : State} (g : Nat) (data : HostData) (hs : Keeps s0 s) : Keeps s0 (State.fetchFrom s g data) := by
  unfold State.fetchFrom
  repeat' first
    | with_reducible assumption
    | intro _
    | with_reducible apply State.setQueue_keeps
    | with_reducible apply State.scan_keeps
    | with_reducible apply State.stageResult_keeps
    | with_reducible apply State.takeFetched_keeps
    | with_reducible apply State.enterJob_keeps
    | with_reducible apply Keeps.ite
    | with_reducible apply Keeps.foldl
    | with_reducible apply Keeps.of
    | with_reducible refine Keeps.roots ?_ rfl rfl rfl
    | split
    | simp only [keeps_mk]

theorem State.fetch_keeps {s0 : State} {s : State} (data : HostData) (hs : Keeps s0 s) : Keeps s0 (State.fetch s data) := by
  unfold State.fetch
  repeat' first
    | with_reducible assumption
    | intro _
    | refine State.weightedPick_keeps_eq (by assumption) ?_
    | with_reducible apply State.setQueue_keeps
    | with_reducible apply State.weightedPick_keeps
    | with_reducible apply State.fetchFrom_keeps
    | with_reducible apply Keeps.ite
    | with_reducible apply Keeps.foldl
    | with_reducible apply Keeps.of
    | with_reducible refine Keeps.roots ?_ rfl rfl rfl
    | split
    | simp only [keeps_mk]

end Sys2Proof.Machine
end

