-- ==== Sys2Proof/Laws/KeepsFaults.lean ====
section
/-! SUPPORT. What no command undoes (Keeps), for the functions of Machine/Faults. -/

namespace Sys2Proof.Machine

theorem execFaultReport_keeps {s0 : State} (code : BitVec 16) (detector : UnitId) (accused : UnitId) (slice : UnitId) (detail : BitVec 64) {s : State} (hs : Keeps s0 s) : ResKeeps s0 (execFaultReport code detector accused slice detail s) := by
  unfold execFaultReport
  repeat' first
    | with_reducible assumption
    | with_reducible apply ResKeeps.next
    | intro _
    | with_reducible apply State.reportFault_keeps
    | with_reducible apply Keeps.ite

theorem execFlitIntegrityFailure_keeps {s0 : State} (detector : UnitId) {s : State} (hs : Keeps s0 s) : ResKeeps s0 (execFlitIntegrityFailure detector s) := by
  unfold execFlitIntegrityFailure
  repeat' first
    | with_reducible assumption
    | with_reducible apply ResKeeps.next
    | intro _
    | with_reducible apply State.reportFault_keeps
    | with_reducible apply Keeps.ite

theorem execEventWindowClose_keeps {s0 : State} (accused : UnitId) (code : BitVec 16) {s : State} (hs : Keeps s0 s) : ResKeeps s0 (execEventWindowClose accused code s) := by
  unfold execEventWindowClose
  repeat' first
    | with_reducible assumption
    | with_reducible apply ResKeeps.next
    | intro _
    | with_reducible apply State.passCycles_keeps
    | with_reducible apply State.closeEvent_keeps
    | with_reducible apply Keeps.ite
    | with_reducible apply Keeps.foldl
    | with_reducible apply Keeps.of
    | with_reducible refine Keeps.roots ?_ rfl rfl rfl
    | split

theorem State.relightTests_keeps {s0 : State} {s : State} (hs : Keeps s0 s) : Keeps s0 (State.relightTests s) := by
  unfold State.relightTests
  repeat' first
    | with_reducible assumption
    | intro _
    | with_reducible apply State.startSelfTest_keeps
    | with_reducible apply State.settleRelight_keeps
    | with_reducible apply Keeps.ite
    | with_reducible apply Keeps.foldl
    | with_reducible apply Keeps.of
    | with_reducible refine Keeps.roots ?_ rfl rfl rfl
    | split
    | simp only [keeps_mk]

theorem execQuietExpiry_keeps {s0 : State} {s : State} (hs : Keeps s0 s) : ResKeeps s0 (execQuietExpiry s) := by
  unfold execQuietExpiry
  repeat' first
    | with_reducible assumption
    | with_reducible apply ResKeeps.next
    | with_reducible apply IssueKeeps.ok
    | with_reducible apply IssueKeeps.stall
    | with_reducible apply IssueKeeps.ended
    | with_reducible apply IssueKeeps.fault
    | with_reducible apply IssueKeeps.ite
    | intro _
    | with_reducible apply State.setEntry_keeps
    | with_reducible apply State.bump_keeps
    | with_reducible apply State.passTicks_keeps
    | with_reducible apply State.relightTests_keeps
    | with_reducible apply Keeps.ite

theorem execSelfTestComplete_keeps {s0 : State} (unit : UnitId) (passed : Bool) {s : State} (hs : Keeps s0 s) : ResKeeps s0 (execSelfTestComplete unit passed s) := by
  unfold execSelfTestComplete
  repeat' first
    | with_reducible assumption
    | with_reducible apply ResKeeps.next
    | intro _
    | with_reducible apply State.settleRelight_keeps
    | with_reducible apply State.reportFault_keeps
    | with_reducible apply State.relight_keeps
    | with_reducible apply Keeps.ite

theorem execRelightRequest_keeps {s0 : State} (path : Path) (unit : UnitId) (value : BitVec 8) {s : State} (hs : Keeps s0 s) : ResKeeps s0 (execRelightRequest path unit value s) := by
  unfold execRelightRequest
  repeat' first
    | with_reducible assumption
    | with_reducible apply ResKeeps.next
    | intro _
    | with_reducible apply State.writeEntry_keeps
    | with_reducible apply Keeps.ite
    | with_reducible apply Keeps.foldl
    | with_reducible apply Keeps.of
    | with_reducible refine Keeps.roots ?_ rfl rfl rfl
    | split

theorem execFatalHoldExpiry_keeps {s0 : State} {s : State} (hs : Keeps s0 s) : ResKeeps s0 (execFatalHoldExpiry s) := by
  unfold execFatalHoldExpiry
  repeat' first
    | with_reducible assumption
    | with_reducible apply ResKeeps.next
    | intro _
    | with_reducible apply State.passTicks_keeps
    | with_reducible apply State.deviceReset_keeps
    | with_reducible apply Keeps.ite
    | with_reducible apply Keeps.foldl
    | with_reducible apply Keeps.of
    | with_reducible refine Keeps.roots ?_ rfl rfl rfl
    | split

theorem execLamplighterWatchdog_keeps {s0 : State} {s : State} (hs : Keeps s0 s) : ResKeeps s0 (execLamplighterWatchdog s) := by
  unfold execLamplighterWatchdog
  repeat' first
    | with_reducible assumption
    | with_reducible apply ResKeeps.next
    | intro _
    | with_reducible apply State.passTicks_keeps
    | with_reducible apply State.deviceReset_keeps
    | with_reducible apply Keeps.ite
    | with_reducible apply Keeps.foldl
    | with_reducible apply Keeps.of
    | with_reducible refine Keeps.roots ?_ rfl rfl rfl
    | split

theorem execDeviceReset_keeps {s0 : State} (cause : BitVec 8) {s : State} (hs : Keeps s0 s) : ResKeeps s0 (execDeviceReset cause s) := by
  unfold execDeviceReset
  repeat' first
    | with_reducible assumption
    | with_reducible apply ResKeeps.next
    | intro _
    | with_reducible apply State.deviceReset_keeps
    | with_reducible apply Keeps.ite

theorem execDebugAccess_keeps {s0 : State} (_region : DebugRegion) (write : Bool) {s : State} (hs : Keeps s0 s) : ResKeeps s0 (execDebugAccess _region write s) := by
  unfold execDebugAccess
  repeat' first
    | with_reducible assumption
    | with_reducible apply ResKeeps.next
    | intro _
    | with_reducible apply State.bump_keeps
    | with_reducible apply State.emit_keeps
    | with_reducible apply Keeps.ite

end Sys2Proof.Machine
end

