-- ==== Sys2Proof/Laws/KeepsWickDma.lean ====
section
/-! SUPPORT. What no command undoes (Keeps), for the functions of Machine/WickDma. -/

namespace Sys2Proof.Machine

theorem State.startTransfer_keeps {s0 : State} {s : State} (w : Nat) (write : Bool) (rs1 : BitVec 5) (rs2 : BitVec 5) (tag : BitVec 3) (rsv : BitVec 9) (k : State → Wick → DmaTransfer → Issue) (hs : Keeps s0 s) (hk : ∀ z0 : State, Keeps s0 z0 → ∀ z1 : Wick, ∀ z2 : DmaTransfer, IssueKeeps s0 (k z0 z1 z2)) : Keeps s0 (State.startTransfer s w write rs1 rs2 tag rsv k) := by
  unfold State.startTransfer
  repeat' first
    | with_reducible assumption
    | with_reducible apply IssueKeeps.ok
    | with_reducible apply IssueKeeps.stall
    | with_reducible apply IssueKeeps.ended
    | with_reducible apply IssueKeeps.fault
    | with_reducible apply IssueKeeps.ite
    | intro _
    | with_reducible apply State.issue_keeps
    | with_reducible apply Keeps.ite
    | with_reducible apply Keeps.foldl
    | with_reducible apply hk
    | with_reducible apply Keeps.of
    | with_reducible refine Keeps.roots ?_ rfl rfl rfl
    | split

theorem execDmar_keeps {s0 : State} (w : Fin 256) (_rd : BitVec 5) (rs1 : BitVec 5) (rs2 : BitVec 5) (tag : BitVec 3) (rsv : BitVec 9) {s : State} (hs : Keeps s0 s) : ResKeeps s0 (execDmar w _rd rs1 rs2 tag rsv s) := by
  unfold execDmar
  repeat' first
    | with_reducible assumption
    | with_reducible apply ResKeeps.next
    | with_reducible apply IssueKeeps.ok
    | with_reducible apply IssueKeeps.stall
    | with_reducible apply IssueKeeps.ended
    | with_reducible apply IssueKeeps.fault
    | with_reducible apply IssueKeeps.ite
    | intro _
    | with_reducible apply State.startTransfer_keeps

theorem execDmaw_keeps {s0 : State} (w : Fin 256) (_rd : BitVec 5) (rs1 : BitVec 5) (rs2 : BitVec 5) (tag : BitVec 3) (rsv : BitVec 9) {s : State} (hs : Keeps s0 s) : ResKeeps s0 (execDmaw w _rd rs1 rs2 tag rsv s) := by
  unfold execDmaw
  repeat' first
    | with_reducible assumption
    | with_reducible apply ResKeeps.next
    | with_reducible apply IssueKeeps.ok
    | with_reducible apply IssueKeeps.stall
    | with_reducible apply IssueKeeps.ended
    | with_reducible apply IssueKeeps.fault
    | with_reducible apply IssueKeeps.ite
    | intro _
    | with_reducible apply State.startTransfer_keeps
    | with_reducible apply Keeps.ite
    | with_reducible apply Keeps.foldl
    | with_reducible apply Keeps.of
    | with_reducible refine Keeps.roots ?_ rfl rfl rfl
    | split

theorem execDwait_keeps {s0 : State} (w : Fin 256) (rd : BitVec 5) (rs1 : BitVec 5) (rs2 : BitVec 5) (tag : BitVec 3) (rsv : BitVec 9) {s : State} (hs : Keeps s0 s) : ResKeeps s0 (execDwait w rd rs1 rs2 tag rsv s) := by
  unfold execDwait
  repeat' first
    | with_reducible assumption
    | with_reducible apply ResKeeps.next
    | with_reducible apply IssueKeeps.ok
    | with_reducible apply IssueKeeps.stall
    | with_reducible apply IssueKeeps.ended
    | with_reducible apply IssueKeeps.fault
    | with_reducible apply IssueKeeps.ite
    | intro _
    | with_reducible apply State.issue_keeps

theorem State.chargeSlice_keeps {s0 : State} {s : State} (x : Wick) (n : Nat) (write : Bool) (hs : Keeps s0 s) : Keeps s0 (State.chargeSlice s x n write) := by
  unfold State.chargeSlice
  repeat' first
    | with_reducible assumption
    | intro _
    | with_reducible apply State.bumpBy_keeps
    | with_reducible apply Keeps.ite
    | with_reducible apply Keeps.foldl
    | with_reducible apply Keeps.of
    | with_reducible refine Keeps.roots ?_ rfl rfl rfl
    | split

theorem execDmaComplete_keeps {s0 : State} (w : Fin 256) (tag : BitVec 3) {s : State} (hs : Keeps s0 s) : ResKeeps s0 (execDmaComplete w tag s) := by
  unfold execDmaComplete
  repeat' first
    | with_reducible assumption
    | with_reducible apply ResKeeps.next
    | intro _
    | with_reducible apply State.setWick_keeps
    | with_reducible apply State.chargeSlice_keeps
    | with_reducible apply Keeps.ite
    | with_reducible apply Keeps.foldl
    | with_reducible apply Keeps.of
    | with_reducible refine Keeps.roots ?_ rfl rfl rfl
    | split

theorem execDmawLineCheck_keeps {s0 : State} (w : Fin 256) {s : State} (hs : Keeps s0 s) : ResKeeps s0 (execDmawLineCheck w s) := by
  unfold execDmawLineCheck
  repeat' first
    | with_reducible assumption
    | with_reducible apply ResKeeps.next
    | intro _
    | with_reducible apply State.notice_keeps
    | with_reducible apply State.setWick_keeps
    | with_reducible apply State.writeReservoir_keeps
    | with_reducible apply State.wickFault_keeps
    | with_reducible apply State.chargeSlice_keeps
    | with_reducible apply Keeps.ite
    | with_reducible apply Keeps.foldl
    | with_reducible apply Keeps.of
    | with_reducible refine Keeps.roots ?_ rfl rfl rfl
    | split

theorem execNapWake_keeps {s0 : State} (w : Fin 256) {s : State} (hs : Keeps s0 s) : ResKeeps s0 (execNapWake w s) := by
  unfold execNapWake
  repeat' first
    | with_reducible assumption
    | with_reducible apply ResKeeps.next
    | intro _
    | with_reducible apply State.setWick_keeps
    | with_reducible apply Keeps.ite

theorem execCycleBudgetExceeded_keeps {s0 : State} (w : Fin 256) {s : State} (hs : Keeps s0 s) : ResKeeps s0 (execCycleBudgetExceeded w s) := by
  unfold execCycleBudgetExceeded
  repeat' first
    | with_reducible assumption
    | with_reducible apply ResKeeps.next
    | intro _
    | with_reducible apply State.setWick_keeps
    | with_reducible apply State.wickFault_keeps
    | with_reducible apply Keeps.ite
    | with_reducible apply Keeps.foldl
    | with_reducible apply Keeps.of
    | with_reducible refine Keeps.roots ?_ rfl rfl rfl
    | split
    | simp only [keeps_mk]

theorem execProgramLoad_keeps {s0 : State} (w : Fin 256) (image : Bytes) {s : State} (hs : Keeps s0 s) : ResKeeps s0 (execProgramLoad w image s) := by
  unfold execProgramLoad
  repeat' first
    | with_reducible assumption
    | with_reducible apply ResKeeps.next
    | intro _
    | with_reducible apply State.bump_keeps
    | with_reducible apply State.setWick_keeps
    | with_reducible apply Keeps.ite

end Sys2Proof.Machine
end

