-- ==== Sys2Proof/Laws/KeepsWickSystem.lean ====
section
/-! SUPPORT. What no command undoes (Keeps), for the functions of Machine/WickSystem. -/

namespace Sys2Proof.Machine

theorem execCr_keeps {s0 : State} (w : Fin 256) (rd : BitVec 5) (rs1 : BitVec 5) (creg : BitVec 6) (rsv : BitVec 14) {s : State} (hs : Keeps s0 s) : ResKeeps s0 (execCr w rd rs1 creg rsv s) := by
  unfold execCr
  repeat' first
    | with_reducible assumption
    | with_reducible apply ResKeeps.next
    | intro _
    | with_reducible apply State.scalar_keeps

theorem execCw_keeps {s0 : State} (w : Fin 256) (rd : BitVec 5) (rs1 : BitVec 5) (creg : BitVec 6) (rsv : BitVec 14) {s : State} (hs : Keeps s0 s) : ResKeeps s0 (execCw w rd rs1 creg rsv s) := by
  unfold execCw
  repeat' first
    | with_reducible assumption
    | with_reducible apply ResKeeps.next
    | with_reducible apply IssueKeeps.ok
    | with_reducible apply IssueKeeps.stall
    | with_reducible apply IssueKeeps.ended
    | with_reducible apply IssueKeeps.fault
    | with_reducible apply IssueKeeps.ite
    | intro _
    | with_reducible apply State.issue_keeps

theorem execNop_keeps {s0 : State} (w : Fin 256) (rd : BitVec 5) (_rs1 : BitVec 5) (rsv : BitVec 8) (_code : BitVec 8) {s : State} (hs : Keeps s0 s) : ResKeeps s0 (execNop w rd _rs1 rsv _code s) := by
  unfold execNop
  repeat' first
    | with_reducible assumption
    | with_reducible apply ResKeeps.next
    | with_reducible apply IssueKeeps.ok
    | with_reducible apply IssueKeeps.stall
    | with_reducible apply IssueKeeps.ended
    | with_reducible apply IssueKeeps.fault
    | with_reducible apply IssueKeeps.ite
    | intro _
    | with_reducible apply State.issue_keeps

theorem execFence_keeps {s0 : State} (w : Fin 256) (rd : BitVec 5) (_rs1 : BitVec 5) (rsv : BitVec 8) (_code : BitVec 8) {s : State} (hs : Keeps s0 s) : ResKeeps s0 (execFence w rd _rs1 rsv _code s) := by
  unfold execFence
  repeat' first
    | with_reducible assumption
    | with_reducible apply ResKeeps.next
    | with_reducible apply IssueKeeps.ok
    | with_reducible apply IssueKeeps.stall
    | with_reducible apply IssueKeeps.ended
    | with_reducible apply IssueKeeps.fault
    | with_reducible apply IssueKeeps.ite
    | intro _
    | with_reducible apply State.fence_keeps
    | with_reducible apply State.issue_keeps

theorem execTrap_keeps {s0 : State} (w : Fin 256) (rd : BitVec 5) (_rs1 : BitVec 5) (rsv : BitVec 8) (code : BitVec 8) {s : State} (hs : Keeps s0 s) : ResKeeps s0 (execTrap w rd _rs1 rsv code s) := by
  unfold execTrap
  repeat' first
    | with_reducible assumption
    | with_reducible apply ResKeeps.next
    | with_reducible apply IssueKeeps.ok
    | with_reducible apply IssueKeeps.stall
    | with_reducible apply IssueKeeps.ended
    | with_reducible apply IssueKeeps.fault
    | with_reducible apply IssueKeeps.ite
    | intro _
    | with_reducible apply State.issue_keeps

theorem State.vendorResult_keeps {s0 : State} {s : State} (j : Job) (task : Nat) (check : Bool) (hs : Keeps s0 s) : Keeps s0 (State.vendorResult s j task check) := by
  unfold State.vendorResult
  repeat' first
    | with_reducible assumption
    | intro _
    | with_reducible apply State.kemKeygen_keeps
    | with_reducible apply State.kemEncaps_keeps
    | with_reducible apply State.kemDecaps_keeps
    | with_reducible apply State.sigKeygen_keeps
    | with_reducible apply State.sigSign_keeps
    | with_reducible apply State.sigVerify_keeps
    | with_reducible apply State.lanternBuild_keeps
    | with_reducible apply State.clKeygen_keeps
    | with_reducible apply State.clSign_keeps
    | with_reducible apply State.clVerify_keeps
    | with_reducible apply State.attest_keeps
    | with_reducible apply Keeps.ite

theorem State.wickDone_keeps {s0 : State} {s : State} (w : Nat) (x : Wick) (status : Nat) (len : Nat) (hs : Keeps s0 s) : IssueKeeps s0 (State.wickDone s w x status len) := by
  unfold State.wickDone
  repeat' first
    | with_reducible assumption
    | with_reducible apply IssueKeeps.ok
    | with_reducible apply IssueKeeps.stall
    | with_reducible apply IssueKeeps.ended
    | with_reducible apply IssueKeeps.fault
    | with_reducible apply IssueKeeps.ite
    | intro _
    | with_reducible apply State.setWick_keeps
    | with_reducible apply State.failJob_keeps
    | with_reducible apply State.ownerDone_keeps
    | with_reducible apply State.vendorResult_keeps
    | with_reducible apply Keeps.ite
    | with_reducible apply Keeps.foldl
    | with_reducible apply Keeps.of
    | with_reducible refine Keeps.roots ?_ rfl rfl rfl
    | split

theorem execDone_keeps {s0 : State} (w : Fin 256) (rd : BitVec 5) (rs1 : BitVec 5) (rsv : BitVec 8) (code : BitVec 8) {s : State} (hs : Keeps s0 s) : ResKeeps s0 (execDone w rd rs1 rsv code s) := by
  unfold execDone
  repeat' first
    | with_reducible assumption
    | with_reducible apply ResKeeps.next
    | with_reducible apply IssueKeeps.ok
    | with_reducible apply IssueKeeps.stall
    | with_reducible apply IssueKeeps.ended
    | with_reducible apply IssueKeeps.fault
    | with_reducible apply IssueKeeps.ite
    | intro _
    | with_reducible apply State.issue_keeps
    | with_reducible apply State.wickDone_keeps

end Sys2Proof.Machine
end

