-- ==== Sys2Proof/Laws/KeepsDump.lean ====
section
/-! SUPPORT. What no command undoes (Keeps), for the functions of Machine/Dump. -/

namespace Sys2Proof.Machine

theorem State.copyDump_keeps {s0 : State} {s : State} (n : Nat) (dump : Bytes) (hs : Keeps s0 s) : Keeps s0 (State.copyDump s n dump) := by
  unfold State.copyDump
  repeat' first
    | with_reducible assumption
    | intro _
    | with_reducible apply State.emit_keeps
    | with_reducible apply State.signalVector_keeps
    | with_reducible apply Keeps.ite

theorem State.writeDump_keeps {s0 : State} {s : State} (f : FatalStop) (hs : Keeps s0 s) : Keeps s0 (State.writeDump s f) := by
  unfold State.writeDump
  repeat' first
    | with_reducible assumption
    | intro _
    | refine State.drawBytes_keeps_eq (by assumption) ?_
    | with_reducible apply State.drawBytes_keeps
    | with_reducible apply State.handover_keeps
    | with_reducible apply State.copyDump_keeps
    | with_reducible apply Keeps.ite
    | with_reducible apply Keeps.foldl
    | with_reducible apply Keeps.of
    | with_reducible refine Keeps.roots ?_ rfl rfl rfl
    | split
    | simp only [keeps_mk]

theorem execDumpComplete_keeps {s0 : State} {s : State} (hs : Keeps s0 s) : ResKeeps s0 (execDumpComplete s) := by
  unfold execDumpComplete
  repeat' first
    | with_reducible assumption
    | with_reducible apply ResKeeps.next
    | intro _
    | with_reducible apply State.writeDump_keeps
    | with_reducible apply Keeps.ite
    | with_reducible apply Keeps.foldl
    | with_reducible apply Keeps.of
    | with_reducible refine Keeps.roots ?_ rfl rfl rfl
    | split

end Sys2Proof.Machine
end

