-- ==== Sys2Proof/Laws/KeepsEntropy.lean ====
section
/-! SUPPORT. What no command undoes (Keeps), for the functions of Machine/Entropy. -/

namespace Sys2Proof.Machine

theorem execEmberStartupTestEnd_keeps {s0 : State} (ember : Fin 4) (passed : Bool) {s : State} (hs : Keeps s0 s) : ResKeeps s0 (execEmberStartupTestEnd ember passed s) := by
  unfold execEmberStartupTestEnd
  repeat' first
    | with_reducible assumption
    | with_reducible apply ResKeeps.next
    | intro _
    | with_reducible apply State.setEmber_keeps
    | with_reducible apply State.settleGutter_keeps
    | with_reducible apply State.emberFails_keeps
    | with_reducible apply Keeps.ite
    | with_reducible apply Keeps.foldl
    | with_reducible apply Keeps.of
    | with_reducible refine Keeps.roots ?_ rfl rfl rfl
    | split
    | simp only [keeps_mk]

theorem execEmberRetry_keeps {s0 : State} (ember : Fin 4) {s : State} (hs : Keeps s0 s) : ResKeeps s0 (execEmberRetry ember s) := by
  unfold execEmberRetry
  repeat' first
    | with_reducible assumption
    | with_reducible apply ResKeeps.next
    | intro _
    | with_reducible apply State.setEmber_keeps
    | with_reducible apply Keeps.ite

theorem execEmberHealthFailure_keeps {s0 : State} (ember : Fin 4) {s : State} (hs : Keeps s0 s) : ResKeeps s0 (execEmberHealthFailure ember s) := by
  unfold execEmberHealthFailure
  repeat' first
    | with_reducible assumption
    | with_reducible apply ResKeeps.next
    | intro _
    | with_reducible apply State.settleGutter_keeps
    | with_reducible apply State.emberFails_keeps
    | with_reducible apply Keeps.ite

theorem execBlockComplete_keeps {s0 : State} (ember : EmberBlock) {s : State} (hs : Keeps s0 s) : ResKeeps s0 (execBlockComplete ember s) := by
  unfold execBlockComplete
  repeat' first
    | with_reducible assumption
    | with_reducible apply ResKeeps.next
    | intro _
    | with_reducible apply State.settleGutter_keeps
    | with_reducible apply State.emberFails_keeps
    | with_reducible apply State.takeBlock_keeps
    | with_reducible apply Keeps.ite

theorem execDrbgInstantiate_keeps {s0 : State} (inst : Fin 17) {s : State} (hs : Keeps s0 s) : ResKeeps s0 (execDrbgInstantiate inst s) := by
  unfold execDrbgInstantiate
  repeat' first
    | with_reducible assumption
    | with_reducible apply ResKeeps.next
    | intro _
    | with_reducible apply State.instantiate_keeps
    | with_reducible apply State.drawVaultSession_keeps
    | with_reducible apply Keeps.ite

theorem execDrbgReseed_keeps {s0 : State} (inst : Fin 17) {s : State} (hs : Keeps s0 s) : ResKeeps s0 (execDrbgReseed inst s) := by
  unfold execDrbgReseed
  repeat' first
    | with_reducible assumption
    | with_reducible apply ResKeeps.next
    | intro _
    | with_reducible apply State.reseed_keeps

theorem execGutterTimeout_keeps {s0 : State} {s : State} (hs : Keeps s0 s) : ResKeeps s0 (execGutterTimeout s) := by
  unfold execGutterTimeout
  repeat' first
    | with_reducible assumption
    | with_reducible apply ResKeeps.next
    | intro _
    | with_reducible apply State.entropyFault_keeps
    | with_reducible apply State.entropyEnds_keeps
    | with_reducible apply Keeps.ite
    | with_reducible apply Keeps.foldl
    | with_reducible apply Keeps.of
    | with_reducible refine Keeps.roots ?_ rfl rfl rfl
    | split
    | simp only [keeps_mk]

theorem execKatRequest_keeps {s0 : State} (path : Path) (value : BitVec 8) (failing : BitVec 18) {s : State} (hs : Keeps s0 s) : ResKeeps s0 (execKatRequest path value failing s) := by
  unfold execKatRequest
  repeat' first
    | with_reducible assumption
    | with_reducible apply ResKeeps.next
    | intro _
    | with_reducible apply State.runKats_keeps
    | with_reducible apply State.writeBy_keeps
    | with_reducible apply Keeps.ite

end Sys2Proof.Machine
end

