-- ==== Sys2Proof/Laws/KeepsForerunnerVectors.lean ====
section
/-! SUPPORT. What no command undoes (Keeps), for the functions of Machine/ForerunnerVectors. -/

namespace Sys2Proof.Machine

theorem State.beginWake_keeps {s0 : State} {s : State} (w : Nat) (x : Wick) (after : Nat) (hs : Keeps s0 s) : IssueKeeps s0 (State.beginWake s w x after) := by
  unfold State.beginWake
  repeat' first
    | with_reducible assumption
    | with_reducible apply IssueKeeps.ok
    | with_reducible apply IssueKeeps.stall
    | with_reducible apply IssueKeeps.ended
    | with_reducible apply IssueKeeps.fault
    | with_reducible apply IssueKeeps.ite
    | intro _
    | with_reducible apply State.bump_keeps

theorem State.fvIssue_keeps {s0 : State} {s : State} (w : Nat) (k : State → Wick → Issue) (hs : Keeps s0 s) (hk : ∀ z0 : State, Keeps s0 z0 → ∀ z1 : Wick, IssueKeeps s0 (k z0 z1)) : Keeps s0 (State.fvIssue s w k) := by
  unfold State.fvIssue
  repeat' first
    | with_reducible assumption
    | with_reducible apply IssueKeeps.ok
    | with_reducible apply IssueKeeps.stall
    | with_reducible apply IssueKeeps.ended
    | with_reducible apply IssueKeeps.fault
    | with_reducible apply IssueKeeps.ite
    | intro _
    | with_reducible apply State.issue_keeps
    | with_reducible apply State.beginWake_keeps
    | with_reducible apply Keeps.ite
    | with_reducible apply Keeps.foldl
    | with_reducible apply hk
    | with_reducible apply Keeps.of
    | with_reducible refine Keeps.roots ?_ rfl rfl rfl
    | split

theorem State.wakeWait_keeps {s0 : State} {s : State} (w : Nat) (x : Wick) (level : Nat) (after : Nat) (hs : Keeps s0 s) : Keeps s0 (State.wakeWait s w x level after).2 := by
  unfold State.wakeWait
  repeat' first
    | with_reducible assumption
    | intro _
    | refine State.draw_keeps_eq (by assumption) ?_
    | with_reducible apply State.draw_keeps
    | with_reducible apply Keeps.ite
    | with_reducible apply Keeps.foldl
    | with_reducible apply Keeps.of
    | with_reducible refine Keeps.roots ?_ rfl rfl rfl
    | split

theorem State.wakeWait_keeps_eq {s0 : State} {s : State} {w : Nat} {x : Wick} {level : Nat} {after : Nat} {x_ : Wick} {t_ : State} (e_ : State.wakeWait s w x level after = (x_, t_)) (hs : Keeps s0 s) : Keeps s0 t_ := by
  have h_ : Keeps s0 (State.wakeWait s w x level after).2 := by apply State.wakeWait_keeps <;> assumption
  rw [e_] at h_
  exact h_

theorem execFvWakeComplete_keeps {s0 : State} (w : Fin 256) {s : State} (hs : Keeps s0 s) : ResKeeps s0 (execFvWakeComplete w s) := by
  unfold execFvWakeComplete
  repeat' first
    | with_reducible assumption
    | with_reducible apply ResKeeps.next
    | intro _
    | refine State.wakeWait_keeps_eq (by assumption) ?_
    | with_reducible apply State.setWick_keeps
    | with_reducible apply State.wakeWait_keeps
    | with_reducible apply Keeps.ite
    | with_reducible apply Keeps.foldl
    | with_reducible apply Keeps.of
    | with_reducible refine Keeps.roots ?_ rfl rfl rfl
    | split
    | simp only [keeps_mk]

theorem execFvIdleExpiry_keeps {s0 : State} (w : Fin 256) {s : State} (hs : Keeps s0 s) : ResKeeps s0 (execFvIdleExpiry w s) := by
  unfold execFvIdleExpiry
  repeat' first
    | with_reducible assumption
    | with_reducible apply ResKeeps.next
    | intro _
    | with_reducible apply State.bump_keeps
    | with_reducible apply State.setWick_keeps
    | with_reducible apply Keeps.ite

theorem execFvWakeTimeout_keeps {s0 : State} (w : Fin 256) {s : State} (hs : Keeps s0 s) : ResKeeps s0 (execFvWakeTimeout w s) := by
  unfold execFvWakeTimeout
  repeat' first
    | with_reducible assumption
    | with_reducible apply ResKeeps.next
    | intro _
    | with_reducible apply State.setWick_keeps
    | with_reducible apply State.reportFault_keeps
    | with_reducible apply Keeps.ite
    | with_reducible apply Keeps.foldl
    | with_reducible apply Keeps.of
    | with_reducible refine Keeps.roots ?_ rfl rfl rfl
    | split
    | simp only [keeps_mk]

theorem State.fvResult_keeps {s0 : State} {s : State} (w : Nat) (fd : BitVec 4) (srcs : List (BitVec 4)) (legal : Bool) (latency : Nat) (v : Wick → Nat) (hs : Keeps s0 s) : Keeps s0 (State.fvResult s w fd srcs legal latency v) := by
  unfold State.fvResult
  repeat' first
    | with_reducible assumption
    | with_reducible apply IssueKeeps.ok
    | with_reducible apply IssueKeeps.stall
    | with_reducible apply IssueKeeps.ended
    | with_reducible apply IssueKeeps.fault
    | with_reducible apply IssueKeeps.ite
    | intro _
    | with_reducible apply State.fvIssue_keeps

theorem State.fvBinary_keeps {s0 : State} {s : State} (w : Nat) (fd : BitVec 4) (fs1 : BitVec 4) (fs2 : BitVec 4) (ft : BitVec 2) (rsv : BitVec 10) (latency : Nat) (f : Nat → Nat → Nat → Nat) (hs : Keeps s0 s) : Keeps s0 (State.fvBinary s w fd fs1 fs2 ft rsv latency f) := by
  unfold State.fvBinary
  repeat' first
    | with_reducible assumption
    | intro _
    | with_reducible apply State.fvResult_keeps

theorem State.fvShift_keeps {s0 : State} {s : State} (w : Nat) (fd : BitVec 4) (fs1 : BitVec 4) (ft : BitVec 2) (amount : BitVec 6) (rsv : BitVec 10) (f : Nat → Nat → Nat → Nat) (hs : Keeps s0 s) : Keeps s0 (State.fvShift s w fd fs1 ft amount rsv f) := by
  unfold State.fvShift
  repeat' first
    | with_reducible assumption
    | intro _
    | with_reducible apply State.fvResult_keeps

theorem execFvAdd_keeps {s0 : State} (w : Fin 256) (fd : BitVec 4) (fs1 : BitVec 4) (fs2 : BitVec 4) (ft : BitVec 2) (rsv : BitVec 10) {s : State} (hs : Keeps s0 s) : ResKeeps s0 (execFvAdd w fd fs1 fs2 ft rsv s) := by
  unfold execFvAdd
  repeat' first
    | with_reducible assumption
    | with_reducible apply ResKeeps.next
    | intro _
    | with_reducible apply State.fvBinary_keeps

theorem execFvSub_keeps {s0 : State} (w : Fin 256) (fd : BitVec 4) (fs1 : BitVec 4) (fs2 : BitVec 4) (ft : BitVec 2) (rsv : BitVec 10) {s : State} (hs : Keeps s0 s) : ResKeeps s0 (execFvSub w fd fs1 fs2 ft rsv s) := by
  unfold execFvSub
  repeat' first
    | with_reducible assumption
    | with_reducible apply ResKeeps.next
    | intro _
    | with_reducible apply State.fvBinary_keeps

theorem execFvAnd_keeps {s0 : State} (w : Fin 256) (fd : BitVec 4) (fs1 : BitVec 4) (fs2 : BitVec 4) (ft : BitVec 2) (rsv : BitVec 10) {s : State} (hs : Keeps s0 s) : ResKeeps s0 (execFvAnd w fd fs1 fs2 ft rsv s) := by
  unfold execFvAnd
  repeat' first
    | with_reducible assumption
    | with_reducible apply ResKeeps.next
    | intro _
    | with_reducible apply State.fvBinary_keeps

theorem execFvOr_keeps {s0 : State} (w : Fin 256) (fd : BitVec 4) (fs1 : BitVec 4) (fs2 : BitVec 4) (ft : BitVec 2) (rsv : BitVec 10) {s : State} (hs : Keeps s0 s) : ResKeeps s0 (execFvOr w fd fs1 fs2 ft rsv s) := by
  unfold execFvOr
  repeat' first
    | with_reducible assumption
    | with_reducible apply ResKeeps.next
    | intro _
    | with_reducible apply State.fvBinary_keeps

theorem execFvXor_keeps {s0 : State} (w : Fin 256) (fd : BitVec 4) (fs1 : BitVec 4) (fs2 : BitVec 4) (ft : BitVec 2) (rsv : BitVec 10) {s : State} (hs : Keeps s0 s) : ResKeeps s0 (execFvXor w fd fs1 fs2 ft rsv s) := by
  unfold execFvXor
  repeat' first
    | with_reducible assumption
    | with_reducible apply ResKeeps.next
    | intro _
    | with_reducible apply State.fvBinary_keeps

theorem execFvAndn_keeps {s0 : State} (w : Fin 256) (fd : BitVec 4) (fs1 : BitVec 4) (fs2 : BitVec 4) (ft : BitVec 2) (rsv : BitVec 10) {s : State} (hs : Keeps s0 s) : ResKeeps s0 (execFvAndn w fd fs1 fs2 ft rsv s) := by
  unfold execFvAndn
  repeat' first
    | with_reducible assumption
    | with_reducible apply ResKeeps.next
    | intro _
    | with_reducible apply State.fvBinary_keeps

theorem execFvMullo_keeps {s0 : State} (w : Fin 256) (fd : BitVec 4) (fs1 : BitVec 4) (fs2 : BitVec 4) (ft : BitVec 2) (rsv : BitVec 10) {s : State} (hs : Keeps s0 s) : ResKeeps s0 (execFvMullo w fd fs1 fs2 ft rsv s) := by
  unfold execFvMullo
  repeat' first
    | with_reducible assumption
    | with_reducible apply ResKeeps.next
    | intro _
    | with_reducible apply State.fvBinary_keeps

theorem execFvMulhu_keeps {s0 : State} (w : Fin 256) (fd : BitVec 4) (fs1 : BitVec 4) (fs2 : BitVec 4) (ft : BitVec 2) (rsv : BitVec 10) {s : State} (hs : Keeps s0 s) : ResKeeps s0 (execFvMulhu w fd fs1 fs2 ft rsv s) := by
  unfold execFvMulhu
  repeat' first
    | with_reducible assumption
    | with_reducible apply ResKeeps.next
    | intro _
    | with_reducible apply State.fvBinary_keeps

theorem execFvSll_keeps {s0 : State} (w : Fin 256) (fd : BitVec 4) (fs1 : BitVec 4) (fs2 : BitVec 4) (ft : BitVec 2) (rsv : BitVec 10) {s : State} (hs : Keeps s0 s) : ResKeeps s0 (execFvSll w fd fs1 fs2 ft rsv s) := by
  unfold execFvSll
  repeat' first
    | with_reducible assumption
    | with_reducible apply ResKeeps.next
    | intro _
    | with_reducible apply State.fvBinary_keeps

theorem execFvSrl_keeps {s0 : State} (w : Fin 256) (fd : BitVec 4) (fs1 : BitVec 4) (fs2 : BitVec 4) (ft : BitVec 2) (rsv : BitVec 10) {s : State} (hs : Keeps s0 s) : ResKeeps s0 (execFvSrl w fd fs1 fs2 ft rsv s) := by
  unfold execFvSrl
  repeat' first
    | with_reducible assumption
    | with_reducible apply ResKeeps.next
    | intro _
    | with_reducible apply State.fvBinary_keeps

theorem execFvSra_keeps {s0 : State} (w : Fin 256) (fd : BitVec 4) (fs1 : BitVec 4) (fs2 : BitVec 4) (ft : BitVec 2) (rsv : BitVec 10) {s : State} (hs : Keeps s0 s) : ResKeeps s0 (execFvSra w fd fs1 fs2 ft rsv s) := by
  unfold execFvSra
  repeat' first
    | with_reducible assumption
    | with_reducible apply ResKeeps.next
    | intro _
    | with_reducible apply State.fvBinary_keeps

theorem execFvMinu_keeps {s0 : State} (w : Fin 256) (fd : BitVec 4) (fs1 : BitVec 4) (fs2 : BitVec 4) (ft : BitVec 2) (rsv : BitVec 10) {s : State} (hs : Keeps s0 s) : ResKeeps s0 (execFvMinu w fd fs1 fs2 ft rsv s) := by
  unfold execFvMinu
  repeat' first
    | with_reducible assumption
    | with_reducible apply ResKeeps.next
    | intro _
    | with_reducible apply State.fvBinary_keeps

theorem execFvMaxu_keeps {s0 : State} (w : Fin 256) (fd : BitVec 4) (fs1 : BitVec 4) (fs2 : BitVec 4) (ft : BitVec 2) (rsv : BitVec 10) {s : State} (hs : Keeps s0 s) : ResKeeps s0 (execFvMaxu w fd fs1 fs2 ft rsv s) := by
  unfold execFvMaxu
  repeat' first
    | with_reducible assumption
    | with_reducible apply ResKeeps.next
    | intro _
    | with_reducible apply State.fvBinary_keeps

theorem execFvCmpeq_keeps {s0 : State} (w : Fin 256) (fd : BitVec 4) (fs1 : BitVec 4) (fs2 : BitVec 4) (ft : BitVec 2) (rsv : BitVec 10) {s : State} (hs : Keeps s0 s) : ResKeeps s0 (execFvCmpeq w fd fs1 fs2 ft rsv s) := by
  unfold execFvCmpeq
  repeat' first
    | with_reducible assumption
    | with_reducible apply ResKeeps.next
    | intro _
    | with_reducible apply State.fvBinary_keeps

theorem execFvCmpgtu_keeps {s0 : State} (w : Fin 256) (fd : BitVec 4) (fs1 : BitVec 4) (fs2 : BitVec 4) (ft : BitVec 2) (rsv : BitVec 10) {s : State} (hs : Keeps s0 s) : ResKeeps s0 (execFvCmpgtu w fd fs1 fs2 ft rsv s) := by
  unfold execFvCmpgtu
  repeat' first
    | with_reducible assumption
    | with_reducible apply ResKeeps.next
    | intro _
    | with_reducible apply State.fvBinary_keeps

theorem execFvAddsu_keeps {s0 : State} (w : Fin 256) (fd : BitVec 4) (fs1 : BitVec 4) (fs2 : BitVec 4) (ft : BitVec 2) (rsv : BitVec 10) {s : State} (hs : Keeps s0 s) : ResKeeps s0 (execFvAddsu w fd fs1 fs2 ft rsv s) := by
  unfold execFvAddsu
  repeat' first
    | with_reducible assumption
    | with_reducible apply ResKeeps.next
    | intro _
    | with_reducible apply State.fvBinary_keeps

theorem execFvTbl_keeps {s0 : State} (w : Fin 256) (fd : BitVec 4) (fs1 : BitVec 4) (fs2 : BitVec 4) (ft : BitVec 2) (rsv : BitVec 10) {s : State} (hs : Keeps s0 s) : ResKeeps s0 (execFvTbl w fd fs1 fs2 ft rsv s) := by
  unfold execFvTbl
  repeat' first
    | with_reducible assumption
    | with_reducible apply ResKeeps.next
    | intro _
    | with_reducible apply State.fvResult_keeps

theorem execFvSlli_keeps {s0 : State} (w : Fin 256) (fd : BitVec 4) (fs1 : BitVec 4) (ft : BitVec 2) (amount : BitVec 6) (rsv : BitVec 10) {s : State} (hs : Keeps s0 s) : ResKeeps s0 (execFvSlli w fd fs1 ft amount rsv s) := by
  unfold execFvSlli
  repeat' first
    | with_reducible assumption
    | with_reducible apply ResKeeps.next
    | intro _
    | with_reducible apply State.fvShift_keeps

theorem execFvSrli_keeps {s0 : State} (w : Fin 256) (fd : BitVec 4) (fs1 : BitVec 4) (ft : BitVec 2) (amount : BitVec 6) (rsv : BitVec 10) {s : State} (hs : Keeps s0 s) : ResKeeps s0 (execFvSrli w fd fs1 ft amount rsv s) := by
  unfold execFvSrli
  repeat' first
    | with_reducible assumption
    | with_reducible apply ResKeeps.next
    | intro _
    | with_reducible apply State.fvShift_keeps

theorem execFvSrai_keeps {s0 : State} (w : Fin 256) (fd : BitVec 4) (fs1 : BitVec 4) (ft : BitVec 2) (amount : BitVec 6) (rsv : BitVec 10) {s : State} (hs : Keeps s0 s) : ResKeeps s0 (execFvSrai w fd fs1 ft amount rsv s) := by
  unfold execFvSrai
  repeat' first
    | with_reducible assumption
    | with_reducible apply ResKeeps.next
    | intro _
    | with_reducible apply State.fvShift_keeps

theorem execFvRoli_keeps {s0 : State} (w : Fin 256) (fd : BitVec 4) (fs1 : BitVec 4) (ft : BitVec 2) (amount : BitVec 6) (rsv : BitVec 10) {s : State} (hs : Keeps s0 s) : ResKeeps s0 (execFvRoli w fd fs1 ft amount rsv s) := by
  unfold execFvRoli
  repeat' first
    | with_reducible assumption
    | with_reducible apply ResKeeps.next
    | intro _
    | with_reducible apply State.fvShift_keeps

theorem execFld_keeps {s0 : State} (w : Fin 256) (fd : BitVec 4) (rs1 : BitVec 5) (rsv : BitVec 1) (imm : BitVec 20) {s : State} (hs : Keeps s0 s) : ResKeeps s0 (execFld w fd rs1 rsv imm s) := by
  unfold execFld
  repeat' first
    | with_reducible assumption
    | with_reducible apply ResKeeps.next
    | with_reducible apply IssueKeeps.ok
    | with_reducible apply IssueKeeps.stall
    | with_reducible apply IssueKeeps.ended
    | with_reducible apply IssueKeeps.fault
    | with_reducible apply IssueKeeps.ite
    | intro _
    | with_reducible apply State.access_keeps
    | with_reducible apply State.fvIssue_keeps

theorem execFst_keeps {s0 : State} (w : Fin 256) (fd : BitVec 4) (rs1 : BitVec 5) (rsv : BitVec 1) (imm : BitVec 20) {s : State} (hs : Keeps s0 s) : ResKeeps s0 (execFst w fd rs1 rsv imm s) := by
  unfold execFst
  repeat' first
    | with_reducible assumption
    | with_reducible apply ResKeeps.next
    | with_reducible apply IssueKeeps.ok
    | with_reducible apply IssueKeeps.stall
    | with_reducible apply IssueKeeps.ended
    | with_reducible apply IssueKeeps.fault
    | with_reducible apply IssueKeeps.ite
    | intro _
    | with_reducible apply State.access_keeps
    | with_reducible apply State.fvIssue_keeps

theorem execFmvgf_keeps {s0 : State} (w : Fin 256) (g : BitVec 5) (f : BitVec 4) (ft : BitVec 2) (lane : BitVec 4) (rsv : BitVec 9) {s : State} (hs : Keeps s0 s) : ResKeeps s0 (execFmvgf w g f ft lane rsv s) := by
  unfold execFmvgf
  repeat' first
    | with_reducible assumption
    | with_reducible apply ResKeeps.next
    | with_reducible apply IssueKeeps.ok
    | with_reducible apply IssueKeeps.stall
    | with_reducible apply IssueKeeps.ended
    | with_reducible apply IssueKeeps.fault
    | with_reducible apply IssueKeeps.ite
    | intro _
    | with_reducible apply State.fvIssue_keeps

theorem execFmvfg_keeps {s0 : State} (w : Fin 256) (g : BitVec 5) (f : BitVec 4) (ft : BitVec 2) (lane : BitVec 4) (rsv : BitVec 9) {s : State} (hs : Keeps s0 s) : ResKeeps s0 (execFmvfg w g f ft lane rsv s) := by
  unfold execFmvfg
  repeat' first
    | with_reducible assumption
    | with_reducible apply ResKeeps.next
    | with_reducible apply IssueKeeps.ok
    | with_reducible apply IssueKeeps.stall
    | with_reducible apply IssueKeeps.ended
    | with_reducible apply IssueKeeps.fault
    | with_reducible apply IssueKeeps.ite
    | intro _
    | with_reducible apply State.fvIssue_keeps

theorem execFsplat_keeps {s0 : State} (w : Fin 256) (g : BitVec 5) (f : BitVec 4) (ft : BitVec 2) (lane : BitVec 4) (rsv : BitVec 9) {s : State} (hs : Keeps s0 s) : ResKeeps s0 (execFsplat w g f ft lane rsv s) := by
  unfold execFsplat
  repeat' first
    | with_reducible assumption
    | with_reducible apply ResKeeps.next
    | with_reducible apply IssueKeeps.ok
    | with_reducible apply IssueKeeps.stall
    | with_reducible apply IssueKeeps.ended
    | with_reducible apply IssueKeeps.fault
    | with_reducible apply IssueKeeps.ite
    | intro _
    | with_reducible apply State.fvIssue_keeps

end Sys2Proof.Machine
end

