-- ==== Sys2Proof/Laws/KeepsHopOps.lean ====
section
/-! SUPPORT. What no command undoes (Keeps), for the functions of Machine/HopOps. -/

namespace Sys2Proof.Machine

/-- The answer of a HOP operation and what follows it keep what no command undoes. -/
def OpKeeps (s0 : State) (p : (HopReply × State) × (State → State)) : Prop := Keeps s0 p.1.2 ∧ ∀ u, Keeps s0 u → Keeps s0 (p.2 u)

theorem OpKeeps.mk {s0 s : State} {r : HopReply} {g : State → State} (h : Keeps s0 s) (hg : ∀ u, Keeps s0 u → Keeps s0 (g u)) :
    OpKeeps s0 ((r, s), g) := ⟨h, hg⟩

theorem OpKeeps.done {s0 s : State} {r : HopReply} (h : Keeps s0 s) : OpKeeps s0 ((r, s), id) := ⟨h, fun _ k => k⟩

theorem OpKeeps.state {s0 : State} {p : (HopReply × State) × (State → State)} (h : OpKeeps s0 p) : Keeps s0 p.1.2 := h.1

theorem OpKeeps.after {s0 u : State} {p : (HopReply × State) × (State → State)} (h : OpKeeps s0 p) (hu : Keeps s0 u) : Keeps s0 (p.2 u) := h.2 u hu

theorem Keeps.id {s0 s : State} (h : Keeps s0 s) : Keeps s0 (id s) := h

theorem OpKeeps.ite {s0 : State} {a b : (HopReply × State) × (State → State)} {c : Prop} [Decidable c] (ha : OpKeeps s0 a) (hb : OpKeeps s0 b) :
    OpKeeps s0 (if c then a else b) := by
  split
  exacts [ha, hb]

theorem State.noteSeq_keeps {s0 : State} {s : State} (n : BitVec 32) (seq : BitVec 32) (hs : Keeps s0 s) : Keeps s0 (State.noteSeq s n seq) := by
  unfold State.noteSeq
  repeat' first
    | with_reducible assumption
    | with_reducible apply OpKeeps.done
    | with_reducible apply OpKeeps.ite
    | with_reducible apply Keeps.id
    | intro _
    | with_reducible apply OpKeeps.mk
    | with_reducible apply Keeps.ite
    | with_reducible apply Keeps.foldl
    | with_reducible apply Keeps.of
    | with_reducible refine Keeps.roots ?_ rfl rfl rfl
    | split
    | simp only [keeps_mk]

theorem State.endHopSession_keeps {s0 : State} {s : State} (n : BitVec 32) (hs : Keeps s0 s) : Keeps s0 (State.endHopSession s n) := by
  unfold State.endHopSession
  repeat' first
    | with_reducible assumption
    | with_reducible apply OpKeeps.done
    | with_reducible apply OpKeeps.ite
    | with_reducible apply Keeps.id
    | intro _
    | with_reducible apply OpKeeps.mk
    | with_reducible apply Keeps.ite
    | with_reducible apply Keeps.foldl
    | with_reducible apply Keeps.of
    | with_reducible refine Keeps.roots ?_ rfl rfl rfl
    | split
    | simp only [keeps_mk]

theorem State.hopReadOp_keeps {s0 : State} {s : State} (w : Requester) (f : HopFrame) (hs : Keeps s0 s) : Keeps s0 (State.hopReadOp s w f).2 := by
  unfold State.hopReadOp
  repeat' first
    | with_reducible assumption
    | with_reducible apply OpKeeps.done
    | with_reducible apply OpKeeps.ite
    | with_reducible apply Keeps.id
    | intro _
    | with_reducible apply State.setRequester_keeps
    | with_reducible apply OpKeeps.mk
    | with_reducible apply Keeps.ite
    | with_reducible apply Keeps.foldl
    | with_reducible apply Keeps.of
    | with_reducible refine Keeps.roots ?_ rfl rfl rfl
    | split
    | simp only [keeps_mk]

theorem State.hopReadOp_keeps_eq {s0 : State} {s : State} {w : Requester} {f : HopFrame} {x_ : HopReply} {t_ : State} (e_ : State.hopReadOp s w f = (x_, t_)) (hs : Keeps s0 s) : Keeps s0 t_ := by
  have h_ : Keeps s0 (State.hopReadOp s w f).2 := by apply State.hopReadOp_keeps <;> assumption
  rw [e_] at h_
  exact h_

theorem State.setAssembly_keeps {s0 : State} {s : State} (w : Requester) (a : Option (BitVec 24 × Bytes)) (hs : Keeps s0 s) : Keeps s0 (State.setAssembly s w a) := by
  unfold State.setAssembly
  repeat' first
    | with_reducible assumption
    | with_reducible apply OpKeeps.done
    | with_reducible apply OpKeeps.ite
    | with_reducible apply Keeps.id
    | intro _
    | with_reducible apply State.setRequester_keeps

theorem State.authBeginOp_keeps {s0 : State} {s : State} (f : HopFrame) (hs : Keeps s0 s) : Keeps s0 (State.authBeginOp s f).2 := by
  unfold State.authBeginOp
  repeat' first
    | with_reducible assumption
    | with_reducible apply OpKeeps.done
    | with_reducible apply OpKeeps.ite
    | with_reducible apply Keeps.id
    | intro _
    | refine State.drawAuth_keeps _ _ _ ?_
    | with_reducible apply OpKeeps.mk
    | with_reducible apply Keeps.ite
    | with_reducible apply Keeps.foldl
    | with_reducible apply Keeps.of
    | with_reducible refine Keeps.roots ?_ rfl rfl rfl
    | split
    | simp only [keeps_mk]

theorem State.authBeginOp_keeps_eq {s0 : State} {s : State} {f : HopFrame} {x_ : HopReply} {t_ : State} (e_ : State.authBeginOp s f = (x_, t_)) (hs : Keeps s0 s) : Keeps s0 t_ := by
  have h_ : Keeps s0 (State.authBeginOp s f).2 := by apply State.authBeginOp_keeps <;> assumption
  rw [e_] at h_
  exact h_

theorem State.authFails_keeps {s0 : State} {s : State} (f : HopFrame) (left : Option PendingSession) (hs : Keeps s0 s) : Keeps s0 (State.authFails s f left).2 := by
  unfold State.authFails
  repeat' first
    | with_reducible assumption
    | with_reducible apply OpKeeps.done
    | with_reducible apply OpKeeps.ite
    | with_reducible apply Keeps.id
    | intro _
    | with_reducible apply State.bump_keeps
    | with_reducible apply OpKeeps.mk
    | with_reducible apply Keeps.ite
    | with_reducible apply Keeps.foldl
    | with_reducible apply Keeps.of
    | with_reducible refine Keeps.roots ?_ rfl rfl rfl
    | split
    | simp only [keeps_mk]

theorem State.authFails_keeps_eq {s0 : State} {s : State} {f : HopFrame} {left : Option PendingSession} {x_ : (HopReply × Option Bytes)} {t_ : State} (e_ : State.authFails s f left = (x_, t_)) (hs : Keeps s0 s) : Keeps s0 t_ := by
  have h_ : Keeps s0 (State.authFails s f left).2 := by apply State.authFails_keeps <;> assumption
  rw [e_] at h_
  exact h_

theorem State.authFinishOp_keeps {s0 : State} {s : State} (f : HopFrame) (p : PendingSession) (d : Bytes) (hs : Keeps s0 s) : Keeps s0 (State.authFinishOp s f p d).2 := by
  unfold State.authFinishOp
  repeat' first
    | with_reducible assumption
    | with_reducible apply OpKeeps.done
    | with_reducible apply OpKeeps.ite
    | with_reducible apply Keeps.id
    | intro _
    | refine State.authFails_keeps_eq (by assumption) ?_
    | with_reducible apply State.authFails_keeps
    | with_reducible apply OpKeeps.mk
    | with_reducible apply Keeps.ite
    | with_reducible apply Keeps.foldl
    | with_reducible apply Keeps.of
    | with_reducible refine Keeps.roots ?_ rfl rfl rfl
    | split
    | simp only [keeps_mk]

theorem State.authFinishOp_keeps_eq {s0 : State} {s : State} {f : HopFrame} {p : PendingSession} {d : Bytes} {x_ : (HopReply × Option Bytes)} {t_ : State} (e_ : State.authFinishOp s f p d = (x_, t_)) (hs : Keeps s0 s) : Keeps s0 t_ := by
  have h_ : Keeps s0 (State.authFinishOp s f p d).2 := by apply State.authFinishOp_keeps <;> assumption
  rw [e_] at h_
  exact h_

theorem State.serveAddress_keeps {s0 : State} {s : State} (f : HopFrame) (op : HopOp) (hs : Keeps s0 s) (hop : ∀ r f t, Keeps s0 t → OpKeeps s0 (op r f t)) : Keeps s0 (State.serveAddress s f op) := by
  unfold State.serveAddress
  simp only []
  repeat' first
    | with_reducible assumption
    | exact OpKeeps.state (hop _ _ _ (by assumption))
    | (with_reducible refine OpKeeps.after (hop _ _ _ ?_) ?_)
    | (with_reducible refine OpKeeps.state (hop _ _ _ ?_))
    | with_reducible apply State.emit_keeps
    | with_reducible apply State.respond_keeps
    | with_reducible apply Keeps.ite
    | split

theorem State.serveSession_keeps {s0 : State} {s : State} (f : HopFrame) (op : HopOp) (hs : Keeps s0 s) (hop : ∀ r f t, Keeps s0 t → OpKeeps s0 (op r f t)) : Keeps s0 (State.serveSession s f op) := by
  unfold State.serveSession
  simp only []
  repeat' first
    | with_reducible assumption
    | exact OpKeeps.state (hop _ _ _ (by assumption))
    | (with_reducible refine OpKeeps.after (hop _ _ _ ?_) ?_)
    | (with_reducible refine OpKeeps.state (hop _ _ _ ?_))
    | with_reducible apply State.bump_keeps
    | with_reducible apply State.emit_keeps
    | with_reducible apply State.respond_keeps
    | with_reducible apply State.noteSeq_keeps
    | with_reducible apply Keeps.ite
    | split

theorem State.hopReceive_keeps {s0 : State} {s : State} (f : HopFrame) (code : Nat) (op : HopOp) (hs : Keeps s0 s) (hop : ∀ r f t, Keeps s0 t → OpKeeps s0 (op r f t)) : Keeps s0 (State.hopReceive s f code op) := by
  unfold State.hopReceive
  repeat' first
    | with_reducible assumption
    | with_reducible apply OpKeeps.done
    | with_reducible apply OpKeeps.ite
    | with_reducible apply Keeps.id
    | intro _
    | with_reducible apply State.bump_keeps
    | with_reducible apply State.serveAddress_keeps
    | with_reducible apply State.serveSession_keeps
    | with_reducible apply OpKeeps.mk
    | with_reducible apply Keeps.ite

end Sys2Proof.Machine
end

