-- ==== Sys2Proof/Laws/KeepsHop.lean ====
section
/-! SUPPORT. What no command undoes (Keeps), for the functions of Machine/Hop. -/

namespace Sys2Proof.Machine

theorem execHopRead_keeps {s0 : State} (frame : HopFrame) {s : State} (hs : Keeps s0 s) : ResKeeps s0 (execHopRead frame s) := by
  unfold execHopRead
  repeat' first
    | with_reducible assumption
    | with_reducible apply ResKeeps.next
    | with_reducible apply OpKeeps.done
    | with_reducible apply OpKeeps.ite
    | with_reducible apply Keeps.id
    | (with_reducible refine OpKeeps.after (State.hopApply_keeps _ _ _ ?_) ?_)
    | (with_reducible refine OpKeeps.state (State.hopApply_keeps _ _ _ ?_))
    | intro _
    | refine State.hopReadOp_keeps_eq (by assumption) ?_
    | with_reducible apply State.hopReadOp_keeps
    | with_reducible apply State.hopReceive_keeps

theorem State.hopApply_keeps {s0 : State} {s : State} (w : Requester) (f : HopFrame) (v : Bytes) (hs : Keeps s0 s) : OpKeeps s0 (State.hopApply s w f v) := by
  unfold State.hopApply
  repeat' first
    | with_reducible assumption
    | with_reducible apply OpKeeps.done
    | with_reducible apply OpKeeps.ite
    | with_reducible apply Keeps.id
    | intro _
    | with_reducible apply State.lateWrite_keeps
    | with_reducible apply State.applyWrite_keeps
    | with_reducible apply State.setAssembly_keeps
    | with_reducible apply OpKeeps.mk

theorem execHopWrite_keeps {s0 : State} (frame : HopFrame) {s : State} (hs : Keeps s0 s) : ResKeeps s0 (execHopWrite frame s) := by
  unfold execHopWrite
  refine ResKeeps.next (State.hopReceive_keeps _ _ _ hs fun w f t h => ?_)
  refine OpKeeps.ite (OpKeeps.done h) ?_
  split
  · exact OpKeeps.done (State.setAssembly_keeps _ _ h)
  · exact OpKeeps.ite (State.hopApply_keeps _ _ _ h) (OpKeeps.ite (OpKeeps.done (State.setAssembly_keeps _ _ h)) (OpKeeps.done h))

theorem execHopInfo_keeps {s0 : State} (frame : HopFrame) {s : State} (hs : Keeps s0 s) : ResKeeps s0 (execHopInfo frame s) := by
  unfold execHopInfo
  repeat' first
    | with_reducible assumption
    | with_reducible apply ResKeeps.next
    | with_reducible apply OpKeeps.done
    | with_reducible apply OpKeeps.ite
    | with_reducible apply Keeps.id
    | (with_reducible refine OpKeeps.after (State.hopApply_keeps _ _ _ ?_) ?_)
    | (with_reducible refine OpKeeps.state (State.hopApply_keeps _ _ _ ?_))
    | intro _
    | with_reducible apply State.hopReceive_keeps

theorem execAuthBegin_keeps {s0 : State} (frame : HopFrame) {s : State} (hs : Keeps s0 s) : ResKeeps s0 (execAuthBegin frame s) := by
  unfold execAuthBegin
  repeat' first
    | with_reducible assumption
    | with_reducible apply ResKeeps.next
    | with_reducible apply OpKeeps.done
    | with_reducible apply OpKeeps.ite
    | with_reducible apply Keeps.id
    | (with_reducible refine OpKeeps.after (State.hopApply_keeps _ _ _ ?_) ?_)
    | (with_reducible refine OpKeeps.state (State.hopApply_keeps _ _ _ ?_))
    | intro _
    | refine State.authBeginOp_keeps_eq (by assumption) ?_
    | with_reducible apply State.authBeginOp_keeps
    | with_reducible apply State.hopReceive_keeps

theorem State.authFinish_keeps {s0 : State} {s : State} (f : HopFrame) (hs : Keeps s0 s) : Keeps s0 (State.authFinish s f) := by
  unfold State.authFinish
  repeat' first
    | with_reducible assumption
    | with_reducible apply OpKeeps.done
    | with_reducible apply OpKeeps.ite
    | with_reducible apply Keeps.id
    | (with_reducible refine OpKeeps.after (State.hopApply_keeps _ _ _ ?_) ?_)
    | (with_reducible refine OpKeeps.state (State.hopApply_keeps _ _ _ ?_))
    | intro _
    | refine State.authFails_keeps_eq (by assumption) ?_
    | refine State.authFinishOp_keeps_eq (by assumption) ?_
    | with_reducible apply State.emit_keeps
    | with_reducible apply State.respond_keeps
    | with_reducible apply State.setAssembly_keeps
    | with_reducible apply State.authFails_keeps
    | with_reducible apply State.authFinishOp_keeps
    | with_reducible apply OpKeeps.mk
    | with_reducible apply Keeps.ite
    | with_reducible apply Keeps.foldl
    | with_reducible apply Keeps.of
    | with_reducible refine Keeps.roots ?_ rfl rfl rfl
    | split

theorem execAuthFinish_keeps {s0 : State} (frame : HopFrame) {s : State} (hs : Keeps s0 s) : ResKeeps s0 (execAuthFinish frame s) := by
  unfold execAuthFinish
  repeat' first
    | with_reducible assumption
    | with_reducible apply ResKeeps.next
    | with_reducible apply OpKeeps.done
    | with_reducible apply OpKeeps.ite
    | with_reducible apply Keeps.id
    | (with_reducible refine OpKeeps.after (State.hopApply_keeps _ _ _ ?_) ?_)
    | (with_reducible refine OpKeeps.state (State.hopApply_keeps _ _ _ ?_))
    | intro _
    | with_reducible apply State.bump_keeps
    | with_reducible apply State.authFinish_keeps
    | with_reducible apply OpKeeps.mk
    | with_reducible apply Keeps.ite

theorem execAuthEnd_keeps {s0 : State} (frame : HopFrame) {s : State} (hs : Keeps s0 s) : ResKeeps s0 (execAuthEnd frame s) := by
  unfold execAuthEnd
  repeat' first
    | with_reducible assumption
    | with_reducible apply ResKeeps.next
    | with_reducible apply OpKeeps.done
    | with_reducible apply OpKeeps.ite
    | with_reducible apply Keeps.id
    | (with_reducible refine OpKeeps.after (State.hopApply_keeps _ _ _ ?_) ?_)
    | (with_reducible refine OpKeeps.state (State.hopApply_keeps _ _ _ ?_))
    | intro _
    | with_reducible apply State.endHopSession_keeps
    | with_reducible apply State.hopReceive_keeps
    | with_reducible apply OpKeeps.mk
    | with_reducible apply Keeps.ite
    | with_reducible apply Keeps.foldl
    | with_reducible apply Keeps.of
    | with_reducible refine Keeps.roots ?_ rfl rfl rfl
    | split

theorem execHopWake_keeps {s0 : State} (frame : HopFrame) {s : State} (hs : Keeps s0 s) : ResKeeps s0 (execHopWake frame s) := by
  unfold execHopWake
  repeat' first
    | with_reducible assumption
    | with_reducible apply ResKeeps.next
    | with_reducible apply OpKeeps.done
    | with_reducible apply OpKeeps.ite
    | with_reducible apply Keeps.id
    | (with_reducible refine OpKeeps.after (State.hopApply_keeps _ _ _ ?_) ?_)
    | (with_reducible refine OpKeeps.state (State.hopApply_keeps _ _ _ ?_))
    | intro _
    | with_reducible apply State.wake_keeps
    | with_reducible apply State.hopReceive_keeps
    | with_reducible apply OpKeeps.mk

theorem execDiscover_keeps {s0 : State} (frame : HopFrame) {s : State} (hs : Keeps s0 s) : ResKeeps s0 (execDiscover frame s) := by
  unfold execDiscover
  repeat' first
    | with_reducible assumption
    | with_reducible apply ResKeeps.next
    | with_reducible apply OpKeeps.done
    | with_reducible apply OpKeeps.ite
    | with_reducible apply Keeps.id
    | (with_reducible refine OpKeeps.after (State.hopApply_keeps _ _ _ ?_) ?_)
    | (with_reducible refine OpKeeps.state (State.hopApply_keeps _ _ _ ?_))
    | intro _
    | with_reducible apply State.hopReceive_keeps

theorem execHopAssemblyIdle_keeps {s0 : State} (requester : Requester) {s : State} (hs : Keeps s0 s) : ResKeeps s0 (execHopAssemblyIdle requester s) := by
  unfold execHopAssemblyIdle
  repeat' first
    | with_reducible assumption
    | with_reducible apply ResKeeps.next
    | with_reducible apply OpKeeps.done
    | with_reducible apply OpKeeps.ite
    | with_reducible apply Keeps.id
    | (with_reducible refine OpKeeps.after (State.hopApply_keeps _ _ _ ?_) ?_)
    | (with_reducible refine OpKeeps.state (State.hopApply_keeps _ _ _ ?_))
    | intro _
    | with_reducible apply State.setRequester_keeps
    | with_reducible apply OpKeeps.mk
    | with_reducible apply Keeps.ite

theorem execPendingSessionExpiry_keeps {s0 : State} {s : State} (hs : Keeps s0 s) : ResKeeps s0 (execPendingSessionExpiry s) := by
  unfold execPendingSessionExpiry
  repeat' first
    | with_reducible assumption
    | with_reducible apply ResKeeps.next
    | with_reducible apply OpKeeps.done
    | with_reducible apply OpKeeps.ite
    | with_reducible apply Keeps.id
    | (with_reducible refine OpKeeps.after (State.hopApply_keeps _ _ _ ?_) ?_)
    | (with_reducible refine OpKeeps.state (State.hopApply_keeps _ _ _ ?_))
    | intro _
    | with_reducible apply OpKeeps.mk
    | with_reducible apply Keeps.ite
    | with_reducible apply Keeps.foldl
    | with_reducible apply Keeps.of
    | with_reducible refine Keeps.roots ?_ rfl rfl rfl
    | split
    | simp only [keeps_mk]

theorem execAuthLockoutEnd_keeps {s0 : State} {s : State} (hs : Keeps s0 s) : ResKeeps s0 (execAuthLockoutEnd s) := by
  unfold execAuthLockoutEnd
  repeat' first
    | with_reducible assumption
    | with_reducible apply ResKeeps.next
    | with_reducible apply OpKeeps.done
    | with_reducible apply OpKeeps.ite
    | with_reducible apply Keeps.id
    | (with_reducible refine OpKeeps.after (State.hopApply_keeps _ _ _ ?_) ?_)
    | (with_reducible refine OpKeeps.state (State.hopApply_keeps _ _ _ ?_))
    | intro _
    | with_reducible apply OpKeeps.mk
    | with_reducible apply Keeps.ite
    | with_reducible apply Keeps.foldl
    | with_reducible apply Keeps.of
    | with_reducible refine Keeps.roots ?_ rfl rfl rfl
    | split
    | simp only [keeps_mk]

theorem execSessionIdleExpiry_keeps {s0 : State} (session : BitVec 32) {s : State} (hs : Keeps s0 s) : ResKeeps s0 (execSessionIdleExpiry session s) := by
  unfold execSessionIdleExpiry
  repeat' first
    | with_reducible assumption
    | with_reducible apply ResKeeps.next
    | with_reducible apply OpKeeps.done
    | with_reducible apply OpKeeps.ite
    | with_reducible apply Keeps.id
    | (with_reducible refine OpKeeps.after (State.hopApply_keeps _ _ _ ?_) ?_)
    | (with_reducible refine OpKeeps.state (State.hopApply_keeps _ _ _ ?_))
    | intro _
    | with_reducible apply State.endHopSession_keeps

theorem execServerHandover_keeps {s0 : State} (server : Server) {s : State} (hs : Keeps s0 s) : ResKeeps s0 (execServerHandover server s) := by
  unfold execServerHandover
  repeat' first
    | with_reducible assumption
    | with_reducible apply ResKeeps.next
    | with_reducible apply OpKeeps.done
    | with_reducible apply OpKeeps.ite
    | with_reducible apply Keeps.id
    | (with_reducible refine OpKeeps.after (State.hopApply_keeps _ _ _ ?_) ?_)
    | (with_reducible refine OpKeeps.state (State.hopApply_keeps _ _ _ ?_))
    | intro _
    | with_reducible apply State.handover_keeps
    | with_reducible apply OpKeeps.mk
    | with_reducible apply Keeps.ite

end Sys2Proof.Machine
end

