-- ==== Sys2Proof/Laws/KeepsLinks.lean ====
section
/-! SUPPORT. What no command undoes (Keeps), for the functions of Machine/Links. -/

namespace Sys2Proof.Machine

theorem State.writePlaintext_keeps {s0 : State} {s : State} (w : HostWrite) (hs : Keeps s0 s) : Keeps s0 (State.writePlaintext s w) := by
  unfold State.writePlaintext
  repeat' first
    | with_reducible assumption
    | intro _
    | with_reducible apply State.emit_keeps
    | with_reducible apply State.hostNotice_keeps
    | with_reducible apply State.stageResult_keeps
    | with_reducible apply Keeps.ite
    | with_reducible apply Keeps.foldl
    | with_reducible apply Keeps.of
    | with_reducible refine Keeps.roots ?_ rfl rfl rfl
    | split

theorem State.writeHeld_keeps {s0 : State} {s : State} (h : Held) (hs : Keeps s0 s) : Keeps s0 (State.writeHeld s h) := by
  unfold State.writeHeld
  repeat' first
    | with_reducible assumption
    | intro _
    | with_reducible apply State.issueStatus_keeps
    | with_reducible apply State.publish_keeps
    | with_reducible apply State.writePlaintext_keeps
    | with_reducible apply Keeps.ite
    | with_reducible apply Keeps.foldl
    | with_reducible apply Keeps.of
    | with_reducible refine Keeps.roots ?_ rfl rfl rfl
    | split

theorem State.resumeLink_keeps {s0 : State} {s : State} (l : Nat) (hs : Keeps s0 s) : Keeps s0 (State.resumeLink s l) := by
  unfold State.resumeLink
  repeat' first
    | with_reducible assumption
    | intro _
    | with_reducible apply State.setFn_keeps
    | with_reducible apply State.deliverVectors_keeps
    | with_reducible apply State.scan_keeps
    | with_reducible apply State.abortScan_keeps
    | with_reducible apply State.takeDoorbells_keeps
    | with_reducible apply State.writeHeld_keeps
    | with_reducible apply Keeps.ite
    | with_reducible apply Keeps.foldl

theorem execFunctionReset_keeps {s0 : State} (link : Fin 8) (kind : FunctionResetKind) {s : State} (hs : Keeps s0 s) : ResKeeps s0 (execFunctionReset link kind s) := by
  unfold execFunctionReset
  repeat' first
    | with_reducible assumption
    | with_reducible apply ResKeeps.next
    | intro _
    | with_reducible apply State.setEntry_keeps
    | with_reducible apply State.bump_keeps
    | with_reducible apply State.setFn_keeps
    | with_reducible apply State.functionReset_keeps
    | with_reducible apply State.linkDown_keeps
    | with_reducible apply Keeps.ite
    | with_reducible apply Keeps.foldl
    | with_reducible apply Keeps.of
    | with_reducible refine Keeps.roots ?_ rfl rfl rfl
    | split

theorem execQueueDrained_keeps {s0 : State} (slot : Fin 2048) {s : State} (hs : Keeps s0 s) : ResKeeps s0 (execQueueDrained slot s) := by
  unfold execQueueDrained
  repeat' first
    | with_reducible assumption
    | with_reducible apply ResKeeps.next
    | intro _
    | with_reducible apply State.settleDrain_keeps

theorem execD3hotEntry_keeps {s0 : State} (link : Fin 8) {s : State} (hs : Keeps s0 s) : ResKeeps s0 (execD3hotEntry link s) := by
  unfold execD3hotEntry
  repeat' first
    | with_reducible assumption
    | with_reducible apply ResKeeps.next
    | intro _
    | with_reducible apply State.setEntry_keeps
    | with_reducible apply State.setFn_keeps
    | with_reducible apply Keeps.ite

theorem execD0Return_keeps {s0 : State} (link : Fin 8) {s : State} (hs : Keeps s0 s) : ResKeeps s0 (execD0Return link s) := by
  unfold execD0Return
  repeat' first
    | with_reducible assumption
    | with_reducible apply ResKeeps.next
    | intro _
    | with_reducible apply State.setEntry_keeps
    | with_reducible apply State.setFn_keeps
    | with_reducible apply State.resumeLink_keeps
    | with_reducible apply Keeps.ite

theorem execPasidEnableClear_keeps {s0 : State} (link : Fin 8) {s : State} (hs : Keeps s0 s) : ResKeeps s0 (execPasidEnableClear link s) := by
  unfold execPasidEnableClear
  repeat' first
    | with_reducible assumption
    | with_reducible apply ResKeeps.next
    | intro _
    | with_reducible apply State.setFn_keeps
    | with_reducible apply Keeps.ite

theorem execPasidEnableSet_keeps {s0 : State} (link : Fin 8) {s : State} (hs : Keeps s0 s) : ResKeeps s0 (execPasidEnableSet link s) := by
  unfold execPasidEnableSet
  repeat' first
    | with_reducible assumption
    | with_reducible apply ResKeeps.next
    | intro _
    | with_reducible apply State.setFn_keeps
    | with_reducible apply State.resumeLink_keeps
    | with_reducible apply Keeps.ite

theorem execHostLinkUp_keeps {s0 : State} (link : Fin 8) (speed : BitVec 8) (width : BitVec 8) {s : State} (hs : Keeps s0 s) : ResKeeps s0 (execHostLinkUp link speed width s) := by
  unfold execHostLinkUp
  repeat' first
    | with_reducible assumption
    | with_reducible apply ResKeeps.next
    | intro _
    | with_reducible apply State.setEntry_keeps
    | with_reducible apply State.setFn_keeps
    | with_reducible apply Keeps.ite

theorem execMsixVectorUnmask_keeps {s0 : State} (link : Fin 8) (what : MsixUnmask) {s : State} (hs : Keeps s0 s) : ResKeeps s0 (execMsixVectorUnmask link what s) := by
  unfold execMsixVectorUnmask
  repeat' first
    | with_reducible assumption
    | with_reducible apply ResKeeps.next
    | intro _
    | with_reducible apply State.setFn_keeps
    | with_reducible apply State.deliverVectors_keeps
    | with_reducible apply Keeps.ite

theorem State.pausePort_keeps {s0 : State} {s : State} (p : Nat) (pcp : Nat) (quanta : Nat) (hs : Keeps s0 s) : Keeps s0 (State.pausePort s p pcp quanta) := by
  unfold State.pausePort
  repeat' first
    | with_reducible assumption
    | intro _
    | with_reducible apply Keeps.ite
    | with_reducible apply Keeps.foldl
    | with_reducible apply Keeps.of
    | with_reducible refine Keeps.roots ?_ rfl rfl rfl
    | split
    | simp only [keeps_mk]

theorem execPauseFrame_keeps {s0 : State} (port : Fin 256) (pause : PauseFrame) {s : State} (hs : Keeps s0 s) : ResKeeps s0 (execPauseFrame port pause s) := by
  unfold execPauseFrame
  repeat' first
    | with_reducible assumption
    | with_reducible apply ResKeeps.next
    | intro _
    | with_reducible apply State.bump_keeps
    | with_reducible apply State.pump_keeps
    | with_reducible apply State.pausePort_keeps
    | with_reducible apply Keeps.ite
    | with_reducible apply Keeps.foldl
    | with_reducible apply Keeps.of
    | with_reducible refine Keeps.roots ?_ rfl rfl rfl
    | split

end Sys2Proof.Machine
end

