-- ==== Sys2Proof/Laws/KeepsMailbox.lean ====
section
/-! SUPPORT. What no command undoes (Keeps), for the functions of Machine/Mailbox. -/

namespace Sys2Proof.Machine

theorem execMbRead_keeps {s0 : State} (link : Fin 8) (slice : Fin 512) (addr : BitVec 32) {s : State} (hs : Keeps s0 s) : ResKeeps s0 (execMbRead link slice addr s) := by
  unfold execMbRead
  repeat' first
    | with_reducible assumption
    | with_reducible apply ResKeeps.next
    | intro _
    | with_reducible apply State.bump_keeps
    | with_reducible apply State.endMailbox_keeps
    | with_reducible apply Keeps.ite

theorem execMbWrite_keeps {s0 : State} (link : Fin 8) (slice : Fin 512) (addr : BitVec 32) (len : BitVec 32) (data : Bytes) {s : State} (hs : Keeps s0 s) : ResKeeps s0 (execMbWrite link slice addr len data s) := by
  unfold execMbWrite
  repeat' first
    | with_reducible assumption
    | with_reducible apply ResKeeps.next
    | intro _
    | with_reducible apply State.bump_keeps
    | with_reducible apply State.setMailbox_keeps
    | with_reducible apply State.endMailbox_keeps
    | with_reducible apply State.lateWrite_keeps
    | with_reducible apply State.applyWrite_keeps
    | with_reducible apply Keeps.ite

theorem execMbInfo_keeps {s0 : State} (link : Fin 8) (slice : Fin 512) (addr : BitVec 32) {s : State} (hs : Keeps s0 s) : ResKeeps s0 (execMbInfo link slice addr s) := by
  unfold execMbInfo
  repeat' first
    | with_reducible assumption
    | with_reducible apply ResKeeps.next
    | intro _
    | with_reducible apply State.bump_keeps
    | with_reducible apply State.endMailbox_keeps
    | with_reducible apply Keeps.ite

end Sys2Proof.Machine
end

