-- ==== Sys2Proof/Laws/KeepsVectorOps.lean ====
section
/-! SUPPORT. What no command undoes (Keeps), for the functions of Machine/VectorOps. -/

namespace Sys2Proof.Machine

theorem State.svIssue_keeps {s0 : State} {s : State} (w : Nat) (et : BitVec 3) (auxOk : Bool) (k : State → Wick → Nat → Issue) (hs : Keeps s0 s) (hk : ∀ z0 : State, Keeps s0 z0 → ∀ z1 : Wick, ∀ z2 : Nat, IssueKeeps s0 (k z0 z1 z2)) : Keeps s0 (State.svIssue s w et auxOk k) := by
  unfold State.svIssue
  repeat' first
    | with_reducible assumption
    | with_reducible apply IssueKeeps.ok
    | with_reducible apply IssueKeeps.stall
    | with_reducible apply IssueKeeps.ended
    | with_reducible apply IssueKeeps.fault
    | with_reducible apply IssueKeeps.ite
    | intro _
    | with_reducible apply State.issue_keeps
    | with_reducible apply Keeps.ite
    | with_reducible apply Keeps.foldl
    | with_reducible apply hk
    | with_reducible apply Keeps.of
    | with_reducible refine Keeps.roots ?_ rfl rfl rfl
    | split

theorem State.svBinary_keeps {s0 : State} {s : State} (w : Nat) (vd : BitVec 5) (vs1 : BitVec 5) (vs2 : BitVec 5) (et : BitVec 3) (m : Bool) (aux : BitVec 5) (form : Wick → Nat → Option SvForm) (hs : Keeps s0 s) : Keeps s0 (State.svBinary s w vd vs1 vs2 et m aux form) := by
  unfold State.svBinary
  repeat' first
    | with_reducible assumption
    | with_reducible apply IssueKeeps.ok
    | with_reducible apply IssueKeeps.stall
    | with_reducible apply IssueKeeps.ended
    | with_reducible apply IssueKeeps.fault
    | with_reducible apply IssueKeeps.ite
    | intro _
    | with_reducible apply State.takeShroud_keeps
    | with_reducible apply State.svIssue_keeps
    | with_reducible apply Keeps.ite
    | with_reducible apply Keeps.foldl
    | with_reducible apply Keeps.of
    | with_reducible refine Keeps.roots ?_ rfl rfl rfl
    | split

theorem State.svUnary_keeps {s0 : State} {s : State} (w : Nat) (vd : BitVec 5) (vs1 : BitVec 5) (vs2 : BitVec 5) (et : BitVec 3) (m : Bool) (aux : BitVec 5) (latency : Nat) (form : Wick → Nat → Option ((Nat → Nat) × (Nat → Nat → Nat))) (hs : Keeps s0 s) : Keeps s0 (State.svUnary s w vd vs1 vs2 et m aux latency form) := by
  unfold State.svUnary
  repeat' first
    | with_reducible assumption
    | with_reducible apply IssueKeeps.ok
    | with_reducible apply IssueKeeps.stall
    | with_reducible apply IssueKeeps.ended
    | with_reducible apply IssueKeeps.fault
    | with_reducible apply IssueKeeps.ite
    | intro _
    | with_reducible apply State.svIssue_keeps
    | with_reducible apply Keeps.ite
    | with_reducible apply Keeps.foldl
    | with_reducible apply Keeps.of
    | with_reducible refine Keeps.roots ?_ rfl rfl rfl
    | split

theorem State.svShift_keeps {s0 : State} {s : State} (w : Nat) (vd : BitVec 5) (vs1 : BitVec 5) (vs2 : BitVec 5) (et : BitVec 3) (m : Bool) (aux : BitVec 5) (shared : Bool) (f : Nat → Nat → List Nat → List Nat) (hs : Keeps s0 s) : Keeps s0 (State.svShift s w vd vs1 vs2 et m aux shared f) := by
  unfold State.svShift
  repeat' first
    | with_reducible assumption
    | with_reducible apply IssueKeeps.ok
    | with_reducible apply IssueKeeps.stall
    | with_reducible apply IssueKeeps.ended
    | with_reducible apply IssueKeeps.fault
    | with_reducible apply IssueKeeps.ite
    | intro _
    | with_reducible apply State.svIssue_keeps

end Sys2Proof.Machine
end

