-- ==== Sys2Proof/Laws/KeepsVectors.lean ====
section
/-! SUPPORT. What no command undoes (Keeps), for the functions of Machine/Vectors. -/

namespace Sys2Proof.Machine

theorem execSvAdd_keeps {s0 : State} (w : Fin 256) (vd : BitVec 5) (vs1 : BitVec 5) (vs2 : BitVec 5) (et : BitVec 3) (m : Bool) (aux : BitVec 5) {s : State} (hs : Keeps s0 s) : ResKeeps s0 (execSvAdd w vd vs1 vs2 et m aux s) := by
  unfold execSvAdd
  repeat' first
    | with_reducible assumption
    | with_reducible apply ResKeeps.next
    | intro _
    | with_reducible apply State.svBinary_keeps

theorem execSvSub_keeps {s0 : State} (w : Fin 256) (vd : BitVec 5) (vs1 : BitVec 5) (vs2 : BitVec 5) (et : BitVec 3) (m : Bool) (aux : BitVec 5) {s : State} (hs : Keeps s0 s) : ResKeeps s0 (execSvSub w vd vs1 vs2 et m aux s) := by
  unfold execSvSub
  repeat' first
    | with_reducible assumption
    | with_reducible apply ResKeeps.next
    | intro _
    | with_reducible apply State.svBinary_keeps

theorem execSvAnd_keeps {s0 : State} (w : Fin 256) (vd : BitVec 5) (vs1 : BitVec 5) (vs2 : BitVec 5) (et : BitVec 3) (m : Bool) (aux : BitVec 5) {s : State} (hs : Keeps s0 s) : ResKeeps s0 (execSvAnd w vd vs1 vs2 et m aux s) := by
  unfold execSvAnd
  repeat' first
    | with_reducible assumption
    | with_reducible apply ResKeeps.next
    | intro _
    | with_reducible apply State.svBinary_keeps

theorem execSvOr_keeps {s0 : State} (w : Fin 256) (vd : BitVec 5) (vs1 : BitVec 5) (vs2 : BitVec 5) (et : BitVec 3) (m : Bool) (aux : BitVec 5) {s : State} (hs : Keeps s0 s) : ResKeeps s0 (execSvOr w vd vs1 vs2 et m aux s) := by
  unfold execSvOr
  repeat' first
    | with_reducible assumption
    | with_reducible apply ResKeeps.next
    | intro _
    | with_reducible apply State.svBinary_keeps

theorem execSvXor_keeps {s0 : State} (w : Fin 256) (vd : BitVec 5) (vs1 : BitVec 5) (vs2 : BitVec 5) (et : BitVec 3) (m : Bool) (aux : BitVec 5) {s : State} (hs : Keeps s0 s) : ResKeeps s0 (execSvXor w vd vs1 vs2 et m aux s) := by
  unfold execSvXor
  repeat' first
    | with_reducible assumption
    | with_reducible apply ResKeeps.next
    | intro _
    | with_reducible apply State.svBinary_keeps

theorem execSvAndn_keeps {s0 : State} (w : Fin 256) (vd : BitVec 5) (vs1 : BitVec 5) (vs2 : BitVec 5) (et : BitVec 3) (m : Bool) (aux : BitVec 5) {s : State} (hs : Keeps s0 s) : ResKeeps s0 (execSvAndn w vd vs1 vs2 et m aux s) := by
  unfold execSvAndn
  repeat' first
    | with_reducible assumption
    | with_reducible apply ResKeeps.next
    | intro _
    | with_reducible apply State.svBinary_keeps

theorem execSvNot_keeps {s0 : State} (w : Fin 256) (vd : BitVec 5) (vs1 : BitVec 5) (vs2 : BitVec 5) (et : BitVec 3) (m : Bool) (aux : BitVec 5) {s : State} (hs : Keeps s0 s) : ResKeeps s0 (execSvNot w vd vs1 vs2 et m aux s) := by
  unfold execSvNot
  repeat' first
    | with_reducible assumption
    | with_reducible apply ResKeeps.next
    | intro _
    | with_reducible apply State.svUnary_keeps

theorem execSvSll_keeps {s0 : State} (w : Fin 256) (vd : BitVec 5) (vs1 : BitVec 5) (vs2 : BitVec 5) (et : BitVec 3) (m : Bool) (aux : BitVec 5) {s : State} (hs : Keeps s0 s) : ResKeeps s0 (execSvSll w vd vs1 vs2 et m aux s) := by
  unfold execSvSll
  repeat' first
    | with_reducible assumption
    | with_reducible apply ResKeeps.next
    | intro _
    | with_reducible apply State.svShift_keeps

theorem execSvSrl_keeps {s0 : State} (w : Fin 256) (vd : BitVec 5) (vs1 : BitVec 5) (vs2 : BitVec 5) (et : BitVec 3) (m : Bool) (aux : BitVec 5) {s : State} (hs : Keeps s0 s) : ResKeeps s0 (execSvSrl w vd vs1 vs2 et m aux s) := by
  unfold execSvSrl
  repeat' first
    | with_reducible assumption
    | with_reducible apply ResKeeps.next
    | intro _
    | with_reducible apply State.svShift_keeps

theorem execSvSra_keeps {s0 : State} (w : Fin 256) (vd : BitVec 5) (vs1 : BitVec 5) (vs2 : BitVec 5) (et : BitVec 3) (m : Bool) (aux : BitVec 5) {s : State} (hs : Keeps s0 s) : ResKeeps s0 (execSvSra w vd vs1 vs2 et m aux s) := by
  unfold execSvSra
  repeat' first
    | with_reducible assumption
    | with_reducible apply ResKeeps.next
    | intro _
    | with_reducible apply State.svShift_keeps

theorem execSvRote_keeps {s0 : State} (w : Fin 256) (vd : BitVec 5) (vs1 : BitVec 5) (vs2 : BitVec 5) (et : BitVec 3) (m : Bool) (aux : BitVec 5) {s : State} (hs : Keeps s0 s) : ResKeeps s0 (execSvRote w vd vs1 vs2 et m aux s) := by
  unfold execSvRote
  repeat' first
    | with_reducible assumption
    | with_reducible apply ResKeeps.next
    | intro _
    | with_reducible apply State.svShift_keeps

theorem execSvMinu_keeps {s0 : State} (w : Fin 256) (vd : BitVec 5) (vs1 : BitVec 5) (vs2 : BitVec 5) (et : BitVec 3) (m : Bool) (aux : BitVec 5) {s : State} (hs : Keeps s0 s) : ResKeeps s0 (execSvMinu w vd vs1 vs2 et m aux s) := by
  unfold execSvMinu
  repeat' first
    | with_reducible assumption
    | with_reducible apply ResKeeps.next
    | intro _
    | with_reducible apply State.svBinary_keeps

theorem execSvMaxu_keeps {s0 : State} (w : Fin 256) (vd : BitVec 5) (vs1 : BitVec 5) (vs2 : BitVec 5) (et : BitVec 3) (m : Bool) (aux : BitVec 5) {s : State} (hs : Keeps s0 s) : ResKeeps s0 (execSvMaxu w vd vs1 vs2 et m aux s) := by
  unfold execSvMaxu
  repeat' first
    | with_reducible assumption
    | with_reducible apply ResKeeps.next
    | intro _
    | with_reducible apply State.svBinary_keeps

theorem execSvCmpeq_keeps {s0 : State} (w : Fin 256) (vd : BitVec 5) (vs1 : BitVec 5) (vs2 : BitVec 5) (et : BitVec 3) (m : Bool) (aux : BitVec 5) {s : State} (hs : Keeps s0 s) : ResKeeps s0 (execSvCmpeq w vd vs1 vs2 et m aux s) := by
  unfold execSvCmpeq
  repeat' first
    | with_reducible assumption
    | with_reducible apply ResKeeps.next
    | intro _
    | with_reducible apply State.svBinary_keeps

theorem execSvCmpltu_keeps {s0 : State} (w : Fin 256) (vd : BitVec 5) (vs1 : BitVec 5) (vs2 : BitVec 5) (et : BitVec 3) (m : Bool) (aux : BitVec 5) {s : State} (hs : Keeps s0 s) : ResKeeps s0 (execSvCmpltu w vd vs1 vs2 et m aux s) := by
  unfold execSvCmpltu
  repeat' first
    | with_reducible assumption
    | with_reducible apply ResKeeps.next
    | intro _
    | with_reducible apply State.svBinary_keeps

theorem execSvMul_keeps {s0 : State} (w : Fin 256) (vd : BitVec 5) (vs1 : BitVec 5) (vs2 : BitVec 5) (et : BitVec 3) (m : Bool) (aux : BitVec 5) {s : State} (hs : Keeps s0 s) : ResKeeps s0 (execSvMul w vd vs1 vs2 et m aux s) := by
  unfold execSvMul
  repeat' first
    | with_reducible assumption
    | with_reducible apply ResKeeps.next
    | intro _
    | with_reducible apply State.svBinary_keeps

theorem execSvMulhu_keeps {s0 : State} (w : Fin 256) (vd : BitVec 5) (vs1 : BitVec 5) (vs2 : BitVec 5) (et : BitVec 3) (m : Bool) (aux : BitVec 5) {s : State} (hs : Keeps s0 s) : ResKeeps s0 (execSvMulhu w vd vs1 vs2 et m aux s) := by
  unfold execSvMulhu
  repeat' first
    | with_reducible assumption
    | with_reducible apply ResKeeps.next
    | intro _
    | with_reducible apply State.svBinary_keeps

theorem execMadd_keeps {s0 : State} (w : Fin 256) (vd : BitVec 5) (vs1 : BitVec 5) (vs2 : BitVec 5) (et : BitVec 3) (m : Bool) (aux : BitVec 5) {s : State} (hs : Keeps s0 s) : ResKeeps s0 (execMadd w vd vs1 vs2 et m aux s) := by
  unfold execMadd
  repeat' first
    | with_reducible assumption
    | with_reducible apply ResKeeps.next
    | intro _
    | with_reducible apply State.svBinary_keeps

theorem execMsub_keeps {s0 : State} (w : Fin 256) (vd : BitVec 5) (vs1 : BitVec 5) (vs2 : BitVec 5) (et : BitVec 3) (m : Bool) (aux : BitVec 5) {s : State} (hs : Keeps s0 s) : ResKeeps s0 (execMsub w vd vs1 vs2 et m aux s) := by
  unfold execMsub
  repeat' first
    | with_reducible assumption
    | with_reducible apply ResKeeps.next
    | intro _
    | with_reducible apply State.svBinary_keeps

theorem execMmul_keeps {s0 : State} (w : Fin 256) (vd : BitVec 5) (vs1 : BitVec 5) (vs2 : BitVec 5) (et : BitVec 3) (m : Bool) (aux : BitVec 5) {s : State} (hs : Keeps s0 s) : ResKeeps s0 (execMmul w vd vs1 vs2 et m aux s) := by
  unfold execMmul
  repeat' first
    | with_reducible assumption
    | with_reducible apply ResKeeps.next
    | intro _
    | with_reducible apply State.svBinary_keeps

theorem execMred_keeps {s0 : State} (w : Fin 256) (vd : BitVec 5) (vs1 : BitVec 5) (vs2 : BitVec 5) (et : BitVec 3) (m : Bool) (aux : BitVec 5) {s : State} (hs : Keeps s0 s) : ResKeeps s0 (execMred w vd vs1 vs2 et m aux s) := by
  unfold execMred
  repeat' first
    | with_reducible assumption
    | with_reducible apply ResKeeps.next
    | intro _
    | with_reducible apply State.svUnary_keeps

theorem execMneg_keeps {s0 : State} (w : Fin 256) (vd : BitVec 5) (vs1 : BitVec 5) (vs2 : BitVec 5) (et : BitVec 3) (m : Bool) (aux : BitVec 5) {s : State} (hs : Keeps s0 s) : ResKeeps s0 (execMneg w vd vs1 vs2 et m aux s) := by
  unfold execMneg
  repeat' first
    | with_reducible assumption
    | with_reducible apply ResKeeps.next
    | intro _
    | with_reducible apply State.svUnary_keeps

theorem State.svWiden_keeps {s0 : State} {s : State} (w : Nat) (vd : BitVec 5) (vs1 : BitVec 5) (vs2 : BitVec 5) (et : BitVec 3) (m : Bool) (aux : BitVec 5) (widths : List Nat) (out : Nat → Nat) (f : List Int → List Int) (hs : Keeps s0 s) : Keeps s0 (State.svWiden s w vd vs1 vs2 et m aux widths out f) := by
  unfold State.svWiden
  repeat' first
    | with_reducible assumption
    | with_reducible apply IssueKeeps.ok
    | with_reducible apply IssueKeeps.stall
    | with_reducible apply IssueKeeps.ended
    | with_reducible apply IssueKeeps.fault
    | with_reducible apply IssueKeeps.ite
    | intro _
    | with_reducible apply State.svIssue_keeps

theorem execWmule_keeps {s0 : State} (w : Fin 256) (vd : BitVec 5) (vs1 : BitVec 5) (vs2 : BitVec 5) (et : BitVec 3) (m : Bool) (aux : BitVec 5) {s : State} (hs : Keeps s0 s) : ResKeeps s0 (execWmule w vd vs1 vs2 et m aux s) := by
  unfold execWmule
  repeat' first
    | with_reducible assumption
    | with_reducible apply ResKeeps.next
    | intro _
    | with_reducible apply State.svWiden_keeps

theorem execWmulo_keeps {s0 : State} (w : Fin 256) (vd : BitVec 5) (vs1 : BitVec 5) (vs2 : BitVec 5) (et : BitVec 3) (m : Bool) (aux : BitVec 5) {s : State} (hs : Keeps s0 s) : ResKeeps s0 (execWmulo w vd vs1 vs2 et m aux s) := by
  unfold execWmulo
  repeat' first
    | with_reducible assumption
    | with_reducible apply ResKeeps.next
    | intro _
    | with_reducible apply State.svWiden_keeps

theorem execDot_keeps {s0 : State} (w : Fin 256) (vd : BitVec 5) (vs1 : BitVec 5) (vs2 : BitVec 5) (et : BitVec 3) (m : Bool) (aux : BitVec 5) {s : State} (hs : Keeps s0 s) : ResKeeps s0 (execDot w vd vs1 vs2 et m aux s) := by
  unfold execDot
  repeat' first
    | with_reducible assumption
    | with_reducible apply ResKeeps.next
    | intro _
    | with_reducible apply State.svWiden_keeps

theorem execVsplat_keeps {s0 : State} (w : Fin 256) (vd : BitVec 5) (vs1 : BitVec 5) (_vs2 : BitVec 5) (et : BitVec 3) (m : Bool) (aux : BitVec 5) {s : State} (hs : Keeps s0 s) : ResKeeps s0 (execVsplat w vd vs1 _vs2 et m aux s) := by
  unfold execVsplat
  repeat' first
    | with_reducible assumption
    | with_reducible apply ResKeeps.next
    | with_reducible apply IssueKeeps.ok
    | with_reducible apply IssueKeeps.stall
    | with_reducible apply IssueKeeps.ended
    | with_reducible apply IssueKeeps.fault
    | with_reducible apply IssueKeeps.ite
    | intro _
    | with_reducible apply State.svIssue_keeps

theorem execVins_keeps {s0 : State} (w : Fin 256) (vd : BitVec 5) (vs1 : BitVec 5) (_vs2 : BitVec 5) (et : BitVec 3) (m : Bool) (aux : BitVec 5) {s : State} (hs : Keeps s0 s) : ResKeeps s0 (execVins w vd vs1 _vs2 et m aux s) := by
  unfold execVins
  repeat' first
    | with_reducible assumption
    | with_reducible apply ResKeeps.next
    | with_reducible apply IssueKeeps.ok
    | with_reducible apply IssueKeeps.stall
    | with_reducible apply IssueKeeps.ended
    | with_reducible apply IssueKeeps.fault
    | with_reducible apply IssueKeeps.ite
    | intro _
    | with_reducible apply State.svIssue_keeps

theorem execVext_keeps {s0 : State} (w : Fin 256) (vd : BitVec 5) (vs1 : BitVec 5) (_vs2 : BitVec 5) (et : BitVec 3) (m : Bool) (aux : BitVec 5) {s : State} (hs : Keeps s0 s) : ResKeeps s0 (execVext w vd vs1 _vs2 et m aux s) := by
  unfold execVext
  repeat' first
    | with_reducible assumption
    | with_reducible apply ResKeeps.next
    | with_reducible apply IssueKeeps.ok
    | with_reducible apply IssueKeeps.stall
    | with_reducible apply IssueKeeps.ended
    | with_reducible apply IssueKeeps.fault
    | with_reducible apply IssueKeeps.ite
    | intro _
    | with_reducible apply State.svIssue_keeps

theorem execVswaph_keeps {s0 : State} (w : Fin 256) (vd : BitVec 5) (vs1 : BitVec 5) (_vs2 : BitVec 5) (et : BitVec 3) (m : Bool) (aux : BitVec 5) {s : State} (hs : Keeps s0 s) : ResKeeps s0 (execVswaph w vd vs1 _vs2 et m aux s) := by
  unfold execVswaph
  repeat' first
    | with_reducible assumption
    | with_reducible apply ResKeeps.next
    | with_reducible apply IssueKeeps.ok
    | with_reducible apply IssueKeeps.stall
    | with_reducible apply IssueKeeps.ended
    | with_reducible apply IssueKeeps.fault
    | with_reducible apply IssueKeeps.ite
    | intro _
    | with_reducible apply State.svIssue_keeps

theorem execVmov_keeps {s0 : State} (w : Fin 256) (vd : BitVec 5) (vs1 : BitVec 5) (_vs2 : BitVec 5) (et : BitVec 3) (m : Bool) (aux : BitVec 5) {s : State} (hs : Keeps s0 s) : ResKeeps s0 (execVmov w vd vs1 _vs2 et m aux s) := by
  unfold execVmov
  repeat' first
    | with_reducible assumption
    | with_reducible apply ResKeeps.next
    | with_reducible apply IssueKeeps.ok
    | with_reducible apply IssueKeeps.stall
    | with_reducible apply IssueKeeps.ended
    | with_reducible apply IssueKeeps.fault
    | with_reducible apply IssueKeeps.ite
    | intro _
    | with_reducible apply State.svIssue_keeps

theorem execVzero_keeps {s0 : State} (w : Fin 256) (vd : BitVec 5) (vs1 : BitVec 5) (vs2 : BitVec 5) (et : BitVec 3) (m : Bool) (aux : BitVec 5) {s : State} (hs : Keeps s0 s) : ResKeeps s0 (execVzero w vd vs1 vs2 et m aux s) := by
  unfold execVzero
  repeat' first
    | with_reducible assumption
    | with_reducible apply ResKeeps.next
    | with_reducible apply IssueKeeps.ok
    | with_reducible apply IssueKeeps.stall
    | with_reducible apply IssueKeeps.ended
    | with_reducible apply IssueKeeps.fault
    | with_reducible apply IssueKeeps.ite
    | intro _
    | with_reducible apply State.svIssue_keeps

theorem execMask_keeps {s0 : State} (w : Fin 256) (vd : BitVec 5) (vs1 : BitVec 5) (_vs2 : BitVec 5) (et : BitVec 3) (m : Bool) (aux : BitVec 5) {s : State} (hs : Keeps s0 s) : ResKeeps s0 (execMask w vd vs1 _vs2 et m aux s) := by
  unfold execMask
  repeat' first
    | with_reducible assumption
    | with_reducible apply ResKeeps.next
    | with_reducible apply IssueKeeps.ok
    | with_reducible apply IssueKeeps.stall
    | with_reducible apply IssueKeeps.ended
    | with_reducible apply IssueKeeps.fault
    | with_reducible apply IssueKeeps.ite
    | intro _
    | with_reducible apply State.takeShroud_keeps
    | with_reducible apply State.svIssue_keeps
    | with_reducible apply Keeps.ite
    | with_reducible apply Keeps.foldl
    | with_reducible apply Keeps.of
    | with_reducible refine Keeps.roots ?_ rfl rfl rfl
    | split

theorem execRefresh_keeps {s0 : State} (w : Fin 256) (vd : BitVec 5) (vs1 : BitVec 5) (_vs2 : BitVec 5) (et : BitVec 3) (m : Bool) (aux : BitVec 5) {s : State} (hs : Keeps s0 s) : ResKeeps s0 (execRefresh w vd vs1 _vs2 et m aux s) := by
  unfold execRefresh
  repeat' first
    | with_reducible assumption
    | with_reducible apply ResKeeps.next
    | with_reducible apply IssueKeeps.ok
    | with_reducible apply IssueKeeps.stall
    | with_reducible apply IssueKeeps.ended
    | with_reducible apply IssueKeeps.fault
    | with_reducible apply IssueKeeps.ite
    | intro _
    | with_reducible apply State.takeShroud_keeps
    | with_reducible apply State.svIssue_keeps
    | with_reducible apply Keeps.ite
    | with_reducible apply Keeps.foldl
    | with_reducible apply Keeps.of
    | with_reducible refine Keeps.roots ?_ rfl rfl rfl
    | split

theorem State.unmask_keeps {s0 : State} {s : State} (w : Nat) (vs1 : BitVec 5) (et : BitVec 3) (m : Bool) (aux : BitVec 5) (put : Wick → Nat → Nat → Wick) (hs : Keeps s0 s) : Keeps s0 (State.unmask s w vs1 et m aux put) := by
  unfold State.unmask
  repeat' first
    | with_reducible assumption
    | with_reducible apply IssueKeeps.ok
    | with_reducible apply IssueKeeps.stall
    | with_reducible apply IssueKeeps.ended
    | with_reducible apply IssueKeeps.fault
    | with_reducible apply IssueKeeps.ite
    | intro _
    | with_reducible apply State.svIssue_keeps
    | with_reducible apply Keeps.ite
    | with_reducible apply Keeps.foldl
    | with_reducible apply Keeps.of
    | with_reducible refine Keeps.roots ?_ rfl rfl rfl
    | split

theorem execUnm_keeps {s0 : State} (w : Fin 256) (vd : BitVec 5) (vs1 : BitVec 5) (_vs2 : BitVec 5) (et : BitVec 3) (m : Bool) (aux : BitVec 5) {s : State} (hs : Keeps s0 s) : ResKeeps s0 (execUnm w vd vs1 _vs2 et m aux s) := by
  unfold execUnm
  repeat' first
    | with_reducible assumption
    | with_reducible apply ResKeeps.next
    | intro _
    | with_reducible apply State.unmask_keeps

theorem execUnmg_keeps {s0 : State} (w : Fin 256) (vd : BitVec 5) (vs1 : BitVec 5) (_vs2 : BitVec 5) (et : BitVec 3) (m : Bool) (aux : BitVec 5) {s : State} (hs : Keeps s0 s) : ResKeeps s0 (execUnmg w vd vs1 _vs2 et m aux s) := by
  unfold execUnmg
  repeat' first
    | with_reducible assumption
    | with_reducible apply ResKeeps.next
    | intro _
    | with_reducible apply State.unmask_keeps

theorem execVkey_keeps {s0 : State} (w : Fin 256) (vd : BitVec 5) (_vs1 : BitVec 5) (_vs2 : BitVec 5) (et : BitVec 3) (m : Bool) (aux : BitVec 5) {s : State} (hs : Keeps s0 s) : ResKeeps s0 (execVkey w vd _vs1 _vs2 et m aux s) := by
  unfold execVkey
  repeat' first
    | with_reducible assumption
    | with_reducible apply ResKeeps.next
    | with_reducible apply IssueKeeps.ok
    | with_reducible apply IssueKeeps.stall
    | with_reducible apply IssueKeeps.ended
    | with_reducible apply IssueKeeps.fault
    | with_reducible apply IssueKeeps.ite
    | intro _
    | with_reducible apply State.takeShroud_keeps
    | with_reducible apply State.svIssue_keeps

theorem State.convert_keeps {s0 : State} {s : State} (w : Nat) (vd : BitVec 5) (vs1 : BitVec 5) (et : BitVec 3) (m : Bool) (aux : BitVec 5) (modq : Bool) (freshModq : Bool) (beats : Nat) (latency : Nat) (words : Nat) (f : Nat → Nat → Nat × Nat → Nat → Nat → List Nat) (hs : Keeps s0 s) : Keeps s0 (State.convert s w vd vs1 et m aux modq freshModq beats latency words f) := by
  unfold State.convert
  repeat' first
    | with_reducible assumption
    | with_reducible apply IssueKeeps.ok
    | with_reducible apply IssueKeeps.stall
    | with_reducible apply IssueKeeps.ended
    | with_reducible apply IssueKeeps.fault
    | with_reducible apply IssueKeeps.ite
    | intro _
    | refine State.draw_keeps_eq (by assumption) ?_
    | with_reducible apply State.draw_keeps
    | with_reducible apply State.takeShroud_keeps
    | with_reducible apply State.svIssue_keeps

theorem execA2b_keeps {s0 : State} (w : Fin 256) (vd : BitVec 5) (vs1 : BitVec 5) (_vs2 : BitVec 5) (et : BitVec 3) (m : Bool) (aux : BitVec 5) {s : State} (hs : Keeps s0 s) : ResKeeps s0 (execA2b w vd vs1 _vs2 et m aux s) := by
  unfold execA2b
  repeat' first
    | with_reducible assumption
    | with_reducible apply ResKeeps.next
    | intro _
    | with_reducible apply State.convert_keeps

theorem execB2a_keeps {s0 : State} (w : Fin 256) (vd : BitVec 5) (vs1 : BitVec 5) (_vs2 : BitVec 5) (et : BitVec 3) (m : Bool) (aux : BitVec 5) {s : State} (hs : Keeps s0 s) : ResKeeps s0 (execB2a w vd vs1 _vs2 et m aux s) := by
  unfold execB2a
  repeat' first
    | with_reducible assumption
    | with_reducible apply ResKeeps.next
    | intro _
    | with_reducible apply State.convert_keeps

theorem execA2bq_keeps {s0 : State} (w : Fin 256) (vd : BitVec 5) (vs1 : BitVec 5) (_vs2 : BitVec 5) (et : BitVec 3) (m : Bool) (aux : BitVec 5) {s : State} (hs : Keeps s0 s) : ResKeeps s0 (execA2bq w vd vs1 _vs2 et m aux s) := by
  unfold execA2bq
  repeat' first
    | with_reducible assumption
    | with_reducible apply ResKeeps.next
    | intro _
    | with_reducible apply State.convert_keeps

theorem execB2aq_keeps {s0 : State} (w : Fin 256) (vd : BitVec 5) (vs1 : BitVec 5) (_vs2 : BitVec 5) (et : BitVec 3) (m : Bool) (aux : BitVec 5) {s : State} (hs : Keeps s0 s) : ResKeeps s0 (execB2aq w vd vs1 _vs2 et m aux s) := by
  unfold execB2aq
  repeat' first
    | with_reducible assumption
    | with_reducible apply ResKeeps.next
    | intro _
    | with_reducible apply State.convert_keeps

theorem State.svAccess_keeps {s0 : State} {s : State} (x : Wick) (a : Nat) (n : Nat) (m : Bool) (store : Bool) (k : Issue) (hs : Keeps s0 s) (hk : IssueKeeps s0 k) : IssueKeeps s0 (State.svAccess s x a n m store k) := by
  unfold State.svAccess
  repeat' first
    | with_reducible assumption
    | with_reducible apply IssueKeeps.ok
    | with_reducible apply IssueKeeps.stall
    | with_reducible apply IssueKeeps.ended
    | with_reducible apply IssueKeeps.fault
    | with_reducible apply IssueKeeps.ite
    | intro _
    | with_reducible apply State.access_keeps

theorem execVld_keeps {s0 : State} (w : Fin 256) (vd : BitVec 5) (rs1 : BitVec 5) (imm : BitVec 11) (nf : BitVec 2) (m : Bool) (et : BitVec 3) (rsv : BitVec 2) {s : State} (hs : Keeps s0 s) : ResKeeps s0 (execVld w vd rs1 imm nf m et rsv s) := by
  unfold execVld
  repeat' first
    | with_reducible assumption
    | with_reducible apply ResKeeps.next
    | with_reducible apply IssueKeeps.ok
    | with_reducible apply IssueKeeps.stall
    | with_reducible apply IssueKeeps.ended
    | with_reducible apply IssueKeeps.fault
    | with_reducible apply IssueKeeps.ite
    | intro _
    | with_reducible apply State.issue_keeps
    | with_reducible apply State.svAccess_keeps
    | with_reducible apply Keeps.ite
    | with_reducible apply Keeps.foldl
    | with_reducible apply Keeps.of
    | with_reducible refine Keeps.roots ?_ rfl rfl rfl
    | split
    | simp only [keeps_mk]

theorem execVst_keeps {s0 : State} (w : Fin 256) (vd : BitVec 5) (rs1 : BitVec 5) (imm : BitVec 11) (nf : BitVec 2) (m : Bool) (et : BitVec 3) (rsv : BitVec 2) {s : State} (hs : Keeps s0 s) : ResKeeps s0 (execVst w vd rs1 imm nf m et rsv s) := by
  unfold execVst
  repeat' first
    | with_reducible assumption
    | with_reducible apply ResKeeps.next
    | with_reducible apply IssueKeeps.ok
    | with_reducible apply IssueKeeps.stall
    | with_reducible apply IssueKeeps.ended
    | with_reducible apply IssueKeeps.fault
    | with_reducible apply IssueKeeps.ite
    | intro _
    | with_reducible apply State.issue_keeps
    | with_reducible apply State.svAccess_keeps
    | with_reducible apply Keeps.ite
    | with_reducible apply Keeps.foldl
    | with_reducible apply Keeps.of
    | with_reducible refine Keeps.roots ?_ rfl rfl rfl
    | split
    | simp only [keeps_mk]

theorem execShroudRekey_keeps {s0 : State} (w : Fin 256) {s : State} (hs : Keeps s0 s) : ResKeeps s0 (execShroudRekey w s) := by
  unfold execShroudRekey
  repeat' first
    | with_reducible assumption
    | with_reducible apply ResKeeps.next
    | intro _
    | refine State.generate_keeps_eq (by assumption) ?_
    | with_reducible apply State.bump_keeps
    | with_reducible apply State.setWick_keeps
    | with_reducible apply State.modJob_keeps
    | with_reducible apply State.generate_keeps
    | with_reducible apply State.waitEntropy_keeps
    | with_reducible apply Keeps.ite
    | with_reducible apply Keeps.foldl
    | with_reducible apply Keeps.of
    | with_reducible refine Keeps.roots ?_ rfl rfl rfl
    | split

end Sys2Proof.Machine
end

