-- ==== Sys2Proof/Laws/KeepsWickGang.lean ====
section
/-! SUPPORT. What no command undoes (Keeps), for the functions of Machine/WickGang. -/

namespace Sys2Proof.Machine

theorem State.moveRing_keeps {s0 : State} {s : State} (w : Nat) (hs : Keeps s0 s) : Keeps s0 (State.moveRing s w) := by
  unfold State.moveRing
  repeat' first
    | with_reducible assumption
    | intro _
    | with_reducible apply State.setWick_keeps
    | with_reducible apply Keeps.ite
    | with_reducible apply Keeps.foldl
    | with_reducible apply Keeps.of
    | with_reducible refine Keeps.roots ?_ rfl rfl rfl
    | split
    | simp only [keeps_mk]

theorem State.settleRing_keeps {s0 : State} {s : State} (w : Nat) (hs : Keeps s0 s) : Keeps s0 (State.settleRing s w) := by
  unfold State.settleRing
  repeat' first
    | with_reducible assumption
    | intro _
    | with_reducible apply State.moveRing_keeps

theorem execGsend_keeps {s0 : State} (w : Fin 256) (_rd : BitVec 5) (rs1 : BitVec 5) (_rs2 : BitVec 5) (rsv : BitVec 9) {s : State} (hs : Keeps s0 s) : ResKeeps s0 (execGsend w _rd rs1 _rs2 rsv s) := by
  unfold execGsend
  repeat' first
    | with_reducible assumption
    | with_reducible apply ResKeeps.next
    | with_reducible apply IssueKeeps.ok
    | with_reducible apply IssueKeeps.stall
    | with_reducible apply IssueKeeps.ended
    | with_reducible apply IssueKeeps.fault
    | with_reducible apply IssueKeeps.ite
    | intro _
    | with_reducible apply State.issue_keeps
    | with_reducible apply State.settleRing_keeps

theorem execGrecv_keeps {s0 : State} (w : Fin 256) (rd : BitVec 5) (_rs1 : BitVec 5) (_rs2 : BitVec 5) (rsv : BitVec 9) {s : State} (hs : Keeps s0 s) : ResKeeps s0 (execGrecv w rd _rs1 _rs2 rsv s) := by
  unfold execGrecv
  repeat' first
    | with_reducible assumption
    | with_reducible apply ResKeeps.next
    | with_reducible apply IssueKeeps.ok
    | with_reducible apply IssueKeeps.stall
    | with_reducible apply IssueKeeps.ended
    | with_reducible apply IssueKeeps.fault
    | with_reducible apply IssueKeeps.ite
    | intro _
    | with_reducible apply State.issue_keeps
    | with_reducible apply State.settleRing_keeps
    | with_reducible apply Keeps.ite
    | with_reducible apply Keeps.foldl
    | with_reducible apply Keeps.of
    | with_reducible refine Keeps.roots ?_ rfl rfl rfl
    | split

theorem execGfwd_keeps {s0 : State} (w : Fin 256) (rd : BitVec 5) (_rs1 : BitVec 5) (_rs2 : BitVec 5) (rsv : BitVec 9) {s : State} (hs : Keeps s0 s) : ResKeeps s0 (execGfwd w rd _rs1 _rs2 rsv s) := by
  unfold execGfwd
  repeat' first
    | with_reducible assumption
    | with_reducible apply ResKeeps.next
    | with_reducible apply IssueKeeps.ok
    | with_reducible apply IssueKeeps.stall
    | with_reducible apply IssueKeeps.ended
    | with_reducible apply IssueKeeps.fault
    | with_reducible apply IssueKeeps.ite
    | intro _
    | with_reducible apply State.issue_keeps
    | with_reducible apply State.settleRing_keeps
    | with_reducible apply Keeps.ite
    | with_reducible apply Keeps.foldl
    | with_reducible apply Keeps.of
    | with_reducible refine Keeps.roots ?_ rfl rfl rfl
    | split

theorem execKpsend_keeps {s0 : State} (w : Fin 256) (_rd : BitVec 5) (rs1 : BitVec 5) (rs2 : BitVec 5) (rsv : BitVec 9) {s : State} (hs : Keeps s0 s) : ResKeeps s0 (execKpsend w _rd rs1 rs2 rsv s) := by
  unfold execKpsend
  repeat' first
    | with_reducible assumption
    | with_reducible apply ResKeeps.next
    | with_reducible apply IssueKeeps.ok
    | with_reducible apply IssueKeeps.stall
    | with_reducible apply IssueKeeps.ended
    | with_reducible apply IssueKeeps.fault
    | with_reducible apply IssueKeeps.ite
    | intro _
    | with_reducible apply State.setTaper_keeps
    | with_reducible apply State.takeShroud_keeps
    | with_reducible apply State.access_keeps
    | with_reducible apply State.issue_keeps
    | with_reducible apply Keeps.ite
    | with_reducible apply Keeps.foldl
    | with_reducible apply Keeps.of
    | with_reducible refine Keeps.roots ?_ rfl rfl rfl
    | split

theorem execWkclr_keeps {s0 : State} (w : Fin 256) (_rd : BitVec 5) (_rs1 : BitVec 5) (_rs2 : BitVec 5) (rsv : BitVec 9) {s : State} (hs : Keeps s0 s) : ResKeeps s0 (execWkclr w _rd _rs1 _rs2 rsv s) := by
  unfold execWkclr
  repeat' first
    | with_reducible assumption
    | with_reducible apply ResKeeps.next
    | with_reducible apply IssueKeeps.ok
    | with_reducible apply IssueKeeps.stall
    | with_reducible apply IssueKeeps.ended
    | with_reducible apply IssueKeeps.fault
    | with_reducible apply IssueKeeps.ite
    | intro _
    | with_reducible apply State.issue_keeps

theorem execGmark_keeps {s0 : State} (w : Fin 256) (_rd : BitVec 5) (rs1 : BitVec 5) (_rs2 : BitVec 5) (rsv : BitVec 9) {s : State} (hs : Keeps s0 s) : ResKeeps s0 (execGmark w _rd rs1 _rs2 rsv s) := by
  unfold execGmark
  repeat' first
    | with_reducible assumption
    | with_reducible apply ResKeeps.next
    | with_reducible apply IssueKeeps.ok
    | with_reducible apply IssueKeeps.stall
    | with_reducible apply IssueKeeps.ended
    | with_reducible apply IssueKeeps.fault
    | with_reducible apply IssueKeeps.ite
    | intro _
    | with_reducible apply State.issue_keeps
    | with_reducible apply Keeps.ite
    | with_reducible apply Keeps.foldl
    | with_reducible apply Keeps.of
    | with_reducible refine Keeps.roots ?_ rfl rfl rfl
    | split

theorem execGscrub_keeps {s0 : State} (w : Fin 256) (_rd : BitVec 5) (rs1 : BitVec 5) (_rs2 : BitVec 5) (rsv : BitVec 9) {s : State} (hs : Keeps s0 s) : ResKeeps s0 (execGscrub w _rd rs1 _rs2 rsv s) := by
  unfold execGscrub
  repeat' first
    | with_reducible assumption
    | with_reducible apply ResKeeps.next
    | with_reducible apply IssueKeeps.ok
    | with_reducible apply IssueKeeps.stall
    | with_reducible apply IssueKeeps.ended
    | with_reducible apply IssueKeeps.fault
    | with_reducible apply IssueKeeps.ite
    | intro _
    | with_reducible apply State.issue_keeps
    | with_reducible apply Keeps.ite
    | with_reducible apply Keeps.foldl
    | with_reducible apply Keeps.of
    | with_reducible refine Keeps.roots ?_ rfl rfl rfl
    | split

end Sys2Proof.Machine
end

