-- ==== Sys2Proof/Laws/KeepsWickScalar.lean ====
section
/-! SUPPORT. What no command undoes (Keeps), for the functions of Machine/WickScalar. -/

namespace Sys2Proof.Machine

theorem execAdd_keeps {s0 : State} (w : Fin 256) (rd : BitVec 5) (rs1 : BitVec 5) (rs2 : BitVec 5) (rsv : BitVec 9) {s : State} (hs : Keeps s0 s) : ResKeeps s0 (execAdd w rd rs1 rs2 rsv s) := by
  unfold execAdd
  repeat' first
    | with_reducible assumption
    | with_reducible apply ResKeeps.next
    | intro _
    | with_reducible apply State.aluR_keeps

theorem execSub_keeps {s0 : State} (w : Fin 256) (rd : BitVec 5) (rs1 : BitVec 5) (rs2 : BitVec 5) (rsv : BitVec 9) {s : State} (hs : Keeps s0 s) : ResKeeps s0 (execSub w rd rs1 rs2 rsv s) := by
  unfold execSub
  repeat' first
    | with_reducible assumption
    | with_reducible apply ResKeeps.next
    | intro _
    | with_reducible apply State.aluR_keeps

theorem execAnd_keeps {s0 : State} (w : Fin 256) (rd : BitVec 5) (rs1 : BitVec 5) (rs2 : BitVec 5) (rsv : BitVec 9) {s : State} (hs : Keeps s0 s) : ResKeeps s0 (execAnd w rd rs1 rs2 rsv s) := by
  unfold execAnd
  repeat' first
    | with_reducible assumption
    | with_reducible apply ResKeeps.next
    | intro _
    | with_reducible apply State.aluR_keeps

theorem execIor_keeps {s0 : State} (w : Fin 256) (rd : BitVec 5) (rs1 : BitVec 5) (rs2 : BitVec 5) (rsv : BitVec 9) {s : State} (hs : Keeps s0 s) : ResKeeps s0 (execIor w rd rs1 rs2 rsv s) := by
  unfold execIor
  repeat' first
    | with_reducible assumption
    | with_reducible apply ResKeeps.next
    | intro _
    | with_reducible apply State.aluR_keeps

theorem execXor_keeps {s0 : State} (w : Fin 256) (rd : BitVec 5) (rs1 : BitVec 5) (rs2 : BitVec 5) (rsv : BitVec 9) {s : State} (hs : Keeps s0 s) : ResKeeps s0 (execXor w rd rs1 rs2 rsv s) := by
  unfold execXor
  repeat' first
    | with_reducible assumption
    | with_reducible apply ResKeeps.next
    | intro _
    | with_reducible apply State.aluR_keeps

theorem execAndc_keeps {s0 : State} (w : Fin 256) (rd : BitVec 5) (rs1 : BitVec 5) (rs2 : BitVec 5) (rsv : BitVec 9) {s : State} (hs : Keeps s0 s) : ResKeeps s0 (execAndc w rd rs1 rs2 rsv s) := by
  unfold execAndc
  repeat' first
    | with_reducible assumption
    | with_reducible apply ResKeeps.next
    | intro _
    | with_reducible apply State.aluR_keeps

theorem execShl_keeps {s0 : State} (w : Fin 256) (rd : BitVec 5) (rs1 : BitVec 5) (rs2 : BitVec 5) (rsv : BitVec 9) {s : State} (hs : Keeps s0 s) : ResKeeps s0 (execShl w rd rs1 rs2 rsv s) := by
  unfold execShl
  repeat' first
    | with_reducible assumption
    | with_reducible apply ResKeeps.next
    | intro _
    | with_reducible apply State.aluR_keeps

theorem execShr_keeps {s0 : State} (w : Fin 256) (rd : BitVec 5) (rs1 : BitVec 5) (rs2 : BitVec 5) (rsv : BitVec 9) {s : State} (hs : Keeps s0 s) : ResKeeps s0 (execShr w rd rs1 rs2 rsv s) := by
  unfold execShr
  repeat' first
    | with_reducible assumption
    | with_reducible apply ResKeeps.next
    | intro _
    | with_reducible apply State.aluR_keeps

theorem execShra_keeps {s0 : State} (w : Fin 256) (rd : BitVec 5) (rs1 : BitVec 5) (rs2 : BitVec 5) (rsv : BitVec 9) {s : State} (hs : Keeps s0 s) : ResKeeps s0 (execShra w rd rs1 rs2 rsv s) := by
  unfold execShra
  repeat' first
    | with_reducible assumption
    | with_reducible apply ResKeeps.next
    | intro _
    | with_reducible apply State.aluR_keeps

theorem execRot_keeps {s0 : State} (w : Fin 256) (rd : BitVec 5) (rs1 : BitVec 5) (rs2 : BitVec 5) (rsv : BitVec 9) {s : State} (hs : Keeps s0 s) : ResKeeps s0 (execRot w rd rs1 rs2 rsv s) := by
  unfold execRot
  repeat' first
    | with_reducible assumption
    | with_reducible apply ResKeeps.next
    | intro _
    | with_reducible apply State.aluR_keeps

theorem execMeq_keeps {s0 : State} (w : Fin 256) (rd : BitVec 5) (rs1 : BitVec 5) (rs2 : BitVec 5) (rsv : BitVec 9) {s : State} (hs : Keeps s0 s) : ResKeeps s0 (execMeq w rd rs1 rs2 rsv s) := by
  unfold execMeq
  repeat' first
    | with_reducible assumption
    | with_reducible apply ResKeeps.next
    | intro _
    | with_reducible apply State.aluR_keeps

theorem execMlt_keeps {s0 : State} (w : Fin 256) (rd : BitVec 5) (rs1 : BitVec 5) (rs2 : BitVec 5) (rsv : BitVec 9) {s : State} (hs : Keeps s0 s) : ResKeeps s0 (execMlt w rd rs1 rs2 rsv s) := by
  unfold execMlt
  repeat' first
    | with_reducible assumption
    | with_reducible apply ResKeeps.next
    | intro _
    | with_reducible apply State.aluR_keeps

theorem execMul_keeps {s0 : State} (w : Fin 256) (rd : BitVec 5) (rs1 : BitVec 5) (rs2 : BitVec 5) (rsv : BitVec 9) {s : State} (hs : Keeps s0 s) : ResKeeps s0 (execMul w rd rs1 rs2 rsv s) := by
  unfold execMul
  repeat' first
    | with_reducible assumption
    | with_reducible apply ResKeeps.next
    | intro _
    | with_reducible apply State.aluR_keeps

theorem execMulhi_keeps {s0 : State} (w : Fin 256) (rd : BitVec 5) (rs1 : BitVec 5) (rs2 : BitVec 5) (rsv : BitVec 9) {s : State} (hs : Keeps s0 s) : ResKeeps s0 (execMulhi w rd rs1 rs2 rsv s) := by
  unfold execMulhi
  repeat' first
    | with_reducible assumption
    | with_reducible apply ResKeeps.next
    | intro _
    | with_reducible apply State.aluR_keeps

theorem execLimb_keeps {s0 : State} (w : Fin 256) (rd : BitVec 5) (rs1 : BitVec 5) (_rs2 : BitVec 5) (rsv : BitVec 9) {s : State} (hs : Keeps s0 s) : ResKeeps s0 (execLimb w rd rs1 _rs2 rsv s) := by
  unfold execLimb
  repeat' first
    | with_reducible assumption
    | with_reducible apply ResKeeps.next
    | intro _
    | with_reducible apply State.scalar_keeps

theorem execCarry_keeps {s0 : State} (w : Fin 256) (rd : BitVec 5) (rs1 : BitVec 5) (_rs2 : BitVec 5) (rsv : BitVec 9) {s : State} (hs : Keeps s0 s) : ResKeeps s0 (execCarry w rd rs1 _rs2 rsv s) := by
  unfold execCarry
  repeat' first
    | with_reducible assumption
    | with_reducible apply ResKeeps.next
    | intro _
    | with_reducible apply State.scalar_keeps

theorem execClz_keeps {s0 : State} (w : Fin 256) (rd : BitVec 5) (rs1 : BitVec 5) (_rs2 : BitVec 5) (rsv : BitVec 9) {s : State} (hs : Keeps s0 s) : ResKeeps s0 (execClz w rd rs1 _rs2 rsv s) := by
  unfold execClz
  repeat' first
    | with_reducible assumption
    | with_reducible apply ResKeeps.next
    | intro _
    | with_reducible apply State.scalar_keeps

theorem execPopc_keeps {s0 : State} (w : Fin 256) (rd : BitVec 5) (rs1 : BitVec 5) (_rs2 : BitVec 5) (rsv : BitVec 9) {s : State} (hs : Keeps s0 s) : ResKeeps s0 (execPopc w rd rs1 _rs2 rsv s) := by
  unfold execPopc
  repeat' first
    | with_reducible assumption
    | with_reducible apply ResKeeps.next
    | intro _
    | with_reducible apply State.scalar_keeps

theorem execMux_keeps {s0 : State} (w : Fin 256) (rd : BitVec 5) (rs1 : BitVec 5) (rs2 : BitVec 5) (rsv : BitVec 9) {s : State} (hs : Keeps s0 s) : ResKeeps s0 (execMux w rd rs1 rs2 rsv s) := by
  unfold execMux
  repeat' first
    | with_reducible assumption
    | with_reducible apply ResKeeps.next
    | intro _
    | with_reducible apply State.scalar_keeps

theorem execMlo_keeps {s0 : State} (w : Fin 256) (rd : BitVec 5) (rs1 : BitVec 5) (rs2 : BitVec 5) (rsv : BitVec 9) {s : State} (hs : Keeps s0 s) : ResKeeps s0 (execMlo w rd rs1 rs2 rsv s) := by
  unfold execMlo
  repeat' first
    | with_reducible assumption
    | with_reducible apply ResKeeps.next
    | intro _
    | with_reducible apply State.aluR_keeps

theorem execAddk_keeps {s0 : State} (w : Fin 256) (rd : BitVec 5) (rs1 : BitVec 5) (imm : BitVec 20) {s : State} (hs : Keeps s0 s) : ResKeeps s0 (execAddk w rd rs1 imm s) := by
  unfold execAddk
  repeat' first
    | with_reducible assumption
    | with_reducible apply ResKeeps.next
    | intro _
    | with_reducible apply State.aluI_keeps

theorem execAndk_keeps {s0 : State} (w : Fin 256) (rd : BitVec 5) (rs1 : BitVec 5) (imm : BitVec 20) {s : State} (hs : Keeps s0 s) : ResKeeps s0 (execAndk w rd rs1 imm s) := by
  unfold execAndk
  repeat' first
    | with_reducible assumption
    | with_reducible apply ResKeeps.next
    | intro _
    | with_reducible apply State.aluI_keeps

theorem execIork_keeps {s0 : State} (w : Fin 256) (rd : BitVec 5) (rs1 : BitVec 5) (imm : BitVec 20) {s : State} (hs : Keeps s0 s) : ResKeeps s0 (execIork w rd rs1 imm s) := by
  unfold execIork
  repeat' first
    | with_reducible assumption
    | with_reducible apply ResKeeps.next
    | intro _
    | with_reducible apply State.aluI_keeps

theorem execXork_keeps {s0 : State} (w : Fin 256) (rd : BitVec 5) (rs1 : BitVec 5) (imm : BitVec 20) {s : State} (hs : Keeps s0 s) : ResKeeps s0 (execXork w rd rs1 imm s) := by
  unfold execXork
  repeat' first
    | with_reducible assumption
    | with_reducible apply ResKeeps.next
    | intro _
    | with_reducible apply State.aluI_keeps

theorem execMltk_keeps {s0 : State} (w : Fin 256) (rd : BitVec 5) (rs1 : BitVec 5) (imm : BitVec 20) {s : State} (hs : Keeps s0 s) : ResKeeps s0 (execMltk w rd rs1 imm s) := by
  unfold execMltk
  repeat' first
    | with_reducible assumption
    | with_reducible apply ResKeeps.next
    | intro _
    | with_reducible apply State.aluI_keeps

theorem execMlok_keeps {s0 : State} (w : Fin 256) (rd : BitVec 5) (rs1 : BitVec 5) (imm : BitVec 20) {s : State} (hs : Keeps s0 s) : ResKeeps s0 (execMlok w rd rs1 imm s) := by
  unfold execMlok
  repeat' first
    | with_reducible assumption
    | with_reducible apply ResKeeps.next
    | intro _
    | with_reducible apply State.aluI_keeps

theorem execShlk_keeps {s0 : State} (w : Fin 256) (rd : BitVec 5) (rs1 : BitVec 5) (rsv : BitVec 10) (amount : BitVec 7) {s : State} (hs : Keeps s0 s) : ResKeeps s0 (execShlk w rd rs1 rsv amount s) := by
  unfold execShlk
  repeat' first
    | with_reducible assumption
    | with_reducible apply ResKeeps.next
    | intro _
    | with_reducible apply State.aluShift_keeps

theorem execShrk_keeps {s0 : State} (w : Fin 256) (rd : BitVec 5) (rs1 : BitVec 5) (rsv : BitVec 10) (amount : BitVec 7) {s : State} (hs : Keeps s0 s) : ResKeeps s0 (execShrk w rd rs1 rsv amount s) := by
  unfold execShrk
  repeat' first
    | with_reducible assumption
    | with_reducible apply ResKeeps.next
    | intro _
    | with_reducible apply State.aluShift_keeps

theorem execShrak_keeps {s0 : State} (w : Fin 256) (rd : BitVec 5) (rs1 : BitVec 5) (rsv : BitVec 10) (amount : BitVec 7) {s : State} (hs : Keeps s0 s) : ResKeeps s0 (execShrak w rd rs1 rsv amount s) := by
  unfold execShrak
  repeat' first
    | with_reducible assumption
    | with_reducible apply ResKeeps.next
    | intro _
    | with_reducible apply State.aluShift_keeps

theorem execRotk_keeps {s0 : State} (w : Fin 256) (rd : BitVec 5) (rs1 : BitVec 5) (rsv : BitVec 10) (amount : BitVec 7) {s : State} (hs : Keeps s0 s) : ResKeeps s0 (execRotk w rd rs1 rsv amount s) := by
  unfold execRotk
  repeat' first
    | with_reducible assumption
    | with_reducible apply ResKeeps.next
    | intro _
    | with_reducible apply State.aluShift_keeps

theorem execLk0_keeps {s0 : State} (w : Fin 256) (rd : BitVec 5) (rsv : BitVec 1) (imm : BitVec 24) {s : State} (hs : Keeps s0 s) : ResKeeps s0 (execLk0 w rd rsv imm s) := by
  unfold execLk0
  repeat' first
    | with_reducible assumption
    | with_reducible apply ResKeeps.next
    | intro _
    | with_reducible apply State.scalar_keeps

theorem execLk1_keeps {s0 : State} (w : Fin 256) (rd : BitVec 5) (rsv : BitVec 1) (imm : BitVec 24) {s : State} (hs : Keeps s0 s) : ResKeeps s0 (execLk1 w rd rsv imm s) := by
  unfold execLk1
  repeat' first
    | with_reducible assumption
    | with_reducible apply ResKeeps.next
    | intro _
    | with_reducible apply State.scalar_keeps

theorem execLk2_keeps {s0 : State} (w : Fin 256) (rd : BitVec 5) (rsv : BitVec 1) (imm : BitVec 24) {s : State} (hs : Keeps s0 s) : ResKeeps s0 (execLk2 w rd rsv imm s) := by
  unfold execLk2
  repeat' first
    | with_reducible assumption
    | with_reducible apply ResKeeps.next
    | intro _
    | with_reducible apply State.scalar_keeps

theorem execLd_keeps {s0 : State} (w : Fin 256) (rd : BitVec 5) (rs1 : BitVec 5) (imm : BitVec 20) {s : State} (hs : Keeps s0 s) : ResKeeps s0 (execLd w rd rs1 imm s) := by
  unfold execLd
  repeat' first
    | with_reducible assumption
    | with_reducible apply ResKeeps.next
    | with_reducible apply IssueKeeps.ok
    | with_reducible apply IssueKeeps.stall
    | with_reducible apply IssueKeeps.ended
    | with_reducible apply IssueKeeps.fault
    | with_reducible apply IssueKeeps.ite
    | intro _
    | with_reducible apply State.access_keeps
    | with_reducible apply State.issue_keeps

theorem execSt_keeps {s0 : State} (w : Fin 256) (rs1 : BitVec 5) (rs2 : BitVec 5) (imm : BitVec 20) {s : State} (hs : Keeps s0 s) : ResKeeps s0 (execSt w rs1 rs2 imm s) := by
  unfold execSt
  repeat' first
    | with_reducible assumption
    | with_reducible apply ResKeeps.next
    | with_reducible apply IssueKeeps.ok
    | with_reducible apply IssueKeeps.stall
    | with_reducible apply IssueKeeps.ended
    | with_reducible apply IssueKeeps.fault
    | with_reducible apply IssueKeeps.ite
    | intro _
    | with_reducible apply State.access_keeps
    | with_reducible apply State.issue_keeps

theorem execBz_keeps {s0 : State} (w : Fin 256) (rs1 : BitVec 5) (rs2 : BitVec 5) (off : BitVec 20) {s : State} (hs : Keeps s0 s) : ResKeeps s0 (execBz w rs1 rs2 off s) := by
  unfold execBz
  repeat' first
    | with_reducible assumption
    | with_reducible apply ResKeeps.next
    | intro _
    | with_reducible apply State.branch_keeps

theorem execBnz_keeps {s0 : State} (w : Fin 256) (rs1 : BitVec 5) (rs2 : BitVec 5) (off : BitVec 20) {s : State} (hs : Keeps s0 s) : ResKeeps s0 (execBnz w rs1 rs2 off s) := by
  unfold execBnz
  repeat' first
    | with_reducible assumption
    | with_reducible apply ResKeeps.next
    | intro _
    | with_reducible apply State.branch_keeps

theorem execBneg_keeps {s0 : State} (w : Fin 256) (rs1 : BitVec 5) (rs2 : BitVec 5) (off : BitVec 20) {s : State} (hs : Keeps s0 s) : ResKeeps s0 (execBneg w rs1 rs2 off s) := by
  unfold execBneg
  repeat' first
    | with_reducible assumption
    | with_reducible apply ResKeeps.next
    | intro _
    | with_reducible apply State.branch_keeps

theorem execBnneg_keeps {s0 : State} (w : Fin 256) (rs1 : BitVec 5) (rs2 : BitVec 5) (off : BitVec 20) {s : State} (hs : Keeps s0 s) : ResKeeps s0 (execBnneg w rs1 rs2 off s) := by
  unfold execBnneg
  repeat' first
    | with_reducible assumption
    | with_reducible apply ResKeeps.next
    | intro _
    | with_reducible apply State.branch_keeps

theorem execDbnz_keeps {s0 : State} (w : Fin 256) (rs1 : BitVec 5) (rs2 : BitVec 5) (off : BitVec 20) {s : State} (hs : Keeps s0 s) : ResKeeps s0 (execDbnz w rs1 rs2 off s) := by
  unfold execDbnz
  repeat' first
    | with_reducible assumption
    | with_reducible apply ResKeeps.next
    | with_reducible apply IssueKeeps.ok
    | with_reducible apply IssueKeeps.stall
    | with_reducible apply IssueKeeps.ended
    | with_reducible apply IssueKeeps.fault
    | with_reducible apply IssueKeeps.ite
    | intro _
    | with_reducible apply State.issue_keeps
    | with_reducible apply Wick.transfer_keeps

theorem execJmpr_keeps {s0 : State} (w : Fin 256) (rd : BitVec 5) (rs1 : BitVec 5) (imm : BitVec 20) {s : State} (hs : Keeps s0 s) : ResKeeps s0 (execJmpr w rd rs1 imm s) := by
  unfold execJmpr
  repeat' first
    | with_reducible assumption
    | with_reducible apply ResKeeps.next
    | with_reducible apply IssueKeeps.ok
    | with_reducible apply IssueKeeps.stall
    | with_reducible apply IssueKeeps.ended
    | with_reducible apply IssueKeeps.fault
    | with_reducible apply IssueKeeps.ite
    | intro _
    | with_reducible apply State.issue_keeps
    | with_reducible apply Wick.transfer_keeps

theorem execJmp_keeps {s0 : State} (w : Fin 256) (rd : BitVec 5) (off : BitVec 25) {s : State} (hs : Keeps s0 s) : ResKeeps s0 (execJmp w rd off s) := by
  unfold execJmp
  repeat' first
    | with_reducible assumption
    | with_reducible apply ResKeeps.next
    | with_reducible apply IssueKeeps.ok
    | with_reducible apply IssueKeeps.stall
    | with_reducible apply IssueKeeps.ended
    | with_reducible apply IssueKeeps.fault
    | with_reducible apply IssueKeeps.ite
    | intro _
    | with_reducible apply State.issue_keeps
    | with_reducible apply Wick.transfer_keeps

theorem execCall_keeps {s0 : State} (w : Fin 256) (rd : BitVec 5) (off : BitVec 25) {s : State} (hs : Keeps s0 s) : ResKeeps s0 (execCall w rd off s) := by
  unfold execCall
  repeat' first
    | with_reducible assumption
    | with_reducible apply ResKeeps.next
    | with_reducible apply IssueKeeps.ok
    | with_reducible apply IssueKeeps.stall
    | with_reducible apply IssueKeeps.ended
    | with_reducible apply IssueKeeps.fault
    | with_reducible apply IssueKeeps.ite
    | intro _
    | with_reducible apply State.issue_keeps
    | with_reducible apply Wick.transfer_keeps

end Sys2Proof.Machine
end

