-- ==== Sys2Proof/Laws/KeepsWickSponge.lean ====
section
/-! SUPPORT. What no command undoes (Keeps), for the functions of Machine/WickSponge. -/

namespace Sys2Proof.Machine

theorem State.drawLanes_keeps {s0 : State} {s : State} (n : Nat) (hs : Keeps s0 s) : Keeps s0 (State.drawLanes s n).2 := by
  exact Keeps.mk (Keeps.free hs (Nat.le_add_right _ _))

theorem State.drawLanes_keeps_eq {s0 : State} {s : State} {n : Nat} {x_ : List (BitVec 64)} {t_ : State} (e_ : State.drawLanes s n = (x_, t_)) (hs : Keeps s0 s) : Keeps s0 t_ := by
  have h_ : Keeps s0 (State.drawLanes s n).2 := by apply State.drawLanes_keeps <;> assumption
  rw [e_] at h_
  exact h_

theorem State.squeeze_keeps {s0 : State} {s : State} (p : Sponge) (first : Nat) (n : Nat) (hs : Keeps s0 s) : Keeps s0 (State.squeeze s p first n).2 := by
  have h : Keeps s0 (if first + n ≤ p.fn.stateLanes then ([], s) else s.drawLanes n).2 := by
    split
    exacts [hs, State.drawLanes_keeps _ hs]
  exact h

theorem State.squeeze_keeps_eq {s0 : State} {s : State} {p : Sponge} {first : Nat} {n : Nat} {x_ : List (BitVec 64 × BitVec 64)} {t_ : State} (e_ : State.squeeze s p first n = (x_, t_)) (hs : Keeps s0 s) : Keeps s0 t_ := by
  have h_ : Keeps s0 (State.squeeze s p first n).2 := by apply State.squeeze_keeps <;> assumption
  rw [e_] at h_
  exact h_

theorem execSpinit_keeps {s0 : State} (w : Fin 256) (_rd : BitVec 5) (rs1 : BitVec 5) (_rs2 : BitVec 5) (rsv : BitVec 9) {s : State} (hs : Keeps s0 s) : ResKeeps s0 (execSpinit w _rd rs1 _rs2 rsv s) := by
  unfold execSpinit
  repeat' first
    | with_reducible assumption
    | with_reducible apply ResKeeps.next
    | with_reducible apply IssueKeeps.ok
    | with_reducible apply IssueKeeps.stall
    | with_reducible apply IssueKeeps.ended
    | with_reducible apply IssueKeeps.fault
    | with_reducible apply IssueKeeps.ite
    | intro _
    | with_reducible apply State.issue_keeps
    | with_reducible apply Keeps.ite
    | with_reducible apply Keeps.foldl
    | with_reducible apply Keeps.of
    | with_reducible refine Keeps.roots ?_ rfl rfl rfl
    | split
    | simp only [keeps_mk]

theorem execSpabs_keeps {s0 : State} (w : Fin 256) (_rd : BitVec 5) (rs1 : BitVec 5) (rs2 : BitVec 5) (rsv : BitVec 9) {s : State} (hs : Keeps s0 s) : ResKeeps s0 (execSpabs w _rd rs1 rs2 rsv s) := by
  unfold execSpabs
  repeat' first
    | with_reducible assumption
    | with_reducible apply ResKeeps.next
    | with_reducible apply IssueKeeps.ok
    | with_reducible apply IssueKeeps.stall
    | with_reducible apply IssueKeeps.ended
    | with_reducible apply IssueKeeps.fault
    | with_reducible apply IssueKeeps.ite
    | intro _
    | with_reducible apply State.access_keeps
    | with_reducible apply State.issue_keeps

theorem execSpabsM_keeps {s0 : State} (w : Fin 256) (_rd : BitVec 5) (rs1 : BitVec 5) (rs2 : BitVec 5) (rsv : BitVec 9) {s : State} (hs : Keeps s0 s) : ResKeeps s0 (execSpabsM w _rd rs1 rs2 rsv s) := by
  unfold execSpabsM
  repeat' first
    | with_reducible assumption
    | with_reducible apply ResKeeps.next
    | with_reducible apply IssueKeeps.ok
    | with_reducible apply IssueKeeps.stall
    | with_reducible apply IssueKeeps.ended
    | with_reducible apply IssueKeeps.fault
    | with_reducible apply IssueKeeps.ite
    | intro _
    | with_reducible apply State.access_keeps
    | with_reducible apply State.issue_keeps

theorem execSpabr_keeps {s0 : State} (w : Fin 256) (_rd : BitVec 5) (rs1 : BitVec 5) (rs2 : BitVec 5) (rsv : BitVec 9) {s : State} (hs : Keeps s0 s) : ResKeeps s0 (execSpabr w _rd rs1 rs2 rsv s) := by
  unfold execSpabr
  repeat' first
    | with_reducible assumption
    | with_reducible apply ResKeeps.next
    | with_reducible apply IssueKeeps.ok
    | with_reducible apply IssueKeeps.stall
    | with_reducible apply IssueKeeps.ended
    | with_reducible apply IssueKeeps.fault
    | with_reducible apply IssueKeeps.ite
    | intro _
    | with_reducible apply State.issue_keeps

theorem execSpperm_keeps {s0 : State} (w : Fin 256) (_rd : BitVec 5) (_rs1 : BitVec 5) (_rs2 : BitVec 5) (rsv : BitVec 9) {s : State} (hs : Keeps s0 s) : ResKeeps s0 (execSpperm w _rd _rs1 _rs2 rsv s) := by
  unfold execSpperm
  repeat' first
    | with_reducible assumption
    | with_reducible apply ResKeeps.next
    | with_reducible apply IssueKeeps.ok
    | with_reducible apply IssueKeeps.stall
    | with_reducible apply IssueKeeps.ended
    | with_reducible apply IssueKeeps.fault
    | with_reducible apply IssueKeeps.ite
    | intro _
    | refine State.drawLanes_keeps_eq (by assumption) ?_
    | with_reducible apply State.takeShroud_keeps
    | with_reducible apply State.issue_keeps
    | with_reducible apply State.drawLanes_keeps

theorem execSpsqz_keeps {s0 : State} (w : Fin 256) (_rd : BitVec 5) (rs1 : BitVec 5) (rs2 : BitVec 5) (rsv : BitVec 9) {s : State} (hs : Keeps s0 s) : ResKeeps s0 (execSpsqz w _rd rs1 rs2 rsv s) := by
  unfold execSpsqz
  repeat' first
    | with_reducible assumption
    | with_reducible apply ResKeeps.next
    | with_reducible apply IssueKeeps.ok
    | with_reducible apply IssueKeeps.stall
    | with_reducible apply IssueKeeps.ended
    | with_reducible apply IssueKeeps.fault
    | with_reducible apply IssueKeeps.ite
    | intro _
    | refine State.squeeze_keeps_eq (by assumption) ?_
    | with_reducible apply State.access_keeps
    | with_reducible apply State.issue_keeps
    | with_reducible apply State.squeeze_keeps

theorem execSpsqzM_keeps {s0 : State} (w : Fin 256) (_rd : BitVec 5) (rs1 : BitVec 5) (rs2 : BitVec 5) (rsv : BitVec 9) {s : State} (hs : Keeps s0 s) : ResKeeps s0 (execSpsqzM w _rd rs1 rs2 rsv s) := by
  unfold execSpsqzM
  repeat' first
    | with_reducible assumption
    | with_reducible apply ResKeeps.next
    | with_reducible apply IssueKeeps.ok
    | with_reducible apply IssueKeeps.stall
    | with_reducible apply IssueKeeps.ended
    | with_reducible apply IssueKeeps.fault
    | with_reducible apply IssueKeeps.ite
    | intro _
    | refine State.squeeze_keeps_eq (by assumption) ?_
    | with_reducible apply State.access_keeps
    | with_reducible apply State.issue_keeps
    | with_reducible apply State.squeeze_keeps

theorem execSpsqr_keeps {s0 : State} (w : Fin 256) (rd : BitVec 5) (_rs1 : BitVec 5) (rs2 : BitVec 5) (rsv : BitVec 9) {s : State} (hs : Keeps s0 s) : ResKeeps s0 (execSpsqr w rd _rs1 rs2 rsv s) := by
  unfold execSpsqr
  repeat' first
    | with_reducible assumption
    | with_reducible apply ResKeeps.next
    | with_reducible apply IssueKeeps.ok
    | with_reducible apply IssueKeeps.stall
    | with_reducible apply IssueKeeps.ended
    | with_reducible apply IssueKeeps.fault
    | with_reducible apply IssueKeeps.ite
    | intro _
    | refine State.squeeze_keeps_eq (by assumption) ?_
    | with_reducible apply State.issue_keeps
    | with_reducible apply State.squeeze_keeps

theorem execSpkey_keeps {s0 : State} (w : Fin 256) (_rd : BitVec 5) (_rs1 : BitVec 5) (rs2 : BitVec 5) (rsv : BitVec 9) {s : State} (hs : Keeps s0 s) : ResKeeps s0 (execSpkey w _rd _rs1 rs2 rsv s) := by
  unfold execSpkey
  repeat' first
    | with_reducible assumption
    | with_reducible apply ResKeeps.next
    | with_reducible apply IssueKeeps.ok
    | with_reducible apply IssueKeeps.stall
    | with_reducible apply IssueKeeps.ended
    | with_reducible apply IssueKeeps.fault
    | with_reducible apply IssueKeeps.ite
    | intro _
    | with_reducible apply State.takeShroud_keeps
    | with_reducible apply State.issue_keeps

end Sys2Proof.Machine
end

