-- ==== Sys2Proof/Laws/KeepsOwnerRun.lean ====
section
/-! SUPPORT. What no command undoes (Keeps), for the functions of Machine/OwnerRun. -/

namespace Sys2Proof.Machine

theorem wickExec_keeps {s0 : State} (i : Instr) {s : State} (hs : Keeps s0 s) : ResKeeps s0 (wickExec i s) := by
  cases i with
  | add a b c d e => exact execAdd_keeps a b c d e hs
  | sub a b c d e => exact execSub_keeps a b c d e hs
  | and a b c d e => exact execAnd_keeps a b c d e hs
  | ior a b c d e => exact execIor_keeps a b c d e hs
  | xor a b c d e => exact execXor_keeps a b c d e hs
  | andc a b c d e => exact execAndc_keeps a b c d e hs
  | shl a b c d e => exact execShl_keeps a b c d e hs
  | shr a b c d e => exact execShr_keeps a b c d e hs
  | shra a b c d e => exact execShra_keeps a b c d e hs
  | rot a b c d e => exact execRot_keeps a b c d e hs
  | meq a b c d e => exact execMeq_keeps a b c d e hs
  | mlt a b c d e => exact execMlt_keeps a b c d e hs
  | mul a b c d e => exact execMul_keeps a b c d e hs
  | mulhi a b c d e => exact execMulhi_keeps a b c d e hs
  | limb a b c d e => exact execLimb_keeps a b c d e hs
  | carry a b c d e => exact execCarry_keeps a b c d e hs
  | clz a b c d e => exact execClz_keeps a b c d e hs
  | popc a b c d e => exact execPopc_keeps a b c d e hs
  | mux a b c d e => exact execMux_keeps a b c d e hs
  | mlo a b c d e => exact execMlo_keeps a b c d e hs
  | addk a b c d => exact execAddk_keeps a b c d hs
  | andk a b c d => exact execAndk_keeps a b c d hs
  | iork a b c d => exact execIork_keeps a b c d hs
  | xork a b c d => exact execXork_keeps a b c d hs
  | mltk a b c d => exact execMltk_keeps a b c d hs
  | mlok a b c d => exact execMlok_keeps a b c d hs
  | shlk a b c d e => exact execShlk_keeps a b c d e hs
  | shrk a b c d e => exact execShrk_keeps a b c d e hs
  | shrak a b c d e => exact execShrak_keeps a b c d e hs
  | rotk a b c d e => exact execRotk_keeps a b c d e hs
  | lk0 a b c d => exact execLk0_keeps a b c d hs
  | lk1 a b c d => exact execLk1_keeps a b c d hs
  | lk2 a b c d => exact execLk2_keeps a b c d hs
  | ld a b c d => exact execLd_keeps a b c d hs
  | st a b c d => exact execSt_keeps a b c d hs
  | bz a b c d => exact execBz_keeps a b c d hs
  | bnz a b c d => exact execBnz_keeps a b c d hs
  | bneg a b c d => exact execBneg_keeps a b c d hs
  | bnneg a b c d => exact execBnneg_keeps a b c d hs
  | dbnz a b c d => exact execDbnz_keeps a b c d hs
  | jmpr a b c d => exact execJmpr_keeps a b c d hs
  | jmp a b c => exact execJmp_keeps a b c hs
  | call a b c => exact execCall_keeps a b c hs
  | dmar a b c d e f => exact execDmar_keeps a b c d e f hs
  | dmaw a b c d e f => exact execDmaw_keeps a b c d e f hs
  | dwait a b c d e f => exact execDwait_keeps a b c d e f hs
  | spinit a b c d e => exact execSpinit_keeps a b c d e hs
  | spabs a b c d e => exact execSpabs_keeps a b c d e hs
  | spabsM a b c d e => exact execSpabsM_keeps a b c d e hs
  | spabr a b c d e => exact execSpabr_keeps a b c d e hs
  | spperm a b c d e => exact execSpperm_keeps a b c d e hs
  | spsqz a b c d e => exact execSpsqz_keeps a b c d e hs
  | spsqzM a b c d e => exact execSpsqzM_keeps a b c d e hs
  | spsqr a b c d e => exact execSpsqr_keeps a b c d e hs
  | spkey a b c d e => exact execSpkey_keeps a b c d e hs
  | gsend a b c d e => exact execGsend_keeps a b c d e hs
  | grecv a b c d e => exact execGrecv_keeps a b c d e hs
  | gfwd a b c d e => exact execGfwd_keeps a b c d e hs
  | kpsend a b c d e => exact execKpsend_keeps a b c d e hs
  | wkclr a b c d e => exact execWkclr_keeps a b c d e hs
  | gmark a b c d e => exact execGmark_keeps a b c d e hs
  | gscrub a b c d e => exact execGscrub_keeps a b c d e hs
  | nop a b c d e => exact execNop_keeps a b c d e hs
  | done a b c d e => exact execDone_keeps a b c d e hs
  | trap a b c d e => exact execTrap_keeps a b c d e hs
  | fence a b c d e => exact execFence_keeps a b c d e hs
  | cr a b c d e => exact execCr_keeps a b c d e hs
  | cw a b c d e => exact execCw_keeps a b c d e hs
  | svAdd a b c d e f g => exact execSvAdd_keeps a b c d e f g hs
  | svSub a b c d e f g => exact execSvSub_keeps a b c d e f g hs
  | svAnd a b c d e f g => exact execSvAnd_keeps a b c d e f g hs
  | svOr a b c d e f g => exact execSvOr_keeps a b c d e f g hs
  | svXor a b c d e f g => exact execSvXor_keeps a b c d e f g hs
  | svAndn a b c d e f g => exact execSvAndn_keeps a b c d e f g hs
  | svNot a b c d e f g => exact execSvNot_keeps a b c d e f g hs
  | svSll a b c d e f g => exact execSvSll_keeps a b c d e f g hs
  | svSrl a b c d e f g => exact execSvSrl_keeps a b c d e f g hs
  | svSra a b c d e f g => exact execSvSra_keeps a b c d e f g hs
  | svRote a b c d e f g => exact execSvRote_keeps a b c d e f g hs
  | svMinu a b c d e f g => exact execSvMinu_keeps a b c d e f g hs
  | svMaxu a b c d e f g => exact execSvMaxu_keeps a b c d e f g hs
  | svCmpeq a b c d e f g => exact execSvCmpeq_keeps a b c d e f g hs
  | svCmpltu a b c d e f g => exact execSvCmpltu_keeps a b c d e f g hs
  | svMul a b c d e f g => exact execSvMul_keeps a b c d e f g hs
  | svMulhu a b c d e f g => exact execSvMulhu_keeps a b c d e f g hs
  | madd a b c d e f g => exact execMadd_keeps a b c d e f g hs
  | msub a b c d e f g => exact execMsub_keeps a b c d e f g hs
  | mmul a b c d e f g => exact execMmul_keeps a b c d e f g hs
  | mred a b c d e f g => exact execMred_keeps a b c d e f g hs
  | mneg a b c d e f g => exact execMneg_keeps a b c d e f g hs
  | wmule a b c d e f g => exact execWmule_keeps a b c d e f g hs
  | wmulo a b c d e f g => exact execWmulo_keeps a b c d e f g hs
  | dot a b c d e f g => exact execDot_keeps a b c d e f g hs
  | vsplat a b c d e f g => exact execVsplat_keeps a b c d e f g hs
  | vins a b c d e f g => exact execVins_keeps a b c d e f g hs
  | vext a b c d e f g => exact execVext_keeps a b c d e f g hs
  | vswaph a b c d e f g => exact execVswaph_keeps a b c d e f g hs
  | vmov a b c d e f g => exact execVmov_keeps a b c d e f g hs
  | vzero a b c d e f g => exact execVzero_keeps a b c d e f g hs
  | vld a b c d e f g h => exact execVld_keeps a b c d e f g h hs
  | vst a b c d e f g h => exact execVst_keeps a b c d e f g h hs
  | mask a b c d e f g => exact execMask_keeps a b c d e f g hs
  | refresh a b c d e f g => exact execRefresh_keeps a b c d e f g hs
  | unm a b c d e f g => exact execUnm_keeps a b c d e f g hs
  | unmg a b c d e f g => exact execUnmg_keeps a b c d e f g hs
  | vkey a b c d e f g => exact execVkey_keeps a b c d e f g hs
  | a2b a b c d e f g => exact execA2b_keeps a b c d e f g hs
  | b2a a b c d e f g => exact execB2a_keeps a b c d e f g hs
  | a2bq a b c d e f g => exact execA2bq_keeps a b c d e f g hs
  | b2aq a b c d e f g => exact execB2aq_keeps a b c d e f g hs
  | fvAdd a b c d e f => exact execFvAdd_keeps a b c d e f hs
  | fvSub a b c d e f => exact execFvSub_keeps a b c d e f hs
  | fvAnd a b c d e f => exact execFvAnd_keeps a b c d e f hs
  | fvOr a b c d e f => exact execFvOr_keeps a b c d e f hs
  | fvXor a b c d e f => exact execFvXor_keeps a b c d e f hs
  | fvAndn a b c d e f => exact execFvAndn_keeps a b c d e f hs
  | fvMullo a b c d e f => exact execFvMullo_keeps a b c d e f hs
  | fvMulhu a b c d e f => exact execFvMulhu_keeps a b c d e f hs
  | fvSll a b c d e f => exact execFvSll_keeps a b c d e f hs
  | fvSrl a b c d e f => exact execFvSrl_keeps a b c d e f hs
  | fvSra a b c d e f => exact execFvSra_keeps a b c d e f hs
  | fvMinu a b c d e f => exact execFvMinu_keeps a b c d e f hs
  | fvMaxu a b c d e f => exact execFvMaxu_keeps a b c d e f hs
  | fvCmpeq a b c d e f => exact execFvCmpeq_keeps a b c d e f hs
  | fvCmpgtu a b c d e f => exact execFvCmpgtu_keeps a b c d e f hs
  | fvAddsu a b c d e f => exact execFvAddsu_keeps a b c d e f hs
  | fvTbl a b c d e f => exact execFvTbl_keeps a b c d e f hs
  | fvSlli a b c d e f => exact execFvSlli_keeps a b c d e f hs
  | fvSrli a b c d e f => exact execFvSrli_keeps a b c d e f hs
  | fvSrai a b c d e f => exact execFvSrai_keeps a b c d e f hs
  | fvRoli a b c d e f => exact execFvRoli_keeps a b c d e f hs
  | fld a b c d e => exact execFld_keeps a b c d e hs
  | fst a b c d e => exact execFst_keeps a b c d e hs
  | fmvgf a b c d e f => exact execFmvgf_keeps a b c d e f hs
  | fmvfg a b c d e f => exact execFmvfg_keeps a b c d e f hs
  | fsplat a b c d e f => exact execFsplat_keeps a b c d e f hs
  | _ => exact ResKeeps.next hs

theorem stateAfter_keeps {s0 : State} {r : Res} {s : State} (hr : ResKeeps s0 r) (hs : Keeps s0 s) : Keeps s0 (stateAfter r s) := by
  unfold stateAfter
  split
  exacts [hr _ rfl, hs]

theorem State.serveDma_keeps {s0 : State} {s : State} (w : Fin 256) (hs : Keeps s0 s) : Keeps s0 (State.serveDma s w) := by
  exact Keeps.foldl (Keeps.foldl hs fun _ _ h => stateAfter_keeps (execDmawLineCheck_keeps _ h) h) fun _ _ h => stateAfter_keeps (execDmaComplete_keeps _ _ h) h

theorem State.serveStall_keeps {s0 : State} {s : State} (w : Fin 256) (hs : Keeps s0 s) : Keeps s0 (State.serveStall s w) := by
  unfold State.serveStall
  repeat' first
    | with_reducible assumption
    | with_reducible apply State.fence_keeps
    | with_reducible apply execShroudRekey_keeps
    | with_reducible apply execFvWakeComplete_keeps
    | with_reducible apply stateAfter_keeps
    | with_reducible apply State.serveDma_keeps
    | intro _
    | with_reducible apply Keeps.ite
    | with_reducible apply Keeps.foldl
    | with_reducible apply Keeps.of
    | with_reducible refine Keeps.roots ?_ rfl rfl rfl
    | split

theorem runProgram_keeps {s0 : State} (w : Fin 256) (y0 : Nat) {y1 : State} (hy1 : Keeps s0 y1) : Keeps s0 (runProgram w y0 y1) := by
  induction y0 generalizing y1 with
  | zero =>
    unfold runProgram
    repeat' first
      | with_reducible assumption
  | succ _ ih =>
    unfold runProgram
    repeat' first
      | with_reducible assumption
      | with_reducible apply ih
      | with_reducible apply State.wickFault_keeps
      | with_reducible apply wickExec_keeps
      | with_reducible apply stateAfter_keeps
      | with_reducible apply State.serveStall_keeps
      | intro _
      | with_reducible apply Keeps.ite
      | with_reducible apply Keeps.foldl
      | with_reducible apply Keeps.of
      | with_reducible refine Keeps.roots ?_ rfl rfl rfl
      | split

theorem State.ownerRun_keeps {s0 : State} {s : State} (id : Nat) (hs : Keeps s0 s) : Keeps s0 (State.ownerRun s id) := by
  unfold State.ownerRun
  repeat' first
    | with_reducible assumption
    | with_reducible apply State.during_keeps
    | with_reducible apply runProgram_keeps
    | intro _

theorem execOwnProgRun_keeps {s0 : State} (job : Nat) {s : State} (hs : Keeps s0 s) : ResKeeps s0 (execOwnProgRun job s) := by
  unfold execOwnProgRun
  repeat' first
    | with_reducible assumption
    | with_reducible apply ResKeeps.next
    | with_reducible apply State.ownerRun_keeps

end Sys2Proof.Machine
end

