-- ==== Sys2Proof/Laws/KeepsPower.lean ====
section
/-! SUPPORT. What no command undoes (Keeps), for the functions of Machine/Power. -/

namespace Sys2Proof.Machine

theorem execRequestLow_keeps {s0 : State} (path : Path) {s : State} (hs : Keeps s0 s) : ResKeeps s0 (execRequestLow path s) := by
  unfold execRequestLow
  repeat' first
    | with_reducible assumption
    | with_reducible apply ResKeeps.next
    | intro _
    | with_reducible apply State.writeEntry_keeps

theorem execRequestDark_keeps {s0 : State} (path : Path) {s : State} (hs : Keeps s0 s) : ResKeeps s0 (execRequestDark path s) := by
  unfold execRequestDark
  repeat' first
    | with_reducible assumption
    | with_reducible apply ResKeeps.next
    | intro _
    | with_reducible apply State.writeEntry_keeps

theorem execRequestLit_keeps {s0 : State} (path : Path) {s : State} (hs : Keeps s0 s) : ResKeeps s0 (execRequestLit path s) := by
  unfold execRequestLit
  repeat' first
    | with_reducible assumption
    | with_reducible apply ResKeeps.next
    | intro _
    | with_reducible apply State.writeEntry_keeps

theorem execLowIdleExpiry_keeps {s0 : State} {s : State} (hs : Keeps s0 s) : ResKeeps s0 (execLowIdleExpiry s) := by
  unfold execLowIdleExpiry
  repeat' first
    | with_reducible assumption
    | with_reducible apply ResKeeps.next
    | intro _
    | with_reducible apply State.passTicks_keeps
    | with_reducible apply State.startEntry_keeps
    | with_reducible apply Keeps.ite

theorem execDarkAfterLowExpiry_keeps {s0 : State} {s : State} (hs : Keeps s0 s) : ResKeeps s0 (execDarkAfterLowExpiry s) := by
  unfold execDarkAfterLowExpiry
  repeat' first
    | with_reducible assumption
    | with_reducible apply ResKeeps.next
    | intro _
    | with_reducible apply State.passTicks_keeps
    | with_reducible apply State.startEntry_keeps
    | with_reducible apply Keeps.ite

theorem execWakePin_keeps {s0 : State} (pin : Fin 8) (high : Bool) {s : State} (hs : Keeps s0 s) : ResKeeps s0 (execWakePin pin high s) := by
  unfold execWakePin
  repeat' first
    | with_reducible assumption
    | with_reducible apply ResKeeps.next
    | intro _
    | with_reducible apply State.wake_keeps
    | with_reducible apply Keeps.ite
    | with_reducible apply Keeps.foldl
    | with_reducible apply Keeps.of
    | with_reducible refine Keeps.roots ?_ rfl rfl rfl
    | split
    | simp only [keeps_mk]

theorem State.wakeHeld_keeps {s0 : State} {s : State} (hs : Keeps s0 s) : Keeps s0 (State.wakeHeld s) := by
  unfold State.wakeHeld
  repeat' first
    | with_reducible assumption
    | intro _
    | with_reducible apply State.wake_keeps
    | with_reducible apply Keeps.ite
    | with_reducible apply Keeps.foldl
    | with_reducible apply Keeps.of
    | with_reducible refine Keeps.roots ?_ rfl rfl rfl
    | split
    | simp only [keeps_mk]

theorem execHostWake_keeps {s0 : State} (slot : Fin 2048) {s : State} (hs : Keeps s0 s) : ResKeeps s0 (execHostWake slot s) := by
  unfold execHostWake
  repeat' first
    | with_reducible assumption
    | with_reducible apply ResKeeps.next
    | intro _
    | with_reducible apply State.wake_keeps
    | with_reducible apply Keeps.ite

theorem execWakeAtTime_keeps {s0 : State} {s : State} (hs : Keeps s0 s) : ResKeeps s0 (execWakeAtTime s) := by
  unfold execWakeAtTime
  repeat' first
    | with_reducible assumption
    | with_reducible apply ResKeeps.next
    | intro _
    | with_reducible apply State.passTicks_keeps
    | with_reducible apply State.wake_keeps
    | with_reducible apply Keeps.ite

theorem execLevelWrite_keeps {s0 : State} (path : Path) (sconce : Fin 16) (level : BitVec 8) {s : State} (hs : Keeps s0 s) : ResKeeps s0 (execLevelWrite path sconce level s) := by
  unfold execLevelWrite
  repeat' first
    | with_reducible assumption
    | with_reducible apply ResKeeps.next
    | intro _
    | with_reducible apply State.writeEntry_keeps

theorem execLevelChangeComplete_keeps {s0 : State} (sconce : Fin 16) {s : State} (hs : Keeps s0 s) : ResKeeps s0 (execLevelChangeComplete sconce s) := by
  unfold execLevelChangeComplete
  repeat' first
    | with_reducible assumption
    | with_reducible apply ResKeeps.next
    | intro _
    | with_reducible apply State.endLevelChange_keeps

theorem execSconceDisable_keeps {s0 : State} (path : Path) (sconce : Fin 16) {s : State} (hs : Keeps s0 s) : ResKeeps s0 (execSconceDisable path sconce s) := by
  unfold execSconceDisable
  repeat' first
    | with_reducible assumption
    | with_reducible apply ResKeeps.next
    | intro _
    | with_reducible apply State.writeEntry_keeps

theorem execSconcePowerDown_keeps {s0 : State} (sconce : Fin 16) {s : State} (hs : Keeps s0 s) : ResKeeps s0 (execSconcePowerDown sconce s) := by
  unfold execSconcePowerDown
  repeat' first
    | with_reducible assumption
    | with_reducible apply ResKeeps.next
    | intro _
    | with_reducible apply State.powerDownSconce_keeps

theorem execSconceEnable_keeps {s0 : State} (path : Path) (sconce : Fin 16) {s : State} (hs : Keeps s0 s) : ResKeeps s0 (execSconceEnable path sconce s) := by
  unfold execSconceEnable
  repeat' first
    | with_reducible assumption
    | with_reducible apply ResKeeps.next
    | intro _
    | with_reducible apply State.writeEntry_keeps

theorem execSconceReady_keeps {s0 : State} (sconce : Fin 16) {s : State} (hs : Keeps s0 s) : ResKeeps s0 (execSconceReady sconce s) := by
  unfold execSconceReady
  repeat' first
    | with_reducible assumption
    | with_reducible apply ResKeeps.next
    | intro _
    | with_reducible apply State.readySconce_keeps

theorem State.mainOff_keeps {s0 : State} {s : State} (hs : Keeps s0 s) : Keeps s0 (State.mainOff s) := by
  unfold State.mainOff
  repeat' first
    | with_reducible assumption
    | intro _
    | with_reducible apply State.hubOff_keeps
    | with_reducible apply State.endSnuff_keeps
    | with_reducible apply Keeps.ite
    | with_reducible apply Keeps.foldl
    | with_reducible apply Keeps.of
    | with_reducible refine Keeps.roots ?_ rfl rfl rfl
    | split
    | simp only [keeps_mk]

theorem execVstbyLoss_keeps {s0 : State} {s : State} (hs : Keeps s0 s) : ResKeeps s0 (execVstbyLoss s) := by
  unfold execVstbyLoss
  repeat' first
    | with_reducible assumption
    | with_reducible apply ResKeeps.next
    | intro _
    | with_reducible apply State.handover_keeps
    | with_reducible apply State.mainOff_keeps
    | with_reducible apply Keeps.ite
    | with_reducible apply Keeps.foldl
    | with_reducible apply Keeps.of
    | with_reducible refine Keeps.roots ?_ rfl rfl rfl
    | split
    | simp only [keeps_mk]

theorem execVstbyReturn_keeps {s0 : State} {s : State} (hs : Keeps s0 s) : ResKeeps s0 (execVstbyReturn s) := by
  unfold execVstbyReturn
  repeat' first
    | with_reducible assumption
    | with_reducible apply ResKeeps.next
    | intro _
    | with_reducible apply State.handover_keeps
    | with_reducible apply Keeps.ite
    | with_reducible apply Keeps.foldl
    | with_reducible apply Keeps.of
    | with_reducible refine Keeps.roots ?_ rfl rfl rfl
    | split
    | simp only [keeps_mk]

theorem execPilotPowerUp_keeps {s0 : State} {s : State} (hs : Keeps s0 s) : ResKeeps s0 (execPilotPowerUp s) := by
  unfold execPilotPowerUp
  repeat' first
    | with_reducible assumption
    | with_reducible apply ResKeeps.next
    | intro _
    | with_reducible apply State.setEntry_keeps
    | with_reducible apply State.bump_keeps
    | with_reducible apply State.handover_keeps
    | with_reducible apply State.recordWake_keeps
    | with_reducible apply Keeps.ite
    | with_reducible apply Keeps.foldl
    | with_reducible apply Keeps.of
    | with_reducible refine Keeps.roots ?_ rfl rfl rfl
    | split
    | simp only [keeps_mk]

theorem execMainEnAssert_keeps {s0 : State} {s : State} (hs : Keeps s0 s) : ResKeeps s0 (execMainEnAssert s) := by
  unfold execMainEnAssert
  repeat' first
    | with_reducible assumption
    | with_reducible apply ResKeeps.next
    | intro _
    | with_reducible apply Keeps.ite
    | with_reducible apply Keeps.foldl
    | with_reducible apply Keeps.of
    | with_reducible refine Keeps.roots ?_ rfl rfl rfl
    | split
    | simp only [keeps_mk]

theorem execRailsInRange_keeps {s0 : State} {s : State} (hs : Keeps s0 s) : ResKeeps s0 (execRailsInRange s) := by
  unfold execRailsInRange
  repeat' first
    | with_reducible assumption
    | with_reducible apply ResKeeps.next
    | intro _
    | with_reducible apply State.powerUps_keeps
    | with_reducible apply Keeps.ite
    | with_reducible apply Keeps.foldl
    | with_reducible apply Keeps.of
    | with_reducible refine Keeps.roots ?_ rfl rfl rfl
    | split
    | simp only [keeps_mk]

theorem execRailStartTimeout_keeps {s0 : State} {s : State} (hs : Keeps s0 s) : ResKeeps s0 (execRailStartTimeout s) := by
  unfold execRailStartTimeout
  repeat' first
    | with_reducible assumption
    | with_reducible apply ResKeeps.next
    | intro _
    | with_reducible apply State.bump_keeps
    | with_reducible apply Keeps.ite
    | with_reducible apply Keeps.foldl
    | with_reducible apply Keeps.of
    | with_reducible refine Keeps.roots ?_ rfl rfl rfl
    | split
    | simp only [keeps_mk]

theorem execRailDrop_keeps {s0 : State} (rail : Fin 8) {s : State} (hs : Keeps s0 s) : ResKeeps s0 (execRailDrop rail s) := by
  unfold execRailDrop
  repeat' first
    | with_reducible assumption
    | with_reducible apply ResKeeps.next
    | intro _
    | with_reducible apply State.bump_keeps
    | with_reducible apply State.deviceReset_keeps
    | with_reducible apply State.alarm_keeps
    | with_reducible apply Keeps.ite
    | with_reducible apply Keeps.foldl
    | with_reducible apply Keeps.of
    | with_reducible refine Keeps.roots ?_ rfl rfl rfl
    | split
    | simp only [keeps_mk]

theorem execResetN_keeps {s0 : State} {s : State} (hs : Keeps s0 s) : ResKeeps s0 (execResetN s) := by
  unfold execResetN
  repeat' first
    | with_reducible assumption
    | with_reducible apply ResKeeps.next
    | intro _
    | with_reducible apply State.deviceReset_keeps
    | with_reducible apply Keeps.ite

theorem execHaltRelease_keeps {s0 : State} (byRails : Bool) {s : State} (hs : Keeps s0 s) : ResKeeps s0 (execHaltRelease byRails s) := by
  unfold execHaltRelease
  repeat' first
    | with_reducible assumption
    | with_reducible apply ResKeeps.next
    | intro _
    | with_reducible apply State.setEntry_keeps
    | with_reducible apply State.bump_keeps
    | with_reducible apply State.recordWake_keeps
    | with_reducible apply Keeps.ite
    | with_reducible apply Keeps.foldl
    | with_reducible apply Keeps.of
    | with_reducible refine Keeps.roots ?_ rfl rfl rfl
    | split
    | simp only [keeps_mk]

theorem execVbatLoss_keeps {s0 : State} {s : State} (hs : Keeps s0 s) : ResKeeps s0 (execVbatLoss s) := by
  unfold execVbatLoss
  repeat' first
    | with_reducible assumption
    | with_reducible apply ResKeeps.next
    | intro _
    | with_reducible apply Keeps.ite
    | with_reducible apply Keeps.foldl
    | with_reducible apply Keeps.of
    | with_reducible refine Keeps.roots ?_ rfl rfl rfl
    | split
    | simp only [keeps_mk]

theorem execSysclk25Loss_keeps {s0 : State} {s : State} (hs : Keeps s0 s) : ResKeeps s0 (execSysclk25Loss s) := by
  unfold execSysclk25Loss
  repeat' first
    | with_reducible assumption
    | with_reducible apply ResKeeps.next
    | intro _
    | with_reducible apply State.alarm_keeps
    | with_reducible apply Keeps.ite
    | with_reducible apply Keeps.foldl
    | with_reducible apply Keeps.of
    | with_reducible refine Keeps.roots ?_ rfl rfl rfl
    | split
    | simp only [keeps_mk]

theorem execSysclk25Return_keeps {s0 : State} {s : State} (hs : Keeps s0 s) : ResKeeps s0 (execSysclk25Return s) := by
  unfold execSysclk25Return
  repeat' first
    | with_reducible assumption
    | with_reducible apply ResKeeps.next
    | intro _
    | with_reducible apply Keeps.ite
    | with_reducible apply Keeps.foldl
    | with_reducible apply Keeps.of
    | with_reducible refine Keeps.roots ?_ rfl rfl rfl
    | split
    | simp only [keeps_mk]

theorem execSlowClockTick_keeps {s0 : State} {s : State} (hs : Keeps s0 s) : ResKeeps s0 (execSlowClockTick s) := by
  unfold execSlowClockTick
  repeat' first
    | with_reducible assumption
    | with_reducible apply ResKeeps.next
    | intro _
    | with_reducible apply State.wakeHeld_keeps
    | with_reducible apply State.expireAuth_keeps
    | with_reducible apply State.settleSnuff_keeps
    | with_reducible apply State.settleEntry_keeps
    | with_reducible apply Keeps.ite
    | with_reducible apply Keeps.foldl
    | with_reducible apply Keeps.of
    | with_reducible refine Keeps.roots ?_ rfl rfl rfl
    | split
    | simp only [keeps_mk]

theorem execSensorSample_keeps {s0 : State} (temps : List (BitVec 32)) (rails : List (BitVec 16)) (vbat : BitVec 16) {s : State} (hs : Keeps s0 s) : ResKeeps s0 (execSensorSample temps rails vbat s) := by
  unfold execSensorSample
  repeat' first
    | with_reducible assumption
    | with_reducible apply ResKeeps.next
    | intro _
    | with_reducible apply State.setEntry_keeps
    | with_reducible apply Keeps.ite
    | with_reducible apply Keeps.foldl

end Sys2Proof.Machine
end

