-- ==== Sys2Proof/Laws/KeepsReservoir.lean ====
section
/-! SUPPORT. What no command undoes (Keeps), for the functions of Machine/Reservoir. -/

namespace Sys2Proof.Machine

theorem State.takeHint_keeps {s0 : State} {s : State} (w : Nat) (c : Nat) (hint : Nat) (hs : Keeps s0 s) : Keeps s0 (State.takeHint s w c hint) := by
  unfold State.takeHint
  repeat' first
    | with_reducible assumption
    | intro _
    | with_reducible apply State.bump_keeps
    | with_reducible apply State.setWick_keeps
    | with_reducible apply Keeps.ite

theorem State.hintWicks_keeps {s0 : State} {s : State} (c : Nat) (r : Nat) (hint : Nat) (hs : Keeps s0 s) : Keeps s0 (State.hintWicks s c r hint) := by
  unfold State.hintWicks
  repeat' first
    | with_reducible assumption
    | intro _
    | with_reducible apply State.takeHint_keeps
    | with_reducible apply Keeps.ite
    | with_reducible apply Keeps.foldl

theorem State.clearHints_keeps {s0 : State} {s : State} (c : Nat) (r : Nat) (hs : Keeps s0 s) : Keeps s0 (State.clearHints s c r) := by
  unfold State.clearHints
  repeat' first
    | with_reducible assumption
    | intro _
    | with_reducible apply State.setWick_keeps
    | with_reducible apply Keeps.ite
    | with_reducible apply Keeps.foldl

theorem State.sendHint_keeps {s0 : State} {s : State} (c : Nat) (r : Nat) (hint : Nat) (hs : Keeps s0 s) : Keeps s0 (State.sendHint s c r hint) := by
  unfold State.sendHint
  repeat' first
    | with_reducible assumption
    | intro _
    | with_reducible apply State.emit_keeps
    | with_reducible apply State.hintWicks_keeps

theorem State.sendHints_keeps {s0 : State} {s : State} (c : Nat) (hs : Keeps s0 s) : Keeps s0 (State.sendHints s c) := by
  unfold State.sendHints
  repeat' first
    | with_reducible assumption
    | intro _
    | refine State.draw_keeps_eq (by assumption) ?_
    | with_reducible apply State.draw_keeps
    | with_reducible apply State.sendHint_keeps
    | with_reducible apply Keeps.ite
    | with_reducible apply Keeps.foldl

theorem State.portJoin_keeps {s0 : State} {s : State} (q : ChannelRequest) (hs : Keeps s0 s) : Keeps s0 (State.portJoin s q) := by
  unfold State.portJoin
  repeat' first
    | with_reducible assumption
    | intro _
    | with_reducible apply State.setArbiter_keeps
    | with_reducible apply State.settlePort_keeps
    | with_reducible apply Keeps.ite

theorem State.failedAccesses_keeps {s0 : State} {s : State} (c : Nat) (arrivals : List ChannelRequest) (hs : Keeps s0 s) : Keeps s0 (State.failedAccesses s c arrivals) := by
  unfold State.failedAccesses
  repeat' first
    | with_reducible assumption
    | with_reducible apply IssueKeeps.ok
    | with_reducible apply IssueKeeps.stall
    | with_reducible apply IssueKeeps.ended
    | with_reducible apply IssueKeeps.fault
    | with_reducible apply IssueKeeps.ite
    | intro _
    | with_reducible apply State.reportFault_keeps
    | with_reducible apply State.access_keeps
    | with_reducible apply Keeps.ite
    | with_reducible apply Keeps.foldl
    | with_reducible apply Keeps.of
    | with_reducible refine Keeps.roots ?_ rfl rfl rfl
    | split

theorem execReservoirGrant_keeps {s0 : State} (channel : Fin 64) (arrivals : List ChannelRequest) {s : State} (hs : Keeps s0 s) : ResKeeps s0 (execReservoirGrant channel arrivals s) := by
  unfold execReservoirGrant
  repeat' first
    | with_reducible assumption
    | with_reducible apply ResKeeps.next
    | intro _
    | with_reducible apply State.bump_keeps
    | with_reducible apply State.emit_keeps
    | with_reducible apply State.setArbiter_keeps
    | with_reducible apply State.clearHints_keeps
    | with_reducible apply State.sendHints_keeps
    | with_reducible apply State.portJoin_keeps
    | with_reducible apply State.failedAccesses_keeps
    | with_reducible apply Keeps.ite
    | with_reducible apply Keeps.foldl
    | with_reducible apply Keeps.of
    | with_reducible refine Keeps.roots ?_ rfl rfl rfl
    | split
    | simp only [keeps_mk]

theorem State.replayReader_keeps {s0 : State} {s : State} (reader : UnitId) (hs : Keeps s0 s) : Keeps s0 (State.replayReader s reader) := by
  unfold State.replayReader
  repeat' first
    | with_reducible assumption
    | intro _
    | with_reducible apply State.replayServed_keeps

theorem State.lostRecord_keeps {s0 : State} {s : State} (n : Nat) (hs : Keeps s0 s) : Keeps s0 (State.lostRecord s n) := by
  unfold State.lostRecord
  repeat' first
    | with_reducible assumption
    | intro _
    | with_reducible apply State.internalJob_keeps
    | with_reducible apply State.replayJob_keeps
    | with_reducible apply Keeps.ite
    | with_reducible apply Keeps.foldl
    | with_reducible apply Keeps.of
    | with_reducible refine Keeps.roots ?_ rfl rfl rfl
    | split

theorem State.lostLantern_keeps {s0 : State} {s : State} (k : Nat) (reader : UnitId) (hs : Keeps s0 s) : Keeps s0 (State.lostLantern s k reader) := by
  unfold State.lostLantern
  repeat' first
    | with_reducible assumption
    | intro _
    | with_reducible apply State.replayUnder_keeps
    | with_reducible apply State.unpin_keeps
    | with_reducible apply State.dropLantern_keeps
    | with_reducible apply Keeps.ite
    | with_reducible apply Keeps.foldl
    | with_reducible apply Keeps.of
    | with_reducible refine Keeps.roots ?_ rfl rfl rfl
    | split

theorem State.lostMce_keeps {s0 : State} {s : State} (k : Nat) (hs : Keeps s0 s) : Keeps s0 (State.lostMce s k) := by
  unfold State.lostMce
  repeat' first
    | with_reducible assumption
    | intro _
    | with_reducible apply State.failJob_keeps
    | with_reducible apply State.setMce_keeps
    | with_reducible apply Keeps.ite
    | with_reducible apply Keeps.foldl

theorem State.lostContext_keeps {s0 : State} {s : State} (n : Nat) (reader : UnitId) (hs : Keeps s0 s) : Keeps s0 (State.lostContext s n reader) := by
  unfold State.lostContext
  repeat' first
    | with_reducible assumption
    | intro _
    | with_reducible apply State.internalJob_keeps
    | with_reducible apply State.closeContexts_keeps
    | with_reducible apply State.freeSession_keeps
    | with_reducible apply Keeps.ite
    | with_reducible apply Keeps.foldl

theorem State.lineLost_keeps {s0 : State} {s : State} (a : Nat) (reader : UnitId) (hs : Keeps s0 s) : Keeps s0 (State.lineLost s a reader) := by
  unfold State.lineLost
  repeat' first
    | with_reducible assumption
    | intro _
    | with_reducible apply State.replayReader_keeps
    | with_reducible apply State.lostRecord_keeps
    | with_reducible apply State.lostLantern_keeps
    | with_reducible apply State.lostMce_keeps
    | with_reducible apply State.lostContext_keeps
    | with_reducible apply Keeps.ite
    | with_reducible apply Keeps.foldl
    | with_reducible apply Keeps.of
    | with_reducible refine Keeps.roots ?_ rfl rfl rfl
    | split

theorem execLineRead_keeps {s0 : State} (line : Nat) (reader : UnitId) (first : Bytes) (second : Bytes) {s : State} (hs : Keeps s0 s) : ResKeeps s0 (execLineRead line reader first second s) := by
  unfold execLineRead
  repeat' first
    | with_reducible assumption
    | with_reducible apply ResKeeps.next
    | intro _
    | with_reducible apply State.clearLines_keeps
    | with_reducible apply State.reportFault_keeps
    | with_reducible apply State.lineLost_keeps
    | with_reducible apply Keeps.ite

end Sys2Proof.Machine
end

