-- ==== Sys2Proof/Laws/KeepsRings.lean ====
section
/-! SUPPORT. What no command undoes (Keeps), for the functions of Machine/Rings. -/

namespace Sys2Proof.Machine

theorem execRing_keeps {s0 : State} (link : Fin 8) (slice : Fin 512) (queue : Fin 1024) (wellSized : Bool) (value : BitVec 32) {s : State} (hs : Keeps s0 s) : ResKeeps s0 (execRing link slice queue wellSized value s) := by
  unfold execRing
  repeat' first
    | with_reducible assumption
    | with_reducible apply ResKeeps.next
    | intro _
    | with_reducible apply State.doorbell_keeps

theorem execInvalidate_keeps {s0 : State} (link : Fin 8) (slice : Fin 512) (queue : Fin 1024) (wellSized : Bool) (token : BitVec 8) (tail : BitVec 20) {s : State} (hs : Keeps s0 s) : ResKeeps s0 (execInvalidate link slice queue wellSized token tail s) := by
  unfold execInvalidate
  repeat' first
    | with_reducible assumption
    | with_reducible apply ResKeeps.next
    | intro _
    | with_reducible apply State.doorbell_keeps

theorem execAbort_keeps {s0 : State} (link : Fin 8) (slice : Fin 512) (queue : Fin 1024) (wellSized : Bool) (token : BitVec 8) (tail : BitVec 20) {s : State} (hs : Keeps s0 s) : ResKeeps s0 (execAbort link slice queue wellSized token tail s) := by
  unfold execAbort
  repeat' first
    | with_reducible assumption
    | with_reducible apply ResKeeps.next
    | intro _
    | with_reducible apply State.doorbell_keeps

theorem execRingReadComplete_keeps {s0 : State} (slot : Fin 2048) (entries : List RingEntry) {s : State} (hs : Keeps s0 s) : ResKeeps s0 (execRingReadComplete slot entries s) := by
  unfold execRingReadComplete
  repeat' first
    | with_reducible assumption
    | with_reducible apply ResKeeps.next
    | intro _
    | with_reducible apply State.settleWindows_keeps
    | with_reducible apply State.setQueue_keeps
    | with_reducible apply State.takeRun_keeps
    | with_reducible apply State.abortRun_keeps
    | with_reducible apply State.takeDoorbells_keeps
    | with_reducible apply Keeps.ite
    | with_reducible apply Keeps.foldl
    | with_reducible apply Keeps.of
    | with_reducible refine Keeps.roots ?_ rfl rfl rfl
    | split
    | simp only [keeps_mk]

theorem execShortDoorbellReread_keeps {s0 : State} (slot : Fin 2048) {s : State} (hs : Keeps s0 s) : ResKeeps s0 (execShortDoorbellReread slot s) := by
  unfold execShortDoorbellReread
  repeat' first
    | with_reducible assumption
    | with_reducible apply ResKeeps.next
    | intro _
    | with_reducible apply State.reread_keeps

theorem execFetch_keeps {s0 : State} (data : HostData) {s : State} (hs : Keeps s0 s) : ResKeeps s0 (execFetch data s) := by
  unfold execFetch
  repeat' first
    | with_reducible assumption
    | with_reducible apply ResKeeps.next
    | intro _
    | with_reducible apply State.fetch_keeps

theorem execAttemptStart_keeps {s0 : State} (job : Nat) (units : List UnitId) {s : State} (hs : Keeps s0 s) : ResKeeps s0 (execAttemptStart job units s) := by
  unfold execAttemptStart
  repeat' first
    | with_reducible assumption
    | with_reducible apply ResKeeps.next
    | intro _
    | with_reducible apply State.settleTurns_keeps
    | with_reducible apply State.startAttempt_keeps

theorem execContextLoadComplete_keeps {s0 : State} (session : Fin 4096) {s : State} (hs : Keeps s0 s) : ResKeeps s0 (execContextLoadComplete session s) := by
  unfold execContextLoadComplete
  repeat' first
    | with_reducible assumption
    | with_reducible apply ResKeeps.next
    | intro _
    | with_reducible apply State.loadContext_keeps
    | with_reducible apply State.settleTurns_keeps

theorem execPublication_keeps {s0 : State} (job : Nat) {s : State} (hs : Keeps s0 s) : ResKeeps s0 (execPublication job s) := by
  unfold execPublication
  repeat' first
    | with_reducible assumption
    | with_reducible apply ResKeeps.next
    | intro _
    | with_reducible apply State.settleTurns_keeps
    | with_reducible apply State.publish_keeps

theorem execKeyEraseCommit_keeps {s0 : State} (slot : Fin 512) {s : State} (hs : Keeps s0 s) : ResKeeps s0 (execKeyEraseCommit slot s) := by
  unfold execKeyEraseCommit
  repeat' first
    | with_reducible assumption
    | with_reducible apply ResKeeps.next
    | intro _
    | with_reducible apply State.commitErase_keeps
    | with_reducible apply State.commitEraseJob_keeps

end Sys2Proof.Machine
end

