-- ==== Sys2Proof/Laws/KeepsStreamRx.lean ====
section
/-! SUPPORT. What no command undoes (Keeps), for the functions of Machine/StreamRx. -/

namespace Sys2Proof.Machine

theorem State.settleObjects_keeps {s0 : State} {s : State} (n : Nat) (hs : Keeps s0 s) : Keeps s0 (State.settleObjects s n) := by
  unfold State.settleObjects
  repeat' first
    | with_reducible assumption
    | intro _
    | with_reducible apply State.stageResult_keeps
    | with_reducible apply Keeps.ite
    | with_reducible apply Keeps.foldl

theorem State.settleMarks_keeps {s0 : State} {s : State} (n : Nat) (ack : BitVec 32) (hs : Keeps s0 s) : Keeps s0 (State.settleMarks s n ack) := by
  unfold State.settleMarks
  repeat' first
    | with_reducible assumption
    | intro _
    | with_reducible apply State.setStream_keeps
    | with_reducible apply State.stageResult_keeps
    | with_reducible apply Keeps.ite
    | with_reducible apply Keeps.foldl

theorem State.takeAck_keeps {s0 : State} {s : State} (n : Nat) (ack : BitVec 32) (hs : Keeps s0 s) : Keeps s0 (State.takeAck s n ack) := by
  unfold State.takeAck
  repeat' first
    | with_reducible assumption
    | intro _
    | with_reducible apply State.setStream_keeps
    | with_reducible apply State.settleMarks_keeps
    | with_reducible apply Keeps.ite

theorem State.takeCommit_keeps {s0 : State} {s : State} (n : Nat) (consumed : Nat) (rsn : BitVec 32) (hs : Keeps s0 s) : Keeps s0 (State.takeCommit s n consumed rsn) := by
  unfold State.takeCommit
  repeat' first
    | with_reducible assumption
    | intro _
    | with_reducible apply State.setStream_keeps
    | with_reducible apply State.settleObjects_keeps

theorem State.takeCredit_keeps {s0 : State} {s : State} (n : Nat) (b : Bytes) (hs : Keeps s0 s) : Keeps s0 (State.takeCredit s n b) := by
  unfold State.takeCredit
  repeat' first
    | with_reducible assumption
    | intro _
    | refine State.window_keeps_eq (by assumption) ?_
    | with_reducible apply State.setStream_keeps
    | with_reducible apply State.window_keeps
    | with_reducible apply State.takeAck_keeps
    | with_reducible apply State.takeCommit_keeps
    | with_reducible apply Keeps.ite

theorem State.restoreExtent_keeps {s0 : State} {s : State} (n : Nat) (hs : Keeps s0 s) : Keeps s0 (State.restoreExtent s n) := by
  unfold State.restoreExtent
  simp only []
  split
  · exact hs
  · rename_i p e
    generalize hx : State.allocate s _ 2 _ _ = r
    cases r with
    | none => exact hs
    | some t => exact State.allocate_keeps_eq hx hs

theorem State.takeRate_keeps {s0 : State} {s : State} (n : Nat) (b : Bytes) (hs : Keeps s0 s) : Keeps s0 (State.takeRate s n b) := by
  unfold State.takeRate
  repeat' first
    | with_reducible assumption
    | intro _
    | with_reducible apply State.setEntry_keeps
    | with_reducible apply State.setStream_keeps
    | with_reducible apply State.setStreamState_keeps
    | with_reducible apply State.restoreExtent_keeps
    | with_reducible apply Keeps.ite

theorem State.settleStops_keeps {s0 : State} {s : State} (n : Nat) (hs : Keeps s0 s) : Keeps s0 (State.settleStops s n) := by
  unfold State.settleStops
  repeat' first
    | with_reducible assumption
    | intro _
    | with_reducible apply State.stageResult_keeps
    | with_reducible apply State.discardHeld_keeps
    | with_reducible apply Keeps.ite
    | with_reducible apply Keeps.foldl

theorem State.mediumStops_keeps {s0 : State} {s : State} (n : Nat) (hs : Keeps s0 s) : Keeps s0 (State.mediumStops s n) := by
  unfold State.mediumStops
  repeat' first
    | with_reducible assumption
    | intro _
    | with_reducible apply State.setEntry_keeps
    | with_reducible apply State.setStream_keeps
    | with_reducible apply State.setStreamState_keeps

theorem State.takeStatus_keeps {s0 : State} {s : State} (n : Nat) (b : Bytes) (hs : Keeps s0 s) : Keeps s0 (State.takeStatus s n b) := by
  unfold State.takeStatus
  repeat' first
    | with_reducible assumption
    | intro _
    | with_reducible apply State.setEntry_keeps
    | with_reducible apply State.bump_keeps
    | with_reducible apply State.setStreamState_keeps
    | with_reducible apply State.settleStops_keeps
    | with_reducible apply State.mediumStops_keeps
    | with_reducible apply Keeps.ite

theorem State.endObject_keeps {s0 : State} {s : State} (n : Nat) (status : Nat) (hs : Keeps s0 s) : Keeps s0 (State.endObject s n status) := by
  unfold State.endObject
  repeat' first
    | with_reducible assumption
    | intro _
    | with_reducible apply State.failJob_keeps
    | with_reducible apply Keeps.ite
    | with_reducible apply Keeps.foldl
    | with_reducible apply Keeps.of
    | with_reducible refine Keeps.roots ?_ rfl rfl rfl
    | split

theorem State.refuseRecord_keeps {s0 : State} {s : State} (n : Nat) (rsn : BitVec 32) (hs : Keeps s0 s) : Keeps s0 (State.refuseRecord s n rsn) := by
  unfold State.refuseRecord
  repeat' first
    | with_reducible assumption
    | intro _
    | with_reducible apply State.setStream_keeps
    | with_reducible apply State.settleObjects_keeps

theorem State.faultStream_keeps {s0 : State} {s : State} (n : Nat) (hs : Keeps s0 s) : Keeps s0 (State.faultStream s n) := by
  unfold State.faultStream
  repeat' first
    | with_reducible assumption
    | intro _
    | with_reducible apply State.setStreamState_keeps

theorem State.dropRecords_keeps {s0 : State} {s : State} (n : Nat) (hs : Keeps s0 s) : Keeps s0 (State.dropRecords s n) := by
  unfold State.dropRecords
  repeat' first
    | with_reducible assumption
    | intro _
    | with_reducible apply State.setStream_keeps

theorem State.rewindObject_keeps {s0 : State} {s : State} (n : Nat) (j : Job) (hs : Keeps s0 s) : Keeps s0 (State.rewindObject s n j) := by
  unfold State.rewindObject
  repeat' first
    | with_reducible assumption
    | intro _
    | with_reducible apply State.modObject_keeps

theorem State.endAtEpoch_keeps {s0 : State} {s : State} (j : Job) (hs : Keeps s0 s) : Keeps s0 (State.endAtEpoch s j) := by
  unfold State.endAtEpoch
  repeat' first
    | with_reducible assumption
    | intro _
    | with_reducible apply State.modJob_keeps
    | with_reducible apply State.releaseVoid_keeps
    | with_reducible apply State.failJob_keeps
    | with_reducible apply Keeps.ite

theorem State.forgetEpoch_keeps {s0 : State} {s : State} (n : Nat) (hs : Keeps s0 s) : Keeps s0 (State.forgetEpoch s n) := by
  unfold State.forgetEpoch
  repeat' first
    | with_reducible assumption
    | intro _
    | with_reducible apply State.setEntry_keeps
    | with_reducible apply State.setStream_keeps
    | with_reducible apply State.newEpoch_keeps
    | with_reducible apply State.failJob_keeps
    | with_reducible apply State.streamWaits_keeps
    | with_reducible apply State.dropRecords_keeps
    | with_reducible apply State.rewindObject_keeps
    | with_reducible apply State.endAtEpoch_keeps
    | with_reducible apply Keeps.ite
    | with_reducible apply Keeps.foldl
    | with_reducible apply Keeps.of
    | with_reducible refine Keeps.roots ?_ rfl rfl rfl
    | split
    | simp only [keeps_mk]

theorem State.takeError_keeps {s0 : State} {s : State} (n : Nat) (b : Bytes) (hs : Keeps s0 s) : Keeps s0 (State.takeError s n b) := by
  unfold State.takeError
  repeat' first
    | with_reducible assumption
    | with_reducible apply IssueKeeps.ok
    | with_reducible apply IssueKeeps.stall
    | with_reducible apply IssueKeeps.ended
    | with_reducible apply IssueKeeps.fault
    | with_reducible apply IssueKeeps.ite
    | intro _
    | with_reducible apply State.bump_keeps
    | with_reducible apply State.setStream_keeps
    | with_reducible apply State.endObject_keeps
    | with_reducible apply State.refuseRecord_keeps
    | with_reducible apply State.faultStream_keeps
    | with_reducible apply State.forgetEpoch_keeps
    | with_reducible apply Keeps.ite

theorem State.takeEndObject_keeps {s0 : State} {s : State} (n : Nat) (ordinal : BitVec 32) (hs : Keeps s0 s) : Keeps s0 (State.takeEndObject s n ordinal) := by
  unfold State.takeEndObject
  repeat' first
    | with_reducible assumption
    | intro _
    | with_reducible apply State.setStream_keeps
    | with_reducible apply State.modObject_keeps
    | with_reducible apply State.failJob_keeps
    | with_reducible apply Keeps.ite
    | with_reducible apply Keeps.foldl
    | with_reducible apply Keeps.of
    | with_reducible refine Keeps.roots ?_ rfl rfl rfl
    | split

theorem State.takeEndOfData_keeps {s0 : State} {s : State} (n : Nat) (hs : Keeps s0 s) : Keeps s0 (State.takeEndOfData s n) := by
  unfold State.takeEndOfData
  repeat' first
    | with_reducible assumption
    | intro _
    | with_reducible apply State.endObject_keeps
    | with_reducible apply Keeps.ite

theorem State.takeMark_keeps {s0 : State} {s : State} (n : Nat) (b : Bytes) (hs : Keeps s0 s) : Keeps s0 (State.takeMark s n b) := by
  unfold State.takeMark
  repeat' first
    | with_reducible assumption
    | intro _
    | with_reducible apply State.setStream_keeps
    | with_reducible apply State.takeEndObject_keeps
    | with_reducible apply State.takeEndOfData_keeps
    | with_reducible apply Keeps.ite

theorem State.holdRecord_keeps {s0 : State} {s : State} (n : Nat) (rsn : BitVec 32) (b : Bytes) (hs : Keeps s0 s) : Keeps s0 (State.holdRecord s n rsn b) := by
  unfold State.holdRecord
  repeat' first
    | with_reducible assumption
    | intro _
    | with_reducible apply State.setStream_keeps
    | with_reducible apply Keeps.ite

theorem State.takeRecordData_keeps {s0 : State} {s : State} (n : Nat) (flags : Nat) (b : Bytes) (hs : Keeps s0 s) : Keeps s0 (State.takeRecordData s n flags b) := by
  unfold State.takeRecordData
  repeat' first
    | with_reducible assumption
    | intro _
    | with_reducible apply State.setStream_keeps
    | with_reducible apply State.endObject_keeps
    | with_reducible apply State.holdRecord_keeps
    | with_reducible apply Keeps.ite
    | with_reducible apply Keeps.foldl
    | with_reducible apply Keeps.of
    | with_reducible refine Keeps.roots ?_ rfl rfl rfl
    | split
    | simp only [keeps_mk]

theorem State.takeFeedData_keeps {s0 : State} {s : State} (n : Nat) (b : Bytes) (hs : Keeps s0 s) : Keeps s0 (State.takeFeedData s n b) := by
  unfold State.takeFeedData
  repeat' first
    | with_reducible assumption
    | intro _
    | with_reducible apply State.bump_keeps
    | with_reducible apply State.setStream_keeps
    | with_reducible apply Keeps.ite
    | with_reducible apply Keeps.foldl
    | with_reducible apply Keeps.of
    | with_reducible refine Keeps.roots ?_ rfl rfl rfl
    | split

theorem State.takeSequenced_keeps {s0 : State} {s : State} (n : Nat) (f : VspFrame) (hs : Keeps s0 s) : Keeps s0 (State.takeSequenced s n f) := by
  unfold State.takeSequenced
  repeat' first
    | with_reducible assumption
    | intro _
    | with_reducible apply State.bump_keeps
    | with_reducible apply State.sendError_keeps
    | with_reducible apply State.takeRate_keeps
    | with_reducible apply State.takeMark_keeps
    | with_reducible apply State.takeRecordData_keeps
    | with_reducible apply State.takeFeedData_keeps
    | with_reducible apply Keeps.ite

theorem State.takeFrame_keeps {s0 : State} {s : State} (n : Nat) (f : VspFrame) (hs : Keeps s0 s) : Keeps s0 (State.takeFrame s n f) := by
  unfold State.takeFrame
  repeat' first
    | with_reducible assumption
    | intro _
    | with_reducible apply State.bump_keeps
    | with_reducible apply State.setStream_keeps
    | with_reducible apply State.setStreamState_keeps
    | with_reducible apply State.sendCredit_keeps
    | with_reducible apply State.takeCredit_keeps
    | with_reducible apply State.takeStatus_keeps
    | with_reducible apply State.takeError_keeps
    | with_reducible apply State.takeSequenced_keeps
    | with_reducible apply Keeps.ite

theorem State.heard_keeps {s0 : State} {s : State} (n : Nat) (hs : Keeps s0 s) : Keeps s0 (State.heard s n) := by
  unfold State.heard
  repeat' first
    | with_reducible assumption
    | intro _
    | with_reducible apply State.setStream_keeps

theorem State.receive_keeps {s0 : State} {s : State} (p : Nat) (f : VspFrame) (hs : Keeps s0 s) : Keeps s0 (State.receive s p f) := by
  unfold State.receive
  repeat' first
    | with_reducible assumption
    | intro _
    | with_reducible apply State.bump_keeps
    | with_reducible apply State.evaluate_keeps
    | with_reducible apply State.takeFrame_keeps
    | with_reducible apply State.heard_keeps
    | with_reducible apply Keeps.ite
    | with_reducible apply Keeps.foldl
    | with_reducible apply Keeps.of
    | with_reducible refine Keeps.roots ?_ rfl rfl rfl
    | split

theorem State.loseStream_keeps {s0 : State} {s : State} (n : Nat) (hs : Keeps s0 s) : Keeps s0 (State.loseStream s n) := by
  unfold State.loseStream
  repeat' first
    | with_reducible assumption
    | intro _
    | with_reducible apply State.setStream_keeps
    | with_reducible apply State.streamWaits_keeps
    | with_reducible apply State.reportFault_keeps
    | with_reducible apply Keeps.ite

theorem State.resendFrames_keeps {s0 : State} {s : State} (n : Nat) (hs : Keeps s0 s) : Keeps s0 (State.resendFrames s n) := by
  unfold State.resendFrames
  repeat' first
    | with_reducible assumption
    | intro _
    | with_reducible apply State.setStream_keeps
    | with_reducible apply State.issueFrame_keeps
    | with_reducible apply Keeps.ite
    | with_reducible apply Keeps.foldl

end Sys2Proof.Machine
end

