-- ==== Sys2Proof/Laws/KeepsStreams.lean ====
section
/-! SUPPORT. What no command undoes (Keeps), for the functions of Machine/Streams. -/

namespace Sys2Proof.Machine

theorem execVspDataReceived_keeps {s0 : State} (port : Fin 256) (frame : VspFrame) {s : State} (hs : Keeps s0 s) : ResKeeps s0 (execVspDataReceived port frame s) := by
  unfold execVspDataReceived
  repeat' first
    | with_reducible assumption
    | with_reducible apply ResKeeps.next
    | intro _
    | with_reducible apply State.receive_keeps

theorem execVspCreditReceived_keeps {s0 : State} (port : Fin 256) (frame : VspFrame) {s : State} (hs : Keeps s0 s) : ResKeeps s0 (execVspCreditReceived port frame s) := by
  unfold execVspCreditReceived
  repeat' first
    | with_reducible assumption
    | with_reducible apply ResKeeps.next
    | intro _
    | with_reducible apply State.receive_keeps

theorem execVspRateReceived_keeps {s0 : State} (port : Fin 256) (frame : VspFrame) {s : State} (hs : Keeps s0 s) : ResKeeps s0 (execVspRateReceived port frame s) := by
  unfold execVspRateReceived
  repeat' first
    | with_reducible assumption
    | with_reducible apply ResKeeps.next
    | intro _
    | with_reducible apply State.receive_keeps

theorem execVspStatusReceived_keeps {s0 : State} (port : Fin 256) (frame : VspFrame) {s : State} (hs : Keeps s0 s) : ResKeeps s0 (execVspStatusReceived port frame s) := by
  unfold execVspStatusReceived
  repeat' first
    | with_reducible assumption
    | with_reducible apply ResKeeps.next
    | intro _
    | with_reducible apply State.receive_keeps

theorem execEndObject_keeps {s0 : State} (port : Fin 256) (frame : VspFrame) {s : State} (hs : Keeps s0 s) : ResKeeps s0 (execEndObject port frame s) := by
  unfold execEndObject
  repeat' first
    | with_reducible assumption
    | with_reducible apply ResKeeps.next
    | intro _
    | with_reducible apply State.receive_keeps

theorem execEndOfData_keeps {s0 : State} (port : Fin 256) (frame : VspFrame) {s : State} (hs : Keeps s0 s) : ResKeeps s0 (execEndOfData port frame s) := by
  unfold execEndOfData
  repeat' first
    | with_reducible assumption
    | with_reducible apply ResKeeps.next
    | intro _
    | with_reducible apply State.receive_keeps

theorem execEarlyWarning_keeps {s0 : State} (port : Fin 256) (frame : VspFrame) {s : State} (hs : Keeps s0 s) : ResKeeps s0 (execEarlyWarning port frame s) := by
  unfold execEarlyWarning
  repeat' first
    | with_reducible assumption
    | with_reducible apply ResKeeps.next
    | intro _
    | with_reducible apply State.receive_keeps

theorem execMediumWrite_keeps {s0 : State} (port : Fin 256) (frame : VspFrame) {s : State} (hs : Keeps s0 s) : ResKeeps s0 (execMediumWrite port frame s) := by
  unfold execMediumWrite
  repeat' first
    | with_reducible assumption
    | with_reducible apply ResKeeps.next
    | intro _
    | with_reducible apply State.receive_keeps

theorem execNoMedium_keeps {s0 : State} (port : Fin 256) (frame : VspFrame) {s : State} (hs : Keeps s0 s) : ResKeeps s0 (execNoMedium port frame s) := by
  unfold execNoMedium
  repeat' first
    | with_reducible assumption
    | with_reducible apply ResKeeps.next
    | intro _
    | with_reducible apply State.receive_keeps

theorem execMediumRead_keeps {s0 : State} (port : Fin 256) (frame : VspFrame) {s : State} (hs : Keeps s0 s) : ResKeeps s0 (execMediumRead port frame s) := by
  unfold execMediumRead
  repeat' first
    | with_reducible assumption
    | with_reducible apply ResKeeps.next
    | intro _
    | with_reducible apply State.receive_keeps

theorem execStarved_keeps {s0 : State} (port : Fin 256) (frame : VspFrame) {s : State} (hs : Keeps s0 s) : ResKeeps s0 (execStarved port frame s) := by
  unfold execStarved
  repeat' first
    | with_reducible assumption
    | with_reducible apply ResKeeps.next
    | intro _
    | with_reducible apply State.receive_keeps

theorem execUnknownEpoch_keeps {s0 : State} (port : Fin 256) (frame : VspFrame) {s : State} (hs : Keeps s0 s) : ResKeeps s0 (execUnknownEpoch port frame s) := by
  unfold execUnknownEpoch
  repeat' first
    | with_reducible assumption
    | with_reducible apply ResKeeps.next
    | intro _
    | with_reducible apply State.receive_keeps

theorem execPacingEvaluation_keeps {s0 : State} (stream : Fin 1024) {s : State} (hs : Keeps s0 s) : ResKeeps s0 (execPacingEvaluation stream s) := by
  unfold execPacingEvaluation
  repeat' first
    | with_reducible assumption
    | with_reducible apply ResKeeps.next
    | intro _
    | with_reducible apply State.evaluate_keeps
    | with_reducible apply Keeps.ite

theorem execRetransmitTimeout_keeps {s0 : State} (stream : Fin 1024) {s : State} (hs : Keeps s0 s) : ResKeeps s0 (execRetransmitTimeout stream s) := by
  unfold execRetransmitTimeout
  repeat' first
    | with_reducible assumption
    | with_reducible apply ResKeeps.next
    | intro _
    | with_reducible apply State.bump_keeps
    | with_reducible apply State.setStream_keeps
    | with_reducible apply State.loseStream_keeps
    | with_reducible apply State.resendFrames_keeps
    | with_reducible apply Keeps.ite

theorem execCreditTimer_keeps {s0 : State} (stream : Fin 1024) {s : State} (hs : Keeps s0 s) : ResKeeps s0 (execCreditTimer stream s) := by
  unfold execCreditTimer
  repeat' first
    | with_reducible assumption
    | with_reducible apply ResKeeps.next
    | intro _
    | with_reducible apply State.sendCredit_keeps
    | with_reducible apply Keeps.ite

theorem execStatusTimer_keeps {s0 : State} (stream : Fin 1024) {s : State} (hs : Keeps s0 s) : ResKeeps s0 (execStatusTimer stream s) := by
  unfold execStatusTimer
  repeat' first
    | with_reducible assumption
    | with_reducible apply ResKeeps.next
    | intro _
    | with_reducible apply State.sendStatus_keeps
    | with_reducible apply Keeps.ite

theorem execLinkTimeout_keeps {s0 : State} (stream : Fin 1024) {s : State} (hs : Keeps s0 s) : ResKeeps s0 (execLinkTimeout stream s) := by
  unfold execLinkTimeout
  repeat' first
    | with_reducible assumption
    | with_reducible apply ResKeeps.next
    | intro _
    | with_reducible apply State.loseStream_keeps
    | with_reducible apply Keeps.ite

theorem execMediaPortLinkUp_keeps {s0 : State} (port : Fin 256) {s : State} (hs : Keeps s0 s) : ResKeeps s0 (execMediaPortLinkUp port s) := by
  unfold execMediaPortLinkUp
  repeat' first
    | with_reducible assumption
    | with_reducible apply ResKeeps.next
    | intro _
    | with_reducible apply State.setEntry_keeps
    | with_reducible apply State.sendStatus_keeps
    | with_reducible apply Keeps.ite
    | with_reducible apply Keeps.foldl

end Sys2Proof.Machine
end

