-- ==== Sys2Proof/Laws/KeepsTamper.lean ====
section
/-! SUPPORT. What no command undoes (Keeps), for the functions of Machine/Tamper. -/

namespace Sys2Proof.Machine

theorem execMantleAlarm_keeps {s0 : State} (line : Fin 64) {s : State} (hs : Keeps s0 s) : ResKeeps s0 (execMantleAlarm line s) := by
  unfold execMantleAlarm
  repeat' first
    | with_reducible assumption
    | with_reducible apply ResKeeps.next
    | intro _
    | with_reducible apply State.alarm_keeps
    | with_reducible apply Keeps.ite

theorem execSupplyGlitchAlarm_keeps {s0 : State} (rail : BitVec 8) {s : State} (hs : Keeps s0 s) : ResKeeps s0 (execSupplyGlitchAlarm rail s) := by
  unfold execSupplyGlitchAlarm
  repeat' first
    | with_reducible assumption
    | with_reducible apply ResKeeps.next
    | intro _
    | with_reducible apply State.alarm_keeps
    | with_reducible apply Keeps.ite

theorem execClockAlarm_keeps {s0 : State} (hubClock : Bool) {s : State} (hs : Keeps s0 s) : ResKeeps s0 (execClockAlarm hubClock s) := by
  unfold execClockAlarm
  repeat' first
    | with_reducible assumption
    | with_reducible apply ResKeeps.next
    | intro _
    | with_reducible apply State.alarm_keeps
    | with_reducible apply Keeps.ite

theorem execTemperatureAlarm_keeps {s0 : State} (sensor : Fin 17) (reading : BitVec 16) {s : State} (hs : Keeps s0 s) : ResKeeps s0 (execTemperatureAlarm sensor reading s) := by
  unfold execTemperatureAlarm
  repeat' first
    | with_reducible assumption
    | with_reducible apply ResKeeps.next
    | intro _
    | with_reducible apply State.alarm_keeps
    | with_reducible apply Keeps.ite

theorem execLightAlarm_keeps {s0 : State} (diode : Fin 8) {s : State} (hs : Keeps s0 s) : ResKeeps s0 (execLightAlarm diode s) := by
  unfold execLightAlarm
  repeat' first
    | with_reducible assumption
    | with_reducible apply ResKeeps.next
    | intro _
    | with_reducible apply State.alarm_keeps
    | with_reducible apply Keeps.ite

theorem State.sampleLoop_keeps {s0 : State} {s : State} (n : Nat) (isOpen : Bool) (hs : Keeps s0 s) : Keeps s0 (State.sampleLoop s n isOpen) := by
  unfold State.sampleLoop
  repeat' first
    | with_reducible assumption
    | intro _
    | with_reducible apply State.setEntryBit_keeps
    | with_reducible apply State.alarm_keeps
    | with_reducible apply Keeps.ite
    | with_reducible apply Keeps.foldl
    | with_reducible apply Keeps.of
    | with_reducible refine Keeps.roots ?_ rfl rfl rfl
    | split
    | simp only [keeps_mk]

theorem execLoopSample_keeps {s0 : State} (isOpen : BitVec 4) {s : State} (hs : Keeps s0 s) : ResKeeps s0 (execLoopSample isOpen s) := by
  unfold execLoopSample
  repeat' first
    | with_reducible assumption
    | with_reducible apply ResKeeps.next
    | intro _
    | with_reducible apply State.sampleLoop_keeps
    | with_reducible apply Keeps.ite
    | with_reducible apply Keeps.foldl

theorem execIntegrityBurstAlarm_keeps {s0 : State} {s : State} (hs : Keeps s0 s) : ResKeeps s0 (execIntegrityBurstAlarm s) := by
  unfold execIntegrityBurstAlarm
  repeat' first
    | with_reducible assumption
    | with_reducible apply ResKeeps.next
    | intro _
    | with_reducible apply State.alarm_keeps
    | with_reducible apply Keeps.ite

theorem execAlarmRearm_keeps {s0 : State} (source : Fin 10) {s : State} (hs : Keeps s0 s) : ResKeeps s0 (execAlarmRearm source s) := by
  unfold execAlarmRearm
  repeat' first
    | with_reducible assumption
    | with_reducible apply ResKeeps.next
    | intro _
    | with_reducible apply State.setEntryBit_keeps
    | with_reducible apply Keeps.ite
    | with_reducible apply Keeps.foldl
    | with_reducible apply Keeps.of
    | with_reducible refine Keeps.roots ?_ rfl rfl rfl
    | split
    | simp only [keeps_mk]

theorem execTestRequest_keeps {s0 : State} (path : Path) (value : BitVec 8) {s : State} (hs : Keeps s0 s) : ResKeeps s0 (execTestRequest path value s) := by
  unfold execTestRequest
  repeat' first
    | with_reducible assumption
    | with_reducible apply ResKeeps.next
    | intro _
    | with_reducible apply State.writeEntry_keeps

theorem execTestDeadline_keeps {s0 : State} {s : State} (hs : Keeps s0 s) : ResKeeps s0 (execTestDeadline s) := by
  unfold execTestDeadline
  repeat' first
    | with_reducible assumption
    | with_reducible apply ResKeeps.next
    | intro _
    | with_reducible apply State.judgeTamperTest_keeps

theorem execTestSuppressionEnd_keeps {s0 : State} {s : State} (hs : Keeps s0 s) : ResKeeps s0 (execTestSuppressionEnd s) := by
  unfold execTestSuppressionEnd
  repeat' first
    | with_reducible assumption
    | with_reducible apply ResKeeps.next
    | intro _
    | with_reducible apply Keeps.ite
    | with_reducible apply Keeps.foldl
    | with_reducible apply Keeps.of
    | with_reducible refine Keeps.roots ?_ rfl rfl rfl
    | split
    | simp only [keeps_mk]

end Sys2Proof.Machine
end

