-- ==== Sys2Proof/Laws/KeepsTapers.lean ====
section
/-! SUPPORT. What no command undoes (Keeps), for the functions of Machine/Tapers. -/

namespace Sys2Proof.Machine

theorem State.taperFault_keeps {s0 : State} {s : State} (t : Nat) (code : Nat) (hs : Keeps s0 s) : Keeps s0 (State.taperFault s t code) := by
  unfold State.taperFault
  repeat' first
    | with_reducible assumption
    | intro _
    | with_reducible apply State.reportFault_keeps

theorem State.taperMismatch_keeps {s0 : State} {s : State} (t : Nat) (hs : Keeps s0 s) : Keeps s0 (State.taperMismatch s t) := by
  unfold State.taperMismatch
  repeat' first
    | with_reducible assumption
    | intro _
    | with_reducible apply State.replayServed_keeps
    | with_reducible apply State.taperFault_keeps

theorem State.runWord_keeps {s0 : State} {s : State} (t : Nat) (v : BitVec 128) (hs : Keeps s0 s) : Keeps s0 (State.runWord s t v) := by
  have h : Keeps s0 { s with freeIndex := s.freeIndex + 17 } := Keeps.mk (Keeps.free hs (Nat.le_add_right _ _))
  have g : Keeps s0 (if mw v 48 47 = 1 then ({ s with freeIndex := s.freeIndex + 17 } : State).generate 16 8 else (none, { s with freeIndex := s.freeIndex + 17 })).2 := by
    split
    exacts [State.generate_keeps _ _ h, h]
  unfold State.runWord
  simp only []
  split
  · exact State.taperFault_keeps _ _ g
  · exact Keeps.ite (State.taperMismatch_keeps _ (State.setTaper_keeps _ _ g)) (State.setTaper_keeps _ _ g)

theorem State.readOperands_keeps {s0 : State} {s : State} (t : Nat) (v : BitVec 128) (e : EccOutcome) (hs : Keeps s0 s) : Keeps s0 (State.readOperands s t v e) := by
  unfold State.readOperands
  repeat' first
    | with_reducible assumption
    | intro _
    | with_reducible apply State.taperFault_keeps
    | with_reducible apply Keeps.ite
    | with_reducible apply Keeps.foldl
    | with_reducible apply Keeps.of
    | with_reducible refine Keeps.roots ?_ rfl rfl rfl
    | split

theorem execTaperMicroword_keeps {s0 : State} (taper : Fin 8) (word : BitVec 128) (ecc : WordEcc) {s : State} (hs : Keeps s0 s) : ResKeeps s0 (execTaperMicroword taper word ecc s) := by
  unfold execTaperMicroword
  repeat' first
    | with_reducible assumption
    | with_reducible apply ResKeeps.next
    | intro _
    | with_reducible apply State.setTaper_keeps
    | with_reducible apply State.waitEntropy_keeps
    | with_reducible apply State.taperFault_keeps
    | with_reducible apply State.runWord_keeps
    | with_reducible apply State.readOperands_keeps
    | with_reducible apply Keeps.ite
    | with_reducible apply Keeps.foldl
    | with_reducible apply Keeps.of
    | with_reducible refine Keeps.roots ?_ rfl rfl rfl
    | split

theorem execTaperWaitRelease_keeps {s0 : State} (taper : Fin 8) {s : State} (hs : Keeps s0 s) : ResKeeps s0 (execTaperWaitRelease taper s) := by
  unfold execTaperWaitRelease
  repeat' first
    | with_reducible assumption
    | with_reducible apply ResKeeps.next
    | intro _
    | with_reducible apply State.modJob_keeps
    | with_reducible apply State.runWord_keeps
    | with_reducible apply Keeps.ite
    | with_reducible apply Keeps.foldl
    | with_reducible apply Keeps.of
    | with_reducible refine Keeps.roots ?_ rfl rfl rfl
    | split
    | simp only [keeps_mk]

theorem execTaperWaitWatchdog_keeps {s0 : State} (taper : Fin 8) {s : State} (hs : Keeps s0 s) : ResKeeps s0 (execTaperWaitWatchdog taper s) := by
  unfold execTaperWaitWatchdog
  repeat' first
    | with_reducible assumption
    | with_reducible apply ResKeeps.next
    | intro _
    | with_reducible apply State.modJob_keeps
    | with_reducible apply State.taperFault_keeps
    | with_reducible apply Keeps.ite
    | with_reducible apply Keeps.foldl
    | with_reducible apply Keeps.of
    | with_reducible refine Keeps.roots ?_ rfl rfl rfl
    | split
    | simp only [keeps_mk]

theorem execTaperWipe_keeps {s0 : State} (taper : Fin 8) (readbackZero : Bool) {s : State} (hs : Keeps s0 s) : ResKeeps s0 (execTaperWipe taper readbackZero s) := by
  unfold execTaperWipe
  repeat' first
    | with_reducible assumption
    | with_reducible apply ResKeeps.next
    | intro _
    | with_reducible apply State.setTaper_keeps
    | with_reducible apply State.reportFault_keeps
    | with_reducible apply Keeps.ite

theorem execStrikeClear_keeps {s0 : State} (taper : Fin 8) {s : State} (hs : Keeps s0 s) : ResKeeps s0 (execStrikeClear taper s) := by
  unfold execStrikeClear
  repeat' first
    | with_reducible assumption
    | with_reducible apply ResKeeps.next
    | intro _
    | with_reducible apply State.setEntry_keeps
    | with_reducible apply State.setTaper_keeps
    | with_reducible apply Keeps.ite

end Sys2Proof.Machine
end

