-- ==== Sys2Proof/Laws/KeepsExec.lean ====
section
/-! SUPPORT. No command undoes what Keeps names, and a step takes one command off the queue and keeps the rest. -/

namespace Sys2Proof.Machine

theorem exec_keeps {s0 : State} (i : Instr) {s : State} (hs : Keeps s0 s) : ResKeeps s0 (exec i s) := by
  cases i with
  | ring a b c d e => exact execRing_keeps a b c d e hs
  | invalidate a b c d e f => exact execInvalidate_keeps a b c d e f hs
  | abort a b c d e f => exact execAbort_keeps a b c d e f hs
  | ringReadComplete a b => exact execRingReadComplete_keeps a b hs
  | shortDoorbellReread a => exact execShortDoorbellReread_keeps a hs
  | fetch a => exact execFetch_keeps a hs
  | attemptStart a b => exact execAttemptStart_keeps a b hs
  | contextLoadComplete a => exact execContextLoadComplete_keeps a hs
  | publication a => exact execPublication_keeps a hs
  | queueEnable a b => exact execQueueEnable_keeps a b hs
  | queueDisable a b => exact execQueueDisable_keeps a b hs
  | functionReset a b => exact execFunctionReset_keeps a b hs
  | queueDrained a => exact execQueueDrained_keeps a hs
  | d3hotEntry a => exact execD3hotEntry_keeps a hs
  | d0Return a => exact execD0Return_keeps a hs
  | pasidEnableClear a => exact execPasidEnableClear_keeps a hs
  | pasidEnableSet a => exact execPasidEnableSet_keeps a hs
  | hostLinkUp a b c => exact execHostLinkUp_keeps a b c hs
  | kemKeygen a b => exact execKemKeygen_keeps a b hs
  | kemEncaps a b => exact execKemEncaps_keeps a b hs
  | kemDecaps a b => exact execKemDecaps_keeps a b hs
  | mceCacheLoad a => exact execMceCacheLoad_keeps a hs
  | mceCacheDrop a => exact execMceCacheDrop_keeps a hs
  | sigKeygen a b => exact execSigKeygen_keeps a b hs
  | sigSign a b => exact execSigSign_keeps a b hs
  | sigVerify a b => exact execSigVerify_keeps a b hs
  | lanternBuild a b => exact execLanternBuild_keeps a b hs
  | lanternDrop a => exact execLanternDrop_keeps a hs
  | digest a => exact execDigest_keeps a hs
  | digOpen a => exact execDigOpen_keeps a hs
  | digUpdate a => exact execDigUpdate_keeps a hs
  | digFinish a => exact execDigFinish_keeps a hs
  | digRead a => exact execDigRead_keeps a hs
  | digClose a => exact execDigClose_keeps a hs
  | aeadEncrypt a => exact execAeadEncrypt_keeps a hs
  | aeadDecrypt a => exact execAeadDecrypt_keeps a hs
  | kwpWrap a => exact execKwpWrap_keeps a hs
  | kwpUnwrap a => exact execKwpUnwrap_keeps a hs
  | clKeygen a b => exact execClKeygen_keeps a b hs
  | clSign a b => exact execClSign_keeps a b hs
  | clVerify a b => exact execClVerify_keeps a b hs
  | clAgree a b => exact execClAgree_keeps a b hs
  | sessionOpen a => exact execSessionOpen_keeps a hs
  | sessionClose a => exact execSessionClose_keeps a hs
  | keyImport a => exact execKeyImport_keeps a hs
  | keyExport a => exact execKeyExport_keeps a hs
  | keyErase a => exact execKeyErase_keeps a hs
  | keyEraseCommit a => exact execKeyEraseCommit_keeps a hs
  | oskInstall a => exact execOskInstall_keeps a hs
  | attest a => exact execAttest_keeps a hs
  | objectWrite a b => exact execObjectWrite_keeps a b hs
  | objectRestore a b => exact execObjectRestore_keeps a b hs
  | streamMark a => exact execStreamMark_keeps a hs
  | streamStop a => exact execStreamStop_keeps a hs
  | random a => exact execRandom_keeps a hs
  | ownProgLoad a => exact execOwnProgLoad_keeps a hs
  | ownProgRun a => exact execOwnProgRun_keeps a hs
  | ownProgDrop a => exact execOwnProgDrop_keeps a hs
  | segmentArrival a b => exact execSegmentArrival_keeps a b hs
  | manifestSign a b => exact execManifestSign_keeps a b hs
  | restoreRecord a => exact execRestoreRecord_keeps a hs
  | digesterBoundary a b => exact execDigesterBoundary_keeps a b hs
  | add a b c d e => exact execAdd_keeps a b c d e hs
  | sub a b c d e => exact execSub_keeps a b c d e hs
  | and a b c d e => exact execAnd_keeps a b c d e hs
  | ior a b c d e => exact execIor_keeps a b c d e hs
  | xor a b c d e => exact execXor_keeps a b c d e hs
  | andc a b c d e => exact execAndc_keeps a b c d e hs
  | shl a b c d e => exact execShl_keeps a b c d e hs
  | shr a b c d e => exact execShr_keeps a b c d e hs
  | shra a b c d e => exact execShra_keeps a b c d e hs
  | rot a b c d e => exact execRot_keeps a b c d e hs
  | meq a b c d e => exact execMeq_keeps a b c d e hs
  | mlt a b c d e => exact execMlt_keeps a b c d e hs
  | mul a b c d e => exact execMul_keeps a b c d e hs
  | mulhi a b c d e => exact execMulhi_keeps a b c d e hs
  | limb a b c d e => exact execLimb_keeps a b c d e hs
  | carry a b c d e => exact execCarry_keeps a b c d e hs
  | clz a b c d e => exact execClz_keeps a b c d e hs
  | popc a b c d e => exact execPopc_keeps a b c d e hs
  | mux a b c d e => exact execMux_keeps a b c d e hs
  | mlo a b c d e => exact execMlo_keeps a b c d e hs
  | addk a b c d => exact execAddk_keeps a b c d hs
  | andk a b c d => exact execAndk_keeps a b c d hs
  | iork a b c d => exact execIork_keeps a b c d hs
  | xork a b c d => exact execXork_keeps a b c d hs
  | mltk a b c d => exact execMltk_keeps a b c d hs
  | mlok a b c d => exact execMlok_keeps a b c d hs
  | shlk a b c d e => exact execShlk_keeps a b c d e hs
  | shrk a b c d e => exact execShrk_keeps a b c d e hs
  | shrak a b c d e => exact execShrak_keeps a b c d e hs
  | rotk a b c d e => exact execRotk_keeps a b c d e hs
  | lk0 a b c d => exact execLk0_keeps a b c d hs
  | lk1 a b c d => exact execLk1_keeps a b c d hs
  | lk2 a b c d => exact execLk2_keeps a b c d hs
  | ld a b c d => exact execLd_keeps a b c d hs
  | st a b c d => exact execSt_keeps a b c d hs
  | bz a b c d => exact execBz_keeps a b c d hs
  | bnz a b c d => exact execBnz_keeps a b c d hs
  | bneg a b c d => exact execBneg_keeps a b c d hs
  | bnneg a b c d => exact execBnneg_keeps a b c d hs
  | dbnz a b c d => exact execDbnz_keeps a b c d hs
  | jmpr a b c d => exact execJmpr_keeps a b c d hs
  | jmp a b c => exact execJmp_keeps a b c hs
  | call a b c => exact execCall_keeps a b c hs
  | dmar a b c d e f => exact execDmar_keeps a b c d e f hs
  | dmaw a b c d e f => exact execDmaw_keeps a b c d e f hs
  | dwait a b c d e f => exact execDwait_keeps a b c d e f hs
  | dmaComplete a b => exact execDmaComplete_keeps a b hs
  | dmawLineCheck a => exact execDmawLineCheck_keeps a hs
  | spinit a b c d e => exact execSpinit_keeps a b c d e hs
  | spabs a b c d e => exact execSpabs_keeps a b c d e hs
  | spabsM a b c d e => exact execSpabsM_keeps a b c d e hs
  | spabr a b c d e => exact execSpabr_keeps a b c d e hs
  | spperm a b c d e => exact execSpperm_keeps a b c d e hs
  | spsqz a b c d e => exact execSpsqz_keeps a b c d e hs
  | spsqzM a b c d e => exact execSpsqzM_keeps a b c d e hs
  | spsqr a b c d e => exact execSpsqr_keeps a b c d e hs
  | spkey a b c d e => exact execSpkey_keeps a b c d e hs
  | gsend a b c d e => exact execGsend_keeps a b c d e hs
  | grecv a b c d e => exact execGrecv_keeps a b c d e hs
  | gfwd a b c d e => exact execGfwd_keeps a b c d e hs
  | kpsend a b c d e => exact execKpsend_keeps a b c d e hs
  | wkclr a b c d e => exact execWkclr_keeps a b c d e hs
  | gmark a b c d e => exact execGmark_keeps a b c d e hs
  | gscrub a b c d e => exact execGscrub_keeps a b c d e hs
  | nop a b c d e => exact execNop_keeps a b c d e hs
  | done a b c d e => exact execDone_keeps a b c d e hs
  | trap a b c d e => exact execTrap_keeps a b c d e hs
  | fence a b c d e => exact execFence_keeps a b c d e hs
  | cr a b c d e => exact execCr_keeps a b c d e hs
  | cw a b c d e => exact execCw_keeps a b c d e hs
  | napWake a => exact execNapWake_keeps a hs
  | programLoad a b => exact execProgramLoad_keeps a b hs
  | svAdd a b c d e f g => exact execSvAdd_keeps a b c d e f g hs
  | svSub a b c d e f g => exact execSvSub_keeps a b c d e f g hs
  | svAnd a b c d e f g => exact execSvAnd_keeps a b c d e f g hs
  | svOr a b c d e f g => exact execSvOr_keeps a b c d e f g hs
  | svXor a b c d e f g => exact execSvXor_keeps a b c d e f g hs
  | svAndn a b c d e f g => exact execSvAndn_keeps a b c d e f g hs
  | svNot a b c d e f g => exact execSvNot_keeps a b c d e f g hs
  | svSll a b c d e f g => exact execSvSll_keeps a b c d e f g hs
  | svSrl a b c d e f g => exact execSvSrl_keeps a b c d e f g hs
  | svSra a b c d e f g => exact execSvSra_keeps a b c d e f g hs
  | svRote a b c d e f g => exact execSvRote_keeps a b c d e f g hs
  | svMinu a b c d e f g => exact execSvMinu_keeps a b c d e f g hs
  | svMaxu a b c d e f g => exact execSvMaxu_keeps a b c d e f g hs
  | svCmpeq a b c d e f g => exact execSvCmpeq_keeps a b c d e f g hs
  | svCmpltu a b c d e f g => exact execSvCmpltu_keeps a b c d e f g hs
  | svMul a b c d e f g => exact execSvMul_keeps a b c d e f g hs
  | svMulhu a b c d e f g => exact execSvMulhu_keeps a b c d e f g hs
  | madd a b c d e f g => exact execMadd_keeps a b c d e f g hs
  | msub a b c d e f g => exact execMsub_keeps a b c d e f g hs
  | mmul a b c d e f g => exact execMmul_keeps a b c d e f g hs
  | mred a b c d e f g => exact execMred_keeps a b c d e f g hs
  | mneg a b c d e f g => exact execMneg_keeps a b c d e f g hs
  | wmule a b c d e f g => exact execWmule_keeps a b c d e f g hs
  | wmulo a b c d e f g => exact execWmulo_keeps a b c d e f g hs
  | dot a b c d e f g => exact execDot_keeps a b c d e f g hs
  | vsplat a b c d e f g => exact execVsplat_keeps a b c d e f g hs
  | vins a b c d e f g => exact execVins_keeps a b c d e f g hs
  | vext a b c d e f g => exact execVext_keeps a b c d e f g hs
  | vswaph a b c d e f g => exact execVswaph_keeps a b c d e f g hs
  | vmov a b c d e f g => exact execVmov_keeps a b c d e f g hs
  | vzero a b c d e f g => exact execVzero_keeps a b c d e f g hs
  | vld a b c d e f g h => exact execVld_keeps a b c d e f g h hs
  | vst a b c d e f g h => exact execVst_keeps a b c d e f g h hs
  | mask a b c d e f g => exact execMask_keeps a b c d e f g hs
  | refresh a b c d e f g => exact execRefresh_keeps a b c d e f g hs
  | unm a b c d e f g => exact execUnm_keeps a b c d e f g hs
  | unmg a b c d e f g => exact execUnmg_keeps a b c d e f g hs
  | vkey a b c d e f g => exact execVkey_keeps a b c d e f g hs
  | a2b a b c d e f g => exact execA2b_keeps a b c d e f g hs
  | b2a a b c d e f g => exact execB2a_keeps a b c d e f g hs
  | a2bq a b c d e f g => exact execA2bq_keeps a b c d e f g hs
  | b2aq a b c d e f g => exact execB2aq_keeps a b c d e f g hs
  | shroudRekey a => exact execShroudRekey_keeps a hs
  | fvAdd a b c d e f => exact execFvAdd_keeps a b c d e f hs
  | fvSub a b c d e f => exact execFvSub_keeps a b c d e f hs
  | fvAnd a b c d e f => exact execFvAnd_keeps a b c d e f hs
  | fvOr a b c d e f => exact execFvOr_keeps a b c d e f hs
  | fvXor a b c d e f => exact execFvXor_keeps a b c d e f hs
  | fvAndn a b c d e f => exact execFvAndn_keeps a b c d e f hs
  | fvMullo a b c d e f => exact execFvMullo_keeps a b c d e f hs
  | fvMulhu a b c d e f => exact execFvMulhu_keeps a b c d e f hs
  | fvSll a b c d e f => exact execFvSll_keeps a b c d e f hs
  | fvSrl a b c d e f => exact execFvSrl_keeps a b c d e f hs
  | fvSra a b c d e f => exact execFvSra_keeps a b c d e f hs
  | fvMinu a b c d e f => exact execFvMinu_keeps a b c d e f hs
  | fvMaxu a b c d e f => exact execFvMaxu_keeps a b c d e f hs
  | fvCmpeq a b c d e f => exact execFvCmpeq_keeps a b c d e f hs
  | fvCmpgtu a b c d e f => exact execFvCmpgtu_keeps a b c d e f hs
  | fvAddsu a b c d e f => exact execFvAddsu_keeps a b c d e f hs
  | fvTbl a b c d e f => exact execFvTbl_keeps a b c d e f hs
  | fvSlli a b c d e f => exact execFvSlli_keeps a b c d e f hs
  | fvSrli a b c d e f => exact execFvSrli_keeps a b c d e f hs
  | fvSrai a b c d e f => exact execFvSrai_keeps a b c d e f hs
  | fvRoli a b c d e f => exact execFvRoli_keeps a b c d e f hs
  | fld a b c d e => exact execFld_keeps a b c d e hs
  | fst a b c d e => exact execFst_keeps a b c d e hs
  | fmvgf a b c d e f => exact execFmvgf_keeps a b c d e f hs
  | fmvfg a b c d e f => exact execFmvfg_keeps a b c d e f hs
  | fsplat a b c d e f => exact execFsplat_keeps a b c d e f hs
  | fvWakeComplete a => exact execFvWakeComplete_keeps a hs
  | fvIdleExpiry a => exact execFvIdleExpiry_keeps a hs
  | fvWakeTimeout a => exact execFvWakeTimeout_keeps a hs
  | taperMicroword a b c => exact execTaperMicroword_keeps a b c hs
  | taperWaitRelease a => exact execTaperWaitRelease_keeps a hs
  | taperWaitWatchdog a => exact execTaperWaitWatchdog_keeps a hs
  | taperWipe a b => exact execTaperWipe_keeps a b hs
  | strikeClear a => exact execStrikeClear_keeps a hs
  | reservoirGrant a b => exact execReservoirGrant_keeps a b hs
  | lineRead a b c d => exact execLineRead_keeps a b c d hs
  | tenancyClearComplete a => exact execTenancyClearComplete_keeps a hs
  | reservoirClearComplete => exact execReservoirClearComplete_keeps hs
  | hostWindowWrite a b c d => exact execHostWindowWrite_keeps a b c d hs
  | vspDataReceived a b => exact execVspDataReceived_keeps a b hs
  | vspCreditReceived a b => exact execVspCreditReceived_keeps a b hs
  | vspRateReceived a b => exact execVspRateReceived_keeps a b hs
  | vspStatusReceived a b => exact execVspStatusReceived_keeps a b hs
  | endObject a b => exact execEndObject_keeps a b hs
  | endOfData a b => exact execEndOfData_keeps a b hs
  | earlyWarning a b => exact execEarlyWarning_keeps a b hs
  | mediumWrite a b => exact execMediumWrite_keeps a b hs
  | noMedium a b => exact execNoMedium_keeps a b hs
  | mediumRead a b => exact execMediumRead_keeps a b hs
  | starved a b => exact execStarved_keeps a b hs
  | unknownEpoch a b => exact execUnknownEpoch_keeps a b hs
  | pacingEvaluation a => exact execPacingEvaluation_keeps a hs
  | retransmitTimeout a => exact execRetransmitTimeout_keeps a hs
  | creditTimer a => exact execCreditTimer_keeps a hs
  | statusTimer a => exact execStatusTimer_keeps a hs
  | linkTimeout a => exact execLinkTimeout_keeps a hs
  | mediaPortLinkUp a => exact execMediaPortLinkUp_keeps a hs
  | streamEnable a b => exact execStreamEnable_keeps a b hs
  | streamDisable a b => exact execStreamDisable_keeps a b hs
  | hopRead a => exact execHopRead_keeps a hs
  | hopWrite a => exact execHopWrite_keeps a hs
  | hopInfo a => exact execHopInfo_keeps a hs
  | authBegin a => exact execAuthBegin_keeps a hs
  | authFinish a => exact execAuthFinish_keeps a hs
  | authEnd a => exact execAuthEnd_keeps a hs
  | hopWake a => exact execHopWake_keeps a hs
  | discover a => exact execDiscover_keeps a hs
  | hopAssemblyIdle a => exact execHopAssemblyIdle_keeps a hs
  | pendingSessionExpiry => exact execPendingSessionExpiry_keeps hs
  | authLockoutEnd => exact execAuthLockoutEnd_keeps hs
  | sessionIdleExpiry a => exact execSessionIdleExpiry_keeps a hs
  | serverHandover a => exact execServerHandover_keeps a hs
  | mbRead a b c => exact execMbRead_keeps a b c hs
  | mbWrite a b c d e => exact execMbWrite_keeps a b c d e hs
  | mbInfo a b c => exact execMbInfo_keeps a b c hs
  | dictEntryWrite a b c d => exact execDictEntryWrite_keeps a b c d hs
  | counterClear a b c d => exact execCounterClear_keeps a b c d hs
  | resetRequest a b => exact execResetRequest_keeps a b hs
  | transitionRequest a b c => exact execTransitionRequest_keeps a b c hs
  | keyRowsProgram a b c => exact execKeyRowsProgram_keeps a b c hs
  | flashWriteData a b => exact execFlashWriteData_keeps a b hs
  | retenant a b c => exact execRetenant_keeps a b c hs
  | ownerSliceWrite a b => exact execOwnerSliceWrite_keeps a b hs
  | timestampRestartedClear a b => exact execTimestampRestartedClear_keeps a b hs
  | katRequest a b c => exact execKatRequest_keeps a b c hs
  | vaultSlotErase a b c => exact execVaultSlotErase_keeps a b c hs
  | relightRequest a b c => exact execRelightRequest_keeps a b c hs
  | testRequest a b => exact execTestRequest_keeps a b hs
  | testDeadline => exact execTestDeadline_keeps hs
  | testSuppressionEnd => exact execTestSuppressionEnd_keeps hs
  | levelWrite a b c => exact execLevelWrite_keeps a b c hs
  | levelChangeComplete a => exact execLevelChangeComplete_keeps a hs
  | sconceDisable a b => exact execSconceDisable_keeps a b hs
  | sconcePowerDown a => exact execSconcePowerDown_keeps a hs
  | sconceEnable a b => exact execSconceEnable_keeps a b hs
  | sconceReady a => exact execSconceReady_keeps a hs
  | requestLow a => exact execRequestLow_keeps a hs
  | requestDark a => exact execRequestDark_keeps a hs
  | requestLit a => exact execRequestLit_keeps a hs
  | lowIdleExpiry => exact execLowIdleExpiry_keeps hs
  | darkAfterLowExpiry => exact execDarkAfterLowExpiry_keeps hs
  | wakePin a b => exact execWakePin_keeps a b hs
  | hostWake a => exact execHostWake_keeps a hs
  | wakeAtTime => exact execWakeAtTime_keeps hs
  | vstbyLoss => exact execVstbyLoss_keeps hs
  | vstbyReturn => exact execVstbyReturn_keeps hs
  | pilotPowerUp => exact execPilotPowerUp_keeps hs
  | mainEnAssert => exact execMainEnAssert_keeps hs
  | railsInRange => exact execRailsInRange_keeps hs
  | railStartTimeout => exact execRailStartTimeout_keeps hs
  | railDrop a => exact execRailDrop_keeps a hs
  | resetN => exact execResetN_keeps hs
  | haltRelease a => exact execHaltRelease_keeps a hs
  | boot a b c d => exact execBoot_keeps a b c d hs
  | litEntry => exact execLitEntry_keeps hs
  | criticalPhasePowerLoss a b c => exact execCriticalPhasePowerLoss_keeps a b c hs
  | mantleAlarm a => exact execMantleAlarm_keeps a hs
  | supplyGlitchAlarm a => exact execSupplyGlitchAlarm_keeps a hs
  | clockAlarm a => exact execClockAlarm_keeps a hs
  | temperatureAlarm a b => exact execTemperatureAlarm_keeps a b hs
  | lightAlarm a => exact execLightAlarm_keeps a hs
  | loopSample a => exact execLoopSample_keeps a hs
  | integrityBurstAlarm => exact execIntegrityBurstAlarm_keeps hs
  | alarmRearm a => exact execAlarmRearm_keeps a hs
  | drbgInstantiate a => exact execDrbgInstantiate_keeps a hs
  | emberHealthFailure a => exact execEmberHealthFailure_keeps a hs
  | emberRetry a => exact execEmberRetry_keeps a hs
  | emberStartupTestEnd a b => exact execEmberStartupTestEnd_keeps a b hs
  | blockComplete a => exact execBlockComplete_keeps a hs
  | drbgReseed a => exact execDrbgReseed_keeps a hs
  | gutterTimeout => exact execGutterTimeout_keeps hs
  | faultReport a b c d e => exact execFaultReport_keeps a b c d e hs
  | flitIntegrityFailure a => exact execFlitIntegrityFailure_keeps a hs
  | eventWindowClose a b => exact execEventWindowClose_keeps a b hs
  | quietExpiry => exact execQuietExpiry_keeps hs
  | selfTestComplete a b => exact execSelfTestComplete_keeps a b hs
  | dumpComplete => exact execDumpComplete_keeps hs
  | fatalHoldExpiry => exact execFatalHoldExpiry_keeps hs
  | lamplighterWatchdog => exact execLamplighterWatchdog_keeps hs
  | deviceReset a => exact execDeviceReset_keeps a hs
  | cycleBudgetExceeded a => exact execCycleBudgetExceeded_keeps a hs
  | debugAccess a b => exact execDebugAccess_keeps a b hs
  | sysclk25Loss => exact execSysclk25Loss_keeps hs
  | sysclk25Return => exact execSysclk25Return_keeps hs
  | vbatLoss => exact execVbatLoss_keeps hs
  | pauseFrame a b => exact execPauseFrame_keeps a b hs
  | msixVectorUnmask a b => exact execMsixVectorUnmask_keeps a b hs
  | slowClockTick => exact execSlowClockTick_keeps hs
  | sensorSample a b c => exact execSensorSample_keeps a b c hs

end Sys2Proof.Machine
end

