-- ==== Sys2Proof/Laws/PerInstr.lean ====
section
/-! SUPPORT. Per instruction: the word of a wick instruction decodes to it. A command that is no wick instruction has no word. -/

namespace Sys2Proof.Laws

/-- The word of the instruction, where it has one, decodes to it. -/
def Encoded.Statement (i : Instr) : Prop := ∀ w x, wickEncode i = some (w, x) → wickDecode w x = some i

theorem Encoded.ring (link : Fin 8) (slice : Fin 512) (queue : Fin 1024) (wellSized : Bool) (value : BitVec 32) : Encoded.Statement (.ring link slice queue wellSized value) := nofun
theorem Encoded.invalidate (link : Fin 8) (slice : Fin 512) (queue : Fin 1024) (wellSized : Bool) (token : BitVec 8) (tail : BitVec 20) : Encoded.Statement (.invalidate link slice queue wellSized token tail) := nofun
theorem Encoded.abort (link : Fin 8) (slice : Fin 512) (queue : Fin 1024) (wellSized : Bool) (token : BitVec 8) (tail : BitVec 20) : Encoded.Statement (.abort link slice queue wellSized token tail) := nofun
theorem Encoded.ringReadComplete (slot : Fin 2048) (entries : List RingEntry) : Encoded.Statement (.ringReadComplete slot entries) := nofun
theorem Encoded.shortDoorbellReread (slot : Fin 2048) : Encoded.Statement (.shortDoorbellReread slot) := nofun
theorem Encoded.fetch (data : HostData) : Encoded.Statement (.fetch data) := nofun
theorem Encoded.attemptStart (job : Nat) (units : List UnitId) : Encoded.Statement (.attemptStart job units) := nofun
theorem Encoded.contextLoadComplete (session : Fin 4096) : Encoded.Statement (.contextLoadComplete session) := nofun
theorem Encoded.publication (job : Nat) : Encoded.Statement (.publication job) := nofun
theorem Encoded.queueEnable (path : Path) (slot : Fin 2048) : Encoded.Statement (.queueEnable path slot) := nofun
theorem Encoded.queueDisable (path : Path) (slot : Fin 2048) : Encoded.Statement (.queueDisable path slot) := nofun
theorem Encoded.functionReset (link : Fin 8) (kind : FunctionResetKind) : Encoded.Statement (.functionReset link kind) := nofun
theorem Encoded.queueDrained (slot : Fin 2048) : Encoded.Statement (.queueDrained slot) := nofun
theorem Encoded.d3hotEntry (link : Fin 8) : Encoded.Statement (.d3hotEntry link) := nofun
theorem Encoded.d0Return (link : Fin 8) : Encoded.Statement (.d0Return link) := nofun
theorem Encoded.pasidEnableClear (link : Fin 8) : Encoded.Statement (.pasidEnableClear link) := nofun
theorem Encoded.pasidEnableSet (link : Fin 8) : Encoded.Statement (.pasidEnableSet link) := nofun
theorem Encoded.hostLinkUp (link : Fin 8) (speed : BitVec 8) (width : BitVec 8) : Encoded.Statement (.hostLinkUp link speed width) := nofun
theorem Encoded.kemKeygen (job : Nat) (check : Bool) : Encoded.Statement (.kemKeygen job check) := nofun
theorem Encoded.kemEncaps (job : Nat) (check : Bool) : Encoded.Statement (.kemEncaps job check) := nofun
theorem Encoded.kemDecaps (job : Nat) (check : Bool) : Encoded.Statement (.kemDecaps job check) := nofun
theorem Encoded.mceCacheLoad (job : Nat) : Encoded.Statement (.mceCacheLoad job) := nofun
theorem Encoded.mceCacheDrop (job : Nat) : Encoded.Statement (.mceCacheDrop job) := nofun
theorem Encoded.sigKeygen (job : Nat) (check : Bool) : Encoded.Statement (.sigKeygen job check) := nofun
theorem Encoded.sigSign (job : Nat) (check : Bool) : Encoded.Statement (.sigSign job check) := nofun
theorem Encoded.sigVerify (job : Nat) (check : Bool) : Encoded.Statement (.sigVerify job check) := nofun
theorem Encoded.lanternBuild (job : Nat) (check : TaskCheck) : Encoded.Statement (.lanternBuild job check) := nofun
theorem Encoded.lanternDrop (job : Nat) : Encoded.Statement (.lanternDrop job) := nofun
theorem Encoded.digest (job : Nat) : Encoded.Statement (.digest job) := nofun
theorem Encoded.digOpen (job : Nat) : Encoded.Statement (.digOpen job) := nofun
theorem Encoded.digUpdate (job : Nat) : Encoded.Statement (.digUpdate job) := nofun
theorem Encoded.digFinish (job : Nat) : Encoded.Statement (.digFinish job) := nofun
theorem Encoded.digRead (job : Nat) : Encoded.Statement (.digRead job) := nofun
theorem Encoded.digClose (job : Nat) : Encoded.Statement (.digClose job) := nofun
theorem Encoded.aeadEncrypt (job : Nat) : Encoded.Statement (.aeadEncrypt job) := nofun
theorem Encoded.aeadDecrypt (job : Nat) : Encoded.Statement (.aeadDecrypt job) := nofun
theorem Encoded.kwpWrap (job : Nat) : Encoded.Statement (.kwpWrap job) := nofun
theorem Encoded.kwpUnwrap (job : Nat) : Encoded.Statement (.kwpUnwrap job) := nofun
theorem Encoded.clKeygen (job : Nat) (check : Bool) : Encoded.Statement (.clKeygen job check) := nofun
theorem Encoded.clSign (job : Nat) (check : Bool) : Encoded.Statement (.clSign job check) := nofun
theorem Encoded.clVerify (job : Nat) (check : Bool) : Encoded.Statement (.clVerify job check) := nofun
theorem Encoded.clAgree (job : Nat) (check : Bool) : Encoded.Statement (.clAgree job check) := nofun
theorem Encoded.sessionOpen (job : Nat) : Encoded.Statement (.sessionOpen job) := nofun
theorem Encoded.sessionClose (job : Nat) : Encoded.Statement (.sessionClose job) := nofun
theorem Encoded.keyImport (job : Nat) : Encoded.Statement (.keyImport job) := nofun
theorem Encoded.keyExport (job : Nat) : Encoded.Statement (.keyExport job) := nofun
theorem Encoded.keyErase (job : Nat) : Encoded.Statement (.keyErase job) := nofun
theorem Encoded.keyEraseCommit (slot : Fin 512) : Encoded.Statement (.keyEraseCommit slot) := nofun
theorem Encoded.oskInstall (job : Nat) : Encoded.Statement (.oskInstall job) := nofun
theorem Encoded.attest (job : Nat) : Encoded.Statement (.attest job) := nofun
theorem Encoded.objectWrite (job : Nat) (check : Bool) : Encoded.Statement (.objectWrite job check) := nofun
theorem Encoded.objectRestore (job : Nat) (check : Bool) : Encoded.Statement (.objectRestore job check) := nofun
theorem Encoded.streamMark (job : Nat) : Encoded.Statement (.streamMark job) := nofun
theorem Encoded.streamStop (job : Nat) : Encoded.Statement (.streamStop job) := nofun
theorem Encoded.random (job : Nat) : Encoded.Statement (.random job) := nofun
theorem Encoded.ownProgLoad (job : Nat) : Encoded.Statement (.ownProgLoad job) := nofun
theorem Encoded.ownProgRun (job : Nat) : Encoded.Statement (.ownProgRun job) := nofun
theorem Encoded.ownProgDrop (job : Nat) : Encoded.Statement (.ownProgDrop job) := nofun
theorem Encoded.segmentArrival (job : Nat) (bytes : Bytes) : Encoded.Statement (.segmentArrival job bytes) := nofun
theorem Encoded.manifestSign (job : Nat) (check : Bool) : Encoded.Statement (.manifestSign job check) := nofun
theorem Encoded.restoreRecord (job : Nat) : Encoded.Statement (.restoreRecord job) := nofun
theorem Encoded.digesterBoundary (digester : Fin 32) (item : DigestItem) : Encoded.Statement (.digesterBoundary digester item) := nofun
theorem Encoded.add (w : Fin 256) (rd rs1 rs2 : BitVec 5) (rsv : BitVec 9) : Encoded.Statement (.add w rd rs1 rs2 rsv) := by
  rintro _ _ ⟨⟩
  unfold wickDecode
  rw [encR_iwOp]
  show decodeAlu _ _ = _
  unfold decodeAlu
  rw [encR_iwFn]
  show some _ = some _
  rw [encR_iwA, encR_iwB, encR_iwC, encR_iwLow9]
theorem Encoded.sub (w : Fin 256) (rd rs1 rs2 : BitVec 5) (rsv : BitVec 9) : Encoded.Statement (.sub w rd rs1 rs2 rsv) := by
  rintro _ _ ⟨⟩
  unfold wickDecode
  rw [encR_iwOp]
  show decodeAlu _ _ = _
  unfold decodeAlu
  rw [encR_iwFn]
  show some _ = some _
  rw [encR_iwA, encR_iwB, encR_iwC, encR_iwLow9]
theorem Encoded.and (w : Fin 256) (rd rs1 rs2 : BitVec 5) (rsv : BitVec 9) : Encoded.Statement (.and w rd rs1 rs2 rsv) := by
  rintro _ _ ⟨⟩
  unfold wickDecode
  rw [encR_iwOp]
  show decodeAlu _ _ = _
  unfold decodeAlu
  rw [encR_iwFn]
  show some _ = some _
  rw [encR_iwA, encR_iwB, encR_iwC, encR_iwLow9]
theorem Encoded.ior (w : Fin 256) (rd rs1 rs2 : BitVec 5) (rsv : BitVec 9) : Encoded.Statement (.ior w rd rs1 rs2 rsv) := by
  rintro _ _ ⟨⟩
  unfold wickDecode
  rw [encR_iwOp]
  show decodeAlu _ _ = _
  unfold decodeAlu
  rw [encR_iwFn]
  show some _ = some _
  rw [encR_iwA, encR_iwB, encR_iwC, encR_iwLow9]
theorem Encoded.xor (w : Fin 256) (rd rs1 rs2 : BitVec 5) (rsv : BitVec 9) : Encoded.Statement (.xor w rd rs1 rs2 rsv) := by
  rintro _ _ ⟨⟩
  unfold wickDecode
  rw [encR_iwOp]
  show decodeAlu _ _ = _
  unfold decodeAlu
  rw [encR_iwFn]
  show some _ = some _
  rw [encR_iwA, encR_iwB, encR_iwC, encR_iwLow9]
theorem Encoded.andc (w : Fin 256) (rd rs1 rs2 : BitVec 5) (rsv : BitVec 9) : Encoded.Statement (.andc w rd rs1 rs2 rsv) := by
  rintro _ _ ⟨⟩
  unfold wickDecode
  rw [encR_iwOp]
  show decodeAlu _ _ = _
  unfold decodeAlu
  rw [encR_iwFn]
  show some _ = some _
  rw [encR_iwA, encR_iwB, encR_iwC, encR_iwLow9]
theorem Encoded.shl (w : Fin 256) (rd rs1 rs2 : BitVec 5) (rsv : BitVec 9) : Encoded.Statement (.shl w rd rs1 rs2 rsv) := by
  rintro _ _ ⟨⟩
  unfold wickDecode
  rw [encR_iwOp]
  show decodeAlu _ _ = _
  unfold decodeAlu
  rw [encR_iwFn]
  show some _ = some _
  rw [encR_iwA, encR_iwB, encR_iwC, encR_iwLow9]
theorem Encoded.shr (w : Fin 256) (rd rs1 rs2 : BitVec 5) (rsv : BitVec 9) : Encoded.Statement (.shr w rd rs1 rs2 rsv) := by
  rintro _ _ ⟨⟩
  unfold wickDecode
  rw [encR_iwOp]
  show decodeAlu _ _ = _
  unfold decodeAlu
  rw [encR_iwFn]
  show some _ = some _
  rw [encR_iwA, encR_iwB, encR_iwC, encR_iwLow9]
theorem Encoded.shra (w : Fin 256) (rd rs1 rs2 : BitVec 5) (rsv : BitVec 9) : Encoded.Statement (.shra w rd rs1 rs2 rsv) := by
  rintro _ _ ⟨⟩
  unfold wickDecode
  rw [encR_iwOp]
  show decodeAlu _ _ = _
  unfold decodeAlu
  rw [encR_iwFn]
  show some _ = some _
  rw [encR_iwA, encR_iwB, encR_iwC, encR_iwLow9]
theorem Encoded.rot (w : Fin 256) (rd rs1 rs2 : BitVec 5) (rsv : BitVec 9) : Encoded.Statement (.rot w rd rs1 rs2 rsv) := by
  rintro _ _ ⟨⟩
  unfold wickDecode
  rw [encR_iwOp]
  show decodeAlu _ _ = _
  unfold decodeAlu
  rw [encR_iwFn]
  show some _ = some _
  rw [encR_iwA, encR_iwB, encR_iwC, encR_iwLow9]
theorem Encoded.meq (w : Fin 256) (rd rs1 rs2 : BitVec 5) (rsv : BitVec 9) : Encoded.Statement (.meq w rd rs1 rs2 rsv) := by
  rintro _ _ ⟨⟩
  unfold wickDecode
  rw [encR_iwOp]
  show decodeAlu _ _ = _
  unfold decodeAlu
  rw [encR_iwFn]
  show some _ = some _
  rw [encR_iwA, encR_iwB, encR_iwC, encR_iwLow9]
theorem Encoded.mlt (w : Fin 256) (rd rs1 rs2 : BitVec 5) (rsv : BitVec 9) : Encoded.Statement (.mlt w rd rs1 rs2 rsv) := by
  rintro _ _ ⟨⟩
  unfold wickDecode
  rw [encR_iwOp]
  show decodeAlu _ _ = _
  unfold decodeAlu
  rw [encR_iwFn]
  show some _ = some _
  rw [encR_iwA, encR_iwB, encR_iwC, encR_iwLow9]
theorem Encoded.mul (w : Fin 256) (rd rs1 rs2 : BitVec 5) (rsv : BitVec 9) : Encoded.Statement (.mul w rd rs1 rs2 rsv) := by
  rintro _ _ ⟨⟩
  unfold wickDecode
  rw [encR_iwOp]
  show decodeAlu _ _ = _
  unfold decodeAlu
  rw [encR_iwFn]
  show some _ = some _
  rw [encR_iwA, encR_iwB, encR_iwC, encR_iwLow9]
theorem Encoded.mulhi (w : Fin 256) (rd rs1 rs2 : BitVec 5) (rsv : BitVec 9) : Encoded.Statement (.mulhi w rd rs1 rs2 rsv) := by
  rintro _ _ ⟨⟩
  unfold wickDecode
  rw [encR_iwOp]
  show decodeAlu _ _ = _
  unfold decodeAlu
  rw [encR_iwFn]
  show some _ = some _
  rw [encR_iwA, encR_iwB, encR_iwC, encR_iwLow9]
theorem Encoded.limb (w : Fin 256) (rd rs1 rs2 : BitVec 5) (rsv : BitVec 9) : Encoded.Statement (.limb w rd rs1 rs2 rsv) := by
  rintro _ _ ⟨⟩
  unfold wickDecode
  rw [encR_iwOp]
  show decodeAlu _ _ = _
  unfold decodeAlu
  rw [encR_iwFn]
  show some _ = some _
  rw [encR_iwA, encR_iwB, encR_iwC, encR_iwLow9]
theorem Encoded.carry (w : Fin 256) (rd rs1 rs2 : BitVec 5) (rsv : BitVec 9) : Encoded.Statement (.carry w rd rs1 rs2 rsv) := by
  rintro _ _ ⟨⟩
  unfold wickDecode
  rw [encR_iwOp]
  show decodeAlu _ _ = _
  unfold decodeAlu
  rw [encR_iwFn]
  show some _ = some _
  rw [encR_iwA, encR_iwB, encR_iwC, encR_iwLow9]
theorem Encoded.clz (w : Fin 256) (rd rs1 rs2 : BitVec 5) (rsv : BitVec 9) : Encoded.Statement (.clz w rd rs1 rs2 rsv) := by
  rintro _ _ ⟨⟩
  unfold wickDecode
  rw [encR_iwOp]
  show decodeAlu _ _ = _
  unfold decodeAlu
  rw [encR_iwFn]
  show some _ = some _
  rw [encR_iwA, encR_iwB, encR_iwC, encR_iwLow9]
theorem Encoded.popc (w : Fin 256) (rd rs1 rs2 : BitVec 5) (rsv : BitVec 9) : Encoded.Statement (.popc w rd rs1 rs2 rsv) := by
  rintro _ _ ⟨⟩
  unfold wickDecode
  rw [encR_iwOp]
  show decodeAlu _ _ = _
  unfold decodeAlu
  rw [encR_iwFn]
  show some _ = some _
  rw [encR_iwA, encR_iwB, encR_iwC, encR_iwLow9]
theorem Encoded.mux (w : Fin 256) (rd rs1 rs2 : BitVec 5) (rsv : BitVec 9) : Encoded.Statement (.mux w rd rs1 rs2 rsv) := by
  rintro _ _ ⟨⟩
  unfold wickDecode
  rw [encR_iwOp]
  show decodeAlu _ _ = _
  unfold decodeAlu
  rw [encR_iwFn]
  show some _ = some _
  rw [encR_iwA, encR_iwB, encR_iwC, encR_iwLow9]
theorem Encoded.mlo (w : Fin 256) (rd rs1 rs2 : BitVec 5) (rsv : BitVec 9) : Encoded.Statement (.mlo w rd rs1 rs2 rsv) := by
  rintro _ _ ⟨⟩
  unfold wickDecode
  rw [encR_iwOp]
  show decodeAlu _ _ = _
  unfold decodeAlu
  rw [encR_iwFn]
  show some _ = some _
  rw [encR_iwA, encR_iwB, encR_iwC, encR_iwLow9]
theorem Encoded.addk (w : Fin 256) (rd rs1 : BitVec 5) (imm : BitVec 20) : Encoded.Statement (.addk w rd rs1 imm) := by
  rintro _ _ ⟨⟩
  unfold wickDecode
  rw [encI_iwOp]
  show some _ = some _
  rw [encI_iwA, encI_iwB, encI_iwImm20]
theorem Encoded.andk (w : Fin 256) (rd rs1 : BitVec 5) (imm : BitVec 20) : Encoded.Statement (.andk w rd rs1 imm) := by
  rintro _ _ ⟨⟩
  unfold wickDecode
  rw [encI_iwOp]
  show some _ = some _
  rw [encI_iwA, encI_iwB, encI_iwImm20]
theorem Encoded.iork (w : Fin 256) (rd rs1 : BitVec 5) (imm : BitVec 20) : Encoded.Statement (.iork w rd rs1 imm) := by
  rintro _ _ ⟨⟩
  unfold wickDecode
  rw [encI_iwOp]
  show some _ = some _
  rw [encI_iwA, encI_iwB, encI_iwImm20]
theorem Encoded.xork (w : Fin 256) (rd rs1 : BitVec 5) (imm : BitVec 20) : Encoded.Statement (.xork w rd rs1 imm) := by
  rintro _ _ ⟨⟩
  unfold wickDecode
  rw [encI_iwOp]
  show some _ = some _
  rw [encI_iwA, encI_iwB, encI_iwImm20]
theorem Encoded.mltk (w : Fin 256) (rd rs1 : BitVec 5) (imm : BitVec 20) : Encoded.Statement (.mltk w rd rs1 imm) := by
  rintro _ _ ⟨⟩
  unfold wickDecode
  rw [encI_iwOp]
  show some _ = some _
  rw [encI_iwA, encI_iwB, encI_iwImm20]
theorem Encoded.mlok (w : Fin 256) (rd rs1 : BitVec 5) (imm : BitVec 20) : Encoded.Statement (.mlok w rd rs1 imm) := by
  rintro _ _ ⟨⟩
  unfold wickDecode
  rw [encI_iwOp]
  show some _ = some _
  rw [encI_iwA, encI_iwB, encI_iwImm20]
theorem Encoded.shlk (w : Fin 256) (rd rs1 : BitVec 5) (rsv : BitVec 10) (amount : BitVec 7) : Encoded.Statement (.shlk w rd rs1 rsv amount) := by
  rintro _ _ ⟨⟩
  unfold wickDecode
  rw [encShift_iwOp]
  show decodeShift _ _ = _
  unfold decodeShift
  rw [encShift_at17]
  show some _ = some _
  rw [encShift_iwA, encShift_iwB, encShift_at7, encShift_at0]
theorem Encoded.shrk (w : Fin 256) (rd rs1 : BitVec 5) (rsv : BitVec 10) (amount : BitVec 7) : Encoded.Statement (.shrk w rd rs1 rsv amount) := by
  rintro _ _ ⟨⟩
  unfold wickDecode
  rw [encShift_iwOp]
  show decodeShift _ _ = _
  unfold decodeShift
  rw [encShift_at17]
  show some _ = some _
  rw [encShift_iwA, encShift_iwB, encShift_at7, encShift_at0]
theorem Encoded.shrak (w : Fin 256) (rd rs1 : BitVec 5) (rsv : BitVec 10) (amount : BitVec 7) : Encoded.Statement (.shrak w rd rs1 rsv amount) := by
  rintro _ _ ⟨⟩
  unfold wickDecode
  rw [encShift_iwOp]
  show decodeShift _ _ = _
  unfold decodeShift
  rw [encShift_at17]
  show some _ = some _
  rw [encShift_iwA, encShift_iwB, encShift_at7, encShift_at0]
theorem Encoded.rotk (w : Fin 256) (rd rs1 : BitVec 5) (rsv : BitVec 10) (amount : BitVec 7) : Encoded.Statement (.rotk w rd rs1 rsv amount) := by
  rintro _ _ ⟨⟩
  unfold wickDecode
  rw [encShift_iwOp]
  show decodeShift _ _ = _
  unfold decodeShift
  rw [encShift_at17]
  show some _ = some _
  rw [encShift_iwA, encShift_iwB, encShift_at7, encShift_at0]
theorem Encoded.lk0 (w : Fin 256) (rd : BitVec 5) (rsv : BitVec 1) (imm : BitVec 24) : Encoded.Statement (.lk0 w rd rsv imm) := by
  rintro _ _ ⟨⟩
  unfold wickDecode
  rw [encK_iwOp]
  show some _ = some _
  rw [encK_iwA, encK_iwBit24, encK_iwImm24]
theorem Encoded.lk1 (w : Fin 256) (rd : BitVec 5) (rsv : BitVec 1) (imm : BitVec 24) : Encoded.Statement (.lk1 w rd rsv imm) := by
  rintro _ _ ⟨⟩
  unfold wickDecode
  rw [encK_iwOp]
  show some _ = some _
  rw [encK_iwA, encK_iwBit24, encK_iwImm24]
theorem Encoded.lk2 (w : Fin 256) (rd : BitVec 5) (rsv : BitVec 1) (imm : BitVec 24) : Encoded.Statement (.lk2 w rd rsv imm) := by
  rintro _ _ ⟨⟩
  unfold wickDecode
  rw [encK_iwOp]
  show some _ = some _
  rw [encK_iwA, encK_iwBit24, encK_iwImm24]
theorem Encoded.ld (w : Fin 256) (rd rs1 : BitVec 5) (imm : BitVec 20) : Encoded.Statement (.ld w rd rs1 imm) := by
  rintro _ _ ⟨⟩
  unfold wickDecode
  rw [encI_iwOp]
  show some _ = some _
  rw [encI_iwA, encI_iwB, encI_iwImm20]
theorem Encoded.st (w : Fin 256) (rs1 rs2 : BitVec 5) (imm : BitVec 20) : Encoded.Statement (.st w rs1 rs2 imm) := by
  rintro _ _ ⟨⟩
  unfold wickDecode
  rw [encI_iwOp]
  show some _ = some _
  rw [encI_iwA, encI_iwB, encI_iwImm20]
theorem Encoded.bz (w : Fin 256) (rs1 rs2 : BitVec 5) (off : BitVec 20) : Encoded.Statement (.bz w rs1 rs2 off) := by
  rintro _ _ ⟨⟩
  unfold wickDecode
  rw [encI_iwOp]
  show some _ = some _
  rw [encI_iwA, encI_iwB, encI_iwImm20]
theorem Encoded.bnz (w : Fin 256) (rs1 rs2 : BitVec 5) (off : BitVec 20) : Encoded.Statement (.bnz w rs1 rs2 off) := by
  rintro _ _ ⟨⟩
  unfold wickDecode
  rw [encI_iwOp]
  show some _ = some _
  rw [encI_iwA, encI_iwB, encI_iwImm20]
theorem Encoded.bneg (w : Fin 256) (rs1 rs2 : BitVec 5) (off : BitVec 20) : Encoded.Statement (.bneg w rs1 rs2 off) := by
  rintro _ _ ⟨⟩
  unfold wickDecode
  rw [encI_iwOp]
  show some _ = some _
  rw [encI_iwA, encI_iwB, encI_iwImm20]
theorem Encoded.bnneg (w : Fin 256) (rs1 rs2 : BitVec 5) (off : BitVec 20) : Encoded.Statement (.bnneg w rs1 rs2 off) := by
  rintro _ _ ⟨⟩
  unfold wickDecode
  rw [encI_iwOp]
  show some _ = some _
  rw [encI_iwA, encI_iwB, encI_iwImm20]
theorem Encoded.dbnz (w : Fin 256) (rs1 rs2 : BitVec 5) (off : BitVec 20) : Encoded.Statement (.dbnz w rs1 rs2 off) := by
  rintro _ _ ⟨⟩
  unfold wickDecode
  rw [encI_iwOp]
  show some _ = some _
  rw [encI_iwA, encI_iwB, encI_iwImm20]
theorem Encoded.jmpr (w : Fin 256) (rd rs1 : BitVec 5) (imm : BitVec 20) : Encoded.Statement (.jmpr w rd rs1 imm) := by
  rintro _ _ ⟨⟩
  unfold wickDecode
  rw [encI_iwOp]
  show some _ = some _
  rw [encI_iwA, encI_iwB, encI_iwImm20]
theorem Encoded.jmp (w : Fin 256) (rd : BitVec 5) (off : BitVec 25) : Encoded.Statement (.jmp w rd off) := by
  rintro _ _ ⟨⟩
  unfold wickDecode
  rw [encJ_iwOp]
  show some _ = some _
  rw [encJ_iwA, encJ_iwOff25]
theorem Encoded.call (w : Fin 256) (rd : BitVec 5) (off : BitVec 25) : Encoded.Statement (.call w rd off) := by
  rintro _ _ ⟨⟩
  unfold wickDecode
  rw [encJ_iwOp]
  show some _ = some _
  rw [encJ_iwA, encJ_iwOff25]
theorem Encoded.dmar (w : Fin 256) (rd rs1 rs2 : BitVec 5) (tag : BitVec 3) (rsv : BitVec 9) : Encoded.Statement (.dmar w rd rs1 rs2 tag rsv) := by
  rintro _ _ ⟨⟩
  unfold wickDecode
  rw [encDma_iwOp]
  show decodeDma _ _ = _
  unfold decodeDma
  rw [encDma_at12]
  show some _ = some _
  rw [encDma_iwA, encDma_iwB, encDma_iwC, encDma_at9, encDma_iwLow9]
theorem Encoded.dmaw (w : Fin 256) (rd rs1 rs2 : BitVec 5) (tag : BitVec 3) (rsv : BitVec 9) : Encoded.Statement (.dmaw w rd rs1 rs2 tag rsv) := by
  rintro _ _ ⟨⟩
  unfold wickDecode
  rw [encDma_iwOp]
  show decodeDma _ _ = _
  unfold decodeDma
  rw [encDma_at12]
  show some _ = some _
  rw [encDma_iwA, encDma_iwB, encDma_iwC, encDma_at9, encDma_iwLow9]
theorem Encoded.dwait (w : Fin 256) (rd rs1 rs2 : BitVec 5) (tag : BitVec 3) (rsv : BitVec 9) : Encoded.Statement (.dwait w rd rs1 rs2 tag rsv) := by
  rintro _ _ ⟨⟩
  unfold wickDecode
  rw [encDma_iwOp]
  show decodeDma _ _ = _
  unfold decodeDma
  rw [encDma_at12]
  show some _ = some _
  rw [encDma_iwA, encDma_iwB, encDma_iwC, encDma_at9, encDma_iwLow9]
theorem Encoded.dmaComplete (w : Fin 256) (tag : BitVec 3) : Encoded.Statement (.dmaComplete w tag) := nofun
theorem Encoded.dmawLineCheck (w : Fin 256) : Encoded.Statement (.dmawLineCheck w) := nofun
theorem Encoded.spinit (w : Fin 256) (rd rs1 rs2 : BitVec 5) (rsv : BitVec 9) : Encoded.Statement (.spinit w rd rs1 rs2 rsv) := by
  rintro _ _ ⟨⟩
  unfold wickDecode
  rw [encR_iwOp]
  show decodeSponge _ _ = _
  unfold decodeSponge
  rw [encR_iwFn]
  show some _ = some _
  rw [encR_iwA, encR_iwB, encR_iwC, encR_iwLow9]
theorem Encoded.spabs (w : Fin 256) (rd rs1 rs2 : BitVec 5) (rsv : BitVec 9) : Encoded.Statement (.spabs w rd rs1 rs2 rsv) := by
  rintro _ _ ⟨⟩
  unfold wickDecode
  rw [encR_iwOp]
  show decodeSponge _ _ = _
  unfold decodeSponge
  rw [encR_iwFn]
  show some _ = some _
  rw [encR_iwA, encR_iwB, encR_iwC, encR_iwLow9]
theorem Encoded.spabsM (w : Fin 256) (rd rs1 rs2 : BitVec 5) (rsv : BitVec 9) : Encoded.Statement (.spabsM w rd rs1 rs2 rsv) := by
  rintro _ _ ⟨⟩
  unfold wickDecode
  rw [encR_iwOp]
  show decodeSponge _ _ = _
  unfold decodeSponge
  rw [encR_iwFn]
  show some _ = some _
  rw [encR_iwA, encR_iwB, encR_iwC, encR_iwLow9]
theorem Encoded.spabr (w : Fin 256) (rd rs1 rs2 : BitVec 5) (rsv : BitVec 9) : Encoded.Statement (.spabr w rd rs1 rs2 rsv) := by
  rintro _ _ ⟨⟩
  unfold wickDecode
  rw [encR_iwOp]
  show decodeSponge _ _ = _
  unfold decodeSponge
  rw [encR_iwFn]
  show some _ = some _
  rw [encR_iwA, encR_iwB, encR_iwC, encR_iwLow9]
theorem Encoded.spperm (w : Fin 256) (rd rs1 rs2 : BitVec 5) (rsv : BitVec 9) : Encoded.Statement (.spperm w rd rs1 rs2 rsv) := by
  rintro _ _ ⟨⟩
  unfold wickDecode
  rw [encR_iwOp]
  show decodeSponge _ _ = _
  unfold decodeSponge
  rw [encR_iwFn]
  show some _ = some _
  rw [encR_iwA, encR_iwB, encR_iwC, encR_iwLow9]
theorem Encoded.spsqz (w : Fin 256) (rd rs1 rs2 : BitVec 5) (rsv : BitVec 9) : Encoded.Statement (.spsqz w rd rs1 rs2 rsv) := by
  rintro _ _ ⟨⟩
  unfold wickDecode
  rw [encR_iwOp]
  show decodeSponge _ _ = _
  unfold decodeSponge
  rw [encR_iwFn]
  show some _ = some _
  rw [encR_iwA, encR_iwB, encR_iwC, encR_iwLow9]
theorem Encoded.spsqzM (w : Fin 256) (rd rs1 rs2 : BitVec 5) (rsv : BitVec 9) : Encoded.Statement (.spsqzM w rd rs1 rs2 rsv) := by
  rintro _ _ ⟨⟩
  unfold wickDecode
  rw [encR_iwOp]
  show decodeSponge _ _ = _
  unfold decodeSponge
  rw [encR_iwFn]
  show some _ = some _
  rw [encR_iwA, encR_iwB, encR_iwC, encR_iwLow9]
theorem Encoded.spsqr (w : Fin 256) (rd rs1 rs2 : BitVec 5) (rsv : BitVec 9) : Encoded.Statement (.spsqr w rd rs1 rs2 rsv) := by
  rintro _ _ ⟨⟩
  unfold wickDecode
  rw [encR_iwOp]
  show decodeSponge _ _ = _
  unfold decodeSponge
  rw [encR_iwFn]
  show some _ = some _
  rw [encR_iwA, encR_iwB, encR_iwC, encR_iwLow9]
theorem Encoded.spkey (w : Fin 256) (rd rs1 rs2 : BitVec 5) (rsv : BitVec 9) : Encoded.Statement (.spkey w rd rs1 rs2 rsv) := by
  rintro _ _ ⟨⟩
  unfold wickDecode
  rw [encR_iwOp]
  show decodeSponge _ _ = _
  unfold decodeSponge
  rw [encR_iwFn]
  show some _ = some _
  rw [encR_iwA, encR_iwB, encR_iwC, encR_iwLow9]
theorem Encoded.gsend (w : Fin 256) (rd rs1 rs2 : BitVec 5) (rsv : BitVec 9) : Encoded.Statement (.gsend w rd rs1 rs2 rsv) := by
  rintro _ _ ⟨⟩
  unfold wickDecode
  rw [encR_iwOp]
  show decodeGang _ _ = _
  unfold decodeGang
  rw [encR_iwFn]
  show some _ = some _
  rw [encR_iwA, encR_iwB, encR_iwC, encR_iwLow9]
theorem Encoded.grecv (w : Fin 256) (rd rs1 rs2 : BitVec 5) (rsv : BitVec 9) : Encoded.Statement (.grecv w rd rs1 rs2 rsv) := by
  rintro _ _ ⟨⟩
  unfold wickDecode
  rw [encR_iwOp]
  show decodeGang _ _ = _
  unfold decodeGang
  rw [encR_iwFn]
  show some _ = some _
  rw [encR_iwA, encR_iwB, encR_iwC, encR_iwLow9]
theorem Encoded.gfwd (w : Fin 256) (rd rs1 rs2 : BitVec 5) (rsv : BitVec 9) : Encoded.Statement (.gfwd w rd rs1 rs2 rsv) := by
  rintro _ _ ⟨⟩
  unfold wickDecode
  rw [encR_iwOp]
  show decodeGang _ _ = _
  unfold decodeGang
  rw [encR_iwFn]
  show some _ = some _
  rw [encR_iwA, encR_iwB, encR_iwC, encR_iwLow9]
theorem Encoded.kpsend (w : Fin 256) (rd rs1 rs2 : BitVec 5) (rsv : BitVec 9) : Encoded.Statement (.kpsend w rd rs1 rs2 rsv) := by
  rintro _ _ ⟨⟩
  unfold wickDecode
  rw [encR_iwOp]
  show decodeKey _ _ = _
  unfold decodeKey
  rw [encR_iwFn]
  show some _ = some _
  rw [encR_iwA, encR_iwB, encR_iwC, encR_iwLow9]
theorem Encoded.wkclr (w : Fin 256) (rd rs1 rs2 : BitVec 5) (rsv : BitVec 9) : Encoded.Statement (.wkclr w rd rs1 rs2 rsv) := by
  rintro _ _ ⟨⟩
  unfold wickDecode
  rw [encR_iwOp]
  show decodeKey _ _ = _
  unfold decodeKey
  rw [encR_iwFn]
  show some _ = some _
  rw [encR_iwA, encR_iwB, encR_iwC, encR_iwLow9]
theorem Encoded.gmark (w : Fin 256) (rd rs1 rs2 : BitVec 5) (rsv : BitVec 9) : Encoded.Statement (.gmark w rd rs1 rs2 rsv) := by
  rintro _ _ ⟨⟩
  unfold wickDecode
  rw [encR_iwOp]
  show decodeKey _ _ = _
  unfold decodeKey
  rw [encR_iwFn]
  show some _ = some _
  rw [encR_iwA, encR_iwB, encR_iwC, encR_iwLow9]
theorem Encoded.gscrub (w : Fin 256) (rd rs1 rs2 : BitVec 5) (rsv : BitVec 9) : Encoded.Statement (.gscrub w rd rs1 rs2 rsv) := by
  rintro _ _ ⟨⟩
  unfold wickDecode
  rw [encR_iwOp]
  show decodeKey _ _ = _
  unfold decodeKey
  rw [encR_iwFn]
  show some _ = some _
  rw [encR_iwA, encR_iwB, encR_iwC, encR_iwLow9]
theorem Encoded.nop (w : Fin 256) (rd rs1 : BitVec 5) (rsv : BitVec 8) (code : BitVec 8) : Encoded.Statement (.nop w rd rs1 rsv code) := by
  rintro _ _ ⟨⟩
  unfold wickDecode
  rw [encSys_iwOp]
  show decodeSys _ _ = _
  unfold decodeSys
  rw [encSys_at16]
  show some _ = some _
  rw [encSys_iwA, encSys_iwB, encSys_at8, encSys_at0]
theorem Encoded.done (w : Fin 256) (rd rs1 : BitVec 5) (rsv : BitVec 8) (code : BitVec 8) : Encoded.Statement (.done w rd rs1 rsv code) := by
  rintro _ _ ⟨⟩
  unfold wickDecode
  rw [encSys_iwOp]
  show decodeSys _ _ = _
  unfold decodeSys
  rw [encSys_at16]
  show some _ = some _
  rw [encSys_iwA, encSys_iwB, encSys_at8, encSys_at0]
theorem Encoded.trap (w : Fin 256) (rd rs1 : BitVec 5) (rsv : BitVec 8) (code : BitVec 8) : Encoded.Statement (.trap w rd rs1 rsv code) := by
  rintro _ _ ⟨⟩
  unfold wickDecode
  rw [encSys_iwOp]
  show decodeSys _ _ = _
  unfold decodeSys
  rw [encSys_at16]
  show some _ = some _
  rw [encSys_iwA, encSys_iwB, encSys_at8, encSys_at0]
theorem Encoded.fence (w : Fin 256) (rd rs1 : BitVec 5) (rsv : BitVec 8) (code : BitVec 8) : Encoded.Statement (.fence w rd rs1 rsv code) := by
  rintro _ _ ⟨⟩
  unfold wickDecode
  rw [encSys_iwOp]
  show decodeSys _ _ = _
  unfold decodeSys
  rw [encSys_at16]
  show some _ = some _
  rw [encSys_iwA, encSys_iwB, encSys_at8, encSys_at0]
theorem Encoded.cr (w : Fin 256) (rd rs1 : BitVec 5) (creg : BitVec 6) (rsv : BitVec 14) : Encoded.Statement (.cr w rd rs1 creg rsv) := by
  rintro _ _ ⟨⟩
  unfold wickDecode
  rw [encC_iwOp]
  show some _ = some _
  rw [encC_iwA, encC_iwB, encC_at14, encC_at0]
theorem Encoded.cw (w : Fin 256) (rd rs1 : BitVec 5) (creg : BitVec 6) (rsv : BitVec 14) : Encoded.Statement (.cw w rd rs1 creg rsv) := by
  rintro _ _ ⟨⟩
  unfold wickDecode
  rw [encC_iwOp]
  show some _ = some _
  rw [encC_iwA, encC_iwB, encC_at14, encC_at0]
theorem Encoded.napWake (w : Fin 256) : Encoded.Statement (.napWake w) := nofun
theorem Encoded.programLoad (w : Fin 256) (image : Bytes) : Encoded.Statement (.programLoad w image) := nofun
theorem Encoded.svAdd (w : Fin 256) (vd vs1 vs2 : BitVec 5) (et : BitVec 3) (m : Bool) (aux : BitVec 5) : Encoded.Statement (.svAdd w vd vs1 vs2 et m aux) := by
  rintro _ _ ⟨⟩
  unfold wickDecode
  rw [encSvR_iwOp]
  show decodeSvInteger _ _ = _
  unfold decodeSvInteger
  rw [encSvR_iwFn]
  show some _ = some _
  rw [encSvR_iwA, encSvR_iwB, encSvR_iwC, encSvR_at6, encSvR_bit5, encSvR_at0]
theorem Encoded.svSub (w : Fin 256) (vd vs1 vs2 : BitVec 5) (et : BitVec 3) (m : Bool) (aux : BitVec 5) : Encoded.Statement (.svSub w vd vs1 vs2 et m aux) := by
  rintro _ _ ⟨⟩
  unfold wickDecode
  rw [encSvR_iwOp]
  show decodeSvInteger _ _ = _
  unfold decodeSvInteger
  rw [encSvR_iwFn]
  show some _ = some _
  rw [encSvR_iwA, encSvR_iwB, encSvR_iwC, encSvR_at6, encSvR_bit5, encSvR_at0]
theorem Encoded.svAnd (w : Fin 256) (vd vs1 vs2 : BitVec 5) (et : BitVec 3) (m : Bool) (aux : BitVec 5) : Encoded.Statement (.svAnd w vd vs1 vs2 et m aux) := by
  rintro _ _ ⟨⟩
  unfold wickDecode
  rw [encSvR_iwOp]
  show decodeSvInteger _ _ = _
  unfold decodeSvInteger
  rw [encSvR_iwFn]
  show some _ = some _
  rw [encSvR_iwA, encSvR_iwB, encSvR_iwC, encSvR_at6, encSvR_bit5, encSvR_at0]
theorem Encoded.svOr (w : Fin 256) (vd vs1 vs2 : BitVec 5) (et : BitVec 3) (m : Bool) (aux : BitVec 5) : Encoded.Statement (.svOr w vd vs1 vs2 et m aux) := by
  rintro _ _ ⟨⟩
  unfold wickDecode
  rw [encSvR_iwOp]
  show decodeSvInteger _ _ = _
  unfold decodeSvInteger
  rw [encSvR_iwFn]
  show some _ = some _
  rw [encSvR_iwA, encSvR_iwB, encSvR_iwC, encSvR_at6, encSvR_bit5, encSvR_at0]
theorem Encoded.svXor (w : Fin 256) (vd vs1 vs2 : BitVec 5) (et : BitVec 3) (m : Bool) (aux : BitVec 5) : Encoded.Statement (.svXor w vd vs1 vs2 et m aux) := by
  rintro _ _ ⟨⟩
  unfold wickDecode
  rw [encSvR_iwOp]
  show decodeSvInteger _ _ = _
  unfold decodeSvInteger
  rw [encSvR_iwFn]
  show some _ = some _
  rw [encSvR_iwA, encSvR_iwB, encSvR_iwC, encSvR_at6, encSvR_bit5, encSvR_at0]
theorem Encoded.svAndn (w : Fin 256) (vd vs1 vs2 : BitVec 5) (et : BitVec 3) (m : Bool) (aux : BitVec 5) : Encoded.Statement (.svAndn w vd vs1 vs2 et m aux) := by
  rintro _ _ ⟨⟩
  unfold wickDecode
  rw [encSvR_iwOp]
  show decodeSvInteger _ _ = _
  unfold decodeSvInteger
  rw [encSvR_iwFn]
  show some _ = some _
  rw [encSvR_iwA, encSvR_iwB, encSvR_iwC, encSvR_at6, encSvR_bit5, encSvR_at0]
theorem Encoded.svNot (w : Fin 256) (vd vs1 vs2 : BitVec 5) (et : BitVec 3) (m : Bool) (aux : BitVec 5) : Encoded.Statement (.svNot w vd vs1 vs2 et m aux) := by
  rintro _ _ ⟨⟩
  unfold wickDecode
  rw [encSvR_iwOp]
  show decodeSvInteger _ _ = _
  unfold decodeSvInteger
  rw [encSvR_iwFn]
  show some _ = some _
  rw [encSvR_iwA, encSvR_iwB, encSvR_iwC, encSvR_at6, encSvR_bit5, encSvR_at0]
theorem Encoded.svSll (w : Fin 256) (vd vs1 vs2 : BitVec 5) (et : BitVec 3) (m : Bool) (aux : BitVec 5) : Encoded.Statement (.svSll w vd vs1 vs2 et m aux) := by
  rintro _ _ ⟨⟩
  unfold wickDecode
  rw [encSvR_iwOp]
  show decodeSvInteger _ _ = _
  unfold decodeSvInteger
  rw [encSvR_iwFn]
  show some _ = some _
  rw [encSvR_iwA, encSvR_iwB, encSvR_iwC, encSvR_at6, encSvR_bit5, encSvR_at0]
theorem Encoded.svSrl (w : Fin 256) (vd vs1 vs2 : BitVec 5) (et : BitVec 3) (m : Bool) (aux : BitVec 5) : Encoded.Statement (.svSrl w vd vs1 vs2 et m aux) := by
  rintro _ _ ⟨⟩
  unfold wickDecode
  rw [encSvR_iwOp]
  show decodeSvInteger _ _ = _
  unfold decodeSvInteger
  rw [encSvR_iwFn]
  show some _ = some _
  rw [encSvR_iwA, encSvR_iwB, encSvR_iwC, encSvR_at6, encSvR_bit5, encSvR_at0]
theorem Encoded.svSra (w : Fin 256) (vd vs1 vs2 : BitVec 5) (et : BitVec 3) (m : Bool) (aux : BitVec 5) : Encoded.Statement (.svSra w vd vs1 vs2 et m aux) := by
  rintro _ _ ⟨⟩
  unfold wickDecode
  rw [encSvR_iwOp]
  show decodeSvInteger _ _ = _
  unfold decodeSvInteger
  rw [encSvR_iwFn]
  show some _ = some _
  rw [encSvR_iwA, encSvR_iwB, encSvR_iwC, encSvR_at6, encSvR_bit5, encSvR_at0]
theorem Encoded.svRote (w : Fin 256) (vd vs1 vs2 : BitVec 5) (et : BitVec 3) (m : Bool) (aux : BitVec 5) : Encoded.Statement (.svRote w vd vs1 vs2 et m aux) := by
  rintro _ _ ⟨⟩
  unfold wickDecode
  rw [encSvR_iwOp]
  show decodeSvInteger _ _ = _
  unfold decodeSvInteger
  rw [encSvR_iwFn]
  show some _ = some _
  rw [encSvR_iwA, encSvR_iwB, encSvR_iwC, encSvR_at6, encSvR_bit5, encSvR_at0]
theorem Encoded.svMinu (w : Fin 256) (vd vs1 vs2 : BitVec 5) (et : BitVec 3) (m : Bool) (aux : BitVec 5) : Encoded.Statement (.svMinu w vd vs1 vs2 et m aux) := by
  rintro _ _ ⟨⟩
  unfold wickDecode
  rw [encSvR_iwOp]
  show decodeSvInteger _ _ = _
  unfold decodeSvInteger
  rw [encSvR_iwFn]
  show some _ = some _
  rw [encSvR_iwA, encSvR_iwB, encSvR_iwC, encSvR_at6, encSvR_bit5, encSvR_at0]
theorem Encoded.svMaxu (w : Fin 256) (vd vs1 vs2 : BitVec 5) (et : BitVec 3) (m : Bool) (aux : BitVec 5) : Encoded.Statement (.svMaxu w vd vs1 vs2 et m aux) := by
  rintro _ _ ⟨⟩
  unfold wickDecode
  rw [encSvR_iwOp]
  show decodeSvInteger _ _ = _
  unfold decodeSvInteger
  rw [encSvR_iwFn]
  show some _ = some _
  rw [encSvR_iwA, encSvR_iwB, encSvR_iwC, encSvR_at6, encSvR_bit5, encSvR_at0]
theorem Encoded.svCmpeq (w : Fin 256) (vd vs1 vs2 : BitVec 5) (et : BitVec 3) (m : Bool) (aux : BitVec 5) : Encoded.Statement (.svCmpeq w vd vs1 vs2 et m aux) := by
  rintro _ _ ⟨⟩
  unfold wickDecode
  rw [encSvR_iwOp]
  show decodeSvInteger _ _ = _
  unfold decodeSvInteger
  rw [encSvR_iwFn]
  show some _ = some _
  rw [encSvR_iwA, encSvR_iwB, encSvR_iwC, encSvR_at6, encSvR_bit5, encSvR_at0]
theorem Encoded.svCmpltu (w : Fin 256) (vd vs1 vs2 : BitVec 5) (et : BitVec 3) (m : Bool) (aux : BitVec 5) : Encoded.Statement (.svCmpltu w vd vs1 vs2 et m aux) := by
  rintro _ _ ⟨⟩
  unfold wickDecode
  rw [encSvR_iwOp]
  show decodeSvInteger _ _ = _
  unfold decodeSvInteger
  rw [encSvR_iwFn]
  show some _ = some _
  rw [encSvR_iwA, encSvR_iwB, encSvR_iwC, encSvR_at6, encSvR_bit5, encSvR_at0]
theorem Encoded.svMul (w : Fin 256) (vd vs1 vs2 : BitVec 5) (et : BitVec 3) (m : Bool) (aux : BitVec 5) : Encoded.Statement (.svMul w vd vs1 vs2 et m aux) := by
  rintro _ _ ⟨⟩
  unfold wickDecode
  rw [encSvR_iwOp]
  show decodeSvInteger _ _ = _
  unfold decodeSvInteger
  rw [encSvR_iwFn]
  show some _ = some _
  rw [encSvR_iwA, encSvR_iwB, encSvR_iwC, encSvR_at6, encSvR_bit5, encSvR_at0]
theorem Encoded.svMulhu (w : Fin 256) (vd vs1 vs2 : BitVec 5) (et : BitVec 3) (m : Bool) (aux : BitVec 5) : Encoded.Statement (.svMulhu w vd vs1 vs2 et m aux) := by
  rintro _ _ ⟨⟩
  unfold wickDecode
  rw [encSvR_iwOp]
  show decodeSvInteger _ _ = _
  unfold decodeSvInteger
  rw [encSvR_iwFn]
  show some _ = some _
  rw [encSvR_iwA, encSvR_iwB, encSvR_iwC, encSvR_at6, encSvR_bit5, encSvR_at0]
theorem Encoded.madd (w : Fin 256) (vd vs1 vs2 : BitVec 5) (et : BitVec 3) (m : Bool) (aux : BitVec 5) : Encoded.Statement (.madd w vd vs1 vs2 et m aux) := by
  rintro _ _ ⟨⟩
  unfold wickDecode
  rw [encSvR_iwOp]
  show decodeSvModular _ _ = _
  unfold decodeSvModular
  rw [encSvR_iwFn]
  show some _ = some _
  rw [encSvR_iwA, encSvR_iwB, encSvR_iwC, encSvR_at6, encSvR_bit5, encSvR_at0]
theorem Encoded.msub (w : Fin 256) (vd vs1 vs2 : BitVec 5) (et : BitVec 3) (m : Bool) (aux : BitVec 5) : Encoded.Statement (.msub w vd vs1 vs2 et m aux) := by
  rintro _ _ ⟨⟩
  unfold wickDecode
  rw [encSvR_iwOp]
  show decodeSvModular _ _ = _
  unfold decodeSvModular
  rw [encSvR_iwFn]
  show some _ = some _
  rw [encSvR_iwA, encSvR_iwB, encSvR_iwC, encSvR_at6, encSvR_bit5, encSvR_at0]
theorem Encoded.mmul (w : Fin 256) (vd vs1 vs2 : BitVec 5) (et : BitVec 3) (m : Bool) (aux : BitVec 5) : Encoded.Statement (.mmul w vd vs1 vs2 et m aux) := by
  rintro _ _ ⟨⟩
  unfold wickDecode
  rw [encSvR_iwOp]
  show decodeSvModular _ _ = _
  unfold decodeSvModular
  rw [encSvR_iwFn]
  show some _ = some _
  rw [encSvR_iwA, encSvR_iwB, encSvR_iwC, encSvR_at6, encSvR_bit5, encSvR_at0]
theorem Encoded.mred (w : Fin 256) (vd vs1 vs2 : BitVec 5) (et : BitVec 3) (m : Bool) (aux : BitVec 5) : Encoded.Statement (.mred w vd vs1 vs2 et m aux) := by
  rintro _ _ ⟨⟩
  unfold wickDecode
  rw [encSvR_iwOp]
  show decodeSvModular _ _ = _
  unfold decodeSvModular
  rw [encSvR_iwFn]
  show some _ = some _
  rw [encSvR_iwA, encSvR_iwB, encSvR_iwC, encSvR_at6, encSvR_bit5, encSvR_at0]
theorem Encoded.mneg (w : Fin 256) (vd vs1 vs2 : BitVec 5) (et : BitVec 3) (m : Bool) (aux : BitVec 5) : Encoded.Statement (.mneg w vd vs1 vs2 et m aux) := by
  rintro _ _ ⟨⟩
  unfold wickDecode
  rw [encSvR_iwOp]
  show decodeSvModular _ _ = _
  unfold decodeSvModular
  rw [encSvR_iwFn]
  show some _ = some _
  rw [encSvR_iwA, encSvR_iwB, encSvR_iwC, encSvR_at6, encSvR_bit5, encSvR_at0]
theorem Encoded.wmule (w : Fin 256) (vd vs1 vs2 : BitVec 5) (et : BitVec 3) (m : Bool) (aux : BitVec 5) : Encoded.Statement (.wmule w vd vs1 vs2 et m aux) := by
  rintro _ _ ⟨⟩
  unfold wickDecode
  rw [encSvR_iwOp]
  show decodeSvWidening _ _ = _
  unfold decodeSvWidening
  rw [encSvR_iwFn]
  show some _ = some _
  rw [encSvR_iwA, encSvR_iwB, encSvR_iwC, encSvR_at6, encSvR_bit5, encSvR_at0]
theorem Encoded.wmulo (w : Fin 256) (vd vs1 vs2 : BitVec 5) (et : BitVec 3) (m : Bool) (aux : BitVec 5) : Encoded.Statement (.wmulo w vd vs1 vs2 et m aux) := by
  rintro _ _ ⟨⟩
  unfold wickDecode
  rw [encSvR_iwOp]
  show decodeSvWidening _ _ = _
  unfold decodeSvWidening
  rw [encSvR_iwFn]
  show some _ = some _
  rw [encSvR_iwA, encSvR_iwB, encSvR_iwC, encSvR_at6, encSvR_bit5, encSvR_at0]
theorem Encoded.dot (w : Fin 256) (vd vs1 vs2 : BitVec 5) (et : BitVec 3) (m : Bool) (aux : BitVec 5) : Encoded.Statement (.dot w vd vs1 vs2 et m aux) := by
  rintro _ _ ⟨⟩
  unfold wickDecode
  rw [encSvR_iwOp]
  show decodeSvWidening _ _ = _
  unfold decodeSvWidening
  rw [encSvR_iwFn]
  show some _ = some _
  rw [encSvR_iwA, encSvR_iwB, encSvR_iwC, encSvR_at6, encSvR_bit5, encSvR_at0]
theorem Encoded.vsplat (w : Fin 256) (vd vs1 vs2 : BitVec 5) (et : BitVec 3) (m : Bool) (aux : BitVec 5) : Encoded.Statement (.vsplat w vd vs1 vs2 et m aux) := by
  rintro _ _ ⟨⟩
  unfold wickDecode
  rw [encSvR_iwOp]
  show decodeSvMove _ _ = _
  unfold decodeSvMove
  rw [encSvR_iwFn]
  show some _ = some _
  rw [encSvR_iwA, encSvR_iwB, encSvR_iwC, encSvR_at6, encSvR_bit5, encSvR_at0]
theorem Encoded.vins (w : Fin 256) (vd vs1 vs2 : BitVec 5) (et : BitVec 3) (m : Bool) (aux : BitVec 5) : Encoded.Statement (.vins w vd vs1 vs2 et m aux) := by
  rintro _ _ ⟨⟩
  unfold wickDecode
  rw [encSvR_iwOp]
  show decodeSvMove _ _ = _
  unfold decodeSvMove
  rw [encSvR_iwFn]
  show some _ = some _
  rw [encSvR_iwA, encSvR_iwB, encSvR_iwC, encSvR_at6, encSvR_bit5, encSvR_at0]
theorem Encoded.vext (w : Fin 256) (vd vs1 vs2 : BitVec 5) (et : BitVec 3) (m : Bool) (aux : BitVec 5) : Encoded.Statement (.vext w vd vs1 vs2 et m aux) := by
  rintro _ _ ⟨⟩
  unfold wickDecode
  rw [encSvR_iwOp]
  show decodeSvMove _ _ = _
  unfold decodeSvMove
  rw [encSvR_iwFn]
  show some _ = some _
  rw [encSvR_iwA, encSvR_iwB, encSvR_iwC, encSvR_at6, encSvR_bit5, encSvR_at0]
theorem Encoded.vswaph (w : Fin 256) (vd vs1 vs2 : BitVec 5) (et : BitVec 3) (m : Bool) (aux : BitVec 5) : Encoded.Statement (.vswaph w vd vs1 vs2 et m aux) := by
  rintro _ _ ⟨⟩
  unfold wickDecode
  rw [encSvR_iwOp]
  show decodeSvMove _ _ = _
  unfold decodeSvMove
  rw [encSvR_iwFn]
  show some _ = some _
  rw [encSvR_iwA, encSvR_iwB, encSvR_iwC, encSvR_at6, encSvR_bit5, encSvR_at0]
theorem Encoded.vmov (w : Fin 256) (vd vs1 vs2 : BitVec 5) (et : BitVec 3) (m : Bool) (aux : BitVec 5) : Encoded.Statement (.vmov w vd vs1 vs2 et m aux) := by
  rintro _ _ ⟨⟩
  unfold wickDecode
  rw [encSvR_iwOp]
  show decodeSvMove _ _ = _
  unfold decodeSvMove
  rw [encSvR_iwFn]
  show some _ = some _
  rw [encSvR_iwA, encSvR_iwB, encSvR_iwC, encSvR_at6, encSvR_bit5, encSvR_at0]
theorem Encoded.vzero (w : Fin 256) (vd vs1 vs2 : BitVec 5) (et : BitVec 3) (m : Bool) (aux : BitVec 5) : Encoded.Statement (.vzero w vd vs1 vs2 et m aux) := by
  rintro _ _ ⟨⟩
  unfold wickDecode
  rw [encSvR_iwOp]
  show decodeSvMove _ _ = _
  unfold decodeSvMove
  rw [encSvR_iwFn]
  show some _ = some _
  rw [encSvR_iwA, encSvR_iwB, encSvR_iwC, encSvR_at6, encSvR_bit5, encSvR_at0]
theorem Encoded.vld (w : Fin 256) (vd rs1 : BitVec 5) (imm : BitVec 11) (nf : BitVec 2) (m : Bool) (et : BitVec 3) (rsv : BitVec 2) : Encoded.Statement (.vld w vd rs1 imm nf m et rsv) := by
  rintro _ _ ⟨⟩
  unfold wickDecode
  rw [encSvM_iwOp]
  show decodeSvTransfer _ _ = _
  unfold decodeSvTransfer
  simp only [encSvM_bit8, reduceIte, Bool.false_eq_true]
  rw [encSvM_iwA, encSvM_iwB, encSvM_at9, encSvM_at6, encSvM_bit5, encSvM_at2, encSvM_at0]
theorem Encoded.vst (w : Fin 256) (vd rs1 : BitVec 5) (imm : BitVec 11) (nf : BitVec 2) (m : Bool) (et : BitVec 3) (rsv : BitVec 2) : Encoded.Statement (.vst w vd rs1 imm nf m et rsv) := by
  rintro _ _ ⟨⟩
  unfold wickDecode
  rw [encSvM_iwOp]
  show decodeSvTransfer _ _ = _
  unfold decodeSvTransfer
  simp only [encSvM_bit8, reduceIte]
  rw [encSvM_iwA, encSvM_iwB, encSvM_at9, encSvM_at6, encSvM_bit5, encSvM_at2, encSvM_at0]
theorem Encoded.mask (w : Fin 256) (vd vs1 vs2 : BitVec 5) (et : BitVec 3) (m : Bool) (aux : BitVec 5) : Encoded.Statement (.mask w vd vs1 vs2 et m aux) := by
  rintro _ _ ⟨⟩
  unfold wickDecode
  rw [encSvR_iwOp]
  show decodeSvMasking _ _ = _
  unfold decodeSvMasking
  rw [encSvR_iwFn]
  show some _ = some _
  rw [encSvR_iwA, encSvR_iwB, encSvR_iwC, encSvR_at6, encSvR_bit5, encSvR_at0]
theorem Encoded.refresh (w : Fin 256) (vd vs1 vs2 : BitVec 5) (et : BitVec 3) (m : Bool) (aux : BitVec 5) : Encoded.Statement (.refresh w vd vs1 vs2 et m aux) := by
  rintro _ _ ⟨⟩
  unfold wickDecode
  rw [encSvR_iwOp]
  show decodeSvMasking _ _ = _
  unfold decodeSvMasking
  rw [encSvR_iwFn]
  show some _ = some _
  rw [encSvR_iwA, encSvR_iwB, encSvR_iwC, encSvR_at6, encSvR_bit5, encSvR_at0]
theorem Encoded.unm (w : Fin 256) (vd vs1 vs2 : BitVec 5) (et : BitVec 3) (m : Bool) (aux : BitVec 5) : Encoded.Statement (.unm w vd vs1 vs2 et m aux) := by
  rintro _ _ ⟨⟩
  unfold wickDecode
  rw [encSvR_iwOp]
  show decodeSvMasking _ _ = _
  unfold decodeSvMasking
  rw [encSvR_iwFn]
  show some _ = some _
  rw [encSvR_iwA, encSvR_iwB, encSvR_iwC, encSvR_at6, encSvR_bit5, encSvR_at0]
theorem Encoded.unmg (w : Fin 256) (vd vs1 vs2 : BitVec 5) (et : BitVec 3) (m : Bool) (aux : BitVec 5) : Encoded.Statement (.unmg w vd vs1 vs2 et m aux) := by
  rintro _ _ ⟨⟩
  unfold wickDecode
  rw [encSvR_iwOp]
  show decodeSvMasking _ _ = _
  unfold decodeSvMasking
  rw [encSvR_iwFn]
  show some _ = some _
  rw [encSvR_iwA, encSvR_iwB, encSvR_iwC, encSvR_at6, encSvR_bit5, encSvR_at0]
theorem Encoded.vkey (w : Fin 256) (vd vs1 vs2 : BitVec 5) (et : BitVec 3) (m : Bool) (aux : BitVec 5) : Encoded.Statement (.vkey w vd vs1 vs2 et m aux) := by
  rintro _ _ ⟨⟩
  unfold wickDecode
  rw [encSvR_iwOp]
  show decodeSvMasking _ _ = _
  unfold decodeSvMasking
  rw [encSvR_iwFn]
  show some _ = some _
  rw [encSvR_iwA, encSvR_iwB, encSvR_iwC, encSvR_at6, encSvR_bit5, encSvR_at0]
theorem Encoded.a2b (w : Fin 256) (vd vs1 vs2 : BitVec 5) (et : BitVec 3) (m : Bool) (aux : BitVec 5) : Encoded.Statement (.a2b w vd vs1 vs2 et m aux) := by
  rintro _ _ ⟨⟩
  unfold wickDecode
  rw [encSvR_iwOp]
  show decodeSvMasking _ _ = _
  unfold decodeSvMasking
  rw [encSvR_iwFn]
  show some _ = some _
  rw [encSvR_iwA, encSvR_iwB, encSvR_iwC, encSvR_at6, encSvR_bit5, encSvR_at0]
theorem Encoded.b2a (w : Fin 256) (vd vs1 vs2 : BitVec 5) (et : BitVec 3) (m : Bool) (aux : BitVec 5) : Encoded.Statement (.b2a w vd vs1 vs2 et m aux) := by
  rintro _ _ ⟨⟩
  unfold wickDecode
  rw [encSvR_iwOp]
  show decodeSvMasking _ _ = _
  unfold decodeSvMasking
  rw [encSvR_iwFn]
  show some _ = some _
  rw [encSvR_iwA, encSvR_iwB, encSvR_iwC, encSvR_at6, encSvR_bit5, encSvR_at0]
theorem Encoded.a2bq (w : Fin 256) (vd vs1 vs2 : BitVec 5) (et : BitVec 3) (m : Bool) (aux : BitVec 5) : Encoded.Statement (.a2bq w vd vs1 vs2 et m aux) := by
  rintro _ _ ⟨⟩
  unfold wickDecode
  rw [encSvR_iwOp]
  show decodeSvMasking _ _ = _
  unfold decodeSvMasking
  rw [encSvR_iwFn]
  show some _ = some _
  rw [encSvR_iwA, encSvR_iwB, encSvR_iwC, encSvR_at6, encSvR_bit5, encSvR_at0]
theorem Encoded.b2aq (w : Fin 256) (vd vs1 vs2 : BitVec 5) (et : BitVec 3) (m : Bool) (aux : BitVec 5) : Encoded.Statement (.b2aq w vd vs1 vs2 et m aux) := by
  rintro _ _ ⟨⟩
  unfold wickDecode
  rw [encSvR_iwOp]
  show decodeSvMasking _ _ = _
  unfold decodeSvMasking
  rw [encSvR_iwFn]
  show some _ = some _
  rw [encSvR_iwA, encSvR_iwB, encSvR_iwC, encSvR_at6, encSvR_bit5, encSvR_at0]
theorem Encoded.shroudRekey (w : Fin 256) : Encoded.Statement (.shroudRekey w) := nofun
theorem Encoded.fvAdd (w : Fin 256) (fd fs1 fs2 : BitVec 4) (ft : BitVec 2) (rsv : BitVec 10) : Encoded.Statement (.fvAdd w fd fs1 fs2 ft rsv) := by
  rintro _ _ ⟨⟩
  unfold wickDecode
  rw [encFR_iwOp]
  show decodeFv _ _ = _
  unfold decodeFv
  rw [encFR_at10]
  show some _ = some _
  rw [encFR_at26, encFR_at22, encFR_at18, encFR_at16, encFR_at0]
theorem Encoded.fvSub (w : Fin 256) (fd fs1 fs2 : BitVec 4) (ft : BitVec 2) (rsv : BitVec 10) : Encoded.Statement (.fvSub w fd fs1 fs2 ft rsv) := by
  rintro _ _ ⟨⟩
  unfold wickDecode
  rw [encFR_iwOp]
  show decodeFv _ _ = _
  unfold decodeFv
  rw [encFR_at10]
  show some _ = some _
  rw [encFR_at26, encFR_at22, encFR_at18, encFR_at16, encFR_at0]
theorem Encoded.fvAnd (w : Fin 256) (fd fs1 fs2 : BitVec 4) (ft : BitVec 2) (rsv : BitVec 10) : Encoded.Statement (.fvAnd w fd fs1 fs2 ft rsv) := by
  rintro _ _ ⟨⟩
  unfold wickDecode
  rw [encFR_iwOp]
  show decodeFv _ _ = _
  unfold decodeFv
  rw [encFR_at10]
  show some _ = some _
  rw [encFR_at26, encFR_at22, encFR_at18, encFR_at16, encFR_at0]
theorem Encoded.fvOr (w : Fin 256) (fd fs1 fs2 : BitVec 4) (ft : BitVec 2) (rsv : BitVec 10) : Encoded.Statement (.fvOr w fd fs1 fs2 ft rsv) := by
  rintro _ _ ⟨⟩
  unfold wickDecode
  rw [encFR_iwOp]
  show decodeFv _ _ = _
  unfold decodeFv
  rw [encFR_at10]
  show some _ = some _
  rw [encFR_at26, encFR_at22, encFR_at18, encFR_at16, encFR_at0]
theorem Encoded.fvXor (w : Fin 256) (fd fs1 fs2 : BitVec 4) (ft : BitVec 2) (rsv : BitVec 10) : Encoded.Statement (.fvXor w fd fs1 fs2 ft rsv) := by
  rintro _ _ ⟨⟩
  unfold wickDecode
  rw [encFR_iwOp]
  show decodeFv _ _ = _
  unfold decodeFv
  rw [encFR_at10]
  show some _ = some _
  rw [encFR_at26, encFR_at22, encFR_at18, encFR_at16, encFR_at0]
theorem Encoded.fvAndn (w : Fin 256) (fd fs1 fs2 : BitVec 4) (ft : BitVec 2) (rsv : BitVec 10) : Encoded.Statement (.fvAndn w fd fs1 fs2 ft rsv) := by
  rintro _ _ ⟨⟩
  unfold wickDecode
  rw [encFR_iwOp]
  show decodeFv _ _ = _
  unfold decodeFv
  rw [encFR_at10]
  show some _ = some _
  rw [encFR_at26, encFR_at22, encFR_at18, encFR_at16, encFR_at0]
theorem Encoded.fvMullo (w : Fin 256) (fd fs1 fs2 : BitVec 4) (ft : BitVec 2) (rsv : BitVec 10) : Encoded.Statement (.fvMullo w fd fs1 fs2 ft rsv) := by
  rintro _ _ ⟨⟩
  unfold wickDecode
  rw [encFR_iwOp]
  show decodeFv _ _ = _
  unfold decodeFv
  rw [encFR_at10]
  show some _ = some _
  rw [encFR_at26, encFR_at22, encFR_at18, encFR_at16, encFR_at0]
theorem Encoded.fvMulhu (w : Fin 256) (fd fs1 fs2 : BitVec 4) (ft : BitVec 2) (rsv : BitVec 10) : Encoded.Statement (.fvMulhu w fd fs1 fs2 ft rsv) := by
  rintro _ _ ⟨⟩
  unfold wickDecode
  rw [encFR_iwOp]
  show decodeFv _ _ = _
  unfold decodeFv
  rw [encFR_at10]
  show some _ = some _
  rw [encFR_at26, encFR_at22, encFR_at18, encFR_at16, encFR_at0]
theorem Encoded.fvSll (w : Fin 256) (fd fs1 fs2 : BitVec 4) (ft : BitVec 2) (rsv : BitVec 10) : Encoded.Statement (.fvSll w fd fs1 fs2 ft rsv) := by
  rintro _ _ ⟨⟩
  unfold wickDecode
  rw [encFR_iwOp]
  show decodeFv _ _ = _
  unfold decodeFv
  rw [encFR_at10]
  show some _ = some _
  rw [encFR_at26, encFR_at22, encFR_at18, encFR_at16, encFR_at0]
theorem Encoded.fvSrl (w : Fin 256) (fd fs1 fs2 : BitVec 4) (ft : BitVec 2) (rsv : BitVec 10) : Encoded.Statement (.fvSrl w fd fs1 fs2 ft rsv) := by
  rintro _ _ ⟨⟩
  unfold wickDecode
  rw [encFR_iwOp]
  show decodeFv _ _ = _
  unfold decodeFv
  rw [encFR_at10]
  show some _ = some _
  rw [encFR_at26, encFR_at22, encFR_at18, encFR_at16, encFR_at0]
theorem Encoded.fvSra (w : Fin 256) (fd fs1 fs2 : BitVec 4) (ft : BitVec 2) (rsv : BitVec 10) : Encoded.Statement (.fvSra w fd fs1 fs2 ft rsv) := by
  rintro _ _ ⟨⟩
  unfold wickDecode
  rw [encFR_iwOp]
  show decodeFv _ _ = _
  unfold decodeFv
  rw [encFR_at10]
  show some _ = some _
  rw [encFR_at26, encFR_at22, encFR_at18, encFR_at16, encFR_at0]
theorem Encoded.fvMinu (w : Fin 256) (fd fs1 fs2 : BitVec 4) (ft : BitVec 2) (rsv : BitVec 10) : Encoded.Statement (.fvMinu w fd fs1 fs2 ft rsv) := by
  rintro _ _ ⟨⟩
  unfold wickDecode
  rw [encFR_iwOp]
  show decodeFv _ _ = _
  unfold decodeFv
  rw [encFR_at10]
  show some _ = some _
  rw [encFR_at26, encFR_at22, encFR_at18, encFR_at16, encFR_at0]
theorem Encoded.fvMaxu (w : Fin 256) (fd fs1 fs2 : BitVec 4) (ft : BitVec 2) (rsv : BitVec 10) : Encoded.Statement (.fvMaxu w fd fs1 fs2 ft rsv) := by
  rintro _ _ ⟨⟩
  unfold wickDecode
  rw [encFR_iwOp]
  show decodeFv _ _ = _
  unfold decodeFv
  rw [encFR_at10]
  show some _ = some _
  rw [encFR_at26, encFR_at22, encFR_at18, encFR_at16, encFR_at0]
theorem Encoded.fvCmpeq (w : Fin 256) (fd fs1 fs2 : BitVec 4) (ft : BitVec 2) (rsv : BitVec 10) : Encoded.Statement (.fvCmpeq w fd fs1 fs2 ft rsv) := by
  rintro _ _ ⟨⟩
  unfold wickDecode
  rw [encFR_iwOp]
  show decodeFv _ _ = _
  unfold decodeFv
  rw [encFR_at10]
  show some _ = some _
  rw [encFR_at26, encFR_at22, encFR_at18, encFR_at16, encFR_at0]
theorem Encoded.fvCmpgtu (w : Fin 256) (fd fs1 fs2 : BitVec 4) (ft : BitVec 2) (rsv : BitVec 10) : Encoded.Statement (.fvCmpgtu w fd fs1 fs2 ft rsv) := by
  rintro _ _ ⟨⟩
  unfold wickDecode
  rw [encFR_iwOp]
  show decodeFv _ _ = _
  unfold decodeFv
  rw [encFR_at10]
  show some _ = some _
  rw [encFR_at26, encFR_at22, encFR_at18, encFR_at16, encFR_at0]
theorem Encoded.fvAddsu (w : Fin 256) (fd fs1 fs2 : BitVec 4) (ft : BitVec 2) (rsv : BitVec 10) : Encoded.Statement (.fvAddsu w fd fs1 fs2 ft rsv) := by
  rintro _ _ ⟨⟩
  unfold wickDecode
  rw [encFR_iwOp]
  show decodeFv _ _ = _
  unfold decodeFv
  rw [encFR_at10]
  show some _ = some _
  rw [encFR_at26, encFR_at22, encFR_at18, encFR_at16, encFR_at0]
theorem Encoded.fvTbl (w : Fin 256) (fd fs1 fs2 : BitVec 4) (ft : BitVec 2) (rsv : BitVec 10) : Encoded.Statement (.fvTbl w fd fs1 fs2 ft rsv) := by
  rintro _ _ ⟨⟩
  unfold wickDecode
  rw [encFR_iwOp]
  show decodeFv _ _ = _
  unfold decodeFv
  rw [encFR_at10]
  show some _ = some _
  rw [encFR_at26, encFR_at22, encFR_at18, encFR_at16, encFR_at0]
theorem Encoded.fvSlli (w : Fin 256) (fd fs1 : BitVec 4) (ft : BitVec 2) (amount : BitVec 6) (rsv : BitVec 10) : Encoded.Statement (.fvSlli w fd fs1 ft amount rsv) := by
  rintro _ _ ⟨⟩
  unfold wickDecode
  rw [encFR_iwOp]
  show decodeFvShift _ _ = _
  unfold decodeFvShift
  rw [encFR_at18]
  show some _ = some _
  rw [encFR_at26, encFR_at22, encFR_at16, encFR_at10, encFR_at0]
theorem Encoded.fvSrli (w : Fin 256) (fd fs1 : BitVec 4) (ft : BitVec 2) (amount : BitVec 6) (rsv : BitVec 10) : Encoded.Statement (.fvSrli w fd fs1 ft amount rsv) := by
  rintro _ _ ⟨⟩
  unfold wickDecode
  rw [encFR_iwOp]
  show decodeFvShift _ _ = _
  unfold decodeFvShift
  rw [encFR_at18]
  show some _ = some _
  rw [encFR_at26, encFR_at22, encFR_at16, encFR_at10, encFR_at0]
theorem Encoded.fvSrai (w : Fin 256) (fd fs1 : BitVec 4) (ft : BitVec 2) (amount : BitVec 6) (rsv : BitVec 10) : Encoded.Statement (.fvSrai w fd fs1 ft amount rsv) := by
  rintro _ _ ⟨⟩
  unfold wickDecode
  rw [encFR_iwOp]
  show decodeFvShift _ _ = _
  unfold decodeFvShift
  rw [encFR_at18]
  show some _ = some _
  rw [encFR_at26, encFR_at22, encFR_at16, encFR_at10, encFR_at0]
theorem Encoded.fvRoli (w : Fin 256) (fd fs1 : BitVec 4) (ft : BitVec 2) (amount : BitVec 6) (rsv : BitVec 10) : Encoded.Statement (.fvRoli w fd fs1 ft amount rsv) := by
  rintro _ _ ⟨⟩
  unfold wickDecode
  rw [encFR_iwOp]
  show decodeFvShift _ _ = _
  unfold decodeFvShift
  rw [encFR_at18]
  show some _ = some _
  rw [encFR_at26, encFR_at22, encFR_at16, encFR_at10, encFR_at0]
theorem Encoded.fld (w : Fin 256) (fd : BitVec 4) (rs1 : BitVec 5) (rsv : BitVec 1) (imm : BitVec 20) : Encoded.Statement (.fld w fd rs1 rsv imm) := by
  rintro _ _ ⟨⟩
  unfold wickDecode
  rw [encFM_iwOp]
  show some _ = some _
  rw [encFM_at26, encFM_at21, encFM_at20, encFM_iwImm20]
theorem Encoded.fst (w : Fin 256) (fd : BitVec 4) (rs1 : BitVec 5) (rsv : BitVec 1) (imm : BitVec 20) : Encoded.Statement (.fst w fd rs1 rsv imm) := by
  rintro _ _ ⟨⟩
  unfold wickDecode
  rw [encFM_iwOp]
  show some _ = some _
  rw [encFM_at26, encFM_at21, encFM_at20, encFM_iwImm20]
theorem Encoded.fmvgf (w : Fin 256) (g : BitVec 5) (f : BitVec 4) (ft : BitVec 2) (lane : BitVec 4) (rsv : BitVec 9) : Encoded.Statement (.fmvgf w g f ft lane rsv) := by
  rintro _ _ ⟨⟩
  unfold wickDecode
  rw [encFX_iwOp]
  show decodeFvMove _ _ = _
  unfold decodeFvMove
  rw [encFX_at13]
  show some _ = some _
  rw [encFX_iwA, encFX_at21, encFX_at19, encFX_at9, encFX_iwLow9]
theorem Encoded.fmvfg (w : Fin 256) (g : BitVec 5) (f : BitVec 4) (ft : BitVec 2) (lane : BitVec 4) (rsv : BitVec 9) : Encoded.Statement (.fmvfg w g f ft lane rsv) := by
  rintro _ _ ⟨⟩
  unfold wickDecode
  rw [encFX_iwOp]
  show decodeFvMove _ _ = _
  unfold decodeFvMove
  rw [encFX_at13]
  show some _ = some _
  rw [encFX_iwA, encFX_at21, encFX_at19, encFX_at9, encFX_iwLow9]
theorem Encoded.fsplat (w : Fin 256) (g : BitVec 5) (f : BitVec 4) (ft : BitVec 2) (lane : BitVec 4) (rsv : BitVec 9) : Encoded.Statement (.fsplat w g f ft lane rsv) := by
  rintro _ _ ⟨⟩
  unfold wickDecode
  rw [encFX_iwOp]
  show decodeFvMove _ _ = _
  unfold decodeFvMove
  rw [encFX_at13]
  show some _ = some _
  rw [encFX_iwA, encFX_at21, encFX_at19, encFX_at9, encFX_iwLow9]
theorem Encoded.fvWakeComplete (w : Fin 256) : Encoded.Statement (.fvWakeComplete w) := nofun
theorem Encoded.fvIdleExpiry (w : Fin 256) : Encoded.Statement (.fvIdleExpiry w) := nofun
theorem Encoded.fvWakeTimeout (w : Fin 256) : Encoded.Statement (.fvWakeTimeout w) := nofun
theorem Encoded.taperMicroword (taper : Fin 8) (word : BitVec 128) (ecc : WordEcc) : Encoded.Statement (.taperMicroword taper word ecc) := nofun
theorem Encoded.taperWaitRelease (taper : Fin 8) : Encoded.Statement (.taperWaitRelease taper) := nofun
theorem Encoded.taperWaitWatchdog (taper : Fin 8) : Encoded.Statement (.taperWaitWatchdog taper) := nofun
theorem Encoded.taperWipe (taper : Fin 8) (readbackZero : Bool) : Encoded.Statement (.taperWipe taper readbackZero) := nofun
theorem Encoded.strikeClear (taper : Fin 8) : Encoded.Statement (.strikeClear taper) := nofun
theorem Encoded.reservoirGrant (channel : Fin 64) (arrivals : List ChannelRequest) : Encoded.Statement (.reservoirGrant channel arrivals) := nofun
theorem Encoded.lineRead (line : Nat) (reader : UnitId) (first second : Bytes) : Encoded.Statement (.lineRead line reader first second) := nofun
theorem Encoded.tenancyClearComplete (slice : Fin 512) : Encoded.Statement (.tenancyClearComplete slice) := nofun
theorem Encoded.reservoirClearComplete : Encoded.Statement (.reservoirClearComplete) := nofun
theorem Encoded.hostWindowWrite (path : Path) (slice : Fin 512) (window : Fin 64) (value : BitVec 64) : Encoded.Statement (.hostWindowWrite path slice window value) := nofun
theorem Encoded.vspDataReceived (port : Fin 256) (frame : VspFrame) : Encoded.Statement (.vspDataReceived port frame) := nofun
theorem Encoded.vspCreditReceived (port : Fin 256) (frame : VspFrame) : Encoded.Statement (.vspCreditReceived port frame) := nofun
theorem Encoded.vspRateReceived (port : Fin 256) (frame : VspFrame) : Encoded.Statement (.vspRateReceived port frame) := nofun
theorem Encoded.vspStatusReceived (port : Fin 256) (frame : VspFrame) : Encoded.Statement (.vspStatusReceived port frame) := nofun
theorem Encoded.endObject (port : Fin 256) (frame : VspFrame) : Encoded.Statement (.endObject port frame) := nofun
theorem Encoded.endOfData (port : Fin 256) (frame : VspFrame) : Encoded.Statement (.endOfData port frame) := nofun
theorem Encoded.earlyWarning (port : Fin 256) (frame : VspFrame) : Encoded.Statement (.earlyWarning port frame) := nofun
theorem Encoded.mediumWrite (port : Fin 256) (frame : VspFrame) : Encoded.Statement (.mediumWrite port frame) := nofun
theorem Encoded.noMedium (port : Fin 256) (frame : VspFrame) : Encoded.Statement (.noMedium port frame) := nofun
theorem Encoded.mediumRead (port : Fin 256) (frame : VspFrame) : Encoded.Statement (.mediumRead port frame) := nofun
theorem Encoded.starved (port : Fin 256) (frame : VspFrame) : Encoded.Statement (.starved port frame) := nofun
theorem Encoded.unknownEpoch (port : Fin 256) (frame : VspFrame) : Encoded.Statement (.unknownEpoch port frame) := nofun
theorem Encoded.pacingEvaluation (stream : Fin 1024) : Encoded.Statement (.pacingEvaluation stream) := nofun
theorem Encoded.retransmitTimeout (stream : Fin 1024) : Encoded.Statement (.retransmitTimeout stream) := nofun
theorem Encoded.creditTimer (stream : Fin 1024) : Encoded.Statement (.creditTimer stream) := nofun
theorem Encoded.statusTimer (stream : Fin 1024) : Encoded.Statement (.statusTimer stream) := nofun
theorem Encoded.linkTimeout (stream : Fin 1024) : Encoded.Statement (.linkTimeout stream) := nofun
theorem Encoded.mediaPortLinkUp (port : Fin 256) : Encoded.Statement (.mediaPortLinkUp port) := nofun
theorem Encoded.streamEnable (path : Path) (stream : Fin 1024) : Encoded.Statement (.streamEnable path stream) := nofun
theorem Encoded.streamDisable (path : Path) (stream : Fin 1024) : Encoded.Statement (.streamDisable path stream) := nofun
theorem Encoded.hopRead (frame : HopFrame) : Encoded.Statement (.hopRead frame) := nofun
theorem Encoded.hopWrite (frame : HopFrame) : Encoded.Statement (.hopWrite frame) := nofun
theorem Encoded.hopInfo (frame : HopFrame) : Encoded.Statement (.hopInfo frame) := nofun
theorem Encoded.authBegin (frame : HopFrame) : Encoded.Statement (.authBegin frame) := nofun
theorem Encoded.authFinish (frame : HopFrame) : Encoded.Statement (.authFinish frame) := nofun
theorem Encoded.authEnd (frame : HopFrame) : Encoded.Statement (.authEnd frame) := nofun
theorem Encoded.hopWake (frame : HopFrame) : Encoded.Statement (.hopWake frame) := nofun
theorem Encoded.discover (frame : HopFrame) : Encoded.Statement (.discover frame) := nofun
theorem Encoded.hopAssemblyIdle (requester : Requester) : Encoded.Statement (.hopAssemblyIdle requester) := nofun
theorem Encoded.pendingSessionExpiry : Encoded.Statement (.pendingSessionExpiry) := nofun
theorem Encoded.authLockoutEnd : Encoded.Statement (.authLockoutEnd) := nofun
theorem Encoded.sessionIdleExpiry (session : BitVec 32) : Encoded.Statement (.sessionIdleExpiry session) := nofun
theorem Encoded.serverHandover (server : Server) : Encoded.Statement (.serverHandover server) := nofun
theorem Encoded.mbRead (link : Fin 8) (slice : Fin 512) (addr : BitVec 32) : Encoded.Statement (.mbRead link slice addr) := nofun
theorem Encoded.mbWrite (link : Fin 8) (slice : Fin 512) (addr : BitVec 32) (len : BitVec 32) (data : Bytes) : Encoded.Statement (.mbWrite link slice addr len data) := nofun
theorem Encoded.mbInfo (link : Fin 8) (slice : Fin 512) (addr : BitVec 32) : Encoded.Statement (.mbInfo link slice addr) := nofun
theorem Encoded.dictEntryWrite (path : Path) (index : BitVec 16) (sub : BitVec 8) (value : Bytes) : Encoded.Statement (.dictEntryWrite path index sub value) := nofun
theorem Encoded.counterClear (path : Path) (index : BitVec 16) (sub : BitVec 8) (value : Bytes) : Encoded.Statement (.counterClear path index sub value) := nofun
theorem Encoded.resetRequest (path : Path) (value : BitVec 8) : Encoded.Statement (.resetRequest path value) := nofun
theorem Encoded.transitionRequest (path : Path) (request : Bytes) (event : Option TransitionEvent) : Encoded.Statement (.transitionRequest path request event) := nofun
theorem Encoded.keyRowsProgram (path : Path) (value : BitVec 8) (powerKept : Bool) : Encoded.Statement (.keyRowsProgram path value powerKept) := nofun
theorem Encoded.flashWriteData (path : Path) (value : Bytes) : Encoded.Statement (.flashWriteData path value) := nofun
theorem Encoded.retenant (path : Path) (slice : Fin 512) (change : TenancyChange) : Encoded.Statement (.retenant path slice change) := nofun
theorem Encoded.ownerSliceWrite (path : Path) (value : BitVec 16) : Encoded.Statement (.ownerSliceWrite path value) := nofun
theorem Encoded.timestampRestartedClear (path : Path) (value : BitVec 8) : Encoded.Statement (.timestampRestartedClear path value) := nofun
theorem Encoded.katRequest (path : Path) (value : BitVec 8) (failing : BitVec 18) : Encoded.Statement (.katRequest path value failing) := nofun
theorem Encoded.vaultSlotErase (path : Path) (slot : Fin 512) (value : BitVec 8) : Encoded.Statement (.vaultSlotErase path slot value) := nofun
theorem Encoded.relightRequest (path : Path) (unit : UnitId) (value : BitVec 8) : Encoded.Statement (.relightRequest path unit value) := nofun
theorem Encoded.testRequest (path : Path) (value : BitVec 8) : Encoded.Statement (.testRequest path value) := nofun
theorem Encoded.testDeadline : Encoded.Statement (.testDeadline) := nofun
theorem Encoded.testSuppressionEnd : Encoded.Statement (.testSuppressionEnd) := nofun
theorem Encoded.levelWrite (path : Path) (sconce : Fin 16) (level : BitVec 8) : Encoded.Statement (.levelWrite path sconce level) := nofun
theorem Encoded.levelChangeComplete (sconce : Fin 16) : Encoded.Statement (.levelChangeComplete sconce) := nofun
theorem Encoded.sconceDisable (path : Path) (sconce : Fin 16) : Encoded.Statement (.sconceDisable path sconce) := nofun
theorem Encoded.sconcePowerDown (sconce : Fin 16) : Encoded.Statement (.sconcePowerDown sconce) := nofun
theorem Encoded.sconceEnable (path : Path) (sconce : Fin 16) : Encoded.Statement (.sconceEnable path sconce) := nofun
theorem Encoded.sconceReady (sconce : Fin 16) : Encoded.Statement (.sconceReady sconce) := nofun
theorem Encoded.requestLow (path : Path) : Encoded.Statement (.requestLow path) := nofun
theorem Encoded.requestDark (path : Path) : Encoded.Statement (.requestDark path) := nofun
theorem Encoded.requestLit (path : Path) : Encoded.Statement (.requestLit path) := nofun
theorem Encoded.lowIdleExpiry : Encoded.Statement (.lowIdleExpiry) := nofun
theorem Encoded.darkAfterLowExpiry : Encoded.Statement (.darkAfterLowExpiry) := nofun
theorem Encoded.wakePin (pin : Fin 8) (high : Bool) : Encoded.Statement (.wakePin pin high) := nofun
theorem Encoded.hostWake (slot : Fin 2048) : Encoded.Statement (.hostWake slot) := nofun
theorem Encoded.wakeAtTime : Encoded.Statement (.wakeAtTime) := nofun
theorem Encoded.vstbyLoss : Encoded.Statement (.vstbyLoss) := nofun
theorem Encoded.vstbyReturn : Encoded.Statement (.vstbyReturn) := nofun
theorem Encoded.pilotPowerUp : Encoded.Statement (.pilotPowerUp) := nofun
theorem Encoded.mainEnAssert : Encoded.Statement (.mainEnAssert) := nofun
theorem Encoded.railsInRange : Encoded.Statement (.railsInRange) := nofun
theorem Encoded.railStartTimeout : Encoded.Statement (.railStartTimeout) := nofun
theorem Encoded.railDrop (rail : Fin 8) : Encoded.Statement (.railDrop rail) := nofun
theorem Encoded.resetN : Encoded.Statement (.resetN) := nofun
theorem Encoded.haltRelease (byRails : Bool) : Encoded.Statement (.haltRelease byRails) := nofun
theorem Encoded.boot (readOk0 readOk1 : Bool) (board0 board1 : Option Bytes) : Encoded.Statement (.boot readOk0 readOk1 board0 board1) := nofun
theorem Encoded.litEntry : Encoded.Statement (.litEntry) := nofun
theorem Encoded.criticalPhasePowerLoss (path : Path) (request : Bytes) (blown : Nat) : Encoded.Statement (.criticalPhasePowerLoss path request blown) := nofun
theorem Encoded.mantleAlarm (line : Fin 64) : Encoded.Statement (.mantleAlarm line) := nofun
theorem Encoded.supplyGlitchAlarm (rail : BitVec 8) : Encoded.Statement (.supplyGlitchAlarm rail) := nofun
theorem Encoded.clockAlarm (hubClock : Bool) : Encoded.Statement (.clockAlarm hubClock) := nofun
theorem Encoded.temperatureAlarm (sensor : Fin 17) (reading : BitVec 16) : Encoded.Statement (.temperatureAlarm sensor reading) := nofun
theorem Encoded.lightAlarm (diode : Fin 8) : Encoded.Statement (.lightAlarm diode) := nofun
theorem Encoded.loopSample (isOpen : BitVec 4) : Encoded.Statement (.loopSample isOpen) := nofun
theorem Encoded.integrityBurstAlarm : Encoded.Statement (.integrityBurstAlarm) := nofun
theorem Encoded.alarmRearm (source : Fin 10) : Encoded.Statement (.alarmRearm source) := nofun
theorem Encoded.drbgInstantiate (inst : Fin 17) : Encoded.Statement (.drbgInstantiate inst) := nofun
theorem Encoded.emberHealthFailure (ember : Fin 4) : Encoded.Statement (.emberHealthFailure ember) := nofun
theorem Encoded.emberRetry (ember : Fin 4) : Encoded.Statement (.emberRetry ember) := nofun
theorem Encoded.emberStartupTestEnd (ember : Fin 4) (passed : Bool) : Encoded.Statement (.emberStartupTestEnd ember passed) := nofun
theorem Encoded.blockComplete (ember : EmberBlock) : Encoded.Statement (.blockComplete ember) := nofun
theorem Encoded.drbgReseed (inst : Fin 17) : Encoded.Statement (.drbgReseed inst) := nofun
theorem Encoded.gutterTimeout : Encoded.Statement (.gutterTimeout) := nofun
theorem Encoded.faultReport (code : BitVec 16) (detector accused slice : UnitId) (detail : BitVec 64) : Encoded.Statement (.faultReport code detector accused slice detail) := nofun
theorem Encoded.flitIntegrityFailure (detector : UnitId) : Encoded.Statement (.flitIntegrityFailure detector) := nofun
theorem Encoded.eventWindowClose (accused : UnitId) (code : BitVec 16) : Encoded.Statement (.eventWindowClose accused code) := nofun
theorem Encoded.quietExpiry : Encoded.Statement (.quietExpiry) := nofun
theorem Encoded.selfTestComplete (unit : UnitId) (passed : Bool) : Encoded.Statement (.selfTestComplete unit passed) := nofun
theorem Encoded.dumpComplete : Encoded.Statement (.dumpComplete) := nofun
theorem Encoded.fatalHoldExpiry : Encoded.Statement (.fatalHoldExpiry) := nofun
theorem Encoded.lamplighterWatchdog : Encoded.Statement (.lamplighterWatchdog) := nofun
theorem Encoded.deviceReset (cause : BitVec 8) : Encoded.Statement (.deviceReset cause) := nofun
theorem Encoded.cycleBudgetExceeded (w : Fin 256) : Encoded.Statement (.cycleBudgetExceeded w) := nofun
theorem Encoded.debugAccess (region : DebugRegion) (write : Bool) : Encoded.Statement (.debugAccess region write) := nofun
theorem Encoded.sysclk25Loss : Encoded.Statement (.sysclk25Loss) := nofun
theorem Encoded.sysclk25Return : Encoded.Statement (.sysclk25Return) := nofun
theorem Encoded.vbatLoss : Encoded.Statement (.vbatLoss) := nofun
theorem Encoded.pauseFrame (port : Fin 256) (pause : PauseFrame) : Encoded.Statement (.pauseFrame port pause) := nofun
theorem Encoded.msixVectorUnmask (link : Fin 8) (what : MsixUnmask) : Encoded.Statement (.msixVectorUnmask link what) := nofun
theorem Encoded.slowClockTick : Encoded.Statement (.slowClockTick) := nofun
theorem Encoded.sensorSample (temps : List (BitVec 32)) (rails : List (BitVec 16)) (vbat : BitVec 16) : Encoded.Statement (.sensorSample temps rails vbat) := nofun

end Sys2Proof.Laws
end

