-- ==== Sys2Proof/Laws/Wick.lean ====
section
/-! SUPPORT. Laws of a wick's registers and memory, and what an instruction that reaches issue leaves behind. -/

namespace Sys2Proof.Machine

variable {s s0 t : State} {w : Nat} {x x0 y : Wick}

/-! ### Wicks in the state -/

@[simp] theorem State.wick_setWick (s : State) (w : Nat) (x : Wick) : (s.setWick w x).wick w = x := Table.get_set_same ..

theorem State.wick_setWick_other (s : State) {w v : Nat} (x : Wick) (h : v ≠ w) : (s.setWick w x).wick v = s.wick v := Table.get_set_other _ _ _ _ _ h

/-- A count touches the dictionary alone. -/
theorem State.bumpBy_frame (s : State) (key n : Nat) : ∃ d, s.bumpBy key n = { s with dict := d } := by
  refine ⟨(s.bumpBy key n).dict, ?_⟩
  unfold State.bumpBy
  simp only []
  split
  · rfl
  · split
    · rfl
    · split <;> rfl

theorem State.countPowerDown_frame (s : State) (a b : Island) : ∃ d, s.countPowerDown a b = { s with dict := d } := by
  unfold State.countPowerDown
  split
  · exact ⟨_, rfl⟩
  · exact State.bumpBy_frame _ _ _
  · exact ⟨_, rfl⟩

@[simp] theorem State.wick_countPowerDown (s : State) (a b : Island) (w : Nat) : (s.countPowerDown a b).wick w = s.wick w := by
  obtain ⟨d, e⟩ := State.countPowerDown_frame s a b
  rw [e]
  rfl

/-- What counts depends on the dictionary and the variant. -/
theorem State.dict_bumpBy_congr {s t : State} (hd : t.dict = s.dict) (hv : t.variant = s.variant) (key n : Nat) : (t.bumpBy key n).dict = (s.bumpBy key n).dict := by
  have he : t.entry key = s.entry key := by
    unfold State.entry
    rw [hd, hv]
  unfold State.bumpBy
  simp only [he]
  split
  · exact hd
  · split
    · simp only [State.setEntry, hd, hv]
    · split <;> simp only [State.setEntry, State.setEntryBit, State.entry, hd, hv]

theorem State.dict_countPowerDown (s : State) (n w : Nat) (x : Wick) (a b : Island) :
    (({ s with freeIndex := n } : State).setWick w x |>.countPowerDown a b).dict = (s.countPowerDown a b).dict := by
  unfold State.countPowerDown
  split
  · rfl
  · exact State.dict_bumpBy_congr (s := s) (t := ({ s with freeIndex := n } : State).setWick w x) rfl rfl _ _
  · rfl

theorem OnlyWick.set (s0 : State) (w : Nat) (x : Wick) (h : ∃ n, s0 = { s with freeIndex := n }) :
    OnlyWick s ((s0.setWick w x).countPowerDown (s.wick w).island x.island) w := by
  obtain ⟨n, rfl⟩ := h
  obtain ⟨d, e⟩ := State.countPowerDown_frame (({ s with freeIndex := n } : State).setWick w x) (s.wick w).island x.island
  refine ⟨?_, ?_, fun v hv => ?_⟩
  · rw [e]
    rfl
  · rw [State.wick_countPowerDown, State.wick_setWick, State.dict_countPowerDown]
  · rw [State.wick_countPowerDown, State.wick_setWick_other _ _ hv]
    rfl

/-! ### Registers -/

theorem low64_getLsbD (v : Word72) (i : Nat) : (low64 v).getLsbD i = (decide (i < 64) && v.getLsbD i) := by
  unfold low64
  simp only [BitVec.getLsbD_setWidth]
  by_cases h : i < 64
  · simp [h, show i < 72 by omega]
  · simp [h]

@[simp] theorem low64_low64 (v : Word72) : low64 (low64 v) = low64 v :=
  BitVec.eq_of_getLsbD_eq fun i _ => by
    rw [low64_getLsbD, low64_getLsbD]
    by_cases h : i < 64 <;> simp [h]

@[simp] theorem low64_setWidth (v : BitVec 64) : low64 (v.setWidth 72) = v.setWidth 72 :=
  BitVec.eq_of_getLsbD_eq fun i _ => by
    rw [low64_getLsbD]
    by_cases h : i < 64
    · simp [h]
    · simp [h, BitVec.getLsbD_of_ge v i (by omega)]

theorem Wick.reg_setReg (x : Wick) (rd r : BitVec 5) (v : Word72) (n : Nat) :
    (x.setReg rd v n).reg r = if r = rd ∧ r ≠ 0 then (if x.level1 then low64 v else v) else x.reg r := by
  by_cases h2 : r = 0
  · rw [if_neg (fun c => c.2 h2)]
    unfold Wick.reg
    rw [if_pos h2, if_pos h2]
  · unfold Wick.reg
    rw [if_neg h2, if_neg h2]
    unfold Wick.setReg
    by_cases h : rd = 0
    · rw [if_pos h, if_neg (fun c => h2 (c.1.trans h))]
    · rw [if_neg h]
      by_cases h3 : r = rd
      · rw [if_pos (show r = rd ∧ r ≠ 0 from ⟨h3, h2⟩), h3]
        exact Table.get_set_same ..
      · rw [if_neg (show ¬(r = rd ∧ r ≠ 0) from fun c => h3 c.1)]
        exact Table.get_set_other _ _ _ _ _ fun e => h3 (BitVec.eq_of_toNat_eq e)

theorem Wick.steady_setReg (x : Wick) (rd : BitVec 5) (v : Word72) (n : Nat) (g : Table Word72) : { (x.setReg rd v n).steady with g := g } = { x.steady with g := g } := by
  unfold Wick.setReg
  split <;> rfl

@[simp] theorem Wick.pc_setReg (x : Wick) (rd : BitVec 5) (v : Word72) (n : Nat) : (x.setReg rd v n).pc = x.pc := by
  unfold Wick.setReg
  split <;> rfl

@[simp] theorem Wick.steady_passTo (x : Wick) (n : Nat) : (x.passTo n).steady = x.steady := rfl
@[simp] theorem Wick.steady_advance (x : Wick) (t n : Nat) : (x.advance t n).steady = x.steady := rfl
@[simp] theorem Wick.pc_advance (x : Wick) (t n : Nat) : (x.advance t n).pc = x.pc + 1 := rfl

/-- What reads only a wick's steady part. -/
theorem Wick.of_steady {α : Sort _} (f : Wick → α) (hf : ∀ x, f x.steady = f x) (h : x0.steady = x.steady) : f x0 = f x := by
  rw [← hf x0, h, hf]

theorem Wick.reg_steady (h : x0.steady = x.steady) (r : BitVec 5) : x0.reg r = x.reg r := Wick.of_steady (fun x => x.reg r) (fun _ => rfl) h
theorem Wick.level1_steady (h : x0.steady = x.steady) : x0.level1 = x.level1 := Wick.of_steady Wick.level1 (fun _ => rfl) h
theorem Wick.word_steady (h : x0.steady = x.steady) (a : Nat) : x0.word a = x.word a := Wick.of_steady (fun x => x.word a) (fun _ => rfl) h
theorem Wick.secret_steady (h : x0.steady = x.steady) (a : Nat) : x0.secret a = x.secret a := Wick.of_steady (fun x => x.secret a) (fun _ => rfl) h
theorem Wick.address_steady (h : x0.steady = x.steady) {n : Nat} (r : BitVec 5) (i : BitVec n) : x0.address r i = x.address r i := by
  unfold Wick.address
  rw [Wick.reg_steady h]
theorem Wick.interlock_steady (h : x0.steady = x.steady) (as : List Nat) (b : Bool) : x0.interlock as b = x.interlock as b :=
  Wick.of_steady (fun x => x.interlock as b) (fun _ => rfl) h

/-! ### Issue -/

/-- What the state and the wick are when an instruction is judged: free values may have been drawn for the wait before it, and cycles have passed. -/
structure AtIssue (s : State) (w : Nat) (s0 : State) (x0 : Wick) : Prop where
  state : ∃ n, s0 = { s with freeIndex := n }
  steady : x0.steady = (s.wick w).steady
  pc : x0.pc = (s.wick w).pc
  shroud : ∀ n, (s.wick w).shroud.serves n → x0.shroud.serves n
  now : (s.wick w).stall = .none → s0 = s ∧ x0 = s.wick w

theorem Shroud.serves_produce {h : Shroud} {ds : List Nat} {n : Nat} (k : { h with due := ds }.serves n) (m : Nat) : { h.produce m with due := ds }.serves n := by
  obtain ⟨h1, h2, h3⟩ := k
  simp only [] at h1 h2 h3
  have e : (!h.keyed || h.rekeying) = false := by
    rw [h1, h2]
    rfl
  unfold Shroud.produce
  simp only [e, Bool.false_eq_true, if_false]
  refine ⟨h1, ?_, ?_⟩
  · simp only [decide_eq_false_iff_not, Nat.not_le]
    omega
  · simp only []
    omega

theorem Shroud.due_produce (h : Shroud) (m : Nat) : (h.produce m).due = h.due := by
  unfold Shroud.produce
  split <;> rfl

theorem Shroud.serves_take {h : Shroud} {n : Nat} (k : h.serves (n + 1)) : h.take.serves n := by
  obtain ⟨h1, h2, h3⟩ := k
  refine ⟨h1, h2, ?_⟩
  simp only [Shroud.take]
  omega

/-- Fewer words are served too. -/
theorem Shroud.serves_less {h : Shroud} {n m : Nat} (k : h.serves n) (hm : m ≤ n) : h.serves m := ⟨k.1, k.2.1, by have := k.2.2; omega⟩

theorem Shroud.serves_serve (ds : List Nat) : ∀ (a b n : Nat) (h : Shroud), { h with due := ds }.serves n → (Shroud.serve ds a b h).serves n := by
  induction ds with
  | nil => exact fun a b n h k => Shroud.serves_produce k (b - a)
  | cons d ds ih =>
    intro a b n h k
    unfold Shroud.serve
    split
    · exact Shroud.serves_produce k (b - a)
    · refine ih _ _ _ _ ?_
      obtain ⟨h1, h2, h3⟩ := Shroud.serves_produce k (d - a)
      refine ⟨h1, h2, ?_⟩
      simp only [Shroud.take, List.length_cons] at h3 ⊢
      omega

theorem Shroud.serves_run {h : Shroud} {n : Nat} (k : h.serves n) (a b : Nat) : (h.run a b).serves n := Shroud.serves_serve h.due a b n h k

theorem AtIssue.now_of (s : State) (w : Nat) : AtIssue s w s (s.wick w) := ⟨⟨s.freeIndex, rfl⟩, rfl, rfl, fun _ h => h, fun _ => ⟨rfl, rfl⟩⟩

theorem AtIssue.waited (s : State) (w n : Nat) (h : (s.wick w).stall ≠ .none) : AtIssue s w s.draw.2 ((s.wick w).passTo n) where
  state := ⟨_, rfl⟩
  steady := rfl
  pc := rfl
  shroud := fun _ k => Shroud.serves_run k _ _
  now := fun c => absurd c h

/-- An instruction that issues whenever it is judged. -/
theorem State.issue_ok {f : State → Wick → Issue} {p : State → Prop} (h : s.wickIssues w = true)
    (k : ∀ s0 x0, AtIssue s w s0 x0 → ∃ t y, f s0 x0 = .ok t y ∧ p ((t.setWick w { y with stall := .none, napping := false }).countPowerDown (s.wick w).island y.island)) :
    p (s.issue w f) := by
  unfold State.issue
  simp only [h, Bool.not_true, Bool.false_eq_true, if_false]
  by_cases e : (s.wick w).stall = .none
  · obtain ⟨t, y, h1, h2⟩ := k s (s.wick w) (AtIssue.now_of s w)
    simpa [e, h1] using h2
  · obtain ⟨t, y, h1, h2⟩ := k s.draw.2 _ (AtIssue.waited s w ((s.wick w).cycles + s.draw.1) e)
    simpa [e, h1] using h2

/-- An instruction that faults whenever it is judged. -/
theorem State.issue_fault {f : State → Wick → Issue} {e : WickFault} (h : s.wickIssues w = true)
    (k : ∀ s0 x0, AtIssue s w s0 x0 → f s0 x0 = .fault e) : s.issue w f = s.wickFault w e := by
  unfold State.issue
  simp only [h, Bool.not_true, Bool.false_eq_true, if_false]
  by_cases c : (s.wick w).stall = .none
  · simp [c, k s (s.wick w) (AtIssue.now_of s w)]
  · simp [c, k s.draw.2 _ (AtIssue.waited s w ((s.wick w).cycles + s.draw.1) c)]

/-- An instruction that ends the attempt's part on the wick: the state it leaves, at the state it was judged in. -/
theorem State.issue_ended {f : State → Wick → Issue} {p : State → Prop} (h : s.wickIssues w = true)
    (k : ∀ s0 x0, AtIssue s w s0 x0 → ∃ t, f s0 x0 = .ended t ∧ p t) : p (s.issue w f) := by
  unfold State.issue
  simp only [h, Bool.not_true, Bool.false_eq_true, if_false]
  by_cases e : (s.wick w).stall = .none
  · obtain ⟨t, h1, h2⟩ := k s (s.wick w) (AtIssue.now_of s w)
    simpa [e, h1] using h2
  · obtain ⟨t, h1, h2⟩ := k s.draw.2 _ (AtIssue.waited s w ((s.wick w).cycles + s.draw.1) e)
    simpa [e, h1] using h2

/-- The wick may not issue: nothing happens. -/
theorem State.issue_held {f : State → Wick → Issue} (h : s.wickIssues w = false) : s.issue w f = s := by
  simp [State.issue, h]

/-- The state an instruction leaves that issued on a wick. -/
theorem Issued.set (h : AtIssue s w s0 x0) (y : Wick) :
    Issued s ((s0.setWick w { y with stall := .none, napping := false }).countPowerDown (s.wick w).island y.island) w y.pc :=
  ⟨OnlyWick.set _ w { y with stall := .none, napping := false } h.state, by simp, by simp⟩

/-! ### Scalar instructions -/

/-- What a scalar instruction does: it writes its register. -/
theorem State.scalar_writes {legal : Wick → Bool} {rd : BitVec 5} {srcs : List (BitVec 5)} {n : Nat} {v : Wick → Word72} {u : Word72}
    (h : s.wickIssues w = true) (hl : ∀ x0, x0.steady = (s.wick w).steady → legal x0 = true)
    (hv : ∀ x0, x0.steady = (s.wick w).steady → (if x0.level1 then low64 (v x0) else v x0) = u) :
    Issued s (s.scalar w legal rd srcs n v) w ((s.wick w).pc + 1) ∧ RegIs (s.wick w) ((s.scalar w legal rd srcs n v).wick w) rd u ∧
      { ((s.scalar w legal rd srcs n v).wick w).steady with g := (s.wick w).g } = (s.wick w).steady := by
  unfold State.scalar
  refine State.issue_ok (p := fun t => Issued s t w ((s.wick w).pc + 1) ∧ RegIs (s.wick w) (t.wick w) rd u ∧ { (t.wick w).steady with g := (s.wick w).g } = (s.wick w).steady) h ?_
  intro s0 x0 k
  rw [hl x0 k.steady]
  refine ⟨_, _, rfl, ?_, ?_, ?_⟩
  · have e : ((x0.advance (x0.issueAt srcs [] [] 0) 1).setReg rd (v x0) (x0.issueAt srcs [] [] 0 + n)).pc = (s.wick w).pc + 1 := by simp [Wick.advance, k.pc]
    rw [← e]
    exact Issued.set k _
  · intro r
    simp only [State.wick_countPowerDown, State.wick_setWick]
    refine (Wick.reg_setReg _ rd r _ _).trans ?_
    have e : (x0.advance (x0.issueAt srcs [] [] 0) 1).level1 = x0.level1 := rfl
    rw [e, hv x0 k.steady]
    exact congrArg (fun z => if r = rd ∧ r ≠ 0 then u else z) (Wick.reg_steady k.steady r)
  · simp only [State.wick_countPowerDown, State.wick_setWick]
    refine (Wick.steady_setReg _ rd _ _ (s.wick w).g).trans ?_
    show { x0.steady with g := (s.wick w).g } = _
    rw [k.steady]
    rfl

theorem Wick.wide_steady (f : (n : Nat) → BitVec n → BitVec n → BitVec n) (a b : Word72) (h : x0.steady = x.steady) :
    (if x0.level1 then low64 (x0.wide f a b) else x0.wide f a b) = if x.level1 then (f 64 (a.setWidth 64) (b.setWidth 64)).setWidth 72 else f 72 a b := by
  unfold Wick.wide
  rw [Wick.level1_steady h]
  cases x.level1 <;> simp

/-- An instruction whose meaning is a scalar one. -/
theorem WritesReg.scalar {i : Instr} {legal : Wick → Bool} {rd : BitVec 5} {srcs : List (BitVec 5)} {n : Nat} {v : Wick → Word72} {u : Word72}
    (e : exec i s = .next (s.scalar w legal rd srcs n v)) (h : s.wickIssues w = true) (hl : ∀ x0, x0.steady = (s.wick w).steady → legal x0 = true)
    (hv : ∀ x0, x0.steady = (s.wick w).steady → (if x0.level1 then low64 (v x0) else v x0) = u) : WritesReg i s w rd u :=
  ⟨_, e, State.scalar_writes h hl hv⟩

/-- An instruction whose meaning is an ALU one with two registers. -/
theorem AluWrites.aluR {i : Instr} {rd rs1 rs2 : BitVec 5} {n : Nat} (f : (n : Nat) → BitVec n → BitVec n → BitVec n)
    (e : exec i s = .next (s.aluR w rd rs1 rs2 0 n f)) (h : s.wickIssues w = true) :
    AluWrites i s w rd (f 72 ((s.wick w).reg rs1) ((s.wick w).reg rs2)) (f 64 (((s.wick w).reg rs1).setWidth 64) (((s.wick w).reg rs2).setWidth 64)) :=
  WritesReg.scalar e h (fun _ _ => by simp) fun x0 k => by
    rw [Wick.reg_steady k, Wick.reg_steady k]
    exact Wick.wide_steady f _ _ k

/-- An instruction whose meaning is an ALU one with a constant. -/
theorem AluWrites.aluI {i : Instr} {rd rs1 : BitVec 5} {imm : BitVec 20} (f : (n : Nat) → BitVec n → BitVec n → BitVec n)
    (e : exec i s = .next (s.aluI w rd rs1 imm f)) (h : s.wickIssues w = true) :
    AluWrites i s w rd (f 72 ((s.wick w).reg rs1) (imm.signExtend 72)) (f 64 (((s.wick w).reg rs1).setWidth 64) (imm.signExtend 64)) := by
  have k : (imm.signExtend 72).setWidth 64 = imm.signExtend 64 := by
    ext j hj
    simp [BitVec.getElem_signExtend, show j < 72 by omega]
  refine WritesReg.scalar e h (fun _ _ => rfl) fun x0 k0 => ?_
  rw [Wick.reg_steady k0, ← k]
  exact Wick.wide_steady f _ _ k0

/-- An instruction whose meaning is a shift by a constant. -/
theorem AluWrites.aluShift {i : Instr} {rd rs1 : BitVec 5} {n : BitVec 7} (f : (n : Nat) → BitVec n → BitVec n → BitVec n)
    (e : exec i s = .next (s.aluShift w rd rs1 0 n f)) (h : s.wickIssues w = true) (hn : n.toNat ≤ 71) :
    AluWrites i s w rd (f 72 ((s.wick w).reg rs1) (n.setWidth 72)) (f 64 (((s.wick w).reg rs1).setWidth 64) (n.setWidth 64)) := by
  have k : (n.setWidth 72).setWidth 64 = n.setWidth 64 := by
    rw [BitVec.setWidth_setWidth_of_le _ (by omega)]
  refine WritesReg.scalar e h (fun _ _ => by simp [hn]) fun x0 k0 => ?_
  rw [Wick.reg_steady k0, ← k]
  exact Wick.wide_steady f _ _ k0

/-! ### Memory and control -/

theorem State.access_ok {as : List Nat} {secret store : Bool} {k : Issue} (h : x.reaches as secret store) : s.access x as secret store k = k := by
  have h1 : as.any (fun a => decide (0x3FFF < a)) = false := by
    simp only [List.any_eq_false, decide_eq_true_eq, Nat.not_lt]
    exact fun a ha => (h.1 a ha).1
  have h2 : as.any (fun a => x.secret a ≠ secret) = false := by
    simp only [List.any_eq_false]
    exact fun a ha => by simp [(h.1 a ha).2]
  unfold State.access
  rw [h1, h2, h.2]
  rfl

theorem Wick.reaches_steady {as : List Nat} {secret store : Bool} (h : x0.steady = x.steady) (k : x.reaches as secret store) : x0.reaches as secret store :=
  ⟨fun a ha => by rw [Wick.secret_steady h]; exact k.1 a ha, by rw [Wick.interlock_steady h]; exact k.2⟩

theorem Wick.word_setWord (x : Wick) (a b : Nat) (v : Word72) : (x.setWord a v).word b = if b = a then v else x.word b := Table.get_set ..

/-- What a store of consecutive words leaves at each address. -/
theorem Wick.word_setWords (x : Wick) (a b : Nat) (vs : List Word72) : (x.setWords a vs).word b = if a ≤ b then (vs[b - a]?).getD (x.word b) else x.word b := by
  unfold Wick.setWords
  induction vs generalizing x a with
  | nil => simp
  | cons v r ih =>
    rw [List.zipIdx_cons, List.foldl_cons, ih (x.setWord a v) (a + 1), Wick.word_setWord]
    by_cases h : b = a
    · simp [h]
    · by_cases k : a ≤ b
      · obtain ⟨n, rfl⟩ : ∃ n, b = a + 1 + n := ⟨b - (a + 1), by omega⟩
        simp [show a ≤ a + 1 + n by omega, show a + 1 + n ≠ a by omega, show a + 1 + n - a = n + 1 by omega]
      · simp [k, h, show ¬a + 1 ≤ b by omega]

theorem Wick.steady_setWords (x : Wick) (a : Nat) (vs : List Word72) (m : Table Word72) : { (x.setWords a vs).steady with dmem := m } = { x.steady with dmem := m } := by
  unfold Wick.setWords
  generalize vs.zipIdx a = l
  induction l generalizing x with
  | nil => rfl
  | cons p r ih => exact ih _

@[simp] theorem Wick.pc_setWords (x : Wick) (a : Nat) (vs : List Word72) : (x.setWords a vs).pc = x.pc := by
  unfold Wick.setWords
  generalize vs.zipIdx a = l
  induction l generalizing x with
  | nil => rfl
  | cons p r ih => exact ih _

theorem Wick.jump_ok {t : Nat} {target : Word72} (h : target.toNat < x.instrCount) : x.jump t target = some { x.advance t 2 with pc := target.setWidth 14 } :=
  if_neg (by omega)

theorem Wick.instrCount_steady (h : x0.steady = x.steady) : x0.instrCount = x.instrCount := Wick.of_steady Wick.instrCount (fun _ => rfl) h

theorem Wick.transfer_ok {t : Nat} {target : Word72} {after : Wick → Wick} (h : target.toNat < x.instrCount) :
    x.transfer s t target after = .ok s (after { x.advance t 2 with pc := target.setWidth 14 }) := by
  unfold Wick.transfer
  rw [Wick.jump_ok h]

/-- A branch whose condition reads only registers. -/
theorem Branches.branch {i : Instr} {rs1 : BitVec 5} {off : BitVec 20} {c : Wick → Bool} {q : Prop} (e : exec i s = .next (s.branch w rs1 0 off c))
    (h : s.wickIssues w = true) (hc : ∀ x0, x0.steady = (s.wick w).steady → (c x0 = true ↔ q)) :
    Branches i s w q ((s.wick w).pc.setWidth 72 + off.signExtend 72) := by
  refine ⟨fun hq hi => ⟨_, e, ?_⟩, fun hq => ⟨_, e, ?_⟩⟩
  · refine State.issue_ok (p := fun t => Issued s t w _ ∧ (t.wick w).steady = (s.wick w).steady) h fun s0 x0 k => ?_
    have hr : x0.relative off = (s.wick w).pc.setWidth 72 + off.signExtend 72 := by simp [Wick.relative, k.pc]
    refine ⟨s0, { x0.advance (x0.issueAt [rs1] [] [] 0) 2 with pc := (_ : Word72).setWidth 14 }, ?_, Issued.set k _, ?_⟩
    · simp only [(hc x0 k.steady).2 hq, hr, ne_eq, not_true_eq_false, if_false, if_true]
      exact Wick.transfer_ok (by rw [Wick.instrCount_steady k.steady]; exact hi)
    · simp only [State.wick_countPowerDown, State.wick_setWick]
      exact k.steady
  · refine State.issue_ok (p := fun t => Issued s t w _ ∧ (t.wick w).steady = (s.wick w).steady) h fun s0 x0 k => ?_
    have hn : c x0 = false := by
      cases hcx : c x0
      · rfl
      · exact absurd ((hc x0 k.steady).1 hcx) hq
    refine ⟨s0, x0.advance (x0.issueAt [rs1] [] [] 0) 1, by simp [hn], ?_, ?_⟩
    · rw [← k.pc]
      exact Issued.set k _
    · simp only [State.wick_countPowerDown, State.wick_setWick]
      exact k.steady

end Sys2Proof.Machine
end

