-- ==== Sys2Proof/Machine/BarMap.lean ====
section
/-! DEFINITION. The BARs of a host function (R39, R378): what a read of BAR0 and BAR2 returns, and the doorbell dword an offset names. Reads change nothing, so no command stands for one; RING, INVALIDATE and ABORT carry the slice and the queue that their offset names. -/

namespace Sys2Proof.Machine

/-! ### The capability list mirror -/

/-- The highest capability record (R555). -/
def State.lastCapability (s : State) : Nat := if s.order2Library then 11 else 10

/-- The root at offset 000000h: DictVersion, the first record index and CapabilityCount (R556). -/
def State.mirrorRoot (s : State) : Bytes :=
  leBytes 4 (s.entryValue 0x0000 1) ++ leBytes 2 1 ++ leBytes 2 (s.entryValue 0x0000 2)

/-- A record at offset i × 100h: CapId, Next, Version, and its own subindexes in ascending order (R554, R556). -/
def State.mirrorRecord (s : State) (i : Nat) : Bytes :=
  leBytes 2 (s.entryValue i 1) ++ leBytes 2 (s.entryValue i 3) ++ leBytes 4 (s.entryValue i 2) ++
    (span 4 (s.entryValue i 0 - 3)).flatMap fun k => s.readBytes i k

/-- The 256 bytes of the mirror from offset i × 100h: zero until the firmware has built it, and where no record lies (R378, R556). -/
def State.mirrorPage (s : State) (i : Nat) : Bytes :=
  if !s.mirrorBuilt then cut [] 0 256
  else if i = 0 then cut s.mirrorRoot 0 256
  else if i ≤ s.lastCapability then cut (s.mirrorRecord i) 0 256
  else cut [] 0 256

/-! ### BAR0 -/

/-- A function register (R379): FN_ID, FN_STATE, FN_DOORBELL_DROPS. -/
def State.fnRegister (s : State) (l off : Nat) : Nat :=
  if off = 0x010000 then 0x3800 + l
  else if off = 0x010004 then
    (if s.entry Key.faultCollectorState = 1 then 4 else 0) + (if s.fatal.isSome then 2 else 0) + (if (s.fn l).ready && s.isLit then 1 else 0)
  else if off = 0x010008 then
    let n := s.entry (Key.hostLinkDoorbellDrops l)
    if 2 ^ 31 ≤ n then 2 ^ 32 - 1 else n
  else 0

/-- The 16 bytes of an MSI-X table entry: address, data, and the mask bit of vector control (R378, R406). -/
def MsixEntry.bytes (e : MsixEntry) : Bytes := leBytes 8 e.address.toNat ++ leBytes 4 e.data.toNat ++ leBytes 4 (if e.masked then 1 else 0)

/-- A byte of BAR0 outside the function registers (R39, R378, R394). -/
def State.bar0Byte (s : State) (l off : Nat) : Byte :=
  if off < 0x010000 then (s.mirrorPage (off / 256)).getD (off % 256) 0
  else if 0x020000 ≤ off && off < 0x028000 then (Table.get (fun _ => MsixEntry.reset) (s.fn l).msix ((off - 0x020000) / 16)).bytes.getD (off % 16) 0
  else if 0x028000 ≤ off && off < 0x028100 then
    BitVec.ofNat 8 (bitMask 8 fun i => (s.fn l).pendingVectors.contains (8 * (off - 0x028000) + i))
  else 0

/-- A read of n bytes of BAR0. The function registers answer aligned reads of 4 bytes only (R379). -/
def State.bar0Read (s : State) (l off n : Nat) : Bytes :=
  if 0x010000 ≤ off && off < 0x020000 then (if n = 4 && off % 4 = 0 then leBytes 4 (s.fnRegister l off) else List.replicate n 0#8)
  else (span off n).map (s.bar0Byte l)

/-- The slice and the local queue whose doorbell dword an offset of BAR0 names (R39, R394). -/
def doorbellAt (off : Nat) : Option (Nat × Nat) :=
  if 0x100000 ≤ off && off < 0x300000 then some ((off - 0x100000) / 0x1000, off % 0x1000 / 4) else none

/-! ### BAR2 -/

/-- A read of n bytes of BAR2: zeros from a mailbox that is not served on the link; its registers answer reads of 4 bytes only; MB_DATA reads zero while BUSY is set (R535 to R537). -/
def State.bar2Read (s : State) (l off n : Nat) : Bytes :=
  let slc := off / 0x8000
  let r := off % 0x8000
  let m := s.mailbox slc
  if !s.mailboxOn l slc then List.replicate n 0#8
  else if r < 0x10 then
    (if n ≠ 4 then List.replicate n 0#8
     else leBytes 4 (if r = 0 then m.addr.toNat else if r = 4 then m.len.toNat else if r = 12 then m.status.toNat else 0))
  else if 0x2000 ≤ r && r < 0x4000 && !s.mailboxBusy slc then cut m.data (r - 0x2000) n
  else List.replicate n 0#8

/-- BAR4 and the expansion ROM BAR are not implemented and read as zero (R39). -/
def bar4Read (n : Nat) : Bytes := List.replicate n 0#8

end Sys2Proof.Machine
end

