-- ==== Sys2Proof/Tests/Slice0.lean ====
section
/-! SUPPORT. The model's own tests: worked words and figures of the manual, ill-formed commands that the checks refuse, and for each statement a state and operands that meet its hypotheses. -/

namespace Sys2Proof.Tests

set_option Elab.async false

open Sys2Proof.Machine

/-! ### Small states -/

/-- Every DRBG instance is ready. -/
def drbgs : Table Drbg := (List.range 17).map fun i => (i, { Drbg.off with ready := true })

/-- A device in LIT whose firmware serves, with some dictionary entries set. -/
def lit (dict : List (Nat × Nat)) : State :=
  { State.reset with power := .lit, hop := { State.reset.hop with server := some .firmware }, entropy := { Entropy.reset with drbgs := drbgs, starting := false, startupDone := true },
                     dict := dict.foldl (fun t p => Table.set (dictDefault .a256) t p.1 p.2) [] }

/-- A ring entry with O = 1, an opcode, an ALG and the control word; session 0, output at 1000h with room for 4,096 bytes. -/
def ringEntry (op alg w5 : Nat) : RingEntry :=
  { w0 := BitVec.ofNat 64 (2 ^ 63 + op * 2 ^ 32 + alg * 2 ^ 24), w1 := 0x1000, w2 := 64, w3 := 0x1000, w4 := 4096, w5 := BitVec.ofNat 64 w5, w6 := 0, w7 := 0 }

/-- What is read for a job: an input of zeros. -/
def zeros (n : Nat) : HostData := { keyA := [], keyB := [], keyC := [], keyD := [], recipients := [], input := List.replicate n 0 }

/-- Job 0 of slot 0 in a phase, on units. -/
def job (phase : JobPhase) (op alg w5 : Nat) (units : List UnitId) : Job :=
  { id := 0, slot := 0, count := 0, slice := 0, entry := ringEntry op alg w5, data := zeros 64, phase := phase, status := 0, w6 := 0, output := [], keyOut := none, drawn := [], retries := 0,
    failed := [], units := units, served := [], kept := [], check := [], build := none, taperRules := (4096, 4096), keyRules := { uses := 0x1F, exportable := true, bindBlobs := true }, cycles := 0, taperCycles := 0, shroud := 0, waitsEntropy := false, snooped := [], steady := none, object := none }

/-- A program of 16 instructions at a level, of the vendor or of the owner. -/
def program (level1 owner : Bool) : Program :=
  { level1 := level1, owner := owner, id := 1, instrCount := 16, entry := 0, maxCycles := 1000, secretMask := 0 }

/-- A wick that serves job 0 with a program; a pair of general registers set. -/
def serving (p : Program) (g1 g2 : Nat) : Wick :=
  { Wick.fresh with program := some p, job := some 0, g := [(1, BitVec.ofNat 72 g1), (2, BitVec.ofNat 72 g2)], shroud := { Shroud.off with keyed := true, fifo := 16 } }

/-- Wick 0 as given, serving job 0, in a device with some entries set. -/
def onWick (dict : List (Nat × Nat)) (x : Wick) : State :=
  { lit dict with jobs := [job .running 0x0202 0x31 0 [uWick 0]], wicks := [(0, x)] }

/-- Wick 0 with a vendor program of LEVEL2. -/
def plainWick : Wick := serving (program false false) 0x100 3

/-- The same at LEVEL1. -/
def wick1 : Wick := serving (program true false) 0x100 3

/-- Wick 0 with the program of an owner. -/
def ownerWick : Wick := serving (program false true) 4 3

/-- Wick 0 with its granule 2 (words 256 to 383) secret, and g1 = 100h. -/
def secretWick : Wick := { plainWick with gmask := 4 }

/-- SV registers v1 to v4 hold numbers; the registers of a tag word are shared; c8 holds a modulus. -/
def vectorWick (tags : BitVec 32) (modulus : Word72) : Wick :=
  { plainWick with sregs := [(1, 0x123456789ABC), (2, 0x1020304), (3, 5), (4, 7)], stags := tags, mod := modulus }

/-! ### Witnesses: the wick -/

theorem witness_ScalarResults : let s := onWick [] plainWick
    s.wickIssues 0 = true ∧ (s.wick 0).level1 = false ∧ (s.wick 0).stall = .none ∧ (71#7).toNat ≤ 71 ∧ (3#5) ≠ 0 ∧ plainWick.reaches [plainWick.address 1 (0#20)] false false := by
  unfold Wick.reaches; decide

theorem witness_ScalarResults_level1 : (onWick [] wick1).wickIssues 0 = true ∧ ((onWick [] wick1).wick 0).level1 = true := by decide

/-- g0 is zero and g1 negative: each branch is taken by one and not by the other; the target 15 is the last instruction. -/
theorem witness_ControlTransfers : let s := onWick [] (serving (program false false) (2 ^ 71) 1)
    let x := s.wick 0
    s.wickIssues 0 = true ∧ x.reg 0 = 0 ∧ x.reg 1 ≠ 0 ∧ (x.reg 1).getLsbD 71 = true ∧ (x.reg 0).getLsbD 71 = false ∧ (x.reg 0 + (15#20).signExtend 72).toNat < x.instrCount ∧
    (x.pc.setWidth 72 + (15#25).signExtend 72).toNat < x.instrCount := by decide

/-- DBNZ goes on from g2 = 1 and branches from g1. -/
theorem witness_ControlTransfers_dbnz : let s := onWick [] (serving (program false false) (2 ^ 71) 1)
    let x := s.wick 0
    s.wickIssues 0 = true ∧ (1#5) ≠ 0 ∧ (2#5) ≠ 0 ∧ x.reg 2 - 1 = 0 ∧ x.reg 1 - 1 ≠ 0 ∧ (x.pc.setWidth 72 + (15#20).signExtend 72).toNat < x.instrCount := by decide

/-- The last word of the data memory, and the one at g1. -/
theorem witness_LoadsAndStores : let s := onWick [] plainWick
    s.wickIssues 0 = true ∧ plainWick.address 1 (0x3EFF#20) = 0x3FFF ∧ plainWick.reaches [plainWick.address 1 (0x3EFF#20)] false false ∧ plainWick.reaches [plainWick.address 1 (0#20)] false true := by
  unfold Wick.reaches; decide

/-- One plain register, and two of a structure. -/
theorem witness_LoadsAndStores_vectors : let s := onWick [] plainWick
    let a := plainWick.address 1 (0#11)
    s.wickIssues 0 = true ∧ plainWick.level1 = false ∧ plainWick.svTransfer 4 0 false 0 = some (8, 2) ∧ plainWick.svTransfer 30 1 false 2 = some (24, 4) ∧ plainWick.svMisaligned a false = false ∧
    plainWick.reaches (span a 2) false false ∧ plainWick.reaches (span a 4) false true ∧ ∀ r ∈ span 30 2, plainWick.sh r = false := by
  unfold Wick.reaches; decide

/-- Shares of a secret granule. -/
theorem witness_LoadsAndStores_shares : let x := { secretWick with stags := 0x10, order2 := true }
    let a := x.address 1 (0#11)
    (onWick [] x).wickIssues 0 = true ∧ x.svTransfer 4 0 true 0 = some (8, 4) ∧ x.svMisaligned a true = false ∧ x.reaches (span a 4) true false ∧ x.reaches (span a 4) true true ∧ ∀ r ∈ span 4 1, x.sh r = true := by
  unfold Wick.reaches; decide

/-- A read of eight words from 0 under the one region of a wick, and a write of them; tag 7 is free, tag 1 is not. -/
def dmaWick (write : Bool) : Wick :=
  { plainWick with g := [(1, 0x40), (2, 0x70100)], mpu := [(0, mpuRegion 20 0 true)], dma := [(1, { write := write, local_ := 0, words := 8, address := 0, p72 := false })] }

theorem witness_DmaTransfers_descriptors : 0x3FFFFFFFF8 % 8 = 0 ∧ ((true : Bool) = true → plainWick.level1 = false) := by decide

theorem witness_DmaTransfers_begin : let x := { dmaWick false with dma := [] }
    let s := onWick [] x
    s.wickIssues 0 = true ∧ (∀ p ∈ x.dma, p.1 ≠ (7#3).toNat) ∧
    ∃ d e, x.descriptor false (x.reg 1).toNat (x.reg 2).toNat = some d ∧ x.descriptor true (x.reg 1).toNat (x.reg 2).toNat = some e ∧ (∀ a ∈ d.locals, a ≤ 0x3FFF ∧ x.secret a = false) ∧
      x.interlock e.locals false = none ∧ s.mpuAllows x d.address d.length false = true := ⟨by decide, by decide, _, _, rfl, rfl, by decide, by decide, by decide⟩

theorem witness_DmaTransfers_end : ∀ b : Bool, let x := dmaWick b
    (onWick [] x).wickLive 0 = true ∧ (x.dma.find? fun p => p.1 = (1#3).toNat).isSome = true ∧ ∀ l ∈ x.writeBuffer, l.1 ≠ (1#3).toNat := by decide

/-- A line that waits in the write buffer, inside the wick's region. -/
theorem witness_DmaTransfers_lines : let x := { dmaWick true with writeBuffer := [(1, 64, [1, 2])] }
    (onWick [] x).wickLive 0 = true ∧ ((onWick [] x).wick 0).nextWrite = some (1, 64, [1, 2]) ∧ (onWick [] x).mpuAllows ((onWick [] x).wick 0) 64 [(1 : BitVec 8), 2].length true = true ∧ [(1 : BitVec 8), 2] ≠ [] ∧ 64 % 64 + [(1 : BitVec 8), 2].length ≤ 64 := by decide

theorem witness_SystemInstructions : let s := onWick [] plainWick
    let x := s.wick 0
    s.wickIssues 0 = true ∧ x.draining = false ∧ x.stall = .none ∧ x.job = some 0 ∧ (s.findJob 0).isSome = true ∧ x.owner = false ∧
    (s.findJob 0).map (fun j => (j.attemptWicks 0, isObject j.entry.opcode)) = some (([0], 0), false) ∧ vendorStatus 0x0202 (0#8).toNat = true ∧ vendorStatus 0x0202 (6#8).toNat = false ∧ ((onWick [] ownerWick).wick 0).owner = true ∧ (onWick [] ownerWick).wickIssues 0 = true ∧ isObject 0x0701 = true := by decide

/-- A vendor attempt of two wicks: the other has reached its DONE, with the check passed or failed, or has not. -/
theorem witness_SystemInstructions_done : ∀ d ∈ [none, some (0#8), some 6], let s := { onWick [] plainWick with jobs := [job .running 0x0202 0x31 0 [uWick 0, uWick 16]], wicks := [(0, plainWick), (16, { plainWick with doneWith := d })] }
    let a := (job .running 0x0202 0x31 0 [uWick 0, uWick 16]).attemptWicks 0
    s.wickIssues 0 = true ∧ (s.wick 0).draining = false ∧ s.findJob 0 = some (job .running 0x0202 0x31 0 [uWick 0, uWick 16]) ∧ a.1 = [0, 16] ∧ (a.1.filter fun v => v ≠ 0) = [16] ∧ (s.wick 16).doneWith = d :=
  fun _ _ => ⟨rfl, rfl, rfl, by decide, by decide, rfl⟩

theorem witness_WickEvents : (((onWick [] { plainWick with napping := true }).wick 0).napping = true) ∧
    (let s := onWick [] plainWick
     (s.wick 0).program.map (·.maxCycles) = some 1000 ∧ s.wickLive 0 = true ∧ (s.wick 0).job = some 0 ∧ (s.findJob 0).isSome = true) ∧
    (let s := lit [(Key.sconcePowerState 0, 1)]
     s.isLit = true ∧ s.fatal = none ∧ s.inService (uWick 0) = true ∧ s.entry (Key.sconcePowerState (sconceOf 0)) = 1 ∧ (s.wick 0).job = none) := by decide

/-- A vendor program of LEVEL2 with two instructions and no data. -/
def vendorImage : Bytes := [0x50, 0x59, 0x57, 0x4B, 2, 1, 0, 0] ++ List.replicate 8 0 ++ [2, 0, 0, 0] ++ List.replicate 44 0 ++ List.replicate 9 0 ++ List.replicate 7 0

theorem witness_ProgramLoad : imageFormOk 1 vendorImage = true ∧ vendorImage ∈ ({ lit [] with library := [vendorImage] } : State).library := ⟨by decide, .head _⟩

/-- A wick whose generator is to be keyed again: with a DRBG instance that serves, and without. -/
theorem witness_ShroudRekey : let x := { plainWick with shroud := { plainWick.shroud with rekeying := true } }
    let s := onWick [] x
    s.hubOn = true ∧ (s.wick 0).shroud.rekeying = true ∧ (s.generate (sconceOf 0) 32).1 ≠ none ∧
    ({ s with entropy := Entropy.reset } : State).hubOn = true ∧ ({ s with entropy := Entropy.reset }.generate (sconceOf 0) 32).1 = none ∧ x.stall ≠ .shroud := ⟨by decide, by decide, nofun, by decide, rfl, by decide⟩

/-- g1 = 101h selects SHA-256 with rate 0; g2 = 200h is the lanes 0 and 1. -/
theorem witness_SpongeInstructions : let x := serving (program false false) 0x101 0x200
    let p := x.sponge
    (onWick [] x).wickIssues 0 = true ∧ [SpongeFn.keccak, .sha256, .sha512, .sha384][bitsOf (x.reg 1).toNat 2 0]? = some .sha256 ∧ p.absorbs (laneFirst (x.reg 2)) (laneCount (x.reg 2)) = true ∧
    x.reaches (span 0x101 2) false true ∧ p.absorbs (laneFirst (x.reg 2)) 1 = true ∧ p.masked = false ∧ laneFirst (x.reg 2) ≤ 24 ∧ laneFirst (x.reg 2) + laneCount (x.reg 2) ≤ 25 ∧
    p.readable (laneFirst (x.reg 2)) 2 = true ∧ p.readable (laneFirst (x.reg 2)) 1 = true := by
  unfold Wick.reaches; decide

/-- A Keccak rate at each end of its range. -/
theorem witness_SpongeRates : ∀ r : Fin 2, let v := r.val * 23 * 16 + 16
    [SpongeFn.keccak, .sha256, .sha512, .sha384][bitsOf v 2 0]? = some .keccak ∧ 1 ≤ bitsOf v 8 4 ∧ bitsOf v 8 4 ≤ 24 := by decide

/-- All 25 lanes, and one word of WKR. -/
theorem witness_MaskedSponge : let x := { secretWick with g := [(1, 0x100), (2, 0x1900)], sponge := { Sponge.cleared with masked := true }, shroud := { Shroud.off with keyed := true, fifo := 48 } }
    let p := x.sponge
    let first := laneFirst (x.reg 2)
    let n := laneCount (x.reg 2)
    (onWick [] x).wickIssues 0 = true ∧ ((onWick [] x).wick 0).sponge.masked = true ∧ x.shroud.serves (2 * p.fn.cycles) ∧ x.level1 = false ∧ (x.reg 1).toNat % 2 = 0 ∧ first = 0 ∧ n = 25 ∧ p.absorbs first n = true ∧
    x.reaches (span 0x100 (2 * n)) true false ∧ first ≤ 24 ∧ first + n ≤ 25 ∧ x.reaches (span 0x100 (2 * n)) true true := by
  unfold Wick.reaches Shroud.serves; decide

theorem witness_SpongeKey : ∀ k : Fin 2, let x := { plainWick with g := [(2, BitVec.ofNat 72 (1 + 7 * k.val))], sponge := { Sponge.cleared with masked := true } }
    let n := bitsOf (x.reg 2).toNat 3 0
    (onWick [] x).wickIssues 0 = true ∧ x.level1 = false ∧ 1 ≤ n ∧ n ≤ 8 ∧ x.shroud.serves n := by
  unfold Shroud.serves; decide

/-- Wick 0 of a gang, a word received, the next wick of the job with its four in latches free, or full. -/
theorem witness_GangInstructions : let x := { plainWick with gang := true, gangIn := [7] }
    let s := { onWick [] x with wicks := [(0, x), (1, x)] }
    let f := { onWick [] x with wicks := [(0, x), (1, { x with gangIn := [1, 2, 3, 4] })] }
    s.wickIssues 0 = true ∧ x.gang = true ∧ x.level1 = false ∧ x.gangOut = none ∧ ((s.wick 0).job = (s.wick (ringNext 0)).job ∧ (s.wick (ringNext 0)).gangIn.length < 4) ∧
    f.wickIssues 0 = true ∧ ¬((f.wick 0).job = (f.wick (ringNext 0)).job ∧ (f.wick (ringNext 0)).gangIn.length < 4) := by decide

/-- 16 plain values, and one from a pair of shares. -/
theorem witness_KeyPath : (let x := { plainWick with g := [(1, 0x100), (2, 16)], taper := some 0 }
     let n := bitsOf (x.reg 2).toNat 4 0
     (onWick [] x).wickIssues 0 = true ∧ x.taper = some 0 ∧ x.level1 = false ∧ x.owner = false ∧ n = 16 ∧ x.secret 0x100 = false ∧ x.reaches (span 0x100 n) false false ∧ ((onWick [] x).taper 0).mustWipe = false) ∧
    (let x := { secretWick with g := [(1, 0x100), (2, 1)], taper := some 0 }
     (onWick [] x).wickIssues 0 = true ∧ x.secret 0x100 = true ∧ 0x100 % 2 = 0 ∧ x.reaches (span 0x100 2) true false ∧ x.shroud.serves 1) := by
  unfold Wick.reaches Shroud.serves; decide

theorem witness_Granules : plainWick.granuleTag (plainWick.granule 1) = none := by decide

theorem witness_ForerunnerUnit : let x := { plainWick with island := .on }
    let s := onWick [] x
    s.wickIssues 0 = true ∧ (s.wick 0).stall = .none ∧ (s.wick 0).island = .on ∧ s.inService (uIsland 0) = true ∧ (7#6).toNat < ftWidth 0 ∧ (63#6).toNat < ftWidth 3 ∧ (15#4).toNat < 128 / ftWidth 0 ∧
    x.reaches [x.address 1 (0#20), x.address 1 (0#20) + 1] false false ∧ x.reaches [x.address 1 (0#20), x.address 1 (0#20) + 1] false true := by
  unfold Wick.reaches; decide

/-- The island off, out of service, waking and on. -/
theorem witness_Island : (let s := onWick [] plainWick
     s.wickIssues 0 = true ∧ s.inService (uIsland 0) = true ∧ (s.wick 0).island = .off ∧ (s.wick 0).stall = .none) ∧
    (let s := onWick [(0xA500 * 256 + 1, 1)] plainWick
     s.wickIssues 0 = true ∧ s.inService (uIsland 0) = false) ∧
    (let s := onWick [(Key.sconcePowerState 0, 1), (Key.sconcePowerCurrentLevel 0, 0)] { plainWick with island := .waking 0 0, stall := .fvWake }
     (s.wick 0).island = .waking 0 0 ∧ (s.wick 0).stall = .fvWake ∧ (s.entry (Key.sconcePowerState (0 / 16)) = 1 ∧ s.entry (Key.sconcePowerCurrentLevel (0 / 16)) = 0 ∧ 0 < 6) ∧ (plainWick.island = .off ∧ ¬plainWick.stall = .fvWake) ∧ ((lit []).entry (Key.sconcePowerState 0) ≠ 1 ∨ (lit [(Key.sconcePowerState 0, 2)]).entry (Key.sconcePowerState 0) ≠ 1) ∧ s.isLit = true ∧ s.fatal = none ∧ (s.wick 0).job = some 0 ∧ (s.findJob 0).isSome = true) := by decide

theorem witness_PlainVectors : let x := vectorWick 0 0xFFB
    let s := onWick [] x
    s.wickIssues 0 = true ∧ x.level1 = false ∧ etWidth 1 = some 12 ∧ etWidth 4 = some 72 ∧ x.sh 1 = false ∧ x.sh 2 = false ∧ x.modulus 12 = some 0xFFB ∧ x.modulus 36 = some 0xFFB ∧ (3#5).toNat < 4 ∧ x.sh 3 = false := by decide

/-- Values of full length in a register (R301). -/
theorem witness_VectorElements : etWidth 3 = some 36 ∧ [1, 2].length = 72 / 36 ∧ (List.replicate 16 255).length = 128 / ftWidth 0 := by decide

theorem witness_SharedCopy : let x := vectorWick 2 0
    (onWick [] x).wickIssues 0 = true ∧ x.sh 1 = true ∧ x.oddShared [3, 1] = false ∧ x.sh 2 = false := by decide

/-- At first order odd registers may be shared, at second order even ones. -/
theorem witness_SharedVectors : (let x := vectorWick 0x6 0xFFB
     (onWick [] x).wickIssues 0 = true ∧ x.level1 = false ∧ etWidth 1 = some 12 ∧ x.sh 1 = true ∧ x.sh 2 = true ∧ x.oddShared [3, 1, 2] = false ∧ x.sh 4 = false ∧ x.modulus 12 = some 0xFFB ∧ x.shroud.serves (2 * 2)) ∧
    (let x := { vectorWick 0x14 0xFFB with order2 := true }
     (onWick [] x).wickIssues 0 = true ∧ x.sh 2 = true ∧ x.sh 4 = true ∧ x.oddShared [6, 2, 4] = false ∧ x.sh 1 = false ∧ x.shroud.serves (2 * 3)) := by
  unfold Shroud.serves; decide

theorem witness_Splits : etWidth 0 = some 8 ∧ 2 ≤ 255 ∧ 255 < 2 ^ 8 ∧ ∀ e ∈ elements 8 0x1020304, e < 255 := by decide

theorem witness_Masking : let x := { vectorWick 0x2 0xFFB with keyed := true }
    (onWick [] x).wickIssues 0 = true ∧ (x.maskRing 12 3).isSome = true ∧ (x.maskRing 12 0).isSome = true ∧ (3#5).toNat < 4 ∧ x.sh 2 = false ∧ x.sh 1 = true ∧ x.oddShared [3, 1] = false ∧
    x.shroud.serves ((2 - 1) * randomWords (some 0xFFB)) ∧ x.keyed = true ∧ (28#5).toNat % 4 = 0 := by
  unfold Shroud.serves; decide

theorem witness_Conversions : let x := vectorWick 0x2 0xFFB
    (onWick [] x).wickIssues 0 = true ∧ x.level1 = false ∧ x.order2 = false ∧ etWidth 1 = some 12 ∧ x.sh (1#5).toNat = true ∧ x.shroud.serves 6 ∧ x.modulus 12 = some 0xFFB ∧
    (∀ e ∈ elements 12 (x.half 1 0), e < 0xFFB) ∧ ∀ e ∈ elements 12 (x.half 1 1), e < 0xFFB := by
  unfold Shroud.serves; decide

theorem witness_WickFaults : (let s := onWick [] plainWick
     s.wickIssues 0 = true ∧ (511#9) ≠ 0 ∧ plainWick.reg 0 = 0 ∧ plainWick.instrCount ≤ (plainWick.pc.setWidth 72 + (16#20).signExtend 72 : Word72).toNat ∧ 0x3FFF < plainWick.address 1 (0x3F00#20)) ∧
    (onWick [] wick1).wickIssues 0 = true ∧ wick1.level1 = true ∧ ((onWick [] secretWick).wickIssues 0 = true ∧ secretWick.address 1 (0#20) ≤ 0x3FFF ∧ secretWick.secret (secretWick.address 1 (0#20)) = true) ∧
    (plainWick.owner = false ∧ ownerWick.owner = true ∧ ((onWick [] ownerWick).wick 0).job = some 0 ∧ ((onWick [] ownerWick).findJob 0).isSome = true) := by decide


/-! ### Witnesses: direct jobs. What the uninterpreted functions of log 3 answer is left open in the statements. -/

/-- A running attempt of an opcode with an ALG and control word, on wick 0, a digester, a sealer and a taper, with key material in slot 5 granted to slice 0, an OSK, and entries set. -/
def running (op alg w5 : Nat) : State :=
  { lit [(Key.vaultSlotSlice 5, 0)] with
      jobs := [job .running op alg w5 [uWick 0, uDigester 0, uSealer 0, uTaper 0]], wicks := [(0, plainWick)],
      sessions := [(0, { Session.free with state := .opened, gen := 1, params := List.replicate 16 0 ++ leBytes 8 (2 ^ 60 + 5) ++ List.replicate 232 0 })],
      roots := { State.reset.roots with osk := some (List.replicate 32 0), attestSecret := some (List.replicate 32 1) } }

/-- The same with a private key of n bytes in slot 5 for an ALG, exportable and of every use. -/
def keyed (op alg n : Nat) : State :=
  { running op alg 5 with vault := [(5, { alg := BitVec.ofNat 8 alg, uses := 31, origin := 1, exportable := true, persist := false, key := List.replicate n 7 })] }

/-- The key of every key command is found. -/
theorem witness_keyFor : ∀ p ∈ [(0x0102, 0x11, 64), (0x0103, 0x11, 64), (0x0202, 0x21, 32), (0x0202, 0x30, 32), (0x0203, 0x21, 32), (0x0210, 0x30, 32), (0x0502, 0x51, 32), (0x0503, 0x54, 32), (0x0504, 0x56, 32), (0x0401, 0x60, 32), (0x0402, 0x60, 32), (0x0403, 0x63, 32), (0x0404, 0x63, 32)],
    let s := keyed p.1 p.2.1 p.2.2
    ∃ j, s.attemptOf 0 p.1 = some j ∧ s.keyA j = .priv (List.replicate p.2.2 7) ∧ (s.session 0).checks = [] := by
  intro p hp
  simp only [List.mem_cons, List.not_mem_nil, or_false] at hp
  rcases hp with rfl | rfl | rfl | rfl | rfl | rfl | rfl | rfl | rfl | rfl | rfl | rfl | rfl <;> exact ⟨_, rfl, by decide, by decide⟩

/-- A role that the session has not used yet takes its check value. -/
theorem expandRole_first (s : State) (n role a : Nat) (k : KeyFound) (h : (s.session n).checks = []) : s.expandRole n role a k ≠ none := by
  unfold State.expandRole
  split <;> simp [h]

/-- A key at its first use, and a public key given in KEY_A. -/
theorem witness_firstUse : ∀ p ∈ [(0x0103, 0x11, 64), (0x0202, 0x21, 32), (0x0202, 0x30, 32), (0x0203, 0x21, 32), (0x0210, 0x30, 32), (0x0502, 0x51, 32), (0x0503, 0x54, 32), (0x0504, 0x56, 32)],
    let s := keyed p.1 p.2.1 p.2.2
    ∃ j, s.attemptOf 0 p.1 = some j ∧ s.keyFor j (.priv (List.replicate p.2.2 7)) := by
  intro p hp
  simp only [List.mem_cons, List.not_mem_nil, or_false] at hp
  rcases hp with rfl | rfl | rfl | rfl | rfl | rfl | rfl | rfl <;> exact ⟨_, rfl, by decide, nofun, nofun, expandRole_first _ _ _ _ _ (by decide)⟩

/-- Randomness and shroud words are at hand, and nothing is drawn yet. -/
theorem witness_draws : let s := running 0x0101 0x11 0
    ∃ j, s.attemptOf 0 0x0101 = some j ∧ s.canDraw j.instOf 4 ∧ s.canDraw 16 10 ∧ s.shroudReady j = true ∧ j.kept = [] := by
  unfold State.canDraw; exact ⟨_, rfl, by decide, by decide, by decide, rfl⟩

/-- The attempts of the other direct commands, with control words that draw, take a seed, or fill a slot. -/
theorem witness_attempts : ∀ p ∈ [(0x0101, 0x11, 0), (0x0101, 0x40, 2 ^ 62), (0x0101, 0x12, 2 ^ 63 + 507), (0x0110, 0x40, 0), (0x0111, 0x40, 0), (0x0201, 0x21, 0), (0x0201, 0x21, 2 ^ 63), (0x0201, 0x21, 2 ^ 62), (0x0211, 0x30, 0),
      (0x0301, 0x70, 0), (0x0301, 0x70, 2 ^ 63), (0x0302, 0x70, 0), (0x0501, 0x51, 0), (0x0501, 0x51, 2 ^ 63), (0x0601, 0, 0), (0x0602, 0, 0), (0x0603, 0, 5), (0x0605, 0, 5), (0x0610, 0, 0), (0x0801, 0, 0), (0x0F03, 0, 0)],
    let s := running p.1 p.2.1 p.2.2
    s.attemptOf 0 p.1 = some (job .running p.1 p.2.1 p.2.2 [uWick 0, uDigester 0, uSealer 0, uTaper 0]) ∧ s.earlierJobs 0 0 = false := by decide

theorem witness_KemResults_blob : let s := running 0x0101 0x11 0
    ctlSeedIn 0 = false ∧ ctlToVault 0 = false ∧ ctlSeedIn (2 ^ 62) = true ∧ ctlToVault (2 ^ 63) = true ∧ ∃ b, s.makeBlob 0 true ((job .running 0x0101 0x11 0 []).defaultKey 0x11 1 (List.replicate 64 0)) = some b := ⟨by decide, by decide, by decide, by decide, _, rfl⟩

/-- A cached lantern set of the key of job 0, with or without pins. -/
def lanternState (pins : List Nat) : State :=
  { running 0x0211 0x30 0 with lanterns := [{ id := 1, slice := 0, alg := 0x30, check := [], size := 65536, validFrom := some 0, pins := pins, dropped := false }] }

/-- SLH-DSA signs with an entry held and with none; a cached lantern set is found, pinned or not, or none is. -/
theorem witness_SignatureResults : isSlh 0x30 = true ∧ isSlh 0x21 = false ∧ (running 0x0202 0x30 0).heldLantern 0 = none ∧ ((lanternState [0]).heldLantern 0).isSome = true ∧
    (∀ pins ∈ [[], [0]], let s := lanternState pins
     ∃ j e, s.attemptOf 0 0x0211 = some j ∧ s.lanternFor j = some e ∧ e.pins = pins) ∧
    (∃ j, (running 0x0211 0x30 0).attemptOf 0 0x0211 = some j ∧ (running 0x0211 0x30 0).lanternFor j = none) := by
  refine ⟨by decide, by decide, by decide, by decide, ?_, _, rfl, rfl⟩
  intro pins hp
  simp only [List.mem_cons, List.not_mem_nil, or_false] at hp
  rcases hp with rfl | rfl <;> exact ⟨_, _, rfl, rfl, rfl⟩

/-- The last task of a build, and one with others to come. -/
theorem witness_LanternBuild : ∀ n ∈ [0, 1], let b := { check := [], started := n * lanternTrees 0x30, tasks := [{ number := 7, retries := 0, failed := [], units := [uWick 0, uWick 16] }] }
    let s := { keyed 0x0210 0x30 32 with jobs := [{ job .running 0x0210 0x30 5 [uWick 0, uWick 16] with build := some b }] }
    ∃ j t, s.attemptOf 0 0x0210 = some j ∧ s.keyFor j (.priv (List.replicate 32 7)) ∧ s.shroudReady j = true ∧ j.kept = [] ∧ j.build = some b ∧ b.tasks.find? (fun t => t.number = 7 && !t.units.isEmpty) = some t ∧
      (b.tasks.filter fun t => t.number ≠ 7) = [] ∧ (b.started = lanternTrees j.entry.alg ↔ n = 1) := by
  intro n hn
  simp only [List.mem_cons, List.not_mem_nil, or_false] at hn
  rcases hn with rfl | rfl <;> exact ⟨_, _, rfl, ⟨by decide, nofun, nofun, expandRole_first _ _ _ _ _ (by decide)⟩, by decide, rfl, rfl, rfl, rfl, by decide⟩

/-- Context 0 is open in session 0 with generation 1; handles name it. -/
def openContexts (op : Nat) (a : Attach) : State :=
  { running op 0x70 65536 with links := [(0, (0, 1))], contexts := [(0, { DigestContext.closed with gen := 1, attach := a, absorbing := true, isOpen := true, alg := 0x70, outLen := 32 })] }

theorem witness_DigestResults : (∀ op ∈ [0x0303, 0x0304, 0x0305, 0x0306], let s := openContexts op .none
      (s.attemptOf 0 op).isSome = true ∧ (s.openContext (ringEntry op 0x70 65536)).map (fun p => (p.1, p.2.attach)) = some (0, Attach.none)) ∧
    (running 0x0305 0x70 65536).openContext (ringEntry 0x0305 0x70 65536) = none := by decide

/-- The finish of an attached context waits, or has its result. -/
theorem witness_DigestResults_attached : ∀ kept ∈ [[], [[(1 : BitVec 8)]]], let s := { openContexts 0x0304 (.stream 0 true) with jobs := [{ job .running 0x0304 0x70 65536 [uDigester 0] with kept := kept }] }
    (s.attemptOf 0 0x0304).map (·.kept) = some kept ∧ (s.openContext (ringEntry 0x0304 0x70 65536)).map (·.2.attach) = some (.stream 0 true) := by decide

/-- The input of a job reaches a digester that is served; one that is fenced is not, and an input already taken or of another octet is left. -/
theorem witness_DigestBoundaries : (let s := { openContexts 0x0301 (.queue 0) with dict := (lit [(Key.sliceHostLink 0, 0)]).dict }
      (∀ j ∈ s.jobs, j.phase ≠ .turn) ∧ (∀ p ∈ s.contexts, p.2.finishJobs = []) ∧ s.inService (uDigester 0) = true ∧ s.isLit = true ∧ (s.contexts.all fun p => s.carriedBy p.1 0) = true ∧
      (s.findJob 0).map (fun j => (j.snooped, s.snoops j, s.inputRead j, s.inputTurn 0 j, (s.sliceOctets j.slice).contains (s.digesterOctet 0), (s.sliceOctets j.slice).contains (s.digesterOctet 31))) = some ([], true, true, true, true, false) ∧ s.digesterOctet 0 = s.streamOctet 0) ∧
    (lit [(0xA620 * 256 + 1, 1)]).inService (uDigester 0) = false := by decide

/-- A record that digester 0 has still to take, and none. -/
theorem witness_DigestRecords : (let s := { openContexts 0x0301 (.stream 0 true) with streams := [(0, { Stream.off with passing := [{ number := 1, received := true, bytes := [1, 2], seen := [] }] })] }
      (((s.stream 0).passing.find? fun r => s.awaitsRecord 0 0 r).map fun r => (r.received, r.bytes)) = some (true, [1, 2]) ∧ s.digesterOctet 0 = s.streamOctet 0 ∧ s.inService (uDigester 0) = true ∧ s.isLit = true ∧ s.digesterOctet 31 ≠ s.streamOctet 0) ∧
    (((lit []).stream 0).passing.find? fun r => (lit []).awaitsRecord 0 0 r) = none := by decide

/-- A direct job whose key stands in the register of its sealer. -/
theorem witness_SealerResults : ∀ p ∈ [(0x0401, 0x60), (0x0401, 0x61), (0x0402, 0x60), (0x0403, 0x63), (0x0404, 0x63)],
    let s := { running p.1 p.2 5 with sealers := [(0, { Sealer.idle 0 with job := some 0, key := some (List.replicate 32 7) })] }
    ∃ j, s.attemptOf 0 p.1 = some j ∧ (s.sealer j.sealerOf).job = some 0 ∧ (s.sealer j.sealerOf).key = some (List.replicate 32 7) := by
  intro p hp
  simp only [List.mem_cons, List.not_mem_nil, or_false] at hp
  rcases hp with rfl | rfl | rfl | rfl | rfl <;> exact ⟨_, rfl, rfl, rfl⟩

/-- What a sealer staged leaves at its publication. -/
theorem witness_SealerOutputs : ∀ op ∈ [0x0402, 0x0403, 0x0404], (job .staged op 0x60 5 []).status = 0 ∧ (job .staged op 0x60 5 []).entry.opcode = op := by decide

/-- An exportable key leaves; its blob of 72 bytes fits the output. -/
theorem witness_KeyExport : let s := keyed 0x0604 0x11 64
    ∃ k b, (s.attemptOf 0 0x0604).isSome = true ∧ s.vaultKey (ctlSlot 5) = some k ∧ k.exportable = true ∧ s.makeBlob 0 true k = some b ∧ b.length ≤ 4096 := ⟨_, _, by decide, rfl, rfl, rfl, by decide +kernel⟩

theorem witness_Attest : let s := { running 0x0611 0 0 with roots := { (running 0 0 0).roots with copiesRead := 0xACBAACBAACBA#48 } }
    ∃ j k, s.attemptOf 0 0x0611 = some j ∧ s.roots.attestSecret = some k ∧ s.keyed = true ∧ s.shroudReady j = true := ⟨_, _, rfl, rfl, by decide, by decide⟩

/-- An owner program of LEVEL2 with two instructions and 1,000 cycles; its key's hash is not zero. -/
def ownerImage : Bytes := [0x50, 0x59, 0x57, 0x4B, 2, 2, 0, 0] ++ List.replicate 8 0 ++ [2, 0, 0, 0] ++ List.replicate 20 0 ++ leBytes 4 1000 ++ List.replicate 20 0 ++ List.replicate 9 0 ++ List.replicate 7 0

theorem witness_OwnerLoad : let s := lit [(Key.wickProgramsOwnerProgramKeyHash, 1)]
    imageFormOk 2 ownerImage = true ∧ leNat (leBytes 32 (s.entry Key.wickProgramsOwnerProgramKeyHash)) ≠ 0 ∧ s.freeProgram 0 = some 0 ∧ s.freeProgram 511 = some 8176 := by decide

/-- A run whose next instruction is DONE with status 00h and the length in g2 (word 0x888000000 and its code). -/
theorem witness_OwnerRun : let done := Instr.done 0 0 2 0 0
    ∃ v, wickEncode done = some (0, v) ∧
    (let x := { ownerWick with pmem := [(0, v.setWidth 72)], stall := .none }
     let s := { onWick [] x with jobs := [job .running 0x0F02 0 0 [uWick 0]] }
     ∃ j, s.attemptOf 0 0x0F02 = some j ∧ j.wick = 0 ∧ x.owner = true ∧ x.job = some 0 ∧ s.wickIssues 0 = true ∧ x.draining = false ∧ s.wickFetch 0 = some done ∧ (x.reg 2).toNat ≤ j.entry.w4.toNat) :=
  ⟨_, rfl, _, rfl, by decide, by decide, by decide, by decide, by decide, by decide, by decide⟩

/-- The window that a synthetic-IV encryption reads again through: readable, 4 KiB at 1000h. -/
theorem witness_SealerRereads : (lit [(Key.hostWindowsWindow 0 0, 0x1000 + 12 * 64 + 33)]).hostAllows 0 0x1000 64 true false = true := by decide

/-- Keys that a session has not used yet agree with it: no key, a recipient key, a pair of signing keys. -/
theorem witness_objectKeys (k l : Bytes) (s : State) (n : Nat) (h : (s.session n).checks = []) : s.expandRoles n [] ≠ none ∧ s.expandRole n 0 0x11 (.priv k) ≠ none ∧ s.expandRole n 3 0x11 (.pub l) ≠ none :=
  ⟨nofun, expandRole_first s n 0 0x11 _ h, expandRole_first s n 3 0x11 _ h⟩

/-! ### Witnesses: rings, attempts, publications, functions -/

/-- The entries of slot 0 as a compact queue of 64 places of slice 0 behind link 0, whose first window is the low 4 GiB with both rights; then others. -/
def slot0 (state kind : Nat) (more : List (Nat × Nat)) : List (Nat × Nat) :=
  [(Key.sliceHostLink 0, 0), (Key.hostWindowsWindow 0 0, 1 + 16 + 32 + 32 * 64), (Key.queueSlotSlice 0, 0), (Key.queueSlotLocalQueue 0, 0), (Key.queueSlotKind 0, kind), (Key.queueSlotSizeLog2 0, 6),
   (Key.queueSlotRingBase 0, 0x10000), (Key.queueSlotStatusAddr 0, 0x20000), (Key.queueSlotWeight 0, 1), (Key.queueSlotState 0, state), (Key.hostLinkLinkState 0, 2), (Key.hostLinkLinkState 1, 2)] ++ more

/-- A LIT device with slot 0 and a function of link 0 that issues; jobs are given. -/
def onQueue (state kind : Nat) (q : Queue) (js : List Job) (more : List (Nat × Nat)) : State :=
  { lit (slot0 state kind more) with fns := [(0, { HostFn.reset with pasidEnable := true, ready := true })], queues := if q = Queue.idle then [] else [(0, q)], jobs := js, nextJob := js.length }

/-- A doorbell that reaches ACTIVE and PAUSED queues at the last index of the ring, one beyond it, one of an unknown queue. -/
theorem witness_DoorbellCommands : (∀ st ∈ [qActive, qPaused], let s := onQueue st 0 Queue.idle [] []
      s.linkUp 0 = true ∧ s.doorbellSlot 0 0 0 true = some 0 ∧ (s.queue 0).aborting = none ∧ (s.queue 0).doorbells = [] ∧ bitsOf (63#32).toNat 31 28 = 0 ∧ bitsOf (63#32).toNat 19 0 < s.ringSize 0 ∧
      s.ringSize 0 ≤ bitsOf (64#32).toNat 19 0 ∧ s.queueState 0 = st ∧ s.hostAllows 0 (s.entry (Key.queueSlotStatusAddr 0)) 16 false true = true ∧ (s.jobs.map (·.id)).Nodup ∧ (63#20).toNat < s.ringSize 0) ∧
    (onQueue qActive 0 Queue.idle [] [(Key.queueSlotStatusAddr 0, 2 ^ 40)]).hostAllows 0 (2 ^ 40) 16 false true = false ∧
    (onQueue qActive 0 Queue.idle [] []).doorbellSlot 0 0 0 false = none := by decide +kernel

/-- ABORT on a compact and on a jumbo queue. -/
theorem witness_AbortCommand : let s := onQueue qActive 0 Queue.idle [job .waiting 0x0202 0x21 0 []] []
    let d := ((63#20).toNat + s.ringSize 0 - 0 % s.ringSize 0) % s.ringSize 0
    s.entry (Key.queueSlotKind 0) = 0 ∧ 0 < min (if d = 0 then s.ringSize 0 - 1 else d) (s.runLength 0 0 cachePlaces) ∧ s.hostAllows 0 (s.entryAddr 0 0) (64 * 16) true false = true ∧
    (onQueue qActive 1 Queue.idle [] []).entry (Key.queueSlotKind 0) = 1 := by decide +kernel

/-- A run asked for, one to be discarded; an entry whose re-read is due. -/
theorem witness_ScansAndFetches : (∀ b : Bool, ∃ r rest, ({ Queue.idle with runs := [{ start := 0, len := 16, epoch := 0, dropped := b }] } : Queue).runs = r :: rest ∧ r.dropped = b ∧ (∀ w ∈ (onQueue qActive 0 Queue.idle [] []).windowWrites, w.slice ≠ 0) ∧ [ringEntry 0x0202 0x21 0] ≠ []) ∧
    (let q := { Queue.idle with rereadDue := some 0, range := { start := 0, len := 8, reread := [] } }
     let s := onQueue qActive 0 q [] []
     (s.queue 0).rereadDue = some 0 ∧ 0 = (s.queue 0).scanned ∧ (s.queue 0).cache = [] ∧ (s.queue 0).asked = 0 ∧ s.queueState 0 = qActive ∧ s.scans = true ∧ s.fnIssues (s.slotLink 0) = true ∧ (s.queue 0).aborting = none ∧
       s.inFlight 0 < (s.queue 0).limit ∧ 0 < s.runLength 0 0 cachePlaces ∧ s.hostAllows (s.slotSlice 0) (s.entryAddr 0 (0 % s.ringSize 0)) (64 * s.runLength 0 0 cachePlaces) true false = true) ∧
    (let s := onQueue qActive 0 { Queue.idle with cache := [(0, ringEntry 0x0202 0x21 0)] } [] []
     s.hubOn = true ∧ (s.hubCycle + 1) % 16 ≠ 0 ∧ s.readySlots false = [0] ∧ (s.queue 0).cache = [(0, ringEntry 0x0202 0x21 0)] ∧ (s.queue 0).inRound = false ∧ 0 < s.entry (Key.queueSlotWeight 0) ∧ ∀ j ∈ s.jobs, j.id < s.nextJob) ∧
    (∀ g, ((onQueue qActive 0 Queue.idle [] []).queue g).cache = []) := by
  refine ⟨?_, by decide, by decide, fun g => rfl⟩
  exact fun b => ⟨_, _, rfl, rfl, by decide⟩

/-- A waiting job of a cached session whose key is found, with units it may get and without; and one whose key is bad. -/
theorem witness_AttemptsAndContexts : let s := { keyed 0x0202 0x21 32 with jobs := [job .waiting 0x0202 0x21 0 []], cache := [{ session := 0, changed := false }], dict := (onQueue 1 0 Queue.idle [] [(Key.vaultSlotSlice 5, 0), (Key.sconcePowerState 0, 1), (Key.sconcePowerState 1, 1)]).dict, wicks := [] }
    let j := job .waiting 0x0202 0x21 0 []
    (∀ k ∈ s.jobs, k.phase ≠ .turn) ∧ s.findJob 0 = some j ∧ j.phase = .waiting ∧ s.isLit = true ∧ s.fatal = none ∧ s.clearingAll = false ∧ s.clearing = [] ∧ j.waitsEntropy = false ∧ s.cached j.entry.session = true ∧
    (s.jobKeys j).contains .erasing = false ∧ s.digestWaits j = false ∧ (s.jobKeys j).contains .bad = false ∧ s.checkWindows j = none ∧ s.unitsFit j [] = false ∧ s.unitsFit j [uWick 0, uWick 16] = true ∧
    (({ s with vault := [] } : State).jobKeys j).contains .bad = true ∧ isObject j.entry.opcode = false := by decide +kernel

/-- A build with a task to start. -/
theorem witness_AttemptsStart_build : let b : LanternBuild := { check := [], started := 0, tasks := [] }
    let j := { job .waiting 0x0210 0x30 5 [] with build := some b }
    let s := { keyed 0x0210 0x30 32 with jobs := [j], cache := [{ session := 0, changed := false }], dict := (onQueue 1 0 Queue.idle [] [(Key.vaultSlotSlice 5, 0), (Key.sconcePowerState 0, 1), (Key.sconcePowerState 1, 1)]).dict, wicks := [] }
    s.findJob 0 = some j ∧ j.phase = .waiting ∧ j.waitsEntropy = false ∧ s.cached j.entry.session = true ∧ s.digestWaits j = false ∧ (s.jobKeys j).contains .bad = false ∧ (s.jobKeys j).contains .erasing = false ∧ s.checkWindows j = none ∧
    ∃ k, j.nextTask = some k ∧ s.unitsFit { j with failed := k.failed } [uWick 0, uWick 16] = true := ⟨rfl, rfl, rfl, by decide, by decide, by decide, by decide, by decide +kernel, _, rfl, by decide +kernel⟩

theorem witness_ContextsLoad : let s := { running 0 0 0 with jobs := [job .loading 0x0202 0x21 0 []] }
    (∀ k ∈ s.jobs, k.phase ≠ .turn) ∧ (∃ j ∈ s.jobs, j.phase = .loading ∧ j.entry.session = 0) ∧ s.evict ≠ none := ⟨by decide, ⟨_, .head _, rfl, rfl⟩, nofun⟩

/-- A staged job with output, first of its queue. -/
theorem witness_PublicationsAndCommits : let j := { job .staged 0x0202 0x21 0 [] with output := [1, 2, 3] }
    let s := onQueue qActive 0 Queue.idle [j] []
    (∀ k ∈ s.jobs, k.phase ≠ .turn) ∧ s.findJob 0 = some j ∧ s.mayPublish j = true ∧ s.fnIssues (s.sliceLink j.slice) = true ∧ (s.commit j).queueState 0 = qActive ∧
    (s.commit j).hostAllows 0 j.entry.w3.toNat ((s.commit j).outputBytes j).length false true = true ∧ s.outputBytes j = [1, 2, 3] ∧ s.hostAllows 0 j.entry.w3.toNat (s.outputBytes j).length false true = true ∧ (s.commit j).hostAllows 0 ((s.commit j).entryAddr 0 0 + 48) 8 false true = true ∧
    (s.commit j).hostAllows 0 ((s.commit j).entryAddr 0 0) 8 false true = true ∧ ((s.commit j).queue 0).done = [] ∧ (s.commit j).entry (Key.queueSlotPublished 0) = 0 % 2 ^ 32 ∧ (s.commit j).slotSlice 0 = j.slice ∧
    (s.commit j).fnIssues ((s.commit j).sliceLink j.slice) = true ∧ (s.commit j).hostAllows 0 ((s.commit j).entry (Key.queueSlotStatusAddr 0)) 16 false true = true ∧ j.status.toNat = jsOk ∧ j.keyOut = none := by decide

/-- An opening of a session whose output no window takes. -/
theorem witness_PublicationRefused : let j := { job .staged 0x0601 0 0 [] with output := List.replicate 8 0 }
    let s := { onQueue qActive 0 Queue.idle [j] [] with dict := (lit (slot0 qActive 0 [(Key.hostWindowsWindow 0 0, 0)])).dict }
    s.findJob 0 = some j ∧ s.mayPublish j = true ∧ s.fnIssues (s.sliceLink j.slice) = true ∧ s.outputBytes j ≠ [] ∧ s.hostAllows 0 j.entry.w3.toNat (s.outputBytes j).length false true = false ∧ s.queueState 0 ≠ qError ∧ (s.session 0).state = .free := by decide

/-- An erase of slot 5 that an earlier job holds back, and one that nothing does. -/
theorem witness_EraseCommits : let s := { running 0x0202 0x21 0 with erasing := [(5, 1, .path .firmware)] }
    s.slotHeld 5 1 = true ∧ (∀ j ∈ s.jobs, j.entry.opcode ≠ 0x0605) ∧ ({ s with jobs := [] } : State).slotHeld 5 1 = false := by decide

/-- An erase asked for through a mailbox, and one of a HOP session. -/
theorem witness_EraseCommits_replies : (let s := { lit [] with erasing := [(511, 0, .mailbox 0 0 0x01FF8109)] }
     s.erasing = [(511, 0, .mailbox 0 0 0x01FF8109)] ∧ s.jobs = [] ∧ s.slotHeld 511 0 = false) ∧
    (let x : HopSession := { number := 9, keySlot := 0, address := 0x123456, key := List.replicate 32 4, lastSeq := 4 }
     let s := { lit [] with hop := { (lit []).hop with sessions := [x] } }
     s.hop.server = some .firmware ∧ s.hopSession 9 = some x ∧ s.slotHeld 0 0 = false) := by decide

/-- Enable and disable accepted, and refused in the wrong state. -/
theorem witness_QueueStates : (let s := onQueue qDisabled 0 Queue.idle [] []
     s.reaches .firmware = true ∧ s.judgeWrite .firmware 0x2800 0x0B [1] = drOk ∧ s.fnIssues (s.slotLink 0) = true) ∧
    (let s := onQueue qActive 0 Queue.idle [] []
     s.judgeWrite .firmware 0x2800 0x0B [0] = drOk ∧ s.judgeWrite .firmware 0x2800 0x0B [1] ≠ drOk) ∧
    (onQueue qActive 0 Queue.idle [job .waiting 0x0202 0x21 0 []] []).judgeWrite .firmware 0x2800 0x0B [0] ≠ drOk ∧
    (∀ js ∈ [[], [job .waiting 0x0202 0x21 0 []]], (onQueue qDraining 0 Queue.idle js []).queueState 0 = qDraining) ∧ (onQueue qDraining 0 Queue.idle [job .waiting 0x0202 0x21 0 []] []).inFlight 0 ≠ 0 := by decide

/-- Link 1 is up and no queue is enabled on it; its function in D0 and D3hot, and with a write of a restore held. -/
theorem witness_FunctionStates : let w : HostWrite := { link := 1, pasid := 0, kind := .plaintext, slot := 0, job := 0, address := 0x1000, bytes := [1] }
    let s := onQueue qDisabled 0 Queue.idle [job .running 0x0702 0 0 []] []
    s.linkUp 1 = true ∧ ({ s with jobs := [] } : State).jobs = [] ∧ (s.fn 1).power = .d0 ∧ ((s.setFn 1 { s.fn 1 with power := .d3hot }).fn 1).power = .d3hot ∧ ((s.fn 1).held = [] ∧ (s.fn 1).pendingVectors = []) ∧
    ((s.setFn 1 { s.fn 1 with held := [.plaintext w] }).fn 1).held = [.plaintext w] ∧ (s.findJob w.job).isSome = true ∧ s.hostAllows 0 w.address.toNat w.bytes.length false true = true := by decide

theorem witness_FunctionStates_slots : (onQueue qDisabled 0 Queue.idle [] []).linkSlots 1 = [] := by decide +kernel

/-- Link 0 down with eight lanes, and at the ends of the ranges of rate and width. -/
theorem witness_LinksComeUp : let s := { lit [(Key.hostLinkLinkState 0, 1)] with links := [(0, 0, 1)] }
    (decide (s.entry (Key.hostLinkLinkState 0) ≤ 1) && (s.isLit || decide (s.power = .low)) && (s.linkOctets 0).all fun o => s.inService (uOctet o) && s.supplies.refclk100.getLsbD (o / 8)) = true ∧
    (1 ≤ (1#8).toNat ∧ (5#8).toNat ≤ 5 ∧ (8#8).toNat ∈ [1, 2, 4, 8, 16] ∧ (8#8).toNat ≤ 8 * (s.linkOctets 0).length ∧ ¬(16#8).toNat ≤ 8 * (s.linkOctets 0).length) := by decide

theorem witness_VectorsUnmask : let f : HostFn := { HostFn.reset with msixEnable := true, pendingVectors := [2047], msix := [(2047, { address := 0xFEE00000, data := 7, masked := false })] }
    let s := (onQueue qActive 0 Queue.idle [] []).setFn 0 f
    s.linkUp 0 = true ∧ (s.fn 0).power = .d0 ∧ (s.fn 0).pendingVectors = [2047] ∧ (s.fn 0).msixEnable = true ∧ (s.fn 0).functionMask = false ∧
    Table.get (fun _ => MsixEntry.reset) (s.fn 0).msix 2047 = { address := 0xFEE00000, data := 7, masked := false } := by decide

/-- A port of an Ethernet octet at 50 Gb/s, and one that carries none. -/
theorem witness_Pauses : (let s := { lit [(Key.mediaPortLinkUp 0, 1)] with modes := [(0, 1)] }
     s.isLit = true ∧ s.flag (Key.mediaPortLinkUp 0) = true ∧ (∀ n ∈ s.liveStreams, s.entry (Key.mediaStreamPort n) ≠ 0) ∧ 0 < s.portRate 0) ∧
    (let s := { lit [(Key.mediaPortLinkUp 255, 1)] with modes := [(31, 5)] }
     s.flag (Key.mediaPortLinkUp 255) = true ∧ s.portRate 255 = 0) := by decide

/-- A port of an Ethernet octet that may come up: without a stream, and with one whose STATUS waits. -/
theorem witness_PortsComeUp : ∀ d : Bool, let s := { lit [(Key.mediaStreamPort 0, if d then 0 else 8), (Key.mediaStreamEnable 0, 1), (Key.mediaStreamState 0, 1)] with modes := [(0, 1)], streams := [(0, { Stream.off with statusDue := true })] }
    let up := s.setEntry (Key.mediaPortLinkUp 0) 1
    (s.isLit = true ∧ s.fatal = none ∧ s.flag (Key.mediaPortLinkUp 0) = false ∧ portOf (s.octetMode 0) 0 = true ∧ s.hostOctet 0 = false ∧ s.inService (uOctet 0) = true ∧ s.supplies.refclk156.getLsbD 0 = true) ∧
    (up.liveStreams.filter fun n => up.entry (Key.mediaStreamPort n) = 0 && (up.stream n).statusDue) = (if d then [0] else []) := by decide

/-! ### Witnesses: objects and streams -/

/-- Entries of stream 0 on port 0 at 50 Gb/s, its peer's address zero: direction, state, EPOCH 9; then others. -/
def stream0 (dir st : Nat) (more : List (Nat × Nat)) : List (Nat × Nat) :=
  [(Key.mediaPortLinkUp 0, 1), (Key.mediaStreamPort 0, 0), (Key.mediaStreamPeerMac 0, 0), (Key.mediaStreamVlanId 0, 0), (Key.mediaStreamDirection 0, dir), (Key.mediaStreamState 0, st), (Key.mediaStreamEnable 0, 1), (Key.mediaStreamEpoch 0, 9),
   (Key.mediaStreamMarginMs 0, 1), (Key.mediaStreamRecordExp 0, 16)] ++ slot0 qActive 0 more

/-- A session for objects: 64 KiB segments, SHA-512 manifest, no signatures, an ingest mode, feed stream 1. -/
def objectSession (ingest : Nat) : Session :=
  { Session.free with state := .opened, gen := 1, params := leBytes 1 1 ++ leBytes 1 ingest ++ leBytes 1 16 ++ leBytes 1 0x72 ++ List.replicate 6 0 ++ leBytes 2 1 ++ List.replicate 244 0 }

/-- An object job of an opcode in a phase, with its object state, on wick 0 and stream 0. -/
def objectJob (op : Nat) (o : Option ObjectState) : Job := { job .running op 0 7 [uWick 0, uOctet 0, uDigester 0, uSealer 0] with object := o }

def onStream (dir st : Nat) (x : Stream) (j : Job) (ingest : Nat) (more : List (Nat × Nat)) : State :=
  { lit (stream0 dir st more) with streams := [(0, x)], jobs := [j], sessions := [(0, objectSession ingest)], wicks := [(0, plainWick)], modes := [(0, 1)],
                                   fns := [(0, { HostFn.reset with pasidEnable := true, ready := true })], extents := [{ area := 2, base := 0, size := 2 ^ 30, slice := 0, use := .stream 0 }] }

theorem witness_ObjectWrites : let s := onStream 0 stStopped Stream.off (objectJob 0x0701 none) 0 []
    s.attemptOf 0 0x0701 = some (objectJob 0x0701 none) ∧ s.jobStream (objectJob 0x0701 none) = 0 ∧ s.streamDir 0 = 0 ∧ (objectSession 0).recipients ≤ 4 ∧ (objectSession 0).ingest = 0 ∧ s.canDraw 0 10 ∧ s.canDraw 16 10 ∧ (objectJob 0x0701 none).kept = [] ∧ s.sealerTaken (objectJob 0x0701 none).objectSealer = false ∧ (s.objectKeys (objectJob 0x0701 none)) = [] := by
  unfold State.canDraw; decide

/-- A direct job holds the key register of the object's sealer. -/
theorem witness_SealerTaken : let s := { onStream 0 stMoving Stream.off (objectJob 0x0701 (some ObjectState.start)) 0 [] with jobs := [objectJob 0x0701 (some ObjectState.start), { job .running 0x0401 0x60 0 [uSealer 0] with id := 1, slot := 1 }], sealers := [(0, { Sealer.idle 0 with job := some 1, key := some [] })] }
    (s.attemptOf 0 0x0701).isSome = true ∧ s.sealerTaken (objectJob 0x0701 none).objectSealer = true := by decide

/-- The one segment of 64 bytes: from host memory that a window allows and one that none does, and from a feed. -/
theorem witness_Segments : let o := { ObjectState.start with headSent := true }
    let s := onStream 0 stMoving Stream.off (objectJob 0x0701 (some o)) 0 []
    let x := objectSession 0
    (s.attemptOf 0 0x0701).isSome = true ∧ o.segmentsDone < segmentCount 64 x.segExp ∧ (List.replicate 64 (3#8)).length = segmentBytes 64 x.segExp 0 ∧ s.hostAllows 0 0x1000 64 true false = true ∧
    ({ s with dict := [] } : State).hostAllows 0 0x1000 64 true false = false ∧ o.voided = false ∧ (objectSession 1).ingest = 1 ∧ (objectSession 1).feedStream = 1 ∧
    (({ s with streams := [(1, { Stream.off with arriving := some (0, List.replicate 64 3) })] } : State).stream 1).arriving = some (0, List.replicate 64 3) ∧ s.manifestReady (objectJob 0x0701 (some o)) = false := by decide

theorem witness_Manifests : let o := { ObjectState.start with headSent := true, segmentsDone := 1 }
    let s := onStream 0 stMoving Stream.off (objectJob 0x0701 (some o)) 0 []
    s.manifestReady (objectJob 0x0701 (some o)) = true ∧ s.shroudReady (objectJob 0x0701 (some o)) = true ∧ s.sealerTaken (objectJob 0x0701 (some o)).objectSealer = false ∧ (objectJob 0x0701 (some o)).kept.length ≤ s.tailPlace (objectJob 0x0701 (some o)) ∧ s.signers (objectJob 0x0701 (some o)) = [] ∧ s.canDraw 0 2 ∧ (objectSession 0).signA = 0 ∧ (objectSession 0).signB = 0 := by
  unfold State.canDraw; decide

/-- Two steps whose 2t fits the extent. -/
theorem witness_RestoreStarts : let x := { Stream.off with steps := [(100, 10), (200, 10)], buffer := 2 ^ 30 }
    let s := onStream 1 stStopped x (objectJob 0x0702 none) 0 []
    (s.attemptOf 0 0x0702).isSome = true ∧ s.streamDir 0 = 1 ∧ s.streamState 0 = stStopped ∧ s.highestStep 0 x.steps.length (fun k => decide (2 * s.threshold 0 k ≤ s.restoreRoom 0)) = some 1 ∧
    s.plaintextHeld (objectJob 0x0702 none) = false ∧ (objectJob 0x0702 none).obj.confirming = false ∧ s.sealerTaken (objectJob 0x0702 none).objectSealer = false ∧ x.records.find? (fun r => !r.taken) = none := by decide

/-- A restore whose decapsulation is confirmed on a second wick. -/
theorem witness_RestoreConfirms : let j := { objectJob 0x0702 (some { ObjectState.start with confirming := true }) with units := [uWick 0, uWick 16] }
    let s := onStream 1 stMoving Stream.off j 0 []
    (s.attemptOf 0 0x0702) = some j ∧ s.streamDir 0 = 1 ∧ j.obj.confirming = true ∧ 2 ≤ (unitsOfClass j.units 1).length := by decide

/-- A record as a stream holds it. -/
def held (b : Bytes) : StreamRecord := { rsn := 1, job := 0, kind := 2, bytes := b, endPos := b.length, offset := 0, lastSeq := 0, acked := false, taken := false }

theorem witness_RestoreHeld : ([held [1]].find? fun r => !r.taken) = some (held [1]) := by decide

/-- A HEAD with one ML-KEM-768 recipient block: of the session's recipient, of another; too long for the output; chained to something. -/
def headRecord (alg length : Nat) (chain : Bytes) : Bytes :=
  containerRecord 1 0 7 0 chain (leBytes 8 length ++ leBytes 8 0 ++ leBytes 1 0x60 ++ leBytes 1 0x72 ++ leBytes 2 0 ++ leBytes 1 16 ++ leBytes 1 1 ++ leBytes 10 0 ++
    recipientBlock (leBytes 1 alg ++ List.replicate 47 0) 0 (List.replicate 40 0) (List.replicate (cipherSize alg) 0))

theorem witness_RestoreHeads : let zeroChain := List.replicate 32 (0#8)
    let e := leBytes 1 0x11 ++ List.replicate 47 (0#8)
    (recordOk ObjectState.start 7 (headRecord 0x11 64 zeroChain) = true ∧ recKind (headRecord 0x11 64 zeroChain) = 1 ∧ (blockFor e ((headBlocks (headRecord 0x11 64 zeroChain)).getD [])).isSome = true ∧
      field (headRecord 0x11 64 zeroChain) 64 8 = 64) ∧
    blockFor e ((headBlocks (headRecord 0x12 64 zeroChain)).getD []) = none ∧ 4096 < field (headRecord 0x11 5000 zeroChain) 64 8 ∧
    (recordOk ObjectState.start 7 (headRecord 0x11 64 (List.replicate 32 1)) = true ∧ recChain (headRecord 0x11 64 (List.replicate 32 1)) ≠ zeroChain) ∧ recordOk ObjectState.start 7 [] = false := by decide +kernel

/-- A SEG, a SALT, a VOID and a TAIL that follow the HEAD of an object of 64 bytes; a TAIL of an empty object. -/
theorem witness_RestoreRecords : let o := { ObjectState.start with headSeen := true, length := 64, segExp := 16 }
    let c := List.replicate 32 (0#8)
    let seg := containerRecord 2 0 7 0 c (List.replicate 80 0)
    let salt := containerRecord 3 1 7 0 c (List.replicate 8 0)
    let void := containerRecord 5 0 7 0 c (List.replicate 16 0)
    let tail := containerRecord 4 0 7 0 c (tailFixed 0 0 (objectSession 0) 0 (List.replicate 64 0))
    (recordOk o 7 seg = true ∧ recChain seg = o.chain ∧ recKind seg = 2) ∧ (recordOk o 7 salt = true ∧ recChain salt = o.chain ∧ recKind salt = 3) ∧ (recordOk o 7 void = true ∧ recChain void = o.chain ∧ recKind void = 5) ∧
    (recordOk o 7 tail = true ∧ recChain tail = o.chain ∧ recKind tail = 4 ∧ o.payload ≠ o.length) ∧ recordOk o 7 (containerRecord 2 0 7 0 (List.replicate 32 1) (List.replicate 80 0)) = true := by decide +kernel

theorem witness_RestoreTail : let o := { ObjectState.start with headSeen := true, length := 0, segExp := 16 }
    let r := containerRecord 4 0 7 0 (List.replicate 32 0) (tailFixed 0 0 (objectSession 0) 0 (manifestRoot 0x72 7 []))
    recordOk o 7 r = true ∧ recChain r = o.chain ∧ recKind r = 4 ∧ tailBlocks r = some [] ∧ field r 64 8 = o.length ∧ o.payload = o.length ∧ field r 72 4 = o.segIndex ∧ o.segIndex = segmentCount o.length o.segExp ∧
    field r 76 1 = (objectSession 0).manifestAlg ∧ field r 78 1 = o.epoch ∧ cut r 80 64 = cut (manifestRoot (objectSession 0).manifestAlg 7 o.leaves) 0 64 := by decide +kernel

/-- STREAM_MARK at rest, STREAM_STOP in each state, Enable and Disable. -/
theorem witness_StreamJobs : (let s := onStream 0 stStopped Stream.off (objectJob 0x0703 none) 0 []
     (s.attemptOf 0 0x0703).isSome = true ∧ s.streamDir 0 = 0 ∧ s.streamState 0 = stStopped ∧ (s.stream 0).records = [] ∧ (s.stream 0).marksHeld = [] ∧ ((s.stream 0).marksSent.any fun m => m.1 = 0) = false ∧
     (({ Stream.off with marksSent := [(0, 3)] } : Stream).marksSent.any fun m => m.1 = 0) = true) ∧
    (∀ st ∈ [stStopped, stMoving, stGliding], let s := onStream 0 st Stream.off (objectJob 0x0704 none) 0 []
     (s.attemptOf 0 0x0704).isSome = true ∧ s.streamState 0 = st) ∧
    (let s := onStream 0 stStopped Stream.off (objectJob 0x0703 none) 0 []
     s.reaches .firmware = true ∧ s.judgeWrite .firmware 0x7400 9 [1] = drOk ∧ s.flag (Key.mediaStreamEnable 0) = true ∧ ({ s with jobs := [] } : State).judgeWrite .firmware 0x7400 9 [0] = drOk) := by decide

/-- A stream to be enabled: with the hub instance ready, and not. -/
theorem witness_StreamEnable : ∀ b : Bool, let s := { lit ((stream0 0 stStopped []).filter fun p => p.1 ≠ Key.mediaStreamEnable 0 && p.1 ≠ Key.mediaStreamState 0) with
                                            entropy := { (lit []).entropy with drbgs := (lit []).entropy.drbgs.filter fun p => p.1 ≠ 16 || b }, extents := [{ area := 2, base := 0, size := 2 ^ 30, slice := 0, use := .stream 0 }] }
    s.reaches .firmware = true ∧ s.flag (Key.mediaStreamEnable 0) = false ∧ s.power = .lit ∧ (s.drbg 16).ready = b ∧ (b = true → s.canDraw 16 1) ∧ s.judgeWrite .firmware 0x7400 9 [1] = drOk := by
  unfold State.canDraw; decide

/-- A frame on stream 0 of a kind with SEQ, flags and body, padded to the minimum. -/
def frame (kind seq flags : Nat) (b : Bytes) : VspFrame :=
  { source := 0, vlan := none, stacked := false, etherType := 0x88B6, payload := max 46 (16 + b.length), minimum := b.length < 30, version := 1, kind := BitVec.ofNat 8 kind, stream := 0, epoch := 9, seq := BitVec.ofNat 32 seq,
    length := BitVec.ofNat 16 b.length, flags := BitVec.ofNat 16 flags, body := b }

/-- What every check of R425 before the SEQ finds. -/
def arrives (s : State) (f : VspFrame) : Bool :=
  s.isLit && s.fatal.isNone && s.flag (Key.mediaPortLinkUp 0) && s.frameForm 0 f && frameLengthOk f && s.streamOf 0 f = some 0 && !(s.stream 0).epochDue && f.epoch.toNat = s.entry (Key.mediaStreamEpoch 0) && s.frameAllowed 0 f

/-- Frames that the checks of R425 drop, one for each check. -/
theorem witness_FrameDrops : let s := onStream 0 stMoving Stream.off (objectJob 0x0701 none) 0 []
    let f := frame 2 0 0 (List.replicate 24 0)
    arrives s f = true ∧ ({ s with power := .low } : State).isLit = false ∧ s.frameForm 0 { f with etherType := 0 } = false ∧ (s.frameForm 0 f = true ∧ frameLengthOk { f with payload := 16 } = false) ∧
    (s.streamOf 0 { f with stream := 1 } = none) ∧ ({ f with epoch := 8 } : VspFrame).epoch.toNat ≠ s.entry (Key.mediaStreamEpoch 0) ∧ s.frameAllowed 0 (frame 2 0 0 [1]) = false ∧ s.frameAllowed 0 (frame 1 0 0 (List.replicate 17 0)) = false ∧ ({ s with streams := [(0, { Stream.off with epochDue := true })] } : State).stream 0 ≠ Stream.off := by decide

/-- DATA of a whole record on a restore stream, in order and out of order. -/
theorem witness_DataFrames : let s := onStream 1 stMoving Stream.off (objectJob 0x0702 none) 0 []
    let b := leBytes 4 0 ++ List.replicate 12 (0#8) ++ List.replicate 64 (5#8)
    let f := frame 1 0 3 b
    arrives s f = true ∧ f.kind = 1 ∧ s.streamDir 0 = 1 ∧ f.seq = (s.stream 0).rxSeq ∧ s.bodyOk 1 (frameContent f) = true ∧ s.streamState 0 = stMoving ∧ f.flags = 3 ∧ field (frameContent f) 8 8 = 0 ∧
    field (frameContent f) 0 4 = (s.stream 0).nextRsn.toNat ∧ (s.stream 0).dropping = false ∧ (frameContent f).length - 16 ≤ s.recordRoom 0 ∧ arrives s (frame 1 5 3 b) = true ∧ (frame 1 5 3 b).seq ≠ (s.stream 0).rxSeq := by decide +kernel

/-- The commit of the one record of an object that waits for it. -/
theorem witness_Commits : let r := { held (List.replicate 8 1) with offset := 8 }
    let j := { objectJob 0x0701 none with phase := .closing }
    let s := onStream 0 stMoving { Stream.off with records := [r], currentJob := some 0 } j 0 []
    let f := frame 2 0 0 (leBytes 4 0 ++ leBytes 4 1000 ++ leBytes 8 8 ++ leBytes 4 1 ++ leBytes 4 0)
    arrives s f = true ∧ f.kind = 2 ∧ s.streamDir 0 = 0 ∧ s.jobs = [j] ∧ j.phase = .closing ∧ (s.stream 0).currentJob = some j.id ∧ j.status = BitVec.ofNat 8 jsOk ∧ (s.stream 0).records = [r] ∧ r.offset = r.bytes.length ∧
    r.endPos ≤ field (frameContent f) 8 8 ∧ r.rsn.toNat = field (frameContent f) 16 4 ∧ (s.stream 0).marksSent = [] := by decide +kernel

/-- RATE with one step at rest, whose BUFFER allows it, and with none. -/
theorem witness_Rates : ∀ buffer ∈ [0, 2 ^ 31], let s := onStream 0 stWaiting Stream.off (objectJob 0x0701 none) 0 []
    let f := frame 3 0 0 (leBytes 1 1 ++ leBytes 1 0xFF ++ leBytes 2 0 ++ leBytes 4 buffer ++ leBytes 4 100 ++ leBytes 2 10 ++ leBytes 2 0)
    let b := frameContent f
    arrives s f = true ∧ f.kind = 3 ∧ s.streamDir 0 = 0 ∧ f.seq = (s.stream 0).rxSeq ∧ s.bodyOk 3 b = true ∧ s.streamState 0 = stWaiting ∧ (s.stream 0).steps = [] ∧ (s.stream 0).records = [] ∧ field b 1 1 = 0xFF ∧
    (s.setStream 0 { s.stream 0 with steps := rateSteps b, buffer := field b 4 4 }).stepAllowed 0 0 = decide (0 < buffer) := by decide +kernel

theorem witness_Statuses : let s := onStream 0 stGliding Stream.off (objectJob 0x0704 none) 0 []
    let f := frame 8 0 0 (List.replicate 24 0)
    arrives s f = true ∧ f.kind = 8 ∧ s.streamDir 0 = 0 ∧ s.streamState 0 = stGliding ∧ field (frameContent f) 0 1 = 0 ∧ (s.stream 0).records = [] ∧ (s.attemptOf 0 0x0704).isSome = true := by decide +kernel

/-- Marks: END_OBJECT on a feed with all, fewer and more bytes than the object has; END_OF_DATA; EARLY_WARNING. -/
theorem witness_Marks : (∀ n ∈ [64, 63, 65], let x := { Stream.off with currentJob := some 0, feedOffset := n }
     let s := onStream 2 stMoving x (objectJob 0x0701 none) 1 []
     let f := frame 6 0 0 (leBytes 1 1 ++ List.replicate 15 0)
     arrives s f = true ∧ f.kind = 6 ∧ s.streamDir 0 = 2 ∧ f.seq = x.rxSeq ∧ s.bodyOk 6 (frameContent f) = true ∧ x.dropping = false ∧ (s.carried 0).map (fun j => (j.phase, j.entry.opcode, j.obj.voided)) = some (.running, 0x0701, false) ∧ (s.carried 0).map (·.obj.feedEnded) = some false ∧ BitVec.ofNat 32 (field (frameContent f) 4 4) = x.ordinal) ∧
    (let x := { Stream.off with ordinal := 5 }
     let s := onStream 2 stMoving x (objectJob 0x0701 none) 1 []
     let f := frame 6 0 0 (leBytes 1 1 ++ List.replicate 15 0)
     arrives s f = true ∧ s.bodyOk 6 (frameContent f) = true ∧ BitVec.ofNat 32 (field (frameContent f) 4 4) ≠ x.ordinal) ∧
    (let x := { Stream.off with records := [{ held [] with kind := 4 }] }
     let s := onStream 1 stMoving x (objectJob 0x0702 none) 0 []
     let f := frame 6 0 0 (leBytes 1 3 ++ List.replicate 15 0)
     arrives s f = true ∧ s.bodyOk 6 (frameContent f) = true ∧ (x.records.any fun r => r.kind = 4 && !r.taken) = true) ∧
    (let x := { Stream.off with currentJob := some 0 }
     let s := onStream 1 stMoving x (objectJob 0x0702 none) 0 []
     let f := frame 6 0 0 (leBytes 1 3 ++ List.replicate 15 0)
     arrives s f = true ∧ s.bodyOk 6 (frameContent f) = true ∧ (x.records.any fun r => r.kind = 4 && !r.taken) = false ∧ (s.carried 0).map (fun j => (j.phase, j.entry.opcode)) = some (.running, 0x0702)) ∧
    (let s := onStream 0 stMoving Stream.off (objectJob 0x0701 none) 0 []
     let f := frame 6 0 0 (leBytes 1 4 ++ List.replicate 15 0)
     arrives s f = true ∧ s.bodyOk 6 (frameContent f) = true) := by decide +kernel

/-- The ERROR codes that a party names. -/
theorem witness_Errors : (∀ c ∈ [1, 3, 5, 6], let s := onStream 0 stMoving Stream.off (objectJob 0x0701 none) 0 []
     let f := frame 9 0 0 (leBytes 2 c ++ List.replicate 6 0)
     arrives s f = true ∧ f.kind = 9 ∧ s.streamDir 0 = 0 ∧ s.streamState 0 ≠ stFaulted ∧ s.carried 0 = none ∧ s.canDraw 16 1 ∧ field (frameContent f) 0 2 = c) ∧
    (let s := onStream 1 stMoving { Stream.off with currentJob := some 0 } (objectJob 0x0702 none) 0 []
     let f := frame 9 0 0 (leBytes 2 2 ++ List.replicate 6 0)
     arrives s f = true ∧ s.streamDir 0 = 1 ∧ field (frameContent f) 0 2 = 2 ∧ (s.carried 0).map (fun j => (j.phase, j.entry.opcode)) = some (.running, 0x0702)) := by
  unfold State.canDraw; decide +kernel

/-- A stream that acts and one that does not; below its threshold at step 1, with a step to go down to and with none; frames to send again within the limit and at it. -/
theorem witness_StreamTimers : let u : UnackedFrame := { frame := { destination := [], source := [], vlan := none, etherType := 0x88B6, stream := 0, kind := 1, epoch := 9, seq := 0, flags := 0, body := [] }, at_ := 0 }
    let x := { Stream.off with steps := [(10, 1), (100, 10)], buffer := 2 ^ 31, ackedEnd := 20000, unacked := [u], rxSeq := 3 }
    let s := onStream 0 stMoving x (objectJob 0x0701 none) 0 [(Key.mediaStreamStep 0, 1)]
    let low := onStream 0 stMoving { x with ackedEnd := 0 } (objectJob 0x0701 none) 0 [(Key.mediaStreamStep 0, 1)]
    (onStream 0 stDisabled Stream.off (objectJob 0x0701 none) 0 []).streamActs 0 = false ∧ s.streamActs 0 = true ∧ s.streamState 0 = stMoving ∧ x.flush = false ∧ x.filling = false ∧ x.level < s.threshold 0 (s.streamStep 0) ∧
    s.highestStep 0 (s.streamStep 0) (fun k => decide (s.threshold 0 k ≤ x.level)) = some 0 ∧ low.highestStep 0 (low.streamStep 0) (fun k => decide (low.threshold 0 k ≤ (low.stream 0).level)) = none ∧
    x.unacked ≠ [] ∧ x.timedOut = false ∧ x.retries < s.entry Key.vspControlRetransmitLimit ∧ s.entry Key.vspControlRetransmitLimit ≤ ({ x with retries := 8 } : Stream).retries ∧ (∀ v ∈ x.unacked, s.portUp v.frame.stream = true) ∧
    x.rxSeq ≠ x.rxAcked ∧ s.portUp 0 = true ∧ (lit []).portUp 0 = false ∧ (onStream 2 stMoving x (objectJob 0x0701 none) 1 []).streamDir 0 = 2 := by decide +kernel

/-! ### Witnesses: the shelf bus, mailboxes and the dictionary -/

/-- A frame to this device's address: operation, flags, session, entry, data, tag. -/
def hopFrame (op flags session index sub : Nat) (data tag : Bytes) : HopFrame :=
  { source := 0x123456, destination := Config.shelfMac, tagged := false, etherType := 0x88B5, payload := max 46 (24 + data.length + tag.length), minimum := data.length + tag.length < 22, version := 1, op := BitVec.ofNat 8 op,
    flags := BitVec.ofNat 8 flags, result := 0, session := BitVec.ofNat 32 session, seq := 5, index := BitVec.ofNat 16 index, sub := BitVec.ofNat 8 sub, rsv15 := 0, offset := 0, length := BitVec.ofNat 16 data.length, rsv22 := 0,
    data := data, tag := tag }

theorem hopFrame_addressed (op flags session index sub : Nat) (data tag : Bytes) : hopAddressed (hopFrame op flags session index sub data tag) = true := by
  simp [hopAddressed, hopFrame]

/-- DISCOVER also goes to the broadcast address. -/
theorem witness_HopDiscover : hopAddressed { hopFrame 8 0 0 0 0 [] [] with destination := 0xFFFFFFFFFFFF } = true := by
  simp [hopAddressed, hopFrame]

/-- A requester's last request and its response. -/
def answered : RequesterState :=
  { who := .address 0x123456, assembly := none, snapshot := none, lastSeq := some 5,
    lastResponse := some { destination := 0x123456, op := 1, flags := 1, result := 0, session := 0, seq := 5, index := 0, sub := 0, offset := 0, data := [], tag := [] } }

/-- An open session with a key. -/
def openSession : HopSession := { number := 9, keySlot := 0, address := 0x123456, key := List.replicate 32 4, lastSeq := 4 }

/-- Every operation is taken; a bad version is dropped; one SEQ is repeated; session 9 is open. -/
theorem witness_HopRequests : (∀ op ∈ [1, 2, 3, 4, 5, 6, 7, 8], let s := lit []
     let f := hopFrame op 0 0 0x1000 1 [] []
     (s.hop.server.isSome = true ∧ s.supplies.sysclk = true) ∧ f.op.toNat = op ∧ s.hopDrops f = false ∧ s.hopDrops { f with version := 2 } = true ∧ f.session = 0 ∧ (s.requester (.address f.source)).lastSeq ≠ some f.seq) ∧
    (let s := { lit [] with hop := { (lit []).hop with requesters := [answered] } }
     (s.requester (.address 0x123456)).lastSeq = some 5 ∧ (s.requester (.address 0x123456)).lastResponse.isSome = true) ∧
    (let s := { lit [] with hop := { (lit []).hop with sessions := [openSession] } }
     s.hopSession 9 = some openSession ∧ s.hopSession 8 = none ∧ s.hopDrops (hopFrame 1 2 9 0x1000 1 [] (List.replicate 16 0)) = false ∧ HopIn.auth (hopFrame 1 0 9 0x1000 1 [] []) = false) := by decide +kernel

/-- READ of an entry that exists and of one that does not, the first part and a later one; WRITE refused. -/
theorem witness_HopReads : let s := lit []
    let s1 := s.bump Key.shelfBusFramesReceived
    s1.judgeRead .hopPlain 0x1000 1 = drOk ∧ s1.judgeRead .hopPlain 0x0FFF 1 ≠ drOk ∧ (hopFrame 1 0 0 0x1000 1 [] []).offset = 0 ∧ s.roomFor (.address 0x123456) = true ∧ (s.requester (.address 0x123456)).snapshot = none ∧
    s.hop.server = some .firmware ∧ HopIn.more (hopFrame 2 0 0 0x1000 3 [0xA5] []) = false ∧ s1.judgeWrite .hopPlain 0x1000 3 [0xA5] ≠ drOk := by decide +kernel

/-- A WRITE in session 9 whose tag is right. -/
theorem witness_HopSessionWrite : let s := { lit [] with hop := { (lit []).hop with sessions := [openSession] } }
    let g := hopFrame 2 2 9 0x1000 3 [0xA5] (List.replicate 16 0)
    let f := { g with tag := hopTag openSession.key g.destination g.source (hopHeader g.op.toNat g.flags.toNat g.result.toNat g.session g.seq g.index.toNat g.sub.toNat g.offset.toNat g.length.toNat) g.data }
    s.hopDrops f = false ∧ HopIn.auth f = true ∧ HopIn.more f = false ∧ f.offset = 0 ∧ f.session ≠ 0 ∧ s.hopSession f.session = some openSession ∧
    f.tag = hopTag openSession.key f.destination f.source (hopHeader f.op.toNat f.flags.toNat f.result.toNat f.session f.seq f.index.toNat f.sub.toNat f.offset.toNat f.length.toNat) f.data ∧
    (s.requester (.session 9)).lastSeq ≠ some f.seq ∧ openSession.lastSeq.toNat < f.seq.toNat ∧ ((s.bump Key.shelfBusFramesReceived).noteSeq 9 f.seq).judgeWrite (.hopSession 9) 0x1000 3 [0xA5] = drOk :=
  by
  intro s g f
  refine ⟨?_, ?_, ?_, ?_, ?_, ?_, ?_, ?_, ?_, ?_⟩
  · decide +kernel
  · decide +kernel
  · decide +kernel
  · decide +kernel
  · decide +kernel
  · decide +kernel
  · rfl
  · decide +kernel
  · decide +kernel
  · decide +kernel

/-- A device in FIELD; AUTH_BEGIN of 40 bytes for key 0 whose hash is there, for key 3 whose hash is not. -/
def fielded (dict : List (Nat × Nat)) : State :=
  { lit dict with roots := { State.reset.roots with c1 := 0xEEBB, c2 := 0xEEBB, c3 := 0xEEBB, copiesRead := 0xEEBBEEBBEEBB, urs := some (List.replicate 32 2), attestSecret := some (List.replicate 32 1) } }

theorem witness_AuthBegin : let s := fielded []
    let f := hopFrame 4 0 0 0 0 (List.replicate 40 0) []
    s.authServer = drOk ∧ s.hop.lockedOut = false ∧ s.trustedHash (field f.data 0 1) ≠ none ∧ f.data.length = 40 ∧ field f.data 1 7 = 0 ∧ s.hop.sessions.length < 4 ∧ s.hop.pending = none ∧ s.hop.authWait = none ∧ s.canDraw 16 3 ∧ s.trustedHash 3 = none ∧ (({ s with entropy := Entropy.reset } : State).drbg 16).ready = false := by
  unfold State.canDraw; decide +kernel

/-- The last fragment of an AUTH_FINISH of 8,307 bytes for the pending session. -/
theorem witness_AuthFinish : let p : PendingSession := { number := 7, keySlot := 0, address := 0x123456, nonceM := [], nonceD := [], ephemeral := [], encapKey := [] }
    let b := List.replicate 7280 (0#8)
    let r : RequesterState := { who := .address 0x123456, assembly := some (0xFFFF05, b), snapshot := none, lastSeq := none, lastResponse := none }
    let s := { fielded [] with hop := { (lit []).hop with pending := some p, requesters := [r] } }
    let f := { hopFrame 5 0 7 0 0 (List.replicate 1027 0) [] with offset := 7280 }
    s.hopDrops f = false ∧ s.authServer = drOk ∧ HopIn.more f = false ∧ s.pendingFor f = some p ∧ (s.requester (.address f.source)).assembly = some (0xFFFF05, b) ∧ f.offset ≠ 0 ∧ f.offset.toNat = b.length ∧
    (b ++ f.data).length = 8307 ∧ (s.requester (.address f.source)).lastSeq ≠ some f.seq := by
  refine ⟨by decide +kernel, by decide, by decide, rfl, rfl, by decide, ?_, ?_, by decide⟩
  · exact (List.length_replicate).symm
  · simp only [List.length_append, List.length_replicate, hopFrame]

/-- AUTH_END in session 9; WAKE from LOW, allowed and not. -/
theorem witness_HopWake : (let s := { lit [] with power := .low }
     s.hop.server ≠ some .rom ∧ s.power = .low ∧ s.entering = none ∧ s.hopWakeRefused = !s.flag Key.powerControlHopWakeEnable) ∧
    ({ lit [(Key.powerControlHopWakeEnable, 1)] with power := .low } : State).hopWakeRefused = false ∧ ({ lit [(Key.powerControlHopWakeEnable, 0)] with power := .low } : State).hopWakeRefused = true := by decide +kernel

/-- A slice whose mailbox is served, one whose link is another; READ of an entry and of none. -/
theorem witness_Mailboxes : let s := onQueue qActive 0 Queue.idle [] []
    s.mailboxOn 0 0 = true ∧ (s.mailbox 0).status.getLsbD 31 = false ∧ ({ s with mailboxes := [(0, { Mailbox.clear with status := 0x80000000 })] }.mailbox 0).status.getLsbD 31 = true ∧ s.mailboxOn 1 0 = false ∧ s.linkUp 0 = true ∧ s.linkUp 7 = false ∧ s.judgeRead (.mailbox 0) (mbIndex 0x000FFF01) (mbSub 0x000FFF01) ≠ drOk ∧
    s.judgeRead (.mailbox 0) (mbIndex 0x00280001) (mbSub 0x00280001) = drOk ∧ (s.readBytes (mbIndex 0x00280001) (mbSub 0x00280001)).length ≤ 8192 := by decide +kernel

/-- Writes that are accepted, refused, and that reach no server. -/
theorem witness_EntryWrites : let s := onQueue qActive 0 Queue.idle [] []
    s.reaches .firmware = true ∧ ({ s with hop := { s.hop with server := none } } : State).reaches .firmware = false ∧ s.judgeWrite .firmware 0x2400 1 (leBytes 2 0) = drOk ∧ s.judgeWrite .firmware 0x2400 3 (leBytes 2 0xFFFF) = drOk ∧
    s.judgeWrite .firmware 0x2400 1 [] ≠ drOk ∧ isOverflow 0x2400 1 = false ∧ isOverflow 0x25FF 3 = false ∧ s.judgeWrite .firmware 0x2000 0x0A [7] = drOk ∧ s.judgeWrite .firmware 0x2007 0x0A [0] = drOk := by decide +kernel

theorem witness_EntryEffects : let s := onQueue qActive 0 Queue.idle [] [(0xA400 * 256 + 1, 1), (Key.bootControlRunningSlot, 1)]
    s.judgeWrite .firmware 0x1000 3 [0xA5] = drOk ∧ s.judgeWrite .firmware 0x2020 1 (leBytes 2 511) = drOk ∧ s.judgeWrite .firmware 0xB010 0x0F [0] = drOk ∧ healthIndex (uWick 0) = some 0xA400 ∧
    s.judgeWrite .firmware 0xA400 6 [1] = drOk ∧ (List.replicate 256 (0#8)).length = 256 ∧ s.judgeWrite .firmware 0x1101 9 (List.replicate 256 0) = drOk ∧ s.entry Key.bootControlRunningSlot = 1 := by decide +kernel

/-- A window of 4 KiB at 10,000h with both rights, written with no read in flight, with one in flight, and while an earlier write waits; the return of that read. -/
theorem witness_HostWindows : let s := onQueue qActive 0 Queue.idle [] []
    let r : RingRun := { start := 0, len := 1, epoch := 0, dropped := true }
    let q : Queue := { Queue.idle with runs := [r] }
    let x : WindowWrite := { slice := 0, window := 1, value := 0, reply := .path .firmware, taken := true }
    let u := { s with queues := [(0, q)] }
    let b := { u with dict := (u.setEntry (Key.hostWindowsEpoch 0) 1).dict, windowWrites := [x] }
    (∀ w ∈ s.windowWrites, w.slice ≠ 0) ∧ (s.queues.any fun p => s.slotSlice p.1 = 0 && p.2.runs.any fun r => r.epoch ≠ 1) = false ∧ (u.queues.any fun p => u.slotSlice p.1 = 0 && p.2.runs.any fun r => r.epoch ≠ 1) = true ∧
    b.oldReads 0 = true ∧ b.windowWrites = [x] ∧ b.queues = [(0, q)] ∧ x.slice = b.slotSlice 0 ∧ b.judgeWrite .firmware 0x6400 1 (leBytes 8 0) = drOk ∧
    let v : BitVec 64 := 0x10000 + 12 * 64 + 0x31
    s.judgeWrite .firmware 0x6400 1 (leBytes 8 v.toNat) = drOk ∧ s.judgeWrite .firmware 0x65FF 64 (leBytes 8 v.toNat) = drOk ∧ windowGrants (v &&& ~~~(0xE#64)).toNat 0x10FFF 1 false true = true := by decide +kernel

/-- Writes of tenants, of a requester without a session, and of one whose session has ended. -/
theorem witness_WriteRights : let s := onQueue qActive 0 Queue.idle [] []
    s.hop.server = some .firmware ∧ s.lifeCycle ≠ lcRetired ∧ (1 ≠ s.ownerSlice ∧ s.belongs 1 0x2800 = false) ∧ ¬((0x1000#16) = 0x1100 ∧ ((3#8) = 4 ∨ (3#8) = 0x0D)) ∧ (s.hop.sessions.all fun x => decide (x.number ≠ 3)) = true ∧
    ∀ p ∈ [Path.mailbox 1, .hopPlain, .hopSession 3], ∃ t, exec (.dictEntryWrite p 0x1000 3 [0xA5]) s = .next t := by
  refine ⟨by decide, by decide, by decide +kernel, by decide, by decide, fun p _ => ⟨_, rfl⟩⟩

/-! ### Witnesses: tenancy, entropy, life cycle, power -/

theorem witness_TenancyAndErase : (let s := lit []
     s.reaches .firmware = true ∧ s.judgeWrite .firmware 0x2400 7 [1] = drOk) ∧
    (let s := { lit [] with clearing := [511] }
     511 ∈ s.clearing ∧ (s.extents.all fun e => decide (e.slice ≠ 511)) = true) ∧
    ({ lit [] with clearingAll := true } : State).clearingAll = true ∧ (lit []).canDraw 16 513 ∧ ({ lit [] with sealSets := [(511, [1])] } : State).sealSet 511 ≠ [] ∧
    (let s := lit []
     s.judgeWrite .firmware 0x8105 9 [1] = drOk ∧ s.erasing = [] ∧ s.slotHeld 5 s.nextJob = false) ∧
    (let s := { running 0x0202 0x21 0 with nextJob := 1 }
     s.judgeWrite .firmware 0x8105 9 [1] = drOk ∧ s.erasing = [] ∧ s.slotHeld 5 s.nextJob = true) := by
  unfold State.canDraw; decide +kernel

/-- Embers of each kind; the severities of 0B01h and 0B02h at their defaults. -/
def embers (a b c d : Ember) : State := { lit [] with entropy := { (lit []).entropy with embers := [(0, a), (1, b), (2, c), (3, d)] } }

theorem witness_Embers : let f := embers .failed .healthy .healthy .healthy
    let t := embers .testing .healthy .healthy .failed
    let h := embers .healthy .healthy .healthy .healthy
    let l := embers .healthy .healthy .failed .failed
    (f.hubOn = true ∧ f.severityOf 0x0B01 ≤ 1 ∧ f.severityOf 0x0B02 ≤ 1 ∧ f.ember 0 = .failed) ∧ (t.ember 0 = .testing ∧ t.entropy.startupDone = true ∧ 2 ≤ t.healthyEmbers) ∧ (h.ember 0 = .healthy ∧ 3 ≤ h.healthyEmbers) ∧
    (l.ember 0 = .healthy ∧ l.healthyEmbers ≤ 2 ∧ l.entropy.gutter = false ∧ l.entropy.startupDone = true) := by decide +kernel

/-- Half a seed of ember 0, with an instance that holds and without; instances to instantiate and to reseed; no stream waits for an EPOCH. -/
theorem witness_Seeds : let h := embers .healthy .healthy .healthy .healthy
    let x := { h.entropy with halfSeeds := [(0, List.replicate 32 9)] }
    (h.hubOn = true ∧ h.ember 1 = .healthy ∧ h.entropy.gutter = false ∧ h.entropy.failed = false ∧ (∀ k ∈ h.entropy.halfSeeds, k.1 = 1) ∧ repetitionFails 0 false (blockSamples 0) = true ∧ repetitionFails 0 false (blockSamples (BitVec.ofNat 512 ((2 ^ 512 - 1) / 3))) = false ∧ h.hop.authWait = none ∧ x.halfSeeds = [(0, List.replicate 32 9)] ∧ 0 ≠ 1 ∧ x.holdOrder = [] ∧ ({ x with holdOrder := [16] } : Entropy).holdOrder = 16 :: [] ∧
      ∀ m ∈ h.liveStreams, (h.stream m).epochDue = false) ∧
    (let s := { lit [] with entropy := { Entropy.reset with pool := [List.replicate 48 1] } }
     (s.drbg 16).ready = false ∧ (∀ k, instanceBefore 16 = some k → (s.drbg k).ready = true) ∧ s.entropy.pool ≠ [] ∧ s.entropy.failed = false ∧ s.hop.server = some .firmware ∧ ({ s with hop := { s.hop with server := some .rom } } : State).hop.server ≠ some .firmware) ∧
    (∀ pool ∈ [[], [List.replicate 48 (1#8)]], let s := { lit [] with entropy := { (lit []).entropy with drbgs := [(0, { Drbg.off with ready := true, requests := 4096 })], pool := pool } }
     (s.drbg 0).ready = true ∧ (s.drbg 0).holding = false ∧ 4096 ≤ (s.drbg 0).requests ∧ s.entropy.pool = pool) := by
  refine ⟨by decide +kernel, ⟨by decide, ?_, by decide, by decide, by decide, by decide⟩, by decide +kernel⟩
  intro k h
  simp [instanceBefore] at h

theorem witness_Gutter : let j := { job .running 0x0202 0x21 0 [uWick 0] with waitsEntropy := true }
    let s := { lit [] with jobs := [j], entropy := { (lit []).entropy with gutter := true } }
    s.entropy.gutter = true ∧ s.entropy.expired = false ∧ s.severityOf 0x0B03 ≤ 1 ∧ s.jobs = [j] ∧ j.waitsEntropy = true ∧ j.phase = .running ∧ isObject j.entry.opcode = false := by decide +kernel

theorem witness_KnownAnswers : (lit []).judgeWrite .firmware 0x8010 8 [1] = drOk ∧ (lit []).severityOf 0x0B04 ≤ 1 ∨ (lit []).judgeWrite .firmware 0x8010 8 [1] = drOk ∧ (lit [(Key.faultSeveritySeverity 10 3, 1)]).severityOf 0x0B04 ≤ 1 := by decide +kernel

/-- A device that boots from the pilot, with three fuse copies. -/
def booting (a b c : BitVec 16) : State :=
  { State.reset with roots := { State.reset.roots with c1 := a, c2 := b, c3 := c }, entropy := { Entropy.reset with drbgs := drbgs }, dict := Table.set (dictDefault .a256) [] Key.pilotPowerLastWakeSource 6 }

/-- Majorities that are a code (one copy lacks a bit, or has one more) and one that is none; a supply for every draw. -/
theorem witness_FuseCopiesAtBoot : (∀ p ∈ [((0x0C3A : BitVec 16), (0x0C3A : BitVec 16), (0x0000 : BitVec 16)), (0x0000, 0x0000, 0x0001), (0xFFFF, 0xFFFF, 0), (0x0001, 0x0001, 0x0000)], let s := booting p.1 p.2.1 p.2.2
      s.hubOn = true ∧ s.power = .booting ∧ s.haltLatched = false ∧ s.hop.server = some .pilot ∧ s.fatal = none ∧ s.canDraw 16 8) :=
  fun _ _ => ⟨rfl, rfl, (by decide : (booting 0 0 0).haltLatched = false), rfl, rfl, rfl, rfl, (by decide : ((booting 0 0 0).drbg 16).requests + 8 ≤ 4096)⟩

/-- RAW, TEST and SCRAP; no slot reads; a device that is not ready to boot. -/
theorem witness_Boots : (∀ m ∈ [((0 : BitVec 16), lcRaw), (0x0C3A, lcTest), (0xFFFF, lcScrap)], let s := booting m.1 m.1 m.1
      s.hubOn = true ∧ s.power = .booting ∧ s.haltLatched = false ∧ s.hop.server = some .pilot ∧ s.fatal = none ∧ lifeCode (majority m.1 m.1 m.1) = m.2 ∧ s.canDraw 16 1 ∧ s.entry Key.pilotPowerLastWakeSource = 6 ∧
      slotCheck false [] (s.entry Key.bootControlMinFirmwareVersion) ≠ 0) ∧ ¬((lit []).power = .booting) := by
  unfold State.canDraw; decide +kernel

/-- The entry to LIT is due; it is not while the reservoir is being cleared; a handover that fits and one that does not. -/
theorem witness_LitEntry : let s := { lit [] with power := .booting }
    (s.power = .booting ∧ s.hop.server = some .firmware ∧ s.clearingAll = false ∧ s.lifeCycle ≠ lcRetired ∧ s.fatal = none ∧ s.haltLatched = false) ∧ ({ s with clearingAll := true } : State).clearingAll ≠ false ∧
    s.mayServe .firmware = true ∧ s.mayServe .rom = false := by decide +kernel

/-- A transition request of zeros, which fails its checks, and the judgement of the write; KeyRowsProgram in TEST. -/
theorem witness_LifeCycle : (let s := lit []
     s.reaches .firmware = true ∧ s.supplies.rails = 0xFF ∧ s.transitionCheck [] ≠ 0 ∧ s.haltLatched = false ∧ s.tamper.snuffDue = none ∧ ({ s with supplies := { s.supplies with rails := 0xFE } } : State).supplies.rails ≠ 0xFF) ∧
    (let s := { lit [] with roots := { State.reset.roots with c1 := 0x0C3A, c2 := 0x0C3A, c3 := 0x0C3A, copiesRead := 0x0C3A0C3A0C3A } }
     s.judgeWrite .firmware 0x1100 0x0D [1] = drOk ∧ s.canDraw 16 1 ∧ s.roots.rowPartial = false) ∧
    ({ lit [] with roots := { State.reset.roots with c1 := 0x0C3A, c2 := 0x0C3A, c3 := 0x0C38 } } : State).fusePlan 0x0C3A = [((2 : Fin 3).val, (1 : Fin 16).val)] := by
  unfold State.canDraw; decide +kernel

theorem leNat_zeros (n : Nat) : leNat (List.replicate n 0) = 0 := by
  induction n with
  | zero => rfl
  | succ n ih => simp only [List.replicate_succ, leNat, ih]; rfl

theorem witness_TransitionRequest : (lit []).judgeWrite .firmware 0x1100 4 (List.replicate 7347 0) = drOk := by
  unfold State.judgeWrite
  simp only [leNat_zeros, List.length_replicate]
  decide +kernel

theorem witness_DeviceResets : (∀ p ∈ [PowerState.lit, .low, .booting], let s := { lit [] with power := p }
      (s.power = .lit ∨ s.power = .low ∨ s.power = .booting) ∧ s.hubOn = true ∧ s.haltLatched = false ∧ s.tamper.snuffHalt = false) ∧ ¬(PowerState.dark = .lit ∨ PowerState.dark = .low ∨ PowerState.dark = .booting) := by decide +kernel

/-- An idle device in LIT and LOW, one with a job, and one whose timers have run out. -/
theorem witness_PowerStates : (let s := lit []
     s.reaches .firmware = true ∧ s.judgeWrite .firmware 0xB000 1 [2] = drOk ∧ s.judgeWrite .firmware 0xB000 1 [3] = drOk ∧ s.judgeWrite .firmware 0xB000 1 [1] = drOk ∧ s.power = .lit ∧ s.entering = none ∧ s.fatal = none ∧ s.entryRefuser false = none ∧ s.entryRefuser true = none) ∧
    (let s := { lit [] with power := .low }
     s.judgeWrite .firmware 0xB000 1 [2] = drOk ∧ s.power = .low ∧ s.haltLatched = false ∧ s.entryRefuser true = none) ∧
    ((running 0x0202 0x21 0).entryRefuser false).isSome = true ∧ ((running 0x0202 0x21 0).entryRefuser true).isSome = true ∧
    (let s := { lit [(Key.powerControlLowAfterIdleMs, 10)] with timestamp := 100000 }
     s.entry Key.powerControlLowAfterIdleMs ≠ 0 ∧ s.idle = true ∧ s.activityAt.toNat + msTicks 10 ≤ s.timestamp.toNat ∧ s.entryRefuser false = none) ∧
    (let s := { lit [(Key.powerControlDarkAfterLowS, 1)] with power := .low, timestamp := 100000 }
     s.entry Key.powerControlDarkAfterLowS = 1 ∧ s.lowSince.toNat + 1 * 32768 ≤ s.timestamp.toNat ∧ s.entryRefuser true = none) := by decide +kernel

/-- An entry in progress, before its commit point and at it. -/
theorem witness_PowerEntries : ∀ d : Bool, ∀ due ∈ [1, 100], let s := { lit [] with entering := some { dark := d, due := due } }
    s.entering = some { dark := d, due := due } ∧ s.pending = [] ∧ s.hubOn = true ∧ s.tamper.snuffDue = none ∧ s.hop.authWait = none ∧ (s.hubCycle + 1 < due ↔ due = 100) := by decide

/-- The wake timer meets an entry in progress. -/
theorem witness_WakeAborts : let s := { lit [(Key.pilotPowerWakeAtTime, 5)] with timestamp := 5, entering := some { dark := false, due := 100 } }
    s.haltLatched = false ∧ s.hubCycle < 100 ∧ s.entry Key.pilotPowerWakeAtTime ≠ 0 ∧ s.supplies.vstby = true ∧ s.power ≠ .cell ∧ s.entry Key.pilotPowerWakeAtTime ≤ s.timestamp.toNat := by decide +kernel

/-- Pin 7 by level, asserted high; a host wake; the wake timer. -/
theorem witness_Wakes : (let s := { lit [(Key.wakePinsWakePinConfig 7, 3)] with power := .low }
     s.haltLatched = false ∧ s.entering = none ∧ s.supplies.vstby = true ∧ bitOf (s.entry (Key.wakePinsWakePinConfig 7)) 0 = true ∧ s.pinAsserted 7 = false ∧
     ({ s with supplies := { s.supplies with wakeLevels := BitVec.ofNat 8 (withBit s.supplies.wakeLevels.toNat 7 true) } } : State).pinAsserted 7 = true ∧ bitOf (s.entry (Key.wakePinsWakePinConfig 0)) 0 = false) ∧
    (let s := { onQueue qActive 0 { Queue.idle with cache := [(0, ringEntry 0x0202 0x21 0)] } [] [(Key.powerControlHostWakeEnable, 1)] with power := .low }
     s.power = .low ∧ s.flag Key.powerControlHostWakeEnable = true ∧ (s.queue 0).cache ≠ []) ∧
    (let s := { lit [(Key.pilotPowerWakeAtTime, 5)] with power := .dark, timestamp := 5 }
     s.entry Key.pilotPowerWakeAtTime ≠ 0 ∧ s.supplies.vstby = true ∧ s.power = .dark ∧ s.entry Key.pilotPowerWakeAtTime ≤ s.timestamp.toNat) ∧ (lit []).entry Key.pilotPowerWakeAtTime = 0 ∧
    (let s := { lit [(Key.wakePinsWakePinConfig 7, 3)] with power := .low, supplies := { (lit []).supplies with wakeLevels := 0x80 } }
     s.levelHeld 7 = true ∧ (∀ k < 7, s.levelHeld k = false) ∧ s.tamper.snuffDue = none ∧ s.hop.authWait = none ∧ s.supplies.vstby = true) := by decide +kernel

/-- With and without VSTBY and a cell; MAIN_EN to assert; a failed start; HALT latched. -/
theorem witness_SuppliesAndRails : let s := State.reset
    let x := s.supplies
    x.vstby = true ∧ x.mainEn = true ∧ x.rails.getLsbD 1 = true ∧ (let c := { s with power := .cell, supplies := { x with vstby := false } }
     c.power = .cell ∧ c.supplies.vstby = false ∧ c.supplies.vbat = true) ∧ (let c := { s with supplies := { x with vstby := false, vbat := false } }
     c.supplies.vstby = false ∧ c.supplies.vbat = false) ∧ (let c := { s with supplies := { x with mainEn := false } }
     c.power = .booting ∧ c.supplies.mainEn = false ∧ c.supplies.vstby = true) ∧ (let c := { s with supplies := { x with rails := 1 } }
     c.power = .booting ∧ c.supplies.mainEn = true ∧ c.supplies.rails ≠ 0xFF ∧ c.hubMonitors = false) ∧ s.haltLatched = false ∧
    (let c := { lit [(Key.tamperStatusHaltLatched, 1)] with power := .halted }
     c.haltLatched = true ∧ c.supplies.vstby = true ∧ c.power = .halted) := by decide +kernel

/-- Sconce 0 on, at a change of level, off and powering up; busy and draining; a sample. -/
theorem witness_Sconces : (let s := lit [(Key.sconcePowerState 0, 1), (Key.sconcePowerCurrentLevel 0, 0)]
     s.reaches .firmware = true ∧ s.judgeWrite .firmware 0x4200 2 [5] = drOk ∧ s.entry (Key.sconcePowerState 0) = 1 ∧ s.entry (Key.sconcePowerCurrentLevel 0) ≠ 5 ∧ s.judgeWrite .firmware 0x4200 1 [0] = drOk ∧ s.judgeWrite .firmware 0x420F 1 [0] = drOk) ∧
    (lit [(Key.sconcePowerState 0, 2)]).entry (Key.sconcePowerState 0) = 2 ∧
    (let s := { lit [(Key.sconcePowerState 0, 1)] with sconces := [(0, { target := 0, draining := true })] }
     (s.sconce 0).draining = true ∧ s.sconceBusy 0 = false) ∧ (running 0x0202 0x21 0).sconceBusy 0 = true ∧
    (let s := lit [(Key.sconcePowerState 0, 0)]
     s.judgeWrite .firmware 0x4200 1 [1] = drOk ∧ s.entry (Key.sconcePowerState 0) = 0 ∧ s.power = .lit) ∧
    (let s := lit [(Key.sconcePowerState 0, 3), (Key.sconcePowerEnable 0, 1)]
     s.flag (Key.sconcePowerEnable 0) = true ∧ s.entry (Key.sconcePowerState 0) = 3 ∧ (s.drbg 0).ready = true ∧ s.tamper.snuffDue = none ∧ s.entering = none ∧ s.hop.authWait = none ∧ s.power ≠ .low ∧ s.hubOn = true ∧ ({ s with power := .dark, supplies := { s.supplies with rails := 0 } } : State).hubOn = false) ∧ (State.reset.drbg 0).ready = false ∧
    (List.replicate 17 (0#32)).length = 17 ∧ (List.replicate 9 (0#16)).length = 9 := by decide +kernel

/-! ### Witnesses: tamper, faults, reservoir, tapers -/

/-- Each response; a source disarmed; a rail of the mantle, a temperature outside its limits; bursts. -/
theorem witness_TamperAlarms : (∀ r : Fin 3, let s := lit ((List.range 10).map fun k => (Key.tamperControlResponse k, r.val))
      s.hubMonitors = true ∧ s.tamper.testSource = none ∧ s.tamper.snuffDue = none ∧ ∀ src ∈ [1, 2, 3, 4, 5, 10], s.tamper.disarmed.getLsbD (src - 1) = false ∧ s.entry (Key.tamperControlResponse (src - 1)) = r.val) ∧
    ({ (lit []).tamper with disarmed := 1 } : Tamper).disarmed.getLsbD 0 = true ∧ glitchCode 1 = true ∧ glitchCode 0x1F = true ∧ (lit []).tempOutside 0x7FFF = true ∧ (lit []).tempOutside 25 = false ∧
    (let s := { lit [(Key.tamperControlIntegrityBurstCount, 1)] with tamper := { (lit []).tamper with failures := [0] } }
     s.entry Key.tamperControlIntegrityBurstCount ≤ s.burstFailures.length) ∧ (lit []).burstFailures.length < (lit []).entry Key.tamperControlIntegrityBurstCount := by decide +kernel

/-- A SNUFF in progress, before its end and at it, with and without a HALT to follow. -/
theorem witness_Snuffs : ∀ h : Bool, ∀ due ∈ [1, 2400], let s := { lit [] with tamper := { (lit []).tamper with snuffDue := some due, snuffHalt := h } }
    s.tamper.snuffDue = some due ∧ s.hubMonitors = true ∧ s.entering = none ∧ s.pending = [] ∧ s.hop.authWait = none ∧ s.tamper.snuffHalt = h ∧ s.hubCycle < due ∧ (s.hubCycle + 1 < due ↔ due = 2400) ∧ s.tamper.disarmed.getLsbD 0 = false ∧ s.tamper.testSource = none := by decide +kernel

/-- Loop 1 enabled and disabled, once open and not; a condition that is absent and one that is not; tests. -/
theorem witness_LoopsAndTests : let t := (lit []).tamper
    (lit [(Key.tamperControlLoopEnable, 0)]).entry Key.tamperControlLoopEnable = 0 ∧
    (let s := lit [(Key.tamperControlLoopEnable, 1), (Key.tamperControlResponse 5, 0)]
     s.supplies.vstby = true ∧ s.tamper.snuffDue = none ∧ s.entry Key.tamperControlLoopEnable = 1 ∧ s.tamper.openOnce.getLsbD 0 = false ∧ s.tamper.disarmed.getLsbD 5 = false ∧ s.tamper.testSource = none ∧ s.entry (Key.tamperControlResponse 5) = 0 ∧
     ({ t with openOnce := 1 } : Tamper).openOnce.getLsbD 0 = true) ∧
    (∀ n : Fin 10, (lit [(Key.tamperControlIntegrityBurstCount, 1)]).conditionAbsent (n.val + 1) = true) ∧ ({ lit [] with tamper := { t with openOnce := 1 } } : State).conditionAbsent 6 = false ∧
    (∀ v ∈ [1, 10], (lit []).judgeWrite .firmware 0x9030 1 [BitVec.ofNat 8 v] = drOk) ∧
    (let s := { lit [] with tamper := { t with testSource := some 1 } }
     s.tamper.testSource = some ((0 : Fin 10).val + 1) ∧ s.tamper.testJudged = false ∧ s.severityOf 0x0D01 ≤ 1 ∧ s.hubMonitors = true ∧ s.tamper.disarmed.getLsbD 0 = false) := by decide +kernel

/-- The code 0103h at severities IGNORE, NOTE, FENCE and FATAL. -/
theorem witness_FaultReports : ∀ v ∈ [0, 1, 3, 4], let s := lit [(Key.faultSeveritySeverity 0 2, v), (Key.faultSeveritySeverity 8 0, 0)]
    s.collects = true ∧ s.severityOf (0x0103#16).toNat = v ∧ (0x0103#16).toNat ∉ [0x0101, 0x010A, 0x010C, 0x0301, 0x0901, 0x0401, 0x0402, 0x0403, 0x0405, 0x0408, 0x0501, 0x0502, 0x0601, 0x0801, 0x0802, 0x0803, 0x0804, 0x0B01, 0x0B02, 0x0D01, 0x1201] ∧ s.health (uWick 0) = 0 ∧ s.jobs = [] ∧ s.events = [] ∧ s.fatal = none ∧ (∀ n, s.streamState n ≠ stMoving ∨ 0 < n) ∧ s.severityOf 0x0901 = 0 := by
  intro v hv
  simp only [List.mem_cons, List.not_mem_nil, or_false] at hv
  rcases hv with rfl | rfl | rfl | rfl <;> exact ⟨by decide +kernel, by decide +kernel, by decide, by decide +kernel, rfl, rfl, rfl, fun n => by cases n <;> [exact .inl (by decide +kernel); exact .inr (Nat.succ_pos _)], by decide +kernel⟩

/-- An open event, a collector in TROUBLED without a fence, a unit under self-test, a fatal stop before its dump, key rows in TEST. -/
theorem witness_FaultFollowUps : let e : FaultEvent := { opened := 0, time := 0, accused := uWick 0, detector := uWick 0, code := 0x0103, severity := 1, override := false, replayed := false, atLimit := false, reports := 1, slice := 0, seq := 1023, detail := 0 }
    let f : FatalStop := { event := e, served := false, before := 3 }
    ({ lit [] with events := [e] } : State).events = [e] ∧
    (let s := lit [(Key.faultCollectorState, 1)]
     s.entry Key.faultCollectorState = 1 ∧ s.quietStart.toNat + s.entry Key.faultCollectorQuietS * 32768 < 2 ^ 64) ∧
    (∀ w ∈ [0, 255], let s := lit [((0xA400 + w) * 256 + 1, 2)]
     s.health (uWick w) = 2 ∧ s.relightDue = []) ∧
    (let s := { lit [(Key.dumpControlDumpSlice, 0xFFFF), (Key.dumpControlFatalHoldS, 1)] with fatal := some f }
     s.fatal = some f ∧ s.haltLatched = false ∧ s.tamper.snuffHalt = false ∧ f.served = false ∧ s.entry Key.dumpControlDumpSlice = 0xFFFF ∧ s.entry Key.dumpControlFatalHoldS ≠ 0) ∧
    ({ lit [(Key.dumpControlFatalHoldS, 0)] with fatal := some f } : State).entry Key.dumpControlFatalHoldS = 0 ∧
    (let s := { lit [] with roots := { State.reset.roots with copiesRead := 0x0C3A0C3A0C3A, urs := some [] } }
     s.lifeCycle = lcTest ∧ s.roots.urs ≠ none) := by decide +kernel

/-- No health is 1 in a device whose entries are at their defaults. -/
theorem witness_QuietExpiry : ∀ u, (lit [(Key.faultCollectorState, 1)]).health u ≠ 1 → (lit [(Key.faultCollectorState, 1)]).entry Key.faultCollectorState = 1 := by intro _ _; decide +kernel

/-- An idle arbiter at the ends of its ranges; a line of a slice window that no extent holds. -/
theorem witness_Reservoir : let s := lit []
    (∀ p ∈ [(0, 1, 0), (63, 4, 49)], let q : ChannelRequest := { requester := some 511, port := p.2.2, lines := p.2.1, arrival := 0, access := none }
     s.reservoirActive = true ∧ s.areaAdmits q = true ∧ (s.arbiter p.1).waiting = [] ∧ (s.arbiter p.1).recent = [] ∧ q.requester = some 511 ∧ 1 ≤ q.lines ∧ q.lines ≤ 4 ∧ q.port < 50 ∧ s.entry Key.arbitrationLongestWaiterN ≠ 0) ∧
    64 * 7 < s.entry Key.reservoirLayoutUsableBytes ∧ s.extents = [] ∧ s.jobs = [] ∧ s.areaOf (64 * 7) < 5 ∧ s.severityOf 0x0803 = 2 ∧ s.events = [] := by decide +kernel

/-- An access to area 6 that lies in area 5, one with no area, and one that lies in its area. -/
theorem witness_AreaChecks : let q := fun (a n : Nat) => ({ requester := none, port := 0, lines := 4, arrival := 0, access := some { unit := uHub, area := a, address := n } } : ChannelRequest)
    (lit []).areaAdmits (q 6 0x37FB000000) = false ∧ (lit []).areaAdmits (q 0 0) = false ∧ (lit []).areaAdmits (q 6 0x37FC000000) = true ∧ (q 6 0x37FB000000).access = some { unit := uHub, area := 6, address := 0x37FB000000 } := by decide +kernel

/-- A line whose cells are read as they are, and with a wrong bit. -/
theorem witness_ReservoirFaults : (lit []).readPasses 7 [] = true ∧ (lit []).readPasses 7 (1 :: List.replicate 71 0) = false ∧ (lit [(Key.faultSeveritySeverity 7 1, 1)]).severityOf 0x0802 ≤ 1 := by decide +kernel

/-- Taper 7 runs for job 0: with a stack, a counter, in its first and its second run, and waiting. -/
def onTaper (x : Taper) : State := { lit [] with jobs := [job .running 0x0502 0x51 0 [uTaper 7]], tapers := [(7, { x with job := some 0, slotLength := 4, prepared := true })] }

theorem witness_TaperCommands : (let x := { Taper.wiped with stack := [5], counters := [(0, 2), (3, 1)] }
     let s := onTaper x
     s.taperRuns 7 = true ∧ (s.taper 7).waiting = none ∧ s.control.map = [] ∧ (s.taper 7).address.toNat < 0xEFF ∧ x.stack.length < 4 ∧ x.stack = 5 :: [] ∧ 2 ≤ x.counter 0 ∧ x.counter 3 = 1 ∧ x.run2 = false ∧ x.zero = false) ∧
    (∀ runs ∈ [[], [{ op := .rsaKeyCheck, alg := 0x50, slotLength := 64 }]], ((onTaper { Taper.wiped with run2 := true, runs := runs }).taper 7).run2 = true ∧ ((onTaper { Taper.wiped with run2 := true, runs := runs }).taper 7).runs = runs) ∧ reservedWord (BitVec.ofNat 128 (2 ^ 16)) = true ∧
    (let v := BitVec.ofNat 128 (2 ^ 96)
     reservedWord v = false ∧ ((onTaper Taper.wiped).taper 7).pointerError v = false ∧ readsMemory v = true ∧ mw v 119 116 ≠ 7) ∧
    (let v := BitVec.ofNat 128 (7 * 2 ^ 116 + 2 * 2 ^ 99)
     (∀ z : Bool, let s := onTaper { Taper.wiped with waiting := some v, zero := z }
      (s.taper 7).waiting = some v ∧ s.taperRuns 7 = true ∧ s.taperCond (s.taper 7) v = z ∧ (s.taper 7).address.toNat < 0xEFF ∧ (s.taper 7).job = some 0) ∧ mw v 103 99 ≠ 9) ∧ mw (BitVec.ofNat 128 (9 * 2 ^ 99)) 103 99 = 9 ∧
    ((onTaper { Taper.wiped with mustWipe := true }).taper 7).mustWipe = true ∧
    (let s := lit [(Key.taperStatusStrike 7, 1)]
     s.flag (Key.taperStatusStrike 7) = true ∧ ({ Taper.wiped with strikeRule := 4096, cleanJobs := 4096 } : Taper).strikeRule ≤ 4096 ∧ ({ Taper.wiped with strikeRule := 4096 } : Taper).cleanJobs < 4096) := by decide +kernel

/-! ### Witnesses: whole-machine statements -/

theorem witness_StepOnAnEmptyQueue : State.reset.pending = [] ∧ State.reset.tamper.snuffDue = none ∧ State.reset.entering = none ∧ State.reset.hop.authWait = none ∧ State.reset.hubOn = true ∧ ({ State.reset with power := .dark, supplies := { State.reset.supplies with rails := 0 } } : State).hubOn = false := by decide

theorem witness_StepKeepsInvariants : ∃ t, step State.reset = .next t ∧ State.reset.storesOk := by
  refine ⟨_, rfl, ?_⟩
  unfold State.storesOk storesWf
  decide

theorem witness_WickWords : wickEncode (.addk 0 5 0 0) = some (0, 0x08A000000) := by decide

theorem witness_MismatchedWrites : (∃ r, dictRow 0x1000 3 = some r ∧ ([] : Bytes).length ≠ r.type.size) ∧ (∃ r, dictRow 0x4200 1 = some r ∧ (r.type = .bool ∧ 1 < leNat [2])) ∧ (lit []).judgeWrite .firmware 0x1000 3 [] ≠ drOk :=
  ⟨⟨_, rfl, by decide⟩, ⟨_, rfl, by decide⟩, by decide +kernel⟩

theorem witness_FailedChecks : let s := running 0x0501 0x51 0
    ∃ j, s.attemptOf 0 0x0501 = some j ∧ j.object = none ∧ s.canDraw j.instOf 3 ∧ s.canDraw 16 3 ∧ s.shroudReady j = true ∧ j.retries < 3 ∧ 3 ≤ ({ j with retries := 3 } : Job).retries := by
  unfold State.canDraw; exact ⟨_, rfl, by decide, by decide, by decide, by decide, by decide, by decide⟩

/-- A counter of 32 bits below and at its maximum. -/
theorem witness_Counters : let k := Key.hostLinkDoorbellDrops 7
    (overflowBit k).isSome = true ∧ (lit []).entry k ≤ counterMax k ∧ counterMax k ≤ (lit [(k, counterMax k)]).entry k + 1 := by decide +kernel

/-! ### Ill-formed commands, one for each check -/

theorem test_runWf : (Instr.ringReadComplete 0 []).wf = false ∧ (Instr.ringReadComplete 0 (List.replicate 17 (ringEntry 0 0 0))).wf = false ∧ (Instr.ringReadComplete 0 [ringEntry 0 0 0]).wf = true := by decide

theorem test_unitsWf : (Instr.attemptStart 0 [uWick 0, uWick 0]).wf = false ∧ (Instr.attemptStart 0 [uTaper 64]).wf = false ∧ (Instr.attemptStart 0 [uWick 0, uWick 255]).wf = true := by decide

theorem test_hostDataWf : (Instr.fetch { zeros 0 with recipients := [[], [], [], [], []] }).wf = false ∧ (Instr.fetch { zeros 0 with recipients := [[], [], [], []] }).wf = true := by decide

theorem test_requestWf : (Instr.reservoirGrant 0 [{ requester := none, port := 0, lines := 5, arrival := 0, access := none }]).wf = false ∧ (Instr.reservoirGrant 0 [{ requester := none, port := 50, lines := 1, arrival := 0, access := none }]).wf = false ∧
    (Instr.reservoirGrant 0 [{ requester := none, port := 49, lines := 4, arrival := 0, access := none }]).wf = true := by decide

theorem test_vspWf : (Instr.vspDataReceived 0 { frame 1 0 0 [1, 2] with payload := 1 }).wf = false ∧ (Instr.vspDataReceived 0 (frame 1 0 0 [1, 2])).wf = true := by decide

theorem test_hopWf : (Instr.hopRead { hopFrame 1 0 0 0x1000 1 [] [] with payload := 0, data := [1] }).wf = false := by decide

theorem test_valueWf : (Instr.dictEntryWrite .firmware 0x1100 4 (List.replicate 8193 0)).wf = false ∧ (Instr.dictEntryWrite .firmware 0x1100 4 (List.replicate 7347 0)).wf = true := by
  constructor <;> (unfold Instr.wf valueWf; simp only [List.length_replicate]; decide)

theorem test_unitWf : (Instr.relightRequest .firmware 0 1).wf = false ∧ (Instr.lineRead 0 (uTaper 64) [] []).wf = false ∧ (Instr.selfTestComplete (uSconce 15) true).wf = true := by decide

theorem test_railWf : (Instr.supplyGlitchAlarm 3).wf = false ∧ (Instr.supplyGlitchAlarm 31).wf = true := by decide

theorem test_sampleWf : (Instr.sensorSample (List.replicate 16 0) (List.replicate 9 0) 0).wf = false ∧ (Instr.sensorSample (List.replicate 17 0) (List.replicate 9 0) 0).wf = true := by decide

/-! ### Worked examples of the manual -/

/-- Chapter "Wick core", the four-limb addition: three of its words. -/
theorem test_addition_words : wickDecode 0 0x08C600001 = some (.addk 0 6 6 1) ∧ wickDecode 0 0x310600108 = some (.ld 0 8 6 0x108) ∧ wickDecode 0 0x340500114 = some (.st 0 0 5 0x114) := by decide

theorem test_branch_word : wickEncode (.dbnz 0 9 0 0xFFFF8) = some (0, 0x5120FFFF8) := by decide

/-- The same: two instructions share program word 0. -/
theorem test_packed_word : let x := { plainWick with pmem := [(0, 0x08C00000008A000000)] }
    (onWick [] x).wickFetch 0 = some (.addk 0 5 0 0) ∧ (onWick [] { x with pc := 1 }).wickFetch 0 = some (.addk 0 6 0 0) := by decide

/-- The guard bits of 2^64 − 1 + 1. -/
theorem test_carry : (match execCarry 0 5 1 0 0 (onWick [] (serving (program false false) (2 ^ 64) 0)) with | .next t => (t.wick 0).reg 5 | _ => 0) = 1 := by decide

theorem test_mul_mulhi : let s := onWick [] (serving (program false false) (2 ^ 72 - 1) (2 ^ 72 - 1))
    (match execMul 0 5 1 2 0 s with | .next t => (t.wick 0).reg 5 | _ => 0) = 1 ∧ (match execMulhi 0 5 1 2 0 s with | .next t => (t.wick 0).reg 5 | _ => 0) = BitVec.ofNat 72 (2 ^ 72 - 2) := by decide

/-- A register written is zero in g0 (R262). -/
theorem test_g0 : (match execAddk 0 0 1 5 (onWick [] plainWick) with | .next t => (t.wick 0).reg 0 | _ => 1) = 0 := by decide

/-- Chapter "Taper engines": an RSA-6144 signature costs 10,770,000 cycles. -/
theorem test_rsa_cost : taperSign 0x50 6144 = 10770000 := by decide

/-- Chapter "Lattice schemes": ML-DSA-65 with four iterations and a message of two further blocks. -/
theorem test_mldsa_cost : signSetup 0x21 + 4 * signIteration 0x21 + 12 = 106619 := by decide

/-- Chapter "Reservoir": the contest on channel 59. Address 12_3456_7800h is on it; after the grant at cycle 60 (here 260) slices 3, 17 and 40 win 2, 10 and 1 grants later. -/
theorem test_channel : channelOf 0x1234567800 = 59 := by decide

def contest : Arbiter :=
  let q := fun (r : Fin 512) a n => List.replicate n ({ requester := some r, port := 0, lines := 1, arrival := a, access := none } : ChannelRequest)
  { grants := 6, recent := [260, 248, 236, 224, 212, 200], waiting := q 3 170 2 ++ q 17 150 3 ++ q 40 0 39, lastGrant := [(3, 212), (17, 248), (40, 260)], credit := [(3, 50 * creditByte)], creditAt := 260 }

theorem test_hints : let s := lit [(Key.reservoirSliceFloorMBps 3, 64000), (Key.reservoirSlicePriority 17, 6), (Key.reservoirSlicePriority 40, 7)]
    contest.meanGap = some 12 ∧ s.winsAfter 12 16 0 contest 260 [] = [(40, 1), (3, 2), (17, 10)] := by decide +kernel

/-! ### After reset -/

theorem test_reset : State.reset.power = .booting ∧ State.reset.lifeCycle = lcRaw := by decide

end Sys2Proof.Tests
end

section
/-! PROOFS. Laws of the dictionary: bits of a number, counters with their overflow bits (R20, R21), and how a write is answered (R672). -/

namespace Sys2Proof.Machine

theorem bitOf_withBit_true (v i : Nat) : bitOf (withBit v i true) i = true := by
  unfold withBit
  split
  · assumption
  · next h =>
    have hz : v / 2 ^ i % 2 = 0 := by simpa [bitOf] using h
    have hs : (v + 2 ^ i) / 2 ^ i = v / 2 ^ i + 1 := Nat.add_div_right _ (Nat.two_pow_pos i)
    simp only [if_true, bitOf, hs, decide_eq_true_eq]
    omega

theorem bitOf_withBit_false (v i : Nat) : bitOf (withBit v i false) i = false := by
  unfold withBit
  split
  · next h =>
    have ho : v / 2 ^ i % 2 = 1 := by simpa [bitOf] using h
    have hs : (v - 2 ^ i) / 2 ^ i = v / 2 ^ i - 1 := by simpa using Nat.sub_mul_div v (2 ^ i) 1
    simp only [Bool.false_eq_true, if_false, bitOf, hs, decide_eq_false_iff_not]
    omega
  · next h => simpa using h

/-! ### Counters -/

theorem State.bumpBy_zero (s : State) (k : Nat) : s.bumpBy k 0 = s := by simp [State.bumpBy]

theorem State.bumpBy_below {s : State} {k n : Nat} (hn : n ≠ 0) (h : s.entry k + n < counterMax k) : s.bumpBy k n = s.setEntry k (s.entry k + n) := by
  simp [State.bumpBy, hn, h]

theorem State.bumpBy_full {s : State} {k n b i : Nat} (hn : n ≠ 0) (h : counterMax k ≤ s.entry k + n) (ho : overflowBit k = some (b, i)) :
    s.bumpBy k n = (s.setEntry k (counterMax k)).setEntryBit b i true := by
  simp [State.bumpBy, hn, Nat.not_lt.mpr h, ho]

theorem State.clearCounter_of {s : State} {k b i : Nat} (ho : overflowBit k = some (b, i)) : s.clearCounter k = (s.setEntry k 0).setEntryBit b i false := by
  simp [State.clearCounter, ho]

theorem State.entry_setEntryBit_other (s : State) (b i : Nat) (v : Bool) {e : Nat} (h : e ≠ b) : (s.setEntryBit b i v).entry e = s.entry e :=
  State.entry_setEntry_other _ _ _ h

theorem State.entry_setEntryBit (s : State) (b i : Nat) (v : Bool) : (s.setEntryBit b i v).entry b = withBit (s.entry b) i v :=
  State.entry_setEntry _ _ _

/-- A count leaves every entry but the counter and the one that holds its overflow bit. -/
theorem State.entry_bumpBy_other (s : State) {k n e : Nat} (hk : e ≠ k) (hb : ∀ b i, overflowBit k = some (b, i) → e ≠ b) : (s.bumpBy k n).entry e = s.entry e := by
  unfold State.bumpBy
  split
  · rfl
  · dsimp only
    split
    · exact State.entry_setEntry_other _ _ _ hk
    · split
      · next ho => rw [State.entry_setEntryBit_other _ _ _ _ (hb _ _ ho), State.entry_setEntry_other _ _ _ hk]
      · exact State.entry_setEntry_other _ _ _ hk

/-! ### Judged writes -/

theorem State.writeBy_unreached {s : State} {p : Path} (h : s.reaches p = false) (index sub : Nat) (value : Bytes) (f : State → State) :
    s.writeBy p index sub value f = s := by simp [State.writeBy, h]

theorem State.writeBy_refused {s : State} {p : Path} {index sub : Nat} {value : Bytes} (hp : s.reaches p = true) (h : s.judgeWrite p index sub value ≠ drOk) (f : State → State) :
    s.writeBy p index sub value f = s.answer p index sub (s.judgeWrite p index sub value) := by simp [State.writeBy, hp, h]

theorem State.writeBy_accepted {s : State} {p : Path} {index sub : Nat} {value : Bytes} (hp : s.reaches p = true) (h : s.judgeWrite p index sub value = drOk) (f : State → State) :
    s.writeBy p index sub value f = f (s.answer p index sub drOk) := by simp [State.writeBy, hp, h]

/-- A write that completes at once is judged, answered and applied. -/
theorem State.writeEntry_prompt {s : State} {p : Path} {index sub : Nat} {value : Bytes} (h : isLate index sub = false ∨ s.reaches p = false ∨ s.judgeWrite p index sub value ≠ drOk) :
    s.writeEntry p index sub value = s.writeBy p index sub value fun s => s.applyWrite index sub value := by
  unfold State.writeEntry
  rw [if_neg]
  rcases h with h | h | h <;> simp [h]

/-- Of a value that does not fit its entry no write is accepted (R13, R672 steps 4 and 5). -/
theorem State.judgeWrite_misfit {s : State} {p : Path} {index sub : Nat} {value : Bytes} {r : DictRow} (hr : dictRow index sub = some r)
    (h : value.length ≠ r.type.size ∨ (r.type = .bool ∧ 1 < leNat value)) : s.judgeWrite p index sub value ≠ drOk := by
  unfold State.judgeWrite
  split
  · decide
  · split
    · decide
    · simp only [hr]
      split
      · assumption
      · split
        · decide
        · split
          · assumption
          · split
            · decide
            · next hl =>
              obtain hb | hb := h
              · exact absurd hb hl
              · rw [if_pos (by simp [hb])]
                decide

end Sys2Proof.Machine
end

section
/-! PROOFS. What every step keeps (O3), a new unit (O2), counters (O10), and refused writes (O6). -/

namespace Sys2Proof.Machine

/-- A command taken from the queue, or an idle hub cycle, keeps what no command undoes; the rest of the queue waits. -/
theorem step_keeps {s t : State} (h : step s = .next t) : Keeps { s with pending := s.pending.tail } t := by
  unfold step at h
  split at h
  · next c rest hp =>
    rw [hp]
    exact exec_keeps c (Keeps.refl _) t h
  · next hp =>
    cases h
    have e : ({ s with pending := s.pending.tail } : State) = s := by rw [hp, List.tail_nil, ← hp]
    rw [e]
    exact State.settleEntry_keeps (State.expireAuth_keeps (State.settleSnuff_keeps (State.passCycle_keeps (Keeps.refl s))))

/-- Settles O3. -/
theorem stepKeepsInvariants : Obligations.StepKeepsInvariants := by
  unfold Obligations.StepKeepsInvariants
  intro s t h
  obtain ⟨variant, pending, drawn, fuse1, fuse2, fuse3, stores⟩ := step_keeps h
  exact ⟨stores, variant, pending, drawn, fuse1, fuse2, fuse3⟩

/-- Refutes O2: a new unit reads TimestampRestarted (B010h:0Fh) as 1, as R26 asks, and the entry's default is 0. -/
theorem not_resetState : ¬ Obligations.ResetState := by
  unfold Obligations.ResetState
  rintro ⟨-, -, -, -, -, defaults, -⟩
  exact absurd (defaults 0xB0100F) (by decide)

/-- Settles O10, by whether the count stays below the maximum. -/
theorem countersSaturate : Obligations.CountersSaturate := by
  unfold Obligations.CountersSaturate
  intro s k n b i ho hkb
  refine ⟨fun hle => ?_, fun hn hmax => ?_, fun e hek heb => ?_, ?_, ?_⟩
  · by_cases hn : n = 0
    · rw [hn, State.bumpBy_zero, Nat.add_zero, Nat.min_eq_left hle]
    · by_cases h : s.entry k + n < counterMax k
      · rw [State.bumpBy_below hn h, State.entry_setEntry, Nat.min_eq_left (Nat.le_of_lt h)]
      · rw [State.bumpBy_full hn (Nat.le_of_not_lt h) ho, State.entry_setEntryBit_other _ _ _ _ hkb, State.entry_setEntry,
          Nat.min_eq_right (Nat.le_of_not_lt h)]
  · rw [State.bumpBy_full (Nat.ne_of_gt hn) hmax ho, State.entry_setEntryBit]
    exact bitOf_withBit_true _ _
  · refine State.entry_bumpBy_other s hek fun b' i' ho' => ?_
    rw [ho] at ho'
    cases ho'
    exact heb
  · rw [State.clearCounter_of ho, State.entry_setEntryBit_other _ _ _ _ hkb, State.entry_setEntry]
  · rw [State.clearCounter_of ho, State.entry_setEntryBit]
    exact bitOf_withBit_false _ _

/-- Settles O6. -/
theorem mismatchedWritesAreRefused : Obligations.MismatchedWritesAreRefused := by
  unfold Obligations.MismatchedWritesAreRefused
  intro s p index sub value r
  refine ⟨State.judgeWrite_misfit, fun hj c hc => ?_⟩
  have told : ∀ f, (∀ e, (s.writeBy p index.toNat sub.toNat value f).entry e = s.entry e) ∧ { s.writeBy p index.toNat sub.toNat value f with out := s.out } = s := by
    intro f
    cases hp : s.reaches p
    · rw [State.writeBy_unreached hp]
      exact ⟨fun _ => rfl, rfl⟩
    · rw [State.writeBy_refused hp hj]
      exact ⟨fun _ => rfl, rfl⟩
  rcases List.mem_pair.mp hc with rfl | rfl
  · exact ⟨_, rfl, by rw [State.writeEntry_prompt (.inr (.inr hj))]; exact told _⟩
  · exact ⟨_, rfl, told _⟩

end Sys2Proof.Machine
end

section
/-! PROOFS. Laws of the dictionary's objects (R527): which object an index and an overflow bit belong to. -/

namespace Sys2Proof.Machine

/-! ### Objects and keys -/

/-- The objects' index ranges follow each other (R527). -/
theorem dictObjects_ascend : (dictObjects.map fun o => (o.base, o.base + o.count)).Pairwise fun a b => a.2 ≤ b.1 := by decide

theorem overflow_subs_small : ∀ o ∈ dictObjects, ∀ c ∈ o.ovf, c.2.1 < 256 := by decide

/-- An index in an object's range belongs to that object. -/
theorem dictObject_of {o : DictObject} {index : Nat} (ho : o ∈ dictObjects) (hl : o.base ≤ index) (hu : index < o.base + o.count) :
    dictObject index = some (o, index - o.base) := by
  have find : ∀ l : List DictObject, o ∈ l → (l.map fun o => (o.base, o.base + o.count)).Pairwise (fun a b => a.2 ≤ b.1) →
      l.find? (fun o => o.base ≤ index && index < o.base + o.count) = some o := by
    intro l hm hp
    induction l with
    | nil => cases hm
    | cons a l ih =>
      rw [List.map_cons, List.pairwise_cons] at hp
      obtain ⟨first, rest⟩ := hp
      rcases List.mem_cons.mp hm with rfl | hm
      · exact List.find?_cons_of_pos (by simp [hl, hu])
      · have := first _ (List.mem_map_of_mem hm)
        rw [List.find?_cons_of_neg (by simp at this ⊢; omega)]
        exact ih hm rest
  unfold dictObject
  rw [find _ ho dictObjects_ascend]

/-- The overflow bit of a counter stands in the counter's own object. -/
theorem overflowBit_index {k b i : Nat} (h : overflowBit k = some (b, i)) : b / 256 = k / 256 := by
  unfold overflowBit at h
  split at h
  · next o j hd =>
    have ho : o ∈ dictObjects := by
      unfold dictObject at hd
      split at hd
      · next hf => cases hd; exact List.mem_of_find?_eq_some hf
      · cases hd
    split at h
    · next hf =>
      have := overflow_subs_small o ho _ (List.mem_of_find?_eq_some hf)
      cases h
      dsimp only at this
      omega
    · cases h
  · cases h

/-- The line of an entry of an object other than FaultSeverity. -/
theorem dictRow_of {o : DictObject} {index sub : Nat} (ho : o ∈ dictObjects) (hl : o.base ≤ index) (hu : index < o.base + o.count) (hf : index < 0xA101 ∨ 0xA112 < index) :
    dictRow index sub = o.rows.find? fun r => r.lo ≤ sub && sub ≤ r.hi := by
  unfold dictRow
  rw [dictObject_of ho hl hu]
  dsimp only [dictRowOf]
  exact if_neg (by simp; omega)

/-- Where the overflow bit of an object's counter stands. -/
theorem overflowBit_of {o : DictObject} {index sub : Nat} (ho : o ∈ dictObjects) (hl : o.base ≤ index) (hu : index < o.base + o.count) (hs : sub < 256) :
    overflowBit (index * 256 + sub) = (o.ovf.find? (fun p => p.1 = sub)).map fun p => (index * 256 + p.2.1, p.2.2) := by
  have hi : (index * 256 + sub) / 256 = index := by omega
  have hm : (index * 256 + sub) % 256 = sub := by omega
  unfold overflowBit
  rw [hi, hm, dictObject_of ho hl hu]
  dsimp only
  cases h : o.ovf.find? (fun p => p.1 = sub) <;> rfl

/-- A count leaves the entries of other objects. -/
theorem State.entry_bumpBy_elsewhere (s : State) {k n e : Nat} (h : e / 256 ≠ k / 256) : (s.bumpBy k n).entry e = s.entry e :=
  State.entry_bumpBy_other s (fun c => h (by rw [c])) fun _ _ ho c => h (by rw [c, overflowBit_index ho])

theorem State.entry_bump_elsewhere (s : State) {k e : Nat} (h : e / 256 ≠ k / 256) : (s.bump k).entry e = s.entry e := s.entry_bumpBy_elsewhere h

end Sys2Proof.Machine
end

section
/-! PROOFS. What the loss of the hub leaves, and device resets (O49). -/

namespace Sys2Proof.Machine

/-! ### Tables whose values are mapped -/

theorem Table.get_map {α β : Type} (f : α → β) (d : Nat → α) (d' : Nat → β) (hd : ∀ k, f (d k) = d' k) (t : Table α) (k : Nat) :
    Table.get d' (t.map fun p => (p.1, f p.2)) k = f (Table.get d t k) := by
  induction t with
  | nil => exact (hd k).symm
  | cons p r ih =>
    simp only [List.map_cons, Table.get]
    split
    · rfl
    · exact ih

/-- An entry that a filter drops reads as its default. -/
theorem Table.get_filter_dropped {α : Type} (d : Nat → α) (keep : Nat → Bool) (t : Table α) {k : Nat} (h : keep k = false) :
    Table.get d (t.filter fun p => keep p.1) k = d k :=
  Table.get_absent _ _ _ fun p hp e => by simp [e, h] at hp

/-! ### What the pilot keeps and what the hub loses -/

/-- What neither a device reset nor the loss of the hub's power touches: the supplies and the timestamp, the CK, the fuses with the URS, the boot flash and the key records (R14, R454, R658). -/
structure KeepsPilot (s t : State) : Prop where
  variant : t.variant = s.variant
  timestamp : t.timestamp = s.timestamp
  supplies : t.supplies = s.supplies
  ck : t.roots.ck = s.roots.ck
  fuses : (t.roots.c1, t.roots.c2, t.roots.c3, t.roots.urs) = (s.roots.c1, s.roots.c2, s.roots.c3, s.roots.urs)
  flash0 : t.flash0 = s.flash0
  flash1 : t.flash1 = s.flash1
  mram : t.mram = s.mram

theorem KeepsPilot.trans {s t u : State} (h : KeepsPilot s t) (k : KeepsPilot t u) : KeepsPilot s u where
  variant := k.variant.trans h.variant
  timestamp := k.timestamp.trans h.timestamp
  supplies := k.supplies.trans h.supplies
  ck := k.ck.trans h.ck
  fuses := k.fuses.trans h.fuses
  flash0 := k.flash0.trans h.flash0
  flash1 := k.flash1.trans h.flash1
  mram := k.mram.trans h.mram

/-- What the hub holds and loses with its power or a device reset (R343, R449, R454, R581): jobs, sessions, keys, queues, reservoir, contexts; the pilot serves. -/
structure HubEmpty (t : State) : Prop where
  jobs : t.jobs = []
  queues : t.queues = []
  reservoir : t.reservoir = []
  vault : t.vault = []
  contexts : t.contexts.all (fun p => !p.2.isOpen) = true
  sessions : ∀ n, (t.session n).state = .free
  drk : t.roots.drk = none
  mbk : t.roots.mbk = none
  server : t.hop.server = some .pilot
  fatal : t.fatal = none
  resetPending : t.resetPending = none

/-- Dropping the caches touches the dictionary, the caches and the extents alone. -/
theorem State.dropCaches_frame (s : State) : ∃ d l m p e, s.dropCaches = { s with dict := d, lanterns := l, mces := m, programs := p, extents := e } := by
  obtain ⟨d, e⟩ := State.bumpBy_frame s Key.lanternCacheEntriesDropped (s.lanterns.filter (fun e => !e.dropped && e.validFrom.isSome)).length
  unfold State.dropCaches
  rw [e]
  exact ⟨_, _, _, _, _, rfl⟩

theorem State.keepsPilot_hubOff (s : State) : KeepsPilot s s.hubOff := by
  obtain ⟨d, l, m, p, e, h⟩ := State.dropCaches_frame s.eraseStores
  unfold State.hubOff
  rw [h]
  constructor <;> rfl

theorem State.contexts_eraseContexts (s : State) : s.eraseContexts.contexts.all (fun p => !p.2.isOpen) = true := by
  simp only [State.eraseContexts, State.closeContexts, List.all_map, List.all_eq_true, Function.comp_apply]
  intro p _
  cases h : p.2.isOpen <;> simp [h, DigestContext.closed]

theorem State.hubEmpty_hubOff (s : State) : HubEmpty s.hubOff := by
  obtain ⟨d, l, m, p, e, h⟩ := State.dropCaches_frame s.eraseStores
  unfold State.hubOff
  rw [h]
  constructor
  case contexts => exact State.contexts_eraseContexts _
  case sessions =>
    intro n
    have := Table.get_map Session.freed (fun _ => Session.free) (fun _ => Session.free) (fun _ => rfl) s.sessions n
    exact congrArg Session.state this
  all_goals rfl

/-- An entry that no reset keeps reads its default. -/
theorem State.entry_hubOff_volatile (s : State) {e : Nat} (h : keepsValue e = false) (hs : e ≠ Key.tamperStatusSourceState) : s.hubOff.entry e = dictDefault s.variant e := by
  obtain ⟨d, l, m, p, x, hd⟩ := State.dropCaches_frame s.eraseStores
  unfold State.hubOff
  rw [hd]
  exact (Table.get_set_other _ _ _ _ _ hs).trans (Table.get_filter_dropped (dictDefault s.variant) keepsValue d h)

/-- QueueSlot Enable does not persist (R413). -/
theorem keepsValue_queueSlotEnable {g : Nat} (hg : g < 2048) : keepsValue (Key.queueSlotEnable g) = false := by
  have row : dictRow (0x2800 + g) 0x0B = some ⟨0x0B, 0x0B, "Enable", .bool, .rw, false, fixed 0⟩ :=
    dictRow_of (o := dictQueueSlot) (by simp [dictObjects]) (by simp [dictQueueSlot]) (by simp [dictQueueSlot]; omega) (.inl (by omega))
  have hi : ((0x2800 + g) * 256 + 0x0B) / 256 = 0x2800 + g := by omega
  have hm : ((0x2800 + g) * 256 + 0x0B) % 256 = 0x0B := by omega
  have hh : (0x2800 + g) * 256 + 0x0B ≠ Key.tamperStatusHaltLatched := by unfold Key.tamperStatusHaltLatched; omega
  simp only [keepsValue, hi, hm, row, hh, decide_false, Bool.false_or]

/-! ### What touches the dictionary alone -/

/-- Between two states only the dictionary changed. -/
def DictOnly (s t : State) : Prop := ∃ d, t = { s with dict := d }

theorem DictOnly.refl (s : State) : DictOnly s s := ⟨s.dict, rfl⟩

theorem DictOnly.trans {s t u : State} (h : DictOnly s t) (k : DictOnly t u) : DictOnly s u := by
  obtain ⟨d, rfl⟩ := h
  obtain ⟨e, rfl⟩ := k
  exact ⟨e, rfl⟩

theorem State.setEntry_dictOnly (s : State) (k v : Nat) : DictOnly s (s.setEntry k v) := ⟨_, rfl⟩

theorem State.bumpBy_dictOnly (s : State) (k n : Nat) : DictOnly s (s.bumpBy k n) := State.bumpBy_frame s k n

theorem State.bump_dictOnly (s : State) (k : Nat) : DictOnly s (s.bump k) := s.bumpBy_dictOnly k 1

theorem DictOnly.restore {s t : State} (h : DictOnly s t) : { t with dict := s.dict } = s := by
  obtain ⟨d, rfl⟩ := h
  rfl

/-! ### Wakes, SNUFF and resets -/

/-- The record of a wake touches the dictionary alone. -/
theorem State.recordWake_dictOnly (s : State) (source : Nat) (unit slc : UnitId) (pin : Nat) : DictOnly s (s.recordWake source unit slc pin) := by
  have five := ((((s.setEntry_dictOnly Key.pilotPowerLastWakeSource source).trans (State.setEntry_dictOnly _ Key.pilotPowerLastWakeUnit unit.toNat)).trans
    (State.setEntry_dictOnly _ Key.pilotPowerLastWakeSlice slc.toNat)).trans (State.setEntry_dictOnly _ Key.pilotPowerLastWakePin pin)).trans
    (State.setEntry_dictOnly _ Key.pilotPowerLastWakeTime s.timestamp.toNat)
  unfold State.recordWake
  split
  · exact five.trans (State.setEntry_dictOnly _ _ _)
  · exact five

/-- The record of a wake stands in PilotPower (R603). -/
theorem State.entry_recordWake_elsewhere (s : State) (source : Nat) (unit slc : UnitId) (pin : Nat) {e : Nat} (h : e / 256 ≠ 0xB010) :
    (s.recordWake source unit slc pin).entry e = s.entry e := by
  have other : ∀ (t : State) (k v : Nat), k / 256 = 0xB010 → (t.setEntry k v).entry e = t.entry e :=
    fun t k v hk => State.entry_setEntry_other _ _ _ fun c => h (by rw [c, hk])
  unfold State.recordWake
  dsimp only
  split
  · rw [other _ Key.pilotPowerWakeAtTime _ rfl, other _ Key.pilotPowerLastWakeTime _ rfl, other _ Key.pilotPowerLastWakePin _ rfl, other _ Key.pilotPowerLastWakeSlice _ rfl,
      other _ Key.pilotPowerLastWakeUnit _ rfl, other _ Key.pilotPowerLastWakeSource _ rfl]
  · rw [other _ Key.pilotPowerLastWakeTime _ rfl, other _ Key.pilotPowerLastWakePin _ rfl, other _ Key.pilotPowerLastWakeSlice _ rfl,
      other _ Key.pilotPowerLastWakeUnit _ rfl, other _ Key.pilotPowerLastWakeSource _ rfl]

theorem State.wakeSource_recordWake (s : State) {source : Nat} (unit slc : UnitId) (pin : Nat) :
    (s.recordWake source unit slc pin).entry Key.pilotPowerLastWakeSource = source := by
  unfold State.recordWake
  dsimp only
  split
  all_goals
    repeat rw [State.entry_setEntry_other _ _ _ (by decide)]
    exact State.entry_setEntry _ _ _

/-- A SNUFF that no HALT follows ends in KeyRoot's entries (R478). -/
theorem State.endSnuff_calm {s : State} (h : s.tamper.snuffHalt = false) :
    (∃ d m, s.endSnuff = { s with dict := d, tamper := m }) ∧ ∀ e, e / 256 ≠ 0x8000 → s.endSnuff.entry e = s.entry e := by
  unfold State.endSnuff
  split
  · exact ⟨⟨s.dict, s.tamper, rfl⟩, fun _ _ => rfl⟩
  · simp only [h, Bool.false_eq_true, if_false]
    constructor
    · obtain ⟨d, e⟩ := State.bump_dictOnly { s with tamper := { s.tamper with snuffDue := none, snuffHalt := false } } Key.keyRootSnuffs
      rw [e]
      exact ⟨_, _, rfl⟩
    · intro e he
      rw [State.entry_setEntry_other _ _ _ (fun c => he (by rw [c]; rfl)), State.entry_bump_elsewhere _ he]
      rfl

/-- What a device reset writes once the hub's state is gone: the count, the cause and the record of the wake (R560, R587). -/
def State.logReset (s : State) (cause : Nat) : State :=
  ((s.bump Key.deviceControlResetCount).setEntry Key.deviceControlLastResetCause cause).recordWake 6 0 0 0xFF

theorem State.logReset_dictOnly (s : State) (cause : Nat) : DictOnly s (s.logReset cause) :=
  ((s.bump_dictOnly _).trans (State.setEntry_dictOnly _ _ _)).trans (State.recordWake_dictOnly _ _ _ _ _)

theorem State.entry_logReset_cause (s : State) (cause : Nat) : (s.logReset cause).entry Key.deviceControlLastResetCause = cause := by
  rw [State.logReset, State.entry_recordWake_elsewhere _ _ _ _ _ (by decide), State.entry_setEntry]

theorem State.entry_logReset_source (s : State) (cause : Nat) : (s.logReset cause).entry Key.pilotPowerLastWakeSource = 6 := State.wakeSource_recordWake _ _ _ _

theorem State.entry_logReset_elsewhere (s : State) (cause : Nat) {e : Nat} (hw : e / 256 ≠ 0xB010) (hd : e / 256 ≠ 0x1000) : (s.logReset cause).entry e = s.entry e := by
  rw [State.logReset, State.entry_recordWake_elsewhere _ _ _ _ _ hw, State.entry_setEntry_other _ _ _ (fun c => hd (by rw [c]; rfl)), State.entry_bump_elsewhere _ hd]

theorem State.deviceReset_eq {s : State} (h : s.endSnuff.haltLatched = false) (cause : Nat) :
    s.deviceReset cause = (State.logReset { s.endSnuff.hubOff with power := .booting, retention := none } cause).emit .mainReset := by
  simp only [State.deviceReset, h, Bool.false_eq_true, if_false, State.logReset]

/-- What a device reset does while HALT is neither latched nor due: the hub's state is gone and the pilot's stays; the cause and the record of the wake are written (R449, R560, R587). -/
theorem State.deviceReset_calm {s : State} (hl : s.haltLatched = false) (hs : s.tamper.snuffHalt = false) (cause : Nat) :
    KeepsPilot s (s.deviceReset cause) ∧ HubEmpty (s.deviceReset cause) ∧ (s.deviceReset cause).power = .booting ∧ (s.deviceReset cause).retention = none ∧
      (s.deviceReset cause).entry Key.deviceControlLastResetCause = cause ∧ (s.deviceReset cause).entry Key.pilotPowerLastWakeSource = 6 ∧
      (∀ g < 2048, (s.deviceReset cause).entry (Key.queueSlotEnable g) = dictDefault s.variant (Key.queueSlotEnable g)) ∧ .mainReset ∈ (s.deviceReset cause).out := by
  obtain ⟨⟨d, m, frame⟩, entries⟩ := State.endSnuff_calm hs
  have latch : s.endSnuff.haltLatched = false := by
    unfold State.haltLatched State.flag at hl ⊢
    rw [entries _ (by decide)]
    exact hl
  have kept : KeepsPilot s s.endSnuff := by
    rw [frame]
    constructor <;> rfl
  rw [State.deviceReset_eq latch]
  have off := kept.trans (State.keepsPilot_hubOff s.endSnuff)
  have empty := State.hubEmpty_hubOff s.endSnuff
  have volatile : ∀ g < 2048, s.endSnuff.hubOff.entry (Key.queueSlotEnable g) = dictDefault s.variant (Key.queueSlotEnable g) := fun g hg =>
    (State.entry_hubOff_volatile _ (keepsValue_queueSlotEnable hg) fun c => by simp only [Key.queueSlotEnable, Key.tamperStatusSourceState] at c; omega).trans (by rw [kept.variant])
  generalize s.endSnuff.hubOff = s1 at off empty volatile
  obtain ⟨d1, e1⟩ := State.logReset_dictOnly { s1 with power := .booting, retention := none } cause
  refine ⟨?_, ?_, ?_, ?_, ?_, ?_, fun g hg => ?_, ?_⟩
  · rw [e1]
    exact { off with }
  · rw [e1]
    exact { empty with }
  · rw [e1]
    rfl
  · rw [e1]
    rfl
  · rw [State.entry_emit, State.entry_logReset_cause]
  · rw [State.entry_emit, State.entry_logReset_source]
  · have index : Key.queueSlotEnable g / 256 = 0x2800 + g := by unfold Key.queueSlotEnable; omega
    rw [State.entry_emit, State.entry_logReset_elsewhere _ _ (by omega) (by omega)]
    exact volatile g hg
  · simp [State.emit]

theorem State.running_iff (s : State) : (s.power = .lit || s.power = .low || s.power = .booting) = true ↔ s.power = .lit ∨ s.power = .low ∨ s.power = .booting := by
  simp [or_assoc]

theorem getLsbD_withBit_false {w : Nat} (v : BitVec w) (i : Nat) : (BitVec.ofNat w (withBit v.toNat i false)).getLsbD i = false := by
  have h := bitOf_withBit_false v.toNat i
  simp only [bitOf] at h
  simp [BitVec.getLsbD_ofNat, Nat.testBit_eq_decide_div_mod_eq, h]

/-- Settles O49. -/
theorem deviceResets : Obligations.DeviceResets := by
  unfold Obligations.DeviceResets
  intro s lost running calm
  have lose : ∀ {s0 : State} (cause : Nat), s0.haltLatched = false → s0.tamper.snuffHalt = false → KeepsPilot s s0 → lost (s0.deviceReset cause) cause := by
    intro s0 cause hl hs k
    obtain ⟨kept, empty, power, retention, reason, source, queues, out⟩ := State.deviceReset_calm hl hs cause
    have keep := k.trans kept
    rw [k.variant] at queues
    exact ⟨power, empty.jobs, empty.queues, empty.reservoir, empty.vault, empty.contexts, empty.sessions, empty.drk, empty.mbk, keep.ck, keep.fuses, keep.flash0, keep.flash1, keep.mram, empty.server, empty.fatal,
      empty.resetPending, retention, keep.timestamp, reason, source, queues, out⟩
  have here : KeepsPilot s s := ⟨rfl, rfl, rfl, rfl, rfl, rfl, rfl, rfl⟩
  have rails : ∀ (t : State) (x : Supplies) (cause : Nat), lost t cause → lost { t with supplies := x } cause := fun _ _ _ h => h
  refine ⟨fun hr hc c => ?_, fun hr c => ?_, fun hr hc => ?_, fun hr => ?_, fun hon hc r h1 h7 => ?_⟩
  · exact ⟨_, congrArg Host.Outcome.next (if_pos (s.running_iff.mpr hr)), lose _ hc.1 hc.2 here⟩
  · exact congrArg Host.Outcome.next (if_neg fun h => hr (s.running_iff.mp h))
  · exact ⟨_, congrArg Host.Outcome.next (if_pos (s.running_iff.mpr hr)), lose _ hc.1 hc.2 here⟩
  · exact congrArg Host.Outcome.next (if_neg fun h => hr (s.running_iff.mp h))
  · obtain ⟨d, e⟩ := State.bump_dictOnly s Key.moduleSensorsRailDropResets
    have latch : (s.bump Key.moduleSensorsRailDropResets).haltLatched = false := by
      have latched := hc.1
      unfold State.haltLatched State.flag at latched ⊢
      rwa [State.entry_bump_elsewhere _ (by decide)]
    have snuff : (s.bump Key.moduleSensorsRailDropResets).tamper.snuffHalt = false := by
      rw [e]
      exact hc.2
    have kept : KeepsPilot s (s.bump Key.moduleSensorsRailDropResets) := by
      rw [e]
      constructor <;> rfl
    have run : exec (.railDrop r) s = .next { (s.bump Key.moduleSensorsRailDropResets).deviceReset 7 with
        supplies := { ((s.bump Key.moduleSensorsRailDropResets).deviceReset 7).supplies with rails := BitVec.ofNat 8 (withBit ((s.bump Key.moduleSensorsRailDropResets).deviceReset 7).supplies.rails.toNat r.val false) } } := by
      show execRailDrop r s = _
      simp only [execRailDrop, hon, Bool.not_true, Bool.false_eq_true, if_false, h1, h7, latch]
    exact ⟨_, run, rails _ _ _ (lose 7 latch snuff kept), getLsbD_withBit_false _ _⟩

end Sys2Proof.Machine
end

section
/-! PROOFS. Supplies and rails (O52). -/

namespace Sys2Proof.Machine

/-! ### Losing the supplies -/

theorem KeepsPilot.refl (s : State) : KeepsPilot s s := ⟨rfl, rfl, rfl, rfl, rfl, rfl, rfl, rfl⟩

theorem DictOnly.keepsPilot {s t : State} (h : DictOnly s t) : KeepsPilot s t := by
  obtain ⟨d, rfl⟩ := h
  exact { KeepsPilot.refl s with }

theorem KeepsPilot.tamper {s t : State} (h : KeepsPilot s t) (m : Tamper) : KeepsPilot s { t with tamper := m } := { h with }

theorem KeepsPilot.stopped {s t : State} (h : KeepsPilot s t) (e : Emission) : KeepsPilot s (({ t with power := .halted, retention := none } : State).emit e) := { h with }

theorem State.halt_keepsPilot (s : State) : KeepsPilot s s.halt := by
  have latched := (s.setEntry_dictOnly Key.tamperStatusHaltLatched 1).keepsPilot
  unfold State.halt
  extract_lets s1
  split
  · exact latched
  · exact (latched.trans (State.keepsPilot_hubOff _)).stopped _

theorem State.endSnuff_keepsPilot (s : State) : KeepsPilot s s.endSnuff := by
  unfold State.endSnuff
  split
  · exact KeepsPilot.refl s
  · extract_lets _ t1 t2
    have counted : KeepsPilot s t2 := ((KeepsPilot.refl s).tamper _).trans ((State.bump_dictOnly t1 _).trans (State.setEntry_dictOnly _ _ _)).keepsPilot
    split
    · exact counted.trans (State.halt_keepsPilot _)
    · exact counted

/-- What the main rails' loss leaves: the pilot's store; with MAIN_EN asserted the hub's state is gone (R662, R663). -/
theorem State.mainOff_lost (s : State) : s.mainOff.supplies = { s.supplies with mainEn := false, rails := 0, railRetry := false } ∧ s.mainOff.timestamp = s.timestamp ∧
    s.mainOff.roots.ck = s.roots.ck ∧ (s.supplies.mainEn = true → s.mainOff.vault = [] ∧ s.mainOff.jobs = []) := by
  have kept := s.endSnuff_keepsPilot
  unfold State.mainOff
  extract_lets s1 s2
  have on : s1.supplies.mainEn = s.supplies.mainEn := by rw [kept.supplies]
  have keeps : KeepsPilot s s2 := by
    simp only [s2]
    split
    · exact kept.trans (State.keepsPilot_hubOff _)
    · exact kept
  refine ⟨?_, keeps.timestamp, keeps.ck, fun h => ?_⟩
  · show { s2.supplies with mainEn := false, rails := 0, railRetry := false } = _
    rw [keeps.supplies]
  · have empty : HubEmpty s2 := by
      simp only [s2, on, h, if_true]
      exact State.hubEmpty_hubOff _
    exact ⟨empty.vault, empty.jobs⟩

/-! ### Power-ups of domains -/

theorem DictOnly.foldl {α : Type} {f : State → α → State} (hf : ∀ t a, DictOnly t (f t a)) (l : List α) (s : State) : DictOnly s (l.foldl f s) := by
  induction l generalizing s with
  | nil => exact DictOnly.refl s
  | cons a r ih => exact (hf s a).trans (ih _)

theorem State.powerUps_dictOnly (s : State) (ds : List Nat) : DictOnly s (s.powerUps ds) := DictOnly.foldl (fun _ _ => State.bump_dictOnly _ _) ds s

/-! ### Supplies and rails -/

/-- A count that rose is not 0. -/
theorem State.entry_bump_ne_zero (s : State) {k : Nat} (hm : 0 < counterMax k) (hk : (overflowBit k).map Prod.fst ≠ some k) : (s.bump k).entry k ≠ 0 := by
  unfold State.bump
  by_cases h : s.entry k + 1 < counterMax k
  · rw [State.bumpBy_below (by decide) h, State.entry_setEntry]
    omega
  · unfold State.bumpBy
    simp only [Nat.one_ne_zero, if_false, h]
    split
    · next b i ho =>
      rw [State.entry_setEntryBit_other _ _ _ _ (fun c => hk (by rw [ho, c]; rfl)), State.entry_setEntry]
      omega
    · rw [State.entry_setEntry]
      omega

/-- What the loss of VSTBY leaves, from what the loss of the main rails left (R454, R663). -/
def State.enterCell (m : State) : State :=
  let s := { m.handover none with power := .cell, retention := none, resetPending := none, supplies := { m.supplies with vstby := false } }
  if s.supplies.vbat then s else { s with roots := { s.roots with ck := none } }

theorem execVstbyLoss_eq {s : State} (h : s.supplies.vstby = true) : exec .vstbyLoss s = .next s.mainOff.enterCell := by
  show execVstbyLoss s = _
  simp only [execVstbyLoss, h, Bool.not_true, Bool.false_eq_true, if_false]
  rfl

/-- A release of HALT, up to the record of its reset (R612). -/
def State.releaseHalt (s : State) : State :=
  let s := s.setEntry Key.tamperStatusHaltLatched 0
  { s with power := .booting, supplies := { s.supplies with rails := if s.power = .halted then 0xFF else s.supplies.rails } }

/-- The pilot after both supplies were lost, up to the record of its reset (R26, R595). -/
def State.restartPilot (s : State) : State :=
  let s := { s with timestamp := 0, activityAt := 0, lowSince := 0, power := .booting, supplies := { s.supplies with vstby := true, mainEn := false, rails := 0, railRetry := false } }
  let s := { s with tamper := { s.tamper with disarmed := 0, openOnce := 0 } }
  (s.setEntry Key.tamperStatusSourceState 0).setEntry Key.pilotPowerTimestampRestarted 1

/-- The record of a reset leaves TimestampRestarted (R26, R603). -/
theorem State.entry_logReset_restarted (s : State) (cause : Nat) : (s.logReset cause).entry Key.pilotPowerTimestampRestarted = s.entry Key.pilotPowerTimestampRestarted := by
  have other : ∀ (t : State) (k v : Nat), Key.pilotPowerTimestampRestarted ≠ k → (t.setEntry k v).entry Key.pilotPowerTimestampRestarted = t.entry Key.pilotPowerTimestampRestarted :=
    fun t k v hk => State.entry_setEntry_other _ _ _ hk
  unfold State.logReset State.recordWake
  dsimp only
  rw [if_neg (by decide), other _ _ _ (by decide), other _ _ _ (by decide), other _ _ _ (by decide), other _ _ _ (by decide), other _ _ _ (by decide), other _ _ _ (by decide),
    State.entry_bump_elsewhere _ (by decide)]

theorem State.entry_handover (s : State) (v : Option Server) (e : Nat) : (s.handover v).entry e = s.entry e := rfl

/-- Settles O52. -/
theorem suppliesAndRails : Obligations.SuppliesAndRails := by
  unfold Obligations.SuppliesAndRails
  intro s x
  have run : ∀ {c : Bool} {a b : State}, c = true → (Host.Outcome.next (if c = true then a else b) : Res) = .next a := fun h => congrArg _ (if_pos h)
  have skip : ∀ {c : Bool} {a b : State}, c = false → (Host.Outcome.next (if c = true then a else b) : Res) = .next b := fun h => congrArg _ (if_neg (by simp [h]))
  refine ⟨fun hv => ?_, fun hp hv hb => ?_, fun hv hb => ?_, fun h => ?_, fun hv hp hm => ?_, fun hm => ?_, fun hm => ?_, fun hp hm hr => ?_, ?_, fun h => ?_, rfl,
    fun hl hv byRails hb => ?_, fun hl byRails => ?_⟩
  · obtain ⟨supplies, timestamp, ck, hub⟩ := s.mainOff_lost
    refine ⟨_, execVstbyLoss_eq hv, ?_⟩
    generalize s.mainOff = m at supplies timestamp ck hub
    have vbat : m.supplies.vbat = x.vbat := by rw [supplies]
    have mainEn : m.supplies.mainEn = false := by rw [supplies]
    unfold State.enterCell
    cases h : x.vbat
    · rw [if_neg (by show ¬m.supplies.vbat = true; simp [vbat, h])]
      exact ⟨rfl, rfl, mainEn, rfl, rfl, timestamp, rfl, hub⟩
    · rw [if_pos (vbat.trans h)]
      exact ⟨rfl, rfl, mainEn, rfl, rfl, timestamp, ck, hub⟩
  · exact ⟨_, run (by simp [hp, show s.supplies.vstby = false from hv, show s.supplies.vbat = true from hb]), rfl, rfl, rfl, rfl, rfl⟩
  · have e : exec .pilotPowerUp s = .next ((s.restartPilot.logReset 1).handover (some .pilot)) :=
      skip (by simp [show s.supplies.vstby = false from hv, show s.supplies.vbat = false from hb])
    obtain ⟨d, frame⟩ := s.restartPilot.logReset_dictOnly 1
    refine ⟨_, e, ?_⟩
    refine ⟨?_, ?_, ?_, ?_, ?_, ?_, ?_, ?_⟩
    · rw [frame]; rfl
    · rw [frame]; rfl
    · rw [frame]; rfl
    · rw [frame]; rfl
    · rw [State.entry_handover, State.entry_logReset_restarted]
      exact State.entry_setEntry _ _ _
    · rw [State.entry_handover, State.entry_logReset_cause]
    · rw [State.entry_handover, State.entry_logReset_source]
    · rw [frame]; rfl
  · exact run (by simpa using h)
  · exact run (by simp [hp, show s.supplies.vstby = true from hv, show s.supplies.mainEn = false from hm])
  · refine ⟨_, run hm, ?_⟩
    rcases Bool.eq_false_or_eq_true (s.supplies.rails.getLsbD 1) with h | h
    · simp only [h, if_true]
      exact ⟨rfl, rfl, fun _ => trivial⟩
    · obtain ⟨d, e⟩ := s.powerUps_dictOnly [0x2B8, 0x2B9, 0x2BA]
      simp only [h, Bool.false_eq_true, if_false, e]
      exact ⟨rfl, rfl, fun c => absurd (h.symm.trans c) (by decide)⟩
  · exact skip hm
  · obtain ⟨d, e⟩ := State.bump_dictOnly { s with supplies := { s.supplies with mainEn := false, rails := 0, railRetry := true } } Key.moduleSensorsRailStartFailures
    refine ⟨_, run (by simpa [hp] using ⟨hm, hr⟩), ?_, State.entry_bump_ne_zero _ (by decide) (by decide), ?_⟩
    · rw [e]
    · rw [e]
  · refine ⟨_, rfl, ?_⟩
    rcases Bool.eq_false_or_eq_true s.supplies.vstby with h | h
    · simp [x, h]
    · simp [x, h]
  · show execSysclk25Loss s = _
    simp only [execSysclk25Loss, h, Bool.false_eq_true, if_false]
    rfl
  · have e : exec (.haltRelease byRails) s = .next (s.releaseHalt.logReset 1) :=
      run (by rcases hb with hb | hb <;> simp [hl, show s.supplies.vstby = true from hv, hb])
    obtain ⟨d, frame⟩ := s.releaseHalt.logReset_dictOnly 1
    refine ⟨_, e, ?_, ?_, State.entry_logReset_cause _ _, ?_, ?_⟩
    · unfold State.haltLatched State.flag
      rw [State.entry_logReset_elsewhere _ _ (by decide) (by decide)]
      exact decide_eq_false fun c => c (State.entry_setEntry s Key.tamperStatusHaltLatched 0)
    · rw [frame]; rfl
    · rw [frame]; rfl
    · rw [frame]; rfl
  · exact skip (by simp [hl])

end Sys2Proof.Machine
end

section
/-! PROOFS. Sconces, the slow clock and the sensors (R24, R35, R599 to R601, R671). -/

namespace Sys2Proof.Machine

/-- An object is an overflow entry's where one of its counters keeps its bit there. -/
theorem isOverflow_of {o : DictObject} {index sub : Nat} (ho : o ∈ dictObjects) (hl : o.base ≤ index) (hu : index < o.base + o.count) :
    isOverflow index sub = o.ovf.any fun c => c.2.1 = sub := by
  unfold isOverflow
  rw [dictObject_of ho hl hu]

/-- An accepted write that completes at once is answered and applied. -/
theorem State.writeEntry_accepted {s : State} {p : Path} {index sub : Nat} {value : Bytes} (hp : s.reaches p = true) (h : s.judgeWrite p index sub value = drOk) (hl : isLate index sub = false) :
    s.writeEntry p index sub value = (s.answer p index sub drOk).applyWrite index sub value := by
  rw [State.writeEntry_prompt (.inl hl), State.writeBy_accepted hp h]

@[simp] theorem State.entry_answer (s : State) (p : Path) (index sub r e : Nat) : (s.answer p index sub r).entry e = s.entry e := rfl
@[simp] theorem State.sconce_answer (s : State) (p : Path) (index sub r c : Nat) : (s.answer p index sub r).sconce c = s.sconce c := rfl

/-! ### Sconces -/

theorem sconcePower_object {c : Nat} (hc : c < 16) : dictSconcePower ∈ dictObjects ∧ dictSconcePower.base ≤ 0x4200 + c ∧ 0x4200 + c < dictSconcePower.base + dictSconcePower.count :=
  ⟨by simp [dictObjects], by simp [dictSconcePower], by simp [dictSconcePower]; omega⟩

theorem isLate_sconce {c sub : Nat} (hc : c < 16) : isLate (0x4200 + c) sub = false := by
  simp [isLate, isErase, isWindow]
  omega

/-- A write of SconcePower Enable (R601). -/
theorem State.applyWrite_enable (s : State) {c : Nat} (hc : c < 16) (value : Bytes) :
    s.applyWrite (0x4200 + c) 1 value = if leNat value = 0 then s.disableSconce c else s.enableSconce c := by
  obtain ⟨ho, hl, hu⟩ := sconcePower_object hc
  have ov : isOverflow (0x4200 + c) 1 = false := (isOverflow_of ho hl hu).trans (by decide)
  have place : 0x4200 + c - 0x4200 = c := by omega
  unfold State.applyWrite
  extract_lets v key
  rw [ov, if_neg Bool.false_ne_true, if_neg (by simp only [key, Key.deviceControlResetRequest]; omega), if_neg (by simp), if_neg (by simp only [key, Key.lifeCycleTransitionRequest]; omega),
    if_neg (by simp only [key, Key.lifeCycleKeyRowsProgram]; omega), if_neg (by simp only [key, Key.bootControlFlashWriteData]; omega), if_neg (by simp; omega), if_neg (by simp), if_neg (by simp),
    if_pos (by simp; omega), place]

/-- A write of SconcePower Level (R599). -/
theorem State.applyWrite_level (s : State) {c : Nat} (hc : c < 16) (value : Bytes) : s.applyWrite (0x4200 + c) 2 value = s.writeLevel c (leNat value) := by
  obtain ⟨ho, hl, hu⟩ := sconcePower_object hc
  have ov : isOverflow (0x4200 + c) 2 = false := (isOverflow_of ho hl hu).trans (by decide)
  have place : 0x4200 + c - 0x4200 = c := by omega
  unfold State.applyWrite
  extract_lets v key
  rw [ov, if_neg Bool.false_ne_true, if_neg (by simp only [key, Key.deviceControlResetRequest]; omega), if_neg (by simp), if_neg (by simp only [key, Key.lifeCycleTransitionRequest]; omega),
    if_neg (by simp only [key, Key.lifeCycleKeyRowsProgram]; omega), if_neg (by simp only [key, Key.bootControlFlashWriteData]; omega), if_neg (by simp; omega), if_neg (by simp), if_neg (by simp),
    if_neg (by simp), if_pos (by simp; omega), place]

@[simp] theorem State.sconce_setEntry (s : State) (k v c : Nat) : (s.setEntry k v).sconce c = s.sconce c := rfl

/-- The entries of one sconce are distinct. -/
theorem State.entry_setEntry_sub (s : State) (index : Nat) {a b : Nat} (v : Nat) (h : a ≠ b) : (s.setEntry (index * 256 + b) v).entry (index * 256 + a) = s.entry (index * 256 + a) :=
  State.entry_setEntry_other _ _ _ (by omega)

/-- A Level write (R599, R600). -/
theorem State.writeLevel_cases (s : State) (c v : Nat) :
    (s.entry (Key.sconcePowerState c) = 1 → s.entry (Key.sconcePowerCurrentLevel c) ≠ v →
      s.writeLevel c v = ((s.setEntry (Key.sconcePowerLevel c) v).setEntry (Key.sconcePowerState c) 2).setSconce c { s.sconce c with target := v }) ∧
    (s.entry (Key.sconcePowerState c) ≠ 1 ∨ s.entry (Key.sconcePowerCurrentLevel c) = v → s.writeLevel c v = s.setEntry (Key.sconcePowerLevel c) v) := by
  have st : (s.setEntry (Key.sconcePowerLevel c) v).entry (Key.sconcePowerState c) = s.entry (Key.sconcePowerState c) := State.entry_setEntry_sub _ _ _ (by decide)
  have cur : (s.setEntry (Key.sconcePowerLevel c) v).entry (Key.sconcePowerCurrentLevel c) = s.entry (Key.sconcePowerCurrentLevel c) := State.entry_setEntry_sub _ _ _ (by decide)
  unfold State.writeLevel
  simp only [st, cur]
  refine ⟨fun h1 h2 => ?_, fun h => ?_⟩
  · rw [if_pos (by simp [h1, h2])]
    rfl
  · rw [if_neg (by rcases h with h | h <;> simp [h])]

@[simp] theorem State.sconce_setSconce (s : State) (c : Nat) (x : Sconce) : (s.setSconce c x).sconce c = x := Table.get_set_same ..

/-- Level of a sconce once its level change has ended (R599, R600). -/
theorem State.endLevelChange_entries (s : State) {c : Nat} (hc : c < 16) (h : s.entry (Key.sconcePowerState c) = 2) :
    let t := s.endLevelChange c
    t.entry (Key.sconcePowerCurrentLevel c) = (s.sconce c).target ∧
    (s.entry (Key.sconcePowerLevel c) = (s.sconce c).target → t.entry (Key.sconcePowerState c) = 1) ∧
    (s.entry (Key.sconcePowerLevel c) ≠ (s.sconce c).target → t.entry (Key.sconcePowerState c) = 2 ∧ (t.sconce c).target = s.entry (Key.sconcePowerLevel c)) := by
  obtain ⟨ho, hl, hu⟩ := sconcePower_object hc
  have bit : ∀ b i, overflowBit (Key.sconcePowerLevelChanges c) = some (b, i) → b = Key.sconcePowerCounterOverflow c := by
    intro b i h
    rw [overflowBit_of ho hl hu (by decide)] at h
    simp [dictSconcePower] at h
    exact h.1.symm
  have counted : ∀ (t : State) (sub : Nat), sub < 5 → (t.bump (Key.sconcePowerLevelChanges c)).entry ((0x4200 + c) * 256 + sub) = t.entry ((0x4200 + c) * 256 + sub) :=
    fun t sub hs => State.entry_bumpBy_other t (by simp only [Key.sconcePowerLevelChanges]; omega) fun b i hb => by rw [bit b i hb]; simp only [Key.sconcePowerCounterOverflow]; omega
  have same : ∀ (t : State), (t.bump (Key.sconcePowerLevelChanges c)).sconce c = t.sconce c := fun t => by
    obtain ⟨d, e⟩ := t.bump_dictOnly (Key.sconcePowerLevelChanges c)
    rw [e]; rfl
  have level : ∀ v, ((s.setEntry (Key.sconcePowerCurrentLevel c) v).bump (Key.sconcePowerLevelChanges c)).entry (Key.sconcePowerLevel c) = s.entry (Key.sconcePowerLevel c) :=
    fun v => (counted _ 2 (by decide)).trans (State.entry_setEntry_sub _ _ _ (by decide))
  have current : ∀ v, ((s.setEntry (Key.sconcePowerCurrentLevel c) v).bump (Key.sconcePowerLevelChanges c)).entry (Key.sconcePowerCurrentLevel c) = v :=
    fun v => (counted _ 3 (by decide)).trans (State.entry_setEntry _ _ _)
  have state : ∀ v, ((s.setEntry (Key.sconcePowerCurrentLevel c) v).bump (Key.sconcePowerLevelChanges c)).entry (Key.sconcePowerState c) = 2 :=
    fun v => ((counted _ 4 (by decide)).trans (State.entry_setEntry_sub _ _ _ (by decide))).trans h
  unfold State.endLevelChange
  rw [if_neg (not_not.mpr h)]
  dsimp only
  simp only [level]
  split
  · next eq =>
    exact ⟨(State.entry_setEntry_sub _ _ _ (by decide)).trans (current _), fun _ => State.entry_setEntry _ _ _, fun c => absurd eq c⟩
  · next ne =>
    exact ⟨by rw [State.entry_setSconce, current], fun c => absurd c ne, fun _ => ⟨by rw [State.entry_setSconce, state], by rw [State.sconce_setSconce]⟩⟩

/-! ### A sconce's power -/

theorem State.drbg_of_drbgs {s t : State} (h : t.entropy.drbgs = s.entropy.drbgs) (i : Nat) : t.drbg i = s.drbg i := congrArg (fun x => Table.get (fun _ => Drbg.off) x i) h

theorem State.wick_of_wicks {s t : State} (h : t.wicks = s.wicks) (w : Nat) : t.wick w = s.wick w := congrArg (fun x => Table.get (fun _ => Wick.fresh) x w) h

theorem State.entry_of_dict {s t : State} (hd : t.dict = s.dict) (hv : t.variant = s.variant) (e : Nat) : t.entry e = s.entry e := by
  unfold State.entry
  rw [hd, hv]

@[simp] theorem Drbg.ready_reseeded (d : Drbg) (seed : Bytes) : (d.reseeded seed).ready = d.ready := by simp only [Drbg.reseeded, Drbg.update]

@[simp] theorem Drbg.ready_used (d : Drbg) (n : Nat) : (d.used n).ready = d.ready := by simp only [Drbg.used, Drbg.update]

/-- Enable 00h of a sconce that is on (R601). -/
theorem State.disableSconce_on {s : State} {c : Nat} (lit : s.power = .lit) (on : s.entry (Key.sconcePowerState c) ≠ 0) :
    (s.disableSconce c).entry (Key.sconcePowerEnable c) = 0 ∧ ((s.disableSconce c).sconce c).draining = true ∧
      (s.disableSconce c).entry (Key.sconcePowerState c) = s.entry (Key.sconcePowerState c) ∧ (s.disableSconce c).wicks = s.wicks ∧ (s.disableSconce c).jobs = s.jobs := by
  have keeps : (s.setEntry (Key.sconcePowerEnable c) 0).entry (Key.sconcePowerState c) = s.entry (Key.sconcePowerState c) := State.entry_setEntry_sub _ _ _ (by decide)
  unfold State.disableSconce
  dsimp only
  rw [keeps, if_pos (by simp [on, lit]), State.entry_setSconce, State.entry_setSconce, State.entry_setEntry, State.sconce_setSconce]
  exact ⟨rfl, rfl, keeps, rfl, rfl⟩

/-- Enable 01h of a sconce that is off (R601). -/
theorem State.enableSconce_off {s : State} {c : Nat} (lit : s.power = .lit) (off : s.entry (Key.sconcePowerState c) = 0) :
    (s.enableSconce c).entry (Key.sconcePowerEnable c) = 1 ∧ (s.enableSconce c).entry (Key.sconcePowerState c) = 3 ∧ ((s.enableSconce c).sconce c).draining = false := by
  have keeps : ∀ x, ((s.setEntry (Key.sconcePowerEnable c) 1).setSconce c x).entry (Key.sconcePowerState c) = 0 := fun x =>
    (State.entry_setSconce _ _ _ _).trans ((State.entry_setEntry_sub _ _ _ (by decide)).trans off)
  unfold State.enableSconce
  extract_lets a b
  have hb : b.entry (Key.sconcePowerState c) = 0 := keeps _
  have hl : b.power = .lit := lit
  rw [if_pos (by simp [hb, hl])]
  refine ⟨?_, State.entry_setEntry _ _ _, ?_⟩
  · rw [State.entry_setEntry_sub _ _ _ (by decide)]
    exact (State.entry_setSconce _ _ _ _).trans (State.entry_setEntry _ _ _)
  · rw [State.sconce_setEntry]
    exact congrArg Sconce.draining (State.sconce_setSconce _ _ _)

/-- A generate request keeps its DRBG instantiated, the wicks, and every entry but the count of seeds waited for (R486 to R489). -/
theorem State.generate_side (s : State) (i n : Nat) :
    ((s.generate i n).2.drbg i).ready = (s.drbg i).ready ∧ (s.generate i n).2.wicks = s.wicks ∧
      ∀ e, e / 256 ≠ Key.entropyStatusSeedWaits / 256 → (s.generate i n).2.entry e = s.entry e := by
  have seed : ((s.reseed i).drbg i).ready = (s.drbg i).ready ∧ (s.reseed i).wicks = s.wicks ∧
      ∀ e, e / 256 ≠ Key.entropyStatusSeedWaits / 256 → (s.reseed i).entry e = s.entry e := by
    unfold State.reseed
    extract_lets d
    split
    · exact ⟨rfl, rfl, fun _ _ => rfl⟩
    · split
      · next x rest _ =>
        refine ⟨(congrArg Drbg.ready (State.drbg_of_drbgs (s := s.setDrbg i (d.reseeded x)) rfl i)).trans ?_, rfl, fun _ _ => rfl⟩
        rw [State.drbg_setDrbg, Drbg.ready_reseeded]
      · have held : ∀ t : State, (t.drbg i).ready = (s.drbg i).ready → t.wicks = s.wicks → t.dict = s.dict → t.variant = s.variant →
            ((t.bump Key.entropyStatusSeedWaits).drbg i).ready = (s.drbg i).ready ∧ (t.bump Key.entropyStatusSeedWaits).wicks = s.wicks ∧
              ∀ e, e / 256 ≠ Key.entropyStatusSeedWaits / 256 → (t.bump Key.entropyStatusSeedWaits).entry e = s.entry e := by
          intro t hr hw hd hv
          obtain ⟨dict, e⟩ := t.bump_dictOnly Key.entropyStatusSeedWaits
          refine ⟨?_, ?_, fun k hk => (State.entry_bump_elsewhere _ hk).trans (State.entry_of_dict hd hv k)⟩
          · rw [State.drbg_of_drbgs (s := t) (by rw [e]) i, hr]
          · rw [e, ← hw]
        exact held _ ((congrArg Drbg.ready (State.drbg_of_drbgs (s := s.setDrbg i { d with holding := true }) rfl i)).trans (by rw [State.drbg_setDrbg])) rfl rfl rfl
  obtain ⟨ready, wicks, entry⟩ := seed
  unfold State.generate
  dsimp only
  split
  · refine ⟨?_, wicks, entry⟩
    rw [State.drbg_setDrbg, Drbg.ready_used, ready]
  · exact ⟨ready, wicks, entry⟩

/-- The key that a wick's shroud generator asks for (R590, R601). -/
theorem State.keyShroud_side (s : State) {c : Nat} (w : Nat) (h : (s.drbg c).ready = true) :
    ((s.keyShroud c w).drbg c).ready = true ∧ ((s.keyShroud c w).wick w).shroud.keyed = true ∧ (∀ v, v ≠ w → (s.keyShroud c w).wick v = s.wick v) ∧
      ∀ e, e / 256 ≠ Key.entropyStatusSeedWaits / 256 → (s.keyShroud c w).entry e = s.entry e := by
  obtain ⟨ready, wicks, entry⟩ := s.generate_side c 32
  refine ⟨ready.trans h, ?_, fun v hv => ?_, entry⟩
  · unfold State.keyShroud
    rw [State.wick_setWick]
    exact h
  · unfold State.keyShroud
    rw [State.wick_setWick_other _ _ hv]
    exact State.wick_of_wicks wicks v

/-- The keys that the wicks of a list ask for. -/
theorem State.keyShrouds_side {c : Nat} (ws : List Nat) (s : State) (h : (s.drbg c).ready = true) :
    (∀ w, w ∈ ws ∨ (s.wick w).shroud.keyed = true → ((ws.foldl (fun s w => s.keyShroud c w) s).wick w).shroud.keyed = true) ∧
      ∀ e, e / 256 ≠ Key.entropyStatusSeedWaits / 256 → (ws.foldl (fun s w => s.keyShroud c w) s).entry e = s.entry e := by
  induction ws generalizing s with
  | nil => exact ⟨fun w hw => hw.resolve_left (by simp), fun _ _ => rfl⟩
  | cons a r ih =>
    obtain ⟨ready, keyed, others, entry⟩ := s.keyShroud_side a h
    obtain ⟨all, rest⟩ := ih (s.keyShroud c a) ready
    refine ⟨fun w hw => all w ?_, fun e he => (rest e he).trans (entry e he)⟩
    by_cases hwa : w = a
    · exact .inr (hwa ▸ keyed)
    · rw [others w hwa]
      exact hw.imp_left fun m => (List.mem_cons.mp m).resolve_left hwa

theorem mem_wicksOf {c w : Nat} : w ∈ span (16 * c) 16 ↔ w / 16 = c := by
  simp only [span, List.mem_map, List.mem_range]
  constructor
  · rintro ⟨k, hk, rfl⟩
    omega
  · intro h
    exact ⟨w % 16, by omega, by omega⟩

/-- Power-ups are counted in the PowerDomain entries alone (R606). -/
theorem State.entry_powerUps {ds : List Nat} (s : State) {e : Nat} (h : ∀ d ∈ ds, e / 256 ≠ 0xB100 + d) : (s.powerUps ds).entry e = s.entry e := by
  unfold State.powerUps
  induction ds generalizing s with
  | nil => rfl
  | cons a r ih =>
    exact (ih _ fun d hd => h d (List.mem_cons_of_mem _ hd)).trans
      (State.entry_bump_elsewhere _ (by have := h a List.mem_cons_self; simp only [Key.powerDomainPowerUps]; omega))

/-- A sconce that has powered up takes jobs at its level, its shroud generators keyed (R590, R601). -/
theorem State.sconceOn_side (s : State) {c : Nat} (hc : c < 16) (h : (s.drbg c).ready = true) :
    (s.sconceOn c).entry (Key.sconcePowerState c) = 1 ∧ (s.sconceOn c).entry (Key.sconcePowerCurrentLevel c) = s.entry (Key.sconcePowerLevel c) ∧
      ∀ w, w / 16 = c → ((s.sconceOn c).wick w).shroud.keyed = true := by
  obtain ⟨b, hb⟩ : ∃ b, b = (s.setEntry (Key.sconcePowerState c) 1).setEntry (Key.sconcePowerCurrentLevel c) ((s.setEntry (Key.sconcePowerState c) 1).entry (Key.sconcePowerLevel c)) := ⟨_, rfl⟩
  have level : b.entry (Key.sconcePowerCurrentLevel c) = s.entry (Key.sconcePowerLevel c) := by
    rw [hb, State.entry_setEntry, State.entry_setEntry_sub _ _ _ (by decide)]
  have state : b.entry (Key.sconcePowerState c) = 1 := by
    rw [hb, State.entry_setEntry_sub _ _ _ (by decide), State.entry_setEntry]
  have ready : (b.drbg c).ready = true := by rw [hb]; exact h
  obtain ⟨keyed, entry⟩ := b.keyShrouds_side (span (16 * c) 16) ready
  unfold State.sconceOn
  dsimp only
  rw [← hb]
  generalize (span (16 * c) 16).foldl (fun s w => s.keyShroud c w) b = f at keyed entry
  have counted : ∀ sub, sub < 5 → (f.powerUps (sconceDomains c)).entry ((0x4200 + c) * 256 + sub) = b.entry ((0x4200 + c) * 256 + sub) := fun sub hs =>
    (State.entry_powerUps f (by omega)).trans (entry _ (by simp only [Key.entropyStatusSeedWaits]; omega))
  obtain ⟨d, frame⟩ := f.powerUps_dictOnly (sconceDomains c)
  refine ⟨(counted 4 (by decide)).trans state, (counted 3 (by decide)).trans level, fun w hw => ?_⟩
  rw [State.wick_of_wicks (s := f) (by rw [frame]) w]
  exact keyed w (.inl (mem_wicksOf.mpr hw))

/-- Wicks that are scrubbed, one after another. -/
theorem State.scrubWicks_side (ws : List Nat) (s : State) :
    (∀ w, (ws.foldl (fun s w => s.setWick w Wick.fresh) s).wick w = if w ∈ ws then Wick.fresh else s.wick w) ∧
      (ws.foldl (fun s w => s.setWick w Wick.fresh) s).dict = s.dict ∧ (ws.foldl (fun s w => s.setWick w Wick.fresh) s).variant = s.variant := by
  induction ws generalizing s with
  | nil => exact ⟨fun w => by simp, rfl, rfl⟩
  | cons a r ih =>
    obtain ⟨all, dict, variant⟩ := ih (s.setWick a Wick.fresh)
    rw [List.foldl_cons]
    refine ⟨fun w => ?_, dict.trans (State.dict_setWick ..), variant.trans (State.variant_setWick ..)⟩
    rw [all w]
    by_cases hwa : w = a
    · subst hwa
      simp
    · rw [State.wick_setWick_other _ _ hwa]
      simp [hwa]

/-- A sconce whose domains are off: its State is 0 and its wicks hold nothing (R597). -/
theorem State.sconceOff_side (s : State) (c : Nat) :
    (s.sconceOff c).entry (Key.sconcePowerState c) = 0 ∧ ∀ w, (s.sconceOff c).wick w = if w / 16 = c then Wick.fresh else s.wick w := by
  obtain ⟨b, hb⟩ : ∃ b, b = (s.setEntry (Key.sconcePowerState c) 0).setEntry (Key.sconcePowerCurrentLevel c) 0xFF := ⟨_, rfl⟩
  have state : b.entry (Key.sconcePowerState c) = 0 := by
    rw [hb, State.entry_setEntry_sub _ _ _ (by decide), State.entry_setEntry]
  have same : b.wicks = s.wicks := by rw [hb]; rfl
  obtain ⟨wicks, dict, variant⟩ := b.scrubWicks_side (span (16 * c) 16)
  unfold State.sconceOff
  dsimp only
  rw [← hb]
  refine ⟨(State.entry_of_dict dict variant _).trans state, fun w => ?_⟩
  rw [wicks w, State.wick_of_wicks same w]
  simp only [mem_wicksOf]

/-! ### The slow clock -/

theorem State.settleSnuff_none {s : State} (h : s.tamper.snuffDue = none) : s.settleSnuff = s := by simp [State.settleSnuff, h]

theorem State.settleEntry_none {s : State} (h : s.entering = none) : s.settleEntry = s := by simp [State.settleEntry, h]

/-- No held pin wakes the device: none is held, or it is neither in LOW nor in DARK (R588). -/
theorem State.wakeHeld_none {s : State} (h : (∀ k < 8, s.levelHeld k = false) ∨ (s.power ≠ .low ∧ s.power ≠ .dark)) : s.wakeHeld = s := by
  unfold State.wakeHeld
  split
  · rfl
  · next awake =>
    rcases h with h | ⟨low, dark⟩
    · rw [List.find?_eq_none.mpr fun k hk => by simp [h k (List.mem_range.mp hk)]]
    · exact absurd (by simp [low, dark]) awake

/-- A state in which nothing falls due is settled. -/
theorem State.settle_idle {s : State} (hs : s.tamper.snuffDue = none) (ha : s.hop.authWait = none) (he : s.entering = none)
    (hw : (∀ k < 8, s.levelHeld k = false) ∨ (s.power ≠ .low ∧ s.power ≠ .dark)) : s.settleSnuff.expireAuth.settleEntry.wakeHeld = s := by
  rw [State.settleSnuff_none hs, State.expireAuth_none ha, State.settleEntry_none he, State.wakeHeld_none hw]

/-- Hub cycles of one slow-clock tick at 1,171,875 cycles in 32 ticks (R24, R35). -/
theorem tickCycles (t : Nat) : (t + 1) * 1171875 / 32 - t * 1171875 / 32 = 36621 ∨ (t + 1) * 1171875 / 32 - t * 1171875 / 32 = 36622 := by omega

/-! ### Sensor samples -/

/-- Samples stored one after another under different keys: each key holds its own. -/
theorem State.entry_foldl_samples {α : Type} {f : State → α × Nat → State} {key : Nat → Nat} {val : α → Nat} (l : List (α × Nat)) (s : State)
    (own : ∀ t, ∀ p ∈ l, (f t p).entry (key p.2) = val p.1) (other : ∀ t, ∀ p ∈ l, ∀ q ∈ l, q.2 ≠ p.2 → (f t p).entry (key q.2) = t.entry (key q.2)) (distinct : (l.map Prod.snd).Nodup)
    {p : α × Nat} (hp : p ∈ l) : (l.foldl f s).entry (key p.2) = val p.1 := by
  induction l using List.reverseRecOn with
  | nil => cases hp
  | append_singleton r a ih =>
    rw [List.foldl_append, List.foldl_cons, List.foldl_nil]
    rw [List.map_append, List.nodup_append] at distinct
    obtain ⟨rest, _, apart⟩ := distinct
    have here : a ∈ r ++ [a] := by simp
    rcases List.mem_append.mp hp with hr | ha
    · rw [other _ a here p hp (apart _ (List.mem_map_of_mem hr) _ (by simp))]
      exact ih (fun t q hq => own t q (List.mem_append_left _ hq)) (fun t q hq u hu => other t q (List.mem_append_left _ hq) u (List.mem_append_left _ hu)) rest hr
    · rw [List.mem_singleton.mp ha]
      exact own _ a here

theorem map_snd_samples {α : Type} (l : List α) : (l.zip (List.range l.length)).map Prod.snd = List.range l.length :=
  List.map_snd_zip (by simp)

theorem sample_mem {α : Type} (l : List α) {k : Nat} (hk : k < l.length) (d : α) : (l.getD k d, k) ∈ l.zip (List.range l.length) := by
  have hz : k < (l.zip (List.range l.length)).length := by simpa using hk
  have : (l.zip (List.range l.length))[k] = (l.getD k d, k) := by simp [List.getElem_zip, hk]
  exact this ▸ List.getElem_mem hz

/-- The k-th of a list's samples stands under the k-th key once all are stored. -/
theorem State.entry_samples {α : Type} {f : State → α × Nat → State} {key : Nat → Nat} {val : α → Nat} (l : List α) (s : State)
    (own : ∀ t a n, n < l.length → (f t (a, n)).entry (key n) = val a) (other : ∀ t a n k, n < l.length → k ≠ n → k < l.length → (f t (a, n)).entry (key k) = t.entry (key k))
    {k : Nat} (hk : k < l.length) (d : α) : ((l.zip (List.range l.length)).foldl f s).entry (key k) = val (l.getD k d) :=
  have small : ∀ p ∈ l.zip (List.range l.length), p.2 < l.length := fun _ hp => List.mem_range.mp (List.of_mem_zip hp).2
  State.entry_foldl_samples (p := (l.getD k d, k)) _ s (fun t p hp => own t p.1 p.2 (small p hp)) (fun t p hp q hq h => other t p.1 p.2 q.2 (small p hp) h (small q hq))
    (by rw [map_snd_samples]; exact List.nodup_range) (sample_mem l hk d)

/-- An entry that no sample touches keeps its value. -/
theorem State.entry_foldl_unchanged {α : Type} {f : State → α → State} {e : Nat} (l : List α) (s : State) (h : ∀ t, ∀ a ∈ l, (f t a).entry e = t.entry e) :
    (l.foldl f s).entry e = s.entry e := by
  induction l generalizing s with
  | nil => rfl
  | cons a r ih => rw [List.foldl_cons, ih _ fun t b hb => h t b (List.mem_cons_of_mem _ hb), h _ a List.mem_cons_self]

/-- One die's sample, with the highest kept (R671). -/
def State.sampleTemp (s : State) (p : BitVec 32 × Nat) : State :=
  let s := s.setEntry (Key.moduleSensorsDieTemp p.2) p.1.toNat
  if (BitVec.ofNat 32 (s.entry Key.moduleSensorsMaxDieTemp)).toInt < p.1.toInt then s.setEntry Key.moduleSensorsMaxDieTemp p.1.toNat else s

/-- One rail's sample (R671). -/
def State.sampleRail (s : State) (p : BitVec 16 × Nat) : State := s.setEntry (Key.moduleSensorsRailMv p.2) p.1.toNat

theorem State.sampleTemp_dictOnly (s : State) (p : BitVec 32 × Nat) : DictOnly s (s.sampleTemp p) := by
  unfold State.sampleTemp
  dsimp only
  split
  · exact (s.setEntry_dictOnly _ _).trans (State.setEntry_dictOnly _ _ _)
  · exact s.setEntry_dictOnly _ _

theorem State.entry_sampleTemp_other (s : State) (p : BitVec 32 × Nat) {e : Nat} (h : e ≠ Key.moduleSensorsDieTemp p.2) (hm : e ≠ Key.moduleSensorsMaxDieTemp) :
    (s.sampleTemp p).entry e = s.entry e := by
  unfold State.sampleTemp
  dsimp only
  split
  · rw [State.entry_setEntry_other _ _ _ hm, State.entry_setEntry_other _ _ _ h]
  · rw [State.entry_setEntry_other _ _ _ h]

theorem State.entry_sampleTemp (s : State) (p : BitVec 32 × Nat) (h : p.2 < 17) : (s.sampleTemp p).entry (Key.moduleSensorsDieTemp p.2) = p.1.toNat := by
  unfold State.sampleTemp
  dsimp only
  split
  · rw [State.entry_setEntry_other _ _ _ (by simp only [Key.moduleSensorsDieTemp, Key.moduleSensorsMaxDieTemp]; omega), State.entry_setEntry]
  · rw [State.entry_setEntry]

/-- A sample of every sensor and rail (R671). -/
def State.sampleAll (s : State) (temps : List (BitVec 32)) (rails : List (BitVec 16)) (vbat : BitVec 16) : State :=
  ((rails.zip (List.range rails.length)).foldl State.sampleRail ((temps.zip (List.range temps.length)).foldl State.sampleTemp s)).setEntry Key.moduleSensorsVbatMv vbat.toNat

theorem exec_sensorSample (s : State) {temps : List (BitVec 32)} {rails : List (BitVec 16)} (vbat : BitVec 16) (h : s.hop.server = some .firmware) (ht : temps.length = 17) (hr : rails.length = 9) :
    exec (.sensorSample temps rails vbat) s = .next (s.sampleAll temps rails vbat) := by
  show execSensorSample temps rails vbat s = _
  unfold execSensorSample
  rw [if_neg (by simp [h, ht, hr]), State.sampleAll, ht, hr]
  rfl

theorem State.sampleAll_dictOnly (s : State) (temps : List (BitVec 32)) (rails : List (BitVec 16)) (vbat : BitVec 16) : DictOnly s (s.sampleAll temps rails vbat) :=
  ((DictOnly.foldl State.sampleTemp_dictOnly _ _).trans (DictOnly.foldl (fun _ _ => State.setEntry_dictOnly _ _ _) _ _)).trans (State.setEntry_dictOnly _ _ _)

theorem State.entry_sampleAll (s : State) {temps : List (BitVec 32)} {rails : List (BitVec 16)} (vbat : BitVec 16) (ht : temps.length = 17) (hr : rails.length = 9) :
    (∀ k < 17, (s.sampleAll temps rails vbat).entry (Key.moduleSensorsDieTemp k) = (temps.getD k 0).toNat) ∧
      (∀ k < 9, (s.sampleAll temps rails vbat).entry (Key.moduleSensorsRailMv k) = (rails.getD k 0).toNat) ∧ (s.sampleAll temps rails vbat).entry Key.moduleSensorsVbatMv = vbat.toNat := by
  refine ⟨fun k hk => ?_, fun k hk => ?_, State.entry_setEntry _ _ _⟩
  · rw [State.sampleAll, State.entry_setEntry_other _ _ _ (by simp only [Key.moduleSensorsDieTemp, Key.moduleSensorsVbatMv]; omega),
      State.entry_foldl_unchanged (f := State.sampleRail) _ _ fun t p _ => State.entry_setEntry_other _ _ _ (by simp only [Key.moduleSensorsDieTemp, Key.moduleSensorsRailMv]; omega)]
    exact State.entry_samples (key := Key.moduleSensorsDieTemp) (val := BitVec.toNat) temps s (fun t a n hn => t.entry_sampleTemp (a, n) (ht ▸ hn))
      (fun t a n j hn hj hl => t.entry_sampleTemp_other (a, n) (by simp only [Key.moduleSensorsDieTemp]; omega) (by simp only [Key.moduleSensorsDieTemp, Key.moduleSensorsMaxDieTemp]; omega)) (by omega) 0
  · rw [State.sampleAll, State.entry_setEntry_other _ _ _ (by simp only [Key.moduleSensorsRailMv, Key.moduleSensorsVbatMv]; omega)]
    exact State.entry_samples (key := Key.moduleSensorsRailMv) (val := BitVec.toNat) rails _ (fun t a n hn => State.entry_setEntry _ _ _)
      (fun t a n j hn hj hl => State.entry_setEntry_other _ _ _ (by simp only [Key.moduleSensorsRailMv]; omega)) (by omega) 0

/-- A tick of the slow clock that nothing else falls due in (R24, R35). -/
theorem exec_slowClockTick {s : State} (hv : s.supplies.vstby = true ∨ s.supplies.vbat = true) (hs : s.tamper.snuffDue = none) (he : s.entering = none) (ha : s.hop.authWait = none)
    (hw : (∀ k < 8, s.levelHeld k = false) ∨ (s.power ≠ .low ∧ s.power ≠ .dark)) :
    exec .slowClockTick s = .next { s with
      timestamp := s.timestamp + 1,
      hubCycle := s.hubCycle + (if s.hubOn then (s.timestamp.toNat % 32 + 1) * 1171875 / 32 - s.timestamp.toNat % 32 * 1171875 / 32 else 0) } := by
  show execSlowClockTick s = _
  unfold execSlowClockTick
  rw [if_pos (by simpa using hv)]
  exact congrArg _ (State.settle_idle hs ha he hw)

/-- Settles O53: levels and power of a sconce, the slow clock and the samples, each by the lemmas of its operation. -/
theorem sconcesAndSensors : Obligations.SconcesAndSensors := by
  unfold Obligations.SconcesAndSensors
  intro s p c hp st state
  have hc := c.isLt
  have run : ∀ {b : Bool} {x y : State}, b = true → (Host.Outcome.next (if b = true then x else y) : Res) = .next x := fun h => congrArg _ (if_pos h)
  have skip : ∀ {b : Bool} {x y : State}, b = false → (Host.Outcome.next (if b = true then x else y) : Res) = .next y := fun h => congrArg _ (if_neg (by simp [h]))
  refine ⟨fun v hv => ?_, fun h => ?_, fun h => ?_, fun hj hl h => ?_, fun hd hb => ?_, fun hb => ?_, fun hj hl h => ?_, fun hl he h hr => ?_, fun hr => ?_,
    fun hv hs he ha hw => ?_, fun hv hb => ?_, fun temps rails vbat h ht hr => ?_⟩
  · have e : exec (.levelWrite p c v) s = .next ((s.answer p (0x4200 + c.val) 2 drOk).writeLevel c.val v.toNat) := by
      show Host.Outcome.next (s.writeEntry p (0x4200 + c.val) 2 [v]) = _
      rw [State.writeEntry_accepted hp hv (isLate_sconce hc), State.applyWrite_level _ hc]
      simp [leNat]
    refine ⟨_, e, ?_⟩
    obtain ⟨change, keep⟩ := (s.answer p (0x4200 + c.val) 2 drOk).writeLevel_cases c.val v.toNat
    simp only [State.entry_answer, State.sconce_answer] at change keep
    by_cases moves : st = 1 ∧ s.entry (Key.sconcePowerCurrentLevel c.val) ≠ v.toNat
    · obtain ⟨on, differs⟩ := moves
      rw [change on differs]
      refine ⟨?_, rfl, fun _ _ => ⟨?_, ?_, ?_⟩, fun off => absurd on off⟩
      · rw [State.entry_setSconce, State.entry_setEntry_sub _ _ _ (by decide), State.entry_setEntry]
      · simp only [state, State.entry_setSconce, State.entry_setEntry]
      · rw [State.sconce_setSconce]
      · rw [State.entry_setSconce, State.entry_setEntry_sub _ _ _ (by decide), State.entry_setEntry_sub _ _ _ (by decide), State.entry_answer]
    · rw [keep ((not_and_or.mp moves).imp_right not_not.mp)]
      exact ⟨State.entry_setEntry _ _ _, rfl, fun on differs => absurd ⟨on, differs⟩ moves, fun _ => State.entry_setEntry_sub _ _ _ (by decide)⟩
  · exact ⟨_, rfl, s.endLevelChange_entries hc h⟩
  · exact congrArg _ (if_pos h)
  · have e : exec (.sconceDisable p c) s = .next ((s.answer p (0x4200 + c.val) 1 drOk).disableSconce c.val) := by
      show Host.Outcome.next (s.writeEntry p (0x4200 + c.val) 1 [0]) = _
      rw [State.writeEntry_accepted hp hj (isLate_sconce hc), State.applyWrite_enable _ hc, if_pos (by decide)]
    obtain ⟨enable, draining, state, frame⟩ := State.disableSconce_on (s := s.answer p (0x4200 + c.val) 1 drOk) (c := c.val) hl h
    exact ⟨_, e, enable, draining, state, frame⟩
  · obtain ⟨off, wicks⟩ := s.sconceOff_side c.val
    refine ⟨_, run (by simp [hd, hb]), (State.entry_setSconce _ _ _ _).trans off, by rw [State.sconce_setSconce], fun w hw => ?_, fun w hw => ?_⟩
    · rw [State.wick_setSconce, wicks w, if_pos hw]
    · rw [State.wick_setSconce, wicks w, if_neg hw]
  · exact skip (by simp [hb])
  · have e : exec (.sconceEnable p c) s = .next ((s.answer p (0x4200 + c.val) 1 drOk).enableSconce c.val) := by
      show Host.Outcome.next (s.writeEntry p (0x4200 + c.val) 1 [1]) = _
      rw [State.writeEntry_accepted hp hj (isLate_sconce hc), State.applyWrite_enable _ hc, if_neg (by decide)]
    exact ⟨_, e, State.enableSconce_off (s := s.answer p (0x4200 + c.val) 1 drOk) hl h⟩
  · exact ⟨_, run (by simp [hl, he, show s.entry (Key.sconcePowerState c.val) = 3 from h, hr]), s.sconceOn_side hc hr⟩
  · exact skip (by simp [hr])
  · refine ⟨_, exec_slowClockTick hv hs he ha hw, rfl, fun hub => ?_, fun hub => ?_, rfl⟩
    · simp [hub]
    · simp only [hub, if_true]
      have := tickCycles (s.timestamp.toNat % 32)
      omega
  · exact congrArg _ (if_neg (by simp [hv, hb]))
  · obtain ⟨dies, mv, cell⟩ := s.entry_sampleAll vbat ht hr
    exact ⟨_, exec_sensorSample s vbat h ht hr, dies, mv, cell, (s.sampleAll_dictOnly temps rails vbat).restore⟩

end Sys2Proof.Machine
end

section
/-! PROOFS. A host window's write beside a queue past the queue slots (O43). -/

namespace Sys2Proof.Machine

/-- A unit whose firmware serves, with a run of ring entries in flight for a queue at place 3C00h. No QueueSlot has that place (R386): the key of its Slice entry is the one of window 0 of slice 0. -/
def strayQueue : State :=
  { State.reset with
    hop := { State.reset.hop with server := some .firmware }
    queues := [(0x3C00, { Queue.idle with runs := [{ start := 0, len := 1, epoch := 0, dropped := false }] })] }

/-- The unit after a write of window 0 of slice 0. -/
def strayWrite : State := strayQueue.writeEntry .firmware 0x6400 1 (leBytes 8 0x301)

theorem strayQueue_accepts : strayQueue.judgeWrite .firmware 0x6400 1 (leBytes 8 0x301) = drOk := by decide

theorem strayWrite_answered : strayWrite.out.length = 1 := by decide

/-- Refutes O43: before the write the stray queue's slice reads 0, so its run counts as an older read of slice 0 and the write should wait; the write changes that slice to 301h, no older read is left, and the write is answered at once. The statement bounds no queue's place by the 2,048 slots of R386. -/
theorem not_entryWriteEffects : ¬ Obligations.EntryWriteEffects := by
  unfold Obligations.EntryWriteEffects
  rintro ⟨-, -, windows, -⟩
  obtain ⟨t, e, -, waits, -⟩ := (windows strayQueue .firmware 0 0 0x301 (by decide) strayQueue_accepts).2 fun x hx => absurd hx List.not_mem_nil
  have written : strayWrite = t := by injection e
  have unanswered : strayWrite.out = [] := written ▸ (waits (by decide)).1
  exact absurd strayWrite_answered (by rw [unanswered]; decide)

end Sys2Proof.Machine
end

section
/-! PROOFS. The mailboxes' operations (R534 to R539). -/

namespace Sys2Proof.Machine

theorem State.mailbox_bump (s : State) (k n : Nat) : (s.bump k).mailbox n = s.mailbox n := by
  obtain ⟨d, e⟩ := s.bump_dictOnly k
  rw [e]
  rfl

/-- A mailbox as the end of an operation leaves it (R537). -/
def Mailbox.ended (m : Mailbox) (addr : BitVec 32) (result : Nat) (data : Option Bytes) : Mailbox :=
  { m with
    addr := addr &&& 0xFFFFFF#32
    status := mbStatus result ((data.map List.length).getD 0)
    data := (data.map fun b => b ++ m.data.drop b.length).getD m.data }

/-- The state but for its mailboxes and dictionary, with the mailboxes of other slices. -/
def OneMailbox (s : State) (n : Nat) (t : State) : Prop :=
  (∀ k, k ≠ n → t.mailbox k = s.mailbox k) ∧ { t with mailboxes := s.mailboxes, dict := s.dict } = s

theorem State.setMailbox_one (s : State) (n : Nat) (m : Mailbox) : OneMailbox s n (s.setMailbox n m) := ⟨fun _ hk => s.mailbox_setMailbox_other _ m hk, rfl⟩

theorem OneMailbox.trans {s t u : State} {n : Nat} (h : OneMailbox s n t) (k : OneMailbox t n u) : OneMailbox s n u := by
  obtain ⟨others, frame⟩ := h
  obtain ⟨others', frame'⟩ := k
  refine ⟨fun j hj => (others' j hj).trans (others j hj), ?_⟩
  have e := congrArg (fun x : State => { x with mailboxes := s.mailboxes, dict := s.dict }) frame'
  exact e.trans frame

theorem State.endMailbox_eq (s : State) (link n : Nat) (addr : BitVec 32) (result : Nat) (data : Option Bytes) :
    s.endMailbox link n addr result data = (s.setMailbox n ((s.mailbox n).ended addr result data)).bump (Key.hostMailboxMailboxOps link) := by
  cases data <;> rfl

/-- An operation that ends fills its mailbox and touches no other (R537, R542). -/
theorem State.endMailbox_side (s : State) (link n : Nat) (addr : BitVec 32) (result : Nat) (data : Option Bytes) :
    (s.endMailbox link n addr result data).mailbox n = (s.mailbox n).ended addr result data ∧ OneMailbox s n (s.endMailbox link n addr result data) := by
  rw [State.endMailbox_eq]
  refine ⟨by rw [State.mailbox_bump, State.mailbox_setMailbox], (s.setMailbox_one n _).trans ⟨fun k _ => State.mailbox_bump _ _ _, ?_⟩⟩
  obtain ⟨d, e⟩ := (s.setMailbox n ((s.mailbox n).ended addr result data)).bump_dictOnly (Key.hostMailboxMailboxOps link)
  rw [e]

/-- A mailbox that a link serves has its link up (R535). -/
theorem State.linkUp_of_mailboxOn {s : State} {l n : Nat} (h : s.mailboxOn l n = true) : s.linkUp l = true := by
  simp only [State.mailboxOn, State.mailboxServed, Bool.and_eq_true, decide_eq_true_eq] at h
  obtain ⟨rfl, up, -⟩ := h
  exact up

theorem State.mailboxBusy_eq (s : State) (n : Nat) : s.mailboxBusy n = (s.mailbox n).status.getLsbD 31 := by
  simp only [State.mailboxBusy, bitOf, BitVec.getLsbD, Nat.testBit_eq_decide_div_mod_eq]

/-- What an operation does once its mailbox takes it (R535 to R537). -/
def State.atMailbox (s : State) (l n : Nat) (taken : State) : State :=
  if !s.linkUp l then s else if !s.mailboxOn l n then s.bump (Key.hostMailboxMailboxDrops l) else if s.mailboxBusy n then s else taken

theorem State.atMailbox_down {s : State} {l : Nat} (h : s.linkUp l = false) (n : Nat) (t : State) : s.atMailbox l n t = s := by simp [State.atMailbox, h]

theorem State.atMailbox_unserved {s : State} {l n : Nat} (up : s.linkUp l = true) (h : s.mailboxOn l n = false) (t : State) :
    s.atMailbox l n t = s.bump (Key.hostMailboxMailboxDrops l) := by simp [State.atMailbox, up, h]

theorem State.atMailbox_busy {s : State} {l n : Nat} (on : s.mailboxOn l n = true) (h : (s.mailbox n).status.getLsbD 31 = true) (t : State) : s.atMailbox l n t = s := by
  rw [State.atMailbox, if_neg (by simp [State.linkUp_of_mailboxOn on]), if_neg (by simp [on]), if_pos ((s.mailboxBusy_eq n).trans h)]

theorem State.atMailbox_taken {s : State} {l n : Nat} (on : s.mailboxOn l n = true) (h : (s.mailbox n).status.getLsbD 31 = false) (t : State) : s.atMailbox l n t = t := by
  have idle : s.mailboxBusy n = false := (s.mailboxBusy_eq n).trans h
  simp [State.atMailbox, State.linkUp_of_mailboxOn on, on, idle]

/-- The operation of a READ (R537). -/
def State.readMailbox (s : State) (link : Nat) (slice : Fin 512) (addr : BitVec 32) : State :=
  if s.judgeRead (.mailbox slice) (mbIndex addr) (mbSub addr) ≠ drOk then s.endMailbox link slice.val addr (s.judgeRead (.mailbox slice) (mbIndex addr) (mbSub addr)) none
  else if 8192 < (s.readBytes (mbIndex addr) (mbSub addr)).length then s.endMailbox link slice.val addr drLength none
  else s.endMailbox link slice.val addr drOk (some (s.readBytes (mbIndex addr) (mbSub addr)))

/-- The operation of an INFO (R537). -/
def State.infoMailbox (s : State) (link : Nat) (slice : Fin 512) (addr : BitVec 32) : State :=
  s.endMailbox link slice.val addr (s.infoOp (.mailbox slice) (mbIndex addr) (mbSub addr)).1
    (if (s.infoOp (.mailbox slice) (mbIndex addr) (mbSub addr)).1 = drOk then some (s.infoOp (.mailbox slice) (mbIndex addr) (mbSub addr)).2 else none)

/-- A slice's mailbox with the length and data of a WRITE (R536). -/
def State.loadMailbox (s : State) (n : Nat) (len : BitVec 32) (data : Bytes) : State :=
  s.setMailbox n { s.mailbox n with len := len &&& 0x3FFF#32, data := data.take 8192 }

/-- The operation of a WRITE whose length and data stand in the mailbox: `given` is the value (R537, R539). -/
def State.writeMailbox (s : State) (link : Nat) (slice : Fin 512) (addr : BitVec 32) (given : Bytes) : State :=
  if s.judgeWrite (.mailbox slice) (mbIndex addr) (mbSub addr) given = drOk && isLate (mbIndex addr) (mbSub addr) then
    (s.setMailbox slice.val { s.mailbox slice.val with addr := addr &&& 0xFFFFFF#32, status := BitVec.ofNat 32 (2 ^ 31) }).lateWrite (mbIndex addr) (mbSub addr) (leNat given) (.mailbox link slice.val addr)
  else
    if s.judgeWrite (.mailbox slice) (mbIndex addr) (mbSub addr) given = drOk then
      (s.endMailbox link slice.val addr (s.judgeWrite (.mailbox slice) (mbIndex addr) (mbSub addr) given) none).applyWrite (mbIndex addr) (mbSub addr) given
    else s.endMailbox link slice.val addr (s.judgeWrite (.mailbox slice) (mbIndex addr) (mbSub addr) given) none

theorem exec_mbRead (s : State) (link : Fin 8) (slice : Fin 512) (addr : BitVec 32) :
    exec (.mbRead link slice addr) s = .next (s.atMailbox link.val slice.val (s.readMailbox link.val slice addr)) := rfl

theorem exec_mbInfo (s : State) (link : Fin 8) (slice : Fin 512) (addr : BitVec 32) :
    exec (.mbInfo link slice addr) s = .next (s.atMailbox link.val slice.val (s.infoMailbox link.val slice addr)) := rfl

theorem exec_mbWrite (s : State) (link : Fin 8) (slice : Fin 512) (addr len : BitVec 32) (data : Bytes) :
    exec (.mbWrite link slice addr len data) s =
      .next (s.atMailbox link.val slice.val ((s.loadMailbox slice.val len data).writeMailbox link.val slice addr (cut data 0 (bitsOf len.toNat 13 0)))) := rfl

/-- Settles O42. -/
theorem mailboxOperations : Obligations.MailboxOperations := by
  unfold Obligations.MailboxOperations
  intro s link slice addr len data m kept i k p rd v others busy
  have gate : ∀ c ∈ [Instr.mbRead link slice addr, .mbWrite link slice addr len data, .mbInfo link slice addr], ∃ t, exec c s = .next (s.atMailbox link.val slice.val t) := by
    simp only [List.forall_mem_cons]
    exact ⟨⟨_, exec_mbRead ..⟩, ⟨_, exec_mbWrite ..⟩, ⟨_, exec_mbInfo ..⟩, by simp⟩
  refine ⟨fun c hc => ?_, fun on free => ⟨fun h => ?_, fun h hv => ?_, fun h hv => ?_, ?_, ?_⟩⟩
  · obtain ⟨t, e⟩ := gate c hc
    rw [e]
    exact ⟨fun h => by rw [State.atMailbox_down h], fun up h => by rw [State.atMailbox_unserved up h], fun on h => by rw [State.atMailbox_busy on h]⟩
  · obtain ⟨mine, one⟩ := s.endMailbox_side link.val slice.val addr rd none
    exact ⟨_, by rw [exec_mbRead, State.atMailbox_taken on free, State.readMailbox, if_pos h], mine, one⟩
  · obtain ⟨mine, one⟩ := s.endMailbox_side link.val slice.val addr drOk (some v)
    exact ⟨_, by rw [exec_mbRead, State.atMailbox_taken on free, State.readMailbox, if_neg (not_not.mpr h), if_neg (Nat.not_lt.mpr hv)], mine, one⟩
  · obtain ⟨mine, others, -⟩ := s.endMailbox_side link.val slice.val addr drLength none
    exact ⟨_, by rw [exec_mbRead, State.atMailbox_taken on free, State.readMailbox, if_neg (not_not.mpr h), if_pos hv], mine, others⟩
  · obtain ⟨mine, others, -⟩ := s.endMailbox_side link.val slice.val addr (s.infoOp p i k).1 (if (s.infoOp p i k).1 = drOk then some (s.infoOp p i k).2 else none)
    refine ⟨_, by rw [exec_mbInfo, State.atMailbox_taken on free, State.infoMailbox], ?_, others⟩
    refine mine.trans ?_
    by_cases h : (s.infoOp p i k).1 = drOk
    · simp only [h, if_true]
      rfl
    · simp only [h, if_false]
      rfl
  · intro given s1 wr late
    have taken : exec (.mbWrite link slice addr len data) s = .next (s1.writeMailbox link.val slice addr given) := by
      rw [exec_mbWrite, State.atMailbox_taken on free, show bitsOf len.toNat 13 0 = len.toNat % 2 ^ 14 by simp [bitsOf]]
      rfl
    have loaded : s1.mailbox slice.val = { m with len := len &&& 0x3FFF#32, data := data.take 8192 } := State.mailbox_setMailbox _ _ _
    have one : OneMailbox s slice.val s1 := s.setMailbox_one _ _
    by_cases hl : late
    · obtain ⟨ok, isLater⟩ := hl
      obtain ⟨others, frame⟩ := one.trans (s1.setMailbox_one slice.val { s1.mailbox slice.val with addr := kept, status := 0x80000000 })
      refine ⟨s1.setMailbox slice.val { s1.mailbox slice.val with addr := kept, status := 0x80000000 }, ?_, ?_, others, frame⟩
      · rw [taken, if_pos ⟨ok, isLater⟩, State.writeMailbox, if_pos (Bool.and_eq_true_iff.mpr ⟨decide_eq_true ok, isLater⟩)]
        rfl
      · rw [State.mailbox_setMailbox, if_pos ⟨ok, isLater⟩, loaded]
    · obtain ⟨mine, ended⟩ := s1.endMailbox_side link.val slice.val addr wr none
      obtain ⟨others, frame⟩ := one.trans ended
      refine ⟨s1.endMailbox link.val slice.val addr wr none, ?_, ?_, others, frame⟩
      · rw [taken, if_neg hl, State.writeMailbox, if_neg fun c => hl ((Bool.and_eq_true_iff.mp c).imp_left of_decide_eq_true)]
      · rw [mine, if_neg hl, loaded]
        rfl

end Sys2Proof.Machine
end

section
/-! PROOFS. What a stream sends, what its pacing leaves as it was, and its evaluations that change no entry (R429 to R442). -/

namespace Sys2Proof.Machine

/-! ### What a stream sends -/

/-- What only received frames and new EPOCHs change of a stream. -/
def Stream.received (x : Stream) : BitVec 32 × List (Nat × Nat) × Nat × Nat × Nat × BitVec 32 × Nat × Bool × Nat :=
  (x.rxSeq, x.steps, x.buffer, x.window, x.consumed, x.ordinal, x.feedOffset, x.earlyWarning, x.starves)

/-- What pacing and the sending of marks leave of a stream. -/
def Stream.holds (x : Stream) : (BitVec 32 × List (Nat × Nat) × Nat × Nat × Nat × BitVec 32 × Nat × Bool × Nat) × List StreamRecord × BitVec 32 :=
  (x.received, x.records, x.nextRsn)

/-- The jobs stay, and of stream n what was received; of its records there are none new. -/
structure Sends (n : Nat) (s t : State) : Prop where
  jobs : t.jobs = s.jobs
  received : (t.stream n).received = (s.stream n).received
  records : (s.stream n).records = [] → (t.stream n).records = []

/-- The jobs stay, and of stream n what was received and its records. -/
structure Signals (n : Nat) (s t : State) : Prop where
  jobs : t.jobs = s.jobs
  holds : (t.stream n).holds = (s.stream n).holds

variable {n : Nat} {s t u : State}

theorem Sends.refl (n : Nat) (s : State) : Sends n s s := ⟨rfl, rfl, id⟩

theorem Sends.trans (h : Sends n s t) (k : Sends n t u) : Sends n s u := ⟨k.jobs.trans h.jobs, k.received.trans h.received, fun e => k.records (h.records e)⟩

theorem Signals.refl (n : Nat) (s : State) : Signals n s s := ⟨rfl, rfl⟩

theorem Signals.trans (h : Signals n s t) (k : Signals n t u) : Signals n s u := ⟨k.jobs.trans h.jobs, k.holds.trans h.holds⟩

theorem Signals.received (h : Signals n s t) : (t.stream n).received = (s.stream n).received := congrArg Prod.fst h.holds

theorem Signals.records (h : Signals n s t) : (t.stream n).records = (s.stream n).records := congrArg (·.2.1) h.holds

theorem Signals.nextRsn (h : Signals n s t) : (t.stream n).nextRsn = (s.stream n).nextRsn := congrArg (·.2.2) h.holds

theorem Signals.sends (h : Signals n s t) : Sends n s t := ⟨h.jobs, h.received, fun e => h.records.trans e⟩

theorem State.stream_of_streams {s t : State} (h : t.streams = s.streams) (n : Nat) : t.stream n = s.stream n := by
  unfold State.stream
  rw [h]

/-- What touches neither jobs nor streams. -/
theorem Signals.of_streams (hj : t.jobs = s.jobs) (hs : t.streams = s.streams) : Signals n s t := by
  exact ⟨hj, by rw [State.stream_of_streams hs n]⟩

theorem State.setEntry_signals (s : State) (n k v : Nat) : Signals n s (s.setEntry k v) := .of_streams rfl rfl

theorem State.bump_signals (s : State) (n k : Nat) : Signals n s (s.bump k) := by
  obtain ⟨d, e⟩ := s.bump_dictOnly k
  exact .of_streams (by rw [e]) (by rw [e])

theorem State.setStreamState_signals (s : State) (n m v : Nat) : Signals n s (s.setStreamState m v) := by
  unfold State.setStreamState
  dsimp only
  split <;> exact .of_streams rfl rfl

theorem State.issueFrame_signals (s : State) (n : Nat) (f : SentFrame) : Signals n s (s.issueFrame f) := by
  unfold State.issueFrame
  split
  · exact .of_streams rfl rfl
  · exact .refl n s

theorem State.setStream_signals {x : Stream} (h : x.holds = (s.stream n).holds) : Signals n s (s.setStream n x) :=
  ⟨rfl, by rw [State.stream_setStream, h]⟩

theorem State.setStream_sends {x : Stream} (h : x.received = (s.stream n).received) (hr : (s.stream n).records = [] → x.records = []) : Sends n s (s.setStream n x) := by
  have e := State.stream_setStream s n x
  exact ⟨rfl, by rw [e, h], by rw [e]; exact hr⟩

theorem State.sendSeq_signals (s : State) (n kind flags : Nat) (body : Bytes) : Signals n s (s.sendSeq n kind flags body) := by
  unfold State.sendSeq
  exact (State.setStream_signals (by rfl)).trans (State.issueFrame_signals _ _ _)

theorem State.sendPlain_signals (s : State) (n kind : Nat) (body : Bytes) : Signals n s (s.sendPlain n kind body) := State.issueFrame_signals _ _ _

theorem State.sendDim_signals (s : State) (n j : Nat) : Signals n s (s.sendDim n j) :=
  ((s.sendSeq_signals n _ _ _).trans (State.setEntry_signals _ _ _ _)).trans (State.bump_signals _ _ _)

theorem State.sendResume_signals (s : State) (n j : Nat) (r : BitVec 32) (stop : Option (BitVec 32)) (off : Nat) : Signals n s (s.sendResume n j r stop off) :=
  (s.sendSeq_signals n _ _ _).trans (State.bump_signals _ _ _)

theorem State.startStep_signals (s : State) (n j : Nat) (r : BitVec 32) (stop : Option (BitVec 32)) : Signals n s (s.startStep n j r stop) := by
  have sent := s.sendResume_signals n j r stop 0
  unfold State.startStep
  extract_lets rest a x b
  refine ((sent.trans ?_).trans (State.setEntry_signals b n _ _)).trans (State.setStreamState_signals _ _ _ _)
  show Signals n a (a.setStream n _)
  exact State.setStream_signals (by rfl)

/-- A GLIDE takes no record away (R429, R439). -/
theorem State.sendGlide_sends (s : State) (n : Nat) (stop : BitVec 32) : Sends n s (s.sendGlide n stop) := by
  have sent := s.sendSeq_signals n 5 0 (leBytes 4 stop.toNat ++ leBytes 4 0)
  unfold State.sendGlide
  extract_lets a x again recs y
  refine ((sent.sends.trans (State.setStream_sends ?_ fun e => ?_)).trans (State.setStreamState_signals _ _ _ _).sends).trans (State.bump_signals _ _ _).sends
  · simp only [y]
    split <;> rfl
  · have none : x.records = [] := e
    simp only [y]
    split
    · simp [recs, none]
    · exact none

/-- Off egress a GLIDE leaves the records as they are (R429, R442). -/
theorem State.sendGlide_signals (s : State) (n : Nat) (stop : BitVec 32) (h : s.streamDir n ≠ 0) : Signals n s (s.sendGlide n stop) := by
  have sent := s.sendSeq_signals n 5 0 (leBytes 4 stop.toNat ++ leBytes 4 0)
  unfold State.sendGlide
  extract_lets a x again recs y
  have dir : a.streamDir n = s.streamDir n := by
    simp only [a, State.streamDir, State.sendSeq, State.issueFrame]
    split <;> rfl
  have off : y = { x with stopRsn := some stop, filling := false, flush := false } := if_neg (by rw [dir]; exact h)
  rw [off]
  exact ((sent.trans (State.setStream_signals (by rfl))).trans (State.setStreamState_signals _ _ _ _)).trans (State.bump_signals _ _ _)

theorem Stream.holds_pass (x : Stream) (r : BitVec 32) (b : Bool) (bytes : Bytes) : (x.pass r b bytes).holds = x.holds := by
  unfold Stream.pass
  split <;> split <;> rfl

theorem sendFrames_sends (n : Nat) (rsn : BitVec 32) (fuel : Nat) (s : State) : Sends n s (sendFrames n rsn fuel s) := by
  induction fuel generalizing s with
  | zero => exact .refl n s
  | succ k ih =>
    unfold sendFrames
    extract_lets x
    split
    · exact .refl n s
    · next r hr =>
      have some : x.records ≠ [] := fun e => by simp [e] at hr
      extract_lets left body data first last upd y z
      split
      · exact .refl n s
      · refine ((State.setStream_sends ?_ fun e => absurd e some).trans (State.sendSeq_signals _ _ _ _ _).sends).trans (ih _)
        simp only [z]
        split
        · exact congrArg Prod.fst (Stream.holds_pass _ _ _ _)
        · rfl

theorem sendRecords_sends (n : Nat) (rs : List StreamRecord) (s : State) : Sends n s (sendRecords n rs s) := by
  induction rs generalizing s with
  | nil => exact .refl n s
  | cons r rest ih =>
    have sent := sendFrames_sends n r.rsn (r.bytes.length + 1) s
    unfold sendRecords
    extract_lets stop t
    split
    · exact .refl n s
    · split
      · split
        · exact sent
        · exact sent.trans (ih _)
      · exact sent.trans (ih _)

theorem State.sendMarks_signals (s : State) (n : Nat) : Signals n s (s.sendMarks n) := by
  have marks : ∀ (ms : List (Nat × Nat)) (s : State), Signals n s (ms.foldl (fun s m =>
      let x := s.stream n
      let s := s.setStream n { x with marksHeld := x.marksHeld.drop 1, marksSent := x.marksSent ++ [(m.1, x.txSeq)] }
      s.sendSeq n 6 0 (leBytes 1 2 ++ leBytes 3 0 ++ leBytes 4 (x.nextRsn - 1).toNat ++ leBytes 8 m.2)) s) := by
    intro ms
    induction ms with
    | nil => exact fun s => .refl n s
    | cons m r ih => exact fun s => ((State.setStream_signals (by rfl)).trans (State.sendSeq_signals _ _ _ _ _)).trans (ih _)
  unfold State.sendMarks
  extract_lets x
  split
  · exact .refl n s
  · exact marks _ s

theorem State.pump_sends (s : State) (n : Nat) : Sends n s (s.pump n) := by
  unfold State.pump
  extract_lets st t
  split
  · exact .refl n s
  · refine Sends.trans ?_ (State.sendMarks_signals _ _).sends
    simp only [t]
    split
    · exact .refl n s
    · exact sendRecords_sends _ _ _

theorem State.paceEgress_sends (s : State) (n : Nat) : Sends n s (s.paceEgress n) := by
  unfold State.paceEgress
  extract_lets x v r step st a p need stop unsent
  have filled : Sends n s a := (State.setStream_signals (by rfl)).sends
  split
  · split
    · exact .refl n s
    · split
      · split
        · exact filled.trans (State.sendDim_signals _ _ _).sends
        · exact filled.trans (State.sendGlide_sends _ _ _)
      · split
        · split
          · exact filled.trans (State.startStep_signals _ _ _ _ _).sends
          · exact filled
        · exact filled
  · split
    · split
      · split
        · exact .refl n s
        · exact (State.startStep_signals _ _ _ _ _).sends
      · split
        · split
          · exact .refl n s
          · split
            · exact (State.startStep_signals _ _ _ _ _).sends
            · exact .refl n s
        · exact .refl n s
    · exact .refl n s

/-- A restore stream that moves keeps its records under pacing (R442). -/
theorem State.paceRestore_signals (s : State) (n : Nat) (hm : s.streamState n = stMoving) (hd : s.streamDir n ≠ 0) : Signals n s (s.paceRestore n) := by
  unfold State.paceRestore
  extract_lets x f step st
  rw [if_pos hm]
  split
  · split
    · exact State.sendDim_signals _ _ _
    · exact State.sendGlide_signals _ _ _ hd
  · split
    · split
      · exact State.startStep_signals _ _ _ _ _
      · exact .refl n s
    · exact .refl n s

theorem State.paceRestore_sends (s : State) (n : Nat) : Sends n s (s.paceRestore n) := by
  unfold State.paceRestore
  extract_lets x f step st first a
  split
  · split
    · split
      · exact (State.sendDim_signals _ _ _).sends
      · exact State.sendGlide_sends _ _ _
    · split
      · split
        · exact (State.startStep_signals _ _ _ _ _).sends
        · exact .refl n s
      · exact .refl n s
  · split
    · split
      · refine Sends.trans ?_ (State.startStep_signals a _ _ _ _).sends
        show Sends n s (s.setStream n _)
        exact State.setStream_sends (by rfl) fun e => congrArg (List.filter _) e
      · exact .refl n s
    · exact .refl n s

/-- Evaluating a stream sends and paces (R437). -/
theorem State.evaluate_sends (s : State) (n : Nat) : Sends n s (s.evaluate n) := by
  unfold State.evaluate
  refine Sends.trans ?_ (State.pump_sends _ _)
  split
  · exact s.paceEgress_sends n
  · split
    · exact s.paceRestore_sends n
    · exact .refl n s

/-! ### Evaluations that change no entry -/

/-- Streams and what is sent change, nothing else. -/
def Frames (s t : State) : Prop := ∃ m o, t = { s with streams := m, out := o }

theorem Frames.refl (s : State) : Frames s s := ⟨_, _, rfl⟩

theorem Frames.trans {s t u : State} (h : Frames s t) (k : Frames t u) : Frames s u := by
  obtain ⟨m, o, rfl⟩ := h
  obtain ⟨m', o', rfl⟩ := k
  exact ⟨m', o', rfl⟩

theorem Frames.entry {s t : State} (h : Frames s t) (e : Nat) : t.entry e = s.entry e := by
  obtain ⟨m, o, rfl⟩ := h
  rfl

theorem State.setStream_frames (s : State) (n : Nat) (x : Stream) : Frames s (s.setStream n x) := ⟨_, _, rfl⟩

theorem State.issueFrame_frames (s : State) (f : SentFrame) : Frames s (s.issueFrame f) := by
  unfold State.issueFrame
  split
  · exact ⟨_, _, rfl⟩
  · exact .refl s

theorem State.sendSeq_frames (s : State) (n kind flags : Nat) (body : Bytes) : Frames s (s.sendSeq n kind flags body) :=
  (State.setStream_frames _ _ _).trans (State.issueFrame_frames _ _)

theorem sendFrames_frames (n : Nat) (rsn : BitVec 32) (fuel : Nat) (s : State) : Frames s (sendFrames n rsn fuel s) := by
  induction fuel generalizing s with
  | zero => exact .refl s
  | succ k ih =>
    unfold sendFrames
    extract_lets x
    split
    · exact .refl s
    · extract_lets left body data first last upd y z
      split
      · exact .refl s
      · exact ((s.setStream_frames n z).trans (State.sendSeq_frames _ _ _ _ _)).trans (ih _)

theorem sendRecords_frames (n : Nat) (rs : List StreamRecord) (s : State) : Frames s (sendRecords n rs s) := by
  induction rs generalizing s with
  | nil => exact .refl s
  | cons r rest ih =>
    have sent := sendFrames_frames n r.rsn (r.bytes.length + 1) s
    unfold sendRecords
    extract_lets stop t
    split
    · exact .refl s
    · split
      · split
        · exact sent
        · exact sent.trans (ih _)
      · exact sent.trans (ih _)

theorem State.sendMarks_frames (s : State) (n : Nat) : Frames s (s.sendMarks n) := by
  have marks : ∀ (ms : List (Nat × Nat)) (s : State), Frames s (ms.foldl (fun s m =>
      let x := s.stream n
      let s := s.setStream n { x with marksHeld := x.marksHeld.drop 1, marksSent := x.marksSent ++ [(m.1, x.txSeq)] }
      s.sendSeq n 6 0 (leBytes 1 2 ++ leBytes 3 0 ++ leBytes 4 (x.nextRsn - 1).toNat ++ leBytes 8 m.2)) s) := by
    intro ms
    induction ms with
    | nil => exact fun s => .refl s
    | cons m r ih => exact fun s => ((State.setStream_frames _ _ _).trans (State.sendSeq_frames _ _ _ _ _)).trans (ih _)
  unfold State.sendMarks
  extract_lets x
  split
  · exact .refl s
  · exact marks _ s

theorem State.pump_frames (s : State) (n : Nat) : Frames s (s.pump n) := by
  unfold State.pump
  extract_lets st t
  split
  · exact .refl s
  · refine Frames.trans ?_ (State.sendMarks_frames _ _)
    simp only [t]
    split
    · exact .refl s
    · exact sendRecords_frames _ _ _

/-- A stream that neither moves nor is at rest is not paced (R439, R442). -/
theorem State.evaluate_unpaced {s : State} {n : Nat} (hm : s.streamState n ≠ stMoving) (hs : s.streamState n ≠ stStopped) : s.evaluate n = s.pump n := by
  have egress : s.paceEgress n = s := by
    unfold State.paceEgress
    extract_lets
    rw [if_neg hm, if_neg hs]
  have restore : s.paceRestore n = s := by
    unfold State.paceRestore
    extract_lets x f step st
    rw [if_neg hm, if_neg (by simp [st, hs])]
  unfold State.evaluate
  rw [egress, restore, ite_self, ite_self]

/-- A stream that waits sends nothing (R421). -/
theorem State.evaluate_waiting {s : State} {n : Nat} (h : s.streamState n = stWaiting) : s.evaluate n = s := by
  rw [State.evaluate_unpaced (by rw [h]; decide) (by rw [h]; decide), State.pump]
  dsimp only
  rw [if_pos (by simp [h])]

/-- An egress stream at rest that holds no record is not paced (R439). -/
theorem State.evaluate_empty {s : State} {n : Nat} (hd : s.streamDir n = 0) (hs : s.streamState n = stStopped) (hr : (s.stream n).records = []) : s.evaluate n = s.pump n := by
  have egress : s.paceEgress n = s := by
    unfold State.paceEgress
    extract_lets x v r step st a p need stop unsent
    have none : unsent = [] := by simp [unsent, x, hr]
    rw [if_neg (by simp only [st, hs]; decide), if_pos hs, none]
    split <;> rfl
  unfold State.evaluate
  rw [egress, if_pos hd]

/-- The settings of stream n stay: its entries before State (R453). -/
def SettingsKept (n : Nat) (s t : State) : Prop := ∀ sub, sub < 0x0A → t.entry ((0x7400 + n) * 256 + sub) = s.entry ((0x7400 + n) * 256 + sub)

theorem SettingsKept.trans {n : Nat} {s t u : State} (h : SettingsKept n s t) (k : SettingsKept n t u) : SettingsKept n s u := fun sub hs => (k sub hs).trans (h sub hs)

theorem SettingsKept.of_frames {n : Nat} {s t : State} (h : Frames s t) : SettingsKept n s t := fun _ _ => h.entry _

/-- A count of a stream leaves the stream's entries before its counters (R453). -/
theorem State.entry_bump_stream (s : State) {n k sub : Nat} (hn : n < 1024) (hl : 0x0E ≤ k) (hk : k < 0x14) (hs : sub < 0x0E) :
    (s.bump ((0x7400 + n) * 256 + k)).entry ((0x7400 + n) * 256 + sub) = s.entry ((0x7400 + n) * 256 + sub) := by
  have bits : ∀ c ∈ dictMediaStream.ovf, c.2.1 = 0x14 := by decide
  refine State.entry_bumpBy_other s (by omega) fun b i h => ?_
  rw [overflowBit_of (o := dictMediaStream) (by simp [dictObjects]) (by simp [dictMediaStream]) (by simp [dictMediaStream]; omega) (by omega), Option.map_eq_some_iff] at h
  obtain ⟨c, hc, e⟩ := h
  have := bits c (List.mem_of_find?_eq_some hc)
  cases e
  omega

theorem State.bump_settings (s : State) {n k : Nat} (hn : n < 1024) (hl : 0x0E ≤ k) (hk : k < 0x14) : SettingsKept n s (s.bump ((0x7400 + n) * 256 + k)) :=
  fun _ hs => s.entry_bump_stream hn hl hk (by omega)

theorem State.setEntry_settings (s : State) (n : Nat) {k : Nat} (hl : 0x0A ≤ k) (v : Nat) : SettingsKept n s (s.setEntry ((0x7400 + n) * 256 + k) v) :=
  fun _ hs => State.entry_setEntry_other _ _ _ (by omega)

theorem State.setStreamState_settings (s : State) (n v : Nat) : SettingsKept n s (s.setStreamState n v) := by
  unfold State.setStreamState
  dsimp only
  split <;> exact State.setEntry_settings _ n (by decide) v

theorem State.sendDim_settings (s : State) {n : Nat} (hn : n < 1024) (j : Nat) : SettingsKept n s (s.sendDim n j) :=
  ((SettingsKept.of_frames (s.sendSeq_frames n _ _ _)).trans (State.setEntry_settings _ n (by decide) j)).trans (State.bump_settings _ hn (by decide) (by decide))

theorem State.sendGlide_settings (s : State) {n : Nat} (hn : n < 1024) (stop : BitVec 32) : SettingsKept n s (s.sendGlide n stop) :=
  ((SettingsKept.of_frames ((s.sendSeq_frames n _ _ _).trans (State.setStream_frames _ n _))).trans (State.setStreamState_settings _ n _)).trans (State.bump_settings _ hn (by decide) (by decide))

theorem State.startStep_settings (s : State) {n : Nat} (hn : n < 1024) (j : Nat) (r : BitVec 32) (stop : Option (BitVec 32)) : SettingsKept n s (s.startStep n j r stop) :=
  ((((SettingsKept.of_frames (s.sendSeq_frames n _ _ _)).trans (State.bump_settings _ hn (by decide) (by decide))).trans (.of_frames (State.setStream_frames _ n _))).trans
    (State.setEntry_settings _ n (by decide) j)).trans (State.setStreamState_settings _ n _)

/-- A restore stream that moves keeps its settings under pacing (R442). -/
theorem State.paceRestore_settings {s : State} {n : Nat} (hn : n < 1024) (hm : s.streamState n = stMoving) : SettingsKept n s (s.paceRestore n) := by
  unfold State.paceRestore
  extract_lets x f step st
  rw [if_pos hm]
  split
  · split
    · exact s.sendDim_settings hn _
    · exact s.sendGlide_settings hn _
  · split
    · split
      · exact s.startStep_settings hn _ _ _
      · exact fun _ _ => rfl
    · exact fun _ _ => rfl

/-- A restore stream that moves keeps its records when it is evaluated (R442). -/
theorem State.evaluate_signals {s : State} {n : Nat} (hn : n < 1024) (hd : s.streamDir n = 1) (hm : s.streamState n = stMoving) : Signals n s (s.evaluate n) := by
  have paced := s.paceRestore_signals n hm (by rw [hd]; decide)
  have dir : (s.paceRestore n).streamDir n = 1 := (State.paceRestore_settings hn hm 3 (by decide)).trans hd
  have unpumped : (s.paceRestore n).pump n = s.paceRestore n := by
    unfold State.pump
    extract_lets st t
    rw [if_pos (by simp [dir])]
  unfold State.evaluate
  rw [if_neg (by rw [hd]; decide), if_pos hd, unpumped]
  exact paced

end Sys2Proof.Machine
end

section
/-! PROOFS. Received frames: the checks of R425 and the state in which a frame is taken up (R421, R432, R447). -/

namespace Sys2Proof.Machine

/-! ### Received frames -/

/-- Nothing arrives where the port is not up. -/
theorem State.receive_down {s : State} {p : Nat} (f : VspFrame) (h : ¬(s.isLit = true ∧ s.fatal = none ∧ s.flag (Key.mediaPortLinkUp p) = true)) : s.receive p f = s := by
  unfold State.receive
  rw [if_pos]
  by_contra c
  simp only [Bool.or_eq_true, Bool.not_eq_true', not_or, Bool.not_eq_false, Option.not_isSome_iff_eq_none] at c
  obtain ⟨⟨lit, calm⟩, link⟩ := c
  exact h ⟨lit, calm, link⟩

/-- The count of a port's frames leaves the entries of other objects. -/
theorem State.entry_bumpRx (s : State) {p e : Nat} (h : e / 256 ≠ 0x7100 + p) : (s.bump (Key.mediaPortRxFrames p)).entry e = s.entry e :=
  s.entry_bump_elsewhere (by simp only [Key.mediaPortRxFrames]; omega)

theorem State.entry_bumpRx_stream (s : State) {p : Nat} (hp : p < 256) (n : Nat) {sub : Nat} (hs : sub < 256) :
    (s.bump (Key.mediaPortRxFrames p)).entry ((0x7400 + n) * 256 + sub) = s.entry ((0x7400 + n) * 256 + sub) := s.entry_bumpRx (by omega)

theorem State.frameForm_bumpRx (s : State) (p : Nat) (f : VspFrame) : (s.bump (Key.mediaPortRxFrames p)).frameForm p f = s.frameForm p f := by
  obtain ⟨d, e⟩ := s.bump_dictOnly (Key.mediaPortRxFrames p)
  have modes : (s.bump (Key.mediaPortRxFrames p)).octetMode (p / 8) = s.octetMode (p / 8) := by rw [e]; rfl
  unfold State.frameForm
  rw [modes, State.entry_bumpRx s (by simp only [Key.vspControlVspEtherType]; omega)]

theorem State.streamOf_bumpRx (s : State) {p : Nat} (hp : p < 256) (f : VspFrame) : (s.bump (Key.mediaPortRxFrames p)).streamOf p f = s.streamOf p f := by
  have state : ∀ n, (s.bump (Key.mediaPortRxFrames p)).entry (Key.mediaStreamState n) = s.entry (Key.mediaStreamState n) := fun n => s.entry_bumpRx_stream hp n (by decide)
  have port : ∀ n, (s.bump (Key.mediaPortRxFrames p)).entry (Key.mediaStreamPort n) = s.entry (Key.mediaStreamPort n) := fun n => s.entry_bumpRx_stream hp n (by decide)
  have mac : ∀ n, (s.bump (Key.mediaPortRxFrames p)).entry (Key.mediaStreamPeerMac n) = s.entry (Key.mediaStreamPeerMac n) := fun n => s.entry_bumpRx_stream hp n (by decide)
  have tag : ∀ n, (s.bump (Key.mediaPortRxFrames p)).entry (Key.mediaStreamVlanId n) = s.entry (Key.mediaStreamVlanId n) := fun n => s.entry_bumpRx_stream hp n (by decide)
  simp only [State.streamOf, State.streamState, state, port, mac, tag] <;> rfl

theorem State.streamOf_live {s : State} {p n : Nat} {f : VspFrame} (h : s.streamOf p f = some n) : n < 1024 ∧ s.streamState n ≠ stDisabled := by
  unfold State.streamOf at h
  extract_lets m vlan at h
  split at h
  · next c =>
    simp only [Bool.and_eq_true, decide_eq_true_eq] at c
    obtain ⟨⟨⟨⟨⟨small, live⟩, -⟩, -⟩, -⟩, -⟩ := c
    exact Option.some.inj h ▸ ⟨small, live⟩
  · cases h

/-- A stream that hears its peer keeps all but the marks of that (R447). -/
theorem State.heard_side (s : State) (n : Nat) :
    Frames s (s.heard n) ∧ ∃ a b c, (s.heard n).stream n = { s.stream n with heardAt := a, timedOut := b, retries := c } :=
  ⟨State.setStream_frames _ _ _, _, _, _, State.stream_setStream _ _ _⟩

variable {s : State} {p n : Nat} {f : VspFrame}

/-- The state in which a frame of port p is checked against stream n: it is counted, and the stream has heard its peer (R425, R447). -/
def State.heardRx (s : State) (p n : Nat) : State := (s.bump (Key.mediaPortRxFrames p)).heard n

theorem State.heardRx_frame (s : State) (p n : Nat) : ∃ d m, s.heardRx p n = { s with dict := d, streams := m } := by
  obtain ⟨d, e⟩ := s.bump_dictOnly (Key.mediaPortRxFrames p)
  unfold State.heardRx
  rw [e]
  exact ⟨_, _, rfl⟩

theorem State.heardRx_entry (s : State) (n : Nat) {p e : Nat} (h : e / 256 ≠ 0x7100 + p) : (s.heardRx p n).entry e = s.entry e :=
  ((State.heard_side _ n).1.entry e).trans (s.entry_bumpRx h)

theorem State.heardRx_setting (s : State) {p : Nat} (hp : p < 256) (n : Nat) {sub : Nat} (hs : sub < 256) :
    (s.heardRx p n).entry ((0x7400 + n) * 256 + sub) = s.entry ((0x7400 + n) * 256 + sub) := s.heardRx_entry n (by omega)

theorem State.heardRx_stream (s : State) (p n : Nat) : ∃ a b c, (s.heardRx p n).stream n = { s.stream n with heardAt := a, timedOut := b, retries := c } := by
  obtain ⟨a, b, c, e⟩ := ((s.bump (Key.mediaPortRxFrames p)).heard_side n).2
  obtain ⟨d, same⟩ := s.bump_dictOnly (Key.mediaPortRxFrames p)
  have bumped : (s.bump (Key.mediaPortRxFrames p)).stream n = s.stream n := State.stream_of_streams (by rw [same]) n
  exact ⟨a, b, c, e.trans (by rw [bumped])⟩

/-- A frame on a port that is up (R425). -/
theorem State.receive_up (hp : p < 256) (up : s.isLit = true ∧ s.fatal = none ∧ s.flag (Key.mediaPortLinkUp p) = true) :
    s.receive p f =
      if s.frameForm p f = false then (s.bump (Key.mediaPortRxFrames p)).bump (Key.mediaPortUnknownDrops p)
      else if frameLengthOk f = false then (s.bump (Key.mediaPortRxFrames p)).bump (Key.mediaPortLengthDrops p)
      else match s.streamOf p f with
        | none => (s.bump (Key.mediaPortRxFrames p)).bump (Key.mediaPortUnknownDrops p)
        | some n =>
          if (s.stream n).epochDue = true ∨ f.epoch.toNat ≠ s.entry (Key.mediaStreamEpoch n) ∨ s.frameAllowed n f = false then (s.heardRx p n).bump (Key.mediaStreamProtocolErrors n)
          else ((s.heardRx p n).takeFrame n f).evaluate n := by
  obtain ⟨lit, calm, link⟩ := up
  have epoch : ∀ n, (s.heardRx p n).entry (Key.mediaStreamEpoch n) = s.entry (Key.mediaStreamEpoch n) := fun n => s.heardRx_setting hp n (by decide)
  have allowed : ∀ n, (s.heardRx p n).frameAllowed n f = s.frameAllowed n f := fun n => by
    have dir : (s.heardRx p n).streamDir n = s.streamDir n := s.heardRx_setting hp n (by decide)
    simp only [State.frameAllowed, dir]
  have due : ∀ n, ((s.heardRx p n).stream n).epochDue = (s.stream n).epochDue := fun n => by
    obtain ⟨a, b, c, e⟩ := s.heardRx_stream p n
    rw [e]
  unfold State.receive
  rw [if_neg (by simp [lit, calm, link])]
  dsimp only
  rw [State.frameForm_bumpRx, State.streamOf_bumpRx s hp]
  simp only [Bool.not_eq_true']
  congr 2
  cases s.streamOf p f with
  | none => rfl
  | some n =>
    show (if _ then (s.heardRx p n).bump _ else ((s.heardRx p n).takeFrame n f).evaluate n) = if _ then _ else _
    have judged : (((s.heardRx p n).stream n).epochDue || decide (f.epoch.toNat ≠ (s.heardRx p n).entry (Key.mediaStreamEpoch n)) || !(s.heardRx p n).frameAllowed n f) = true ↔
        ((s.stream n).epochDue = true ∨ f.epoch.toNat ≠ s.entry (Key.mediaStreamEpoch n) ∨ s.frameAllowed n f = false) := by
      rw [due, epoch, allowed]
      simp [or_assoc]
    exact if_congr judged rfl rfl

/-- A frame of stream n passes every check of R425. -/
def FrameOk (s : State) (p n : Nat) (f : VspFrame) : Prop :=
  (s.isLit = true ∧ s.fatal = none ∧ s.flag (Key.mediaPortLinkUp p) = true) ∧ s.frameForm p f = true ∧ frameLengthOk f = true ∧ s.streamOf p f = some n ∧
    (s.stream n).epochDue = false ∧ f.epoch.toNat = s.entry (Key.mediaStreamEpoch n) ∧ s.frameAllowed n f = true

variable {t : State} {r : BitVec 32}

theorem FrameOk.stream {s : State} {p n : Nat} {f : VspFrame} (h : FrameOk s p n f) : s.streamOf p f = some n := by
  obtain ⟨-, -, -, stream, -⟩ := h
  exact stream

/-- A frame that passes every check is handled, and its stream evaluated (R432, R437). -/
theorem State.receive_ok (hp : p < 256) (ok : FrameOk s p n f) : s.receive p f = ((s.heardRx p n).takeFrame n f).evaluate n := by
  obtain ⟨up, form, length, stream, live, epoch, allowed⟩ := ok
  rw [State.receive_up hp up, if_neg (by simp [form]), if_neg (by simp [length]), stream]
  dsimp only
  rw [if_neg (by simp [live, epoch, allowed])]

/-- A state in which a frame for stream n of port p has been taken up, with the next SEQ of the peer: nothing but port counts, what the stream heard, and the start of a feed that waited is new (R421, R425, R432). -/
structure Arrived (s : State) (p n : Nat) (r : BitVec 32) (t : State) : Prop where
  frame : ∃ d m a, t = { s with dict := d, streams := m, activityAt := a }
  stream : ∃ a b c, t.stream n = { s.stream n with heardAt := a, timedOut := b, retries := c, rxSeq := r }
  entry : ∀ e, e / 256 ≠ 0x7100 + p → e ≠ Key.mediaStreamState n → t.entry e = s.entry e
  state : t.streamState n = if s.streamDir n = 2 ∧ s.streamState n = stWaiting then stMoving else s.streamState n

theorem Arrived.jobs (h : Arrived s p n r t) : t.jobs = s.jobs := by
  obtain ⟨d, m, a, rfl⟩ := h.frame
  rfl

theorem Arrived.findJob (h : Arrived s p n r t) (id : Nat) : t.findJob id = s.findJob id := by
  unfold State.findJob
  rw [h.jobs]

theorem Arrived.setting (h : Arrived s p n r t) (hp : p < 256) {sub : Nat} (hs : sub < 0x0A) : t.entry ((0x7400 + n) * 256 + sub) = s.entry ((0x7400 + n) * 256 + sub) :=
  h.entry _ (by omega) (by simp only [Key.mediaStreamState]; omega)

theorem Arrived.dir (h : Arrived s p n r t) (hp : p < 256) : t.streamDir n = s.streamDir n := h.setting hp (by decide)

/-- The SEQ that the stream expects next moves on. -/
theorem Arrived.next (h : Arrived s p n r t) (r' : BitVec 32) : Arrived s p n r' (t.setStream n { t.stream n with rxSeq := r' }) := by
  refine ⟨?_, ?_, h.entry, h.state⟩
  · obtain ⟨d, m, a, rfl⟩ := h.frame
    exact ⟨d, _, a, rfl⟩
  · obtain ⟨a, b, c, e⟩ := h.stream
    refine ⟨a, b, c, ?_⟩
    rw [State.stream_setStream, e]

/-- The state in which a frame that passed every check is handled: a feed that waited moves (R421). -/
def State.arrive (s : State) (p n : Nat) : State :=
  if (s.heardRx p n).streamDir n = 2 && (s.heardRx p n).streamState n = stWaiting then (s.heardRx p n).setStreamState n stMoving else s.heardRx p n

theorem State.entry_setStreamState (s : State) (n v : Nat) : (s.setStreamState n v).entry (Key.mediaStreamState n) = v := State.entry_setEntry _ _ _

theorem State.entry_setStreamState_other (s : State) (n v : Nat) {e : Nat} (h : e ≠ Key.mediaStreamState n) : (s.setStreamState n v).entry e = s.entry e := by
  unfold State.setStreamState
  rw [State.entry_setEntry_other _ _ _ h]
  split <;> rfl

theorem State.setStreamState_frame (s : State) (n v : Nat) : ∃ d a, s.setStreamState n v = { s with dict := d, activityAt := a } := by
  unfold State.setStreamState
  split <;> exact ⟨_, _, rfl⟩

theorem State.stream_setStreamState (s : State) (n v k : Nat) : (s.setStreamState n v).stream k = s.stream k := by
  obtain ⟨d, a, e⟩ := s.setStreamState_frame n v
  rw [e]
  rfl

theorem State.arrive_arrived (hp : p < 256) (s : State) (n : Nat) : Arrived s p n (s.stream n).rxSeq (s.arrive p n) := by
  have dir : (s.heardRx p n).streamDir n = s.streamDir n := s.heardRx_setting hp n (by decide)
  have state : (s.heardRx p n).streamState n = s.streamState n := s.heardRx_setting hp n (by decide)
  obtain ⟨d, m, e⟩ := s.heardRx_frame p n
  obtain ⟨a, b, c, x⟩ := s.heardRx_stream p n
  unfold State.arrive
  rw [dir, state]
  split
  · next start =>
    obtain ⟨d', a', e'⟩ := (s.heardRx p n).setStreamState_frame n stMoving
    refine ⟨⟨d', m, a', ?_⟩, ⟨a, b, c, ?_⟩, fun k hk hs => ?_, ?_⟩
    · rw [e', e]
    · rw [State.stream_setStreamState, x]
    · rw [State.entry_setStreamState_other _ _ _ hs, s.heardRx_entry n hk]
    · rw [if_pos (by simpa using start)]
      exact State.entry_setStreamState _ _ _
  · next stay =>
    refine ⟨⟨d, m, s.activityAt, e⟩, ⟨a, b, c, x⟩, fun k hk _ => s.heardRx_entry n hk, ?_⟩
    rw [if_neg (by simpa using stay), state]

/-- A frame that is not sequenced (R423, R432). -/
theorem State.receive_plain (hp : p < 256) (ok : FrameOk s p n f) (hk : f.kind.toNat ≠ 1 ∧ f.kind.toNat ≠ 3 ∧ f.kind.toNat ≠ 6) :
    s.receive p f = (if f.kind.toNat = 2 then (s.arrive p n).takeCredit n (frameContent f)
      else if f.kind.toNat = 8 then (s.arrive p n).takeStatus n (frameContent f) else (s.arrive p n).takeError n (frameContent f)).evaluate n := by
  obtain ⟨h1, h3, h6⟩ := hk
  rw [State.receive_ok hp ok]
  unfold State.takeFrame
  dsimp only
  rw [if_neg (by simp [h1, h3, h6])]
  rfl

theorem State.window_signals (s : State) (n : Nat) : Signals n s (s.window n).2 := by
  unfold State.window
  split
  · exact .refl n s
  · split
    · exact .of_streams rfl rfl
    · exact .refl n s

theorem State.sendCredit_signals (s : State) (n : Nat) : Signals n s (s.sendCredit n) := by
  unfold State.sendCredit
  exact ((s.window_signals n).trans (State.setStream_signals (by rfl))).trans (State.sendPlain_signals _ _ _ _)

theorem Signals.rxSeq (h : Signals n s t) : (t.stream n).rxSeq = (s.stream n).rxSeq := congrArg Prod.fst h.received

/-- A sequenced frame that is not the next one (R432). -/
theorem State.receive_outOfOrder (hp : p < 256) (ok : FrameOk s p n f) (hk : f.kind.toNat = 1 ∨ f.kind.toNat = 3 ∨ f.kind.toNat = 6) (hs : f.seq ≠ (s.stream n).rxSeq) :
    ∃ t : State, s.receive p f = t.evaluate n ∧ (t.stream n).rxSeq = (s.stream n).rxSeq ∧ t.jobs = s.jobs := by
  have arrived := s.arrive_arrived hp n
  obtain ⟨a, b, c, x⟩ := s.heardRx_stream p n
  obtain ⟨a', b', c', y⟩ := arrived.stream
  refine ⟨if serialLater 32 (s.stream n).rxSeq.toNat f.seq.toNat then ((s.arrive p n).bump (Key.mediaStreamDuplicateDrops n)).sendCredit n else s.arrive p n, ?_, ?_, ?_⟩
  · rw [State.receive_ok hp ok]
    unfold State.takeFrame
    dsimp only
    rw [x, if_pos (by simpa [or_assoc] using hk), if_neg hs]
    rfl
  · split
    · rw [((State.bump_signals _ n _).trans (State.sendCredit_signals _ n)).rxSeq, y]
    · rw [y]
  · split
    · rw [((State.bump_signals _ n _).trans (State.sendCredit_signals _ n)).jobs, arrived.jobs]
    · exact arrived.jobs

/-- The next sequenced frame with a body in range (R432). -/
theorem State.receive_next (hp : p < 256) (ok : FrameOk s p n f) (hk : f.kind.toNat = 1 ∨ f.kind.toNat = 3 ∨ f.kind.toNat = 6) (hs : f.seq = (s.stream n).rxSeq)
    (hb : s.bodyOk f.kind.toNat (frameContent f) = true) :
    ∃ t, Arrived s p n ((s.stream n).rxSeq + 1) t ∧ s.receive p f =
      (if f.kind.toNat = 1 then (if s.streamDir n = 1 then t.takeRecordData n f.flags.toNat (frameContent f) else t.takeFeedData n (frameContent f))
        else if f.kind.toNat = 3 then t.takeRate n (frameContent f) else t.takeMark n (frameContent f)).evaluate n := by
  have arrived := s.arrive_arrived hp n
  obtain ⟨a, b, c, x⟩ := s.heardRx_stream p n
  have arrived' := arrived.next ((s.stream n).rxSeq + 1)
  refine ⟨_, arrived', ?_⟩
  have body : ((s.arrive p n).setStream n { (s.arrive p n).stream n with rxSeq := (s.stream n).rxSeq + 1 }).bodyOk f.kind.toNat (frameContent f) = true := by
    unfold State.bodyOk at hb ⊢
    rwa [arrived'.entry _ (by simp only [Key.vspControlMaxBody]; omega) (by simp only [Key.vspControlMaxBody, Key.mediaStreamState]; omega)]
  have same : (s.heardRx p n).stream n = (s.arrive p n).stream n := by
    unfold State.arrive
    split
    · rw [State.stream_setStreamState]
    · rfl
  have seq : ((s.arrive p n).stream n).rxSeq = (s.stream n).rxSeq := by
    rw [← same, x]
  rw [State.receive_ok hp ok]
  unfold State.takeFrame
  dsimp only
  rw [same, seq, if_pos (by simpa [or_assoc] using hk), if_pos hs]
  show (State.takeSequenced ((s.arrive p n).setStream n { (s.arrive p n).stream n with rxSeq := (s.stream n).rxSeq + 1 }) n f).evaluate n = _
  unfold State.takeSequenced
  dsimp only
  rw [body, arrived'.dir hp]
  rfl

end Sys2Proof.Machine
end

section
/-! PROOFS. Jobs that end or fail on a stream (R84, R91, R92, R98). -/

namespace Sys2Proof.Machine

/-! ### Jobs of a stream -/

section
variable {s t : State} {id : Nat} {j : Job}

theorem State.findJob_of_jobs (h : t.jobs = s.jobs) (id : Nat) : t.findJob id = s.findJob id := by
  unfold State.findJob
  rw [h]

theorem JobEnds.of_jobs {st w6 : Nat} {out : Bytes} (h : t.jobs = s.jobs) (k : JobEnds s id st w6 out) : JobEnds t id st w6 out := by
  obtain ⟨j, hj, rest⟩ := k
  exact ⟨j, (State.findJob_of_jobs h id).trans hj, rest⟩

/-- A result that is staged touches its job and the units that served it (R84). -/
theorem State.stageResult_frame (s : State) (id st w6 : Nat) (out : Bytes) :
    ∃ js a b c, s.stageResult id st w6 out = { s with jobs := js, wicks := a, tapers := b, sealers := c } := by
  unfold State.stageResult
  split
  · exact ⟨_, _, _, _, rfl⟩
  · next j _ =>
    obtain ⟨a, b, c, e⟩ := State.releaseUnits_frame j.units s
    rw [e]
    split <;> exact ⟨_, _, _, _, rfl⟩

theorem State.findJob_stageResult_other (s : State) {id k : Nat} (h : k ≠ id) (st w6 : Nat) (out : Bytes) : (s.stageResult id st w6 out).findJob k = s.findJob k := by
  unfold State.stageResult
  split
  · rfl
  · next j _ =>
    extract_lets a b
    have same : b.findJob k = s.findJob k := by
      simp only [b]
      split
      · exact State.releaseUnits_findJob s j.units k
      · exact State.releaseUnits_findJob s j.units k
    refine Eq.trans (State.findJob_modJob_other _ ?_ h) same
    exact fun _ => rfl

/-- Jobs that end one after another with the same result. -/
theorem JobEnds.stageResults {st w6 : Nat} {out : Bytes} (js : List Job) (s : State)
    (h : JobEnds s id st w6 out ∨ (∃ k ∈ js, k.id = id) ∧ ∃ j, s.findJob id = some j) : JobEnds (js.foldl (fun s j => s.stageResult j.id st w6 out) s) id st w6 out := by
  induction js generalizing s with
  | nil =>
    rcases h with h | ⟨⟨k, hk, -⟩, -⟩
    · exact h
    · cases hk
  | cons a r ih =>
    rw [List.foldl_cons]
    by_cases ha : a.id = id
    · have found : ∃ j, s.findJob id = some j := h.elim (fun ⟨j, hj, _⟩ => ⟨j, hj⟩) (·.2)
      obtain ⟨j, hj⟩ := found
      rw [ha]
      exact ih _ (.inl (JobEnds.stageResult st w6 out hj))
    · have same := s.findJob_stageResult_other (Ne.symm ha) st w6 out
      refine ih _ (h.imp (fun ⟨j, hj, rest⟩ => ⟨j, same.trans hj, rest⟩) fun ⟨⟨k, hk, e⟩, j, hj⟩ => ⟨⟨k, (List.mem_cons.mp hk).resolve_left fun c => ha (c ▸ e), e⟩, j, same.trans hj⟩)

theorem State.stageResults_frame {st w6 : Nat} {out : Bytes} (js : List Job) (s : State) :
    ∃ ks a b c, js.foldl (fun s j => s.stageResult j.id st w6 out) s = { s with jobs := ks, wicks := a, tapers := b, sealers := c } := by
  induction js generalizing s with
  | nil => exact ⟨_, _, _, _, rfl⟩
  | cons j r ih =>
    obtain ⟨ks, a, b, c, e⟩ := ih (s.stageResult j.id st w6 out)
    obtain ⟨ks', a', b', c', e'⟩ := s.stageResult_frame j.id st w6 out
    refine ⟨ks, a, b, c, e.trans ?_⟩
    rw [e']

/-- A restore job that fails is staged with what it had delivered (R445, R446). -/
theorem State.failJob_restore (hj : s.findJob id = some j) (running : j.phase = .running) (op : j.entry.opcode = 0x0702) (status : Nat) :
    s.failJob id status = s.stageResult id status (j.failW6 status) [] := by
  unfold State.failJob
  rw [hj]
  dsimp only
  rw [if_neg (by rw [running]; decide), if_neg (by rw [op]; simp)]

theorem State.findJob_modObject (hj : s.findJob id = some j) (f : ObjectState → ObjectState) : (s.modObject id f).findJob id = some { j with object := some (f j.obj) } :=
  State.findJob_modJob (fun j => { j with object := some (f j.obj) }) (fun _ => rfl) hj

theorem State.appendRecord_jobs (s : State) (n job kind : Nat) (bytes : Bytes) : (s.appendRecord n job kind bytes).jobs = s.jobs := by
  unfold State.appendRecord
  exact (State.evaluate_sends _ n).jobs.trans (State.jobs_setStream ..)

/-- A record that a job releases changes the job's object alone, and not whether it is void (R98). -/
theorem State.findJob_releaseRecord (hj : s.findJob id = some j) (kind epoch seg : Nat) (body : Bytes) :
    ∃ o, (s.releaseRecord id kind epoch seg body).findJob id = some { j with object := some o } ∧ o.voided = j.obj.voided := by
  unfold State.releaseRecord
  rw [hj]
  dsimp only
  refine ⟨_, (State.findJob_of_jobs (State.appendRecord_jobs ..) id).trans (State.findJob_modObject hj _), ?_⟩
  rfl

theorem State.findJob_releaseVoid (hj : s.findJob id = some j) (status : Nat) :
    ∃ o, (s.releaseVoid id status).findJob id = some { j with object := some o } ∧ o.voided = true := by
  unfold State.releaseVoid
  rw [hj]
  dsimp only
  exact State.findJob_releaseRecord (State.findJob_modObject hj fun o => { o with voided := true }) _ _ _ _

/-- A store job that fails closes with its status, its units are released, and its VOID goes out (R91, R92). -/
theorem State.failJob_store (hj : s.findJob id = some j) (running : j.phase = .running) (op : j.entry.opcode = 0x0701) (fresh : j.obj.voided = false) {status : Nat} (small : status < 256) :
    ((s.failJob id status).findJob id).map (fun k => (k.phase, k.status.toNat, k.units, k.obj.voided)) = some (.closing, status, [], true) := by
  have released : ((s.releaseUnits j.units).leaveSealers id).findJob id = some j := (State.releaseUnits_findJob s j.units id).trans hj
  have closed := State.findJob_modJob (fun j => { j with phase := .closing, status := BitVec.ofNat 8 status, units := [], served := [], waitsEntropy := false }) (fun _ => rfl) released
  obtain ⟨o, found, voided⟩ := State.findJob_releaseVoid closed status
  unfold State.failJob
  rw [hj]
  dsimp only
  rw [if_neg (by rw [running]; decide), if_pos (by simp [running, op]), if_neg (by simp [fresh]), found]
  simp [Job.obj, voided, BitVec.toNat_ofNat, Nat.mod_eq_of_lt small]

end

end Sys2Proof.Machine
end

section
/-! PROOFS. What each received frame does (R426 to R431, R435, R444 to R446). -/

namespace Sys2Proof.Machine

/-! ### What each frame does -/

section
variable {s t : State} {p n : Nat} {f : VspFrame} {r : BitVec 32} {b : Bytes} {j : Job}

/-- A record that arrives whole and in turn is held (R426, R435). -/
theorem State.takeRecordData_whole (t : State) (n : Nat) {b : Bytes} (first : field b 8 8 = 0) (turn : field b 0 4 = (t.stream n).nextRsn.toNat) (keep : (t.stream n).dropping = false)
    (fits : b.length - 16 ≤ t.recordRoom n) :
    ∃ x, t.takeRecordData n 3 b = t.setStream n x ∧ x.rxSeq = (t.stream n).rxSeq ∧ x.nextRsn = (t.stream n).nextRsn + 1 ∧
      ∃ r, x.records = (t.stream n).records ++ [r] ∧ r.rsn = (t.stream n).nextRsn ∧ r.bytes = b.drop 16 ∧ r.taken = false := by
  have rsn : BitVec.ofNat 32 (field b 0 4) = (t.stream n).nextRsn := by rw [turn, BitVec.ofNat_toNat, BitVec.setWidth_eq]
  unfold State.takeRecordData
  dsimp only
  rw [if_pos (by decide), first, if_pos rfl, rsn]
  dsimp only
  rw [List.nil_append, if_neg (by rw [List.length_drop]; omega), if_pos (by decide)]
  unfold State.holdRecord
  extract_lets x y q
  have turn' : ¬(y.dropping || decide ((t.stream n).nextRsn ≠ y.nextRsn)) = true := by
    simp [y, x, keep]
  rw [if_neg turn']
  have holds := Stream.holds_pass { y with records := y.records ++ [q], nextRsn := (t.stream n).nextRsn + 1 } (t.stream n).nextRsn true (b.drop 16)
  refine ⟨_, rfl, congrArg (·.1.1) holds, congrArg (·.2.2) holds, q, congrArg (·.2.1) holds, rfl, rfl, rfl⟩

/-- No number is later than itself (R23). -/
theorem serialLater_self (k v : Nat) : serialLater k v v = false := by
  have apart : (v + 2 ^ k - v % 2 ^ k) % 2 ^ k = 0 := by
    have split := Nat.mod_add_div v (2 ^ k)
    have e : v + 2 ^ k - v % 2 ^ k = 2 ^ k * (v / 2 ^ k + 1) := by
      rw [Nat.mul_add, Nat.mul_one]
      omega
    rw [e, Nat.mul_mod_right]
  unfold serialLater
  rw [apart]
  rfl

/-- Without marks sent no mark is settled (R444). -/
theorem State.settleMarks_none {t : State} {n : Nat} (h : (t.stream n).marksSent = []) (ack : BitVec 32) : t.settleMarks n ack = t.setStream n { t.stream n with marksSent := [] } := by
  unfold State.settleMarks
  simp only [h, List.filter_nil, List.foldl_nil]

/-- What an acknowledgement leaves of a stream without marks sent (R427, R433, R439). -/
theorem State.takeAck_side (t : State) (n : Nat) (ack : BitVec 32) (h : (t.stream n).marksSent = []) :
    Frames t (t.takeAck n ack) ∧ ((t.takeAck n ack).stream n).currentJob = (t.stream n).currentJob ∧
      ∃ g : StreamRecord → StreamRecord, (∀ r, ∃ a, g r = { r with acked := a }) ∧ ((t.takeAck n ack).stream n).records = (t.stream n).records.map g := by
  unfold State.takeAck
  extract_lets x left recs last y z
  split
  · exact ⟨.refl t, rfl, id, fun r => ⟨r.acked, rfl⟩, (List.map_id _).symm⟩
  · have kept : z.marksSent = [] ∧ z.currentJob = x.currentJob ∧ z.records = recs := by
      by_cases hd : t.streamDir n ≠ 0
      · rw [show z = y from if_pos hd]
        exact ⟨h, rfl, rfl⟩
      · cases hl : last with
        | none =>
          rw [show z = y from (if_neg hd).trans (by rw [hl])]
          exact ⟨h, rfl, rfl⟩
        | some q =>
          rw [show z = { y with ackedEnd := max y.ackedEnd q.endPos, ackedRsn := q.rsn } from (if_neg hd).trans (by rw [hl])]
          exact ⟨h, rfl, rfl⟩
    obtain ⟨marks, job, records⟩ := kept
    have settled : (t.setStream n z).settleMarks n ack = (t.setStream n z).setStream n { z with marksSent := [] } := by
      rw [State.settleMarks_none (by rw [State.stream_setStream, marks]), State.stream_setStream]
    rw [settled, State.stream_setStream]
    refine ⟨(t.setStream_frames n z).trans (State.setStream_frames _ _ _), job, _, fun r => ?_, records⟩
    split
    · exact ⟨_, rfl⟩
    · exact ⟨r.acked, rfl⟩

/-- A commit of the one record that a closing job waits for ends the job (R47 step 10, R92, R427). -/
theorem State.takeCommit_last {consumed : Nat} {rsn : BitVec 32} {q : StreamRecord} (jobs : t.jobs = [j]) (closing : j.phase = .closing) (current : (t.stream n).currentJob = some j.id)
    (ok : j.status = BitVec.ofNat 8 jsOk) (one : (t.stream n).records = [q]) (sent : q.offset = q.bytes.length) (within : q.endPos ≤ consumed) (last : q.rsn = rsn) :
    ∃ u, t.takeCommit n consumed rsn = u.stageResult j.id jsOk j.obj.releasedBytes [] ∧ u.jobs = [j] ∧ Frames t u ∧
      u.stream n = { t.stream n with consumed := consumed, committed := some rsn, records := [] } := by
  refine ⟨t.setStream n { t.stream n with consumed := consumed, committed := some rsn, records := [] }, ?_, jobs, t.setStream_frames _ _, State.stream_setStream _ _ _⟩
  have out : (t.stream n).records.filter (fun r => !(r.offset = r.bytes.length && r.endPos ≤ consumed && !serialLater 32 r.rsn.toNat rsn.toNat)) = [] := by
    simp [one, sent, within, last, serialLater_self]
  have status : j.status.toNat = jsOk := by rw [ok]; rfl
  unfold State.takeCommit
  dsimp only
  rw [out]
  unfold State.settleObjects
  dsimp only
  rw [State.stream_setStream, State.jobs_setStream, jobs, List.filter_cons_of_pos (by simp [closing, current])]
  simp only [List.filter_nil, List.foldl_cons, List.foldl_nil, status, if_true]

theorem State.streamDir_setStream (s : State) (n : Nat) (x : Stream) (k : Nat) : (s.setStream n x).streamDir k = s.streamDir k := State.entry_setStream ..

theorem State.streamState_setStream (s : State) (n : Nat) (x : Stream) (k : Nat) : (s.setStream n x).streamState k = s.streamState k := State.entry_setStream ..

/-- What a CREDIT does once the acknowledgement is taken (R427). -/
def State.creditRest (u : State) (n : Nat) (b : Bytes) : State :=
  if (u.setStream n { u.stream n with window := field b 4 4 }).streamDir n = 0 then
    (u.setStream n { u.stream n with window := field b 4 4 }).takeCommit n (field b 8 8) (BitVec.ofNat 32 (field b 16 4))
  else u.setStream n { u.stream n with window := field b 4 4 }

theorem State.takeCredit_eq (t : State) (n : Nat) (b : Bytes) : t.takeCredit n b = (t.takeAck n (BitVec.ofNat 32 (field b 0 4))).creditRest n b := rfl

/-- The rest of a CREDIT that commits the one record of a closing job (R427, R435). -/
theorem State.creditRest_last {u : State} {q : StreamRecord} (dir : u.streamDir n = 0) (jobs : u.jobs = [j]) (closing : j.phase = .closing) (current : (u.stream n).currentJob = some j.id)
    (ok : j.status = BitVec.ofNat 8 jsOk) (one : (u.stream n).records = [q]) (sent : q.offset = q.bytes.length) (within : q.endPos ≤ field b 8 8) (last : q.rsn = BitVec.ofNat 32 (field b 16 4)) :
    ((u.creditRest n b).stream n).records = [] ∧ ((u.creditRest n b).stream n).consumed = field b 8 8 ∧ ((u.creditRest n b).stream n).window = field b 4 4 ∧
      JobEnds (u.creditRest n b) j.id jsOk j.obj.releasedBytes [] := by
  unfold State.creditRest
  rw [if_pos ((State.streamDir_setStream ..).trans dir)]
  obtain ⟨z, hz⟩ : ∃ z : Stream, z = { u.stream n with window := field b 4 4 } := ⟨_, rfl⟩
  have current' : z.currentJob = some j.id := by rw [hz]; exact current
  have one' : z.records = [q] := by rw [hz]; exact one
  have window : z.window = field b 4 4 := by rw [hz]
  rw [← hz]
  have x := State.stream_setStream u n z
  obtain ⟨v, e, jobs', -, y⟩ := State.takeCommit_last (t := u.setStream n z) (n := n) (j := j) (consumed := field b 8 8) (rsn := BitVec.ofNat 32 (field b 16 4)) (q := q)
    ((State.jobs_setStream ..).trans jobs) closing (by rw [x, current']) ok (by rw [x, one']) sent within last
  obtain ⟨js, w, c, d, staged⟩ := v.stageResult_frame j.id jsOk j.obj.releasedBytes []
  have stream : (v.stageResult j.id jsOk j.obj.releasedBytes []).stream n = v.stream n := State.stream_of_streams (by rw [staged]) n
  have found : v.findJob j.id = some j := by
    unfold State.findJob
    rw [jobs', List.find?_cons_of_pos (by simp)]
  rw [e, stream, y, x]
  exact ⟨rfl, rfl, window, JobEnds.stageResult _ _ _ found⟩

/-- A CREDIT that commits the one record of a closing job (R427, R435). -/
theorem State.takeCredit_last {q : StreamRecord} (dir : t.streamDir n = 0) (jobs : t.jobs = [j]) (closing : j.phase = .closing) (current : (t.stream n).currentJob = some j.id)
    (ok : j.status = BitVec.ofNat 8 jsOk) (one : (t.stream n).records = [q]) (sent : q.offset = q.bytes.length) (within : q.endPos ≤ field b 8 8) (last : q.rsn.toNat = field b 16 4)
    (marks : (t.stream n).marksSent = []) :
    ((t.takeCredit n b).stream n).records = [] ∧ ((t.takeCredit n b).stream n).consumed = field b 8 8 ∧ ((t.takeCredit n b).stream n).window = field b 4 4 ∧
      JobEnds (t.takeCredit n b) j.id jsOk j.obj.releasedBytes [] := by
  obtain ⟨frames, current', g, acked, records⟩ := t.takeAck_side n (BitVec.ofNat 32 (field b 0 4)) marks
  obtain ⟨a, hg⟩ := acked q
  rw [State.takeCredit_eq]
  generalize t.takeAck n (BitVec.ofNat 32 (field b 0 4)) = u at frames current' records
  have dir' : u.streamDir n = 0 := (frames.entry _).trans dir
  have jobs' : u.jobs = [j] := by
    obtain ⟨m, o, rfl⟩ := frames
    exact jobs
  refine State.creditRest_last (q := g q) dir' jobs' closing (current'.trans current) ok (records.trans (by rw [one]; rfl)) ?_ ?_ ?_
  · rw [hg]
    exact sent
  · rw [hg]
    exact within
  · rw [hg, ← last, BitVec.ofNat_toNat, BitVec.setWidth_eq]

/-- A first RATE to a waiting egress stream: where no step is allowed it waits on, and with no step in use it is at rest (R421, R428, R436). -/
theorem State.takeRate_first (dir : t.streamDir n = 0) (waiting : t.streamState n = stWaiting) (first : (t.stream n).steps = []) :
    let a := t.setStream n { t.stream n with steps := rateSteps b, buffer := field b 4 4 }
    let u := t.takeRate n b
    u.stream n = { t.stream n with steps := rateSteps b, buffer := field b 4 4 } ∧ u.streamDir n = 0 ∧ (a.stepAllowed n 0 = false → u.streamState n = stWaiting) ∧
      (a.stepAllowed n 0 = true → field b 1 1 = 0xFF → u.streamState n = stStopped ∧ u.streamStep n = 0xFF) := by
  intro a u
  have x : a.stream n = { t.stream n with steps := rateSteps b, buffer := field b 4 4 } := State.stream_setStream _ _ _
  have dirA : a.streamDir n = 0 := (State.streamDir_setStream ..).trans dir
  have stateA : a.streamState n = stWaiting := (State.streamState_setStream ..).trans waiting
  have unfolded : u = if a.stepAllowed n 0 = false then a
      else if field b 1 1 = 0xFF then (a.setStreamState n stStopped).setEntry (Key.mediaStreamStep n) 0xFF
      else (a.setStreamState n stMoving).setEntry (Key.mediaStreamStep n) (min (field b 1 1) ((a.usedSteps n (field b 4 4) (rateSteps b)).length - 1)) := by
    simp only [u, State.takeRate]
    rw [if_neg (show ¬(decide (a.streamDir n = 1) && (t.stream n).steps.isEmpty && decide (a.streamExtent n = 0)) = true by simp [dirA]),
      if_pos (show (decide (a.streamState n = stWaiting) && (t.stream n).steps.isEmpty) = true by simp [stateA, first])]
    simp only [Bool.not_eq_true']
    rfl
  have placed : ∀ v w, ((a.setStreamState n v).setEntry (Key.mediaStreamStep n) w).stream n = a.stream n ∧ ((a.setStreamState n v).setEntry (Key.mediaStreamStep n) w).streamDir n = 0 ∧
      ((a.setStreamState n v).setEntry (Key.mediaStreamStep n) w).streamState n = v ∧ ((a.setStreamState n v).setEntry (Key.mediaStreamStep n) w).streamStep n = w := by
    intro v w
    have key : ∀ k, k ≠ 0x0B → ((a.setStreamState n v).setEntry (Key.mediaStreamStep n) w).entry ((0x7400 + n) * 256 + k) = (a.setStreamState n v).entry ((0x7400 + n) * 256 + k) :=
      fun k hk => State.entry_setEntry_other _ _ _ (by simp only [Key.mediaStreamStep]; omega)
    exact ⟨(State.stream_setEntry ..).trans (State.stream_setStreamState ..), (key 3 (by decide)).trans ((State.entry_setStreamState_other _ _ _ (by simp only [Key.mediaStreamState]; omega)).trans dirA),
      (key 0x0A (by decide)).trans (State.entry_setStreamState _ _ _), State.entry_setEntry _ _ _⟩
  rw [unfolded]
  cases allowed : a.stepAllowed n 0 with
  | false => exact ⟨x, dirA, fun _ => stateA, fun c => absurd c (by decide)⟩
  | true =>
    rw [if_neg (by decide)]
    split
    · obtain ⟨stream, dir, state, step⟩ := placed stStopped 0xFF
      exact ⟨stream.trans x, dir, fun c => absurd c (by decide), fun _ _ => ⟨state, step⟩⟩
    · next moves =>
      obtain ⟨stream, dir, -, -⟩ := placed stMoving (min (field b 1 1) ((a.usedSteps n (field b 4 4) (rateSteps b)).length - 1))
      exact ⟨stream.trans x, dir, fun c => absurd c (by decide), fun _ c => absurd c moves⟩

/-- The medium at rest (R421). -/
theorem State.mediumStops_side (t : State) (n : Nat) :
    (∃ d m a, t.mediumStops n = { t with dict := d, streams := m, activityAt := a }) ∧ ((t.mediumStops n).stream n).records = (t.stream n).records ∧
      (t.mediumStops n).streamDir n = t.streamDir n ∧ (t.mediumStops n).streamState n = stStopped ∧ (t.mediumStops n).streamStep n = 0xFF := by
  obtain ⟨a, ha⟩ : ∃ a, a = t.setStream n { t.stream n with stopRsn := none, flush := false, filling := false, stopping := false } := ⟨_, rfl⟩
  have records : (a.stream n).records = (t.stream n).records := by rw [ha, State.stream_setStream]
  have dir : a.streamDir n = t.streamDir n := by rw [ha, State.streamDir_setStream]
  have key : ∀ k, k ≠ 0x0B → ((a.setStreamState n stStopped).setEntry (Key.mediaStreamStep n) 0xFF).entry ((0x7400 + n) * 256 + k) = (a.setStreamState n stStopped).entry ((0x7400 + n) * 256 + k) :=
    fun k hk => State.entry_setEntry_other _ _ _ (by simp only [Key.mediaStreamStep]; omega)
  unfold State.mediumStops
  dsimp only
  rw [← ha]
  refine ⟨?_, ?_, ?_, ?_, State.entry_setEntry _ _ _⟩
  · obtain ⟨d, c, e⟩ := a.setStreamState_frame n stStopped
    rw [e, ha]
    exact ⟨_, _, _, rfl⟩
  · rw [State.stream_setEntry, State.stream_setStreamState, records]
  · exact (key 3 (by decide)).trans ((State.entry_setStreamState_other _ _ _ (by simp only [Key.mediaStreamState]; omega)).trans dir)
  · exact (key 0x0A (by decide)).trans (State.entry_setStreamState _ _ _)

/-- The stops that wait for an egress stream end well (R444). -/
theorem State.settleStops_side (dir : t.streamDir n = 0) :
    (∃ ks a b c, t.settleStops n = { t with jobs := ks, wicks := a, tapers := b, sealers := c }) ∧
      ∀ id j, t.attemptOf id 0x0704 = some j → t.jobStream j = n → JobEnds (t.settleStops n) id jsOk 0 [] := by
  have held : t.discardHeld n = t := by
    unfold State.discardHeld
    rw [if_pos (by rw [dir]; decide)]
  unfold State.settleStops
  extract_lets js
  refine ⟨?_, fun id j hj hn => ?_⟩
  · split
    · exact ⟨_, _, _, _, rfl⟩
    · rw [held]
      exact State.stageResults_frame js t
  · have found := State.attemptOf_find hj
    have listed : j ∈ js := by
      refine List.mem_filter.mpr ⟨List.mem_of_find?_eq_some found, ?_⟩
      unfold State.attemptOf at hj
      rw [found] at hj
      dsimp only at hj
      split at hj
      · next c =>
        simp only [Bool.and_eq_true] at c
        obtain ⟨⟨running, op⟩, -⟩ := c
        simp only [Bool.and_eq_true, decide_eq_true_eq]
        exact ⟨⟨running, of_decide_eq_true op⟩, hn⟩
      · cases hj
    rw [if_neg (by simpa using List.ne_nil_of_mem listed), held]
    exact JobEnds.stageResults js t (.inr ⟨⟨j, listed, State.findJob_id found⟩, j, found⟩)

/-- A STATUS that reports a stop ends the glide of an egress stream, and its stop jobs (R421, R431, R444). -/
theorem State.takeStatus_stop (dir : t.streamDir n = 0) (gliding : t.streamState n = stGliding) (stop : field b 0 1 = 0) : t.takeStatus n b = (t.mediumStops n).settleStops n := by
  have later : (3 < 0) = False := by decide
  have egress : (0 = 2) = False := by decide
  have acts : (stGliding = stWaiting) = False := by decide
  simp [State.takeStatus, stop, dir, gliding, later, egress, acts]

/-! ### Marks -/

theorem State.carried_found (h : t.carried n = some j) : t.findJob j.id = some j := by
  unfold State.carried at h
  split at h
  · rw [State.findJob_id h]
    exact h
  · cases h

/-- What a stream carries depends on its job and the jobs alone. -/
theorem State.carried_of (hj : t.jobs = s.jobs) (hx : (t.stream n).currentJob = (s.stream n).currentJob) : t.carried n = s.carried n := by
  unfold State.carried
  rw [hx]
  split
  · exact State.findJob_of_jobs hj _
  · rfl

/-- END_OBJECT with another ordinal than that of the object in progress (R430). -/
theorem State.takeEndObject_other {ordinal : BitVec 32} (h : ordinal ≠ (t.stream n).ordinal) : t.takeEndObject n ordinal = t := by
  unfold State.takeEndObject
  exact if_pos h

/-- The feed of the object in progress has ended, before its length is judged (R91). -/
def State.feedEnds (t : State) (n : Nat) (j : Job) : State :=
  (t.setStream n { t.stream n with ordinal := (t.stream n).ordinal + 1, feedOffset := 0, arriving := if (t.stream n).feedOffset = j.entry.w2.toNat then (t.stream n).arriving else none }).modObject j.id
    fun o => { o with feedEnded := true }

theorem State.feedEnds_side (hj : t.findJob j.id = some j) :
    (t.feedEnds n j).findJob j.id = some { j with object := some { j.obj with feedEnded := true } } ∧ ((t.feedEnds n j).stream n).ordinal = (t.stream n).ordinal + 1 := by
  refine ⟨State.findJob_modObject ((State.findJob_setStream ..).trans hj) _, ?_⟩
  unfold State.feedEnds State.modObject
  rw [State.stream_modJob, State.stream_setStream]

/-- END_OBJECT of the object in progress judges its length (R91, R430). -/
theorem State.takeEndObject_turn (keep : (t.stream n).dropping = false) (carries : t.carried n = some j) (running : j.phase = .running) (open_ : j.obj.feedEnded = false) :
    t.takeEndObject n (t.stream n).ordinal =
      if j.entry.w2.toNat < (t.stream n).feedOffset then (t.feedEnds n j).failJob j.id jsLengthLong
      else if (t.stream n).feedOffset < j.entry.w2.toNat then (t.feedEnds n j).failJob j.id jsLengthShort else t.feedEnds n j := by
  have progress : (!j.inProgress) = false := by simp [Job.inProgress, running]
  unfold State.takeEndObject
  dsimp only
  rw [if_neg (not_not.mpr rfl), if_neg (by simp [keep]), carries]
  dsimp only
  rw [if_neg (by simp [open_]), progress, if_neg (by decide)]
  rfl

/-- An object of the wrong length ends void with its status (R91). -/
theorem State.feedEnds_fails (hj : t.findJob j.id = some j) (running : j.phase = .running) (op : j.entry.opcode = 0x0701) (fresh : j.obj.voided = false) {status : Nat} (small : status < 256) :
    (((t.feedEnds n j).failJob j.id status).findJob j.id).map (fun k => (k.phase, k.status.toNat, k.units, k.obj.voided)) = some (.closing, status, [], true) :=
  State.failJob_store (State.feedEnds_side (n := n) hj).1 running op fresh small

/-- END_OF_DATA before the TAIL of a restore ends its job (R445). -/
theorem State.takeEndOfData_early (h : ((t.stream n).records.any fun r => r.kind = 4 && !r.taken) = false) (carries : t.carried n = some j) (running : j.phase = .running) (op : j.entry.opcode = 0x0702) :
    JobEnds (t.takeEndOfData n) j.id jsFormat j.obj.payload [] := by
  have w6 : j.failW6 jsFormat = j.obj.payload := by simp [Job.failW6, op]
  unfold State.takeEndOfData
  rw [if_neg (by rw [h]; decide)]
  unfold State.endObject
  rw [carries]
  dsimp only
  rw [State.failJob_restore (State.carried_found carries) running op, w6]
  exact JobEnds.stageResult _ _ _ (State.carried_found carries)

theorem State.takeEndOfData_held (h : ((t.stream n).records.any fun r => r.kind = 4 && !r.taken) = true) : t.takeEndOfData n = t := by
  unfold State.takeEndOfData
  rw [if_pos h]

/-- The KIND of a MARK that passed every check (R430). -/
theorem mark_kind (ok : FrameOk s p n f) (hk : f.kind.toNat = 6) (hb : s.bodyOk f.kind.toNat (frameContent f) = true) : field (frameContent f) 0 1 = markKind (s.streamDir n) := by
  obtain ⟨-, -, -, -, -, -, allowed⟩ := ok
  unfold State.frameAllowed at allowed
  simp only [Bool.and_eq_true] at allowed
  obtain ⟨⟨may, -⟩, -⟩ := allowed
  rw [hk] at hb may
  simp [State.bodyOk] at hb
  simp [peerMaySend] at may
  omega

/-! ### Errors -/

theorem State.takeError_starved (h : field b 0 2 = 5) : t.takeError n b = t.setStream n { t.stream n with starves := (t.stream n).starves + 1 } := by
  simp [State.takeError, h]

theorem State.takeError_epoch (h : field b 0 2 = 6) : t.takeError n b = t.forgetEpoch n := by
  simp [State.takeError, h]

/-- A stream that carries no job has no object to settle (R47). -/
theorem State.settleObjects_none (h : t.carried n = none) : t.settleObjects n = t := by
  have none : t.jobs.filter (fun j => j.phase = .closing && (t.stream n).currentJob = some j.id && !(t.stream n).records.any fun r => r.job = j.id) = [] := by
    refine List.filter_eq_nil_iff.mpr fun k hk c => ?_
    simp only [Bool.and_eq_true, decide_eq_true_eq] at c
    obtain ⟨⟨-, current⟩, -⟩ := c
    unfold State.carried at h
    rw [current] at h
    exact List.find?_eq_none.mp h k hk (by simp)
  unfold State.settleObjects
  dsimp only
  rw [none, List.foldl_nil]

theorem State.carried_faultStream (t : State) (n : Nat) : (t.faultStream n).carried n = t.carried n := by
  obtain ⟨d, a, e⟩ := t.setStreamState_frame n stFaulted
  unfold State.faultStream
  refine State.carried_of ?_ ?_
  · rw [e]
  · rw [State.stream_setStreamState]

/-- An ERROR of an egress medium that carries no object faults the stream (R446). -/
theorem State.takeError_egress (dir : t.streamDir n = 0) (acts : t.streamState n ≠ stFaulted) (idle : t.carried n = none) (h : field b 0 2 = 1 ∨ field b 0 2 = 3) :
    (t.takeError n b).streamState n = stFaulted := by
  have idle' := (t.carried_faultStream n).trans idle
  have faulted : (t.faultStream n).streamState n = stFaulted := State.entry_setStreamState _ _ _
  have ended : (t.faultStream n).endObject n jsResource = t.faultStream n := by
    unfold State.endObject
    rw [idle']
  rcases h with h | h
  · have taken : t.takeError n b = (t.faultStream n).refuseRecord n (BitVec.ofNat 32 (field b 4 4)) := by simp [State.takeError, h, dir, acts, ended]
    rw [taken]
    unfold State.refuseRecord
    dsimp only
    rw [State.settleObjects_none, State.streamState_setStream, faulted]
    refine (State.carried_of (State.jobs_setStream ..) ?_).trans idle'
    rw [State.stream_setStream]
  · have taken : t.takeError n b = t.faultStream n := by simp [State.takeError, h, dir, acts, ended]
    rw [taken, faulted]

/-- An ERROR of a restore medium faults the stream and ends its job (R446). -/
theorem State.takeError_restore (dir : t.streamDir n = 1) (acts : t.streamState n ≠ stFaulted) (h : field b 0 2 = 2) (carries : t.carried n = some j) (running : j.phase = .running) (op : j.entry.opcode = 0x0702) :
    (t.takeError n b).streamState n = stFaulted ∧ JobEnds (t.takeError n b) j.id jsVerifyFail j.obj.payload [] := by
  have w6 : j.failW6 jsVerifyFail = j.obj.payload := by simp [Job.failW6, op]
  have carries' := (t.carried_faultStream n).trans carries
  have taken : t.takeError n b = (t.faultStream n).stageResult j.id jsVerifyFail j.obj.payload [] := by
    simp [State.takeError, h, dir, acts, State.endObject, carries', State.failJob_restore (State.carried_found carries') running op, w6]
  obtain ⟨js, w, c, d, e⟩ := (t.faultStream n).stageResult_frame j.id jsVerifyFail j.obj.payload []
  rw [taken]
  refine ⟨?_, JobEnds.stageResult _ _ _ (State.carried_found carries')⟩
  rw [e]
  exact State.entry_setStreamState t n stFaulted

/-! ### A new EPOCH -/

/-- A drawn number is neither 0 nor the one before (R419). -/
theorem nonzeroOther_new (w prev x : Nat) : nonzeroOther w prev x ≠ 0 ∧ nonzeroOther w prev x ≠ prev := by
  unfold nonzeroOther
  split
  · omega
  · dsimp only
    split <;> omega

theorem State.sendStatus_side (t : State) (n : Nat) : Frames t (t.sendStatus n) ∧ ((t.sendStatus n).stream n).rxSeq = (t.stream n).rxSeq ∧ ((t.sendStatus n).stream n).txSeq = (t.stream n).txSeq ∧
    ((t.sendStatus n).stream n).unacked = (t.stream n).unacked := by
  obtain ⟨a, ha⟩ : ∃ a, a = t.setStream n { t.stream n with statusDue := false, statusAt := t.hubCycle } := ⟨_, rfl⟩
  have sent : ∀ f, (a.issueFrame f).stream n = a.stream n := fun f => by
    unfold State.issueFrame
    split <;> rfl
  have x : a.stream n = { t.stream n with statusDue := false, statusAt := t.hubCycle } := by rw [ha, State.stream_setStream]
  unfold State.sendStatus State.sendPlain
  dsimp only
  rw [← ha, sent, x]
  exact ⟨(ha ▸ t.setStream_frames n _).trans (State.issueFrame_frames _ _), rfl, rfl, rfl⟩

/-- A new EPOCH, drawn by a DRBG that serves: neither 0 nor the last one, and both sequence spaces start again (R419, R446). -/
theorem State.newEpoch_side (draws : t.canDraw 16 1) :
    ((t.newEpoch n).stream n).rxSeq = 0 ∧ ((t.newEpoch n).stream n).txSeq = 0 ∧ ((t.newEpoch n).stream n).unacked = [] ∧ (t.newEpoch n).entry (Key.mediaStreamEpoch n) ≠ 0 ∧
      (t.newEpoch n).entry (Key.mediaStreamEpoch n) ≠ (t.stream n).lastEpoch.toNat ∧ ∀ e, e ≠ Key.mediaStreamEpoch n → (t.newEpoch n).entry e = t.entry e := by
  obtain ⟨u, drawn, -, frame⟩ := State.generate_ok (k := 4) draws
  have same : u.streams = t.streams ∧ u.dict = t.dict ∧ u.variant = t.variant := by
    rw [← frame]
    exact ⟨rfl, rfl, rfl⟩
  obtain ⟨streams, dict, variant⟩ := same
  have x : u.stream n = t.stream n := State.stream_of_streams streams n
  have entry : ∀ e, u.entry e = t.entry e := State.entry_of_dict dict variant
  obtain ⟨e, he⟩ : ∃ e, e = nonzeroOther 32 (u.stream n).lastEpoch.toNat (Config.drawn (drbgStream (t.drbg 16).key (t.drbg 16).v 4)) := ⟨_, rfl⟩
  obtain ⟨nonzero, other⟩ := nonzeroOther_new 32 (u.stream n).lastEpoch.toNat (Config.drawn (drbgStream (t.drbg 16).key (t.drbg 16).v 4))
  rw [← he] at nonzero other
  rw [x] at other
  obtain ⟨y, hy⟩ : ∃ y : Stream, y = { u.stream n with
      epochDue := false, lastEpoch := BitVec.ofNat 32 e, txSeq := 0, rxSeq := 0, rxAcked := 0, unacked := [], retries := 0, window := 0, consumed := 0, committed := none
      heardAt := u.hubCycle, timedOut := false, statusDue := true, marksSent := [] } := ⟨_, rfl⟩
  obtain ⟨v, hv⟩ : ∃ v, v = (u.setStream n y).setEntry (Key.mediaStreamEpoch n) e := ⟨_, rfl⟩
  have taken : t.newEpoch n = if v.portUp n then v.sendStatus n else v := by
    unfold State.newEpoch
    rw [drawn]
    dsimp only
    rw [← he, ← hy, ← hv]
  have stream : v.stream n = y := by rw [hv, State.stream_setEntry, State.stream_setStream]
  have epoch : v.entry (Key.mediaStreamEpoch n) = e := by rw [hv, State.entry_setEntry]
  have others : ∀ k, k ≠ Key.mediaStreamEpoch n → v.entry k = t.entry k := fun k hk => by rw [hv, State.entry_setEntry_other _ _ _ hk, State.entry_setStream, entry]
  rw [taken]
  split
  · obtain ⟨frames, rx, tx, sent⟩ := v.sendStatus_side n
    rw [rx, tx, sent, frames.entry, epoch, stream, hy]
    exact ⟨rfl, rfl, rfl, nonzero, other, fun k hk => (frames.entry k).trans (others k hk)⟩
  · rw [epoch, stream, hy]
    exact ⟨rfl, rfl, rfl, nonzero, other, others⟩

/-- An unknown EPOCH at a stream that carries no object: it waits with a new one (R446). -/
theorem State.forgetEpoch_idle (idle : t.carried n = none) (live : t.streamState n ≠ stDisabled) (acts : t.streamState n ≠ stFaulted) (draws : t.canDraw 16 1) :
    let u := t.forgetEpoch n
    u.streamState n = stWaiting ∧ u.streamStep n = 0xFF ∧ u.entry (Key.mediaStreamEpoch n) ≠ 0 ∧ u.entry (Key.mediaStreamEpoch n) ≠ (t.stream n).lastEpoch.toNat ∧
      (u.stream n).rxSeq = 0 ∧ (u.stream n).txSeq = 0 ∧ (u.stream n).unacked = [] := by
  obtain ⟨a, ha⟩ : ∃ a, a = if t.streamDir n = 0 then t.dropRecords n else t.setStream n { t.stream n with steps := [], arriving := none, stopRsn := none } := ⟨_, rfl⟩
  have emptied : Frames t a ∧ (a.stream n).lastEpoch = (t.stream n).lastEpoch := by
    rw [ha]
    split
    · refine ⟨t.setStream_frames n _, ?_⟩
      unfold State.dropRecords
      rw [State.stream_setStream]
    · refine ⟨t.setStream_frames n _, ?_⟩
      rw [State.stream_setStream]
  obtain ⟨frames, last⟩ := emptied
  obtain ⟨c, hc⟩ : ∃ c, c = (a.setStreamState n stWaiting).setEntry (Key.mediaStreamStep n) 0xFF := ⟨_, rfl⟩
  have taken : t.forgetEpoch n = c.newEpoch n := by
    have waits : a.streamWaits n = a.setStreamState n stWaiting := by
      have state : a.streamState n = t.streamState n := frames.entry _
      simp [State.streamWaits, state, live, acts]
    unfold State.forgetEpoch
    rw [idle]
    dsimp only
    rw [← ha, waits, hc]
  have stream : c.stream n = a.stream n := by rw [hc, State.stream_setEntry, State.stream_setStreamState]
  have draws' : c.canDraw 16 1 := by
    obtain ⟨d, x, e⟩ := a.setStreamState_frame n stWaiting
    obtain ⟨m, o, e'⟩ := frames
    have same : c.drbg 16 = t.drbg 16 := State.drbg_of_drbgs (by rw [hc, State.entropy_setEntry, e, e']) 16
    unfold State.canDraw
    rw [same]
    exact draws
  obtain ⟨rx, tx, sent, nonzero, other, entry⟩ := State.newEpoch_side (n := n) draws'
  rw [stream, last] at other
  refine ⟨?_, ?_, by rwa [taken], by rwa [taken], by rwa [taken], by rwa [taken], by rwa [taken]⟩
  · show (t.forgetEpoch n).entry (Key.mediaStreamState n) = stWaiting
    rw [taken, entry _ (by simp only [Key.mediaStreamState, Key.mediaStreamEpoch]; omega), hc, State.entry_setEntry_other _ _ _ (by simp only [Key.mediaStreamState, Key.mediaStreamStep]; omega),
      State.entry_setStreamState]
  · show (t.forgetEpoch n).entry (Key.mediaStreamStep n) = 0xFF
    rw [taken, entry _ (by simp only [Key.mediaStreamStep, Key.mediaStreamEpoch]; omega), hc, State.entry_setEntry]

end

end Sys2Proof.Machine
end

section
/-! PROOFS. Received frames by type (O38). -/

namespace Sys2Proof.Machine

section
variable {s t : State} {p n : Nat} {f : VspFrame} {r : BitVec 32} {j : Job}

/-! ### Received frames by type -/

/-- The fields of `received`, one by one. -/
theorem Stream.received_eq {x y : Stream} (h : x.received = y.received) : x.rxSeq = y.rxSeq ∧ x.steps = y.steps ∧ x.buffer = y.buffer ∧ x.window = y.window ∧ x.consumed = y.consumed ∧
    x.ordinal = y.ordinal ∧ x.feedOffset = y.feedOffset ∧ x.earlyWarning = y.earlyWarning ∧ x.starves = y.starves := by
  simpa [Stream.received] using h

theorem Arrived.recordRoom (h : Arrived s p n r t) (hp : p < 256) : t.recordRoom n = s.recordRoom n := by
  unfold State.recordRoom
  rw [show t.entry (Key.mediaStreamRecordExp n) = s.entry (Key.mediaStreamRecordExp n) from h.setting hp (by decide)]

theorem Arrived.carried (h : Arrived s p n r t) : t.carried n = s.carried n := by
  obtain ⟨a, b, c, x⟩ := h.stream
  exact State.carried_of h.jobs (by rw [x])

/-- Off a waiting feed the stream's State is as it was. -/
theorem Arrived.state_same (h : Arrived s p n r t) (hd : s.streamDir n ≠ 2) : t.streamState n = s.streamState n := by
  rw [h.state, if_neg fun c => hd c.1]

/-- A whole record of a restore that moves is held (R426, R435). -/
theorem State.receive_data (hp : p < 256) (ok : FrameOk s p n f) (hk : f.kind = 1) (dir : s.streamDir n = 1) (seq : f.seq = (s.stream n).rxSeq) (body : s.bodyOk f.kind.toNat (frameContent f) = true)
    (moves : s.streamState n = stMoving) (whole : f.flags = 3) (first : field (frameContent f) 8 8 = 0) (turn : field (frameContent f) 0 4 = (s.stream n).nextRsn.toNat)
    (keep : (s.stream n).dropping = false) (fits : (frameContent f).length - 16 ≤ s.recordRoom n) :
    let u := s.receive p f
    (u.stream n).rxSeq = (s.stream n).rxSeq + 1 ∧ (u.stream n).nextRsn = (s.stream n).nextRsn + 1 ∧
      ∃ q, (u.stream n).records = (s.stream n).records ++ [q] ∧ q.rsn = (s.stream n).nextRsn ∧ q.bytes = (frameContent f).drop 16 ∧ q.taken = false := by
  have kind : f.kind.toNat = 1 := by rw [hk]; rfl
  have flags : f.flags.toNat = 3 := by rw [whole]; rfl
  have small := (State.streamOf_live ok.stream).1
  obtain ⟨t, arrived, e⟩ := State.receive_next hp ok (.inl kind) seq body
  obtain ⟨a, b, c, y⟩ := arrived.stream
  obtain ⟨x, taken, rx, next, q, records, rsn, bytes, free⟩ := t.takeRecordData_whole n first (by rw [y]; exact turn) (by rw [y]; exact keep) (by rw [arrived.recordRoom hp]; exact fits)
  rw [y] at rx next records rsn
  rw [kind, if_pos rfl, if_pos dir, flags, taken] at e
  have signals := State.evaluate_signals (s := t.setStream n x) small ((State.streamDir_setStream ..).trans ((arrived.dir hp).trans dir))
    ((State.streamState_setStream ..).trans ((arrived.state_same (by rw [dir]; decide)).trans moves))
  rw [← e] at signals
  have stream := State.stream_setStream t n x
  refine ⟨signals.rxSeq.trans (by rw [stream, rx]), signals.nextRsn.trans (by rw [stream, next]), q, signals.records.trans (by rw [stream, records]), rsn, bytes, free⟩

/-- A CREDIT that commits the last record of a closing job ends it (R427). -/
theorem State.receive_credit {q : StreamRecord} (hp : p < 256) (ok : FrameOk s p n f) (hk : f.kind = 2) (dir : s.streamDir n = 0) (jobs : s.jobs = [j]) (closing : j.phase = .closing)
    (current : (s.stream n).currentJob = some j.id) (good : j.status = BitVec.ofNat 8 jsOk) (one : (s.stream n).records = [q]) (sent : q.offset = q.bytes.length)
    (within : q.endPos ≤ field (frameContent f) 8 8) (last : q.rsn.toNat = field (frameContent f) 16 4) (marks : (s.stream n).marksSent = []) :
    let u := s.receive p f
    (u.stream n).records = [] ∧ (u.stream n).consumed = field (frameContent f) 8 8 ∧ (u.stream n).window = field (frameContent f) 4 4 ∧ JobEnds u j.id jsOk j.obj.releasedBytes [] := by
  have kind : f.kind.toNat = 2 := by rw [hk]; rfl
  have arrived := s.arrive_arrived hp n
  obtain ⟨a, b, c, y⟩ := arrived.stream
  have e := State.receive_plain hp ok (by rw [kind]; decide)
  rw [kind, if_pos rfl] at e
  obtain ⟨records, consumed, window, ends⟩ := State.takeCredit_last (t := s.arrive p n) (b := frameContent f) ((arrived.dir hp).trans dir) (arrived.jobs.trans jobs) closing (by rw [y]; exact current) good
    (by rw [y]; exact one) sent within last (by rw [y]; exact marks)
  have sends := ((s.arrive p n).takeCredit n (frameContent f)).evaluate_sends n
  rw [← e] at sends
  obtain ⟨-, -, -, window', consumed', -⟩ := Stream.received_eq sends.received
  exact ⟨sends.records records, consumed'.trans consumed, window'.trans window, .of_jobs sends.jobs ends⟩

/-- Whether an egress stream allows a step depends on the RATE and the stream's settings (R436). -/
theorem State.stepAllowed_egress {k : Nat} (steps : (t.stream n).steps = (s.stream n).steps) (buffer : (t.stream n).buffer = (s.stream n).buffer)
    (margin : t.entry (Key.mediaStreamMarginMs n) = s.entry (Key.mediaStreamMarginMs n)) (room : t.recordRoom n = s.recordRoom n) (dir : t.streamDir n = 0) (dir' : s.streamDir n = 0) :
    t.stepAllowed n k = s.stepAllowed n k := by
  have threshold : ∀ i, t.threshold n i = s.threshold n i := fun i => by simp only [State.threshold, steps, margin]
  simp only [State.stepAllowed, steps, buffer, threshold, room, dir, dir', ne_eq, decide_true, Bool.true_or, Nat.zero_ne_one, not_false_eq_true]

/-- A first RATE to a waiting egress stream (R421, R428). -/
theorem State.receive_rate (hp : p < 256) (ok : FrameOk s p n f) (hk : f.kind = 3) (dir : s.streamDir n = 0) (seq : f.seq = (s.stream n).rxSeq) (body : s.bodyOk f.kind.toNat (frameContent f) = true)
    (waiting : s.streamState n = stWaiting) (steps : (s.stream n).steps = []) (records : (s.stream n).records = []) :
    let now := (s.setStream n { s.stream n with steps := rateSteps (frameContent f), buffer := field (frameContent f) 4 4 }).stepAllowed n 0
    let u := s.receive p f
    (u.stream n).steps = rateSteps (frameContent f) ∧ (u.stream n).buffer = field (frameContent f) 4 4 ∧ (now = false → u.streamState n = stWaiting) ∧
      (now = true → field (frameContent f) 1 1 = 0xFF → u.streamState n = stStopped ∧ u.streamStep n = 0xFF) := by
  have kind : f.kind.toNat = 3 := by rw [hk]; rfl
  obtain ⟨t, arrived, e⟩ := State.receive_next hp ok (.inr (.inl kind)) seq body
  obtain ⟨a, b, c, y⟩ := arrived.stream
  have dir' := (arrived.dir hp).trans dir
  rw [kind, if_neg (by decide), if_pos rfl] at e
  have same : (t.setStream n { t.stream n with steps := rateSteps (frameContent f), buffer := field (frameContent f) 4 4 }).stepAllowed n 0 =
      (s.setStream n { s.stream n with steps := rateSteps (frameContent f), buffer := field (frameContent f) 4 4 }).stepAllowed n 0 := by
    refine State.stepAllowed_egress ?_ ?_ ?_ ?_ ((State.streamDir_setStream ..).trans dir') ((State.streamDir_setStream ..).trans dir)
    · rw [State.stream_setStream, State.stream_setStream]
    · rw [State.stream_setStream, State.stream_setStream]
    · rw [State.entry_setStream, State.entry_setStream]
      exact arrived.setting hp (by decide)
    · exact arrived.recordRoom hp
  obtain ⟨stream, dir'', waits, rests⟩ := State.takeRate_first (b := frameContent f) dir' ((arrived.state_same (by rw [dir]; decide)).trans waiting) (by rw [y]; exact steps)
  rw [same] at waits rests
  have sends := (t.takeRate n (frameContent f)).evaluate_sends n
  rw [← e] at sends
  obtain ⟨-, steps', buffer', -⟩ := Stream.received_eq sends.received
  rw [stream] at steps' buffer'
  refine ⟨steps', buffer', fun now => ?_, fun now step => ?_⟩
  · rw [e, State.evaluate_waiting (waits now)]
    exact waits now
  · obtain ⟨state, step⟩ := rests now step
    have empty : ((t.takeRate n (frameContent f)).stream n).records = [] := by rw [stream, y]; exact records
    rw [e, State.evaluate_empty dir'' state empty]
    exact ⟨((State.pump_frames _ n).entry _).trans state, ((State.pump_frames _ n).entry _).trans step⟩

/-- A STATUS that reports the stop of a gliding egress stream (R421, R431, R444). -/
theorem State.receive_stop (hp : p < 256) (ok : FrameOk s p n f) (hk : f.kind = 8) (dir : s.streamDir n = 0) (gliding : s.streamState n = stGliding) (stop : field (frameContent f) 0 1 = 0)
    (records : (s.stream n).records = []) :
    let u := s.receive p f
    u.streamState n = stStopped ∧ u.streamStep n = 0xFF ∧ ∀ id j, s.attemptOf id 0x0704 = some j → s.jobStream j = n → JobEnds u id jsOk 0 [] := by
  have kind : f.kind.toNat = 8 := by rw [hk]; rfl
  have arrived := s.arrive_arrived hp n
  obtain ⟨a, b, c, y⟩ := arrived.stream
  have dir' := (arrived.dir hp).trans dir
  have e := State.receive_plain hp ok (by rw [kind]; decide)
  rw [kind, if_neg (by decide), if_pos rfl, State.takeStatus_stop dir' ((arrived.state_same (by rw [dir]; decide)).trans gliding) stop] at e
  obtain ⟨frame, none, dir'', state, step⟩ := (s.arrive p n).mediumStops_side n
  rw [y] at none
  generalize (s.arrive p n).mediumStops n = v at e frame none dir'' state step
  obtain ⟨⟨ks, wi, ta, se, frame'⟩, ends⟩ := State.settleStops_side (dir''.trans dir')
  generalize v.settleStops n = w at e frame' ends
  have entry : ∀ k, w.entry k = v.entry k := State.entry_of_dict (by rw [frame']) (by rw [frame'])
  have quiet : w.evaluate n = w.pump n := State.evaluate_empty ((entry _).trans (dir''.trans dir')) ((entry _).trans state)
    (by rw [State.stream_of_streams (s := v) (by rw [frame']) n]; exact none.trans records)
  have sends := w.evaluate_sends n
  rw [← e] at sends
  rw [quiet] at e
  refine ⟨?_, ?_, fun id j hj hn => .of_jobs sends.jobs (ends id j ?_ ?_)⟩
  · rw [e]
    exact ((w.pump_frames n).entry _).trans ((entry _).trans state)
  · rw [e]
    exact ((w.pump_frames n).entry _).trans ((entry _).trans step)
  · obtain ⟨d, m, x, rfl⟩ := frame
    obtain ⟨d', m', x', e'⟩ := arrived.frame
    rw [e']
    exact hj
  · obtain ⟨d, m, x, rfl⟩ := frame
    obtain ⟨d', m', x', e'⟩ := arrived.frame
    rw [e']
    exact hn

/-- A MARK in turn, with the KIND of its direction (R430). -/
theorem State.receive_mark (hp : p < 256) (ok : FrameOk s p n f) (hk : f.kind = 6) (seq : f.seq = (s.stream n).rxSeq) (body : s.bodyOk f.kind.toNat (frameContent f) = true) :
    ∃ t, Arrived s p n ((s.stream n).rxSeq + 1) t ∧ s.receive p f =
      (if s.streamDir n = 0 then t.setStream n { t.stream n with earlyWarning := true }
        else if s.streamDir n = 1 then t.takeEndOfData n else t.takeEndObject n (BitVec.ofNat 32 (field (frameContent f) 4 4))).evaluate n := by
  have kind : f.kind.toNat = 6 := by rw [hk]; rfl
  have mark := mark_kind ok kind body
  obtain ⟨t, arrived, e⟩ := State.receive_next hp ok (.inr (.inr kind)) seq body
  refine ⟨t, arrived, e.trans ?_⟩
  rw [kind, if_neg (by decide), if_neg (by decide)]
  unfold State.takeMark
  rw [mark]
  unfold markKind
  by_cases egress : s.streamDir n = 0
  · simp [egress]
  · by_cases restore : s.streamDir n = 1 <;> simp [egress, restore]

/-- END_OBJECT of another object than the one in progress (R430). -/
theorem State.receive_endOther (hp : p < 256) (ok : FrameOk s p n f) (hk : f.kind = 6) (dir : s.streamDir n = 2) (seq : f.seq = (s.stream n).rxSeq)
    (body : s.bodyOk f.kind.toNat (frameContent f) = true) (other : BitVec.ofNat 32 (field (frameContent f) 4 4) ≠ (s.stream n).ordinal) :
    (s.receive p f).jobs = s.jobs ∧ ((s.receive p f).stream n).ordinal = (s.stream n).ordinal := by
  obtain ⟨t, arrived, e⟩ := State.receive_mark hp ok hk seq body
  obtain ⟨a, b, c, y⟩ := arrived.stream
  rw [dir, if_neg (by decide), if_neg (by decide), State.takeEndObject_other (by rw [y]; exact other)] at e
  have sends := t.evaluate_sends n
  rw [← e] at sends
  obtain ⟨-, -, -, -, -, ordinal, -⟩ := Stream.received_eq sends.received
  exact ⟨sends.jobs.trans arrived.jobs, ordinal.trans (by rw [y])⟩

/-- END_OBJECT of the object in progress of a store job (R91). -/
theorem State.receive_endObject (hp : p < 256) (ok : FrameOk s p n f) (hk : f.kind = 6) (dir : s.streamDir n = 2) (seq : f.seq = (s.stream n).rxSeq)
    (body : s.bodyOk f.kind.toNat (frameContent f) = true) (turn : BitVec.ofNat 32 (field (frameContent f) 4 4) = (s.stream n).ordinal) (keep : (s.stream n).dropping = false)
    (carries : s.carried n = some j) (running : j.phase = .running) (op : j.entry.opcode = 0x0701) (fresh : j.obj.voided = false) (unended : j.obj.feedEnded = false) :
    let u := s.receive p f
    let void := fun (st : Nat) => (u.findJob j.id).map (fun k => (k.phase, k.status.toNat, k.units, k.obj.voided)) = some (.closing, st, [], true)
    ((s.stream n).feedOffset = j.entry.w2.toNat → (u.findJob j.id).map (fun k => (k.phase, k.obj.feedEnded)) = some (.running, true) ∧ (u.stream n).ordinal = (s.stream n).ordinal + 1) ∧
      ((s.stream n).feedOffset < j.entry.w2.toNat → void jsLengthShort) ∧ (j.entry.w2.toNat < (s.stream n).feedOffset → void jsLengthLong) := by
  intro u void
  obtain ⟨t, arrived, e⟩ := State.receive_mark hp ok hk seq body
  obtain ⟨a, b, c, y⟩ := arrived.stream
  have carries' := arrived.carried.trans carries
  have found := State.carried_found carries'
  have ordinal : (t.stream n).ordinal = (s.stream n).ordinal := by rw [y]
  have offset : (t.stream n).feedOffset = (s.stream n).feedOffset := by rw [y]
  rw [dir, if_neg (by decide), if_neg (by decide), turn, ← ordinal, State.takeEndObject_turn (by rw [y]; exact keep) carries' running unended, offset] at e
  have seen : ∀ v : State, u = v.evaluate n → u.findJob j.id = v.findJob j.id := fun v h => State.findJob_of_jobs (by rw [h]; exact (v.evaluate_sends n).jobs) j.id
  refine ⟨fun exact_ => ?_, fun short => ?_, fun long => ?_⟩
  · rw [exact_, if_neg (lt_irrefl _), if_neg (lt_irrefl _)] at e
    obtain ⟨ended, next⟩ := State.feedEnds_side (n := n) found
    obtain ⟨-, -, -, -, -, kept, -⟩ := Stream.received_eq ((t.feedEnds n j).evaluate_sends n).received
    refine ⟨?_, ?_⟩
    · rw [seen _ e, ended]
      simp [Job.obj, running]
    · rw [show u = (t.feedEnds n j).evaluate n from e, kept, next, ordinal]
  · rw [if_neg (by omega), if_pos short] at e
    show (u.findJob j.id).map _ = _
    rw [seen _ e]
    exact State.feedEnds_fails found running op fresh (by decide)
  · rw [if_pos long] at e
    show (u.findJob j.id).map _ = _
    rw [seen _ e]
    exact State.feedEnds_fails found running op fresh (by decide)

/-- END_OF_DATA of a restore (R445). -/
theorem State.receive_endOfData (hp : p < 256) (ok : FrameOk s p n f) (hk : f.kind = 6) (dir : s.streamDir n = 1) (seq : f.seq = (s.stream n).rxSeq) (body : s.bodyOk f.kind.toNat (frameContent f) = true) :
    let u := s.receive p f
    (((s.stream n).records.any fun r => r.kind = 4 && !r.taken) = false → ∀ j, s.carried n = some j → j.phase = .running → j.entry.opcode = 0x0702 → JobEnds u j.id jsFormat j.obj.payload []) ∧
      (((s.stream n).records.any fun r => r.kind = 4 && !r.taken) = true → (u.stream n).rxSeq = (s.stream n).rxSeq + 1 ∧ u.jobs = s.jobs) := by
  obtain ⟨t, arrived, e⟩ := State.receive_mark hp ok hk seq body
  obtain ⟨a, b, c, y⟩ := arrived.stream
  have records : (t.stream n).records = (s.stream n).records := by rw [y]
  rw [dir, if_neg (by decide), if_pos rfl] at e
  have sends := (t.takeEndOfData n).evaluate_sends n
  rw [← e] at sends
  refine ⟨fun early j carries running op => .of_jobs sends.jobs ?_, fun held => ?_⟩
  · exact State.takeEndOfData_early (by rw [records]; exact early) (arrived.carried.trans carries) running op
  · have none := State.takeEndOfData_held (t := t) (n := n) (by rw [records]; exact held)
    rw [none] at sends
    obtain ⟨rx, -⟩ := Stream.received_eq sends.received
    exact ⟨rx.trans (by rw [y]), sends.jobs.trans arrived.jobs⟩

/-- EARLY_WARNING of an egress medium (R445). -/
theorem State.receive_earlyWarning (hp : p < 256) (ok : FrameOk s p n f) (hk : f.kind = 6) (dir : s.streamDir n = 0) (seq : f.seq = (s.stream n).rxSeq)
    (body : s.bodyOk f.kind.toNat (frameContent f) = true) : ((s.receive p f).stream n).earlyWarning = true ∧ (s.receive p f).jobs = s.jobs := by
  obtain ⟨t, arrived, e⟩ := State.receive_mark hp ok hk seq body
  rw [dir, if_pos rfl] at e
  have sends := (t.setStream n { t.stream n with earlyWarning := true }).evaluate_sends n
  rw [← e] at sends
  obtain ⟨-, -, -, -, -, -, -, warned, -⟩ := Stream.received_eq sends.received
  rw [State.stream_setStream] at warned
  exact ⟨warned, sends.jobs.trans ((State.jobs_setStream ..).trans arrived.jobs)⟩

/-- An ERROR is taken whatever its SEQ (R431, R446). -/
theorem State.receive_error (hp : p < 256) (ok : FrameOk s p n f) (hk : f.kind = 9) : s.receive p f = ((s.arrive p n).takeError n (frameContent f)).evaluate n := by
  have kind : f.kind.toNat = 9 := by rw [hk]; rfl
  have e := State.receive_plain hp ok (by rw [kind]; decide)
  rwa [kind, if_neg (by decide), if_neg (by decide)] at e

/-- Sending leaves a faulted stream faulted (R446). -/
theorem State.evaluate_faulted (h : t.streamState n = stFaulted) : (t.evaluate n).streamState n = stFaulted := by
  rw [State.evaluate_unpaced (by rw [h]; decide) (by rw [h]; decide)]
  exact ((t.pump_frames n).entry _).trans h

/-- A medium that cannot be written, or is missing, faults an egress stream (R446). -/
theorem State.receive_mediumFault (hp : p < 256) (ok : FrameOk s p n f) (hk : f.kind = 9) (dir : s.streamDir n = 0) (acts : s.streamState n ≠ stFaulted) (idle : s.carried n = none)
    (code : field (frameContent f) 0 2 = 1 ∨ field (frameContent f) 0 2 = 3) : (s.receive p f).streamState n = stFaulted := by
  have arrived := s.arrive_arrived hp n
  rw [State.receive_error hp ok hk]
  exact State.evaluate_faulted (State.takeError_egress ((arrived.dir hp).trans dir) (by rw [arrived.state_same (by rw [dir]; decide)]; exact acts) (arrived.carried.trans idle) code)

/-- A medium that cannot be read faults a restore stream and ends its job (R446). -/
theorem State.receive_mediumRead (hp : p < 256) (ok : FrameOk s p n f) (hk : f.kind = 9) (dir : s.streamDir n = 1) (acts : s.streamState n ≠ stFaulted) (code : field (frameContent f) 0 2 = 2)
    (carries : s.carried n = some j) (running : j.phase = .running) (op : j.entry.opcode = 0x0702) :
    (s.receive p f).streamState n = stFaulted ∧ JobEnds (s.receive p f) j.id jsVerifyFail j.obj.payload [] := by
  have arrived := s.arrive_arrived hp n
  obtain ⟨faulted, ends⟩ := State.takeError_restore (b := frameContent f) ((arrived.dir hp).trans dir) (by rw [arrived.state_same (by rw [dir]; decide)]; exact acts) code
    (arrived.carried.trans carries) running op
  rw [State.receive_error hp ok hk]
  exact ⟨State.evaluate_faulted faulted, .of_jobs (State.evaluate_sends _ n).jobs ends⟩

/-- A medium that starves is counted (R446). -/
theorem State.receive_starved (hp : p < 256) (ok : FrameOk s p n f) (hk : f.kind = 9) (code : field (frameContent f) 0 2 = 5) :
    ((s.receive p f).stream n).starves = (s.stream n).starves + 1 ∧ (s.receive p f).jobs = s.jobs := by
  have arrived := s.arrive_arrived hp n
  obtain ⟨a, b, c, y⟩ := arrived.stream
  have e := State.receive_error hp ok hk
  rw [State.takeError_starved code] at e
  have sends := ((s.arrive p n).setStream n { (s.arrive p n).stream n with starves := ((s.arrive p n).stream n).starves + 1 }).evaluate_sends n
  rw [← e] at sends
  obtain ⟨-, -, -, -, -, -, -, -, starves⟩ := Stream.received_eq sends.received
  rw [State.stream_setStream] at starves
  exact ⟨starves.trans (by rw [y]), sends.jobs.trans ((State.jobs_setStream ..).trans arrived.jobs)⟩

/-- An EPOCH that the peer does not know gives way to a new one (R446). -/
theorem State.receive_unknownEpoch (hp : p < 256) (ok : FrameOk s p n f) (hk : f.kind = 9) (code : field (frameContent f) 0 2 = 6) (acts : s.streamState n ≠ stFaulted) (idle : s.carried n = none)
    (draws : s.canDraw 16 1) :
    let u := s.receive p f
    u.streamState n = stWaiting ∧ u.streamStep n = 0xFF ∧ u.entry (Key.mediaStreamEpoch n) ≠ 0 ∧ u.entry (Key.mediaStreamEpoch n) ≠ (s.stream n).lastEpoch.toNat ∧
      (u.stream n).rxSeq = 0 ∧ (u.stream n).txSeq = 0 ∧ (u.stream n).unacked = [] := by
  have arrived := s.arrive_arrived hp n
  obtain ⟨a, b, c, y⟩ := arrived.stream
  have live := (State.streamOf_live ok.stream).2
  have draws' : (s.arrive p n).canDraw 16 1 := by
    obtain ⟨d, m, x, e⟩ := arrived.frame
    rw [e]
    exact draws
  have states : (s.arrive p n).streamState n ≠ stDisabled ∧ (s.arrive p n).streamState n ≠ stFaulted := by
    rw [arrived.state]
    split
    · exact ⟨by decide, by decide⟩
    · exact ⟨live, acts⟩
  have new := State.forgetEpoch_idle (arrived.carried.trans idle) states.1 states.2 draws'
  rw [y] at new
  intro u
  have e : u = (s.arrive p n).forgetEpoch n := by
    rw [← State.takeError_epoch code, ← State.evaluate_waiting (n := n) (s := (s.arrive p n).takeError n (frameContent f)) (by rw [State.takeError_epoch code]; exact new.1)]
    exact State.receive_error hp ok hk
  rw [e]
  exact new

end

/-- Settles O38: a frame is counted, checked and taken up by the lemmas of its type. -/
theorem framesReceived : Obligations.FramesReceived := by
  unfold Obligations.FramesReceived
  intro s port f n p b x rows up s1 ok dir seqd
  have hp : p < 256 := port.isLt
  have receives : ∀ i ∈ rows, exec i s = .next (s.receive p f) := by
    simp only [rows, List.forall_mem_cons]
    exact ⟨rfl, rfl, rfl, rfl, rfl, rfl, rfl, rfl, rfl, rfl, rfl, rfl, by simp⟩
  refine ⟨fun i hi => ⟨fun h => ?_, fun h form => ?_, fun h form length => ?_, fun h form length none => ?_, fun h form length stream refused => ?_⟩, fun hok hk seq i hi => ?_,
    fun hok hk hd hs moves whole first turn keep fits => ⟨_, rfl, State.receive_data hp hok hk hd hs.1 hs.2 moves whole first turn keep fits⟩,
    fun hok hk hd j r jobs closing current good one sent within last marks => ⟨_, rfl, State.receive_credit hp hok hk hd jobs closing current good one sent within last marks⟩,
    fun hok hk hd hs waiting steps records => ⟨_, rfl, State.receive_rate hp hok hk hd hs.1 hs.2 waiting steps records⟩,
    fun hok hk hd gliding stop records => ⟨_, rfl, State.receive_stop hp hok hk hd gliding stop records⟩,
    fun hok hk hd hs other => ⟨_, rfl, State.receive_endOther hp hok hk hd hs.1 hs.2 other⟩,
    fun hok hk hd hs turn keep j carries running op fresh unended => ?_,
    fun hok hk hd hs early j carries running op => ⟨_, rfl, (State.receive_endOfData hp hok hk hd hs.1 hs.2).1 early j carries running op⟩,
    fun hok hk hd hs held => ⟨_, rfl, (State.receive_endOfData hp hok hk hd hs.1 hs.2).2 held⟩,
    fun hok hk hd hs => ⟨_, rfl, State.receive_earlyWarning hp hok hk hd hs.1 hs.2⟩,
    fun hok hk hd acts idle => ⟨fun code => ⟨_, rfl, State.receive_mediumFault hp hok hk hd acts idle (.inl code)⟩, fun code => ⟨_, rfl, State.receive_mediumFault hp hok hk hd acts idle (.inr code)⟩⟩,
    fun hok hk hd acts code j carries running op => ⟨_, rfl, State.receive_mediumRead hp hok hk hd acts code carries running op⟩,
    fun hok hk code => ⟨_, rfl, State.receive_starved hp hok hk code⟩,
    fun hok hk code acts idle draws => ⟨_, rfl, State.receive_unknownEpoch hp hok hk code acts idle draws⟩⟩
  · rw [receives i hi, State.receive_down f h]
  · rw [receives i hi, State.receive_up hp h, if_pos form]
  · rw [receives i hi, State.receive_up hp h, if_neg (by simp [form]), if_pos length]
  · rw [receives i hi, State.receive_up hp h, if_neg (by simp [form]), if_neg (by simp [length]), none]
  · rw [receives i hi, State.receive_up hp h, if_neg (by simp [form]), if_neg (by simp [length]), stream]
    dsimp only
    rw [if_pos refused]
    rfl
  · have kinds : f.kind.toNat = 1 ∨ f.kind.toNat = 3 ∨ f.kind.toNat = 6 := by
      rcases hk with h | h | h
      · exact .inl (by rw [h]; rfl)
      · exact .inr (.inl (by rw [h]; rfl))
      · exact .inr (.inr (by rw [h]; rfl))
    obtain ⟨t, e, rx, jobs⟩ := State.receive_outOfOrder hp hok kinds seq
    refine ⟨_, receives i hi, ?_⟩
    have sends := t.evaluate_sends n
    rw [← e] at sends
    obtain ⟨rx', -⟩ := Stream.received_eq sends.received
    exact ⟨rx'.trans rx, sends.jobs.trans jobs⟩
  · obtain ⟨whole, short, long⟩ := State.receive_endObject hp hok hk hd hs.1 hs.2 turn keep carries running op fresh unended
    exact ⟨fun h => ⟨_, rfl, whole h⟩, fun h => ⟨_, rfl, short h⟩, fun h => ⟨_, rfl, long h⟩⟩

end Sys2Proof.Machine
end
section
/-! PROOFS. The fourth failed check of an object write (O9). -/

namespace Sys2Proof.Machine

/-- An object write (R89) at its first step on wick 0, replayed three times. -/
def lastWrite : Job :=
  { id := 0, slot := 0, count := 0, slice := 0, entry := { w0 := 0x8000070100000000, w1 := 0, w2 := 0, w3 := 0, w4 := 0, w5 := 0, w6 := 0, w7 := 0 },
    data := { keyA := [], keyB := [], keyC := [], keyD := [], recipients := [], input := [] }, phase := .running, status := 0, w6 := 0, output := [], keyOut := none, drawn := [],
    retries := 3, failed := [], units := [uWick 0], served := [], kept := [], check := [], build := none, taperRules := (4096, 4096),
    keyRules := { uses := 0, exportable := false, bindBlobs := false }, cycles := 0, taperCycles := 0, shroud := 0, waitsEntropy := false, snooped := [], steady := none, object := none }

/-- A unit with ready generators that runs this job alone; the shroud generator of wick 0 is keyed. -/
def lastAttempt : State :=
  { State.reset with
    entropy := { Entropy.reset with drbgs := [(0, { Drbg.off with ready := true }), (16, { Drbg.off with ready := true })] }
    wicks := [(0, { Wick.fresh with shroud := { Shroud.off with keyed := true } })]
    jobs := [lastWrite] }

theorem lastAttempt_runs : lastAttempt.attemptOf 0 0x0701 = some lastWrite ∧ lastWrite.object = none ∧ lastAttempt.canDraw lastWrite.instOf 3 ∧ lastAttempt.canDraw 16 3 ∧ lastAttempt.shroudReady lastWrite = true := by
  unfold State.canDraw
  exact ⟨rfl, by decide⟩

theorem lastAttempt_closes : ((lastAttempt.objectWrite 0 false).findJob 0).map (·.phase) = some .closing := by decide +kernel

/-- Refutes O9: the fourth failed check of OBJECT_WRITE fails the job, and a failed object write releases its VOID first (R92): its phase is `closing`, and no result is staged before the record is acknowledged. -/
theorem not_failedChecksReplay : ¬ Obligations.FailedChecksReplay := by
  unfold Obligations.FailedChecksReplay
  intro h
  obtain ⟨attempt, fresh, draws, draws16, shroud⟩ := lastAttempt_runs
  obtain ⟨t, e, ⟨j, found, staged, -⟩, -⟩ := (h lastAttempt 0 lastWrite (.objectWrite 0 false, 0x0701) (by simp) attempt fresh draws draws16 shroud).2 (by decide)
  have ends : lastAttempt.objectWrite 0 false = t := by injection e
  have closes := lastAttempt_closes
  rw [ends, found, Option.map_some, staged] at closes
  exact absurd closes (by decide)

end Sys2Proof.Machine
end

section
/-! PROOFS. A publication of a queue past the queue slots (O31). -/

namespace Sys2Proof.Machine

/-- A finished job without output, of a queue at place 3C00h. No QueueSlot has that place (R386): the key of its Published entry is the one of window 12 of slice 0. -/
def strayJob : Job :=
  { id := 0, slot := 0x3C00, count := 0xA11, slice := 0, entry := { w0 := 0x8000020200000000, w1 := 0, w2 := 0, w3 := 0, w4 := 0, w5 := 0, w6 := 0, w7 := 0 },
    data := { keyA := [], keyB := [], keyC := [], keyD := [], recipients := [], input := [] }, phase := .staged, status := 0, w6 := 0, output := [], keyOut := none, drawn := [],
    retries := 0, failed := [], units := [], served := [], kept := [], check := [], build := none, taperRules := (4096, 4096),
    keyRules := { uses := 0, exportable := false, bindBlobs := false }, cycles := 0, taperCycles := 0, shroud := 0, waitsEntropy := false, snooped := [], steady := none, object := none }

/-- A unit whose link 0 issues requests and that holds this job alone. The queue is ACTIVE and has published A11h entries; read as a window, that count grants writes of the first 2^40 bytes. -/
def strayPublication : State :=
  { State.reset with
    dict := [(Key.hostLinkLinkState 0, 2), (Key.sliceHostLink 0, 0), (Key.queueSlotState 0x3C00, qActive), (Key.queueSlotPublished 0x3C00, 0xA11)]
    fns := [(0, { HostFn.reset with pasidEnable := true })]
    jobs := [strayJob] }

/-- The unit after the publication. -/
def strayPublished : State := strayPublication.settleTurns.publish 0

theorem strayPublication_issues : (∀ k ∈ strayPublication.jobs, k.phase ≠ .turn) ∧ strayPublication.findJob 0 = some strayJob ∧ strayPublication.mayPublish strayJob = true ∧
    strayPublication.fnIssues (strayPublication.sliceLink strayJob.slice) = true := by
  refine ⟨?_, rfl, ?_⟩ <;> decide

/-- Every host write that the statement names is granted before the publication. -/
theorem strayPublication_allows : let c := (strayPublication.commit strayJob).countRefused strayJob
    strayPublication.outputBytes strayJob = [] ∧ c.queueState strayJob.slot = qActive ∧
    c.hostAllows strayJob.slice (c.entryAddr strayJob.slot (strayJob.count % c.ringSize strayJob.slot) + 48) 8 false true = true ∧
    c.hostAllows strayJob.slice (c.entryAddr strayJob.slot (strayJob.count % c.ringSize strayJob.slot)) 8 false true = true ∧
    (c.queue strayJob.slot).done = [] ∧ c.entry (Key.queueSlotPublished strayJob.slot) = strayJob.count % 2 ^ 32 ∧ c.slotSlice strayJob.slot = strayJob.slice ∧
    c.fnIssues (c.sliceLink strayJob.slice) = true ∧ c.hostAllows strayJob.slice (c.entry (Key.queueSlotStatusAddr strayJob.slot)) 16 false true = true := by
  decide

theorem strayPublished_writes : strayPublished.out.length = 2 := by decide +kernel

/-- Refutes O31: the published count goes on from A11h to A12h, which as a window is not valid, so the status block of the stray queue, granted before, may not be written any more: only w6 and w0 go out. The statement bounds no queue's place by the 2,048 slots of R386. -/
theorem not_publicationsAndCommits : ¬ Obligations.PublicationsAndCommits := by
  unfold Obligations.PublicationsAndCommits
  rintro ⟨publication, -, -⟩
  obtain ⟨settled, found, may, issues⟩ := strayPublication_issues
  obtain ⟨empty, active, w6, w0, done, count, slice, issues', status⟩ := strayPublication_allows
  obtain ⟨t, e, -, more, out, tells⟩ := (publication strayPublication 0 strayJob settled found may issues).2 (.inl empty) (.inl active) w6 w0
  obtain ⟨w, first, -⟩ := tells done count slice issues' status
  have published : strayPublished = t := by injection e
  have writes := strayPublished_writes
  rw [published, out] at writes
  cases more with
  | nil => exact absurd first (by simp)
  | cons a rest => simp at writes; omega

end Sys2Proof.Machine
end

section
/-! PROOFS. Requests on the shelf bus (O40): which frames are taken up (R543, R544), who is answered (R546 to R548), and what each dictionary operation answers (R545). -/

namespace Sys2Proof.Machine

/-! ### What is kept for a requester -/

@[simp] theorem State.bump_hop (s : State) (k : Nat) : (s.bump k).hop = s.hop := by
  obtain ⟨d, e⟩ := s.bump_dictOnly k
  rw [e]

@[simp] theorem State.bump_out (s : State) (k : Nat) : (s.bump k).out = s.out := by
  obtain ⟨d, e⟩ := s.bump_dictOnly k
  rw [e]

@[simp] theorem State.bump_requester (s : State) (k : Nat) (w : Requester) : (s.bump k).requester w = s.requester w := by
  simp [State.requester]

@[simp] theorem State.bump_hopSession (s : State) (k : Nat) (n : BitVec 32) : (s.bump k).hopSession n = s.hopSession n := by
  simp [State.hopSession]

@[simp] theorem State.bump_roomFor (s : State) (k : Nat) (w : Requester) : (s.bump k).roomFor w = s.roomFor w := by
  simp [State.roomFor]

@[simp] theorem State.requester_who (s : State) (w : Requester) : (s.requester w).who = w := by
  unfold State.requester
  cases h : s.hop.requesters.find? (fun r => r.who = w) with
  | none => rfl
  | some r => simpa using List.find?_some h

@[simp] theorem State.requester_setRequester (s : State) {r : RequesterState} {w : Requester} (h : r.who = w) : (s.setRequester r).requester w = r := by
  subst h
  have none : (s.hop.requesters.filter fun q => q.who ≠ r.who).find? (fun q => q.who = r.who) = none := by simp
  simp only [State.requester, State.setRequester, List.find?_append, none]
  simp

@[simp] theorem State.requester_emit (s : State) (e : Emission) (w : Requester) : (s.emit e).requester w = s.requester w := rfl

@[simp] theorem State.setRequester_out (s : State) (r : RequesterState) : (s.setRequester r).out = s.out := rfl

@[simp] theorem State.requester_noteSeq (s : State) (n seq : BitVec 32) (w : Requester) : (s.noteSeq n seq).requester w = s.requester w := rfl

@[simp] theorem State.setAssembly_out (s : State) (w : Requester) (a : Option (BitVec 24 × Bytes)) : (s.setAssembly w a).out = s.out := rfl

/-! ### Responses -/

/-- A response answers the frame with a result and data. -/
def Answers (s t : State) (f : HopFrame) (result : Nat) (data : Bytes) : Prop :=
  ∃ r : HopResponse, t.out = s.out ++ [.hop r] ∧ r.result = BitVec.ofNat 8 result ∧ r.data = data ∧ r.seq = f.seq ∧ r.op = f.op ∧ r.destination = f.source

/-- A reply that does not come later leaves at once (R547). -/
theorem State.respond_answers {s u : State} {w : Requester} {f : HopFrame} {key : Option Bytes} {r : HopReply} {result : Nat} {data : Bytes} (out : u.out = s.out) (now : r.later = false)
    (hr : r.result = result) (hd : r.data = data) : Answers s (u.respond w f key r) f result data := by
  subst hr hd
  refine ⟨hopResponse f key r, ?_, rfl, rfl, rfl, rfl, rfl⟩
  unfold State.respond
  rw [if_neg (by rw [now]; decide), ← out]
  rfl

theorem State.respond_later_out (s : State) (w : Requester) (f : HopFrame) (key : Option Bytes) {r : HopReply} (later : r.later = true) : (s.respond w f key r).out = s.out := by
  unfold State.respond
  rw [if_pos later]
  rfl

/-- Only the dictionary, what the bus keeps, and what has left the device differ. -/
def BusOnly (s t : State) : Prop := ∃ d h o, t = { s with dict := d, hop := h, out := o }

theorem BusOnly.restore {s t : State} (h : BusOnly s t) : { t with out := s.out, hop := s.hop, dict := s.dict } = s := by
  obtain ⟨d, h, o, rfl⟩ := h
  rfl

theorem BusOnly.jobs {s t : State} (h : BusOnly s t) : t.jobs = s.jobs := by
  obtain ⟨d, h, o, rfl⟩ := h
  rfl

theorem BusOnly.trans {s t u : State} (h : BusOnly s t) (k : BusOnly t u) : BusOnly s u := by
  obtain ⟨d, h, o, rfl⟩ := h
  exact k

theorem State.bump_busOnly (s : State) (k : Nat) : BusOnly s (s.bump k) := by
  obtain ⟨d, e⟩ := s.bump_dictOnly k
  exact ⟨d, s.hop, s.out, e⟩

theorem State.noteSeq_busOnly (s : State) (n seq : BitVec 32) : BusOnly s (s.noteSeq n seq) := ⟨s.dict, _, s.out, rfl⟩

theorem State.setAssembly_busOnly (s : State) (w : Requester) (a : Option (BitVec 24 × Bytes)) : BusOnly s (s.setAssembly w a) := ⟨s.dict, _, s.out, rfl⟩

theorem State.respond_busOnly (s : State) (w : Requester) (f : HopFrame) (key : Option Bytes) (r : HopReply) : BusOnly s (s.respond w f key r) := by
  unfold State.respond
  by_cases later : r.later = true
  · rw [if_pos later]
    exact ⟨s.dict, _, s.out, rfl⟩
  · rw [if_neg later]
    exact ⟨s.dict, _, _, rfl⟩

theorem State.respond_sessions (s : State) (w : Requester) (f : HopFrame) (key : Option Bytes) (r : HopReply) : (s.respond w f key r).hop.sessions = s.hop.sessions := by
  unfold State.respond
  by_cases later : r.later = true
  · rw [if_pos later]
    rfl
  · rw [if_neg later]
    rfl

@[simp] theorem State.respond_snapshot (s : State) (w : Requester) (f : HopFrame) (key : Option Bytes) (r : HopReply) : ((s.respond w f key r).requester w).snapshot = (s.requester w).snapshot := by
  unfold State.respond
  by_cases later : r.later = true
  · rw [if_pos later]
    simp
  · rw [if_neg later]
    simp

/-! ### Which frames are taken up -/

section
variable {s : State} {f : HopFrame} {code : Nat}

/-- A server and the system clock serve the bus (R36, R665). -/
def State.hopUp (s : State) : Prop := s.hop.server.isSome = true ∧ s.supplies.sysclk = true

/-- A frame of an operation that is taken up (R543, R544). -/
def HopTaken (s : State) (f : HopFrame) (code : Nat) : Prop := s.hopUp ∧ f.op.toNat = code ∧ s.hopDrops f = false ∧ hopAddressed f = true

theorem unserved_of (h : ¬s.hopUp ∨ f.op.toNat ≠ code) : (s.hop.server.isNone || !s.supplies.sysclk || decide (f.op.toNat ≠ code)) = true := by
  unfold State.hopUp at h
  cases hs : s.hop.server <;> cases hc : s.supplies.sysclk <;> simp_all

theorem served_of (up : s.hopUp) (op : f.op.toNat = code) : (s.hop.server.isNone || !s.supplies.sysclk || decide (f.op.toNat ≠ code)) = false := by
  obtain ⟨server, clock⟩ := up
  cases hs : s.hop.server <;> simp_all

theorem State.hopReceive_unserved (op : HopOp) (h : ¬s.hopUp ∨ f.op.toNat ≠ code) : s.hopReceive f code op = s := by
  unfold State.hopReceive
  rw [if_pos (unserved_of h)]

theorem State.hopReceive_dropped (op : HopOp) (up : s.hopUp) (ho : f.op.toNat = code) (drops : s.hopDrops f = true) : s.hopReceive f code op = s.bump Key.shelfBusFramesDropped := by
  unfold State.hopReceive
  rw [if_neg (by rw [served_of up ho]; decide), if_pos drops]

theorem State.hopReceive_unaddressed (op : HopOp) (up : s.hopUp) (ho : f.op.toNat = code) (drops : s.hopDrops f = false) (other : hopAddressed f = false) : s.hopReceive f code op = s := by
  unfold State.hopReceive
  rw [if_neg (by rw [served_of up ho]; decide), if_neg (by rw [drops]; decide), if_pos (by rw [other]; rfl)]

theorem State.hopReceive_taken (op : HopOp) (h : HopTaken s f code) :
    s.hopReceive f code op = if f.session = 0 || f.op = 5 then (s.bump Key.shelfBusFramesReceived).serveAddress f op else s.serveSession f op := by
  obtain ⟨up, ho, drops, addressed⟩ := h
  unfold State.hopReceive
  rw [if_neg (by rw [served_of up ho]; decide), if_neg (by rw [drops]; decide), if_neg (by rw [addressed]; decide)]

theorem State.hopReceive_plain (op : HopOp) (h : HopTaken s f code) (outside : f.session = 0) : s.hopReceive f code op = (s.bump Key.shelfBusFramesReceived).serveAddress f op := by
  rw [State.hopReceive_taken op h, if_pos (by simp [outside])]

theorem State.hopReceive_session (op : HopOp) (h : HopTaken s f code) (inside : f.session ≠ 0) (other : code ≠ 5) : s.hopReceive f code op = s.serveSession f op := by
  have not5 : f.op ≠ 5 := fun e => other (by rw [← h.2.1, e]; rfl)
  rw [State.hopReceive_taken op h, if_neg (by simpa using ⟨inside, not5⟩)]

/-! ### Serving a requester -/

theorem State.serveAddress_repeat (op : HopOp) (again : (s.requester (.address f.source)).lastSeq = some f.seq) {a : HopResponse} (kept : (s.requester (.address f.source)).lastResponse = some a) :
    s.serveAddress f op = s.emit (.hop a) := by
  unfold State.serveAddress
  dsimp only
  rw [if_pos again, kept]

theorem State.serveAddress_new (op : HopOp) (fresh : (s.requester (.address f.source)).lastSeq ≠ some f.seq) :
    s.serveAddress f op = (op (.address f.source) f s).2 ((op (.address f.source) f s).1.2.respond (.address f.source) f none (op (.address f.source) f s).1.1) := by
  unfold State.serveAddress
  dsimp only
  rw [if_neg fresh]

theorem State.serveSession_unknown (op : HopOp) (unknown : s.hopSession f.session = none) :
    s.serveSession f op = (s.bump Key.shelfBusFramesReceived).emit (.hop (hopResponse f none (hopResult f drAuth))) := by
  unfold State.serveSession
  rw [unknown]

/-- The tag of a session's request is right (R550). -/
def HopTagged (f : HopFrame) (x : HopSession) : Prop :=
  HopIn.auth f = true ∧ f.tag = hopTag x.key f.destination f.source (hopHeader f.op.toNat f.flags.toNat f.result.toNat f.session f.seq f.index.toNat f.sub.toNat f.offset.toNat f.length.toNat) f.data

theorem State.serveSession_mistagged (op : HopOp) {x : HopSession} (known : s.hopSession f.session = some x) (wrong : ¬HopTagged f x) : s.serveSession f op = s.bump Key.shelfBusTagFailures := by
  unfold State.serveSession
  rw [known]
  dsimp only
  refine if_pos ?_
  cases ha : HopIn.auth f with
  | false => rfl
  | true => simpa using fun e => wrong ⟨ha, e⟩

theorem State.serveSession_new (op : HopOp) {x : HopSession} (known : s.hopSession f.session = some x) (tagged : HopTagged f x) (fresh : (s.requester (.session x.number)).lastSeq ≠ some f.seq)
    (later : x.lastSeq.toNat < f.seq.toNat) :
    let s1 := (s.bump Key.shelfBusFramesReceived).noteSeq x.number f.seq
    s.serveSession f op = (op (.session x.number) f s1).2 ((op (.session x.number) f s1).1.2.respond (.session x.number) f (some x.key) (op (.session x.number) f s1).1.1) := by
  unfold State.serveSession
  rw [known]
  obtain ⟨auth, tag⟩ := tagged
  dsimp only
  rw [if_neg (by simp [auth, ← tag]), if_neg (by simpa using fresh), if_neg (by simp; omega)]

end

/-! ### What every operation does with a frame -/

/-- How a command of the shelf bus treats frames of its operation before the operation itself. -/
structure HopFront (i : Instr) (s : State) (f : HopFrame) (code : Nat) : Prop where
  unserved : ¬s.hopUp ∨ f.op.toNat ≠ code → exec i s = .next s
  dropped : s.hopUp → f.op.toNat = code → s.hopDrops f = true → exec i s = .next (s.bump Key.shelfBusFramesDropped)
  unaddressed : s.hopUp → f.op.toNat = code → s.hopDrops f = false → hopAddressed f = false → exec i s = .next s
  repeated : HopTaken s f code → f.session = 0 → (s.requester (.address f.source)).lastSeq = some f.seq → ∀ a, (s.requester (.address f.source)).lastResponse = some a →
    exec i s = .next ((s.bump Key.shelfBusFramesReceived).emit (.hop a))
  unknown : HopTaken s f code → f.session ≠ 0 → code ≠ 5 → s.hopSession f.session = none → Completes i s fun t => Answers s t f drAuth [] ∧ t.hop = s.hop
  mistagged : HopTaken s f code → f.session ≠ 0 → code ≠ 5 → ∀ x, s.hopSession f.session = some x → ¬HopTagged f x → exec i s = .next (s.bump Key.shelfBusTagFailures)

theorem HopFront.of_receive {i : Instr} {s : State} {f : HopFrame} {code : Nat} (op : HopOp) (e : exec i s = .next (s.hopReceive f code op)) : HopFront i s f code where
  unserved h := by rw [e, State.hopReceive_unserved op h]
  dropped up ho drops := by rw [e, State.hopReceive_dropped op up ho drops]
  unaddressed up ho drops other := by rw [e, State.hopReceive_unaddressed op up ho drops other]
  repeated h outside again a kept := by
    rw [e, State.hopReceive_plain op h outside, State.serveAddress_repeat op (by simpa using again) (by simpa using kept)]
  unknown h inside other missing := by
    refine ⟨_, e, ?_⟩
    rw [State.hopReceive_session op h inside other, State.serveSession_unknown op missing]
    exact ⟨⟨hopResponse f none (hopResult f drAuth), by simp [State.emit], rfl, rfl, rfl, rfl, rfl⟩, s.bump_hop _⟩
  mistagged h inside other x known wrong := by
    rw [e, State.hopReceive_session op h inside other, State.serveSession_mistagged op known wrong]

/-- AUTH_FINISH is taken up by its own command, which never serves a session (R546). -/
theorem HopFront.authFinish (s : State) (f : HopFrame) : HopFront (.authFinish f) s f 5 := by
  have op5 : f.op ≠ 5 ↔ f.op.toNat ≠ 5 := not_congr (BitVec.toNat_inj (y := 5#8)).symm
  have e : exec (.authFinish f) s = .next (
      if s.hop.server.isNone || !s.supplies.sysclk || decide (f.op.toNat ≠ 5) then s
      else if s.hopDrops f then s.bump Key.shelfBusFramesDropped
      else if !hopAddressed f then s
      else (s.bump Key.shelfBusFramesReceived).authFinish f) := by
    rw [show exec (.authFinish f) s = execAuthFinish f s from rfl]
    unfold execAuthFinish
    simp only [op5]
  constructor
  case unserved => intro h; rw [e, if_pos (unserved_of h)]
  case dropped => intro up ho drops; rw [e, if_neg (by rw [served_of up ho]; decide), if_pos drops]
  case unaddressed => intro up ho drops other; rw [e, if_neg (by rw [served_of up ho]; decide), if_neg (by rw [drops]; decide), if_pos (by rw [other]; rfl)]
  case repeated =>
    rintro ⟨up, ho, drops, addressed⟩ - again a kept
    rw [e, if_neg (by rw [served_of up ho]; decide), if_neg (by rw [drops]; decide), if_neg (by rw [addressed]; decide)]
    unfold State.authFinish
    simp [again, kept]
  case unknown => exact fun _ _ other => absurd rfl other
  case mistagged => exact fun _ _ other => absurd rfl other

/-- A frame taken up outside a session, under a SEQ that is not the last one. -/
theorem completes_plain {i : Instr} {s : State} {f : HopFrame} {code : Nat} (op : HopOp) (e : exec i s = .next (s.hopReceive f code op)) (h : HopTaken s f code) (outside : f.session = 0)
    (fresh : (s.requester (.address f.source)).lastSeq ≠ some f.seq) {p : State → Prop}
    (served : let r := op (.address f.source) f (s.bump Key.shelfBusFramesReceived); p (r.2 (r.1.2.respond (.address f.source) f none r.1.1))) : Completes i s p := by
  refine ⟨_, e, ?_⟩
  rw [State.hopReceive_plain op h outside, State.serveAddress_new op (by simpa using fresh)]
  exact served

/-! ### READ and WRITE -/

section
variable {s : State} {f : HopFrame} {w : Requester}

theorem State.hopReadOp_refused (h : s.judgeRead (hopPath w) f.index.toNat f.sub.toNat ≠ drOk) :
    s.hopReadOp w f = (hopResult f (s.judgeRead (hopPath w) f.index.toNat f.sub.toNat), s) := by
  unfold State.hopReadOp
  dsimp only
  rw [if_pos h]

/-- A requester's snapshot is taken (R546). -/
def State.takeSnapshot (s : State) (w : Requester) (e : BitVec 24 × Bytes) : State := s.setRequester { s.requester w with snapshot := some e }

theorem State.takeSnapshot_out (s : State) (w : Requester) (e : BitVec 24 × Bytes) : (s.takeSnapshot w e).out = s.out := rfl

theorem State.takeSnapshot_snapshot (s : State) (w : Requester) (e : BitVec 24 × Bytes) : ((s.takeSnapshot w e).requester w).snapshot = some e := by
  simp [State.takeSnapshot]

theorem State.hopReadOp_first (h : s.judgeRead (hopPath w) f.index.toNat f.sub.toNat = drOk) (start : f.offset = 0) (room : s.roomFor w = true) :
    s.hopReadOp w f = (hopSlice f (s.readBytes f.index.toNat f.sub.toNat), s.takeSnapshot w (hopEntry f, s.readBytes f.index.toNat f.sub.toNat)) := by
  unfold State.hopReadOp
  dsimp only
  rw [if_neg (by simp [h]), if_pos start, if_neg (by simp [room])]
  rfl

theorem State.hopReadOp_stray (h : s.judgeRead (hopPath w) f.index.toNat f.sub.toNat = drOk) (later : f.offset ≠ 0) (none : (s.requester w).snapshot = none) :
    s.hopReadOp w f = (hopResult f drOffset, s) := by
  unfold State.hopReadOp
  dsimp only
  rw [if_neg (by simp [h]), if_neg later, none]

/-- The operation of a WRITE. -/
def hopWriteOp : HopOp := fun w f s =>
  if s.hop.server = some .pilot then ((hopResult f (s.judgeWrite (hopPath w) f.index.toNat f.sub.toNat f.data), s), id)
  else match s.assemble w f (hopEntry f) with
    | none => ((hopResult f drOffset, s.setAssembly w none), id)
    | some v =>
      if !HopIn.more f then s.hopApply w f v
      else if s.roomFor w then ((hopResult f drOk, s.setAssembly w (some (hopEntry f, v))), id)
      else ((hopResult f drBusy, s), id)

theorem exec_hopWrite (s : State) (f : HopFrame) : exec (.hopWrite f) s = .next (s.hopReceive f 2 hopWriteOp) := rfl

theorem exec_hopRead (s : State) (f : HopFrame) : exec (.hopRead f) s = .next (s.hopReceive f 1 fun w f s => (s.hopReadOp w f, id)) := rfl

theorem exec_hopInfo (s : State) (f : HopFrame) : exec (.hopInfo f) s = .next (s.hopReceive f 3 fun w f s =>
    (({ result := (s.infoOp (hopPath w) f.index.toNat f.sub.toNat).1, more := false, data := (s.infoOp (hopPath w) f.index.toNat f.sub.toNat).2, session := f.session }, s), id)) := rfl

theorem exec_discover (s : State) (f : HopFrame) : exec (.discover f) s = .next (s.hopReceive f 8 fun _ f s => (({ result := drOk, more := false, data := s.discoverBytes, session := f.session }, s), id)) := rfl

/-- A value of one fragment is judged at once (R546). -/
theorem hopWriteOp_whole (server : s.hop.server = some .firmware) (start : f.offset = 0) (last : HopIn.more f = false) : hopWriteOp w f s = s.hopApply w f f.data := by
  have whole : s.assemble w f (hopEntry f) = some f.data := by unfold State.assemble; rw [if_pos start]
  unfold hopWriteOp
  rw [if_neg (by simp [server]), whole]
  dsimp only
  rw [if_pos (by simp [last])]

/-- A value that the checks refuse (R531). -/
theorem State.hopApply_refused {v : Bytes} (h : s.judgeWrite (hopPath w) f.index.toNat f.sub.toNat v ≠ drOk) :
    s.hopApply w f v = ((hopResult f (s.judgeWrite (hopPath w) f.index.toNat f.sub.toNat v), s.setAssembly w none), id) := by
  unfold State.hopApply
  dsimp only
  rw [if_pos h]

/-- An accepted value: the write follows the response, or the response the write where it completes late (R468, R552). -/
theorem State.hopApply_accepted {v : Bytes} (h : s.judgeWrite (hopPath w) f.index.toNat f.sub.toNat v = drOk) :
    s.hopApply w f v = (({ hopResult f drOk with later := isLate f.index.toNat f.sub.toNat }, s.setAssembly w none),
      fun t => if isLate f.index.toNat f.sub.toNat = true then t.lateWrite f.index.toNat f.sub.toNat (leNat v) (.hop w f) else t.applyWrite f.index.toNat f.sub.toNat v) := by
  unfold State.hopApply
  dsimp only
  rw [if_neg (by simp [h]), h]
  by_cases late : isLate f.index.toNat f.sub.toNat = true
  · simp [late]
  · simp [late, hopResult]

/-- The state in which an accepted value is answered, before the write takes effect. -/
def State.answersWrite (s : State) (w : Requester) (f : HopFrame) (key : Option Bytes) : State :=
  (s.setAssembly w none).respond w f key { hopResult f drOk with later := isLate f.index.toNat f.sub.toNat }

theorem State.answersWrite_busOnly (s : State) (w : Requester) (f : HopFrame) (key : Option Bytes) : BusOnly s (s.answersWrite w f key) := (s.setAssembly_busOnly w none).trans (State.respond_busOnly _ w f key _)

theorem State.answersWrite_sessions (s : State) (w : Requester) (f : HopFrame) (key : Option Bytes) : (s.answersWrite w f key).hop.sessions = s.hop.sessions := State.respond_sessions _ w f key _

/-- An accepted WRITE is answered at once, unless it completes late (R468, R552). -/
theorem State.answersWrite_out {u : State} (out : u.out = s.out) (key : Option Bytes) :
    if isLate f.index.toNat f.sub.toNat = true then (u.answersWrite w f key).out = s.out else Answers s (u.answersWrite w f key) f drOk [] := by
  by_cases late : isLate f.index.toNat f.sub.toNat = true
  · rw [if_pos late]
    exact (State.respond_later_out _ w f key late).trans out
  · rw [if_neg late]
    exact State.respond_answers out (Bool.eq_false_iff.mpr late) rfl rfl

theorem hopWriteOp_accepted (server : s.hop.server = some .firmware) (start : f.offset = 0) (last : HopIn.more f = false) (allowed : s.judgeWrite (hopPath w) f.index.toNat f.sub.toNat f.data = drOk) (key : Option Bytes) :
    (hopWriteOp w f s).2 ((hopWriteOp w f s).1.2.respond w f key (hopWriteOp w f s).1.1) =
      if isLate f.index.toNat f.sub.toNat = true then (s.answersWrite w f key).lateWrite f.index.toNat f.sub.toNat (leNat f.data) (.hop w f) else (s.answersWrite w f key).applyWrite f.index.toNat f.sub.toNat f.data := by
  rw [hopWriteOp_whole server start last, State.hopApply_accepted allowed]
  rfl

/-- An accepted WRITE in a session: what follows its answer. -/
theorem exec_hopWrite_accepted {x : HopSession} (taken : HopTaken s f 2) (server : s.hop.server = some .firmware) (start : f.offset = 0) (last : HopIn.more f = false) (inside : f.session ≠ 0)
    (known : s.hopSession f.session = some x) (tagged : HopTagged f x) (fresh : (s.requester (.session x.number)).lastSeq ≠ some f.seq) (later : x.lastSeq.toNat < f.seq.toNat)
    (allowed : ((s.bump Key.shelfBusFramesReceived).noteSeq x.number f.seq).judgeWrite (.hopSession x.number) f.index.toNat f.sub.toNat f.data = drOk) :
    let u := ((s.bump Key.shelfBusFramesReceived).noteSeq x.number f.seq).answersWrite (.session x.number) f (some x.key)
    exec (.hopWrite f) s = .next (if isLate f.index.toNat f.sub.toNat = true then u.lateWrite f.index.toNat f.sub.toNat (leNat f.data) (.hop (.session x.number) f) else u.applyWrite f.index.toNat f.sub.toNat f.data) := by
  have firmware : ((s.bump Key.shelfBusFramesReceived).noteSeq x.number f.seq).hop.server = some .firmware := (congrArg Hop.server (s.bump_hop _)).trans server
  have served := State.serveSession_new hopWriteOp known tagged fresh later
  dsimp only at served ⊢
  rw [exec_hopWrite, State.hopReceive_session _ taken inside (by decide), served, hopWriteOp_accepted (w := .session x.number) firmware start last allowed]

end

section
variable {s : State} {f : HopFrame}

/-- A frame taken up outside a session under a SEQ that is not its requester's last. -/
def HopPlain (s : State) (f : HopFrame) (code : Nat) : Prop := HopTaken s f code ∧ f.session = 0 ∧ (s.requester (.address f.source)).lastSeq ≠ some f.seq

theorem hopRead_refused (h : HopPlain s f 1) (refused : (s.bump Key.shelfBusFramesReceived).judgeRead .hopPlain f.index.toNat f.sub.toNat ≠ drOk) :
    Completes (.hopRead f) s fun t => Answers s t f ((s.bump Key.shelfBusFramesReceived).judgeRead .hopPlain f.index.toNat f.sub.toNat) [] := by
  obtain ⟨taken, outside, fresh⟩ := h
  refine completes_plain _ (exec_hopRead s f) taken outside fresh ?_
  dsimp only [id]
  rw [State.hopReadOp_refused refused]
  exact State.respond_answers (s.bump_out _) rfl rfl rfl

theorem hopRead_first (h : HopPlain s f 1) (allowed : (s.bump Key.shelfBusFramesReceived).judgeRead .hopPlain f.index.toNat f.sub.toNat = drOk) (start : f.offset = 0) (room : s.roomFor (.address f.source) = true) :
    Completes (.hopRead f) s fun t => Answers s t f drOk (((s.bump Key.shelfBusFramesReceived).readBytes f.index.toNat f.sub.toNat).take 1456) ∧
      (t.requester (.address f.source)).snapshot = some (hopEntry f, (s.bump Key.shelfBusFramesReceived).readBytes f.index.toNat f.sub.toNat) := by
  obtain ⟨taken, outside, fresh⟩ := h
  refine completes_plain _ (exec_hopRead s f) taken outside fresh ?_
  dsimp only [id]
  rw [State.hopReadOp_first allowed start ((s.bump_roomFor _ _).trans room)]
  refine ⟨State.respond_answers ((State.takeSnapshot_out _ _ _).trans (s.bump_out _)) rfl rfl (by simp [hopSlice, start]), ?_⟩
  rw [State.respond_snapshot, State.takeSnapshot_snapshot]

theorem hopRead_stray (h : HopPlain s f 1) (allowed : (s.bump Key.shelfBusFramesReceived).judgeRead .hopPlain f.index.toNat f.sub.toNat = drOk) (later : f.offset ≠ 0) (missing : (s.requester (.address f.source)).snapshot = none) :
    Completes (.hopRead f) s fun t => Answers s t f drOffset [] := by
  obtain ⟨taken, outside, fresh⟩ := h
  refine completes_plain _ (exec_hopRead s f) taken outside fresh ?_
  dsimp only [id]
  rw [State.hopReadOp_stray allowed later (by rw [State.bump_requester, missing])]
  exact State.respond_answers (s.bump_out _) rfl rfl rfl

theorem hopWrite_refused (h : HopPlain s f 2) (server : s.hop.server = some .firmware) (start : f.offset = 0) (last : HopIn.more f = false)
    (refused : (s.bump Key.shelfBusFramesReceived).judgeWrite .hopPlain f.index.toNat f.sub.toNat f.data ≠ drOk) :
    Completes (.hopWrite f) s fun t => Answers s t f ((s.bump Key.shelfBusFramesReceived).judgeWrite .hopPlain f.index.toNat f.sub.toNat f.data) [] := by
  obtain ⟨taken, outside, fresh⟩ := h
  refine completes_plain _ (exec_hopWrite s f) taken outside fresh ?_
  dsimp only
  rw [hopWriteOp_whole ((congrArg Hop.server (s.bump_hop _)).trans server) start last, State.hopApply_refused refused]
  dsimp only [id]
  exact State.respond_answers (s.bump_out _) rfl rfl rfl

theorem hopInfo_answers (h : HopPlain s f 3) :
    Completes (.hopInfo f) s fun t => Answers s t f ((s.bump Key.shelfBusFramesReceived).infoOp .hopPlain f.index.toNat f.sub.toNat).1 ((s.bump Key.shelfBusFramesReceived).infoOp .hopPlain f.index.toNat f.sub.toNat).2 := by
  obtain ⟨taken, outside, fresh⟩ := h
  refine completes_plain _ (exec_hopInfo s f) taken outside fresh ?_
  dsimp only [id]
  exact State.respond_answers (s.bump_out _) rfl rfl rfl

theorem discover_answers (h : HopPlain s f 8) : Completes (.discover f) s fun t => Answers s t f drOk (s.bump Key.shelfBusFramesReceived).discoverBytes ∧ t.jobs = s.jobs := by
  obtain ⟨taken, outside, fresh⟩ := h
  refine completes_plain _ (exec_discover s f) taken outside fresh ?_
  dsimp only [id]
  exact ⟨State.respond_answers (s.bump_out _) rfl rfl rfl, ((s.bump_busOnly _).trans (State.respond_busOnly _ _ _ _ _)).jobs⟩

theorem hopFronts (s : State) (f : HopFrame) :
    ∀ r ∈ [(Instr.hopRead f, 1), (.hopWrite f, 2), (.hopInfo f, 3), (.authBegin f, 4), (.authFinish f, 5), (.authEnd f, 6), (.hopWake f, 7), (.discover f, 8)], HopFront r.1 s f r.2 := by
  simp only [List.forall_mem_cons]
  exact ⟨.of_receive _ rfl, .of_receive _ rfl, .of_receive _ rfl, .of_receive _ rfl, .authFinish s f, .of_receive _ rfl, .of_receive _ rfl, .of_receive _ rfl, by simp⟩

end

/-- Settles O40: a frame's fate before its operation is the same for all eight commands (`HopFront`); a taken one is answered by what its operation's reply says. -/
theorem hopRequests : Obligations.HopRequests := by
  unfold Obligations.HopRequests
  intro s f
  dsimp only
  refine ⟨fun r hr => ?_, fun plain => ⟨hopRead_refused plain, hopRead_first plain, hopRead_stray plain⟩, fun plain => hopWrite_refused plain, ?_, fun plain => hopInfo_answers plain, fun plain => discover_answers plain⟩
  · obtain ⟨unserved, dropped, unaddressed, repeated, unknown, mistagged⟩ := hopFronts s f r hr
    exact ⟨unserved, dropped, unaddressed, repeated, unknown, fun h inside other x known wrong => mistagged h inside other x known fun ⟨auth, tag⟩ => wrong.elim (fun no => absurd auth (by simp [no])) (fun no => no tag)⟩
  · intro taken server start last x inside known auth tag fresh later allowed
    have only := ((s.bump_busOnly Key.shelfBusFramesReceived).trans (State.noteSeq_busOnly _ x.number f.seq)).trans (State.answersWrite_busOnly _ (.session x.number) f (some x.key))
    have written := exec_hopWrite_accepted taken server start last inside known ⟨auth, tag⟩ fresh later allowed
    have answered := State.answersWrite_out (s := s) (w := .session x.number) (f := f) (u := (s.bump Key.shelfBusFramesReceived).noteSeq x.number f.seq) (s.bump_out _) (some x.key)
    have sessions := State.answersWrite_sessions ((s.bump Key.shelfBusFramesReceived).noteSeq x.number f.seq) (.session x.number) f (some x.key)
    generalize ((s.bump Key.shelfBusFramesReceived).noteSeq x.number f.seq).answersWrite (.session x.number) f (some x.key) = u at only written answered sessions
    exact ⟨u, written, answered, only.restore, sessions⟩

end Sys2Proof.Machine
end

section
/-! PROOFS. What the evaluation of one stream reaches (R429 to R442): its own place, its own entries, what is sent, and on egress which records it holds. -/

namespace Sys2Proof.Machine

/-! ### What the evaluation of a stream reaches -/

/-- Only stream n, entries of its object (R453), what has left the device, and the time of the last activity differ. -/
structure Paces (n : Nat) (s t : State) : Prop where
  frame : ∃ m d o a, t = { s with streams := m, dict := d, out := o, activityAt := a }
  entry : ∀ e, e / 256 ≠ 0x7400 + n → t.entry e = s.entry e
  stream : ∀ k, k ≠ n → t.stream k = s.stream k
  out : s.out <+: t.out

variable {n : Nat} {s t u : State}

theorem Paces.refl (n : Nat) (s : State) : Paces n s s := ⟨⟨_, _, _, _, rfl⟩, fun _ _ => rfl, fun _ _ => rfl, List.prefix_rfl⟩

theorem Paces.trans (h : Paces n s t) (k : Paces n t u) : Paces n s u where
  frame := by
    obtain ⟨m, d, o, a, e⟩ := h.frame
    obtain ⟨m', d', o', a', e'⟩ := k.frame
    exact ⟨m', d', o', a', by rw [e', e]⟩
  entry e he := (k.entry e he).trans (h.entry e he)
  stream i hi := (k.stream i hi).trans (h.stream i hi)
  out := h.out.trans k.out

theorem Paces.of_stream (x : Stream) : Paces n s (s.setStream n x) :=
  ⟨⟨_, _, _, _, rfl⟩, fun _ _ => rfl, fun _ h => State.stream_setStream_other s n x h, List.prefix_rfl⟩

theorem Paces.of_entry {sub : Nat} (h : sub < 256) (v : Nat) : Paces n s (s.setEntry ((0x7400 + n) * 256 + sub) v) :=
  ⟨⟨_, _, _, _, rfl⟩, fun e he => State.entry_setEntry_other _ _ _ (by omega), fun _ _ => rfl, List.prefix_rfl⟩

theorem Paces.of_bump {sub : Nat} (h : sub < 256) : Paces n s (s.bump ((0x7400 + n) * 256 + sub)) := by
  have entry (e : Nat) (he : e / 256 ≠ 0x7400 + n) := s.entry_bump_elsewhere (k := (0x7400 + n) * 256 + sub) (e := e) (by omega)
  obtain ⟨d, only⟩ := s.bump_dictOnly ((0x7400 + n) * 256 + sub)
  rw [only] at entry ⊢
  exact ⟨⟨_, _, _, _, rfl⟩, entry, fun _ _ => rfl, List.prefix_rfl⟩

theorem Paces.of_state (v : Nat) : Paces n s (s.setStreamState n v) := by
  refine Paces.trans (t := if s.streamState n = stMoving || s.streamState n = stGliding then { s with activityAt := s.timestamp } else s) ?_ (.of_entry (by decide) v)
  split
  · exact ⟨⟨_, _, _, _, rfl⟩, fun _ _ => rfl, fun _ _ => rfl, List.prefix_rfl⟩
  · exact .refl n s

theorem State.issueFrame_paces (s : State) (n : Nat) (f : SentFrame) : Paces n s (s.issueFrame f) := by
  unfold State.issueFrame
  split
  · exact ⟨⟨_, _, _, _, rfl⟩, fun _ _ => rfl, fun _ _ => rfl, List.prefix_append _ _⟩
  · exact .refl n s

theorem State.sendSeq_paces (s : State) (n kind flags : Nat) (body : Bytes) : Paces n s (s.sendSeq n kind flags body) :=
  (Paces.of_stream _).trans (State.issueFrame_paces _ n _)

theorem State.sendDim_paces (s : State) (n j : Nat) : Paces n s (s.sendDim n j) :=
  ((s.sendSeq_paces n _ _ _).trans (.of_entry (by decide) j)).trans (.of_bump (by decide))

theorem State.sendResume_paces (s : State) (n j : Nat) (r : BitVec 32) (stop : Option (BitVec 32)) (off : Nat) : Paces n s (s.sendResume n j r stop off) :=
  (s.sendSeq_paces n _ _ _).trans (.of_bump (by decide))

theorem State.startStep_paces (s : State) (n j : Nat) (r : BitVec 32) (stop : Option (BitVec 32)) : Paces n s (s.startStep n j r stop) :=
  (((s.sendResume_paces n j r stop 0).trans (.of_stream _)).trans (.of_entry (by decide) j)).trans (.of_state _)

theorem State.sendGlide_paces (s : State) (n : Nat) (stop : BitVec 32) : Paces n s (s.sendGlide n stop) :=
  (((s.sendSeq_paces n _ _ _).trans (.of_stream _)).trans (.of_state _)).trans (.of_bump (by decide))

theorem sendFrames_paces (n : Nat) (rsn : BitVec 32) (fuel : Nat) (s : State) : Paces n s (sendFrames n rsn fuel s) := by
  induction fuel generalizing s with
  | zero => exact .refl n s
  | succ k ih =>
    unfold sendFrames
    extract_lets x
    split
    · exact .refl n s
    · extract_lets left body data first last upd y z
      split
      · exact .refl n s
      · exact ((Paces.of_stream z).trans (State.sendSeq_paces _ _ _ _ _)).trans (ih _)

theorem sendRecords_paces (n : Nat) (rs : List StreamRecord) (s : State) : Paces n s (sendRecords n rs s) := by
  induction rs generalizing s with
  | nil => exact .refl n s
  | cons r rest ih =>
    have sent := sendFrames_paces n r.rsn (r.bytes.length + 1) s
    unfold sendRecords
    extract_lets stop t
    split
    · exact .refl n s
    · split
      · split
        · exact sent
        · exact sent.trans (ih _)
      · exact sent.trans (ih _)

theorem Paces.foldl {α : Type} {f : State → α → State} (hf : ∀ t a, Paces n t (f t a)) (l : List α) (s : State) : Paces n s (l.foldl f s) := by
  induction l generalizing s with
  | nil => exact .refl n s
  | cons a l ih => exact (hf s a).trans (ih _)

theorem State.sendMarks_paces (s : State) (n : Nat) : Paces n s (s.sendMarks n) := by
  unfold State.sendMarks
  extract_lets x
  split
  · exact .refl n s
  · exact Paces.foldl (fun t m => (Paces.of_stream _).trans (State.sendSeq_paces _ _ _ _ _)) _ s

theorem State.pump_paces (s : State) (n : Nat) : Paces n s (s.pump n) := by
  unfold State.pump
  extract_lets st t
  split
  · exact .refl n s
  · refine Paces.trans ?_ (State.sendMarks_paces _ _)
    simp only [t]
    split
    · exact .refl n s
    · exact sendRecords_paces _ _ _

theorem State.paceEgress_paces (s : State) (n : Nat) : Paces n s (s.paceEgress n) := by
  unfold State.paceEgress
  extract_lets x v r step st a p need stop unsent
  have filled : Paces n s a := .of_stream _
  split
  · split
    · exact .refl n s
    · split
      · split
        · exact filled.trans (State.sendDim_paces _ _ _)
        · exact filled.trans (State.sendGlide_paces _ _ _)
      · split
        · split
          · exact filled.trans (State.startStep_paces _ _ _ _ _)
          · exact filled
        · exact filled
  · split
    · split
      · split
        · exact .refl n s
        · exact State.startStep_paces _ _ _ _ _
      · split
        · split
          · exact .refl n s
          · split
            · exact State.startStep_paces _ _ _ _ _
            · exact .refl n s
        · exact .refl n s
    · exact .refl n s

theorem State.paceRestore_paces (s : State) (n : Nat) : Paces n s (s.paceRestore n) := by
  unfold State.paceRestore
  extract_lets x f step st first a
  have delivered : Paces n s a := .of_stream _
  split
  · split
    · split
      · exact State.sendDim_paces _ _ _
      · exact State.sendGlide_paces _ _ _
    · split
      · split
        · exact State.startStep_paces _ _ _ _ _
        · exact .refl n s
      · exact .refl n s
  · split
    · split
      · exact delivered.trans (State.startStep_paces _ _ _ _ _)
      · exact .refl n s
    · exact .refl n s

theorem State.evaluate_paces (s : State) (n : Nat) : Paces n s (s.evaluate n) := by
  unfold State.evaluate
  refine Paces.trans ?_ (State.pump_paces _ _)
  split
  · exact s.paceEgress_paces n
  · split
    · exact s.paceRestore_paces n
    · exact .refl n s

theorem State.appendRecord_paces (s : State) (n job kind : Nat) (bytes : Bytes) : Paces n s (s.appendRecord n job kind bytes) :=
  (Paces.of_stream _).trans (State.evaluate_paces _ n)

end Sys2Proof.Machine
end

section
/-! PROOFS. Scans and runs (O29): what a scan reaches, runs that return, and the re-read of a short stop (R395, R396). -/

namespace Sys2Proof.Machine

/-! ### What a scan reaches -/

/-- Only the runs of queue g, its entries State and ErrorCause, and what has left the device differ. -/
structure Scans (g : Nat) (s t : State) : Prop where
  frame : ∃ q d o, t = { s with queues := q, dict := d, out := o }
  entry : ∀ e, e ≠ Key.queueSlotState g → e ≠ Key.queueSlotErrorCause g → t.entry e = s.entry e
  other : ∀ h, h ≠ g → t.queue h = s.queue h
  queue : ∃ runs, t.queue g = { s.queue g with runs := runs }
  out : s.out <+: t.out

section
variable {g : Nat} {s t u : State}

theorem Scans.refl (g : Nat) (s : State) : Scans g s s := ⟨⟨_, _, _, rfl⟩, fun _ _ _ => rfl, fun _ _ => rfl, ⟨_, rfl⟩, List.prefix_rfl⟩

theorem Scans.trans (h : Scans g s t) (k : Scans g t u) : Scans g s u where
  frame := by
    obtain ⟨q, d, o, e⟩ := h.frame
    obtain ⟨q', d', o', e'⟩ := k.frame
    exact ⟨q', d', o', by rw [e', e]⟩
  entry e h1 h2 := (k.entry e h1 h2).trans (h.entry e h1 h2)
  other i hi := (k.other i hi).trans (h.other i hi)
  queue := by
    obtain ⟨r, e⟩ := h.queue
    obtain ⟨r', e'⟩ := k.queue
    exact ⟨r', by rw [e', e]⟩
  out := h.out.trans k.out

theorem Scans.jobs (h : Scans g s t) : t.jobs = s.jobs := by
  obtain ⟨q, d, o, e⟩ := h.frame
  rw [e]

/-- A read that may be issued is asked for under the slot's ring address (R391, R395). -/
theorem State.askRun_allowed {start len : Nat} (h : s.hostAllows (s.slotSlice g) (s.entryAddr g (start % s.ringSize g)) (64 * len) true false = true) :
    s.askRun g start len = (s.setQueue g { s.queue g with runs := (s.queue g).runs ++ [{ start := start, len := len, epoch := s.windowEpoch (s.slotSlice g), dropped := false }] }).emit (.ringRead g (start % s.ringSize g) len) := by
  unfold State.askRun
  dsimp only
  rw [if_pos h]

theorem State.askRun_scans (s : State) (g start len : Nat) : Scans g s (s.askRun g start len) := by
  unfold State.askRun
  extract_lets q
  split
  · exact ⟨⟨_, _, _, rfl⟩, fun _ _ _ => rfl, fun _ h => State.queue_setQueue_other s g _ h, ⟨_, State.queue_setQueue s g _⟩, List.prefix_append _ _⟩
  · exact ⟨⟨_, _, _, rfl⟩, fun e h1 h2 => (State.entry_setEntry_other _ _ _ h2).trans (State.entry_setEntry_other _ _ _ h1), fun _ _ => rfl, ⟨_, rfl⟩, List.prefix_rfl⟩

theorem scanRuns_scans (g fuel : Nat) (s : State) : Scans g s (scanRuns g fuel s) := by
  induction fuel generalizing s with
  | zero => exact .refl g s
  | succ k ih =>
    unfold scanRuns
    extract_lets q n
    split
    · exact .refl g s
    · exact (s.askRun_scans g _ _).trans (ih _)

theorem State.scan_scans (s : State) (g : Nat) : Scans g s (s.scan g) := scanRuns_scans g _ s

/-- A scan that may go on asks for a run at once (R395). -/
theorem State.scan_reads (may : s.mayScan g = true) (some : 0 < s.runLength g (s.queue g).next (s.queue g).room)
    (allowed : s.hostAllows (s.slotSlice g) (s.entryAddr g ((s.queue g).next % s.ringSize g)) (64 * s.runLength g (s.queue g).next (s.queue g).room) true false = true) :
    .ringRead g ((s.queue g).next % s.ringSize g) (s.runLength g (s.queue g).next (s.queue g).room) ∈ (s.scan g).out := by
  have first : s.scan g = scanRuns g 15 (s.askRun g (s.queue g).next (s.runLength g (s.queue g).next (s.queue g).room)) := by
    unfold State.scan cachePlaces
    rw [scanRuns]
    exact if_neg (by simp [may]; omega)
  rw [first]
  refine (scanRuns_scans g 15 _).out.subset ?_
  rw [State.askRun_allowed allowed]
  exact List.mem_append_right _ (List.mem_singleton_self _)

end

/-! ### Entries that the writes of host windows leave -/

/-- Subindex 01h of a QueueSlot is no counter (R413). -/
theorem overflowBit_queueSlot_slice {index : Nat} (hl : 0x2800 ≤ index) (hu : index < 0x3000) : overflowBit (index * 256 + 0x01) = none := by
  rw [overflowBit_of (o := dictQueueSlot) (by simp [dictObjects]) (by simpa [dictQueueSlot] using hl) (by simp [dictQueueSlot]; omega) (by decide)]
  rw [show dictQueueSlot.ovf.find? (fun p => p.1 = 0x01) = none by decide]
  rfl

/-- An entry of a QueueSlot other than its slice. -/
def IsSlotEntry (e : Nat) : Prop := 0x2800 ≤ e / 256 ∧ e / 256 < 0x3000 ∧ e % 256 ≠ 0x01

section
variable {e : Nat}

theorem State.endMailbox_slotEntry (s : State) (link slc : Nat) (addr : BitVec 32) (result : Nat) (data : Option Bytes) (he : IsSlotEntry e) :
    (s.endMailbox link slc addr result data).entry e = s.entry e := by
  obtain ⟨lower, upper, sub⟩ := he
  unfold State.endMailbox
  extract_lets m d n
  by_cases same : e / 256 = 0x2010 + link
  · refine State.entry_bumpBy_other _ (by dsimp only [Key.hostMailboxMailboxOps]; omega) fun b i h => ?_
    have none := overflowBit_queueSlot_slice (index := 0x2010 + link) (by omega) (by omega)
    rw [show Key.hostMailboxMailboxOps link = (0x2010 + link) * 256 + 0x01 from rfl, none] at h
    exact absurd h (by simp)
  · exact State.entry_bump_elsewhere _ (by dsimp only [Key.hostMailboxMailboxOps]; omega)

theorem State.respondLate_entry (s : State) (w : Requester) (f : HopFrame) (key : Option Bytes) (r : HopReply) (e : Nat) : (s.respondLate w f key r).entry e = s.entry e := by
  unfold State.respondLate
  extract_lets q resp
  split <;> rfl

theorem State.answerLate_slotEntry (s : State) (index sub : Nat) (r : LateReply) (he : IsSlotEntry e) : (s.answerLate index sub r).entry e = s.entry e := by
  unfold State.answerLate
  cases r with
  | nobody => rfl
  | path p => rfl
  | hop w f =>
    dsimp only
    split
    · rfl
    · cases w with
      | address a => exact State.respondLate_entry _ _ _ _ _ _
      | session n =>
        dsimp only
        split
        · exact State.respondLate_entry _ _ _ _ _ _
        · rfl
  | mailbox link slc addr => exact State.endMailbox_slotEntry _ _ _ _ _ _ he

theorem State.writeWindow_slotEntry (s : State) (n w v : Nat) (he : IsSlotEntry e) : (s.writeWindow n w v).entry e = s.entry e := by
  obtain ⟨lower, upper, -⟩ := he
  have written : (((s.setEntry (Key.hostWindowsWindow n w) v).setEntry (Key.hostWindowsEpoch n) (((s.setEntry (Key.hostWindowsWindow n w) v).entry (Key.hostWindowsEpoch n) + 1) % 2 ^ 16))).entry e = s.entry e :=
    (State.entry_setEntry_other _ _ _ (by simp only [Key.hostWindowsEpoch]; omega)).trans (State.entry_setEntry_other _ _ _ (by simp only [Key.hostWindowsWindow]; omega))
  unfold State.writeWindow State.passCycle
  extract_lets a
  split <;> exact written

theorem settleWindowsFor_slotEntry (n fuel : Nat) (s : State) (he : IsSlotEntry e) : (settleWindowsFor n fuel s).entry e = s.entry e := by
  induction fuel generalizing s with
  | zero => rfl
  | succ k ih =>
    unfold settleWindowsFor
    split
    · rfl
    · extract_lets rest
      split
      · exact (ih _).trans (State.writeWindow_slotEntry _ _ _ _ he)
      · split
        · rfl
        · exact (ih _).trans (State.answerLate_slotEntry _ _ _ _ he)

theorem State.settleWindows_slotEntry (s : State) (n : Nat) (he : IsSlotEntry e) : (s.settleWindows n).entry e = s.entry e := settleWindowsFor_slotEntry n _ s he

/-- Without writes that wait at the slice's windows nothing settles (R370). -/
theorem State.settleWindows_none {s : State} {n : Nat} (h : ∀ w ∈ s.windowWrites, w.slice ≠ n) : s.settleWindows n = s := by
  have none : s.windowWrites.find? (fun w => w.slice = n) = none := List.find?_eq_none.mpr fun w hw => by simpa using h w hw
  unfold State.settleWindows
  cases 2 * s.windowWrites.length with
  | zero => rfl
  | succ k => rw [settleWindowsFor, none]

end

/-! ### Runs that return -/

theorem State.queue_of_queues {s t : State} (h : t.queues = s.queues) (g : Nat) : t.queue g = s.queue g := by
  unfold State.queue
  rw [h]

section
variable {s : State} {g : Nat} {r : RingRun} {entries : List RingEntry}

theorem counterMax_shortDoorbells {g : Nat} (hg : g < 2048) : counterMax (Key.queueSlotShortDoorbells g) = 2 ^ 32 - 1 := by
  have row : dictRow (0x2800 + g) 0x10 = dictQueueSlot.rows.find? fun r => r.lo ≤ 0x10 && 0x10 ≤ r.hi :=
    dictRow_of (by simp [dictObjects]) (by simp [dictQueueSlot]) (by simp [dictQueueSlot]; omega) (by omega)
  have found : (dictQueueSlot.rows.find? fun r => r.lo ≤ 0x10 && 0x10 ≤ r.hi).map (·.type) = some .u32 := by decide
  obtain ⟨r, hr, type⟩ := Option.map_eq_some_iff.mp found
  have index : Key.queueSlotShortDoorbells g / 256 = 0x2800 + g := by simp only [Key.queueSlotShortDoorbells]; omega
  have sub : Key.queueSlotShortDoorbells g % 256 = 0x10 := by simp only [Key.queueSlotShortDoorbells]; omega
  unfold counterMax entryType
  rw [index, sub, row, hr, if_neg (by simp)]
  dsimp only
  rw [type]
  rfl

theorem overflowBit_shortDoorbells {g : Nat} (hg : g < 2048) : ∃ i, overflowBit (Key.queueSlotShortDoorbells g) = some (Key.queueSlotCounterOverflow g, i) := by
  have bit : (dictQueueSlot.ovf.find? (fun p => p.1 = 0x10)).map (fun p => p.2.1) = some 0x13 := by decide
  obtain ⟨c, hc, sub⟩ := Option.map_eq_some_iff.mp bit
  refine ⟨c.2.2, ?_⟩
  rw [show Key.queueSlotShortDoorbells g = (0x2800 + g) * 256 + 0x10 from rfl,
    overflowBit_of (o := dictQueueSlot) (by simp [dictObjects]) (by simp [dictQueueSlot]) (by simp [dictQueueSlot]; omega) (by decide), hc, Option.map_some, sub]

/-- The ShortDoorbells count of a slot below its maximum (R396). -/
theorem State.bump_shortDoorbells (s : State) {g : Nat} (hg : g < 2048) (below : s.entry (Key.queueSlotShortDoorbells g) + 1 < 2 ^ 32) :
    (s.bump (Key.queueSlotShortDoorbells g)).entry (Key.queueSlotShortDoorbells g) = s.entry (Key.queueSlotShortDoorbells g) + 1 := by
  have max := counterMax_shortDoorbells hg
  unfold State.bump
  by_cases full : s.entry (Key.queueSlotShortDoorbells g) + 1 < counterMax (Key.queueSlotShortDoorbells g)
  · rw [State.bumpBy_below (by decide) full, State.entry_setEntry]
  · obtain ⟨i, bit⟩ := overflowBit_shortDoorbells hg
    rw [State.bumpBy_full (by decide) (by omega) bit, State.entry_setEntryBit_other _ _ _ _ (by simp only [Key.queueSlotShortDoorbells, Key.queueSlotCounterOverflow]; omega), State.entry_setEntry]
    omega

/-- The cache and the scan point after the owned entries of a run (R395). -/
def Queue.takes (q : Queue) (good : List RingEntry) : Queue := { q with cache := q.cache ++ numbered q.scanned good, scanned := q.scanned + good.length }

/-- The stop at the scan point is short: inside the doorbell's range and not read again yet (R396). -/
def Queue.short (q : Queue) : Bool := decide (q.scanned - q.range.start < q.range.len ∧ q.scanned ∉ q.range.reread)

/-- A scan that stops (R395, R396). -/
def Queue.stops (q : Queue) : Queue := { q.dropRuns with stopped := true, rereadDue := if q.short then some q.scanned else none }

theorem State.stopScan_eq (s : State) (g : Nat) :
    s.stopScan g = if (s.queue g).short then (s.setQueue g (s.queue g).stops).bump (Key.queueSlotShortDoorbells g) else s.setQueue g (s.queue g).stops := by
  have short : (decide ((s.queue g).scanned - (s.queue g).range.start < (s.queue g).range.len) && !(s.queue g).range.reread.contains (s.queue g).scanned) = (s.queue g).short := by
    simp [Queue.short]
  unfold State.stopScan
  dsimp only
  rw [short]
  rfl

theorem State.stopScan_queue (s : State) (g : Nat) : (s.stopScan g).queue g = (s.queue g).stops ∧ (s.stopScan g).jobs = s.jobs := by
  rw [State.stopScan_eq]
  split
  · obtain ⟨d, e⟩ := State.bump_dictOnly (s.setQueue g (s.queue g).stops) (Key.queueSlotShortDoorbells g)
    rw [e]
    exact ⟨State.queue_setQueue _ _ _, rfl⟩
  · exact ⟨State.queue_setQueue _ _ _, rfl⟩

theorem State.takeRun_short (h : ((entries.take r.len).takeWhile RingEntry.owned).length < (entries.take r.len).length) :
    s.takeRun g r entries = (s.setQueue g ((s.queue g).takes ((entries.take r.len).takeWhile RingEntry.owned))).stopScan g := by
  unfold State.takeRun
  dsimp only
  rw [if_pos h]
  rfl

theorem State.stopScan_counts {s : State} {g : Nat} (hg : g < 2048) (short : (s.queue g).short = true) (below : s.entry (Key.queueSlotShortDoorbells g) + 1 < 2 ^ 32) :
    (s.stopScan g).entry (Key.queueSlotShortDoorbells g) = s.entry (Key.queueSlotShortDoorbells g) + 1 := by
  rw [State.stopScan_eq, if_pos short]
  exact State.bump_shortDoorbells _ hg below

/-- The entries of a run up to the first that is not owned enter the cache, and the scan point follows them (R395). -/
theorem State.takeRun_cache (s : State) (g : Nat) (r : RingRun) (entries : List RingEntry) :
    let good := (entries.take r.len).takeWhile RingEntry.owned
    let p := (s.takeRun g r entries).queue g
    p.cache = ((s.queue g).takes good).cache ∧ p.scanned = ((s.queue g).takes good).scanned ∧ p.fetched = (s.queue g).fetched ∧ (s.takeRun g r entries).jobs = s.jobs := by
  by_cases stop : ((entries.take r.len).takeWhile RingEntry.owned).length < (entries.take r.len).length
  · obtain ⟨queue, jobs⟩ := State.stopScan_queue (s.setQueue g ((s.queue g).takes ((entries.take r.len).takeWhile RingEntry.owned))) g
    rw [State.queue_setQueue] at queue
    dsimp only
    rw [State.takeRun_short stop, queue]
    exact ⟨rfl, rfl, rfl, jobs⟩
  · have scanned (v : State) (runs : List RingRun) (hv : v.queue g = { (s.queue g).takes ((entries.take r.len).takeWhile RingEntry.owned) with runs := runs }) (jobs : v.jobs = s.jobs) :
        ((v.scan g).queue g).cache = ((s.queue g).takes ((entries.take r.len).takeWhile RingEntry.owned)).cache ∧
        ((v.scan g).queue g).scanned = ((s.queue g).takes ((entries.take r.len).takeWhile RingEntry.owned)).scanned ∧ ((v.scan g).queue g).fetched = (s.queue g).fetched ∧ (v.scan g).jobs = s.jobs := by
      have scans := v.scan_scans g
      obtain ⟨more, e⟩ := scans.queue
      rw [e, hv]
      exact ⟨rfl, rfl, rfl, scans.jobs.trans jobs⟩
    unfold State.takeRun
    dsimp only
    rw [if_neg stop]
    split
    · exact scanned _ ((s.queue g).dropRuns.runs) (by rw [State.queue_setQueue, State.queue_setQueue]; rfl) rfl
    · exact scanned _ (s.queue g).runs (by rw [State.queue_setQueue]; rfl) rfl

/-- A run that is to be discarded leaves no trace (R395). -/
theorem ringReadComplete_dropped {slot : Fin 2048} {rest : List RingRun} (runs : (s.queue slot.val).runs = r :: rest) (dropped : r.dropped = true)
    (quiet : ∀ w ∈ s.windowWrites, w.slice ≠ s.slotSlice slot.val) : exec (.ringReadComplete slot entries) s = .next (s.setQueue slot.val { s.queue slot.val with runs := rest }) := by
  rw [show exec (.ringReadComplete slot entries) s = execRingReadComplete slot entries s from rfl]
  unfold execRingReadComplete
  dsimp only
  rw [runs]
  dsimp only
  rw [if_neg (by simp [dropped]), if_pos dropped, State.settleWindows_none (by exact quiet)]

/-- A run that returns to a scan is taken, and the writes that waited for the read settle (R370). -/
theorem exec_ringReadComplete {slot : Fin 2048} {rest : List RingRun} (given : entries ≠ []) (runs : (s.queue slot.val).runs = r :: rest) (kept : r.dropped = false) (free : (s.queue slot.val).aborting = none) :
    exec (.ringReadComplete slot entries) s =
      .next (((s.setQueue slot.val { s.queue slot.val with runs := rest }).takeRun slot.val r entries).settleWindows (((s.setQueue slot.val { s.queue slot.val with runs := rest }).takeRun slot.val r entries).slotSlice slot.val)) := by
  rw [show exec (.ringReadComplete slot entries) s = execRingReadComplete slot entries s from rfl]
  unfold execRingReadComplete
  dsimp only
  rw [runs]
  dsimp only
  rw [if_neg (by simp [given]), if_neg (by simp [kept]), if_neg (by simp [free])]

theorem ringReadComplete_taken {slot : Fin 2048} {rest : List RingRun} (given : entries ≠ []) (runs : (s.queue slot.val).runs = r :: rest) (kept : r.dropped = false) (free : (s.queue slot.val).aborting = none) :
    Completes (.ringReadComplete slot entries) s fun t =>
      let q := s.queue slot.val
      let es := entries.take r.len
      let good := es.takeWhile RingEntry.owned
      let at_ := q.scanned + good.length
      let short := decide (at_ - q.range.start < q.range.len ∧ at_ ∉ q.range.reread)
      let p := t.queue slot.val
      p.cache = q.cache ++ numbered q.scanned good ∧ p.scanned = at_ ∧ p.fetched = q.fetched ∧ t.jobs = s.jobs ∧
      (good.length < es.length → p.stopped = true ∧ p.rereadDue = (if short then some at_ else none) ∧ (∀ x ∈ p.runs, x.dropped = true) ∧
        (short = true → s.entry (Key.queueSlotShortDoorbells slot.val) + 1 < 2 ^ 32 → t.entry (Key.queueSlotShortDoorbells slot.val) = s.entry (Key.queueSlotShortDoorbells slot.val) + 1)) := by
  have counted : IsSlotEntry (Key.queueSlotShortDoorbells slot.val) := by
    have := slot.isLt
    refine ⟨?_, ?_, ?_⟩ <;> simp only [Key.queueSlotShortDoorbells] <;> omega
  refine ⟨_, exec_ringReadComplete given runs kept free, ?_⟩
  dsimp only
  rw [State.settleWindows_slotEntry _ _ counted, State.settleWindows_jobs, State.queue_of_queues (State.settleWindows_queues _ _)]
  obtain ⟨cache, scanned, fetched, jobs⟩ := State.takeRun_cache (s.setQueue slot.val { s.queue slot.val with runs := rest }) slot.val r entries
  rw [State.queue_setQueue] at cache scanned fetched
  refine ⟨cache, scanned, fetched, jobs, fun stop => ?_⟩
  rw [State.takeRun_short stop]
  obtain ⟨queue, -⟩ := State.stopScan_queue ((s.setQueue slot.val { s.queue slot.val with runs := rest }).setQueue slot.val (((s.setQueue slot.val { s.queue slot.val with runs := rest }).queue slot.val).takes ((entries.take r.len).takeWhile RingEntry.owned))) slot.val
  rw [queue, State.queue_setQueue, State.queue_setQueue]
  refine ⟨rfl, ?_, ?_, fun short below => ?_⟩
  · rfl
  · simp only [Queue.stops, Queue.dropRuns, List.mem_map]
    rintro x ⟨y, -, rfl⟩
    rfl
  · exact State.stopScan_counts slot.isLt (by rw [State.queue_setQueue]; exact short) below

/-- The scan goes on from a short stop, which is not read again for this doorbell (R396). -/
def Queue.rereads (q : Queue) (i : Nat) : Queue := { q with rereadDue := none, stopped := false, range := { q.range with reread := q.range.reread ++ [i] } }

theorem State.reread_due {s : State} {g i : Nat} (due : (s.queue g).rereadDue = some i) : s.reread g = (s.setQueue g ((s.queue g).rereads i)).scan g := by
  unfold State.reread
  dsimp only
  rw [due]
  rfl

/-- A re-read that may be issued asks for the run at its entry. -/
theorem State.reread_reads {s : State} {g i : Nat} (due : (s.queue g).rereadDue = some i) (here : i = (s.queue g).scanned) (empty : (s.queue g).cache = []) (unasked : (s.queue g).asked = 0)
    (active : s.queueState g = qActive) (scans : s.scans = true) (issues : s.fnIssues (s.slotLink g) = true) (free : (s.queue g).aborting = none) (below : s.inFlight g < (s.queue g).limit)
    (some : 0 < s.runLength g i cachePlaces) (allowed : s.hostAllows (s.slotSlice g) (s.entryAddr g (i % s.ringSize g)) (64 * s.runLength g i cachePlaces) true false = true) :
    .ringRead g (i % s.ringSize g) (s.runLength g i cachePlaces) ∈ (s.reread g).out := by
  have queue : (s.setQueue g ((s.queue g).rereads i)).queue g = (s.queue g).rereads i := State.queue_setQueue _ _ _
  have next : ((s.queue g).rereads i).next = i := by
    have asked : ((s.queue g).rereads i).asked = 0 := unasked
    rw [Queue.next, asked, here]
    rfl
  have room : ((s.queue g).rereads i).room = cachePlaces := by
    have asked : ((s.queue g).rereads i).asked = 0 := unasked
    have cache : ((s.queue g).rereads i).cache = [] := empty
    rw [Queue.room, asked, cache]
    rfl
  have may : (s.setQueue g ((s.queue g).rereads i)).mayScan g = true := by
    unfold State.mayScan
    rw [queue]
    simp only [Bool.and_eq_true, decide_eq_true_eq]
    exact ⟨⟨⟨⟨⟨⟨active, scans⟩, by rw [show ((s.queue g).rereads i).aborting = none from free]; rfl⟩, rfl⟩, rfl⟩, below⟩, issues⟩
  have reads := State.scan_reads may
  rw [queue, next, room] at reads
  rw [State.reread_due due]
  exact reads some allowed

/-- The re-read of a short stop (R396). -/
theorem shortDoorbellReread_scans {slot : Fin 2048} {i : Nat} (due : (s.queue slot.val).rereadDue = some i) (here : i = (s.queue slot.val).scanned) (empty : (s.queue slot.val).cache = []) :
    Completes (.shortDoorbellReread slot) s fun t =>
      let g := slot.val
      let p := t.queue g
      t = s.reread g ∧ p.rereadDue = none ∧ p.stopped = false ∧ p.range = { (s.queue g).range with reread := (s.queue g).range.reread ++ [i] } ∧ p.cache = [] ∧ p.scanned = i ∧ t.jobs = s.jobs := by
  have scans := (s.setQueue slot.val ((s.queue slot.val).rereads i)).scan_scans slot.val
  obtain ⟨runs, queue⟩ := scans.queue
  rw [State.queue_setQueue] at queue
  refine ⟨s.reread slot.val, rfl, rfl, ?_⟩
  rw [State.reread_due due, queue]
  exact ⟨rfl, rfl, rfl, empty, here.symm, scans.jobs⟩

end

end Sys2Proof.Machine
end

section
/-! PROOFS. The admission of a fetched job (R70 to R73, R80): what it leaves as it was. -/

namespace Sys2Proof.Machine

/-- What a job keeps of its ring entry. -/
def Job.posted (j : Job) : Nat × Nat × Nat × Nat × RingEntry × HostData := (j.id, j.slot, j.count, j.slice, j.entry, j.data)

/-- The queues, the round, what the jobs keep of their ring entries, and the entries of the queue slots stay. -/
structure Admits (s t : State) : Prop where
  queues : t.queues = s.queues
  nextJob : t.nextJob = s.nextJob
  lastServed : t.lastServed = s.lastServed
  posted : t.jobs.map Job.posted = s.jobs.map Job.posted
  entry : ∀ e, 0x2800 ≤ e / 256 → e / 256 < 0x3000 → t.entry e = s.entry e

section
variable {s t u : State} {id : Nat} {j : Job}

theorem Admits.refl (s : State) : Admits s s := ⟨rfl, rfl, rfl, rfl, fun _ _ _ => rfl⟩

theorem Admits.trans (h : Admits s t) (k : Admits t u) : Admits s u :=
  ⟨k.queues.trans h.queues, k.nextJob.trans h.nextJob, k.lastServed.trans h.lastServed, k.posted.trans h.posted, fun e hl hu => (k.entry e hl hu).trans (h.entry e hl hu)⟩

theorem Admits.after (k : Admits t u) (h : Admits s t) : Admits s u := h.trans k

theorem Admits.aside (h : (t.queues, t.nextJob, t.lastServed, t.jobs, t.dict, t.variant) = (s.queues, s.nextJob, s.lastServed, s.jobs, s.dict, s.variant)) : Admits s t := by
  simp only [Prod.mk.injEq] at h
  obtain ⟨queues, nextJob, lastServed, jobs, dict, variant⟩ := h
  exact ⟨queues, nextJob, lastServed, by rw [jobs], fun e _ _ => by unfold State.entry; rw [dict, variant]⟩

theorem Admits.foldl {α : Type} {f : State → α → State} (hf : ∀ t a, Admits t (f t a)) (l : List α) (s : State) : Admits s (l.foldl f s) := by
  induction l generalizing s with
  | nil => exact .refl s
  | cons a l ih => exact (hf s a).trans (ih _)

theorem State.bump_admits (s : State) {k : Nat} (h : k / 256 < 0x2800 ∨ 0x3000 ≤ k / 256) : Admits s (s.bump k) := by
  have entry (e : Nat) (hl : 0x2800 ≤ e / 256) (hu : e / 256 < 0x3000) := s.entry_bump_elsewhere (k := k) (e := e) (by omega)
  obtain ⟨d, only⟩ := s.bump_dictOnly k
  rw [only] at entry ⊢
  exact ⟨rfl, rfl, rfl, rfl, entry⟩

theorem State.modJob_admits (s : State) (id : Nat) {f : Job → Job} (h : ∀ j ∈ s.jobs, j.id = id → (f j).posted = j.posted) : Admits s (s.modJob id f) := by
  refine ⟨rfl, rfl, rfl, ?_, fun _ _ _ => rfl⟩
  show (s.jobs.map fun j => if j.id = id then f j else j).map Job.posted = s.jobs.map Job.posted
  rw [List.map_map]
  refine List.map_congr_left fun j hj => ?_
  by_cases same : j.id = id
  · simp [same, h j hj same]
  · simp [same]

theorem Paces.admits {n : Nat} (h : Paces n s t) : Admits s t := by
  have entry (e : Nat) (hl : 0x2800 ≤ e / 256) (hu : e / 256 < 0x3000) := h.entry e (by omega)
  obtain ⟨m, d, o, a, e⟩ := h.frame
  subst e
  exact ⟨rfl, rfl, rfl, rfl, entry⟩

theorem State.releaseUnits_admits (s : State) (us : List UnitId) : Admits s (s.releaseUnits us) := by
  obtain ⟨a, b, c, e⟩ := State.releaseUnits_frame us s
  rw [e]
  exact .aside rfl

theorem State.stageResult_admits (s : State) (id st w6 : Nat) (out : Bytes) : Admits s (s.stageResult id st w6 out) := by
  unfold State.stageResult
  split
  · exact .refl s
  · next j _ =>
    extract_lets a b
    have left : Admits s b := by
      refine (s.releaseUnits_admits j.units).trans (t := a) ?_
      simp only [b]
      split <;> exact .aside rfl
    exact left.trans (State.modJob_admits b id fun _ _ _ => rfl)

theorem State.releaseRecord_admits (s : State) (id kind epoch seg : Nat) (body : Bytes) : Admits s (s.releaseRecord id kind epoch seg body) := by
  unfold State.releaseRecord
  split
  · exact .refl s
  · extract_lets o n r second a
    exact Admits.trans (t := a) (State.modJob_admits s id fun _ _ _ => rfl) (a.appendRecord_paces _ _ _ _).admits

theorem State.releaseVoid_admits (s : State) (id status : Nat) : Admits s (s.releaseVoid id status) := by
  unfold State.releaseVoid
  split
  · exact .refl s
  · extract_lets o a
    exact Admits.trans (t := a) (State.modJob_admits s id fun _ _ _ => rfl) (a.releaseRecord_admits _ _ _ _ _)

theorem State.failJob_admits (s : State) (id status : Nat) : Admits s (s.failJob id status) := by
  unfold State.failJob
  split
  · exact .refl s
  · split
    · exact .refl s
    · split
      · split
        · exact .refl s
        · extract_lets a b
          have left : Admits s a := (s.releaseUnits_admits _).trans (.aside rfl)
          have closed : Admits a b := State.modJob_admits a id fun _ _ _ => rfl
          exact (left.trans closed).trans (b.releaseVoid_admits _ _)
      · exact s.stageResult_admits _ _ _ _

theorem State.internalJob_admits (s : State) (id : Nat) : Admits s (s.internalJob id) := by
  refine Admits.after (State.bump_admits _ (by decide)) ?_
  exact Admits.after (State.modJob_admits _ id fun _ _ _ => rfl) (s.failJob_admits id _)

theorem State.settleJob_admits (s : State) (id : Nat) : Admits s (s.settleJob id) := by
  unfold State.settleJob
  split
  · exact .refl s
  · split
    · exact s.internalJob_admits id
    · exact .refl s

/-! ### Pins and step 7 -/

theorem State.pinFor_admits (s : State) (j : Job) : Admits s (s.pinFor j) := by
  unfold State.pinFor
  generalize s.lanternServes j = lantern
  extract_lets id served a b k p
  have pinned : Admits s a := by
    simp only [a, served]
    split
    · exact .aside rfl
    · exact .refl s
  have entries : Admits a b := by
    refine Admits.foldl (fun _ _ => ?_) _ a
    exact .aside rfl
  split
  · exact (pinned.trans entries).trans (.aside rfl)
  · exact pinned.trans entries

theorem State.armFinish_admits (s : State) (j : Job) : Admits s (s.armFinish j) := by
  unfold State.armFinish
  split
  · exact .refl s
  · split
    · split <;> exact .aside rfl
    · exact .refl s

theorem State.allocate_admits {slc area n : Nat} {use : ExtentUse} (h : s.allocate slc area n use = some t) : Admits s t := by
  unfold State.allocate at h
  split at h
  · cases h
  · split at h <;> cases h
    exact .aside rfl

theorem State.allocateOwner_admits {slc id n : Nat} {out : Bool} (h : s.allocateOwner slc id n out = some t) : Admits s t := by
  unfold State.allocateOwner at h
  split at h <;> cases h
  exact .aside rfl

theorem State.reserveMce_admits (h : s.reserveMce j = some t) : Admits s t := by
  unfold State.reserveMce at h
  split at h
  · cases h
  · dsimp only at h
    split at h
    · cases h
    · next a ha =>
      cases h
      exact Admits.after (State.modJob_admits _ _ fun _ _ _ => rfl) ((State.allocate_admits ha).trans (.aside rfl))

theorem State.reserveLantern_admits (h : s.reserveLantern j = some t) : Admits s t := by
  unfold State.reserveLantern at h
  split at h
  · cases h
  · exact Admits.after (State.allocate_admits h) (State.modJob_admits s j.id fun _ _ _ => rfl)

theorem State.takeContext_admits {d a : Nat} {attach : Attach} {p : Nat × State} (h : s.takeContext j d attach a = some p) : Admits s p.2 := by
  unfold State.takeContext at h
  split at h <;> cases h
  exact .aside rfl

theorem State.reserveContext_admits (h : s.reserveContext j = some t) : Admits s t := by
  unfold State.reserveContext at h
  split at h
  · cases h
  · split at h
    · cases h
    · split at h
      · cases h
      · next k a ha =>
        cases h
        exact Admits.after (State.modJob_admits _ j.id fun _ _ _ => rfl) (State.takeContext_admits ha)

/-- A stream's job is a given one from now on, where a condition holds (R442, R446). -/
def State.holdStream (s : State) (c : Bool) (n id : Nat) : State := if c then s.setStream n { s.stream n with currentJob := some id } else s

theorem State.holdStream_admits (s : State) (c : Bool) (n id : Nat) : Admits s (s.holdStream c n id) := by
  unfold State.holdStream
  split
  · exact .aside rfl
  · exact .refl s

theorem State.reserveStream_admits {a b ready : Bool} {n m id : Nat} (h : (if ready then some ((s.holdStream a n id).holdStream b m id) else none) = some t) : Admits s t := by
  obtain ⟨-, e⟩ := Option.ite_none_right_eq_some.mp h
  cases e
  exact (s.holdStream_admits a n id).trans (State.holdStream_admits _ b m id)

/-- Step 7 reserves for the job and leaves the queues as they are (R80). -/
theorem State.stepSeven_admits (h : s.stepSeven j = some t) : Admits s t := by
  unfold State.stepSeven at h
  dsimp only at h
  rw [Option.ite_none_left_eq_some, Option.ite_none_left_eq_some] at h
  obtain ⟨-, -, h⟩ := h
  by_cases mce : j.entry.opcode = 0x0110
  · rw [if_pos mce] at h
    exact State.reserveMce_admits h
  rw [if_neg mce] at h
  by_cases lantern : j.entry.opcode = 0x0210
  · rw [if_pos lantern] at h
    exact State.reserveLantern_admits h
  rw [if_neg lantern] at h
  by_cases owner : j.entry.opcode = 0x0F02
  · rw [if_pos owner] at h
    split at h
    · cases h
    · next a ha => exact (State.allocateOwner_admits ha).trans (State.allocateOwner_admits h)
  rw [if_neg owner] at h
  by_cases soft : j.entry.opcode = 0x0301
  · rw [if_pos soft] at h
    split at h <;> cases h
    exact .refl s
  rw [if_neg soft] at h
  by_cases opened : j.entry.opcode = 0x0302
  · rw [if_pos opened] at h
    exact State.reserveContext_admits h
  rw [if_neg opened] at h
  split at h
  · exact State.reserveStream_admits (a := j.entry.opcode = 0x0701 || j.entry.opcode = 0x0702) (b := j.entry.opcode = 0x0701 && (s.session j.entry.session).ingest = 1) h
  · cases h
    exact .refl s

theorem State.lookup_admits (s : State) (id : Nat) : Admits s (s.lookup id) := by
  unfold State.lookup
  split
  · exact .refl s
  · extract_lets n a b
    split
    · have hit : Admits s ((s.touchCache n).bump Key.sessionCacheCacheHits) := Admits.trans (t := s.touchCache n) (.aside rfl) (State.bump_admits _ (by decide))
      exact Admits.after (State.settleJob_admits _ _) (Admits.after (State.modJob_admits _ id fun _ _ _ => rfl) hit)
    · have missed : Admits s b := by
        refine (State.bump_admits s (by decide)).trans (t := a) ?_
        simp only [b]
        split
        · exact State.bump_admits a (by decide)
        · exact .refl a
      exact Admits.after (State.modJob_admits _ id fun _ _ _ => rfl) missed

theorem State.takeTurn_admits (s : State) (id : Nat) : Admits s (s.takeTurn id) := by
  unfold State.takeTurn
  split
  · exact .refl s
  · split
    · exact .refl s
    · split
      · exact s.stageResult_admits _ _ _ _
      · split
        · exact s.stageResult_admits _ _ _ _
        · next a ha =>
          have reserved := State.stepSeven_admits ha
          split
          · exact Admits.after (State.modJob_admits _ id fun _ _ _ => rfl) reserved
          · exact reserved.trans (State.lookup_admits _ _)

/-- The admission of a job that no other shares its number with (R70, R71, R73). -/
theorem State.takeFetched_admits (alone : ∀ k ∈ s.jobs, k.id = j.id → k.posted = j.posted) : Admits s (s.takeFetched j) := by
  unfold State.takeFetched
  extract_lets n x k a b
  split
  · exact s.stageResult_admits _ _ _ _
  · have same : k.posted = j.posted := by
      simp only [k]
      split <;> rfl
    have ids : k.id = j.id := congrArg Prod.fst same
    have checked : Admits s a := State.modJob_admits s k.id fun i hi e => same.trans (alone i hi (e.trans ids)).symm
    have opened : Admits a b := by
      simp only [b]
      split
      · exact .aside rfl
      · split <;> exact .aside rfl
    exact (((checked.trans opened).trans (State.pinFor_admits _ _)).trans (State.armFinish_admits _ _)).trans (State.takeTurn_admits _ _)

end

end Sys2Proof.Machine
end

section
/-! PROOFS. Fetches (O29): the round's choice, and the youngest job (R35, R390, R397, R404, R405). -/

namespace Sys2Proof.Machine

/-! ### The round -/

/-- Only queues, dictionary and what has left the device differ, and every queue keeps its cache. -/
structure Rounds (s t : State) : Prop where
  frame : ∃ q d o, t = { s with queues := q, dict := d, out := o }
  cache : ∀ h, (t.queue h).cache = (s.queue h).cache

section
variable {s t u : State} {g : Nat}

theorem Rounds.refl (s : State) : Rounds s s := ⟨⟨_, _, _, rfl⟩, fun _ => rfl⟩

theorem Rounds.trans (h : Rounds s t) (k : Rounds t u) : Rounds s u where
  frame := by
    obtain ⟨q, d, o, e⟩ := h.frame
    obtain ⟨q', d', o', e'⟩ := k.frame
    exact ⟨q', d', o', by rw [e', e]⟩
  cache i := (k.cache i).trans (h.cache i)

theorem Rounds.foldl {α : Type} {f : State → α → State} (hf : ∀ t a, Rounds t (f t a)) (l : List α) (s : State) : Rounds s (l.foldl f s) := by
  induction l generalizing s with
  | nil => exact .refl s
  | cons a l ih => exact (hf s a).trans (ih _)

theorem Scans.cache (h : Scans g s t) (k : Nat) : (t.queue k).cache = (s.queue k).cache := by
  by_cases same : k = g
  · obtain ⟨runs, e⟩ := h.queue
    rw [same, e]
  · rw [h.other k same]

theorem Scans.rounds (h : Scans g s t) : Rounds s t := ⟨h.frame, h.cache⟩

theorem State.setQueue_rounds {q : Queue} (h : q.cache = (s.queue g).cache) : Rounds s (s.setQueue g q) := by
  refine ⟨⟨_, _, _, rfl⟩, fun k => ?_⟩
  by_cases same : k = g
  · rw [same, State.queue_setQueue, h]
  · rw [State.queue_setQueue_other s g q same]

/-- A new round takes nothing from a cache (R404). -/
theorem State.newRound_rounds (s : State) : Rounds s s.newRound := by
  unfold State.newRound
  refine Rounds.foldl (fun t g => ?_) _ s
  exact (State.setQueue_rounds (by rfl)).trans (State.scan_scans _ g).rounds

theorem State.readySlots_empty (h : ∀ g, (s.queue g).cache = []) (steady : Bool) : s.readySlots steady = [] := by
  have unready (g : Nat) : s.ringReady g = false := by simp [State.ringReady, h g]
  unfold State.readySlots
  split
  · simp [unready]
  · rfl

theorem State.roundPick_empty (h : s.readySlots false = []) : s.roundPick = (none, s) := by
  unfold State.roundPick
  rw [h]
  rfl

/-- The round has served a queue's turn: its place in the round changes, and it is the queue served last. -/
structure Picks (g : Nat) (s t : State) : Prop where
  frame : ∃ q l, t = { s with queues := q, lastServed := l }
  served : t.lastServed = g
  other : ∀ h, h ≠ g → t.queue h = s.queue h
  cache : (t.queue g).cache = (s.queue g).cache

theorem State.joinRound_cache (s : State) (g : Nat) :
    (∃ q, s.joinRound g = { s with queues := q }) ∧ (∀ h, h ≠ g → (s.joinRound g).queue h = s.queue h) ∧ ((s.joinRound g).queue g).cache = (s.queue g).cache := by
  unfold State.joinRound
  extract_lets q
  split
  · exact ⟨⟨_, rfl⟩, fun _ _ => rfl, rfl⟩
  · exact ⟨⟨_, rfl⟩, fun _ h => State.queue_setQueue_other s g _ h, by rw [State.queue_setQueue]⟩

/-- A queue that joins the round has credit (R404). -/
theorem State.joinRound_credit (credit : (s.queue g).inRound = true → 0 < (s.queue g).credit) (weight : 0 < s.entry (Key.queueSlotWeight g)) : 0 < ((s.joinRound g).queue g).credit := by
  unfold State.joinRound
  extract_lets q
  split
  case isTrue joined => exact credit joined
  case isFalse => rwa [State.queue_setQueue]

theorem Picks.setQueue {q : Queue} (h : Picks g s t) (same : q.cache = (t.queue g).cache) : Picks g s (t.setQueue g q) where
  frame := by
    obtain ⟨qs, l, rfl⟩ := h.frame
    exact ⟨_, l, rfl⟩
  served := h.served
  other i hne := (State.queue_setQueue_other t g q hne).trans (h.other i hne)
  cache := ((congrArg Queue.cache (State.queue_setQueue t g q)).trans same).trans h.cache

/-- A queue's visit begins (R404). -/
def State.visits (s : State) (g : Nat) (q : Queue) : State := { s.setQueue g q with lastServed := g }

theorem State.visits_picks {a : State} {q : Queue} (frame : ∃ qs, a = { s with queues := qs }) (other : ∀ h, h ≠ g → a.queue h = s.queue h) (cache : (a.queue g).cache = (s.queue g).cache)
    (same : q.cache = (a.queue g).cache) : Picks g s (a.visits g q) where
  frame := by
    obtain ⟨qs, rfl⟩ := frame
    exact ⟨_, g, rfl⟩
  served := rfl
  other h hne := (State.queue_setQueue_other a g q hne).trans (other h hne)
  cache := ((congrArg Queue.cache (State.queue_setQueue a g q)).trans same).trans cache

/-- One ready queue with credit is the one served (R404). -/
theorem State.roundPick_single (ready : s.readySlots false = [g]) (credit : (s.queue g).inRound = true → 0 < (s.queue g).credit) (weight : 0 < s.entry (Key.queueSlotWeight g)) :
    ∃ t, s.roundPick = (some g, t) ∧ Picks g s t := by
  obtain ⟨⟨q, frame⟩, other, cache⟩ := s.joinRound_cache g
  have joined := s.joinRound_credit credit weight
  have last : (s.joinRound g).lastServed = s.lastServed := by rw [frame]
  have pick : nextAfter ([g].filter fun h => 0 < ((s.joinRound g).queue h).credit) (s.joinRound g).lastServed = some g := by
    rw [List.filter_cons_of_pos (by simpa using joined), List.filter_nil]
    unfold nextAfter
    by_cases after : (s.joinRound g).lastServed < g
    · simp [after]
    · simp [after]
  unfold State.roundPick
  rw [ready]
  extract_lets joins a turn
  have next : nextAfter (joins.filter fun h => 0 < (a.queue h).credit) a.lastServed = some g := pick
  rw [next]
  dsimp only
  split
  case isTrue again =>
    have same : s.lastServed = g := by
      simp only [Bool.and_eq_true, List.contains_eq_mem, joins, List.mem_singleton, decide_eq_true_eq] at again
      exact last.symm.trans again.1.1
    exact ⟨a, by rw [show a.lastServed = g from last.trans same], ⟨q, s.lastServed, frame⟩, last.trans same, other, cache⟩
  case isFalse =>
    exact ⟨a.visits g { a.queue g with visit := min (a.queue g).burst (a.queue g).credit }, rfl, State.visits_picks ⟨q, frame⟩ other cache rfl⟩

/-- The next hub cycle has begun. -/
def State.cycled (s : State) : State := { s with hubCycle := s.hubCycle + 1 }

theorem State.steadyPick_cycled (s : State) : s.cycled.steadyPick = s.steadyPick := by
  have ready : s.cycled.readySlots true = s.readySlots true := rfl
  have slice : s.cycled.slotSlice = s.slotSlice := rfl
  have last : s.cycled.lastSteady = s.lastSteady := rfl
  unfold State.steadyPick
  rw [ready, slice, last]

/-- Outside the steady queues' turn the rounds choose (R404, R573). -/
theorem State.fetch_weighted (on : s.hubOn = true) (unsteady : (s.hubCycle + 1) % 16 ≠ 0 ∨ s.steadyPick = none) (data : HostData) :
    s.fetch data = match s.cycled.weightedPick with
      | (none, t) => t
      | (some g, t) => (t.setQueue g { t.queue g with credit := (t.queue g).credit - 1, visit := (t.queue g).visit - 1 }).fetchFrom g data := by
  have none : (if (s.hubCycle + 1) % 16 = 0 then s.cycled.steadyPick else none) = none := by
    rcases unsteady with h | h
    · exact if_neg h
    · rw [State.steadyPick_cycled, h, ite_self]
  unfold State.fetch
  rw [if_neg (by simp [on])]
  extract_lets a
  rw [show (if a.hubCycle % 16 = 0 then a.steadyPick else Option.none) = Option.none from none]
  rfl

/-- With no entry cached a hub cycle fetches nothing (R404). -/
theorem State.fetch_empty (on : s.hubOn = true) (unsteady : (s.hubCycle + 1) % 16 ≠ 0 ∨ s.steadyPick = none) (empty : ∀ g, (s.queue g).cache = []) (data : HostData) :
    (s.fetch data).jobs = s.jobs ∧ (s.fetch data).nextJob = s.nextJob ∧ (s.fetch data).hubCycle = s.hubCycle + 1 := by
  have round := State.newRound_rounds s.cycled
  have first : s.cycled.roundPick = (none, s.cycled) :=
    State.roundPick_empty (State.readySlots_empty (s := s.cycled) (by exact empty) false)
  have second : s.cycled.newRound.roundPick = (none, s.cycled.newRound) :=
    State.roundPick_empty (State.readySlots_empty (fun g => (round.cache g).trans (empty g)) false)
  rw [State.fetch_weighted on unsteady, State.weightedPick, first]
  dsimp only
  rw [second]
  obtain ⟨q, d, o, e⟩ := round.frame
  rw [e]
  exact ⟨rfl, rfl, rfl⟩

end

/-! ### The youngest job -/

section
variable {s t : State} {g count : Nat} {e : RingEntry} {rest : List (Nat × RingEntry)} {data : HostData}

/-- A job entered last under a new number is found by it. -/
theorem findJob_posted_last {js : List Job} {j : Job} (posted : t.jobs.map Job.posted = js.map Job.posted ++ [j.posted]) (new : ∀ k ∈ js, k.id ≠ j.id) : ∃ k, t.findJob j.id = some k ∧ k.posted = j.posted := by
  obtain ⟨a, b, jobs, ha, hb⟩ := List.map_eq_append_iff.mp posted
  obtain ⟨k, rfl, hk⟩ := List.map_eq_singleton_iff.mp hb
  have older : a.find? (fun i => i.id = j.id) = none := by
    refine List.find?_eq_none.mpr fun i hi => ?_
    have mem : i.posted ∈ js.map Job.posted := ha ▸ List.mem_map_of_mem hi
    obtain ⟨i', hi', same⟩ := List.mem_map.mp mem
    have ids : i'.id = i.id := congrArg Prod.fst same
    simpa using ids ▸ new i' hi'
  have own : k.id = j.id := congrArg Prod.fst hk
  refine ⟨k, ?_, hk⟩
  unfold State.findJob
  rw [jobs, List.find?_append, older, Option.none_or, List.find?_cons_of_pos (by simp [own])]

theorem State.enterJob_frame (s : State) (j : Job) : ∃ q d, s.enterJob j = { s with jobs := s.jobs ++ [j], nextJob := s.nextJob + 1, queues := q, dict := d } := by
  unfold State.enterJob
  extract_lets g a q b
  obtain ⟨d, e⟩ := (b.setEntry (Key.queueSlotFetchPoint g) ((j.count + 1) % b.ringSize g)).bump_dictOnly (Key.queueSlotFetched g)
  rw [e]
  exact ⟨_, _, rfl⟩

theorem State.enterJob_queue (s : State) (j : Job) : (s.enterJob j).queue j.slot = { s.queue j.slot with fetched := j.count + 1 } ∧ ∀ h, h ≠ j.slot → (s.enterJob j).queue h = s.queue h := by
  unfold State.enterJob
  extract_lets g a q b
  have kept (h : Nat) : ((b.setEntry (Key.queueSlotFetchPoint g) ((j.count + 1) % b.ringSize g)).bump (Key.queueSlotFetched g)).queue h = b.queue h :=
    State.queue_of_queues (State.bump_frame _ _).2.1 h
  rw [kept]
  exact ⟨State.queue_setQueue a g _, fun h hne => (kept h).trans (State.queue_setQueue_other a g _ hne)⟩

theorem State.enterJob_fetchPoint (s : State) (j : Job) (hg : j.slot < 2048) : (s.enterJob j).entry (Key.queueSlotFetchPoint j.slot) = (j.count + 1) % s.ringSize j.slot := by
  have bits : ∀ c ∈ dictQueueSlot.ovf, c.2.1 = 0x13 := by decide
  unfold State.enterJob
  extract_lets g a q b
  have counted : ((b.setEntry (Key.queueSlotFetchPoint g) ((j.count + 1) % b.ringSize g)).bump (Key.queueSlotFetched g)).entry (Key.queueSlotFetchPoint g) =
      (b.setEntry (Key.queueSlotFetchPoint g) ((j.count + 1) % b.ringSize g)).entry (Key.queueSlotFetchPoint g) := by
    refine State.entry_bumpBy_other _ (by simp only [Key.queueSlotFetchPoint, Key.queueSlotFetched]; omega) fun k i h => ?_
    rw [show Key.queueSlotFetched g = (0x2800 + g) * 256 + 0x12 from rfl,
      overflowBit_of (o := dictQueueSlot) (by simp [dictObjects]) (by simp [dictQueueSlot]) (by have : g < 2048 := hg; simp [dictQueueSlot]; omega) (by decide), Option.map_eq_some_iff] at h
    obtain ⟨c, hc, same⟩ := h
    have := bits c (List.mem_of_find?_eq_some hc)
    cases same
    simp only [Key.queueSlotFetchPoint]
    omega
  exact counted.trans (State.entry_setEntry _ _ _)

/-- The state in which a fetched entry is admitted: it has left the cache, and its job is the youngest. -/
def State.fetched (s : State) (g count : Nat) (e : RingEntry) (rest : List (Nat × RingEntry)) (data : HostData) : State :=
  ({ s.setQueue g { s.queue g with cache := rest } with activityAt := s.timestamp } : State).enterJob (s.newJob g count e data)

theorem State.fetched_frame (s : State) (g count : Nat) (e : RingEntry) (rest : List (Nat × RingEntry)) (data : HostData) :
    let b := s.fetched g count e rest data
    b.jobs = s.jobs ++ [s.newJob g count e data] ∧ b.nextJob = s.nextJob + 1 ∧ b.lastServed = s.lastServed := by
  obtain ⟨q, d, frame⟩ := State.enterJob_frame ({ s.setQueue g { s.queue g with cache := rest } with activityAt := s.timestamp } : State) (s.newJob g count e data)
  unfold State.fetched
  rw [frame]
  exact ⟨rfl, rfl, rfl⟩

theorem State.fetched_queue (s : State) (g count : Nat) (e : RingEntry) (rest : List (Nat × RingEntry)) (data : HostData) :
    let b := s.fetched g count e rest data
    (b.queue g).cache = rest ∧ (b.queue g).fetched = count + 1 ∧ ∀ h, h ≠ g → b.queue h = s.queue h := by
  obtain ⟨own, other⟩ := State.enterJob_queue ({ s.setQueue g { s.queue g with cache := rest } with activityAt := s.timestamp } : State) (s.newJob g count e data)
  have emptied : ({ s.setQueue g { s.queue g with cache := rest } with activityAt := s.timestamp } : State).queue g = { s.queue g with cache := rest } := State.queue_setQueue s g _
  dsimp only
  unfold State.fetched
  rw [show (s.newJob g count e data).slot = g from rfl] at own other
  rw [own, emptied]
  exact ⟨rfl, rfl, fun h hne => (other h hne).trans (State.queue_setQueue_other s g _ hne)⟩

/-- A fetch from a queue admits its oldest cached entry, and the scan goes on (R80, R397). -/
theorem State.fetchFrom_admits (cache : (s.queue g).cache = (count, e) :: rest) (ids : ∀ j ∈ s.jobs, j.id < s.nextJob) :
    ∃ t, s.fetchFrom g data = t.scan g ∧ Admits (s.fetched g count e rest data) t := by
  unfold State.fetchFrom
  extract_lets q
  rw [show q.cache = (count, e) :: rest from cache]
  dsimp only
  refine ⟨_, rfl, ?_⟩
  split
  · exact State.stageResult_admits _ _ _ _ _
  · refine State.takeFetched_admits (s := s.fetched g count e rest data) (j := s.newJob g count e data) fun k hk same => ?_
    rw [(s.fetched_frame g count e rest data).1] at hk
    rcases List.mem_append.mp hk with old | new
    · exact absurd (same ▸ ids k old) (Nat.lt_irrefl _)
    · rw [List.mem_singleton.mp new]

/-- What a fetch from a queue leaves: its oldest cached entry is the youngest job, and its fetch point has advanced (R397). -/
theorem State.fetchFrom_youngest (hg : g < 2048) (cache : (s.queue g).cache = (count, e) :: rest) (ids : ∀ j ∈ s.jobs, j.id < s.nextJob) :
    let t := s.fetchFrom g data
    (∃ j, t.findJob s.nextJob = some j ∧ j.slot = g ∧ j.count = count ∧ j.entry = e ∧ j.data = data ∧ j.slice = s.slotSlice g) ∧
    t.nextJob = s.nextJob + 1 ∧ t.jobs.length = s.jobs.length + 1 ∧ (t.queue g).cache = rest ∧ (t.queue g).fetched = count + 1 ∧
    t.entry (Key.queueSlotFetchPoint g) = (count + 1) % s.ringSize g ∧ t.lastServed = s.lastServed ∧ ∀ h, h ≠ g → t.queue h = s.queue h := by
  obtain ⟨a, fetch, admits⟩ := State.fetchFrom_admits (data := data) cache ids
  obtain ⟨jobs, nextJob, lastServed⟩ := s.fetched_frame g count e rest data
  obtain ⟨emptied, point, other⟩ := s.fetched_queue g count e rest data
  have scans := a.scan_scans g
  obtain ⟨runs, queue⟩ := scans.queue
  have before : a.queue g = (s.fetched g count e rest data).queue g := State.queue_of_queues admits.queues g
  have posted : (a.scan g).jobs.map Job.posted = s.jobs.map Job.posted ++ [(s.newJob g count e data).posted] := by
    rw [scans.jobs, admits.posted, jobs, List.map_append]
    rfl
  obtain ⟨k, found, same⟩ := findJob_posted_last posted fun i hi => Nat.ne_of_lt (ids i hi)
  simp only [Job.posted, Prod.mk.injEq] at same
  obtain ⟨-, slot, counted, slice, entry, read⟩ := same
  have fetchPoint : (a.scan g).entry (Key.queueSlotFetchPoint g) = (count + 1) % s.ringSize g := by
    rw [scans.entry _ (by simp only [Key.queueSlotFetchPoint, Key.queueSlotState]; omega) (by simp only [Key.queueSlotFetchPoint, Key.queueSlotErrorCause]; omega),
      admits.entry _ (by simp only [Key.queueSlotFetchPoint]; omega) (by simp only [Key.queueSlotFetchPoint]; omega)]
    exact State.enterJob_fetchPoint _ (s.newJob g count e data) hg
  obtain ⟨q, d, o, frame⟩ := scans.frame
  have next : (a.scan g).nextJob = a.nextJob := by rw [frame]
  have served : (a.scan g).lastServed = a.lastServed := by rw [frame]
  rw [fetch]
  refine ⟨⟨k, found, slot, counted, entry, read, slice⟩, next.trans (admits.nextJob.trans nextJob), ?_, ?_, ?_, fetchPoint, served.trans (admits.lastServed.trans lastServed), fun h hne => ?_⟩
  · simpa using congrArg List.length posted
  · rw [queue, before]
    exact emptied
  · rw [queue, before]
    exact point
  · rw [scans.other h hne, State.queue_of_queues admits.queues h, other h hne]

/-- Where one queue alone is ready, its oldest cached entry is fetched (R404). -/
theorem State.fetch_single (on : s.hubOn = true) (unsteady : (s.hubCycle + 1) % 16 ≠ 0 ∨ s.steadyPick = none) (ready : s.readySlots false = [g])
    (credit : (s.queue g).inRound = true → 0 < (s.queue g).credit) (weight : 0 < s.entry (Key.queueSlotWeight g)) :
    ∃ t, Picks g s.cycled t ∧ s.fetch data = t.fetchFrom g data := by
  obtain ⟨t, pick, picks⟩ := State.roundPick_single (s := s.cycled) (g := g) ready credit weight
  refine ⟨t.setQueue g { t.queue g with credit := (t.queue g).credit - 1, visit := (t.queue g).visit - 1 }, ?_, ?_⟩
  · exact picks.setQueue rfl
  · rw [State.fetch_weighted on unsteady, State.weightedPick, pick]

theorem State.readySlots_bound {steady : Bool} (h : g ∈ s.readySlots steady) : g < 2048 := by
  unfold State.readySlots at h
  split at h
  · have live := (List.mem_filter.mp h).1
    unfold State.liveSlots at live
    obtain ⟨p, -, hp⟩ := List.mem_filterMap.mp (List.mem_filter.mp live).1
    split at hp
    · next bounds =>
      have place := Option.some.inj hp
      simp only [Bool.and_eq_true, decide_eq_true_eq] at bounds
      omega
    · cases hp
  · cases h

theorem State.fetch_youngest (on : s.hubOn = true) (unsteady : (s.hubCycle + 1) % 16 ≠ 0 ∨ s.steadyPick = none) (ready : s.readySlots false = [g]) (cache : (s.queue g).cache = (count, e) :: rest)
    (credit : (s.queue g).inRound = true → 0 < (s.queue g).credit) (weight : 0 < s.entry (Key.queueSlotWeight g)) (ids : ∀ j ∈ s.jobs, j.id < s.nextJob) :
    let t := s.fetch data
    (∃ j, t.findJob s.nextJob = some j ∧ j.slot = g ∧ j.count = count ∧ j.entry = e ∧ j.data = data ∧ j.slice = s.slotSlice g) ∧
    t.nextJob = s.nextJob + 1 ∧ t.jobs.length = s.jobs.length + 1 ∧ (t.queue g).cache = rest ∧ (t.queue g).fetched = count + 1 ∧
    t.entry (Key.queueSlotFetchPoint g) = (count + 1) % s.ringSize g ∧ t.lastServed = g ∧ ∀ h, h ≠ g → t.queue h = s.queue h := by
  have bound : g < 2048 := State.readySlots_bound (ready ▸ List.mem_singleton_self g)
  obtain ⟨t, picks, fetch⟩ := State.fetch_single (data := data) on unsteady ready credit weight
  obtain ⟨qs, l, frame⟩ := picks.frame
  have jobs : t.jobs = s.jobs := by rw [frame]; rfl
  have nextJob : t.nextJob = s.nextJob := by rw [frame]; rfl
  have slice : t.slotSlice g = s.slotSlice g := by rw [frame]; rfl
  have size : t.ringSize g = s.ringSize g := by rw [frame]; rfl
  have youngest := State.fetchFrom_youngest (data := data) bound (picks.cache.trans cache) (by rw [jobs, nextJob]; exact ids)
  rw [jobs, nextJob, slice, size, picks.served] at youngest
  obtain ⟨job, next, length, emptied, point, fetchPoint, served, other⟩ := youngest
  rw [fetch]
  exact ⟨job, next, length, emptied, point, fetchPoint, served, fun h hne => (other h hne).trans (picks.other h hne)⟩

end

/-- Settles O29: returned runs by cases on the stop, the re-read by the first step of its scan, and the fetch through what its admission leaves as it was (`Admits`). -/
theorem scansAndFetches : Obligations.ScansAndFetches := by
  unfold Obligations.ScansAndFetches
  refine ⟨?_, ?_, ?_⟩
  · intro s slot entries r rest given
    dsimp only
    intro runs
    exact ⟨fun dropped quiet => ringReadComplete_dropped runs dropped quiet, fun kept free => ringReadComplete_taken given runs kept free⟩
  · intro s slot i
    dsimp only
    intro due here empty unasked
    obtain ⟨t, e, same, rereadDue, stopped, range, cache, scanned, jobs⟩ := shortDoorbellReread_scans due here empty
    refine ⟨t, e, rereadDue, stopped, range, cache, scanned, jobs, fun active scans issues free below some allowed => ?_⟩
    rw [same]
    exact State.reread_reads due here empty unasked active scans issues free below some allowed
  · intro s data on unsteady
    exact ⟨fun empty => ⟨_, rfl, State.fetch_empty on unsteady empty data⟩, fun g count e rest ready cache credit weight ids => ⟨_, rfl, State.fetch_youngest on unsteady ready cache credit weight ids⟩⟩

end Sys2Proof.Machine
end

section
/-! PROOFS. A restored segment behind a link past the host links (O36). -/

namespace Sys2Proof.Machine

/-- A container record that carries one byte of ciphertext and its tag. -/
def strayRecord : Bytes := containerRecord 2 0 0 0 (List.replicate 32 0#8) (List.replicate 17 0#8)

/-- A restore whose HEAD is open: one byte is to come, in one segment. -/
def strayRestoreJob : Job :=
  { id := 0, slot := 0, count := 0, slice := 0, entry := { w0 := 0x8000070200000000, w1 := 0, w2 := 0, w3 := 0, w4 := 0, w5 := 0, w6 := 0, w7 := 0 },
    data := { keyA := [], keyB := [], keyC := [], keyD := [], recipients := [], input := [] }, phase := .running, status := 0, w6 := 0, output := [], keyOut := none, drawn := [],
    retries := 0, failed := [], units := [], served := [], kept := [], check := [], build := none, taperRules := (4096, 4096),
    keyRules := { uses := 0, exportable := false, bindBlobs := false }, cycles := 0, taperCycles := 0, shroud := 0, waitsEntropy := false, snooped := [], steady := none,
    object := some { ObjectState.start with headSeen := true, length := 1, segExp := 16 } }

/-- The record as its stream holds it. -/
def strayHeld : StreamRecord := { rsn := 0, job := 0, kind := 2, bytes := strayRecord, endPos := 0, offset := 0, lastSeq := 0, acked := false, taken := false }

/-- A unit that restores from stream 0 into the window of slice 0. The slice is on link 3140h, which no host link is (R411): the key of its LinkState, which reads 3, is the one of KeyLoads of sealer 0. -/
def strayRestore : State :=
  { State.reset with
    dict := [(Key.sliceHostLink 0, 0x3140), (Key.hostLinkLinkState 0x3140, 3), (Key.hostWindowsWindow 0 0, 0xA11), (Key.mediaStreamDirection 0, 1)]
    fns := [(0x3140, { HostFn.reset with pasidEnable := true })]
    streams := [(0, { Stream.off with records := [strayHeld] })]
    jobs := [strayRestoreJob] }

/-- The unit when it has loaded the sealer and counted the segment. -/
def strayLoaded : State :=
  ((strayRestore.setStream 0 { strayRestore.stream 0 with records := [{ strayHeld with taken := true, job := 0 }] }).sealerReady strayRestoreJob).bump (Key.sealerStatusSegments strayRestoreJob.objectSealer)

theorem strayRestore_runs : strayRestore.attemptOf 0 0x0702 = some strayRestoreJob ∧ strayRestore.jobStream strayRestoreJob = 0 ∧ strayRestore.streamDir 0 = 1 ∧ strayRestore.plaintextHeld strayRestoreJob = false ∧
    strayRestoreJob.obj.confirming = false ∧ (strayRestore.stream 0).records.find? (fun r => !r.taken) = some strayHeld ∧ strayRestore.sealerTaken strayRestoreJob.objectSealer = false ∧
    strayRestore.fnIssues (strayRestore.sliceLink 0) = true := by
  refine ⟨rfl, ?_⟩
  decide +kernel

theorem strayRecord_follows : recordOk strayRestoreJob.obj strayRestoreJob.entry.w5 strayRecord = true ∧ recChain strayRecord = strayRestoreJob.obj.chain ∧ recKind strayRecord = 2 := by decide +kernel

theorem strayRestore_allows : strayRestore.hostAllows 0 (strayRestoreJob.entry.w3.toNat + strayRestoreJob.obj.segIndex * 2 ^ strayRestoreJob.obj.segExp) ((recBody strayRecord).take ((recBody strayRecord).length - 16)).length false true = true := by decide +kernel

/-- The key that was loaded took the link down. -/
theorem strayLoaded_down : strayLoaded.fnIssues (strayLoaded.sliceLink 0) = false ∧ strayLoaded.linkUp (strayLoaded.sliceLink 0) = false ∧ strayLoaded.out = [] := by decide +kernel

theorem strayLoaded_allows : strayLoaded.hostAllows 0 (strayRestoreJob.entry.w3.toNat + strayRestoreJob.obj.segIndex * 2 ^ strayRestoreJob.obj.segExp) ((recBody strayRecord).take ((recBody strayRecord).length - 16)).length false true = true := by decide +kernel

/-- Without a link nothing is delivered. -/
theorem State.deliver_down {s : State} {j : Job} (silent : s.fnIssues (s.sliceLink j.slice) = false) (down : s.linkUp (s.sliceLink j.slice) = false) (addr : Nat) (b : Bytes) : s.deliver j addr b = s := by
  unfold State.deliver
  dsimp only
  rw [if_neg (by rw [silent]; decide), if_neg (by rw [down]; decide)]

theorem State.stageResult_out (s : State) (id st w6 : Nat) (b : Bytes) : (s.stageResult id st w6 b).out = s.out := by
  obtain ⟨js, w, c, d, e⟩ := s.stageResult_frame id st w6 b
  rw [e]

theorem State.turnSealer_out (s : State) (j : Job) (f : Sealer → Sealer) : (s.turnSealer j f).out = s.out := by
  unfold State.turnSealer
  dsimp only
  split <;> rfl

/-- A segment whose plaintext finds no link sends nothing. -/
theorem State.restoreSegment_down {s b : State} {j : Job} {r : Bytes} (loaded : (s.sealerReady j).bump (Key.sealerStatusSegments j.objectSealer) = b)
    (allowed : b.hostAllows j.slice (j.entry.w3.toNat + j.obj.segIndex * 2 ^ j.obj.segExp) ((recBody r).take ((recBody r).length - 16)).length false true = true)
    (silent : b.fnIssues (b.sliceLink j.slice) = false) (down : b.linkUp (b.sliceLink j.slice) = false) : (s.restoreSegment j r).out = b.out := by
  unfold State.restoreSegment
  dsimp only
  rw [loaded, if_neg (by rw [allowed]; decide), State.deliver_down silent down]
  split
  · exact (State.stageResult_out _ _ _ _ _).trans (b.bump_out _)
  · exact b.turnSealer_out j _

/-- The record that is taken is the segment. -/
theorem strayRestore_segment : strayRestore.restoreRecord 0 = (strayRestore.setStream 0 { strayRestore.stream 0 with records := [{ strayHeld with taken := true, job := 0 }] }).restoreSegment strayRestoreJob strayRecord := by
  obtain ⟨attempt, stream, -, held, confirming, next, free, -⟩ := strayRestore_runs
  obtain ⟨form, chain, kind⟩ := strayRecord_follows
  have other : recKind strayRecord ≠ 1 := by rw [kind]; decide
  unfold State.restoreRecord
  rw [State.during_some attempt]
  dsimp only
  rw [stream, next]
  dsimp only
  rw [if_neg (by simp [held, confirming]), if_neg (by simp [free]), show strayHeld.bytes = strayRecord from rfl, if_neg (by simp [form]), if_neg other, if_neg (by simp [chain]), if_pos kind]
  rfl

/-- Refutes O36: the segment's key is loaded before its plaintext is delivered, and the stray link's state is the count of key loads: it goes from 3 to 4, so the function that issued before issues nothing, and no plaintext is written. The statement bounds no link by the eight host links of R411. -/
theorem not_objectRestores : ¬ Obligations.ObjectRestores := by
  unfold Obligations.ObjectRestores
  intro h
  obtain ⟨attempt, stream, dir, held, confirming, next, free, issues⟩ := strayRestore_runs
  obtain ⟨form, chain, kind⟩ := strayRecord_follows
  obtain ⟨silent, down, unsent⟩ := strayLoaded_down
  obtain ⟨-, -, -, records⟩ := h strayRestore 0 strayRestoreJob attempt (by rw [stream]; exact dir)
  have record := records held confirming strayHeld (by rw [stream]; exact next) fun _ => free
  obtain ⟨-, -, -, segment, -⟩ := record
  obtain ⟨t, e, ⟨w, sent, -⟩, -⟩ := (segment ⟨form, chain⟩ kind).2 strayRestore_allows issues
  have taken : strayRestore.restoreRecord 0 = t := by injection e
  have out := State.restoreSegment_down (b := strayLoaded) (r := strayRecord) rfl strayLoaded_allows silent down
  rw [← strayRestore_segment, taken] at out
  rw [out] at sent
  exact absurd (unsent ▸ sent) (by simp)

end Sys2Proof.Machine
end

section
/-! PROOFS. AES-256 decrypts what it encrypts, and KWP opens what it wraps. -/

namespace Sys2Proof.Machine

/-! ### Bytes of a block -/

theorem aesAt_aesBlock (f : Nat → Nat → Byte) (r c : Nat) : aesAt (aesBlock f) r c = f (r % 4) (c % 4) := by
  have inside : r % 4 + 4 * (c % 4) < 16 := by omega
  have row : (r % 4 + 4 * (c % 4)) % 4 = r % 4 := by omega
  have column : (r % 4 + 4 * (c % 4)) / 4 = c % 4 := by omega
  simp [aesAt, aesBlock, List.getD_eq_getElem?_getD, inside, row, column]

theorem aesBlock_length (f : Nat → Nat → Byte) : (aesBlock f).length = 16 := by simp [aesBlock]

/-- Sixteen bytes are the block of their places. -/
theorem aesBlock_eq {f : Nat → Nat → Byte} {s : Bytes} (size : s.length = 16) (places : ∀ r < 4, ∀ c, f r c = aesAt s r c) : aesBlock f = s := by
  refine List.ext_getElem (by rw [aesBlock_length, size]) fun i hi hs => ?_
  have split : i % 4 + 4 * (i / 4 % 4) = i := by omega
  simp [aesBlock, places (i % 4) (by omega), aesAt, split, List.getD_eq_getElem?_getD, hs]

theorem aesAt_congr (s : Bytes) {r r' c c' : Nat} (row : r % 4 = r' % 4) (column : c % 4 = c' % 4) : aesAt s r c = aesAt s r' c' := by
  unfold aesAt
  rw [row, column]

theorem xorBytes_xorBytes {a k : Bytes} (long : a.length ≤ k.length) : xorBytes (xorBytes a k) k = a := by
  refine List.ext_getElem (by simp only [xorBytes_length]; omega) fun i hi ha => ?_
  simp [xorBytes]

/-! ### Substitution and rotation of rows -/

theorem aesUnsubs_aesSubs : ∀ b < 256, aesUnsubs.getD (aesSubs.getD b 0) 0 = b := by decide +kernel

theorem aesSubs_small : ∀ b < 256, aesSubs.getD b 0 < 256 := by decide +kernel

theorem aesUnsub_aesSub (b : Byte) : aesUnsub (aesSub b) = b := by
  unfold aesUnsub aesSub
  rw [BitVec.toNat_ofNat, Nat.mod_eq_of_lt (aesSubs_small _ b.isLt), aesUnsubs_aesSubs _ b.isLt, BitVec.ofNat_toNat, BitVec.setWidth_eq]

/-- The substitution of a block with the rotation of its rows, and its inverse. -/
def aesTurn (s : Bytes) : Bytes := aesBlock fun r c => aesSub (aesAt s r (c + r))
def aesUnturn (s : Bytes) : Bytes := aesBlock fun r c => aesUnsub (aesAt s r (c + 4 - r))

theorem aesUnturn_aesTurn {s : Bytes} (size : s.length = 16) : aesUnturn (aesTurn s) = s :=
  aesBlock_eq size fun r hr c => by
    unfold aesTurn
    rw [aesAt_aesBlock, aesUnsub_aesSub]
    exact aesAt_congr s (by omega) (by omega)

/-! ### Mixing of columns -/

/-- A byte as the sum of what its bits stand for. -/
def aesBits (v : Nat → Byte) (b : Byte) : Byte := (List.range 8).foldl (fun x i => x ^^^ bif b.getLsbD i then v i else 0) 0

theorem foldl_bits_xor (v : Nat → Byte) (x y : Byte) (l : List Nat) : ∀ a b : Byte,
    l.foldl (fun z i => z ^^^ bif (x ^^^ y).getLsbD i then v i else 0) (a ^^^ b) =
      l.foldl (fun z i => z ^^^ bif x.getLsbD i then v i else 0) a ^^^ l.foldl (fun z i => z ^^^ bif y.getLsbD i then v i else 0) b := by
  induction l with
  | nil => intro a b; rfl
  | cons i l ih =>
    intro a b
    have bit : (bif (x ^^^ y).getLsbD i then v i else 0) = (bif x.getLsbD i then v i else 0) ^^^ bif y.getLsbD i then v i else 0 := by
      rw [BitVec.getLsbD_xor]
      cases x.getLsbD i <;> cases y.getLsbD i <;> simp
    simp only [List.foldl_cons]
    rw [bit, ← ih]
    congr 1
    ac_rfl

theorem aesBits_xor (v : Nat → Byte) (x y : Byte) : aesBits v (x ^^^ y) = aesBits v x ^^^ aesBits v y := foldl_bits_xor v x y (List.range 8) 0 0

theorem aesTimes_bits : ∀ c ∈ [9, 11, 13, 14], ∀ b : Byte, aesTimes c b = aesBits (fun i => aesTimes c (BitVec.ofNat 8 (2 ^ i))) b := by decide +kernel

/-- Multiplication by a coefficient of the inverse mixing is linear. -/
theorem aesTimes_xor {c : Nat} (hc : c ∈ [9, 11, 13, 14]) (x y : Byte) : aesTimes c (x ^^^ y) = aesTimes c x ^^^ aesTimes c y := by
  rw [aesTimes_bits c hc, aesBits_xor, ← aesTimes_bits c hc, ← aesTimes_bits c hc]

theorem aesTimes_one : ∀ b : Byte, aesTimes 1 b = b := by decide +kernel

/-- What the two mixings make of a byte of its own row, and of the three others. -/
theorem unmix_own : ∀ b : Byte, aesTimes 14 (aesTimes 2 b) ^^^ aesTimes 11 b ^^^ aesTimes 13 b ^^^ aesTimes 9 (aesTimes 3 b) = b := by decide +kernel
theorem unmix_next : ∀ b : Byte, aesTimes 14 (aesTimes 3 b) ^^^ aesTimes 11 (aesTimes 2 b) ^^^ aesTimes 13 b ^^^ aesTimes 9 b = 0 := by decide +kernel
theorem unmix_third : ∀ b : Byte, aesTimes 14 b ^^^ aesTimes 11 (aesTimes 3 b) ^^^ aesTimes 13 (aesTimes 2 b) ^^^ aesTimes 9 b = 0 := by decide +kernel
theorem unmix_last : ∀ b : Byte, aesTimes 14 b ^^^ aesTimes 11 b ^^^ aesTimes 13 (aesTimes 3 b) ^^^ aesTimes 9 (aesTimes 2 b) = 0 := by decide +kernel

/-- A mixed byte, of the bytes from its row on. -/
def mixed (a b c d : Byte) : Byte := aesTimes 2 a ^^^ aesTimes 3 b ^^^ c ^^^ d

theorem unmix_mixed (a b c d : Byte) :
    aesTimes 14 (mixed a b c d) ^^^ aesTimes 11 (mixed b c d a) ^^^ aesTimes 13 (mixed c d a b) ^^^ aesTimes 9 (mixed d a b c) = a := by
  have linear : ∀ k ∈ [9, 11, 13, 14], ∀ p q r t : Byte, aesTimes k (mixed p q r t) = aesTimes k (aesTimes 2 p) ^^^ aesTimes k (aesTimes 3 q) ^^^ aesTimes k r ^^^ aesTimes k t := by
    intro k hk p q r t
    rw [mixed, aesTimes_xor hk, aesTimes_xor hk, aesTimes_xor hk]
  rw [linear 14 (by decide), linear 11 (by decide), linear 13 (by decide), linear 9 (by decide)]
  calc _ = (aesTimes 14 (aesTimes 2 a) ^^^ aesTimes 11 a ^^^ aesTimes 13 a ^^^ aesTimes 9 (aesTimes 3 a)) ^^^
        (aesTimes 14 (aesTimes 3 b) ^^^ aesTimes 11 (aesTimes 2 b) ^^^ aesTimes 13 b ^^^ aesTimes 9 b) ^^^
        (aesTimes 14 c ^^^ aesTimes 11 (aesTimes 3 c) ^^^ aesTimes 13 (aesTimes 2 c) ^^^ aesTimes 9 c) ^^^
        (aesTimes 14 d ^^^ aesTimes 11 d ^^^ aesTimes 13 (aesTimes 3 d) ^^^ aesTimes 9 (aesTimes 2 d)) := by ac_rfl
    _ = a := by rw [unmix_own, unmix_next, unmix_third, unmix_last]; simp

theorem aesAt_mix (s : Bytes) (r c : Nat) :
    aesAt (aesMix [2, 3, 1, 1] s) r c = mixed (aesAt s r c) (aesAt s (r + 1) c) (aesAt s (r + 2) c) (aesAt s (r + 3) c) := by
  unfold aesMix
  rw [aesAt_aesBlock]
  have place : ∀ i, aesAt s (r % 4 + i) (c % 4) = aesAt s (r + i) c := fun i => aesAt_congr s (by omega) (by omega)
  simp [List.range_succ, mixed, aesTimes_one, place]

theorem aesUnmix_aesMix {s : Bytes} (size : s.length = 16) : aesMix [14, 11, 13, 9] (aesMix [2, 3, 1, 1] s) = s :=
  aesBlock_eq size fun r _ c => by
    have turned : ∀ i, aesAt s (r + (4 + i)) c = aesAt s (r + i) c := fun i => aesAt_congr s (by omega) rfl
    have undone := unmix_mixed (aesAt s r c) (aesAt s (r + 1) c) (aesAt s (r + 2) c) (aesAt s (r + 3) c)
    simpa [List.range_succ, aesAt_mix, Nat.add_assoc, turned 0, turned 1, turned 2] using undone

/-! ### The block cipher -/

/-- A round of encryption but the last, and its inverse up to the substitution. -/
def aesForth (s k : Bytes) : Bytes := xorBytes (aesMix [2, 3, 1, 1] (aesTurn s)) k
def aesBack (k s : Bytes) : Bytes := aesMix [14, 11, 13, 9] (xorBytes (aesUnturn s) k)

theorem aesForth_length {s k : Bytes} (size : k.length = 16) : (aesForth s k).length = 16 := by
  simp [aesForth, xorBytes_length, aesMix, aesBlock_length, size]

theorem aesBack_aesForth {s k : Bytes} (size : k.length = 16) : aesBack k (aesTurn (aesForth s k)) = aesTurn s := by
  have turned : (aesTurn s).length = 16 := aesBlock_length _
  unfold aesBack
  rw [aesUnturn_aesTurn (aesForth_length size), aesForth, xorBytes_xorBytes (by rw [aesMix, aesBlock_length, size]), aesUnmix_aesMix turned]

theorem foldl_aesForth_length {s : Bytes} (size : s.length = 16) : ∀ ks : List Bytes, (∀ k ∈ ks, k.length = 16) → (ks.foldl aesForth s).length = 16 := by
  intro ks
  induction ks generalizing s with
  | nil => intro _; exact size
  | cons k ks ih => exact fun sizes => ih (aesForth_length (sizes k (by simp))) fun q hq => sizes q (by simp [hq])

/-- The rounds undone from the last to the first. -/
theorem foldr_aesBack (ks : List Bytes) : ∀ s : Bytes, (∀ k ∈ ks, k.length = 16) → ks.foldr aesBack (aesTurn (ks.foldl aesForth s)) = aesTurn s := by
  induction ks with
  | nil => intro s _; rfl
  | cons k ks ih =>
    intro s sizes
    rw [List.foldl_cons, List.foldr_cons, ih _ fun q hq => sizes q (by simp [hq]), aesBack_aesForth (sizes k (by simp))]

/-- Every round key has sixteen bytes. -/
theorem aesRoundKeys_sizes (key : Bytes) : ∀ k ∈ aesRoundKeys key, k.length = 16 := by
  obtain ⟨count, words⟩ := aesExpand_words 52 ((List.range 8).map fun i => cut key (4 * i) 4) (by simp) (by
    intro x hx
    obtain ⟨i, -, rfl⟩ := List.mem_map.mp hx
    simp [cut])
  intro k hk
  obtain ⟨r, hr, rfl⟩ := List.mem_map.mp hk
  rw [List.mem_range] at hr
  have rows : (aesExpand 52 ((List.range 8).map fun i => cut key (4 * i) 4)).length = 60 := by rw [count]; rfl
  rw [List.length_flatten, List.map_congr_left fun x hx => words x (List.mem_of_mem_drop (List.mem_of_mem_take hx)), List.map_const', List.sum_replicate, smul_eq_mul,
    List.length_take, List.length_drop, rows]
  omega

theorem aesRoundKeys_head (key : Bytes) : ((aesRoundKeys key).headD []).length = 16 := by
  have count : (aesRoundKeys key).length = 15 := by simp [aesRoundKeys]
  have sizes := aesRoundKeys_sizes key
  cases keys : aesRoundKeys key with
  | nil => rw [keys] at count; cases count
  | cons k ks => exact sizes k (by simp [keys])

theorem aesDecrypt_aesEncrypt (key : Bytes) {block : Bytes} (size : block.length = 16) : aesDecrypt (aesRoundKeys key) (aesEncrypt (aesRoundKeys key) block) = block := by
  have sizes : ∀ k ∈ ((aesRoundKeys key).drop 1).take 13, k.length = 16 := fun k hk => aesRoundKeys_sizes key k (List.mem_of_mem_drop (List.mem_of_mem_take hk))
  have first : (xorBytes block ((aesRoundKeys key).headD [])).length = 16 := by rw [xorBytes_length, aesRoundKeys_head, size]; rfl
  have outer : xorBytes (aesTurn ((((aesRoundKeys key).drop 1).take 13).foldl aesForth (xorBytes block ((aesRoundKeys key).headD [])))) ((aesRoundKeys key).getLastD []) = aesEncrypt (aesRoundKeys key) block := rfl
  have inner : xorBytes (aesUnturn ((((aesRoundKeys key).drop 1).take 13).foldr aesBack (xorBytes (aesEncrypt (aesRoundKeys key) block) ((aesRoundKeys key).getLastD [])))) ((aesRoundKeys key).headD []) =
      aesDecrypt (aesRoundKeys key) (aesEncrypt (aesRoundKeys key) block) := rfl
  rw [← inner, ← outer, xorBytes_xorBytes (by rw [aesTurn, aesBlock_length, aesRoundKeys_last]), foldr_aesBack _ _ sizes, aesUnturn_aesTurn first,
    xorBytes_xorBytes (by rw [aesRoundKeys_head, size])]

end Sys2Proof.Machine
end

section
/-! PROOFS. KWP opens what it wraps, and a blob gives back its key. -/

namespace Sys2Proof.Machine

/-! ### Numbers and pieces of byte strings -/

theorem leBytes_length (n : Nat) : ∀ v, (leBytes n v).length = n := by
  induction n with
  | zero => intro v; rfl
  | succ n ih => intro v; simp [leBytes, ih]

theorem beBytes_length (n v : Nat) : (beBytes n v).length = n := by simp [beBytes, leBytes_length]

theorem leNat_leBytes (n : Nat) : ∀ v, v < 256 ^ n → leNat (leBytes n v) = v := by
  induction n with
  | zero => intro v h; simp [leBytes, leNat]; omega
  | succ n ih =>
    intro v h
    rw [leBytes, leNat, ih _ (by rw [pow_succ] at h; omega), BitVec.toNat_ofNat]
    omega

theorem beNat_beBytes {n v : Nat} (h : v < 256 ^ n) : beNat (beBytes n v) = v := by
  rw [beNat, beBytes, List.reverse_reverse, leNat_leBytes n v h]

theorem cut_length (b : Bytes) (off n : Nat) : (cut b off n).length = n := by simp [cut]

theorem cut_append_left {h w : Bytes} {off n : Nat} (inside : off + n ≤ h.length) : cut (h ++ w) off n = cut h off n := by
  unfold cut
  rw [List.drop_append_of_le_length (by omega), List.take_append_of_le_length (by rw [List.length_drop]; omega)]

theorem cut_append_right (h w : Bytes) : cut (h ++ w) h.length w.length = w := by simp [cut]

theorem field_append_left {h w : Bytes} {off n : Nat} (inside : off + n ≤ h.length) : field (h ++ w) off n = field h off n := by
  unfold field
  rw [List.drop_append_of_le_length (by omega), List.take_append_of_le_length (by rw [List.length_drop]; omega)]

/-- Pieces of eight bytes are found again. -/
theorem blocksOf_flatten : ∀ (l : List Bytes) (fuel : Nat), (∀ x ∈ l, x.length = 8) → l.length ≤ fuel → blocksOf 8 fuel l.flatten = l := by
  intro l
  induction l with
  | nil => intro fuel _ _; cases fuel <;> simp [blocksOf]
  | cons x l ih =>
    intro fuel sizes enough
    obtain ⟨fuel, rfl⟩ : ∃ f, fuel = f + 1 := ⟨fuel - 1, by simp at enough; omega⟩
    have eight : x.length = 8 := sizes x (by simp)
    have some_ : (x ++ l.flatten).isEmpty = false := by cases x with | nil => simp at eight | cons _ _ => rfl
    rw [List.flatten_cons, blocksOf, some_, List.take_left' eight, List.drop_left' eight, ih fuel (fun y hy => sizes y (by simp [hy])) (by simpa using enough)]
    rfl

/-- A string of n times eight bytes is its n pieces. -/
theorem blocksOf_eight : ∀ (n : Nat) (b : Bytes), b.length = 8 * n → (blocksOf 8 n b).flatten = b ∧ (blocksOf 8 n b).length = n ∧ ∀ x ∈ blocksOf 8 n b, x.length = 8 := by
  intro n
  induction n with
  | zero => intro b h; simp [blocksOf, List.length_eq_zero_iff.mp h]
  | succ n ih =>
    intro b h
    obtain ⟨whole, count, sizes⟩ := ih (b.drop 8) (by rw [List.length_drop]; omega)
    have some_ : b.isEmpty = false := by cases b with | nil => simp at h | cons _ _ => rfl
    rw [blocksOf, some_]
    refine ⟨by simp [whole], by simp [count], fun x hx => ?_⟩
    rcases List.mem_cons.mp hx with rfl | hx
    · rw [List.length_take]; omega
    · exact sizes x hx

/-! ### The wrapping rounds -/

/-- The registers of KWP: eight bytes each, and one at least to wrap. -/
def KwpRegisters (p : Bytes × List Bytes) : Prop := p.1.length = 8 ∧ p.2 ≠ [] ∧ ∀ x ∈ p.2, x.length = 8

/-- Round keys under which blocks have sixteen bytes and are decrypted to what was encrypted. -/
def CipherKeys (keys : List Bytes) : Prop := (∀ b, (aesEncrypt keys b).length = 16) ∧ ∀ b : Bytes, b.length = 16 → aesDecrypt keys (aesEncrypt keys b) = b

theorem aesRoundKeys_cipher (kek : Bytes) : CipherKeys (aesRoundKeys kek) := ⟨aesEncrypt_length kek, fun _ size => aesDecrypt_aesEncrypt kek size⟩

theorem kwpStep_cons (keys : List Bytes) (a r : Bytes) (rest : List Bytes) (t : Nat) :
    kwpStep keys (a, r :: rest) t = (xorBytes ((aesEncrypt keys (a ++ r)).take 8) (beBytes 8 t), rest ++ [(aesEncrypt keys (a ++ r)).drop 8]) := rfl

theorem kwpBack_concat (keys : List Bytes) (a r : Bytes) (rest : List Bytes) (t : Nat) :
    kwpBack keys (a, rest ++ [r]) t = ((aesDecrypt keys (xorBytes a (beBytes 8 t) ++ r)).take 8, (aesDecrypt keys (xorBytes a (beBytes 8 t) ++ r)).drop 8 :: rest) := by
  simp only [kwpBack, List.getLastD_concat, List.dropLast_concat]

theorem kwpStep_registers {keys : List Bytes} (cipher : CipherKeys keys) {p : Bytes × List Bytes} (h : KwpRegisters p) (t : Nat) :
    KwpRegisters (kwpStep keys p t) ∧ (kwpStep keys p t).2.length = p.2.length := by
  obtain ⟨a, l⟩ := p
  obtain ⟨-, some_, sizes⟩ := h
  obtain ⟨r, rest, rfl⟩ := List.exists_cons_of_ne_nil some_
  have block := cipher.1 (a ++ r)
  rw [kwpStep_cons]
  refine ⟨⟨?_, by simp, fun x hx => ?_⟩, by simp⟩
  · rw [xorBytes_length, List.length_take, block, beBytes_length]; rfl
  · rcases List.mem_append.mp hx with hx | hx
    · exact sizes x (List.mem_cons_of_mem _ hx)
    · rw [List.mem_singleton.mp hx, List.length_drop, block]

theorem kwpBack_kwpStep {keys : List Bytes} (cipher : CipherKeys keys) {p : Bytes × List Bytes} (h : KwpRegisters p) (t : Nat) : kwpBack keys (kwpStep keys p t) t = p := by
  obtain ⟨a, l⟩ := p
  obtain ⟨first, some_, sizes⟩ := h
  obtain ⟨r, rest, rfl⟩ := List.exists_cons_of_ne_nil some_
  have second : r.length = 8 := sizes r List.mem_cons_self
  have eight : a.length = 8 := first
  have undone : xorBytes (xorBytes ((aesEncrypt keys (a ++ r)).take 8) (beBytes 8 t)) (beBytes 8 t) = (aesEncrypt keys (a ++ r)).take 8 :=
    xorBytes_xorBytes (by rw [List.length_take, beBytes_length]; omega)
  rw [kwpStep_cons, kwpBack_concat, undone, List.take_append_drop, cipher.2 _ (by rw [List.length_append, eight, second]), List.take_left' eight, List.drop_left' eight]

theorem foldl_kwpStep_registers {keys : List Bytes} (cipher : CipherKeys keys) (ts : List Nat) : ∀ p, KwpRegisters p →
    KwpRegisters (ts.foldl (kwpStep keys) p) ∧ (ts.foldl (kwpStep keys) p).2.length = p.2.length := by
  induction ts with
  | nil => intro p h; exact ⟨h, rfl⟩
  | cons t ts ih =>
    intro p h
    obtain ⟨next, count⟩ := kwpStep_registers cipher h t
    obtain ⟨rest, same⟩ := ih _ next
    exact ⟨rest, same.trans count⟩

/-- The steps undone from the last to the first. -/
theorem foldl_kwpBack {keys : List Bytes} (cipher : CipherKeys keys) (ts : List Nat) : ∀ p, KwpRegisters p → ts.reverse.foldl (kwpBack keys) (ts.foldl (kwpStep keys) p) = p := by
  induction ts with
  | nil => intro p _; rfl
  | cons t ts ih =>
    intro p h
    obtain ⟨next, -⟩ := kwpStep_registers cipher h t
    rw [List.reverse_cons, List.foldl_append, List.foldl_cons (l := ts), ih _ next]
    exact kwpBack_kwpStep cipher h t

/-! ### A wrapped key -/

/-- A key with zeros up to a multiple of eight bytes. -/
def kwpPadded (key : Bytes) : Bytes := cut key 0 (8 * ceilDiv key.length 8)

theorem kwpHead_length (n : Nat) : (kwpHead n).length = 8 := by simp [kwpHead, beBytes_length]

theorem kwpPadded_eq (key : Bytes) : kwpPadded key = key ++ List.replicate (8 * ceilDiv key.length 8 - key.length) 0#8 := by
  have enough : key.length ≤ 8 * ceilDiv key.length 8 := by unfold ceilDiv; omega
  simp [kwpPadded, cut, List.take_of_length_le enough]

/-- A wrapped key of more than eight bytes: its registers after all steps. -/
theorem kwpWrap_long (kek : Bytes) {key : Bytes} (long : 8 < key.length) :
    let n := ceilDiv key.length 8
    let start := (kwpHead key.length, blocksOf 8 n (kwpPadded key))
    let p := (span 1 (6 * n)).foldl (kwpStep (aesRoundKeys kek)) start
    kwpWrap kek key = p.1 ++ p.2.flatten ∧ KwpRegisters start ∧ KwpRegisters p ∧ start.2.flatten = kwpPadded key ∧ p.2.length = n := by
  intro n start p
  obtain ⟨whole, count, sizes⟩ := blocksOf_eight n (kwpPadded key) (cut_length _ _ _)
  have several : ¬ n ≤ 1 := by simp only [n, ceilDiv]; omega
  have begins : KwpRegisters start := ⟨kwpHead_length _, fun none_ => by rw [show start.2 = blocksOf 8 n (kwpPadded key) from rfl] at none_; rw [none_] at count; simp at count; omega, sizes⟩
  obtain ⟨ends, same⟩ := foldl_kwpStep_registers (aesRoundKeys_cipher kek) (span 1 (6 * n)) start begins
  refine ⟨?_, begins, ends, whole, same.trans count⟩
  unfold kwpWrap
  exact if_neg several

theorem kwpWrap_length (kek : Bytes) {key : Bytes} (long : 8 < key.length) : (kwpWrap kek key).length = 8 * (ceilDiv key.length 8 + 1) := by
  obtain ⟨wrapped, -, ⟨head, -, sizes⟩, -, count⟩ := kwpWrap_long kek long
  rw [wrapped, List.length_append, head, List.length_flatten, List.map_congr_left sizes, List.map_const', count, List.sum_replicate, smul_eq_mul]
  omega

/-- What is opened is the header with the key's length, and the key with its padding. -/
theorem kwpOpened_kwpWrap (kek : Bytes) {key : Bytes} (long : 8 < key.length) : kwpOpened kek (kwpWrap kek key) = (kwpHead key.length, kwpPadded key) := by
  have size := kwpWrap_length kek long
  obtain ⟨wrapped, begins, ⟨head, -, sizes⟩, whole, count⟩ := kwpWrap_long kek long
  have several : ¬ ceilDiv key.length 8 ≤ 1 := by simp only [ceilDiv]; omega
  have places : (kwpWrap kek key).length / 8 - 1 = ceilDiv key.length 8 := by rw [size]; omega
  unfold kwpOpened
  dsimp only
  rw [places, if_neg several, wrapped, List.take_left' head, List.drop_left' head, blocksOf_flatten _ _ sizes count.le, foldl_kwpBack (aesRoundKeys_cipher kek) _ _ begins, whole]

theorem kwpAccepts_kwpWrap (kek : Bytes) {key : Bytes} (long : 8 < key.length) (short : key.length < 2 ^ 32) : kwpAccepts kek (kwpWrap kek key) = true := by
  have size := kwpWrap_length kek long
  have tail : (kwpHead key.length).drop 4 = beBytes 4 key.length := rfl
  have count : kwpLength kek (kwpWrap kek key) = key.length := by rw [kwpLength, kwpOpened_kwpWrap kek long, tail, beNat_beBytes short]
  unfold kwpAccepts
  dsimp only
  rw [count, kwpOpened_kwpWrap kek long, size, kwpPadded_eq]
  have enough : key.length ≤ 8 * ceilDiv key.length 8 ∧ 8 * ceilDiv key.length 8 < key.length + 8 := by unfold ceilDiv; omega
  simp
  omega

theorem kwpUnwrap_kwpWrap (kek : Bytes) {key : Bytes} (long : 8 < key.length) : kwpUnwrap kek (kwpWrap kek key) key.length = key := by
  rw [kwpUnwrap, kwpOpened_kwpWrap kek long, kwpPadded_eq]
  simp [cut]

/-! ### A blob -/

/-- The header of an unbound blob names its version, its seal key and the length of its key, and leaves the rest zero. -/
def BlobHeader (osk h : Bytes) (count : Nat) : Prop :=
  h.length = 32 ∧ field h 6 2 = count ∧ cut h 0 4 = [0x50#8, 0x59#8, 0x52#8, 0x42#8] ∧ field h 4 1 = 1 ∧ field h 8 2 < 32 ∧ field h 10 1 < 2 ∧ field h 11 1 = 0 ∧
    field h 12 2 = 0 ∧ field h 14 2 = 0 ∧ cut h 16 8 = oskId osk

theorem State.openBlob_wrapped {s : State} {osk h key : Bytes} (slc : Nat) (root : s.roots.osk = some osk) (header : BlobHeader osk h key.length) (long : 8 < key.length) (short : key.length < 2 ^ 32) :
    s.openBlob slc (h ++ kwpWrap (blobKek osk h) key) = some { alg := field h 5 1, uses := field h 8 2, exportable := bitOf (field h 10 1) 0, key := key } := by
  obtain ⟨size, count, magic, version, uses, flags, zero, free, rest, key_⟩ := header
  have fields : ∀ off n, off + n ≤ 32 → field (h ++ kwpWrap (blobKek osk h) key) off n = field h off n := fun off n le => field_append_left (by omega)
  have cuts : ∀ off n, off + n ≤ 32 → cut (h ++ kwpWrap (blobKek osk h) key) off n = cut h off n := fun off n le => cut_append_left (by omega)
  have whole : cut h 0 32 = h := by rw [← size]; simp [cut]
  have wrapped : cut (h ++ kwpWrap (blobKek osk h) key) 32 (blobSize key.length - 32) = kwpWrap (blobKek osk h) key := by
    rw [show blobSize key.length - 32 = (kwpWrap (blobKek osk h) key).length by rw [kwpWrap_length _ long, blobSize]; omega, ← size]
    exact cut_append_right _ _
  have unbound : bitOf (field h 10 1) 1 = false := by simp [bitOf]; omega
  unfold State.openBlob
  simp only [root, fields 6 2 (by omega), fields 10 1 (by omega), fields 4 1 (by omega), fields 8 2 (by omega), fields 11 1 (by omega), fields 12 2 (by omega), fields 14 2 (by omega), fields 5 1 (by omega),
    cuts 0 32 (by omega), cuts 0 4 (by omega), cuts 16 8 (by omega), whole, count, wrapped, kwpUnwrap_kwpWrap _ long]
  rw [if_neg]
  simp [magic, version, zero, free, rest, key_, unbound, kwpAccepts_kwpWrap _ long short]
  exact ⟨⟨uses, by omega⟩, fun none_ => by simp [none_] at long⟩

end Sys2Proof.Machine
end

section
/-! PROOFS. A TAIL signed with an RSA key that fails the check of its first use (O35). -/

namespace Sys2Proof.Machine

/-! ### The object write -/

/-- An RSA key body of 2,048 bits whose parts are all ones: its sizes fit (R202), and its exponents do not. -/
def strayRsaKey : Bytes := leBytes 2 2048 ++ leBytes 2 0 ++ leBytes 4 3 ++ List.replicate 640 0xFF#8

/-- The key that seals blobs, and the header of the blob: its key is RSA's and may sign. -/
def strayOsk : Bytes := List.replicate 32 0#8
def strayHeader : Bytes :=
  [0x50#8, 0x59#8, 0x52#8, 0x42#8] ++ leBytes 1 1 ++ leBytes 1 0x50 ++ leBytes 2 648 ++ leBytes 2 2 ++ leBytes 6 0 ++ oskId strayOsk ++ leBytes 8 0

/-- The blob. -/
def strayBlob : Bytes := strayHeader ++ kwpWrap (blobKek strayOsk strayHeader) strayRsaKey

/-- A session that signs TAILs with SLH-DSA and the key of vault slot 0, then with RSA and the key of a blob. -/
def strayTwoSigners : Session :=
  { Session.free with params := leBytes 8 0x503073100000 ++ leBytes 8 0 ++ leBytes 8 0x1000000000000000 ++ leBytes 8 0x2000000000000000 }

/-- A write of an object of no bytes whose HEAD is out. -/
def straySignJob : Job :=
  { strayRestoreJob with
    entry := { w0 := 0x8000070100000000, w1 := 0, w2 := 0, w3 := 0, w4 := 0, w5 := 0, w6 := 0, w7 := 0 }
    data := { keyA := [], keyB := strayBlob, keyC := [], keyD := [], recipients := [], input := [] }
    object := some { ObjectState.start with headSent := true, chain := List.replicate 32 0#8 } }

/-- The fixed part of a job's TAIL in a session (R105), and the message its signatures cover (R106). -/
def Job.tailFixedPart (j : Job) (x : Session) : Bytes :=
  tailFixed j.entry.w2.toNat j.obj.segmentsDone x j.obj.epoch (manifestRoot x.manifestAlg j.entry.w5 j.obj.leaves)
def Job.tailSigned (j : Job) (x : Session) : Bytes :=
  tailFormatted (containerRecord 4 j.obj.epoch j.entry.w5 0 j.obj.chain (j.tailFixedPart x ++ List.replicate (tailSignatures x) 0#8))

/-- A unit whose attempt is ready to sign, on a wick with a shroud. -/
def straySign : State :=
  { State.reset with
    dict := [(Key.vaultSlotSlice 0, 0)]
    sessions := [(0, strayTwoSigners)]
    jobs := [straySignJob]
    wicks := [(0, { Wick.fresh with shroud := { Shroud.off with keyed := true }, doneWith := some 0 })]
    vault := [(0, { alg := 0x30, uses := 2, origin := 0, exportable := false, persist := false, key := List.replicate 32 0#8 })]
    entropy := { Entropy.reset with drbgs := [(0, { Drbg.off with ready := true })] }
    roots := { State.reset.roots with osk := some strayOsk } }

/-! ### Its keys -/

theorem straySign_ready : straySign.attemptOf 0 0x0701 = some straySignJob ∧ straySign.streamDir (straySign.jobStream straySignJob) = 0 ∧ straySign.manifestReady straySignJob = true ∧
    straySign.shroudReady straySignJob = true ∧ straySign.canDraw straySignJob.instOf 2 := by
  unfold State.canDraw
  exact ⟨rfl, by decide, by decide, by decide, by decide⟩

theorem strayRsaKey_length : strayRsaKey.length = 648 := by simp only [strayRsaKey, List.length_append, leBytes_length, List.length_replicate]

theorem strayHeader_header : BlobHeader strayOsk strayHeader strayRsaKey.length := by
  unfold BlobHeader
  decide +kernel

theorem strayRsaKey_sizes : lengthServes 0x50 strayRsaKey false = true ∧ rsaFirstOk strayRsaKey = false := by decide +kernel

/-- What vault slot 0 and the blob hold. -/
def strayKeys (known : Bool) : List KeyFound := [.priv (List.replicate 32 0#8), if known then .priv strayRsaKey else .bad]

/-- The unit with another record of the session. -/
def State.strayWith (y : Session) : State := (straySign.setSession 0 y).touchSession 0

theorem strayWith_self : State.strayWith strayTwoSigners = straySign := by
  have same : Table.set (fun _ => Session.free) straySign.sessions 0 strayTwoSigners = straySign.sessions := by decide
  have set_ : State.strayWith strayTwoSigners = { straySign with sessions := Table.set (fun _ => Session.free) straySign.sessions 0 strayTwoSigners } := rfl
  rw [set_, same]

theorem State.strayWith_session (y : Session) : (State.strayWith y).session 0 = y := by
  unfold State.strayWith
  exact State.session_setSession _ _ _

theorem State.strayWith_blob (y : Session) : (State.strayWith y).openBlob 0 strayBlob = some { alg := 0x50, uses := 2, exportable := false, key := strayRsaKey } := by
  have fields : field strayHeader 5 1 = 0x50 ∧ field strayHeader 8 2 = 2 ∧ bitOf (field strayHeader 10 1) 0 = false := by decide +kernel
  obtain ⟨alg, uses, exportable⟩ := fields
  rw [strayBlob, State.openBlob_wrapped 0 rfl strayHeader_header (by rw [strayRsaKey_length]; decide) (by rw [strayRsaKey_length]; decide), alg, uses, exportable]

/-- A blob's RSA key that fails the check of its first use counts once a role has its check value (R202). -/
theorem State.resolveKey_rsaBlob {s : State} {j : Job} {ref : Nat} {host : Bytes} {k : BlobKey} (kind : refKind ref = 2) (opened : s.openBlob j.slice host = some k) (alg : k.alg = 0x50)
    (use : bitOf k.uses 1 = true) (sizes : lengthServes 0x50 k.key false = true) (bad : rsaFirstOk k.key = false) :
    s.resolveKey j ref 0x50 (some 1) false host = if (s.session j.entry.session).checks.any (fun c => c.1 = 0) then .priv k.key else .bad := by
  unfold State.resolveKey
  dsimp only
  rw [if_neg (by omega), if_pos kind, opened]
  obtain ⟨a, u, e, key⟩ := k
  simp only at alg use sizes bad
  subst alg
  have serves : algServes 0x50 key.length 0x50 false = true := by simp [algServes]
  simp only [serves, use, sizes, bad]
  cases (s.session j.entry.session).checks.any fun c => c.1 = 0 <;> rfl

/-- The two signing keys, while the session knows its first role and before. -/
theorem State.strayWith_keys (checks roots : List (Nat × Bytes)) : (State.strayWith { strayTwoSigners with checks := checks, pkRoots := roots }).objectKeys straySignJob = strayKeys (checks.any fun c => c.1 = 0) := by
  generalize known : ({ strayTwoSigners with checks := checks, pkRoots := roots } : Session) = y
  have session : (State.strayWith y).session straySignJob.entry.session = y := State.strayWith_session y
  have params : y.params = strayTwoSigners.params := by rw [← known]
  have first : (State.strayWith y).resolveKey straySignJob (strayTwoSigners.keyRef 0) 0x30 (some 1) false [] = .priv (List.replicate 32 0#8) :=
    Eq.trans (b := straySign.resolveKey straySignJob (strayTwoSigners.keyRef 0) 0x30 (some 1) false []) rfl (by decide)
  have second := State.resolveKey_rsaBlob (ref := strayTwoSigners.keyRef 1) (j := straySignJob) (by decide) (State.strayWith_blob y) rfl (by decide) strayRsaKey_sizes.1 strayRsaKey_sizes.2
  rw [session] at second
  have fields : y.signA = 0x30 ∧ y.signB = 0x50 ∧ y.recipients = 0 ∧ ∀ k, y.keyRef k = strayTwoSigners.keyRef k := by
    unfold Session.signA Session.signB Session.recipients Session.keyRef
    rw [params]
    exact ⟨by decide, by decide, by decide, fun _ => rfl⟩
  obtain ⟨signA, signB, recipients, refs⟩ := fields
  have op : straySignJob.entry.opcode = 0x0701 := by decide
  unfold State.objectKeys
  dsimp only
  rw [session, if_pos op, signA, signB, recipients, refs, refs]
  show [(State.strayWith y).resolveKey straySignJob (strayTwoSigners.keyRef 0) 0x30 (some 1) false []] ++ [(State.strayWith y).resolveKey straySignJob (strayTwoSigners.keyRef 1) 0x50 (some 1) false strayBlob] ++ [] = _
  rw [first, second, ← known]
  rfl

/-- The first bytes of the RSA signature that a key makes. -/
def straySeal (key : Bytes) : Bytes := (slhSet 0x50).prfMsg (slhSeeds 0x50 key).skPrf ((anyPublic 0x50 key).take (slhN 0x50)) (straySignJob.tailSigned strayTwoSigners)

theorem straySeal_differs : (straySeal []).length = (straySeal strayRsaKey).length ∧ straySeal [] ≠ straySeal strayRsaKey := by decide +kernel

end Sys2Proof.Machine
end

section
/-! PROOFS. What a TAIL's release leaves on a stream at rest, and the counterexample's TAIL (O35). -/

namespace Sys2Proof.Machine

/-! ### A record on a disabled stream -/

/-- A disabled stream is neither paced nor pumped. -/
theorem State.evaluate_disabled {s : State} {n : Nat} (dir : s.streamDir n = 0) (state : s.streamState n = stDisabled) : s.evaluate n = s := by
  have paced : s.paceEgress n = s := by
    unfold State.paceEgress
    dsimp only
    rw [state, if_neg (by decide), if_neg (by decide)]
  unfold State.evaluate
  dsimp only
  rw [if_pos dir, paced]
  unfold State.pump
  exact if_pos (by simp [state])

/-- The pieces of a stream's records, by their bytes. -/
def State.recordBytes (s : State) (n : Nat) : List Bytes := (s.stream n).records.map fun r => r.bytes

theorem State.recordBytes_of {s m : State} {n : Nat} (same : m.streams = s.streams) : m.recordBytes n = s.recordBytes n := by
  unfold State.recordBytes State.stream
  rw [same]

theorem State.unplaced_streams (s : State) (id : Nat) (f : Job → Job) (g : ObjectState → ObjectState) : ((((s.releaseUnits []).leaveSealers id).modJob id f).modObject id g).streams = s.streams := rfl

theorem State.appendRecord_disabled {s : State} {n : Nat} (dir : s.streamDir n = 0) (state : s.streamState n = stDisabled) (job kind : Nat) (bytes : Bytes) :
    (s.appendRecord n job kind bytes).recordBytes n = s.recordBytes n ++ [bytes] := by
  unfold State.appendRecord
  dsimp only
  rw [State.evaluate_disabled (by exact dir) (by exact state), State.recordBytes, State.stream_setStream, List.map_append]
  rfl

theorem State.releaseRecord_disabled {s : State} {id n : Nat} {j : Job} (found : s.findJob id = some j) (place : s.jobStream j = n) (dir : s.streamDir n = 0) (state : s.streamState n = stDisabled)
    (kind epoch seg : Nat) (body : Bytes) : (s.releaseRecord id kind epoch seg body).recordBytes n = s.recordBytes n ++ [containerRecord kind epoch j.entry.w5 seg j.obj.chain body] := by
  unfold State.releaseRecord
  rw [found]
  dsimp only
  rw [place]
  exact State.appendRecord_disabled (s := s.modObject id _) dir state id kind _

/-- A TAIL of an attempt without units is the last record of its stream. -/
theorem State.sendTail_disabled {s : State} {n : Nat} {j k : Job} (found : s.findJob j.id = some k) (same : k.entry = j.entry) (chain : k.obj.chain = j.obj.chain) (none_ : j.units = [])
    (place : s.jobStream j = n) (dir : s.streamDir n = 0) (state : s.streamState n = stDisabled) (body : Bytes) :
    (s.sendTail j body).recordBytes n = s.recordBytes n ++ [containerRecord 4 j.obj.epoch j.entry.w5 0 j.obj.chain body] := by
  unfold State.sendTail
  dsimp only
  rw [none_]
  have left : ((s.releaseUnits []).leaveSealers j.id).findJob j.id = some k := found
  have closing := State.findJob_modJob (fun q : Job => { q with phase := .closing, status := BitVec.ofNat 8 jsOk, units := [], served := q.units.filter fun u => unitClass u = 5 || unitClass u = 7, waitsEntropy := false })
    (fun _ => rfl) left
  obtain ⟨q, seen, entry, object⟩ : ∃ q, ((((s.releaseUnits []).leaveSealers j.id).modJob j.id fun q : Job =>
      { q with phase := .closing, status := BitVec.ofNat 8 jsOk, units := [], served := q.units.filter fun u => unitClass u = 5 || unitClass u = 7, waitsEntropy := false }).modObject j.id
        fun o => { o with tailSeen := true }).findJob j.id = some q ∧ q.entry = j.entry ∧ q.obj.chain = j.obj.chain := ⟨_, State.findJob_modObject closing _, same, chain⟩
  rw [State.releaseRecord_disabled seen (n := n) ((show (s.session q.entry.session).mediaStream = n by rw [entry]; exact place)) dir state, entry, object, State.recordBytes_of]
  exact State.unplaced_streams s j.id _ _

end Sys2Proof.Machine
end

section
/-! PROOFS. The counterexample's TAIL (O35). -/

namespace Sys2Proof.Machine

/-- The check value and the root that the first role takes at its first use. -/
def strayChecks : List (Nat × Bytes) := [] ++ [(0, keyCheck 0x30 true (List.replicate 32 0#8))]
def strayRoots : List (Nat × Bytes) := if (rootOf 0x30 (.priv (List.replicate 32 0#8))).isEmpty then [] else [] ++ [(0, rootOf 0x30 (.priv (List.replicate 32 0#8)))]

/-- The unit when the session knows its first role. -/
def strayKnown : State := State.strayWith { strayTwoSigners with checks := strayChecks, pkRoots := strayRoots }

theorem straySign_signers : straySign.signers straySignJob = [(0, 0x30, .priv (List.replicate 32 0#8)), (1, 0x50, .bad)] := by
  have keys := State.strayWith_keys [] []
  have self : State.strayWith { strayTwoSigners with checks := [], pkRoots := [] } = straySign := strayWith_self
  rw [self] at keys
  unfold State.signers
  dsimp only
  rw [keys]
  rfl

theorem strayKnown_session : strayKnown.session straySignJob.entry.session = { strayTwoSigners with checks := strayChecks, pkRoots := strayRoots } := State.strayWith_session _

theorem strayKnown_objectKeys : strayKnown.objectKeys straySignJob = strayKeys true := State.strayWith_keys strayChecks strayRoots

theorem strayKnown_signers : strayKnown.signers straySignJob = [(0, 0x30, .priv (List.replicate 32 0#8)), (1, 0x50, .priv strayRsaKey)] := by
  unfold State.signers
  dsimp only
  rw [strayKnown_objectKeys, strayKnown_session]
  rfl

/-- The first role takes its check value; a key that is bad takes none. -/
theorem straySign_expands : straySign.expandRoles straySignJob.entry.session (straySign.signers straySignJob) = some strayKnown := by
  have first : straySign.expandRole 0 0 0x30 (.priv (List.replicate 32 0#8)) = some strayKnown := rfl
  have second : strayKnown.expandRole 0 1 0x50 .bad = some strayKnown := rfl
  rw [straySign_signers]
  show (straySign.expandRole 0 0 0x30 (.priv (List.replicate 32 0#8))).bind (fun s => (s.expandRole 0 1 0x50 .bad).bind some) = _
  rw [first, Option.bind_some, second, Option.bind_some]

/-! ### The signing -/

/-- A signature that is not ML-DSA's is always made (R105). -/
theorem tailSign_slh {a : Nat} (h : isMlDsa a = false) (key root msg rnd : Bytes) : tailSign a key root msg rnd = some (signatureBlock a (slhSignature a key root msg rnd)) := by
  unfold tailSign signatureOf
  rw [h]
  rfl

/-- An attempt without wicks keeps no expansions. -/
theorem State.keepKeys_none (s : State) (j : Job) (a : Nat) (k : KeyFound) (first : Bool) : s.keepKeys j a k first [] = s := by
  unfold State.keepKeys
  split <;> rfl

/-- A wick whose program is done spends no words. -/
theorem State.charge_done {s : State} {id : Nat} {j : Job} (found : s.findJob id = some j) (done : (s.wick j.wick).doneWith.isSome = true) (cycles taper words : Nat) :
    s.charge id cycles taper words = s.modJob id fun j => { j with cycles := j.cycles + cycles, taperCycles := j.taperCycles + taper, shroud := j.shroud + words } := by
  have spent : s.spendWords j.wick words = s := by
    unfold State.spendWords
    dsimp only
    rw [done, Bool.or_true]
    rfl
  unfold State.charge
  rw [found]
  dsimp only
  rw [spent]

/-- The unit when the wick has the second key. -/
def strayLoadedKeys : State :=
  let s := strayKnown.setWick 0 ((strayKnown.wick 0).loadWkr (List.replicate 32 0#8) 0x30)
  s.setWick 0 ((s.wick 0).loadWkr strayRsaKey 0x50)

theorem strayKnown_loads (first : Bool) : strayKnown.loadSigners straySignJob first = strayLoadedKeys := by
  have none_ : unitsOfClass straySignJob.units 1 = [] := rfl
  unfold State.loadSigners
  dsimp only
  rw [none_, State.keepKeys_none, strayKnown_objectKeys, strayKnown_session]
  rfl

theorem strayLoadedKeys_stream : strayLoadedKeys.jobStream straySignJob = 0 := by
  unfold State.jobStream strayLoadedKeys
  dsimp only
  rw [State.session_setWick, State.session_setWick, strayKnown_session]
  rfl

theorem strayLoadedKeys_wick : (strayLoadedKeys.wick 0).shroud = { Shroud.off with keyed := true } ∧ (strayLoadedKeys.wick 0).doneWith = some 0 := by
  unfold strayLoadedKeys
  dsimp only
  rw [State.wick_setWick, State.wick_setWick]
  exact ⟨rfl, rfl⟩

/-- A job keeps what stands for a draw. -/
def State.keepsGiven (s : State) (id place : Nat) (given : Bytes) : State :=
  s.modJob id fun j => { j with kept := if j.kept.length ≤ place then j.kept ++ [given] else j.kept }

theorem State.withDrawIf_false (s : State) (given : Bytes) (id place i n : Nat) (f : Bytes → State → State) : s.withDrawIf false given id place i n f = f given (s.keepsGiven id place given) := rfl

theorem strayLoadedKeys_shroud : strayLoadedKeys.shroudReady straySignJob = true := by
  obtain ⟨shroud, -⟩ := strayLoadedKeys_wick
  have wick : straySignJob.wick = 0 := by decide
  unfold State.shroudReady
  rw [wick, shroud]
  rfl

/-- Two signatures without a draw, neither of them ML-DSA's: they are made with the keys found after both roles were expanded. -/
theorem manifestSign_unhedged {s u v : State} {id : Nat} {j : Job} {x : Session} {a b : Nat} {k l : Bytes} (attempt : s.attemptOf id 0x0701 = some j) (ready : s.manifestReady j = true)
    (session : s.session j.entry.session = x) (expanded : s.expandRoles j.entry.session (s.signers j) = some u) (loads : ∀ first, u.loadSigners j first = v)
    (signers : u.signers j = [(0, a, .priv k), (1, b, .priv l)]) (shroud : v.shroudReady j = true) (signA : x.signA = a) (signB : x.signB = b) (mode : x.signMode = 0) (first : a ≠ 0) (second : b ≠ 0)
    (plainA : isMlDsa a = false) (plainB : isMlDsa b = false) : ∃ p q cost words root, s.manifestSign id true =
      (((v.keepsGiven id p (List.replicate 32 0#8)).keepsGiven id q ((anyPublic b l).take (slhN b))).charge id cost 0 words).sendTail j
        (j.tailFixedPart x ++ signatureBlock a (slhSignature a k [] (j.tailSigned x) (List.replicate 32 0#8)) ++
          signatureBlock b (slhSignature b l root (j.tailSigned x) ((anyPublic b l).take (slhN b)))) := by
  have keyA : (([(0, a, .priv k), (1, b, .priv l)] : List (Nat × Nat × KeyFound)).find? fun k => k.1 = 0).map (fun k => k.2.2.secretKey) = some k := rfl
  have keyB : (([(0, a, .priv k), (1, b, .priv l)] : List (Nat × Nat × KeyFound)).find? fun k => k.1 = 1).map (fun k => k.2.2.secretKey) = some l := rfl
  have isReady : ¬ (!s.manifestReady j) = true := by simp [ready]
  have checks : ¬ (!true) = true := by decide
  have masked : ¬ (true && !v.shroudReady j) = true := by simp [shroud]
  have undrawn : ∀ p : Bool, (decide (0 = 1) && p) = false := fun _ => rfl
  unfold State.manifestSign
  rw [State.during_some attempt]
  dsimp only
  rw [if_neg isReady, if_neg checks, expanded]
  dsimp only
  rw [loads, signers, keyA, keyB, session, signA, signB, mode]
  unfold State.withShroud
  rw [if_neg masked, undrawn, State.withDrawIf_false, undrawn, State.withDrawIf_false, if_neg first, if_neg second, tailSign_slh plainA, tailSign_slh plainB]
  exact ⟨_, _, _, _, _, rfl⟩

/-- The unit's signatures are made with the RSA key. -/
theorem straySign_manifest : ∃ p q cost words root, straySign.manifestSign 0 true =
    (((strayLoadedKeys.keepsGiven 0 p (List.replicate 32 0#8)).keepsGiven 0 q ((anyPublic 0x50 strayRsaKey).take (slhN 0x50))).charge 0 cost 0 words).sendTail straySignJob
      (straySignJob.tailFixedPart strayTwoSigners ++ signatureBlock 0x30 (slhSignature 0x30 (List.replicate 32 0#8) [] (straySignJob.tailSigned strayTwoSigners) (List.replicate 32 0#8)) ++
        signatureBlock 0x50 (slhSignature 0x50 strayRsaKey root (straySignJob.tailSigned strayTwoSigners) ((anyPublic 0x50 strayRsaKey).take (slhN 0x50)))) := by
  obtain ⟨attempt, -, ready, -, -⟩ := straySign_ready
  exact manifestSign_unhedged attempt ready rfl straySign_expands strayKnown_loads strayKnown_signers strayLoadedKeys_shroud (by decide) (by decide) (by decide) (by decide) (by decide) (by decide) (by decide)

end Sys2Proof.Machine
end

section
/-! PROOFS. Records and signatures tell the keys apart; the refutation of O35. -/

namespace Sys2Proof.Machine

/-! ### What a record and a signature begin with -/

/-- Records of one header and chain whose bytes agree have one body (R97). -/
theorem containerRecord_body {kind epoch seg : Nat} {o : BitVec 64} {chain b c : Bytes} (h : containerRecord kind epoch o seg chain b = containerRecord kind epoch o seg chain c) : b = c := by
  unfold containerRecord at h
  refine (List.append_inj h ?_).2
  simp [leBytes_length]

/-- A signature block tells the first bytes of its signature (R105). -/
theorem signatureBlock_first {a : Nat} {p q r t : Bytes} (size : p.length = q.length) (h : signatureBlock a (p ++ r) = signatureBlock a (q ++ t)) : p = q := by
  unfold signatureBlock pad8 at h
  simp only [List.append_assoc] at h
  have heads := (List.append_inj h rfl).2
  have zeros := (List.append_inj heads rfl).2
  have sizes := (List.append_inj zeros (by simp [leBytes_length])).2
  exact (List.append_inj sizes size).1

/-- An SLH-DSA signature begins with its randomizer (R151). -/
theorem slhSignature_first (a : Nat) (key root msg rnd : Bytes) : ∃ rest, slhSignature a key root msg rnd = (slhSet a).prfMsg (slhSeeds a key).skPrf rnd msg ++ rest := by
  unfold slhSignature slhSignWith
  dsimp only
  simp only [List.append_assoc]
  exact ⟨_, rfl⟩

/-! ### The attempt's TAIL -/

/-- Two values kept and a charge without a wick's words leave the job its entry, its object and its units. -/
theorem State.signed_record {v : State} {j : Job} {n : Nat} (found : v.findJob j.id = some j) (done : (v.wick j.wick).doneWith.isSome = true) (none_ : j.units = []) (place : v.jobStream j = n)
    (dir : v.streamDir n = 0) (state : v.streamState n = stDisabled) (p q cost words : Nat) (f g body : Bytes) :
    ((((v.keepsGiven j.id p f).keepsGiven j.id q g).charge j.id cost 0 words).sendTail j body).recordBytes n = v.recordBytes n ++ [containerRecord 4 j.obj.epoch j.entry.w5 0 j.obj.chain body] := by
  have once := State.findJob_modJob (fun j : Job => { j with kept := if j.kept.length ≤ p then j.kept ++ [f] else j.kept }) (fun _ => rfl) found
  have twice := State.findJob_modJob (fun j : Job => { j with kept := if j.kept.length ≤ q then j.kept ++ [g] else j.kept }) (fun _ => rfl) once
  have charged := State.findJob_modJob (fun j : Job => { j with cycles := j.cycles + cost, taperCycles := j.taperCycles + 0, shroud := j.shroud + words }) (fun _ => rfl) twice
  unfold State.keepsGiven
  rw [State.charge_done twice (by exact done), State.sendTail_disabled (n := n) charged rfl rfl none_ (by exact place) (by exact dir) (by exact state)]
  rfl

/-- What the statement says of the second signature, where its key is bad before the first role is known and found after. -/
theorem objectWrites_secondSignature (h : Obligations.ObjectWrites) {s u v : State} {j : Job} {x : Session} {a b : Nat} {k l : Bytes} (attempt : s.attemptOf j.id 0x0701 = some j) (dir : s.streamDir (s.jobStream j) = 0)
    (ready : s.manifestReady j = true) (session : s.session j.entry.session = x) (expanded : s.expandRoles j.entry.session (s.signers j) = some u) (loads : ∀ first, u.loadSigners j first = v)
    (signers : u.signers j = [(0, a, .priv k), (1, b, .priv l)]) (shroud : v.shroudReady j = true) (signA : x.signA = a) (signB : x.signB = b) (mode : x.signMode = 0) (first : a ≠ 0) (second : b ≠ 0)
    (plainA : isMlDsa a = false) (plainB : isMlDsa b = false) (keys : s.objectKeys j = [.priv k, .bad]) (shroudFirst : s.shroudReady j = true) (draws : s.canDraw j.instOf 2) (kept : j.kept = [])
    (found : v.findJob j.id = some j) (done : (v.wick j.wick).doneWith.isSome = true) (none_ : j.units = []) (place : v.jobStream j = s.jobStream j)
    (dirAfter : v.streamDir (s.jobStream j) = 0) (state : v.streamState (s.jobStream j) = stDisabled) (empty : v.recordBytes (s.jobStream j) = []) :
    ∃ root root', signatureBlock b (slhSignature b [] root (j.tailSigned x) ((anyPublic b []).take (slhN b))) = signatureBlock b (slhSignature b l root' (j.tailSigned x) ((anyPublic b l).take (slhN b))) := by
  obtain ⟨p, q, cost, words, root', signed⟩ := manifestSign_unhedged attempt ready session expanded loads signers shroud signA signB mode first second plainA plainB
  have sent := State.signed_record found done none_ place dirAfter state p q cost words (List.replicate 32 0#8) ((anyPublic b l).take (slhN b))
    (j.tailFixedPart x ++ signatureBlock a (slhSignature a k [] (j.tailSigned x) (List.replicate 32 0#8)) ++ signatureBlock b (slhSignature b l root' (j.tailSigned x) ((anyPublic b l).take (slhN b))))
  obtain ⟨-, -, -, -, tail⟩ := h s j.id j attempt dir
  have claim := tail ready shroudFirst draws (by rw [kept]; exact Nat.zero_le _) (by rw [expanded]; exact Option.some_ne_none u)
  dsimp only at claim
  rw [session, signA, signB, keys, if_neg first] at claim
  obtain ⟨t, result, c, d, ra, rb, plain, firstMade, secondMade, ⟨r, held, -, -, -, bytes⟩, -⟩ :=
    claim (fun r => Or.inr (by rw [tailSign_slh plainA]; exact Option.some_ne_none _)) (fun r => Or.inr (by rw [tailSign_slh plainB]; exact Option.some_ne_none _))
  obtain ⟨zeros, point⟩ := plain (by rw [mode]; decide)
  rw [if_neg first, zeros, tailSign_slh plainA] at firstMade
  rw [if_neg second, point second, tailSign_slh plainB] at secondMade
  have after : s.manifestSign j.id true = t := by injection result
  rw [← signed, after, empty] at sent
  have only : r.bytes ∈ t.recordBytes (s.jobStream j) := List.mem_map_of_mem held
  rw [sent, List.nil_append, List.mem_singleton, bytes] at only
  have bodies := containerRecord_body only
  rw [← Option.some_inj.mp firstMade, ← Option.some_inj.mp secondMade] at bodies
  exact ⟨_, root', List.append_cancel_left bodies⟩

/-- Refutes O35: a session signs TAILs with the key of a vault slot and then with the RSA key of a blob whose exponents fail the check of a first use. The statement takes both keys before the attempt, and no role is known then, so that blob gives no key; MANIFEST_SIGN expands the roles first, and signs with the keys found after that, when the check of the first use is no longer asked for. The two signatures differ in their first bytes. The statement bounds neither the session's second signature algorithm nor its keys. -/
theorem not_objectWrites : ¬ Obligations.ObjectWrites := by
  intro h
  obtain ⟨attempt, dir, ready, shroud, draws⟩ := straySign_ready
  have keys : straySign.objectKeys straySignJob = [.priv (List.replicate 32 0#8), .bad] := by
    rw [← strayWith_self]
    exact State.strayWith_keys [] []
  have disabled : strayLoadedKeys.streamDir 0 = 0 ∧ strayLoadedKeys.streamState 0 = stDisabled ∧ strayLoadedKeys.recordBytes 0 = [] := ⟨rfl, rfl, rfl⟩
  obtain ⟨dirAfter, state, empty⟩ := disabled
  obtain ⟨-, wick⟩ := strayLoadedKeys_wick
  obtain ⟨root, root', same⟩ := objectWrites_secondSignature h (j := straySignJob) (x := strayTwoSigners) (a := 0x30) (b := 0x50) (k := List.replicate 32 0#8) (l := strayRsaKey) attempt dir ready rfl straySign_expands strayKnown_loads strayKnown_signers strayLoadedKeys_shroud (by decide) (by decide) (by decide) (by decide)
    (by decide) (by decide) (by decide) keys shroud draws rfl rfl (by exact congrArg Option.isSome wick) rfl strayLoadedKeys_stream dirAfter state empty
  obtain ⟨_, unkeyed⟩ := slhSignature_first 0x50 [] root (straySignJob.tailSigned strayTwoSigners) ((anyPublic 0x50 []).take (slhN 0x50))
  obtain ⟨_, keyed⟩ := slhSignature_first 0x50 strayRsaKey root' (straySignJob.tailSigned strayTwoSigners) ((anyPublic 0x50 strayRsaKey).take (slhN 0x50))
  rw [unkeyed, keyed] at same
  obtain ⟨sizes, differ⟩ := straySeal_differs
  exact differ (signatureBlock_first sizes same)

end Sys2Proof.Machine
end

section
/-! PROOFS. The SYS group and the control registers of a wick (R82, R86, R265, R281, R282, R291). -/

namespace Sys2Proof.Machine

/-! ### What an instruction reads of its wick -/

section
variable {s s0 : State} {w : Nat} {x x0 : Wick}

theorem Wick.job_steady (h : x0.steady = x.steady) : x0.job = x.job := Wick.of_steady Wick.job (fun _ => rfl) h
theorem Wick.owner_steady (h : x0.steady = x.steady) : x0.owner = x.owner := Wick.of_steady Wick.owner (fun _ => rfl) h
theorem Wick.draining_steady (h : x0.steady = x.steady) : x0.draining = x.draining := Wick.of_steady Wick.draining (fun _ => rfl) h

/-- An update of a wick's fields that cycles do not move is one of its steady part. -/
theorem Wick.steady_update (f : Wick → Wick) (hf : ∀ y, (f y).steady = (f y.steady).steady) (h : x0.steady = x.steady) : (f x0).steady = (f x).steady := by
  rw [hf x0, h, ← hf x]

theorem AtIssue.wick (k : AtIssue s w s0 x0) (v : Nat) : s0.wick v = s.wick v := by
  obtain ⟨n, rfl⟩ := k.state
  rfl

theorem AtIssue.findJob (k : AtIssue s w s0 x0) (id : Nat) : s0.findJob id = s.findJob id := by
  obtain ⟨n, rfl⟩ := k.state
  rfl

/-- An instruction that issues whenever it is judged leaves the wick it gives. -/
theorem Becomes.issue {i : Instr} {f : State → Wick → Issue} {pc : BitVec 14} {y : Wick} (e : exec i s = .next (s.issue w f)) (h : s.wickIssues w = true)
    (k : ∀ s0 x0, AtIssue s w s0 x0 → ∃ z, f s0 x0 = .ok s0 z ∧ z.pc = pc ∧ z.steady = y.steady) : Becomes i s w pc y := by
  refine ⟨_, e, State.issue_ok (p := fun t => Issued s t w pc ∧ (t.wick w).steady = y.steady) h fun s0 x0 a => ?_⟩
  obtain ⟨z, hz, rfl, steady⟩ := k s0 x0 a
  refine ⟨s0, z, hz, Issued.set a z, ?_⟩
  rw [State.wick_countPowerDown, State.wick_setWick]
  exact steady

/-- Without a stall an instruction is judged at once, on the state as it is. -/
theorem State.issue_now {f g : State → Wick → Issue} (h : (s.wick w).stall = .none) (e : f s (s.wick w) = g s (s.wick w)) : s.issue w f = s.issue w g := by
  unfold State.issue
  simp [h, e]

/-- A scalar instruction whose value depends on more of its wick than its steady part, without a stall. -/
theorem WritesReg.now {i : Instr} {rd : BitVec 5} {n : Nat} {v : Wick → Word72} (e : exec i s = .next (s.scalar w (fun _ => true) rd [] n v)) (h : s.wickIssues w = true)
    (still : (s.wick w).stall = .none) : WritesReg i s w rd (if (s.wick w).level1 then low64 (v (s.wick w)) else v (s.wick w)) := by
  have fixed : s.scalar w (fun _ => true) rd [] n v = s.scalar w (fun _ => true) rd [] n fun _ => v (s.wick w) := State.issue_now still rfl
  refine WritesReg.scalar (e.trans (congrArg Host.Outcome.next fixed)) h (fun _ _ => rfl) fun x0 k => ?_
  rw [Wick.level1_steady k]

end

/-! ### NOP, FENCE, CR and CW -/

section
variable {s : State} {w : Fin 256} (h : s.wickIssues w = true)
include h

theorem execNop_becomes (rs1 : BitVec 5) (code : BitVec 8) : Becomes (.nop w 0 rs1 0 code) s w ((s.wick w).pc + 1) (s.wick w) := by
  refine Becomes.issue rfl h fun s0 x0 k => ⟨x0.advance x0.cycles 1, rfl, ?_, k.steady⟩
  rw [Wick.pc_advance, k.pc]

theorem execFence_becomes (rs1 : BitVec 5) (code : BitVec 8) (drained : (s.wick w).draining = false) :
    Becomes (.fence w 0 rs1 0 code) s w ((s.wick w).pc + 1) (s.wick w) := by
  refine Becomes.issue rfl h fun s0 x0 k => ⟨x0.advance x0.cycles 1, ?_, ?_, k.steady⟩
  · simp [Wick.draining_steady k.steady, drained]
  · rw [Wick.pc_advance, k.pc]

theorem execCr_writes (rd : BitVec 5) (c : BitVec 6) (still : (s.wick w).stall = .none) :
    WritesReg (.cr w rd 0 c 0) s w rd (if (s.wick w).level1 then low64 (BitVec.ofNat 72 (s.controlReg w (s.wick w) c.toNat)) else BitVec.ofNat 72 (s.controlReg w (s.wick w) c.toNat)) :=
  WritesReg.now (v := fun x => BitVec.ofNat 72 (s.controlReg w x c.toNat)) rfl h still

/-- A write of a control register that has a place in the wick: the place takes what the register's limits make of the source. -/
theorem execCw_becomes {rs1 : BitVec 5} {c : BitVec 6} {f : State → Wick → Issue} (set : Word72 → Wick → Wick) (e : exec (.cw w 0 rs1 c 0) s = .next (s.issue w f))
    (ok : ∀ s0 x0, f s0 x0 = .ok s0 (set (x0.reg rs1) (x0.advance (x0.issueAt [rs1] [] [] 0) 2)))
    (pc : ∀ v y, (set v y).pc = y.pc) (steady : ∀ v y, (set v y).steady = (set v y.steady).steady) :
    Becomes (.cw w 0 rs1 c 0) s w ((s.wick w).pc + 1) (set ((s.wick w).reg rs1) (s.wick w)) := by
  refine Becomes.issue e h fun s0 x0 k => ⟨_, ok s0 x0, ?_, ?_⟩
  · rw [pc, Wick.pc_advance, k.pc]
  · rw [Wick.reg_steady k.steady]
    exact Wick.steady_update _ (steady _) k.steady

theorem execCw_napCtl (rs1 : BitVec 5) :
    Becomes (.cw w 0 rs1 5 0) s w ((s.wick w).pc + 1) { s.wick w with napCtl := napLimits ((s.wick w).reg rs1).toNat } :=
  execCw_becomes h (fun v y => { y with napCtl := napLimits v.toNat }) rfl (fun _ _ => rfl) (fun _ _ => rfl) fun _ _ => rfl

theorem execCw_mod (rs1 : BitVec 5) : Becomes (.cw w 0 rs1 8 0) s w ((s.wick w).pc + 1) { s.wick w with mod := (s.wick w).reg rs1 } :=
  execCw_becomes h (fun v y => { y with mod := v }) rfl (fun _ _ => rfl) (fun _ _ => rfl) fun _ _ => rfl

theorem execCw_fvIdle (rs1 : BitVec 5) :
    Becomes (.cw w 0 rs1 13 0) s w ((s.wick w).pc + 1) { s.wick w with fvIdle := min 16777216 (max 1024 (bitsOf ((s.wick w).reg rs1).toNat 24 0)) } :=
  execCw_becomes h (fun v y => { y with fvIdle := min 16777216 (max 1024 (bitsOf v.toNat 24 0)) }) rfl (fun _ _ => rfl) (fun _ _ => rfl) fun _ _ => rfl

end

/-! ### TRAP -/

section
variable {s : State} {w : Nat} {j : Job} (serves : (s.wick w).job = some j.id) (found : s.findJob j.id = some j)
include serves found

/-- The faults of a program's own making, by whose program it is: an owner's job ends, a vendor's fault is reported (R285). -/
theorem State.wickFault_own :
    (∀ code, s.wickFault w (.program code) = if (s.wick w).owner then s.failJob j.id jsFormat
      else (s.setWick w { s.wick w with report := some { address := 0, pc := (s.wick w).pc, code := code } }).reportFault 0x0108 (uWick w) (uWick w) (uSlice j.slice) 0) ∧
    s.wickFault w .budget = if (s.wick w).owner then s.failJob j.id jsFormat else s.reportFault 0x0109 (uWick w) (uWick w) (uSlice j.slice) 0 := by
  unfold State.wickFault
  dsimp only
  rw [serves]
  cases (s.wick w).owner with
  | true => exact ⟨fun _ => rfl, rfl⟩
  | false => simp [found, WickFault.report, WickFault.code]

end

theorem execTrap_faults {s : State} {w : Fin 256} {j : Job} (h : s.wickIssues w = true) (serves : (s.wick w).job = some j.id) (found : s.findJob j.id = some j)
    (rs1 : BitVec 5) (code : BitVec 8) :
    exec (.trap w 0 rs1 0 code) s = .next (if (s.wick w).owner then s.failJob j.id jsFormat
      else (s.setWick w { s.wick w with report := some { address := 0, pc := (s.wick w).pc, code := code } }).reportFault 0x0108 (uWick w) (uWick w) (uSlice j.slice) 0) := by
  have faults : exec (.trap w 0 rs1 0 code) s = .next (s.wickFault w (.program code)) :=
    congrArg Host.Outcome.next (State.issue_fault h fun _ _ _ => rfl)
  rw [faults, (State.wickFault_own serves found).1]

/-! ### DONE -/

/-- The wick as it stands at its DONE. -/
def Wick.atDone (x : Wick) (code : BitVec 8) : Wick := { x.passTo (x.cycles + 1) with doneWith := some code }

/-- The status of an attempt whose wicks have all reached their DONE: that of its first wick (R82). -/
def State.leadStatus (s : State) : List Nat → Nat
  | v :: _ => ((s.wick v).doneWith.getD 0).toNat
  | [] => jsOk

/-- The outcome of the attempt's own check: every wick but the first ended with 00h (R86). -/
def State.checkPassed (s : State) (l : List Nat) : Bool := (l.drop 1).all fun v => (s.wick v).doneWith = some 0

/-- What the DONE of the last wick makes of a vendor attempt (R82, R86, log 45). -/
def State.attemptDone (s : State) (j : Job) (w : Nat) : State :=
  let a := j.attemptWicks w
  if s.leadStatus a.1 = jsOk || !s.checkPassed a.1 then s.vendorResult j a.2 (s.checkPassed a.1) else s.failJob j.id (s.leadStatus a.1)

section
variable {s : State} {w : Nat} {x : Wick} {j : Job} (serves : x.job = some j.id) (found : s.findJob j.id = some j)
include serves found

theorem State.wickDone_owner (owner : x.owner = true) (status len : Nat) : s.wickDone w x status len = .ended (s.ownerDone j status len) := by
  unfold State.wickDone
  rw [serves]
  simp [found, owner]

/-- DONE of a vendor program, case by case (log 45). -/
theorem State.wickDone_vendor (vendor : x.owner = false) (code : BitVec 8) (len : Nat) :
    s.wickDone w x code.toNat len =
      if isObject j.entry.opcode then .ok s (x.atDone code)
      else if (j.attemptWicks w).1.head? = some w && !vendorStatus j.entry.opcode code.toNat then .fault (.program code)
      else if ((j.attemptWicks w).1.filter fun v => v ≠ w).any (fun v => (s.wick v).doneWith.isNone) then .ok s (x.atDone code)
      else .ended ((s.setWick w (x.atDone code)).attemptDone j w) := by
  have same : BitVec.ofNat 8 code.toNat = code := by simp
  unfold State.wickDone
  rw [serves]
  simp only [found, vendor, same, Bool.false_eq_true, if_false]
  rw [← apply_ite Issue.ended]
  rfl

end

/-- How DONE is judged once its wick has drained. -/
def doneIssue (w : Fin 256) (rs1 : BitVec 5) (code : BitVec 8) (s : State) (x : Wick) : Issue :=
  if x.draining then .stall s x .drain else s.wickDone w x code.toNat (x.reg rs1).toNat

theorem execDone_issue (s : State) (w : Fin 256) (rs1 : BitVec 5) (code : BitVec 8) : exec (.done w 0 rs1 0 code) s = .next (s.issue w (doneIssue w rs1 code)) := rfl

section
variable {s s0 : State} {w : Fin 256} {x0 : Wick} {j : Job} (rs1 : BitVec 5) (code : BitVec 8)
variable (h : s.wickIssues w = true) (serves : (s.wick w).job = some j.id) (found : s.findJob j.id = some j) (drained : (s.wick w).draining = false)
include serves found drained

theorem doneIssue_owner (owner : (s.wick w).owner = true) (k : AtIssue s w s0 x0) :
    doneIssue w rs1 code s0 x0 = .ended (s0.ownerDone j code.toNat ((s.wick w).reg rs1).toNat) := by
  unfold doneIssue
  rw [Wick.draining_steady k.steady, drained, if_neg Bool.false_ne_true, Wick.reg_steady k.steady]
  exact State.wickDone_owner ((Wick.job_steady k.steady).trans serves) ((k.findJob _).trans found) ((Wick.owner_steady k.steady).trans owner) _ _

theorem doneIssue_vendor (vendor : (s.wick w).owner = false) (k : AtIssue s w s0 x0) :
    doneIssue w rs1 code s0 x0 =
      if isObject j.entry.opcode then .ok s0 (x0.atDone code)
      else if (j.attemptWicks w).1.head? = some w.val && !vendorStatus j.entry.opcode code.toNat then .fault (.program code)
      else if ((j.attemptWicks w).1.filter fun v => v ≠ w.val).any (fun v => (s.wick v).doneWith.isNone) then .ok s0 (x0.atDone code)
      else .ended ((s0.setWick w (x0.atDone code)).attemptDone j w) := by
  unfold doneIssue
  rw [Wick.draining_steady k.steady, drained, if_neg Bool.false_ne_true,
    State.wickDone_vendor ((Wick.job_steady k.steady).trans serves) ((k.findJob _).trans found) ((Wick.owner_steady k.steady).trans vendor)]
  simp only [k.wick]

include h

/-- The DONE of an owner program ends its job, at the state in which the instruction issues (R291). -/
theorem execDone_owner (owner : (s.wick w).owner = true) :
    ∃ s0 x0, AtIssue s w s0 x0 ∧ exec (.done w 0 rs1 0 code) s = .next (s0.ownerDone j code.toNat ((s.wick w).reg rs1).toNat) := by
  rw [execDone_issue]
  exact State.issue_ended (p := fun t => ∃ s0 x0, AtIssue s w s0 x0 ∧ Host.Outcome.next t = .next (s0.ownerDone j code.toNat ((s.wick w).reg rs1).toNat)) h
    fun s0 x0 k => ⟨_, doneIssue_owner rs1 code serves found drained owner k, s0, x0, k, rfl⟩

/-- A wick of a vendor attempt stays at its DONE: one of an object job, or one whose attempt has wicks that have not reached theirs (log 45). -/
theorem execDone_waits (vendor : (s.wick w).owner = false)
    (waits : isObject j.entry.opcode = true ∨ ((j.attemptWicks w).1.head? = some w.val → vendorStatus j.entry.opcode code.toNat = true) ∧
      ∃ v ∈ (j.attemptWicks w).1.filter fun v => v ≠ w.val, (s.wick v).doneWith = none) :
    Becomes (.done w 0 rs1 0 code) s w (s.wick w).pc { s.wick w with doneWith := some code } := by
  refine Becomes.issue (execDone_issue s w rs1 code) h fun s0 x0 k => ⟨x0.atDone code, ?_, k.pc, ?_⟩
  · rw [doneIssue_vendor rs1 code serves found drained vendor k]
    by_cases object : isObject j.entry.opcode = true
    · rw [if_pos object]
    · obtain ⟨legal, v, hv, waiting⟩ := waits.resolve_left object
      have waitsOn : ((j.attemptWicks w).1.filter fun v => v ≠ w.val).any (fun v => (s.wick v).doneWith.isNone) = true :=
        List.any_eq_true.mpr ⟨v, hv, by rw [waiting]; rfl⟩
      rw [if_neg object, if_neg (by simpa using legal), if_pos waitsOn]
  · exact Wick.steady_update (fun y => { y with doneWith := some code }) (fun _ => rfl) k.steady

/-- A status that no job of the opcode has is a program fault (R82, R83). -/
theorem execDone_illegal (vendor : (s.wick w).owner = false) (direct : isObject j.entry.opcode = false)
    (illegal : ¬((j.attemptWicks w).1.head? = some w.val → vendorStatus j.entry.opcode code.toNat = true)) :
    exec (.done w 0 rs1 0 code) s = .next ((s.setWick w { s.wick w with report := some { address := 0, pc := (s.wick w).pc, code := code } }).reportFault 0x0108 (uWick w) (uWick w) (uSlice j.slice) 0) := by
  have faults : s.issue w (doneIssue w rs1 code) = s.wickFault w (.program code) := by
    refine State.issue_fault h fun s0 x0 k => ?_
    rw [doneIssue_vendor rs1 code serves found drained vendor k, if_neg (by simp [direct]), if_pos (by simpa using illegal)]
  rw [execDone_issue, faults, (State.wickFault_own serves found).1, if_neg (by simp [vendor])]

/-- The DONE of the last wick of a vendor attempt ends it (R82, R86, log 45). -/
theorem execDone_last (vendor : (s.wick w).owner = false) (direct : isObject j.entry.opcode = false)
    (legal : (j.attemptWicks w).1.head? = some w.val → vendorStatus j.entry.opcode code.toNat = true)
    (rest : ∀ v ∈ (j.attemptWicks w).1.filter fun v => v ≠ w.val, (s.wick v).doneWith ≠ none) :
    ∃ (n : Nat) (y : Wick), y.steady = { s.wick w with doneWith := some code }.steady ∧ y.doneWith = some code ∧
      exec (.done w 0 rs1 0 code) s = .next (({ s with freeIndex := n }.setWick w y).attemptDone j w) := by
  have closed : ¬((j.attemptWicks w).1.filter fun v => v ≠ w.val).any (fun v => (s.wick v).doneWith.isNone) = true := by
    intro c
    obtain ⟨v, hv, waiting⟩ := List.any_eq_true.mp c
    exact rest v hv (Option.isNone_iff_eq_none.mp waiting)
  rw [execDone_issue]
  refine State.issue_ended (p := fun t => ∃ (n : Nat) (y : Wick), y.steady = { s.wick w with doneWith := some code }.steady ∧ y.doneWith = some code ∧
    Host.Outcome.next t = .next (({ s with freeIndex := n }.setWick w y).attemptDone j w)) h fun s0 x0 k => ?_
  refine ⟨(s0.setWick w (x0.atDone code)).attemptDone j w, ?_, ?_⟩
  · rw [doneIssue_vendor rs1 code serves found drained vendor k, if_neg (by simp [direct]), if_neg (by simpa using legal), if_neg closed]
  · obtain ⟨n, rfl⟩ := k.state
    exact ⟨n, x0.atDone code, Wick.steady_update (fun y => { y with doneWith := some code }) (fun _ => rfl) k.steady, rfl, rfl⟩

end

/-! ### What the DONEs of an attempt give -/

section
variable {s : State} {w : Nat} {y : Wick} {code : BitVec 8} (done : y.doneWith = some code)
include done

theorem State.doneWith_setWick (v : Nat) : ((s.setWick w y).wick v).doneWith = if v = w then some code else (s.wick v).doneWith := by
  split
  · next e => rw [e, State.wick_setWick, done]
  · next e => rw [State.wick_setWick_other _ _ e]

theorem State.leadStatus_setWick (v : Nat) (r : List Nat) :
    (s.setWick w y).leadStatus (v :: r) = if v = w then code.toNat else ((s.wick v).doneWith.getD 0).toNat := by
  simp only [State.leadStatus, State.doneWith_setWick done]
  split <;> rfl

theorem State.checkPassed_setWick (l : List Nat) :
    (s.setWick w y).checkPassed l = (l.drop 1).all fun v => if v = w then code = 0 else (s.wick v).doneWith = some 0 := by
  unfold State.checkPassed
  congr 1
  funext v
  rw [State.doneWith_setWick done]
  split <;> simp

end

end Sys2Proof.Machine
end

section
/-! PROOFS. What happens to a wick from outside: naps, budgets, loads and new shroud keys (R284 to R287, R317); the settlement of O15. -/

namespace Sys2Proof.Machine

/-! ### Naps, budgets and loads -/

section
variable {s : State} {w : Fin 256}

theorem execNapWake_wakes (napping : (s.wick w).napping = true) : exec (.napWake w) s = .next (s.setWick w { s.wick w with napping := false }) :=
  congrArg Host.Outcome.next (if_pos napping)

theorem execCycleBudgetExceeded_faults {p : Program} {j : Job} (loaded : (s.wick w).program = some p) (budget : p.maxCycles ≠ 0) (live : s.wickLive w = true)
    (serves : (s.wick w).job = some j.id) (found : s.findJob j.id = some j) :
    exec (.cycleBudgetExceeded w) s = .next (let t := s.setWick w ((s.wick w).passTo p.maxCycles)
      if p.owner then t.failJob j.id jsFormat else t.reportFault 0x0109 (uWick w) (uWick w) (uSlice j.slice) 0) := by
  have owner : ((s.wick w).passTo p.maxCycles).owner = p.owner := by
    rw [Wick.owner_steady (Wick.steady_passTo _ _), Wick.owner, loaded]
  have spent : exec (.cycleBudgetExceeded w) s = .next ((s.setWick w ((s.wick w).passTo p.maxCycles)).wickFault w .budget) := by
    show execCycleBudgetExceeded w s = _
    unfold execCycleBudgetExceeded
    simp [loaded, live, budget]
  rw [spent, (State.wickFault_own (s := s.setWick w ((s.wick w).passTo p.maxCycles)) (w := w) (by rw [State.wick_setWick]; exact serves) found).2, State.wick_setWick, owner]

theorem execProgramLoad_loads {image : Bytes} (lit : s.isLit = true) (runs : s.fatal = none) (serving : s.inService (uWick w) = true) (powered : s.entry (Key.sconcePowerState (sconceOf w)) = 1)
    (idle : (s.wick w).job = none) (known : image ∈ s.library) (formed : imageFormOk 1 image = true) :
    exec (.programLoad w image) s = .next ((s.setWick w ((s.wick w).loadImage image)).bump (Key.wickStatusProgramLoads w)) := by
  show execProgramLoad w image s = _
  unfold execProgramLoad
  simp [lit, runs, serving, powered, idle, known, formed]

/-- A count beside a new value of one wick. -/
theorem WickAndCounters.setWick_bump (s : State) (w : Nat) (x : Wick) (key : Nat) :
    WickAndCounters s ((s.setWick w x).bump key) w ∧ ((s.setWick w x).bump key).wick w = x := by
  obtain ⟨d, e⟩ := (s.setWick w x).bump_dictOnly key
  rw [e]
  exact ⟨⟨rfl, fun v hv => State.wick_setWick_other s x hv⟩, State.wick_setWick s w x⟩

end

/-! ### A new shroud key -/

section
variable {s : State} {w : Fin 256} (on : s.hubOn = true) (rekeys : (s.wick w).shroud.rekeying = true)
include on rekeys

/-- A new key that the sconce's DRBG gives (R317). -/
theorem execShroudRekey_keyed (serves : (s.generate (sconceOf w) 32).1 ≠ none) :
    Completes (.shroudRekey w) s fun t => t.wick w = { s.wick w with shroud := { (s.wick w).shroud with rekeying := false, produced := 0 } } := by
  obtain ⟨b, hb⟩ := Option.ne_none_iff_exists'.mp serves
  refine ⟨_, rfl, ?_⟩
  have keyed : ∀ t : State, ((t.setWick w { s.wick w with shroud := { (s.wick w).shroud with rekeying := false, produced := 0 } }).bump Key.wickVectorsShroudReseeds).wick w =
      { s.wick w with shroud := { (s.wick w).shroud with rekeying := false, produced := 0 } } := fun t => (WickAndCounters.setWick_bump t w _ _).2
  rw [if_neg (by simp [on, rekeys])]
  split
  · next e => simp [e] at hb
  · split
    · exact keyed _
    · exact keyed _

/-- Without a word of the DRBG a wick that does not wait for one goes on as it is (R317). -/
theorem execShroudRekey_waits (dry : (s.generate (sconceOf w) 32).1 = none) (still : (s.wick w).stall ≠ .shroud) :
    exec (.shroudRekey w) s = .next (s.generate (sconceOf w) 32).2 := by
  show execShroudRekey w s = _
  unfold execShroudRekey
  refine congrArg Host.Outcome.next ?_
  dsimp only
  rw [if_neg (by simp [on, rekeys])]
  split
  · next t e =>
    rw [e]
    split
    · next waits _ => exact absurd waits still
    · rfl
  · next e => simp [e] at dry

end

/-! ### The settlement -/

/-- Settles O15: every instruction of the group by what it does at issue, DONE by whose program it ends and by which wicks have reached theirs, the events from outside by their checks, and a new key by whether the DRBG serves. -/
theorem systemInstructionsAndEvents : Obligations.SystemInstructionsAndEvents := by
  unfold Obligations.SystemInstructionsAndEvents
  refine ⟨?_, ?_, ?_⟩
  · intro s w rd rs1 code c j issues
    refine ⟨execNop_becomes issues rs1 code, execFence_becomes issues rs1 code, execCr_writes issues rd c, execCw_napCtl issues rs1, execCw_mod issues rs1, execCw_fvIdle issues rs1, ?_⟩
    intro serves found
    refine ⟨execTrap_faults issues serves found rs1 code, ?_, ?_, ?_, ?_, ?_⟩
    · intro drained owner
      obtain ⟨s0, x0, k, e⟩ := execDone_owner rs1 code issues serves found drained owner
      obtain ⟨n, rfl⟩ := k.state
      exact ⟨n, e⟩
    · exact fun drained vendor object => execDone_waits rs1 code issues serves found drained vendor (.inl object)
    · exact fun drained vendor direct illegal => execDone_illegal rs1 code issues serves found drained vendor direct illegal
    · exact fun drained vendor _ legal waiting => execDone_waits rs1 code issues serves found drained vendor (.inr ⟨legal, waiting⟩)
    · intro drained vendor direct legal rest
      obtain ⟨n, y, steady, done, e⟩ := execDone_last rs1 code issues serves found drained vendor direct legal rest
      refine ⟨n, y, steady, e.trans ?_⟩
      unfold State.attemptDone
      dsimp only
      rw [State.checkPassed_setWick done]
      cases (j.attemptWicks w).1 with
      | nil => rfl
      | cons v r =>
        rw [State.leadStatus_setWick done]
        rfl
  · intro s w image p j
    refine ⟨execNapWake_wakes, execCycleBudgetExceeded_faults, ?_⟩
    intro lit runs serving powered idle known formed
    obtain ⟨outside, loaded⟩ := WickAndCounters.setWick_bump s w ((s.wick w).loadImage image) (Key.wickStatusProgramLoads w)
    refine ⟨_, execProgramLoad_loads lit runs serving powered idle known formed, outside, ?_⟩
    rw [loaded]
    exact ⟨rfl, rfl, rfl⟩
  · intro s w on rekeys
    refine ⟨fun serves => ?_, execShroudRekey_waits on rekeys⟩
    obtain ⟨t, e, keyed⟩ := execShroudRekey_keyed on rekeys serves
    refine ⟨t, e, ?_⟩
    beta_reduce
    rw [keyed]
    exact ⟨rfl, rfl⟩

end Sys2Proof.Machine
end

section
/-! PROOFS. Results of the session, key, entropy and owner-program commands (R60, R70, R79, R289, R459, R460, R468, R470 to R475). -/

namespace Sys2Proof.Machine

/-! ### Jobs that end -/

section
variable {s t : State} {id : Nat} {j : Job}

theorem State.attemptOf_runs {op : Nat} (h : s.attemptOf id op = some j) : j.phase = .running ∧ j.entry.opcode = op := by
  unfold State.attemptOf at h
  rw [State.attemptOf_find h] at h
  simp only [Option.ite_none_right_eq_some, Bool.and_eq_true, Job.running, decide_eq_true_eq] at h
  exact h.1.1

theorem JobEnds.finish (out : Bytes) (h : s.findJob id = some j) : JobEnds (s.finish id out) id jsOk out.length out := JobEnds.stageResult _ _ _ h

/-- A running attempt of no object command that fails stages its status alone (R82, R92). -/
theorem State.failJob_direct {op : Nat} (status : Nat) (h : s.attemptOf id op = some j) (direct : op ≠ 0x0701 ∧ op ≠ 0x0702) :
    s.failJob id status = s.stageResult id status 0 [] := by
  obtain ⟨running, hop⟩ := State.attemptOf_runs h
  unfold State.failJob Job.failW6
  rw [State.attemptOf_find h]
  simp [running, hop, direct]

theorem JobEnds.failed {op : Nat} (status : Nat) (h : s.attemptOf id op = some j) (direct : op ≠ 0x0701 ∧ op ≠ 0x0702) : JobEnds (s.failJob id status) id status 0 [] := by
  rw [State.failJob_direct status h direct]
  exact JobEnds.stageResult _ _ _ (State.attemptOf_find h)

/-- A staged result leaves the key its job gives a slot at the commit. -/
theorem State.keyOut_stageResult (st w6 : Nat) (out : Bytes) (h : s.findJob id = some j) : ((s.stageResult id st w6 out).findJob id).map (·.keyOut) = some j.keyOut := by
  have released : (if j.entry.opcode / 256 = 4 then s.releaseUnits j.units else (s.releaseUnits j.units).leaveSealers id).findJob id = some j := by
    split
    · exact (State.releaseUnits_findJob s j.units id).trans h
    · exact (State.releaseUnits_findJob s j.units id).trans h
  unfold State.stageResult
  rw [h]
  refine (congrArg (Option.map (·.keyOut)) (State.findJob_modJob _ ?_ released)).trans rfl
  exact fun _ => rfl

end

/-! ### Draws -/

theorem State.bump_jobs (s : State) (k : Nat) : (s.bump k).jobs = s.jobs := (s.bump_frame k).1

theorem State.generate_jobs (s : State) (i n : Nat) : (s.generate i n).2.jobs = s.jobs := by
  have seeded : (s.reseed i).jobs = s.jobs := by
    unfold State.reseed
    extract_lets d
    split
    · rfl
    · split
      · rfl
      · exact State.bump_jobs _ _
  unfold State.generate
  extract_lets t d
  split
  · exact seeded
  · exact seeded

theorem State.spendWords_jobs (s : State) (w n : Nat) : (s.spendWords w n).jobs = s.jobs := by
  unfold State.spendWords
  extract_lets x h total t
  split
  · rfl
  · exact List.foldlRecOn (motive := fun u : State => u.jobs = s.jobs) _ _ rfl fun u same _ _ => ((State.bump_jobs _ _).trans (State.generate_jobs _ _ _)).trans same

section
variable {s t : State} {id : Nat} {j : Job}

/-- Charged cycles and words leave the job found. -/
theorem State.charge_found (h : s.findJob id = some j) (cycles taper shroud : Nat) : ∃ k, (s.charge id cycles taper shroud).findJob id = some k := by
  unfold State.charge
  rw [h]
  exact ⟨_, State.findJob_modJob _ (fun _ => rfl) ((State.findJob_of_jobs (s.spendWords_jobs _ _) id).trans h)⟩

/-- An attempt whose DRBG serves goes on with bytes, those of a fresh request where it has kept none; sessions and owner programs stay (R96, R493). -/
theorem State.withDraw_serves {place i n : Nat} (f : Bytes → State → State) (found : s.findJob id = some j) (draws : s.canDraw i 1) :
    ∃ b t k, s.withDraw id place i n f = f b t ∧ t.findJob id = some k ∧ t.sessions = s.sessions ∧ t.programs = s.programs ∧ (j.kept.drop place = [] → b = s.drawnBy i n) := by
  unfold State.withDraw
  rw [found]
  dsimp only [Option.map_some, Option.getD_some]
  split
  · next b r kept => exact ⟨b, s, j, rfl, found, rfl, rfl, fun c => by simp [kept] at c⟩
  · obtain ⟨t, e, -, same⟩ := State.generate_ok (n := 0) (k := n) draws
    have jobs : t.jobs = s.jobs := (congrArg State.jobs same :)
    have sessions : t.sessions = s.sessions := (congrArg State.sessions same :)
    have programs : t.programs = s.programs := (congrArg State.programs same :)
    rw [e]
    exact ⟨_, _, _, rfl, State.findJob_modJob _ (fun _ => rfl) ((State.findJob_of_jobs jobs id).trans found), sessions, programs, fun _ => rfl⟩

theorem nonzeroOther_lt (prev x : Nat) : nonzeroOther 16 prev x < 65536 := by
  unfold nonzeroOther
  split
  · omega
  · dsimp only
    split <;> omega

end

/-! ### Sessions and keys -/

section
variable {s : State} {id : Nat} {j : Job}

theorem execSessionOpen_finishes (h : s.attemptOf id 0x0601 = some j) (draws : s.canDraw 16 1) :
    ∃ gen, gen ≠ 0 ∧ gen < 65536 ∧ gen ≠ (s.session j.entry.session).lastGen.toNat ∧
      Finishes (.sessionOpen id) s id (leBytes 2 j.entry.session ++ leBytes 2 gen ++ leBytes 4 0) := by
  have opens : exec (.sessionOpen id) s = .next (s.sessionOpen id) := rfl
  unfold State.sessionOpen at opens
  rw [State.during_some h] at opens
  obtain ⟨b, t, k, e, found, same, -, -⟩ := State.withDraw_serves (place := 0) (n := 2) (fun b s =>
    (s.modJob id fun k => { k with drawn := [nonzeroOther 16 (s.session j.entry.session).lastGen.toNat (Config.drawn b)] }).finish id
      (leBytes 2 j.entry.session ++ leBytes 2 (nonzeroOther 16 (s.session j.entry.session).lastGen.toNat (Config.drawn b)) ++ leBytes 4 0)) (State.attemptOf_find h) draws
  have last : t.session j.entry.session = s.session j.entry.session := congrArg (fun x => Table.get (fun _ => Session.free) x j.entry.session) same
  obtain ⟨nonzero, new⟩ := nonzeroOther_new 16 (s.session j.entry.session).lastGen.toNat (Config.drawn b)
  rw [last] at e
  exact ⟨_, nonzero, nonzeroOther_lt _ _, new, _, opens.trans (congrArg Host.Outcome.next e), JobEnds.finish _ (State.findJob_modJob _ (fun _ => rfl) found)⟩

theorem execSessionClose_finishes (h : s.attemptOf id 0x0602 = some j) (free : s.earlierJobs j.entry.session id = false) : Finishes (.sessionClose id) s id [] := by
  refine ⟨s.sessionClose id, rfl, ?_⟩
  unfold State.sessionClose
  rw [State.during_some h, if_neg (by simp [free])]
  exact JobEnds.finish [] (State.attemptOf_find h)

theorem execSessionClose_waits (h : s.attemptOf id 0x0602 = some j) (busy : s.earlierJobs j.entry.session id = true) : exec (.sessionClose id) s = .next s := by
  show Host.Outcome.next (s.sessionClose id) = _
  unfold State.sessionClose
  rw [State.during_some h, if_pos busy]

/-- A job that changes and then ends OK without output keeps the key it gives a slot at its commit (R463). -/
theorem JobEnds.finish_modJob (f : Job → Job) (same : ∀ k, (f k).id = k.id) (h : s.findJob id = some j) :
    JobEnds ((s.modJob id f).finish id []) id jsOk 0 [] ∧ (((s.modJob id f).finish id []).findJob id).map (·.keyOut) = some (f j).keyOut :=
  ⟨JobEnds.finish [] (State.findJob_modJob f same h), State.keyOut_stageResult _ _ _ (State.findJob_modJob f same h)⟩

theorem execKeyImport_fails (h : s.attemptOf id 0x0603 = some j) (bad : s.openBlob j.slice (cut j.data.input 0 j.entry.w2.toNat) = none) :
    Ends (.keyImport id) s id jsKeyInvalid 0 := by
  refine ⟨s.keyImport id, rfl, ?_⟩
  unfold State.keyImport
  rw [State.during_some h, bad]
  exact JobEnds.failed jsKeyInvalid h (by decide)

theorem execKeyImport_imports {b : BlobKey} (h : s.attemptOf id 0x0603 = some j) (good : s.openBlob j.slice (cut j.data.input 0 j.entry.w2.toNat) = some b) :
    Completes (.keyImport id) s fun t => JobEnds t id jsOk 0 [] ∧ (t.findJob id).map (·.keyOut) =
      some (some (ctlSlot j.entry.w5.toNat, { alg := BitVec.ofNat 8 b.alg, uses := BitVec.ofNat 16 b.uses, origin := 2, exportable := b.exportable, persist := false, key := b.key })) := by
  refine ⟨s.keyImport id, rfl, ?_⟩
  unfold State.keyImport
  rw [State.during_some h, good]
  exact JobEnds.finish_modJob _ (fun _ => rfl) (State.attemptOf_find h)

section
variable {k : VaultKey} {b : Bytes} (h : s.attemptOf id 0x0604 = some j) (held : s.vaultKey (ctlSlot j.entry.w5.toNat) = some k) (leaves : k.exportable = true)
  (wrapped : s.makeBlob j.slice j.keyRules.bindBlobs k = some b)
include h held leaves wrapped

theorem State.keyExport_of_wrapped : s.keyExport id = if j.entry.w4.toNat < b.length then s.stageResult id jsLengthShort b.length [] else s.finish id b := by
  unfold State.keyExport
  rw [State.during_some h, held]
  simp [leaves, wrapped]

theorem execKeyExport_finishes (fits : b.length ≤ j.entry.w4.toNat) : Finishes (.keyExport id) s id b := by
  refine ⟨s.keyExport id, rfl, ?_⟩
  rw [State.keyExport_of_wrapped h held leaves wrapped, if_neg (by omega)]
  exact JobEnds.finish b (State.attemptOf_find h)

theorem execKeyExport_short (short : j.entry.w4.toNat < b.length) : Ends (.keyExport id) s id jsLengthShort b.length := by
  refine ⟨s.keyExport id, rfl, ?_⟩
  rw [State.keyExport_of_wrapped h held leaves wrapped, if_pos short]
  exact JobEnds.stageResult _ _ _ (State.attemptOf_find h)

end

theorem execKeyErase_finishes (h : s.attemptOf id 0x0605 = some j) : Finishes (.keyErase id) s id [] := by
  refine ⟨s.keyErase id, rfl, ?_⟩
  unfold State.keyErase
  rw [State.during_some h]
  exact JobEnds.finish [] (State.attemptOf_find h)

theorem execOskInstall_fails (h : s.attemptOf id 0x0610 = some j) (bad : (s.envelopeCheck (cut j.data.input 0 8923)).1 ≠ jsOk) :
    Ends (.oskInstall id) s id (s.envelopeCheck (cut j.data.input 0 8923)).1 0 := by
  refine ⟨s.oskInstall id, rfl, ?_⟩
  unfold State.oskInstall
  rw [State.during_some h]
  dsimp only
  rw [if_pos bad]
  exact JobEnds.failed _ h (by decide)

theorem execOskInstall_installs (h : s.attemptOf id 0x0610 = some j) (good : (s.envelopeCheck (cut j.data.input 0 8923)).1 = jsOk) :
    Completes (.oskInstall id) s fun t => JobEnds t id jsOk 0 [] ∧
      (t.findJob id).map (·.keyOut) = some (some (509, deviceKey (s.envelopeCheck (cut j.data.input 0 8923)).2)) := by
  refine ⟨s.oskInstall id, rfl, ?_⟩
  unfold State.oskInstall
  rw [State.during_some h]
  dsimp only
  rw [if_neg (not_not.mpr good)]
  exact JobEnds.finish_modJob _ (fun _ => rfl) (State.attemptOf_find h)

/-! ### ATTEST and RANDOM -/

theorem execAttest_finishes {k : Bytes} (h : s.attemptOf id 0x0611 = some j) (secret : s.roots.attestSecret = some k) (keyed : s.keyed = true) (words : s.shroudReady j = true) :
    Finishes (.attest id) s id (s.attestBody ++ kmac256 k (cut j.data.input 0 32 ++ s.attestBody) 32 "PYRS-ATTEST") := by
  refine ⟨s.attest id, rfl, ?_⟩
  unfold State.attest
  rw [State.during_some h, secret]
  dsimp only
  rw [if_neg (by simp [keyed]), State.withShroud, if_neg (by simp [words])]
  obtain ⟨_, found⟩ := State.charge_found (State.attemptOf_find h) 0 0 attestWords
  exact JobEnds.finish _ found

theorem execRandom_finishes (h : s.attemptOf id 0x0801 = some j) (draws : s.canDraw 16 1) (fresh : j.kept = []) : Finishes (.random id) s id (s.drawnBy 16 j.entry.w2.toNat) := by
  refine ⟨s.random id, rfl, ?_⟩
  unfold State.random
  rw [State.during_some h]
  obtain ⟨b, t, k, e, found, -, -, drawn⟩ := State.withDraw_serves (place := 0) (n := j.entry.w2.toNat) (fun b s => s.finish id b) (State.attemptOf_find h) draws
  rw [e, drawn (by rw [fresh]; rfl)]
  exact JobEnds.finish _ found

/-! ### Owner programs -/

theorem execOwnProgDrop_finishes (h : s.attemptOf id 0x0F03 = some j) : Finishes (.ownProgDrop id) s id [] := by
  refine ⟨s.ownerDrop id, rfl, ?_⟩
  unfold State.ownerDrop
  rw [State.during_some h]
  exact JobEnds.finish [] (State.attemptOf_find h)

/-- The checks of R289 on a program whose image has the right form and whose slice has an entry for it. -/
def ownerVerified (s : State) (j : Job) : Prop :=
  let img := cut j.data.input 0 j.entry.w2.toNat
  sha3_256 (cut j.data.keyA 0 2592) = leBytes 32 (s.entry Key.wickProgramsOwnerProgramKeyHash) ∧
    mldsa87Verifies (cut j.data.keyA 0 2592) (img.take (img.length - 4627)) (img.drop (img.length - 4627)) = true

section
variable {k : Nat} (h : s.attemptOf id 0x0F01 = some j) (formed : imageFormOk 2 (cut j.data.input 0 j.entry.w2.toNat) = true)
  (owned : leNat (leBytes 32 (s.entry Key.wickProgramsOwnerProgramKeyHash)) ≠ 0) (room : s.freeProgram j.slice = some k)
include h formed owned room

theorem execOwnProgLoad_fails (bad : ¬ownerVerified s j) : Ends (.ownProgLoad id) s id jsVerifyFail 0 := by
  refine ⟨s.ownerLoad id, rfl, ?_⟩
  unfold State.ownerLoad
  rw [State.during_some h]
  dsimp only
  rw [if_neg (by simp [formed]), if_neg owned, room]
  dsimp only
  rw [if_pos (by simpa [ownerVerified, imp_iff_not_or] using bad)]
  exact JobEnds.failed _ h (by decide)

theorem execOwnProgLoad_loads (draws : s.canDraw 16 1) (good : ownerVerified s j) :
    ∃ gen, gen ≠ 0 ∧ gen < 65536 ∧ gen ≠ (s.program k).gen.toNat ∧
      Completes (.ownProgLoad id) s fun t => JobEnds t id jsOk 8 (leBytes 8 (gen * 2 ^ 16 + k % 16)) := by
  have loads : ∃ (b : Bytes) (t : State), s.ownerLoad id = (((t.setProgram k { t.program k with pins := [id] }).modJob id fun i => { i with drawn := [k, nonzeroOther 16 (t.program k).gen.toNat (Config.drawn b)] }).finish id
      (leBytes 8 (nonzeroOther 16 (t.program k).gen.toNat (Config.drawn b) * 2 ^ 16 + k % 16))) ∧ (∃ i, t.findJob id = some i) ∧ t.program k = s.program k := by
    unfold State.ownerLoad
    rw [State.during_some h]
    dsimp only
    rw [if_neg (by simp [formed]), if_neg owned, room]
    dsimp only
    rw [if_neg (by simpa [ownerVerified] using good)]
    obtain ⟨b, t, i, e, found, -, same, -⟩ := State.withDraw_serves (place := 0) (n := 2) (fun b s =>
      ((s.setProgram k { s.program k with pins := [id] }).modJob id fun i => { i with drawn := [k, nonzeroOther 16 (s.program k).gen.toNat (Config.drawn b)] }).finish id
        (leBytes 8 (nonzeroOther 16 (s.program k).gen.toNat (Config.drawn b) * 2 ^ 16 + k % 16))) (State.attemptOf_find h) draws
    exact ⟨b, t, e, ⟨i, found⟩, congrArg (fun x => Table.get (fun _ => OwnerProgram.none) x k) same⟩
  obtain ⟨b, t, e, ⟨i, found⟩, same⟩ := loads
  obtain ⟨nonzero, new⟩ := nonzeroOther_new 16 (s.program k).gen.toNat (Config.drawn b)
  rw [same] at e
  refine ⟨_, nonzero, nonzeroOther_lt _ _, new, s.ownerLoad id, rfl, ?_⟩
  rw [e]
  exact JobEnds.finish _ (State.findJob_modJob _ (fun _ => rfl) found)

end

end

end Sys2Proof.Machine
end

section
/-! PROOFS. A run of an owner program that executes DONE at once (R285, R288 to R291); the settlement of O27. -/

namespace Sys2Proof.Machine

/-! ### Wicks of a job whose result is staged -/

/-- A wick without a stall that serves a job or none. -/
def Wick.restsWith (x : Wick) (id : Nat) : Prop := x.stall = .none ∧ (x.job = some id ∨ x.job = none)

section
variable {s : State} {id w : Nat} {j : Job}

theorem State.restsWith_releaseUnit (u : UnitId) (h : (s.wick w).restsWith id) : ((s.releaseUnit u).wick w).restsWith id := by
  unfold State.releaseUnit
  extract_lets i
  split
  · by_cases same : w = i
    · rw [same, State.wick_setWick]
      exact ⟨rfl, .inr rfl⟩
    · rw [State.wick_setWick_other _ _ same]
      exact h
  · split
    · exact h
    · exact h

theorem State.restsWith_releaseUnits (us : List UnitId) (h : (s.wick w).restsWith id) : ((s.releaseUnits us).wick w).restsWith id :=
  List.foldlRecOn (motive := fun t : State => (t.wick w).restsWith id) us _ h fun _ rests u _ => State.restsWith_releaseUnit u rests

theorem State.restsWith_stageResult (st w6 : Nat) (out : Bytes) (found : s.findJob id = some j) (h : (s.wick w).restsWith id) :
    ((s.stageResult id st w6 out).wick w).restsWith id := by
  have released := State.restsWith_releaseUnits j.units h
  unfold State.stageResult
  rw [found]
  dsimp only
  rw [State.wick_modJob]
  split
  · exact released
  · exact released

/-- No attempt runs on a wick that serves a job whose result is staged. -/
theorem State.attemptOn_staged (rests : (s.wick w).restsWith id) (found : s.findJob id = some j) (staged : j.phase = .staged) : s.attemptOn w = false := by
  unfold State.attemptOn
  obtain serves | idle := rests.2
  · rw [serves]
    simp [found, Job.running, staged]
  · rw [idle]

/-! ### The run -/

theorem State.wickIssues_unspent (h : s.wickIssues w = true) : (s.wick w).spent = false := by
  simp only [State.wickIssues, Bool.and_eq_true, Bool.not_eq_true'] at h
  exact h.1.2

end

/-- A program whose wick serves no attempt any more stands still. -/
theorem runProgram_stops {s : State} {w : Fin 256} (still : (s.wick w).stall = .none) (ended : s.attemptOn w = false) (fuel : Nat) : runProgram w fuel s = s := by
  cases fuel with
  | zero => rfl
  | succ fuel =>
    unfold runProgram
    simp [still, State.wickLive, State.wickIssues, ended]

section
variable {s : State} {id : Nat} {j : Job} {w : Fin 256} {p : Program} {rs1 : BitVec 5} {code : BitVec 8}

/-- The end of an owner program's run stages a result (R291). -/
theorem State.ownerDone_stages (h : s.attemptOf id 0x0F02 = some j) (status len : Nat) : ∃ st w6 out, s.ownerDone j status len = s.stageResult id st w6 out := by
  have same : j.id = id := State.findJob_id (State.attemptOf_find h)
  unfold State.ownerDone
  rw [same]
  extract_lets st
  split
  · exact ⟨_, _, _, State.failJob_direct _ h (by decide)⟩
  · split
    · exact ⟨_, _, _, rfl⟩
    · exact ⟨_, _, _, rfl⟩

/-- A run whose first instruction is DONE ends by it. -/
theorem execOwnProgRun_done (h : s.attemptOf id 0x0F02 = some j) (on : j.wick = w.val) (loaded : (s.wick w).program = some p) (owner : p.owner = true) (serves : (s.wick w).job = some id)
    (issues : s.wickIssues w = true) (still : (s.wick w).stall = .none) (drained : (s.wick w).draining = false) (fetched : s.wickFetch w = some (.done w 0 rs1 0 code)) :
    exec (.ownProgRun id) s = .next (s.ownerDone j code.toNat ((s.wick w).reg rs1).toNat) := by
  have found := State.attemptOf_find h
  have same : j.id = id := State.findJob_id found
  have owned : (s.wick w).owner = true := by rw [Wick.owner, loaded]; exact owner
  have done : stateAfter (wickExec (.done w 0 rs1 0 code) s) s = s.ownerDone j code.toNat ((s.wick w).reg rs1).toNat := by
    obtain ⟨s0, x0, k, e⟩ := execDone_owner rs1 code issues (by rw [same]; exact serves) (by rw [same]; exact found) drained owned
    rw [(k.now still).1] at e
    exact congrArg (stateAfter · s) e
  have stops : ∀ fuel, runProgram w fuel (s.ownerDone j code.toNat ((s.wick w).reg rs1).toNat) = s.ownerDone j code.toNat ((s.wick w).reg rs1).toNat := by
    obtain ⟨st, w6, out, e⟩ := State.ownerDone_stages h code.toNat ((s.wick w).reg rs1).toNat
    have rests : ((s.stageResult id st w6 out).wick w).restsWith id := State.restsWith_stageResult st w6 out found ⟨still, .inl serves⟩
    obtain ⟨k, kept, staged, -⟩ := JobEnds.stageResult st w6 out found
    rw [e]
    exact runProgram_stops rests.1 (State.attemptOn_staged rests kept staged)
  have runs : ∀ fuel, runProgram w (fuel + 1) s = s.ownerDone j code.toNat ((s.wick w).reg rs1).toNat := by
    intro fuel
    unfold runProgram
    simp only [still, ne_eq, not_true_eq_false, decide_false, Bool.false_eq_true, if_false, State.wickIssues_unspent issues, Bool.and_false, issues, Bool.not_true, fetched, done, Bool.false_and]
    exact stops fuel
  have here : Fin.ofNat 256 j.wick = w := by
    rw [on]
    exact Fin.ofNat_val_eq_self w
  show Host.Outcome.next (s.ownerRun id) = _
  unfold State.ownerRun
  rw [State.during_some h, here]
  exact congrArg Host.Outcome.next (runs _)

/-! ### What the DONE of an owner program gives -/

theorem JobEnds.ownerDone_fits (h : s.attemptOf id 0x0F02 = some j) {len : Nat} (fits : len ≤ j.entry.w4.toNat) :
    JobEnds (s.ownerDone j jsOk len) id jsOk len (s.readReservoir (s.extentBase (.owner id true)) len) := by
  have found := State.attemptOf_find h
  have ends := JobEnds.finish (s.readReservoir (s.extentBase (.owner id true)) len) found
  have length : (s.readReservoir (s.extentBase (.owner id true)) len).length = len := cut_length _ _ _
  rw [length] at ends
  have done : s.ownerDone j jsOk len = s.finish j.id (s.readReservoir (s.extentBase (.owner j.id true)) len) := by
    unfold State.ownerDone
    simp [jsOk, show ¬j.entry.w4.toNat < len by omega]
  rw [done, State.findJob_id found]
  exact ends

theorem JobEnds.ownerDone_short (h : s.attemptOf id 0x0F02 = some j) {len : Nat} (short : j.entry.w4.toNat < len) : JobEnds (s.ownerDone j jsOk len) id jsLengthShort len [] := by
  have done : s.ownerDone j jsOk len = s.stageResult j.id jsLengthShort len [] := by
    unfold State.ownerDone
    simp [jsOk, short]
  rw [done, State.findJob_id (State.attemptOf_find h)]
  exact JobEnds.stageResult _ _ _ (State.attemptOf_find h)

theorem JobEnds.ownerDone_fails (h : s.attemptOf id 0x0F02 = some j) {status : Nat} (allowed : status = jsVerifyFail ∨ status = jsLengthLong) (len : Nat) :
    JobEnds (s.ownerDone j status len) id status 0 [] := by
  have done : s.ownerDone j status len = s.failJob j.id status := by
    unfold State.ownerDone
    obtain rfl | rfl := allowed
    · rfl
    · rfl
  rw [done, State.findJob_id (State.attemptOf_find h)]
  exact JobEnds.failed _ h (by decide)

end

/-! ### The settlement -/

/-- Settles O27: each command by the lemma of its outcome, a blob, an envelope and a program's signature by whether they pass their checks, and a run of an owner program by the DONE it begins with. -/
theorem sessionKeyAndProgramResults : Obligations.SessionKeyAndProgramResults := by
  unfold Obligations.SessionKeyAndProgramResults
  refine ⟨?_, ?_⟩
  · intro s id j
    refine ⟨execSessionOpen_finishes, fun h => ⟨execSessionClose_finishes h, execSessionClose_waits h⟩, ?_, ?_, execKeyErase_finishes, ?_,
      fun k h secret keyed words => execAttest_finishes h secret keyed words, execRandom_finishes, ?_, execOwnProgDrop_finishes⟩
    · intro h
      cases blob : s.openBlob j.slice (cut j.data.input 0 j.entry.w2.toNat) with
      | none => exact execKeyImport_fails h blob
      | some b => exact execKeyImport_imports h blob
    · exact fun k b h held leaves wrapped => ⟨execKeyExport_finishes h held leaves wrapped, execKeyExport_short h held leaves wrapped⟩
    · intro h
      by_cases good : (s.envelopeCheck (cut j.data.input 0 8923)).1 = jsOk
      · obtain ⟨t, e, ends⟩ := execOskInstall_installs h good
        exact ⟨t, e, (if_pos good).mpr ends⟩
      · obtain ⟨t, e, ends⟩ := execOskInstall_fails h good
        exact ⟨t, e, (if_neg good).mpr ends⟩
    · intro k h draws formed owned room verified
      by_cases good : verified
      · obtain ⟨gen, nonzero, small, new, t, e, ends⟩ := execOwnProgLoad_loads h formed owned room draws good
        exact ⟨gen, nonzero, small, new, t, e, (if_pos good).mpr ends⟩
      · obtain ⟨t, e, ends⟩ := execOwnProgLoad_fails h formed owned room good
        obtain ⟨nonzero, new⟩ := nonzeroOther_new 16 (s.program k).gen.toNat 0
        exact ⟨_, nonzero, nonzeroOther_lt _ _, new, t, e, (if_neg good).mpr ends⟩
  · intro s id j w p rs1 code h on x len loaded owner _ serves issues still drained fetched
    have run := execOwnProgRun_done h on loaded owner serves issues still drained fetched
    refine ⟨?_, ?_, fun allowed => ⟨_, run, JobEnds.ownerDone_fails h allowed _⟩⟩
    · rintro rfl fits
      exact ⟨_, run, JobEnds.ownerDone_fits h fits⟩
    · rintro rfl short
      exact ⟨_, run, JobEnds.ownerDone_short h short⟩

end Sys2Proof.Machine
end

section
/-! PROOFS. How an attempt of a public-key command goes on while it draws, expands its key and is charged (R136, R202, R493, R674). -/

namespace Sys2Proof.Machine

/-! ### What work leaves as it was -/

/-- The roots, the clock and the McEliece cache stay. -/
def Aside (s t : State) : Prop := t.roots = s.roots ∧ t.timestamp = s.timestamp ∧ t.mces = s.mces

/-- The expansion of a key leaves the jobs and the DRBG instances too (R130). -/
def KeyKept (s t : State) : Prop := t.jobs = s.jobs ∧ t.entropy = s.entropy ∧ Aside s t

section
variable {s t u : State}

theorem Aside.refl (s : State) : Aside s s := ⟨rfl, rfl, rfl⟩

theorem Aside.trans (h : Aside s t) (k : Aside t u) : Aside s u := by
  obtain ⟨roots, time, mces⟩ := h
  obtain ⟨roots', time', mces'⟩ := k
  exact ⟨roots'.trans roots, time'.trans time, mces'.trans mces⟩

theorem Aside.makeBlob (h : Aside s t) (slc : Nat) (bind : Bool) (k : VaultKey) : t.makeBlob slc bind k = s.makeBlob slc bind k := by
  obtain ⟨roots, time, -⟩ := h
  unfold State.makeBlob
  rw [roots, time]

theorem Aside.mce (h : Aside s t) (n : Nat) : t.mce n = s.mce n := by
  obtain ⟨-, -, mces⟩ := h
  unfold State.mce
  rw [mces]

theorem Aside.bump (s : State) (key : Nat) : Aside s (s.bump key) := by
  obtain ⟨_, e⟩ := s.bump_dictOnly key
  rw [e]
  exact ⟨rfl, rfl, rfl⟩

theorem Aside.reseed (s : State) (i : Nat) : Aside s (s.reseed i) := by
  unfold State.reseed
  extract_lets d
  split
  · exact Aside.refl s
  · split
    · exact ⟨rfl, rfl, rfl⟩
    · exact Aside.bump _ _

theorem Aside.generate (s : State) (i n : Nat) : Aside s (s.generate i n).2 := by
  unfold State.generate
  extract_lets t d
  split
  · exact Aside.reseed s i
  · exact Aside.reseed s i

theorem Aside.spendWords (s : State) (w n : Nat) : Aside s (s.spendWords w n) := by
  unfold State.spendWords
  extract_lets x h total t
  split
  · exact Aside.refl s
  · exact List.foldlRecOn (motive := Aside s) _ _ (Aside.refl s) fun u aside _ _ => (aside.trans (Aside.generate _ _ _)).trans (Aside.bump _ _)

theorem Aside.charge (s : State) (id cycles taper shroud : Nat) : Aside s (s.charge id cycles taper shroud) := by
  unfold State.charge
  split
  · exact Aside.spendWords s _ _
  · exact Aside.refl s

theorem KeyKept.refl (s : State) : KeyKept s s := ⟨rfl, rfl, Aside.refl s⟩

theorem KeyKept.trans (h : KeyKept s t) (k : KeyKept t u) : KeyKept s u := by
  obtain ⟨jobs, entropy, aside⟩ := h
  obtain ⟨jobs', entropy', aside'⟩ := k
  exact ⟨jobs'.trans jobs, entropy'.trans entropy, aside.trans aside'⟩

theorem KeyKept.setWick (s : State) (w : Nat) (x : Wick) : KeyKept s (s.setWick w x) := ⟨rfl, rfl, rfl, rfl, rfl⟩

theorem KeyKept.findJob (h : KeyKept s t) (id : Nat) : t.findJob id = s.findJob id := by
  obtain ⟨jobs, -⟩ := h
  exact State.findJob_of_jobs jobs id

theorem KeyKept.aside (h : KeyKept s t) : Aside s t := by
  obtain ⟨-, -, aside⟩ := h
  exact aside

theorem KeyKept.drbg (h : KeyKept s t) (i : Nat) : t.drbg i = s.drbg i := by
  obtain ⟨-, entropy, -⟩ := h
  exact State.drbg_of_drbgs (congrArg Entropy.drbgs entropy) i

end

/-! ### The key of an attempt -/

section
variable {s t : State} {j : Job} {k : KeyFound}

/-- The expansion of a key touches its session alone (R130, R202). -/
theorem KeyKept.expandRole {n role a : Nat} (h : s.expandRole n role a k = some t) : KeyKept s t := by
  unfold State.expandRole at h
  split at h
  · cases h
    exact KeyKept.refl s
  · extract_lets x at h
    split at h
    · cases h
      exact ⟨rfl, rfl, rfl, rfl, rfl⟩
    · split at h
      · cases h
        exact KeyKept.refl s
      · cases h

theorem KeyKept.keepKeys (s : State) (j : Job) (a : Nat) (k : KeyFound) (first : Bool) (ws : List Nat) : KeyKept s (s.keepKeys j a k first ws) := by
  unfold State.keepKeys
  split
  · exact KeyKept.refl s
  · refine List.foldlRecOn (motive := KeyKept s) _ _ (KeyKept.refl s) fun u kept p _ => ?_
    dsimp only
    split
    · exact kept
    · exact kept.trans ⟨rfl, rfl, rfl, rfl, rfl⟩

/-- An attempt whose key is found, agrees with its first use and passes its checks goes on with it (R51, R113, R130). -/
theorem State.withKey_goesOn (key : s.keyFor j k) : ∃ t, (∀ f, s.withKey j true f = f k t) ∧ KeyKept s t := by
  obtain ⟨found, good, settled, agrees⟩ := key
  obtain ⟨t, expanded⟩ := Option.ne_none_iff_exists'.mp agrees
  refine ⟨_, fun f => ?_, (KeyKept.expandRole expanded).trans (KeyKept.keepKeys t j j.entry.alg k (s.firstUse j) (unitsOfClass j.units 1))⟩
  unfold State.withKey
  rw [found]
  cases k with
  | bad => exact absurd rfl good
  | erasing => exact absurd rfl settled
  | priv b => simp [expanded]
  | pub b => simp [expanded]

end

/-! ### Draws one after another -/

section
variable {s t : State} {i : Nat}

theorem State.canDraw_le {m n : Nat} (h : s.canDraw i n) (le : m ≤ n) : s.canDraw i m := by
  obtain ⟨ready, serves, few⟩ := h
  exact ⟨ready, serves, by omega⟩

theorem State.canDraw_of_drbg (e : t.drbg i = s.drbg i) {n : Nat} (h : s.canDraw i n) : t.canDraw i n := by
  unfold State.canDraw
  rw [e]
  exact h

theorem State.drawnBy_of_drbg (e : t.drbg i = s.drbg i) (n : Nat) : t.drawnBy i n = s.drawnBy i n := by
  unfold State.drawnBy
  rw [e]

/-- A request of an instance that can draw gives its stream and leaves every instance one request less (R486, R488). -/
theorem State.generate_serves (h : s.canDraw i 1) (n : Nat) :
    s.generate i n = (some (s.drawnBy i n), s.setDrbg i ((s.drbg i).used n)) ∧ ∀ x m, s.canDraw x (m + 1) → (s.setDrbg i ((s.drbg i).used n)).canDraw x m := by
  obtain ⟨ready, serves, few⟩ := h
  have early : s.reseed i = s := by
    unfold State.reseed
    simp [ready, serves]
    omega
  have able : s.drbgServes i = true := by
    unfold State.drbgServes
    simp [ready, serves]
    omega
  constructor
  · unfold State.generate
    rw [early]
    exact if_pos able
  · rintro x m draws
    by_cases same : x = i
    · subst same
      obtain ⟨-, -, left⟩ := draws
      have holding : ((s.drbg x).used n).holding = (s.drbg x).holding := by simp only [Drbg.used, Drbg.update]
      have requests : ((s.drbg x).used n).requests = (s.drbg x).requests + 1 := by simp only [Drbg.used]
      unfold State.canDraw
      rw [State.drbg_setDrbg, Drbg.ready_used, holding, requests]
      exact ⟨ready, serves, by omega⟩
    · exact State.canDraw_of_drbg (State.drbg_setDrbg_other _ _ _ same) (State.canDraw_le draws (Nat.le_succ m))

end

/-- An attempt of s goes on at t with c values kept, for which no instance has served more than c requests (R199, R488). -/
def State.GoesOn (s t : State) (id c : Nat) : Prop :=
  (∃ k, t.findJob id = some k ∧ k.kept.length = c) ∧ Aside s t ∧ ∀ i n, s.canDraw i (n + c) → t.canDraw i n

section
variable {s t : State} {id c : Nat} {j : Job}

theorem State.GoesOn.start (found : s.findJob id = some j) (fresh : j.kept = []) (kept : KeyKept s t) : s.GoesOn t id 0 :=
  ⟨⟨j, (kept.findJob id).trans found, by rw [fresh]; rfl⟩, kept.aside, fun i _ => State.canDraw_of_drbg (kept.drbg i)⟩

section
variable (w : s.GoesOn t id c)
include w

/-- A value given in place of a draw is kept without a request (R199). -/
theorem State.GoesOn.keepsGiven (b : Bytes) : s.GoesOn (t.keepsGiven id c b) id (c + 1) := by
  obtain ⟨⟨k, found, length⟩, aside, serves⟩ := w
  refine ⟨⟨_, State.findJob_modJob (fun j => { j with kept := if j.kept.length ≤ c then j.kept ++ [b] else j.kept }) (fun _ => rfl) found, by simp [length]⟩, aside, fun x m h => ?_⟩
  exact serves x m (State.canDraw_le h (by omega))

section
variable {i : Nat} (draws : s.canDraw i (c + 1))
include draws

/-- The next value of an attempt is that of a fresh request, which leaves the other instances as they were (R136, R486). -/
theorem State.GoesOn.withDraw (n : Nat) :
    ∃ u, (∀ f, t.withDraw id c i n f = f (t.drawnBy i n) u) ∧ s.GoesOn u id (c + 1) ∧ ∀ x, x ≠ i → u.drbg x = t.drbg x := by
  obtain ⟨⟨k, found, length⟩, aside, serves⟩ := w
  have able : t.canDraw i 1 := serves i 1 (by rw [Nat.add_comm]; exact draws)
  obtain ⟨given, left⟩ := State.generate_serves able n
  have kept := State.findJob_modJob (s := t.setDrbg i ((t.drbg i).used n)) (fun j => { j with kept := j.kept ++ [t.drawnBy i n] }) (fun _ => rfl) found
  refine ⟨_, fun f => ?_, ⟨⟨_, kept, by simp [length]⟩, aside, ?_⟩, ?_⟩
  · unfold State.withDraw
    rw [found, ← length]
    simp only [Option.map_some, Option.getD_some, List.drop_length, given]
  · exact fun x m h => left x m (serves x (m + 1) (by rw [Nat.add_right_comm]; exact h))
  · exact fun x other => (State.drbg_modJob _ _ _ _).trans (State.drbg_setDrbg_other _ _ _ other)

/-- A value that is drawn where a condition holds and else given (R136). -/
theorem State.GoesOn.withDrawIf (need : Bool) (given : Bytes) (n : Nat) :
    ∃ u, (∀ f, t.withDrawIf need given id c i n f = f (if need then t.drawnBy i n else given) u) ∧ s.GoesOn u id (c + 1) ∧ ∀ x, x ≠ i → u.drbg x = t.drbg x := by
  cases need with
  | true => exact w.withDraw draws n
  | false => exact ⟨t.keepsGiven id c given, fun _ => rfl, w.keepsGiven given, fun x _ => State.drbg_modJob _ _ _ _⟩

end

/-- The blinding of a taper's two runs (R208). -/
theorem State.GoesOn.withBlind (draws : s.canDraw 16 (c + 2)) (taper : Bool) : ∃ u, (∀ f, t.withBlind id c taper f = f u) ∧ s.GoesOn u id (c + 2) := by
  obtain ⟨u, first, w, -⟩ := w.withDrawIf (State.canDraw_le draws (Nat.le_succ _)) (taper && !t.ranMicrocode id) [] 8
  obtain ⟨v, second, w, -⟩ := w.withDrawIf draws (taper && !t.ranMicrocode id) [] 8
  refine ⟨v, fun f => ?_, w⟩
  unfold State.withBlind
  dsimp only
  rw [first, second]

end
end

end Sys2Proof.Machine
end

section
/-! PROOFS. Results of the KEM commands and the McEliece key cache (R114 to R124, R136, R175, R183 to R190); the settlement of O22. -/

namespace Sys2Proof.Machine

/-! ### Generated keys -/

section
variable {s t : State} {id : Nat} {j k : Job} {key : Bytes}

/-- A key generated for a slot leaves its public key as output and enters the slot at the commit (R120, R463). -/
theorem JobEnds.finishKeygen_vault (found : t.findJob j.id = some k) (vault : ctlToVault j.entry.w5.toNat = true) :
    JobEnds (t.finishKeygen j key) j.id jsOk (anyPublic j.entry.alg key).length (anyPublic j.entry.alg key) ∧
      ((t.finishKeygen j key).findJob j.id).map (·.keyOut) = some (some (ctlSlot j.entry.w5.toNat, j.defaultKey j.entry.alg 1 key)) := by
  have kept := State.findJob_modJob (fun i => { i with keyOut := some (ctlSlot j.entry.w5.toNat, j.defaultKey j.entry.alg 1 key) }) (fun _ => rfl) found
  unfold State.finishKeygen
  dsimp only
  rw [if_pos vault]
  exact ⟨JobEnds.finish _ kept, State.keyOut_stageResult _ _ _ kept⟩

/-- A key generated for no slot leaves as public key and blob (R123, R471). -/
theorem JobEnds.finishKeygen_blob {b : Bytes} (found : t.findJob j.id = some k) (vault : ctlToVault j.entry.w5.toNat = false)
    (wrapped : t.makeBlob j.slice j.keyRules.bindBlobs (j.defaultKey j.entry.alg 1 key) = some b) :
    JobEnds (t.finishKeygen j key) j.id jsOk (anyPublic j.entry.alg key ++ b).length (anyPublic j.entry.alg key ++ b) := by
  unfold State.finishKeygen
  dsimp only
  rw [if_neg (by simp [vault]), wrapped]
  exact JobEnds.finish _ found

/-- The matrix of a gang's key stands in its wicks (R177). -/
theorem KeyKept.placeGang (s : State) (j : Job) (a : Nat) (key : Bytes) : KeyKept s (if isMce a then s.placeGang j a key else s) := by
  unfold State.placeGang
  extract_lets g
  split
  · exact List.foldlRecOn (motive := KeyKept s) _ _ (KeyKept.refl s) fun u kept p _ => kept.trans (KeyKept.setWick u p.1 _)
  · exact KeyKept.refl s

theorem State.placeGang_found {a : Nat} (j : Job) (key : Bytes) (h : ∃ k, t.findJob id = some k) : ∃ k, (if isMce a then t.placeGang j a key else t).findJob id = some k := by
  rw [(KeyKept.placeGang t j a key).findJob]
  exact h

theorem State.withShroud_ready (ready : s.shroudReady j = true) (masked : Bool) (f : State) : s.withShroud j masked f = f := by
  unfold State.withShroud
  simp [ready]

/-- The key a KEM key generation makes of its seed (R114, R174, R190). -/
def Job.kemKey (j : Job) (seed : Bytes) : Bytes := if isMce j.entry.alg then mcePrivate j.entry.alg j.entry.mceF seed else seed

/-- The seed of a key generation: its input or what it draws (R120, R136). -/
def State.keygenSeed (s : State) (j : Job) (n : Nat) : Bytes := if ctlSeedIn j.entry.w5.toNat then cut j.data.input 0 j.entry.w2.toNat else s.drawnBy j.instOf n

theorem State.keygenSeed_of_draw (s : State) (j : Job) (n : Nat) :
    (if !ctlSeedIn j.entry.w5.toNat then s.drawnBy j.instOf n else cut j.data.input 0 j.entry.w2.toNat) = s.keygenSeed j n := by
  unfold State.keygenSeed
  cases ctlSeedIn j.entry.w5.toNat <;> rfl

/-- A KEM key generation comes to its key, and its work leaves aside what a result needs (R114, R136, R177). -/
theorem State.kemKeygen_generates (h : s.attemptOf id 0x0101 = some j) (draws : s.canDraw j.instOf 1) (blinds : s.canDraw 16 3) (words : s.shroudReady j = true) (fresh : j.kept = []) :
    ∃ t, s.kemKeygen id true = t.finishKeygen j (j.kemKey (s.keygenSeed j (seedSize j.entry.alg))) ∧ (∃ k, t.findJob id = some k) ∧ Aside s t := by
  have start := State.GoesOn.start (State.attemptOf_find h) fresh (KeyKept.refl s)
  obtain ⟨u, drawn, w, -⟩ := start.withDrawIf draws (!ctlSeedIn j.entry.w5.toNat) (cut j.data.input 0 j.entry.w2.toNat) (seedSize j.entry.alg)
  obtain ⟨v, blind, ⟨_, found, -⟩, aside, -⟩ := w.withBlind blinds (isHybrid j.entry.alg)
  unfold State.kemKeygen
  rw [State.during_some h]
  dsimp only
  rw [State.withShroud_ready words, drawn, blind, State.keygenSeed_of_draw, if_neg (by decide)]
  exact ⟨_, rfl, State.placeGang_found j _ (State.charge_found found _ _ _), (aside.trans (Aside.charge _ _ _ _ _)).trans (KeyKept.placeGang _ _ _ _).aside⟩

end

/-! ### The commands -/

section
variable {s : State} {id : Nat} {j : Job}

section
variable (h : s.attemptOf id 0x0101 = some j) (draws : s.canDraw j.instOf 1) (blinds : s.canDraw 16 3) (words : s.shroudReady j = true) (fresh : j.kept = [])
include h draws blinds words fresh

theorem execKemKeygen_vault (vault : ctlToVault j.entry.w5.toNat = true) :
    let key := j.kemKey (s.keygenSeed j (seedSize j.entry.alg))
    Completes (.kemKeygen id true) s fun t => JobEnds t id jsOk (anyPublic j.entry.alg key).length (anyPublic j.entry.alg key) ∧
      (t.findJob id).map (·.keyOut) = some (some (ctlSlot j.entry.w5.toNat, j.defaultKey j.entry.alg 1 key)) := by
  have same := State.findJob_id (State.attemptOf_find h)
  obtain ⟨t, e, ⟨_, found⟩, -⟩ := State.kemKeygen_generates h draws blinds words fresh
  refine ⟨s.kemKeygen id true, rfl, ?_⟩
  rw [e]
  subst same
  exact JobEnds.finishKeygen_vault found vault

theorem execKemKeygen_blob (vault : ctlToVault j.entry.w5.toNat = false) {b : Bytes}
    (wrapped : s.makeBlob j.slice j.keyRules.bindBlobs (j.defaultKey j.entry.alg 1 (j.kemKey (s.keygenSeed j (seedSize j.entry.alg)))) = some b) :
    Finishes (.kemKeygen id true) s id (anyPublic j.entry.alg (j.kemKey (s.keygenSeed j (seedSize j.entry.alg))) ++ b) := by
  have same := State.findJob_id (State.attemptOf_find h)
  obtain ⟨t, e, ⟨_, found⟩, aside⟩ := State.kemKeygen_generates h draws blinds words fresh
  refine ⟨s.kemKeygen id true, rfl, ?_⟩
  rw [e]
  subst same
  exact JobEnds.finishKeygen_blob found vault ((aside.makeBlob _ _ _).trans wrapped)

end

/-- The read of a McEliece key is counted alone (R186). -/
theorem State.readMceKey_dictOnly (s : State) (slc a ref reads : Nat) : DictOnly s (s.readMceKey slc a ref reads) := by
  have counted := (s.bumpBy_dictOnly Key.mcElieceKeyCacheKeyReads reads).trans (State.bumpBy_dictOnly _ (Key.reservoirSliceBytesRead slc) (reads * publicSize a))
  unfold State.readMceKey
  extract_lets t
  split
  · exact counted.trans (State.bumpBy_dictOnly _ _ _)
  · exact counted

theorem State.readMceKeyIf_findJob (s : State) (slc a ref reads : Nat) (id : Nat) : (if isMce a then s.readMceKey slc a ref reads else s).findJob id = s.findJob id := by
  split
  · obtain ⟨_, e⟩ := s.readMceKey_dictOnly slc a ref reads
    rw [e]
    rfl
  · rfl

/-- An encapsulation draws its 32 bytes, and the ephemeral of a hybrid from the hub instance (R136, log 56). -/
theorem execKemEncaps_finishes {k : KeyFound} (h : s.attemptOf id 0x0102 = some j) (draws : s.canDraw j.instOf 1) (blinds : s.canDraw 16 4) (fresh : j.kept = []) (key : s.keyFor j k) :
    ∃ e, (isHybrid j.entry.alg = true → j.instOf ≠ 16 → e = s.drawnBy 16 (hybridShareSize j.entry.alg)) ∧
      Finishes (.kemEncaps id true) s id ((anyEncaps j.entry.alg (k.publicKey j.entry.alg) (s.drawnBy j.instOf 32) e).1 ++ (anyEncaps j.entry.alg (k.publicKey j.entry.alg) (s.drawnBy j.instOf 32) e).2) := by
  obtain ⟨t, keyed, kept⟩ := State.withKey_goesOn key
  have start := State.GoesOn.start (State.attemptOf_find h) fresh kept
  obtain ⟨u, drawn, w, others⟩ := start.withDraw draws 32
  obtain ⟨v, ephemeral, w, -⟩ := w.withDrawIf (State.canDraw_le blinds (by decide)) (isHybrid j.entry.alg) [] (hybridShareSize j.entry.alg)
  obtain ⟨x, blind, ⟨_, found, -⟩, -⟩ := w.withBlind blinds (isHybrid j.entry.alg)
  refine ⟨if isHybrid j.entry.alg then u.drawnBy 16 (hybridShareSize j.entry.alg) else [], fun hybrid other => ?_, s.kemEncaps id true, rfl, ?_⟩
  · rw [if_pos hybrid]
    exact State.drawnBy_of_drbg ((others 16 (Ne.symm other)).trans (kept.drbg 16)) _
  · unfold State.kemEncaps
    rw [State.during_some h]
    dsimp only
    rw [keyed, drawn, ephemeral, blind, State.drawnBy_of_drbg (kept.drbg _)]
    obtain ⟨_, charged⟩ := State.charge_found ((State.readMceKeyIf_findJob x j.slice j.entry.alg ((x.session j.entry.session).keyRef 0) 1 id).trans found) (encapsCost j.entry.alg) (hybridTaper j.entry.alg 2) 0
    exact JobEnds.finish _ charged

theorem execKemDecaps_finishes {key : Bytes} (h : s.attemptOf id 0x0103 = some j) (blinds : s.canDraw 16 2) (words : s.shroudReady j = true) (fresh : j.kept = []) (held : s.keyFor j (.priv key)) :
    Finishes (.kemDecaps id true) s id (anyDecaps j.entry.alg key (cut j.data.input 0 (cipherSize j.entry.alg))) := by
  obtain ⟨t, keyed, kept⟩ := State.withKey_goesOn held
  obtain ⟨u, blind, ⟨_, found, -⟩, -⟩ := (State.GoesOn.start (State.attemptOf_find h) fresh kept).withBlind blinds (isHybrid j.entry.alg)
  refine ⟨s.kemDecaps id true, rfl, ?_⟩
  unfold State.kemDecaps
  rw [State.during_some h]
  dsimp only
  rw [State.withShroud_ready words, keyed, blind]
  obtain ⟨_, charged⟩ := State.charge_found found (decapsCost j.entry.alg j.entry.order2) (hybridTaper j.entry.alg 1) (shroudDecaps j.entry.alg j.entry.order2)
  exact JobEnds.finish _ charged

/-- A load gives its entry a new generation (R183). -/
theorem execMceCacheLoad_finishes (h : s.attemptOf id 0x0110 = some j) (draws : s.canDraw 16 1) (fresh : j.kept = []) :
    ∃ gen, gen ≠ 0 ∧ gen < 65536 ∧ gen ≠ (s.mce (j.drawn.getD 0 0)).gen.toNat ∧ Finishes (.mceCacheLoad id) s id (mceRef (j.drawn.getD 0 0) gen) := by
  obtain ⟨t, drawn, ⟨⟨_, found, -⟩, aside, -⟩, -⟩ := (State.GoesOn.start (State.attemptOf_find h) fresh (KeyKept.refl s)).withDraw draws 2
  obtain ⟨nonzero, new⟩ := nonzeroOther_new 16 (s.mce (j.drawn.getD 0 0)).gen.toNat (Config.drawn (s.drawnBy 16 2))
  refine ⟨_, nonzero, nonzeroOther_lt _ _, new, s.mceLoad id, rfl, ?_⟩
  unfold State.mceLoad
  rw [State.during_some h]
  dsimp only
  rw [drawn, aside.mce]
  exact JobEnds.finish _ (State.findJob_modJob _ (fun _ => rfl) found)

theorem execMceCacheDrop_finishes (h : s.attemptOf id 0x0111 = some j) : Finishes (.mceCacheDrop id) s id [] := by
  refine ⟨s.mceDrop id, rfl, ?_⟩
  unfold State.mceDrop
  rw [State.during_some h]
  exact JobEnds.finish [] (State.attemptOf_find h)

end

/-! ### The settlement -/

/-- Settles O22: a key generation by where its key goes, an encapsulation by its two draws, and the others by the lemma of their command. -/
theorem kemResults : Obligations.KemResults := by
  unfold Obligations.KemResults
  intro s id j a w5 seed key draws hub words fresh
  have draw := State.canDraw_le draws (show 1 ≤ 4 by decide)
  have blinds := State.canDraw_le hub (show 3 ≤ 4 by decide)
  refine ⟨fun h => ⟨execKemKeygen_vault h draw blinds words fresh, fun vault b => execKemKeygen_blob h draw blinds words fresh vault⟩,
    fun k h held => execKemEncaps_finishes h draw hub fresh held,
    fun key h held => execKemDecaps_finishes h (State.canDraw_le hub (by decide)) words fresh held,
    fun h => execMceCacheLoad_finishes h (State.canDraw_le hub (by decide)) fresh, execMceCacheDrop_finishes⟩

end Sys2Proof.Machine
end

section
/-! PROOFS. Results of the classical commands (R119, R120, R123, R196 to R203); the settlement of O24. -/

namespace Sys2Proof.Machine

/-! ### A job that runs on -/

/-- A job runs under an opcode. -/
def State.Runs (s : State) (id op : Nat) : Prop := ∃ j, s.findJob id = some j ∧ j.phase = .running ∧ j.entry.opcode = op

section
variable {s t : State} {id op c : Nat} {j : Job}

theorem State.Runs.of_attempt (h : s.attemptOf id op = some j) : s.Runs id op := ⟨j, State.attemptOf_find h, State.attemptOf_runs h⟩

theorem State.Runs.of_jobs (h : s.Runs id op) (same : t.jobs = s.jobs) : t.Runs id op := by
  obtain ⟨j, found, run⟩ := h
  exact ⟨j, (State.findJob_of_jobs same id).trans found, run⟩

theorem State.Runs.modJob (h : s.Runs id op) (f : Job → Job) (same : ∀ k, ((f k).id, (f k).phase, (f k).entry) = (k.id, k.phase, k.entry)) : (s.modJob id f).Runs id op := by
  obtain ⟨j, found, run⟩ := h
  simp only [Prod.mk.injEq] at same
  refine ⟨f j, State.findJob_modJob f (fun k => (same k).1) found, ?_⟩
  obtain ⟨-, phase, entry⟩ := same j
  rwa [phase, entry]

theorem State.Runs.charge (h : s.Runs id op) (cycles taper shroud : Nat) : (s.charge id cycles taper shroud).Runs id op := by
  obtain ⟨j, found, run⟩ := h
  have spent : (s.spendWords j.wick shroud).Runs id op := State.Runs.of_jobs ⟨j, found, run⟩ (s.spendWords_jobs j.wick shroud)
  unfold State.charge
  rw [found]
  exact spent.modJob _ fun _ => rfl

/-- A running job of no object command that fails stages its status alone (R82, R92). -/
theorem State.Runs.fails (h : s.Runs id op) (status : Nat) (direct : op ≠ 0x0701 ∧ op ≠ 0x0702) : JobEnds (s.failJob id status) id status 0 [] := by
  obtain ⟨j, found, running, hop⟩ := h
  unfold State.failJob Job.failW6
  rw [found]
  simp only [running, hop, direct, decide_false, Bool.false_and, Bool.false_eq_true, reduceCtorEq, if_false]
  exact JobEnds.stageResult _ _ _ found

theorem State.Runs.finishes (h : s.Runs id op) (out : Bytes) : JobEnds (s.finish id out) id jsOk out.length out := by
  obtain ⟨_, found, -⟩ := h
  exact JobEnds.finish out found

/-- A draw that an instance serves leaves its job running (R96). -/
theorem State.Runs.withDrawIf {i : Nat} (h : s.Runs id op) (able : s.canDraw i 1) (need : Bool) (given : Bytes) (place n : Nat) :
    (s.withDrawIf need given id place i n fun _ t => t).Runs id op := by
  cases need with
  | false => exact h.modJob _ fun _ => rfl
  | true =>
    obtain ⟨served, -⟩ := State.generate_serves able n
    unfold State.withDrawIf State.withDraw
    rw [if_pos rfl]
    split
    · exact h
    · rw [served]
      exact State.Runs.modJob (State.Runs.of_jobs h rfl) _ fun _ => rfl

/-- An instance with requests left serves the next draw of an attempt (R488). -/
theorem State.GoesOn.serves {i : Nat} (w : s.GoesOn t id c) (draws : s.canDraw i (c + 1)) : t.canDraw i 1 := by
  obtain ⟨-, -, able⟩ := w
  exact able i 1 (by rwa [Nat.add_comm])

/-- Blinding that the hub instance serves leaves its job running (R208). -/
theorem State.GoesOn.withBlind_runs (w : s.GoesOn t id c) (run : t.Runs id op) (draws : s.canDraw 16 (c + 2)) (taper : Bool) : ∃ u, (∀ f, t.withBlind id c taper f = f u) ∧ u.Runs id op := by
  have draw := State.canDraw_le draws (Nat.le_succ _)
  obtain ⟨u, first, v, -⟩ := w.withDrawIf draw (taper && !t.ranMicrocode id) [] 8
  obtain ⟨x, second, -, -⟩ := v.withDrawIf draws (taper && !t.ranMicrocode id) [] 8
  have runs : u.Runs id op := first (fun _ t => t) ▸ run.withDrawIf (w.serves draw) _ _ _ _
  refine ⟨x, fun f => ?_, second (fun _ t => t) ▸ runs.withDrawIf (v.serves draws) _ _ _ _⟩
  unfold State.withBlind
  dsimp only
  rw [first, second]

theorem KeyKept.jobs (kept : KeyKept s t) : t.jobs = s.jobs := by
  obtain ⟨jobs, -⟩ := kept
  exact jobs

/-- An attempt on a taper comes to its blinding with its key and runs on (R113, R208). -/
theorem State.withKey_withBlind {k : KeyFound} (h : s.attemptOf id op = some j) (held : s.keyFor j k) (fresh : j.kept = []) (blinds : s.canDraw 16 2) :
    ∃ t, (∀ f : KeyFound → State → State, (s.withKey j true fun k t => t.withBlind id 0 true (f k)) = f k t) ∧ t.Runs id op := by
  obtain ⟨t, keyed, kept⟩ := State.withKey_goesOn held
  have run : t.Runs id op := (State.Runs.of_attempt h).of_jobs kept.jobs
  obtain ⟨u, blind, run⟩ := (State.GoesOn.start (State.attemptOf_find h) fresh kept).withBlind_runs run blinds true
  exact ⟨u, fun f => by rw [keyed, blind], run⟩

end

/-! ### Key generation -/

/-- The key CL_KEYGEN comes to: its seed, or one made of drawn bytes (R120, R200). -/
def State.classicalKey (s : State) (j : Job) : Bytes :=
  if ctlSeedIn j.entry.w5.toNat then cut j.data.input 0 j.entry.w2.toNat else drawnKey j.entry.alg (s.drawnBy j.instOf (drawnSize j.entry.alg))

/-- CL_KEYGEN comes to its key, and its work leaves aside what a result needs (R136, R200, R208). -/
theorem State.clKeygen_generates {s : State} {id : Nat} {j : Job} (h : s.attemptOf id 0x0501 = some j) (draws : s.canDraw j.instOf 1) (blinds : s.canDraw 16 3) (fresh : j.kept = []) :
    ∃ t, s.clKeygen id true = t.finishKeygen j (s.classicalKey j) ∧ (∃ k, t.findJob id = some k) ∧ Aside s t := by
  have start := State.GoesOn.start (State.attemptOf_find h) fresh (KeyKept.refl s)
  obtain ⟨u, drawn, w, -⟩ := start.withDrawIf draws (!ctlSeedIn j.entry.w5.toNat) (cut j.data.input 0 j.entry.w2.toNat) (drawnSize j.entry.alg)
  obtain ⟨v, blind, ⟨_, found, -⟩, aside, -⟩ := w.withBlind blinds true
  refine ⟨v.charge id 0 (taperMul j.entry.alg + wipeCycles) 0, ?_, State.charge_found found _ _ _, aside.trans (Aside.charge _ _ _ _ _)⟩
  unfold State.clKeygen State.classicalKey
  rw [State.during_some h]
  dsimp only
  rw [drawn, blind]
  cases ctlSeedIn j.entry.w5.toNat <;> rfl

/-- A command that generates a key ends by where the key goes: into a slot at the commit, or out as a blob (R120, R123, R463, R471). -/
theorem completes_finishKeygen {s t : State} {i : Instr} {id : Nat} {j : Job} {key : Bytes} (e : exec i s = .next (t.finishKeygen j key)) (same : j.id = id)
    (found : ∃ k, t.findJob id = some k) (aside : Aside s t) :
    (ctlToVault j.entry.w5.toNat = true → Completes i s fun u => JobEnds u id jsOk (anyPublic j.entry.alg key).length (anyPublic j.entry.alg key) ∧
      (u.findJob id).map (·.keyOut) = some (some (ctlSlot j.entry.w5.toNat, j.defaultKey j.entry.alg 1 key))) ∧
    (ctlToVault j.entry.w5.toNat = false → ∀ b, s.makeBlob j.slice j.keyRules.bindBlobs (j.defaultKey j.entry.alg 1 key) = some b →
      Finishes i s id (anyPublic j.entry.alg key ++ b)) := by
  subst same
  obtain ⟨_, found⟩ := found
  exact ⟨fun vault => ⟨_, e, JobEnds.finishKeygen_vault found vault⟩,
    fun vault _ wrapped => ⟨_, e, JobEnds.finishKeygen_blob found vault ((aside.makeBlob _ _ _).trans wrapped)⟩⟩

/-! ### Use of a key -/

section
variable {s : State} {id : Nat} {j : Job} {key : Bytes}

/-- A signature draws its salt or its hedge from the preparing wick's instance (R199, R206). -/
theorem execClSign_finishes (h : s.attemptOf id 0x0502 = some j) (draws : s.canDraw j.instOf 1) (blinds : s.canDraw 16 3) (fresh : j.kept = []) (held : s.keyFor j (.priv key)) :
    let parts := classicalParts (cut j.data.input 0 j.entry.w2.toNat)
    Finishes (.clSign id true) s id (classicalSign j.entry.alg j.entry.w5.toNat key parts.1 parts.2
      (if (j.entry.alg = 0x50 && bitOf j.entry.w5.toNat 0) || j.entry.hedged then s.drawnBy j.instOf (if j.entry.alg = 0x50 then digestSize (bitsOf j.entry.w5.toNat 15 8) else 32) else [])) := by
  obtain ⟨t, keyed, kept⟩ := State.withKey_goesOn held
  obtain ⟨u, drawn, w, -⟩ := (State.GoesOn.start (State.attemptOf_find h) fresh kept).withDrawIf draws
    ((j.entry.alg = 0x50 && bitOf j.entry.w5.toNat 0) || j.entry.hedged) [] (if j.entry.alg = 0x50 then digestSize (bitsOf j.entry.w5.toNat 15 8) else 32)
  obtain ⟨v, blind, ⟨_, found, -⟩, -⟩ := w.withBlind blinds true
  refine ⟨s.clSign id true, rfl, ?_⟩
  unfold State.clSign
  rw [State.during_some h]
  dsimp only
  rw [keyed]
  dsimp only
  rw [drawn, blind, State.drawnBy_of_drbg (kept.drbg _)]
  obtain ⟨_, charged⟩ := State.charge_found found _ _ _
  exact JobEnds.finish _ charged

/-- A verification ends by its outcome (R199, R202). -/
theorem execClVerify_ends {k : KeyFound} (h : s.attemptOf id 0x0503 = some j) (blinds : s.canDraw 16 2) (fresh : j.kept = []) (held : s.keyFor j k) :
    let input := cut j.data.input 0 j.entry.w2.toNat
    let n := sigBytes j.entry.alg (k.publicKey j.entry.alg)
    let p := classicalParts (input.drop n)
    Ends (.clVerify id true) s id (if classicalVerify j.entry.alg j.entry.w5.toNat (k.publicKey j.entry.alg) p.1 p.2 (input.take n) then jsOk else jsVerifyFail) 0 := by
  obtain ⟨t, goes, run⟩ := State.withKey_withBlind h held fresh blinds
  refine ⟨s.clVerify id true, rfl, ?_⟩
  unfold State.clVerify
  rw [State.during_some h]
  dsimp only
  rw [goes]
  split
  · exact (run.charge _ _ _).finishes []
  · exact (run.charge _ _ _).fails _ (by decide)

/-- An agreement ends by whether the peer's point and the result serve (R203). -/
theorem execClAgree_ends (h : s.attemptOf id 0x0504 = some j) (blinds : s.canDraw 16 2) (fresh : j.kept = []) (held : s.keyFor j (.priv key)) :
    let peer := cut j.data.input 0 (publicSize j.entry.alg)
    let shared := classicalShared j.entry.alg key peer
    Completes (.clAgree id true) s fun t => if agreeOk j.entry.alg peer shared then JobEnds t id jsOk shared.length shared else JobEnds t id jsFormat 0 [] := by
  obtain ⟨t, goes, run⟩ := State.withKey_withBlind h held fresh blinds
  refine ⟨s.clAgree id true, rfl, ?_⟩
  unfold State.clAgree
  rw [State.during_some h]
  dsimp only
  rw [goes]
  dsimp only
  split
  · exact (run.charge _ _ _).finishes _
  · exact (run.charge _ _ _).fails _ (by decide)

end

/-- Settles O24: a key generation by where its key goes, and each use of a key by the lemma of its command. -/
theorem classicalResults : Obligations.ClassicalResults := by
  unfold Obligations.ClassicalResults
  intro s id j a w5 input draws hub fresh
  have draw := State.canDraw_le draws (show 1 ≤ 4 by decide)
  have blinds := State.canDraw_le hub (show 3 ≤ 4 by decide)
  have pair := State.canDraw_le hub (show 2 ≤ 4 by decide)
  refine ⟨fun h => ?_,
    fun _ h held => execClSign_finishes h draw blinds fresh held,
    fun _ h held => execClVerify_ends h pair fresh held,
    fun _ h held => execClAgree_ends h pair fresh held⟩
  obtain ⟨t, generates, found, aside⟩ := State.clKeygen_generates h draw blinds fresh
  exact completes_finishKeygen (congrArg Host.Outcome.next generates) (State.findJob_id (State.attemptOf_find h)) found aside

end Sys2Proof.Machine
end

section
/-! PROOFS. Control words of the tapers (R217, R218): what a word with an idle datapath does, and where its sequencer goes. -/

namespace Sys2Proof.Machine

/-! ### Words with an idle datapath -/

/-- A microword whose fields are all 0 but those of the sequencer (R217). -/
def controlOnly (v : BitVec 128) : Prop := v.toNat % 2 ^ 97 = 0

section
variable {v : BitVec 128} (idle : controlOnly v)
include idle

theorem controlOnly.field {hi lo : Nat} (h : hi < 97) : mw v hi lo = 0 := by
  obtain ⟨q, hq⟩ := Nat.dvd_of_mod_eq_zero idle
  unfold mw bitsOf
  by_cases order : lo ≤ hi
  · have factors : 2 ^ 97 = 2 ^ lo * (2 ^ (hi + 1 - lo) * 2 ^ (96 - hi)) := by
      rw [← pow_add, ← pow_add]
      congr 1
      omega
    rw [hq, factors, Nat.mul_assoc, Nat.mul_div_cancel_left _ (Nat.two_pow_pos lo), Nat.mul_assoc]
    exact Nat.mul_mod_right _ _
  · rw [show hi + 1 - lo = 0 by omega]
    exact Nat.mod_one _

theorem controlOnly.pointers (x : Taper) : x.pointerError v = false := by
  simp [Taper.pointerError, idle.field]

theorem controlOnly.reserved (op : mw v 119 116 ≤ 8) : reservedWord v = false := by
  simp [reservedWord, idle.field, op]

/-- An idle datapath leaves every resource as it was. -/
theorem Taper.datapath_idle (x : Taper) (fresh : Nat) (f : Nat → Nat) : x.datapath v fresh f = (x, false) := by
  simp [Taper.datapath, idle.field]

/-- A word with an idle datapath comes to where its sequencer goes. -/
theorem State.runWord_idle {s : State} {t : Nat} {z : Taper} (next : (s.taper t).sequence (s.taper t) v (s.taperCond (s.taper t) v) = some z) :
    (∃ m, (s.runWord t v).taper t = { z with modulus := m, waiting := none }) ∧ (s.runWord t v).jobs = s.jobs ∧ ∀ k, k ≠ t → (s.runWord t v).taper k = s.taper k := by
  suffices result : ∃ m, s.runWord t v = ({ s with freeIndex := s.freeIndex + 17 } : State).setTaper t { z with modulus := m, waiting := none } by
    obtain ⟨m, result⟩ := result
    rw [result]
    exact ⟨⟨m, State.taper_setTaper ..⟩, rfl, fun k other => State.taper_setTaper_other _ t _ other⟩
  unfold State.runWord
  extract_lets x c base u g w
  have unblinded : g = (none, u) := if_neg (by rw [idle.field (by decide)]; decide)
  rw [unblinded, Taper.datapath_idle idle]
  dsimp -zeta only
  rw [show x.sequence x v c = some z from next]
  dsimp -zeta only
  refine ⟨(w.nextModulus z x).getD z.modulus, ?_⟩
  have drawn : w = u := congrArg Prod.snd unblinded
  rw [drawn]
  cases u.nextModulus z x <;> rfl

end

/-! ### The sequencer -/

section
variable {x : Taper} {v : BitVec 128} (c : Bool)

theorem Taper.sequence_next (op : mw v 119 116 = 0 ∨ mw v 119 116 = 7) (inside : x.address.toNat < 0xEFF) : x.sequence x v c = some { x with address := x.address + 1 } := by
  have room : x.address.toNat ≠ 0xFFF := by omega
  have next : BitVec.ofNat 12 (x.address.toNat + 1) = x.address + 1 := by simp [BitVec.ofNat_add]
  simp only [Taper.sequence, op, Bool.or_eq_true, decide_eq_true_eq, if_true, room, if_false, next]

theorem Taper.sequence_jump (op : mw v 119 116 = 1) : x.sequence x v c = some { x with address := BitVec.ofNat 12 (mw v 115 104) } := by
  simp [Taper.sequence, op]

theorem Taper.sequence_call (op : mw v 119 116 = 4) (room : x.stack.length < 4) :
    x.sequence x v c = some { x with address := BitVec.ofNat 12 (mw v 115 104), stack := (x.address + 1) :: x.stack } := by
  simp [Taper.sequence, op, Nat.not_le.mpr room, BitVec.ofNat_add]

theorem Taper.sequence_return {a : BitVec 12} {rest : List (BitVec 12)} (op : mw v 119 116 = 5) (called : x.stack = a :: rest) :
    x.sequence x v c = some { x with address := a, stack := rest } := by
  simp [Taper.sequence, op, called]

/-- Counter k of a taper, as it holds it. -/
def Taper.counterWord (x : Taper) (k : Nat) : BitVec 16 := Table.get (fun _ => 0#16) x.counters k

theorem Taper.counterWord_down (x : Taper) (k : Nat) : BitVec.ofNat 16 ((x.counter k + 65535) % 65536) = x.counterWord k - 1#16 := by
  apply BitVec.eq_of_toNat_eq
  rw [BitVec.toNat_ofNat, BitVec.toNat_sub]
  show (x.counter k + 65535) % 65536 % 2 ^ 16 = (2 ^ 16 - 1 + x.counter k) % 2 ^ 16
  omega

/-- The taper with a counter set. -/
def Taper.setCounter (x : Taper) (k : Nat) (w : BitVec 16) : Taper := { x with counters := Table.set (fun _ => 0#16) x.counters k w }

/-- A counter that has not run out counts to one lower. -/
theorem Taper.exists_countedDown {x : Taper} {k : Nat} (h : 1 ≤ x.counter k) : ∃ w, w = x.counterWord k - 1#16 ∧ w.toNat = x.counter k - 1 := by
  have below : 1#16 ≤ x.counterWord k := h
  exact ⟨_, rfl, BitVec.toNat_sub_of_le below⟩

section
variable {w : BitVec 16} (op : mw v 119 116 = 6) (load : mw v 26 26 = 0) (down : w = x.counterWord (mw v 98 97) - 1#16)
include op load down

theorem Taper.sequence_repeat (more : 2 ≤ x.counter (mw v 98 97)) : x.sequence x v c = some { x.setCounter (mw v 98 97) w with address := BitVec.ofNat 12 (mw v 115 104) } := by
  have bound : x.counter (mw v 98 97) < 65536 := BitVec.isLt _
  have left : (x.counter (mw v 98 97) + 65535) % 65536 ≠ 0 := by omega
  rw [← Taper.counterWord_down] at down
  simp [Taper.sequence, op, load, left, ← down, Taper.setCounter]

theorem Taper.sequence_leave (last : x.counter (mw v 98 97) = 1) (inside : x.address.toNat < 0xEFF) :
    x.sequence x v c = some { x.setCounter (mw v 98 97) w with address := x.address + 1 } := by
  have room : x.address.toNat ≠ 0xFFF := by omega
  rw [← Taper.counterWord_down, last] at down
  simp [Taper.sequence, op, load, last, down, room, Taper.setCounter, BitVec.ofNat_add]

end

theorem Taper.sequence_secondRun (op : mw v 119 116 = 8) (first : x.run2 = false) : x.sequence x v c = some { x with address := x.entry, run2 := true } := by
  simp [Taper.sequence, op, first]

theorem Taper.sequence_nextMacro {m : MacroRun} {rest : List MacroRun} (op : mw v 119 116 = 8) (second : x.run2 = true) (more : x.runs = m :: rest) :
    x.sequence x v c = some { x.takeRun m x.modulus with runs := rest } := by
  simp [Taper.sequence, op, second, more]

theorem Taper.sequence_end (op : mw v 119 116 = 8) (second : x.run2 = true) (last : x.runs = []) : x.sequence x v c = some { x with ended := true } := by
  simp [Taper.sequence, op, second, last]

end

end Sys2Proof.Machine
end

section
/-! PROOFS. Microwords as they are fetched and executed, waits, wipes and strikes of the tapers (R195, R207, R208, R210, R212 to R214, R216 to R218); the settlement of O59. -/

namespace Sys2Proof.Machine

/-! ### Fetch and execution -/

/-- A taper is at work and its next word comes from the ROM (R216). -/
def State.AtRomWord (s : State) (t : Nat) : Prop := s.taperRuns t = true ∧ (s.taper t).waiting = none ∧ s.control.map = [] ∧ (s.taper t).address.toNat < 0xEFF

theorem State.AtRomWord.runs {s : State} {t : Nat} (ready : s.AtRomWord t) : s.taperRuns t = true := by
  obtain ⟨runs, -⟩ := ready
  exact runs

theorem State.AtRomWord.inside {s : State} {t : Nat} (ready : s.AtRomWord t) : (s.taper t).address.toNat < 0xEFF := by
  obtain ⟨-, -, -, inside⟩ := ready
  exact inside

/-- What a word does that was fetched whole, by the SECDED outcome of its operands (R195, R217, R218). -/
def State.executeWord (s : State) (t : Nat) (v : BitVec 128) (operands : EccOutcome) : State :=
  let x := s.taper t
  if reservedWord v || x.pointerError v then s.taperFault t 0x0407
  else if mw v 119 116 = 7 && !s.taperCond x v then
    let s := s.setTaper t { x with waiting := some v }
    match x.job with
    | some id => if mw v 103 99 = 9 then s.waitEntropy id else s
    | none => s
  else
    let s := s.readOperands t v operands
    if (operands = .double && readsMemory v) || !s.taperRuns t then s else s.runWord t v

section
variable {s : State} {t : Nat} {v : BitVec 128} {operands : EccOutcome}

theorem State.fetchWord_rom {x : Taper} (map : s.control.map = []) (inside : x.address.toNat < 0xEFF) (rom : BitVec 128) : s.fetchWord x rom = (x.address, rom) := by
  have low : ¬ 0xF00 ≤ x.address.toNat := by omega
  unfold State.fetchWord
  simp only [map, List.find?_nil, low, if_false]

theorem State.taperRuns_setTaper_same (s : State) (t : Nat) : (s.setTaper t (s.taper t)).taperRuns t = s.taperRuns t := by
  unfold State.taperRuns
  rw [State.taper_setTaper]
  rfl

theorem State.taperRuns_unended {s : State} {t : Nat} (runs : s.taperRuns t = true) : (s.taper t).ended = false := by
  unfold State.taperRuns at runs
  simp only [Bool.and_eq_true, Bool.not_eq_true'] at runs
  obtain ⟨⟨⟨_, unended⟩, -⟩, -⟩ := runs
  exact unended

theorem exec_taperMicroword_rom {n : Fin 8} (ready : s.AtRomWord n.val) (v : BitVec 128) (operands : EccOutcome) :
    exec (.taperMicroword n v { word := .clean, operands := operands }) s = .next ((s.setTaper n.val (s.taper n.val)).executeWord n.val v operands) := by
  obtain ⟨runs, unheld, unmapped, inside⟩ := ready
  show execTaperMicroword n v _ s = _
  unfold execTaperMicroword
  extract_lets x
  rw [if_neg (by simp [x, runs, unheld]), State.fetchWord_rom unmapped inside]
  show Host.Outcome.next (if decide (EccOutcome.clean = .double) || !s.taperRuns n.val then s else (s.setTaper n.val (s.taper n.val)).executeWord n.val v operands) = _
  rw [if_neg (by simp [runs])]

theorem State.executeWord_malformed (bad : reservedWord v = true ∨ (s.taper t).pointerError v = true) : s.executeWord t v operands = s.taperFault t 0x0407 := by
  unfold State.executeWord
  exact if_pos (by simpa using bad)

section
variable (sound : reservedWord v = false) (slots : (s.taper t).pointerError v = false)
include sound slots

/-- A WAIT for another condition than fresh randomness holds while it is false (R218). -/
theorem State.executeWord_holds (op : mw v 119 116 = 7) (cond : s.taperCond (s.taper t) v = false) (other : mw v 103 99 ≠ 9) :
    s.executeWord t v operands = s.setTaper t { s.taper t with waiting := some v } := by
  unfold State.executeWord
  simp only [sound, slots, op, cond, other, Bool.or_self, Bool.false_eq_true, if_false, decide_true, Bool.not_false, Bool.and_self, if_true]
  split <;> rfl

theorem State.executeWord_runs (op : mw v 119 116 ≠ 7) (runs : s.taperRuns t = true) : s.executeWord t v .clean = s.runWord t v := by
  have read : s.readOperands t v .clean = s := by
    unfold State.readOperands
    exact ite_self s
  unfold State.executeWord
  simp only [sound, slots, op, read, runs, Bool.or_self, Bool.false_eq_true, if_false, decide_false, Bool.false_and, Bool.not_true, reduceCtorEq]

/-- An error of two bits in an operand word stops its word with a fault (R195, R212). -/
theorem State.executeWord_double (op : mw v 119 116 ≠ 7) (reads : readsMemory v = true) : s.executeWord t v .double = s.taperFault t 0x0406 := by
  unfold State.executeWord State.readOperands
  simp only [sound, slots, op, reads, Bool.or_self, Bool.false_eq_true, if_false, decide_false, Bool.false_and, Bool.not_true, decide_true, Bool.and_self, Bool.true_or, if_true]

end
end

/-! ### Words of the sequencer alone -/

/-- A word that gives the sequencer an operation, a target and a counter, and nothing else (R217). -/
def sequenceWord (op target counter : Nat) : BitVec 128 := BitVec.ofNat 128 (op * 2 ^ 116 + target * 2 ^ 104 + counter * 2 ^ 97)

theorem sequenceWord_fields {op target counter : Nat} (ho : op < 16) (ht : target < 4096) (hc : counter < 4) :
    mw (sequenceWord op target counter) 119 116 = op ∧ mw (sequenceWord op target counter) 115 104 = target ∧ mw (sequenceWord op target counter) 98 97 = counter ∧
      controlOnly (sequenceWord op target counter) := by
  have value : (sequenceWord op target counter).toNat = op * 2 ^ 116 + target * 2 ^ 104 + counter * 2 ^ 97 := by
    unfold sequenceWord
    rw [BitVec.toNat_ofNat]
    omega
  unfold mw bitsOf controlOnly
  rw [value]
  omega

/-- A word completes, changes its own taper to one with a property, and no job (R217). -/
def TaperSteps (s : State) (n : Fin 8) (v : BitVec 128) (f : Taper → Prop) : Prop :=
  Completes (.taperMicroword n v { word := .clean, operands := .clean }) s fun t => f (t.taper n.val) ∧ t.jobs = s.jobs ∧ ∀ k, k ≠ n.val → t.taper k = s.taper k

/-- The word of a WAIT for ZERO (R218, R219). -/
def waitZero : BitVec 128 := sequenceWord 7 0 0 ||| BitVec.ofNat 128 (2 * 2 ^ 99)

theorem waitZero_eq : waitZero = BitVec.ofNat 128 (7 * 2 ^ 116 + 2 * 2 ^ 99) := by decide

theorem waitZero_fields : mw waitZero 119 116 = 7 ∧ mw waitZero 103 99 = 2 ∧ controlOnly waitZero := by
  unfold controlOnly
  decide

theorem State.taperCond_waitZero (s : State) (x : Taper) : s.taperCond x waitZero = x.zero := by
  obtain ⟨-, cond, -⟩ := waitZero_fields
  unfold State.taperCond
  rw [cond]
  rfl

section
variable {s : State} {n : Fin 8} {f : Taper → Prop} (ready : s.AtRomWord n.val)
include ready

/-- A word of the sequencer leaves its taper where its operation goes. -/
theorem TaperSteps.of_sequence {op target counter : Nat} {z : Taper} (ho : op ≤ 8) (acts : op ≠ 7) (ht : target < 4096) (hc : counter < 4)
    (next : ∀ v c, mw v 119 116 = op → mw v 115 104 = target → mw v 98 97 = counter → mw v 26 26 = 0 → (s.taper n.val).sequence (s.taper n.val) v c = some z)
    (after : ∀ m, f { z with modulus := m, waiting := none }) : TaperSteps s n (sequenceWord op target counter) f := by
  obtain ⟨isOp, isTarget, isCounter, idle⟩ := sequenceWord_fields (show op < 16 by omega) ht hc
  have goes := next (sequenceWord op target counter) ((s.setTaper n.val (s.taper n.val)).taperCond (s.taper n.val) (sequenceWord op target counter)) isOp isTarget isCounter (idle.field (by decide))
  obtain ⟨⟨m, result⟩, jobs, others⟩ := State.runWord_idle idle (s := s.setTaper n.val (s.taper n.val)) (by rw [State.taper_setTaper]; exact goes)
  refine ⟨_, exec_taperMicroword_rom ready _ _, ?_⟩
  rw [State.executeWord_runs (idle.reserved (by omega)) (idle.pointers _) (by omega) ((State.taperRuns_setTaper_same s _).trans ready.runs)]
  exact ⟨result ▸ after m, jobs, fun k other => (others k other).trans (State.taper_setTaper_other s _ _ other)⟩

theorem TaperSteps.nop : TaperSteps s n (sequenceWord 0 0 0) fun y =>
    y.address = (s.taper n.val).address + 1 ∧ y.memory = (s.taper n.val).memory ∧ y.pointers = (s.taper n.val).pointers ∧ y.acc = (s.taper n.val).acc :=
  .of_sequence ready (by decide) (by decide) (by decide) (by decide) (fun _ c op _ _ _ => Taper.sequence_next c (.inl op) ready.inside) fun _ => ⟨rfl, rfl, rfl, rfl⟩

theorem TaperSteps.jumps {t : Nat} (rom : t < 0xF00) : TaperSteps s n (sequenceWord 1 t 0) fun y => y.address = BitVec.ofNat 12 t ∧ y.memory = (s.taper n.val).memory :=
  .of_sequence (z := { s.taper n.val with address := BitVec.ofNat 12 t }) ready (by decide) (by decide) (by omega) (by decide) (fun _ c op target _ _ => target ▸ Taper.sequence_jump c op) fun _ => ⟨rfl, rfl⟩

theorem TaperSteps.calls {t : Nat} (rom : t < 0xF00) (room : (s.taper n.val).stack.length < 4) :
    TaperSteps s n (sequenceWord 4 t 0) fun y => y.address = BitVec.ofNat 12 t ∧ y.stack = ((s.taper n.val).address + 1) :: (s.taper n.val).stack :=
  .of_sequence (z := { s.taper n.val with address := BitVec.ofNat 12 t, stack := ((s.taper n.val).address + 1) :: (s.taper n.val).stack }) ready (by decide) (by decide) (by omega) (by decide)
    (fun _ c op target _ _ => target ▸ Taper.sequence_call c op room) fun _ => ⟨rfl, rfl⟩

theorem TaperSteps.returns {a : BitVec 12} {rest : List (BitVec 12)} (called : (s.taper n.val).stack = a :: rest) :
    TaperSteps s n (sequenceWord 5 0 0) fun y => y.address = a ∧ y.stack = rest :=
  .of_sequence ready (by decide) (by decide) (by decide) (by decide) (fun _ c op _ _ _ => Taper.sequence_return c op called) fun _ => ⟨rfl, rfl⟩

section
variable {t k : Nat} (rom : t < 0xF00) (counts : k < 4)
include rom counts

theorem TaperSteps.repeats (more : 2 ≤ (s.taper n.val).counter k) :
    TaperSteps s n (sequenceWord 6 t k) fun y => y.address = BitVec.ofNat 12 t ∧ y.counter k = (s.taper n.val).counter k - 1 := by
  obtain ⟨w, down, value⟩ := Taper.exists_countedDown (Nat.le_of_succ_le more)
  refine .of_sequence (z := { (s.taper n.val).setCounter k w with address := BitVec.ofNat 12 t }) ready (by decide) (by decide) (by omega) counts (fun _ c op target counter load => ?_)
    fun _ => ⟨rfl, (congrArg BitVec.toNat (Table.get_set_same ..)).trans value⟩
  subst counter target
  exact Taper.sequence_repeat c op load down more

theorem TaperSteps.leaves (last : (s.taper n.val).counter k = 1) :
    TaperSteps s n (sequenceWord 6 t k) fun y => y.address = (s.taper n.val).address + 1 ∧ y.counter k = 0 := by
  obtain ⟨w, down, value⟩ := Taper.exists_countedDown last.ge
  rw [last] at value
  refine .of_sequence (z := { (s.taper n.val).setCounter k w with address := (s.taper n.val).address + 1 }) ready (by decide) (by decide) (by omega) counts (fun _ c op _ counter load => ?_)
    fun _ => ⟨rfl, (congrArg BitVec.toNat (Table.get_set_same ..)).trans value⟩
  subst counter
  exact Taper.sequence_leave c op load down last ready.inside

end

theorem TaperSteps.secondRun (first : (s.taper n.val).run2 = false) :
    TaperSteps s n (sequenceWord 8 0 0) fun y => y.address = (s.taper n.val).entry ∧ y.run2 = true ∧ y.ended = false :=
  .of_sequence ready (by decide) (by decide) (by decide) (by decide) (fun _ c op _ _ _ => Taper.sequence_secondRun c op first) fun _ => ⟨rfl, rfl, State.taperRuns_unended ready.runs⟩

theorem TaperSteps.ends (second : (s.taper n.val).run2 = true) (last : (s.taper n.val).runs = []) : TaperSteps s n (sequenceWord 8 0 0) fun y => y.ended = true :=
  .of_sequence ready (by decide) (by decide) (by decide) (by decide) (fun _ c op _ _ _ => Taper.sequence_end c op second last) fun _ => rfl

theorem TaperSteps.nextMacro {m : MacroRun} {rest : List MacroRun} (second : (s.taper n.val).run2 = true) (more : (s.taper n.val).runs = m :: rest) :
    TaperSteps s n (sequenceWord 8 0 0) fun y => y.runs = rest ∧ y.ended = false ∧ y.run2 = false ∧ y.address = y.entry :=
  .of_sequence ready (by decide) (by decide) (by decide) (by decide) (fun _ c op _ _ _ => Taper.sequence_nextMacro c op second more)
    fun _ => ⟨rfl, State.taperRuns_unended ready.runs, rfl, rfl⟩

/-- A WAIT for ZERO holds while the flag is clear. -/
theorem TaperSteps.waitHolds (clear : (s.taper n.val).zero = false) : TaperSteps s n waitZero fun y => y.waiting = some waitZero ∧ y.memory = (s.taper n.val).memory := by
  obtain ⟨op, cond, idle⟩ := waitZero_fields
  have here : (s.setTaper n.val (s.taper n.val)).taper n.val = s.taper n.val := State.taper_setTaper s _ _
  refine ⟨_, exec_taperMicroword_rom ready _ _, ?_⟩
  rw [State.executeWord_holds (idle.reserved (by omega)) (idle.pointers _) op ((State.taperCond_waitZero _ _).trans (by rw [here]; exact clear)) (by omega), here]
  have result := State.taper_setTaper (s.setTaper n.val (s.taper n.val)) n.val { s.taper n.val with waiting := some waitZero }
  refine ⟨result.symm ▸ ⟨rfl, rfl⟩, rfl, fun k other => ?_⟩
  exact (State.taper_setTaper_other _ _ _ other).trans (State.taper_setTaper_other s _ _ other)

end

/-! ### Waits, wipes and strikes -/

/-- The job of a taper whose WAIT ends does not wait for randomness any more (R218, R493). -/
def State.wakesTaper (s : State) (t : Nat) : State :=
  match (s.taper t).job with
  | some id => s.modJob id fun j => { j with waitsEntropy := false }
  | none => s

theorem State.taper_wakesTaper (s : State) (t k : Nat) : (s.wakesTaper t).taper k = s.taper k := by
  unfold State.wakesTaper
  split <;> rfl

section
variable {s : State} {n : Fin 8}

section
variable {v : BitVec 128} (waits : (s.taper n.val).waiting = some v)
include waits

theorem exec_taperWaitRelease_holds (cond : s.taperCond (s.taper n.val) v = false) : exec (.taperWaitRelease n) s = .next s := by
  show execTaperWaitRelease n s = _
  unfold execTaperWaitRelease
  simp only [waits, cond, Bool.not_false, Bool.or_true, if_true]

theorem exec_taperWaitRelease_ends (runs : s.taperRuns n.val = true) (cond : s.taperCond (s.taper n.val) v = true) : exec (.taperWaitRelease n) s = .next ((s.wakesTaper n.val).runWord n.val v) := by
  show execTaperWaitRelease n s = _
  unfold execTaperWaitRelease
  simp only [waits, runs, cond, Bool.not_true, Bool.or_self, Bool.false_eq_true, if_false]
  rfl

/-- A WAIT for ZERO that ends goes on at the next word. -/
theorem exec_taperWaitRelease_goesOn (runs : s.taperRuns n.val = true) (cond : s.taperCond (s.taper n.val) v = true) (word : v = waitZero) (inside : (s.taper n.val).address.toNat < 0xEFF) :
    Completes (.taperWaitRelease n) s fun t => (t.taper n.val).waiting = none ∧ (t.taper n.val).address = (s.taper n.val).address + 1 ∧ (t.taper n.val).memory = (s.taper n.val).memory := by
  obtain ⟨op, -, idle⟩ := waitZero_fields
  rw [← word] at op idle
  have here := s.taper_wakesTaper n.val n.val
  obtain ⟨⟨m, result⟩, -⟩ := State.runWord_idle idle (s := s.wakesTaper n.val) (by rw [here]; exact Taper.sequence_next _ (.inr op) inside)
  refine ⟨_, exec_taperWaitRelease_ends waits runs cond, ?_⟩
  beta_reduce
  rw [result]
  exact ⟨rfl, rfl, rfl⟩

theorem exec_taperWaitWatchdog_fires (runs : s.taperRuns n.val = true) (timed : mw v 103 99 ≠ 9) {id : Nat} (job : (s.taper n.val).job = some id) :
    exec (.taperWaitWatchdog n) s = .next ((s.modJob id fun j => { j with taperCycles := j.taperCycles + j.taperRules.2 }).taperFault n.val 0x0408) := by
  show execTaperWaitWatchdog n s = _
  unfold execTaperWaitWatchdog
  simp only [waits, runs, timed, job, Bool.not_true, decide_false, Bool.or_self, Bool.false_eq_true, if_false]

theorem exec_taperWaitWatchdog_untimed (untimed : mw v 103 99 = 9) : exec (.taperWaitWatchdog n) s = .next s := by
  show execTaperWaitWatchdog n s = _
  unfold execTaperWaitWatchdog
  simp only [waits, untimed, decide_true, Bool.or_true, if_true]

end

/-- The job of a taper has ended with a result (R210). -/
def State.endedCleanly (s : State) (t : Nat) : Bool :=
  match (s.taper t).job with
  | some id => (match s.findJob id with | some j => decide (j.phase = .staged) | none => false)
  | none => false

/-- A taper after its wipe keeps its strike rule and counts a job that ended cleanly (R210, R213, R224). -/
def State.wipedTaper (s : State) (t : Nat) : Taper :=
  { Taper.wiped with
    strikeRule := (s.taper t).strikeRule
    cleanJobs := if s.endedCleanly t then (s.taper t).cleanJobs + 1 else (s.taper t).cleanJobs }

theorem State.cleanJobs_wipedTaper (s : State) (t : Nat) :
    (s.wipedTaper t).cleanJobs = (match (s.taper t).job with
      | some id => (match s.findJob id with | some j => if j.phase = .staged then (s.taper t).cleanJobs + 1 else (s.taper t).cleanJobs | none => (s.taper t).cleanJobs)
      | none => (s.taper t).cleanJobs) := by
  unfold State.wipedTaper State.endedCleanly
  cases (s.taper t).job with
  | none => rfl
  | some id =>
    obtain found | ⟨j, found⟩ := Option.eq_none_or_eq_some (s.findJob id)
    · simp only [found, Bool.false_eq_true, if_false]
    · simp only [found, decide_eq_true_eq]

theorem exec_taperWipe_done (due : (s.taper n.val).mustWipe = true) : exec (.taperWipe n true) s = .next (s.setTaper n.val (s.wipedTaper n.val)) := by
  show execTaperWipe n true s = _
  unfold execTaperWipe State.wipedTaper State.endedCleanly
  simp only [due, Bool.not_true, Bool.false_eq_true, if_false, if_true, Bool.and_true] <;> rfl

theorem exec_taperWipe_idle (idle : (s.taper n.val).mustWipe = false) (b : Bool) : exec (.taperWipe n b) s = .next s := by
  show execTaperWipe n b s = _
  unfold execTaperWipe
  simp only [idle, Bool.not_false, if_true]

theorem exec_strikeClear_clears (strike : s.flag (Key.taperStatusStrike n.val) = true) (served : (s.taper n.val).strikeRule ≤ (s.taper n.val).cleanJobs) :
    exec (.strikeClear n) s = .next ((s.setTaper n.val { s.taper n.val with cleanJobs := 0 }).setEntry (Key.taperStatusStrike n.val) 0) := by
  show execStrikeClear n s = _
  unfold execStrikeClear
  simp only [strike, served, decide_true, Bool.and_self, if_true]

theorem exec_strikeClear_holds (short : (s.taper n.val).cleanJobs < (s.taper n.val).strikeRule) : exec (.strikeClear n) s = .next s := by
  show execStrikeClear n s = _
  unfold execStrikeClear
  simp only [Nat.not_le.mpr short, decide_false, Bool.and_false, Bool.false_eq_true, if_false]

end

/-- A taper's place is all that its update changes. -/
theorem State.setTaper_frame (s : State) (t : Nat) (x : Taper) : { s.setTaper t x with tapers := s.tapers } = s := by
  cases s
  rfl

theorem State.setTaper_setEntry_frame (s : State) (t : Nat) (x : Taper) (k v : Nat) : { (s.setTaper t x).setEntry k v with tapers := s.tapers, dict := s.dict } = s := by
  cases s
  rfl

/-- Settles O59: each word of the sequencer by where its operation goes, a word that faults by its check, and waits, wipes and strikes by whether their time has come. -/
theorem taperCommands : Obligations.TaperCommands := by
  unfold Obligations.TaperCommands
  refine ⟨fun s n runs unheld unmapped inside => ?_, fun s n => ?_⟩
  · have ready : s.AtRomWord n.val := ⟨runs, unheld, unmapped, inside⟩
    refine ⟨TaperSteps.nop ready, fun t => TaperSteps.jumps ready t.isLt, fun t => TaperSteps.calls ready t.isLt, fun _ _ => TaperSteps.returns ready,
      fun t k => TaperSteps.repeats ready t.isLt k.isLt, fun t k => TaperSteps.leaves ready t.isLt k.isLt, TaperSteps.secondRun ready, TaperSteps.ends ready,
      fun _ _ => TaperSteps.nextMacro ready, TaperSteps.waitHolds ready, fun v bad => ?_, fun v sound slots reads op => ?_⟩
    · exact (exec_taperMicroword_rom ready v .clean).trans (congrArg Host.Outcome.next (State.executeWord_malformed (.inl bad)))
    · exact (exec_taperMicroword_rom ready v .double).trans (congrArg Host.Outcome.next (State.executeWord_double sound (by rw [State.taper_setTaper]; exact slots) op reads))
  · refine ⟨fun v waits runs => ⟨exec_taperWaitRelease_holds waits,
      fun cond word => exec_taperWaitRelease_goesOn waits runs cond (word.trans waitZero_eq.symm),
      fun timed id => exec_taperWaitWatchdog_fires waits runs timed, exec_taperWaitWatchdog_untimed waits⟩, fun due => ?_, exec_taperWipe_idle, fun strike => ⟨fun served => ?_, exec_strikeClear_holds⟩⟩
    · refine ⟨_, exec_taperWipe_done due, ?_⟩
      beta_reduce
      rw [State.taper_setTaper]
      exact ⟨rfl, rfl, rfl, rfl, rfl, s.cleanJobs_wipedTaper n.val, State.setTaper_frame s _ _⟩
    · refine ⟨_, exec_strikeClear_clears strike served, ?_, ?_, State.setTaper_setEntry_frame s _ _ _ _⟩
      · unfold State.flag
        rw [State.entry_setEntry]
        rfl
      · exact State.taper_setTaper ..

end Sys2Proof.Machine
end
